-- ==== Sys2Proof/Word.lean ====
section
/-! DEFINITION. The word types of the LY-720: bytes, 32-bit registers and words, 64-bit pairs, 128-bit quads (R5, R57). -/

namespace Sys2Proof

/-- A byte of memory. -/
abbrev Byte := BitVec 8
/-- An instruction word, a register or a lane's 32-bit value. -/
abbrev Word := BitVec 32
/-- A 64-bit value: an even register pair, an address, a control register. -/
abbrev Pair := BitVec 64
/-- A value of up to four registers, the low word first. -/
abbrev Val := BitVec 128

end Sys2Proof
end

