-- ==== Sys2Proof/Config.lean ====
section
/-! DEFINITION. What one implementation fixes, and the free values: opaque constants without a body, which nothing
can evaluate. A free value is applied to the plain counter `State.free`, or to the operands it depends on. -/

namespace Sys2Proof.Config

/-- Free choice of the next of several transitions that are due at once (log 9). -/
opaque pick : Nat → Nat
/-- Free number of c-cycles that pass in a step (log 10). -/
opaque tick : Nat → Nat
/-- Free 32-bit value of `RAND` (R358, log 10). -/
opaque entropy : Nat → Word
/-- Free answer of a clearance check whose range list is out of order or overlapping (R324, log 14). -/
opaque clearance : Nat → Bool
/-- Free choice of a load between its core's copy and the value below it (R206, log 19): counter, lane. The same of a constant read and of
a fetched code word, by address, lanes lying below 1,024 (R215, R216, log 13). -/
opaque stale : Nat → Nat → Bool
/-- Free choice of the cached translations and clearance answers that the next accesses find (R318, R324, log 19): counter, place in the
list. -/
opaque cached : Nat → Nat → Bool
/-- Free choice of the warps whose run-ahead executes its next instruction in a step (R320, log 18): counter, warp. -/
opaque ahead : Nat → Nat → Bool
/-- Free choice of the lines that the L1 bank which leaves its role held (R195, log 27): counter and bank, unit. -/
opaque evict : Nat → Nat → Bool
/-- Free number of pages that an engine translates ahead of a unit, to be taken modulo 65 (R319, log 27): counter, stream. -/
opaque walk : Nat → Nat → Nat
/-- Free choice of an `MMA` in flight between the old and the new value of a word of its images (R173, log 27): counter, operation and word. -/
opaque early : Nat → Nat → Bool
/-- Free byte read from the capacity tier under another key slot than the one it was written under (R331, log 15). -/
opaque wrongKey : Nat → Nat → Nat → Byte

/-- Row of an HBM byte within its stack, by local physical address: bank and row number (R383 to R385, log 20). -/
opaque rowOf : Nat → Nat × Nat
/-- Channel of an HBM byte, by local physical address (R385, log 20). -/
opaque channelOf : Nat → Nat

/-- Stack number under which the error log names memory that is no HBM (log 20). -/
opaque errUnit : Nat → Nat
/-- Free outcome of a bring-up step (R407, log 21): start count, step, unit. -/
opaque bringUp : Nat → Nat → Nat → Bool
/-- Free choice of the host's link partner at a start (R395, log 21): start count; true for CXL. -/
opaque hostLink : Nat → Bool
/-- Populated bytes of the module's LPDDR, and of a CXL window, of a package (R394, R400, log 21). -/
opaque lpddrBytes : Nat → Nat
opaque cxlBytes : Nat → Nat → Nat
/-- Free bytes that an agent outside leaves where the layout of its flit is not given (R397, log 22). -/
opaque flitByte : Nat → Nat → Byte

/-- The device's revision of Depra (R79). -/
def revision : Nat := 1

end Sys2Proof.Config
end

