-- ==== Sys2Proof/Machine/Cause.lean ====
section
/-! DEFINITION. The cause codes of traps, refusals and engine faults (R339). -/

namespace Sys2Proof.Machine

/-- A cause of R339. -/
inductive Cause where
  | illegalEncoding | reservedField | badTarget | privilege | windowRange
  | pageFault | access | tagDenied | recordInvalid | recordOverlap | bounds | misaligned | sealedSet | accUnalloc | shape
  | stall | lockBusy | replMismatch | replOutvoted | memPoison | orphanPosted | launchRevision | duplicateSymbol
  | fpTrap | userTrap
deriving DecidableEq, Repr

/-- The code of a cause (R339). -/
def causeCode : Cause → Nat
  | .illegalEncoding => 0x01 | .reservedField => 0x02 | .badTarget => 0x03 | .privilege => 0x04 | .windowRange => 0x05
  | .pageFault => 0x08 | .access => 0x09 | .tagDenied => 0x0A | .recordInvalid => 0x0B | .recordOverlap => 0x0C
  | .bounds => 0x0D | .misaligned => 0x0E | .sealedSet => 0x0F | .accUnalloc => 0x10 | .shape => 0x11
  | .stall => 0x18 | .lockBusy => 0x1C | .replMismatch => 0x20 | .replOutvoted => 0x21 | .memPoison => 0x24
  | .orphanPosted => 0x28 | .launchRevision => 0x2C | .duplicateSymbol => 0x2D | .fpTrap => 0x30 | .userTrap => 0x31

end Sys2Proof.Machine
end

