-- ==== Sys2Proof/Machine/Maps.lean ====
section
/-! DEFINITION. Sparse plain data: tables keyed by a number and byte or word maps with a default of zero. Both are lists
with strictly rising keys; a map lists no zero value, so equal maps are equal lists. -/

namespace Sys2Proof.Machine

/-- A table: pairs of a key and an entry, keys strictly rising. -/
abbrev Tbl (α : Type) := List (Nat × α)
/-- A map of numbers to bit vectors, keys strictly rising, no value zero; every unlisted key reads zero. -/
abbrev BMap (w : Nat) := List (Nat × BitVec w)

/-- The entry of a key. -/
def tblGet? {α : Type} : Tbl α → Nat → Option α
  | [], _ => none
  | (k, v) :: t, i => if k = i then some v else tblGet? t i

/-- The entry of a key, or the default entry. -/
def tblGet {α : Type} [Inhabited α] (t : Tbl α) (i : Nat) : α := (tblGet? t i).getD default

/-- The table with an entry placed. -/
def tblSet {α : Type} : Tbl α → Nat → α → Tbl α
  | [], i, v => [(i, v)]
  | (k, u) :: t, i, v =>
    if k = i then (i, v) :: t else if i < k then (i, v) :: (k, u) :: t else (k, u) :: tblSet t i v

/-- The table without an entry. -/
def tblDel {α : Type} : Tbl α → Nat → Tbl α
  | [], _ => []
  | (k, u) :: t, i => if k = i then t else (k, u) :: tblDel t i

/-- The table with an entry changed, where it is present. -/
def tblUpd {α : Type} : Tbl α → Nat → (α → α) → Tbl α
  | [], _, _ => []
  | (k, u) :: t, i, f => if k = i then (k, f u) :: t else (k, u) :: tblUpd t i f

/-- Every entry changed. -/
def tblMap {α β : Type} (t : Tbl α) (f : Nat → α → β) : Tbl β := t.map fun e => (e.1, f e.1 e.2)

/-- Keys strictly rising. -/
def keysRise {α : Type} : Tbl α → Bool
  | [] => true
  | [_] => true
  | (k, _) :: (k', v) :: t => decide (k < k') && keysRise ((k', v) :: t)

/-- The value of a key. -/
def bmGet {w : Nat} : BMap w → Nat → BitVec w
  | [], _ => 0
  | (k, v) :: t, i => if k = i then v else bmGet t i

/-- The map with a value written; a zero is not listed. -/
def bmSet {w : Nat} (m : BMap w) (i : Nat) (v : BitVec w) : BMap w :=
  if v = 0 then m.filter fun e => e.1 != i else tblSet m i v

/-- Several values written in order. -/
def bmSetAll {w : Nat} (m : BMap w) : List (Nat × BitVec w) → BMap w
  | [] => m
  | (i, v) :: l => bmSetAll (bmSet m i v) l

/-- No value zero. -/
def noZero {w : Nat} : BMap w → Bool
  | [] => true
  | (_, v) :: t => decide (v ≠ 0) && noZero t

/-- The canonical form of a map. -/
def bmWf {w : Nat} (m : BMap w) : Bool := keysRise m && noZero m

/-- Values of keys b to b + n − 1. -/
def bmList {w : Nat} (m : BMap w) (b n : Nat) : List (BitVec w) := (List.range n).map fun k => bmGet m (b + k)

/-- A number from bytes, least significant first (R5). -/
def leNat : List Byte → Nat
  | [] => 0
  | b :: t => b.toNat + 256 * leNat t

/-- n bytes of a number, least significant first (R5). -/
def leBytes : Nat → Nat → List Byte
  | 0, _ => []
  | n + 1, v => BitVec.ofNat 8 v :: leBytes n (v / 256)

/-- Bits hi to lo of a number. -/
def bitsOf (v hi lo : Nat) : Nat := v / 2 ^ lo % 2 ^ (hi + 1 - lo)

/-- Insertion into a sorted list of numbers without repeats. -/
def insNat (x : Nat) : List Nat → List Nat
  | [] => [x]
  | y :: t => if x = y then y :: t else if x < y then x :: y :: t else y :: insNat x t

/-- The numbers of a list, sorted, each once. -/
def sortNat (l : List Nat) : List Nat := l.foldr insNat []

/-- The smallest number of a list. -/
def minNat? : List Nat → Option Nat
  | [] => none
  | x :: t => match minNat? t with | none => some x | some y => some (min x y)

end Sys2Proof.Machine
end

