-- ==== Sys2Proof/Syntax.lean ====
section
/-! DEFINITION. The instructions and events of the LY-720: one constructor for each row of spec/opcode_table.json.
Fields of an instruction word keep the table's names: p guard, d, a and b the operand fields, i an immediate, o a branch
offset, s a scope, n a uniform number, k a selecting predicate or descriptor number, f the bits of `MOVF`.
Rows without a word are events of the device; what takes part in an event stands in `State.arg`. -/

namespace Sys2Proof

/-- One constructor for each row of the opcode table. -/
inductive Instr where
  /-- `add.i32` (R84). Adds two 32-bit values modulo 2^32 in each active member. -/
  | addI32 (p : BitVec 3) (d : BitVec 7) (a : BitVec 7) (b : BitVec 7)
  /-- `sub.i32` (R84). Subtracts two 32-bit values modulo 2^32. -/
  | subI32 (p : BitVec 3) (d : BitVec 7) (a : BitVec 7) (b : BitVec 7)
  /-- `addc` (R85). 32-bit add with carry in and carry out through p6. -/
  | addc (p : BitVec 3) (d : BitVec 7) (a : BitVec 7) (b : BitVec 7)
  /-- `subb` (R85). 32-bit subtract with borrow in and borrow out through p6. -/
  | subb (p : BitVec 3) (d : BitVec 7) (a : BitVec 7) (b : BitVec 7)
  /-- `add.i64` (R87). Adds two 64-bit register pairs modulo 2^64. -/
  | addI64 (p : BitVec 3) (d : BitVec 7) (a : BitVec 7) (b : BitVec 7)
  /-- `sub.i64` (R87). Subtracts two 64-bit register pairs modulo 2^64. -/
  | subI64 (p : BitVec 3) (d : BitVec 7) (a : BitVec 7) (b : BitVec 7)
  /-- `addc.i64` (R85). 64-bit add with carry through p6. -/
  | addcI64 (p : BitVec 3) (d : BitVec 7) (a : BitVec 7) (b : BitVec 7)
  /-- `subb.i64` (R85). 64-bit subtract with borrow through p6. -/
  | subbI64 (p : BitVec 3) (d : BitVec 7) (a : BitVec 7) (b : BitVec 7)
  /-- `mullo` (R84). Writes the low 32 bits of a product. -/
  | mullo (p : BitVec 3) (d : BitVec 7) (a : BitVec 7) (b : BitVec 7)
  /-- `mulhi.us` (R84). Writes the high 32 bits of an unsigned product. -/
  | mulhiUs (p : BitVec 3) (d : BitVec 7) (a : BitVec 7) (b : BitVec 7)
  /-- `mulhi.sg` (R84). Writes the high 32 bits of a signed product. -/
  | mulhiSg (p : BitVec 3) (d : BitVec 7) (a : BitVec 7) (b : BitVec 7)
  /-- `mad` (R84). Multiplies and adds into D modulo 2^32. -/
  | mad (p : BitVec 3) (d : BitVec 7) (a : BitVec 7) (b : BitVec 7)
  /-- `and` (R84). Bitwise and of two values. -/
  | andB (p : BitVec 3) (d : BitVec 7) (a : BitVec 7) (b : BitVec 7)
  /-- `or` (R84). Bitwise or of two values. -/
  | orB (p : BitVec 3) (d : BitVec 7) (a : BitVec 7) (b : BitVec 7)
  /-- `xor` (R84). Bitwise exclusive or of two values. -/
  | xorB (p : BitVec 3) (d : BitVec 7) (a : BitVec 7) (b : BitVec 7)
  /-- `not` (R84). Writes the bitwise complement of source A. -/
  | notB (p : BitVec 3) (d : BitVec 7) (a : BitVec 7)
  /-- `shl` (R84). Shifts left, giving zero for counts of 32 or more. -/
  | shl (p : BitVec 3) (d : BitVec 7) (a : BitVec 7) (b : BitVec 7)
  /-- `shr` (R84). Shifts right logically. -/
  | shr (p : BitVec 3) (d : BitVec 7) (a : BitVec 7) (b : BitVec 7)
  /-- `sar` (R84). Shifts right arithmetically. -/
  | sar (p : BitVec 3) (d : BitVec 7) (a : BitVec 7) (b : BitVec 7)
  /-- `rot` (R84). Rotates towards the most significant bit by the count mod 32. -/
  | rot (p : BitVec 3) (d : BitVec 7) (a : BitVec 7) (b : BitVec 7)
  /-- `min.sg` (R84). Signed minimum. -/
  | minSg (p : BitVec 3) (d : BitVec 7) (a : BitVec 7) (b : BitVec 7)
  /-- `min.us` (R84). Unsigned minimum. -/
  | minUs (p : BitVec 3) (d : BitVec 7) (a : BitVec 7) (b : BitVec 7)
  /-- `max.sg` (R84). Signed maximum. -/
  | maxSg (p : BitVec 3) (d : BitVec 7) (a : BitVec 7) (b : BitVec 7)
  /-- `max.us` (R84). Unsigned maximum. -/
  | maxUs (p : BitVec 3) (d : BitVec 7) (a : BitVec 7) (b : BitVec 7)
  /-- `abs` (R84). Writes the absolute value modulo 2^32. -/
  | abs (p : BitVec 3) (d : BitVec 7) (a : BitVec 7)
  /-- `neg` (R84). Writes the two's-complement negation. -/
  | neg (p : BitVec 3) (d : BitVec 7) (a : BitVec 7)
  /-- `clz` (R84). Counts leading zero bits. -/
  | clz (p : BitVec 3) (d : BitVec 7) (a : BitVec 7)
  /-- `popc` (R84). Counts one bits. -/
  | popc (p : BitVec 3) (d : BitVec 7) (a : BitVec 7)
  /-- `brev` (R84). Reverses the bit order of a 32-bit value. -/
  | brev (p : BitVec 3) (d : BitVec 7) (a : BitVec 7)
  /-- `bfx.us` (R86). Extracts a bit field zero-extended. -/
  | bfxUs (p : BitVec 3) (d : BitVec 7) (a : BitVec 7) (b : BitVec 7)
  /-- `bfx.sg` (R86). Extracts a bit field sign-extended. -/
  | bfxSg (p : BitVec 3) (d : BitVec 7) (a : BitVec 7) (b : BitVec 7)
  /-- `bfi` (R86). Inserts bits of A into a field of D. -/
  | bfi (p : BitVec 3) (d : BitVec 7) (a : BitVec 7) (b : BitVec 7)
  /-- `sel` (R91). Selects A or B per thread by the predicate named in PRED; never guarded. -/
  | sel (k : BitVec 3) (d : BitVec 7) (a : BitVec 7) (b : BitVec 7)
  /-- `cmp.sg` (R89). Signed 32-bit compare writing one predicate. -/
  | cmpSg (p : BitVec 3) (d : BitVec 7) (a : BitVec 7) (b : BitVec 7)
  /-- `cmp.us` (R89). Unsigned 32-bit compare writing one predicate. -/
  | cmpUs (p : BitVec 3) (d : BitVec 7) (a : BitVec 7) (b : BitVec 7)
  /-- `cmp.i64` (R89). 64-bit compare, signed or unsigned, writing one predicate. -/
  | cmpI64 (p : BitVec 3) (d : BitVec 7) (a : BitVec 7) (b : BitVec 7)
  /-- `pand` (R90). And of two optionally inverted predicates. -/
  | pand (p : BitVec 3) (d : BitVec 7) (a : BitVec 7) (b : BitVec 7)
  /-- `por` (R90). Or of two optionally inverted predicates. -/
  | por (p : BitVec 3) (d : BitVec 7) (a : BitVec 7) (b : BitVec 7)
  /-- `pxor` (R90). Exclusive or of two optionally inverted predicates. -/
  | pxor (p : BitVec 3) (d : BitVec 7) (a : BitVec 7) (b : BitVec 7)
  /-- `pnot` (R90). Writes the complement of an optionally inverted predicate. -/
  | pnot (p : BitVec 3) (d : BitVec 7) (a : BitVec 7)
  /-- `mov` (R84). Copies a 32-bit value. -/
  | mov (p : BitVec 3) (d : BitVec 7) (a : BitVec 7)
  /-- `smov` (R88). Writes an operand value into uniform register sN, s0 to s63. -/
  | smovToUniform (p : BitVec 3) (d : BitVec 7) (a : BitVec 7)
  /-- `smov` (R88). Reads uniform register sN into an operand destination. -/
  | smovFromUniform (p : BitVec 3) (d : BitVec 7) (a : BitVec 7)
  /-- `mov.i64` (R87). Copies a 64-bit register pair. -/
  | movI64 (p : BitVec 3) (d : BitVec 7) (a : BitVec 7)
  /-- `lea` (R92). Adds a scaled signed index to a 64-bit address. -/
  | lea (p : BitVec 3) (d : BitVec 7) (a : BitVec 7) (b : BitVec 7)
  /-- `idx2` (R93). Computes the byte offset of a tensor-record element without accessing memory. -/
  | idx2 (p : BitVec 3) (d : BitVec 7) (a : BitVec 7) (b : BitVec 7)
  /-- `shl.i64` (R87). Shifts a 64-bit pair left. -/
  | shlI64 (p : BitVec 3) (d : BitVec 7) (a : BitVec 7) (b : BitVec 7)
  /-- `shr.i64` (R87). Shifts a 64-bit pair right logically. -/
  | shrI64 (p : BitVec 3) (d : BitVec 7) (a : BitVec 7) (b : BitVec 7)
  /-- `sar.i64` (R87). Shifts a 64-bit pair right arithmetically. -/
  | sarI64 (p : BitVec 3) (d : BitVec 7) (a : BitVec 7) (b : BitVec 7)
  /-- `movi` (R84). Writes a sign-extended 9-bit immediate. -/
  | movi (p : BitVec 3) (d : BitVec 7) (i : BitVec 9)
  /-- `add.i32` (R84). Adds a sign-extended 9-bit immediate to A. -/
  | addI32Immediate (p : BitVec 3) (d : BitVec 7) (a : BitVec 7) (i : BitVec 9)
  /-- `fadd.f32` (R134). FP32 addition rounded once. -/
  | faddF32 (p : BitVec 3) (d : BitVec 7) (a : BitVec 7) (b : BitVec 7)
  /-- `fsub.f32` (R134). FP32 subtraction rounded once. -/
  | fsubF32 (p : BitVec 3) (d : BitVec 7) (a : BitVec 7) (b : BitVec 7)
  /-- `fmul.f32` (R134). FP32 multiplication rounded once. -/
  | fmulF32 (p : BitVec 3) (d : BitVec 7) (a : BitVec 7) (b : BitVec 7)
  /-- `fmin.f32` (R134). IEEE minimum of two FP32 values. -/
  | fminF32 (p : BitVec 3) (d : BitVec 7) (a : BitVec 7) (b : BitVec 7)
  /-- `fma.f32.d0` (R135). FP32 fused a×b+d with one rounding. -/
  | fmaF32D0 (p : BitVec 3) (d : BitVec 7) (a : BitVec 7) (b : BitVec 7)
  /-- `fma.f32.d1` (R135). FP32 fused d×a+b with one rounding. -/
  | fmaF32D1 (p : BitVec 3) (d : BitVec 7) (a : BitVec 7) (b : BitVec 7)
  /-- `fma.f32.d2` (R135). FP32 fused a×b−d with one rounding. -/
  | fmaF32D2 (p : BitVec 3) (d : BitVec 7) (a : BitVec 7) (b : BitVec 7)
  /-- `fma.f32.d3` (R135). FP32 fused −(a×b)+d with one rounding. -/
  | fmaF32D3 (p : BitVec 3) (d : BitVec 7) (a : BitVec 7) (b : BitVec 7)
  /-- `fmax.f32` (R134). IEEE maximum of two FP32 values. -/
  | fmaxF32 (p : BitVec 3) (d : BitVec 7) (a : BitVec 7) (b : BitVec 7)
  /-- `fcmp.f32` (R136). Compares two FP32 values and writes one predicate. -/
  | fcmpF32 (p : BitVec 3) (d : BitVec 7) (a : BitVec 7) (b : BitVec 7)
  /-- `fclass.f32` (R137). Writes the class mask of an FP32 value. -/
  | fclassF32 (p : BitVec 3) (d : BitVec 7) (a : BitVec 7)
  /-- `fadd.f16` (R134). FP16 pair addition. -/
  | faddF16 (p : BitVec 3) (d : BitVec 7) (a : BitVec 7) (b : BitVec 7)
  /-- `fsub.f16` (R134). FP16 pair subtraction. -/
  | fsubF16 (p : BitVec 3) (d : BitVec 7) (a : BitVec 7) (b : BitVec 7)
  /-- `fmul.f16` (R134). FP16 pair multiplication. -/
  | fmulF16 (p : BitVec 3) (d : BitVec 7) (a : BitVec 7) (b : BitVec 7)
  /-- `fmin.f16` (R134). FP16 pair IEEE minimum. -/
  | fminF16 (p : BitVec 3) (d : BitVec 7) (a : BitVec 7) (b : BitVec 7)
  /-- `fma.f16.d0` (R135). FP16 pair fused a×b+d. -/
  | fmaF16D0 (p : BitVec 3) (d : BitVec 7) (a : BitVec 7) (b : BitVec 7)
  /-- `fma.f16.d1` (R135). FP16 pair fused d×a+b. -/
  | fmaF16D1 (p : BitVec 3) (d : BitVec 7) (a : BitVec 7) (b : BitVec 7)
  /-- `fma.f16.d2` (R135). FP16 pair fused a×b−d. -/
  | fmaF16D2 (p : BitVec 3) (d : BitVec 7) (a : BitVec 7) (b : BitVec 7)
  /-- `fma.f16.d3` (R135). FP16 pair fused −(a×b)+d. -/
  | fmaF16D3 (p : BitVec 3) (d : BitVec 7) (a : BitVec 7) (b : BitVec 7)
  /-- `fmax.f16` (R134). FP16 pair IEEE maximum. -/
  | fmaxF16 (p : BitVec 3) (d : BitVec 7) (a : BitVec 7) (b : BitVec 7)
  /-- `fcmp.f16` (R136). Compares one FP16 half and writes a predicate. -/
  | fcmpF16 (p : BitVec 3) (d : BitVec 7) (a : BitVec 7) (b : BitVec 7)
  /-- `fclass.f16` (R137). Writes class masks of an FP16 pair. -/
  | fclassF16 (p : BitVec 3) (d : BitVec 7) (a : BitVec 7)
  /-- `fadd.bf16` (R134). BF16 pair addition. -/
  | faddBf16 (p : BitVec 3) (d : BitVec 7) (a : BitVec 7) (b : BitVec 7)
  /-- `fsub.bf16` (R134). BF16 pair subtraction. -/
  | fsubBf16 (p : BitVec 3) (d : BitVec 7) (a : BitVec 7) (b : BitVec 7)
  /-- `fmul.bf16` (R134). BF16 pair multiplication. -/
  | fmulBf16 (p : BitVec 3) (d : BitVec 7) (a : BitVec 7) (b : BitVec 7)
  /-- `fmin.bf16` (R134). BF16 pair IEEE minimum. -/
  | fminBf16 (p : BitVec 3) (d : BitVec 7) (a : BitVec 7) (b : BitVec 7)
  /-- `fma.bf16.d0` (R135). BF16 pair fused a×b+d. -/
  | fmaBf16D0 (p : BitVec 3) (d : BitVec 7) (a : BitVec 7) (b : BitVec 7)
  /-- `fma.bf16.d1` (R135). BF16 pair fused d×a+b. -/
  | fmaBf16D1 (p : BitVec 3) (d : BitVec 7) (a : BitVec 7) (b : BitVec 7)
  /-- `fma.bf16.d2` (R135). BF16 pair fused a×b−d. -/
  | fmaBf16D2 (p : BitVec 3) (d : BitVec 7) (a : BitVec 7) (b : BitVec 7)
  /-- `fma.bf16.d3` (R135). BF16 pair fused −(a×b)+d. -/
  | fmaBf16D3 (p : BitVec 3) (d : BitVec 7) (a : BitVec 7) (b : BitVec 7)
  /-- `fmax.bf16` (R134). BF16 pair IEEE maximum. -/
  | fmaxBf16 (p : BitVec 3) (d : BitVec 7) (a : BitVec 7) (b : BitVec 7)
  /-- `fcmp.bf16` (R136). Compares one BF16 half and writes a predicate. -/
  | fcmpBf16 (p : BitVec 3) (d : BitVec 7) (a : BitVec 7) (b : BitVec 7)
  /-- `fclass.bf16` (R137). Writes class masks of a BF16 pair. -/
  | fclassBf16 (p : BitVec 3) (d : BitVec 7) (a : BitVec 7)
  /-- `frcp` (R138). FP32 reciprocal rounded once. -/
  | frcp (p : BitVec 3) (d : BitVec 7) (a : BitVec 7)
  /-- `frsq` (R138). FP32 reciprocal square root rounded once. -/
  | frsq (p : BitVec 3) (d : BitVec 7) (a : BitVec 7)
  /-- `fsqrt` (R138). FP32 square root rounded once. -/
  | fsqrt (p : BitVec 3) (d : BitVec 7) (a : BitVec 7)
  /-- `fdiv` (R138). FP32 division rounded once. -/
  | fdiv (p : BitVec 3) (d : BitVec 7) (a : BitVec 7) (b : BitVec 7)
  /-- `fex2` (R138). FP32 base-2 exponential rounded once. -/
  | fex2 (p : BitVec 3) (d : BitVec 7) (a : BitVec 7)
  /-- `flg2` (R138). FP32 base-2 logarithm rounded once. -/
  | flg2 (p : BitVec 3) (d : BitVec 7) (a : BitVec 7)
  /-- `fsin` (R138). FP32 sine of a half-turn argument. -/
  | fsin (p : BitVec 3) (d : BitVec 7) (a : BitVec 7)
  /-- `fcos` (R138). FP32 cosine of a half-turn argument. -/
  | fcos (p : BitVec 3) (d : BitVec 7) (a : BitVec 7)
  /-- `frint.rn` (R140). Rounds FP32 to an integral value, nearest even. -/
  | frintRn (p : BitVec 3) (d : BitVec 7) (a : BitVec 7)
  /-- `frint.rz` (R140). Rounds FP32 to an integral value toward zero. -/
  | frintRz (p : BitVec 3) (d : BitVec 7) (a : BitVec 7)
  /-- `frint.rp` (R140). Rounds FP32 to an integral value upward. -/
  | frintRp (p : BitVec 3) (d : BitVec 7) (a : BitVec 7)
  /-- `frint.rm` (R140). Rounds FP32 to an integral value downward. -/
  | frintRm (p : BitVec 3) (d : BitVec 7) (a : BitVec 7)
  /-- `dadd` (R142). FP64 addition of register pairs. -/
  | dadd (p : BitVec 3) (d : BitVec 7) (a : BitVec 7) (b : BitVec 7)
  /-- `dmul` (R142). FP64 multiplication of register pairs. -/
  | dmul (p : BitVec 3) (d : BitVec 7) (a : BitVec 7) (b : BitVec 7)
  /-- `dfma` (R142). FP64 fused multiply-add with one rounding. -/
  | dfma (p : BitVec 3) (d : BitVec 7) (a : BitVec 7) (b : BitVec 7)
  /-- `dcvt.f64.f32` (R143). Widens FP32 to FP64 exactly. -/
  | dcvtF64F32 (p : BitVec 3) (d : BitVec 7) (a : BitVec 7)
  /-- `dcvt.f32.f64` (R143). Narrows FP64 to FP32 under FPCTL RM. -/
  | dcvtF32F64 (p : BitVec 3) (d : BitVec 7) (a : BitVec 7)
  /-- `dcvt.f64.s64` (R143). Converts a signed 64-bit integer to FP64. -/
  | dcvtF64S64 (p : BitVec 3) (d : BitVec 7) (a : BitVec 7)
  /-- `dcvt.s64.f64` (R144). Converts FP64 to a signed 64-bit integer with saturation. -/
  | dcvtS64F64 (p : BitVec 3) (d : BitVec 7) (a : BitVec 7)
  /-- `cvt.rn` (R146). Converts between FP32, FP16, BF16 and integers, nearest even. -/
  | cvtRn (p : BitVec 3) (d : BitVec 7) (a : BitVec 7) (b : BitVec 7)
  /-- `cvt.rz` (R146). Converts between FP32, FP16, BF16 and integers, toward zero. -/
  | cvtRz (p : BitVec 3) (d : BitVec 7) (a : BitVec 7) (b : BitVec 7)
  /-- `cvt.rp` (R146). Converts between FP32, FP16, BF16 and integers, upward. -/
  | cvtRp (p : BitVec 3) (d : BitVec 7) (a : BitVec 7) (b : BitVec 7)
  /-- `cvt.rm` (R146). Converts between FP32, FP16, BF16 and integers, downward. -/
  | cvtRm (p : BitVec 3) (d : BitVec 7) (a : BitVec 7) (b : BitVec 7)
  /-- `cvtn` (R147). Converts FP32 into a narrow element at a position of D, optionally stochastically. -/
  | cvtn (p : BitVec 3) (d : BitVec 7) (a : BitVec 7) (b : BitVec 7) (k : BitVec 2)
  /-- `cvtw` (R149). Widens one narrow element to FP32. -/
  | cvtw (p : BitVec 3) (d : BitVec 7) (a : BitVec 7) (b : BitVec 7) (k : BitVec 2)
  /-- `bsext` (R150). Computes an E8 block scale byte. -/
  | bsext (p : BitVec 3) (d : BitVec 7) (a : BitVec 7) (b : BitVec 7)
  /-- `bsapp` (R151). Applies an E8 scale to an FP32 value. -/
  | bsapp (p : BitVec 3) (d : BitVec 7) (a : BitVec 7) (b : BitVec 7)
  /-- `compress` (R152). Keeps the two largest of four 16-bit values and their indices. -/
  | compress (p : BitVec 3) (d : BitVec 7) (a : BitVec 7)
  /-- `expand` (R153). Places two 16-bit values at given indices of a zero 64-bit pair. -/
  | expand (p : BitVec 3) (d : BitVec 7) (a : BitVec 7) (b : BitVec 7)
  /-- `qswp.h` (R155). Reads A from the quad-mate in lane xor 1. -/
  | qswpH (p : BitVec 3) (d : BitVec 7) (a : BitVec 7)
  /-- `qswp.v` (R155). Reads A from the quad-mate in lane xor 2. -/
  | qswpV (p : BitVec 3) (d : BitVec 7) (a : BitVec 7)
  /-- `qswp.d` (R155). Reads A from the quad-mate in lane xor 3. -/
  | qswpD (p : BitVec 3) (d : BitVec 7) (a : BitVec 7)
  /-- `elect` (R158). Sets a predicate true in the lowest-lane participant of each warp. -/
  | elect (p : BitVec 3) (d : BitVec 7)
  /-- `vote.any` (R156). Writes whether a predicate holds in any participant. -/
  | voteAny (p : BitVec 3) (d : BitVec 7) (a : BitVec 7)
  /-- `vote.all` (R156). Writes whether a predicate holds in every participant. -/
  | voteAll (p : BitVec 3) (d : BitVec 7) (a : BitVec 7)
  /-- `vote.ballot` (R156). Writes a 64-bit mask of participants whose predicate is true. -/
  | voteBallot (p : BitVec 3) (d : BitVec 7) (a : BitVec 7)
  /-- `match` (R157). Writes a mask of participants holding a bitwise-equal value. -/
  | matchAny (p : BitVec 3) (d : BitVec 7) (a : BitVec 7)
  /-- `redux.i32` (R160). Signed integer reduction over a warp's participants. -/
  | reduxI32 (p : BitVec 3) (d : BitVec 7) (a : BitVec 7) (b : BitVec 7)
  /-- `redux.us` (R160). Unsigned integer reduction over a warp's participants. -/
  | reduxUs (p : BitVec 3) (d : BitVec 7) (a : BitVec 7) (b : BitVec 7)
  /-- `redux.f32` (R160). FP32 reduction over the fixed tree of participants. -/
  | reduxF32 (p : BitVec 3) (d : BitVec 7) (a : BitVec 7) (b : BitVec 7)
  /-- `scan.i32` (R160). Signed integer prefix scan over participants. -/
  | scanI32 (p : BitVec 3) (d : BitVec 7) (a : BitVec 7) (b : BitVec 7)
  /-- `scan.us` (R160). Unsigned integer prefix scan over participants. -/
  | scanUs (p : BitVec 3) (d : BitVec 7) (a : BitVec 7) (b : BitVec 7)
  /-- `scan.f32` (R160). FP32 prefix scan over the fixed tree. -/
  | scanF32 (p : BitVec 3) (d : BitVec 7) (a : BitVec 7) (b : BitVec 7)
  /-- `movf` (R70). Writes an FP32 immediate whose low 12 bits are zero; unguarded. -/
  | movf (d : BitVec 7) (f : BitVec 20)
  /-- `PERMUTATION_PREFIX` (R59). Sets lane-permutation patterns for sources A and B of the next body word. -/
  | permutationPrefix (a : BitVec 9) (b : BitVec 9)
  /-- `ld.b32` (R102). Loads a 32-bit word from global memory; long-latency. -/
  | ldB32 (p : BitVec 3) (d : BitVec 7) (a : BitVec 7) (i : BitVec 9)
  /-- `st.b32` (R103). Stores a 32-bit word to global memory. -/
  | stB32 (p : BitVec 3) (d : BitVec 7) (a : BitVec 7) (i : BitVec 9)
  /-- `ld.b64` (R102). Loads 8 bytes into a register pair. -/
  | ldB64 (p : BitVec 3) (d : BitVec 7) (a : BitVec 7) (b : BitVec 7)
  /-- `st.b64` (R103). Stores 8 bytes from a register pair. -/
  | stB64 (p : BitVec 3) (d : BitVec 7) (a : BitVec 7) (b : BitVec 7)
  /-- `ld.b128` (R102). Loads 16 bytes into four registers as two atomic halves. -/
  | ldB128 (p : BitVec 3) (d : BitVec 7) (a : BitVec 7) (b : BitVec 7)
  /-- `st.b128` (R103). Stores 16 bytes from four registers. -/
  | stB128 (p : BitVec 3) (d : BitVec 7) (a : BitVec 7) (b : BitVec 7)
  /-- `ld.b8` (R102). Loads one byte zero-extended. -/
  | ldB8 (p : BitVec 3) (d : BitVec 7) (a : BitVec 7) (b : BitVec 7)
  /-- `ld.b16` (R102). Loads two bytes zero-extended. -/
  | ldB16 (p : BitVec 3) (d : BitVec 7) (a : BitVec 7) (b : BitVec 7)
  /-- `st.b8` (R103). Stores the low byte of D. -/
  | stB8 (p : BitVec 3) (d : BitVec 7) (a : BitVec 7) (b : BitVec 7)
  /-- `st.b16` (R103). Stores the low 16 bits of D. -/
  | stB16 (p : BitVec 3) (d : BitVec 7) (a : BitVec 7) (b : BitVec 7)
  /-- `lds.b32` (R100). Loads a 32-bit scratchpad word. -/
  | ldsB32 (p : BitVec 3) (d : BitVec 7) (a : BitVec 7) (b : BitVec 7)
  /-- `sts.b32` (R103). Stores a 32-bit scratchpad word, leaving its full/empty bit. -/
  | stsB32 (p : BitVec 3) (d : BitVec 7) (a : BitVec 7) (b : BitVec 7)
  /-- `lds.b64` (R100). Loads 8 scratchpad bytes into a pair. -/
  | ldsB64 (p : BitVec 3) (d : BitVec 7) (a : BitVec 7) (b : BitVec 7)
  /-- `sts.b64` (R103). Stores 8 bytes to scratchpad. -/
  | stsB64 (p : BitVec 3) (d : BitVec 7) (a : BitVec 7) (b : BitVec 7)
  /-- `ldc.b32` (R106). Loads a 32-bit word through the constant path. -/
  | ldcB32 (p : BitVec 3) (d : BitVec 7) (a : BitVec 7) (b : BitVec 7)
  /-- `ldc.b64` (R106). Loads 8 bytes through the constant path. -/
  | ldcB64 (p : BitVec 3) (d : BitVec 7) (a : BitVec 7) (b : BitVec 7)
  /-- `pref` (R107). Requests a line into L1 or shared cache with no architectural effect. -/
  | pref (p : BitVec 3) (d : BitVec 7) (a : BitVec 7) (b : BitVec 7)
  /-- `ldr.b32` (R114). Loads one 32-bit unit of elements through a tensor record named by immediate. -/
  | ldrB32 (p : BitVec 3) (d : BitVec 7) (a : BitVec 7) (i : BitVec 8)
  /-- `ldr.b32` (R114). Loads one 32-bit unit through a tensor record named by a uniform register. -/
  | ldrB32Uniform (p : BitVec 3) (d : BitVec 7) (a : BitVec 7) (n : BitVec 4)
  /-- `str.b32` (R114). Stores one 32-bit unit of elements through a tensor record named by immediate. -/
  | strB32 (p : BitVec 3) (d : BitVec 7) (a : BitVec 7) (i : BitVec 8)
  /-- `str.b32` (R114). Stores one 32-bit unit through a tensor record named by a uniform register. -/
  | strB32Uniform (p : BitVec 3) (d : BitVec 7) (a : BitVec 7) (n : BitVec 4)
  /-- `atom.b32` (R226). Performs a 32-bit returning atomic at the serialisation point. -/
  | atomB32 (p : BitVec 3) (d : BitVec 7) (a : BitVec 7) (b : BitVec 7)
  /-- `cas.b32` (R226). 32-bit compare-and-swap returning the old value. -/
  | casB32 (p : BitVec 3) (d : BitVec 7) (a : BitVec 7) (s : BitVec 3)
  /-- `atom.b64` (R226). Performs a 64-bit returning atomic. -/
  | atomB64 (p : BitVec 3) (d : BitVec 7) (a : BitVec 7) (b : BitVec 7)
  /-- `cas.b64` (R226). 64-bit compare-and-swap returning the old value. -/
  | casB64 (p : BitVec 3) (d : BitVec 7) (a : BitVec 7) (s : BitVec 3)
  /-- `red.b32` (R228). Non-returning 32-bit reduction, posted on a page fault. -/
  | redB32 (p : BitVec 3) (d : BitVec 7) (a : BitVec 7) (b : BitVec 7)
  /-- `red.b64` (R228). Non-returning 64-bit reduction, posted on a page fault. -/
  | redB64 (p : BitVec 3) (d : BitVec 7) (a : BitVec 7) (b : BitVec 7)
  /-- `fatom` (R230). Returning floating-point atomic at the home ALU. -/
  | fatom (p : BitVec 3) (d : BitVec 7) (a : BitVec 7) (b : BitVec 7)
  /-- `fatom.nr` (R230). Non-returning floating-point atomic. -/
  | fatomNr (p : BitVec 3) (d : BitVec 7) (a : BitVec 7) (b : BitVec 7)
  /-- `mcas` (R234). Multi-word compare-and-swap of up to eight words from a parameter block. -/
  | mcas (p : BitVec 3) (d : BitVec 7) (a : BitVec 7)
  /-- `tshape` (R165). Requests a matrix shape and sets the warp's granted shape. -/
  | tshape (p : BitVec 3) (d : BitVec 7) (a : BitVec 7)
  /-- `tld` (R177). Loads a tile register from memory through a record. -/
  | tld (p : BitVec 3) (d : BitVec 7) (a : BitVec 7) (b : BitVec 7)
  /-- `tst` (R177). Stores a tile register to memory through a record. -/
  | tst (p : BitVec 3) (d : BitVec 7) (a : BitVec 7) (b : BitVec 7)
  /-- `tmov` (R178). Copies a tile image between a tile register and the operand buffer. -/
  | tmov (p : BitVec 3) (d : BitVec 7) (a : BitVec 7)
  /-- `mma.bf16` (R171). BF16 matrix multiply-accumulate into an accumulator bank. -/
  | mmaBf16 (p : BitVec 3) (d : BitVec 7) (a : BitVec 7) (b : BitVec 7)
  /-- `mma.f16` (R171). FP16 matrix multiply-accumulate into an accumulator bank. -/
  | mmaF16 (p : BitVec 3) (d : BitVec 7) (a : BitVec 7) (b : BitVec 7)
  /-- `mma.nf` (R171). Narrow-format matrix multiply-accumulate. -/
  | mmaNf (p : BitVec 3) (d : BitVec 7) (a : BitVec 7) (b : BitVec 7)
  /-- `mmasp.bf16` (R172). BF16 2:4 sparse matrix multiply-accumulate. -/
  | mmaspBf16 (p : BitVec 3) (d : BitVec 7) (a : BitVec 7) (b : BitVec 7)
  /-- `mmasp.f16` (R172). FP16 2:4 sparse matrix multiply-accumulate. -/
  | mmaspF16 (p : BitVec 3) (d : BitVec 7) (a : BitVec 7) (b : BitVec 7)
  /-- `mmasp.nf` (R172). Narrow 2:4 sparse matrix multiply-accumulate. -/
  | mmaspNf (p : BitVec 3) (d : BitVec 7) (a : BitVec 7) (b : BitVec 7)
  /-- `acalloc` (R180). Allocates an accumulator bank from the holder's reserved set. -/
  | acalloc (p : BitVec 3) (d : BitVec 7) (a : BitVec 7)
  /-- `acfree` (R180). Requests release of a held accumulator bank. -/
  | acfree (p : BitVec 3) (a : BitVec 7)
  /-- `aczero` (R181). Writes +0 to every data word of a writable bank. -/
  | aczero (p : BitVec 3) (a : BitVec 7)
  /-- `acrd` (R181). Reads one accumulator word per member, zero with ACUR if unreadable. -/
  | acrd (p : BitVec 3) (d : BitVec 7) (a : BitVec 7)
  /-- `acwr` (R181). Writes one accumulator word per member. -/
  | acwr (p : BitVec 3) (d : BitVec 7) (a : BitVec 7)
  /-- `accvt` (R182). Converts a 16-row block of a bank into a tile image. -/
  | accvt (p : BitVec 3) (d : BitVec 7) (a : BitVec 7)
  /-- `acseed` (R183). Seeds the 128 stochastic generator words of a bank. -/
  | acseed (p : BitVec 3) (d : BitVec 7) (a : BitVec 7)
  /-- `acqry` (R183). Returns a bank mask or the granted shape. -/
  | acqry (p : BitVec 3) (d : BitVec 7) (a : BitVec 7)
  /-- `bra` (R95). Branches to a PC-relative clause header. -/
  | bra (p : BitVec 3) (o : BitVec 23)
  /-- `nop` (R97). Has no effect. -/
  | nop (p : BitVec 3)
  /-- `brc.any` (R95). Branches the voting set if the predicate holds in any of its warp's members. -/
  | brcAny (p : BitVec 3) (d : BitVec 7) (a : BitVec 7)
  /-- `brc.all` (R95). Branches the voting set if the predicate holds in all its warp's members. -/
  | brcAll (p : BitVec 3) (d : BitVec 7) (a : BitVec 7)
  /-- `call` (R95). Writes the link pair and transfers to a relative target. -/
  | call (p : BitVec 3) (d : BitVec 7) (a : BitVec 7)
  /-- `ret` (R95). Transfers to the address in a register pair. -/
  | ret (p : BitVec 3) (a : BitVec 7)
  /-- `jmpi` (R95). Transfers to the address in a register pair. -/
  | jmpi (p : BitVec 3) (a : BitVec 7)
  /-- `exit` (R96). Ends each active member at the clause end. -/
  | exitT (p : BitVec 3)
  /-- `yield` (R97). Makes the warp yield its issue turn after the clause. -/
  | yield (p : BitVec 3)
  /-- `conv` (R98). Holds the clause until every present thread of the warp stands at it. -/
  | convW
  /-- `wbase` (R99). Sets the warp's window base for later clauses. -/
  | wbase (p : BitVec 3) (a : BitVec 7)
  /-- `acqr` (R223). Drains a victim core's L1 and acquires on its behalf. -/
  | acqr (p : BitVec 3) (a : BitVec 7)
  /-- `cfence` (R224). Discards the core's constant-path copies for the context. -/
  | cfence (p : BitVec 3)
  /-- `ifence` (R224). Discards fetched and prefetched code lines for the context. -/
  | ifence (p : BitVec 3)
  /-- `twait` (R239). Waits until a timeline counter reaches a value, then acquires. -/
  | twait (p : BitVec 3) (d : BitVec 7) (a : BitVec 7)
  /-- `tread` (R239). Reads a timeline counter's value without acquiring. -/
  | tread (p : BitVec 3) (d : BitVec 7) (a : BitVec 7)
  /-- `tsignal` (R239). Takes a counter number for an operation complete when earlier accesses are performed. -/
  | tsignal (p : BitVec 3) (d : BitVec 7) (a : BitVec 7)
  /-- `bar` (R287). Arrives at and waits on workgroup barrier b0. -/
  | bar (p : BitVec 3)
  /-- `bara` (R287). Arrives at a workgroup barrier with an expected count. -/
  | bara (p : BitVec 3) (d : BitVec 7) (a : BitVec 7)
  /-- `barw` (R287). Waits for the barrier phase of the thread's pending arrival. -/
  | barw (p : BitVec 3) (d : BitVec 7)
  /-- `marrive` (R290). Releases and arrives indivisibly at a barrier object in memory. -/
  | marrive (p : BitVec 3) (d : BitVec 7) (a : BitVec 7)
  /-- `mwait` (R290). Waits until a barrier object's phase differs from a value, then acquires. -/
  | mwait (p : BitVec 3) (d : BitVec 7) (a : BitVec 7)
  /-- `ldf.k` (R293). Waits for a full scratchpad word and reads it, keeping it full. -/
  | ldfK (p : BitVec 3) (d : BitVec 7) (a : BitVec 7)
  /-- `ldf.e` (R293). Waits for a full scratchpad word, reads it and empties it. -/
  | ldfE (p : BitVec 3) (d : BitVec 7) (a : BitVec 7)
  /-- `ste` (R293). Waits for an empty scratchpad word, writes it and fills it. -/
  | ste (p : BitVec 3) (d : BitVec 7) (a : BitVec 7)
  /-- `stf` (R293). Writes a scratchpad word and sets it full. -/
  | stf (p : BitVec 3) (d : BitVec 7) (a : BitVec 7)
  /-- `lde` (R293). Reads a scratchpad word and sets it empty. -/
  | lde (p : BitVec 3) (d : BitVec 7) (a : BitVec 7)
  /-- `sleep` (R294). Sleeps each member for a bounded number of a-cycles. -/
  | sleepT (p : BitVec 3) (a : BitVec 7)
  /-- `ld.acq.b32` (R221). 32-bit load with acquire strength at a scope. -/
  | ldAcqB32 (p : BitVec 3) (d : BitVec 7) (a : BitVec 7) (s : BitVec 3)
  /-- `ld.acq.b64` (R221). 64-bit load with acquire strength at a scope. -/
  | ldAcqB64 (p : BitVec 3) (d : BitVec 7) (a : BitVec 7) (s : BitVec 3)
  /-- `st.rel.b32` (R221). 32-bit store with release strength at a scope. -/
  | stRelB32 (p : BitVec 3) (d : BitVec 7) (a : BitVec 7) (s : BitVec 3)
  /-- `st.rel.b64` (R221). 64-bit store with release strength at a scope. -/
  | stRelB64 (p : BitVec 3) (d : BitVec 7) (a : BitVec 7) (s : BitVec 3)
  /-- `fence.acq` (R222). Acquire fence at a scope. -/
  | fenceAcq (p : BitVec 3) (s : BitVec 3)
  /-- `fence.rel` (R222). Release fence at a scope. -/
  | fenceRel (p : BitVec 3) (s : BitVec 3)
  /-- `fence.acqrel` (R222). Acquire-release fence at a scope. -/
  | fenceAcqrel (p : BitVec 3) (s : BitVec 3)
  /-- `fence.sc` (R222). Sequentially consistent fence taking a place in the scope's total order. -/
  | fenceSc (p : BitVec 3) (s : BitVec 3)
  /-- `cpy` (R245). Starts a copy-engine operation from a command block, once per issue group. -/
  | cpy (p : BitVec 3) (d : BitVec 7) (a : BitVec 7)
  /-- `gath` (R246). Starts a gather of record rows by an index array. -/
  | gath (p : BitVec 3) (d : BitVec 7) (a : BitVec 7)
  /-- `scat` (R246). Starts a scatter of rows into a record by an index array. -/
  | scat (p : BitVec 3) (d : BitVec 7) (a : BitVec 7)
  /-- `coll` (R248). Issues one rank's part of a collective instance. -/
  | coll (p : BitVec 3) (d : BitVec 7) (a : BitVec 7)
  /-- `tbind` (R249). Validates and binds a tensor record into the Gazetteer. -/
  | tbind (p : BitVec 3) (d : BitVec 7) (a : BitVec 7)
  /-- `tunbind` (R250). Unbinds a Gazetteer record number. -/
  | tunbind (p : BitVec 3) (d : BitVec 7) (a : BitVec 7)
  /-- `evpop` (R296). Removes the oldest record from the core's event queue, waiting unless TRY. -/
  | evpop (p : BitVec 3) (d : BitVec 7) (a : BitVec 7)
  /-- `evpush` (R297). Appends a KIND 2 record to a target core's event queue. -/
  | evpush (p : BitVec 3) (d : BitVec 7) (a : BitVec 7)
  /-- `taskrel` (R298). Releases up to m held workgroups on the issuer's core. -/
  | taskrel (p : BitVec 3) (d : BitVec 7) (a : BitVec 7)
  /-- `launch` (R301). Checks a launch packet and starts a package-wide grid. -/
  | launch (p : BitVec 3) (d : BitVec 7) (a : BitVec 7)
  /-- `launchp` (R301). Checks a launch packet and starts a pod-wide grid. -/
  | launchp (p : BitVec 3) (d : BitVec 7) (a : BitVec 7)
  /-- `cancel` (R303). Cancels a grid in finish or discard mode and returns STARTED. -/
  | cancel (p : BitVec 3) (d : BitVec 7) (a : BitVec 7)
  /-- `gridq` (R304). Writes a snapshot of a grid's summary to memory. -/
  | gridq (p : BitVec 3) (d : BitVec 7) (a : BitVec 7)
  /-- `csrr` (R333). Reads a control and status register of the own or a named context. -/
  | csrr (p : BitVec 3) (d : BitVec 7) (a : BitVec 7)
  /-- `csrw` (R333). Writes a control and status register that has no row of its own. -/
  | csrw (p : BitVec 3) (d : BitVec 7) (a : BitVec 7)
  /-- `setid` (R334). Writes IDENT of the warp or of the whole workgroup. -/
  | setid (p : BitVec 3) (d : BitVec 7) (a : BitVec 7)
  /-- `tlbinv` (R335). Invalidates translations and waits until no covered translation is in use. -/
  | tlbinv (p : BitVec 3) (d : BitVec 7) (a : BitVec 7)
  /-- `clrinv` (R336). Drops clearance-cache answers for a context's tags and waits for their accesses. -/
  | clrinv (p : BitVec 3) (d : BitVec 7) (a : BitVec 7)
  /-- `bankrole` (R337). Requests local-store bank role changes on a physical core. -/
  | bankrole (p : BitVec 3) (d : BitVec 7) (a : BitVec 7)
  /-- `trap` (R355). Raises USER_TRAP with a code, restarting after the instruction. -/
  | trap (p : BitVec 3) (a : BitVec 7)
  /-- `eret` (R356). Answers a fault record with retry, continue, end or drop. -/
  | eret (p : BitVec 3) (d : BitVec 7) (a : BitVec 7)
  /-- `savectx` (R357). Stops a context, writes its save area and vacates its cores. -/
  | savectx (p : BitVec 3) (d : BitVec 7) (a : BitVec 7)
  /-- `restctx` (R357). Resumes a frozen context or restores one from its save area. -/
  | restctx (p : BitVec 3) (d : BitVec 7) (a : BitVec 7)
  /-- `halt` (R357). Stops every core of a context and leaves it frozen in place. -/
  | halt (p : BitVec 3) (a : BitVec 7)
  /-- `rdclk` (R358). Reads a 64-bit package, control or run clock count. -/
  | rdclk (p : BitVec 3) (d : BitVec 7) (a : BitVec 7)
  /-- `rand` (R358). Writes 32 bits from the entropy source to each member. -/
  | rand (p : BitVec 3) (d : BitVec 7)
  /-- `ckpt` (R378). Requests a Surveyor cut and takes a counter number for it. -/
  | ckpt (p : BitVec 3) (d : BitVec 7) (a : BitVec 7)
  /-- `sigchk` (R379). Folds a value into the replica signature and forces a comparison. -/
  | sigchk (p : BitVec 3) (d : BitVec 7) (a : BitVec 7)
  /-- `replq` (R380). Returns redundancy mode, comparison counts, outvote count or LASTCUT. -/
  | replq (p : BitVec 3) (d : BitVec 7) (a : BitVec 7)
  /-- `TMLN_WRITE` (R237). A privileged write of TMLNk sets both the counter's value and its mark. Operands in `State.arg`: a = ctx, b = k, bits = v. -/
  | tmlnWrite
  /-- `IDENT_WRITE` (R43). A privileged write of IDENT changes the warp's identity for later accesses. Operands in `State.arg`: a = warp, bits = v. -/
  | identWrite
  /-- `NFMT_WRITE` (R123). A write of NFMTn validates the narrow descriptor and keeps the old value on error. Operands in `State.arg`: a = warp, b = k, bits = v. -/
  | nfmtWrite
  /-- `CLAUSE_ISSUE` (R17). A quarter forms an issue group of ready threads at a clause entry and runs the clause. Operands in `State.arg`: a = q. -/
  | clauseIssue
  /-- `HELD_FAULT_RECORD_WRITE` (R341). A held fault record is written once the queue has room. Operands in `State.arg`: a = ctx. -/
  | heldFaultRecordWrite
  /-- `RUN_AHEAD_END` (R320). Run-ahead ends on its page, time or control limit, restores the warp and appends one PAGE_FAULT record. Operands in `State.arg`: a = warp. -/
  | runAheadEnd
  /-- `LOAD_RETURN` (R102). Data of a load or returning atomic lands in its destination and its flag count falls. Operands in `State.arg`: a = id. -/
  | loadReturn
  /-- `LONG_LATENCY_COMPLETION` (R53). A non-load long-latency operation completes and lowers its flag count. Operands in `State.arg`: a = id. -/
  | longLatencyCompletion
  /-- `DEFERRED_MEMBER_RETEST` (R283). A deferred member's wait condition is tested again and it resumes the clause at its resume position. Operands in `State.arg`: a = warp, b = lane. -/
  | deferredMemberRetest
  /-- `ROTATION_POINT` (R264). Every 1,024 a-cycles the quarter swaps the oldest active warp and steps its rotation pointer. Operands in `State.arg`: a = q. -/
  | rotationPoint
  /-- `SLEEP_EXPIRY` (R294). A sleeping member's count expires and it continues. Operands in `State.arg`: a = warp, b = lane. -/
  | sleepExpiry
  /-- `STALL` (R279). A partition with no event for 2^26 c-cycles is frozen and STALL is reported. Operands in `State.arg`: a = ctx, b = die. -/
  | stall
  /-- `STOP_WINDOW_EXPIRY` (R343). The STOPWIN window ends and remaining threads stop at their next restart point. Operands in `State.arg`: a = warp. -/
  | stopWindowExpiry
  /-- `WARP_STOPPED` (R344). A warp counts as stopped once its issued operations are dealt with and its stores drained. Operands in `State.arg`: a = warp. -/
  | warpStopped
  /-- `VACATE_RESERVED_CORE` (R258). A waiting latency-class workgroup makes the dispatcher stop and save bulk work on a borrowed reserved core. Operands in `State.arg`: a = core. -/
  | vacateReservedCore
  /-- `WORKGROUP_PLACEMENT` (R259). A dealt block is placed on a core that admits it and its warps are initialised. Operands in `State.arg`: a = grid, b = block, c = core. -/
  | workgroupPlacement
  /-- `LOGICAL_CORE_PLACEMENT` (R24). A waiting logical core is placed on a physical core whose free resources admit its saved set. Operands in `State.arg`: a = lcore, b = core. -/
  | logicalCorePlacement
  /-- `LANDING_DEAL` (R272). A landing deals undealt block ranges to children, or answers a child's request with a recall. Operands in `State.arg`: a = grid, b = parent, c = child. -/
  | landingDeal
  /-- `CANCEL_LANDING` (R277). A cancel reaches a landing, drops unstarted blocks and discards started ones in discard mode. Operands in `State.arg`: a = grid, b = landing. -/
  | cancelLanding
  /-- `GRID_COMPLETION` (R275). Once every block, instance, operation and log is done, the root completes the grid and advances its counter. Operands in `State.arg`: a = grid. -/
  | gridCompletion
  /-- `QUEUE_TAIL_WAKE` (R254). A host write of a queue's TAIL line wakes the queue sequencer, which launches each new packet. Operands in `State.arg`: a = pkg, b = queue. -/
  | queueTailWake
  /-- `CPY_SECTOR_DELIVERY` (R245). The copy engine delivers the next destination sector and advances PROGRESS. Operands in `State.arg`: a = op. -/
  | cpySectorDelivery
  /-- `GATH_ELEMENT` (R246). The gather engine moves the next indexed row to LIN. Operands in `State.arg`: a = op. -/
  | gathElement
  /-- `SCAT_ELEMENT` (R246). The gather engine writes the next row into the record. Operands in `State.arg`: a = op. -/
  | scatElement
  /-- `COLL_INSTANCE_START` (R248). A collective instance starts when all ranks have issued, or completes with SHAPE on a mismatch. Operands in `State.arg`: a = op. -/
  | collInstanceStart
  /-- `COLL_ELEMENT_WRITE` (R248). The collective engine writes reduced or gathered output elements. Operands in `State.arg`: a = op. -/
  | collElementWrite
  /-- `GAZETTEER_BIND_COMPLETE` (R249). A bound record reaches the Gazetteer and every hall's cache. Operands in `State.arg`: a = op. -/
  | gazetteerBindComplete
  /-- `GAZETTEER_UNBIND_COMPLETE` (R250). An unbound entry holds ELEM 0 everywhere. Operands in `State.arg`: a = op. -/
  | gazetteerUnbindComplete
  /-- `ENGINE_OPERATION_COMPLETE` (R241). An engine operation completes, writes STATUS and optionally pushes a completion record. Operands in `State.arg`: a = op. -/
  | engineOperationComplete
  /-- `WRITE_BACK_MERGE` (R201). Dirty bytes of a write merge at the home slice and take their coherence position. Operands in `State.arg`: a = id. -/
  | writeBackMerge
  /-- `ATOMIC_PERFORM` (R208). An atomic, reduction or arrival is performed indivisibly at its serialisation point. Operands in `State.arg`: a = id. -/
  | atomicPerform
  /-- `POSTED_OPERATION_REPLAY` (R281). A posted reduction is replayed once after its page fault is resolved. Operands in `State.arg`: a = id. -/
  | postedOperationReplay
  /-- `MCAS_LOCK_GRANT` (R234). An MCAS is granted a line lock in arrival order and, holding all, compares and writes. Operands in `State.arg`: a = id. -/
  | mcasLockGrant
  /-- `LOCK_BUSY` (R210). An MCAS whose 2 µs window expires before its compare releases its locks and fails. Operands in `State.arg`: a = id. -/
  | lockBusy
  /-- `MMA_KGROUP` (R171). The matrix engine completes one k-group of an MMA or MMASP and advances G. Operands in `State.arg`: a = id. -/
  | mmaKgroup
  /-- `ACFREE_RELEASE` (R180). A freed bank is released once every operation already issued on it has completed. Operands in `State.arg`: a = holder, b = bank. -/
  | acfreeRelease
  /-- `BANK_ROLE_CHANGE` (R195). A pending bank role change takes effect when the bank has no owner. Operands in `State.arg`: a = core, b = bank. -/
  | bankRoleChange
  /-- `WRITE_LOG_APPLY` (R271). A deterministic workgroup's write log is applied in the serial phase. Operands in `State.arg`: a = grid. -/
  | writeLogApply
  /-- `REPLICA_COMPARISON` (R371). The Triangulation unit compares replica signatures at a comparison point and releases held stores. Operands in `State.arg`: a = warp. -/
  | replicaComparison
  /-- `HOLD_AGE_EXPIRY` (R371). 4,096 a-cycles after the oldest uncompared entry force a comparison point. Operands in `State.arg`: a = warp. -/
  | holdAgeExpiry
  /-- `REPLICA_UNCORRECTABLE_ERROR` (R375). An uncorrectable error in a replica's own state is handled as an outvote. Operands in `State.arg`: a = warp, b = register. -/
  | replicaUncorrectableError
  /-- `CUT_INTERVAL_EXPIRY` (R362). The checkpoint INTERVAL expires and a cut begins. Operands in `State.arg`: a = ctx. -/
  | cutIntervalExpiry
  /-- `CUT_INSTANT` (R362). The last core stops, the snapshot is written, protected units are marked and cores resume. Operands in `State.arg`: a = ctx. -/
  | cutInstant
  /-- `CUT_RECORD_WRITE` (R365). The Surveyor writes a snapshot, memory or manifest record to the area. Operands in `State.arg`: a = ctx. -/
  | cutRecordWrite
  /-- `CUT_DURABLE` (R362). A cut's manifest is durable and LASTCUT takes its number. Operands in `State.arg`: a = ctx. -/
  | cutDurable
  /-- `STREAM_UNIT_WRITE` (R361). A changed memory unit is streamed to the area between cuts. Operands in `State.arg`: a = ctx, b = unit. -/
  | streamUnitWrite
  /-- `PROTECTED_UNIT_WRITE` (R363). A write to a protected unit waits until its cut-instant contents are copied, then merges. Operands in `State.arg`: a = ctx, b = unit. -/
  | protectedUnitWrite
  /-- `SAVECOST_UPDATE` (R367). The device updates SAVECOST and PENDING at least every 2^16 c-cycles. Operands in `State.arg`: a = ctx. -/
  | savecostUpdate
  /-- `SCRUB_ROW` (R383). The scrubber reads and corrects an HBM row in place. Operands in `State.arg`: a = pkg, b = row. -/
  | scrubRow
  /-- `HOT_ROW_AGE_OUT` (R383). A row leaves the hot list after 7 days without a corrected error. Operands in `State.arg`: a = pkg, b = row. -/
  | hotRowAgeOut
  /-- `SCORE_HALVING` (R384). Every 24 hours each row's score is halved. Operands in `State.arg`: a = pkg. -/
  | scoreHalving
  /-- `CORRECTED_ERROR` (R381). A corrected error is logged, raises the row's score and puts it on the hot list. Operands in `State.arg`: a = pkg, b = addr. -/
  | correctedError
  /-- `UNCORRECTABLE_ERROR` (R381). An uncorrectable error poisons the sector. Operands in `State.arg`: a = pkg, b = addr. -/
  | uncorrectableError
  /-- `REMAP_TABLE_ERROR` (R385). An uncorrectable remap-table copy is rewritten, or both lost take the channel offline. Operands in `State.arg`: a = pkg, b = channel, flag = both. -/
  | remapTableError
  /-- `FLIT_RECEIVE` (R397). A 64-byte fabric flit is received and acted on at the destination. Operands in `State.arg`: a = pkg, b = port, bits = flit. -/
  | flitReceive
  /-- `PORT_RETRAIN_END` (R398). Retraining ends, moving traffic to other ports or taking the port down. Operands in `State.arg`: a = pkg, b = port, flag = up. -/
  | portRetrainEnd
  /-- `RDMA_SEND_WAKE` (R399). A write of a send queue's producer index wakes the Ethernet port. Operands in `State.arg`: a = pkg, b = port. -/
  | rdmaSendWake
  /-- `RDMA_INBOUND_WRITE` (R399). An inbound RDMA write is performed as an agent write at sys. Operands in `State.arg`: a = pkg, b = addr, c = ctxid, data = data. -/
  | rdmaInboundWrite
  /-- `RDMA_COMPLETION` (R399). A completion entry is written before its completion-queue index. Operands in `State.arg`: a = pkg, b = port. -/
  | rdmaCompletion
  /-- `HOST_BAR2_WRITE` (R396). A host write through BAR2 is performed as an agent write at sys. Operands in `State.arg`: a = pkg, b = off, data = data. -/
  | hostBar2Write
  /-- `HOST_CXL_MEM_ACCESS` (R395). A host CXL.mem access to device HBM is served coherently. Operands in `State.arg`: a = pkg, b = addr, flag = write, data = data. -/
  | hostCxlMemAccess
  /-- `MAILBOX_AREA_WRITE` (R401). A write to the mailbox command area, ignored while GO is 1. Operands in `State.arg`: a = pkg, b = off, data = data. -/
  | mailboxAreaWrite
  /-- `CREATE_CONTEXT` (R402). Mailbox 0x01 creates a privileged or unprivileged context. Operands in `State.arg`: a = pkg. -/
  | createContext
  /-- `DESTROY_CONTEXT` (R402). Mailbox 0x02 halts and discards a context and frees its number. Operands in `State.arg`: a = pkg. -/
  | destroyContext
  /-- `REGISTER_QUEUE` (R402). Mailbox 0x03 SUB 0 registers a submission queue with its identity. Operands in `State.arg`: a = pkg. -/
  | registerQueue
  /-- `REMOVE_QUEUE` (R402). Mailbox 0x03 SUB 1 removes a queue after its packets are taken. Operands in `State.arg`: a = pkg. -/
  | removeQueue
  /-- `SET_RESERVED_CORES` (R402). Mailbox 0x04 sets the package's reserved cores. Operands in `State.arg`: a = pkg. -/
  | setReservedCores
  /-- `LOAD_KEY_SLOT` (R402). Mailbox 0x05 loads a capacity-tier key slot. Operands in `State.arg`: a = pkg. -/
  | loadKeySlot
  /-- `CLEAR_KEY_SLOT` (R402). Mailbox 0x06 clears a key slot after its accesses are performed. Operands in `State.arg`: a = pkg. -/
  | clearKeySlot
  /-- `REGISTER_CHECKPOINT` (R402). Mailbox 0x07 SUB 0 registers a checkpoint descriptor. Operands in `State.arg`: a = pkg. -/
  | registerCheckpoint
  /-- `REMOVE_CHECKPOINT` (R402). Mailbox 0x07 SUB 1 removes a checkpoint descriptor. Operands in `State.arg`: a = pkg. -/
  | removeCheckpoint
  /-- `REQUEST_CUT` (R402). Mailbox 0x07 SUB 2 requests a cut and returns its number. Operands in `State.arg`: a = pkg. -/
  | requestCut
  /-- `ALLOT_CORES` (R402). Mailbox 0x08 SUB 0 allots physical cores to a logical package, raising N if needed. Operands in `State.arg`: a = pkg. -/
  | allotCores
  /-- `WITHDRAW_CORES` (R402). Mailbox 0x08 SUB 1 saves and withdraws cores of a logical package. Operands in `State.arg`: a = pkg. -/
  | withdrawCores
  /-- `POWER_RUN` (R404). Mailbox 0x10 with state Run sets full operation, resuming Idle contexts. Operands in `State.arg`: a = pkg. -/
  | powerRun
  /-- `POWER_CAPPED` (R404). Mailbox 0x10 with state Capped sets a power limit. Operands in `State.arg`: a = pkg. -/
  | powerCapped
  /-- `POWER_IDLE` (R404). Mailbox 0x10 with state Idle stops every core and pauses streaming. Operands in `State.arg`: a = pkg. -/
  | powerIdle
  /-- `ENTER_FULL_SERVICE` (R406). Mailbox 0x11 moves from reduced to full service when no context is resident. Operands in `State.arg`: a = pkg. -/
  | enterFullService
  /-- `READ_ERROR_LOG` (R402). Mailbox 0x20 SUB 0 copies the error log to memory. Operands in `State.arg`: a = pkg. -/
  | readErrorLog
  /-- `READ_JOURNAL` (R402). Mailbox 0x20 SUB 1 copies the bring-up journal to memory. Operands in `State.arg`: a = pkg. -/
  | readJournal
  /-- `THERMAL_TRIP` (R404). At the critical junction temperature the trip output is asserted and an event appended. Operands in `State.arg`: a = pkg, b = unit. -/
  | thermalTrip
  /-- `POWER_REMOVAL` (R404). Power is removed and no state survives. Operands in `State.arg`: a = pkg. -/
  | powerRemoval
  /-- `DEVICE_RESET` (R405). Reset brings up the device into reduced service on the first die whose HBM trains. Operands in `State.arg`: a = pkg, b = die. -/
  | deviceReset
  /-- `CODE_OBJECT_LOAD` (R82). The runtime loads a code object, relocates it and binds its symbols, or refuses it. Operands in `State.arg`: a = ctx, b = base, data = object. -/
  | codeObjectLoad
  /-- `WRITE_PERFORMED_AT_SCOPE` (R198). A store, or a write-back of its dirty bytes, reaches the point of coherence of a scope (warp queue, L1, hall merge buffer, die copy) and counts as performed there, lowering that level's outstanding-write count. Operands in `State.arg`: a = id. -/
  | writePerformedAtScope
  /-- `LINK_DOWN` (R403). An Ethernet, CXL root or host port loses its link and a KIND 3 port-down event is appended to the mailbox event ring. Operands in `State.arg`: a = pkg, b = port. -/
  | linkDown
  /-- `UNKNOWN_OPCODE` (R401). A GO write for a command whose opcode is not assigned is answered with STATUS 3 and changes nothing. Operands in `State.arg`: a = pkg. -/
  | unknownOpcode
deriving DecidableEq, Repr

end Sys2Proof
end

