-- ==== Sys2Proof/Machine/State.lean ====
section
/-! DEFINITION. The state of the machine: every register, bank, table, queue and operation in progress that the spec
gives the LY-720, as plain data, and the state right after reset. -/

namespace Sys2Proof.Machine

/-- Why the machine stops for good. No rule of the spec stops the machine, so no constructor stands here. -/
inductive Fault where
deriving DecidableEq, Repr

/-- Why a step has no meaning. -/
inductive Refusal where
  /-- An instruction whose meaning is not written yet, by its mnemonic. Raised by `exec`. Safe: nothing is claimed. -/
  | notModelled (mnemonic : String)
  /-- The instruction has no issue group in flight in the present quarter, or the event is not due in this state.
  Raised by the meanings; the device never takes such a step, and `step` never chooses one. Safe. -/
  | notDue
deriving DecidableEq, Repr

/-- What a thread waits for while it stands in a wait (R283). -/
inductive Wait where
  /-- no wait -/
  | none
  /-- a full/empty word of its scratchpad to be full, or empty (R292) -/
  | word (off : Nat) (full : Bool)
  /-- timeline counter k to reach n (R239) -/
  | timeline (k n : Nat)
  /-- barrier k to leave the phase p (R285) -/
  | barrier (k p : Nat)
  /-- the memory barrier at an address to leave the phase p (R290) -/
  | phase (va p : Nat)
  /-- a record in the event queue of its core (R296) -/
  | evpop
  /-- room in the event queue of a logical core (R297) -/
  | evpush (lcore : Nat)
  /-- `TASKREL` of its workgroup (R261) -/
  | held
  /-- the landings to acknowledge a cancel (R303) -/
  | cancel (grid : Nat)
  /-- writes and atomics with an id below n that it must see performed at a level (R199) -/
  | release (level n : Nat)
  /-- the lower workgroups of a deterministic grid to be applied (R270) -/
  | serial
  /-- the cores of a context part to stop (R357) -/
  | stopped (part : Nat)
  /-- accesses with an id below n that use a dropped translation or answer (R335, R336) -/
  | drained (n : Nat)
  /-- a running count of a-cycles, up to the clock value u in c-cycles (R294) -/
  | sleep (u : Nat)
  /-- the return of an arrival that it has issued, by the identifier of the pending return (R283, R290) -/
  | returned (load : Nat)
  /-- the compare of a compare-and-swap that it has issued (R234 to R236) -/
  | compared (id : Nat)
  /-- the comparison of its instruction (R371) -/
  | room
  /-- the values of the leader for some lanes of its warp (R369) -/
  | fwd (lanes : List Nat)
  /-- the earlier acquire of its own thread (R283) -/
  | acq
  /-- its own atomics of n bytes at a physical address (R227) -/
  | own (addr n : Nat)
  /-- a port to reach the home of an address (R398) -/
  | far (va : Nat)
  /-- the earlier loads of its thread, atomics among them (R222) -/
  | reads
  /-- the operations issued before on an accumulator bank (R167) -/
  | bank (b : Nat)
  /-- the writes that a victim core's L1 had taken before id n to be merged at their homes (R223) -/
  | victim (core n : Nat)
  /-- a fill of a line that a compare-and-swap has locked, arrived as number n (R210) -/
  | fill (line n : Nat)
  /-- the releases at a level of the members that arrive together, given by warp and lane, as of id n (R287, R293) -/
  | joint (level n : Nat) (ms : List (Nat × Nat))
deriving DecidableEq, Repr

/-- One thread (R13, R33, R38, R46, R345). -/
structure Thread where
  /-- clause header (R51) -/
  pc : Pair := 0
  /-- position in the clause: 0 the entry, j + 1 body word j (R342) -/
  pos : Nat := 0
  /-- window base in force when the clause started (ENTRYBASE, R345) -/
  base : Nat := 0
  /-- a helper thread (R15) -/
  helper : Bool := false
  /-- p0 to p6 (R38) -/
  preds : BitVec 7 := 0
  /-- `FPST` (R46): ACUR, NV, DZ, OF, UF, NX -/
  fpst : BitVec 6 := 0
  wait : Wait := .none
  /-- its wait's condition was found to hold, or its sleep has expired: it may issue again (R263, R283) -/
  ready : Bool := false
  /-- the moment it arrived at its PC, for its PC-age (R264) -/
  age : Nat := 0
  /-- it stands at a restart point until its warp is resumed: trapped or stopped -/
  stopped : Bool := false
  /-- the group that an instruction executed once per issue group has deferred as one member, 0 for none (R284) -/
  gid : Nat := 0
deriving DecidableEq, Repr, Inhabited

/-- A fault record (R342). -/
structure FaultRec where
  seq : Nat := 0
  cause : Nat := 0
  src : Nat := 0
  pos : Nat := 0
  place : Nat := 0
  pc : Pair := 0
  slot : Nat := 0xFF
  lane : Nat := 0xFF
  word : Nat := 0xFF
  addr : Nat := 0
  info : Nat := 0
  info2 : Nat := 0
  /-- further pages of a PAGE_FAULT batch, in extension records -/
  pages : List Nat := []
  grid : Nat := 0
deriving DecidableEq, Repr, Inhabited

/-- A member of an issue group: its lane and its warp (R17). -/
structure Member where
  lane : Nat := 0
  warp : Nat := 0
deriving DecidableEq, Repr, Inhabited

/-- An issue group in flight (R17): the clause it runs, how far, and what its members do at the clause end. -/
structure Group where
  /-- its workgroup or sequencer instance -/
  wg : Nat := 0
  /-- members in ascending lane order -/
  mem : List Member := []
  pc : Pair := 0
  hdr : Word := 0
  /-- body words of the clause (R51) -/
  body : List Word := []
  /-- body index of the next instruction word -/
  pos : Nat := 0
  /-- patterns of a prefix before the next instruction (R59) -/
  patA : BitVec 9 := 0
  patB : BitVec 9 := 0
  /-- transfer targets taken, by lane (R61), and the lanes that `EXIT` ends -/
  taken : Tbl Pair := []
  ended : List Nat := []
  /-- `YIELD` was executed or YLD is set (R97) -/
  yld : Bool := false
deriving DecidableEq, Repr, Inhabited

/-- Run-ahead of a warp after a page fault (R320): the batch of pages found so far, the record to come, and the shadow storage in which
it executes. -/
structure Ahead where
  pages : List Nat := []
  lane : Nat := 0
  write : Bool := false
  pc : Pair := 0
  pos : Nat := 0
  start : Nat := 0
  /-- window and uniform registers, window base, and the threads that run ahead -/
  vr : BMap 32 := []
  sr : BMap 32 := []
  wbase : Nat := 0
  threads : Tbl Thread := []
  /-- the clause at hand -/
  grp : Option Group := none
  /-- unknown values: allocation register g of lane l at 64 g + l, uniform register n at 2^15 + n, predicate p of lane l at 2^16 + 64 p + l -/
  unknown : List Nat := []
  /-- it has met an unknown branch, `EXIT`, a wait instruction, or nothing that it can execute -/
  finished : Bool := false
deriving DecidableEq, Repr, Inhabited

/-- One entry of a replica's hold buffer (R371): a store that waits for comparison. -/
structure HoldEntry where
  va : Nat := 0
  addr : Nat := 0
  key : Nat := 0
  uncached : Bool := false
  data : List Byte := []
deriving DecidableEq, Repr, Inhabited

/-- One warp (R33 to R37, R44 to R46, R345, R346). -/
structure Warp where
  ctx : Nat := 0
  /-- the holder: workgroup or sequencer instance -/
  wg : Nat := 0
  /-- index in the workgroup (R14) -/
  idx : Nat := 0
  /-- logical and physical core slot (R12, R25) -/
  slot : Nat := 0
  pslot : Nat := 0
  /-- V, S and T (R34, R37, R44) -/
  nv : Nat := 32
  ns : Nat := 16
  nt : Nat := 0
  /-- allocation register g of lane l at 64 g + l, tiles included (R34, R35) -/
  vr : BMap 32 := []
  /-- words of `vr`, by the same numbers, that an uncorrectable error has destroyed and nothing has written since (R381, R382) -/
  bad : List Nat := []
  /-- s0 to s63 (R37) -/
  sr : BMap 32 := []
  /-- the moment of the last write of a uniform register in body order: a return of an operation issued before it no longer writes it (R88) -/
  uw : Tbl Nat := []
  wbase : Nat := 0
  fpctl : Word := 0
  nfmt : BMap 16 := []
  /-- counts of f0 to f11 (R53) -/
  fcount : BMap 6 := []
  ident : Word := 0
  /-- granted shape (R165) -/
  shape : Word := 0
  lanes : Tbl Thread := []
  /-- SEQ of the outstanding trap, 0 for none (R345) -/
  trapSeq : Nat := 0
  trapped : Bool := false
  /-- threads of it still go on to their restart points for its trap, since the clock value given (R338, R343) -/
  trapAt : Option Nat := none
  /-- traps raised after their instruction's effect while its trap is outstanding, oldest first (R338) -/
  later : List FaultRec := []
  /-- a stop is requested, since the clock value given (R343) -/
  stopAt : Option Nat := none
  /-- the stop window has ended: its threads stop at their next restart point (R343) -/
  stopNow : Bool := false
  /-- it counts as stopped (R344) -/
  halted : Bool := false
  ahead : Option Ahead := none
  /-- store signature, its entry count, hold buffer and its oldest entry's moment, comparisons made (R370, R371) -/
  sig : Pair := 0xFFFFFFFFFFFFFFFF
  sigN : Nat := 0
  hold : List HoldEntry := []
  holdAt : Nat := 0
  cmps : Nat := 0
  /-- it stands at a comparison point (R371) -/
  atCmp : Bool := false
  /-- its last comparison has agreed and it has done nothing since (R371, R376) -/
  cmpOk : Bool := false
  /-- lanes whose comparison point has agreed and that have still to perform its instruction (R371) -/
  agreed : List Nat := []
  /-- its comparison point is one of age alone: no instruction waits for it (R371) -/
  aged : Bool := false
  /-- its trap at a comparison point, not yet compared (R371) -/
  pendTrap : Option FaultRec := none
  /-- values forwarded by the leader and not yet taken, by lane (R369) -/
  fwd : List (Nat × Val) := []
  /-- address of its record in a save area, while it is saved (R47) -/
  image : Nat := 0
deriving DecidableEq, Repr, Inhabited

/-- A workgroup barrier (R285): expected count, arrived count, phase, pending and arrived threads. -/
structure Barrier where
  expect : Nat := 0
  count : Nat := 0
  phase : Nat := 0
  /-- pending threads, each with the PHASE at its arrival -/
  pend : List (Nat × Nat) := []
  arrived : List Nat := []
deriving DecidableEq, Repr, Inhabited

/-- An accumulator bank (R41): element row × 128 + column, and the generator word of each column. -/
structure Bank where
  data : BMap 32 := []
  gens : BMap 32 := []
  phys : Nat := 0
  /-- freed, waiting for the operations issued on it (R180) -/
  freed : Bool := false
deriving DecidableEq, Repr, Inhabited

/-- A kernel header (R78). -/
structure Khdr where
  addr : Nat := 0
  redun : Nat := 0
  det : Bool := false
  isSealed : Bool := false
  cls : Nat := 0
  v : Nat := 32
  s : Nat := 16
  t : Nat := 0
  scratch : Nat := 0
  scrbanks : Nat := 0
  opbanks : Nat := 0
  accbanks : Nat := 0
  cohort : Nat := 0
  stopwin : Nat := 0
  entry : Nat := 0
  seqentry : Nat := 0
  constaddr : Nat := 0
  fpctl0 : Word := 0
deriving DecidableEq, Repr, Inhabited

/-- One entry of a deterministic workgroup's write log (R351). -/
structure LogEntry where
  va : Nat := 0
  mask : Nat := 0
  kind : Nat := 0
  opc : Nat := 0
  data : List Byte := []
deriving DecidableEq, Repr, Inhabited

/-- A region entry of a workgroup (R300), with the block's range computed. -/
structure Region where
  va : Nat := 0
  size : Nat := 0
  soff : Nat := 0
  dir : Nat := 0
deriving DecidableEq, Repr, Inhabited

/-- A holder of core resources: a workgroup, or a sequencer instance (R162, R349). -/
structure Wg where
  ctx : Nat := 0
  grid : Nat := 0
  block : Nat := 0
  /-- logical core: context, logical package and core number together -/
  lcore : Nat := 0
  seqi : Bool := false
  k : Khdr := {}
  threads : Nat := 0
  warps : List Nat := []
  /-- scratchpad bytes, full words, operand buffer (R105, R164, R292) -/
  scr : BMap 8 := []
  full : BMap 1 := []
  opb : BMap 8 := []
  scrBank : Nat := 0
  opBank : Nat := 0
  /-- physical bank of each logical local-store bank that the holder owns (R25) -/
  lsMap : Tbl Nat := []
  /-- accumulator banks held, by logical number, and the reserved set with the physical bank of each (R25, R41, R166) -/
  banks : Tbl Bank := []
  rset : Tbl Nat := []
  bars : Tbl Barrier := []
  cbase : Nat := 0
  /-- the identity that it was placed with (R322) -/
  ident : Word := 0
  regions : List Region := []
  /-- first 4 KiB of the constant bank of a sealed workgroup (R197) -/
  consts : BMap 8 := []
  /-- placed and held until `TASKREL` (R261) -/
  held : Bool := false
  /-- it has not issued its first instruction since its placement (R256, R261) -/
  fresh : Bool := false
  /-- its last non-helper thread has ended -/
  done : Bool := false
  /-- every thread ends at a discarding cancel (R277) -/
  discard : Bool := false
  /-- SEQ of an unanswered staging fault (R409) -/
  staging : Option Nat := none
  /-- replica number, and the leader's holder; a replica set shares one leader (R368) -/
  replica : Nat := 0
  leader : Nat := 0
  /-- physical core of a replica that does not lead (R368) -/
  rcore : Option Nat := none
  /-- write log of a deterministic workgroup, oldest first, and whether it is applied (R271) -/
  log : List LogEntry := []
  /-- index in the log pool (R351) -/
  logIx : Option Nat := none
  /-- address of its record in a save area, while it is saved (R349) -/
  image : Nat := 0
deriving DecidableEq, Repr, Inhabited

/-- An event record of 16 bytes (R295). -/
structure EvRec where
  kind : Nat := 0
  cause : Nat := 0
  ctr : Nat := 0
  source : Nat := 0
  value : Nat := 0
  /-- who pushed it: orders the records of one source (R214) -/
  src : Nat := 0
  /-- the scope at which popping it acquires (R214): that of its push, or sys for a record of the device -/
  acq : Nat := 6
deriving DecidableEq, Repr, Inhabited

/-- A code line copied by a core's fetch (R216): its sixteen words. -/
structure CodeLine where
  words : List Word := []
deriving DecidableEq, Repr, Inhabited

/-- A logical core (R23 to R25): where it is placed, its event queue, and what its fetch and constant path hold. -/
structure LCore where
  pcore : Option Nat := none
  /-- the physical core it was last placed on, or was allotted with (R279) -/
  last : Nat := 0
  /-- it waits for placement with a saved set (R24) -/
  waiting : Bool := false
  ev : List EvRec := []
  evHeld : List EvRec := []
  /-- address of its record in a save area, while its event queue is saved there (R349) -/
  image : Nat := 0
  /-- constant-path copies: words by virtual address (R215) -/
  cons : Tbl Word := []
  /-- code lines by virtual address (R216) -/
  code : Tbl CodeLine := []
deriving DecidableEq, Repr, Inhabited

/-- A byte copied on its way to a core or to a die, with the KEYIDX and the TAG of the translation that brought it (R200, R325). -/
structure Copy where
  val : Byte := 0
  key : Nat := 0
  tag : Nat := 0
deriving DecidableEq, Repr, Inhabited

/-- A quarter scheduler (R263, R264). -/
structure Quarter where
  /-- warps of the active set by position, the same warps longest active first, and the pending set, longest pending first (R263) -/
  active : List Nat := []
  since : List Nat := []
  pend : List Nat := []
  rot : Nat := 0
  rotAt : Nat := 0
  rotPick : Bool := false
deriving DecidableEq, Repr, Inhabited

/-- A physical core (R10, R194, R195). -/
structure PCore where
  /-- the context parts that the core is allotted to, one of a context: contexts may share a core (R29, R195, R402) -/
  owners : List Nat := []
  /-- roles of the 64 local-store banks: 0 L1 when unlisted, 1 scratchpad, 2 tensor operand -/
  role : BMap 2 := []
  /-- owning holder of each bank in role 1 or 2 -/
  bank : Tbl Nat := []
  /-- pending role of a bank, and whether `BANKROLE` asked for it (R195, R337) -/
  pend : Tbl (BitVec 2 × Bool) := []
  /-- holder of each physical accumulator bank, as allocated or reserved -/
  acc : Tbl Nat := []
  /-- bytes that the core's loads have copied, by physical address: a later load may return them until an acquire drops
  them (R198, R200, R206) -/
  copies : Tbl Copy := []
  /-- words of the on-chip map that lie in no resident warp's registers, no owned bank and no held accumulator bank, by offset / 4
  (R26, R30) -/
  chip : BMap 32 := []
  /-- it vacates its bulk work (R258) -/
  vacating : Bool := false
  /-- the parts from which it is being withdrawn (R402) -/
  leaving : List Nat := []
  qs : Tbl Quarter := []
deriving DecidableEq, Repr, Inhabited

/-- What awaits the answer of a fault record (R356). -/
inductive Await where
  | warp (w : Nat)
  | staging (wg : Nat)
  | stall (die : Nat)
  | posted (id : Nat)
  | engine (op : Nat)
  | matrix (id : Nat)
deriving DecidableEq, Repr

/-- A cached translation (R318): the page and what its leaf entry held. -/
structure TlbEntry where
  vbase : Nat := 0
  pbase : Nat := 0
  size : Nat := 4096
  tag : Nat := 0
  key : Nat := 0
  rd : Bool := false
  wr : Bool := false
  ex : Bool := false
  uncached : Bool := false
deriving DecidableEq, Repr, Inhabited

/-- A context's part in one logical package (R44, R341, R348): its registers, queues and what its handlers await. -/
structure Part where
  pkg : Nat := 0
  ctxid : Nat := 0
  ptbase : Pair := 0
  gazbase : Pair := 0
  clrbase : Pair := 0
  fqbase : Pair := 0
  aqbase : Pair := 0
  savebase : Pair := 0
  savecost : BitVec 48 := 0
  /-- N (R23) -/
  ncores : Nat := 0
  /-- records held for want of room, oldest first, each with its 64-byte parts already written (R341) -/
  held : List (FaultRec × Nat) := []
  awaits : List (Nat × Await) := []
  /-- translations in the caches: those that the next accesses find, and those that stand in other caches (R318) -/
  tlb : List TlbEntry := []
  tlbAway : List TlbEntry := []
  /-- cached clearance answers, identity, tag, answer: those that the next accesses find, and those that stand in other caches (R323) -/
  clr : List (Nat × Nat × Bool) := []
  clrAway : List (Nat × Nat × Bool) := []
  /-- Gazetteer records bound in the hall caches, by number: the four words together (R109) -/
  gaz : BMap 256 := []
  /-- a stop of the whole part is requested (R357) -/
  stopReq : Bool := false
  /-- frozen in place, whole, or by die (R279, R357) -/
  frozen : Bool := false
  frozenDies : List Nat := []
  /-- saved in its save area and not resident (R357) -/
  saved : Bool := false
  /-- its area has been entered since it was last saved (R352, R366) -/
  entered : Bool := false
  /-- it stops for Idle power (R404) -/
  idle : Bool := false
  /-- c-cycle of the last counted event of each die's partition (R279) -/
  lastEvent : Tbl Nat := []
  runClk : Nat := 0
  /-- next write of SAVECOST and PENDING due (R367) -/
  costAt : Nat := 0
  /-- global physical address of the checkpoint descriptor, 0 for none (R359) -/
  desc : Nat := 0
  /-- records of the cut still to write, kind and unit; bytes of the cut's records so far; offset of the last manifest -/
  todo : List (Nat × Nat) := []
  written : Nat := 0
  manifest : Option Nat := none
  /-- the manifest of the cut in progress is written; every snapshot unit is to be written at the next cut -/
  manifested : Bool := false
  snapAll : Bool := true
deriving DecidableEq, Repr, Inhabited

/-- A timeline counter (R237): value, mark, and the numbers above the value that are complete (R211). -/
structure Timeline where
  value : Nat := 0
  mark : Nat := 0
  doneOut : List Nat := []
deriving DecidableEq, Repr, Inhabited

/-- The Surveyor's work for one context (R359 to R366): the cut in progress, requests, and the changed memory units. -/
structure Ckpt where
  /-- number of the cut in progress, and its phase: 0 none, 1 stopping, 2 records, 3 durable to come -/
  cut : Nat := 0
  phase : Nat := 0
  nextCut : Nat := 1
  lastCut : Nat := 0
  /-- end of the present interval, and a request that waits for the next cut -/
  due : Option Nat := none
  want : Bool := false
  /-- timeline numbers that wait for a cut: counter, number, cut (R378) -/
  waits : List (Nat × Nat × Nat) := []
  /-- 64 KiB memory units whose STREAM bit is clear, and those whose SINCE bit is set, none while every one is (R360) -/
  clear : List Nat := []
  since : Option (List Nat) := none
deriving DecidableEq, Repr, Inhabited

/-- The runtime's answer to the load of a code object (R81, R82): none asked for yet, done, failed with DUPLICATE_SYMBOL (0x2D), or
another refusal of the loader. -/
inductive LoadAnswer where
  | none | done | duplicateSymbol | refused
deriving DecidableEq, Repr, Inhabited

/-- A definition of a global name in a context (R81, R82): its address, the Gazetteer number where it names a record, its binding, and
whether a loaded relocation has resolved to it. -/
structure SymDef where
  name : List Byte := []
  addr : Nat := 0
  recNum : Option Nat := none
  strong : Bool := true
  used : Bool := false
deriving DecidableEq, Repr, Inhabited

/-- A context (R23, R44, R309). -/
structure Ctx where
  priv : Bool := false
  prio : Bool := false
  npkg : Nat := 1
  tmln : Tbl Timeline := []
  ckpt : Option Ckpt := none
  /-- the next SEQ of a fault record (R341) and of an audit record (R327) -/
  faultSeq : Nat := 1
  auditSeq : Nat := 0
  /-- the atomic flag register (R230) -/
  atomFlags : BitVec 5 := 0
  /-- REPL_OUTVOTED count (R380) -/
  outvoted : Nat := 0
  /-- definitions of global names loaded so far, oldest first (R82) -/
  syms : List SymDef := []
deriving DecidableEq, Repr, Inhabited

/-- A write on its way to its home (R198 to R201): performed at a level so far. Levels: 0 the warp's store queue,
1 the core's L1, 2 the hall's merge buffer, 3 the die's slice or copy. -/
structure PWrite where
  ctx : Nat := 0
  warp : Nat := 0
  /-- physical core of the issuer: package, die, hall and core together -/
  pcore : Nat := 0
  part : Nat := 0
  level : Nat := 0
  addr : Nat := 0
  data : List Byte := []
  key : Nat := 0
  uncached : Bool := false
  /-- order of arrival at its level -/
  arr : Nat := 0
  /-- it waits for a protected unit to be copied (R363) -/
  blocked : Bool := false
  /-- a release write: the level at which earlier writes must have been performed first (R221) -/
  rel : Option Nat := none
  /-- the engine operation that wrote it, 0 for a store -/
  op : Nat := 0
  /-- lane of its thread, and the identifier that the stores of one instruction share, 0 for none (R103) -/
  lane : Nat := 0
  ins : Nat := 0
  /-- a store of its thread's scratchpad, which takes effect at the bank itself (R203) -/
  scr : Bool := false
  /-- its place among the accesses that waited for a line's lock (R210) -/
  turn : Option Nat := none
deriving DecidableEq, Repr, Inhabited

/-- What a long-latency operation writes when it returns. -/
structure RegWrite where
  lane : Nat := 0
  /-- allocation register, or 512 + n for sn -/
  reg : Nat := 0
  val : Word := 0
deriving DecidableEq, Repr, Inhabited

/-- A pending return of one warp (R53, R102): its register writes, flag, and whether it is a load. -/
structure PLoad where
  warp : Nat := 0
  flag : Nat := 15
  writes : List RegWrite := []
  /-- lanes whose `FPST` gains bits at completion -/
  fp : List (Nat × BitVec 6) := []
  load : Bool := true
  /-- atomics or engine operations that must be performed first, by id -/
  waits : List Nat := []
  part : Nat := 0
  /-- lanes whose later accesses are held behind it as an acquire (R283) -/
  acq : List Nat := []
  /-- image words that it writes, as they were before: an `MMA` in flight may read them so until it completes (R173) -/
  old : List (Nat × Word) := []
deriving DecidableEq, Repr, Inhabited

/-- An atomic, reduction, floating-point atomic or arrival on its way to its serialisation point (R208). -/
structure Atom where
  ctx : Nat := 0
  part : Nat := 0
  grid : Nat := 0
  warp : Nat := 0
  lane : Nat := 0
  pcore : Nat := 0
  va : Nat := 0
  addr : Nat := 0
  key : Nat := 0
  size : Nat := 4
  /-- 0 major 0x32, 1 major 0x33, 2 `MARRIVE` -/
  kind : Nat := 0
  /-- operation code of R66; level of the release of an arrival -/
  opc : Nat := 0
  /-- MIN of the instruction, and the identity it was issued with -/
  sub : Nat := 0
  ident : Word := 0
  /-- operand; the compare value and the new value of `CAS` -/
  a : Pair := 0
  b : Pair := 0
  /-- pending return to fill, and the first allocation register of D -/
  ret : Option Nat := none
  reg : Nat := 0
  place : Nat := 0
  slot : Nat := 0xFF
  /-- the identifier that the operations of one instruction share (R227) -/
  ins : Nat := 0
  /-- it waits for a page (R281): SEQ of its record, 0 once the record is answered with a retry -/
  posted : Option Nat := none
  /-- its place among the accesses that waited for a line's lock (R210) -/
  turn : Option Nat := none
deriving DecidableEq, Repr, Inhabited

/-- A word of a multi-word compare-and-swap: its physical address and key slot, expected and new value, and its index. -/
structure McasWord where
  addr : Nat := 0
  key : Nat := 0
  exp : Pair := 0
  new : Pair := 0
  idx : Nat := 0
deriving DecidableEq, Repr, Inhabited

/-- A multi-word compare-and-swap (R232 to R236). -/
structure Mcas where
  ctx : Nat := 0
  part : Nat := 0
  warp : Nat := 0
  lane : Nat := 0
  pcore : Nat := 0
  /-- words in ascending physical address -/
  words : List McasWord := []
  /-- lines still to lock, ascending, and lines held -/
  want : List Nat := []
  held : List Nat := []
  /-- the moment of its first lock (R210) -/
  first : Option Nat := none
  /-- pending return and the first allocation register of D -/
  ret : Nat := 0
  reg : Nat := 0
  /-- arrival at the lock it waits for -/
  arrive : Nat := 0
  /-- the block's address, OBS, and the restart point before the instruction -/
  block : Nat := 0
  obs : Bool := false
  pc : Pair := 0
  pos : Nat := 0
deriving DecidableEq, Repr, Inhabited

/-- A matrix operation in progress, the entry of R346 with the operands it fixed at issue. -/
structure MatOp where
  wg : Nat := 0
  warp : Nat := 0
  pc : Pair := 0
  pos : Nat := 0
  form : Nat := 0
  dsel : Nat := 0
  g : Nat := 0
  ctl : Word := 0
  bpair : Pair := 0
  flags : BitVec 5 := 0
  flag : Nat := 15
  shape : Word := 0
  members : List Nat := []
  trec : BitVec 256 := 0
  num : Nat := 0
  ident : Word := 0
  /-- 0 MMA and MMASP, 1 TLD, 2 TST -/
  kind : Nat := 0
  ret : Nat := 0
  /-- SEQ of an unanswered stall (R408) -/
  stall : Option Nat := none
  order : Nat := 0
  /-- lines denied so far, each audited once (R174) -/
  lines : List Nat := []
  /-- resumed: checks 7 to 11 of R170 are made again (R176) -/
  again : Bool := false
  /-- its warp is trapped at this operation -/
  trapped : Bool := false
  /-- `NFMT`NFA and `NFMT`NFB as its issue found them (R43) -/
  nfA : BitVec 16 := 0
  nfB : BitVec 16 := 0
  /-- the holder through which its issue reached the bank (R166, R180) -/
  hold : Nat := 0
  /-- words of its A image and of its buffer B image that it has read: 2 × (register × 64 + lane) of a tile, 2 × word + 1 of the
  operand buffer (R173) -/
  img : Tbl Word := []
deriving DecidableEq, Repr, Inhabited

/-- One rank of a collective instance (R247, R248): its source, as the issue of its command fixed it. -/
structure Rank where
  src : Nat := 0
  part : Nat := 0
  lcore : Nat := 0
  wg : Nat := 0
  ident : Word := 0
  logn : Nat := 0
deriving DecidableEq, Repr, Inhabited

/-- An engine operation (R240 to R250), the entry of R350 with its state in the engine. -/
structure EngOp where
  ctx : Nat := 0
  part : Nat := 0
  grid : Nat := 0
  wg : Nat := 0
  warp : Nat := 0
  lane : Nat := 0
  lcore : Nat := 0
  slot : Nat := 0
  /-- sub-op: 0 CPY, 1 GATH, 2 SCAT, 3 COLL, 4 TBIND, 5 TUNBIND, 6 TSIGNAL -/
  cmd : Nat := 0
  num : Nat := 0
  ctr : Nat := 0
  cscope : Nat := 0
  /-- virtual address of the block, and the engine's copy of it -/
  addr : Nat := 0
  block : List Byte := []
  ident : Word := 0
  progress : Nat := 0
  cause : Nat := 0
  /-- all units are delivered, or the operation has ended -/
  ended : Bool := false
  /-- STATUS is written, or cannot be -/
  complete : Bool := false
  /-- SEQ of an unanswered stall, and its faulting address (R408) -/
  stall : Option Nat := none
  stallAt : Nat := 0
  fp : BitVec 5 := 0
  /-- identifier before which the issuer's accesses are ordered by the issue (R211) -/
  after : Nat := 0
  /-- versions of its records: source or only record, and destination (R116) -/
  trec : BitVec 256 := 0
  trec2 : BitVec 256 := 0
  /-- `COLL`: the ranks of its instance, in rank order, once it has started -/
  ranks : List Rank := []
  /-- lines and rows denied so far, each audited once -/
  lines : List Nat := []
  /-- entries of its workgroup's log at the issue (R269) -/
  logn : Nat := 0
  /-- entered from an engine-operation list of an area alone, which does not hold the address of its block (R350) -/
  listed : Bool := false
deriving DecidableEq, Repr, Inhabited

/-- A grid (R260, R272 to R278). -/
structure Grid where
  ctx : Nat := 0
  part : Nat := 0
  num : Nat := 0
  ctr : Nat := 0
  scope : Nat := 4
  k : Khdr := {}
  gx : Nat := 1
  gy : Nat := 1
  gz : Nat := 1
  wx : Nat := 1
  wy : Nat := 1
  wz : Nat := 1
  latency : Bool := false
  affn : Nat := 0
  afbase : Nat := 0
  afs : List Int := []
  cohort : Nat := 0
  pod : Bool := false
  held : Bool := false
  evt : Bool := false
  evcore : Nat := 0
  args : Nat := 0
  regions : Nat := 0
  nreg : Nat := 0
  idsrc : Nat := 0
  idval : Word := 0
  idtab : Nat := 0
  ident : Word := 0
  summary : Nat := 0
  /-- issuer: a warp's number, or a queue's; and the launch's place in that issuer's order (R274) -/
  issuer : Nat := 0
  queued : Bool := false
  order : Nat := 0
  /-- the moment of its issue (R256) -/
  issued : Nat := 0
  /-- region entries: VA, BSTRIDE, SIZE, SOFF, DIR (R300), as the ownership table of R269 reads them -/
  regs : List (Nat × Nat × Nat × Nat × Nat) := []
  /-- it waits for the issuer's earlier launches (ORDERED) -/
  ordered : Bool := false
  /-- its issue: identifier before which the issuer's accesses come first, warp, lane, logical and physical core (R211) -/
  after : Nat := 0
  warp : Nat := 0
  lane : Nat := 0
  ilk : Nat := 0
  icore : Nat := 0
  /-- identifier of the moment its last block ended: writes before it belong to its completion (R211) -/
  mark : Nat := 0
  /-- undealt ranges [lo, hi) by landing (R272), counted in cohorts, or in blocks without cohorts -/
  ranges : Tbl (List (Nat × Nat)) := []
  started : List Nat := []
  /-- blocks saved and waiting for placement, with the holder they resume -/
  retired : Nat := 0
  discarded : Nat := 0
  orphans : Nat := 0
  flags : BitVec 5 := 0
  first : Option FaultRec := none
  counts : BMap 32 := []
  /-- cancel: landings still to reach, discard mode, and whether it dropped or ended a block -/
  cancelTo : List Nat := []
  cancelled : Bool := false
  discard : Bool := false
  cut : Bool := false
  refused : Nat := 0
  lost : Bool := false
  complete : Bool := false
  /-- sequencer instances that have not ended, and the logical cores where one was placed (R261) -/
  seqs : List Nat := []
  seqAt : List Nat := []
  /-- memory at the start of a deterministic grid (R269), and the next block whose log is applied -/
  mem0 : BMap 8 := []
  nextLog : Nat := 0
deriving DecidableEq, Repr, Inhabited

/-- What the device keeps of a context's on-chip tables at a cut beside the snapshot buffer (R362, R372): its grids, holders and
warps. -/
structure Snap where
  grids : Tbl Grid := []
  wgs : Tbl Wg := []
  warps : Tbl Warp := []
deriving DecidableEq, Repr, Inhabited

/-- A submission queue (R253, R402). -/
structure Queue where
  ctx : Nat := 0
  part : Nat := 0
  desc : Nat := 0
  host : Bool := false
  ident : Word := 0
  ring : Nat := 0
  logn : Nat := 4
  head : Nat := 0
  /-- the TAIL that its sequencer last read -/
  tail : Nat := 0
  removing : Bool := false
deriving DecidableEq, Repr, Inhabited

/-- A port of the package (R397, R398, R403): fabric 0 to 7, Ethernet 8 and 9, CXL root 10 to 13, host 14. -/
structure Port where
  up : Bool := true
  retrain : Bool := false
  replays : Nat := 0
  expect : Nat := 0
  sent : Nat := 0
  /-- flits that wait for a retrain or an acknowledgement -/
  queue : List (BitVec 512) := []
  /-- RDMA send and completion indexes (R399) -/
  sq : Nat := 0
  cq : Nat := 0
deriving DecidableEq, Repr, Inhabited

/-- An error-log entry (R402): KIND, stack, bank, row, count and score. -/
structure ErrEntry where
  kind : Nat := 0
  unit : Nat := 0
  bank : Nat := 0
  row : Nat := 0
  count : Nat := 0
  score : Nat := 0
deriving DecidableEq, Repr, Inhabited

/-- A package (R381 to R407). -/
structure Pkg where
  /-- it has power (R404), and full service (R405, R406) -/
  powered : Bool := true
  full : Bool := false
  /-- bring-up ended at a failed step 1: the mailbox answers only opcode 0x20 (R407) -/
  failed : Bool := false
  /-- clock at which it left reset (R4, R358) -/
  clk0 : Nat := 0
  /-- compute dies and HBM stacks in service (R405 to R407) -/
  dies : List Nat := [0]
  hbm : List Nat := [0, 1, 2]
  /-- the mailbox at BAR0 (R401) -/
  mbox : BMap 8 := []
  /-- the command at hand has started and waits for its completion -/
  busy : Bool := false
  /-- power state: 0 Run, 1 Capped, 2 Idle (R404), and the limit -/
  power : Nat := 0
  watts : Nat := 3200
  reserved : List Nat := []
  queues : Tbl Queue := []
  /-- key slots that are loaded, with the 64 bytes of each (R330) -/
  keys : Tbl (List Byte) := []
  /-- a slot that is being cleared: no new access uses it (R402) -/
  clearing : Option Nat := none
  errlog : List ErrEntry := []
  /-- score and count of corrected errors of each row, and the moment of its last one (R381, R383, R384) -/
  rows : Tbl (Nat × Nat × Nat) := []
  hot : List Nat := []
  /-- rows remapped, with the spare row of each; channels offline; pages reported (R384, R385) -/
  remaps : Tbl Nat := []
  offline : List Nat := []
  reported : List Nat := []
  /-- moments of the last scrub of a row, and of the last halving (R383, R384) -/
  scrubbed : Tbl Nat := []
  halveAt : Nat := 0
  /-- journal of bring-up, 16 bytes each, and starts since manufacture (R407) -/
  journal : List (List Byte) := []
  starts : Nat := 0
  ports : Tbl Port := []
  /-- flits sent and not yet taken by the link -/
  outbox : List (Nat × BitVec 512) := []
  /-- thermal-trip output (R404) -/
  trip : Bool := false
  hostCxl : Bool := true
  /-- populated bytes of the module's LPDDR and of each CXL window (R394) -/
  lpddr : Nat := 0
  cxl : List Nat := [0, 0, 0, 0]
deriving DecidableEq, Repr, Inhabited

/-- The operands of the event at hand (the model's own): what takes part, as each event's description names it. -/
structure EvArg where
  a : Nat := 0
  b : Nat := 0
  c : Nat := 0
  flag : Bool := false
  bits : BitVec 512 := 0
  data : List Byte := []
deriving DecidableEq, Repr, Inhabited

/-- The whole machine. -/
structure State where
  /-- memory by global physical address (R3); an unlisted byte reads 0 -/
  mem : List Host.Cell := []
  /-- 32-byte sectors that are poisoned, by sector number (R382) -/
  poison : List Nat := []
  /-- key bytes that a capacity-tier line was encrypted with, by line number (R331) -/
  lineKey : Tbl (List Byte) := []
  /-- c-cycles since the package left reset (R4, R358) -/
  clk : Nat := 0
  writes : Tbl PWrite := []
  loads : Tbl PLoad := []
  atoms : Tbl Atom := []
  mcas : Tbl Mcas := []
  mats : Tbl MatOp := []
  ops : Tbl EngOp := []
  groups : Tbl Group := []
  grids : Tbl Grid := []
  wgs : Tbl Wg := []
  warps : Tbl Warp := []
  /-- holders and warps that are saved and not resident (R24, R349), under the keys they had -/
  savedWgs : Tbl Wg := []
  savedWarps : Tbl Warp := []
  lcores : Tbl LCore := []
  pcores : Tbl PCore := []
  /-- die-local copies: bytes homed on another die that a die's slices hold, by die over the pod and physical address (R198, R200) -/
  dcopies : Tbl (Tbl Copy) := []
  ctxs : Tbl Ctx := []
  parts : Tbl Part := []
  pkgs : Tbl Pkg := []
  /-- protected 64 KiB memory units, each with the context whose cut protects it (R363) -/
  protU : List (Nat × Nat) := []
  /-- tables of the cut in progress of context k at 2 k + 1, and of its last durable cut at 2 k -/
  snaps : Tbl Snap := []
  /-- the runtime's answer to the latest load of a code object (R82) -/
  loadAnswer : LoadAnswer := .none
  /-- inputs from outside not yet taken, oldest first (the model's own) -/
  inputs : List (Instr × EvArg) := []
  /-- counter of free values taken (the model's own) -/
  free : Nat := 0
  /-- next identifier (the model's own) -/
  nextId : Nat := 1
  /-- quarter whose issue group runs the instruction at hand (the model's own) -/
  cur : Nat := 0
  /-- operands of the event at hand (the model's own) -/
  arg : EvArg := {}
deriving DecidableEq, Repr, Inhabited

/-- A journal record of bring-up (R407): step, unit, method, result, start count. -/
def journalEntry (step unit method result start : Nat) : List Byte :=
  leBytes 2 step ++ leBytes 1 unit ++ leBytes 1 method ++ leBytes 1 result ++ leBytes 3 0 ++ leBytes 8 start

/-- The steps that bring a package into reduced service on a die (R405, R407): the Atrium, the die's HBM stacks and their remap
tables, and the die's SRAM. -/
def reducedSteps (die : Nat) : List (Nat × Nat) :=
  [(1, 0), (3, 3 * die), (3, 3 * die + 1), (3, 3 * die + 2), (4, 3 * die), (4, 3 * die + 1), (4, 3 * die + 2), (5, die)]

/-- The machine right after reset (R405): package 0 in reduced service on die 0 after its first start, no context, no work, clock 0. -/
def State.reset : State :=
  { pkgs := [(0, { starts := 1, journal := (reducedSteps 0).map fun e => journalEntry e.1 e.2 0 0 1 })] }

end Sys2Proof.Machine
end

