-- ==== Sys2Proof/Machine/Place.lean ====
section
/-! DEFINITION. Where things are: numbering of packages, dies, halls, cores, quarters and logical cores (R10, R12, R23),
scope levels (R66, R198, R202), and access to the tables of the state. -/

namespace Sys2Proof.Machine

/-! ### Numbers of places -/

/-- Physical core number of a place in the pod. -/
def pcoreOf (pkg die hall core : Nat) : Nat := pkg * 1280 + die * 320 + hall * 8 + core
def pcPkg (c : Nat) : Nat := c / 1280
/-- Die of a core, counted over the pod. -/
def pcDie (c : Nat) : Nat := c / 320
/-- Hall of a core, counted over the pod. -/
def pcHall (c : Nat) : Nat := c / 8
/-- Quarter number of quarter i of a core. -/
def quarterOf (c i : Nat) : Nat := c * 4 + i

/-- Key of a context's part in a logical package. -/
def partKey (ctx lpkg : Nat) : Nat := ctx * 8192 + lpkg
/-- Key of a logical core of a part. -/
def lcoreKey (part n : Nat) : Nat := part * 2048 + n
def lkPart (lk : Nat) : Nat := lk / 2048
def lkCtx (lk : Nat) : Nat := lk / 2048 / 8192
/-- Logical package and core of a logical core, in the layout of `LCOREID` (R44). -/
def lkPlace (lk : Nat) : Nat := lk % 2048 + 2048 * (lk / 2048 % 8192)
/-- The logical core of a context that a value in the layout of `LCOREID` names. -/
def placeLk (ctx place : Nat) : Nat := lcoreKey (partKey ctx (place / 2048 % 8192)) (place % 2048)

/-- `PHYSLOC` of a physical core (R44). -/
def physloc (c : Nat) : Nat := c % 8 + 8 * (c / 8 % 40) + 512 * (c / 320 % 4) + 2048 * (c / 1280)
/-- The physical core that a value in the layout of `PHYSLOC` names, where it exists. -/
def ofPhysloc (v : Nat) : Option Nat :=
  let core := v % 8
  let hall := v / 8 % 64
  let die := v / 512 % 4
  let pkg := v / 2048 % 8192
  if hall < 40 then some (pcoreOf pkg die hall core) else none

/-! ### Reading the tables -/

def warpOf (s : State) (w : Nat) : Warp := tblGet s.warps w
def thrOf (s : State) (m : Member) : Thread := tblGet (warpOf s m.warp).lanes m.lane
def present (s : State) (w l : Nat) : Bool := (tblGet? (warpOf s w).lanes l).isSome
def wgOf (s : State) (g : Nat) : Wg := tblGet s.wgs g
/-- The holder of a warp. -/
def wgOfWarp (s : State) (w : Nat) : Wg := wgOf s (warpOf s w).wg
def lcoreOf (s : State) (lk : Nat) : LCore := tblGet s.lcores lk
def partOf (s : State) (k : Nat) : Part := tblGet s.parts k
def ctxOf (s : State) (c : Nat) : Ctx := tblGet s.ctxs c
def gridOf (s : State) (g : Nat) : Grid := tblGet s.grids g
def pcoreAt (s : State) (c : Nat) : PCore := tblGet s.pcores c
def pkgAt (s : State) (p : Nat) : Pkg := tblGet s.pkgs p
/-- The part of the context in the logical package where a warp runs. -/
def partOfWarp (s : State) (w : Nat) : Nat := lkPart (wgOfWarp s w).lcore
/-- The physical core of a logical core; the last one while it is not resident. -/
def coreOfL (s : State) (lk : Nat) : Nat := (lcoreOf s lk).pcore.getD (lcoreOf s lk).last
/-- The physical core of a holder: its logical core's, or its own where it is a replica that does not lead (R368). -/
def coreOfWg (s : State) (g : Nat) : Nat := (wgOf s g).rcore.getD (coreOfL s (wgOf s g).lcore)
def coreOfWarp (s : State) (w : Nat) : Nat := coreOfWg s (warpOf s w).wg
/-- The part of a context whose package is the one given. -/
def partAt? (s : State) (ctx pkg : Nat) : Option Nat :=
  (s.parts.find? fun e => e.1 / 8192 == ctx && e.2.pkg == pkg).map (·.1)
/-- The part that a context number names on a package (R333, R357). -/
def partByCtxid? (s : State) (pkg ctxid : Nat) : Option Nat :=
  (s.parts.find? fun e => e.2.pkg == pkg && e.2.ctxid == ctxid).map (·.1)
/-- The header of the kernel a warp runs. -/
def khdrOfWarp (s : State) (w : Nat) : Khdr := (wgOfWarp s w).k
/-- The warp belongs to a deterministic grid (R268). -/
def isDet (s : State) (w : Nat) : Bool := (khdrOfWarp s w).det
/-- The warp is one of several replicas (R368). -/
def isRedun (s : State) (w : Nat) : Bool := decide ((khdrOfWarp s w).redun ≠ 0)
/-- The warp's holder leads its replicas, or has none. -/
def isLeader (s : State) (w : Nat) : Bool := (wgOfWarp s w).leader == 0 || (wgOfWarp s w).leader == (warpOf s w).wg
def isPriv (s : State) (w : Nat) : Bool := (ctxOf s (warpOf s w).ctx).priv

/-- The warps of the replicas of a warp, itself included. -/
def replicaWarps (s : State) (w : Nat) : List Nat :=
  let g := wgOfWarp s w
  if g.leader = 0 then [w]
  else (s.warps.filter fun e => (wgOf s e.2.wg).leader == g.leader && e.2.idx == (warpOf s w).idx &&
        decide ((wgOf s e.2.wg).seqi = g.seqi)).map (·.1)
/-- A replica that does not lead takes values from the leader. -/
def takesForward (s : State) (m : Member) : Bool := isRedun s m.warp && !isLeader s m.warp

/-! ### Changing the tables -/

def updWarp (s : State) (w : Nat) (f : Warp → Warp) : State := { s with warps := tblUpd s.warps w f }
def updThr (s : State) (m : Member) (f : Thread → Thread) : State :=
  updWarp s m.warp fun w => { w with lanes := tblUpd w.lanes m.lane f }
def updWg (s : State) (g : Nat) (f : Wg → Wg) : State := { s with wgs := tblUpd s.wgs g f }
def updLcore (s : State) (k : Nat) (f : LCore → LCore) : State := { s with lcores := tblUpd s.lcores k f }
def updPart (s : State) (k : Nat) (f : Part → Part) : State := { s with parts := tblUpd s.parts k f }
def updCtx (s : State) (k : Nat) (f : Ctx → Ctx) : State := { s with ctxs := tblUpd s.ctxs k f }
def updGrid (s : State) (k : Nat) (f : Grid → Grid) : State := { s with grids := tblUpd s.grids k f }
def updPcore (s : State) (k : Nat) (f : PCore → PCore) : State := { s with pcores := tblSet s.pcores k (f (pcoreAt s k)) }
def updPkg (s : State) (k : Nat) (f : Pkg → Pkg) : State := { s with pkgs := tblUpd s.pkgs k f }
def updGroup (s : State) (q : Nat) (f : Group → Group) : State := { s with groups := tblUpd s.groups q f }
def updOp (s : State) (k : Nat) (f : EngOp → EngOp) : State := { s with ops := tblUpd s.ops k f }
def updLoad (s : State) (k : Nat) (f : PLoad → PLoad) : State := { s with loads := tblUpd s.loads k f }
/-- The next free value's number; the counter moves on. -/
def tookFree (s : State) : State := { s with free := s.free + 1 }
def tookId (s : State) : State := { s with nextId := s.nextId + 1 }

/-! ### Scopes -/

/-- Two physical cores lie in one instance of a scope: 0 warp and 1 wg by core, 2 hall, 3 die, 4 pkg, 5 pod, 6 sys (R202). -/
def sameScope (scope c d : Nat) : Bool :=
  match scope with
  | 0 => c == d
  | 1 => c == d
  | 2 => c / 8 == d / 8
  | 3 => c / 320 == d / 320
  | 4 => c / 1280 == d / 1280
  | _ => true

/-- The smallest scope that contains two physical cores (R214). -/
def smallestScope (c d : Nat) : Nat :=
  if c = d then 1 else if c / 8 = d / 8 then 2 else if c / 320 = d / 320 then 3 else if c / 1280 = d / 1280 then 4 else 5

/-- The level a write must have reached to be performed at a scope: 4 stands for its home (R198). -/
def levelOf (scope : Nat) : Nat := min scope 4

end Sys2Proof.Machine
end

