-- ==== Sys2Proof/Machine/Mem.lean ====
section
/-! DEFINITION. Memory: the assigned addresses (R394), homes (R192, R193), writes on their way to their homes (R198 to
R201, R203), reads as a place sees them, poison (R382), key slots (R330, R331), and translation and permission tags
(R312 to R318, R323, R324). -/

namespace Sys2Proof.Machine

/-! ### Addresses -/

/-- Package and local part of a global physical address (R3). -/
def gpPkg (a : Nat) : Nat := a / 2 ^ 51
def gpLocal (a : Nat) : Nat := a % 2 ^ 51
def gpOf (pkg l : Nat) : Nat := pkg * 2 ^ 51 + l

/-- Local address in the capacity tier (R330, R394). -/
def isCapacity (l : Nat) : Bool := decide (0x100000000000 ≤ l) && decide (l < 0x400000000000)
/-- Local address in host memory (R394). -/
def hostLocal (l : Nat) : Bool := decide (0x400000000000 ≤ l) && decide (l < 0x700000000000)
/-- Local address in the on-chip map (R27). -/
def isOnChip (l : Nat) : Bool := decide (0x7000000000000 ≤ l)

/-- Offsets of the on-chip map that exist: dies 0 to 3, halls below 40, no reserved offset (R26, R27). -/
def onChipAssigned (l : Nat) : Bool :=
  let o := l - 0x7000000000000
  decide (o < 2 ^ 35) && decide (o / 2 ^ 27 % 64 < 40) && decide (o % 2 ^ 24 < 0xC80000)

/-- The local address holds memory of the package (R394), or is an assigned address of the on-chip map. -/
def assignedLocal (p : Pkg) (l : Nat) : Bool :=
  if l < 0xC000000000 then p.hbm.contains (l / 2 ^ 36)
  else if l < 0x100000000000 then false
  else if l < 0x140000000000 then decide (l - 0x100000000000 < p.lpddr)
  else if l < 0x200000000000 then false
  else if l < 0x400000000000 then
    let i := (l - 0x200000000000) / 0x80000000000
    decide ((l - 0x200000000000) % 0x80000000000 < p.cxl.getD i 0)
  else if l < 0x700000000000 then true
  else if l < 0x7000000000000 then false
  else onChipAssigned l && p.dies.contains ((l - 0x7000000000000) / 2 ^ 33 % 4)

/-- The global physical address is assigned in a package that is present. -/
def assigned (s : State) (a : Nat) : Bool :=
  match tblGet? s.pkgs (gpPkg a) with
  | none => false
  | some p => assignedLocal p (gpLocal a)

/-- The byte is host memory behind a PCIe port (R395, R396). -/
def hostPcie (s : State) (a : Nat) : Bool := hostLocal (gpLocal a) && !(pkgAt s (gpPkg a)).hostCxl

/-- A fabric port of a package carries traffic (R397, R398, R405). -/
def fabricUp (s : State) (pkg : Nat) : Bool :=
  (pkgAt s pkg).full && (List.range 8).any fun i => (tblGet (pkgAt s pkg).ports i).up && !(tblGet (pkgAt s pkg).ports i).retrain

/-- An access of a package reaches the home package of a byte (R398). -/
def reaches (s : State) (pkg a : Nat) : Bool := gpPkg a == pkg || (fabricUp s pkg && fabricUp s (gpPkg a))

/-- The exclusive or of the fields of w bits of a number, from bit b on, n fields (R193). -/
def xorFields (a b w : Nat) : Nat → Nat
  | 0 => 0
  | n + 1 => (a / 2 ^ (b + w * n) % 2 ^ w) ^^^ xorFields a b w n

/-- Home slice of a local address (R193). -/
def homeSlice (l : Nat) : Nat := xorFields l 9 6 7

/-- Home die of a global physical address, counted over the pod (R192, R193). -/
def homeDie (a : Nat) : Nat :=
  let l := gpLocal a
  gpPkg a * 4 + (if l < 0xC000000000 then l / 2 ^ 36 / 3 else xorFields l 9 2 21)

/-! ### The canonical form -/

/-- The canonical form of memory: addresses strictly rising, and no listed byte equal to 0, which an unlisted byte reads. -/
def Memory.wf (m : List Host.Cell) : Bool := bmWf m

/-! ### Reading -/

/-- A write covers a byte. -/
def covers (w : PWrite) (a : Nat) : Bool := decide (w.addr ≤ a) && decide (a < w.addr + w.data.length)
/-- Two ranges of bytes share a byte. -/
def overlaps (a n b m : Nat) : Bool := decide (a < b + m) && decide (b < a + n)

/-- A write is visible at a core and to a warp of it before it reaches its home (R198, R203). -/
def visibleTo (w : PWrite) (core warp : Nat) : Bool :=
  match w.level with
  | 0 => w.warp == warp && w.pcore == core
  | 1 => w.pcore == core
  | 2 => w.pcore / 8 == core / 8
  | _ => w.pcore / 320 == core / 320

/-- The nearest visible write of a byte: the lowest level first, then the latest to arrive there. A store queue stands in the order
of its table. -/
def nearest : Tbl PWrite → Nat → Nat → Nat → Option PWrite → Option PWrite
  | [], _, _, _, best => best
  | (_, w) :: t, core, warp, a, best =>
    let best' :=
      if covers w a && visibleTo w core warp then
        match best with
        | none => some w
        | some b => if w.level < b.level ∨ (w.level = b.level ∧ (w.level = 0 ∨ b.arr ≤ w.arr)) then some w else some b
      else best
    nearest t core warp a best'

/-- The 64 key bytes of a slot of a package; none are loaded in an empty slot (R330). -/
def keyBytes (s : State) (pkg slot : Nat) : List Byte := (tblGet? (pkgAt s pkg).keys slot).getD []

/-- An access under a slot may be made at a package: the slot is loaded, and it is not being cleared (R330, R402). -/
def keyLoaded (s : State) (pkg slot : Nat) : Bool :=
  (tblGet? (pkgAt s pkg).keys slot).isSome && (pkgAt s pkg).clearing != some slot

/-- A byte as it stands at its home, decrypted with some key bytes (R331). -/
def underKey (s : State) (a : Nat) (kb : List Byte) : Byte :=
  match tblGet? s.lineKey (a / 128) with
  | some k => if k = kb then bmGet s.mem a else Config.wrongKey (leNat kb) (leNat k) a
  | none => bmGet s.mem a

/-- A byte as it stands at its home, read under a key slot (R331). -/
def homeByte (s : State) (a key : Nat) : Byte :=
  if isCapacity (gpLocal a) then underKey s a (keyBytes s (gpPkg a) key) else bmGet s.mem a

/-- A write on its way covers one of n bytes, and a core and a warp of it see it. -/
def seesWrite (s : State) (core warp a n : Nat) : Bool := (List.range n).any fun k => (nearest s.writes core warp (a + k) none).isSome

/-- A byte as a core and a warp of it see it; an uncached access reads the home. -/
def viewByte (s : State) (core warp key a : Nat) : Byte :=
  match nearest s.writes core warp a none with
  | some w => if w.key = key then w.data.getD (a - w.addr) 0 else Config.wrongKey key w.key a
  | none => homeByte s a key

/-- n bytes as a core and a warp of it see them, past every copy. -/
def viewBytes (s : State) (core warp key a n : Nat) : List Byte :=
  (List.range n).map fun k => viewByte s core warp key (a + k)

/-! ### Copies of lines (R198, R200, R325) -/

/-- The copies that a die's slices hold of bytes homed elsewhere. -/
def dieCopies (s : State) (die : Nat) : Tbl Copy := tblGet s.dcopies die

/-- A hall filter's record of a 128-byte line: the cores of the hall that hold a copy of a byte of it (R200). -/
def hallFilter (s : State) (hall line : Nat) : List Nat :=
  ((List.range 8).map fun i => hall * 8 + i).filter fun c => (pcoreAt s c).copies.any fun e => e.1 / 128 == line
/-- A die directory's record of a 512-byte region: the halls of the die with a core that holds a copy of a byte of it (R200). -/
def dieDirectory (s : State) (die region : Nat) : List Nat :=
  ((List.range 40).map fun i => die * 40 + i).filter fun h => (List.range 4).any fun j => !(hallFilter s h (region * 4 + j)).isEmpty

/-- The value of a byte in a set of copies, where its KEYIDX and TAG match those of the access (R325). -/
def copyIn? (t : Tbl Copy) (key tag a : Nat) : Option Byte :=
  match tblGet? t a with
  | some c => if c.key = key ∧ c.tag = tag then some c.val else none
  | none => none

/-- Every one of n bytes stands in a set of copies, and no write that the warp sees covers one of them: the copies serve the access
whole (R104). -/
def copiesServe (s : State) (t : Tbl Copy) (core warp key tag a n : Nat) : Bool :=
  (List.range n).all fun k => (copyIn? t key tag (a + k)).isSome && (nearest s.writes core warp (a + k) none).isNone

/-- Where n bytes of a load come from: the core's copies, its die's copies, or the writes and homes below (R198, R206). A set of
copies that holds them all serves them where the free choice takes it. -/
inductive Served where
  | core | die | below
deriving DecidableEq, Repr

/-- The place that serves a load of n bytes at a scope's point: below that point no copy is used (R198). -/
def servedBy (s : State) (core warp key tag a n lane scope : Nat) : Served :=
  if scope < 2 && copiesServe s (pcoreAt s core).copies core warp key tag a n && Config.stale s.free lane then .core
  else if scope < 4 && homeDie a != pcDie core && copiesServe s (dieCopies s (pcDie core)) core warp key tag a n &&
      Config.stale s.free (lane + 64) then .die
  else .below

/-- n bytes of a load at a scope's point. The bytes come from one place (R104, R206). -/
def loadView (s : State) (core warp key tag a n lane scope : Nat) : List Byte :=
  match servedBy s core warp key tag a n lane scope with
  | .core => (List.range n).map fun k => (copyIn? (pcoreAt s core).copies key tag (a + k)).getD 0
  | .die => (List.range n).map fun k => (copyIn? (dieCopies s (pcDie core)) key tag (a + k)).getD 0
  | .below => viewBytes s core warp key a n

/-- A byte lies in an aligned 8-byte unit that some range touches. -/
def inUnits (a n b : Nat) : Bool := decide (n ≠ 0) && decide (a / 8 ≤ b / 8) && decide (b / 8 ≤ (a + n - 1) / 8)
/-- A set of copies without the aligned 8-byte units that a range touches. -/
def dropUnits (t : Tbl Copy) (a n : Nat) : Tbl Copy := t.filter fun e => !inUnits a n e.1
/-- A set of copies with loaded bytes placed. What else it held of their aligned 8-byte units goes: the copies of a unit come from
one load (R104). -/
def placeCopies (t : Tbl Copy) (a key tag : Nat) (l : List Byte) : Tbl Copy :=
  (List.range l.length).foldl (fun t k => tblSet t (a + k) { val := l.getD k 0, key := key, tag := tag }) (dropUnits t a l.length)

/-- Bytes that a load delivered from below become copies of its die, where they are homed elsewhere, and of its core; bytes that the
die's copies delivered become copies of the core. -/
def keepCopies (s : State) (src : Served) (core a key tag : Nat) (l : List Byte) : State :=
  let s1 : State := if src = .below ∧ homeDie a ≠ pcDie core then
      { s with dcopies := tblSet s.dcopies (pcDie core) (placeCopies (dieCopies s (pcDie core)) a key tag l) } else s
  if src = .core then s1 else updPcore s1 core fun p => { p with copies := placeCopies p.copies a key tag l }
/-- The copies that a core and its die hold of some bytes give way to what was written or performed there. -/
def dropCopiesOf (s : State) (core a n : Nat) : State :=
  let s1 : State := { s with dcopies := tblUpd s.dcopies (pcDie core) fun t => dropUnits t a n }
  if (tblGet? s1.pcores core).isNone then s1 else updPcore s1 core fun p => { p with copies := dropUnits p.copies a n }
/-- A core drops its copies (R200). -/
def dropCopies (s : State) (core : Nat) : State :=
  if (pcoreAt s core).copies.isEmpty then s else updPcore s core fun p => { p with copies := [] }
/-- A die drops its copies (R200). -/
def dropDie (s : State) (die : Nat) : State := { s with dcopies := tblDel s.dcopies die }
/-- The copies of an issuer below the point of a scope are invalidated: its core's below hall, its die's below pkg (R198, R200). -/
def dropBelow (s : State) (core scope : Nat) : State :=
  if scope < 2 then s else if scope < 4 then dropCopies s core else dropDie (dropCopies s core) (pcDie core)

/-- n bytes at their homes, as the page walker and the device's own readers see them (R312, R324). -/
def homeBytes (s : State) (a n : Nat) : List Byte := bmList s.mem a n
/-- A little-endian number of n bytes at its home. -/
def homeNat (s : State) (a n : Nat) : Nat := leNat (homeBytes s a n)

/-- A byte of HBM lies in a channel that is offline (R385): it reads as poison, and writes to it are discarded. -/
def channelLost (s : State) (a : Nat) : Bool :=
  (pkgAt s (gpPkg a)).offline.any fun c => decide (gpLocal a < 0xC000000000) && c == Config.channelOf (gpLocal a)

/-- A byte of the range lies in a poisoned sector (R382). -/
def poisoned (s : State) (a n : Nat) : Bool :=
  (decide (n ≠ 0) && s.poison.any fun k => overlaps (k * 32) 32 a n) ||
  (!(pkgAt s (gpPkg a)).offline.isEmpty && (List.range n).any fun k => channelLost s (a + k))

/-! ### Writing -/

/-- Units of 64 KiB that the Surveyor tracks (R360): the bits of a unit are set when a write reaches its home. -/
def markUnits (s : State) (a n : Nat) : State :=
  if n = 0 then s
  else
    let us := (List.range ((a + n - 1) / 65536 - a / 65536 + 1)).map fun i => a / 65536 + i
    { s with ctxs := tblMap s.ctxs fun _ c =>
        { c with ckpt := c.ckpt.map fun k =>
            { k with clear := k.clear.filter fun u => !us.contains u, since := k.since.map fun l => us.foldr insNat l } } }

/-- A line of the capacity tier that is rewritten under other key bytes: its bytes become what they read as under those (R331). -/
def rekeyLine (s : State) (kb : List Byte) (line : Nat) : State :=
  let bytes := (List.range 128).map fun k => (line * 128 + k, underKey s (line * 128 + k) kb)
  { s with mem := bmSetAll s.mem bytes, lineKey := tblSet s.lineKey line kb }

/-- The lines of a write to the capacity tier take the key that it carries. -/
def rekey (s : State) (a key n : Nat) : State :=
  if isCapacity (gpLocal a) && decide (n ≠ 0) then
    (List.range ((a + n - 1) / 128 - a / 128 + 1)).foldl (fun s i =>
      let line := a / 128 + i
      let kb := keyBytes s (gpPkg a) key
      match tblGet? s.lineKey line with
      | some k => if k = kb then s else rekeyLine s kb line
      | none => { s with lineKey := tblSet s.lineKey line kb }) s
  else s

/-- Bytes written at their home: memory, the key of capacity-tier lines, the Surveyor's bits; a sector written whole is
no longer poisoned (R382). -/
def putHome (s : State) (a key : Nat) (data : List Byte) : State :=
  let s2 := rekey s a key data.length
  let s2 := { s2 with mem := bmSetAll s2.mem (((List.range data.length).map fun k => (a + k, data.getD k 0)).filter fun e => !channelLost s e.1) }
  let s3 := { s2 with poison := s2.poison.filter fun k => !(decide (a ≤ k * 32) && decide (k * 32 + 32 ≤ a + data.length)) }
  markUnits s3 a data.length

/-- A number of n bytes written at its home. -/
def putNat (s : State) (a n v : Nat) : State := putHome s a 0 (leBytes n v)

/-- A write enters the machine at a level: 0 the warp's store queue, or an engine's own level. -/
def pushWrite (s : State) (w : PWrite) : State :=
  let s1 := if w.level = 0 then s else dropCopiesOf s w.pcore w.addr w.data.length
  { s1 with writes := s1.writes ++ [(s1.nextId, { w with arr := s1.nextId })], nextId := s1.nextId + 1 }

/-- Every write that a core sees, and that came before an identifier, has been performed at a level: the writes that a
release of one of the core's warps orders (R199, R205). -/
def performedAt (s : State) (core warp level n : Nat) : Bool :=
  s.writes.all fun e => !(decide (e.1 < n) && decide (e.2.level < level) && visibleTo e.2 core warp)

/-- Every write that a core sees of some bytes, and that came before an identifier, has been merged at its home: an atomic reads what
happens-before it (R206, R207). -/
def mergedBefore (s : State) (core warp a n id : Nat) : Bool :=
  s.writes.all fun e => !(decide (e.1 < id) && visibleTo e.2 core warp && overlaps e.2.addr e.2.data.length a n)

/-- The atomics, posted ones included, and the compare-and-swaps of a thread that came before an identifier have been
performed (R281). -/
def atomsDone (s : State) (warp lane n : Nat) : Bool :=
  (s.atoms.all fun e => !(decide (e.1 < n) && e.2.warp == warp && e.2.lane == lane)) &&
  (s.mcas.all fun e => !(decide (e.1 < n) && e.2.warp == warp && e.2.lane == lane))

/-- The next level of a write: the home when the die's slice is the home slice, or when the page is uncached; a word of the on-chip map
has no home slice and no copies (R192). -/
def nextLevel (w : PWrite) : Nat :=
  if w.uncached || w.scr || isOnChip (gpLocal w.addr) then 4
  else if w.level ≥ 3 then 4
  else if w.level = 2 ∧ homeDie w.addr = pcDie w.pcore then 4
  else w.level + 1

/-- A warp that has been asked to stop stands still: it abandons its stalled tile operations, and its queue drains (R184, R344). -/
def abandoning (s : State) (w : Nat) : Bool := (warpOf s w).stopAt.isSome && (warpOf s w).lanes.all fun e => e.2.stopped

/-- A `TST` of the warp that was issued before an identifier has not made its stores (R177). -/
def tilesDone (s : State) (warp n : Nat) : Bool :=
  s.mats.all fun e => !(e.2.warp == warp && decide (e.2.kind = 2) && decide (e.2.order < n)) || (e.2.stall.isSome && abandoning s warp)

/-- An operation that reads memory through a record: a tile operation, or an `MMA` whose B is a record (R168, R174). -/
def readsRec (o : MatOp) : Bool := decide (o.kind = 1) || (decide (o.kind = 0) && decide (o.dsel % 128 ≠ 127))
/-- A word of a tile of a warp, or of the operand buffer of a holder, is written: an `MMA` in flight that has not read it yet reads its old
value or, later, the new one (R173). -/
def readBefore (s : State) (tile : Bool) (owner : Nat) (l : List (Nat × Word)) : State :=
  { s with mats := tblMap s.mats fun id o =>
      if o.kind = 0 ∧ (if tile then o.warp else o.wg) = owner then
        { o with img := l.foldl (fun t e =>
            if (tblGet? t e.1).isNone && Config.early s.free (id * 2 ^ 32 + e.1) then tblSet t e.1 e.2 else t) o.img }
      else o }
/-- The record reads of a warp that come before an identifier in its program order are made, or a stop has ended them for now (R174,
R203, R344). -/
def recReadsDone (s : State) (warp n : Nat) : Bool :=
  s.mats.all fun e => !(e.2.warp == warp && readsRec e.2 && decide (e.2.order < n)) || abandoning s warp

/-- Every write that a release orders has been performed at a level: the writes that its warp sees on its core, its tile stores, behind
its record reads, and its thread's atomics, posted ones included, and compare-and-swaps, as far as they came before an identifier (R199, R205, R221, R281). -/
def releasedAt (s : State) (core warp lane level n : Nat) : Bool :=
  performedAt s core warp level n && tilesDone s warp n && recReadsDone s warp n && atomsDone s warp lane n

/-- A line that some compare-and-swap has locked (R210). -/
def lineLocked (s : State) (a n : Nat) : Bool := s.mcas.any fun e => e.2.held.any fun l => overlaps (l * 128) 128 a n
/-- Two ranges of bytes share a 128-byte line. -/
def sameLine (a n b m : Nat) : Bool := overlaps (a / 128 * 128) ((a % 128 + n + 127) / 128 * 128) b m
/-- An access that waited for the lock of a line and arrived before an access with the turn n has still to be made: an atomic, a
write-back, the fill of a thread that issues, or a compare-and-swap whose release is complete (R210). -/
def turnBefore (s : State) (n a m : Nat) : Bool :=
  (s.mcas.any fun e => decide (e.2.arrive < n) && (match e.2.want with | l :: _ => overlaps (l * 128) 128 a m | [] => false) &&
    reaches s (e.2.pcore / 1280) (e.2.want.headD 0 * 128) && releasedAt s e.2.pcore e.2.warp e.2.lane 4 e.1) ||
  (s.atoms.any fun e => (match e.2.turn with | some t => decide (t < n) | none => false) && sameLine a m e.2.addr e.2.size) ||
  (s.writes.any fun e => (match e.2.turn with | some t => decide (t < n) | none => false) && sameLine a m e.2.addr e.2.data.length) ||
  (s.warps.any fun e => !e.2.trapped && !e.2.halted && e.2.lanes.any fun t => !t.2.stopped &&
    (match t.2.wait with | .fill l k => decide (k < n) && overlaps (l * 128) 128 a m | _ => false))
/-- The home of some bytes takes an access now: no compare-and-swap has locked their line, and no access that waited for its lock and
arrived before comes first; an access without a turn comes behind all that have one (R210). -/
def homeTakes (s : State) (turn : Option Nat) (a n : Nat) : Bool :=
  !lineLocked s a n && !turnBefore s (turn.getD s.nextId) a n

/-- A write may move up when none of its own level and instance that came before must go first: the whole queue of its
warp in order (R203), the stores of lower lanes of its own instruction to its bytes (R103), and earlier writes of the same bytes
elsewhere (R201). Atomics of its warp to the same bytes that were issued before it, its stalled `TST`s unless they are being abandoned,
and the record reads of its matrix and tile operations go first (R174, R177, R203). -/
def movesFree (s : State) (id : Nat) (w : PWrite) : Bool :=
  !w.blocked && (decide (nextLevel w < 4) || w.scr || reaches s (w.pcore / 1280) w.addr) &&
  (match w.rel with
   | some l => w.level != 0 || releasedAt s w.pcore w.warp w.lane l id
   | none => true) &&
  (s.writes.all fun e => !(decide (w.ins ≠ 0) && e.2.ins == w.ins && decide (e.1 < id) && e.2.level == w.level &&
    overlaps e.2.addr e.2.data.length w.addr w.data.length)) &&
  (s.writes.all fun e =>
    e.1 == id ||
    !(if w.level = 0 then e.2.level == 0 && e.2.warp == w.warp && e.2.pcore == w.pcore &&
          decide (e.2.arr < w.arr ∨ (e.2.arr = w.arr ∧ e.1 < id))
      else e.2.level == w.level && (match w.level with
        | 1 => e.2.pcore == w.pcore
        | 2 => e.2.pcore / 8 == w.pcore / 8
        | _ => e.2.pcore / 320 == w.pcore / 320) && decide (e.2.arr < w.arr) &&
        overlaps e.2.addr e.2.data.length w.addr w.data.length)) &&
  (s.atoms.all fun e => !(decide (e.1 < id) && e.2.posted.isNone && e.2.warp == w.warp && decide (w.warp ≠ 0) && overlaps e.2.addr e.2.size w.addr w.data.length)) &&
  (decide (w.level ≠ 0) || (tilesDone s w.warp w.arr && recReadsDone s w.warp w.arr))

/-- A write moves up when nothing must go first, and its home takes it where that is its next level (R210). -/
def mayMove (s : State) (id : Nat) (w : PWrite) : Bool :=
  movesFree s id w && (decide (nextLevel w ≠ 4) || homeTakes s w.turn w.addr w.data.length)

/-! ### Translation (R312 to R318) -/

/-- What an access needs of a page. -/
inductive Need where
  | load | store | fetch
deriving DecidableEq, Repr

/-- Bits [63:57] of the address equal bit 56 (R316 check 1). -/
def canonical (va : Nat) : Bool := va / 2 ^ 56 % 2 ^ 8 = 0 || va / 2 ^ 56 % 2 ^ 8 = 255
/-- The logical aperture (R28). -/
def isAperture (va : Nat) : Bool := va / 2 ^ 48 % 2 ^ 16 = 0x00FF

/-- Trailing one bits of a number, at most n. -/
def trailingOnes : Nat → Nat → Nat
  | 0, _ => 0
  | n + 1, v => if v % 2 = 1 then trailingOnes n (v / 2) + 1 else 0

/-- One leaf entry at a level, as a cached translation; none when R316's check 3 fails. -/
def leafEntry (va level lo hi : Nat) : Option TlbEntry :=
  let e := trailingOnes 21 (lo / 2 ^ 11)
  let size := 4096 * 2 ^ e
  let pbase := lo / size * size
  let key := hi / 2 ^ 20 % 4096
  if level > 2 ∨ e > 20 ∨ e < 9 * level ∨ e > 9 * level + 8 ∨ hi / 2 ^ 32 ≠ 0 ∨ lo / 128 % 16 ≠ 0 ∨ lo / 32 % 4 > 1 ∨
      (isCapacity (gpLocal pbase) ≠ decide (key ≠ 0)) then none
  else some { vbase := va % 2 ^ 57 / size * size, pbase := pbase, size := size, tag := hi % 2 ^ 20, key := key,
              rd := decide (lo / 4 % 2 = 1), wr := decide (lo / 8 % 2 = 1), ex := decide (lo / 16 % 2 = 1),
              uncached := decide (lo / 32 % 4 = 1) }

/-- The walk from a table (R312): n levels remain, `bad` says that an entry above was malformed. -/
def walk (s : State) (pkg va : Nat) : Nat → Nat → Bool → Except Cause TlbEntry
  | 0, _, _ => .error .access
  | n + 1, tbl, bad =>
    let a := gpOf pkg (tbl + 16 * (va / 2 ^ (12 + 9 * n) % 512))
    let lo := homeNat s a 8
    let hi := homeNat s (a + 8) 8
    if lo % 2 = 0 then .error .pageFault
    else if lo / 2 % 2 = 1 then
      if bad then .error .access
      else match leafEntry va n lo hi with
        | none => .error .access
        | some e => .ok e
    else
      let bad' := bad || decide (hi ≠ 0) || decide (lo / 2 ^ 51 ≠ 0) || decide (lo / 4 % 2 ^ 11 ≠ 0)
      walk s pkg va n (lo / 2 ^ 13 % 2 ^ 38 * 2 ^ 13) bad'

/-- The cached translation that covers an address (R318). -/
def tlbFind (l : List TlbEntry) (va : Nat) : Option TlbEntry :=
  l.find? fun e => decide (e.vbase ≤ va % 2 ^ 57) && decide (va % 2 ^ 57 < e.vbase + e.size)

/-- Accesses to a page of host memory through a PCIe port are never cached (R396). -/
def hostPage (s : State) (e : TlbEntry) : TlbEntry := if hostPcie s e.pbase then { e with uncached := true } else e

/-- The leaf of a canonical address: cached, or walked (R312, R318). -/
def leafOf (s : State) (part va : Nat) : Except Cause TlbEntry :=
  match tlbFind (partOf s part).tlb va with
  | some e => .ok e
  | none => walk s (partOf s part).pkg va 5 ((partOf s part).ptbase.toNat / 2 ^ 13 * 2 ^ 13 % 2 ^ 51) false

/-- Physical address of a virtual address in its page. -/
def physOf (e : TlbEntry) (va : Nat) : Nat := e.pbase + (va % 2 ^ 57 - e.vbase)

/-- Check 4 of R316: the address is assigned, and an unprivileged context does not reach the on-chip map. -/
def placeOk (s : State) (part : Nat) (e : TlbEntry) (va : Nat) : Bool :=
  assigned s (physOf e va) && !(isOnChip (gpLocal (physOf e va)) && !(ctxOf s (part / 8192)).priv)

/-- The page of an address after checks 1 to 4 of R316. An aperture address has none: it never reaches them (R28). -/
def pageOf (s : State) (part va : Nat) : Except Cause TlbEntry :=
  if !canonical va || isAperture va then .error .access
  else match leafOf s part va with
    | .error c => .error c
    | .ok e => if placeOk s part e va then .ok (hostPage s e) else .error .access

/-- Check 5 of R316. -/
def permits (e : TlbEntry) : Need → Bool
  | .load => e.rd
  | .store => e.rd && e.wr
  | .fetch => e.ex

/-- Translation and page permission of one address (R316), and the loaded key slot of the capacity tier (R330). -/
def translate (s : State) (part va : Nat) (n : Need) : Except Cause TlbEntry :=
  match pageOf s part va with
  | .error c => .error c
  | .ok e =>
    if !permits e n then .error .access
    else if isCapacity (gpLocal e.pbase) && !keyLoaded s (gpPkg e.pbase) e.key then .error .access
    else .ok e

/-- The place in the table of R316 of the check that an address fails; 6 is the key slot of the capacity tier (R330). -/
def pageCheck (s : State) (part va : Nat) (n : Need) : Nat :=
  if !canonical va then 1
  else match leafOf s part va with
    | .error .pageFault => 2
    | .error _ => 3
    | .ok e => if !placeOk s part e va then 4 else if !permits e n then 5 else 6

/-- A translation enters the caches (R318). -/
def fillTlb (s : State) (part : Nat) (e : TlbEntry) : State :=
  updPart s part fun p => if p.tlb.contains e || p.tlbAway.contains e then p else { p with tlb := e :: p.tlb }

/-! ### Permission tags (R323, R324) -/

/-- The ranges of a list: allowed or not, and whether they are in order. -/
def rangesAllow : List (Nat × Nat) → Nat → Bool
  | [], _ => false
  | (lo, hi) :: t, i => (decide (lo ≤ i) && decide (i ≤ hi)) || rangesAllow t i
def rangesOrdered : List (Nat × Nat) → Bool
  | [] => true
  | [(lo, hi)] => decide (lo ≤ hi)
  | (lo, hi) :: (lo', hi') :: t => decide (lo ≤ hi) && decide (hi < lo') && rangesOrdered ((lo', hi') :: t)

/-- The answer of the clearance table for an identity and a tag (R324). -/
def clearanceWalk (s : State) (part ident tag : Nat) : Bool :=
  let p := partOf s part
  let tbits := p.clrbase.toNat % 32
  let base := gpOf p.pkg (p.clrbase.toNat / 4096 * 4096 % 2 ^ 51)
  if tag ≥ 2 ^ tbits then false
  else
    let a := base + 16 * tag
    let list := homeNat s a 8
    let count := homeNat s (a + 8) 4
    let mode := homeNat s (a + 12) 1
    if homeNat s (a + 13) 3 ≠ 0 ∨ list % 8 ≠ 0 ∨ list / 2 ^ 51 ≠ 0 ∨ count > 2 ^ 24 then false
    else if mode = 2 then true
    else if mode = 1 then
      let rs := (List.range count).map fun k =>
        (homeNat s (gpOf p.pkg list + 8 * k) 4, homeNat s (gpOf p.pkg list + 8 * k + 4) 4)
      if rangesOrdered rs then rangesAllow rs ident else Config.clearance (s.free + ident * 1048576 + tag)
    else false

/-- The check of a tag: tag 0 is not checked, a cached answer is used, a miss is filled from the table (R323). -/
def tagAllows (s : State) (part ident tag : Nat) : Bool :=
  if tag = 0 then true
  else match (partOf s part).clr.find? fun e => e.1 == ident && e.2.1 == tag with
    | some e => e.2.2
    | none => clearanceWalk s part ident tag

/-- The answer enters the clearance cache. -/
def fillClr (s : State) (part ident tag : Nat) : State :=
  if tag = 0 then s
  else
    let e := (ident, tag, tagAllows s part ident tag)
    updPart s part fun p => if p.clr.contains e || p.clrAway.contains e then p else { p with clr := e :: p.clr }

/-- The caches of a part as the next accesses meet them: each entry is found or stands in another cache, freely (R318, R324). -/
def mixCaches (n : Nat) (p : Part) : Part :=
  let t := p.tlb ++ p.tlbAway
  let c := p.clr ++ p.clrAway
  let at? {α : Type} (l : List α) (b : Bool) : List α := (((List.range l.length).zip l).filter fun e => Config.cached n e.1 == b).map (·.2)
  { p with tlb := at? t true, tlbAway := at? t false, clr := at? c true, clrAway := at? c false }

end Sys2Proof.Machine
end

