-- ==== Sys2Proof/Machine/Records.lean ====
section
/-! DEFINITION. Fault records and the fault queue (R340 to R342), audit records and the audit queue (R327, R328), and
the summary counts of a grid's faults (R276). -/

namespace Sys2Proof.Machine

/-- The 64 bytes of a fault record (R342). -/
def faultBytes (r : FaultRec) : List Byte :=
  leBytes 8 r.seq ++ leBytes 1 r.cause ++ leBytes 1 r.src ++ leBytes 1 ((r.pages.length + 7) / 8) ++ leBytes 1 r.pos ++
  leBytes 4 r.place ++ leBytes 8 r.pc.toNat ++ leBytes 1 r.slot ++ leBytes 1 r.lane ++ leBytes 1 r.word ++ leBytes 5 0 ++
  leBytes 8 r.addr ++ leBytes 8 r.info ++ leBytes 8 r.info2 ++ leBytes 8 0

/-- The extension records of a batch: 8 further page addresses each (R342). -/
def extBytes : Nat → List Nat → List (List Byte)
  | 0, _ => []
  | n + 1, ps =>
    if ps.isEmpty then []
    else ((List.range 8).flatMap fun k => leBytes 8 (ps.getD k 0)) :: extBytes n (ps.drop 8)

/-- The records of the queue that a fault takes: itself and its extensions. -/
def faultSlots (r : FaultRec) : List (List Byte) := faultBytes r :: extBytes 4 r.pages

/-- Base of the fault queue of a part as a global physical address, and the size of the ring; none without a queue (R340). -/
def faultQueue? (p : Part) : Option (Nat × Nat) :=
  if p.fqbase = 0 then none
  else some (gpOf p.pkg (p.fqbase.toNat / 4096 * 4096 % 2 ^ 51), 2 ^ (p.fqbase.toNat % 32))



/-- Slots written from TAIL on, and then TAIL (R340). -/
def putSlots (s : State) (b size : Nat) : List (List Byte) → State
  | [] => s
  | x :: t =>
    let tail := homeNat s b 8
    putSlots (putNat (putHome s (b + 128 + 64 * (tail % size)) 0 x) b 8 (tail + 1)) b size t

/-- The free slots of the queue, and none without a queue. -/
def faultFree (s : State) (p : Part) : Nat :=
  match faultQueue? p with
  | none => 0
  | some (b, size) => size - (homeNat s b 8 + 2 ^ 64 - homeNat s (b + 0x40) 8) % 2 ^ 64

/-- Two records come from one source: a warp or sequencer instance, or a unit of the device (R341). -/
def sameSource (a b : FaultRec) : Bool := a.src == b.src && a.place == b.place && a.slot == b.slot

/-- The parts of held records that wait for room. -/
def heldParts (p : Part) : Nat := (p.held.map fun e => (faultSlots e.1).length - e.2).sum

/-- The count of held records, extension records among them, as software reads it at offset 0x08 (R340). -/
def putHeldCount (s : State) (k : Nat) : State :=
  match faultQueue? (partOf s k) with
  | none => s
  | some (b, _) => putNat s (b + 8) 8 (heldParts (partOf s k))

/-- A fault counted in the summary of its grid: the first record, and the count of its cause (R276). -/
def countFault (s : State) (r : FaultRec) : State :=
  updGrid s r.grid fun g =>
    { g with first := (match g.first with | none => some r | some f => some f),
             counts := if bmGet g.counts r.cause = 0xFFFFFFFF#32 then g.counts
                       else bmSet g.counts r.cause (bmGet g.counts r.cause + 1) }

/-- The SEQ that the next record of a part's context takes (R341). -/
def nextSeq (s : State) (k : Nat) : Nat := (ctxOf s (k / 8192)).faultSeq

/-- The parts of a record from the n-th on are written as far as the queue has room; the rest is held, behind the record held before it
of its own source (R341). -/
def writeParts (s : State) (k : Nat) (r : FaultRec) (n : Nat) : State :=
  let p := partOf s k
  let m := if p.held.any fun e => sameSource e.1 r then 0 else min (faultFree s p) ((faultSlots r).length - n)
  let s1 := match faultQueue? p with
    | some (b, size) => putSlots s b size (((faultSlots r).drop n).take m)
    | none => s
  if n + m = (faultSlots r).length then s1
  else putHeldCount (updPart s1 k fun p => { p with held := p.held ++ [(r, n + m)] }) k

/-- A fault record is appended to the queue of a part: it takes the next SEQ of its context, and it is written, or held for want of room
(R341). -/
def appendFault (s : State) (k : Nat) (r : FaultRec) : State :=
  let r := { r with seq := nextSeq s k }
  writeParts (countFault (updCtx s (k / 8192) fun c => { c with faultSeq := c.faultSeq + 1 }) r) k r 0

/-- What awaits the answer of a record is entered under its SEQ (R356). -/
def addAwait (s : State) (k seq : Nat) (a : Await) : State :=
  updPart s k fun p => { p with awaits := p.awaits ++ [(seq, a)] }
def dropAwait (s : State) (k seq : Nat) : State :=
  updPart s k fun p => { p with awaits := p.awaits.filter fun e => e.1 != seq }

/-- The 32 bytes of an audit record (R327). -/
def auditBytes (seq va ident tag ctxid kind place : Nat) : List Byte :=
  leBytes 8 seq ++ leBytes 8 va ++ leBytes 4 ident ++ leBytes 4 tag ++ leBytes 2 ctxid ++ leBytes 1 kind ++ leBytes 1 0 ++
  leBytes 4 place

/-- An audit record of a denied read (R327, R328): written and TAIL raised, or counted LOST; SEQ rises either way. A part without its
context, which no run has, writes nothing. -/
def appendAudit (s : State) (k va ident tag kind place : Nat) : State :=
  let p := partOf s k
  let seq := (ctxOf s (k / 8192)).auditSeq
  let s1 := updCtx s (k / 8192) fun c => { c with auditSeq := c.auditSeq + 1 }
  if p.aqbase = 0 ∨ (tblGet? s.ctxs (k / 8192)).isNone then s1
  else
    let b := gpOf p.pkg (p.aqbase.toNat / 4096 * 4096 % 2 ^ 51)
    let size := 2 ^ (p.aqbase.toNat % 32)
    let tail := homeNat s b 8
    if (tail + 2 ^ 64 - homeNat s (b + 0x40) 8) % 2 ^ 64 = size then putNat s1 (b + 8) 8 (homeNat s (b + 8) 8 + 1)
    else putNat (putHome s1 (b + 128 + 32 * (tail % size)) 0 (auditBytes seq va ident tag p.ctxid kind place)) b 8 (tail + 1)

end Sys2Proof.Machine
end

