-- ==== Sys2Proof/Decode.lean ====
section
/-! DEFINITION. Decoding of instruction words (R55, R64 to R70) and, after it, the encoder written from the same tables.
A word selects its cell by MAJ, MIN and B; an unassigned cell is refused with ILLEGAL_ENCODING and a non-zero reserved
field with RESERVED_FIELD. The checks of operand values stand in Machine/Shape.lean, between the two in R63's order. -/

namespace Sys2Proof

/-- Why a word is refused by the decoder (R63 step 3). -/
inductive DecodeErr where
  /-- an unassigned major, minor or sub-op cell (R65 to R69) -/
  | illegalEncoding
  /-- a non-zero reserved field of the cell (R64) -/
  | reservedField
deriving DecidableEq, Repr

/-- What the decoder says of a word. -/
inductive Decoded where
  | ok (i : Instr)
  | bad (e : DecodeErr)
deriving DecidableEq, Repr

/-- Sub-ops of major 0x38 (R67 to R69), by B and MIN; every value not listed is unassigned. -/
def cell38 (p : BitVec 3) (d a : BitVec 7) (b m : Nat) : Option (Instr × Word) :=
  match b, m with
  | 0x00, 0 => some (.acalloc p d a, 0x00000000#32)
  | 0x01, 0 => some (.acfree p a, 0x007F0000#32)
  | 0x02, 0 => some (.aczero p a, 0x007F0000#32)
  | 0x03, 0 => some (.acrd p d a, 0x00000000#32)
  | 0x04, 0 => some (.acwr p d a, 0x00000000#32)
  | 0x05, 0 => some (.accvt p d a, 0x00000000#32)
  | 0x06, 0 => some (.acseed p d a, 0x00000000#32)
  | 0x07, 0 => some (.acqry p d a, 0x00000000#32)
  | _, _ => none

/-- Sub-ops of major 0x3A (R67 to R69), by B and MIN; every value not listed is unassigned. -/
def cell3A (p : BitVec 3) (d a : BitVec 7) (b m : Nat) : Option (Instr × Word) :=
  match b, m with
  | 0x00, 0 => some (.nop p, 0x007FFE00#32)
  | 0x01, 0 => some (.brcAny p d a, 0x00000000#32)
  | 0x01, 1 => some (.brcAll p d a, 0x00000000#32)
  | 0x02, 0 => some (.call p d a, 0x00000000#32)
  | 0x03, 0 => some (.ret p a, 0x007F0000#32)
  | 0x04, 0 => some (.jmpi p a, 0x007F0000#32)
  | 0x05, 0 => some (.exitT p, 0x007FFE00#32)
  | 0x06, 0 => some (.yield p, 0x007FFE00#32)
  | 0x07, 0 => if p = 7#3 then some (.convW, 0x007FFE00#32) else none
  | 0x08, 0 => some (.wbase p a, 0x007F0000#32)
  | 0x10, 0 => some (.acqr p a, 0x007F0000#32)
  | 0x11, 0 => some (.cfence p, 0x007FFE00#32)
  | 0x12, 0 => some (.ifence p, 0x007FFE00#32)
  | 0x13, 0 => some (.twait p d a, 0x00000000#32)
  | 0x14, 0 => some (.tread p d a, 0x00000000#32)
  | 0x15, 0 => some (.tsignal p d a, 0x00000000#32)
  | 0x20, 0 => some (.bar p, 0x007FFE00#32)
  | 0x21, 0 => some (.bara p d a, 0x00000000#32)
  | 0x22, 0 => some (.barw p d, 0x0000FE00#32)
  | 0x23, 0 => some (.marrive p d a, 0x00000000#32)
  | 0x24, 0 => some (.mwait p d a, 0x00000000#32)
  | 0x25, 0 => some (.ldfK p d a, 0x00000000#32)
  | 0x25, 1 => some (.ldfE p d a, 0x00000000#32)
  | 0x26, 0 => some (.ste p d a, 0x00000000#32)
  | 0x27, 0 => some (.stf p d a, 0x00000000#32)
  | 0x28, 0 => some (.lde p d a, 0x00000000#32)
  | 0x29, 0 => some (.sleepT p a, 0x007F0000#32)
  | 0x40, 0 => some (.ldAcqB32 p d a 0#3, 0x00000000#32)
  | 0x41, 0 => some (.ldAcqB32 p d a 1#3, 0x00000000#32)
  | 0x42, 0 => some (.ldAcqB32 p d a 2#3, 0x00000000#32)
  | 0x43, 0 => some (.ldAcqB32 p d a 3#3, 0x00000000#32)
  | 0x44, 0 => some (.ldAcqB32 p d a 4#3, 0x00000000#32)
  | 0x45, 0 => some (.ldAcqB32 p d a 5#3, 0x00000000#32)
  | 0x46, 0 => some (.ldAcqB32 p d a 6#3, 0x00000000#32)
  | 0x48, 0 => some (.ldAcqB64 p d a 0#3, 0x00000000#32)
  | 0x49, 0 => some (.ldAcqB64 p d a 1#3, 0x00000000#32)
  | 0x4A, 0 => some (.ldAcqB64 p d a 2#3, 0x00000000#32)
  | 0x4B, 0 => some (.ldAcqB64 p d a 3#3, 0x00000000#32)
  | 0x4C, 0 => some (.ldAcqB64 p d a 4#3, 0x00000000#32)
  | 0x4D, 0 => some (.ldAcqB64 p d a 5#3, 0x00000000#32)
  | 0x4E, 0 => some (.ldAcqB64 p d a 6#3, 0x00000000#32)
  | 0x50, 0 => some (.stRelB32 p d a 0#3, 0x00000000#32)
  | 0x51, 0 => some (.stRelB32 p d a 1#3, 0x00000000#32)
  | 0x52, 0 => some (.stRelB32 p d a 2#3, 0x00000000#32)
  | 0x53, 0 => some (.stRelB32 p d a 3#3, 0x00000000#32)
  | 0x54, 0 => some (.stRelB32 p d a 4#3, 0x00000000#32)
  | 0x55, 0 => some (.stRelB32 p d a 5#3, 0x00000000#32)
  | 0x56, 0 => some (.stRelB32 p d a 6#3, 0x00000000#32)
  | 0x58, 0 => some (.stRelB64 p d a 0#3, 0x00000000#32)
  | 0x59, 0 => some (.stRelB64 p d a 1#3, 0x00000000#32)
  | 0x5A, 0 => some (.stRelB64 p d a 2#3, 0x00000000#32)
  | 0x5B, 0 => some (.stRelB64 p d a 3#3, 0x00000000#32)
  | 0x5C, 0 => some (.stRelB64 p d a 4#3, 0x00000000#32)
  | 0x5D, 0 => some (.stRelB64 p d a 5#3, 0x00000000#32)
  | 0x5E, 0 => some (.stRelB64 p d a 6#3, 0x00000000#32)
  | 0x60, 0 => some (.fenceAcq p 0#3, 0x007FFE00#32)
  | 0x60, 1 => some (.fenceRel p 0#3, 0x007FFE00#32)
  | 0x60, 2 => some (.fenceAcqrel p 0#3, 0x007FFE00#32)
  | 0x60, 3 => some (.fenceSc p 0#3, 0x007FFE00#32)
  | 0x61, 0 => some (.fenceAcq p 1#3, 0x007FFE00#32)
  | 0x61, 1 => some (.fenceRel p 1#3, 0x007FFE00#32)
  | 0x61, 2 => some (.fenceAcqrel p 1#3, 0x007FFE00#32)
  | 0x61, 3 => some (.fenceSc p 1#3, 0x007FFE00#32)
  | 0x62, 0 => some (.fenceAcq p 2#3, 0x007FFE00#32)
  | 0x62, 1 => some (.fenceRel p 2#3, 0x007FFE00#32)
  | 0x62, 2 => some (.fenceAcqrel p 2#3, 0x007FFE00#32)
  | 0x62, 3 => some (.fenceSc p 2#3, 0x007FFE00#32)
  | 0x63, 0 => some (.fenceAcq p 3#3, 0x007FFE00#32)
  | 0x63, 1 => some (.fenceRel p 3#3, 0x007FFE00#32)
  | 0x63, 2 => some (.fenceAcqrel p 3#3, 0x007FFE00#32)
  | 0x63, 3 => some (.fenceSc p 3#3, 0x007FFE00#32)
  | 0x64, 0 => some (.fenceAcq p 4#3, 0x007FFE00#32)
  | 0x64, 1 => some (.fenceRel p 4#3, 0x007FFE00#32)
  | 0x64, 2 => some (.fenceAcqrel p 4#3, 0x007FFE00#32)
  | 0x64, 3 => some (.fenceSc p 4#3, 0x007FFE00#32)
  | 0x65, 0 => some (.fenceAcq p 5#3, 0x007FFE00#32)
  | 0x65, 1 => some (.fenceRel p 5#3, 0x007FFE00#32)
  | 0x65, 2 => some (.fenceAcqrel p 5#3, 0x007FFE00#32)
  | 0x65, 3 => some (.fenceSc p 5#3, 0x007FFE00#32)
  | 0x66, 0 => some (.fenceAcq p 6#3, 0x007FFE00#32)
  | 0x66, 1 => some (.fenceRel p 6#3, 0x007FFE00#32)
  | 0x66, 2 => some (.fenceAcqrel p 6#3, 0x007FFE00#32)
  | 0x66, 3 => some (.fenceSc p 6#3, 0x007FFE00#32)
  | _, _ => none

/-- Sub-ops of major 0x3B (R67 to R69), by B and MIN; every value not listed is unassigned. -/
def cell3B (p : BitVec 3) (d a : BitVec 7) (b m : Nat) : Option (Instr × Word) :=
  match b, m with
  | 0x00, 0 => some (.cpy p d a, 0x00000000#32)
  | 0x01, 0 => some (.gath p d a, 0x00000000#32)
  | 0x02, 0 => some (.scat p d a, 0x00000000#32)
  | 0x03, 0 => some (.coll p d a, 0x00000000#32)
  | 0x04, 0 => some (.tbind p d a, 0x00000000#32)
  | 0x05, 0 => some (.tunbind p d a, 0x00000000#32)
  | 0x10, 0 => some (.evpop p d a, 0x00000000#32)
  | 0x11, 0 => some (.evpush p d a, 0x00000000#32)
  | 0x12, 0 => some (.taskrel p d a, 0x00000000#32)
  | 0x20, 0 => some (.launch p d a, 0x00000000#32)
  | 0x21, 0 => some (.launchp p d a, 0x00000000#32)
  | 0x22, 0 => some (.cancel p d a, 0x00000000#32)
  | 0x23, 0 => some (.gridq p d a, 0x00000000#32)
  | _, _ => none

/-- Sub-ops of major 0x3E (R67 to R69), by B and MIN; every value not listed is unassigned. -/
def cell3E (p : BitVec 3) (d a : BitVec 7) (b m : Nat) : Option (Instr × Word) :=
  match b, m with
  | 0x00, 0 => some (.csrr p d a, 0x00000000#32)
  | 0x01, 0 => some (.csrw p d a, 0x00000000#32)
  | 0x02, 0 => some (.setid p d a, 0x00000000#32)
  | 0x03, 0 => some (.tlbinv p d a, 0x00000000#32)
  | 0x04, 0 => some (.clrinv p d a, 0x00000000#32)
  | 0x05, 0 => some (.bankrole p d a, 0x00000000#32)
  | 0x10, 0 => some (.trap p a, 0x007F0000#32)
  | 0x11, 0 => some (.eret p d a, 0x00000000#32)
  | 0x12, 0 => some (.savectx p d a, 0x00000000#32)
  | 0x13, 0 => some (.restctx p d a, 0x00000000#32)
  | 0x14, 0 => some (.halt p a, 0x007F0000#32)
  | 0x15, 0 => some (.rdclk p d a, 0x00000000#32)
  | 0x16, 0 => some (.rand p d, 0x0000FE00#32)
  | 0x20, 0 => some (.ckpt p d a, 0x00000000#32)
  | 0x21, 0 => some (.sigchk p d a, 0x00000000#32)
  | 0x22, 0 => some (.replq p d a, 0x00000000#32)
  | _, _ => none

/-- The cell of a word with its major, its minor and its operand fields: the instruction with its fields as they stand, and the
mask of its reserved bits (R64). -/
def cellAt (w : Word) (maj min : Nat) (p : BitVec 3) (d a b : BitVec 7) : Option (Instr × Word) :=
  match maj, min with
  | 0x00, 0 => some (.addI32 p d a b, 0x00000000#32)
  | 0x00, 1 => some (.subI32 p d a b, 0x00000000#32)
  | 0x00, 2 => some (.addc p d a b, 0x00000000#32)
  | 0x00, 3 => some (.subb p d a b, 0x00000000#32)
  | 0x01, 0 => some (.addI64 p d a b, 0x00000000#32)
  | 0x01, 1 => some (.subI64 p d a b, 0x00000000#32)
  | 0x01, 2 => some (.addcI64 p d a b, 0x00000000#32)
  | 0x01, 3 => some (.subbI64 p d a b, 0x00000000#32)
  | 0x02, 0 => some (.mullo p d a b, 0x00000000#32)
  | 0x02, 1 => some (.mulhiUs p d a b, 0x00000000#32)
  | 0x02, 2 => some (.mulhiSg p d a b, 0x00000000#32)
  | 0x02, 3 => some (.mad p d a b, 0x00000000#32)
  | 0x03, 0 => some (.andB p d a b, 0x00000000#32)
  | 0x03, 1 => some (.orB p d a b, 0x00000000#32)
  | 0x03, 2 => some (.xorB p d a b, 0x00000000#32)
  | 0x03, 3 => some (.notB p d a, 0x000001FC#32)
  | 0x04, 0 => some (.shl p d a b, 0x00000000#32)
  | 0x04, 1 => some (.shr p d a b, 0x00000000#32)
  | 0x04, 2 => some (.sar p d a b, 0x00000000#32)
  | 0x04, 3 => some (.rot p d a b, 0x00000000#32)
  | 0x05, 0 => some (.minSg p d a b, 0x00000000#32)
  | 0x05, 1 => some (.minUs p d a b, 0x00000000#32)
  | 0x05, 2 => some (.maxSg p d a b, 0x00000000#32)
  | 0x05, 3 => some (.maxUs p d a b, 0x00000000#32)
  | 0x06, 0 => some (.abs p d a, 0x000001FC#32)
  | 0x06, 1 => some (.neg p d a, 0x000001FC#32)
  | 0x06, 2 => some (.clz p d a, 0x000001FC#32)
  | 0x06, 3 => some (.popc p d a, 0x000001FC#32)
  | 0x07, 0 => some (.brev p d a, 0x000001FC#32)
  | 0x07, 1 => some (.bfxUs p d a b, 0x00000000#32)
  | 0x07, 2 => some (.bfxSg p d a b, 0x00000000#32)
  | 0x07, 3 => some (.bfi p d a b, 0x00000000#32)
  | 0x08, 0 => some (.sel p d a b, 0x00000000#32)
  | 0x08, 1 => some (.cmpSg p d a b, 0x00000000#32)
  | 0x08, 2 => some (.cmpUs p d a b, 0x00000000#32)
  | 0x08, 3 => some (.cmpI64 p d a b, 0x00000000#32)
  | 0x09, 0 => some (.pand p d a b, 0x00000000#32)
  | 0x09, 1 => some (.por p d a b, 0x00000000#32)
  | 0x09, 2 => some (.pxor p d a b, 0x00000000#32)
  | 0x09, 3 => some (.pnot p d a, 0x000001FC#32)
  | 0x0A, 0 => some (.mov p d a, 0x000001FC#32)
  | 0x0A, 2 => some (.movI64 p d a, 0x000001FC#32)
  | 0x0A, 3 => some (.lea p d a b, 0x00000000#32)
  | 0x0A, 1 => if b = 0#7 then some (.smovToUniform p d a, 0x00000000#32)
      else if b = 1#7 then some (.smovFromUniform p d a, 0x00000000#32) else none
  | 0x0B, 0 => some (.idx2 p d a b, 0x00000000#32)
  | 0x0B, 1 => some (.shlI64 p d a b, 0x00000000#32)
  | 0x0B, 2 => some (.shrI64 p d a b, 0x00000000#32)
  | 0x0B, 3 => some (.sarI64 p d a b, 0x00000000#32)
  | 0x0C, _ => some (.movi p d (w.extractLsb' 0 9), 0x0000FE00#32)
  | 0x0D, _ => some (.addI32Immediate p d a (w.extractLsb' 0 9), 0x00000000#32)
  | 0x10, 0 => some (.faddF32 p d a b, 0x00000000#32)
  | 0x10, 1 => some (.fsubF32 p d a b, 0x00000000#32)
  | 0x10, 2 => some (.fmulF32 p d a b, 0x00000000#32)
  | 0x10, 3 => some (.fminF32 p d a b, 0x00000000#32)
  | 0x11, 0 => some (.fmaF32D0 p d a b, 0x00000000#32)
  | 0x11, 1 => some (.fmaF32D1 p d a b, 0x00000000#32)
  | 0x11, 2 => some (.fmaF32D2 p d a b, 0x00000000#32)
  | 0x11, 3 => some (.fmaF32D3 p d a b, 0x00000000#32)
  | 0x12, 0 => some (.fmaxF32 p d a b, 0x00000000#32)
  | 0x12, 1 => some (.fcmpF32 p d a b, 0x00000000#32)
  | 0x12, 2 => some (.fclassF32 p d a, 0x000001FC#32)
  | 0x13, 0 => some (.faddF16 p d a b, 0x00000000#32)
  | 0x13, 1 => some (.fsubF16 p d a b, 0x00000000#32)
  | 0x13, 2 => some (.fmulF16 p d a b, 0x00000000#32)
  | 0x13, 3 => some (.fminF16 p d a b, 0x00000000#32)
  | 0x14, 0 => some (.fmaF16D0 p d a b, 0x00000000#32)
  | 0x14, 1 => some (.fmaF16D1 p d a b, 0x00000000#32)
  | 0x14, 2 => some (.fmaF16D2 p d a b, 0x00000000#32)
  | 0x14, 3 => some (.fmaF16D3 p d a b, 0x00000000#32)
  | 0x15, 0 => some (.fmaxF16 p d a b, 0x00000000#32)
  | 0x15, 1 => some (.fcmpF16 p d a b, 0x00000000#32)
  | 0x15, 2 => some (.fclassF16 p d a, 0x000001FC#32)
  | 0x16, 0 => some (.faddBf16 p d a b, 0x00000000#32)
  | 0x16, 1 => some (.fsubBf16 p d a b, 0x00000000#32)
  | 0x16, 2 => some (.fmulBf16 p d a b, 0x00000000#32)
  | 0x16, 3 => some (.fminBf16 p d a b, 0x00000000#32)
  | 0x17, 0 => some (.fmaBf16D0 p d a b, 0x00000000#32)
  | 0x17, 1 => some (.fmaBf16D1 p d a b, 0x00000000#32)
  | 0x17, 2 => some (.fmaBf16D2 p d a b, 0x00000000#32)
  | 0x17, 3 => some (.fmaBf16D3 p d a b, 0x00000000#32)
  | 0x18, 0 => some (.fmaxBf16 p d a b, 0x00000000#32)
  | 0x18, 1 => some (.fcmpBf16 p d a b, 0x00000000#32)
  | 0x18, 2 => some (.fclassBf16 p d a, 0x000001FC#32)
  | 0x19, 0 => some (.frcp p d a, 0x000001FC#32)
  | 0x19, 1 => some (.frsq p d a, 0x000001FC#32)
  | 0x19, 2 => some (.fsqrt p d a, 0x000001FC#32)
  | 0x19, 3 => some (.fdiv p d a b, 0x00000000#32)
  | 0x1A, 0 => some (.fex2 p d a, 0x000001FC#32)
  | 0x1A, 1 => some (.flg2 p d a, 0x000001FC#32)
  | 0x1A, 2 => some (.fsin p d a, 0x000001FC#32)
  | 0x1A, 3 => some (.fcos p d a, 0x000001FC#32)
  | 0x1B, 0 => some (.frintRn p d a, 0x000001FC#32)
  | 0x1B, 1 => some (.frintRz p d a, 0x000001FC#32)
  | 0x1B, 2 => some (.frintRp p d a, 0x000001FC#32)
  | 0x1B, 3 => some (.frintRm p d a, 0x000001FC#32)
  | 0x1E, 0 => some (.dadd p d a b, 0x00000000#32)
  | 0x1E, 1 => some (.dmul p d a b, 0x00000000#32)
  | 0x1E, 2 => some (.dfma p d a b, 0x00000000#32)
  | 0x1F, 0 => some (.dcvtF64F32 p d a, 0x000001FC#32)
  | 0x1F, 1 => some (.dcvtF32F64 p d a, 0x000001FC#32)
  | 0x1F, 2 => some (.dcvtF64S64 p d a, 0x000001FC#32)
  | 0x1F, 3 => some (.dcvtS64F64 p d a, 0x000001FC#32)
  | 0x20, 0 => some (.cvtRn p d a b, 0x00000000#32)
  | 0x20, 1 => some (.cvtRz p d a b, 0x00000000#32)
  | 0x20, 2 => some (.cvtRp p d a b, 0x00000000#32)
  | 0x20, 3 => some (.cvtRm p d a b, 0x00000000#32)
  | 0x21, 0 => some (.cvtn p d a b 0#2, 0#32)
  | 0x21, 1 => some (.cvtn p d a b 1#2, 0#32)
  | 0x21, 2 => some (.cvtn p d a b 2#2, 0#32)
  | 0x21, 3 => some (.cvtn p d a b 3#2, 0#32)
  | 0x22, 0 => some (.cvtw p d a b 0#2, 0#32)
  | 0x22, 1 => some (.cvtw p d a b 1#2, 0#32)
  | 0x22, 2 => some (.cvtw p d a b 2#2, 0#32)
  | 0x22, 3 => some (.cvtw p d a b 3#2, 0#32)
  | 0x23, 0 => some (.bsext p d a b, 0x00000000#32)
  | 0x23, 1 => some (.bsapp p d a b, 0x00000000#32)
  | 0x23, 2 => some (.compress p d a, 0x000001FC#32)
  | 0x23, 3 => some (.expand p d a b, 0x00000000#32)
  | 0x26, 0 => some (.qswpH p d a, 0x000001FC#32)
  | 0x26, 1 => some (.qswpV p d a, 0x000001FC#32)
  | 0x26, 2 => some (.qswpD p d a, 0x000001FC#32)
  | 0x26, 3 => some (.elect p d, 0x0000FFFC#32)
  | 0x27, 0 => some (.voteAny p d a, 0x000001FC#32)
  | 0x27, 1 => some (.voteAll p d a, 0x000001FC#32)
  | 0x27, 2 => some (.voteBallot p d a, 0x000001FC#32)
  | 0x27, 3 => some (.matchAny p d a, 0x000001FC#32)
  | 0x28, 0 => some (.reduxI32 p d a b, 0x00000000#32)
  | 0x28, 1 => some (.reduxUs p d a b, 0x00000000#32)
  | 0x28, 2 => some (.reduxF32 p d a b, 0x00000000#32)
  | 0x29, 0 => some (.scanI32 p d a b, 0x00000000#32)
  | 0x29, 1 => some (.scanUs p d a b, 0x00000000#32)
  | 0x29, 2 => some (.scanF32 p d a b, 0x00000000#32)
  | 0x2A, _ => some (.ldB32 p d a (w.extractLsb' 0 9), 0x00000000#32)
  | 0x2B, _ => some (.stB32 p d a (w.extractLsb' 0 9), 0x00000000#32)
  | 0x2C, 0 => some (.ldB64 p d a b, 0x00000000#32)
  | 0x2C, 1 => some (.stB64 p d a b, 0x00000000#32)
  | 0x2C, 2 => some (.ldB128 p d a b, 0x00000000#32)
  | 0x2C, 3 => some (.stB128 p d a b, 0x00000000#32)
  | 0x2D, 0 => some (.ldB8 p d a b, 0x00000000#32)
  | 0x2D, 1 => some (.ldB16 p d a b, 0x00000000#32)
  | 0x2D, 2 => some (.stB8 p d a b, 0x00000000#32)
  | 0x2D, 3 => some (.stB16 p d a b, 0x00000000#32)
  | 0x2E, 0 => some (.ldsB32 p d a b, 0x00000000#32)
  | 0x2E, 1 => some (.stsB32 p d a b, 0x00000000#32)
  | 0x2E, 2 => some (.ldsB64 p d a b, 0x00000000#32)
  | 0x2E, 3 => some (.stsB64 p d a b, 0x00000000#32)
  | 0x2F, 0 => some (.ldcB32 p d a b, 0x00000000#32)
  | 0x2F, 1 => some (.ldcB64 p d a b, 0x00000000#32)
  | 0x2F, 2 => some (.pref p d a b, 0x00000000#32)
  | 0x30, _ => if w.extractLsb' 8 1 = 0#1 then some (.ldrB32 p d a (w.extractLsb' 0 8), 0x00000000#32)
      else some (.ldrB32Uniform p d a (w.extractLsb' 0 4), 0x000000F0#32)
  | 0x31, _ => if w.extractLsb' 8 1 = 0#1 then some (.strB32 p d a (w.extractLsb' 0 8), 0x00000000#32)
      else some (.strB32Uniform p d a (w.extractLsb' 0 4), 0x000000F0#32)
  | 0x32, 0 => if w.extractLsb' 2 4 = 11#4 then some (.casB32 p d a (w.extractLsb' 6 3), 0#32)
      else some (.atomB32 p d a b, 0#32)
  | 0x32, 1 => if w.extractLsb' 2 4 = 11#4 then some (.casB64 p d a (w.extractLsb' 6 3), 0#32)
      else some (.atomB64 p d a b, 0#32)
  | 0x32, 2 => some (.redB32 p d a b, 0#32)
  | 0x32, 3 => some (.redB64 p d a b, 0#32)
  | 0x33, 0 => some (.fatom p d a b, 0x00000000#32)
  | 0x33, 1 => some (.fatomNr p d a b, 0x00000000#32)
  | 0x34, 0 => some (.mcas p d a, 0x000001FC#32)
  | 0x35, 0 => some (.tshape p d a, 0x000001FC#32)
  | 0x35, 1 => some (.tld p d a b, 0x00000000#32)
  | 0x35, 2 => some (.tst p d a b, 0x00000000#32)
  | 0x35, 3 => some (.tmov p d a, 0x000001FC#32)
  | 0x36, 0 => some (.mmaBf16 p d a b, 0x00000000#32)
  | 0x36, 1 => some (.mmaF16 p d a b, 0x00000000#32)
  | 0x36, 2 => some (.mmaNf p d a b, 0x00000000#32)
  | 0x37, 0 => some (.mmaspBf16 p d a b, 0x00000000#32)
  | 0x37, 1 => some (.mmaspF16 p d a b, 0x00000000#32)
  | 0x37, 2 => some (.mmaspNf p d a b, 0x00000000#32)
  | 0x38, m => cell38 p d a b.toNat m
  | 0x39, _ => some (.bra p (w.extractLsb' 0 23), 0#32)
  | 0x3A, m => cell3A p d a b.toNat m
  | 0x3B, m => cell3B p d a b.toNat m
  | 0x3C, _ => some (.movf (w.extractLsb' 20 7) (w.extractLsb' 0 20), 0#32)
  | 0x3D, _ => some (.movf (w.extractLsb' 20 7) (w.extractLsb' 0 20), 0#32)
  | 0x3E, m => cell3E p d a b.toNat m
  | 0x3F, _ => some (.permutationPrefix (w.extractLsb' 17 9) (w.extractLsb' 8 9), 0x000000FF#32)
  | _, _ => none

/-- The cell of a word (R55). -/
def cell (w : Word) : Option (Instr × Word) :=
  cellAt w (w.extractLsb' 26 6).toNat (w.extractLsb' 0 2).toNat (w.extractLsb' 23 3) (w.extractLsb' 16 7) (w.extractLsb' 9 7)
    (w.extractLsb' 2 7)

/-- Decoding of one instruction word, total on every word. -/
def decodeWord (w : Word) : Decoded :=
  match cell w with
  | none => .bad .illegalEncoding
  | some (i, m) => if w &&& m = 0#32 then .ok i else .bad .reservedField

/-- A word from its four bytes, the first at the lowest address (R5, R51). -/
def wordOfBytes (b0 b1 b2 b3 : Byte) : Word := b3 ++ b2 ++ b1 ++ b0

/-- Decoding of bytes: the instruction of the first four and the bytes that follow, or none. -/
def decodeBytes : List Byte → Option (Instr × List Byte)
  | b0 :: b1 :: b2 :: b3 :: rest =>
    match decodeWord (wordOfBytes b0 b1 b2 b3) with
    | .ok i => some (i, rest)
    | .bad _ => none
  | _ => none

/-- The instruction that the decoder reads from a table row's bits: bit 0 is the least significant bit of the first
word. Every row with a word has 32 bits, stored as four bytes in little-endian order. -/
def decodeTableWord (_nbits w : Nat) : Option Instr :=
  let x : Word := BitVec.ofNat 32 w
  match decodeBytes [x.extractLsb' 0 8, x.extractLsb' 8 8, x.extractLsb' 16 8, x.extractLsb' 24 8] with
  | some (i, _) => some i
  | none => none

/-! ### The encoder -/

/-- Format R (R55). -/
def encR (maj : BitVec 6) (p : BitVec 3) (d a b : BitVec 7) (min : BitVec 2) : Word := maj ++ p ++ d ++ a ++ b ++ min
/-- Formats I and M (R55). -/
def encI (maj : BitVec 6) (p : BitVec 3) (d a : BitVec 7) (imm : BitVec 9) : Word := maj ++ p ++ d ++ a ++ imm
/-- Format B (R55). -/
def encB (maj : BitVec 6) (p : BitVec 3) (o : BitVec 23) : Word := maj ++ p ++ o
/-- Format F (R55). -/
def encF (d : BitVec 7) (f : BitVec 20) : Word := 0b11110#5 ++ d ++ f
/-- Format X (R55). -/
def encX (a b : BitVec 9) : Word := 0x3F#6 ++ a ++ b ++ 0#8

/-- The word of an instruction; none for an event, which has no word. -/
def encode : Instr → Option Word
  | .addI32 p d a b => some (encR 0x00#6 p d a b 0#2)
  | .subI32 p d a b => some (encR 0x00#6 p d a b 1#2)
  | .addc p d a b => some (encR 0x00#6 p d a b 2#2)
  | .subb p d a b => some (encR 0x00#6 p d a b 3#2)
  | .addI64 p d a b => some (encR 0x01#6 p d a b 0#2)
  | .subI64 p d a b => some (encR 0x01#6 p d a b 1#2)
  | .addcI64 p d a b => some (encR 0x01#6 p d a b 2#2)
  | .subbI64 p d a b => some (encR 0x01#6 p d a b 3#2)
  | .mullo p d a b => some (encR 0x02#6 p d a b 0#2)
  | .mulhiUs p d a b => some (encR 0x02#6 p d a b 1#2)
  | .mulhiSg p d a b => some (encR 0x02#6 p d a b 2#2)
  | .mad p d a b => some (encR 0x02#6 p d a b 3#2)
  | .andB p d a b => some (encR 0x03#6 p d a b 0#2)
  | .orB p d a b => some (encR 0x03#6 p d a b 1#2)
  | .xorB p d a b => some (encR 0x03#6 p d a b 2#2)
  | .notB p d a => some (encR 0x03#6 p d a 0x00#7 3#2)
  | .shl p d a b => some (encR 0x04#6 p d a b 0#2)
  | .shr p d a b => some (encR 0x04#6 p d a b 1#2)
  | .sar p d a b => some (encR 0x04#6 p d a b 2#2)
  | .rot p d a b => some (encR 0x04#6 p d a b 3#2)
  | .minSg p d a b => some (encR 0x05#6 p d a b 0#2)
  | .minUs p d a b => some (encR 0x05#6 p d a b 1#2)
  | .maxSg p d a b => some (encR 0x05#6 p d a b 2#2)
  | .maxUs p d a b => some (encR 0x05#6 p d a b 3#2)
  | .abs p d a => some (encR 0x06#6 p d a 0x00#7 0#2)
  | .neg p d a => some (encR 0x06#6 p d a 0x00#7 1#2)
  | .clz p d a => some (encR 0x06#6 p d a 0x00#7 2#2)
  | .popc p d a => some (encR 0x06#6 p d a 0x00#7 3#2)
  | .brev p d a => some (encR 0x07#6 p d a 0x00#7 0#2)
  | .bfxUs p d a b => some (encR 0x07#6 p d a b 1#2)
  | .bfxSg p d a b => some (encR 0x07#6 p d a b 2#2)
  | .bfi p d a b => some (encR 0x07#6 p d a b 3#2)
  | .sel k d a b => some (encR 0x08#6 k d a b 0#2)
  | .cmpSg p d a b => some (encR 0x08#6 p d a b 1#2)
  | .cmpUs p d a b => some (encR 0x08#6 p d a b 2#2)
  | .cmpI64 p d a b => some (encR 0x08#6 p d a b 3#2)
  | .pand p d a b => some (encR 0x09#6 p d a b 0#2)
  | .por p d a b => some (encR 0x09#6 p d a b 1#2)
  | .pxor p d a b => some (encR 0x09#6 p d a b 2#2)
  | .pnot p d a => some (encR 0x09#6 p d a 0x00#7 3#2)
  | .mov p d a => some (encR 0x0A#6 p d a 0x00#7 0#2)
  | .smovToUniform p d a => some (encR 0x0A#6 p d a 0x00#7 1#2)
  | .smovFromUniform p d a => some (encR 0x0A#6 p d a 0x01#7 1#2)
  | .movI64 p d a => some (encR 0x0A#6 p d a 0x00#7 2#2)
  | .lea p d a b => some (encR 0x0A#6 p d a b 3#2)
  | .idx2 p d a b => some (encR 0x0B#6 p d a b 0#2)
  | .shlI64 p d a b => some (encR 0x0B#6 p d a b 1#2)
  | .shrI64 p d a b => some (encR 0x0B#6 p d a b 2#2)
  | .sarI64 p d a b => some (encR 0x0B#6 p d a b 3#2)
  | .movi p d i => some (encI 0x0C#6 p d 0#7 i)
  | .addI32Immediate p d a i => some (encI 0x0D#6 p d a i)
  | .faddF32 p d a b => some (encR 0x10#6 p d a b 0#2)
  | .fsubF32 p d a b => some (encR 0x10#6 p d a b 1#2)
  | .fmulF32 p d a b => some (encR 0x10#6 p d a b 2#2)
  | .fminF32 p d a b => some (encR 0x10#6 p d a b 3#2)
  | .fmaF32D0 p d a b => some (encR 0x11#6 p d a b 0#2)
  | .fmaF32D1 p d a b => some (encR 0x11#6 p d a b 1#2)
  | .fmaF32D2 p d a b => some (encR 0x11#6 p d a b 2#2)
  | .fmaF32D3 p d a b => some (encR 0x11#6 p d a b 3#2)
  | .fmaxF32 p d a b => some (encR 0x12#6 p d a b 0#2)
  | .fcmpF32 p d a b => some (encR 0x12#6 p d a b 1#2)
  | .fclassF32 p d a => some (encR 0x12#6 p d a 0x00#7 2#2)
  | .faddF16 p d a b => some (encR 0x13#6 p d a b 0#2)
  | .fsubF16 p d a b => some (encR 0x13#6 p d a b 1#2)
  | .fmulF16 p d a b => some (encR 0x13#6 p d a b 2#2)
  | .fminF16 p d a b => some (encR 0x13#6 p d a b 3#2)
  | .fmaF16D0 p d a b => some (encR 0x14#6 p d a b 0#2)
  | .fmaF16D1 p d a b => some (encR 0x14#6 p d a b 1#2)
  | .fmaF16D2 p d a b => some (encR 0x14#6 p d a b 2#2)
  | .fmaF16D3 p d a b => some (encR 0x14#6 p d a b 3#2)
  | .fmaxF16 p d a b => some (encR 0x15#6 p d a b 0#2)
  | .fcmpF16 p d a b => some (encR 0x15#6 p d a b 1#2)
  | .fclassF16 p d a => some (encR 0x15#6 p d a 0x00#7 2#2)
  | .faddBf16 p d a b => some (encR 0x16#6 p d a b 0#2)
  | .fsubBf16 p d a b => some (encR 0x16#6 p d a b 1#2)
  | .fmulBf16 p d a b => some (encR 0x16#6 p d a b 2#2)
  | .fminBf16 p d a b => some (encR 0x16#6 p d a b 3#2)
  | .fmaBf16D0 p d a b => some (encR 0x17#6 p d a b 0#2)
  | .fmaBf16D1 p d a b => some (encR 0x17#6 p d a b 1#2)
  | .fmaBf16D2 p d a b => some (encR 0x17#6 p d a b 2#2)
  | .fmaBf16D3 p d a b => some (encR 0x17#6 p d a b 3#2)
  | .fmaxBf16 p d a b => some (encR 0x18#6 p d a b 0#2)
  | .fcmpBf16 p d a b => some (encR 0x18#6 p d a b 1#2)
  | .fclassBf16 p d a => some (encR 0x18#6 p d a 0x00#7 2#2)
  | .frcp p d a => some (encR 0x19#6 p d a 0x00#7 0#2)
  | .frsq p d a => some (encR 0x19#6 p d a 0x00#7 1#2)
  | .fsqrt p d a => some (encR 0x19#6 p d a 0x00#7 2#2)
  | .fdiv p d a b => some (encR 0x19#6 p d a b 3#2)
  | .fex2 p d a => some (encR 0x1A#6 p d a 0x00#7 0#2)
  | .flg2 p d a => some (encR 0x1A#6 p d a 0x00#7 1#2)
  | .fsin p d a => some (encR 0x1A#6 p d a 0x00#7 2#2)
  | .fcos p d a => some (encR 0x1A#6 p d a 0x00#7 3#2)
  | .frintRn p d a => some (encR 0x1B#6 p d a 0x00#7 0#2)
  | .frintRz p d a => some (encR 0x1B#6 p d a 0x00#7 1#2)
  | .frintRp p d a => some (encR 0x1B#6 p d a 0x00#7 2#2)
  | .frintRm p d a => some (encR 0x1B#6 p d a 0x00#7 3#2)
  | .dadd p d a b => some (encR 0x1E#6 p d a b 0#2)
  | .dmul p d a b => some (encR 0x1E#6 p d a b 1#2)
  | .dfma p d a b => some (encR 0x1E#6 p d a b 2#2)
  | .dcvtF64F32 p d a => some (encR 0x1F#6 p d a 0x00#7 0#2)
  | .dcvtF32F64 p d a => some (encR 0x1F#6 p d a 0x00#7 1#2)
  | .dcvtF64S64 p d a => some (encR 0x1F#6 p d a 0x00#7 2#2)
  | .dcvtS64F64 p d a => some (encR 0x1F#6 p d a 0x00#7 3#2)
  | .cvtRn p d a b => some (encR 0x20#6 p d a b 0#2)
  | .cvtRz p d a b => some (encR 0x20#6 p d a b 1#2)
  | .cvtRp p d a b => some (encR 0x20#6 p d a b 2#2)
  | .cvtRm p d a b => some (encR 0x20#6 p d a b 3#2)
  | .cvtn p d a b k => some (encR 0x21#6 p d a b k)
  | .cvtw p d a b k => some (encR 0x22#6 p d a b k)
  | .bsext p d a b => some (encR 0x23#6 p d a b 0#2)
  | .bsapp p d a b => some (encR 0x23#6 p d a b 1#2)
  | .compress p d a => some (encR 0x23#6 p d a 0x00#7 2#2)
  | .expand p d a b => some (encR 0x23#6 p d a b 3#2)
  | .qswpH p d a => some (encR 0x26#6 p d a 0x00#7 0#2)
  | .qswpV p d a => some (encR 0x26#6 p d a 0x00#7 1#2)
  | .qswpD p d a => some (encR 0x26#6 p d a 0x00#7 2#2)
  | .elect p d => some (encR 0x26#6 p d 0#7 0x00#7 3#2)
  | .voteAny p d a => some (encR 0x27#6 p d a 0x00#7 0#2)
  | .voteAll p d a => some (encR 0x27#6 p d a 0x00#7 1#2)
  | .voteBallot p d a => some (encR 0x27#6 p d a 0x00#7 2#2)
  | .matchAny p d a => some (encR 0x27#6 p d a 0x00#7 3#2)
  | .reduxI32 p d a b => some (encR 0x28#6 p d a b 0#2)
  | .reduxUs p d a b => some (encR 0x28#6 p d a b 1#2)
  | .reduxF32 p d a b => some (encR 0x28#6 p d a b 2#2)
  | .scanI32 p d a b => some (encR 0x29#6 p d a b 0#2)
  | .scanUs p d a b => some (encR 0x29#6 p d a b 1#2)
  | .scanF32 p d a b => some (encR 0x29#6 p d a b 2#2)
  | .movf d f => some (encF d f)
  | .permutationPrefix a b => some (encX a b)
  | .ldB32 p d a i => some (encI 0x2A#6 p d a i)
  | .stB32 p d a i => some (encI 0x2B#6 p d a i)
  | .ldB64 p d a b => some (encR 0x2C#6 p d a b 0#2)
  | .stB64 p d a b => some (encR 0x2C#6 p d a b 1#2)
  | .ldB128 p d a b => some (encR 0x2C#6 p d a b 2#2)
  | .stB128 p d a b => some (encR 0x2C#6 p d a b 3#2)
  | .ldB8 p d a b => some (encR 0x2D#6 p d a b 0#2)
  | .ldB16 p d a b => some (encR 0x2D#6 p d a b 1#2)
  | .stB8 p d a b => some (encR 0x2D#6 p d a b 2#2)
  | .stB16 p d a b => some (encR 0x2D#6 p d a b 3#2)
  | .ldsB32 p d a b => some (encR 0x2E#6 p d a b 0#2)
  | .stsB32 p d a b => some (encR 0x2E#6 p d a b 1#2)
  | .ldsB64 p d a b => some (encR 0x2E#6 p d a b 2#2)
  | .stsB64 p d a b => some (encR 0x2E#6 p d a b 3#2)
  | .ldcB32 p d a b => some (encR 0x2F#6 p d a b 0#2)
  | .ldcB64 p d a b => some (encR 0x2F#6 p d a b 1#2)
  | .pref p d a b => some (encR 0x2F#6 p d a b 2#2)
  | .ldrB32 p d a i => some (encI 0x30#6 p d a (0#1 ++ i))
  | .ldrB32Uniform p d a n => some (encI 0x30#6 p d a (0b10000#5 ++ n))
  | .strB32 p d a i => some (encI 0x31#6 p d a (0#1 ++ i))
  | .strB32Uniform p d a n => some (encI 0x31#6 p d a (0b10000#5 ++ n))
  | .atomB32 p d a b => some (encR 0x32#6 p d a b 0#2)
  | .casB32 p d a s => some (encR 0x32#6 p d a (s ++ 11#4) 0#2)
  | .atomB64 p d a b => some (encR 0x32#6 p d a b 1#2)
  | .casB64 p d a s => some (encR 0x32#6 p d a (s ++ 11#4) 1#2)
  | .redB32 p d a b => some (encR 0x32#6 p d a b 2#2)
  | .redB64 p d a b => some (encR 0x32#6 p d a b 3#2)
  | .fatom p d a b => some (encR 0x33#6 p d a b 0#2)
  | .fatomNr p d a b => some (encR 0x33#6 p d a b 1#2)
  | .mcas p d a => some (encR 0x34#6 p d a 0x00#7 0#2)
  | .tshape p d a => some (encR 0x35#6 p d a 0x00#7 0#2)
  | .tld p d a b => some (encR 0x35#6 p d a b 1#2)
  | .tst p d a b => some (encR 0x35#6 p d a b 2#2)
  | .tmov p d a => some (encR 0x35#6 p d a 0x00#7 3#2)
  | .mmaBf16 p d a b => some (encR 0x36#6 p d a b 0#2)
  | .mmaF16 p d a b => some (encR 0x36#6 p d a b 1#2)
  | .mmaNf p d a b => some (encR 0x36#6 p d a b 2#2)
  | .mmaspBf16 p d a b => some (encR 0x37#6 p d a b 0#2)
  | .mmaspF16 p d a b => some (encR 0x37#6 p d a b 1#2)
  | .mmaspNf p d a b => some (encR 0x37#6 p d a b 2#2)
  | .acalloc p d a => some (encR 0x38#6 p d a 0x00#7 0#2)
  | .acfree p a => some (encR 0x38#6 p 0#7 a 0x01#7 0#2)
  | .aczero p a => some (encR 0x38#6 p 0#7 a 0x02#7 0#2)
  | .acrd p d a => some (encR 0x38#6 p d a 0x03#7 0#2)
  | .acwr p d a => some (encR 0x38#6 p d a 0x04#7 0#2)
  | .accvt p d a => some (encR 0x38#6 p d a 0x05#7 0#2)
  | .acseed p d a => some (encR 0x38#6 p d a 0x06#7 0#2)
  | .acqry p d a => some (encR 0x38#6 p d a 0x07#7 0#2)
  | .bra p o => some (encB 0x39#6 p o)
  | .nop p => some (encR 0x3A#6 p 0#7 0#7 0x00#7 0#2)
  | .brcAny p d a => some (encR 0x3A#6 p d a 0x01#7 0#2)
  | .brcAll p d a => some (encR 0x3A#6 p d a 0x01#7 1#2)
  | .call p d a => some (encR 0x3A#6 p d a 0x02#7 0#2)
  | .ret p a => some (encR 0x3A#6 p 0#7 a 0x03#7 0#2)
  | .jmpi p a => some (encR 0x3A#6 p 0#7 a 0x04#7 0#2)
  | .exitT p => some (encR 0x3A#6 p 0#7 0#7 0x05#7 0#2)
  | .yield p => some (encR 0x3A#6 p 0#7 0#7 0x06#7 0#2)
  | .convW => some (encR 0x3A#6 7#3 0#7 0#7 0x07#7 0#2)
  | .wbase p a => some (encR 0x3A#6 p 0#7 a 0x08#7 0#2)
  | .acqr p a => some (encR 0x3A#6 p 0#7 a 0x10#7 0#2)
  | .cfence p => some (encR 0x3A#6 p 0#7 0#7 0x11#7 0#2)
  | .ifence p => some (encR 0x3A#6 p 0#7 0#7 0x12#7 0#2)
  | .twait p d a => some (encR 0x3A#6 p d a 0x13#7 0#2)
  | .tread p d a => some (encR 0x3A#6 p d a 0x14#7 0#2)
  | .tsignal p d a => some (encR 0x3A#6 p d a 0x15#7 0#2)
  | .bar p => some (encR 0x3A#6 p 0#7 0#7 0x20#7 0#2)
  | .bara p d a => some (encR 0x3A#6 p d a 0x21#7 0#2)
  | .barw p d => some (encR 0x3A#6 p d 0#7 0x22#7 0#2)
  | .marrive p d a => some (encR 0x3A#6 p d a 0x23#7 0#2)
  | .mwait p d a => some (encR 0x3A#6 p d a 0x24#7 0#2)
  | .ldfK p d a => some (encR 0x3A#6 p d a 0x25#7 0#2)
  | .ldfE p d a => some (encR 0x3A#6 p d a 0x25#7 1#2)
  | .ste p d a => some (encR 0x3A#6 p d a 0x26#7 0#2)
  | .stf p d a => some (encR 0x3A#6 p d a 0x27#7 0#2)
  | .lde p d a => some (encR 0x3A#6 p d a 0x28#7 0#2)
  | .sleepT p a => some (encR 0x3A#6 p 0#7 a 0x29#7 0#2)
  | .ldAcqB32 p d a s => some (encR 0x3A#6 p d a (0x8#4 ++ s) 0#2)
  | .ldAcqB64 p d a s => some (encR 0x3A#6 p d a (0x9#4 ++ s) 0#2)
  | .stRelB32 p d a s => some (encR 0x3A#6 p d a (0xA#4 ++ s) 0#2)
  | .stRelB64 p d a s => some (encR 0x3A#6 p d a (0xB#4 ++ s) 0#2)
  | .fenceAcq p s => some (encR 0x3A#6 p 0#7 0#7 (0xC#4 ++ s) 0#2)
  | .fenceRel p s => some (encR 0x3A#6 p 0#7 0#7 (0xC#4 ++ s) 1#2)
  | .fenceAcqrel p s => some (encR 0x3A#6 p 0#7 0#7 (0xC#4 ++ s) 2#2)
  | .fenceSc p s => some (encR 0x3A#6 p 0#7 0#7 (0xC#4 ++ s) 3#2)
  | .cpy p d a => some (encR 0x3B#6 p d a 0x00#7 0#2)
  | .gath p d a => some (encR 0x3B#6 p d a 0x01#7 0#2)
  | .scat p d a => some (encR 0x3B#6 p d a 0x02#7 0#2)
  | .coll p d a => some (encR 0x3B#6 p d a 0x03#7 0#2)
  | .tbind p d a => some (encR 0x3B#6 p d a 0x04#7 0#2)
  | .tunbind p d a => some (encR 0x3B#6 p d a 0x05#7 0#2)
  | .evpop p d a => some (encR 0x3B#6 p d a 0x10#7 0#2)
  | .evpush p d a => some (encR 0x3B#6 p d a 0x11#7 0#2)
  | .taskrel p d a => some (encR 0x3B#6 p d a 0x12#7 0#2)
  | .launch p d a => some (encR 0x3B#6 p d a 0x20#7 0#2)
  | .launchp p d a => some (encR 0x3B#6 p d a 0x21#7 0#2)
  | .cancel p d a => some (encR 0x3B#6 p d a 0x22#7 0#2)
  | .gridq p d a => some (encR 0x3B#6 p d a 0x23#7 0#2)
  | .csrr p d a => some (encR 0x3E#6 p d a 0x00#7 0#2)
  | .csrw p d a => some (encR 0x3E#6 p d a 0x01#7 0#2)
  | .setid p d a => some (encR 0x3E#6 p d a 0x02#7 0#2)
  | .tlbinv p d a => some (encR 0x3E#6 p d a 0x03#7 0#2)
  | .clrinv p d a => some (encR 0x3E#6 p d a 0x04#7 0#2)
  | .bankrole p d a => some (encR 0x3E#6 p d a 0x05#7 0#2)
  | .trap p a => some (encR 0x3E#6 p 0#7 a 0x10#7 0#2)
  | .eret p d a => some (encR 0x3E#6 p d a 0x11#7 0#2)
  | .savectx p d a => some (encR 0x3E#6 p d a 0x12#7 0#2)
  | .restctx p d a => some (encR 0x3E#6 p d a 0x13#7 0#2)
  | .halt p a => some (encR 0x3E#6 p 0#7 a 0x14#7 0#2)
  | .rdclk p d a => some (encR 0x3E#6 p d a 0x15#7 0#2)
  | .rand p d => some (encR 0x3E#6 p d 0#7 0x16#7 0#2)
  | .ckpt p d a => some (encR 0x3E#6 p d a 0x20#7 0#2)
  | .sigchk p d a => some (encR 0x3E#6 p d a 0x21#7 0#2)
  | .replq p d a => some (encR 0x3E#6 p d a 0x22#7 0#2)
  | .tmlnWrite => none
  | .identWrite => none
  | .nfmtWrite => none
  | .clauseIssue => none
  | .heldFaultRecordWrite => none
  | .runAheadEnd => none
  | .loadReturn => none
  | .longLatencyCompletion => none
  | .deferredMemberRetest => none
  | .rotationPoint => none
  | .sleepExpiry => none
  | .stall => none
  | .stopWindowExpiry => none
  | .warpStopped => none
  | .vacateReservedCore => none
  | .workgroupPlacement => none
  | .logicalCorePlacement => none
  | .landingDeal => none
  | .cancelLanding => none
  | .gridCompletion => none
  | .queueTailWake => none
  | .cpySectorDelivery => none
  | .gathElement => none
  | .scatElement => none
  | .collInstanceStart => none
  | .collElementWrite => none
  | .gazetteerBindComplete => none
  | .gazetteerUnbindComplete => none
  | .engineOperationComplete => none
  | .writeBackMerge => none
  | .atomicPerform => none
  | .postedOperationReplay => none
  | .mcasLockGrant => none
  | .lockBusy => none
  | .mmaKgroup => none
  | .acfreeRelease => none
  | .bankRoleChange => none
  | .writeLogApply => none
  | .replicaComparison => none
  | .holdAgeExpiry => none
  | .replicaUncorrectableError => none
  | .cutIntervalExpiry => none
  | .cutInstant => none
  | .cutRecordWrite => none
  | .cutDurable => none
  | .streamUnitWrite => none
  | .protectedUnitWrite => none
  | .savecostUpdate => none
  | .scrubRow => none
  | .hotRowAgeOut => none
  | .scoreHalving => none
  | .correctedError => none
  | .uncorrectableError => none
  | .remapTableError => none
  | .flitReceive => none
  | .portRetrainEnd => none
  | .rdmaSendWake => none
  | .rdmaInboundWrite => none
  | .rdmaCompletion => none
  | .hostBar2Write => none
  | .hostCxlMemAccess => none
  | .mailboxAreaWrite => none
  | .createContext => none
  | .destroyContext => none
  | .registerQueue => none
  | .removeQueue => none
  | .setReservedCores => none
  | .loadKeySlot => none
  | .clearKeySlot => none
  | .registerCheckpoint => none
  | .removeCheckpoint => none
  | .requestCut => none
  | .allotCores => none
  | .withdrawCores => none
  | .powerRun => none
  | .powerCapped => none
  | .powerIdle => none
  | .enterFullService => none
  | .readErrorLog => none
  | .readJournal => none
  | .thermalTrip => none
  | .powerRemoval => none
  | .deviceReset => none
  | .codeObjectLoad => none
  | .writePerformedAtScope => none
  | .linkDown => none
  | .unknownOpcode => none

end Sys2Proof
end

