-- ==== Sys2Proof/Machine/Shape.lean ====
section
/-! DEFINITION. What each operand field of an instruction is (R57, R64), how the literal words of a clause are counted
(R58), and the checks of operand and selector values at the clause entry (R57, R60, R63 step 3). -/

namespace Sys2Proof.Machine

/-- The part an operand field plays, with its width in 32-bit words. -/
inductive Use where
  /-- reserved, or a selector -/
  | none
  /-- read as a source -/
  | src (n : Nat)
  /-- written as a destination -/
  | dst (n : Nat)
  /-- read and written -/
  | upd (n : Nat)
deriving DecidableEq, Repr

/-- One operand field: its part and its value. -/
structure Slot where
  use : Use
  f : BitVec 7
deriving DecidableEq, Repr

/-- A field that names no operand. -/
def Slot.off : Slot := ⟨.none, 0⟩

/-- What the issue of an instruction needs to know of it: its guard, its operand fields and its marks in the opcode map. -/
structure Shape where
  p : BitVec 3 := 7
  d : Slot := .off
  a : Slot := .off
  b : Slot := .off
  /-- a long-latency operation (mark L, R53) -/
  long : Bool := false
  /-- cross-lane sources of the instruction itself (R20, R154) -/
  cross : Bool := false
  /-- executes once per issue group (mark G, R18) -/
  once : Bool := false
  /-- privileged (mark P) -/
  priv : Bool := false
  /-- a control transfer (R61) -/
  xfer : Bool := false
deriving DecidableEq, Repr

/-- The destination of `CVT`: a 16-bit result keeps the other half of D, so D is read as well (R146). -/
def cvtUse (b : BitVec 7) : Use :=
  if b.extractLsb' 1 3 = 1#3 ∨ b.extractLsb' 1 3 = 2#3 then .upd 1 else .dst 1

/-- Registers of D of a floating-point atomic: a pair for add.f64, min.f64 and max.f64 (R229). -/
def fatomWidth (b : BitVec 7) : Nat :=
  if b.extractLsb' 0 4 = 2#4 ∨ b.extractLsb' 0 4 = 5#4 ∨ b.extractLsb' 0 4 = 6#4 then 2 else 1

/-- The operand fields and marks of every instruction (R65 to R69 and the descriptions). -/
def shapeOf : Instr → Shape
  | .addI32 p d a b => { p := p, d := ⟨(.dst 1), d⟩, a := ⟨(.src 1), a⟩, b := ⟨(.src 1), b⟩ }
  | .subI32 p d a b => { p := p, d := ⟨(.dst 1), d⟩, a := ⟨(.src 1), a⟩, b := ⟨(.src 1), b⟩ }
  | .addc p d a b => { p := p, d := ⟨(.dst 1), d⟩, a := ⟨(.src 1), a⟩, b := ⟨(.src 1), b⟩ }
  | .subb p d a b => { p := p, d := ⟨(.dst 1), d⟩, a := ⟨(.src 1), a⟩, b := ⟨(.src 1), b⟩ }
  | .addI64 p d a b => { p := p, d := ⟨(.dst 2), d⟩, a := ⟨(.src 2), a⟩, b := ⟨(.src 2), b⟩ }
  | .subI64 p d a b => { p := p, d := ⟨(.dst 2), d⟩, a := ⟨(.src 2), a⟩, b := ⟨(.src 2), b⟩ }
  | .addcI64 p d a b => { p := p, d := ⟨(.dst 2), d⟩, a := ⟨(.src 2), a⟩, b := ⟨(.src 2), b⟩ }
  | .subbI64 p d a b => { p := p, d := ⟨(.dst 2), d⟩, a := ⟨(.src 2), a⟩, b := ⟨(.src 2), b⟩ }
  | .mullo p d a b => { p := p, d := ⟨(.dst 1), d⟩, a := ⟨(.src 1), a⟩, b := ⟨(.src 1), b⟩ }
  | .mulhiUs p d a b => { p := p, d := ⟨(.dst 1), d⟩, a := ⟨(.src 1), a⟩, b := ⟨(.src 1), b⟩ }
  | .mulhiSg p d a b => { p := p, d := ⟨(.dst 1), d⟩, a := ⟨(.src 1), a⟩, b := ⟨(.src 1), b⟩ }
  | .mad p d a b => { p := p, d := ⟨(.upd 1), d⟩, a := ⟨(.src 1), a⟩, b := ⟨(.src 1), b⟩ }
  | .andB p d a b => { p := p, d := ⟨(.dst 1), d⟩, a := ⟨(.src 1), a⟩, b := ⟨(.src 1), b⟩ }
  | .orB p d a b => { p := p, d := ⟨(.dst 1), d⟩, a := ⟨(.src 1), a⟩, b := ⟨(.src 1), b⟩ }
  | .xorB p d a b => { p := p, d := ⟨(.dst 1), d⟩, a := ⟨(.src 1), a⟩, b := ⟨(.src 1), b⟩ }
  | .notB p d a => { p := p, d := ⟨(.dst 1), d⟩, a := ⟨(.src 1), a⟩, b := .off }
  | .shl p d a b => { p := p, d := ⟨(.dst 1), d⟩, a := ⟨(.src 1), a⟩, b := ⟨(.src 1), b⟩ }
  | .shr p d a b => { p := p, d := ⟨(.dst 1), d⟩, a := ⟨(.src 1), a⟩, b := ⟨(.src 1), b⟩ }
  | .sar p d a b => { p := p, d := ⟨(.dst 1), d⟩, a := ⟨(.src 1), a⟩, b := ⟨(.src 1), b⟩ }
  | .rot p d a b => { p := p, d := ⟨(.dst 1), d⟩, a := ⟨(.src 1), a⟩, b := ⟨(.src 1), b⟩ }
  | .minSg p d a b => { p := p, d := ⟨(.dst 1), d⟩, a := ⟨(.src 1), a⟩, b := ⟨(.src 1), b⟩ }
  | .minUs p d a b => { p := p, d := ⟨(.dst 1), d⟩, a := ⟨(.src 1), a⟩, b := ⟨(.src 1), b⟩ }
  | .maxSg p d a b => { p := p, d := ⟨(.dst 1), d⟩, a := ⟨(.src 1), a⟩, b := ⟨(.src 1), b⟩ }
  | .maxUs p d a b => { p := p, d := ⟨(.dst 1), d⟩, a := ⟨(.src 1), a⟩, b := ⟨(.src 1), b⟩ }
  | .abs p d a => { p := p, d := ⟨(.dst 1), d⟩, a := ⟨(.src 1), a⟩, b := .off }
  | .neg p d a => { p := p, d := ⟨(.dst 1), d⟩, a := ⟨(.src 1), a⟩, b := .off }
  | .clz p d a => { p := p, d := ⟨(.dst 1), d⟩, a := ⟨(.src 1), a⟩, b := .off }
  | .popc p d a => { p := p, d := ⟨(.dst 1), d⟩, a := ⟨(.src 1), a⟩, b := .off }
  | .brev p d a => { p := p, d := ⟨(.dst 1), d⟩, a := ⟨(.src 1), a⟩, b := .off }
  | .bfxUs p d a b => { p := p, d := ⟨(.dst 1), d⟩, a := ⟨(.src 1), a⟩, b := ⟨(.src 1), b⟩ }
  | .bfxSg p d a b => { p := p, d := ⟨(.dst 1), d⟩, a := ⟨(.src 1), a⟩, b := ⟨(.src 1), b⟩ }
  | .bfi p d a b => { p := p, d := ⟨(.upd 1), d⟩, a := ⟨(.src 1), a⟩, b := ⟨(.src 1), b⟩ }
  | .sel _ d a b => { p := 7#3, d := ⟨(.dst 1), d⟩, a := ⟨(.src 1), a⟩, b := ⟨(.src 1), b⟩ }
  | .cmpSg p _ a b => { p := p, d := .off, a := ⟨(.src 1), a⟩, b := ⟨(.src 1), b⟩ }
  | .cmpUs p _ a b => { p := p, d := .off, a := ⟨(.src 1), a⟩, b := ⟨(.src 1), b⟩ }
  | .cmpI64 p _ a b => { p := p, d := .off, a := ⟨(.src 2), a⟩, b := ⟨(.src 2), b⟩ }
  | .pand p _ _ _ => { p := p, d := .off, a := .off, b := .off }
  | .por p _ _ _ => { p := p, d := .off, a := .off, b := .off }
  | .pxor p _ _ _ => { p := p, d := .off, a := .off, b := .off }
  | .pnot p _ _ => { p := p, d := .off, a := .off, b := .off }
  | .mov p d a => { p := p, d := ⟨(.dst 1), d⟩, a := ⟨(.src 1), a⟩, b := .off }
  | .smovToUniform p _ a => { p := p, d := .off, a := ⟨(.src 1), a⟩, b := .off }
  | .smovFromUniform p d _ => { p := p, d := ⟨(.dst 1), d⟩, a := .off, b := .off }
  | .movI64 p d a => { p := p, d := ⟨(.dst 2), d⟩, a := ⟨(.src 2), a⟩, b := .off }
  | .lea p d a b => { p := p, d := ⟨(.dst 2), d⟩, a := ⟨(.src 2), a⟩, b := ⟨(.src 1), b⟩ }
  | .idx2 p d a _ => { p := p, d := ⟨(.dst 2), d⟩, a := ⟨(.src 2), a⟩, b := .off }
  | .shlI64 p d a b => { p := p, d := ⟨(.dst 2), d⟩, a := ⟨(.src 2), a⟩, b := ⟨(.src 1), b⟩ }
  | .shrI64 p d a b => { p := p, d := ⟨(.dst 2), d⟩, a := ⟨(.src 2), a⟩, b := ⟨(.src 1), b⟩ }
  | .sarI64 p d a b => { p := p, d := ⟨(.dst 2), d⟩, a := ⟨(.src 2), a⟩, b := ⟨(.src 1), b⟩ }
  | .movi p d _ => { p := p, d := ⟨(.dst 1), d⟩, a := .off, b := .off }
  | .addI32Immediate p d a _ => { p := p, d := ⟨(.dst 1), d⟩, a := ⟨(.src 1), a⟩, b := .off }
  | .faddF32 p d a b => { p := p, d := ⟨(.dst 1), d⟩, a := ⟨(.src 1), a⟩, b := ⟨(.src 1), b⟩ }
  | .fsubF32 p d a b => { p := p, d := ⟨(.dst 1), d⟩, a := ⟨(.src 1), a⟩, b := ⟨(.src 1), b⟩ }
  | .fmulF32 p d a b => { p := p, d := ⟨(.dst 1), d⟩, a := ⟨(.src 1), a⟩, b := ⟨(.src 1), b⟩ }
  | .fminF32 p d a b => { p := p, d := ⟨(.dst 1), d⟩, a := ⟨(.src 1), a⟩, b := ⟨(.src 1), b⟩ }
  | .fmaF32D0 p d a b => { p := p, d := ⟨(.upd 1), d⟩, a := ⟨(.src 1), a⟩, b := ⟨(.src 1), b⟩ }
  | .fmaF32D1 p d a b => { p := p, d := ⟨(.upd 1), d⟩, a := ⟨(.src 1), a⟩, b := ⟨(.src 1), b⟩ }
  | .fmaF32D2 p d a b => { p := p, d := ⟨(.upd 1), d⟩, a := ⟨(.src 1), a⟩, b := ⟨(.src 1), b⟩ }
  | .fmaF32D3 p d a b => { p := p, d := ⟨(.upd 1), d⟩, a := ⟨(.src 1), a⟩, b := ⟨(.src 1), b⟩ }
  | .fmaxF32 p d a b => { p := p, d := ⟨(.dst 1), d⟩, a := ⟨(.src 1), a⟩, b := ⟨(.src 1), b⟩ }
  | .fcmpF32 p _ a b => { p := p, d := .off, a := ⟨(.src 1), a⟩, b := ⟨(.src 1), b⟩ }
  | .fclassF32 p d a => { p := p, d := ⟨(.dst 1), d⟩, a := ⟨(.src 1), a⟩, b := .off }
  | .faddF16 p d a b => { p := p, d := ⟨(.dst 1), d⟩, a := ⟨(.src 1), a⟩, b := ⟨(.src 1), b⟩ }
  | .fsubF16 p d a b => { p := p, d := ⟨(.dst 1), d⟩, a := ⟨(.src 1), a⟩, b := ⟨(.src 1), b⟩ }
  | .fmulF16 p d a b => { p := p, d := ⟨(.dst 1), d⟩, a := ⟨(.src 1), a⟩, b := ⟨(.src 1), b⟩ }
  | .fminF16 p d a b => { p := p, d := ⟨(.dst 1), d⟩, a := ⟨(.src 1), a⟩, b := ⟨(.src 1), b⟩ }
  | .fmaF16D0 p d a b => { p := p, d := ⟨(.upd 1), d⟩, a := ⟨(.src 1), a⟩, b := ⟨(.src 1), b⟩ }
  | .fmaF16D1 p d a b => { p := p, d := ⟨(.upd 1), d⟩, a := ⟨(.src 1), a⟩, b := ⟨(.src 1), b⟩ }
  | .fmaF16D2 p d a b => { p := p, d := ⟨(.upd 1), d⟩, a := ⟨(.src 1), a⟩, b := ⟨(.src 1), b⟩ }
  | .fmaF16D3 p d a b => { p := p, d := ⟨(.upd 1), d⟩, a := ⟨(.src 1), a⟩, b := ⟨(.src 1), b⟩ }
  | .fmaxF16 p d a b => { p := p, d := ⟨(.dst 1), d⟩, a := ⟨(.src 1), a⟩, b := ⟨(.src 1), b⟩ }
  | .fcmpF16 p _ a b => { p := p, d := .off, a := ⟨(.src 1), a⟩, b := ⟨(.src 1), b⟩ }
  | .fclassF16 p d a => { p := p, d := ⟨(.dst 1), d⟩, a := ⟨(.src 1), a⟩, b := .off }
  | .faddBf16 p d a b => { p := p, d := ⟨(.dst 1), d⟩, a := ⟨(.src 1), a⟩, b := ⟨(.src 1), b⟩ }
  | .fsubBf16 p d a b => { p := p, d := ⟨(.dst 1), d⟩, a := ⟨(.src 1), a⟩, b := ⟨(.src 1), b⟩ }
  | .fmulBf16 p d a b => { p := p, d := ⟨(.dst 1), d⟩, a := ⟨(.src 1), a⟩, b := ⟨(.src 1), b⟩ }
  | .fminBf16 p d a b => { p := p, d := ⟨(.dst 1), d⟩, a := ⟨(.src 1), a⟩, b := ⟨(.src 1), b⟩ }
  | .fmaBf16D0 p d a b => { p := p, d := ⟨(.upd 1), d⟩, a := ⟨(.src 1), a⟩, b := ⟨(.src 1), b⟩ }
  | .fmaBf16D1 p d a b => { p := p, d := ⟨(.upd 1), d⟩, a := ⟨(.src 1), a⟩, b := ⟨(.src 1), b⟩ }
  | .fmaBf16D2 p d a b => { p := p, d := ⟨(.upd 1), d⟩, a := ⟨(.src 1), a⟩, b := ⟨(.src 1), b⟩ }
  | .fmaBf16D3 p d a b => { p := p, d := ⟨(.upd 1), d⟩, a := ⟨(.src 1), a⟩, b := ⟨(.src 1), b⟩ }
  | .fmaxBf16 p d a b => { p := p, d := ⟨(.dst 1), d⟩, a := ⟨(.src 1), a⟩, b := ⟨(.src 1), b⟩ }
  | .fcmpBf16 p _ a b => { p := p, d := .off, a := ⟨(.src 1), a⟩, b := ⟨(.src 1), b⟩ }
  | .fclassBf16 p d a => { p := p, d := ⟨(.dst 1), d⟩, a := ⟨(.src 1), a⟩, b := .off }
  | .frcp p d a => { p := p, d := ⟨(.dst 1), d⟩, a := ⟨(.src 1), a⟩, b := .off }
  | .frsq p d a => { p := p, d := ⟨(.dst 1), d⟩, a := ⟨(.src 1), a⟩, b := .off }
  | .fsqrt p d a => { p := p, d := ⟨(.dst 1), d⟩, a := ⟨(.src 1), a⟩, b := .off }
  | .fdiv p d a b => { p := p, d := ⟨(.dst 1), d⟩, a := ⟨(.src 1), a⟩, b := ⟨(.src 1), b⟩ }
  | .fex2 p d a => { p := p, d := ⟨(.dst 1), d⟩, a := ⟨(.src 1), a⟩, b := .off }
  | .flg2 p d a => { p := p, d := ⟨(.dst 1), d⟩, a := ⟨(.src 1), a⟩, b := .off }
  | .fsin p d a => { p := p, d := ⟨(.dst 1), d⟩, a := ⟨(.src 1), a⟩, b := .off }
  | .fcos p d a => { p := p, d := ⟨(.dst 1), d⟩, a := ⟨(.src 1), a⟩, b := .off }
  | .frintRn p d a => { p := p, d := ⟨(.dst 1), d⟩, a := ⟨(.src 1), a⟩, b := .off }
  | .frintRz p d a => { p := p, d := ⟨(.dst 1), d⟩, a := ⟨(.src 1), a⟩, b := .off }
  | .frintRp p d a => { p := p, d := ⟨(.dst 1), d⟩, a := ⟨(.src 1), a⟩, b := .off }
  | .frintRm p d a => { p := p, d := ⟨(.dst 1), d⟩, a := ⟨(.src 1), a⟩, b := .off }
  | .dadd p d a b => { p := p, d := ⟨(.dst 2), d⟩, a := ⟨(.src 2), a⟩, b := ⟨(.src 2), b⟩ }
  | .dmul p d a b => { p := p, d := ⟨(.dst 2), d⟩, a := ⟨(.src 2), a⟩, b := ⟨(.src 2), b⟩ }
  | .dfma p d a b => { p := p, d := ⟨(.upd 2), d⟩, a := ⟨(.src 2), a⟩, b := ⟨(.src 2), b⟩ }
  | .dcvtF64F32 p d a => { p := p, d := ⟨(.dst 2), d⟩, a := ⟨(.src 1), a⟩, b := .off }
  | .dcvtF32F64 p d a => { p := p, d := ⟨(.dst 1), d⟩, a := ⟨(.src 2), a⟩, b := .off }
  | .dcvtF64S64 p d a => { p := p, d := ⟨(.dst 2), d⟩, a := ⟨(.src 2), a⟩, b := .off }
  | .dcvtS64F64 p d a => { p := p, d := ⟨(.dst 2), d⟩, a := ⟨(.src 2), a⟩, b := .off }
  | .cvtRn p d a b => { p := p, d := ⟨(cvtUse b), d⟩, a := ⟨(.src 1), a⟩, b := .off }
  | .cvtRz p d a b => { p := p, d := ⟨(cvtUse b), d⟩, a := ⟨(.src 1), a⟩, b := .off }
  | .cvtRp p d a b => { p := p, d := ⟨(cvtUse b), d⟩, a := ⟨(.src 1), a⟩, b := .off }
  | .cvtRm p d a b => { p := p, d := ⟨(cvtUse b), d⟩, a := ⟨(.src 1), a⟩, b := .off }
  | .cvtn p d a _ _ => { p := p, d := ⟨(.upd 1), d⟩, a := ⟨(.src 1), a⟩, b := .off }
  | .cvtw p d a b _ => { p := p, d := ⟨(.dst 1), d⟩, a := ⟨(.src 1), a⟩, b := ⟨(.src 1), b⟩ }
  | .bsext p d a b => { p := p, d := ⟨(.dst 1), d⟩, a := ⟨(.src 1), a⟩, b := ⟨(.src 1), b⟩ }
  | .bsapp p d a b => { p := p, d := ⟨(.dst 1), d⟩, a := ⟨(.src 1), a⟩, b := ⟨(.src 1), b⟩ }
  | .compress p d a => { p := p, d := ⟨(.dst 2), d⟩, a := ⟨(.src 2), a⟩, b := .off }
  | .expand p d a b => { p := p, d := ⟨(.dst 2), d⟩, a := ⟨(.src 1), a⟩, b := ⟨(.src 1), b⟩ }
  | .qswpH p d a => { p := p, d := ⟨(.dst 1), d⟩, a := ⟨(.src 1), a⟩, b := .off, cross := true }
  | .qswpV p d a => { p := p, d := ⟨(.dst 1), d⟩, a := ⟨(.src 1), a⟩, b := .off, cross := true }
  | .qswpD p d a => { p := p, d := ⟨(.dst 1), d⟩, a := ⟨(.src 1), a⟩, b := .off, cross := true }
  | .elect p _ => { p := p, d := .off, a := .off, b := .off, cross := true }
  | .voteAny p _ _ => { p := p, d := .off, a := .off, b := .off, cross := true }
  | .voteAll p _ _ => { p := p, d := .off, a := .off, b := .off, cross := true }
  | .voteBallot p d _ => { p := p, d := ⟨(.dst 2), d⟩, a := .off, b := .off, cross := true }
  | .matchAny p d a => { p := p, d := ⟨(.dst 2), d⟩, a := ⟨(.src 1), a⟩, b := .off, cross := true }
  | .reduxI32 p d a _ => { p := p, d := ⟨(.dst 1), d⟩, a := ⟨(.src 1), a⟩, b := .off, cross := true }
  | .reduxUs p d a _ => { p := p, d := ⟨(.dst 1), d⟩, a := ⟨(.src 1), a⟩, b := .off, cross := true }
  | .reduxF32 p d a _ => { p := p, d := ⟨(.dst 1), d⟩, a := ⟨(.src 1), a⟩, b := .off, cross := true }
  | .scanI32 p d a _ => { p := p, d := ⟨(.dst 1), d⟩, a := ⟨(.src 1), a⟩, b := .off, cross := true }
  | .scanUs p d a _ => { p := p, d := ⟨(.dst 1), d⟩, a := ⟨(.src 1), a⟩, b := .off, cross := true }
  | .scanF32 p d a _ => { p := p, d := ⟨(.dst 1), d⟩, a := ⟨(.src 1), a⟩, b := .off, cross := true }
  | .movf d _ => { p := 7#3, d := ⟨(.dst 1), d⟩, a := .off, b := .off }
  | .permutationPrefix _ _ => { p := 7#3, d := .off, a := .off, b := .off }
  | .ldB32 p d a _ => { p := p, d := ⟨(.dst 1), d⟩, a := ⟨(.src 2), a⟩, b := .off, long := true }
  | .stB32 p d a _ => { p := p, d := ⟨(.src 1), d⟩, a := ⟨(.src 2), a⟩, b := .off }
  | .ldB64 p d a b => { p := p, d := ⟨(.dst 2), d⟩, a := ⟨(.src 2), a⟩, b := ⟨(.src 1), b⟩, long := true }
  | .stB64 p d a b => { p := p, d := ⟨(.src 2), d⟩, a := ⟨(.src 2), a⟩, b := ⟨(.src 1), b⟩ }
  | .ldB128 p d a b => { p := p, d := ⟨(.dst 4), d⟩, a := ⟨(.src 2), a⟩, b := ⟨(.src 1), b⟩, long := true }
  | .stB128 p d a b => { p := p, d := ⟨(.src 4), d⟩, a := ⟨(.src 2), a⟩, b := ⟨(.src 1), b⟩ }
  | .ldB8 p d a b => { p := p, d := ⟨(.dst 1), d⟩, a := ⟨(.src 2), a⟩, b := ⟨(.src 1), b⟩, long := true }
  | .ldB16 p d a b => { p := p, d := ⟨(.dst 1), d⟩, a := ⟨(.src 2), a⟩, b := ⟨(.src 1), b⟩, long := true }
  | .stB8 p d a b => { p := p, d := ⟨(.src 1), d⟩, a := ⟨(.src 2), a⟩, b := ⟨(.src 1), b⟩ }
  | .stB16 p d a b => { p := p, d := ⟨(.src 1), d⟩, a := ⟨(.src 2), a⟩, b := ⟨(.src 1), b⟩ }
  | .ldsB32 p d a b => { p := p, d := ⟨(.dst 1), d⟩, a := ⟨(.src 1), a⟩, b := ⟨(.src 1), b⟩, long := true }
  | .stsB32 p d a b => { p := p, d := ⟨(.src 1), d⟩, a := ⟨(.src 1), a⟩, b := ⟨(.src 1), b⟩ }
  | .ldsB64 p d a b => { p := p, d := ⟨(.dst 2), d⟩, a := ⟨(.src 1), a⟩, b := ⟨(.src 1), b⟩, long := true }
  | .stsB64 p d a b => { p := p, d := ⟨(.src 2), d⟩, a := ⟨(.src 1), a⟩, b := ⟨(.src 1), b⟩ }
  | .ldcB32 p d a b => { p := p, d := ⟨(.dst 1), d⟩, a := ⟨(.src 1), a⟩, b := ⟨(.src 1), b⟩, long := true }
  | .ldcB64 p d a b => { p := p, d := ⟨(.dst 2), d⟩, a := ⟨(.src 1), a⟩, b := ⟨(.src 1), b⟩, long := true }
  | .pref p _ a b => { p := p, d := .off, a := ⟨(.src 2), a⟩, b := ⟨(.src 1), b⟩ }
  | .ldrB32 p d a _ => { p := p, d := ⟨(.dst 1), d⟩, a := ⟨(.src 2), a⟩, b := .off, long := true }
  | .ldrB32Uniform p d a _ => { p := p, d := ⟨(.dst 1), d⟩, a := ⟨(.src 2), a⟩, b := .off, long := true }
  | .strB32 p d a _ => { p := p, d := ⟨(.src 1), d⟩, a := ⟨(.src 2), a⟩, b := .off }
  | .strB32Uniform p d a _ => { p := p, d := ⟨(.src 1), d⟩, a := ⟨(.src 2), a⟩, b := .off }
  | .atomB32 p d a _ => { p := p, d := ⟨(.upd 1), d⟩, a := ⟨(.src 2), a⟩, b := .off, long := true }
  | .casB32 p d a _ => { p := p, d := ⟨(.upd 2), d⟩, a := ⟨(.src 2), a⟩, b := .off, long := true }
  | .atomB64 p d a _ => { p := p, d := ⟨(.upd 2), d⟩, a := ⟨(.src 2), a⟩, b := .off, long := true }
  | .casB64 p d a _ => { p := p, d := ⟨(.upd 4), d⟩, a := ⟨(.src 2), a⟩, b := .off, long := true }
  | .redB32 p d a _ => { p := p, d := ⟨(.src 1), d⟩, a := ⟨(.src 2), a⟩, b := .off }
  | .redB64 p d a _ => { p := p, d := ⟨(.src 2), d⟩, a := ⟨(.src 2), a⟩, b := .off }
  | .fatom p d a b => { p := p, d := ⟨(.upd (fatomWidth b)), d⟩, a := ⟨(.src 2), a⟩, b := .off, long := true }
  | .fatomNr p d a b => { p := p, d := ⟨(.src (fatomWidth b)), d⟩, a := ⟨(.src 2), a⟩, b := .off }
  | .mcas p d a => { p := p, d := ⟨(.dst 1), d⟩, a := ⟨(.src 2), a⟩, b := .off, long := true }
  | .tshape p d a => { p := p, d := ⟨(.dst 1), d⟩, a := ⟨(.src 1), a⟩, b := .off }
  | .tld p _ a _ => { p := p, d := .off, a := ⟨(.src 2), a⟩, b := .off, long := true }
  | .tst p _ a _ => { p := p, d := .off, a := ⟨(.src 2), a⟩, b := .off, long := true }
  | .tmov p _ a => { p := p, d := .off, a := ⟨(.src 1), a⟩, b := .off }
  | .mmaBf16 p _ a b => { p := p, d := .off, a := ⟨(.src 1), a⟩, b := ⟨(.src 2), b⟩, long := true }
  | .mmaF16 p _ a b => { p := p, d := .off, a := ⟨(.src 1), a⟩, b := ⟨(.src 2), b⟩, long := true }
  | .mmaNf p _ a b => { p := p, d := .off, a := ⟨(.src 1), a⟩, b := ⟨(.src 2), b⟩, long := true }
  | .mmaspBf16 p _ a b => { p := p, d := .off, a := ⟨(.src 1), a⟩, b := ⟨(.src 2), b⟩, long := true }
  | .mmaspF16 p _ a b => { p := p, d := .off, a := ⟨(.src 1), a⟩, b := ⟨(.src 2), b⟩, long := true }
  | .mmaspNf p _ a b => { p := p, d := .off, a := ⟨(.src 1), a⟩, b := ⟨(.src 2), b⟩, long := true }
  | .acalloc p d a => { p := p, d := ⟨(.dst 1), d⟩, a := ⟨(.src 1), a⟩, b := .off }
  | .acfree p a => { p := p, d := .off, a := ⟨(.src 1), a⟩, b := .off }
  | .aczero p a => { p := p, d := .off, a := ⟨(.src 1), a⟩, b := .off, long := true }
  | .acrd p d a => { p := p, d := ⟨(.dst 1), d⟩, a := ⟨(.src 1), a⟩, b := .off, long := true }
  | .acwr p d a => { p := p, d := ⟨(.src 1), d⟩, a := ⟨(.src 1), a⟩, b := .off, long := true }
  | .accvt p _ a => { p := p, d := .off, a := ⟨(.src 1), a⟩, b := .off, long := true }
  | .acseed p d a => { p := p, d := ⟨(.src 1), d⟩, a := ⟨(.src 1), a⟩, b := .off }
  | .acqry p d a => { p := p, d := ⟨(.dst 1), d⟩, a := ⟨(.src 1), a⟩, b := .off }
  | .bra p _ => { p := p, d := .off, a := .off, b := .off, xfer := true }
  | .nop p => { p := p, d := .off, a := .off, b := .off }
  | .brcAny p _ a => { p := p, d := .off, a := ⟨(.src 1), a⟩, b := .off, cross := true, xfer := true }
  | .brcAll p _ a => { p := p, d := .off, a := ⟨(.src 1), a⟩, b := .off, cross := true, xfer := true }
  | .call p d a => { p := p, d := ⟨(.dst 2), d⟩, a := ⟨(.src 1), a⟩, b := .off, xfer := true }
  | .ret p a => { p := p, d := .off, a := ⟨(.src 2), a⟩, b := .off, xfer := true }
  | .jmpi p a => { p := p, d := .off, a := ⟨(.src 2), a⟩, b := .off, xfer := true }
  | .exitT p => { p := p, d := .off, a := .off, b := .off, xfer := true }
  | .yield p => { p := p, d := .off, a := .off, b := .off }
  | .convW => { p := 7#3, d := .off, a := .off, b := .off }
  | .wbase p a => { p := p, d := .off, a := ⟨(.src 1), a⟩, b := .off }
  | .acqr p a => { p := p, d := .off, a := ⟨(.src 1), a⟩, b := .off }
  | .cfence p => { p := p, d := .off, a := .off, b := .off }
  | .ifence p => { p := p, d := .off, a := .off, b := .off }
  | .twait p _ a => { p := p, d := .off, a := ⟨(.src 2), a⟩, b := .off }
  | .tread p d _ => { p := p, d := ⟨(.dst 2), d⟩, a := .off, b := .off }
  | .tsignal p d _ => { p := p, d := ⟨(.dst 2), d⟩, a := .off, b := .off }
  | .bar p => { p := p, d := .off, a := .off, b := .off }
  | .bara p _ a => { p := p, d := .off, a := ⟨(.src 1), a⟩, b := .off }
  | .barw p _ => { p := p, d := .off, a := .off, b := .off }
  | .marrive p d a => { p := p, d := ⟨(.dst 2), d⟩, a := ⟨(.src 2), a⟩, b := .off }
  | .mwait p d a => { p := p, d := ⟨(.src 2), d⟩, a := ⟨(.src 2), a⟩, b := .off }
  | .ldfK p d a => { p := p, d := ⟨(.dst 1), d⟩, a := ⟨(.src 1), a⟩, b := .off, long := true }
  | .ldfE p d a => { p := p, d := ⟨(.dst 1), d⟩, a := ⟨(.src 1), a⟩, b := .off, long := true }
  | .ste p d a => { p := p, d := ⟨(.src 1), d⟩, a := ⟨(.src 1), a⟩, b := .off }
  | .stf p d a => { p := p, d := ⟨(.src 1), d⟩, a := ⟨(.src 1), a⟩, b := .off }
  | .lde p d a => { p := p, d := ⟨(.dst 1), d⟩, a := ⟨(.src 1), a⟩, b := .off, long := true }
  | .sleepT p a => { p := p, d := .off, a := ⟨(.src 1), a⟩, b := .off }
  | .ldAcqB32 p d a _ => { p := p, d := ⟨(.dst 1), d⟩, a := ⟨(.src 2), a⟩, b := .off, long := true }
  | .ldAcqB64 p d a _ => { p := p, d := ⟨(.dst 2), d⟩, a := ⟨(.src 2), a⟩, b := .off, long := true }
  | .stRelB32 p d a _ => { p := p, d := ⟨(.src 1), d⟩, a := ⟨(.src 2), a⟩, b := .off }
  | .stRelB64 p d a _ => { p := p, d := ⟨(.src 2), d⟩, a := ⟨(.src 2), a⟩, b := .off }
  | .fenceAcq p _ => { p := p, d := .off, a := .off, b := .off }
  | .fenceRel p _ => { p := p, d := .off, a := .off, b := .off }
  | .fenceAcqrel p _ => { p := p, d := .off, a := .off, b := .off }
  | .fenceSc p _ => { p := p, d := .off, a := .off, b := .off }
  | .cpy p d a => { p := p, d := ⟨(.dst 2), d⟩, a := ⟨(.src 2), a⟩, b := .off, long := true, once := true }
  | .gath p d a => { p := p, d := ⟨(.dst 2), d⟩, a := ⟨(.src 2), a⟩, b := .off, long := true, once := true }
  | .scat p d a => { p := p, d := ⟨(.dst 2), d⟩, a := ⟨(.src 2), a⟩, b := .off, long := true, once := true }
  | .coll p d a => { p := p, d := ⟨(.dst 2), d⟩, a := ⟨(.src 2), a⟩, b := .off, long := true, once := true }
  | .tbind p d a => { p := p, d := ⟨(.dst 2), d⟩, a := ⟨(.src 2), a⟩, b := .off, long := true, once := true }
  | .tunbind p d a => { p := p, d := ⟨(.dst 2), d⟩, a := ⟨(.src 1), a⟩, b := .off, once := true }
  | .evpop p d _ => { p := p, d := ⟨(.dst 4), d⟩, a := .off, b := .off, once := true }
  | .evpush p d a => { p := p, d := ⟨(.src 2), d⟩, a := ⟨(.src 1), a⟩, b := .off, once := true }
  | .taskrel p d a => { p := p, d := ⟨(.dst 1), d⟩, a := ⟨(.src 1), a⟩, b := .off, once := true }
  | .launch p d a => { p := p, d := ⟨(.dst 4), d⟩, a := ⟨(.src 2), a⟩, b := .off, once := true }
  | .launchp p d a => { p := p, d := ⟨(.dst 4), d⟩, a := ⟨(.src 2), a⟩, b := .off, once := true }
  | .cancel p d a => { p := p, d := ⟨(.dst 2), d⟩, a := ⟨(.src 4), a⟩, b := .off, once := true }
  | .gridq p d a => { p := p, d := ⟨(.src 2), d⟩, a := ⟨(.src 4), a⟩, b := .off, once := true }
  | .csrr p d a => { p := p, d := ⟨(.dst 2), d⟩, a := ⟨(.src 1), a⟩, b := .off }
  | .csrw p d a => { p := p, d := ⟨(.src 2), d⟩, a := ⟨(.src 1), a⟩, b := .off }
  | .setid p _ a => { p := p, d := .off, a := ⟨(.src 1), a⟩, b := .off, priv := true }
  | .tlbinv p d a => { p := p, d := ⟨(.src 2), d⟩, a := ⟨(.src 2), a⟩, b := .off, priv := true }
  | .clrinv p d a => { p := p, d := ⟨(.src 1), d⟩, a := ⟨(.src 1), a⟩, b := .off, priv := true }
  | .bankrole p d a => { p := p, d := ⟨(.src 4), d⟩, a := ⟨(.src 1), a⟩, b := .off, priv := true }
  | .trap p a => { p := p, d := .off, a := ⟨(.src 1), a⟩, b := .off }
  | .eret p d a => { p := p, d := ⟨(.dst 1), d⟩, a := ⟨(.src 2), a⟩, b := .off, priv := true }
  | .savectx p d a => { p := p, d := ⟨(.dst 2), d⟩, a := ⟨(.src 1), a⟩, b := .off, priv := true }
  | .restctx p d a => { p := p, d := ⟨(.dst 1), d⟩, a := ⟨(.src 1), a⟩, b := .off, priv := true }
  | .halt p a => { p := p, d := .off, a := ⟨(.src 1), a⟩, b := .off, priv := true }
  | .rdclk p d _ => { p := p, d := ⟨(.dst 2), d⟩, a := .off, b := .off }
  | .rand p d => { p := p, d := ⟨(.dst 1), d⟩, a := .off, b := .off }
  | .ckpt p d a => { p := p, d := ⟨(.dst 2), d⟩, a := ⟨(.src 1), a⟩, b := .off }
  | .sigchk p d a => { p := p, d := ⟨(.dst 1), d⟩, a := ⟨(.src 1), a⟩, b := .off }
  | .replq p d a => { p := p, d := ⟨(.dst 2), d⟩, a := ⟨(.src 1), a⟩, b := .off }
  | .tmlnWrite => {}
  | .identWrite => {}
  | .nfmtWrite => {}
  | .clauseIssue => {}
  | .heldFaultRecordWrite => {}
  | .runAheadEnd => {}
  | .loadReturn => {}
  | .longLatencyCompletion => {}
  | .deferredMemberRetest => {}
  | .rotationPoint => {}
  | .sleepExpiry => {}
  | .stall => {}
  | .stopWindowExpiry => {}
  | .warpStopped => {}
  | .vacateReservedCore => {}
  | .workgroupPlacement => {}
  | .logicalCorePlacement => {}
  | .landingDeal => {}
  | .cancelLanding => {}
  | .gridCompletion => {}
  | .queueTailWake => {}
  | .cpySectorDelivery => {}
  | .gathElement => {}
  | .scatElement => {}
  | .collInstanceStart => {}
  | .collElementWrite => {}
  | .gazetteerBindComplete => {}
  | .gazetteerUnbindComplete => {}
  | .engineOperationComplete => {}
  | .writeBackMerge => {}
  | .atomicPerform => {}
  | .postedOperationReplay => {}
  | .mcasLockGrant => {}
  | .lockBusy => {}
  | .mmaKgroup => {}
  | .acfreeRelease => {}
  | .bankRoleChange => {}
  | .writeLogApply => {}
  | .replicaComparison => {}
  | .holdAgeExpiry => {}
  | .replicaUncorrectableError => {}
  | .cutIntervalExpiry => {}
  | .cutInstant => {}
  | .cutRecordWrite => {}
  | .cutDurable => {}
  | .streamUnitWrite => {}
  | .protectedUnitWrite => {}
  | .savecostUpdate => {}
  | .scrubRow => {}
  | .hotRowAgeOut => {}
  | .scoreHalving => {}
  | .correctedError => {}
  | .uncorrectableError => {}
  | .remapTableError => {}
  | .flitReceive => {}
  | .portRetrainEnd => {}
  | .rdmaSendWake => {}
  | .rdmaInboundWrite => {}
  | .rdmaCompletion => {}
  | .hostBar2Write => {}
  | .hostCxlMemAccess => {}
  | .mailboxAreaWrite => {}
  | .createContext => {}
  | .destroyContext => {}
  | .registerQueue => {}
  | .removeQueue => {}
  | .setReservedCores => {}
  | .loadKeySlot => {}
  | .clearKeySlot => {}
  | .registerCheckpoint => {}
  | .removeCheckpoint => {}
  | .requestCut => {}
  | .allotCores => {}
  | .withdrawCores => {}
  | .powerRun => {}
  | .powerCapped => {}
  | .powerIdle => {}
  | .enterFullService => {}
  | .readErrorLog => {}
  | .readJournal => {}
  | .thermalTrip => {}
  | .powerRemoval => {}
  | .deviceReset => {}
  | .codeObjectLoad => {}
  | .writePerformedAtScope => {}
  | .linkDown => {}
  | .unknownOpcode => {}

/-- Literal words that a field consumes (R57): it reads 127 as a source. -/
def slotLits (s : Slot) : Nat :=
  match s.use with
  | .src n => if s.f = 127#7 then n else 0
  | _ => 0

/-- Literal words that an instruction consumes (R58). -/
def litCount (i : Instr) : Nat :=
  slotLits (shapeOf i).a + slotLits (shapeOf i).b + slotLits (shapeOf i).d

/-- R57's conditions on one operand field: even pairs, quads in vector registers, no constant slot as a destination,
no literal for a 128-bit source or for a field that is read and written. -/
def slotOk (s : Slot) : Bool :=
  let f := s.f.toNat
  match s.use with
  | .none => true
  | .src 1 => true
  | .src 2 => f = 127 || (f % 2 = 0 && decide (f < 126))
  | .src _ => f % 4 = 0 && decide (f < 96)
  | .dst 1 => f = 127 || decide (f < 112)
  | .dst 2 => f = 127 || (f % 2 = 0 && decide (f < 112))
  | .dst _ => f = 127 || (f % 4 = 0 && decide (f < 96))
  | .upd 1 => decide (f < 112)
  | .upd 2 => f % 2 = 0 && decide (f < 112)
  | .upd _ => f % 4 = 0 && decide (f < 96)

/-- The legal selectors of `CVT` (R145). -/
def cvtOk (b : BitVec 7) : Bool :=
  let src := (b.extractLsb' 4 3).toNat
  let dst := (b.extractLsb' 1 3).toNat
  let hi := b.extractLsb' 0 1 = 1#1
  decide (src < 5) && decide (dst < 5) && decide (src ≠ dst) && !(decide (src ≥ 3) && decide (dst ≥ 3)) &&
    !(hi && !(src = 1 || src = 2 || dst = 1 || dst = 2))

/-- The checks of selector values that raise ILLEGAL_ENCODING, by description. -/
def selectorOk : Instr → Bool
  | .smovToUniform _ d _ => decide (d.toNat < 64)
  | .smovFromUniform _ _ a => decide (a.toNat < 64)
  | .cmpSg _ d _ _ | .cmpUs _ d _ _ | .cmpI64 _ d _ _ => decide ((d.extractLsb' 3 3).toNat < 6)
  | .pref _ d _ _ => decide (d.toNat < 2)
  | .cvtRn _ _ _ b | .cvtRz _ _ _ b | .cvtRp _ _ _ b | .cvtRm _ _ _ b => cvtOk b
  | .reduxI32 _ _ _ b | .scanI32 _ _ _ b => decide ((b.extractLsb' 0 3).toNat < 6)
  | .reduxUs _ _ _ b | .scanUs _ _ _ b => let o := (b.extractLsb' 0 3).toNat; o = 1 || o = 2
  | .reduxF32 _ _ _ b | .scanF32 _ _ _ b => decide ((b.extractLsb' 0 3).toNat < 3)
  | .atomB32 _ _ _ b | .atomB64 _ _ _ b => decide ((b.extractLsb' 0 4).toNat < 11)
  | .redB32 _ _ _ b | .redB64 _ _ _ b => let o := (b.extractLsb' 0 4).toNat; decide (o < 11) && decide (o ≠ 8)
  | .fatom _ _ _ b | .fatomNr _ _ _ b => decide ((b.extractLsb' 0 4).toNat < 7)
  | .tsignal _ _ a => decide (a.extractLsb' 4 3 ≠ 0#3)
  | .rdclk _ _ a => decide (a.extractLsb' 0 2 ≠ 3#2)
  | .qswpH _ _ a | .qswpV _ _ a | .qswpD _ _ a => decide (a.toNat < 96)
  | .ldAcqB32 _ _ _ s | .ldAcqB64 _ _ _ s | .stRelB32 _ _ _ s | .stRelB64 _ _ _ s => decide (s ≠ 7#3)
  | .fenceAcq _ s | .fenceRel _ s | .fenceAcqrel _ s | .fenceSc _ s => decide (s ≠ 7#3)
  | _ => true

/-- The reserved values and bits of selectors, which raise RESERVED_FIELD. -/
def selectorReserved : Instr → Bool
  | .cmpSg _ d _ _ | .cmpUs _ d _ _ | .fcmpF32 _ d _ _ => d.extractLsb' 6 1 = 1#1
  | .pand _ d a b | .por _ d a b | .pxor _ d a b =>
    decide (d.extractLsb' 3 4 ≠ 0#4) || decide (a.extractLsb' 4 3 ≠ 0#3) || decide (b.extractLsb' 4 3 ≠ 0#3)
  | .pnot _ d a => decide (d.extractLsb' 3 4 ≠ 0#4) || decide (a.extractLsb' 4 3 ≠ 0#3)
  | .brcAny _ d _ | .brcAll _ d _ => decide (d.extractLsb' 4 3 ≠ 0#3)
  | .idx2 _ _ _ b | .tld _ _ _ b | .tst _ _ _ b =>
    (b.extractLsb' 6 1 = 1#1 && decide (b.extractLsb' 4 2 ≠ 0#2))
  | .cvtn _ _ _ b _ => b.extractLsb' 6 1 = 0#1 && decide (b.extractLsb' 0 3 ≠ 0#3)
  | .voteAny _ d a | .voteAll _ d a => decide (d.extractLsb' 3 4 ≠ 0#4) || decide (a.extractLsb' 4 3 ≠ 0#3)
  | .voteBallot _ _ a => decide (a.extractLsb' 4 3 ≠ 0#3)
  | .elect _ d => decide (d.extractLsb' 3 4 ≠ 0#4)
  | .reduxI32 _ _ _ b | .reduxUs _ _ _ b | .reduxF32 _ _ _ b => decide (b.extractLsb' 3 4 ≠ 0#4)
  | .scanI32 _ _ _ b | .scanUs _ _ _ b | .scanF32 _ _ _ b => decide (b.extractLsb' 4 3 ≠ 0#3)
  | .atomB32 _ _ _ b | .atomB64 _ _ _ b | .redB32 _ _ _ b | .redB64 _ _ _ b | .fatom _ _ _ b | .fatomNr _ _ _ b =>
    b.extractLsb' 4 3 = 7#3
  | .casB32 _ _ _ s | .casB64 _ _ _ s => s = 7#3
  | .tmov _ d _ => decide (d.extractLsb' 4 3 ≠ 0#3)
  | .mmaBf16 _ d _ _ | .mmaF16 _ d _ _ | .mmaNf _ d _ _ | .mmaspBf16 _ d _ _ | .mmaspF16 _ d _ _ | .mmaspNf _ d _ _ =>
    decide (d ≠ 127#7) && d.extractLsb' 6 1 = 1#1 && decide (d.extractLsb' 4 2 ≠ 0#2)
  | .accvt _ d _ => d.extractLsb' 4 2 = 3#2 || (d.extractLsb' 3 1 = 1#1 && decide (d.extractLsb' 0 3 ≠ 0#3))
  | .twait _ d _ => decide (d.extractLsb' 4 3 ≠ 0#3)
  | .tread _ _ a => decide (a.extractLsb' 4 3 ≠ 0#3)
  | .tsignal _ _ a => a.extractLsb' 4 3 = 7#3
  | .bara _ d _ | .barw _ d => decide (d.extractLsb' 4 3 ≠ 0#3)
  | .evpop _ _ a => decide (a.extractLsb' 1 6 ≠ 0#6)
  | .setid _ d _ => decide (d.extractLsb' 1 6 ≠ 0#6)
  | .rdclk _ _ a => decide (a.extractLsb' 2 5 ≠ 0#5)
  | .permutationPrefix a b => !(patOk a && patOk b)
  | _ => false
where
  /-- R59: legal kinds and K of a permutation pattern. -/
  patOk (x : BitVec 9) : Bool :=
    let k := (x.extractLsb' 0 6).toNat
    match (x.extractLsb' 6 3).toNat with
    | 0 => k = 0
    | 4 => decide (k ≤ 6)
    | 5 => decide (k ≤ 3)
    | 7 => false
    | _ => true

/-- The reserved bits of D in the tile loads and stores (R177). -/
def tileReserved : Instr → Bool
  | .tld _ d _ _ | .tst _ d _ _ => decide (d.extractLsb' 3 4 ≠ 0#4)
  | _ => false

/-- Operand and selector values that R57 or the description forbids (R63 step 3, before the reserved fields). -/
def valueCause (i : Instr) : Option Cause :=
  let s := shapeOf i
  if slotOk s.d && slotOk s.a && slotOk s.b && selectorOk i then none else some .illegalEncoding

/-- Reserved values of the selectors (R63 step 3, with the reserved fields). -/
def reservedCause (i : Instr) : Option Cause :=
  if selectorReserved i || tileReserved i then some .reservedField else none

/-- Format R: the only words a permutation prefix may stand before (R60). -/
def isFormatR (w : Word) : Bool :=
  let m := (w.extractLsb' 26 6).toNat
  !(m = 0x0C || m = 0x0D || m = 0x2A || m = 0x2B || m = 0x30 || m = 0x31 || m = 0x39 || m = 0x3C || m = 0x3D || m = 0x3F)

/-- R60's second row and R154: a pattern other than identity needs a vector register as its source, and majors 0x26 to
0x29 take none on A. -/
def patCause (w : Word) (i : Instr) (patA patB : BitVec 9) : Option Cause :=
  let s := shapeOf i
  let vec (x : Slot) : Bool := (match x.use with | .src _ => true | _ => false) && decide (x.f.toNat < 96)
  let m := (w.extractLsb' 26 6).toNat
  if (patA ≠ 0#9 ∧ (¬ vec s.a ∨ (0x26 ≤ m ∧ m ≤ 0x29))) ∨ (patB ≠ 0#9 ∧ ¬ vec s.b) then some .illegalEncoding else none

end Sys2Proof.Machine
end

