-- ==== Sys2Proof/Machine/Operands.lean ====
section
/-! DEFINITION. Operand forms: guards (R38), literal words (R58), window, uniform, constant-slot and literal sources with
permutation patterns (R19, R34, R37, R39, R57, R59), destinations (R37, R57), and the checks of operand registers. -/

namespace Sys2Proof.Machine

/-! ### Clause words -/

/-- Literal words that a body word consumes. -/
def wordLits (w : Word) : Nat :=
  match cell w with
  | some (i, _) => litCount i
  | none => 0

/-- Instruction words of a body: the walk of R58 with j words decoded and n literals read, of N body words. -/
def instrCount : List Word → Nat → Nat → Nat → Nat
  | [], j, _, _ => j
  | w :: t, j, n, N => if j + n < N then instrCount t (j + 1) (n + wordLits w) N else j

/-- Instruction words of a group's clause. -/
def groupInstrs (g : Group) : Nat := instrCount g.body 0 0 g.body.length

/-- Literal words read by the first k words of a body. -/
def litsBefore (body : List Word) (k : Nat) : Nat := ((body.take k).map wordLits).sum

/-- The literal words that the present instruction finds, in order (R58). -/
def groupLits (g : Group) : List Word := g.body.drop (groupInstrs g + litsBefore g.body g.pos)

/-- The entry's successor at the end of the clause (R61). -/
def fallThrough (g : Group) : Pair := g.pc + BitVec.ofNat 64 (4 * (g.body.length + 1))

/-- The completion flag of the present long-latency instruction: SETA for the clause's first, SETB for a later one, or SETA
when SETB is 15 (R53). -/
def groupFlag (g : Group) : Nat :=
  let seta := (g.hdr.extractLsb' 16 4).toNat
  let setb := (g.hdr.extractLsb' 12 4).toNat
  let earlier := (g.body.take g.pos).any fun w => match cell w with | some (i, _) => (shapeOf i).long | none => false
  if earlier then (if setb = 15 then seta else setb) else seta

/-! ### Guards -/

/-- Predicate k of a thread; p7 reads true (R38). -/
def predOf (t : Thread) (k : Nat) : Bool := decide (k ≥ 7) || t.preds.getLsbD k
/-- Predicate k written; a write to p7 is discarded (R38). -/
def setPred (t : Thread) (k : Nat) (v : Bool) : Thread :=
  if k ≥ 7 then t
  else { t with preds := if v then t.preds ||| BitVec.ofNat 7 (2 ^ k) else t.preds &&& ~~~(BitVec.ofNat 7 (2 ^ k)) }

/-- Members whose guard is true (R38); a warp's lanes are 0 to 63 (R13). -/
def active (s : State) (g : Group) (p : BitVec 3) : List Member :=
  g.mem.filter fun m => decide (m.lane < 64) && predOf (thrOf s m) p.toNat
/-- Members that are not helpers (R15). -/
def nonHelpers (s : State) (ms : List Member) : List Member := ms.filter fun m => !(thrOf s m).helper
/-- Warps represented by some members, each once. -/
def warpsIn (ms : List Member) : List Nat := sortNat (ms.map (·.warp))
/-- The lowest member of a warp that is active and no helper: it supplies warp-owned writes (R37). -/
def leadOf (s : State) (ms : List Member) (w : Nat) : Option Member := (nonHelpers s ms).find? fun m => m.warp == w
/-- The deciding member of an instruction that executes once per issue group (R18). -/
def decider (s : State) (ms : List Member) : Option Member := (nonHelpers s ms).head?

/-! ### Registers -/

/-- Allocation register g of a lane; an empty lane keeps what it holds. -/
def vreg (s : State) (w l g : Nat) : Word := bmGet (warpOf s w).vr (g * 64 + l)
def ureg (s : State) (w n : Nat) : Word := bmGet (warpOf s w).sr n
/-- An allocation register of a lane written: a poisoned one is so no longer (R382). -/
def setVreg (s : State) (w l g : Nat) (v : Word) : State :=
  updWarp s w fun x => { x with vr := bmSet x.vr (g * 64 + l) v, bad := x.bad.filter (· != g * 64 + l) }
/-- A uniform register written by an instruction: pending returns of earlier instructions write it no more (R88). -/
def setUreg (s : State) (w n : Nat) (v : Word) : State :=
  updWarp s w fun x => { x with sr := bmSet x.sr n v, uw := tblSet x.uw n s.nextId }
/-- E, the first register of the tiles (R34). -/
def topReg (w : Warp) : Nat := w.nv - 4 * w.nt

/-- The source lane of a pattern for a reading lane; none reads zero (R59). -/
def patLane (pat : BitVec 9) (i : Nat) : Option Nat :=
  let k := (pat.extractLsb' 0 6).toNat
  match (pat.extractLsb' 6 3).toNat with
  | 0 => some i
  | 1 => some ((i + 64 - k) % 64)
  | 2 => some k
  | 3 => some (i ^^^ k)
  | 4 => some (i ^^^ (2 ^ k - 1))
  | 5 => some (4 * (i / 4) + k)
  | 6 => if k ≤ i then some (i - k) else none
  | _ => none

/-- A vector register read through a pattern: the warp-mate's register, zero where no thread stands in the lane (R19). -/
def laneReg (s : State) (m : Member) (pat : BitVec 9) (g : Nat) : Word :=
  if pat.extractLsb' 6 3 = 0#3 then vreg s m.warp m.lane g
  else match patLane pat m.lane with
    | some l => if present s m.warp l then vreg s m.warp l g else 0
    | none => 0

/-! ### The constant path (R39, R106, R215) -/

/-- What a read of the constant bank gives: a fault, bytes, or a denial of its page's tag. -/
inductive ConstRead where
  | fault (order : Nat) (c : Cause)
  | bytes (l : List Byte)
  | denied (tag : Nat)
deriving DecidableEq, Repr

/-- The word of the constant bank at a virtual address as the core's constant path holds it, if it does (R215). -/
def consCopy (s : State) (m : Member) (va : Nat) : Option Word := tblGet? (lcoreOf s (wgOfWarp s m.warp).lcore).cons va

/-- A word of the constant bank as a read finds it: memory's, or, freely, that of the copy which the core's constant path holds (R215, log
13). -/
def consWord (s : State) (m : Member) (key pa va : Nat) : List Byte :=
  match consCopy s m va with
  | some v => if Config.stale s.free (1024 + 2 * va) then leBytes 4 v.toNat else viewBytes s (coreOfL s (wgOfWarp s m.warp).lcore) m.warp key pa 4
  | none => viewBytes s (coreOfL s (wgOfWarp s m.warp).lcore) m.warp key pa 4

/-- n bytes of the constant bank at an offset: checks 4 to 7 of R101, then its words. -/
def constRead (s : State) (m : Member) (off n : Nat) : ConstRead :=
  let w := wgOfWarp s m.warp
  let va := w.cbase + off
  let part := lkPart w.lcore
  if w.k.isSealed then
    if off + n > 4096 then .fault 4 .sealedSet else .bytes (bmList w.consts off n)
  else match translate s part va .load with
    | .error c => .fault 5 c
    | .ok e =>
      if !tagAllows s part (warpOf s m.warp).ident.toNat e.tag then .denied e.tag
      else if poisoned s (physOf e va) n then .fault 7 .memPoison
      else .bytes ((List.range (n / 4)).flatMap fun k => consWord s m e.key (physOf e (va + 4 * k)) (va + 4 * k))

/-- The constant read's traces: translation and clearance caches, the copies of its words, which newer ones replace freely, an audit record
when denied. -/
def constTrace (s : State) (m : Member) (off n : Nat) : State :=
  let w := wgOfWarp s m.warp
  let va := w.cbase + off
  let part := lkPart w.lcore
  let ident := (warpOf s m.warp).ident.toNat
  if w.k.isSealed then s
  else match translate s part va .load with
    | .error _ => s
    | .ok e =>
      let s1 := fillClr (fillTlb s part e) part ident e.tag
      match constRead s m off n with
      | .bytes l =>
        updLcore s1 w.lcore fun c =>
          { c with cons := (List.range (n / 4)).foldl (fun t k =>
              if (tblGet? t (va + 4 * k)).isSome && Config.stale s.free (1025 + 2 * (va + 4 * k)) then t
              else tblSet t (va + 4 * k) (BitVec.ofNat 32 (leNat ((l.drop (4 * k)).take 4)))) c.cons }
      | .denied tag => if (thrOf s m).helper || !isLeader s m.warp then s1 else appendAudit s1 part va ident tag 0 (lkPlace w.lcore)
      | .fault _ _ => s1

/-- The value of constant slot k; a denied or suppressed read gives zero (R15, R39). -/
def constSlot (s : State) (m : Member) (k : Nat) : Word :=
  match constRead s m (4 * k) 4 with
  | .bytes l => BitVec.ofNat 32 (leNat l)
  | _ => 0

/-! ### Sources -/

/-- Word k of a source operand field (R57): a window register through its pattern, a uniform register, a constant slot,
or a literal word. -/
def srcWord (s : State) (m : Member) (pat : BitVec 9) (lits : List Word) (f : BitVec 7) (k : Nat) : Word :=
  let n := f.toNat
  if n = 127 then lits.getD k 0
  else if n < 96 then laneReg s m pat ((thrOf s m).base + n + k)
  else if n < 112 then ureg s m.warp (n - 96 + k)
  else constSlot s m (n - 112 + k)

/-- Words of an operand that is read. -/
def readWidth : Use → Nat
  | .src n => n
  | .upd n => n
  | _ => 0
/-- Words of an operand that is written. -/
def writeWidth : Use → Nat
  | .dst n => n
  | .upd n => n
  | _ => 0

/-- A value of n words, low word first. -/
def joinWords (f : Nat → Word) : Nat → Val
  | 0 => 0
  | 1 => (f 0).setWidth 128
  | 2 => ((f 1) ++ (f 0)).setWidth 128
  | 3 => ((f 2) ++ (f 1) ++ (f 0)).setWidth 128
  | _ => (f 3) ++ (f 2) ++ (f 1) ++ (f 0)

/-- The value of an operand of a member. -/
def slotVal (s : State) (m : Member) (pat : BitVec 9) (lits : List Word) (x : Slot) : Val :=
  joinWords (srcWord s m pat lits x.f) (readWidth x.use)

/-- The source values of an instruction for one member, and the predicates it reads. -/
structure Src where
  a : Val := 0
  b : Val := 0
  d : Val := 0
  t : Thread := {}
  w : Warp := {}
deriving DecidableEq, Repr

/-- Sources of the present instruction for a member. Literal words go to A, then B, then D (R58). -/
def srcOf (s : State) (g : Group) (sh : Shape) (m : Member) : Src :=
  let lits := groupLits g
  let la := slotLits sh.a
  let lb := slotLits sh.b
  { a := slotVal s m g.patA lits sh.a
    b := slotVal s m g.patB (lits.drop la) sh.b
    d := slotVal s m 0 (lits.drop (la + lb)) sh.d
    t := thrOf s m
    w := warpOf s m.warp }

/-! ### Destinations -/

/-- Words of a value written to consecutive window registers of a member's lane. -/
def putVec (s : State) (m : Member) (f : Nat) (v : Val) : Nat → State
  | 0 => s
  | n + 1 => setVreg (putVec s m f v n) m.warp m.lane ((thrOf s m).base + f + n) (v.extractLsb' (32 * n) 32)

/-- Words of a value written to consecutive uniform registers of a warp. -/
def putUni (s : State) (w u : Nat) (v : Val) : Nat → State
  | 0 => s
  | n + 1 => setUreg (putUni s w u v n) w (u + n) (v.extractLsb' (32 * n) 32)

/-- D written for every active member: its own lane of a window register, the warp's uniform register from its lowest
active member that is no helper (R37), nothing for 127 (R57). -/
def writeD (s : State) (x : Slot) (vals : List (Member × Val)) : State :=
  let n := x.f.toNat
  let k := writeWidth x.use
  if n < 96 then vals.foldl (fun s e => putVec s e.1 n e.2 k) s
  else if n < 112 then
    (warpsIn (vals.map (·.1))).foldl (fun s' w =>
      match vals.find? fun e => e.1.warp == w && !(thrOf s e.1).helper with
      | some e => putUni s' w (n - 96) e.2 k
      | none => s') s
  else s

/-! ### Checks of operand registers -/

/-- Why a member fails a run-time check: the place of the check in its table's order, the cause, ADDR, INFO and INFO2, and
further addresses that fault with it. -/
structure Fail where
  order : Nat
  /-- its place within the check of its order, as the table of R316 counts (R101) -/
  sub : Nat := 0
  cause : Cause
  addr : Nat := 0
  info : Nat := 0
  info2 : Nat := 0
  more : List Nat := []
deriving DecidableEq, Repr

/-- A check comes before another in the order of R101, and within one check in the order of R316. -/
def Fail.before (a b : Fail) : Bool := decide (a.order * 8 + a.sub < b.order * 8 + b.sub)

/-- Register numbers of an operand field that lie at or above E (R34): the highest of the operand is checked. -/
def winFail (s : State) (m : Member) (x : Slot) : Option Fail :=
  let n := max (readWidth x.use) (writeWidth x.use)
  let last := (thrOf s m).base + x.f.toNat + n - 1
  if n ≠ 0 ∧ x.f.toNat < 96 ∧ topReg (warpOf s m.warp) ≤ last then
    some { order := 0, cause := .windowRange, info := max ((thrOf s m).base + x.f.toNat) (topReg (warpOf s m.warp)) }
  else none

/-- A constant slot of an operand that faults, checked as an `LDC.b32` of each word (R39). -/
def constFail (s : State) (m : Member) (x : Slot) : Option Fail :=
  let n := readWidth x.use
  if n ≠ 0 ∧ 112 ≤ x.f.toNat ∧ x.f.toNat < 127 then
    (List.range n).findSome? fun k =>
      match constRead s m (4 * (x.f.toNat - 112 + k)) 4 with
      | .fault o c =>
        let va := (wgOfWarp s m.warp).cbase + 4 * (x.f.toNat - 112 + k)
        some { order := o, sub := pageCheck s (partOfWarp s m.warp) va .load, cause := c, addr := va }
      | _ => none
  else none

/-- A vector register that an operand names in its member's lane is poisoned: the instruction that reads it raises MEM_POISON with the
register's number in INFO (R382). R382 gives the check no place among the others: it comes after the windows' (DESIGN CHOICE, log 60). -/
def regFail (s : State) (m : Member) (x : Slot) : Option Fail :=
  let bad := (warpOf s m.warp).bad
  if bad.isEmpty ∨ 96 ≤ x.f.toNat then none
  else
    (((List.range (readWidth x.use)).map fun j => (thrOf s m).base + x.f.toNat + j).find? fun g => bad.contains (g * 64 + m.lane)).map fun g =>
      { order := 0, cause := .memPoison, info := g }

/-- The first of several checks that fails. -/
def firstFail (l : List (Option Fail)) : Option Fail :=
  l.foldl (fun best f => match best, f with
    | none, f => f
    | some b, some x => if x.before b then some x else some b
    | some b, none => some b) none

/-- Checks of the operand fields of an instruction for one member. -/
def operandFail (s : State) (sh : Shape) (m : Member) : Option Fail :=
  match winFail s m sh.a, winFail s m sh.b, winFail s m sh.d with
  | some f, _, _ => some f
  | none, some f, _ => some f
  | none, none, some f => some f
  | none, none, none =>
    firstFail [regFail s m sh.a, regFail s m sh.b, regFail s m sh.d, constFail s m sh.a, constFail s m sh.b, constFail s m sh.d]

/-- Traces of the constant slots that an instruction reads. -/
def constTraces (s : State) (sh : Shape) (ms : List Member) : State :=
  [sh.a, sh.b, sh.d].foldl (fun s x =>
    if readWidth x.use ≠ 0 ∧ 112 ≤ x.f.toNat ∧ x.f.toNat < 127 then
      ms.foldl (fun s m => (List.range (readWidth x.use)).foldl (fun s k => constTrace s m (4 * (x.f.toNat - 112 + k)) 4) s) s
    else s) s

end Sys2Proof.Machine
end

