-- ==== Sys2Proof/Machine/Access.lean ====
section
/-! DEFINITION. Accesses of a thread to global memory and to its scratchpad: the ordered checks (R101), what a load reads
and where a store goes, in plain, replicated (R369 to R371) and deterministic grids (R269 to R271). -/

namespace Sys2Proof.Machine

/-! ### Deterministic ownership (R269) -/

/-- Blocks of a grid, counted (R260). -/
def gridTotal (g : Grid) : Nat := g.gx * g.gy * g.gz

/-- An out region entry of block b covers a byte of the 128-byte line of an address. -/
def blockOwns (g : Grid) (b va : Nat) : Bool :=
  g.regs.any fun e =>
    decide (e.2.2.2.2 = 2 ∨ e.2.2.2.2 = 3) && decide (e.2.2.1 ≠ 0) &&
      overlaps ((e.1 + b * e.2.1) % 2 ^ 64) e.2.2.1 (va / 128 * 128) 128

/-- The one block that a line is private to, if any: no other block's out ranges cover a byte of it. -/
def lineOwner (g : Grid) (va : Nat) : Option Nat :=
  match (List.range (gridTotal g)).filter fun b => blockOwns g b va with
  | [b] => some b
  | _ => none

/-- The access of a deterministic workgroup goes to a line private to another workgroup. -/
def detForeign (s : State) (w va : Nat) : Bool :=
  let g := wgOfWarp s w
  g.k.det && (match lineOwner (gridOf s g.grid) va with | some b => decide (b ≠ g.block) | none => false)

/-- The access of a deterministic workgroup goes to a shared line. -/
def detShared (s : State) (w va : Nat) : Bool :=
  let g := wgOfWarp s w
  g.k.det && (lineOwner (gridOf s g.grid) va).isNone

/-- The latest logged write of a byte (R269). -/
def logByte : List LogEntry → Nat → Option Byte → Option Byte
  | [], _, best => best
  | e :: t, va, best =>
    if e.kind ≠ 1 ∧ e.kind ≠ 2 ∧ e.va ≤ va ∧ va < e.va + 8 ∧ e.mask / 2 ^ (va - e.va) % 2 = 1
    then logByte t va (some (e.data.getD (va - e.va) 0)) else logByte t va best

/-- Entries of a write: one for each aligned 8 bytes it touches (R351). -/
def logEntries (kind opc va : Nat) (data : List Byte) : List LogEntry :=
  let base := va / 8 * 8
  (List.range ((va + data.length + 7) / 8 - va / 8)).map fun k =>
    let a := base + 8 * k
    { va := a, kind := kind, opc := opc,
      mask := ((List.range 8).map fun j => if va ≤ a + j ∧ a + j < va + data.length then 2 ^ j else 0).sum,
      data := (List.range 8).map fun j => if va ≤ a + j then data.getD (a + j - va) 0 else 0 }

/-- LOGSIZE of a part's save header (R351); without a save area nothing is read, and no entry fits (R347). -/
def logSize (s : State) (part : Nat) : Nat :=
  let p := partOf s part
  if p.savebase = 0 then 0 else homeNat s (gpOf p.pkg (p.savebase.toNat / 4096 * 4096 % 2 ^ 51) + 0x40) 4

/-- LOGBASE of a part's save header (R351), in its package. -/
def logBase (s : State) (part : Nat) : Nat :=
  let p := partOf s part
  homeNat s (gpOf p.pkg (p.savebase.toNat / 4096 * 4096 % 2 ^ 51) + 0x38) 8

/-- The 24 bytes of a log entry (R351). -/
def logBytes (e : LogEntry) : List Byte :=
  leBytes 8 e.va ++ leBytes 1 e.mask ++ leBytes 1 e.kind ++ leBytes 1 e.opc ++ leBytes 5 0 ++ (List.range 8).map fun k => e.data.getD k 0

/-- The address of a workgroup's log in the pool, where it has one (R351). -/
def logAt? (s : State) (g : Nat) : Option Nat :=
  let w := wgOf s g
  let part := lkPart w.lcore
  if (partOf s part).savebase = 0 then none
  else w.logIx.map fun ix => gpOf (partOf s part).pkg ((logBase s part + ix * logSize s part) % 2 ^ 51)

/-- Entries appended to a workgroup's log: behind those it holds, and the entry count, in the pool where the log lives (R271, R351). -/
def appendLog (s : State) (g : Nat) (l : List LogEntry) : State :=
  let n := (wgOf s g).log.length
  let s1 := match logAt? s g with
    | some a => putNat (putHome s (a + 16 + 24 * n) 0 (l.flatMap logBytes)) a 8 (n + l.length)
    | none => s
  updWg s1 g fun w => { w with log := w.log ++ l }

/-- The entries fit in the workgroup's log: a log holds 16 bytes and 24 bytes an entry in LOGSIZE (R271, R351). -/
def logRoom (s : State) (w n : Nat) : Bool :=
  let g := wgOfWarp s w
  decide (16 + 24 * (g.log.length + n) ≤ logSize s (lkPart g.lcore))

/-! ### Signatures and held stores (R370, R371) -/

/-- One byte folded into a signature. -/
def crcByte (c : Pair) (b : Byte) : Pair :=
  (List.range 8).foldl (fun c _ => if c.getLsbD 63 then (c <<< 1) ^^^ 0x42F0E1EBA9EA3693#64 else c <<< 1)
    (c ^^^ (b.setWidth 64 <<< 56))

/-- One 24-byte entry folded in ascending offset. -/
def crcEntry (c : Pair) (addr data mask kind op : Nat) : Pair :=
  (leBytes 8 addr ++ leBytes 8 data ++ leBytes 1 mask ++ leBytes 1 kind ++ leBytes 1 op ++ leBytes 5 0).foldl crcByte c

/-- An entry folded for a warp that is replicated. -/
def foldSig (s : State) (w addr data mask kind op : Nat) : State :=
  if isRedun s w then
    updWarp s w fun x => { x with sig := crcEntry x.sig addr data mask kind op, sigN := x.sigN + 1,
                                  holdAt := if x.sigN = 0 then s.clk else x.holdAt }
  else s

/-- A store folded: one entry for each aligned 8 bytes. -/
def foldStore (s : State) (w kind va : Nat) (data : List Byte) : State :=
  (logEntries 0 0 va data).foldl (fun s e => foldSig s w e.va (leNat e.data) e.mask kind 0) s

/-- The latest held store of a byte (R369). -/
def heldByte : List HoldEntry → Nat → Option Byte → Option Byte
  | [], _, best => best
  | e :: t, va, best =>
    if e.va ≤ va ∧ va < e.va + e.data.length then heldByte t va (some (e.data.getD (va - e.va) 0)) else heldByte t va best

/-! ### Checks of R101 -/

/-- INFO of a check that fails with PAGE_FAULT: bit 8 tells a write (R342). -/
def faultInfo (c : Cause) (need : Need) : Nat := if c = .pageFault ∧ need = .store then 256 else 0

/-- Checks 3 to 7 of R101 for one access of a member to global memory, in order. -/
def accessFail (s : State) (m : Member) (va n : Nat) (need : Need) : Option Fail :=
  let part := partOfWarp s m.warp
  if isAperture va then some { order := 23, cause := .access, addr := va }
  else if (khdrOfWarp s m.warp).isSealed then some { order := 24, cause := .sealedSet, addr := va }
  else if takesForward s m ∧ need = .load then none
  else match translate s part va need with
    | .error c => some { order := 25, sub := pageCheck s part va need, cause := c, addr := va, info := faultInfo c need }
    | .ok e =>
      let allowed := tagAllows s part (warpOf s m.warp).ident.toNat e.tag
      if detForeign s m.warp va then some { order := 25, sub := 7, cause := .access, addr := va }
      else if need = .store ∧ !allowed then some { order := 26, cause := .tagDenied, addr := va }
      else if need = .load ∧ allowed ∧ poisoned s (physOf e va) n then some { order := 27, cause := .memPoison, addr := va }
      else none

/-- Checks 1 and 3 to 7 of R101. -/
def globalFail (s : State) (m : Member) (va n : Nat) (need : Need) : Option Fail :=
  if va % n ≠ 0 then some { order := 21, cause := .misaligned, addr := va } else accessFail s m va n need

/-- The page of an access that passed its checks. -/
def pageFor (s : State) (m : Member) (va : Nat) : TlbEntry :=
  match pageOf s (partOfWarp s m.warp) va with
  | .ok e => e
  | .error _ => {}

/-- The read of a member is denied by its page's tag (R102). -/
def tagDenies (s : State) (m : Member) (va : Nat) : Bool :=
  !tagAllows s (partOfWarp s m.warp) (warpOf s m.warp).ident.toNat (pageFor s m va).tag

/-- One byte as a thread's load reads it: held stores of its replica, the log and the grid's start in a deterministic grid,
or what its core sees. -/
def loadByte (s : State) (m : Member) (e : TlbEntry) (va : Nat) (seen : Byte) : Byte :=
  match heldByte (warpOf s m.warp).hold va none with
  | some b => b
  | none =>
    if detShared s m.warp va then
      match logByte (wgOfWarp s m.warp).log va none with
      | some b => b
      | none => bmGet (gridOf s (wgOfWarp s m.warp).grid).mem0 (physOf e va)
    else seen

/-- The place that serves a member's load of n bytes at a scope's point; a page that is not cached leaves no copies (R198). -/
def loadServed (s : State) (m : Member) (e : TlbEntry) (va n scope : Nat) : Served :=
  if e.uncached then .below
  else servedBy s (coreOfWarp s m.warp) m.warp e.key e.tag (physOf e va) n m.lane scope

/-- What a core sees of up to 8 bytes at a scope's point. -/
def seenUnit (s : State) (m : Member) (e : TlbEntry) (va n scope : Nat) : List Byte :=
  if e.uncached then viewBytes s (coreOfWarp s m.warp) m.warp e.key (physOf e va) n
  else loadView s (coreOfWarp s m.warp) m.warp e.key e.tag (physOf e va) n m.lane scope

/-- What a core sees of n bytes: a 16-byte access is two halves (R104). -/
def seenBytes (s : State) (m : Member) (e : TlbEntry) (va n scope : Nat) : List Byte :=
  if n ≤ 8 then seenUnit s m e va n scope else seenUnit s m e va 8 scope ++ seenUnit s m e (va + 8) (n - 8) scope

/-- A helper's load that would fail, and a load that its page's tag denies, read zeros (R15, R102). -/
def readsZeros (s : State) (m : Member) (va n : Nat) : Bool :=
  tagDenies s m va || ((thrOf s m).helper && (globalFail s m va n .load).isSome)

/-- n bytes of a load that passed its checks, at a scope's point. -/
def loadBytes (s : State) (m : Member) (va n : Nat) (scope : Nat := 0) : List Byte :=
  if readsZeros s m va n then List.replicate n 0
  else
    let e := pageFor s m va
    let seen := seenBytes s m e va n scope
    (List.range n).map fun k => loadByte s m e (va + k) (seen.getD k 0)

/-- Traces of an access: translation and clearance caches, and an audit record of a denied read (R102, R318, R323). -/
def accessTrace (s : State) (m : Member) (va : Nat) (need : Need) (kind : Nat) : State :=
  let part := partOfWarp s m.warp
  match translate s part va need with
  | .error _ => s
  | .ok e =>
    let s1 := fillClr (fillTlb s part e) part (warpOf s m.warp).ident.toNat e.tag
    if need = .load ∧ tagDenies s m va ∧ !(thrOf s m).helper ∧ isLeader s m.warp then
      appendAudit s1 part va (warpOf s m.warp).ident.toNat e.tag kind (lkPlace (wgOfWarp s m.warp).lcore)
    else s1

/-! ### On-chip map words reached through a page of a privileged context (R26, R27) -/

/-- The warp in a physical slot of a core. -/
def warpInSlot? (s : State) (core slot : Nat) : Option Nat :=
  (s.warps.find? fun e => coreOfWarp s e.1 == core && e.2.pslot == slot).map (·.1)
/-- The holder that owns a physical accumulator bank, with its logical number. -/
def accHolder? (s : State) (core bank : Nat) : Option (Nat × Nat) :=
  s.wgs.findSome? fun e =>
    if coreOfWg s e.1 = core then (e.2.banks.find? fun b => b.2.phys == bank).map fun b => (e.1, b.1) else none

/-- Physical local-store bank of a logical bank of a holder (R25). -/
def lsPhys (g : Wg) (b : Nat) : Option Nat := tblGet? g.lsMap b

/-- The holder and its byte offset behind a byte of a physical local-store bank: scratchpad, or operand buffer. -/
def lsOwner? (s : State) (core bank : Nat) : Option (Nat × Bool × Nat) :=
  match tblGet? (pcoreAt s core).bank bank with
  | none => none
  | some g =>
    let w := wgOf s g
    let idx (b0 n : Nat) : Option Nat := (List.range n).find? fun k => lsPhys w (b0 + k) == some bank
    match idx w.scrBank w.k.scrbanks with
    | some k => some (g, true, k)
    | none => (idx w.opBank w.k.opbanks).map fun k => (g, false, k)

/-- What stands behind a word of a core's window (R26): a register of a resident warp, a word of a holder's scratchpad or operand buffer,
an element of a held accumulator bank, or storage that nothing resident owns. -/
inductive ChipHome where
  | reg (w lane r : Nat)
  | scratch (g off : Nat)
  | operand (g off : Nat)
  | acc (g bank elem : Nat)
  | free
deriving DecidableEq, Repr

/-- The home of a word of a core's window, by offset (R26). -/
def chipHome (s : State) (core off : Nat) : ChipHome :=
  if off < 0xC00000 then
    match warpInSlot? s core (off / 0x20000) with
    | some w => if off % 0x20000 / 0x100 < (warpOf s w).nv then .reg w (off % 0x100 / 4) (off % 0x20000 / 0x100) else .free
    | none => .free
  else if off < 0xC40000 then
    match lsOwner? s core ((off - 0xC00000) / 0x1000) with
    | some (g, true, k) => .scratch g (k * 4096 + off % 4096)
    | some (g, false, k) => .operand g (k * 4096 + off % 4096)
    | none => .free
  else
    match accHolder? s core ((off - 0xC40000) / 0x2000) with
    | some (g, b) => .acc g b (off % 0x2000 / 4)
    | none => .free

/-- A 32-bit word of the on-chip map by physical place (R26). -/
def chipWord (s : State) (core off : Nat) : Word :=
  match chipHome s core off with
  | .reg w l r => vreg s w l r
  | .scratch g o => BitVec.ofNat 32 (leNat (bmList (wgOf s g).scr o 4))
  | .operand g o => BitVec.ofNat 32 (leNat (bmList (wgOf s g).opb o 4))
  | .acc g b e => bmGet (tblGet (wgOf s g).banks b).data e
  | .free => bmGet (pcoreAt s core).chip (off / 4)

/-- A word of the on-chip map written (R26, R30). -/
def putChipWord (s : State) (core off : Nat) (v : Word) : State :=
  let bytes (o : Nat) : List (Nat × Byte) := (List.range 4).map fun k => (o + k, v.extractLsb' (8 * k) 8)
  match chipHome s core off with
  | .reg w l r => setVreg (readBefore s true w [(2 * (r * 64 + l), bmGet (warpOf s w).vr (r * 64 + l))]) w l r v
  | .scratch g o => updWg s g fun w => { w with scr := bmSetAll w.scr (bytes o) }
  | .operand g o => updWg (readBefore s false g [(2 * (o / 4) + 1, chipWord s core off)]) g fun w => { w with opb := bmSetAll w.opb (bytes o) }
  | .acc g b e => updWg s g fun w => { w with banks := tblUpd w.banks b fun x => { x with data := bmSet x.data e v } }
  | .free => updPcore s core fun p => { p with chip := bmSet p.chip (off / 4) v }

/-- Core and offset of a local address of the on-chip map (R27). -/
def chipPlace (pa : Nat) : Nat × Nat :=
  let o := gpLocal pa - 0x7000000000000
  (pcoreOf (gpPkg pa) (o / 2 ^ 33 % 4) (o / 2 ^ 27 % 64) (o / 2 ^ 24 % 8), o % 2 ^ 24)

/-- Global physical address of a byte of a physical local-store bank of a core (R26, R27). -/
def lsAddr (c bank off : Nat) : Nat :=
  gpOf (pcPkg c) (0x7000000000000 + c / 320 % 4 * 2 ^ 33 + c / 8 % 40 * 2 ^ 27 + c % 8 * 2 ^ 24 + 0xC00000 + bank * 0x1000 + off)

/-- A byte of the on-chip map at its place. -/
def chipByte (s : State) (pa : Nat) : Byte :=
  let (c, o) := chipPlace pa
  (chipWord s c (o / 4 * 4)).extractLsb' (8 * (o % 4)) 8
/-- Bytes written to the on-chip map. -/
def putChipBytes (s : State) (pa : Nat) : List Byte → State
  | [] => s
  | b :: t =>
    let (c, o) := chipPlace pa
    let old := chipWord s c (o / 4 * 4)
    let sh := 8 * (o % 4)
    putChipBytes (putChipWord s c (o / 4 * 4) ((old &&& ~~~(0xFF#32 <<< sh)) ||| (b.setWidth 32 <<< sh))) (pa + 1) t

/-- n bytes of physical memory that the device itself reads for a core, the on-chip map included (R26, R27). -/
def placeBytes (s : State) (core key pa n : Nat) : List Byte :=
  if isOnChip (gpLocal pa) then (List.range n).map fun k => chipByte s (pa + k) else viewBytes s core 0 key pa n
/-- Bytes that the device itself writes at their home, or in the on-chip map. -/
def putPlace (s : State) (pa key : Nat) (data : List Byte) : State :=
  if isOnChip (gpLocal pa) then putChipBytes s pa data else putHome s pa key data

/-! ### Loads and stores -/

/-- A byte of the on-chip map as a warp of a core sees it: the latest store in its own queue, or the place itself (R203). -/
def chipSeen (s : State) (core warp pa : Nat) : Byte :=
  match nearest s.writes core warp pa none with
  | some w => w.data.getD (pa - w.addr) 0
  | none => chipByte s pa

/-- The bytes that a load of a member delivers at a scope's point, the on-chip map included. -/
def readGlobal (s : State) (m : Member) (va n : Nat) (scope : Nat := 0) : List Byte :=
  let e := pageFor s m va
  if isOnChip (gpLocal (physOf e va)) && !readsZeros s m va n then
    (List.range n).map fun k => chipSeen s (coreOfWarp s m.warp) m.warp (physOf e va + k)
  else loadBytes s m va n scope

/-- The bytes of up to 8 that a member's load was served with, in the state in which it was made, become copies. Bytes of an uncached page
do not, nor do bytes of a write on its way, which others of the core or the die may not see yet (R203); older copies of them go (R206). -/
def keepUnit (s0 s : State) (m : Member) (e : TlbEntry) (va n scope : Nat) : State :=
  let core := coreOfWarp s0 m.warp
  if e.uncached || seesWrite s0 core m.warp (physOf e va) n then dropCopiesOf s core (physOf e va) n
  else keepCopies s (loadServed s0 m e va n scope) core (physOf e va) e.key e.tag (seenUnit s0 m e va n scope)

/-- The bytes that a load was served with in the state `s0` become copies of its core and die, on a page of memory (R198, R206). -/
def keepLoad (s0 s : State) (m : Member) (va n : Nat) (scope : Nat := 0) : State :=
  let e := pageFor s0 m va
  if isOnChip (gpLocal (physOf e va)) || readsZeros s0 m va n || (globalFail s0 m va n .load).isSome then s
  else if detShared s0 m.warp va || isRedun s0 m.warp then s
  else if n ≤ 8 then keepUnit s0 s m e va n scope
  else keepUnit s0 (keepUnit s0 s m e va 8 scope) m e (va + 8) (n - 8) scope

/-- A store of a member that passed its checks (R103): folded and held under redundancy, logged on a shared line of a
deterministic grid, otherwise entered in its warp's store queue. A helper's store has no effect (R15). `ins` is the identifier
that the stores of its instruction share. -/
def storeGlobal (s : State) (m : Member) (va : Nat) (data : List Byte) (ins : Nat := 0) : State :=
  let e := pageFor s m va
  let pa := physOf e va
  let w := warpOf s m.warp
  if (thrOf s m).helper then s
  else if isRedun s m.warp then
    updWarp (foldStore s m.warp 0 va data) m.warp fun x =>
      { x with hold := x.hold ++ [{ va := va, addr := pa, key := e.key, uncached := e.uncached, data := data }] }
  else if detShared s m.warp va then
    appendLog s w.wg (logEntries 0 0 va data)
  else pushWrite s { ctx := w.ctx, warp := m.warp, pcore := coreOfWarp s m.warp, part := partOfWarp s m.warp, lane := m.lane,
                     level := 0, addr := pa, data := data, key := e.key, uncached := e.uncached, ins := ins }

/-- Address of a scratchpad byte of a warp in the on-chip map (R27, R105). -/
def scrAddr (s : State) (w off : Nat) : Nat :=
  let g := wgOfWarp s w
  lsAddr (coreOfWarp s w) ((lsPhys g (g.scrBank + off / 4096)).getD 0) (off % 4096)
/-- Bytes of the own scratchpad as a warp sees them: its own queued stores over the banks (R104, R105, R203). -/
def readScr (s : State) (w off n : Nat) : List Byte :=
  (List.range n).map fun k =>
    match nearest s.writes (coreOfWarp s w) w (scrAddr s w (off + k)) none with
    | some x => x.data.getD (scrAddr s w (off + k) - x.addr) 0
    | none => bmGet (wgOfWarp s w).scr (off + k)
/-- Scratchpad bytes of a holder written at their banks. -/
def putScr (s : State) (g off : Nat) (data : List Byte) : State :=
  updWg s g fun h => { h with scr := bmSetAll h.scr ((List.range data.length).map fun k => (off + k, data.getD k 0)) }
/-- A scratchpad store (R103): it enters its warp's store queue, as every store of the core does (R203); in a redundant warp it is folded
and takes effect at once in the replica's own scratchpad (R371). -/
def storeScr (s : State) (m : Member) (off : Nat) (data : List Byte) (ins : Nat := 0) : State :=
  let w := warpOf s m.warp
  if (thrOf s m).helper then s
  else if isRedun s m.warp then putScr (foldStore s m.warp 1 off data) w.wg off data
  else pushWrite s { ctx := w.ctx, warp := m.warp, pcore := coreOfWarp s m.warp, part := partOfWarp s m.warp, lane := m.lane,
                     level := 0, addr := scrAddr s m.warp off, data := data, ins := ins, scr := true }
/-- A scratchpad store of a warp waits in its queue. -/
def scrQueued (s : State) (w : Nat) : Bool := s.writes.any fun e => e.2.scr && e.2.warp == w

/-- An earlier full/empty acquire of the thread is pending: its later accesses are held (R283). -/
def acqHeld (s : State) (m : Member) : Bool :=
  s.loads.any fun e => e.2.warp == m.warp && e.2.acq.contains m.lane

/-- The number under which a member's fill of a line arrived: fixed when it began to wait (R210). -/
def fillMark (s : State) (m : Member) (line : Nat) : Nat :=
  match (thrOf s m).wait with
  | .fill l k => if l = line then k else s.nextId
  | _ => s.nextId

/-- Some byte of a read comes from its home: no write that the warp sees covers it. -/
def readsHome (s : State) (core warp a n : Nat) : Bool := (List.range n).any fun k => (nearest s.writes core warp (a + k) none).isNone

/-- The wait of a load that needs a fill of a line at its home, where a compare-and-swap has locked the line or an access that waited
there before comes first; copies that are held may still be read (R210). -/
def fillWait (s : State) (m : Member) (va n scope : Nat) : Option Wait :=
  match pageOf s (partOfWarp s m.warp) va with
  | .error _ => none
  | .ok e =>
    let pa := physOf e va
    if s.mcas.isEmpty && !turnBefore s (fillMark s m (pa / 128)) pa n then none
    else if readsHome s (coreOfWarp s m.warp) m.warp pa n && decide (loadServed s m e va n scope = .below) &&
        !homeTakes s (some (fillMark s m (pa / 128))) pa n then some (.fill (pa / 128) (fillMark s m (pa / 128)))
    else none

/-- An atomic of the thread to some bytes is not performed yet: its later load of them waits (R104, R206). -/
def atomHeld (s : State) (m : Member) (pa n : Nat) : Bool :=
  s.atoms.any fun e => e.2.posted.isNone && e.2.warp == m.warp && e.2.lane == m.lane && overlaps e.2.addr e.2.size pa n

/-- Pages of a stream that are translated ahead of the unit being delivered: at most 64, and those that fault leave nothing (R319). -/
def fillAhead (s : State) (part stream : Nat) (vas : List Nat) : State :=
  let pages := ((vas.filter fun va => !isAperture va).map fun va => va / 4096).eraseDups.take (Config.walk s.free stream % 65)
  pages.foldl (fun s p => match pageOf s part (p * 4096) with
    | .ok e => fillTlb s part e
    | .error _ => s) s

end Sys2Proof.Machine
end

