-- ==== Sys2Proof/Machine/Image.lean ====
section
/-! DEFINITION. The records of a save area (R47, R345 to R349): where their parts lie, and what lands in the image of a warp,
a holder or an event queue that is saved (R32). -/

namespace Sys2Proof.Machine

/-! ### Layout -/

/-- A size rounded up to 64 bytes (R348). -/
def align64 (n : Nat) : Nat := (n + 63) / 64 * 64

/-- A warp record with its extension (R47, R346). -/
def warpSize (v : Nat) : Nat := 0x800 + 256 * v + 0x200

/-- Parts of a holder's record (R349): scratchpad, full/empty bits, operand buffer, banks, warps. -/
def wgScrOff : Nat := 0x1140
def wgFullOff (k : Khdr) : Nat := wgScrOff + align64 k.scratch
def wgOpOff (k : Khdr) : Nat := wgFullOff k + align64 ((k.scratch + 31) / 32)
def wgBankOff (k : Khdr) (i : Nat) : Nat := wgOpOff k + k.opbanks * 4096 + i * 8704
def wgWarpOff (k : Khdr) (v banks i : Nat) : Nat := wgBankOff k banks + i * warpSize v

/-- Vector registers of a holder's warps. -/
def wgV (g : Wg) : Nat := g.k.v

/-- The whole record of a holder with some banks and warps. -/
def wgSize (g : Wg) (banks warps : Nat) : Nat := wgWarpOff g.k (wgV g) banks warps

/-- A core record with some holders (R349). -/
def coreSize (n : Nat) : Nat := align64 (0x1040 + 8 * n)

/-! ### What lands in an image (R32) -/

/-- A warp is saved and not resident. -/
def isSaved (s : State) (w : Nat) : Bool := (tblGet? s.savedWarps w).isSome

def savedWarp (s : State) (w : Nat) : Warp := tblGet s.savedWarps w

/-- A pending register write lands in the image of its warp, unless its thread had ended. -/
def imageReg (s : State) (w : Nat) (r : RegWrite) : State :=
  let x := savedWarp s w
  if r.reg ≥ 512 then putNat s (x.image + 0x400 + 4 * (r.reg - 512)) 4 r.val.toNat
  else if (tblGet? x.lanes r.lane).isSome then putNat s (x.image + 0x800 + r.lane * 4 * x.nv + 4 * r.reg) 4 r.val.toNat
  else s

/-- The count of a flag falls in the image. -/
def imageFlag (s : State) (w f : Nat) : State :=
  if f < 12 then
    let a := (savedWarp s w).image + 0x380 + 0x48 + f
    putNat s a 1 (homeNat s a 1 - 1)
  else s

/-- PENDING of the image falls: one return is written. -/
def imageReturned (s : State) (w : Nat) : State :=
  if isSaved s w then
    let a := (savedWarp s w).image + 0x380 + 0x44
    putNat s a 2 (homeNat s a 2 - 1)
  else s

/-- The 16 bytes of an event record (R295). -/
def eventBytes (r : EvRec) : List Byte :=
  leBytes 1 r.kind ++ leBytes 1 r.cause ++ leBytes 1 r.ctr ++ leBytes 1 0 ++ leBytes 4 r.source ++ leBytes 8 r.value

/-- A record enters the saved event queue of a logical core, or is held (R262, R297). -/
def imageEvent (s : State) (lk : Nat) (r : EvRec) : State :=
  let a := (lcoreOf s lk).image
  let n := homeNat s (a + 4) 4
  if n < 256 ∧ (lcoreOf s lk).evHeld = [] then putNat (putHome s (a + 0x40 + 16 * n) 0 (eventBytes r)) (a + 4) 4 (n + 1)
  else updLcore s lk fun c => { c with evHeld := c.evHeld ++ [r] }

/-- Records in the event queue of a logical core, saved or resident. -/
def eventCount (s : State) (lk : Nat) : Nat :=
  if (lcoreOf s lk).image ≠ 0 then homeNat s ((lcoreOf s lk).image + 4) 4 else (lcoreOf s lk).ev.length

end Sys2Proof.Machine
end

