-- ==== Sys2Proof/Machine/Life.lean ====
section
/-! DEFINITION. The life of threads, warps and workgroups: barrier phases (R287), the end of a thread (R15, R96), the
retirement of a workgroup with its out ranges (R96, R197), the release of its banks (R41, R180, R196) and the freeing of
warp slots (R12, R96). -/

namespace Sys2Proof.Machine

/-! ### Barriers -/

/-- Threads of a workgroup that are present and no helpers, as linear numbers (R14). -/
def liveThreads (s : State) (g : Nat) : List Nat :=
  (wgOf s g).warps.flatMap fun w =>
    (warpOf s w).lanes.filterMap fun e => if e.2.helper then none else some ((warpOf s w).idx * 64 + e.1)

/-- The number of a thread in its workgroup. -/
def threadNo (s : State) (m : Member) : Nat := (warpOf s m.warp).idx * 64 + m.lane

/-- The open phase of a barrier is complete (R287). -/
def phaseDone (s : State) (g : Nat) (b : Barrier) : Bool :=
  if b.expect > 0 then decide (b.expect ≤ b.count)
  else !b.arrived.isEmpty && (liveThreads s g).all fun t => b.arrived.contains t

/-- The next phase of a barrier. -/
def nextPhase (b : Barrier) : Barrier := { b with count := 0, phase := (b.phase + 1) % 2 ^ 64, arrived := [] }

/-- Barrier k tested, and its phase completed when it is due. -/
def testBarrier (s : State) (g k : Nat) : State :=
  let b := tblGet (wgOf s g).bars k
  if phaseDone s g b then updWg s g fun w => { w with bars := tblSet w.bars k (nextPhase b) } else s

/-- Whole-workgroup barriers tested when a thread ends (R287). -/
def testBarriers (s : State) (g : Nat) : State :=
  (wgOf s g).bars.foldl (fun s e => if e.2.expect = 0 then testBarrier s g e.1 else s) s

/-! ### Storage of a holder -/

/-- The banks, roles' owners and accumulator banks of a holder are freed; every word of them reads zero to a later owner
(R41, R196). -/
def releaseStorage (s : State) (g : Nat) : State :=
  let c := coreOfWg s g
  let lost := (pcoreAt s c).bank.filter fun e => e.2 == g
  let s0 : State := if s.poison.isEmpty then s else
    { s with poison := s.poison.filter fun k => !(lost.any fun e => overlaps (lsAddr c e.1 0) 4096 (k * 32) 32) }
  let s1 := updPcore s0 c fun p => { p with bank := p.bank.filter fun e => e.2 != g, acc := p.acc.filter fun e => e.2 != g }
  updWg s1 g fun w => { w with scr := [], full := [], opb := [], banks := [], rset := [], lsMap := [] }

/-- The warps pending longest enter the active set while it has room (R263). -/
def fillActive : Nat → Quarter → Quarter
  | 0, q => q
  | n + 1, q =>
    match q.pend with
    | x :: t => if q.active.length < 8 then fillActive n { q with active := q.active ++ [x], since := q.since ++ [x], pend := t } else q
    | [] => q

/-- A warp leaves its quarter's sets. -/
def dropFromQuarter (s : State) (w : Nat) : State :=
  updPcore s (coreOfWarp s w) fun p =>
    { p with qs := tblMap p.qs fun _ q =>
        fillActive 8 { q with active := q.active.filter (· != w), since := q.since.filter (· != w), pend := q.pend.filter (· != w) } }

/-- A matrix operation of a holder, or a store of one of its warps to its scratchpad, is still in progress. -/
def holderBusy (s : State) (g : Nat) : Bool :=
  (s.mats.any fun e => e.2.wg == g || (e.2.kind == 0 && e.2.hold == g)) || (wgOf s g).warps.any fun w => scrQueued s w

/-- A warp whose threads have ended frees its slot when its long-latency operations are complete (R96). -/
def freeWarp (s : State) (w : Nat) : State :=
  if (tblGet? s.warps w).isSome && (warpOf s w).lanes.isEmpty && !(s.loads.any fun e => e.2.warp == w) &&
      !(s.mats.any fun e => e.2.warp == w) && !scrQueued s w && (warpOf s w).hold.isEmpty then
    let s1 := dropFromQuarter s w
    { updWg s1 (warpOf s w).wg (fun g => { g with warps := g.warps.filter (· != w) }) with warps := tblDel s.warps w }
  else s

/-- Every warp of a holder that may free its slot does; a holder without warps whose log is applied disappears. -/
def reapWg (s : State) (g : Nat) : State :=
  let s1 := (wgOf s g).warps.foldl freeWarp s
  let w := wgOf s1 g
  if w.done && w.warps.isEmpty && !(w.k.det && w.logIx.isSome) && !holderBusy s1 g then { s1 with wgs := tblDel s1.wgs g } else s1

/-- Why the store of a word of an out range fails: as a store of the workgroup under the identity that it was placed with (R101, R197,
R269, R271). -/
def outFail (s : State) (g va : Nat) : Option Cause :=
  let w := wgOf s g
  let part := lkPart w.lcore
  if isAperture va then some .access
  else match translate s part va .store with
    | .error c => some c
    | .ok e =>
      if w.k.det && (match lineOwner (gridOf s w.grid) va with | some b => decide (b ≠ w.block) | none => false) then some .access
      else if !tagAllows s part w.ident.toNat e.tag then some .tagDenied
      else if w.k.det && (lineOwner (gridOf s w.grid) va).isNone && decide (logSize s part < 16 + 24 * (w.log.length + 1)) then some .bounds
      else none

/-- One word of an out range stored: in memory, or in the log on a shared line of a deterministic grid. -/
def outWord (s : State) (g va : Nat) (data : List Byte) : State :=
  let w := wgOf s g
  let part := lkPart w.lcore
  match translate s part va .store with
  | .error _ => s
  | .ok e =>
    let s1 := fillClr (fillTlb s part e) part w.ident.toNat e.tag
    if w.k.det && (lineOwner (gridOf s w.grid) va).isNone then appendLog s1 g (logEntries 0 0 va data)
    else if isOnChip (gpLocal (physOf e va)) then putChipBytes s1 (physOf e va) data
    else pushWrite s1
      { ctx := w.ctx, warp := 0, pcore := coreOfL s w.lcore, part := part, level := 1, addr := physOf e va, data := data,
        key := e.key, uncached := e.uncached }

/-- The record of a word of an out range that could not be stored (log 25). -/
def outRecord (s : State) (g : Nat) (c : Cause) (va : Nat) : FaultRec :=
  let w := wgOf s g
  { cause := causeCode c, src := 0, place := lkPlace w.lcore, addr := if c = .pageFault then va / 4096 * 4096 else va,
    info := if c = .pageFault then 257 else 0, grid := w.grid }

/-- The words of the out ranges of a workgroup, each with the bytes of its scratchpad. -/
def outWords (w : Wg) : List (Nat × List Byte) :=
  (w.regions.filter fun r => decide (r.dir = 2 ∨ r.dir = 3)).flatMap fun r =>
    (List.range (r.size / 4)).map fun k => ((r.va + 4 * k) % 2 ^ 64, bmList w.scr (r.soff + 4 * k) 4)

/-- The out ranges of a workgroup written from its scratchpad (R197). A word whose store fails stays unwritten; the first one is
reported by a record (log 25). -/
def writeOut (s : State) (g : Nat) : State :=
  let r := (outWords (wgOf s g)).foldl (fun (r : State × Option (Cause × Nat)) e =>
    match outFail r.1 g e.1 with
    | none => (outWord r.1 g e.1 e.2, r.2)
    | some c => (r.1, r.2.orElse fun _ => some (c, e.1))) (s, none)
  match r.2 with
  | some (c, va) => appendFault r.1 (lkPart (wgOf s g).lcore) (outRecord s g c va)
  | none => r.1

/-- A replica that does not lead its set is not counted. -/
def countsForGrid (s : State) (g : Nat) : Bool := (wgOf s g).leader == 0 || (wgOf s g).leader == g

/-- The last non-helper thread of a holder has ended (R96): out ranges are written, storage is released, the workgroup
counts as retired, or as discarded under a discarding cancel; a sequencer instance ends (R261). -/
def retireWg (s : State) (g : Nat) : State :=
  let w := wgOf s g
  if w.done || !(liveThreads s g).isEmpty || !(w.warps.all fun x => (warpOf s x).lanes.all fun e => e.2.helper) || holderBusy s g then s
  else
    let s1 := if w.seqi || w.discard || !countsForGrid s g then s else writeOut s g
    let s2 := releaseStorage (updWg s1 g fun w => { w with done := true }) g
    let s3 :=
      if w.seqi then updGrid s2 w.grid fun r => { r with seqs := r.seqs.filter (· != g) }
      else if !countsForGrid s g then s2
      else updGrid s2 w.grid fun r => if w.discard then { r with discarded := r.discarded + 1, cut := true, mark := s2.nextId } else { r with retired := r.retired + 1, mark := s2.nextId }
    reapWg s3 g

/-- A long-latency operation or a store of a warp has come to its end: its holder retires, and its warps free their slots, where nothing
else of theirs is left (R96). -/
def settleHolder (s : State) (g : Nat) : State := if (tblGet? s.wgs g).isNone then s else reapWg (retireWg s g) g
def settleWarp (s : State) (w : Nat) : State := if (tblGet? s.warps w).isNone then s else settleHolder s (warpOf s w).wg

/-- Quads left with helper threads only lose them (R15). -/
def dropHelpers (w : Warp) : Warp :=
  { w with lanes := w.lanes.filter fun e => !e.2.helper || w.lanes.any fun f => f.1 / 4 == e.1 / 4 && !f.2.helper }

/-- A thread ends: its lane is empty, helpers of a finished quad end with it, barriers are tested, and the workgroup
retires with its last thread (R15, R96, R287). -/
def endThread (s : State) (m : Member) : State :=
  let g := (warpOf s m.warp).wg
  let s1 := updWarp s m.warp fun w => dropHelpers { w with lanes := tblDel w.lanes m.lane }
  reapWg (retireWg (testBarriers s1 g) g) g

end Sys2Proof.Machine
end

