-- ==== Sys2Proof/Machine/Ready.lean ====
section
/-! DEFINITION. Which threads may start a clause (R17, R20, R54, R98, R263): the code line and the clause at a place (R51, R52, R216,
R317), its interlocks and flags (R53, R346), and the exchange of warps between a quarter's sets (R263 to R265). -/

namespace Sys2Proof.Machine

/-! ### Code lines and clause headers -/

/-- The fields of a clause header (R52). -/
def hdrWait (h : Word) : Nat := (h.extractLsb' 20 12).toNat
def hdrSetA (h : Word) : Nat := (h.extractLsb' 16 4).toNat
def hdrSetB (h : Word) : Nat := (h.extractLsb' 12 4).toNat
def hdrLen (h : Word) : Nat := (h.extractLsb' 9 3).toNat
def hdrStop (h : Word) : Bool := h.getLsbD 8
def hdrLive (h : Word) : Nat := (h.extractLsb' 0 7).toNat

/-- Words of a list of bytes (R51). -/
def wordsOf : Nat → List Byte → List Word
  | 0, _ => []
  | n + 1, l => BitVec.ofNat 32 (leNat (l.take 4)) :: wordsOf n (l.drop 4)

/-- The words of a code line that a core has a copy of: each one, freely, the copy's or memory's (R216, log 13). -/
def mixedLine (s : State) (base : Nat) (old new : List Word) : List Word :=
  (List.range 16).map fun k => if Config.stale s.free (1024 + 2 * (base + 4 * k)) then old.getD k 0 else new.getD k 0

/-- The code line of an address as a core fetches it through the page tables: its copy and memory (R216, R317). A poisoned line in memory
traps a fetch that no copy serves whole. -/
def fetchLine (s : State) (w : Nat) (va : Nat) : Except Cause (List Word) :=
  let base := va / 64 * 64
  let g := wgOfWarp s w
  let part := lkPart g.lcore
  match translate s part base .fetch with
  | .error c => .error c
  | .ok e =>
    let new := wordsOf 16 (viewBytes s (coreOfL s g.lcore) w e.key (physOf e base) 64)
    match tblGet? (lcoreOf s g.lcore).code base with
    | some l =>
      if !poisoned s (physOf e base) 64 then .ok (mixedLine s base l.words new)
      else if Config.stale s.free (1024 + 2 * base) then .ok l.words
      else .error .memPoison
    | none => if poisoned s (physOf e base) 64 then .error .memPoison else .ok new

/-- The patterns a prefix word gives, where the word is a prefix. -/
def prefixOf (w : Word) : Option (BitVec 9 × BitVec 9) :=
  if w.extractLsb' 26 6 = 0x3F#6 then some (w.extractLsb' 17 9, w.extractLsb' 8 9) else none

/-! ### The clause at a place -/

/-- A clause: its word in its line, its header and its body words. -/
structure Clause where
  at_ : Nat := 0
  hdr : Word := 0
  body : List Word := []
deriving DecidableEq, Repr

/-- A clause taken from its code line; body words past the line's end are not there. -/
def clauseOf (ws : List Word) (va : Nat) : Clause :=
  let k := va % 64 / 4
  let h := ws.getD k 0
  { at_ := k, hdr := h, body := (ws.drop (k + 1)).take (hdrLen h + 1) }

/-- The clause at a PC, or why its fetch fails. -/
def clauseAt (s : State) (w : Nat) (pc : Pair) : Except Cause Clause :=
  match fetchLine s w pc.toNat with
  | .error c => .error c
  | .ok ws => .ok (clauseOf ws pc.toNat)

/-- A group that would run a clause from a restart position (R342). -/
def groupAt (c : Clause) (pc : Pair) (pos : Nat) : Group :=
  let g : Group := { pc := pc, hdr := c.hdr, body := c.body, pos := pos - 1 }
  match (if 2 ≤ pos then prefixOf (c.body.getD (pos - 2) 0) else none) with
  | some (a, b) => { g with patA := a, patB := b }
  | none => g

/-- The instructions of a clause from a group's position on, each with its body index. -/
def restOf (g : Group) : List (Nat × Instr) :=
  ((List.range (groupInstrs g)).filter fun j => decide (g.pos ≤ j)).filterMap fun j => (cell (g.body.getD j 0)).map fun e => (j, e.1)

/-! ### Interlocks and flags (R53, R54, R346) -/

/-- Allocation registers, and uniform registers from 512 on, that an operand field names under a window base. -/
def slotRegs (base : Nat) (x : Slot) : List Nat :=
  let n := x.f.toNat
  let k := max (readWidth x.use) (writeWidth x.use)
  if n < 96 then (List.range k).map fun j => base + n + j
  else if n < 112 then (List.range k).map fun j => 512 + (n - 96) + j
  else []

/-- Registers that an instruction reads or writes. -/
def instrRegs (base : Nat) (i : Instr) : List Nat :=
  let sh := shapeOf i
  let pick (f : BitVec 7) : List Nat := if f.getLsbD 6 then [512 + (f.extractLsb' 0 4).toNat] else []
  let sel := match i with
    | .smovToUniform _ d _ => [512 + d.toNat]
    | .smovFromUniform _ _ a => [512 + a.toNat]
    | .ldrB32Uniform _ _ _ n | .strB32Uniform _ _ _ n => [512 + n.toNat]
    | .idx2 _ _ _ b | .tld _ _ _ b | .tst _ _ _ b => pick b
    | .mmaBf16 _ d _ _ | .mmaF16 _ d _ _ | .mmaNf _ d _ _ | .mmaspBf16 _ d _ _ | .mmaspF16 _ d _ _ | .mmaspNf _ d _ _ =>
      if d = 127#7 then [] else pick d
    | _ => []
  slotRegs base sh.d ++ slotRegs base sh.a ++ slotRegs base sh.b ++ sel

/-- Registers of a lane, and uniform registers of its warp, with a pending write of a long-latency operation. -/
def pendingRegs (s : State) (m : Member) : List Nat :=
  let mine (reg lane : Nat) : Bool := decide (512 ≤ reg) || lane == m.lane
  ((s.loads.filter fun e => e.2.warp == m.warp).flatMap fun e =>
    (e.2.writes.filter fun r => mine r.reg r.lane).map fun r => r.reg) ++
  ((s.atoms.filter fun e => e.2.warp == m.warp && mine e.2.reg e.2.lane && e.2.ret.isSome).flatMap fun e =>
    if e.2.size = 4 then [e.2.reg] else [e.2.reg, e.2.reg + 1]) ++
  ((s.mcas.filter fun e => e.2.warp == m.warp && mine e.2.reg e.2.lane).map fun e => e.2.reg)

/-- A thread's clause meets no pending write (R54). -/
def interlockFree (s : State) (m : Member) (g : Group) : Bool :=
  let t := thrOf s m
  let base := if t.pos = 0 then (warpOf s m.warp).wbase else t.base
  let pend := pendingRegs s m
  pend.isEmpty || (restOf g).all fun e => (instrRegs base e.2).all fun r => !pend.contains r

/-- Flags that the rest of a clause raises, one for each long-latency operation. -/
def raised (g : Group) : List Nat := (restOf g).filterMap fun e => if (shapeOf e.2).long then some (groupFlag { g with pos := e.1 }) else none

/-- The outstanding matrix operations of a warp, the older first. -/
def matsOfWarp (s : State) (w : Nat) : List (Nat × MatOp) := s.mats.filter fun e => e.2.warp == w && decide (e.2.kind = 0)

/-- The flags of a warp let a clause start: its WAIT flags are clear, no count overflows, and no third `MMA` is outstanding. -/
def flagsFree (s : State) (w : Nat) (g : Group) (entry : Bool) : Bool :=
  let x := warpOf s w
  let up := raised g
  let mmas := ((restOf g).filter fun e => match e.2 with
    | .mmaBf16 .. => true | .mmaF16 .. => true | .mmaNf .. => true
    | .mmaspBf16 .. => true | .mmaspF16 .. => true | .mmaspNf .. => true
    | _ => false).length
  (List.range 12).all (fun f =>
    !(entry && decide (hdrWait g.hdr / 2 ^ f % 2 = 1) && decide (bmGet x.fcount f ≠ 0)) &&
    decide ((bmGet x.fcount f).toNat + (up.filter (· == f)).length ≤ 63)) &&
  (decide (mmas = 0) || decide ((matsOfWarp s w).length + mmas ≤ 2))

/-! ### Ready threads (R263) -/

/-- The sequencer instance that comes first of a workgroup has not issued its first instruction (R261). -/
def seqFirst (s : State) (g : Wg) : Bool :=
  !g.seqi && g.k.seqentry != 0 && s.wgs.any fun e =>
    e.2.seqi && e.2.fresh && e.2.grid == g.grid && e.2.lcore == g.lcore && e.2.replica == g.replica

/-- A thread may issue as far as its warp and its own wait go. A trapped warp issues only what its trap's stop still lets go on (R338). -/
def threadMay (s : State) (m : Member) : Bool :=
  let x := warpOf s m.warp
  let t := thrOf s m
  let part := partOfWarp s m.warp
  (!x.trapped || x.trapAt.isSome) && x.ahead.isNone && !x.halted && !x.stopNow && !t.stopped && !(wgOfWarp s m.warp).held && !x.atCmp &&
  !((partOf s part).frozen || (partOf s part).saved) && (decide (t.wait = .none) || t.ready) && !seqFirst s (wgOfWarp s m.warp)

/-- The members of a group that was deferred as one, over all the warps of its workgroup (R284). -/
def oneMember (s : State) (m : Member) : List Member :=
  let gid := (thrOf s m).gid
  if gid = 0 then [m]
  else (sortNat (wgOfWarp s m.warp).warps).flatMap fun w =>
    ((warpOf s w).lanes.filter fun e => e.2.gid == gid).map fun e => ⟨e.1, w⟩

/-- Every present thread of a warp stands at a place, may issue, and meets no pending write (R98). -/
def warpAt (s : State) (w : Nat) (pc : Pair) (pos : Nat) (g : Group) : Bool :=
  (warpOf s w).lanes.all fun e => e.2.pc == pc && e.2.pos == pos && threadMay s ⟨e.1, w⟩ && interlockFree s ⟨e.1, w⟩ g

/-- The rest of a clause holds `CONV` at its entry. -/
def holdsConv (g : Group) (pos : Nat) : Bool := decide (pos = 0) && (restOf g).any fun e => decide (e.2 = .convW)

/-- The rest of a clause reads another lane, by its own operands or by those of the prefix before it, or executes once per group (R20). -/
def holdsCross (g : Group) : Bool :=
  decide (g.patA ≠ 0) || decide (g.patB ≠ 0) || (restOf g).any fun e => (shapeOf e.2).cross || (shapeOf e.2).once || (match e.2 with | .permutationPrefix .. => true | _ => false)

/-- The kernel runs under R20. -/
def singleWarp (s : State) (w : Nat) : Bool := isRedun s w || isDet s w

/-- A warp issues the clause whole. -/
def needsWhole (s : State) (w : Nat) (g : Group) (pos : Nat) : Bool := holdsConv g pos || (singleWarp s w && holdsCross g)

/-- A thread of several replicas that nears its stop holds at a STOP-marked clause while the window lasts (R343, R376). -/
def holdsAtStop (s : State) (m : Member) (g : Group) : Bool :=
  let x := warpOf s m.warp
  match x.stopAt with
  | some t => isRedun s m.warp && hdrStop g.hdr && decide ((thrOf s m).pos = 0) &&
      decide (s.clk < t + 3 * min (khdrOfWarp s m.warp).stopwin 768)
  | none => false

/-- The replicas of a warp keep their threads together alike: where threads of one stand at a place and wait for nothing else, they start
the clause once no interlock holds any of them. -/
def interlocksFree (s : State) (m : Member) (g : Group) : Bool :=
  if isRedun s m.warp then
    (warpOf s m.warp).lanes.all fun e => !(e.2.pc == (thrOf s m).pc && e.2.pos == (thrOf s m).pos && threadMay s ⟨e.1, m.warp⟩) ||
      interlockFree s ⟨e.1, m.warp⟩ g
  else interlockFree s m g

/-- A thread is ready (R263): its next clause may start, or its fetch fails and is to be reported. -/
def threadReady (s : State) (m : Member) : Bool :=
  threadMay s m &&
  (let t := thrOf s m
   match clauseAt s m.warp t.pc with
   | .error _ => true
   | .ok c =>
     let g := groupAt c t.pc t.pos
     interlocksFree s m g && flagsFree s m.warp g (decide (t.pos = 0)) && !holdsAtStop s m g &&
     (!needsWhole s m.warp g t.pos || warpAt s m.warp t.pc t.pos g) &&
    (oneMember s m).all fun n => threadMay s n && interlockFree s n g && flagsFree s n.warp g (decide (t.pos = 0)))

/-- Ready threads of a warp. -/
def readyLanes (s : State) (w : Nat) : List Member := ((warpOf s w).lanes.map fun e => (⟨e.1, w⟩ : Member)).filter fun m => threadReady s m
def warpReady (s : State) (w : Nat) : Bool := !(readyLanes s w).isEmpty

/-! ### The quarter's sets (R263) -/

/-- An active warp and a pending one change places: the one takes the position of the other, which enters the pending set as its youngest. -/
def swapWarps (q : Quarter) (a p : Nat) : Quarter :=
  { q with active := q.active.map (fun w => if w = a then p else w), since := q.since.filter (· != a) ++ [p]
           pend := q.pend.filter (· != p) ++ [a] }

/-- The ready warp that has been pending longest. -/
def readyPending (s : State) (q : Quarter) : Option Nat := q.pend.find? fun w => warpReady s w

/-- A yielding warp that is active changes places with the ready pending warp that has been pending longest, when there is one (R265). -/
def yieldWarp (s : State) (w : Nat) : State :=
  updPcore s (coreOfWarp s w) fun p =>
    { p with qs := tblMap p.qs fun _ q =>
        match readyPending s q with
        | some x => if q.active.contains w then swapWarps q w x else q
        | none => q }

end Sys2Proof.Machine
end

