-- ==== Sys2Proof/Machine/Ops.lean ====
section
/-! DEFINITION. The shared operations of the meanings: the group that runs an instruction, the end of an instruction and
of a clause (R61), taking a trap (R338) and the return from one (R356), deferral (R283), long-latency operations (R53),
and the combinators for register, cross-lane, memory and once-per-group instructions. -/

namespace Sys2Proof.Machine

/-- The answer of a meaning. -/
abbrev Out := Host.Outcome State Fault Refusal

/-! ### Standing, and the end of a clause -/

/-- A thread stands at a position of a clause; a new PC gives it a new PC-age (R264). -/
def standAt (s : State) (m : Member) (pc : Pair) (pos : Nat) : State :=
  updThr { s with nextId := s.nextId + 1 } m fun t =>
    { t with pc := pc, pos := pos, base := if pos = 0 then 0 else t.base, age := if pos = 0 then s.nextId else t.age,
             wait := .none, ready := false, gid := 0 }

/-- The member's successor at the clause end: it ends, or stands at its target or the next clause (R61). -/
def toSuccessor (s : State) (g : Group) (m : Member) : State :=
  if g.ended.contains m.lane then endThread s m
  else standAt s m ((tblGet? g.taken m.lane).getD (fallThrough g)) 0

/-- Warps that end a yielding clause make way for ready pending ones (R265). -/
def yieldWarps (s : State) (g : Group) (ws : List Nat) : State :=
  if g.yld || g.hdr.getLsbD 7 then ws.foldl yieldWarp s else s

/-- The member is done with the present instruction: it stands after it, or at its successor where the clause ends for it (R338). -/
def standAfter (s : State) (g : Group) (m : Member) : State :=
  if g.pos + 1 < groupInstrs g then standAt s m g.pc (g.pos + 2) else yieldWarps (toSuccessor s g m) g [m.warp]

/-- The member is done with the present instruction and waits after it: it leaves the group (R283). -/
def standAfterIn (s : State) (g : Group) (m : Member) (w : Wait) : State :=
  updThr (standAfter s g m) m fun t => { t with wait := w }

/-- The member stands at the present instruction, to execute it again. -/
def standBefore (s : State) (g : Group) (m : Member) : State := standAt s m g.pc (g.pos + 1)

/-- The group in flight in the present quarter. -/
def curGroup? (s : State) : Option Group := tblGet? s.groups s.cur

/-- The group is no longer in flight. -/
def dropGroup (s : State) : State := { s with groups := tblDel s.groups s.cur }



/-- The clause has ended for the members left in the group (R61). -/
def endClause (s : State) (g : Group) : State :=
  yieldWarps (g.mem.foldl (fun s m => toSuccessor s g m) (dropGroup s)) g (warpsIn g.mem)

/-- The present instruction is done for the members of the group: on to the next one, or to the clause end. -/
def retire (s : State) : State :=
  match curGroup? s with
  | none => s
  | some g =>
    if g.mem.isEmpty then dropGroup s
    else if g.pos + 1 < groupInstrs g then
      { s with groups := tblSet s.groups s.cur { g with pos := g.pos + 1, patA := 0, patB := 0 } }
    else endClause s g

/-- Members leave the group. -/
def dropMembers (s : State) (p : Member → Bool) : State :=
  updGroup s s.cur fun g => { g with mem := g.mem.filter fun m => !p m }

/-- Members are deferred at the present instruction, each with the wait it stands in (R283). -/
def deferMembers (s : State) (g : Group) (ms : List (Member × Wait)) : State :=
  dropMembers (ms.foldl (fun s e => updThr (standBefore s g e.1) e.1 fun t => { t with wait := e.2 }) s)
    fun m => ms.any fun e => e.1 == m

/-- The members of an instruction that executes once per issue group are deferred as one (R284). -/
def deferOnce (s : State) (g : Group) (act : List Member) (w : Wait) : State :=
  { act.foldl (fun s' m => updThr s' m fun t => { t with gid := s.nextId }) (deferMembers s g (act.map fun m => (m, w))) with
    nextId := s.nextId + 1 }

/-! ### Traps (R338) -/

/-- A trap of one warp: cause, lane and the record's fields. -/
structure Trap where
  warp : Nat
  cause : Cause
  lane : Nat
  word : Nat := 0xFF
  addr : Nat := 0
  info : Nat := 0
  info2 : Nat := 0
  pages : List Nat := []
  write : Bool := false
deriving DecidableEq, Repr

/-- The record of a warp's trap at a restart point (R342). -/
def trapRecord (s : State) (t : Trap) (pc : Pair) (pos : Nat) : FaultRec :=
  let g := wgOfWarp s t.warp
  { cause := causeCode t.cause, src := if g.seqi then 1 else 0, pos := pos, place := lkPlace g.lcore, pc := pc,
    slot := if g.seqi then 0x7F else (warpOf s t.warp).slot, lane := t.lane, word := t.word, addr := t.addr, info := t.info,
    info2 := t.info2, pages := t.pages, grid := g.grid }

/-- A warp stops for its trap at a restart point: its threads there, and those that stand in a wait, stop at once; the others go on to
their restart points under the rules of a stop that is requested now. Those of a replica all stop where they stand (R338, R343, R371). -/
def stopAtTrap (redun : Bool) (clk : Nat) (pc : Pair) (pos : Nat) (x : Warp) : Warp :=
  let lanes := tblMap x.lanes fun _ t =>
    if redun ∨ (t.pc = pc ∧ t.pos = pos) ∨ t.wait ≠ .none then { t with stopped := true } else t
  { x with lanes := lanes, trapAt := if lanes.all fun e => e.2.stopped then none else some clk }

/-- A warp is trapped under a record, with its replicas: the record takes the next SEQ of its context and is appended, and
the warp issues nothing, once it has stopped, until an `ERET` names that SEQ (R338, R341, R371). -/
def trapWarp (s : State) (w : Nat) (r : FaultRec) : State :=
  let k := partOfWarp s w
  let seq := nextSeq s k
  (replicaWarps s w).foldl (fun s v => updWarp s v fun x =>
      stopAtTrap (isRedun s w) s.clk r.pc r.pos { x with trapped := true, trapSeq := seq, pendTrap := none })
    (addAwait (appendFault s k r) k seq (.warp w))

/-- INFO of a warp's page fault: the pages of the batch, and whether the access writes (R342). -/
def pageInfo (n : Nat) (write : Bool) : Nat := n + (if write then 256 else 0)

/-- Run-ahead begins at a faulting instruction: the warp's registers in shadow storage, and the threads that stand at the instruction or,
inactive, after it (R320). -/
def aheadFrom (clk : Nat) (t : Trap) (pc : Pair) (pos : Nat) (x : Warp) : Ahead :=
  { pages := t.pages, lane := t.lane, write := t.write, pc := pc, pos := pos, start := clk, vr := x.vr, sr := x.sr, wbase := x.wbase,
    threads := x.lanes.filter fun e => decide (e.2.pc = pc) && (decide (e.2.pos = pos) || decide (e.2.pos = pos + 1)) && decide (e.2.wait = .none) }

/-- Taking a trap: the saved place is the restart point (pc, pos). A trap of a replicated warp waits for its comparison
(R371); a page fault of an access starts run-ahead (R320), in a replicated warp the leader's alone (R321); every other trap is recorded at
once. While a trap of the warp is
outstanding, its threads only stop at the restart point, where an instruction that had no effect traps anew after the `ERET`; a trap
raised after its instruction's effect is kept until then (R338). -/
def takeTrap (s : State) (t : Trap) (pc : Pair) (pos : Nat) : State :=
  let r := trapRecord s t pc pos
  if isRedun s t.warp then
    let r := if t.pages = [] then r
             else { r with addr := t.pages.headD 0, info := pageInfo t.pages.length t.write, pages := t.pages.drop 1 }
    updWarp s t.warp fun x =>
      if t.cause = .pageFault ∧ t.pages ≠ [] ∧ isLeader s t.warp = true then
        { x with trapped := true, ahead := some (aheadFrom s.clk t pc pos x) }
      else { x with trapped := true, atCmp := true, pendTrap := some r }
  else if (warpOf s t.warp).trapped ∨ (warpOf s t.warp).ahead.isSome then
    updWarp s t.warp fun x =>
      { stopAtTrap false (x.trapAt.getD s.clk) pc pos x with
          later := x.later ++ (if t.cause = .fpTrap ∨ t.cause = .userTrap then [r] else []) }
  else if t.cause = .pageFault ∧ t.pages ≠ [] then
    updWarp s t.warp fun x => { x with ahead := some (aheadFrom s.clk t pc pos x) }
  else trapWarp s t.warp r

/-- The traps of the failing members: for each warp the earliest check, and the lowest lane that fails it (R101). -/
def trapsOf (fs : List (Member × Fail)) : List Trap :=
  (warpsIn (fs.map (·.1))).filterMap fun w =>
    let l := fs.filter fun e => e.1.warp == w
    match l.foldl (fun best e => match best with
        | none => some e
        | some b => if e.2.before b.2 then some e else some b) none with
    | none => none
    | some e =>
      let pages := if e.2.cause = .pageFault ∧ e.2.info < 512 then
          e.2.addr / 4096 * 4096 ::
            ((sortNat ((l.filter fun x => x.2.cause = .pageFault).flatMap fun x => (x.2.addr :: x.2.more).map fun a => a / 4096 * 4096)).filter
              (· != e.2.addr / 4096 * 4096)).take 32
        else []
      some { warp := w, cause := e.2.cause, lane := e.1.lane, addr := e.2.addr, info := e.2.info, info2 := e.2.info2,
             write := decide (e.2.info = 256), pages := pages }

/-- The traps of a check that stops an instruction for its whole group: those of the warps with failing members, and of every other
warp that is represented by an active member that is no helper, with the group's first failing check and no lane of its own (R338, log 24). -/
def groupTraps (s : State) (act : List Member) (fs : List (Member × Fail)) : List Trap :=
  let ts := trapsOf fs
  let first := fs.foldl (fun best e => match best with
    | none => some e
    | some b => if e.2.before b.2 then some e else some b) none
  match first.bind fun e => ts.find? fun t => t.warp == e.1.warp with
  | none => ts
  | some t => ts ++ ((warpsIn (nonHelpers s act)).filter fun w => ts.all fun x => x.warp != w).map fun w => { t with warp := w, lane := 0xFF }

/-- A trap at the present instruction, before any effect: active members stand at it, the others after it, the trapping
warps are trapped there, and the group is dissolved (R338). -/
def trapBefore (s : State) (g : Group) (act : List Member) (fs : List (Member × Fail)) : State :=
  let s1 := g.mem.foldl (fun s m => if act.contains m then standBefore s g m else standAfter s g m) (dropGroup s)
  (groupTraps s act fs).foldl (fun s t => takeTrap s t g.pc (g.pos + 1)) s1

/-- The place after the present instruction, as a restart point. -/
def afterPlace (g : Group) (lane : Nat) : Pair × Nat :=
  if g.pos + 1 < groupInstrs g then (g.pc, g.pos + 2) else ((tblGet? g.taken lane).getD (fallThrough g), 0)

/-- A trap after the instruction's effect (FP_TRAP, USER_TRAP): the members of the trapping warps stand after it; the
others go on in the group (R338). -/
def trapAfter (s : State) (g : Group) (ts : List Trap) : State :=
  let hit (m : Member) : Bool := ts.any fun t => t.warp == m.warp
  let s1 := (g.mem.filter hit).foldl (fun s m => standAfter s g m) s
  let s2 := ts.foldl (fun s t => takeTrap s t (afterPlace g t.lane).1 (afterPlace g t.lane).2) s1
  retire (dropMembers s2 hit)

/-- A trapped warp resumes from its restart point (R356); under a stop its threads stand there until the stop ends (R353). -/
def resumeOne (s : State) (w : Nat) : State :=
  let s1 := { s with mats := tblMap s.mats fun _ o => if o.warp = w then { o with trapped := false } else o }
  updWarp s1 w fun x =>
    { x with trapped := false, trapSeq := 0, trapAt := none,
             lanes := if x.stopAt.isSome then x.lanes else tblMap x.lanes fun _ t => { t with stopped := false } }

/-- One warp returns from its trap: it resumes, the lanes of a mask at another PC or ended (R356). -/
def eretOne (s : State) (w action : Nat) (pc : Pair) (lanes : Nat) : State :=
  let sel := (warpOf s w).lanes.filterMap fun e => if lanes / 2 ^ e.1 % 2 = 1 then some e.1 else none
  let s1 := resumeOne s w
  if action = 1 then sel.foldl (fun s l => standAt s ⟨l, w⟩ pc 0) s1
  else if action = 2 then sel.foldl (fun s l => endThread s ⟨l, w⟩) s1
  else s1

/-- A trap that was kept while another one of its warp was outstanding is raised once that is answered. -/
def nextTrap (s : State) (w : Nat) : State :=
  match (warpOf s w).later with
  | [] => s
  | r :: t => trapWarp (updWarp s w fun x => { x with later := t }) w r

/-- The return from a trap: the warp that a SEQ traps resumes, with its replicas (R356, R371). -/
def eretWarp (s : State) (w action : Nat) (pc : Pair) (lanes : Nat) : State :=
  nextTrap ((replicaWarps s w).foldl (fun s v => eretOne s v action pc lanes) s) w

/-- Members of a warp leave every group in flight and stand at its present instruction. -/
def pullFromGroups (s : State) (w : Nat) : State :=
  let s1 := s.groups.foldl (fun s e => (e.2.mem.filter fun m => m.warp == w).foldl (fun s m => standBefore s e.2 m) s) s
  { s1 with groups := (tblMap s1.groups fun _ g => { g with mem := g.mem.filter fun m => m.warp != w }).filter fun e => !e.2.mem.isEmpty }

/-! ### Long-latency operations (R53) -/

/-- The flag of a warp rises by one; flag 15 is none. -/
def raiseFlag (s : State) (w f : Nat) : State :=
  if f < 12 then updWarp s w fun x => { x with fcount := bmSet x.fcount f (bmGet x.fcount f + 1) } else s
def lowerFlag (s : State) (w f : Nat) : State :=
  if isSaved s w then imageFlag s w f
  else if f < 12 then updWarp s w fun x => { x with fcount := bmSet x.fcount f (bmGet x.fcount f - 1) } else s

/-- Register writes of values to a destination field, in their own lanes or the warp's uniform registers (R37, R57). -/
def regWrites (s : State) (x : Slot) (w : Nat) (vals : List (Member × Val)) : List RegWrite :=
  let n := x.f.toNat
  let k := writeWidth x.use
  let word (v : Val) (j : Nat) : Word := v.extractLsb' (32 * j) 32
  if n < 96 then
    (vals.filter fun e => e.1.warp == w).flatMap fun e =>
      (List.range k).map fun j => { lane := e.1.lane, reg := (thrOf s e.1).base + n + j, val := word e.2 j }
  else if n < 112 then
    match vals.find? fun e => e.1.warp == w && !(thrOf s e.1).helper with
    | some e => (List.range k).map fun j => { lane := e.1.lane, reg := 512 + (n - 96) + j, val := word e.2 j }
    | none => []
  else []

/-- Long-latency operations that the state enters under an identifier will write these registers: earlier ones write the uniform ones among
them no more (R88). -/
def markUniform (s : State) (w id : Nat) (regs : List Nat) : State :=
  let us := regs.filter fun r => decide (512 ≤ r) && decide (r < 1024)
  if us.isEmpty then s else updWarp s w fun x => { x with uw := us.foldl (fun t r => tblSet t (r - 512) id) x.uw }

/-- A uniform register takes the result of an operation issued under an identifier, unless a later write of it stands (R88). -/
def landUreg (s : State) (w id n : Nat) (v : Word) : State :=
  updWarp s w fun x => if id < tblGet x.uw n then x else { x with sr := bmSet x.sr n v }

/-- One register write of the operation with an identifier made, unless its thread has ended (R96). In the lanes' registers the results of
several operations of one clause, and a later instruction's write, stand as the results arrive: R54 orders whole clauses only (log 26). -/
def landWrite (s : State) (w id : Nat) (r : RegWrite) : State :=
  if isSaved s w then (if decide (512 ≤ r.reg) && decide (id < tblGet (savedWarp s w).uw (r.reg - 512)) then s else imageReg s w r)
  else if r.reg ≥ 512 then landUreg s w id (r.reg - 512) r.val
  else if present s w r.lane then setVreg s w r.lane r.reg r.val else s

/-- Operations pending for each represented warp: its flag rises when an active member is no helper (R53). The entry
carries the register writes to land and what must come first. -/
def issueLong (s : State) (g : Group) (ms : List Member) (mk : Nat → PLoad) : State :=
  (warpsIn ms).foldl (fun s w =>
    let f := if (leadOf s ms w).isSome then groupFlag g else 15
    raiseFlag (markUniform { s with loads := s.loads ++ [(s.nextId, { mk w with warp := w, flag := f })], nextId := s.nextId + 1 } w s.nextId
      ((mk w).writes.map fun r => r.reg)) w f) s

/-! ### Redundancy at an instruction (R369, R371) -/

/-- The leader's value is forwarded to the other replicas of its warp. -/
def forward (s : State) (m : Member) (v : Val) : State :=
  if isRedun s m.warp && isLeader s m.warp then
    ((replicaWarps s m.warp).filter (· != m.warp)).foldl (fun s w => updWarp s w fun x => { x with fwd := x.fwd ++ [(m.lane, v)] }) s
  else s

/-- The next forwarded value of a lane. -/
def fwdVal? (s : State) (m : Member) : Option Val := ((warpOf s m.warp).fwd.find? fun e => e.1 == m.lane).map (·.2)
def dropFirstFwd : List (Nat × Val) → Nat → List (Nat × Val)
  | [], _ => []
  | e :: t, l => if e.1 = l then t else e :: dropFirstFwd t l
def takeFwd (s : State) (m : Member) : State := updWarp s m.warp fun x => { x with fwd := dropFirstFwd x.fwd m.lane }

/-- The leader's values forwarded, and the values taken by the replicas that do not lead. -/
def forwards (s : State) (vals : List (Member × Val)) : State := vals.foldl (fun s e => forward s e.1 e.2) s
def takeFwds (s : State) (ms : List Member) : State := ms.foldl (fun s m => if takesForward s m then takeFwd s m else s) s

/-- How an instruction meets redundancy: by its own state alone; with a value of the leader for every member (`fwd`), or for those that are
no helpers (`ret`), for a helper performs no atomic and no command (R15); at a comparison point; at one and with such a value for those that
are no helpers (`both`); or as a store that adds n entries for each member to the hold buffer. -/
inductive RKind where
  | own | fwd | ret | cmp | both
  | hold (n : Nat)
deriving DecidableEq, Repr

/-- The hold buffer of 256 entries has no room for the entries of a store (R371). -/
def holdFull (s : State) (k : RKind) (w : Nat) : Bool :=
  match k, curGroup? s with
  | .hold n, some g => decide (256 < (warpOf s w).hold.length + n * (g.mem.filter fun m => m.warp == w).length)
  | _, _ => false

/-- The member resumes in a wait that comes after the comparison of its instruction: a barrier's, or a full/empty word's. -/
def pastCompare (s : State) (m : Member) : Bool :=
  match (thrOf s m).wait with
  | .barrier _ _ => true
  | .word _ _ => true
  | _ => false

/-- The member's warp stands at a comparison point with the instruction (R371). -/
def comparesAt (s : State) (k : RKind) (m : Member) : Bool :=
  isRedun s m.warp && !(warpOf s m.warp).agreed.contains m.lane && !pastCompare s m && (decide (k = .cmp ∨ k = .both) || holdFull s k m.warp)

/-- The leader owes a member of an instruction a value, and has not yet delivered it (R369). -/
def awaitsValue (s : State) (k : RKind) (m : Member) : Bool :=
  takesForward s m && (fwdVal? s m).isNone && (decide (k = .fwd) || decide (k = .ret ∨ k = .both) && !(thrOf s m).helper)

/-- The wait that redundancy imposes on a member: for the comparison of its comparison point, or for the leader's values, for which the
members of the instruction wait together, so that the replicas keep their threads together alike. -/
def redunWait (s : State) (k : RKind) (act : List Member) (m : Member) : Option Wait :=
  if !isRedun s m.warp then none
  else if comparesAt s k m then some .room
  else if takesForward s m && act.any (awaitsValue s k) then
    some (.fwd ((act.filter fun x => x.warp == m.warp && awaitsValue s k x).map fun x => x.lane))
  else none

/-- An entry of a signature (R370): address, data, mask, kind and op. -/
structure SigEntry where
  addr : Nat
  data : Nat := 0
  mask : Nat := 0
  kind : Nat
  op : Nat := 0
deriving DecidableEq, Repr

/-- The entries that an instruction at a comparison point folds for a member. -/
abbrev Entries := State → Member → Src → List SigEntry
def noEntries (_ : State) (_ : Member) (_ : Src) : List SigEntry := []

/-- Entries of members folded in ascending lane order; helpers fold nothing (R370). -/
def foldEntries (s : State) (en : Entries) (l : List (Member × Src)) : State :=
  l.foldl (fun s e => if (thrOf s e.1).helper then s
    else (en s e.1 e.2).foldl (fun s x => foldSig s e.1.warp x.addr x.data x.mask x.kind x.op) s) s

/-- The marks of an agreed comparison, once members of the warp perform an instruction. -/
def clearRun (run : List Member) (w : Nat) (x : Warp) : Warp :=
  { x with cmpOk := false, agreed := x.agreed.filter fun l => !run.contains ⟨l, w⟩ }

/-- Marks made when members wait for their comparison, and cleared when the instruction runs. -/
def redunMark (s : State) (k : RKind) (waiting run : List Member) : State :=
  let s1 := (warpsIn (waiting.filter fun m => comparesAt s k m)).foldl
    (fun s w => updWarp s w fun x => { x with atCmp := true }) s
  (warpsIn run).foldl (fun s w => updWarp s w (clearRun run w)) s1

/-! ### Combinators -/

/-- The result of a register instruction for one member: D, predicates and `FPST` bits raised. -/
structure Res where
  d : Val := 0
  preds : List (Nat × Bool) := []
  fp : BitVec 6 := 0
deriving DecidableEq, Repr

/-- The low word and the low pair of an operand's value. -/
def lo32 (v : Val) : Word := v.extractLsb' 0 32
def lo64 (v : Val) : Pair := v.extractLsb' 0 64
/-- A result of one word, or of a pair. -/
def res32 (w : Word) : Res := { d := w.setWidth 128 }
def res64 (w : Pair) : Res := { d := w.setWidth 128 }

/-- The members that perform an instruction now, with their sources, and those that wait. -/
def splitWaits (s : State) (g : Group) (sh : Shape) (k : RKind) (wait : Member → Src → Option Wait) :
    List (Member × Src) × List (Member × Wait) :=
  let act := active s g sh.p
  let l := act.map fun m => (m, srcOf s g sh m)
  (l.filter fun e => (redunWait s k act e.1).isNone && (wait e.1 e.2).isNone,
   l.filterMap fun e => match redunWait s k act e.1 with
     | some w => some (e.1, w)
     | none => (wait e.1 e.2).map fun w => (e.1, w))

/-- The failing members among those that perform the instruction: active and no helpers (R338). -/
def failsOf (s : State) (sh : Shape) (l : List (Member × Src)) (fail : Member → Src → Option Fail) : List (Member × Fail) :=
  l.filterMap fun e =>
    if (thrOf s e.1).helper then none
    else match operandFail s sh e.1 with
      | some f => some (e.1, f)
      | none => (fail e.1 e.2).map fun f => (e.1, f)

/-- The shape of every per-member instruction: members whose wait holds them are deferred; a failing check traps before any
effect; otherwise `run` makes the effect, the traps that come after it are taken, and the clause goes on. -/
def groupOpE (i : Instr) (k : RKind) (en : Entries) (wait : State → Member → Src → Option Wait)
    (fail : State → Member → Src → Option Fail)
    (run : State → Group → List (Member × Src) → State × List Trap) (s : State) : Out :=
  match curGroup? s with
  | none => .refused .notDue
  | some g =>
    let sh := shapeOf i
    let (go, held) := splitWaits s g sh k (wait s)
    match failsOf s sh go (fail s) with
    | [] =>
      let cmp := ((active s g sh.p).filter fun m => comparesAt s k m).map fun m => (m, srcOf s g sh m)
      let s0 := foldEntries (constTraces s sh (go.map (·.1))) en cmp
      let (s1, ts) := run (redunMark s0 k (held.map (·.1)) (go.map (·.1))) g go
      let g1 := (curGroup? s1).getD g
      let s2 := deferMembers s1 g held
      .next (if ts.isEmpty then retire s2 else trapAfter s2 g1 ts)
    | fs => .next (trapBefore s g (active s g sh.p) fs)

/-- The same for an instruction that folds no entry of its own before its effect. -/
def groupOp (i : Instr) (k : RKind) (wait : State → Member → Src → Option Wait) (fail : State → Member → Src → Option Fail)
    (run : State → Group → List (Member × Src) → State × List Trap) (s : State) : Out :=
  groupOpE i k noEntries wait fail run s

/-- No wait. -/
def noWait (_ : State) (_ : Member) (_ : Src) : Option Wait := none
/-- No check beyond the operand fields. -/
def noFail (_ : State) (_ : Member) (_ : Src) : Option Fail := none

/-- `FPST` bits set in members that are no helpers (R15, R46). -/
def setFpst (s : State) (l : List (Member × BitVec 6)) : State :=
  l.foldl (fun s e => if (thrOf s e.1).helper then s else updThr s e.1 fun t => { t with fpst := t.fpst ||| e.2 }) s

/-- Flags of a member that its warp's `FPCTL` traps on (R45). -/
def trapFlags (w : Warp) (fp : BitVec 6) : BitVec 5 := fp.extractLsb' 0 5 &&& w.fpctl.extractLsb' 7 5

/-- FP_TRAP of each warp with an enabled flag raised: the lowest such lane, and the flags it raised (R122). -/
def fpTraps (s : State) (l : List (Member × BitVec 6)) : List Trap :=
  (warpsIn (l.map (·.1))).filterMap fun w =>
    (l.find? fun e => e.1.warp == w && !(thrOf s e.1).helper && decide (trapFlags (warpOf s w) e.2 ≠ 0)).map fun e =>
      { warp := w, cause := .fpTrap, lane := e.1.lane, info := (e.2.extractLsb' 0 5).toNat }

/-- The results of members written: D, predicates, `FPST`. -/
def applyRes (s : State) (sh : Shape) (rs : List (Member × Res)) : State :=
  let s1 := writeD s sh.d (rs.map fun e => (e.1, e.2.d))
  let s2 := rs.foldl (fun s e => if e.2.preds.isEmpty then s else updThr s e.1 fun t => e.2.preds.foldl (fun t x => setPred t x.1 x.2) t) s1
  setFpst s2 (rs.map fun e => (e.1, e.2.fp))

/-- A register instruction: each active member's result is a function of its own sources. -/
def regOp (i : Instr) (f : Src → Res) (s : State) : Out :=
  groupOp i .own noWait noFail (fun s _ l =>
    let rs := l.map fun e => (e.1, f e.2)
    (applyRes s (shapeOf i) rs, fpTraps s (rs.map fun e => (e.1, e.2.fp)))) s

/-- The members that perform an instruction with a check of its own: a helper that fails it performs nothing (R15). -/
def performers (s : State) (fail : State → Member → Src → Option Fail) (l : List (Member × Src)) : List (Member × Src) :=
  l.filter fun e => !((thrOf s e.1).helper && (fail s e.1 e.2).isSome)

/-- A register instruction with a check of its own. -/
def regOpF (i : Instr) (fail : State → Member → Src → Option Fail) (f : Src → Res) (s : State) : Out :=
  groupOp i .own noWait fail (fun s0 _ l =>
    let rs := (performers s fail l).map fun e => (e.1, f e.2)
    (applyRes s0 (shapeOf i) rs, fpTraps s0 (rs.map fun e => (e.1, e.2.fp)))) s

/-- A register instruction that reads more of the state than its operands. -/
def regOpG (i : Instr) (fail : State → Member → Src → Option Fail) (f : State → Member → Src → Res) (s : State) : Out :=
  groupOp i .own noWait fail (fun s0 _ l =>
    let rs := (performers s fail l).map fun e => (e.1, f s0 e.1 e.2)
    (applyRes s0 (shapeOf i) rs, fpTraps s0 (rs.map fun e => (e.1, e.2.fp)))) s

/-- A cross-lane instruction: the results of the participants of each warp, from the sources of them all (R154). -/
def warpOp (i : Instr) (f : List (Nat × Src) → Nat → Src → Res) (s : State) : Out :=
  groupOp i .own noWait noFail (fun s _ l =>
    let ps := l.filter fun e => !(thrOf s e.1).helper
    let rs := ps.map fun e =>
      (e.1, f ((ps.filter fun x => x.1.warp == e.1.warp).map fun x => (x.1.lane, x.2)) e.1.lane e.2)
    (applyRes s (shapeOf i) rs, fpTraps s (rs.map fun e => (e.1, e.2.fp)))) s

/-- An instruction that only changes the state of its members or their warps. -/
def effectOp (i : Instr) (fail : State → Member → Src → Option Fail) (run : State → Group → List (Member × Src) → State)
    (s : State) : Out :=
  groupOp i .own noWait fail (fun s g l => (run s g l, [])) s

/-- D of an instruction that executes once per issue group lies at or above E of an active member that is not the deciding one (R34). -/
def destFails (s : State) (sh : Shape) (act : List Member) (m : Member) : List (Member × Fail) :=
  if writeWidth sh.d.use = 0 then []
  else (act.filter fun n => n != m && !(thrOf s n).helper).filterMap fun n => (winFail s n sh.d).map fun f => (n, f)

/-- An instruction that executes once per issue group (R18): its deciding member waits, is checked and performs it for the
whole group; without a member that is active and no helper it has no effect. -/
def onceOp (i : Instr) (k : RKind) (en : Entries) (wait : State → Member → Src → Option Wait) (fail : State → Member → Src → Option Fail)
    (run : State → Group → List Member → Member → Src → State × List Trap) (s : State) : Out :=
  match curGroup? s with
  | none => .refused .notDue
  | some g =>
    let sh := shapeOf i
    let act := active s g sh.p
    match decider s act with
    | none => .next (retire s)
    | some m =>
      let x := srcOf s g sh m
      match (redunWait s k [m] m).orElse fun _ => wait s m x with
      | some w =>
        let s0 := if comparesAt s k m then foldEntries s en [(m, x)] else s
        .next (retire (deferOnce (redunMark s0 k act []) g act w))
      | none =>
        match failsOf s sh [(m, x)] (fail s) ++ destFails s sh act m with
        | [] =>
          let (s1, ts) := run (redunMark (constTraces s sh [m]) k [] act) g act m x
          let g1 := (curGroup? s1).getD g
          .next (if ts.isEmpty then retire s1 else trapAfter s1 g1 ts)
        | fs => .next (trapBefore s g act fs)

/-- An instruction that each warp of the group performs once, with the operands of its deciding member: the lowest active
member that is no helper (R161). `run` receives the warp's active members and its deciding member. -/
def perWarpOp (i : Instr) (k : RKind) (wait : State → Member → Src → Option Wait) (fail : State → Member → Src → Option Fail)
    (run : State → Group → List Member → Member → Src → State) (s : State) : Out :=
  let sh := shapeOf i
  let lead (s : State) (m : Member) : Option (Member × Src) :=
    match curGroup? s with
    | none => none
    | some g => (leadOf s (active s g sh.p) m.warp).map fun l => (l, srcOf s g sh l)
  groupOp i k
    (fun s m _ => match lead s m with | some (l, x) => wait s l x | none => none)
    (fun s m x => match lead s m with | some (l, _) => if l = m then fail s m x else none | none => none)
    (fun s g l =>
      ((warpsIn (l.map (·.1))).foldl (fun s' w =>
        match l.find? fun e => e.1.warp == w && !(thrOf s e.1).helper with
        | some e => run s' g ((l.filter fun x => x.1.warp == w).map (·.1)) e.1 e.2
        | none => s') s, [])) s

/-- D of every active member receives one value. -/
def spreadD (s : State) (i : Instr) (act : List Member) (v : Val) : State := writeD s (shapeOf i).d (act.map fun m => (m, v))

end Sys2Proof.Machine
end

