-- ==== Sys2Proof/Machine/Flags.lean ====
section
/-! DEFINITION. The flag computations: carry and borrow of p6 (R85), the conditions of the compares (R89), and the bits of
`FPST` (R46). -/

namespace Sys2Proof.Machine

/-- Carry out of an addition of width w with a carry in (R85). -/
def carryOut {w : Nat} (a b : BitVec w) (c : Bool) : Bool := decide (2 ^ w ≤ a.toNat + b.toNat + c.toNat)
/-- Borrow out of a subtraction of width w with a borrow in (R85). -/
def borrowOut {w : Nat} (a b : BitVec w) (c : Bool) : Bool := decide (a.toNat < b.toNat + c.toNat)

/-- The condition COND of an integer compare, from equality and order (R89): eq, ne, lt, le, gt, ge. -/
def condHolds (cond : Nat) (eq lt : Bool) : Bool :=
  match cond with
  | 0 => eq
  | 1 => !eq
  | 2 => lt
  | 3 => lt || eq
  | 4 => !(lt || eq)
  | _ => !lt

/-- `FPST` bits (R46). -/
def fpNX : BitVec 6 := 0x01
def fpUF : BitVec 6 := 0x02
def fpOF : BitVec 6 := 0x04
def fpDZ : BitVec 6 := 0x08
def fpNV : BitVec 6 := 0x10
def fpACUR : BitVec 6 := 0x20

end Sys2Proof.Machine
end

