-- ==== Sys2Proof/Machine/Num.lean ====
section
/-! DEFINITION. Floating-point numbers: the formats (R117, R123), the reading of patterns with DAZ (R119), the choice of
NaNs (R118), rounding in every mode with its flags (R119 to R121, R124, R126), and exact sums and products. A finite
number is m × 2^e; a sticky bit stands for a further part between 0 and one unit of m. -/

namespace Sys2Proof.Machine

/-- A binary format: a sign bit or none, exponent and mantissa widths, bias, and MODE 1 (R117, R123). -/
structure Fmt where
  sgn : Bool
  eb : Nat
  mb : Nat
  bias : Int
  sat : Bool
deriving DecidableEq, Repr

def fp64 : Fmt := ⟨true, 11, 52, 1023, false⟩
def fp32 : Fmt := ⟨true, 8, 23, 127, false⟩
def fp16 : Fmt := ⟨true, 5, 10, 15, false⟩
def bf16 : Fmt := ⟨true, 8, 7, 127, false⟩
/-- The format of a narrow descriptor (R123). -/
def ndFmt (d : BitVec 16) : Fmt :=
  ⟨d.getLsbD 14, (d.extractLsb' 11 3).toNat, (d.extractLsb' 8 3).toNat, (d.extractLsb' 0 8).toInt, d.getLsbD 15⟩
/-- The format of narrow block scales (R111, R125). -/
def scaleFmt : Fmt := ⟨false, 4, 4, 7, true⟩

/-- Width of a format in bits. -/
def Fmt.width (f : Fmt) : Nat := f.sgn.toNat + f.eb + f.mb

/-- Total width of a narrow format in bits (R123): sign, exponent and mantissa. -/
def ndWidth (d : BitVec 16) : Nat := (ndFmt d).width

/-- A descriptor is valid (R123). -/
def ndValid (d : BitVec 16) : Bool :=
  let f := ndFmt d
  decide (4 ≤ f.width) && decide (f.width ≤ 8) && decide (1 ≤ f.eb) && (f.sat || (decide (2 ≤ f.eb) && decide (1 ≤ f.mb)))

/-- Rounding modes (R120); stochastic rounding carries its generator value. -/
inductive RMode where
  | near | zero | up | down
  | sr (rnd : Word)
deriving DecidableEq, Repr

/-- A value: a NaN with its sign, quiet bit and payload of pw bits; an infinity; or a finite number. -/
inductive FVal where
  | nan (neg quiet : Bool) (payload pw : Nat)
  | inf (neg : Bool)
  | fin (neg : Bool) (m : Nat) (e : Int)
deriving DecidableEq, Repr

/-- A pattern and the flags it raised. -/
abbrev FOut := Nat × BitVec 6

def FVal.isNan : FVal → Bool
  | .nan _ _ _ _ => true
  | _ => false
def FVal.isSnan : FVal → Bool
  | .nan _ q _ _ => !q
  | _ => false
def FVal.isZero : FVal → Bool
  | .fin _ m _ => m == 0
  | _ => false
def FVal.isInf : FVal → Bool
  | .inf _ => true
  | _ => false
def FVal.neg : FVal → Bool
  | .nan n _ _ _ => n
  | .inf n => n
  | .fin n _ _ => n
/-- The sign changed, of values that are no NaN (R135). -/
def FVal.negate : FVal → FVal
  | .nan n q p w => .nan n q p w
  | .inf n => .inf (!n)
  | .fin n m e => .fin (!n) m e
def FVal.zero (neg : Bool) : FVal := .fin neg 0 0

/-- The value of a pattern; DAZ reads a subnormal as zero of its sign (R119, R123). -/
def unpack (f : Fmt) (daz : Bool) (bits : Nat) : FVal :=
  let m := bits % 2 ^ f.mb
  let e := bits / 2 ^ f.mb % 2 ^ f.eb
  let neg := f.sgn && decide (bits / 2 ^ (f.eb + f.mb) % 2 = 1)
  let top := decide (e = 2 ^ f.eb - 1)
  if top && !f.sat && m = 0 then .inf neg
  else if top && !f.sat then .nan neg (decide (m / 2 ^ (f.mb - 1) = 1)) (m % 2 ^ (f.mb - 1)) (f.mb - 1)
  else if top && f.sat && f.sgn && neg && m = 2 ^ f.mb - 1 then .nan true true 0 (f.mb - 1)
  else if e = 0 then .fin neg (if daz then 0 else m) (1 - f.bias - f.mb)
  else .fin neg (2 ^ f.mb + m) (e - f.bias - f.mb)

/-! ### Patterns -/

/-- The sign bit of a pattern. -/
def signBit (f : Fmt) (neg : Bool) : Nat := if f.sgn && neg then 2 ^ (f.eb + f.mb) else 0
/-- The pattern of infinity in MODE 0, and the largest magnitude pattern of a sign. -/
def infMag (f : Fmt) : Nat := (2 ^ f.eb - 1) * 2 ^ f.mb
def maxMag (f : Fmt) (neg : Bool) : Nat :=
  if f.sat then 2 ^ (f.eb + f.mb) - 1 - (f.sgn && neg).toNat else infMag f - 1
/-- The default NaN of a MODE 0 format (R117). -/
def defaultNan (f : Fmt) : Nat := infMag f + 2 ^ (f.mb - 1)

/-- A NaN delivered into a format, quieted (R118, R124). -/
def packNan (f : Fmt) (neg : Bool) (payload pw : Nat) : FOut :=
  if f.sat then (if f.sgn then (2 ^ f.width - 1, 0) else (0, fpNV))
  else
    let w := f.mb - 1
    let p := if pw ≤ w then payload * 2 ^ (w - pw) else payload / 2 ^ (pw - w)
    (signBit f neg + infMag f + 2 ^ w + p, 0)

/-! ### Rounding -/

/-- Bits of a number. -/
def bitLen (m : Nat) : Nat := if m = 0 then 0 else m.log2 + 1

/-- Whether the magnitude steps up: the kept part k, the rest r of 2^s, and the sticky bit (R120, R126). -/
def stepsUp (rm : RMode) (neg : Bool) (k r s : Nat) (st : Bool) : Bool :=
  let inexact := decide (r ≠ 0) || st
  match rm with
  | .near => decide (2 ^ s < 2 * r) || (decide (2 * r = 2 ^ s) && decide (s ≠ 0) && (st || k % 2 == 1))
  | .zero => false
  | .up => inexact && !neg
  | .down => inexact && neg
  | .sr rnd => decide (2 ^ 32 ≤ r * 2 ^ 32 / 2 ^ s + rnd.toNat)

/-- m × 2^e rounded to a multiple of 2^q: the multiple, and whether it is inexact. -/
def roundAt (rm : RMode) (neg : Bool) (m : Nat) (e q : Int) (st : Bool) : Nat × Bool :=
  let s := (q - e).toNat
  let v := m * 2 ^ (e - q).toNat
  (v / 2 ^ s + (stepsUp rm neg (v / 2 ^ s) (v % 2 ^ s) s st).toNat, decide (v % 2 ^ s ≠ 0) || st)

/-- The result of an overflow (R120, R123). -/
def overflowMag (f : Fmt) (rm : RMode) (neg : Bool) : Nat :=
  if f.sat then maxMag f neg
  else match rm with
    | .near => infMag f
    | .zero => maxMag f neg
    | .up => if neg then maxMag f neg else infMag f
    | .down => if neg then infMag f else maxMag f neg
    | .sr _ => infMag f

/-- A non-zero finite value rounded into a format: R120's modes, R121's flags, FTZO of R119. -/
def roundFin (f : Fmt) (rm : RMode) (ftz : Bool) (neg : Bool) (m : Nat) (e : Int) (st : Bool) : FOut :=
  let emin : Int := 1 - f.bias
  let ex : Int := e + bitLen m - 1
  let q : Int := max ex emin - f.mb
  let (k, inexact) := roundAt rm neg m e q st
  let mag := ((q + f.mb - emin).toNat) * 2 ^ f.mb + k
  if maxMag f neg < mag then (signBit f neg + overflowMag f rm neg, fpOF ||| fpNX)
  else
    let sub := decide (mag < 2 ^ f.mb)
    let tiny := match rm with
      | .sr _ => sub
      | _ => decide (ex < emin) && decide ((roundAt rm neg m e (ex - f.mb) st).1 < 2 ^ (f.mb + 1) ∨ ex + 1 < emin)
    let fl := (if inexact then fpNX else 0) ||| (if inexact && tiny then fpUF else 0)
    if ftz && sub && decide (mag ≠ 0) then (signBit f neg, fpUF ||| fpNX) else (signBit f neg + mag, fl)

/-- A value delivered into a format (R118 to R121, R124). -/
def deliver (f : Fmt) (rm : RMode) (ftz : Bool) (v : FVal) (st : Bool) : FOut :=
  match v with
  | .nan neg quiet p w => let (b, fl) := packNan f neg p w; (b, fl ||| (if quiet then 0 else fpNV))
  | .inf neg =>
    if neg && !f.sgn then (0, fpNV)
    else if f.sat then (signBit f neg + maxMag f neg, fpOF ||| fpNX) else (signBit f neg + infMag f, 0)
  | .fin neg m e =>
    if m = 0 ∧ !st then (signBit f neg, 0)
    else if neg && !f.sgn then (0, fpNV)
    else roundFin f rm ftz neg m e st

/-! ### Exact arithmetic -/

/-- An operation's outcome before rounding: a value, its sticky bit, and flags raised on the way. -/
structure Exact where
  v : FVal
  st : Bool := false
  fl : BitVec 6 := 0
deriving DecidableEq, Repr

/-- The default NaN of an invalid operation: the payload of every format's default NaN is zero. -/
def invalid : Exact := { v := .nan false true 0 0, fl := fpNV }

/-- The first NaN of some sources, with NV when one of them is signalling (R118, R121). -/
def nanOf (l : List FVal) : Option Exact :=
  (l.find? FVal.isNan).map fun n => { v := n, fl := if l.any FVal.isSnan then fpNV else 0 }

/-- m × 2^e as an integer multiple of 2^q for q ≤ e. -/
def scaleInt (neg : Bool) (m : Nat) (e q : Int) : Int :=
  let v : Int := m * 2 ^ (e - q).toNat
  if neg then -v else v

/-- The exact sum of two values that are no NaN; a zero sum is −0 only of two −0, or of opposite values downward (R134). -/
def exactAdd (down : Bool) (x y : FVal) : Exact :=
  match x, y with
  | .inf a, .inf b => if a = b then { v := .inf a } else invalid
  | .inf a, _ => { v := .inf a }
  | _, .inf b => { v := .inf b }
  | .fin n1 m1 e1, .fin n2 m2 e2 =>
    let q := min e1 e2
    let t := scaleInt n1 m1 e1 q + scaleInt n2 m2 e2 q
    if t = 0 then { v := .zero (if m1 = 0 ∧ m2 = 0 ∧ n1 = n2 then n1 else down) }
    else { v := .fin (decide (t < 0)) t.natAbs q }
  | _, _ => invalid

/-- The exact product of two values that are no NaN. -/
def exactMul (x y : FVal) : Exact :=
  match x, y with
  | .inf a, .inf b => { v := .inf (a.xor b) }
  | .inf a, .fin n m _ => if m = 0 then invalid else { v := .inf (a.xor n) }
  | .fin n m _, .inf a => if m = 0 then invalid else { v := .inf (a.xor n) }
  | .fin n1 m1 e1, .fin n2 m2 e2 => { v := .fin (n1.xor n2) (m1 * m2) (e1 + e2) }
  | _, _ => invalid

/-- The order of two values that are no NaN: −1, 0 or 1; zeros compare equal. -/
def fvCmp (x y : FVal) : Int :=
  match x, y with
  | .inf a, .inf b => if a = b then 0 else if a then -1 else 1
  | .inf a, _ => if a then -1 else 1
  | _, .inf b => if b then 1 else -1
  | .fin n1 m1 e1, .fin n2 m2 e2 =>
    let q := min e1 e2
    let t := scaleInt n1 m1 e1 q - scaleInt n2 m2 e2 q
    if t < 0 then -1 else if t = 0 then 0 else 1
  | _, _ => 0

/-- A finite value rounded to an integer: its magnitude, and whether it is inexact (R140, R144). -/
def roundToInt (rm : RMode) (neg : Bool) (m : Nat) (e : Int) : Nat × Bool := roundAt rm neg m e 0 false

/-- A conversion to an integer of the range lo to hi (R144). -/
def toIntVal (rm : RMode) (lo hi : Int) (v : FVal) : Int × BitVec 6 :=
  match v with
  | .nan _ _ _ _ => (0, fpNV)
  | .inf n => (if n then lo else hi, fpNV)
  | .fin n m e =>
    let (k, inexact) := roundToInt rm n m e
    let r : Int := if n then -(k : Int) else k
    if r < lo then (lo, fpNV) else if hi < r then (hi, fpNV) else (r, if inexact then fpNX else 0)

/-- An integer as a value. -/
def ofIntVal (i : Int) : FVal := .fin (decide (i < 0)) i.natAbs 0

/-! ### Stochastic generators (R127) -/

/-- One step of a generator word. -/
def genStep (x : Word) : Word :=
  let x := x ^^^ (x <<< 13)
  let x := x ^^^ (x >>> 17)
  x ^^^ (x <<< 5)

end Sys2Proof.Machine
end

