-- ==== Sys2Proof/Machine/Trans.lean ====
section
/-! DEFINITION. Division, roots and transcendentals (R138): the exact value, or an enclosure of it narrow enough to round
(log 17). Values are scaled by powers of two and kept as natural numbers. -/

namespace Sys2Proof.Machine

/-- The integer square root of n, of at most k bits. -/
def isqrtGo (n : Nat) : Nat → Nat → Nat
  | 0, acc => acc
  | k + 1, acc => isqrtGo n k (if (acc + 2 ^ k) * (acc + 2 ^ k) ≤ n then acc + 2 ^ k else acc)
def isqrt (n : Nat) : Nat := isqrtGo n (bitLen n / 2 + 1) 0

/-- The quotient of two finite non-zero values. -/
def exactDiv (neg : Bool) (m1 : Nat) (e1 : Int) (m2 : Nat) (e2 : Int) : Exact :=
  let n := m1 * 2 ^ 96
  { v := .fin neg (n / m2) (e1 - e2 - 96), st := decide (n % m2 ≠ 0) }

/-- A number with an even exponent. -/
def evenExp (m : Nat) (e : Int) : Nat × Int := if e % 2 = 0 then (m, e) else (2 * m, e - 1)

/-- The square root of a positive finite value. -/
def exactSqrt (m : Nat) (e : Int) : Exact :=
  let (m, e) := evenExp m e
  let n := m * 2 ^ 96
  let r := isqrt n
  { v := .fin false r (e / 2 - 48), st := decide (r * r ≠ n) }

/-- The reciprocal square root of a positive finite value. -/
def exactRsqrt (m : Nat) (e : Int) : Exact :=
  let (m, e) := evenExp m e
  let r := isqrt (2 ^ 192 / m)
  { v := .fin false r (-(e / 2) - 96), st := decide (r * r * m ≠ 2 ^ 192) }

/-- floor(ln 2 × 2^640) and floor(π × 2^640). -/
def ln2Fix : Nat := 0xb17217f7d1cf79abc9e3b39803f2f6af40f343267298b62d8a0d175b8baafa2be7b876206debac98559552fb4afa1b10ed2eae35c138214427573b291169b8253e96ca16224ae8c51acbda11317c387e
def piFix : Nat := 0x3243f6a8885a308d313198a2e03707344a4093822299f31d0082efa98ec4e6c89452821e638d01377be5466cf34e90c6cc0ac29b7c97c50dd3f84d5b5b54709179216d5d98979fb1bd1310ba698dfb5ac
def ln2At (p : Nat) : Nat := ln2Fix / 2 ^ (640 - p)
def piAt (p : Nat) : Nat := piFix / 2 ^ (640 - p)

/-- Terms of the exponential series of x / 2^p: n terms from term t of index k on. -/
def expGo (p x : Nat) : Nat → Nat → Nat → Nat → Nat
  | 0, _, _, acc => acc
  | n + 1, k, t, acc => let t' := t * x / 2 ^ p / k; expGo p x n (k + 1) t' (acc + t')
/-- Terms of the series of artanh. -/
def artanhGo (p z2 : Nat) : Nat → Nat → Nat → Nat → Nat
  | 0, _, _, acc => acc
  | n + 1, k, t, acc => let t' := t * z2 / 2 ^ p; artanhGo p z2 n (k + 2) t' (acc + t' / k)
/-- Terms of the series of the sine and cosine, of alternating sign. -/
def trigGo (p x2 : Nat) : Nat → Nat → Nat → Int → Int → Int
  | 0, _, _, _, acc => acc
  | n + 1, k, t, sg, acc => let t' := t * x2 / 2 ^ p / (k * (k + 1)); trigGo p x2 n (k + 2) t' (-sg) (acc + sg * t')

/-- The first of some precisions at which both ends of an enclosure (lo, hi) × 2^e round alike. -/
def roundEnclosed (f : Fmt) (rm : RMode) (ftz neg : Bool) (enc : Nat → Nat × Nat × Int) : List Nat → FOut
  | [] => (0, 0)
  | [p] => roundFin f rm ftz neg (enc p).1 (enc p).2.2 true
  | p :: t =>
    let (lo, hi, e) := enc p
    let a := roundFin f rm ftz neg lo e true
    if a = roundFin f rm ftz neg (hi - 1) e true then a else roundEnclosed f rm ftz neg enc t

/-- The precisions tried, in bits. -/
def precisions : List Nat := [96, 224, 480]

/-- 2^a of a finite non-zero a (R138). -/
def fex2Fin (rm : RMode) (ftz neg : Bool) (m : Nat) (e : Int) : FOut :=
  let t := (-e).toNat
  let a : Int := (if neg then -(m : Int) else m) * 2 ^ e.toNat
  if 9 < e + bitLen m then roundFin fp32 rm ftz false (2 ^ 40) (if neg then -340 else 260) true
  else if a % 2 ^ t = 0 then roundFin fp32 rm ftz false 1 (a / 2 ^ t) false
  else if e + bitLen m < -40 then roundFin fp32 rm ftz false (if neg then 2 ^ 80 - 1 else 2 ^ 80) (-80) true
  else
    let r := (a % 2 ^ t).toNat
    roundEnclosed fp32 rm ftz false (fun p =>
      let x := r * ln2At p / 2 ^ t
      let s := expGo p x (p / 3 + 30) 1 (2 ^ p) (2 ^ p)
      (s, s + 4096, a / 2 ^ t - p)) precisions

/-- log2 of a positive finite a (R138, R139). -/
def flg2Fin (rm : RMode) (ftz : Bool) (m : Nat) (e : Int) : FOut :=
  let h := 2 ^ (bitLen m - 1)
  let k : Int := e + bitLen m - 1
  if m = h then deliver fp32 rm ftz (ofIntVal k) false
  else
    roundEnclosed fp32 rm ftz (decide (k < 0)) (fun p =>
      let z := (m - h) * 2 ^ p / (m + h)
      let l := 2 * artanhGo p (z * z / 2 ^ p) (p / 3 + 10) 3 z z
      let lo : Int := k * 2 ^ p + l * 2 ^ p / (ln2At p + 1)
      let hi : Int := k * 2 ^ p + (l + 4096) * 2 ^ p / ln2At p + 1
      if k < 0 then ((-hi).toNat, (-lo).toNat, -(p : Int)) else (lo.toNat, hi.toNat, -(p : Int))) precisions

/-- sin(π r / 2^t) for 0 < r / 2^t ≤ 1/4, rounded with a sign. -/
def sinSmall (rm : RMode) (ftz neg : Bool) (r t : Nat) : FOut :=
  let d := t - bitLen r
  roundEnclosed fp32 rm ftz neg (fun p0 =>
    let p := p0 + d
    let x := r * piAt p / 2 ^ t
    let s := (trigGo p (x * x / 2 ^ p) (p0 / 4 + 20) 2 x (-1) x).toNat
    (s - 4096, s + 4096, -(p : Int))) precisions

/-- cos(π r / 2^t) for 0 < r / 2^t ≤ 1/4, rounded with a sign. -/
def cosSmall (rm : RMode) (ftz neg : Bool) (r t : Nat) : FOut :=
  let d := t - bitLen r
  if 40 < d then roundFin fp32 rm ftz neg (2 ^ 80 - 1) (-80) true
  else
    roundEnclosed fp32 rm ftz neg (fun p0 =>
      let p := p0 + 2 * d
      let x := r * piAt p / 2 ^ t
      let s := (trigGo p (x * x / 2 ^ p) (p0 / 4 + 20) 1 (2 ^ p) (-1) (2 ^ p)).toNat
      (s - 4096, s + 4096, -(p : Int))) precisions

/-- sin(π r / 2^t) of a reduced argument 0 ≤ r / 2^t < 2, in units of 2^-t for t ≥ 2; `zneg` is the sign of a zero. -/
def sinReduced (rm : RMode) (ftz neg zneg : Bool) (r t : Nat) : FOut :=
  let neg := neg.xor (decide (2 ^ t ≤ r))
  let r := r % 2 ^ t
  let r := if 2 ^ t < 2 * r then 2 ^ t - r else r
  if r = 0 then (signBit fp32 zneg, 0)
  else if 2 * r = 2 ^ t then roundFin fp32 rm ftz neg 1 0 false
  else if 4 * r ≤ 2 ^ t then sinSmall rm ftz neg r t
  else cosSmall rm ftz neg (2 ^ t - 2 * r) (t + 1)

/-- A finite magnitude as a multiple of 2^-t, reduced modulo 2. -/
def reduceArg (m : Nat) (e : Int) : Nat × Nat :=
  let t := max (-e).toNat 2
  (m * 2 ^ (e + t).toNat % (2 * 2 ^ t), t)

/-- sin(π a) and cos(π a) of a finite a (R138, R139). -/
def fsinFin (rm : RMode) (ftz neg : Bool) (m : Nat) (e : Int) : FOut :=
  let (r, t) := reduceArg m e
  sinReduced rm ftz neg neg r t
def fcosFin (rm : RMode) (ftz : Bool) (m : Nat) (e : Int) : FOut :=
  let (r, t) := reduceArg m e
  sinReduced rm ftz false false ((r + 2 ^ t / 2) % (2 * 2 ^ t)) t

end Sys2Proof.Machine
end

