-- ==== Sys2Proof/Machine/VecFloat.lean ====
section
/-! DEFINITION. Vector floating-point instructions: FP32, FP16 and BF16 arithmetic (R133 to R137), division and
transcendentals (R138, R139), `FRINT` (R140), `MOVF` (R70, R141) and FP64 arithmetic (R142). -/

namespace Sys2Proof.Machine

/-! ### Shared parts -/

/-- The rounding mode, DAZ and FTZO of a warp's `FPCTL` (R45). -/
def rmOf (w : Warp) : RMode :=
  match (w.fpctl.extractLsb' 0 2).toNat with
  | 0 => .near
  | 1 => .zero
  | 2 => .up
  | _ => .down
def dazOf (w : Warp) : Bool := w.fpctl.getLsbD 2
def ftzOf (w : Warp) : Bool := w.fpctl.getLsbD 3

/-- An outcome delivered, its own flags added. -/
def finish (f : Fmt) (rm : RMode) (ftz : Bool) (e : Exact) : FOut :=
  let (b, fl) := deliver f rm ftz e.v e.st
  (b, fl ||| e.fl)

/-- An operation of two values: NaN sources first (R118). -/
def with2 (op : FVal → FVal → Exact) (x y : FVal) : Exact := (nanOf [x, y]).getD (op x y)

/-- A two-source operation on patterns of a format. -/
def fbin (f : Fmt) (op : RMode → FVal → FVal → Exact) (w : Warp) (a b : Nat) : FOut :=
  finish f (rmOf w) (ftzOf w) (with2 (op (rmOf w)) (unpack f (dazOf w) a) (unpack f (dazOf w) b))

/-- Sum, difference and product (R134). -/
def addOp (rm : RMode) (x y : FVal) : Exact := exactAdd (decide (rm = .down)) x y
def subOp (rm : RMode) (x y : FVal) : Exact := exactAdd (decide (rm = .down)) x y.negate
def mulOp (_ : RMode) (x y : FVal) : Exact := exactMul x y
/-- Minimum and maximum; −0 orders below +0 (R118, R134). -/
def fvLess (x y : FVal) : Bool := decide (fvCmp x y < 0) || (x.isZero && y.isZero && x.neg && !y.neg)
def minOp (_ : RMode) (x y : FVal) : Exact := { v := if fvLess y x then y else x }
def maxOp (_ : RMode) (x y : FVal) : Exact := { v := if fvLess x y then y else x }

/-- FTZO has no effect on `FMIN` and `FMAX` (R134). -/
def fminmax (f : Fmt) (op : RMode → FVal → FVal → Exact) (w : Warp) (a b : Nat) : FOut :=
  finish f (rmOf w) false (with2 (op (rmOf w)) (unpack f (dazOf w) a) (unpack f (dazOf w) b))

/-- x × y + z with one rounding, NaNs chosen from the sources in field order (R135). -/
def fmaExact (rm : RMode) (order : List FVal) (x y z : FVal) (negProd : Bool) : Exact :=
  let prodBad := (x.isInf && y.isZero) || (x.isZero && y.isInf)
  match nanOf order with
  | some e => { e with fl := e.fl ||| (if prodBad then fpNV else 0) }
  | none =>
    let p := exactMul x y
    if p.v.isNan then p else exactAdd (decide (rm = .down)) (if negProd then p.v.negate else p.v) z

/-- The four FMA forms (R135). -/
def ffma (f : Fmt) (form : Nat) (w : Warp) (a b d : Nat) : FOut :=
  let x := unpack f (dazOf w) a
  let y := unpack f (dazOf w) b
  let z := unpack f (dazOf w) d
  let o := [x, y, z]
  finish f (rmOf w) (ftzOf w) (match form with
    | 0 => fmaExact (rmOf w) o x y z false
    | 1 => fmaExact (rmOf w) o z x y false
    | 2 => fmaExact (rmOf w) o x y z.negate false
    | _ => fmaExact (rmOf w) o x y z true)

/-- The halves of a pair value (R117). -/
def loHalf (a : Word) : Nat := (a.extractLsb' 0 16).toNat
def hiHalf (a : Word) : Nat := (a.extractLsb' 16 16).toNat

/-- A single result as D, and a pair of results as D with the OR of the flags (R117). -/
def fres (r : FOut) : Res := { d := BitVec.ofNat 128 r.1, fp := r.2 }
def fpair (l h : FOut) : Res := { d := BitVec.ofNat 128 (h.1 * 65536 + l.1), fp := l.2 ||| h.2 }

/-- Operations of one and of two sources on FP32, and on each half of a pair. -/
def f32bin (g : Warp → Nat → Nat → FOut) (x : Src) : Res := fres (g x.w (lo32 x.a).toNat (lo32 x.b).toNat)
def pairbin (g : Warp → Nat → Nat → FOut) (x : Src) : Res :=
  fpair (g x.w (loHalf (lo32 x.a)) (loHalf (lo32 x.b))) (g x.w (hiHalf (lo32 x.a)) (hiHalf (lo32 x.b)))
def f32fma (form : Nat) (x : Src) : Res := fres (ffma fp32 form x.w (lo32 x.a).toNat (lo32 x.b).toNat (lo32 x.d).toNat)
def pairfma (f : Fmt) (form : Nat) (x : Src) : Res :=
  fpair (ffma f form x.w (loHalf (lo32 x.a)) (loHalf (lo32 x.b)) (loHalf (lo32 x.d)))
    (ffma f form x.w (hiHalf (lo32 x.a)) (hiHalf (lo32 x.b)) (hiHalf (lo32 x.d)))
def f32un (g : Warp → Nat → FOut) (x : Src) : Res := fres (g x.w (lo32 x.a).toNat)

/-- `FCMP` (R136): the condition COND on two patterns, and its flags. -/
def fcmpOf (f : Fmt) (cond : Nat) (w : Warp) (a b : Nat) : Bool × BitVec 6 :=
  let x := unpack f (dazOf w) a
  let y := unpack f (dazOf w) b
  let un := x.isNan || y.isNan
  let snan := x.isSnan || y.isSnan
  let c := fvCmp x y
  let nv : BitVec 6 := if snan || (un && decide (2 ≤ cond) && decide (cond ≤ 5)) then fpNV else 0
  (match cond with
   | 0 => !un && decide (c = 0)
   | 1 => un || decide (c ≠ 0)
   | 2 => !un && decide (c < 0)
   | 3 => !un && decide (c ≤ 0)
   | 4 => !un && decide (0 < c)
   | 5 => !un && decide (0 ≤ c)
   | 6 => un
   | _ => !un, nv)

/-- The result of `FCMP` from its selector. -/
def fcmpRes (f : Fmt) (d : BitVec 7) (x : Src) : Res :=
  let pick (v : Word) : Nat := if f = fp32 then v.toNat else if d.getLsbD 6 then hiHalf v else loHalf v
  let (v, fl) := fcmpOf f (d.extractLsb' 3 3).toNat x.w (pick (lo32 x.a)) (pick (lo32 x.b))
  { preds := [((d.extractLsb' 0 3).toNat, v)], fp := fl }

/-- The class bit of a pattern as stored (R137). -/
def fclassOf (f : Fmt) (a : Nat) : Nat :=
  let sub := decide (a / 2 ^ f.mb % 2 ^ f.eb = 0)
  match unpack f false a with
  | .nan _ q _ _ => if q then 2 ^ 9 else 2 ^ 8
  | .inf n => if n then 1 else 2 ^ 7
  | .fin n m _ =>
    if m = 0 then (if n then 2 ^ 3 else 2 ^ 4)
    else if sub then (if n then 2 ^ 2 else 2 ^ 5)
    else (if n then 2 ^ 1 else 2 ^ 6)

def fclassPair (f : Fmt) (x : Src) : Res :=
  { d := BitVec.ofNat 128 (fclassOf f (hiHalf (lo32 x.a)) * 65536 + fclassOf f (loHalf (lo32 x.a))) }

/-! ### Division and transcendentals -/

/-- One source: a NaN first, then the function's own value. -/
def with1 (f : Fmt) (rm : RMode) (ftz : Bool) (v : FVal) (g : FVal → FOut) : FOut :=
  match nanOf [v] with
  | some e => finish f rm ftz e
  | none => g v

/-- The default NaN of an invalid operation. -/
def badFp (f : Fmt) : FOut := (defaultNan f, fpNV)

def fdivOf (w : Warp) (a b : Nat) : FOut :=
  let rm := rmOf w
  let ftz := ftzOf w
  let x := unpack fp32 (dazOf w) a
  let y := unpack fp32 (dazOf w) b
  finish fp32 rm ftz (with2 (fun x y => match x, y with
    | .inf _, .inf _ => invalid
    | .inf n, y => { v := .inf (n.xor y.neg) }
    | x, .inf n => { v := .zero (x.neg.xor n) }
    | .fin n1 m1 e1, .fin n2 m2 e2 =>
      if m2 = 0 then (if m1 = 0 then invalid else { v := .inf (n1.xor n2), fl := fpDZ })
      else if m1 = 0 then { v := .zero (n1.xor n2) }
      else exactDiv (n1.xor n2) m1 e1 m2 e2
    | _, _ => invalid) x y)

/-- The pattern of 1.0. -/
def oneF32 : Nat := 0x3F800000

def frcpOf (w : Warp) (a : Nat) : FOut :=
  let x := unpack fp32 (dazOf w) a
  finish fp32 (rmOf w) (ftzOf w) ((nanOf [x]).getD (match x with
    | .inf n => { v := .zero n }
    | .fin n m e => if m = 0 then { v := .inf n, fl := fpDZ } else exactDiv n 1 0 m e
    | _ => invalid))

def frsqOf (w : Warp) (a : Nat) : FOut :=
  let x := unpack fp32 (dazOf w) a
  finish fp32 (rmOf w) (ftzOf w) ((nanOf [x]).getD (match x with
    | .inf n => if n then invalid else { v := .zero false }
    | .fin n m e => if m = 0 then { v := .inf n, fl := fpDZ } else if n then invalid else exactRsqrt m e
    | _ => invalid))

def fsqrtOf (w : Warp) (a : Nat) : FOut :=
  let x := unpack fp32 (dazOf w) a
  finish fp32 (rmOf w) (ftzOf w) ((nanOf [x]).getD (match x with
    | .inf n => if n then invalid else { v := .inf false }
    | .fin n m e => if m = 0 then { v := .zero n } else if n then invalid else exactSqrt m e
    | _ => invalid))

def fex2Of (w : Warp) (a : Nat) : FOut :=
  with1 fp32 (rmOf w) (ftzOf w) (unpack fp32 (dazOf w) a) fun v => match v with
    | .inf n => if n then (0, 0) else (infMag fp32, 0)
    | .fin n m e => if m = 0 then (oneF32, 0) else fex2Fin (rmOf w) (ftzOf w) n m e
    | _ => badFp fp32

def flg2Of (w : Warp) (a : Nat) : FOut :=
  with1 fp32 (rmOf w) (ftzOf w) (unpack fp32 (dazOf w) a) fun v => match v with
    | .inf n => if n then badFp fp32 else (infMag fp32, 0)
    | .fin n m e =>
      if m = 0 then (signBit fp32 true + infMag fp32, fpDZ) else if n then badFp fp32 else flg2Fin (rmOf w) (ftzOf w) m e
    | _ => badFp fp32

def fsinOf (w : Warp) (a : Nat) : FOut :=
  with1 fp32 (rmOf w) (ftzOf w) (unpack fp32 (dazOf w) a) fun v => match v with
    | .fin n m e => if m = 0 then (signBit fp32 n, 0) else fsinFin (rmOf w) (ftzOf w) n m e
    | _ => badFp fp32

def fcosOf (w : Warp) (a : Nat) : FOut :=
  with1 fp32 (rmOf w) (ftzOf w) (unpack fp32 (dazOf w) a) fun v => match v with
    | .fin _ m e => if m = 0 then (oneF32, 0) else fcosFin (rmOf w) (ftzOf w) m e
    | _ => badFp fp32

/-- `FRINT` (R140): an integral value in the mnemonic's mode, zero with a's sign, no NX. -/
def frintOf (rm : RMode) (w : Warp) (a : Nat) : FOut :=
  with1 fp32 rm false (unpack fp32 (dazOf w) a) fun v => match v with
    | .inf n => (signBit fp32 n + infMag fp32, 0)
    | .fin n m e =>
      let k := if 0 ≤ e then m * 2 ^ e.toNat else (roundToInt rm n m e).1
      deliver fp32 rm false (.fin n k 0) false
    | _ => badFp fp32

/-! ### FP64 (R142) -/

def d64bin (op : RMode → FVal → FVal → Exact) (x : Src) : Res :=
  fres (fbin fp64 op x.w (lo64 x.a).toNat (lo64 x.b).toNat)

/-! ### The meanings -/

def execFaddF32 (p : BitVec 3) (d a b : BitVec 7) (s : State) : Out :=
  regOp (.faddF32 p d a b) (f32bin (fbin fp32 addOp)) s
def execFsubF32 (p : BitVec 3) (d a b : BitVec 7) (s : State) : Out :=
  regOp (.fsubF32 p d a b) (f32bin (fbin fp32 subOp)) s
def execFmulF32 (p : BitVec 3) (d a b : BitVec 7) (s : State) : Out :=
  regOp (.fmulF32 p d a b) (f32bin (fbin fp32 mulOp)) s
def execFminF32 (p : BitVec 3) (d a b : BitVec 7) (s : State) : Out :=
  regOp (.fminF32 p d a b) (f32bin (fminmax fp32 minOp)) s
def execFmaF32D0 (p : BitVec 3) (d a b : BitVec 7) (s : State) : Out :=
  regOp (.fmaF32D0 p d a b) (f32fma 0) s
def execFmaF32D1 (p : BitVec 3) (d a b : BitVec 7) (s : State) : Out :=
  regOp (.fmaF32D1 p d a b) (f32fma 1) s
def execFmaF32D2 (p : BitVec 3) (d a b : BitVec 7) (s : State) : Out :=
  regOp (.fmaF32D2 p d a b) (f32fma 2) s
def execFmaF32D3 (p : BitVec 3) (d a b : BitVec 7) (s : State) : Out :=
  regOp (.fmaF32D3 p d a b) (f32fma 3) s
def execFmaxF32 (p : BitVec 3) (d a b : BitVec 7) (s : State) : Out :=
  regOp (.fmaxF32 p d a b) (f32bin (fminmax fp32 maxOp)) s
def execFcmpF32 (p : BitVec 3) (d a b : BitVec 7) (s : State) : Out :=
  regOp (.fcmpF32 p d a b) (fcmpRes fp32 d) s
def execFclassF32 (p : BitVec 3) (d a : BitVec 7) (s : State) : Out :=
  regOp (.fclassF32 p d a) (fun x => { d := BitVec.ofNat 128 (fclassOf fp32 (lo32 x.a).toNat) }) s
def execFaddF16 (p : BitVec 3) (d a b : BitVec 7) (s : State) : Out :=
  regOp (.faddF16 p d a b) (pairbin (fbin fp16 addOp)) s
def execFsubF16 (p : BitVec 3) (d a b : BitVec 7) (s : State) : Out :=
  regOp (.fsubF16 p d a b) (pairbin (fbin fp16 subOp)) s
def execFmulF16 (p : BitVec 3) (d a b : BitVec 7) (s : State) : Out :=
  regOp (.fmulF16 p d a b) (pairbin (fbin fp16 mulOp)) s
def execFminF16 (p : BitVec 3) (d a b : BitVec 7) (s : State) : Out :=
  regOp (.fminF16 p d a b) (pairbin (fminmax fp16 minOp)) s
def execFmaF16D0 (p : BitVec 3) (d a b : BitVec 7) (s : State) : Out :=
  regOp (.fmaF16D0 p d a b) (pairfma fp16 0) s
def execFmaF16D1 (p : BitVec 3) (d a b : BitVec 7) (s : State) : Out :=
  regOp (.fmaF16D1 p d a b) (pairfma fp16 1) s
def execFmaF16D2 (p : BitVec 3) (d a b : BitVec 7) (s : State) : Out :=
  regOp (.fmaF16D2 p d a b) (pairfma fp16 2) s
def execFmaF16D3 (p : BitVec 3) (d a b : BitVec 7) (s : State) : Out :=
  regOp (.fmaF16D3 p d a b) (pairfma fp16 3) s
def execFmaxF16 (p : BitVec 3) (d a b : BitVec 7) (s : State) : Out :=
  regOp (.fmaxF16 p d a b) (pairbin (fminmax fp16 maxOp)) s
def execFcmpF16 (p : BitVec 3) (d a b : BitVec 7) (s : State) : Out :=
  regOp (.fcmpF16 p d a b) (fcmpRes fp16 d) s
def execFclassF16 (p : BitVec 3) (d a : BitVec 7) (s : State) : Out :=
  regOp (.fclassF16 p d a) (fclassPair fp16) s
def execFaddBf16 (p : BitVec 3) (d a b : BitVec 7) (s : State) : Out :=
  regOp (.faddBf16 p d a b) (pairbin (fbin bf16 addOp)) s
def execFsubBf16 (p : BitVec 3) (d a b : BitVec 7) (s : State) : Out :=
  regOp (.fsubBf16 p d a b) (pairbin (fbin bf16 subOp)) s
def execFmulBf16 (p : BitVec 3) (d a b : BitVec 7) (s : State) : Out :=
  regOp (.fmulBf16 p d a b) (pairbin (fbin bf16 mulOp)) s
def execFminBf16 (p : BitVec 3) (d a b : BitVec 7) (s : State) : Out :=
  regOp (.fminBf16 p d a b) (pairbin (fminmax bf16 minOp)) s
def execFmaBf16D0 (p : BitVec 3) (d a b : BitVec 7) (s : State) : Out :=
  regOp (.fmaBf16D0 p d a b) (pairfma bf16 0) s
def execFmaBf16D1 (p : BitVec 3) (d a b : BitVec 7) (s : State) : Out :=
  regOp (.fmaBf16D1 p d a b) (pairfma bf16 1) s
def execFmaBf16D2 (p : BitVec 3) (d a b : BitVec 7) (s : State) : Out :=
  regOp (.fmaBf16D2 p d a b) (pairfma bf16 2) s
def execFmaBf16D3 (p : BitVec 3) (d a b : BitVec 7) (s : State) : Out :=
  regOp (.fmaBf16D3 p d a b) (pairfma bf16 3) s
def execFmaxBf16 (p : BitVec 3) (d a b : BitVec 7) (s : State) : Out :=
  regOp (.fmaxBf16 p d a b) (pairbin (fminmax bf16 maxOp)) s
def execFcmpBf16 (p : BitVec 3) (d a b : BitVec 7) (s : State) : Out :=
  regOp (.fcmpBf16 p d a b) (fcmpRes bf16 d) s
def execFclassBf16 (p : BitVec 3) (d a : BitVec 7) (s : State) : Out :=
  regOp (.fclassBf16 p d a) (fclassPair bf16) s
def execFrcp (p : BitVec 3) (d a : BitVec 7) (s : State) : Out :=
  regOp (.frcp p d a) (f32un frcpOf) s
def execFrsq (p : BitVec 3) (d a : BitVec 7) (s : State) : Out :=
  regOp (.frsq p d a) (f32un frsqOf) s
def execFsqrt (p : BitVec 3) (d a : BitVec 7) (s : State) : Out :=
  regOp (.fsqrt p d a) (f32un fsqrtOf) s
def execFex2 (p : BitVec 3) (d a : BitVec 7) (s : State) : Out :=
  regOp (.fex2 p d a) (f32un fex2Of) s
def execFlg2 (p : BitVec 3) (d a : BitVec 7) (s : State) : Out :=
  regOp (.flg2 p d a) (f32un flg2Of) s
def execFsin (p : BitVec 3) (d a : BitVec 7) (s : State) : Out :=
  regOp (.fsin p d a) (f32un fsinOf) s
def execFcos (p : BitVec 3) (d a : BitVec 7) (s : State) : Out :=
  regOp (.fcos p d a) (f32un fcosOf) s
def execFdiv (p : BitVec 3) (d a b : BitVec 7) (s : State) : Out :=
  regOp (.fdiv p d a b) (f32bin fdivOf) s
def execFrintRn (p : BitVec 3) (d a : BitVec 7) (s : State) : Out :=
  regOp (.frintRn p d a) (f32un (frintOf .near)) s
def execFrintRz (p : BitVec 3) (d a : BitVec 7) (s : State) : Out :=
  regOp (.frintRz p d a) (f32un (frintOf .zero)) s
def execFrintRp (p : BitVec 3) (d a : BitVec 7) (s : State) : Out :=
  regOp (.frintRp p d a) (f32un (frintOf .up)) s
def execFrintRm (p : BitVec 3) (d a : BitVec 7) (s : State) : Out :=
  regOp (.frintRm p d a) (f32un (frintOf .down)) s
def execDadd (p : BitVec 3) (d a b : BitVec 7) (s : State) : Out :=
  regOp (.dadd p d a b) (d64bin addOp) s
def execDmul (p : BitVec 3) (d a b : BitVec 7) (s : State) : Out :=
  regOp (.dmul p d a b) (d64bin mulOp) s
def execDfma (p : BitVec 3) (d a b : BitVec 7) (s : State) : Out :=
  regOp (.dfma p d a b) (fun x => fres (ffma fp64 0 x.w (lo64 x.a).toNat (lo64 x.b).toNat (lo64 x.d).toNat)) s
/-- `MOVF` (R70): F20 × 2^12 in every member, unguarded. -/
def execMovf (d : BitVec 7) (f : BitVec 20) (s : State) : Out :=
  regOp (.movf d f) (fun _ => res32 (f ++ 0#12)) s

end Sys2Proof.Machine
end

