-- ==== Sys2Proof/Machine/Convert.lean ====
section
/-! DEFINITION. Conversions: FP64 and integers (R143, R144), `CVT` (R145, R146), narrow formats (R147 to R149), block scales
(R150, R151) and structured sparsity (R152, R153). -/

namespace Sys2Proof.Machine

/-! ### FP64 (R143) -/

/-- A pattern of one format delivered into another. -/
def fconv (src dst : Fmt) (rm : RMode) (w : Warp) (a : Nat) : FOut :=
  deliver dst rm (ftzOf w) (unpack src (dazOf w) a) false
/-- A pattern converted to an integer of the range lo to hi. -/
def ftoint (src : Fmt) (rm : RMode) (lo hi : Int) (w : Warp) (a : Nat) : Int × BitVec 6 :=
  toIntVal rm lo hi (unpack src (dazOf w) a)

def execDcvtF64F32 (p : BitVec 3) (d a : BitVec 7) (s : State) : Out :=
  regOp (.dcvtF64F32 p d a) (fun x => fres (fconv fp32 fp64 (rmOf x.w) x.w (lo32 x.a).toNat)) s
def execDcvtF32F64 (p : BitVec 3) (d a : BitVec 7) (s : State) : Out :=
  regOp (.dcvtF32F64 p d a) (fun x => fres (fconv fp64 fp32 (rmOf x.w) x.w (lo64 x.a).toNat)) s
def execDcvtF64S64 (p : BitVec 3) (d a : BitVec 7) (s : State) : Out :=
  regOp (.dcvtF64S64 p d a) (fun x => fres (deliver fp64 (rmOf x.w) (ftzOf x.w) (ofIntVal (lo64 x.a).toInt) false)) s
def execDcvtS64F64 (p : BitVec 3) (d a : BitVec 7) (s : State) : Out :=
  regOp (.dcvtS64F64 p d a) (fun x =>
    let (v, fl) := ftoint fp64 (rmOf x.w) (-(2 ^ 63)) (2 ^ 63 - 1) x.w (lo64 x.a).toNat
    { d := (BitVec.ofInt 64 v).setWidth 128, fp := fl }) s

/-! ### `CVT` (R145, R146) -/

/-- The format of a type code; integers have none. -/
def cvtFmt : Nat → Option Fmt
  | 0 => some fp32
  | 1 => some fp16
  | 2 => some bf16
  | _ => none

/-- The conversion of a source of `CVT`: a pattern of the destination type, and flags. -/
def cvtOf (rm : RMode) (src dst : Nat) (hi : Bool) (w : Warp) (a : Word) : FOut :=
  let v : Nat := if src = 1 ∨ src = 2 then (if hi then hiHalf a else loHalf a) else a.toNat
  match cvtFmt src, cvtFmt dst with
  | some f, some g => fconv f g rm w v
  | some f, none =>
    let (i, fl) := if dst = 3 then ftoint f rm (-(2 ^ 31)) (2 ^ 31 - 1) w v else ftoint f rm 0 (2 ^ 32 - 1) w v
    ((BitVec.ofInt 32 i).toNat, fl)
  | none, some g => deliver g rm (ftzOf w) (ofIntVal (if src = 3 then a.toInt else a.toNat)) false
  | none, none => (0, 0)

/-- D of `CVT`: a 16-bit result takes the half that HI selects (R146). -/
def cvtRes (rm : RMode) (b : BitVec 7) (x : Src) : Res :=
  let dst := (b.extractLsb' 1 3).toNat
  let hi := b.getLsbD 0
  let (v, fl) := cvtOf rm (b.extractLsb' 4 3).toNat dst hi x.w (lo32 x.a)
  let d := (lo32 x.d).toNat
  let r := if dst = 1 ∨ dst = 2 then (if hi then d % 65536 + v * 65536 else d / 65536 * 65536 + v) else v
  { d := BitVec.ofNat 128 r, fp := fl }

def execCvtRn (p : BitVec 3) (d a b : BitVec 7) (s : State) : Out := regOp (.cvtRn p d a b) (cvtRes .near b) s
def execCvtRz (p : BitVec 3) (d a b : BitVec 7) (s : State) : Out := regOp (.cvtRz p d a b) (cvtRes .zero b) s
def execCvtRp (p : BitVec 3) (d a b : BitVec 7) (s : State) : Out := regOp (.cvtRp p d a b) (cvtRes .up b) s
def execCvtRm (p : BitVec 3) (d a b : BitVec 7) (s : State) : Out := regOp (.cvtRm p d a b) (cvtRes .down b) s

/-! ### Narrow formats (R147 to R149) -/

/-- `NFMT`k of a warp. -/
def nfmtOf (w : Warp) (k : Nat) : BitVec 16 := bmGet w.nfmt k

/-- Width of an element's field in a word: 4 bits, or a byte. -/
def fieldBits (d : BitVec 16) : Nat := if ndWidth d = 4 then 4 else 8

/-- SHAPE: the format is unset, or the position lies past the word (R147, R149). -/
def narrowFail (w : Warp) (k pos : Nat) : Option Fail :=
  if nfmtOf w k = 0 ∨ (ndWidth (nfmtOf w k) ≠ 4 ∧ 4 ≤ pos) then
    some { order := 1, cause := .shape, info := w.shape.toNat } else none

/-- A field of a word replaced. -/
def putField (d : Word) (pos n v : Nat) : Word :=
  let m : Word := BitVec.ofNat 32 ((2 ^ n - 1) * 2 ^ (n * pos))
  (d &&& ~~~m) ||| BitVec.ofNat 32 (v * 2 ^ (n * pos))

/-- ACC_UNALLOC: the generator bank is not held by the member's workgroup. -/
def cvtnFail (b : BitVec 7) (k : BitVec 2) (s : State) (m : Member) (x : Src) : Option Fail :=
  match narrowFail x.w k.toNat (b.extractLsb' 3 3).toNat with
  | some f => some f
  | none =>
    if b.getLsbD 6 && (match tblGet? (wgOfWarp s m.warp).banks (b.extractLsb' 0 3).toNat with | some k => k.freed | none => true) then
      some { order := 2, cause := .accUnalloc }
    else none

/-- The generator word of a column, and the state after one step of it (R148). -/
def stepGen (s : State) (g b col : Nat) : Word × State :=
  let x := genStep (bmGet (tblGet (wgOf s g).banks b).gens col)
  (x, updWg s g fun w => { w with banks := tblUpd w.banks b fun k => { k with gens := bmSet k.gens col x } })

/-- One member of `CVTN`: its result, stepping its generator word when SR is set. -/
def cvtnOne (b : BitVec 7) (k : BitVec 2) (acc : State × List (Member × Res)) (e : Member × Src) : State × List (Member × Res) :=
  let s := acc.1
  let nd := nfmtOf e.2.w k.toNat
  let v := unpack fp32 (dazOf e.2.w) (lo32 e.2.a).toNat
  let (rm, s1) :=
    if b.getLsbD 6 then
      let (r, s1) := stepGen s (warpOf s e.1.warp).wg (b.extractLsb' 0 3).toNat e.1.lane
      (RMode.sr r, s1)
    else (rmOf e.2.w, s)
  let (bits, fl) := deliver (ndFmt nd) rm (ftzOf e.2.w) v false
  (s1, acc.2 ++ [(e.1, { d := (putField (lo32 e.2.d) (b.extractLsb' 3 3).toNat (fieldBits nd) bits).setWidth 128, fp := fl })])

/-- `CVTN` (R147, R148). A helper steps its generator word as any member does; one whose check fails performs nothing (R15). -/
def execCvtn (p : BitVec 3) (d a b : BitVec 7) (k : BitVec 2) (s : State) : Out :=
  groupOp (.cvtn p d a b k) .own noWait (cvtnFail b k)
    (fun s0 _ l =>
      let (s1, rs) := (performers s (cvtnFail b k) l).foldl (cvtnOne b k) (s0, [])
      (applyRes s1 (shapeOf (.cvtn p d a b k)) rs, fpTraps s1 (rs.map fun e => (e.1, e.2.fp)))) s

/-- Position of `CVTW` (R149). -/
def cvtwPos (x : Src) : Nat := ((lo32 x.b).extractLsb' 0 3).toNat
/-- The element widened to FP32. -/
def cvtwOf (k : Nat) (x : Src) : Res :=
  let nd := nfmtOf x.w k
  let e := (lo32 x.a).toNat / 2 ^ (fieldBits nd * cvtwPos x) % 2 ^ ndWidth nd
  fres (deliver fp32 (rmOf x.w) (ftzOf x.w) (unpack (ndFmt nd) (dazOf x.w) e) false)

def execCvtw (p : BitVec 3) (d a b : BitVec 7) (k : BitVec 2) (s : State) : Out :=
  regOpF (.cvtw p d a b k) (fun _ _ x => narrowFail x.w k.toNat (cvtwPos x)) (cvtwOf k.toNat) s

/-! ### Block scales (R150, R151) -/

/-- A value times a power of two. -/
def scale2 (v : FVal) (k : Int) : FVal :=
  match v with
  | .fin n m e => .fin n m (e + k)
  | v => v
/-- The magnitude of a value. -/
def fabs (v : FVal) : FVal :=
  match v with
  | .nan _ q p w => .nan false q p w
  | .inf _ => .inf false
  | .fin _ m e => .fin false m e

/-- The smallest c, from c on, with |a| × 2^(127 − c) ≤ b; 254 if none. -/
def e8From (a b : FVal) : Nat → Nat → Nat
  | 0, _ => 254
  | n + 1, c => if fvCmp (scale2 (fabs a) (127 - c)) b ≤ 0 then c else e8From a b n (c + 1)

/-- `BSEXT` (R150). -/
def bsextOf (w : Warp) (a b : Nat) : FOut :=
  let x := unpack fp32 (dazOf w) a
  let y := unpack fp32 (dazOf w) b
  if y.isNan || decide (fvCmp y (.zero false) ≤ 0) then (0xFF, fpNV)
  else if x.isNan then (0xFF, if x.isSnan then fpNV else 0)
  else if x.isInf then (0xFE, 0)
  else (e8From x y 255 0, 0)

/-- `BSAPP` (R151): the scale in b[7:0], its direction in b[8]. -/
def bsappOf (x : Src) : Res :=
  let c : Int := ((lo32 x.b).extractLsb' 0 8).toNat
  let k : Int := if (lo32 x.b).getLsbD 8 then 127 - c else c - 127
  if c = 255 then fres (defaultNan fp32, 0)
  else fres (deliver fp32 (rmOf x.w) (ftzOf x.w) (scale2 (unpack fp32 (dazOf x.w) (lo32 x.a).toNat) k) false)

def execBsext (p : BitVec 3) (d a b : BitVec 7) (s : State) : Out := regOp (.bsext p d a b) (f32bin bsextOf) s
def execBsapp (p : BitVec 3) (d a b : BitVec 7) (s : State) : Out := regOp (.bsapp p d a b) bsappOf s

/-! ### Structured sparsity (R152, R153) -/

/-- Element i of a 64-bit pair, and the number of elements that rank above it. -/
def elem16 (a : Pair) (i : Nat) : Nat := a.toNat / 2 ^ (16 * i) % 65536
def rankOf (a : Pair) (i : Nat) : Nat :=
  ((List.range 4).filter fun j => decide (j ≠ i) &&
    (decide (elem16 a i % 32768 < elem16 a j % 32768) || (elem16 a i % 32768 == elem16 a j % 32768 && decide (j < i)))).length

/-- `COMPRESS` (R152). -/
def compressOf (a : Pair) : Pair :=
  match (List.range 4).filter fun i => decide (rankOf a i < 2) with
  | [lo, hi] => BitVec.ofNat 64 (elem16 a hi * 65536 + elem16 a lo + (hi * 4 + lo) * 2 ^ 32)
  | _ => 0

/-- `EXPAND` (R153). -/
def expandOf (a b : Word) : Pair :=
  let i := (b.extractLsb' 0 2).toNat
  let j := (b.extractLsb' 2 2).toNat
  if i = j then BitVec.ofNat 64 (hiHalf a * 2 ^ (16 * j)) else BitVec.ofNat 64 (loHalf a * 2 ^ (16 * i) + hiHalf a * 2 ^ (16 * j))

def execCompress (p : BitVec 3) (d a : BitVec 7) (s : State) : Out :=
  regOp (.compress p d a) (fun x => res64 (compressOf (lo64 x.a))) s
def execExpand (p : BitVec 3) (d a b : BitVec 7) (s : State) : Out :=
  regOp (.expand p d a b) (fun x => res64 (expandOf (lo32 x.a) (lo32 x.b))) s

end Sys2Proof.Machine
end

