-- ==== Sys2Proof/Machine/Tensor.lean ====
section
/-! DEFINITION. Tensor records and the Gazetteer: layout (R110), element formats (R111), element addresses (R113), bounds
behaviour (R115), and the reading of a record (R114, R116). -/

namespace Sys2Proof.Machine

/-- A record of the Gazetteer as 256 bits (R110). -/
abbrev TRec := BitVec 256

def trBase (r : TRec) : Nat := (r.extractLsb' 0 57).toNat
def trExt0 (r : TRec) : Nat := (r.extractLsb' 64 32).toNat
def trExt1 (r : TRec) : Nat := (r.extractLsb' 96 32).toNat
def trStride (r : TRec) : Nat := (r.extractLsb' 128 48).toNat
def trElem (r : TRec) : Nat := (r.extractLsb' 176 8).toNat
def trBound (r : TRec) : Nat := (r.extractLsb' 184 2).toNat
def trScMode (r : TRec) : Nat := (r.extractLsb' 186 3).toNat
def trNdesc (r : TRec) : BitVec 16 := r.extractLsb' 192 16
def trScaleOff (r : TRec) : Int := (r.extractLsb' 208 48).toInt

/-- A 57-bit address sign-extended from bit 56 to 64 bits (R113). -/
def sext57 (a : Nat) : Nat := if a / 2 ^ 56 % 2 = 1 then a % 2 ^ 57 + (2 ^ 64 - 2 ^ 57) else a % 2 ^ 57

/-- Bits that one element takes in memory (R111). -/
def trEbits (r : TRec) : Nat :=
  match trElem r with
  | 0x01 => 8
  | 0x02 => 16
  | 0x03 => 32
  | 0x04 => 64
  | 0x10 => 16
  | 0x11 => 16
  | 0x12 => 32
  | 0x13 => 64
  | _ => if ndWidth (trNdesc r) = 4 then 4 else 8

/-- A number modulo 2^64. -/
def mod64 (v : Int) : Nat := (v % 2 ^ 64).toNat

/-- Byte address of element (x, y) (R113). -/
def elemAddr (r : TRec) (x y : Int) : Nat :=
  mod64 ((sext57 (trBase r) : Int) + y * trStride r + x * trEbits r / 8)

/-- Bytes that one element's access moves. -/
def elemBytes (r : TRec) : Nat := max (trEbits r / 8) 1

/-- The element lies in the record (R115). -/
def inExtent (r : TRec) (x y : Int) : Bool := decide (0 ≤ x) && decide (x < trExt0 r) && decide (0 ≤ y) && decide (y < trExt1 r)

/-- The element that stands for (x, y) under BOUND; none reads as zero and is dropped in a store (R115). -/
def boundElem (r : TRec) (x y : Int) : Option (Int × Int) :=
  if inExtent r x y then some (x, y)
  else if trExt0 r = 0 ∨ trExt1 r = 0 then none
  else match trBound r with
    | 2 => some (min (max x 0) (trExt0 r - 1), min (max y 0) (trExt1 r - 1))
    | 3 => some (x % trExt0 r, y % trExt1 r)
    | _ => none

/-- The record of a number as a member's instruction reads it; none above 4,095 and unbound (R114, R116). -/
def recOf? (s : State) (w n : Nat) : Option TRec :=
  if n > 4095 then none
  else
    let r := bmGet (partOf s (partOfWarp s w)).gaz n
    if trElem r = 0 then none else some r

/-- The record number of a selector field: bit 6 clear names it, bit 6 set names a uniform register that holds it (R93). -/
def recSel (w : Warp) (f : BitVec 7) : Nat :=
  if f.getLsbD 6 then (bmGet w.sr (f.extractLsb' 0 4).toNat).toNat else (f.extractLsb' 0 6).toNat

/-- RECORD_INVALID of a record number (R114). -/
def recInvalid (n : Nat) : Fail := { order := 11, cause := .recordInvalid, info := n }

/-! ### Block scales (R111) -/

/-- Block size of a record's scales, 0 without scales. -/
def scaleBlock (r : TRec) : Nat :=
  match trScMode r with
  | 1 => 16
  | 2 => 32
  | 3 => 16
  | 4 => 32
  | _ => 0

/-- Scale base (R110). -/
def scaleBase (r : TRec) : Nat := (((trBase r : Int) + 64 * trScaleOff r) % 2 ^ 57).toNat

/-- Address of the scale of element (x, y), the element actually read (R111). -/
def scaleAddr (r : TRec) (x y : Nat) : Nat :=
  let b := scaleBlock r
  (sext57 (scaleBase r) + y * ((trExt0 r + b - 1) / b) + x / b) % 2 ^ 64

/-! ### `IDX2` (R93) -/

/-- The byte offset of an element. -/
def idx2Val (r : TRec) (a : Val) : Pair :=
  let x := (a.extractLsb' 0 32).toInt
  let y := (a.extractLsb' 32 32).toInt
  let (x, y) := if trBound r ≥ 2 then (boundElem r x y).getD (x, y) else (x, y)
  BitVec.ofInt 64 (y * trStride r + x * trEbits r / 8)

def execIdx2 (p : BitVec 3) (d a b : BitVec 7) (s : State) : Out :=
  regOpG (.idx2 p d a b)
    (fun s m x => if (recOf? s m.warp (recSel x.w b)).isNone then some (recInvalid (recSel x.w b)) else none)
    (fun s m x => res64 (idx2Val ((recOf? s m.warp (recSel x.w b)).getD 0) x.a)) s

/-! ### Record reads of matrix and tile operations (R165, R168, R174) -/

/-- TYPE, k and n of a granted shape (R165). -/
def shType (w : Word) : Nat := (w.extractLsb' 24 2).toNat
def shK (w : Word) : Nat := (w.extractLsb' 16 8).toNat
def shN (w : Word) : Nat := (w.extractLsb' 8 8).toNat

/-- The elements that rows y to y + h − 1 of a window of n columns read, as they are accessed. -/
def winElems (r : TRec) (x y : Int) (n h : Nat) : List (Int × Int) :=
  (List.range h).flatMap fun (q : Nat) => (List.range n).filterMap fun (j : Nat) => boundElem r (x + j) (y + q)

/-- The accesses of some elements: addresses and sizes, scale bytes included when they apply. -/
def elemAccesses (r : TRec) (scaled : Bool) (l : List (Int × Int)) : List (Nat × Nat) :=
  l.flatMap fun e => (elemAddr r e.1 e.2, elemBytes r) ::
    (if scaled && decide (trScMode r ≠ 0) then [(scaleAddr r e.1.toNat e.2.toNat, 1)] else [])

/-- Coordinates of an operation's window (R168, R177). -/
def matX (o : MatOp) : Int := (o.bpair.extractLsb' 0 32).toInt
def matY (o : MatOp) : Int := (o.bpair.extractLsb' 32 32).toInt
/-- The accesses that a matrix or tile operation in progress has still to make through its record (R174). -/
def matAccesses (o : MatOp) : List (Nat × Nat) :=
  if o.kind = 0 then elemAccesses o.trec true (winElems o.trec (matX o) (matY o + 4 * o.g) (shN o.shape) (shK o.shape - 4 * o.g))
  else elemAccesses o.trec false (winElems o.trec (matX o) (matY o) (shK o.shape) 16)
/-- An operation of the warp, issued before an identifier, has still to read some of n bytes at a physical address through a record, and
no stop has ended its reads for now (R174, R344). -/
def recReads (s : State) (warp pa n id : Nat) : Bool :=
  !abandoning s warp && s.mats.any fun e => e.2.warp == warp && readsRec e.2 && decide (e.2.order < id) &&
    (matAccesses e.2).any fun x => overlaps (physOf (pageFor s ⟨e.2.members.headD 0, warp⟩ x.1) x.1) x.2 pa n

end Sys2Proof.Machine
end

