-- ==== Sys2Proof/Machine/PlainAccess.lean ====
section
/-! DEFINITION. The plain loads and stores of global memory, the scratchpad and the constant path (R100 to R108), and the
record-addressed accesses `LDR` and `STR` (R114, R115). -/

namespace Sys2Proof.Machine

/-! ### Shared parts -/

/-- A value from bytes, least significant first; the low word is the lowest-addressed one (R102). -/
def valOf (l : List Byte) : Val := BitVec.ofNat 128 (leNat l)
/-- The low n bytes of a value. -/
def bytesOf (v : Val) (n : Nat) : List Byte := leBytes n v.toNat

/-- Address of the forms with a signed byte offset b, and of the forms with an immediate (R100). -/
def addrB (x : Src) : Nat := (lo64 x.a + (lo32 x.b).signExtend 64).toNat
def addrI (i : BitVec 9) (x : Src) : Nat := (lo64 x.a + (i.signExtend 64 <<< 2)).toNat
/-- Offset of the scratchpad and constant forms (R100). -/
def addrS (x : Src) : Nat := (lo32 x.a + lo32 x.b).toNat

/-- An access to a package that no port reaches waits (R398). -/
def farHeld (s : State) (m : Member) (va : Nat) : Bool :=
  match translate s (partOfWarp s m.warp) va .load with
  | .ok e => !reaches s (coreOfWarp s m.warp / 1280) (physOf e va)
  | .error _ => false

/-- A later access of a thread waits behind its pending acquire (R283). -/
def laterWait (s : State) (m : Member) (_ : Src) : Option Wait := if acqHeld s m then some .acq else none

/-- The wait of a load of a member at a scope's point: behind its pending acquire (R283), behind its own atomic of the same bytes (R227),
for a package that no port reaches (R398), and for a locked line (R210). -/
def accessWait (s : State) (m : Member) (va n : Nat) (scope : Nat := 0) : Option Wait :=
  let pa := physOf (pageFor s m va) va
  if acqHeld s m then some .acq
  else if atomHeld s m pa n then some (.own pa n)
  else if farHeld s m va then some (.far va)
  else fillWait s m va n scope

/-- The first wait that holds a member of several accesses. -/
def firstWait (l : List (Option Wait)) : Option Wait := l.findSome? id

/-- A long-latency load of values into D: pending returns of each warp, values forwarded to and taken by replicas. -/
def loadReturn (s : State) (g : Group) (sh : Shape) (vals : List (Member × Val)) : State :=
  takeFwds (forwards (issueLong s g (vals.map (·.1)) fun w =>
    { writes := regWrites s sh.d w vals, load := true, part := partOfWarp s w }) vals) (vals.map (·.1))

/-- The value of a load: the leader's where the replica takes it, its own bytes otherwise. -/
def loadedVal (s : State) (m : Member) (own : Val) : Val := if takesForward s m then (fwdVal? s m).getD own else own

/-! ### Global memory -/

/-- A load of n bytes (R100 to R102). -/
def loadOp (i : Instr) (addr : Src → Nat) (n : Nat) (s : State) : Out :=
  groupOp i .fwd (fun s m x => accessWait s m (addr x) n) (fun s m x => globalFail s m (addr x) n .load)
    (fun s g l =>
      let vals := l.map fun e => (e.1, loadedVal s e.1 (valOf (readGlobal s e.1 (addr e.2) n)))
      let s1 := l.foldl (fun s' e =>
        if takesForward s e.1 then s'
        else keepLoad s (accessTrace s' e.1 (addr e.2) .load 0) e.1 (addr e.2) n) s
      (loadReturn s1 g (shapeOf i) vals, [])) s

/-- Bytes stored by one member, a 16-byte access as two halves (R104). -/
def storeHalves (s : State) (m : Member) (va : Nat) (data : List Byte) (ins : Nat := 0) : State :=
  if data.length > 8 then storeGlobal (storeGlobal s m va (data.take 8) ins) m (va + 8) (data.drop 8) ins
  else storeGlobal s m va data ins

/-- Entries that a write of n bytes of a member adds to its deterministic workgroup's log: one for each aligned 8 bytes of a shared
line, none for a helper (R269, R351). -/
def logUnits (s : State) (m : Member) (va n : Nat) : Nat :=
  if detShared s m.warp va && !(thrOf s m).helper then (va + n + 7) / 8 - va / 8 else 0

/-- Entries that the lower members of an instruction add before a member's own writes; members that wait add none. -/
def logBefore (s : State) (i : Instr) (units : Member → Src → Nat) (m : Member) : Nat :=
  match curGroup? s with
  | none => 0
  | some g =>
    let sh := shapeOf i
    (((active s g sh.p).takeWhile fun x => x != m).map fun x => if acqHeld s x then 0 else units x (srcOf s g sh x)).sum

/-- Writes of a member that need more room in its deterministic workgroup's log than the writes before them have left (R271). -/
def logFail (s : State) (m : Member) (va before units : Nat) : Option Fail :=
  if units ≠ 0 ∧ logRoom s m.warp (before + units) = false then some { order := 38, cause := .bounds, addr := va } else none

/-- The checks of a store of n bytes; `before` counts the log entries of the members before it. -/
def storeFail (s : State) (m : Member) (va n before : Nat) : Option Fail :=
  match globalFail s m va n .store with
  | some f => some f
  | none => logFail s m va before (logUnits s m va n)

/-- A store of n bytes, in ascending lane order (R100, R103). -/
def storeOp (i : Instr) (addr : Src → Nat) (n : Nat) (s : State) : Out :=
  groupOp i (.hold ((n + 7) / 8)) laterWait
    (fun s m x => storeFail s m (addr x) n (logBefore s i (fun y z => logUnits s y (addr z) n) m))
    (fun s _ l =>
      (l.foldl (fun s' e => storeHalves (accessTrace s' e.1 (addr e.2) .store 0) e.1 (addr e.2) (bytesOf e.2.d n) s.nextId) s, [])) s

def execLdB32 (p : BitVec 3) (d a : BitVec 7) (i : BitVec 9) (s : State) : Out := loadOp (.ldB32 p d a i) (addrI i) 4 s
def execStB32 (p : BitVec 3) (d a : BitVec 7) (i : BitVec 9) (s : State) : Out := storeOp (.stB32 p d a i) (addrI i) 4 s
def execLdB64 (p : BitVec 3) (d a b : BitVec 7) (s : State) : Out := loadOp (.ldB64 p d a b) addrB 8 s
def execStB64 (p : BitVec 3) (d a b : BitVec 7) (s : State) : Out := storeOp (.stB64 p d a b) addrB 8 s
def execLdB128 (p : BitVec 3) (d a b : BitVec 7) (s : State) : Out := loadOp (.ldB128 p d a b) addrB 16 s
def execStB128 (p : BitVec 3) (d a b : BitVec 7) (s : State) : Out := storeOp (.stB128 p d a b) addrB 16 s
def execLdB8 (p : BitVec 3) (d a b : BitVec 7) (s : State) : Out := loadOp (.ldB8 p d a b) addrB 1 s
def execLdB16 (p : BitVec 3) (d a b : BitVec 7) (s : State) : Out := loadOp (.ldB16 p d a b) addrB 2 s
def execStB8 (p : BitVec 3) (d a b : BitVec 7) (s : State) : Out := storeOp (.stB8 p d a b) addrB 1 s
def execStB16 (p : BitVec 3) (d a b : BitVec 7) (s : State) : Out := storeOp (.stB16 p d a b) addrB 2 s

/-- Loads of 8 bytes that a member makes of a block, as plain loads (R101, R102): their traces, and their copies. -/
def blockTraces (s0 : State) (m : Member) (vas : List Nat) (kind : Nat) (s : State) : State :=
  vas.foldl (fun s va => keepLoad s0 (accessTrace s m va .load kind) m va 8) s
/-- The wait of a member that loads a block. -/
def blockWait (s : State) (m : Member) (vas : List Nat) : Option Wait := firstWait (vas.map fun va => accessWait s m va 8)

/-! ### The scratchpad (R100, R101, R103, R105) -/

/-- Checks 1 and 2 of a scratchpad access of n bytes. -/
def scrFail (s : State) (m : Member) (off n : Nat) : Option Fail :=
  if off % n ≠ 0 then some { order := 21, cause := .misaligned, addr := off }
  else if (khdrOfWarp s m.warp).scratch < off + n then some { order := 22, cause := .bounds, addr := off }
  else none

/-- A scratchpad read meets a poisoned sector of its local store (R101 check 7, R382). -/
def scrPoisoned (s : State) (m : Member) (off n : Nat) : Bool :=
  let g := wgOfWarp s m.warp
  match lsPhys g (g.scrBank + off / 4096) with
  | some b => !s.poison.isEmpty && poisoned s (lsAddr (coreOfWarp s m.warp) b (off % 4096)) n
  | none => false

/-- The checks of a scratchpad load. -/
def scrLoadFail (s : State) (m : Member) (off n : Nat) : Option Fail :=
  match scrFail s m off n with
  | some f => some f
  | none => if scrPoisoned s m off n then some { order := 27, cause := .memPoison, addr := off } else none

/-- Bytes that a scratchpad load delivers; a helper's load that would fail reads zeros (R15). -/
def scrRead (s : State) (m : Member) (off n : Nat) : Val :=
  if (scrLoadFail s m off n).isSome then 0 else valOf (readScr s m.warp off n)

def ldsOp (i : Instr) (n : Nat) (s : State) : Out :=
  groupOp i .own laterWait (fun s m x => scrLoadFail s m (addrS x) n)
    (fun s g l =>
      let vals := l.map fun e => (e.1, scrRead s e.1 (addrS e.2) n)
      (issueLong s g (vals.map (·.1)) fun w =>
        { writes := regWrites s (shapeOf i).d w vals, load := true, part := partOfWarp s w }, [])) s

def stsOp (i : Instr) (n : Nat) (s : State) : Out :=
  groupOp i .own laterWait (fun s m x => scrFail s m (addrS x) n)
    (fun s _ l => (l.foldl (fun s' e => storeScr s' e.1 (addrS e.2) (bytesOf e.2.d n) s.nextId) s, [])) s

def execLdsB32 (p : BitVec 3) (d a b : BitVec 7) (s : State) : Out := ldsOp (.ldsB32 p d a b) 4 s
def execStsB32 (p : BitVec 3) (d a b : BitVec 7) (s : State) : Out := stsOp (.stsB32 p d a b) 4 s
def execLdsB64 (p : BitVec 3) (d a b : BitVec 7) (s : State) : Out := ldsOp (.ldsB64 p d a b) 8 s
def execStsB64 (p : BitVec 3) (d a b : BitVec 7) (s : State) : Out := stsOp (.stsB64 p d a b) 8 s

/-! ### The constant path (R106) -/

/-- The checks of a constant load of n bytes at an offset. -/
def ldcFail (s : State) (m : Member) (off n : Nat) : Option Fail :=
  let va := (wgOfWarp s m.warp).cbase + off
  if off % n ≠ 0 then some { order := 21, cause := .misaligned, addr := va }
  else if 65536 < off + n then some { order := 22, cause := .bounds, addr := va }
  else if takesForward s m then none
  else match constRead s m off n with
    | .fault o c => some { order := 20 + o, sub := pageCheck s (partOfWarp s m.warp) va .load, cause := c, addr := va }
    | _ => none

/-- Bytes that a constant load delivers: zeros when denied, or for a helper whose load would fail. -/
def ldcBytes (s : State) (m : Member) (off n : Nat) : List Byte :=
  if (ldcFail s m off n).isSome then List.replicate n 0
  else match constRead s m off n with
    | .bytes l => l
    | _ => List.replicate n 0

def ldcOp (i : Instr) (n : Nat) (s : State) : Out :=
  groupOp i .fwd laterWait (fun s m x => ldcFail s m (addrS x) n)
    (fun s g l =>
      let vals := l.map fun e => (e.1, loadedVal s e.1 (valOf (ldcBytes s e.1 (addrS e.2) n)))
      let s1 := l.foldl (fun s e => if takesForward s e.1 then s else constTrace s e.1 (addrS e.2) n) s
      (loadReturn s1 g (shapeOf i) vals, [])) s

def execLdcB32 (p : BitVec 3) (d a b : BitVec 7) (s : State) : Out := ldcOp (.ldcB32 p d a b) 4 s
def execLdcB64 (p : BitVec 3) (d a b : BitVec 7) (s : State) : Out := ldcOp (.ldcB64 p d a b) 8 s

/-- `PREF` has no architectural effect (R107). -/
def execPref (p : BitVec 3) (d a b : BitVec 7) (s : State) : Out := effectOp (.pref p d a b) noFail (fun s _ _ => s) s

/-! ### Record-addressed accesses (R114, R115) -/

/-- Coordinates of a unit, and its elements in ascending order as they are accessed. -/
def unitX (x : Src) : Int := (x.a.extractLsb' 0 32).toInt
def unitY (x : Src) : Int := (x.a.extractLsb' 32 32).toInt
def unitCount (r : TRec) : Nat := 32 / trEbits r
def unitElem (r : TRec) (x : Src) (i : Nat) : Option (Int × Int) := boundElem r (unitX x + i) (unitY x)

/-- Checks 1 to 6 of R114 for one member; n is the record's number. -/
def unitFail (s : State) (m : Member) (x : Src) (n : Nat) (need : Need) : Option Fail :=
  if takesForward s m ∧ need = .load then none
  else match recOf? s m.warp n with
  | none => some (recInvalid n)
  | some r =>
    if trEbits r = 64 then some { order := 12, cause := .shape, info := (warpOf s m.warp).shape.toNat }
    else if unitX x % unitCount r ≠ 0 then some { order := 13, cause := .misaligned }
    else if need = .store ∧ trStride r < (trExt0 r * trEbits r + 7) / 8 then
      some { order := 14, cause := .recordOverlap, info := n }
    else if trBound r = 0 ∧ (List.range (unitCount r)).any fun i => !inExtent r (unitX x + i) (unitY x) then
      some { order := 15, cause := .bounds }
    else
      (firstFail ((List.range (unitCount r)).map fun i =>
        match unitElem r x i with
        | some (ex, ey) =>
          accessFail s m (elemAddr r ex ey) (elemBytes r) need
        | none => none))

/-- The addresses that a unit's elements are read from or written to, with the element's number and its x. -/
def unitAddrs (r : TRec) (x : Src) : List (Nat × Nat × Int) :=
  (List.range (unitCount r)).filterMap fun i => (unitElem r x i).map fun e => (i, elemAddr r e.1 e.2, e.1)

/-- Entries that a member's unit adds to its workgroup's log, one for each element on a shared line (R271). -/
def unitLogs (s : State) (m : Member) (r : TRec) (x : Src) : Nat :=
  ((unitAddrs r x).map fun e => logUnits s m e.2.1 (elemBytes r)).sum

/-- The checks of a unit's store; `before` counts the log entries of the members before it. -/
def unitStoreFail (s : State) (m : Member) (x : Src) (num before : Nat) : Option Fail :=
  match unitFail s m x num .store with
  | some f => some f
  | none => logFail s m 0 before (unitLogs s m ((recOf? s m.warp num).getD 0) x)

/-- The wait of a member that loads a unit: that of each of its elements. -/
def unitWait (s : State) (m : Member) (x : Src) (num : Nat) : Option Wait :=
  if acqHeld s m then some .acq
  else match recOf? s m.warp num with
    | none => none
    | some r =>
      if (unitFail s m x num .load).isSome then none
      else firstWait ((unitAddrs r x).map fun e => accessWait s m e.2.1 (elemBytes r))

/-- Bits of one element read by a member: zero where its page's tag denies it (R114). -/
def elemRead (s : State) (m : Member) (r : TRec) (va : Nat) (ex : Int) : Nat :=
  let v := leNat (readGlobal s m va (elemBytes r))
  if trEbits r = 4 then (if ex % 2 = 0 then v % 16 else v / 16) else v

/-- The 32-bit unit that a member loads. -/
def unitRead (s : State) (m : Member) (r : TRec) (x : Src) : Word :=
  BitVec.ofNat 32 (((unitAddrs r x).map fun e => elemRead s m r e.2.1 e.2.2 * 2 ^ (trEbits r * e.1)).sum)

/-- The byte that a 4-bit element is stored into: as the stores of its own instruction that come first leave it, or as the member reads
it. -/
def elemOld (s : State) (m : Member) (va ins : Nat) : List Byte :=
  match (s.writes.filter fun e => decide (ins ≠ 0) && e.2.ins == ins && covers e.2 (physOf (pageFor s m va) va)).getLast? with
  | some e => [e.2.data.getD (physOf (pageFor s m va) va - e.2.addr) 0]
  | none => loadBytes s m va 1 2

/-- One element of a unit stored: whole bytes, or its nibble in the byte as the member reads it. -/
def elemStore (s : State) (m : Member) (r : TRec) (v : Nat) (va : Nat) (ex : Int) (ins : Nat := 0) : State :=
  let s1 := accessTrace s m va .store 0
  if trEbits r = 4 then
    let old := leNat (elemOld s1 m va ins)
    storeGlobal s1 m va (leBytes 1 (if ex % 2 = 0 then old / 16 * 16 + v % 16 else old % 16 + v % 16 * 16)) ins
  else storeGlobal s1 m va (leBytes (elemBytes r) v) ins

/-- A unit stored by one member, in ascending element order. -/
def unitStore (s : State) (m : Member) (r : TRec) (x : Src) (ins : Nat := 0) : State :=
  (unitAddrs r x).foldl (fun s e =>
    elemStore s m r ((lo32 x.d).toNat / 2 ^ (trEbits r * e.1) % 2 ^ trEbits r) e.2.1 e.2.2 ins) s

def ldrOp (i : Instr) (num : Warp → Nat) (s : State) : Out :=
  groupOp i .fwd (fun s m x => unitWait s m x (num x.w)) (fun s m x => unitFail s m x (num x.w) .load)
    (fun s g l =>
      let recOf (e : Member × Src) : TRec := (recOf? s e.1.warp (num e.2.w)).getD 0
      let own (e : Member × Src) : Val :=
        if (unitFail s e.1 e.2 (num e.2.w) .load).isSome then 0 else (unitRead s e.1 (recOf e) e.2).setWidth 128
      let vals := l.map fun e => (e.1, loadedVal s e.1 (own e))
      let s1 := l.foldl (fun s' e => if takesForward s e.1 || (unitFail s e.1 e.2 (num e.2.w) .load).isSome then s'
        else (unitAddrs (recOf e) e.2).foldl (fun s' a =>
          keepLoad s (accessTrace s' e.1 a.2.1 .load 5) e.1 a.2.1 (elemBytes (recOf e))) s') s
      (loadReturn s1 g (shapeOf i) vals, [])) s

def strOp (i : Instr) (num : Warp → Nat) (s : State) : Out :=
  groupOp i (.hold 8) laterWait
    (fun s m x => unitStoreFail s m x (num x.w)
      (logBefore s i (fun y z => unitLogs s y ((recOf? s y.warp (num z.w)).getD 0) z) m))
    (fun s _ l =>
      (l.foldl (fun s' e => if (thrOf s e.1).helper then s'
        else unitStore s' e.1 ((recOf? s e.1.warp (num e.2.w)).getD 0) e.2 s.nextId) s, [])) s

/-- The record a format M field names (R114, R56). -/
def execLdrB32 (p : BitVec 3) (d a : BitVec 7) (i : BitVec 8) (s : State) : Out := ldrOp (.ldrB32 p d a i) (fun _ => i.toNat) s
def execLdrB32Uniform (p : BitVec 3) (d a : BitVec 7) (n : BitVec 4) (s : State) : Out :=
  ldrOp (.ldrB32Uniform p d a n) (fun w => (bmGet w.sr n.toNat).toNat) s
def execStrB32 (p : BitVec 3) (d a : BitVec 7) (i : BitVec 8) (s : State) : Out := strOp (.strB32 p d a i) (fun _ => i.toNat) s
def execStrB32Uniform (p : BitVec 3) (d a : BitVec 7) (n : BitVec 4) (s : State) : Out :=
  strOp (.strB32Uniform p d a n) (fun w => (bmGet w.sr n.toNat).toNat) s

end Sys2Proof.Machine
end

