-- ==== Sys2Proof/Machine/Matrix.lean ====
section
/-! DEFINITION. The matrix engine: tile images and operand buffers (R163, R164), shapes (R165), bank holding (R166), `MMA` and
`MMASP` (R168 to R176), tile loads, stores and moves (R177, R178). -/

namespace Sys2Proof.Machine

/-! ### Images (R163, R164) -/

/-- Byte b of row i of tile k of a warp. -/
def tileByte (w : Warp) (k i b : Nat) : Byte :=
  let r := topReg w + 4 * k + b % 16 / 4
  (bmGet w.vr (r * 64 + 4 * i + b / 16)).extractLsb' (8 * (b % 4)) 8

/-- Register and lane of word n of a tile, as 64 × register + lane. -/
def tileWord (w : Warp) (k n : Nat) : Nat := (topReg w + 4 * k + n % 4) * 64 + n / 4
/-- The words of a tile as they stand, with the numbers that they have as words of an image (R173). -/
def tileWords (w : Warp) (k : Nat) : List (Nat × Word) :=
  (List.range 256).map fun n => (2 * tileWord w k n, bmGet w.vr (tileWord w k n))
/-- A tile written from its 1,024 bytes, row by row. -/
def setTile (s : State) (w k : Nat) (img : List Byte) : State :=
  let x := warpOf s w
  updWarp (readBefore s true w (tileWords x k)) w fun x =>
    { x with
      vr := bmSetAll x.vr ((List.range 256).map fun n => (tileWord x k n, BitVec.ofNat 32 (leNat ((img.drop (4 * n)).take 4))))
      bad := x.bad.filter fun b => !decide (topReg x + 4 * k ≤ b / 64 ∧ b / 64 < topReg x + 4 * k + 4) }

/-- A poisoned register of a tile that an instruction reads raises MEM_POISON, with its number in INFO (R382; log 60). -/
def tilePoison (w : Warp) (k order : Nat) : Option Fail :=
  (w.bad.find? fun b => decide (topReg w + 4 * k ≤ b / 64 ∧ b / 64 < topReg w + 4 * k + 4)).map fun b =>
    { order := order, cause := .memPoison, info := b / 64 }

/-- The 1,024 bytes of a tile. -/
def tileBytes (w : Warp) (k : Nat) : List Byte := (List.range 1024).map fun n => tileByte w k (n / 64) (n % 64)

/-- A word of an operand buffer. -/
def opbWord (w : Wg) (n : Nat) : Word := BitVec.ofNat 32 (leNat (bmList w.opb (4 * n) 4))
/-- n words of an operand buffer as they stand, from a byte offset, with the numbers that they have as words of an image (R173). -/
def opbWords (w : Wg) (off n : Nat) : List (Nat × Word) :=
  (List.range n).map fun k => (2 * (off / 4 + k) + 1, opbWord w (off / 4 + k))
/-- Bytes of an operand buffer written. -/
def setOpb (s : State) (g off : Nat) (img : List Byte) : State :=
  updWg (readBefore s false g (opbWords (wgOf s g) off (img.length / 4))) g fun w =>
    { w with opb := bmSetAll w.opb ((List.range img.length).map fun k => (off + k, img.getD k 0)) }

/-- Element j of a row of bytes, of a storage width of 4, 8, 16 or 32 bits. -/
def rowElem (bytes : Nat → Byte) (width j : Nat) : Nat :=
  if width = 4 then (let v := (bytes (j / 2)).toNat; if j % 2 = 0 then v % 16 else v / 16)
  else leNat ((List.range (width / 8)).map fun k => bytes (width / 8 * j + k))

/-! ### Shapes (R165) -/

/-- The granted word of a request. -/
def grantShape (a : Word) : Word :=
  let n := min 128 (16 * max 1 ((shN a + 15) / 16))
  let k := match shType a with
    | 2 => if shK a ≤ 32 then 32 else 64
    | 3 => if shK a ≤ 32 then 32 else if shK a ≤ 64 then 64 else 128
    | _ => if shK a ≤ 16 then 16 else 32
  BitVec.ofNat 32 (2 ^ 31 + shType a * 2 ^ 24 + k * 2 ^ 16 + n * 2 ^ 8 + 16)

def execTshape (p : BitVec 3) (d a : BitVec 7) (s : State) : Out :=
  perWarpOp (.tshape p d a) .own noWait noFail (fun s _ act m x =>
    let v := grantShape (lo32 x.a)
    spreadD (updWarp s m.warp fun w => { w with shape := v }) (.tshape p d a) act (v.setWidth 128)) s

/-! ### Holding banks (R166) -/

/-- The holder holds a bank: it has not released it, and its last thread has not ended (R41). -/
def holds (s : State) (g b : Nat) : Bool :=
  match tblGet? (wgOf s g).banks b with
  | some k => !k.freed && !(wgOf s g).done
  | none => false
/-- A release of a bank of a holder waits for the operations that were issued on it (R180). -/
def releasing (s : State) (g b : Nat) : Bool :=
  match tblGet? (wgOf s g).banks b with
  | some k => k.freed
  | none => false

/-- The holder through which an issuer reaches a bank: its own, the sequencer instance of its launch on the core, or, for
a sequencer, a workgroup of its launch on the core. -/
def reach? (s : State) (g b : Nat) : Option Nat :=
  let w := wgOf s g
  if holds s g b then some g
  else (s.wgs.find? fun e => e.2.lcore == w.lcore && e.2.grid == w.grid && e.2.replica == w.replica &&
    decide (e.2.seqi ≠ w.seqi) && holds s e.1 b).map (·.1)

/-- An element word of a bank of a holder, row × 128 + column. -/
def accGet (s : State) (g b i : Nat) : Word := bmGet (tblGet (wgOf s g).banks b).data i
def accSet (s : State) (g b i : Nat) (v : Word) : State :=
  updWg s g fun w => { w with banks := tblUpd w.banks b fun k => { k with data := bmSet k.data i v } }

/-! ### Control word of `MMA` (R168) -/

def ctlSrc (c : Word) : Bool := c.getLsbD 31
def ctlCol (c : Word) : Nat := 16 * (c.extractLsb' 28 3).toNat
def ctlBank (c : Word) : Nat := (c.extractLsb' 23 5).toNat
def ctlAcf (c : Word) : Bool := c.getLsbD 22
def ctlNfa (c : Word) : Nat := (c.extractLsb' 20 2).toNat
def ctlNfb (c : Word) : Nat := (c.extractLsb' 18 2).toNat
def ctlAsel (c : Word) : Nat := (c.extractLsb' 0 12).toNat

/-- A matrix operation of the same warp on a bank is in progress: a later one on that bank waits for it (R167). -/
def bankBusy (s : State) (w b : Nat) : Bool := s.mats.any fun e => e.2.warp == w && e.2.kind == 0 && decide (ctlBank e.2.ctl = b)

/-- Element type of a form: 0 `.bf16`, 1 `.f16`, 2 `.nf`; 4 is added for `MMASP`. -/
def formSparse (f : Nat) : Bool := decide (4 ≤ f)
/-- The IEEE format of a form, and the format of a narrow operand. -/
def formFmt (f : Nat) (nd : BitVec 16) : Fmt := match f % 4 with | 0 => bf16 | 1 => fp16 | _ => ndFmt nd
/-- Storage width of an operand's elements (R163). -/
def formBits (f : Nat) (nd : BitVec 16) : Nat := if f % 4 = 2 then fieldBits nd else 16

/-- The record that a selector D names (R168). -/
def mmaRec (w : Warp) (d : BitVec 7) : Option Nat :=
  if d = 127#7 then none
  else some (if d.getLsbD 6 then (bmGet w.sr (d.extractLsb' 0 4).toNat).toNat else (d.extractLsb' 0 6).toNat)

/-- The format of a record's elements, and its element read in a raw number (R111). -/
def recFmt (r : TRec) : Fmt :=
  match trElem r with
  | 0x10 => fp16
  | 0x11 => bf16
  | 0x12 => fp32
  | 0x13 => fp64
  | _ => ndFmt (trNdesc r)

/-- SHAPE, with the granted shape (R342). -/
def shapeFail (w : Warp) (order : Nat) : Fail := { order := order, cause := .shape, info := w.shape.toNat }

/-- A narrow format's width fits the granted type (R170 check 4). -/
def narrowFits (w : Warp) (nd : BitVec 16) : Bool := decide (nd ≠ 0) && (shType w.shape = 2 || decide (ndWidth nd ≤ 4))

/-- Checks 7 to 11 of R170: the record, its number and the window (x, y) of n columns and k rows. -/
def mmaRecFail (s : State) (m : Member) (form num : Nat) (x y : Int) (n k : Nat) : Option Fail :=
  let w := warpOf s m.warp
  match recOf? s m.warp num with
  | none => some { order := 7, cause := .recordInvalid, info := num }
  | some r =>
    if trElem r ≠ (match form % 4 with | 0 => 0x11 | 1 => 0x10 | _ => 0x20) ∨ (form % 4 = 2 ∧ !narrowFits w (trNdesc r)) then
      some (shapeFail w 8)
    else if trEbits r = 4 ∧ x % 2 ≠ 0 then some { order := 9, cause := .misaligned }
    else if trBound r = 0 ∧ !(inExtent r x y && inExtent r (x + n - 1) (y + k - 1)) then some { order := 10, cause := .bounds }
    else if isAperture (sext57 (trBase r)) then some { order := 11, cause := .access }
    else if (khdrOfWarp s m.warp).isSealed then some { order := 11, cause := .sealedSet }
    else none

/-- Checks 1 to 11 of R170. -/
def mmaFail (form : Nat) (d : BitVec 7) (s : State) (m : Member) (x : Src) : Option Fail :=
  let w := x.w
  let c := lo32 x.a
  let n := shN w.shape
  let k := shK w.shape
  let sp := formSparse form
  let opb := (khdrOfWarp s m.warp).opbanks * 4096
  let nfb := nfmtOf w (ctlNfb c)
  let tile := ctlAsel c % 8
  if w.shape = 0 ∨ !(match form % 4 with | 0 => shType w.shape = 0 | 1 => shType w.shape = 1 | _ => shType w.shape ≥ 2) then
    some (shapeFail w 1)
  else if !ctlSrc c ∧ (w.nt ≤ tile ∨ (sp ∧ w.nt ≤ tile + 1)) then some { order := 2, cause := .windowRange, info := tile }
  else if (sp ∧ !ctlSrc c ∧ tile % 2 ≠ 0) ∨ 128 < ctlCol c + n then some (shapeFail w 3)
  else if form % 4 = 2 ∧ (!narrowFits w (nfmtOf w (ctlNfa c)) ∨ (d = 127#7 ∧ !narrowFits w nfb)) then some (shapeFail w 4)
  else if (reach? s w.wg (ctlBank c)).isNone then some { order := 5, cause := .accUnalloc }
  else if (ctlSrc c ∧ opb < ctlAsel c * 64 + (if sp then 2048 else 1024)) ∨
      (d = 127#7 ∧ opb < (x.b.toNat % 4096) * 64 + k * n * formBits form nfb / 8) then some { order := 6, cause := .bounds }
  else
    let late := if ctlSrc c then none else (tilePoison w tile 12).orElse fun _ => if sp then tilePoison w (tile + 1) 12 else none
    match mmaRec w d with
    | none => late
    | some num => (mmaRecFail s m form num (x.b.extractLsb' 0 32).toInt (x.b.extractLsb' 32 32).toInt n k).orElse fun _ => late

/-! ### Record reads of matrix instructions (R174) -/

/-- The first failing access of a list, a page fault before others of its address (R316). -/
def accessesFail (s : State) (m : Member) (need : Need) (l : List (Nat × Nat)) : Option Fail :=
  firstFail (l.map fun e => accessFail s m e.1 e.2 need)

/-- The 128-byte lines of some accesses that a tag denies, each once. -/
def deniedLines (s : State) (m : Member) (l : List (Nat × Nat)) : List Nat :=
  sortNat ((l.filter fun e => tagDenies s m e.1).map fun e => e.1 / 128 * 128)

/-- Audit records of lines denied to an identity (R174, R327). -/
def auditLines (s : State) (m : Member) (ident : Nat) (ls : List Nat) : State :=
  ls.foldl (fun s va =>
    appendAudit s (partOfWarp s m.warp) va ident (pageFor s m va).tag 2 (lkPlace (wgOfWarp s m.warp).lcore)) s

/-- The raw number of an element of a record: zero where a tag denies it. -/
def recElem (s : State) (m : Member) (r : TRec) (ex ey : Int) : Nat :=
  let v := leNat (readGlobal s m (elemAddr r ex ey) (elemBytes r))
  if trEbits r = 4 then (if ex % 2 = 0 then v % 16 else v / 16) else v

/-- A value multiplied exactly by its block's scale, and the flags that raises (R125). -/
def scaleVal (v : FVal) (mode c : Nat) : FVal × BitVec 6 :=
  if mode = 1 ∨ mode = 2 then
    if c = 255 then (.nan false true 0 0, 0) else (scale2 v ((c : Int) - 127), 0)
  else
    match v, unpack scaleFmt false c with
    | .nan n q p w, _ => (.nan n q p w, 0)
    | .inf n, .fin _ sm _ => if sm = 0 then (.nan false true 0 0, fpNV) else (.inf n, 0)
    | .fin n m e, .fin _ sm se => (.fin n (m * sm) (e + se), 0)
    | v, _ => (v, 0)

/-- The value of B(q, j) read from a record: +0 out of bounds under BOUND 1 and where a tag denies the element or its scale. -/
def bFromRec (s : State) (m : Member) (r : TRec) (x y : Int) : FVal × BitVec 6 :=
  match boundElem r x y with
  | none => (.zero false, 0)
  | some (ex, ey) =>
    let va := elemAddr r ex ey
    let sa := scaleAddr r ex.toNat ey.toNat
    if tagDenies s m va then (.zero false, 0)
    else
      let v := unpack (recFmt r) false (recElem s m r ex ey % 2 ^ (recFmt r).width)
      if trScMode r = 0 then (v, 0)
      else if tagDenies s m sa then (.zero false, 0)
      else scaleVal v (trScMode r) (leNat (readGlobal s m sa 1))

/-! ### One k-group (R128, R171, R172) -/

/-- The sum of products in k order and its flags: NaNs of the operands, then of D, decide; NV for invalid products. -/
def kSum (ops : List (FVal × FVal)) (d : FVal) : Exact :=
  let srcs := (ops.flatMap fun e => [e.1, e.2]) ++ [d]
  let ps := (ops.filter fun e => !(e.1.isNan || e.2.isNan)).map fun e => exactMul e.1 e.2
  let bad := ps.any (fun e => e.v.isNan) || (ps.any (fun e => e.v == .inf false) && ps.any (fun e => e.v == .inf true))
  match nanOf srcs with
  | some n => { n with fl := n.fl ||| (if bad then fpNV else 0) }
  | none =>
    if bad then invalid
    else match ps with
      | [] => { v := d }
      | p :: t => exactAdd false d (t.foldl (fun acc e => (exactAdd false acc e.v).v) p.v)

/-- One element's update: the new word and flags. -/
def accStep (acf : Bool) (rnd : Word) (ops : List (FVal × FVal)) (old : Word) : Word × BitVec 6 :=
  let e := kSum ops (unpack fp32 false old.toNat)
  if acf then let (b, fl) := finish bf16 (.sr rnd) false e; (BitVec.ofNat 32 (b * 65536), fl)
  else let (b, fl) := finish fp32 .near false e; (BitVec.ofNat 32 b, fl)

/-- The number of the image word that holds byte b of row i of an operation's A image, or of the image after it (R172). -/
def aWord (s : State) (o : MatOp) (extra i b : Nat) : Nat :=
  let c := o.ctl
  if ctlSrc c then 2 * ((ctlAsel c * 64 + 1024 * extra + 64 * i + b) / 4) + 1
  else 2 * tileWord (warpOf s o.warp) (ctlAsel c % 8 + extra) (16 * i + b / 4)
/-- The number of the word that holds the byte of a B image in the operand buffer, q rows and b bytes on (R169). -/
def bWord (o : MatOp) (q b : Nat) : Nat :=
  2 * ((o.bpair.toNat % 4096 * 64 + q * (shN o.shape * formBits o.form o.nfB / 8) + b) / 4) + 1
/-- An image word as it stands. -/
def imgNow (s : State) (o : MatOp) (n : Nat) : Word :=
  if n % 2 = 0 then bmGet (warpOf s o.warp).vr (n / 2) else opbWord (wgOf s o.wg) (n / 2)
/-- An image word as the operation reads it: once, and never differently (R173). -/
def imgWord (s : State) (o : MatOp) (n : Nat) : Word := (tblGet? o.img n).getD (imgNow s o n)
/-- The values that pending operations may still leave an image word with: those before their writes (R173). -/
def imgOld (s : State) (o : MatOp) (n : Nat) : List Word :=
  s.loads.filterMap fun e =>
    if (if n % 2 = 0 then e.2.warp == o.warp else (warpOf s e.2.warp).wg == o.wg) then
      (e.2.old.find? fun x => x.1 == n).map (·.2) else none
/-- The image words of the present k-group: of A's rows, of the metadata, and of B's rows in the operand buffer. -/
def kWords (s : State) (o : MatOp) : List Nat :=
  let wa := formBits o.form o.nfA
  let a (n : Nat) : List Nat := (List.range 16).flatMap fun i => (List.range (n * wa / 8)).map fun k => aWord s o 0 i (n * o.g * wa / 8 + k)
  (if formSparse o.form then a 2 ++ (List.range 16).map fun i => aWord s o 1 i (o.g / 2) else a 4) ++
  (if readsRec o then [] else (List.range 4).flatMap fun q => (List.range (shN o.shape * formBits o.form o.nfB / 8)).map fun b => bWord o (4 * o.g + q) b)
/-- The words of the present k-group are read, each with its new value or an old one (R173). -/
def readImgs (s : State) (id : Nat) (o : MatOp) : MatOp :=
  (kWords s o).foldl (fun o n =>
    if (tblGet? o.img n).isSome then o
    else { o with img := tblSet o.img n (match imgOld s o n with
      | v :: _ => if Config.early s.free (id * 2 ^ 32 + 2 ^ 31 + n) then v else imgNow s o n
      | [] => imgNow s o n) }) o

/-- A(i, q) of an operation: the element of the image in a tile or the operand buffer. -/
def aRaw (s : State) (o : MatOp) (extra i width j : Nat) : Nat :=
  rowElem (fun b => (imgWord s o (aWord s o extra i b)).extractLsb' (8 * (b % 4)) 8) width j

/-- The present k-group's A operands of row i: position in the k-group and value. -/
def aOps (s : State) (o : MatOp) (i : Nat) : List (Nat × FVal) :=
  let nd := o.nfA
  let f := formFmt o.form nd
  let width := formBits o.form nd
  let val (j : Nat) : FVal := unpack f false (aRaw s o 0 i width j % 2 ^ f.width)
  if formSparse o.form then
    let meta4 := aRaw s o 1 i 4 o.g
    let lo := meta4 % 4
    let hi := meta4 / 4
    if lo = hi then [(hi, val (2 * o.g + 1))]
    else if lo < hi then [(lo, val (2 * o.g)), (hi, val (2 * o.g + 1))]
    else [(hi, val (2 * o.g + 1)), (lo, val (2 * o.g))]
  else (List.range 4).map fun q => (q, val (4 * o.g + q))

/-- B(q, j) from the operand buffer (R169). -/
def bFromBuf (s : State) (o : MatOp) (q j : Nat) : FVal :=
  let f := formFmt o.form o.nfB
  let width := formBits o.form o.nfB
  unpack f false (rowElem (fun b => (imgWord s o (bWord o q b)).extractLsb' (8 * (b % 4)) 8) width j % 2 ^ f.width)


/-- The member that stands for the operation's warp in its accesses. -/
def matLead (o : MatOp) : Member := ⟨o.members.headD 0, o.warp⟩
/-- The bank of an operation, and the holder through which it is reached. -/
def matBank (o : MatOp) : Nat := ctlBank o.ctl

/-- Row by row, column c of a bank updated: old words, generator and flags pass through. -/
def colStep (o : MatOp) (c : Nat) (as : List (List (Nat × FVal))) (b : Nat → FVal × BitVec 6) (bk : Bank) (fl : BitVec 6) :
    Bank × BitVec 6 :=
  ((List.range 16).foldl (fun (acc : Bank × BitVec 6) i =>
    let (bk, fl) := acc
    let row := as.getD i []
    let x := if ctlAcf o.ctl then genStep (bmGet bk.gens c) else 0
    let bk := if ctlAcf o.ctl then { bk with gens := bmSet bk.gens c x } else bk
    let ops := row.map fun e => (e.2, (b e.1).1)
    let fs := row.foldl (fun f e => f ||| (b e.1).2) 0
    let (v, f) := accStep (ctlAcf o.ctl) x ops (bmGet bk.data (i * 128 + c))
    ({ bk with data := bmSet bk.data (i * 128 + c) v }, fl ||| f ||| fs)) (bk, fl))

/-- One whole k-group of an operation on the bank that its issue reached, with B's elements as `bval q j` gives them. -/
def kGroup (s : State) (o : MatOp) (bval : Nat → Nat → FVal × BitVec 6) : State × BitVec 6 :=
  let as := (List.range 16).map fun i => aOps s o i
  let (bk, fl) := (List.range (shN o.shape)).foldl (fun (acc : Bank × BitVec 6) j =>
      colStep o (ctlCol o.ctl + j) as (fun q => bval q j) acc.1 acc.2)
    (tblGet (wgOf s o.hold).banks (matBank o), 0)
  (updWg s o.hold fun w => { w with banks := tblUpd w.banks (matBank o) fun _ => bk }, fl)

/-! ### Progress of operations -/

def matOf (s : State) (id : Nat) : MatOp := tblGet s.mats id
def updMat (s : State) (id : Nat) (f : MatOp → MatOp) : State := { s with mats := tblUpd s.mats id f }

/-- The operation and those of its warp's replicas at the same place and progress (R185). -/
def matMates (s : State) (id : Nat) : List Nat :=
  let o := matOf s id
  (replicaWarps s o.warp).filterMap fun w =>
    (s.mats.find? fun e => e.2.warp == w && e.2.kind == o.kind && e.2.pc == o.pc && e.2.pos == o.pos && e.2.g == o.g).map (·.1)

/-- No earlier operation of its warp on the bank remains, its replicas stand where it does, and nothing holds it. -/
def matReady (s : State) (id : Nat) : Bool :=
  match tblGet? s.mats id with
  | none => false
  | some o =>
    o.stall.isNone && !o.trapped && !(warpOf s o.warp).halted && !isSaved s o.warp && isLeader s o.warp &&
      decide ((matMates s id).length = (replicaWarps s o.warp).length) &&
      (s.mats.all fun e => !(e.2.warp == o.warp && e.2.kind == 0 && o.kind == 0 && decide (e.1 < id) && matBank e.2 == matBank o))

/-- A stall on a page: its record, and what waits for the answer (R408). -/
def stallMat (s : State) (id va : Nat) : State :=
  let o := matOf s id
  let k := partOfWarp s o.warp
  let g := wgOf s o.wg
  let r : FaultRec := { cause := causeCode .pageFault, pos := o.pos, place := lkPlace g.lcore,
                        pc := o.pc, slot := if g.seqi then 0x7F else (warpOf s o.warp).slot, lane := o.members.headD 0,
                        addr := va / 4096 * 4096, info := 1 + (if o.kind = 2 then 256 else 0) + 1024, grid := g.grid }
  addAwait (updMat (appendFault s k r) id fun o => { o with stall := some (nextSeq s k) }) k (nextSeq s k) (.matrix id)

/-- A trap of an operation's warp at the operation: the warp's threads leave their groups (R174, R176). -/
def trapMat (s : State) (id : Nat) (f : Fail) : State :=
  let o := matOf s id
  let t : Trap := { warp := o.warp, cause := f.cause, lane := o.members.headD 0, addr := f.addr, info := f.info }
  updMat (takeTrap (pullFromGroups s o.warp) t o.pc o.pos) id fun o => { o with trapped := true, again := true }

/-- The operation is complete: flags reach its members, its flag count falls (R53, R173). -/
def finishMat (s : State) (id : Nat) : State :=
  let o := matOf s id
  let s1 := o.members.foldl (fun s l =>
    if present s o.warp l && !(thrOf s ⟨l, o.warp⟩).helper then
      updThr s ⟨l, o.warp⟩ fun t => { t with fpst := t.fpst ||| o.flags.setWidth 6 } else s) s
  settleHolder (settleHolder (lowerFlag { s1 with mats := tblDel s1.mats id } o.warp o.flag) o.wg) o.hold

/-- The state with the identity and the shape of an operation's issue in its warp. -/
def withIssue (s : State) (o : MatOp) : State := updWarp s o.warp fun w => { w with ident := o.ident, shape := o.shape }
/-- The state that an operation's accesses see: under the identity and the shape it was issued with, and without the later stores of its
warp, before which it stands in the warp's program order (R174, R322). -/
def asIssued (s : State) (o : MatOp) : State :=
  { withIssue s o with writes := s.writes.filter fun e => !(e.2.warp == o.warp && decide (o.order ≤ e.1)) }

/-- A completed k-group: G rises, flags gather, and the last one completes the operation. -/
def kAdvance (s : State) (id : Nat) (fl : BitVec 6) : State :=
  let s1 := updMat s id fun o => { o with g := o.g + 1, flags := o.flags ||| fl.extractLsb' 0 5 }
  if (matOf s1 id).g ≥ shK (matOf s1 id).shape / 4 then finishMat s1 id else s1

/-- An operation that goes on after a restore: with its record and its bank as they stand (R176). -/
def resumed (s : State) (r : TRec) (o : MatOp) : MatOp :=
  if o.again then { o with trec := r, again := false, hold := (reach? s o.wg (matBank o)).getD o.hold } else o

/-- `MMA_KGROUP` (R171): the next k-group of a matrix operation, in all its replicas, or its stall or trap. -/
def kStep (s : State) (id : Nat) : State :=
  let o := matOf s id
  let m := matLead o
  let sv := asIssued s o
  let r := if o.again then (recOf? s o.warp o.num).getD 0 else o.trec
  let els := winElems r (matX o) (matY o + 4 * o.g) (shN o.shape) 4
  let acc := if readsRec o then elemAccesses r true els else []
  let recheck : Option Fail :=
    if o.again && readsRec o then mmaRecFail sv m o.form o.num (matX o) (matY o) (shN o.shape) (shK o.shape) else none
  match recheck with
  | some f => trapMat s id f
  | none =>
    match accessesFail sv m .load acc with
    | some f => if f.cause = .pageFault then stallMat s id f.addr else trapMat s id f
    | none =>
      let lines := (deniedLines sv m acc).filter fun l => !o.lines.contains l
      let s1 := acc.foldl (fun s e => match translate s (partOfWarp s o.warp) e.1 .load with
        | .ok p => fillClr (fillTlb s (partOfWarp s o.warp) p) (partOfWarp s o.warp) o.ident.toNat p.tag
        | .error _ => s) s
      let s2 := updMat (auditLines (acc.foldl (fun s e => keepLoad sv s m e.1 e.2) s1) m o.ident.toNat lines) id fun o => { o with lines := o.lines ++ lines }
      let rows := if readsRec o then (List.range 4).map fun (q : Nat) => (List.range (shN o.shape)).map fun (j : Nat) =>
          bFromRec sv m r (matX o + j) (matY o + 4 * o.g + q) else []
      (matMates s id).foldl (fun s i =>
        let oi := readImgs s i (resumed s r (matOf s i))
        let bval (q j : Nat) : FVal × BitVec 6 :=
          if readsRec oi then (rows.getD q []).getD j (.zero false, 0) else (bFromBuf s oi (4 * oi.g + q) j, 0)
        let (s', fl) := kGroup (updMat s i fun _ => oi) oi bval
        kAdvance s' i fl) (fillAhead s2 (partOfWarp s o.warp) 2 (if readsRec o then (matAccesses { o with trec := r, g := o.g + 1 }).map (·.1) else []))

def execMmaKgroup (s : State) : Out :=
  if matReady s s.arg.a && decide ((matOf s s.arg.a).kind = 0) then .next (kStep s s.arg.a) else .refused .notDue

/-! ### `MMA` and `MMASP` -/

/-- A matrix operation enters the engine (R168, R170); its members are those whose `FPST` receives its flags, no helpers (R173, R346). -/
def issueMat (s : State) (g : Group) (act : List Member) (m : Member) (o : MatOp) : State :=
  let f := groupFlag g
  let w := warpOf s m.warp
  raiseFlag { s with
      mats := s.mats ++ [(s.nextId, { o with wg := w.wg, warp := m.warp, pc := g.pc, pos := g.pos + 1, flag := f, shape := w.shape,
                                             members := (act.filter fun m => !(thrOf s m).helper).map (·.lane), ident := w.ident, order := s.nextId })]
      nextId := s.nextId + 1 } m.warp f

/-- The shape of `MMA` and `MMASP`. -/
def mmaOp (i : Instr) (form : Nat) (d : BitVec 7) (s : State) : Out :=
  perWarpOp i .own noWait (mmaFail form d) (fun s g act m x =>
    let num := mmaRec x.w d
    issueMat s g act m
      { form := form, dsel := d.toNat, ctl := lo32 x.a, bpair := lo64 x.b, num := num.getD 0,
        trec := (match num with | some n => (recOf? s m.warp n).getD 0 | none => 0),
        nfA := nfmtOf x.w (ctlNfa (lo32 x.a)), nfB := nfmtOf x.w (ctlNfb (lo32 x.a)),
        hold := (reach? s x.w.wg (ctlBank (lo32 x.a))).getD 0 }) s

def execMmaBf16 (p : BitVec 3) (d a b : BitVec 7) (s : State) : Out := mmaOp (.mmaBf16 p d a b) 0 d s
def execMmaF16 (p : BitVec 3) (d a b : BitVec 7) (s : State) : Out := mmaOp (.mmaF16 p d a b) 1 d s
def execMmaNf (p : BitVec 3) (d a b : BitVec 7) (s : State) : Out := mmaOp (.mmaNf p d a b) 2 d s
def execMmaspBf16 (p : BitVec 3) (d a b : BitVec 7) (s : State) : Out := mmaOp (.mmaspBf16 p d a b) 4 d s
def execMmaspF16 (p : BitVec 3) (d a b : BitVec 7) (s : State) : Out := mmaOp (.mmaspF16 p d a b) 5 d s
def execMmaspNf (p : BitVec 3) (d a b : BitVec 7) (s : State) : Out := mmaOp (.mmaspNf p d a b) 6 d s

/-! ### Tile loads and stores (R177) -/

/-- A tile number at or above T. -/
def tileFail (w : Warp) (k : Nat) : Option Fail := if w.nt ≤ k then some { order := 1, cause := .windowRange, info := k } else none

/-- Checks 1 to 8 of R177: the tile, the record's number and the window's coordinates. -/
def tileRecFail (store : Bool) (tile num : Nat) (x y : Int) (s : State) (m : Member) : Option Fail :=
  let w := warpOf s m.warp
  let k := shK w.shape
  match tileFail w tile with
  | some f => some f
  | none =>
    if w.shape = 0 then some (shapeFail w 2)
    else match recOf? s m.warp num with
    | none => some { order := 3, cause := .recordInvalid, info := num }
    | some r =>
      if 32 < trEbits r ∨ 512 < k * trEbits r then some (shapeFail w 4)
      else if trEbits r = 4 ∧ x % 2 ≠ 0 then some { order := 5, cause := .misaligned }
      else if store ∧ trStride r < (trExt0 r * trEbits r + 7) / 8 then some { order := 6, cause := .recordOverlap, info := num }
      else if trBound r = 0 ∧ !(inExtent r x y && inExtent r (x + k - 1) (y + 15)) then some { order := 7, cause := .bounds }
      else if isAperture (sext57 (trBase r)) then some { order := 8, cause := .access }
      else if (khdrOfWarp s m.warp).isSealed then some { order := 8, cause := .sealedSet }
      else none

/-- The failure of an access other than a page fault: it traps the instruction. -/
def hardFail (f : Option Fail) : Option Fail :=
  match f with
  | some f => if f.cause = .pageFault then none else some f
  | none => none

/-- The accesses of a tile instruction: its window's elements. -/
def tileAccesses (r : TRec) (x y : Int) (k : Nat) : List (Nat × Nat) := elemAccesses r false (winElems r x y k 16)

/-- The log of a deterministic workgroup has room for a tile's stores (R271). -/
def tileLogFail (s : State) (m : Member) (l : List (Nat × Nat)) : Option Fail :=
  let n := (l.filter fun e => detShared s m.warp e.1).length
  if n ≠ 0 ∧ !logRoom s m.warp n then some { order := 28, cause := .bounds } else none

/-- Every check of a tile instruction at issue, page faults left out: they stall it (R174, R408). -/
def tileAllFail (store : Bool) (tile num : Nat) (x y : Int) (s : State) (m : Member) : Option Fail :=
  match tileRecFail store tile num x y s m with
  | some f => some f
  | none =>
    let r := (recOf? s m.warp num).getD 0
    let l := tileAccesses r x y (shK (warpOf s m.warp).shape)
    match hardFail (accessesFail s m (if store then .store else .load) l) with
    | some f => some f
    | none => if store then (tileLogFail s m l).orElse fun _ => tilePoison (warpOf s m.warp) tile 29 else none

/-- A tile read from memory through a record: rows of k elements, zeros beyond them. -/
def tileImage (s : State) (m : Member) (r : TRec) (x y : Int) (k : Nat) : List Byte :=
  (List.range 16).flatMap fun (i : Nat) =>
    leBytes 64 (((List.range k).map fun (j : Nat) =>
      (match boundElem r (x + j) (y + i) with
       | some (ex, ey) => recElem s m r ex ey
       | none => 0) * 2 ^ (trEbits r * j)).sum)

/-- `TLD` performed as the state sv of its issue's identity shows memory: traces, audit records and the tile (R174, R177). -/
def runTld (s sv : State) (m : Member) (r : TRec) (x y : Int) (k tile : Nat) (ws : List Nat) : State :=
  let l := tileAccesses r x y k
  let ident := (warpOf sv m.warp).ident.toNat
  let s1 := l.foldl (fun s e => match translate s (partOfWarp s m.warp) e.1 .load with
    | .ok p => fillClr (fillTlb s (partOfWarp s m.warp) p) (partOfWarp s m.warp) ident p.tag
    | .error _ => s) s
  let s2 := l.foldl (fun s e => keepLoad sv s m e.1 e.2) s1
  ws.foldl (fun s w => setTile s w tile (tileImage sv m r x y k)) (auditLines s2 m ident (deniedLines sv m l))

/-- `TST` performed: elements in ascending j within a row and ascending i across rows (R177). -/
def runTst (s : State) (m : Member) (r : TRec) (x y : Int) (k tile : Nat) : State :=
  (List.range 16).foldl (fun s (i : Nat) => (List.range k).foldl (fun s (j : Nat) =>
    match boundElem r (x + j) (y + i) with
    | some (ex, ey) =>
      elemStore s m r (rowElem (fun b => tileByte (warpOf s m.warp) tile i b) (trEbits r) j) (elemAddr r ex ey) ex
    | none => s) s) s

/-- What still fails of a tile operation: its accesses, and, where a stop had abandoned it, every check of it as a whole (R184). -/
def tileStepFail (sv : State) (o : MatOp) (r : TRec) : Option Fail :=
  let m := matLead o
  let again := if o.again then tileRecFail (decide (o.kind = 2)) (o.dsel % 8) o.num (matX o) (matY o) sv m else none
  match again with
  | some f => some f
  | none =>
    let l := tileAccesses r (matX o) (matY o) (shK o.shape)
    match accessesFail sv m (if o.kind = 2 then .store else .load) l with
    | some f => some f
    | none => if o.kind = 2 then tileLogFail sv m l else none

/-- An operation of a tile instruction, resumed or at issue: it stalls on a page fault, traps, or is performed in the warp
and its replicas; the stores of a resumed `TST` keep their place in the warp's order. -/
def tileStep (s : State) (id : Nat) : State :=
  let o := matOf s id
  let m := matLead o
  let sv := asIssued s o
  let k := shK o.shape
  let r := if o.again then (recOf? s o.warp o.num).getD 0 else o.trec
  match tileStepFail sv o r with
  | some f => if f.cause = .pageFault then stallMat s id f.addr else trapMat s id f
  | none =>
    let mates := matMates s id
    let warps := mates.map fun i => (matOf s i).warp
    let s1 :=
      if o.kind = 1 then runTld s sv m r (matX o) (matY o) k (o.dsel % 8) warps
      else mates.foldl (fun s i =>
        let oi := matOf s i
        let w := warpOf s oi.warp
        let s' := updWarp (runTst (withIssue s oi) (matLead oi) r (matX oi) (matY oi) k (oi.dsel % 8)) oi.warp fun x =>
          { x with ident := w.ident, shape := w.shape }
        { s' with writes := tblMap s'.writes fun j w => if s.nextId ≤ j then { w with arr := oi.order } else w }) s
    mates.foldl finishMat s1

/-- `TLD` and `TST` at issue: the operation enters the engine; it is performed when it completes (R177). -/
def tileOp (i : Instr) (store : Bool) (d b : BitVec 7) (s : State) : Out :=
  perWarpOp i (if store then .hold 4 else .own) (fun s m _ => laterWait s m {}) (fun s m x =>
      if takesForward s m && !store then none
      else tileAllFail store (d.extractLsb' 0 3).toNat (recSel x.w b) (unitX x) (unitY x) s m) (fun s g act m x =>
    let num := recSel x.w b
    let s1 := issueMat s g act m
      { kind := if store then 2 else 1, dsel := (d.extractLsb' 0 3).toNat, bpair := lo64 x.a, num := num,
        trec := (recOf? s m.warp num).getD 0 }
    if matReady s1 s.nextId then tileStep s1 s.nextId else s1) s

def execTld (p : BitVec 3) (d a b : BitVec 7) (s : State) : Out := tileOp (.tld p d a b) false d b s
def execTst (p : BitVec 3) (d a b : BitVec 7) (s : State) : Out := tileOp (.tst p d a b) true d b s

/-! ### `TMOV` (R178) -/

def tmovFail (d : BitVec 7) (s : State) (m : Member) (x : Src) : Option Fail :=
  let p := (lo32 x.a).toNat
  match tileFail x.w (d.extractLsb' 0 3).toNat with
  | some f => some f
  | none =>
    if p % 64 ≠ 0 then some { order := 2, cause := .misaligned }
    else if (khdrOfWarp s m.warp).opbanks * 4096 < p + 1024 then some { order := 3, cause := .bounds }
    else if d.getLsbD 3 then tilePoison x.w (d.extractLsb' 0 3).toNat 4
    else none

def execTmov (p : BitVec 3) (d a : BitVec 7) (s : State) : Out :=
  perWarpOp (.tmov p d a) .own noWait (tmovFail d) (fun s _ _ m x =>
    let g := (warpOf s m.warp).wg
    let off := (lo32 x.a).toNat
    let k := (d.extractLsb' 0 3).toNat
    if d.getLsbD 3 then setOpb s g off (tileBytes (warpOf s m.warp) k)
    else setTile s m.warp k (bmList (wgOf s g).opb off 1024)) s

end Sys2Proof.Machine
end

