-- ==== Sys2Proof/Machine/Accum.lean ====
section
/-! DEFINITION. The accumulator instructions (R179 to R183): allocation and release of banks, element reads and writes,
conversion to tile images, seeding and queries. -/

namespace Sys2Proof.Machine

/-- A later operation of a warp on a bank waits for its matrix operations on it (R167). -/
def bankWait (s : State) (w b : Nat) : Option Wait := if bankBusy s w b then some (.bank b) else none
/-- ACC_UNALLOC of a bank that is not writable (R166). -/
def bankFail (s : State) (w b order : Nat) : Option Fail :=
  if (reach? s (warpOf s w).wg b).isNone then some { order := order, cause := .accUnalloc } else none
/-- The bank that a[4:0] names. -/
def bankArg (x : Src) : Nat := ((lo32 x.a).extractLsb' 0 5).toNat

/-- The bank that a request r is granted (R180): one of the reserved set, that r names or the lowest that the holder does not hold. -/
def grantBank (s : State) (g r : Nat) : Option Nat :=
  let w := wgOf s g
  if r < 32 then if (tblGet? w.rset r).isSome then some r else none
  else if r = 32 then ((w.rset.map (·.1)).find? fun b => !holds s g b)
  else none
/-- The bank that a request is granted is still being released (log 28). -/
def grantWait (s : State) (g r : Nat) : Option Wait :=
  match grantBank s g r with
  | some b => if releasing s g b then some (.bank b) else none
  | none => none
/-- A request for a bank: a[5:0]. -/
def grantArg (x : Src) : Nat := ((lo32 x.a).extractLsb' 0 6).toNat

/-- `ACALLOC` (R180): a newly held bank has zero data and zero generator words (R41). It waits for a release of the bank that is not
complete (DEDUCED from R41 and R180, log 28). -/
def execAcalloc (p : BitVec 3) (d a : BitVec 7) (s : State) : Out :=
  perWarpOp (.acalloc p d a) .own (fun s m x => grantWait s (warpOf s m.warp).wg (grantArg x)) noFail (fun s _ act m x =>
    let g := (warpOf s m.warp).wg
    match grantBank s g (grantArg x) with
    | none => spreadD s (.acalloc p d a) act 0xFFFFFFFF
    | some b =>
      let s1 := if (tblGet? (wgOf s g).banks b).isSome then s
        else updWg s g fun w => { w with banks := tblSet w.banks b { phys := (tblGet? w.rset b).getD 0 } }
      spreadD s1 (.acalloc p d a) act (BitVec.ofNat 128 b)) s

/-- Operations issued on a bank of a holder are still in progress. -/
def bankInUse (s : State) (g b : Nat) : Bool := s.mats.any fun e => e.2.kind == 0 && matBank e.2 == b && e.2.hold == g

/-- `ACFREE` (R180): a held bank is released once the operations already issued on it are complete. -/
def execAcfree (p : BitVec 3) (a : BitVec 7) (s : State) : Out :=
  perWarpOp (.acfree p a) .own noWait noFail (fun s _ _ m x =>
    let g := (warpOf s m.warp).wg
    let b := bankArg x
    if !holds s g b then s
    else if bankInUse s g b then updWg s g fun w => { w with banks := tblUpd w.banks b fun k => { k with freed := true } }
    else updWg s g fun w => { w with banks := tblDel w.banks b }) s

/-- No operation that was issued on a freed bank remains: a is its holder, b the bank (R180). -/
def acfreeDue (s : State) (g b : Nat) : Bool := releasing s g b && !bankInUse s g b
def execAcfreeRelease (s : State) : Out :=
  if acfreeDue s s.arg.a s.arg.b then .next (updWg s s.arg.a fun w => { w with banks := tblDel w.banks s.arg.b })
  else .refused .notDue

/-- A pending completion of an accumulator instruction, for each warp of some members. -/
def accReturn (s : State) (g : Group) (ms : List Member) (writes : Nat → List RegWrite) (fp : Nat → List (Nat × BitVec 6))
    (old : List (Nat × Word) := []) : State :=
  issueLong s g ms fun w => { writes := writes w, fp := fp w, load := false, part := partOfWarp s w, old := old }

def execAczero (p : BitVec 3) (a : BitVec 7) (s : State) : Out :=
  perWarpOp (.aczero p a) .own (fun s m x => bankWait s m.warp (bankArg x)) (fun s m x => bankFail s m.warp (bankArg x) 1)
    (fun s g act m x =>
      match reach? s (warpOf s m.warp).wg (bankArg x) with
      | none => s
      | some h => accReturn (updWg s h fun w => { w with banks := tblUpd w.banks (bankArg x) fun k => { k with data := [] } })
          g act (fun _ => []) (fun _ => [])) s

/-- The bank and the element of a member's index a[15:0] (R179). -/
def idxBank (x : Src) : Nat := (lo32 x.a).toNat % 65536 / 2048
def idxElem (x : Src) : Nat := (lo32 x.a).toNat % 2048

/-- `ACRD` (R181): zero with ACUR where the bank is not readable. -/
def execAcrd (p : BitVec 3) (d a : BitVec 7) (s : State) : Out :=
  groupOp (.acrd p d a) .own (fun s m x => bankWait s m.warp (idxBank x)) noFail
    (fun s g l =>
      let rd (e : Member × Src) : Option Word :=
        (reach? s (warpOf s e.1.warp).wg (idxBank e.2)).map fun h => accGet s h (idxBank e.2) (idxElem e.2)
      let vals := l.map fun e => (e.1, ((rd e).getD 0).setWidth 128)
      (accReturn s g (l.map (·.1)) (fun w => regWrites s (shapeOf (.acrd p d a)).d w vals)
        (fun w => (l.filter fun e => e.1.warp == w && (rd e).isNone).map fun e => (e.1.lane, fpACUR)), [])) s

/-- `ACWR` (R181): ascending lane order; a helper writes nothing. -/
def execAcwr (p : BitVec 3) (d a : BitVec 7) (s : State) : Out :=
  groupOp (.acwr p d a) .own (fun s m x => bankWait s m.warp (idxBank x)) (fun s m x => bankFail s m.warp (idxBank x) 1)
    (fun s g l =>
      let s1 := l.foldl (fun s e =>
        if (thrOf s e.1).helper then s
        else match reach? s (warpOf s e.1.warp).wg (idxBank e.2) with
          | some h => accSet s h (idxBank e.2) (idxElem e.2) (lo32 e.2.d)
          | none => s) s
      (accReturn s1 g (l.map (·.1)) (fun _ => []) (fun _ => []), [])) s

/-- `ACSEED` (R183): generator word c becomes d + c × 0x9E3779B9. -/
def execAcseed (p : BitVec 3) (d a : BitVec 7) (s : State) : Out :=
  perWarpOp (.acseed p d a) .own (fun s m x => bankWait s m.warp (bankArg x)) (fun s m x => bankFail s m.warp (bankArg x) 1)
    (fun s _ _ m x =>
      match reach? s (warpOf s m.warp).wg (bankArg x) with
      | none => s
      | some h => updWg s h fun w => { w with banks := tblUpd w.banks (bankArg x) fun k =>
          { k with gens := bmSetAll k.gens ((List.range 128).map fun c => (c, lo32 x.d + BitVec.ofNat 32 (c * 0x9E3779B9))) } }) s

/-- A mask of bank numbers. -/
def bankMask (l : List Nat) : Word := l.foldl (fun m b => m ||| (1#32 <<< b)) 0

/-- `ACQRY` (R183). -/
def acqryVal (s : State) (m : Member) (q : Nat) : Word :=
  let g := (warpOf s m.warp).wg
  match q with
  | 0 => bankMask ((List.range 32).filter fun b => holds s g b)
  | 1 => bankMask ((wgOf s g).rset.map (·.1))
  | 2 => (warpOf s m.warp).shape
  | _ => bankMask ((List.range 32).filter fun b => (reach? s g b).isSome)

def execAcqry (p : BitVec 3) (d a : BitVec 7) (s : State) : Out :=
  perWarpOp (.acqry p d a) .own noWait noFail (fun s _ act m x =>
    spreadD s (.acqry p d a) act ((acqryVal s m ((lo32 x.a).toNat % 4)).setWidth 128)) s

/-! ### `ACCVT` (R182) -/

def cvtBank (x : Src) : Nat := bankArg x
def cvtCol (x : Src) : Nat := ((lo32 x.a).extractLsb' 5 7).toNat
def cvtNf (x : Src) : Nat := ((lo32 x.a).extractLsb' 12 2).toNat
def cvtOff (x : Src) : Nat := 64 * ((lo32 x.a).extractLsb' 14 12).toNat
/-- Destination format and storage width of the selector's FMT. -/
def accvtFmt (d : BitVec 7) (x : Src) : Fmt × Nat :=
  match (d.extractLsb' 4 2).toNat with
  | 0 => (bf16, 16)
  | 1 => (fp16, 16)
  | _ => (ndFmt (nfmtOf x.w (cvtNf x)), fieldBits (nfmtOf x.w (cvtNf x)))

def accvtFail (d : BitVec 7) (s : State) (m : Member) (x : Src) : Option Fail :=
  let w := (accvtFmt d x).2
  if !d.getLsbD 3 ∧ x.w.nt ≤ (d.extractLsb' 0 3).toNat then
    some { order := 1, cause := .windowRange, info := (d.extractLsb' 0 3).toNat }
  else if (d.extractLsb' 4 2 = 2#2 ∧ nfmtOf x.w (cvtNf x) = 0) ∨ cvtCol x % (512 / w) ≠ 0 then some (shapeFail x.w 2)
  else if d.getLsbD 3 ∧ (khdrOfWarp s m.warp).opbanks * 4096 < cvtOff x + 1024 then some { order := 3, cause := .bounds }
  else if d.getLsbD 6 then bankFail s m.warp (cvtBank x) 4
  else none

/-- One element converted: bank, row of numbers so far and flags pass through. -/
def accvtElem (f : Fmt) (sr : Bool) (i c : Nat) (acc : Bank × List Nat × BitVec 6) : Bank × List Nat × BitVec 6 :=
  let (bk, out, fl) := acc
  let x := genStep (bmGet bk.gens c)
  let bk := if sr then { bk with gens := bmSet bk.gens c x } else bk
  let (v, f) := deliver f (if sr then .sr x else .near) false (unpack fp32 false (bmGet bk.data (i * 128 + c)).toNat) false
  (bk, out ++ [v], fl ||| f)

/-- The image of a block of a bank: the bank afterwards, 1,024 bytes and flags. -/
def accvtImage (f : Fmt) (width : Nat) (sr : Bool) (c0 : Nat) (bk : Bank) : Bank × List Byte × BitVec 6 :=
  (List.range 16).foldl (fun (acc : Bank × List Byte × BitVec 6) i =>
    let (bk, out, fl) := (List.range (512 / width)).foldl (fun a j => accvtElem f sr i (c0 + j) a) (acc.1, [], acc.2.2)
    let v := ((List.range out.length).map fun j => out.getD j 0 * 2 ^ (width * j)).sum
    (bk, acc.2.1 ++ leBytes 64 v, fl)) (bk, [], 0)

def execAccvt (p : BitVec 3) (d a : BitVec 7) (s : State) : Out :=
  perWarpOp (.accvt p d a) .own (fun s m x => bankWait s m.warp (cvtBank x)) (accvtFail d) (fun s g act m x =>
    let (f, width) := accvtFmt d x
    let h := reach? s (warpOf s m.warp).wg (cvtBank x)
    let bk : Bank := match h with | some h => tblGet (wgOf s h).banks (cvtBank x) | none => {}
    let (bk', img, fl) := accvtImage f width (d.getLsbD 6) (cvtCol x) bk
    let s1 := match h with
      | some h => updWg s h fun w => { w with banks := tblUpd w.banks (cvtBank x) fun _ => bk' }
      | none => s
    let s2 := if d.getLsbD 3 then setOpb s1 (warpOf s m.warp).wg (cvtOff x) img
              else setTile s1 m.warp (d.extractLsb' 0 3).toNat img
    let fl := if h.isNone then fl ||| fpACUR else fl
    let old := if d.getLsbD 3 then opbWords (wgOfWarp s m.warp) (cvtOff x) 256 else tileWords x.w (d.extractLsb' 0 3).toNat
    accReturn s2 g act (fun _ => []) (fun _ => act.map fun m => (m.lane, fl)) old) s

end Sys2Proof.Machine
end

