-- ==== Sys2Proof/Machine/Order.lean ====
section
/-! DEFINITION. Acquire and release accesses, fences, `ACQR`, `CFENCE` and `IFENCE` (R205, R219 to R224). -/

namespace Sys2Proof.Machine

/-! ### Shared parts -/

/-- Members whose waits have ended stand in none. -/
def clearWaits (s : State) (ms : List Member) : State := ms.foldl (fun s m => updThr s m fun t => { t with wait := .none }) s

/-- Every write that a release of a member orders has been performed at a level, as far as it came before an identifier (R199, R222). -/
def releaseDone (s : State) (m : Member) (level n : Nat) : Bool := releasedAt s (coreOfWarp s m.warp) m.warp m.lane level n

/-- The identifier before which the accesses of a waiting member count: fixed when it began to wait (R199). -/
def releaseMark (s : State) (m : Member) : Nat :=
  match (thrOf s m).wait with
  | .release _ n => n
  | .joint _ n _ => n
  | .victim _ n => n
  | _ => s.nextId

/-- The wait of a release at a level, where it is not complete. -/
def releaseWait (s : State) (m : Member) (level : Nat) : Option Wait :=
  if (thrOf s m).helper || releaseDone s m level (releaseMark s m) then none else some (.release level (releaseMark s m))

/-- The wait of a member of an instruction whose members arrive or store in lane order, once its checks have passed for all of them: until
the release of every one is complete (R287, R293). -/
def jointWait (s : State) (ms : List Member) (level : Nat) (m : Member) : Option Wait :=
  if ms.all fun x => (releaseWait s x level).isNone then none
  else some (.joint level (releaseMark s m) ((nonHelpers s ms).map fun x => (x.warp, x.lane)))

/-- The level of a fence's scope: at warp scope the core's L1, for no later load passes an earlier store of its warp (R222). -/
def fenceLevel (scope : BitVec 3) : Nat := max 1 (levelOf scope.toNat)

/-- An acquire at a scope: the copies below the scope's point that a member's core and die hold are dropped (R200, R221). -/
def acquireAt (s : State) (m : Member) (scope : Nat) : State :=
  if (thrOf s m).helper then s else dropBelow s (coreOfWarp s m.warp) scope

/-! ### `LD.ACQ` and `ST.REL` (R220, R221) -/

/-- A load of n bytes with acquire strength at a scope, made at the scope's point: the copies below it are dropped for every member
whose load is not denied, and hold the loaded bytes from then on; a denied load synchronises with nothing. -/
def ldAcqOp (i : Instr) (scope : BitVec 3) (n : Nat) (s : State) : Out :=
  let addr (x : Src) : Nat := (lo64 x.a).toNat
  groupOp i .fwd (fun s m x => accessWait s m (addr x) n scope.toNat) (fun s m x => globalFail s m (addr x) n .load)
    (fun s g l =>
      let vals := l.map fun e => (e.1, loadedVal s e.1 (valOf (readGlobal s e.1 (addr e.2) n scope.toNat)))
      let acq := l.filter fun e => !takesForward s e.1 && !readsZeros s e.1 (addr e.2) n
      let s1 := l.foldl (fun s' e => if takesForward s e.1 then s' else accessTrace s' e.1 (addr e.2) .load 0) s
      let s2 := acq.foldl (fun s' e => acquireAt s' e.1 scope.toNat) s1
      let s3 := acq.foldl (fun s' e => keepLoad s s' e.1 (addr e.2) n scope.toNat) s2
      (loadReturn s3 g (shapeOf i) vals, [])) s

def execLdAcqB32 (p : BitVec 3) (d a : BitVec 7) (sc : BitVec 3) (s : State) : Out := ldAcqOp (.ldAcqB32 p d a sc) sc 4 s
def execLdAcqB64 (p : BitVec 3) (d a : BitVec 7) (sc : BitVec 3) (s : State) : Out := ldAcqOp (.ldAcqB64 p d a sc) sc 8 s

/-- A release write of a member that passed its checks: it enters the store queue and waits there until the writes that it
orders have been performed at its scope. A replica that does not lead only folded its entry; a shared line of a
deterministic grid is logged. -/
def storeRelease (s : State) (m : Member) (scope va : Nat) (data : List Byte) (ins : Nat := 0) : State :=
  let e := pageFor s m va
  let pa := physOf e va
  let w := warpOf s m.warp
  if (thrOf s m).helper || takesForward s m then s
  else if detShared s m.warp va then appendLog s w.wg (logEntries 0 0 va data)
  else pushWrite s { ctx := w.ctx, warp := m.warp, pcore := coreOfWarp s m.warp, part := partOfWarp s m.warp, lane := m.lane,
                     level := 0, addr := pa, data := data, key := e.key, uncached := e.uncached, rel := some (levelOf scope), ins := ins }

/-- The entries of a global store of n bytes (R370). -/
def storeEntries (va : Nat) (data : List Byte) : List SigEntry :=
  (logEntries 0 0 va data).map fun e => { addr := e.va, data := leNat e.data, mask := e.mask, kind := 0 }

/-- A store of n bytes with release strength at a scope: a comparison point of a redundant warp. -/
def stRelOp (i : Instr) (scope : BitVec 3) (n : Nat) (s : State) : Out :=
  let addr (x : Src) : Nat := (lo64 x.a).toNat
  groupOpE i .cmp (fun _ _ x => storeEntries (addr x) (bytesOf x.d n)) laterWait
    (fun s m x => storeFail s m (addr x) n (logBefore s i (fun y z => logUnits s y (addr z) n) m))
    (fun s _ l =>
      (l.foldl (fun s' e =>
        storeRelease (accessTrace s' e.1 (addr e.2) .store 0) e.1 scope.toNat (addr e.2) (bytesOf e.2.d n) s.nextId) s, [])) s

def execStRelB32 (p : BitVec 3) (d a : BitVec 7) (sc : BitVec 3) (s : State) : Out := stRelOp (.stRelB32 p d a sc) sc 4 s
def execStRelB64 (p : BitVec 3) (d a : BitVec 7) (sc : BitVec 3) (s : State) : Out := stRelOp (.stRelB64 p d a sc) sc 8 s

/-! ### Fences (R222) -/

/-- The members of a fence that passed its wait: their later loads find no copies below its scope's point. -/
def fenceRun (acq : Bool) (scope : Nat) (s : State) (l : List (Member × Src)) : State :=
  let s1 := clearWaits s (l.map (·.1))
  if acq then l.foldl (fun s e => acquireAt s e.1 scope) s1 else s1

/-- An atomic that returns its old value, an arrival, or a compare-and-swap of a member is not performed yet: an earlier load of its
thread (R205, R222). -/
def readsPending (s : State) (m : Member) : Bool :=
  (s.atoms.any fun e => e.2.ret.isSome && e.2.warp == m.warp && e.2.lane == m.lane) ||
  (s.mcas.any fun e => e.2.warp == m.warp && e.2.lane == m.lane)

/-- A fence waits until every earlier load of its thread has completed; one with release strength waits for its release too. -/
def fenceWait (rel : Bool) (scope : BitVec 3) (s : State) (m : Member) : Option Wait :=
  if rel || scope = 0#3 then
    (match releaseWait s m (fenceLevel scope) with
     | some w => some w
     | none => if acqHeld s m then some (.release (fenceLevel scope) (releaseMark s m)) else none)
  else if acqHeld s m || (!(thrOf s m).helper && readsPending s m) then some .reads else none

def fenceOp (i : Instr) (acq rel : Bool) (scope : BitVec 3) (s : State) : Out :=
  groupOp i (if rel then .cmp else .own) (fun s m _ => fenceWait rel scope s m) noFail
    (fun s _ l => (fenceRun acq scope.toNat s l, [])) s

def execFenceAcq (p sc : BitVec 3) (s : State) : Out := fenceOp (.fenceAcq p sc) true false sc s
def execFenceRel (p sc : BitVec 3) (s : State) : Out := fenceOp (.fenceRel p sc) false true sc s
def execFenceAcqrel (p sc : BitVec 3) (s : State) : Out := fenceOp (.fenceAcqrel p sc) true true sc s
/-- `FENCE.sc` takes its place in its scope's order at its step: the steps of the machine are in one order (R207). -/
def execFenceSc (p sc : BitVec 3) (s : State) : Out := fenceOp (.fenceSc p sc) true true sc s

/-! ### `ACQR` (R223) -/

/-- The victim names no core of the context. -/
def acqrFail (s : State) (m : Member) (x : Src) : Option Fail :=
  let v := (lo32 x.a).toNat
  let ctx := (warpOf s m.warp).ctx
  if (ctxOf s ctx).npkg ≤ v / 2048 % 8192 ∨ (partOf s (partKey ctx (v / 2048 % 8192))).ncores ≤ v % 2048 then
    some { order := 21, cause := .access }
  else none

/-- The victim's logical core, where it is another core than the member's own and is resident. -/
def acqrVictim (s : State) (m : Member) (x : Src) : Option Nat :=
  let lk := placeLk (warpOf s m.warp).ctx (lo32 x.a).toNat
  if lk = (wgOfWarp s m.warp).lcore then none else (lcoreOf s lk).pcore

/-- The member waits until every write that the victim's L1 has taken is merged at its home; on its own core it waits as `FENCE.acq` does. -/
def acqrWait (s : State) (m : Member) (x : Src) : Option Wait :=
  if acqHeld s m then some .acq
  else if (acqrFail s m x).isSome || (thrOf s m).helper then none
  else match acqrVictim s m x with
    | none => if placeLk (warpOf s m.warp).ctx (lo32 x.a).toNat = (wgOfWarp s m.warp).lcore ∧ readsPending s m then some .reads else none
    | some c => if performedAt s c 0 4 (releaseMark s m) then none else some (.victim c (releaseMark s m))

/-- The victim's copies and the member's own are invalidated. -/
def acqrRun (s : State) (m : Member) (x : Src) : State :=
  if (thrOf s m).helper then s
  else match acqrVictim s m x with
    | none => s
    | some c => dropBelow (dropCopies s c) (coreOfWarp s m.warp) 5

def execAcqr (p : BitVec 3) (a : BitVec 7) (s : State) : Out :=
  groupOp (.acqr p a) .own acqrWait acqrFail
    (fun s _ l => (l.foldl (fun s e => acqrRun s e.1 e.2) (clearWaits s (l.map (·.1))), [])) s

/-! ### `CFENCE` and `IFENCE` (R224) -/

/-- Constant-path copies of the member's core are discarded. -/
def dropConsts (s : State) (m : Member) : State := updLcore s (wgOfWarp s m.warp).lcore fun c => { c with cons := [] }
/-- Code lines of the member's core are discarded. -/
def dropCode (s : State) (m : Member) : State := updLcore s (wgOfWarp s m.warp).lcore fun c => { c with code := [] }

def execCfence (p : BitVec 3) (s : State) : Out :=
  effectOp (.cfence p) noFail (fun s _ l => (nonHelpers s (l.map (·.1))).foldl dropConsts s) s
def execIfence (p : BitVec 3) (s : State) : Out :=
  effectOp (.ifence p) noFail (fun s _ l => (nonHelpers s (l.map (·.1))).foldl dropCode s) s

end Sys2Proof.Machine
end

