-- ==== Sys2Proof/Machine/Atomics.lean ====
section
/-! DEFINITION. Integer and floating-point atomics and reductions: their values (R226, R230), their checks and issue (R219,
R225, R228, R231), their place at home (R208, R227), posted operations (R281, R282) and the serial phase of a
deterministic grid (R270, R271). -/

namespace Sys2Proof.Machine

/-! ### Values -/

/-- A w-bit number as a signed one. -/
def signedOf (w v : Nat) : Int := if v < 2 ^ (w - 1) then v else (v : Int) - 2 ^ w

/-- The new value of an integer atomic of w bits (R226); none writes nothing. Operation 11 compares with v and writes b. -/
def atomNew (op w old v b : Nat) : Option Nat :=
  match op with
  | 0 => some ((old + v) % 2 ^ w)
  | 1 => some (if signedOf w v < signedOf w old then v else old)
  | 2 => some (min old v)
  | 3 => some (if signedOf w old < signedOf w v then v else old)
  | 4 => some (max old v)
  | 5 => some (old &&& v)
  | 6 => some (old ||| v)
  | 7 => some (old ^^^ v)
  | 8 => some v
  | 9 => some (if v ≤ old then 0 else old + 1)
  | 10 => some (if old = 0 ∨ v < old then v else old - 1)
  | _ => if old = v then some b else none

/-- The new value and the flags of a floating-point atomic (R230): one rounding, to nearest even, subnormals kept. -/
def fatomNew (op old v : Nat) : Nat × BitVec 6 :=
  let bin (f : Fmt) (g : RMode → FVal → FVal → Exact) (x y : Nat) : FOut :=
    finish f .near false (with2 (g .near) (unpack f false x) (unpack f false y))
  match op with
  | 0 => bin fp32 addOp old v
  | 1 =>
    let l := bin bf16 addOp (old % 65536) (v % 65536)
    let h := bin bf16 addOp (old / 65536) (v / 65536)
    (h.1 * 65536 + l.1, l.2 ||| h.2)
  | 2 => bin fp64 addOp old v
  | 3 => bin fp32 minOp old v
  | 4 => bin fp32 maxOp old v
  | 5 => bin fp64 minOp old v
  | _ => bin fp64 maxOp old v

/-- The new value, where one is written, and the flags of an operation on a word of n bytes. -/
def rmwNew (kind op n old v b : Nat) : Option Nat × BitVec 6 :=
  if kind = 1 then let (x, f) := fatomNew op old v; (some x, f) else (atomNew op (8 * n) old v b, 0)

/-- Flags of a floating-point atomic, kept for its grid and for its context (R230). -/
def keepAtomFlags (s : State) (grid part : Nat) (f : BitVec 6) : State :=
  if f = 0 then s
  else updCtx (updGrid s grid fun g => { g with flags := g.flags ||| f.extractLsb' 0 5 }) (part / 8192) fun c =>
    { c with atomFlags := c.atomFlags ||| f.extractLsb' 0 5 }

/-! ### The serial state of a deterministic workgroup (R270) -/

/-- One log entry applied to the 8 bytes at its address. -/
def applyEntry (e : LogEntry) (old : Nat) : Nat × BitVec 6 :=
  let o := leBytes 8 old
  if e.kind = 1 ∨ e.kind = 2 then
    let off := if e.mask % 16 = 0 then 4 else 0
    let n := if e.mask = 255 then 8 else 4
    let (v, f) := rmwNew (e.kind - 1) e.opc n (leNat ((o.drop off).take n)) (leNat ((e.data.drop off).take n)) 0
    match v with
    | some v => (leNat (o.take off ++ leBytes n v ++ o.drop (off + n)), f)
    | none => (old, f)
  else (leNat ((List.range 8).map fun k => if e.mask / 2 ^ k % 2 = 1 then e.data.getD k 0 else o.getD k 0), 0)

/-- n bytes of the serial state that a member sees: memory with its workgroup's own log over it. -/
def serialNat (s : State) (m : Member) (e : TlbEntry) (va n : Nat) : Nat :=
  let base := va / 8 * 8
  let v := (wgOfWarp s m.warp).log.foldl (fun v x => if x.va = base then (applyEntry x v).1 else v)
    (leNat ((List.range 8).map fun k => homeByte s (physOf e base + k) e.key))
  leNat (((leBytes 8 v).drop (va - base)).take n)

/-- Every workgroup below block b of a deterministic grid has its log applied; a block that a cancel dropped has none (R270, R277). -/
def serialOpen (g : Grid) (b : Nat) : Bool :=
  decide (b ≤ g.nextLog) || (g.cancelled && g.cancelTo.isEmpty && g.started.all fun x => decide (x < g.nextLog) || decide (b ≤ x))
/-- A returning operation on a shared line waits for the lower workgroups (R270). -/
def serialWait (s : State) (m : Member) (va : Nat) : Option Wait :=
  if detShared s m.warp va && !serialOpen (gridOf s (wgOfWarp s m.warp).grid) (wgOfWarp s m.warp).block then some .serial
  else none

/-- A write of a workgroup logged. -/
def logWrite (s : State) (w kind opc va : Nat) (data : List Byte) : State :=
  appendLog s (warpOf s w).wg (logEntries kind opc va data)

/-! ### Checks and issue -/

/-- What an atomic instruction is: kind, operation, bytes, whether it returns, and MIN. -/
structure AtomForm where
  kind : Nat
  opc : Nat
  n : Nat
  ret : Bool
  sub : Nat
deriving DecidableEq, Repr

/-- An atomic that host memory does not take: a floating-point one, and behind a PCIe port any but add, exchange and
compare-and-swap (R66, R396). -/
def hostRefuses (s : State) (kind opc pa : Nat) : Bool :=
  (kind == 1 && hostLocal (gpLocal pa)) || (hostPcie s pa && kind == 0 && !(opc == 0 || opc == 8 || opc == 11))

/-- The checks of an atomic of a member (R219, R228, R229, R271): a page fault of a form that does not return is no failure; `before`
counts the log entries of the members before it. -/
def atomFail (fm : AtomForm) (s : State) (m : Member) (va before : Nat) : Option Fail :=
  match globalFail s m va fm.n .store with
  | some f => if f.cause = .pageFault ∧ !fm.ret then logFail s m va before (logUnits s m va fm.n) else some f
  | none =>
    let pa := physOf (pageFor s m va) va
    if isOnChip (gpLocal pa) || hostRefuses s fm.kind fm.opc pa then some { order := 25, sub := 7, cause := .access, addr := va }
    else if fm.ret && !takesForward s m && poisoned s pa fm.n then some { order := 27, cause := .memPoison, addr := va }
    else logFail s m va before (logUnits s m va fm.n)

/-- The log entries that the members before one add with an atomic instruction. -/
def atomBefore (i : Instr) (fm : AtomForm) (s : State) (m : Member) : Nat :=
  logBefore s i (fun y z => logUnits s y (lo64 z.a).toNat fm.n) m

/-- Operand, and the new value of a compare-and-swap, from D. -/
def atomOperand (fm : AtomForm) (x : Src) : Pair × Pair :=
  if fm.kind = 0 ∧ fm.opc = 11 then
    (if fm.n = 4 then ((x.d.extractLsb' 0 32).setWidth 64, (x.d.extractLsb' 32 32).setWidth 64)
     else (x.d.extractLsb' 0 64, x.d.extractLsb' 64 64))
  else (if fm.n = 4 then (lo32 x.d).setWidth 64 else lo64 x.d, 0)

/-- The signature entries of an atomic (R370): `CAS` folds its compare value, then its new value. -/
def atomEntries (fm : AtomForm) (b : BitVec 7) (_ : State) (_ : Member) (x : Src) : List SigEntry :=
  let va := (lo64 x.a).toNat
  let (v, w) := atomOperand fm x
  let mask := (2 ^ fm.n - 1) * 2 ^ (va % 8)
  let e (d : Pair) : SigEntry :=
    { addr := va / 8 * 8, data := d.toNat, mask := mask, kind := if fm.kind = 1 then 3 else 2, op := b.toNat }
  if fm.kind = 0 ∧ fm.opc = 11 then [e v, e w] else [e v]

/-- The atomic of a member as it leaves its core. -/
def atomOf (fm : AtomForm) (s : State) (m : Member) (x : Src) (ins : Nat := 0) : Atom :=
  let w := warpOf s m.warp
  let va := (lo64 x.a).toNat
  let e := pageFor s m va
  { ctx := w.ctx, part := partOfWarp s m.warp, grid := (wgOfWarp s m.warp).grid, warp := m.warp, lane := m.lane,
    pcore := coreOfWarp s m.warp, va := va, addr := physOf e va, key := e.key, size := fm.n, kind := fm.kind, opc := fm.opc,
    sub := fm.sub, ident := w.ident, a := (atomOperand fm x).1, b := (atomOperand fm x).2,
    place := lkPlace (wgOfWarp s m.warp).lcore, slot := if (wgOfWarp s m.warp).seqi then 0x7F else w.slot, ins := ins }

def pushAtom (s : State) (a : Atom) : State := { s with atoms := s.atoms ++ [(s.nextId, a)], nextId := s.nextId + 1 }

/-- The record of a posted operation, or of a reduction on poison (R342). -/
def atomRecord (a : Atom) (c : Cause) (src : Nat) : FaultRec :=
  { cause := causeCode c, src := src, place := a.place, slot := a.slot, lane := a.lane, addr := a.va, info := a.a.toNat,
    info2 := if src = 5 then a.sub + 256 * a.opc else 0, grid := a.grid }

/-- An operation is held until its record is answered (R281). -/
def postAtom (s : State) (id : Nat) (c : Cause) : State :=
  let a := tblGet s.atoms id
  let seq := nextSeq s a.part
  addAwait (appendFault { s with atoms := tblUpd s.atoms id fun a => { a with posted := some seq } } a.part (atomRecord a c 5))
    a.part seq (.posted id)

/-- A reduction of a member (R225, R229): logged, posted, or on its way. -/
def issueRed (fm : AtomForm) (ins : Nat) (s : State) (m : Member) (x : Src) : State :=
  let va := (lo64 x.a).toNat
  if (thrOf s m).helper || takesForward s m then s
  else if detShared s m.warp va then logWrite s m.warp (fm.kind + 1) fm.opc va (leBytes fm.n (atomOperand fm x).1.toNat)
  else
    let s1 := pushAtom (accessTrace s m va .store 0) (atomOf fm s m x ins)
    if (globalFail s m va fm.n .store).isSome then postAtom s1 s.nextId .pageFault else s1

/-- The first register of D for a returning member: its own, or the warp's uniform one, which only the lowest active
member writes; 1024 is none. -/
def retReg (s : State) (ms : List Member) (m : Member) (d : BitVec 7) : Nat :=
  if d.toNat < 96 then (thrOf s m).base + d.toNat
  else if d.toNat < 112 ∧ leadOf s ms m.warp = some m then 512 + (d.toNat - 96) else 1024

/-- The uniform registers that D of n words names. -/
def uniOf (d : BitVec 7) (n : Nat) : List Nat :=
  if 96 ≤ d.toNat ∧ d.toNat < 112 then (List.range n).map fun j => 512 + (d.toNat - 96) + j else []

/-- Words of a returned value. -/
def retWrites (lane reg n : Nat) (old : Nat) : List RegWrite :=
  if reg ≥ 1024 then []
  else (List.range ((n + 3) / 4)).map fun j => { lane := lane, reg := reg + j, val := BitVec.ofNat 32 (old / 2 ^ (32 * j)) }

/-- An old value and flags reach a pending return. -/
def landOld (s : State) (id lane reg n old : Nat) (f : BitVec 6) : State :=
  updLoad s id fun l => { l with writes := l.writes ++ retWrites lane reg n old, fp := if f = 0 then l.fp else l.fp ++ [(lane, f)] }

/-- A returned value as it is forwarded: the old value, and the flags above it. -/
def packRet (old : Nat) (f : BitVec 6) : Val := BitVec.ofNat 128 (old + f.toNat * 2 ^ 64)

/-- A returning atomic of a member whose return is pending under an identifier (R225, R229, R231). -/
def issueAtom (fm : AtomForm) (d : BitVec 7) (ins : Nat) (ms : List Member) (id : Nat) (s : State) (m : Member) (x : Src) : State :=
  let va := (lo64 x.a).toNat
  let reg := retReg s ms m d
  if (thrOf s m).helper then s
  else if takesForward s m then
    let v := (fwdVal? s m).getD 0
    takeFwd (landOld s id m.lane reg fm.n (v.extractLsb' 0 64).toNat (v.extractLsb' 64 6)) m
  else if detShared s m.warp va then
    let old := serialNat s m (pageFor s m va) va fm.n
    let (new, f) := rmwNew fm.kind fm.opc fm.n old (atomOperand fm x).1.toNat (atomOperand fm x).2.toNat
    let s1 := match new with
      | some v => logWrite s m.warp 0 0 va (leBytes fm.n v)
      | none => s
    forward (landOld (keepAtomFlags s1 (wgOfWarp s m.warp).grid (partOfWarp s m.warp) f) id m.lane reg fm.n old f) m (packRet old f)
  else
    let s1 := pushAtom (accessTrace s m va .store 0) { atomOf fm s m x ins with ret := some id, reg := reg }
    updLoad s1 id fun l => { l with waits := l.waits ++ [s.nextId] }

/-- Pending returns of the represented warps, and then the operations of each warp's members in ascending lane order. -/
def issueReturning (s : State) (g : Group) (l : List (Member × Src)) (d : BitVec 7) (n : Nat)
    (one : List Member → Nat → State → Member → Src → State) : State :=
  let ms := l.map (·.1)
  (warpsIn ms).foldl (fun s w =>
    let own := ms.filter fun m => m.warp == w
    let s1 := issueLong s g own fun v => { load := true, part := partOfWarp s v }
    let s2 := if (leadOf s own w).isSome then markUniform s1 w s.nextId (uniOf d n) else s1
    (l.filter fun e => e.1.warp == w).foldl (fun s' e => one ms s.nextId s' e.1 e.2) s2) s

/-- A returning atomic instruction. -/
def atomOp (i : Instr) (fm : AtomForm) (d b : BitVec 7) (s : State) : Out :=
  groupOpE i .both (atomEntries fm b)
    (fun s m x => match laterWait s m x with | some w => some w | none => serialWait s m (lo64 x.a).toNat)
    (fun s m x => atomFail fm s m (lo64 x.a).toNat (atomBefore i fm s m))
    (fun s g l => (issueReturning s g l d ((fm.n + 3) / 4) (issueAtom fm d s.nextId), [])) s

/-- A reduction instruction. -/
def reductionOp (i : Instr) (fm : AtomForm) (b : BitVec 7) (s : State) : Out :=
  groupOpE i .cmp (atomEntries fm b) laterWait (fun s m x => atomFail fm s m (lo64 x.a).toNat (atomBefore i fm s m))
    (fun s _ l => (l.foldl (fun s' e => issueRed fm s.nextId s' e.1 e.2) s, [])) s

/-- The operation code of a B selector. -/
def opcOf (b : BitVec 7) : Nat := (b.extractLsb' 0 4).toNat

def execAtomB32 (p : BitVec 3) (d a b : BitVec 7) (s : State) : Out := atomOp (.atomB32 p d a b) ⟨0, opcOf b, 4, true, 0⟩ d b s
def execAtomB64 (p : BitVec 3) (d a b : BitVec 7) (s : State) : Out := atomOp (.atomB64 p d a b) ⟨0, opcOf b, 8, true, 1⟩ d b s
/-- B of a compare-and-swap: its scope and operation 11. -/
def casB (sc : BitVec 3) : BitVec 7 := sc ++ 11#4
def execCasB32 (p : BitVec 3) (d a : BitVec 7) (sc : BitVec 3) (s : State) : Out :=
  atomOp (.casB32 p d a sc) ⟨0, 11, 4, true, 0⟩ d (casB sc) s
def execCasB64 (p : BitVec 3) (d a : BitVec 7) (sc : BitVec 3) (s : State) : Out :=
  atomOp (.casB64 p d a sc) ⟨0, 11, 8, true, 1⟩ d (casB sc) s
def execRedB32 (p : BitVec 3) (d a b : BitVec 7) (s : State) : Out := reductionOp (.redB32 p d a b) ⟨0, opcOf b, 4, false, 2⟩ b s
def execRedB64 (p : BitVec 3) (d a b : BitVec 7) (s : State) : Out := reductionOp (.redB64 p d a b) ⟨0, opcOf b, 8, false, 3⟩ b s
def execFatom (p : BitVec 3) (d a b : BitVec 7) (s : State) : Out :=
  atomOp (.fatom p d a b) ⟨1, opcOf b, 4 * fatomWidth b, true, 0⟩ d b s
def execFatomNr (p : BitVec 3) (d a b : BitVec 7) (s : State) : Out :=
  reductionOp (.fatomNr p d a b) ⟨1, opcOf b, 4 * fatomWidth b, false, 1⟩ b s

/-! ### At the serialisation point (R208, R227) -/

/-- The 8-byte units that an operation covers. -/
def unitsMeet (a n b m : Nat) : Bool := overlaps (a / 8 * 8) ((a % 8 + n + 7) / 8 * 8) (b / 8 * 8) ((b % 8 + m + 7) / 8 * 8)
/-- A unit of 4 KiB of the bytes waits to be copied for a cut (R363). -/
def unitProtected (s : State) (a n : Nat) : Bool := s.protU.any fun e => overlaps (e.1 * 65536) 65536 a n

/-- An earlier operation comes before an atomic on the same aligned 8 bytes: one of its thread, or of a lower lane of its instruction
(R227). -/
def atomFirst (a b : Atom) : Bool :=
  a.posted.isNone && ((a.warp == b.warp && a.lane == b.lane) || (decide (b.ins ≠ 0) && a.ins == b.ins)) &&
  unitsMeet a.addr a.size b.addr b.size

/-- An atomic stands at its home: earlier operations of its thread and of the lower lanes of its instruction on its bytes come first, and
every earlier write of its bytes that its warp sees is merged; its unit is not protected, and an arrival's release is complete (R206,
R227, R290, R363). -/
def atomFree (s : State) (id : Nat) (a : Atom) : Bool :=
  a.posted.isNone && reaches s (a.pcore / 1280) a.addr && !unitProtected s a.addr a.size &&
  (s.atoms.all fun e => !(decide (e.1 < id) && atomFirst e.2 a)) &&
  mergedBefore s a.pcore a.warp a.addr a.size id && tilesDone s a.warp id && !recReads s a.warp a.addr a.size id &&
  (a.kind != 2 || releasedAt s a.pcore a.warp a.lane a.opc id)

/-- An atomic may be performed: its home takes it (R210). -/
def atomReady (s : State) (id : Nat) (a : Atom) : Bool := atomFree s id a && homeTakes s a.turn a.addr a.size

/-- The arrival at a barrier object (R290): PHASE before it, and the object's first 16 bytes after it. -/
def arriveNew (o : List Byte) : Nat × List Byte :=
  let expect := leNat (o.take 4)
  let count := leNat ((o.drop 4).take 4)
  let phase := leNat ((o.drop 8).take 8)
  (phase,
   if expect ≤ count + 1 then leBytes 4 expect ++ leBytes 4 0 ++ leBytes 8 (phase + 1)
   else leBytes 4 expect ++ leBytes 4 (count + 1) ++ leBytes 8 phase)

/-- The return of an operation: to its pending return, and forwarded to the replicas. -/
def returnOld (s : State) (id : Nat) (a : Atom) (n old : Nat) (f : BitVec 6) : State :=
  match a.ret with
  | none => s
  | some l =>
    forward (updLoad (landOld s l a.lane a.reg n old f) l fun x => { x with waits := x.waits.filter (· != id) })
      ⟨a.lane, a.warp⟩ (packRet old f)

/-- `ATOMIC_PERFORM`: the operation at its serialisation point. A reduction leaves a poisoned word as it is, with a record; an operation
that returns its old value passed its check of poison at the instruction, and comes before poison that arose since (R228). -/
def performAtom (s : State) (id : Nat) : State :=
  let a := tblGet s.atoms id
  let s0 := { s with atoms := tblDel s.atoms id }
  if a.ret.isNone && poisoned s a.addr a.size then appendFault s0 a.part (atomRecord a .memPoison 6)
  else
    let o := (List.range a.size).map fun k => homeByte s (a.addr + k) a.key
    if a.kind = 2 then
      let (phase, o') := arriveNew o
      returnOld (dropCopiesOf (putHome s0 a.addr a.key o') a.pcore a.addr 16) id a 8 phase 0
    else
      let (new, f) := rmwNew a.kind a.opc a.size (leNat o) a.a.toNat a.b.toNat
      let s1 := match new with
        | some v => putHome s0 a.addr a.key (leBytes a.size v)
        | none => s0
      returnOld (keepAtomFlags (dropCopiesOf s1 a.pcore a.addr a.size) a.grid a.part f) id a a.size (leNat o) f

def execAtomicPerform (s : State) : Out :=
  match tblGet? s.atoms s.arg.a with
  | some a => if atomReady s s.arg.a a then .next (performAtom s s.arg.a) else .refused .notDue
  | none => .refused .notDue

/-! ### Posted operations (R281, R282) -/

/-- A posted operation may be replayed: its record is answered, and earlier posted ones of its thread on its bytes are done. -/
def replayReady (s : State) (id : Nat) (a : Atom) : Bool :=
  a.posted == some 0 &&
  (s.atoms.all fun e => !(decide (e.1 < id) && e.2.posted.isSome && e.2.warp == a.warp && e.2.lane == a.lane && unitsMeet e.2.va e.2.size a.va a.size))

/-- The replay: the address is translated and checked again; a failure is recorded anew, and the operation stays held. -/
def replayAtom (s : State) (id : Nat) : State :=
  let a := tblGet s.atoms id
  match translate s a.part a.va .store with
  | .error c => postAtom s id c
  | .ok e =>
    if !tagAllows s a.part a.ident.toNat e.tag then postAtom s id .tagDenied
    else if isOnChip (gpLocal (physOf e a.va)) || hostRefuses s a.kind a.opc (physOf e a.va) then postAtom s id .access
    else { fillClr (fillTlb s a.part e) a.part a.ident.toNat e.tag with
             atoms := tblUpd s.atoms id fun x => { x with posted := none, addr := physOf e a.va, key := e.key } }

def execPostedOperationReplay (s : State) : Out :=
  match tblGet? s.atoms s.arg.a with
  | some a => if replayReady s s.arg.a a then .next (replayAtom s s.arg.a) else .refused .notDue
  | none => .refused .notDue

/-- A held operation is dropped: memory stays, an ORPHAN_POSTED record is appended and counted (R282). -/
def dropPosted (s : State) (id : Nat) : State :=
  let a := tblGet s.atoms id
  appendFault (updGrid { s with atoms := tblDel s.atoms id } a.grid fun g => { g with orphans := g.orphans + 1, lost := true })
    a.part (atomRecord a .orphanPosted 5)

/-! ### The serial phase (R271) -/

/-- A logged reduction of a holder as an operation. -/
def logAtom (s : State) (g : Nat) (e : LogEntry) : Atom :=
  let w := wgOf s g
  let off := if e.mask % 16 = 0 then 4 else 0
  let n := if e.mask = 255 then 8 else 4
  { ctx := w.ctx, part := lkPart w.lcore, grid := w.grid, pcore := coreOfL s w.lcore, va := e.va + off, size := n, kind := e.kind - 1,
    opc := e.opc, sub := if e.kind = 2 then 1 else if n = 4 then 2 else 3, ident := (gridOf s w.grid).ident,
    a := BitVec.ofNat 64 (leNat ((e.data.drop off).take n)), place := lkPlace w.lcore }

/-- One log entry applied to memory: a store's bytes, or a reduction; a page fault of a reduction posts it (R228). -/
def applyLog (s : State) (g : Nat) (e : LogEntry) : State :=
  let w := wgOf s g
  let part := lkPart w.lcore
  match translate s part e.va .store with
  | .error c =>
    if (e.kind = 1 ∨ e.kind = 2) ∧ c = .pageFault then postAtom (pushAtom s (logAtom s g e)) s.nextId .pageFault
    else s
  | .ok p =>
    let pa := physOf p e.va
    let old := leNat ((List.range 8).map fun k => homeByte s (pa + k) p.key)
    let (v, f) := applyEntry e old
    if (e.kind = 1 ∨ e.kind = 2) ∧ poisoned s pa 8 = true then
      appendFault s part (atomRecord (logAtom s g e) .memPoison 6)
    else keepAtomFlags ((List.range 8).foldl (fun s k =>
      if e.mask / 2 ^ k % 2 = 1 then putHome s (pa + k) p.key [(leBytes 8 v).getD k 0] else s) (fillTlb s part p)) w.grid part f

end Sys2Proof.Machine
end

