-- ==== Sys2Proof/Machine/IntArith.lean ====
section
/-! DEFINITION. Integer arithmetic, moves and address arithmetic (R84 to R88, R92). -/

namespace Sys2Proof.Machine

/-- Functions of a and b, of one word and of pairs. -/
def bin32 (f : Word → Word → Word) (x : Src) : Res := res32 (f (lo32 x.a) (lo32 x.b))
def un32 (f : Word → Word) (x : Src) : Res := res32 (f (lo32 x.a))
def bin64 (f : Pair → Pair → Pair) (x : Src) : Res := res64 (f (lo64 x.a) (lo64 x.b))

/-- High halves of the products (R84). -/
def mulHiU (a b : Word) : Word := BitVec.ofNat 32 (a.toNat * b.toNat / 2 ^ 32)
def mulHiS (a b : Word) : Word := BitVec.ofInt 32 (a.toInt * b.toInt / 2 ^ 32)
/-- Shifts: a count of the width or more leaves zeros, or the sign (R84, R87). -/
def shlW {w : Nat} (a : BitVec w) (n : Word) : BitVec w := if n.toNat ≥ w then 0 else a <<< n.toNat
def shrW {w : Nat} (a : BitVec w) (n : Word) : BitVec w := if n.toNat ≥ w then 0 else a >>> n.toNat
def sarW {w : Nat} (a : BitVec w) (n : Word) : BitVec w :=
  if n.toNat ≥ w then (if a.msb then BitVec.allOnes w else 0) else a.sshiftRight n.toNat
def rotW (a n : Word) : Word := a.rotateLeft (n.toNat % 32)
/-- Leading zeros, one bits, reversed bits of the first n bits (R84). -/
def clzN (a : Word) : Nat → Nat
  | 0 => 0
  | n + 1 => if a.getLsbD n then 0 else clzN a n + 1
def clzW (a : Word) : Word := BitVec.ofNat 32 (clzN a 32)
def popN (a : Word) : Nat → Nat
  | 0 => 0
  | n + 1 => popN a n + (a.getLsbD n).toNat
def popcW (a : Word) : Word := BitVec.ofNat 32 (popN a 32)
def brevW (a : Word) : Word := BitVec.ofNat 32 ((List.range 32).foldl (fun acc k => 2 * acc + (a.getLsbD k).toNat) 0)
def absW (a : Word) : Word := if a.msb then 0 - a else a
def minS (a b : Word) : Word := if b.slt a then b else a
def minU (a b : Word) : Word := if b.ult a then b else a
def maxS (a b : Word) : Word := if a.slt b then b else a
def maxU (a b : Word) : Word := if a.ult b then b else a

/-- The bit field of R86: position, and one past its top. -/
def fieldPos (b : Word) : Nat := b.toNat % 32
def fieldTop (b : Word) : Nat := min (fieldPos b + min (b.toNat / 256 % 64) 32) 32
/-- The field of a, zero-extended. -/
def bfxU (a b : Word) : Word := BitVec.ofNat 32 (a.toNat / 2 ^ fieldPos b % 2 ^ (fieldTop b - fieldPos b))
/-- The field of a, extended from its top bit. -/
def bfxS (a b : Word) : Word :=
  let n := fieldTop b - fieldPos b
  let v := (bfxU a b).toNat
  if n = 0 then 0 else if v / 2 ^ (n - 1) % 2 = 1 then BitVec.ofInt 32 ((v : Int) - 2 ^ n) else BitVec.ofNat 32 v
/-- The field's bits of d replaced by the low bits of a. -/
def bfiW (d a b : Word) : Word :=
  let m : Word := BitVec.ofNat 32 ((2 ^ (fieldTop b - fieldPos b) - 1) * 2 ^ fieldPos b)
  (d &&& ~~~m) ||| ((a <<< fieldPos b) &&& m)

/-- Add and subtract with carry or borrow through p6 (R85). -/
def addcRes32 (x : Src) : Res :=
  let c := predOf x.t 6
  { d := (lo32 x.a + lo32 x.b + BitVec.ofNat 32 c.toNat).setWidth 128, preds := [(6, carryOut (lo32 x.a) (lo32 x.b) c)] }
def subbRes32 (x : Src) : Res :=
  let c := predOf x.t 6
  { d := (lo32 x.a - lo32 x.b - BitVec.ofNat 32 c.toNat).setWidth 128, preds := [(6, borrowOut (lo32 x.a) (lo32 x.b) c)] }
def addcRes64 (x : Src) : Res :=
  let c := predOf x.t 6
  { d := (lo64 x.a + lo64 x.b + BitVec.ofNat 64 c.toNat).setWidth 128, preds := [(6, carryOut (lo64 x.a) (lo64 x.b) c)] }
def subbRes64 (x : Src) : Res :=
  let c := predOf x.t 6
  { d := (lo64 x.a - lo64 x.b - BitVec.ofNat 64 c.toNat).setWidth 128, preds := [(6, borrowOut (lo64 x.a) (lo64 x.b) c)] }

def execAddI32 (p : BitVec 3) (d a b : BitVec 7) (s : State) : Out := regOp (.addI32 p d a b) (bin32 (· + ·)) s
def execSubI32 (p : BitVec 3) (d a b : BitVec 7) (s : State) : Out := regOp (.subI32 p d a b) (bin32 (· - ·)) s
def execAddc (p : BitVec 3) (d a b : BitVec 7) (s : State) : Out := regOp (.addc p d a b) addcRes32 s
def execSubb (p : BitVec 3) (d a b : BitVec 7) (s : State) : Out := regOp (.subb p d a b) subbRes32 s
def execAddI64 (p : BitVec 3) (d a b : BitVec 7) (s : State) : Out := regOp (.addI64 p d a b) (bin64 (· + ·)) s
def execSubI64 (p : BitVec 3) (d a b : BitVec 7) (s : State) : Out := regOp (.subI64 p d a b) (bin64 (· - ·)) s
def execAddcI64 (p : BitVec 3) (d a b : BitVec 7) (s : State) : Out := regOp (.addcI64 p d a b) addcRes64 s
def execSubbI64 (p : BitVec 3) (d a b : BitVec 7) (s : State) : Out := regOp (.subbI64 p d a b) subbRes64 s
def execMullo (p : BitVec 3) (d a b : BitVec 7) (s : State) : Out := regOp (.mullo p d a b) (bin32 (· * ·)) s
def execMulhiUs (p : BitVec 3) (d a b : BitVec 7) (s : State) : Out := regOp (.mulhiUs p d a b) (bin32 mulHiU) s
def execMulhiSg (p : BitVec 3) (d a b : BitVec 7) (s : State) : Out := regOp (.mulhiSg p d a b) (bin32 mulHiS) s
def execMad (p : BitVec 3) (d a b : BitVec 7) (s : State) : Out :=
  regOp (.mad p d a b) (fun x => res32 (lo32 x.a * lo32 x.b + lo32 x.d)) s
def execAndB (p : BitVec 3) (d a b : BitVec 7) (s : State) : Out := regOp (.andB p d a b) (bin32 (· &&& ·)) s
def execOrB (p : BitVec 3) (d a b : BitVec 7) (s : State) : Out := regOp (.orB p d a b) (bin32 (· ||| ·)) s
def execXorB (p : BitVec 3) (d a b : BitVec 7) (s : State) : Out := regOp (.xorB p d a b) (bin32 (· ^^^ ·)) s
def execNotB (p : BitVec 3) (d a : BitVec 7) (s : State) : Out := regOp (.notB p d a) (un32 (~~~ ·)) s
def execShl (p : BitVec 3) (d a b : BitVec 7) (s : State) : Out := regOp (.shl p d a b) (bin32 shlW) s
def execShr (p : BitVec 3) (d a b : BitVec 7) (s : State) : Out := regOp (.shr p d a b) (bin32 shrW) s
def execSar (p : BitVec 3) (d a b : BitVec 7) (s : State) : Out := regOp (.sar p d a b) (bin32 sarW) s
def execRot (p : BitVec 3) (d a b : BitVec 7) (s : State) : Out := regOp (.rot p d a b) (bin32 rotW) s
def execMinSg (p : BitVec 3) (d a b : BitVec 7) (s : State) : Out := regOp (.minSg p d a b) (bin32 minS) s
def execMinUs (p : BitVec 3) (d a b : BitVec 7) (s : State) : Out := regOp (.minUs p d a b) (bin32 minU) s
def execMaxSg (p : BitVec 3) (d a b : BitVec 7) (s : State) : Out := regOp (.maxSg p d a b) (bin32 maxS) s
def execMaxUs (p : BitVec 3) (d a b : BitVec 7) (s : State) : Out := regOp (.maxUs p d a b) (bin32 maxU) s
def execAbs (p : BitVec 3) (d a : BitVec 7) (s : State) : Out := regOp (.abs p d a) (un32 absW) s
def execNeg (p : BitVec 3) (d a : BitVec 7) (s : State) : Out := regOp (.neg p d a) (un32 fun a => 0 - a) s
def execClz (p : BitVec 3) (d a : BitVec 7) (s : State) : Out := regOp (.clz p d a) (un32 clzW) s
def execPopc (p : BitVec 3) (d a : BitVec 7) (s : State) : Out := regOp (.popc p d a) (un32 popcW) s
def execBrev (p : BitVec 3) (d a : BitVec 7) (s : State) : Out := regOp (.brev p d a) (un32 brevW) s
def execBfxUs (p : BitVec 3) (d a b : BitVec 7) (s : State) : Out := regOp (.bfxUs p d a b) (bin32 bfxU) s
def execBfxSg (p : BitVec 3) (d a b : BitVec 7) (s : State) : Out := regOp (.bfxSg p d a b) (bin32 bfxS) s
def execBfi (p : BitVec 3) (d a b : BitVec 7) (s : State) : Out :=
  regOp (.bfi p d a b) (fun x => res32 (bfiW (lo32 x.d) (lo32 x.a) (lo32 x.b))) s
def execMov (p : BitVec 3) (d a : BitVec 7) (s : State) : Out := regOp (.mov p d a) (un32 id) s
def execMovI64 (p : BitVec 3) (d a : BitVec 7) (s : State) : Out := regOp (.movI64 p d a) (fun x => res64 (lo64 x.a)) s
def execShlI64 (p : BitVec 3) (d a b : BitVec 7) (s : State) : Out :=
  regOp (.shlI64 p d a b) (fun x => res64 (shlW (lo64 x.a) (lo32 x.b))) s
def execShrI64 (p : BitVec 3) (d a b : BitVec 7) (s : State) : Out :=
  regOp (.shrI64 p d a b) (fun x => res64 (shrW (lo64 x.a) (lo32 x.b))) s
def execSarI64 (p : BitVec 3) (d a b : BitVec 7) (s : State) : Out :=
  regOp (.sarI64 p d a b) (fun x => res64 (sarW (lo64 x.a) (lo32 x.b))) s
def execMovi (p : BitVec 3) (d : BitVec 7) (i : BitVec 9) (s : State) : Out :=
  regOp (.movi p d i) (fun _ => res32 (i.signExtend 32)) s
def execAddI32Immediate (p : BitVec 3) (d a : BitVec 7) (i : BitVec 9) (s : State) : Out :=
  regOp (.addI32Immediate p d a i) (un32 (· + i.signExtend 32)) s

/-- `LEA` (R92): bits [31:29] of b scale its low 29 bits, read as signed. -/
def leaPair (a : Pair) (b : Word) : Pair := a + ((b.extractLsb' 0 29).signExtend 64 <<< (b.extractLsb' 29 3).toNat)
def execLea (p : BitVec 3) (d a b : BitVec 7) (s : State) : Out :=
  regOp (.lea p d a b) (fun x => res64 (leaPair (lo64 x.a) (lo32 x.b))) s

/-- A uniform number at or above S (R37, R88). -/
def uniFail (n : Nat) (_ : State) (_ : Member) (x : Src) : Option Fail :=
  if x.w.ns ≤ n then some { order := 0, cause := .windowRange, info := n } else none

/-- `SMOV` to a uniform register: the value of each warp's lowest active member that is no helper (R37, R88). -/
def execSmovToUniform (p : BitVec 3) (d a : BitVec 7) (s : State) : Out :=
  effectOp (.smovToUniform p d a) (uniFail d.toNat) (fun s _ l =>
    (warpsIn (l.map (·.1))).foldl (fun s' w =>
      match l.find? fun e => e.1.warp == w && !(thrOf s e.1).helper with
      | some e => setUreg s' w d.toNat (lo32 e.2.a)
      | none => s') s) s

/-- `SMOV` from a uniform register of the reading warp (R88). -/
def execSmovFromUniform (p : BitVec 3) (d a : BitVec 7) (s : State) : Out :=
  regOpF (.smovFromUniform p d a) (uniFail a.toNat) (fun x => res32 (bmGet x.w.sr a.toNat)) s

end Sys2Proof.Machine
end

