-- ==== Sys2Proof/Machine/Predicate.lean ====
section
/-! DEFINITION. Compares, predicate logic and selection (R89 to R91). -/

namespace Sys2Proof.Machine

/-- The selector of a compare: COND in D[5:3], PD in D[2:0] (R89). -/
def cmpRes (d : BitVec 7) (eq lt : Bool) : Res :=
  { preds := [((d.extractLsb' 0 3).toNat, condHolds (d.extractLsb' 3 3).toNat eq lt)] }

def execCmpSg (p : BitVec 3) (d a b : BitVec 7) (s : State) : Out :=
  regOp (.cmpSg p d a b) (fun x => cmpRes d (lo32 x.a == lo32 x.b) ((lo32 x.a).slt (lo32 x.b))) s
def execCmpUs (p : BitVec 3) (d a b : BitVec 7) (s : State) : Out :=
  regOp (.cmpUs p d a b) (fun x => cmpRes d (lo32 x.a == lo32 x.b) ((lo32 x.a).ult (lo32 x.b))) s
/-- `CMP.i64`: signed when D[6] is 0 (R89). -/
def execCmpI64 (p : BitVec 3) (d a b : BitVec 7) (s : State) : Out :=
  regOp (.cmpI64 p d a b) (fun x => cmpRes d (lo64 x.a == lo64 x.b)
    (if d.getLsbD 6 then (lo64 x.a).ult (lo64 x.b) else (lo64 x.a).slt (lo64 x.b))) s

/-- A source of predicate logic: the predicate of bits [2:0], inverted by bit 3 (R90). -/
def predSel (t : Thread) (f : BitVec 7) : Bool := (predOf t (f.extractLsb' 0 3).toNat).xor (f.getLsbD 3)
/-- A result in the predicate of D[2:0] (R90). -/
def predRes (d : BitVec 7) (v : Bool) : Res := { preds := [((d.extractLsb' 0 3).toNat, v)] }

def execPand (p : BitVec 3) (d a b : BitVec 7) (s : State) : Out :=
  regOp (.pand p d a b) (fun x => predRes d (predSel x.t a && predSel x.t b)) s
def execPor (p : BitVec 3) (d a b : BitVec 7) (s : State) : Out :=
  regOp (.por p d a b) (fun x => predRes d (predSel x.t a || predSel x.t b)) s
def execPxor (p : BitVec 3) (d a b : BitVec 7) (s : State) : Out :=
  regOp (.pxor p d a b) (fun x => predRes d ((predSel x.t a).xor (predSel x.t b))) s
def execPnot (p : BitVec 3) (d a : BitVec 7) (s : State) : Out :=
  regOp (.pnot p d a) (fun x => predRes d (!predSel x.t a)) s

/-- `SEL` is not guarded: predicate k selects a or b in every member (R91). -/
def execSel (k : BitVec 3) (d a b : BitVec 7) (s : State) : Out :=
  regOp (.sel k d a b) (fun x => res32 (if predOf x.t k.toNat then lo32 x.a else lo32 x.b)) s

end Sys2Proof.Machine
end

