-- ==== Sys2Proof/Machine/CrossLane.lean ====
section
/-! DEFINITION. Cross-lane instructions: `QSWP` (R155), `VOTE`, `MATCH`, `ELECT` (R156 to R158), `REDUX` and `SCAN` over a fixed
tree (R129, R130, R159, R160). -/

namespace Sys2Proof.Machine

/-- `QSWP` (R155): the warp-mate's register in the quad, zero where no thread stands; helpers take part. -/
def qswpOp (i : Instr) (x : Nat) (s : State) : Out :=
  regOpG i noFail (fun s m _ =>
    let l := m.lane ^^^ x
    let f := (shapeOf i).a.f.toNat
    res32 (if present s m.warp l then vreg s m.warp l ((thrOf s m).base + f) else 0)) s

def execQswpH (p : BitVec 3) (d a : BitVec 7) (s : State) : Out := qswpOp (.qswpH p d a) 1 s
def execQswpV (p : BitVec 3) (d a : BitVec 7) (s : State) : Out := qswpOp (.qswpV p d a) 2 s
def execQswpD (p : BitVec 3) (d a : BitVec 7) (s : State) : Out := qswpOp (.qswpD p d a) 3 s

/-- A mask of the lanes of some participants. -/
def laneMask (l : List Nat) : Pair := l.foldl (fun m k => m ||| (1#64 <<< k)) 0

def execVoteAny (p : BitVec 3) (d a : BitVec 7) (s : State) : Out :=
  warpOp (.voteAny p d a) (fun ps _ _ => predRes d (ps.any fun e => predSel e.2.t a)) s
def execVoteAll (p : BitVec 3) (d a : BitVec 7) (s : State) : Out :=
  warpOp (.voteAll p d a) (fun ps _ _ => predRes d (ps.all fun e => predSel e.2.t a)) s
def execVoteBallot (p : BitVec 3) (d a : BitVec 7) (s : State) : Out :=
  warpOp (.voteBallot p d a) (fun ps _ _ => res64 (laneMask ((ps.filter fun e => predSel e.2.t a).map (·.1)))) s
def execMatchAny (p : BitVec 3) (d a : BitVec 7) (s : State) : Out :=
  warpOp (.matchAny p d a) (fun ps _ x => res64 (laneMask ((ps.filter fun e => lo32 e.2.a == lo32 x.a).map (·.1)))) s
def execElect (p : BitVec 3) (d : BitVec 7) (s : State) : Out :=
  warpOp (.elect p d) (fun ps l _ => predRes d (match ps with | [] => false | e :: _ => e.1 == l)) s

/-! ### The tree of R129 -/

/-- The value of a node: the pattern, the lane that contributed its NaN if it has one, and flags so far. -/
structure Node where
  bits : Nat
  nan : Nat := 0
  fl : BitVec 6 := 0
deriving DecidableEq, Repr

/-- Two nodes of a format combined by OP, the left one first; `low` is the lowest leaf of the new node (R129, R130). -/
def combineF (f : Fmt) (rm : RMode) (ftz : Bool) (op low : Nat) (x y : Node) : Node :=
  let a := unpack f false x.bits
  let b := unpack f false y.bits
  let fl := x.fl ||| y.fl ||| (if a.isSnan || b.isSnan then fpNV else 0)
  if a.isNan && (!b.isNan || decide (x.nan ≤ y.nan)) then { x with fl := fl }
  else if b.isNan then { y with fl := fl }
  else
    let (r, g) :=
      match op with
      | 0 => finish f rm ftz (addOp rm a b)
      | 1 => finish f rm false (minOp rm a b)
      | _ => finish f rm false (maxOp rm a b)
    { bits := r, nan := low, fl := fl ||| g }

/-- A node or its absence combined. -/
def combineOpt (c : Nat → Node → Node → Node) (low : Nat) : Option Node → Option Node → Option Node
  | none, y => y
  | x, none => x
  | some x, some y => some (c low x y)

/-- The node over the 2^h leaves from leaf l on. -/
def treeNode (c : Nat → Node → Node → Node) (leaf : Nat → Option Node) : Nat → Nat → Option Node
  | 0, l => leaf l
  | h + 1, l => combineOpt c l (treeNode c leaf h l) (treeNode c leaf h (l + 2 ^ h))

/-- The combination of `REDUX` and `SCAN` under a warp's `FPCTL`. -/
def warpCombine (w : Warp) (op : Nat) : Nat → Node → Node → Node := combineF fp32 (rmOf w) (ftzOf w) op

/-- The largest aligned blocks that cover leaves l to l + n − 1 of a tree of 2^h leaves, combined left to right. -/
def prefixFrom (c : Nat → Node → Node → Node) (leaf : Nat → Option Node) : Nat → Nat → Nat → Option Node → Option Node
  | 0, l, n, acc => if n = 0 then acc else combineOpt c 0 acc (leaf l)
  | h + 1, l, n, acc =>
    if 2 ^ (h + 1) ≤ n then
      prefixFrom c leaf h (l + 2 ^ (h + 1)) (n - 2 ^ (h + 1)) (combineOpt c 0 acc (treeNode c leaf (h + 1) l))
    else prefixFrom c leaf h l n acc

/-- The leaves of an FP32 reduction: participants' values after DAZ (R160), a NaN with its own lane. -/
def f32Leaf (ps : List (Nat × Src)) (l : Nat) : Option Node :=
  (ps.find? fun e => e.1 == l).map fun e =>
    let b := (lo32 e.2.a).toNat
    { bits := match unpack fp32 (dazOf e.2.w) b with
        | .fin n m _ => if m = 0 then signBit fp32 n else b
        | _ => b
      nan := l }

/-- The final value: a NaN quieted, NV when it was signalling (R130). -/
def finalNode (n : Node) (f : Fmt := fp32) : FOut :=
  match unpack f false n.bits with
  | .nan neg q p w => ((packNan f neg p w).1, n.fl ||| (if q then 0 else fpNV))
  | _ => (n.bits, n.fl)

/-- The lowest warp of the participants: their `FPCTL`. -/
def warpOfPs (ps : List (Nat × Src)) : Warp := match ps with | [] => {} | e :: _ => e.2.w

/-- `REDUX.f32` over the participants. -/
def reduxF32 (ps : List (Nat × Src)) (op : Nat) : FOut :=
  match treeNode (warpCombine (warpOfPs ps) op) (f32Leaf ps) 6 0 with
  | some n => finalNode n
  | none => (0, 0)

/-- The inclusive prefix at a lane. -/
def scanF32At (ps : List (Nat × Src)) (op lane : Nat) : FOut :=
  match prefixFrom (warpCombine (warpOfPs ps) op) (f32Leaf ps) 6 0 (lane + 1) none with
  | some n => finalNode n
  | none => (0, 0)

/-- Exclusive identities of the FP32 scans (R159). -/
def f32Identity (op : Nat) : Nat := match op with | 0 => 0x80000000 | 1 => 0x7F800000 | _ => 0xFF800000

/-- The highest participant lane below a lane. -/
def laneBelow (ps : List (Nat × Src)) (l : Nat) : Option Nat := ((ps.map (·.1)).filter fun k => decide (k < l)).getLast?

/-! ### Integer forms -/

def i32Op (op : Nat) (a b : Word) : Word :=
  match op with
  | 0 => a + b
  | 1 => minS a b
  | 2 => maxS a b
  | 3 => a &&& b
  | 4 => a ||| b
  | _ => a ^^^ b
def usOp (op : Nat) (a b : Word) : Word := match op with | 1 => minU a b | _ => maxU a b
/-- Exclusive identities (R159). -/
def i32Identity (op : Nat) : Word :=
  match op with
  | 1 => 0x7FFFFFFF
  | 2 => 0x80000000
  | 3 => 0xFFFFFFFF
  | _ => 0
def usIdentity (op : Nat) : Word := match op with | 1 => 0xFFFFFFFF | _ => 0

/-- A combination of all values of some participants, from an identity. -/
def foldInt (f : Word → Word → Word) (z : Word) (ps : List (Nat × Src)) : Word := ps.foldl (fun acc e => f acc (lo32 e.2.a)) z

def redOp (b : BitVec 7) : Nat := (b.extractLsb' 0 3).toNat
def redExcl (b : BitVec 7) : Bool := b.getLsbD 3

/-- The integer scan at a lane: participants up to it, itself left out when exclusive. -/
def scanInt (f : Word → Word → Word) (z : Word) (excl : Bool) (ps : List (Nat × Src)) (l : Nat) : Word :=
  foldInt f z (ps.filter fun e => if excl then decide (e.1 < l) else decide (e.1 ≤ l))

def execReduxI32 (p : BitVec 3) (d a b : BitVec 7) (s : State) : Out :=
  warpOp (.reduxI32 p d a b) (fun ps _ _ => res32 (foldInt (i32Op (redOp b)) (i32Identity (redOp b)) ps)) s
def execReduxUs (p : BitVec 3) (d a b : BitVec 7) (s : State) : Out :=
  warpOp (.reduxUs p d a b) (fun ps _ _ => res32 (foldInt (usOp (redOp b)) (usIdentity (redOp b)) ps)) s
def execReduxF32 (p : BitVec 3) (d a b : BitVec 7) (s : State) : Out :=
  warpOp (.reduxF32 p d a b) (fun ps _ _ => fres (reduxF32 ps (redOp b))) s
def execScanI32 (p : BitVec 3) (d a b : BitVec 7) (s : State) : Out :=
  warpOp (.scanI32 p d a b) (fun ps l _ => res32 (scanInt (i32Op (redOp b)) (i32Identity (redOp b)) (redExcl b) ps l)) s
def execScanUs (p : BitVec 3) (d a b : BitVec 7) (s : State) : Out :=
  warpOp (.scanUs p d a b) (fun ps l _ => res32 (scanInt (usOp (redOp b)) (usIdentity (redOp b)) (redExcl b) ps l)) s
def execScanF32 (p : BitVec 3) (d a b : BitVec 7) (s : State) : Out :=
  warpOp (.scanF32 p d a b) (fun ps l _ =>
    let v : Nat :=
      if redExcl b then (match laneBelow ps l with | some k => (scanF32At ps (redOp b) k).1 | none => f32Identity (redOp b))
      else (scanF32At ps (redOp b) l).1
    let used := if redExcl b then ps.filterMap fun e => (laneBelow ps e.1) else ps.map (·.1)
    { d := BitVec.ofNat 128 v, fp := used.foldl (fun fl k => fl ||| (scanF32At ps (redOp b) k).2) 0 }) s

end Sys2Proof.Machine
end

