-- ==== Sys2Proof/Machine/Mcas.lean ====
section
/-! DEFINITION. The multi-word compare-and-swap: its block and checks (R233, R235), its locks and its single event (R209,
R210, R234), its failure by LOCK_BUSY, and its restart (R236). -/

namespace Sys2Proof.Machine

/-! ### The block (R233) -/

/-- Bytes of the parameter block from an offset, as plain loads of the member. -/
def blkBytes (s : State) (m : Member) (b off n : Nat) : List Byte := readGlobal s m (b + off) n
def blkNat (s : State) (m : Member) (b off n : Nat) : Nat := leNat (blkBytes s m b off n)
def mcasCount (s : State) (m : Member) (b : Nat) : Nat := blkNat s m b 0 1
/-- Addresses of the loads of a block whose COUNT is n, each of 8 bytes. -/
def blkLoads (b n : Nat) : List Nat := (List.range (1 + 3 * min n 8)).map fun k => b + 8 * k
def mcasAddr (s : State) (m : Member) (b i : Nat) : Nat := blkNat s m b (8 + 24 * i) 8

/-! ### Checks (R235) -/

/-- Checks 4 to 7 on the words of a block of n words. -/
def mcasWordFail (s : State) (m : Member) (b n : Nat) : Option Fail :=
  let vas := (List.range n).map fun i => mcasAddr s m b i
  match vas.find? fun va => va % 8 ≠ 0 with
  | some va => some { order := 34, cause := .misaligned, addr := va }
  | none =>
    let fs := vas.filterMap fun va => (accessFail s m va 8 .store).map fun f => { f with order := f.order + 20 }
    match firstFail (fs.map some) with
    | some f =>
      some { f with more := if f.cause = .pageFault then (fs.filter fun x => x.cause = .pageFault).map (·.addr) else [] }
    | none =>
      let pas := vas.map fun va => physOf (pageFor s m va) va
      match vas.find? fun va => let l := gpLocal (physOf (pageFor s m va) va); isOnChip l || hostLocal l with
      | some va => some { order := 50, cause := .access, addr := va }
      | none =>
        if (sortNat pas).length < pas.length then some { order := 51, cause := .illegalEncoding } else none

/-- Log entries that the compare-and-swap of a member may need: those of its words, or of the observed values in its block (R271). -/
def mcasUnits (s : State) (m : Member) (x : Src) : Nat :=
  let b := (lo64 x.a).toNat
  if takesForward s m then 0
  else
    let n := min (mcasCount s m b) 8
    let words := ((List.range n).map fun i => logUnits s m (mcasAddr s m b i) 8).sum
    let obs := if blkNat s m b 1 1 % 2 = 1 then ((List.range n).map fun i => logUnits s m (b + 16 + 24 * i) 8).sum else 0
    max words obs

/-- A word on a shared line of a deterministic grid is read in the serial state at the instruction; poison there raises at once (R235
check 8). -/
def serialPoison (s : State) (m : Member) (b : Nat) : Option Fail :=
  let vas := (List.range (mcasCount s m b)).map fun i => mcasAddr s m b i
  if vas.any fun va => detShared s m.warp va then
    (vas.find? fun va => poisoned s (physOf (pageFor s m va) va) 8).map fun va => { order := 52, cause := .memPoison, addr := va }
  else none

/-- The store of observed values, of a compare-and-swap on shared lines that finds a mismatch at the instruction, fails. -/
def serialObsFail (s : State) (m : Member) (b : Nat) : Option Fail :=
  let is := List.range (mcasCount s m b)
  if blkNat s m b 1 1 % 2 = 1 ∧ is.any fun i => detShared s m.warp (mcasAddr s m b i) then
    firstFail (is.map fun i => (globalFail s m (b + 16 + 24 * i) 8 .store).map fun f => { f with order := f.order + 40 })
  else none

/-- Checks 1 to 7, and on shared lines of a deterministic grid check 8, the stores of observed values and the room in the log. -/
def mcasFail (s : State) (m : Member) (x : Src) (before : Nat) : Option Fail :=
  let b := (lo64 x.a).toNat
  if b % 64 ≠ 0 then some { order := 21, cause := .misaligned, addr := b }
  else if takesForward s m then none
  else match accessFail s m b 8 .load with
    | some f => some f
    | none =>
      let n := mcasCount s m b
      match firstFail ((blkLoads b n).map fun a => accessFail s m a 8 .load) with
      | some f => some f
      | none =>
        if blkNat s m b 1 1 / 2 ≠ 0 ∨ blkNat s m b 2 6 ≠ 0 then some { order := 32, cause := .reservedField }
        else if n = 0 ∨ 8 < n then some { order := 33, cause := .illegalEncoding }
        else match mcasWordFail s m b n with
          | some f => some f
          | none => match serialPoison s m b with
            | some f => some f
            | none => match serialObsFail s m b with
              | some f => some f
              | none => (logFail s m b before (mcasUnits s m x)).map fun f => { f with order := 70, addr := 0 }

/-- The log entries that the members before one may need for their compare-and-swaps. -/
def mcasBefore (i : Instr) (s : State) (m : Member) : Nat := logBefore s i (mcasUnits s) m

/-! ### Issue -/

/-- A word inserted in ascending physical address. -/
def insWord (w : McasWord) : List McasWord → List McasWord
  | [] => [w]
  | v :: t => if w.addr < v.addr then w :: v :: t else v :: insWord w t

/-- The words of a member's block, sorted by physical address. -/
def mcasWords (s : State) (m : Member) (b : Nat) : List McasWord :=
  ((List.range (mcasCount s m b)).map fun i =>
    let va := mcasAddr s m b i
    { addr := physOf (pageFor s m va) va, key := (pageFor s m va).key, exp := BitVec.ofNat 64 (blkNat s m b (16 + 24 * i) 8),
      new := BitVec.ofNat 64 (blkNat s m b (24 + 24 * i) 8), idx := i : McasWord }).foldr insWord []

/-- A word of a block lies on a shared line of a deterministic grid. -/
def mcasShared (s : State) (m : Member) (b : Nat) : Bool :=
  (List.range (mcasCount s m b)).any fun i => detShared s m.warp (mcasAddr s m b i)

/-- D of a compare-and-swap: status and mismatch mask (R233). -/
def mcasResult (status mism : Nat) : Nat := status * 2 ^ 24 + mism

/-- The observed values written back into the block, as plain stores of the thread (R233, R234). -/
def obsWrites (s : State) (m : Member) (b : Nat) (obs : List (Nat × Nat)) : State :=
  obs.foldl (fun s e =>
    let va := b + 16 + 24 * e.1
    storeRelease (accessTrace s m va .store 0) m 0 va (leBytes 8 e.2)) s

/-- The same after the event: a store that fails, or that finds its workgroup's log full, is not made and traps the thread where it
stands. -/
def obsStores (s : State) (m : Member) (b : Nat) (obs : List (Nat × Nat)) : State :=
  match firstFail ((obs.map fun e => globalFail s m (b + 16 + 24 * e.1) 8 .store) ++
      [logFail s m b 0 ((obs.map fun e => logUnits s m (b + 16 + 24 * e.1) 8).sum)]) with
  | some f =>
    (trapsOf [(m, f)]).foldl (fun s t => takeTrap s t (thrOf s m).pc (thrOf s m).pos) s
  | none => obsWrites s m b obs

/-- A compare-and-swap of a deterministic workgroup that names a shared line: computed against the serial state, its writes
logged, or made in place on its private lines (R236, R270). -/
def mcasSerial (s : State) (m : Member) (id reg b : Nat) : State :=
  let ws := (List.range (mcasCount s m b)).map fun i => (i, mcasAddr s m b i)
  let read (va : Nat) : Nat :=
    let e := pageFor s m va
    if detShared s m.warp va then serialNat s m e va 8
    else leNat (viewBytes s (coreOfWarp s m.warp) m.warp e.key (physOf e va) 8)
  let obs := ws.map fun e => (e.1, read e.2)
  let bad := obs.filter fun e => e.2 ≠ blkNat s m b (16 + 24 * e.1) 8
  let mism : Nat := (bad.map fun e => 2 ^ e.1).sum
  let s1 :=
    if mism = 0 then ws.foldl (fun s' e => storeRelease s' m 4 e.2 (leBytes 8 (blkNat s m b (24 + 24 * e.1) 8))) s
    else if blkNat s m b 1 1 % 2 = 1 then obsWrites s m b obs else s
  let r := mcasResult (if mism = 0 then 0 else 1) mism
  forward (landOld s1 id m.lane reg 4 r 0) m (packRet r 0)

/-- A member's operation enters the machine, and the member waits after the instruction for its compare. -/
def issueMcas (g : Group) (d : BitVec 7) (ms : List Member) (id : Nat) (s : State) (m : Member) (x : Src) : State :=
  let b := (lo64 x.a).toNat
  let reg := retReg s ms m d
  if (thrOf s m).helper then s
  else if takesForward s m then
    takeFwd (landOld s id m.lane reg 4 (((fwdVal? s m).getD 0).extractLsb' 0 64).toNat 0) m
  else
    let s1 := blockTraces s m (blkLoads b (mcasCount s m b)) 0 s
    if mcasShared s m b then mcasSerial s1 m id reg b
    else
      let ws := mcasWords s m b
      let s2 := ws.foldl (fun s' w => accessTrace s' m (mcasAddr s m b w.idx) .store 0) s1
      let o : Mcas :=
        { ctx := (warpOf s m.warp).ctx, part := partOfWarp s m.warp, warp := m.warp, lane := m.lane, pcore := coreOfWarp s m.warp,
          words := ws, want := sortNat (ws.map fun w => w.addr / 128), ret := id, reg := reg, arrive := s2.nextId, block := b,
          obs := decide (blkNat s m b 1 1 % 2 = 1), pc := g.pc, pos := g.pos + 1 }
      let s3 := updLoad { s2 with mcas := s2.mcas ++ [(s2.nextId, o)], nextId := s2.nextId + 1 } id fun l =>
        { l with waits := l.waits ++ [s2.nextId] }
      dropMembers (standAfterIn s3 g m (.compared s2.nextId)) fun n => n == m

/-- The block's loads wait as plain loads do, and a word on a shared line waits for the lower workgroups (R236, R270). -/
def mcasWait (s : State) (m : Member) (x : Src) : Option Wait :=
  match laterWait s m x with
  | some w => some w
  | none =>
    let b := (lo64 x.a).toNat
    if (thrOf s m).helper || takesForward s m || (mcasFail s m x 0).isSome then none
    else match blockWait s m (blkLoads b (mcasCount s m b)) with
      | some w => some w
      | none => (List.range (mcasCount s m b)).findSome? fun i => serialWait s m (mcasAddr s m b i)

def execMcas (p : BitVec 3) (d a : BitVec 7) (s : State) : Out :=
  groupOpE (.mcas p d a) .both (fun _ _ x => [{ addr := (lo64 x.a).toNat, kind := 4 }]) mcasWait
    (fun s m x => mcasFail s m x (mcasBefore (.mcas p d a) s m))
    (fun s g l => (issueReturning s g l d 1 (issueMcas g d), [])) s

/-! ### Locks and the event (R209, R210, R234) -/

/-- The window of 2 µs, in c-cycles (R4, R210). -/
def mcasWindow : Nat := 3600

/-- The accesses before it that its release at pod orders have been performed (R209). -/
def mcasReleased (s : State) (id : Nat) (o : Mcas) : Bool := releasedAt s o.pcore o.warp o.lane 4 id

/-- The operation may be granted the lock that it waits for: the line is free, and no access that waits for it arrived before. -/
def mcasReady (s : State) (id : Nat) (o : Mcas) : Bool :=
  match o.want with
  | [] => false
  | l :: _ =>
    mcasReleased s id o && reaches s (o.pcore / 1280) (l * 128) && !lineLocked s (l * 128) 1 && !(o.words.any fun w => decide (w.addr / 128 = l) && (unitProtected s w.addr 8 || recReads s o.warp w.addr 8 id)) &&
    !turnBefore s o.arrive (l * 128) 1 &&
    (match o.first with | some t => decide (s.clk ≤ t + mcasWindow) | none => true)

/-- The atomics and write-backs that wait for the locks of an operation keep their order of arrival (R210). -/
def markTurns (s : State) (o : Mcas) : State :=
  let on (a n : Nat) : Bool := o.held.any fun l => overlaps (l * 128) 128 a n
  { s with
    atoms := s.atoms.map fun e =>
      if e.2.turn.isNone && on e.2.addr e.2.size && atomFree s e.1 e.2 then (e.1, { e.2 with turn := some e.1 }) else e
    writes := s.writes.map fun e =>
      if e.2.turn.isNone && on e.2.addr e.2.data.length && decide (nextLevel e.2 = 4) && movesFree s e.1 e.2
      then (e.1, { e.2 with turn := some e.2.arr }) else e }

/-- The operation is over: its result reaches the pending return, and the locks are free. -/
def endMcas (s : State) (id : Nat) (r : Option Nat) : State :=
  let o := tblGet s.mcas id
  let s0 := markTurns s o
  let s1 := updLoad { s0 with mcas := tblDel s0.mcas id } o.ret fun l => { l with waits := l.waits.filter (· != id) }
  match r with
  | none => s1
  | some v => forward (landOld s1 o.ret o.lane o.reg 4 v 0) ⟨o.lane, o.warp⟩ (packRet v 0)

/-- The compare with every lock held: one event (R209). -/
def compareMcas (s : State) (id : Nat) : State :=
  let o := tblGet s.mcas id
  let m : Member := ⟨o.lane, o.warp⟩
  if o.words.any fun w => poisoned s w.addr 8 then
    let s1 := endMcas s id none
    if present s1 o.warp o.lane then
      takeTrap (standAt s1 m o.pc o.pos) { warp := o.warp, cause := .memPoison, lane := o.lane } o.pc o.pos
    else s1
  else
    let obs := o.words.map fun w => (w, leNat ((List.range 8).map fun k => homeByte s (w.addr + k) w.key))
    let bad := obs.filter fun e => e.2 ≠ e.1.exp.toNat
    let mism : Nat := (bad.map fun e => 2 ^ e.1.idx).sum
    let s1 := if mism = 0 then o.words.foldl (fun s w => putHome s w.addr w.key (leBytes 8 w.new.toNat)) s else s
    let s2 := dropBelow (endMcas s1 id (some (mcasResult (if mism = 0 then 0 else 1) mism))) o.pcore 5
    if mism ≠ 0 ∧ o.obs then obsStores s2 m o.block (obs.map fun e => (e.1.idx, e.2)) else s2

/-- `MCAS_LOCK_GRANT`: the next lock; the last one makes the compare. -/
def grantMcas (s : State) (id : Nat) : State :=
  let s1 := { s with nextId := s.nextId + 1, mcas := tblUpd s.mcas id fun o =>
    { o with held := o.held ++ o.want.take 1, want := o.want.drop 1, first := some (o.first.getD s.clk), arrive := s.nextId } }
  if (tblGet s1.mcas id).want.isEmpty then compareMcas s1 id else s1

def execMcasLockGrant (s : State) : Out :=
  match tblGet? s.mcas s.arg.a with
  | some o => if mcasReady s s.arg.a o then .next (grantMcas s s.arg.a) else .refused .notDue
  | none => .refused .notDue

/-- The window of an operation has expired before its compare (R210). -/
def mcasBusy (s : State) (o : Mcas) : Bool :=
  match o.first with
  | some t => decide (t + mcasWindow < s.clk)
  | none => false

/-- `LOCK_BUSY`: the locks are released, nothing is written, D receives 0x1C000000. -/
def execLockBusy (s : State) : Out :=
  match tblGet? s.mcas s.arg.a with
  | some o => if mcasBusy s o then .next (endMcas s s.arg.a (some (mcasResult 0x1C 0))) else .refused .notDue
  | none => .refused .notDue

/-- A stop before the compare: the locks are released, and the thread stands before the instruction (R236). -/
def abandonMcas (s : State) (id : Nat) : State :=
  let o := tblGet s.mcas id
  let s1 := endMcas s id none
  if present s1 o.warp o.lane then standAt s1 ⟨o.lane, o.warp⟩ o.pc o.pos else s1

end Sys2Proof.Machine
end

