-- ==== Sys2Proof/Machine/Timeline.lean ====
section
/-! DEFINITION. Timeline counters (R211, R237 to R239), event queues as the device fills them (R214, R262), and the
completion of numbered operations. -/

namespace Sys2Proof.Machine

/-! ### Counters (R211, R237) -/

def timelineOf (s : State) (ctx k : Nat) : Timeline := tblGet (ctxOf s ctx).tmln k
def updTimeline (s : State) (ctx k : Nat) (f : Timeline → Timeline) : State :=
  updCtx s ctx fun c => { c with tmln := tblSet c.tmln k (f (tblGet c.tmln k)) }

/-- The number that the next command on a counter receives. -/
def nextNumber (s : State) (ctx k : Nat) : Nat := (timelineOf s ctx k).mark + 1
/-- n commands that name a counter can receive numbers (R237). -/
def counterHas (s : State) (ctx k n : Nat) : Bool := decide ((timelineOf s ctx k).mark + n < 2 ^ 64)
/-- A command receives its number, the new mark. -/
def takeNumber (s : State) (ctx k : Nat) : State := updTimeline s ctx k fun t => { t with mark := t.mark + 1 }

/-- The value advances over the numbers that are complete. -/
def advanceTl : Nat → Timeline → Timeline
  | 0, t => t
  | n + 1, t =>
    if t.doneOut.contains (t.value + 1) then advanceTl n { t with value := t.value + 1, doneOut := t.doneOut.filter (· != t.value + 1) }
    else t

/-- Operation n of a counter is complete: the counter reaches n only when 1 to n all are (R211). -/
def completeNumber (s : State) (ctx k n : Nat) : State :=
  updTimeline s ctx k fun t =>
    if n ≤ t.value then t else advanceTl (t.doneOut.length + 1) { t with doneOut := insNat n t.doneOut }

/-- A part that runs: not frozen, not saved, not stopping. -/
def partRuns (s : State) (part : Nat) : Bool :=
  let p := partOf s part
  !(p.frozen || p.saved || p.idle || p.stopReq)

/-- A core of a context runs: one of its warps is resident, and neither stopped nor trapped (R43). -/
def ctxRunning (s : State) (ctx : Nat) : Bool :=
  s.warps.any fun e => e.2.ctx == ctx && !e.2.halted && !e.2.trapped && partRuns s (partOfWarp s e.1)

/-- A privileged write of a counter sets its value and its mark (R43, R237). -/
def writeTmln (s : State) (ctx k : Nat) (v : Nat) : State := updTimeline s ctx k fun _ => { value := v, mark := v }

/-- `TMLN_WRITE`: a is the context, b the counter, bits the value. The write of a context-scope register is made while no core of the
context runs; otherwise it raises ACCESS at its `CSRW` and nothing is written (R43). -/
def execTmlnWrite (s : State) : Out :=
  if (tblGet? s.ctxs s.arg.a).isSome && decide (s.arg.b < 16) && !ctxRunning s s.arg.a then
    .next (writeTmln s s.arg.a s.arg.b (s.arg.bits.extractLsb' 0 64).toNat)
  else .refused .notDue

/-! ### Event queues (R214, R262, R295) -/

/-- The device's record for a core: it enters the queue, or is held behind the records held before it. -/
def pushEvent (s : State) (lk : Nat) (r : EvRec) : State :=
  if (lcoreOf s lk).image ≠ 0 then imageEvent s lk r
  else updLcore s lk fun c =>
    if c.ev.length < 256 ∧ c.evHeld = [] then { c with ev := c.ev ++ [r] } else { c with evHeld := c.evHeld ++ [r] }

/-- The oldest record leaves the queue; the record held longest takes the slot. -/
def popEvent (s : State) (lk : Nat) : State :=
  updLcore s lk fun c =>
    match c.evHeld with
    | [] => { c with ev := c.ev.drop 1 }
    | h :: t => { c with ev := c.ev.drop 1 ++ [h], evHeld := t }

/-! ### Values that the leader forwards -/

/-- A value read once, by the leader, and written to D before the next instruction (R369). -/
def readOnce (i : Instr) (fail : State → Member → Src → Option Fail) (val : State → Member → Src → Val) (s : State) : Out :=
  groupOp i .fwd noWait fail (fun s _ l =>
    let vals := l.map fun e => (e.1, loadedVal s e.1 (val s e.1 e.2))
    (takeFwds (forwards (writeD s (shapeOf i).d vals) vals) (vals.map (·.1)), [])) s

/-! ### `TWAIT`, `TREAD`, `TSIGNAL` (R239) -/

/-- The counter that a selector names. -/
def ctrSel (f : BitVec 7) : Nat := (f.extractLsb' 0 4).toNat

/-- `TWAIT` ends when the counter's value is at least n, and then acquires. -/
def execTwait (p : BitVec 3) (d a : BitVec 7) (s : State) : Out :=
  groupOp (.twait p d a) .own
    (fun s m x =>
      if (lo64 x.a).toNat ≤ (timelineOf s (warpOf s m.warp).ctx (ctrSel d)).value then none
      else some (.timeline (ctrSel d) (lo64 x.a).toNat))
    noFail
    (fun s _ l => (l.foldl (fun s e => acquireAt s e.1 6) (clearWaits s (l.map (·.1))), [])) s

/-- `TREAD` reads the counter's value. -/
def execTread (p : BitVec 3) (d a : BitVec 7) (s : State) : Out :=
  readOnce (.tread p d a) noFail (fun s m _ =>
    BitVec.ofNat 128 (timelineOf s (warpOf s m.warp).ctx (ctrSel a)).value) s

/-- The number that a member of `TSIGNAL` receives: in ascending lane order, helpers left out. -/
def signalNumber (s : State) (l : List (Member × Src)) (m : Member) (k : Nat) : Nat :=
  (timelineOf s (warpOf s m.warp).ctx k).mark + (((l.map (·.1)).takeWhile fun n => n != m).filter fun n => !(thrOf s n).helper).length + 1

/-- A member's accesses before a `TSIGNAL` have been performed at its scope (R211). -/
def signalDone (scope : Nat) (s : State) (m : Member) : Bool :=
  releasedAt s (coreOfL s (wgOfWarp s m.warp).lcore) m.warp m.lane (levelOf scope) s.nextId

/-- A member's `TSIGNAL`: its number is taken, and complete at once where the member's earlier accesses have been performed; else its
operation waits for them. -/
def issueSignal (k scope : Nat) (s : State) (m : Member) : State :=
  let w := warpOf s m.warp
  let g := wgOfWarp s m.warp
  let n := nextNumber s w.ctx k
  let o : EngOp :=
    { ctx := w.ctx, part := lkPart g.lcore, grid := g.grid, wg := w.wg, warp := m.warp, lane := m.lane, lcore := g.lcore,
      slot := w.slot, cmd := 6, num := n, ctr := k, cscope := scope, ended := true, complete := true, after := s.nextId }
  let s1 := takeNumber s w.ctx k
  if signalDone scope s m then completeNumber s1 w.ctx k n else { s1 with ops := s.ops ++ [(s.nextId, o)], nextId := s.nextId + 1 }

/-- `TSIGNAL`: a release that is compared; its numbers are forwarded. -/
def execTsignal (p : BitVec 3) (d a : BitVec 7) (s : State) : Out :=
  groupOp (.tsignal p d a) .both noWait
    (fun s m _ => match curGroup? s with
      | none => none
      | some g =>
        let before := ((nonHelpers s (active s g p)).takeWhile fun n => n != m).length + 1
        if takesForward s m || counterHas s (warpOf s m.warp).ctx (ctrSel a) before then none
        else some { order := 21, cause := .access })
    (fun s _ l =>
      let k := ctrSel a
      let vals := l.filterMap fun e =>
        if (thrOf s e.1).helper then none else some (e.1, loadedVal s e.1 (BitVec.ofNat 128 (signalNumber s l e.1 k)))
      let s1 := vals.foldl (fun s' e =>
        if takesForward s' e.1 then s' else issueSignal k (a.extractLsb' 4 3).toNat s' e.1) s
      (takeFwds (forwards (writeD s1 (shapeOf (.tsignal p d a)).d vals) vals) (vals.map (·.1)), [])) s

end Sys2Proof.Machine
end

