-- ==== Sys2Proof/Machine/Aperture.lean ====
section
/-! DEFINITION. The logical aperture (R28 to R32): which storage a word of it names, by logical numbers wherever its core
stands, the conditions of an access, and reads and writes of its words. -/

namespace Sys2Proof.Machine

/-- The logical core that an aperture address names in a context, and its offset. -/
def apCore (ctx va : Nat) : Nat := lcoreKey (partKey ctx (va / 2 ^ 35 % 8192)) (va / 2 ^ 24 % 2048)
def apOff (va : Nat) : Nat := va % 2 ^ 24

/-- The holders on a logical core that lead their replicas, or have none. -/
def leadersOn (s : State) (lk : Nat) : Tbl Wg := s.wgs.filter fun e => e.2.lcore == lk && (e.2.leader == 0 || e.2.leader == e.1)

/-- The holders of a holder's replicas, itself included. -/
def wgMates (s : State) (g : Nat) : List Nat :=
  if (wgOf s g).leader = 0 then [g]
  else (s.wgs.filter fun e => e.2.leader == (wgOf s g).leader && decide (e.2.seqi = (wgOf s g).seqi)).map (·.1)

/-- The warp in a logical slot of a logical core. -/
def apWarp? (s : State) (lk slot : Nat) : Option Nat :=
  (s.warps.find? fun e => (wgOf s e.2.wg).lcore == lk && e.2.slot == slot && isLeader s e.1).map (·.1)

/-- The storage behind a logical local-store bank: holder, whether scratchpad, and its bank within the holder. -/
def apBank? (s : State) (lk bank : Nat) : Option (Nat × Bool × Nat) :=
  (leadersOn s lk).findSome? fun e =>
    if e.2.done then none
    else if e.2.scrBank ≤ bank ∧ bank < e.2.scrBank + e.2.k.scrbanks then some (e.1, true, bank - e.2.scrBank)
    else if e.2.opBank ≤ bank ∧ bank < e.2.opBank + e.2.k.opbanks then some (e.1, false, bank - e.2.opBank)
    else none

/-- The holder of a logical accumulator bank. -/
def apAcc? (s : State) (lk bank : Nat) : Option Nat :=
  ((leadersOn s lk).find? fun e => (tblGet? e.2.banks bank).isSome).map (·.1)

/-- The image of the word at an aperture offset of a logical core that is saved: its address in the save area (R32). A
saved warp's register, a saved holder's scratchpad or operand buffer, or its accumulator bank. A byte of an owned scratchpad bank beyond
SCRATCH has no place in the image, and an access to it raises ACCESS while the holder is saved (DESIGN CHOICE, log 32). -/
def apImage? (s : State) (lk off : Nat) : Option Nat :=
  if off < 0xC00000 then
    (s.savedWarps.find? fun e => (tblGet s.savedWgs e.2.wg).lcore == lk && e.2.slot == off / 0x20000 && decide (off % 0x20000 / 0x100 < e.2.nv)).map
      fun e => e.2.image + 0x800 + off % 0x100 / 4 * 4 * e.2.nv + 4 * (off % 0x20000 / 0x100)
  else if off < 0xC40000 then
    let b := (off - 0xC00000) / 0x1000
    s.savedWgs.findSome? fun e =>
      if e.2.lcore ≠ lk ∨ e.2.image = 0 then none
      else if e.2.scrBank ≤ b ∧ b < e.2.scrBank + e.2.k.scrbanks then
        (if (b - e.2.scrBank) * 4096 + off % 4096 < e.2.k.scratch then some (e.2.image + wgScrOff + (b - e.2.scrBank) * 4096 + off % 4096) else none)
      else if e.2.opBank ≤ b ∧ b < e.2.opBank + e.2.k.opbanks then some (e.2.image + wgOpOff e.2.k + (b - e.2.opBank) * 4096 + off % 4096)
      else none
  else
    let b := (off - 0xC40000) / 0x2000
    s.savedWgs.findSome? fun e =>
      if e.2.lcore ≠ lk ∨ e.2.image = 0 then none
      else ((e.2.banks.map (·.1)).findIdx? fun x => x == b).map fun i => e.2.image + wgBankOff e.2.k i + off % 0x2000

/-- The conditions of R29 on the word at an aperture address, in order. -/
def apFail (s : State) (ctx va : Nat) (write : Bool) : Option Cause :=
  let lk := apCore ctx va
  let off := apOff va
  if (ctxOf s ctx).npkg ≤ va / 2 ^ 35 % 8192 ∨ (partOf s (lkPart lk)).ncores ≤ va / 2 ^ 24 % 2048 then some .access
  else if 0xC80000 ≤ off then some .access
  else if off < 0xC00000 ∧ !(match apWarp? s lk (off / 0x20000) with
      | some w => decide (off % 0x20000 / 0x100 < (warpOf s w).nv)
      | none => (apImage? s lk off).isSome) then some .access
  else if 0xC00000 ≤ off ∧ off < 0xC40000 ∧ (apBank? s lk ((off - 0xC00000) / 0x1000)).isNone ∧ (apImage? s lk off).isNone then some .access
  else if write ∧ 0xC40000 ≤ off ∧ (apAcc? s lk ((off - 0xC40000) / 0x2000)).isNone ∧ (apImage? s lk off).isNone then some .accUnalloc
  else none

/-- A word of the aperture as it reads: zero for a bank that no holder of the context holds. -/
def apWord (s : State) (ctx va : Nat) : Word :=
  let lk := apCore ctx va
  let off := apOff va / 4 * 4
  match apImage? s lk off with
  | some a => BitVec.ofNat 32 (homeNat s a 4)
  | none =>
  if off < 0xC00000 then
    match apWarp? s lk (off / 0x20000) with
    | some w => vreg s w (off % 0x100 / 4) (off % 0x20000 / 0x100)
    | none => 0
  else if off < 0xC40000 then
    match apBank? s lk ((off - 0xC00000) / 0x1000) with
    | some (g, true, k) => BitVec.ofNat 32 (leNat (bmList (wgOf s g).scr (k * 4096 + off % 4096) 4))
    | some (g, false, k) => BitVec.ofNat 32 (leNat (bmList (wgOf s g).opb (k * 4096 + off % 4096) 4))
    | none => 0
  else
    match apAcc? s lk ((off - 0xC40000) / 0x2000) with
    | some g => bmGet (tblGet (wgOf s g).banks ((off - 0xC40000) / 0x2000)).data (off % 0x2000 / 4)
    | none => 0

/-- A word of the aperture written, in every replica's copy of it (R243). -/
def putApWord (s : State) (ctx va : Nat) (v : Word) : State :=
  let lk := apCore ctx va
  let off := apOff va / 4 * 4
  let bytes (k : Nat) : List (Nat × Byte) := (List.range 4).map fun j => (k * 4096 + off % 4096 + j, v.extractLsb' (8 * j) 8)
  match apImage? s lk off with
  | some a => putNat s a 4 v.toNat
  | none =>
  if off < 0xC00000 then
    match apWarp? s lk (off / 0x20000) with
    | some w =>
      let (l, r) := (off % 0x100 / 4, off % 0x20000 / 0x100)
      (replicaWarps s w).foldl (fun s x =>
        setVreg (readBefore s true x [(2 * (r * 64 + l), bmGet (warpOf s x).vr (r * 64 + l))]) x l r v) s
    | none => s
  else if off < 0xC40000 then
    match apBank? s lk ((off - 0xC00000) / 0x1000) with
    | some (g, true, k) => (wgMates s g).foldl (fun s x => updWg s x fun w => { w with scr := bmSetAll w.scr (bytes k) }) s
    | some (g, false, k) => (wgMates s g).foldl (fun s x =>
        let o := k * 4096 + off % 4096
        let old := BitVec.ofNat 32 (leNat (bmList (wgOf s x).opb o 4))
        updWg (readBefore s false x [(2 * (o / 4) + 1, old)]) x fun w => { w with opb := bmSetAll w.opb (bytes k) }) s
    | none => s
  else
    let b := (off - 0xC40000) / 0x2000
    match apAcc? s lk b with
    | some g => (wgMates s g).foldl (fun s x =>
        updWg s x fun w => { w with banks := tblUpd w.banks b fun y => { y with data := bmSet y.data (off % 0x2000 / 4) v } }) s
    | none => s

/-- The physical sector of the local store or of the accumulator memory behind an aperture address. -/
def apSector? (s : State) (ctx va : Nat) : Option Nat :=
  let lk := apCore ctx va
  let off := apOff va
  if 0xC00000 ≤ off ∧ off < 0xC40000 then
    match apBank? s lk ((off - 0xC00000) / 0x1000) with
    | some (g, _, _) => (lsPhys (wgOf s g) ((off - 0xC00000) / 0x1000)).map fun b => lsAddr (coreOfL s lk) b (off % 0x1000) / 32
    | none => none
  else if 0xC40000 ≤ off then
    let b := (off - 0xC40000) / 0x2000
    (apAcc? s lk b).map fun g => (lsAddr (coreOfL s lk) 0 0 + 0x40000 + (tblGet (wgOf s g).banks b).phys * 0x2000 + off % 0x2000) / 32
  else none

/-- What an aperture address names is poisoned: its sector, its word in the image of a saved holder, or a register of a warp (R382). -/
def apPoisoned (s : State) (ctx va : Nat) : Bool :=
  let lk := apCore ctx va
  let off := apOff va
  match apImage? s lk (off / 4 * 4) with
  | some a => poisoned s a 4
  | none =>
    (match apSector? s ctx va with | some k => s.poison.contains k | none => false) ||
    (decide (off < 0xC00000) && (match apWarp? s lk (off / 0x20000) with
      | some w => (warpOf s w).bad.contains (64 * (off % 0x20000 / 0x100) + off % 0x100 / 4)
      | none => false))

/-- Sectors of the local store that a write covers whole are poisoned no longer (R382). -/
def apClean (s : State) (ctx va n : Nat) : State :=
  if s.poison.isEmpty then s
  else
    let secs := ((List.range n).filter fun k => (va + k) % 32 = 0 ∧ k + 32 ≤ n).filterMap fun k => apSector? s ctx (va + k)
    { s with poison := s.poison.filter fun x => !secs.contains x }

/-- A byte of the aperture, and one written. -/
def apByte (s : State) (ctx va : Nat) : Byte := (apWord s ctx va).extractLsb' (8 * (va % 4)) 8
def putApByte (s : State) (ctx va : Nat) (b : Byte) : State :=
  let sh := 8 * (va % 4)
  putApWord s ctx va ((apWord s ctx va &&& ~~~(0xFF#32 <<< sh)) ||| (b.setWidth 32 <<< sh))

end Sys2Proof.Machine
end

