-- ==== Sys2Proof/Machine/Engines.lean ====
section
/-! DEFINITION. Engine commands (R240 to R250): their blocks and issue, the accesses of an engine with their faults (R242,
R243, R408), `CPY`, `GATH` and `SCAT` (R244 to R246), `TBIND` and `TUNBIND` (R249, R250, R329), and the completion of an
operation (R211, R241). -/

namespace Sys2Proof.Machine

/-! ### The state of an operation -/

def opOf (s : State) (id : Nat) : EngOp := tblGet s.ops id
/-- A field of an operation's block: n bytes at an offset. -/
def bNat (b : List Byte) (off n : Nat) : Nat := leNat ((b.drop off).take n)
def bInt (b : List Byte) (off n : Nat) : Int := if n = 4 then (BitVec.ofNat 32 (bNat b off 4)).toInt else (BitVec.ofNat 64 (bNat b off n)).toInt

/-- Level at which an engine's writes enter the machine, and the level of its issue release (R211). -/
def engLevel (cmd : Nat) : Nat :=
  match cmd with
  | 0 => 1
  | 1 => 2
  | 2 => 2
  | 3 => 3
  | _ => 4

/-- The core whose engines run an operation. -/
def opCore (s : State) (o : EngOp) : Nat := coreOfL s o.lcore

/-- An operation makes progress: its context and its issuer are not stopped (R243). -/
def opRunning (s : State) (o : EngOp) : Bool :=
  let p := partOf s o.part
  !(p.frozen || p.saved || p.idle) && !(p.frozenDies.contains (pcDie (opCore s o) % 4)) && (lcoreOf s o.lcore).pcore.isSome &&
  !(warpOf s o.warp).halted && !isSaved s o.warp

/-- The accesses that an operation's issue, or the operation itself, orders before an identifier are performed at a level. -/
def opReleased (s : State) (o : EngOp) (level : Nat) : Bool :=
  releasedAt s (opCore s o) o.warp o.lane level o.after

/-- The engine may take the operation's next unit. -/
def opReady (s : State) (o : EngOp) : Bool := !o.ended && o.stall.isNone && opRunning s o && opReleased s o (engLevel o.cmd)

/-- The record of an engine operation (R242, R342). -/
def opRecord (o : EngOp) (cause : Nat) (addr : Nat) : FaultRec :=
  { cause := cause, src := 2, place := lkPlace o.lcore, slot := o.slot, addr := addr, info := o.num, info2 := o.progress, grid := o.grid }

/-- An operation ends at its progress point with a cause; its record is appended (R242). -/
def endOp (s : State) (id : Nat) (c : Cause) (addr : Nat) : State :=
  let o := opOf s id
  appendFault (updOp s id fun o => { o with ended := true, cause := causeCode c }) o.part (opRecord o (causeCode c) addr)

/-- An operation stalls on a page (R408). -/
def stallOp (s : State) (id addr : Nat) : State :=
  let o := opOf s id
  let seq := nextSeq s o.part
  addAwait (appendFault (updOp s id fun o => { o with stall := some seq, stallAt := addr }) o.part
    (opRecord o (causeCode .pageFault) (addr / 4096 * 4096))) o.part seq (.engine id)

/-- The answer of a stall record: the access is made again, or the operation ends with PAGE_FAULT, without a STATUS where that is what
stalled (R242, R408). -/
def resumeOp (s : State) (id : Nat) : State := updOp s id fun o => { o with stall := none }
def dropOp (s : State) (id : Nat) : State :=
  let o := opOf s id
  endOp (updOp s id fun o => { o with stall := none, complete := o.ended }) id .pageFault o.stallAt

/-! ### Accesses of an engine -/

/-- The page of an engine's access. -/
def opPage (s : State) (o : EngOp) (va : Nat) : TlbEntry :=
  match pageOf s o.part va with
  | .ok e => e
  | .error _ => {}

/-- An engine's access goes to a shared line, or to another workgroup's line, of its deterministic grid (R269). -/
def opShared (s : State) (wg va : Nat) : Bool :=
  (wgOf s wg).k.det && (lineOwner (gridOf s (wgOf s wg).grid) va).isNone
def opForeign (s : State) (wg va : Nat) : Bool :=
  (wgOf s wg).k.det && (match lineOwner (gridOf s (wgOf s wg).grid) va with
    | some b => decide (b ≠ (wgOf s wg).block)
    | none => false)

/-- Why an engine's access fails: R101's checks 3 to 7, and R29's for an aperture address. -/
def engFail (s : State) (o : EngOp) (va : Nat) (need : Need) : Option Cause :=
  if isAperture va then
    match apFail s o.ctx va (decide (need = .store)) with
    | some c => some c
    | none => if need = .load ∧ apPoisoned s o.ctx va then some .memPoison else none
  else match translate s o.part va need with
    | .error c => some c
    | .ok e =>
      let allowed := tagAllows s o.part o.ident.toNat e.tag
      if opForeign s o.wg va then some .access
      else if need = .store ∧ !allowed then some .tagDenied
      else if need = .load ∧ allowed ∧ poisoned s (physOf e va) 1 then some .memPoison
      else none

/-- A tag denies an engine's read of an address. -/
def engDenied (s : State) (o : EngOp) (va : Nat) : Bool :=
  !isAperture va && !tagAllows s o.part o.ident.toNat (opPage s o va).tag

/-- A byte as a unit at a level of a core's path sees it. -/
def levelByte (s : State) (level core key a : Nat) : Byte :=
  match nearest (s.writes.filter fun e => decide (level ≤ e.2.level)) core 0 a none with
  | some w => if w.key = key then w.data.getD (a - w.addr) 0 else Config.wrongKey key w.key a
  | none => homeByte s a key

/-- A byte as an engine reads it: zero where a tag denies it; on a shared line of a deterministic grid as its workgroup
read it at the issue (R269). -/
def engByte (s : State) (o : EngOp) (va : Nat) : Byte :=
  if isAperture va then apByte s o.ctx va
  else if engDenied s o va then 0
  else
    let e := opPage s o va
    let pa := physOf e va
    if isOnChip (gpLocal pa) then chipByte s pa
    else if opShared s o.wg va then
      match logByte ((wgOf s o.wg).log.take o.logn) va none with
      | some b => b
      | none => bmGet (gridOf s (wgOf s o.wg).grid).mem0 pa
    else levelByte s (engLevel o.cmd) (opCore s o) e.key pa

/-- Traces of an engine's access. -/
def engTrace (s : State) (o : EngOp) (va : Nat) : State :=
  if isAperture va then s
  else match pageOf s o.part va with
    | .error _ => s
    | .ok e => fillClr (fillTlb s o.part e) o.part o.ident.toNat e.tag

/-- A run of bytes in one page written by an engine at its own level, or just below the home where that is its level. -/
def engWrite (s : State) (id : Nat) (va : Nat) (data : List Byte) : State :=
  let o := opOf s id
  if isAperture va then (List.range data.length).foldl (fun s k => putApByte s o.ctx (va + k) (data.getD k 0)) (apClean s o.ctx va data.length)
  else
    let e := opPage s o va
    let pa := physOf e va
    if isOnChip (gpLocal pa) then putChipBytes s pa data
    else if opShared s o.wg va then appendLog s o.wg (logEntries 3 0 va data)
    else pushWrite s { ctx := o.ctx, warp := 0, pcore := opCore s o, part := o.part, level := min 3 (engLevel o.cmd), addr := pa,
                       data := data, key := e.key, uncached := e.uncached, op := id }

/-- Runs of consecutive bytes within lines. -/
def addRun (a : Nat) (b : Byte) : List (Nat × List Byte) → List (Nat × List Byte)
  | (c, l) :: t => if c = a + 1 ∧ c % 128 ≠ 0 then (a, b :: l) :: t else (a, [b]) :: (c, l) :: t
  | [] => [(a, [b])]
def runsOf (l : List (Nat × Byte)) : List (Nat × List Byte) := l.foldr (fun e r => addRun e.1 e.2 r) []

/-- One byte of a side of a transfer as two half bytes: each an address and which half of its byte; none reads zero and is
dropped in a write (R111, R115). -/
abbrev Cell := Option (Nat × Nat) × Option (Nat × Nat)

/-- Byte c of row r of a record side that starts at element (x, y). -/
def recCell (t : TRec) (x y : Int) (r c : Nat) : Cell :=
  if trEbits t = 4 then
    let h (j : Nat) : Option (Nat × Nat) := (boundElem t (x + j) (y + r)).map fun e => (elemAddr t e.1 e.2, (e.1 % 2).toNat)
    (h (2 * c), h (2 * c + 1))
  else
    let n := trEbits t / 8
    match boundElem t (x + (c / n : Nat)) (y + r) with
    | some e => let a := (elemAddr t e.1 e.2 + c % n) % 2 ^ 64; (some (a, 0), some (a, 1))
    | none => (none, none)

/-- Byte c of row r of an address side. -/
def addrCell (base : Nat) (stride : Int) (r c : Nat) : Cell :=
  let a := mod64 ((base : Int) + r * stride + c)
  (some (a, 0), some (a, 1))

/-- Addresses of a cell, each once. -/
def cellAddrs (c : Cell) : List Nat :=
  match c with
  | (some a, some b) => if a.1 = b.1 then [a.1] else [a.1, b.1]
  | (some a, none) => [a.1]
  | (none, some b) => [b.1]
  | (none, none) => []

/-- The byte of a cell as an engine reads it. -/
def cellRead (s : State) (o : EngOp) (c : Cell) : Byte :=
  let h (x : Option (Nat × Nat)) : Nat := match x with
    | some (a, k) => (engByte s o a).toNat / 16 ^ k % 16
    | none => 0
  BitVec.ofNat 8 (h c.1 + 16 * h c.2)

/-- A cell is one whole byte of memory. -/
def cellWhole (c : Cell) : Option Nat :=
  match c with
  | (some a, some b) => if a.1 = b.1 ∧ a.2 = 0 ∧ b.2 = 1 then some a.1 else none
  | _ => none

/-- One half byte written in the byte as the engine reads it. -/
def halfWrite (s : State) (id : Nat) (x : Option (Nat × Nat)) (v : Nat) : State :=
  match x with
  | none => s
  | some (a, k) =>
    let old := (engByte s (opOf s id) a).toNat
    engWrite s id a [BitVec.ofNat 8 (if k = 0 then old / 16 * 16 + v else old % 16 + 16 * v)]

/-- Bytes written to the cells of a unit, in order. -/
def cellsWrite (s : State) (id : Nat) (l : List (Cell × Byte)) : State :=
  if l.all fun e => (cellWhole e.1).isSome then
    (runsOf (l.map fun e => ((cellWhole e.1).getD 0, e.2))).foldl (fun s r => engWrite s id r.1 r.2) s
  else
    l.foldl (fun s e =>
      match cellWhole e.1 with
      | some a => engWrite s id a [e.2]
      | none => halfWrite (halfWrite s id e.1.1 (e.2.toNat % 16)) id e.1.2 (e.2.toNat / 16)) s

/-- The first address of some that fails. -/
def firstBad (s : State) (o : EngOp) (need : Need) (l : List Nat) : Option (Nat × Cause) :=
  l.findSome? fun va => (engFail s o va need).map fun c => (va, c)

/-- The log of a deterministic workgroup has no room for the entries of a unit's writes (R271). -/
def opLogFull (s : State) (o : EngOp) (l : List Nat) : Bool :=
  let n := ((runsOf ((l.filter fun va => opShared s o.wg va).map fun va => (va, 0))).map fun r =>
    (logEntries 3 0 r.1 r.2).length).sum
  decide (n ≠ 0) && !logRoom s o.warp n

/-- Runs of aperture bytes that are not whole aligned 32-bit words (R29). -/
def apMis? (l : List Nat) : Option Nat :=
  ((runsOf ((sortNat (l.filter isAperture)).map fun a => (a, 0))).find? fun r => r.1 % 4 ≠ 0 ∨ r.2.length % 4 ≠ 0).map (·.1)

/-- The package that holds what an address of an engine's access names: of its page, or of the logical core that an aperture address
names, on which or in whose save area its storage lies (R28, R32). -/
def opHome (s : State) (o : EngOp) (va : Nat) : Nat :=
  if isAperture va then gpOf (partOf s (lkPart (apCore o.ctx va))).pkg 0 else physOf (opPage s o va) va
/-- No port reaches the package of an access (R398). -/
def opFar (s : State) (o : EngOp) (va : Nat) : Bool := !reaches s (opCore s o / 1280) (opHome s o va)

/-- The first of several failures. -/
def firstOf {α : Type} (l : List (Option α)) : Option α := l.findSome? id

/-- One audit record for each thing denied, once in an operation (R245, R246, R327). -/
def opAudit (s : State) (id kind : Nat) (l : List Nat) : State :=
  l.foldl (fun s va =>
    let o := opOf s id
    if o.lines.contains va then s
    else appendAudit (updOp s id fun o => { o with lines := o.lines ++ [va] }) o.part va o.ident.toNat (opPage s o va).tag kind
      (lkPlace o.lcore)) s

/-- A unit of a stream: it stalls or ends the operation where an access fails, waits where no port reaches a package (R398), and is
otherwise delivered whole; then the next pages of its streams may be translated (R319). -/
def engUnit (s : State) (id : Nat) (reads writes : List Nat) (ahead : List Nat × List Nat) (go : State → State) : State :=
  let o := opOf s id
  match firstBad s o .load reads with
  | some (va, c) => if c = .pageFault then stallOp s id va else endOp s id c va
  | none =>
    match firstBad s o .store writes with
    | some (va, c) => if c = .pageFault then stallOp s id va else endOp s id c va
    | none =>
      match (if o.cmd = 3 then none else firstOf [apMis? reads, apMis? writes]) with
      | some va => endOp s id .misaligned va
      | none =>
        if (reads ++ writes).any (opFar s o) then s
        else if opLogFull s o writes then endOp s id .bounds (writes.headD 0)
        else fillAhead (fillAhead (go ((reads ++ writes).foldl (fun s va => engTrace s o va) s)) o.part 0 ahead.1) o.part 1 ahead.2

/-- PROGRESS rises by one, and the last unit ends the stream. -/
def opAdvance (s : State) (id total : Nat) : State :=
  updOp s id fun o => { o with progress := o.progress + 1, ended := decide (total ≤ o.progress + 1) }

/-! ### The `CPY` block (R244) -/

def cpyLen (b : List Byte) : Nat := bNat b 0x28 4
def cpyRows (b : List Byte) : Nat := bNat b 0x2C 4
/-- A side of a `CPY`: its record, when REC is valid. -/
def sideValid (f : Nat) : Bool := decide (f / 32768 = 1)
def sideRec (f : Nat) : Nat := f % 4096
def coordX (v : Nat) : Int := (BitVec.ofNat 32 v).toInt
def coordY (v : Nat) : Int := (BitVec.ofNat 32 (v / 2 ^ 32)).toInt

/-- The cell of byte c of row r of a side: address field, stride field, record field and record. -/
def sideCell (b : List Byte) (addrOff strOff recOff : Nat) (t : TRec) (r c : Nat) : Cell :=
  if sideValid (bNat b recOff 2) then recCell t (coordX (bNat b addrOff 8)) (coordY (bNat b addrOff 8)) r c
  else addrCell (bNat b addrOff 8) (bInt b strOff 8) r c
def srcCell (o : EngOp) (r c : Nat) : Cell := sideCell o.block 0x08 0x18 0x30 o.trec r c
def dstCell (o : EngOp) (r c : Nat) : Cell := sideCell o.block 0x10 0x20 0x32 o.trec2 r c

/-! ### Issue checks -/

/-- A failing check at the issue of a command. -/
def cmdBad (c : Cause) (info : Nat := 0) : Option Fail := some { order := 40, cause := c, info := info }



/-- CSCOPE of CTL lies outside its range, from the command's scope to 6 (R241). -/
def scopeBad (cmd ctl : Nat) : Bool := decide (ctl / 16 % 8 < engLevel cmd) || decide (6 < ctl / 16 % 8)

/-- R29 for a side of rows of n bytes, as far as it lies in the aperture: every byte, then alignment of each row and of the stride. -/
def apSideFail (s : State) (ctx : Nat) (stride : Int) (rows n : Nat) (cell : Nat → Nat → Cell) (write : Bool) : Option Fail :=
  let inAp (r : Nat) : List Nat := ((List.range n).flatMap fun c => cellAddrs (cell r c)).filter isAperture
  match (List.range rows).findSome? fun r => (inAp r).findSome? fun va => apFail s ctx va write with
  | some c => cmdBad c
  | none =>
    if (List.range rows).any fun r => !(inAp r).isEmpty && (decide (stride % 4 ≠ 0) || (apMis? (inAp r)).isSome) then cmdBad .misaligned
    else none

/-- The window of n elements and some rows leaves a record whose BOUND is 0. -/
def windowFail (t : TRec) (x y : Int) (n rows : Nat) : Option Fail :=
  if trBound t = 0 ∧ !(inExtent t x y && inExtent t (x + n - 1) (y + rows - 1)) then cmdBad .bounds else none

/-- STRIDE1 is too small for a record that is written. -/
def overlapFail (t : TRec) (num : Nat) : Option Fail :=
  if trStride t < (trExt0 t * trEbits t + 7) / 8 then cmdBad .recordOverlap num else none

/-- The checks of a `CPY` block (R244). -/
def cpyFail (s : State) (m : Member) (b : List Byte) : Option Fail :=
  let ctx := (warpOf s m.warp).ctx
  let n := cpyLen b
  let sf := bNat b 0x30 2
  let df := bNat b 0x32 2
  let rec? (f : Nat) : Option TRec := if sideValid f then recOf? s m.warp (sideRec f) else none
  let bad (f : Nat) : Option Fail := if sideValid f && (rec? f).isNone then cmdBad .recordInvalid (sideRec f) else none
  let mis (f v : Nat) : Option Fail := match rec? f with
    | some t => if n * 8 % trEbits t ≠ 0 ∨ (trEbits t = 4 ∧ coordX v % 2 ≠ 0) then cmdBad .misaligned else none
    | none => none
  let win (f v : Nat) : Option Fail := match rec? f with
    | some t => windowFail t (coordX v) (coordY v) (n * 8 / trEbits t) (cpyRows b)
    | none => none
  let ap (f addr str ref : Nat) (w : Bool) : Option Fail :=
    let t := (rec? f).getD 0
    apSideFail s ctx (if sideValid f then (trStride t : Int) else bInt b str 8) (cpyRows b) n (sideCell b addr str ref t) w
  (firstOf [
    bad sf, bad df, mis sf (bNat b 0x08 8), mis df (bNat b 0x10 8),
    (match rec? df with | some t => overlapFail t (sideRec df) | none => none),
    win sf (bNat b 0x08 8), win df (bNat b 0x10 8)]).orElse fun _ =>
  (ap sf 0x08 0x18 0x30 false).orElse fun _ => ap df 0x10 0x20 0x32 true

/-- The checks of a `GATH` or `SCAT` block (R246). -/
def gathFail (scat : Bool) (s : State) (m : Member) (b : List Byte) : Option Fail :=
  let ctx := (warpOf s m.warp).ctx
  let num := bNat b 0x2C 2
  let width := bNat b 0x28 4
  let count := bNat b 0x20 4
  let t? := recOf? s m.warp (num % 4096)
  let t := t?.getD 0
  (firstOf [
    if t?.isNone then cmdBad .recordInvalid (num % 4096) else none,
    if width * trEbits t % 32 ≠ 0 then cmdBad .illegalEncoding else none,
    if bNat b 0x08 8 % 4 ≠ 0 ∨ (trEbits t = 4 ∧ bInt b 0x24 4 % 2 ≠ 0) then cmdBad .misaligned else none,
    if scat then overlapFail t (num % 4096) else none,
    if trBound t = 0 ∧ !(decide (0 ≤ bInt b 0x24 4) && decide (bInt b 0x24 4 + width ≤ trExt0 t)) then cmdBad .bounds else none]).orElse fun _ =>
  apSideFail s ctx (bInt b 0x18 8) count (width * trEbits t / 8) (addrCell (bNat b 0x10 8) (bInt b 0x18 8)) (!scat)

/-- Bytes of one element of a collective's TYPE, and its numbers of ranks and elements (R247). -/
def collSize (b : List Byte) : Nat :=
  match bNat b 0x28 4 / 256 % 8 with
  | 1 => 2
  | 2 => 8
  | _ => 4
def collRanks (b : List Byte) : Nat := bNat b 0x24 2
def collRank (b : List Byte) : Nat := bNat b 0x26 2
def collCount (b : List Byte) : Nat := bNat b 0x20 4
def collKind (b : List Byte) : Nat := bNat b 0x28 4 % 8
def collOp (b : List Byte) : Nat := bNat b 0x28 4 / 16 % 4
def collType (b : List Byte) : Nat := bNat b 0x28 4 / 256 % 8
def collRoot (b : List Byte) : Nat := bNat b 0x2A 2
/-- Output elements of each rank (R248). -/
def collOut (b : List Byte) : Nat := if collKind b = 2 then collRanks b * collCount b else collCount b

/-- The checks of a `COLL` block (R247). -/
def collFail (s : State) (m : Member) (b : List Byte) : Option Fail :=
  if bNat b 0x08 8 % collSize b ≠ 0 ∨ bNat b 0x10 8 % collSize b ≠ 0 then cmdBad .misaligned
  else apSideFail s (warpOf s m.warp).ctx 0 1 (collOut b * collSize b) (addrCell (bNat b 0x10 8) 0) true

/-- A record image as 256 bits. -/
def recImage (b : List Byte) (off : Nat) : TRec := BitVec.ofNat 256 (bNat b off 32)

/-- The validation of a record image (R112, R329). -/
def recordBad (r : TRec) : Bool :=
  let el := trElem r
  let n := max (trEbits r / 8) 1
  !([1, 2, 3, 4, 0x10, 0x11, 0x12, 0x13, 0x20].contains el) ||
  decide (r.extractLsb' 57 7 ≠ 0) || decide (r.extractLsb' 189 3 ≠ 0) || decide (4 < trScMode r) ||
  (el != 0x20 && decide (trNdesc r ≠ 0)) || (el == 0x20 && !ndValid (trNdesc r)) ||
  decide (trBase r % n ≠ 0) || decide (trStride r % n ≠ 0) ||
  (decide (trScMode r ≠ 0) && (el != 0x20 || decide (trScaleOff r = 0)))

/-- The checks of a `TBIND` block (R249). -/
def tbindFail (b : List Byte) : Option Fail :=
  if recordBad (recImage b 0x10) then cmdBad .recordInvalid (bNat b 0x08 2 % 4096) else none

/-- A field of a command's block lies outside its range (R240, R244, R246, R247). -/
def blockRange (cmd : Nat) (b : List Byte) : Bool :=
  match cmd with
  | 0 => decide (cpyLen b % 4 ≠ 0 ∨ cpyLen b < 4 ∨ 2 ^ 24 < cpyLen b ∨ cpyRows b < 1 ∨ 65536 < cpyRows b)
  | 1 | 2 => decide (bNat b 0x20 4 < 1 ∨ 2 ^ 24 < bNat b 0x20 4 ∨ bNat b 0x28 4 < 1 ∨ 2 ^ 20 < bNat b 0x28 4)
  | 3 => decide (collCount b < 1 ∨ 2 ^ 24 < collCount b ∨ collRanks b < 1 ∨ collRanks b ≤ collRank b ∨ 3 < collKind b ∨ 2 < collOp b ∨
      4 < collType b ∨ (collKind b = 3 ∧ collRanks b ≤ collRoot b))
  | _ => false
/-- A reserved field of a command's block is not zero (R240, R244, R246, R247, R249). -/
def blockReserved (cmd : Nat) (b : List Byte) : Bool :=
  match cmd with
  | 0 => decide (bNat b 0x30 2 / 4096 % 8 ≠ 0 ∨ bNat b 0x32 2 / 4096 % 8 ≠ 0 ∨ bNat b 0x34 4 ≠ 0)
  | 1 | 2 => decide (bNat b 0x2C 2 / 4096 ≠ 0 ∨ bNat b 0x2E 10 ≠ 0)
  | 3 => decide (bNat b 0x28 4 / 8 % 2 ≠ 0 ∨ bNat b 0x28 4 / 64 % 4 ≠ 0 ∨ bNat b 0x28 4 / 2048 % 32 ≠ 0 ∨ bNat b 0x2C 12 ≠ 0)
  | _ => decide (bNat b 0x08 2 / 4096 ≠ 0 ∨ bNat b 0x0A 6 ≠ 0 ∨ bNat b 0x30 8 ≠ 0)

/-- The own checks of each command, after those of its fields. -/
def ownFail (cmd : Nat) (s : State) (m : Member) (b : List Byte) : Option Fail :=
  match cmd with
  | 0 => cpyFail s m b
  | 1 => gathFail false s m b
  | 2 => gathFail true s m b
  | 3 => collFail s m b
  | _ => tbindFail b

/-- The block as the deciding member loads it. -/
def cmdBlock (s : State) (m : Member) (x : Src) : List Byte := readGlobal s m (lo64 x.a).toNat 64

/-- The checks of a command at its issue, in the order of R240: a field outside its range before a non-zero reserved field (log 82). -/
def cmdFail (cmd : Nat) (s : State) (m : Member) (x : Src) : Option Fail :=
  let va := (lo64 x.a).toNat
  if va % 64 ≠ 0 then some { order := 21, cause := .misaligned, addr := va }
  else if takesForward s m then none
  else match accessFail s m va 64 .load with
    | some f => some f
    | none =>
      let b := cmdBlock s m x
      if scopeBad cmd (bNat b 0 8) || blockRange cmd b then cmdBad .illegalEncoding
      else if decide (bNat b 0 8 / 256 ≠ 0) || blockReserved cmd b then cmdBad .reservedField
      else (ownFail cmd s m b).orElse fun _ => if counterHas s (warpOf s m.warp).ctx (bNat b 0 8 % 16) 1 then none else cmdBad .access

/-! ### Issue (R240) -/

/-- The versions of the records that a command reads (R116). -/
def cmdRecs (cmd : Nat) (s : State) (m : Member) (b : List Byte) : TRec × TRec :=
  let get (n : Nat) : TRec := (recOf? s m.warp n).getD 0
  match cmd with
  | 0 => (get (sideRec (bNat b 0x30 2)), get (sideRec (bNat b 0x32 2)))
  | 1 => (get (bNat b 0x2C 2 % 4096), 0)
  | 2 => (get (bNat b 0x2C 2 % 4096), 0)
  | _ => (0, 0)

/-- The operation of a command, with its number. -/
def cmdOpOf (cmd : Nat) (s : State) (m : Member) (addr : Nat) (b : List Byte) : EngOp :=
  let w := warpOf s m.warp
  let g := wgOfWarp s m.warp
  let ctl := bNat b 0 8
  { ctx := w.ctx, part := lkPart g.lcore, grid := g.grid, wg := w.wg, warp := m.warp, lane := m.lane, lcore := g.lcore,
    slot := if g.seqi then 0x7F else w.slot, cmd := cmd, num := nextNumber s w.ctx (ctl % 16), ctr := ctl % 16,
    cscope := ctl / 16 % 8, addr := addr, block := b, ident := w.ident, after := s.nextId, trec := (cmdRecs cmd s m b).1,
    trec2 := (cmdRecs cmd s m b).2, logn := g.log.length }

/-- An operation enters its engine; its counter's mark rises. -/
def pushOp (s : State) (o : EngOp) : State :=
  { takeNumber s o.ctx o.ctr with ops := s.ops ++ [(s.nextId, o)], nextId := s.nextId + 1 }

/-- A number and an operation as they are forwarded. -/
def packNum (num id : Nat) : Val := BitVec.ofNat 128 (num + id * 2 ^ 64)

/-- The flags of a long-latency command rise until its operation is complete (R240, R243). -/
def holdFlags (s : State) (g : Group) (act : List Member) (id : Nat) : State :=
  issueLong s g act fun w => { load := false, part := partOfWarp s w, waits := if (tblGet? s.ops id).isSome then [id] else [] }

/-- An engine command that passed its checks: its number reaches D of every active member. -/
def runCmd (i : Instr) (cmd : Nat) (s : State) (g : Group) (act : List Member) (m : Member) (x : Src) : State :=
  let va := (lo64 x.a).toNat
  if takesForward s m then
    let v := (fwdVal? s m).getD 0
    holdFlags (takeFwd (spreadD s i act (v.extractLsb' 0 64 |>.setWidth 128)) m) g act (v.extractLsb' 64 64).toNat
  else
    let b := cmdBlock s m x
    let s1 := keepLoad s (accessTrace s m va .load 4) m va 64
    let o := cmdOpOf cmd s1 m va b
    let s2 := pushOp s1 o
    forward (holdFlags (spreadD s2 i act (BitVec.ofNat 128 o.num)) g act s1.nextId) m (packNum o.num s1.nextId)

/-- A command with a block. -/
def cmdOp (i : Instr) (cmd : Nat) (s : State) : Out :=
  onceOp i .both (fun _ _ x => [{ addr := (lo64 x.a).toNat / 8 * 8, kind := 5, op := cmd }])
    (fun s m x => blockWait s m ((List.range 8).map fun k => ((lo64 x.a).toNat + 8 * k) % 2 ^ 64)) (cmdFail cmd)
    (fun s g act m x => (runCmd i cmd s g act m x, [])) s

def execCpy (p : BitVec 3) (d a : BitVec 7) (s : State) : Out := cmdOp (.cpy p d a) 0 s
def execGath (p : BitVec 3) (d a : BitVec 7) (s : State) : Out := cmdOp (.gath p d a) 1 s
def execScat (p : BitVec 3) (d a : BitVec 7) (s : State) : Out := cmdOp (.scat p d a) 2 s
def execColl (p : BitVec 3) (d a : BitVec 7) (s : State) : Out := cmdOp (.coll p d a) 3 s
def execTbind (p : BitVec 3) (d a : BitVec 7) (s : State) : Out := cmdOp (.tbind p d a) 4 s

/-- The checks of `TUNBIND`'s operand (R250). -/
def tunbindFail (s : State) (m : Member) (x : Src) : Option Fail :=
  let v := (lo32 x.a).toNat
  if (khdrOfWarp s m.warp).isSealed then cmdBad .sealedSet
  else if v / 2 ^ 19 ≠ 0 ∨ v / 65536 % 8 < 4 ∨ 6 < v / 65536 % 8 then cmdBad .illegalEncoding
  else if takesForward s m || counterHas s (warpOf s m.warp).ctx (v / 4096 % 16) 1 then none
  else cmdBad .access

def execTunbind (p : BitVec 3) (d a : BitVec 7) (s : State) : Out :=
  onceOp (.tunbind p d a) .both (fun _ _ _ => [{ addr := 0, kind := 5, op := 5 }]) laterWait tunbindFail
    (fun s _ act m x =>
      let v := (lo32 x.a).toNat
      if takesForward s m then
        (takeFwd (spreadD s (.tunbind p d a) act (((fwdVal? s m).getD 0).extractLsb' 0 64 |>.setWidth 128)) m, [])
      else
        let o : EngOp :=
          { cmdOpOf 5 s m 0 [] with num := nextNumber s (warpOf s m.warp).ctx (v / 4096 % 16), ctr := v / 4096 % 16,
                                    cscope := v / 65536 % 8, block := leBytes 64 (v % 4096 * 2 ^ 64) }
        (forward (spreadD (pushOp s o) (.tunbind p d a) act (BitVec.ofNat 128 o.num)) m (packNum o.num s.nextId), [])) s

/-! ### Units -/

/-- Sector p of a `CPY`: the cells of its source and of its destination (R245). -/
def cpyCells (o : EngOp) (p : Nat) : List (Cell × Cell) :=
  let n := cpyLen o.block
  (List.range 32).filterMap fun j =>
    let k := 32 * p + j
    if k < cpyRows o.block * n then some (srcCell o (k / n) (k % n), dstCell o (k / n) (k % n)) else none
/-- What the next units of a `CPY` read and write: no more than 64 pages of each lie ahead in 8,192 sectors' rows (R319). -/
def cpyAhead (o : EngOp) : List Nat × List Nat :=
  let l := (List.range 8192).flatMap fun j => cpyCells o (o.progress + 1 + j)
  (l.flatMap fun e => cellAddrs e.1, l.flatMap fun e => cellAddrs e.2)

/-- `CPY_SECTOR_DELIVERY` (R245): the next sector of the destination stream. -/
def cpySector (s : State) (id : Nat) : State :=
  let o := opOf s id
  let total := cpyRows o.block * cpyLen o.block
  let src := (cpyCells o o.progress).map (·.1)
  let dst := (cpyCells o o.progress).map (·.2)
  engUnit s id (src.flatMap cellAddrs) (dst.flatMap cellAddrs) (cpyAhead o) fun s1 =>
    let denied := ((src.flatMap cellAddrs).filter fun va => engDenied s o va).map fun va => va / 128 * 128
    let vals := src.map fun c => cellRead s o c
    opAdvance (cellsWrite (opAudit s1 id 3 denied) id (dst.zip vals)) id ((total + 31) / 32)

def execCpySectorDelivery (s : State) : Out :=
  match tblGet? s.ops s.arg.a with
  | some o => if decide (o.cmd = 0) && opReady s o then .next (cpySector s s.arg.a) else .refused .notDue
  | none => .refused .notDue

/-- Row number of an element, and the cells of its record row and of its row at LIN (R246). -/
def gathY (s : State) (o : EngOp) : Int :=
  (BitVec.ofNat 32 (leNat ((List.range 4).map fun k => engByte s o ((bNat o.block 0x08 8 + 4 * o.progress + k) % 2 ^ 64)))).toInt
def gathBytes (o : EngOp) : Nat := bNat o.block 0x28 4 * trEbits o.trec / 8
def gathRec (s : State) (o : EngOp) : List Cell :=
  (List.range (gathBytes o)).map fun c => recCell o.trec (bInt o.block 0x24 4) (gathY s o) 0 c
def gathLin (o : EngOp) : List Cell :=
  (List.range (gathBytes o)).map fun c => addrCell (bNat o.block 0x10 8) (bInt o.block 0x18 8) o.progress c

/-- The index word of the next element fails to be read; IDX is a virtual address, and one in the aperture ends the operation with ACCESS
(DEDUCED from R29 and R246, log 31). -/
def idxBad (s : State) (o : EngOp) : Option (Nat × Cause) :=
  let va := (bNat o.block 0x08 8 + 4 * o.progress) % 2 ^ 64
  if isAperture va then some (va, .access) else firstBad s o .load [va]

/-- What the next elements of a `GATH` or `SCAT` read and write (R319). -/
def gathAhead (scat : Bool) (s : State) (o : EngOp) : List Nat × List Nat :=
  let l := ((List.range 4096).map fun j => { o with progress := o.progress + 1 + j }).filter fun e => decide (e.progress < bNat o.block 0x20 4)
  let rc := l.flatMap fun e => (gathRec s e).flatMap cellAddrs
  let ln := l.flatMap fun e => (gathLin e).flatMap cellAddrs
  let ix := l.map fun e => (bNat o.block 0x08 8 + 4 * e.progress) % 2 ^ 64
  if scat then (ix ++ ln, rc) else (ix ++ rc, ln)

/-- The next element of a `GATH` or `SCAT`: its index, the bounds of its row, then its bytes. -/
def gathStep (scat : Bool) (s : State) (id : Nat) : State :=
  let o := opOf s id
  match idxBad s o with
  | some (va, c) => if c = .pageFault then stallOp s id va else endOp s id c va
  | none =>
    if opFar s o ((bNat o.block 0x08 8 + 4 * o.progress) % 2 ^ 64) then s else
    let x := bInt o.block 0x24 4
    let w := bNat o.block 0x28 4
    let y := gathY s o
    let idxVa := (bNat o.block 0x08 8 + 4 * o.progress) % 2 ^ 64
    if trBound o.trec = 0 ∧ !(inExtent o.trec x y && inExtent o.trec (x + w - 1) y) then endOp s id .bounds (elemAddr o.trec x y)
    else
      let rc := gathRec s o
      let ln := gathLin o
      let src := if scat then ln else rc
      let dst := if scat then rc else ln
      engUnit s id (src.flatMap cellAddrs) (dst.flatMap cellAddrs) (gathAhead scat s o) fun s1 =>
        let denied := (src.flatMap cellAddrs).filter fun va => engDenied s o va
        let row := elemAddr o.trec x y
        let s2 := if engDenied s o idxVa then opAudit s1 id 1 [idxVa / 128 * 128] else s1
        let s3 :=
          if denied.isEmpty then s2
          else if scat then opAudit s2 id 3 (denied.map fun va => va / 128 * 128)
          else appendAudit s2 o.part row o.ident.toNat (opPage s o (denied.headD 0)).tag 1 (lkPlace o.lcore)
        let vals := src.map fun c => if !scat && !denied.isEmpty then 0 else cellRead s o c
        opAdvance (cellsWrite s3 id (dst.zip vals)) id (bNat o.block 0x20 4)

def execGathElement (s : State) : Out :=
  match tblGet? s.ops s.arg.a with
  | some o => if decide (o.cmd = 1) && opReady s o then .next (gathStep false s s.arg.a) else .refused .notDue
  | none => .refused .notDue
def execScatElement (s : State) : Out :=
  match tblGet? s.ops s.arg.a with
  | some o => if decide (o.cmd = 2) && opReady s o then .next (gathStep true s s.arg.a) else .refused .notDue
  | none => .refused .notDue

/-! ### Binding (R109, R116, R249, R250) -/

/-- A record placed in the context's Gazetteer: in the table's memory, and in the hall caches that instructions read, in every package
that holds the context. -/
def putRecord (s : State) (ctx num : Nat) (r : TRec) : State :=
  (s.parts.filter fun e => e.1 / 8192 == ctx).foldl (fun s e =>
    putHome (updPart s e.1 fun p => { p with gaz := bmSet p.gaz num r })
      (gpOf e.2.pkg (e.2.gazbase.toNat / 2 ^ 17 * 2 ^ 17 % 2 ^ 51) + 32 * num) 0 (leBytes 32 r.toNat)) s

/-- A binding is due when the accesses that its issue orders are performed; earlier bindings of its context come first, and the copy of its
entry's unit for a cut (R363). -/
def bindReady (s : State) (id : Nat) (o : EngOp) : Bool :=
  opReady s o &&
  (s.parts.all fun e => e.1 / 8192 != o.ctx ||
    !unitProtected s (gpOf e.2.pkg (e.2.gazbase.toNat / 2 ^ 17 * 2 ^ 17 % 2 ^ 51) + 32 * (bNat o.block 0x08 2 % 4096)) 32) &&
  (s.ops.all fun e => !(decide (e.1 < id) && e.2.ctx == o.ctx && (e.2.cmd == 4 || e.2.cmd == 5) && !e.2.ended))

def bindDone (s : State) (id : Nat) (r : TRec) : State :=
  let o := opOf s id
  updOp (putRecord s o.ctx (bNat o.block 0x08 2 % 4096) r) id fun o => { o with progress := 1, ended := true, complete := o.cmd == 5 }

def execGazetteerBindComplete (s : State) : Out :=
  match tblGet? s.ops s.arg.a with
  | some o => if decide (o.cmd = 4) && bindReady s s.arg.a o then .next (bindDone s s.arg.a (recImage o.block 0x10)) else .refused .notDue
  | none => .refused .notDue
/-- An unbound entry holds ELEM 0 everywhere. -/
def execGazetteerUnbindComplete (s : State) : Out :=
  match tblGet? s.ops s.arg.a with
  | some o => if decide (o.cmd = 5) && bindReady s s.arg.a o then .next (bindDone s s.arg.a 0) else .refused .notDue
  | none => .refused .notDue

/-! ### Completion (R211, R241) -/

/-- The STATUS word of an operation. -/
def statusVal (o : EngOp) : Nat := o.cause + o.fp.toNat * 2 ^ 16 + o.progress * 2 ^ 32

/-- Address of the STATUS of an operation's block. -/
def statusAt (o : EngOp) : Nat := o.addr + 0x38
/-- Why STATUS cannot be written: a check of its access, or the log of a deterministic workgroup (R241, R271). -/
def statusFail (s : State) (o : EngOp) : Option Cause :=
  match engFail s o (statusAt o) .store with
  | some c => some c
  | none => if opLogFull s o ((List.range 8).map fun k => statusAt o + k) then some .bounds else none
/-- STATUS written as a write of the operation, or its failure: a page fault stalls, anything else is recorded (R241). The place of an
operation entered from a list alone is not known, and its STATUS is not written (DESIGN CHOICE, log 30). -/
def putStatus (s : State) (id : Nat) : State :=
  let o := opOf s id
  if o.listed then updOp s id fun o => { o with complete := true }
  else match statusFail s o with
  | some c =>
    if c = .pageFault then stallOp s id (statusAt o)
    else updOp (appendFault s o.part (opRecord o (causeCode c) (statusAt o))) id fun o => { o with complete := true }
  | none => updOp (engWrite (engTrace s o (statusAt o)) id (statusAt o) (leBytes 8 (statusVal o))) id fun o => { o with complete := true }

/-- The writes of an operation have been performed at its completion scope. -/
def writesDone (s : State) (id : Nat) (o : EngOp) : Bool :=
  s.writes.all fun e => !(e.2.op == id && decide (e.2.level < levelOf o.cscope))

/-- An operation leaves the machine: the flags of its command may fall, its issuer's core drops its copies (R213), its record
reaches the event queue, its counter advances. -/
def finishOp (s : State) (id : Nat) : State :=
  let o := opOf s id
  let s1 := dropCopies { s with ops := tblDel s.ops id, loads := tblMap s.loads fun _ l => { l with waits := l.waits.filter (· != id) } }
    (opCore s o)
  let s2 :=
    if bNat o.block 0 8 / 128 % 2 = 1 ∧ o.cmd < 5 then
      pushEvent s1 o.lcore { kind := 1, cause := o.cause, ctr := o.ctr, source := lkPlace o.lcore, value := o.num, src := id }
    else s1
  completeNumber s2 o.ctx o.ctr o.num

/-- `ENGINE_OPERATION_COMPLETE`: first STATUS is written, and when every write is performed at the scope the operation is
complete; a `TSIGNAL` when its thread's earlier accesses are (R211, R239). -/
def opCompleteReady (s : State) (id : Nat) (o : EngOp) : Bool :=
  o.ended && o.stall.isNone && (o.cmd == 6 || opRunning s o) &&
  (o.complete || o.listed || !opFar s o (statusAt o)) &&
  (!o.complete || (writesDone s id o && (o.cmd != 6 || opReleased s o (levelOf o.cscope))))

def execEngineOperationComplete (s : State) : Out :=
  match tblGet? s.ops s.arg.a with
  | some o =>
    if opCompleteReady s s.arg.a o then .next (if o.complete then finishOp s s.arg.a else putStatus s s.arg.a) else .refused .notDue
  | none => .refused .notDue

end Sys2Proof.Machine
end

