-- ==== Sys2Proof/Machine/Collective.lean ====
section
/-! DEFINITION. Collective instances (R248): how they form, and the elements that each member writes. -/

namespace Sys2Proof.Machine

/-! ### Forming -/

/-- A command of a group key that no instance has taken yet. -/
def collWaits (o e : EngOp) : Bool :=
  e.cmd == 3 && e.ctx == o.ctx && decide (bNat e.block 0x18 8 = bNat o.block 0x18 8) && e.ranks.isEmpty && !e.ended

/-- The earliest such command of a rank: the j-th commands of all ranks meet in instance j. -/
def collRankOp (s : State) (o : EngOp) (r : Nat) : Option (Nat × EngOp) :=
  s.ops.find? fun e => collWaits o e.2 && collRank e.2.block == r

/-- One member for each rank, in rank order, as far as the ranks have issued. -/
def collByRank (s : State) (o : EngOp) : List (Nat × EngOp) :=
  (List.range (collRanks o.block)).filterMap fun r => collRankOp s o r
/-- The commands of the key that wait, each thread's earliest of each rank that it names: as many as NRANKS before every rank has issued
means that two of them name one rank (DESIGN CHOICE, log 29). -/
def collThreads (s : State) (o : EngOp) : List (Nat × EngOp) :=
  s.ops.filter fun e => collWaits o e.2 && s.ops.all fun f =>
    !(collWaits o f.2 && decide (f.1 < e.1) && f.2.warp == e.2.warp && f.2.lane == e.2.lane && collRank f.2.block == collRank e.2.block)
/-- The members of the instance that a command would start. -/
def collMembers (s : State) (o : EngOp) : List (Nat × EngOp) :=
  if (collByRank s o).length = collRanks o.block then collByRank s o else (collThreads s o).take (collRanks o.block)

/-- The members lie in more than one package (R247). -/
def collSpans (s : State) (ms : List (Nat × EngOp)) : Bool :=
  ms.any fun f => ms.any fun e => pcPkg (opCore s f.2) != pcPkg (opCore s e.2)

/-- NRANKS commands have issued, the command among them, and every issue's release is complete: at die, or at pod in a group that spans
packages (R211). -/
def collReady (s : State) (id : Nat) (o : EngOp) : Bool :=
  let ms := collMembers s o
  collWaits o o && ms.length == collRanks o.block && (ms.any fun e => e.1 == id) &&
    ms.all fun e => opReady s e.2 && (!collSpans s ms || opReleased s e.2 4)

/-- The members disagree on NRANKS, COUNT, KIND, OP, TYPE or ROOT, or two of them name one RANK. -/
def collMismatch (ms : List (Nat × EngOp)) : Bool :=
  (ms.any fun e => ms.any fun f => e.1 != f.1 && collRank e.2.block == collRank f.2.block) ||
  match ms with
  | [] => false
  | e :: t => t.any fun f =>
      decide (collRanks f.2.block ≠ collRanks e.2.block ∨ collCount f.2.block ≠ collCount e.2.block ∨
        bNat f.2.block 0x28 4 ≠ bNat e.2.block 0x28 4)

/-- A group that spans packages needs a completion scope of pod (R247). -/
def collNarrow (s : State) (ms : List (Nat × EngOp)) : Bool :=
  collSpans s ms && ms.any fun f => decide (f.2.cscope < 5)

/-- The ranks of an instance, as every member keeps them. -/
def collRankList (ms : List (Nat × EngOp)) : List Rank :=
  ms.map fun e => { src := bNat e.2.block 0x08 8, part := e.2.part, lcore := e.2.lcore, wg := e.2.wg, ident := e.2.ident, logn := e.2.logn }

/-- `COLL_INSTANCE_START`: the instance starts, or every member completes and writes nothing. -/
def collStart (s : State) (o : EngOp) : State :=
  let ms := collMembers s o
  if collMismatch ms then ms.foldl (fun s e => endOp s e.1 .shape (bNat e.2.block 0x10 8)) s
  else if collNarrow s ms then ms.foldl (fun s e => endOp s e.1 .illegalEncoding (bNat e.2.block 0x10 8)) s
  else ms.foldl (fun s' e => updOp s' e.1 fun o => { o with ranks := collRankList ms }) s

def execCollInstanceStart (s : State) : Out :=
  match tblGet? s.ops s.arg.a with
  | some o => if collReady s s.arg.a o then .next (collStart s o) else .refused .notDue
  | none => .refused .notDue

/-! ### Elements -/

/-- The accesses that read a rank's source are made as its own command's. -/
def rankOp (o : EngOp) (r : Rank) : EngOp := { o with part := r.part, lcore := r.lcore, wg := r.wg, ident := r.ident, logn := r.logn }

/-- Bytes of element j of a rank's source. -/
def rankAddrs (b : List Byte) (r : Rank) (j : Nat) : List Nat :=
  (List.range (collSize b)).map fun k => (r.src + collSize b * j + k) % 2 ^ 64
def rankElem (s : State) (o : EngOp) (r : Rank) (j : Nat) : Nat :=
  leNat ((rankAddrs o.block r j).map fun va => engByte s (rankOp o r) va)

/-- Two integers combined (R248). -/
def collInt (type op a b : Nat) : Nat :=
  match op with
  | 0 => (a + b) % 2 ^ 32
  | 1 => if type = 3 then (if signedOf 32 b < signedOf 32 a then b else a) else min a b
  | _ => if type = 3 then (if signedOf 32 a < signedOf 32 b then b else a) else max a b

/-- The combination of two nodes of a TYPE: to nearest even, subnormals kept (R248). -/
def collCombine (type op : Nat) : Nat → Node → Node → Node :=
  match type with
  | 0 => combineF fp32 .near false op
  | 1 => combineF bf16 .near false op
  | 2 => combineF fp64 .near false op
  | _ => fun _ x y => { bits := collInt type op x.bits y.bits }

/-- The final value of a tree of a TYPE. -/
def collFinal (type : Nat) (n : Node) : FOut :=
  match type with
  | 0 => finalNode n fp32
  | 1 => finalNode n bf16
  | 2 => finalNode n fp64
  | _ => (n.bits, 0)

/-- The reduction of element j of every rank, leaf r being rank r (R129, R130). -/
def collReduce (s : State) (o : EngOp) (j : Nat) : FOut :=
  let b := o.block
  let leaf (r : Nat) : Option Node := o.ranks[r]?.map fun x => { bits := rankElem s o x j, nan := r }
  match treeNode (collCombine (collType b) (collOp b)) leaf (bitLen (o.ranks.length - 1)) 0 with
  | some n => collFinal (collType b) n
  | none => (0, 0)

/-- The source elements that output element k needs: a rank and an index. -/
def collReads (o : EngOp) (k : Nat) : List (Nat × Nat) :=
  let b := o.block
  let rs := List.range o.ranks.length
  match collKind b with
  | 0 => rs.map fun r => (r, k)
  | 1 => rs.flatMap fun r => rs.map fun q => (r, q * collCount b + k)
  | 2 => [(k / collCount b, k % collCount b)]
  | _ => [(collRoot b, k)]

/-- Output element k, and the flags of the nodes behind it: in a reduce-scatter those of every block (R248). -/
def collElem (s : State) (o : EngOp) (k : Nat) : FOut :=
  let b := o.block
  match collKind b with
  | 0 => collReduce s o k
  | 1 =>
    ((collReduce s o (collRank b * collCount b + k)).1,
     (List.range o.ranks.length).foldl (fun f q => f ||| (collReduce s o (q * collCount b + k)).2) 0)
  | 2 => (rankElem s o (o.ranks.getD (k / collCount b) {}) (k % collCount b), 0)
  | _ => (rankElem s o (o.ranks.getD (collRoot b) {}) k, 0)

/-- The first source byte that fails to be read: an aperture address is no virtual address of the table of R247, and ends the operation with
ACCESS (DEDUCED from R29 and R247, log 31). -/
def collBad (s : State) (o : EngOp) (k : Nat) : Option (Nat × Cause) :=
  (collReads o k).findSome? fun e =>
    let r := o.ranks.getD e.1 {}
    (rankAddrs o.block r e.2).findSome? fun va =>
      if isAperture va then some (va, .access) else (engFail s (rankOp o r) va .load).map fun c => (va, c)

/-- Denied lines of the member's own source, audited once (R326). -/
def collAudit (s : State) (id : Nat) (o : EngOp) (k : Nat) : State :=
  let me := collRank o.block
  let l := ((collReads o k).filter fun e => e.1 == me).flatMap fun e => rankAddrs o.block (o.ranks.getD me {}) e.2
  opAudit s id 3 ((l.filter fun va => engDenied s o va).map fun va => va / 128 * 128)

/-- `COLL_ELEMENT_WRITE`: the next output element of a member. -/
def collStep (s : State) (id : Nat) : State :=
  let o := opOf s id
  let n := collSize o.block
  let k := o.progress
  let dst := (List.range n).map fun j => (bNat o.block 0x10 8 + n * k + j) % 2 ^ 64
  match collBad s o k with
  | some (va, c) => if c = .pageFault then stallOp s id va else endOp s id c va
  | none =>
    if (collReads o k).any fun e =>
      let r := o.ranks.getD e.1 {}
      (rankAddrs o.block r e.2).any (opFar s (rankOp o r)) then s else
    engUnit s id [] dst ([], []) fun s1 =>
      let (v, f) := collElem s o k
      let s2 := (runsOf (dst.zip (leBytes n v))).foldl (fun s r => engWrite s id r.1 r.2) (collAudit s1 id o k)
      opAdvance (updOp s2 id fun o => { o with fp := o.fp ||| f.extractLsb' 0 5 }) id (collOut o.block)

def execCollElementWrite (s : State) : Out :=
  match tblGet? s.ops s.arg.a with
  | some o =>
    if decide (o.cmd = 3) && !o.ranks.isEmpty && opReady s o then .next (collStep s s.arg.a) else .refused .notDue
  | none => .refused .notDue

end Sys2Proof.Machine
end

