-- ==== Sys2Proof/Machine/Fetch.lean ====
section
/-! DEFINITION. Instruction fetch: code lines (R51, R216, R317), clause headers (R52), the walk of a code line (R62), and the
checks of a clause at its entry (R63). -/

namespace Sys2Proof.Machine

/-- Traces of a fetch: the translation and the code line are kept; a line fetched anew replaces a copy freely. -/
def fetchTrace (s : State) (w : Nat) (va : Nat) : State :=
  let base := va / 64 * 64
  let g := wgOfWarp s w
  let part := lkPart g.lcore
  match translate s part base .fetch, fetchLine s w va with
  | .ok e, .ok ws => updLcore (fillTlb s part e) g.lcore fun c =>
      { c with code := if (tblGet? c.code base).isSome && Config.stale s.free (1025 + 2 * base) then c.code else tblSet c.code base { words := ws } }
  | _, _ => s

/-- The walk of a code line from word i lands on word k (R62). -/
def lineWalk (ws : List Word) (k : Nat) : Nat → Nat → Bool
  | 0, _ => false
  | n + 1, i => if i = k then true else if i < k then lineWalk ws k n (i + hdrLen (ws.getD i 0) + 2) else false

/-- A target is a clause header of its line (R62). -/
def isHeader (ws : List Word) (va : Nat) : Bool := va % 4 = 0 && lineWalk ws (va % 64 / 4) 17 0

/-- Why a transfer target fails: the fetch of its line, or no clause header (R62, R317). -/
def targetFail (s : State) (w : Nat) (target : Pair) : Option Fail :=
  let va := target.toNat
  match fetchLine s w va with
  | .error .pageFault => some { order := 30, cause := .pageFault, addr := va / 4096 * 4096, info := 1 + 512 }
  | .error c => some { order := 30, cause := c, addr := va }
  | .ok ws => if isHeader ws va then none else some { order := 30, cause := .badTarget, addr := va }

/-! ### The checks at the clause entry (R63) -/

/-- The result of the checks: the cause, and the offending word's offset in the clause, the header at 0. -/
structure ClauseBad where
  cause : Cause
  word : Nat
deriving DecidableEq, Repr

/-- Step 2: reserved header values (R52). -/
def headerBad (h : Word) : Bool :=
  let a := hdrSetA h
  let b := hdrSetB h
  let l := hdrLive h
  (decide (12 ≤ a) && decide (a ≤ 14)) || (decide (12 ≤ b) && decide (b ≤ 14)) || (a = 15 && decide (b ≠ 15)) ||
    (decide (96 ≤ l) && decide (l ≤ 126))

/-- Step 3 for one instruction word under the patterns of the word before it: cell, values, reserved fields. -/
def wordBad (w : Word) (pat : Option (BitVec 9 × BitVec 9)) : Option Cause :=
  match cell w with
  | none => some .illegalEncoding
  | some (i, m) =>
    match valueCause i with
    | some c => some c
    | none =>
      match (match pat with
        | some (a, b) => if isFormatR w then patCause w i a b else none
        | none => none) with
      | some c => some c
      | none => if w &&& m ≠ 0#32 then some .reservedField else reservedCause i

/-- Step 3 over the instruction words of a body. -/
def bodyBad : List Word → Nat → Option (BitVec 9 × BitVec 9) → Option ClauseBad
  | [], _, _ => none
  | w :: t, j, pat =>
    match wordBad w pat with
    | some c => some { cause := c, word := j + 1 }
    | none => bodyBad t (j + 1) (prefixOf w)

/-- Step 4: the lowest body word with a literal overrun, a misplaced prefix or a misplaced transfer; n words of the body
are instruction words, and `beyond` says that the last of them reads past the end. -/
def placeBad (beyond : Bool) : List Word → Nat → Option ClauseBad
  | [], _ => none
  | w :: t, j =>
    if beyond && t.isEmpty then some { cause := .illegalEncoding, word := j + 1 }
    else match prefixOf w with
      | some _ =>
        (match t with
        | [] => some { cause := .illegalEncoding, word := j + 1 }
        | v :: _ => if isFormatR v then placeBad beyond t (j + 1) else some { cause := .illegalEncoding, word := j + 1 })
      | none =>
        match cell w with
        | some (i, _) =>
          if (shapeOf i).xfer && !t.isEmpty then some { cause := .illegalEncoding, word := j + 1 } else placeBad beyond t (j + 1)
        | none => placeBad beyond t (j + 1)

/-- Step 5: the first privileged sub-op of a clause in an unprivileged context. -/
def privBad : List Word → Nat → Option ClauseBad
  | [], _ => none
  | w :: t, j =>
    match cell w with
    | some (i, _) => if (shapeOf i).priv then some { cause := .privilege, word := j + 1 } else privBad t (j + 1)
    | none => privBad t (j + 1)

/-- The checks of a clause in R63's order: it starts at word k of its line, h is its header, body its body words. -/
def clauseBad (priv : Bool) (k : Nat) (h : Word) (body : List Word) : Option ClauseBad :=
  if 16 < k + hdrLen h + 2 then some { cause := .illegalEncoding, word := 0 }
  else if headerBad h then some { cause := .reservedField, word := 0 }
  else
    let n := instrCount body 0 0 body.length
    let ins := body.take n
    match bodyBad ins 0 none with
    | some b => some b
    | none =>
      match placeBad (decide (body.length < n + litsBefore body n)) ins 0 with
      | some b => some b
      | none => if priv then none else privBad ins 0

end Sys2Proof.Machine
end

