-- ==== Sys2Proof/Machine/Sync.lean ====
section
/-! DEFINITION. Waiting inside a clause (R283): workgroup barriers (R285 to R288), barrier objects in memory (R289 to R291),
full/empty words (R292, R293) and `SLEEP` (R294). -/

namespace Sys2Proof.Machine

/-! ### Workgroup barriers (R285 to R287) -/

def barOf (s : State) (m : Member) (k : Nat) : Barrier := tblGet (wgOfWarp s m.warp).bars k
def updBar (s : State) (m : Member) (k : Nat) (f : Barrier → Barrier) : State :=
  updWg s (warpOf s m.warp).wg fun w => { w with bars := tblSet w.bars k (f (tblGet w.bars k)) }

/-- The PHASE at which a thread's pending arrival was made. -/
def pendingAt (s : State) (m : Member) (k : Nat) : Option Nat :=
  ((barOf s m k).pend.find? fun e => e.1 == threadNo s m).map (·.2)

/-- An arrival of count n that raises SHAPE. -/
def arriveBad (s : State) (m : Member) (k n : Nat) : Bool :=
  let b := barOf s m k
  decide (1024 < n) || (k == 0 && n != 0) || decide (pendingAt s m k = some b.phase) ||
  (!(decide (b.count = 0) && b.arrived.isEmpty) && n != b.expect)

/-- An arrival: the first one of a phase sets the mode, and completion is tested. -/
def arriveAt (s : State) (k n : Nat) (m : Member) : State :=
  let t := threadNo s m
  let s1 := updBar s m k fun b =>
    let b := if b.count = 0 ∧ b.arrived = [] then { b with expect := n } else b
    { b with pend := b.pend.filter (fun e => e.1 != t) ++ [(t, b.phase)], arrived := insNat t b.arrived,
             count := if b.expect > 0 ∧ !(thrOf s m).helper then b.count + 1 else b.count }
  testBarrier s1 (warpOf s m.warp).wg k

/-- A member's wait on a barrier: its phase is still open. -/
def barrierOpen (s : State) (m : Member) (k : Nat) : Option Wait :=
  match pendingAt s m k with
  | some p => if (barOf s m k).phase ≤ p then some (.barrier k p) else none
  | none => none

/-- The wait on barrier k is over. -/
def clearPending (s : State) (k : Nat) (m : Member) : State :=
  updBar s m k fun b => { b with pend := b.pend.filter fun e => e.1 != threadNo s m }

/-- The arrival of a member in its turn; a helper whose arrival would raise SHAPE makes none (R15). -/
def arriveStep (k : Nat) (n : Member → Nat) (s : State) (m : Member) : State :=
  if (thrOf s m).helper && arriveBad s m k (n m) then s else arriveAt s k (n m) m

/-- The first of some members, in ascending lane order, whose arrival raises SHAPE, where the lower ones have arrived before it. -/
def arriveFails (k : Nat) (n : Member → Nat) : List Member → State → Option Member
  | [], _ => none
  | m :: t, s => if !(thrOf s m).helper && arriveBad s m k (n m) then some m else arriveFails k n t (arriveStep k n s m)

/-- Members that arrive together with their count: those that stand at no comparison. -/
def arriving (s : State) (g : Group) (p : BitVec 3) : List Member := (active s g p).filter fun y => !comparesAt s .cmp y

/-- The failing check of a member that arrives among others. -/
def arriveFail (s : State) (ms : List Member) (k : Nat) (n : Member → Nat) (m : Member) : Option Fail :=
  if arriveFails k n ms s = some m then some { order := 21, cause := .shape, info := (warpOf s m.warp).shape.toNat } else none

/-- An arrival is a release at wg: once no member's check fails, the members wait until the writes of all of them are performed there
(R287). -/
def arrivalWait (s : State) (ms : List Member) (k : Nat) (n : Member → Nat) (m : Member) : Option Wait :=
  if (arriveFails k n ms s).isSome then none else jointWait s ms 1 m

/-- The counts that the members of a `BARA` bring. -/
def baraCount (p : BitVec 3) (d a : BitVec 7) (s : State) (m : Member) : Nat :=
  match curGroup? s with
  | none => 0
  | some g => (lo32 (srcOf s g (shapeOf (.bara p d a)) m).a).toNat

/-- `BARA`: an arrival of every member, in ascending lane order. -/
def execBara (p : BitVec 3) (d a : BitVec 7) (s : State) : Out :=
  let k := (d.extractLsb' 0 4).toNat
  groupOp (.bara p d a) .cmp
    (fun s m _ => match curGroup? s with
      | none => none
      | some g => arrivalWait s (arriving s g p) k (baraCount p d a s) m)
    (fun s m _ => match curGroup? s with
      | none => none
      | some g => arriveFail s (arriving s g p) k (baraCount p d a s) m)
    (fun s _ l => (l.foldl (fun s' e => arriveStep k (fun _ => (lo32 e.2.a).toNat) s' e.1) (clearWaits s (l.map (·.1))), [])) s

/-- Members whose phase is open leave the group and stand in the wait; the others' waits are over. -/
def waitOn (s : State) (g : Group) (k : Nat) (ms : List Member) : State :=
  let held := ms.filterMap fun m => (barrierOpen s m k).map fun w => (m, w)
  let past := ms.filter fun m => (barrierOpen s m k).isNone
  deferMembers (past.foldl (fun s m => clearPending s k m) s) g held

/-- `BARW`: waits for the phase of the thread's pending arrival. -/
def execBarw (p : BitVec 3) (d : BitVec 7) (s : State) : Out :=
  groupOp (.barw p d) .own noWait noFail
    (fun s g l => (waitOn (clearWaits s (l.map (·.1))) g (d.extractLsb' 0 4).toNat (l.map (·.1)), [])) s

/-- Members of a `BAR` that arrive: those with no pending arrival at b0. -/
def barArriving (s : State) (g : Group) (p : BitVec 3) : List Member := (arriving s g p).filter fun y => (pendingAt s y 0).isNone

/-- `BAR`: an arrival at b0 where none is pending, then the wait. -/
def execBar (p : BitVec 3) (s : State) : Out :=
  groupOp (.bar p) .cmp
    (fun s m _ => match curGroup? s with
      | none => none
      | some g => if (pendingAt s m 0).isSome then none else arrivalWait s (barArriving s g p) 0 (fun _ => 0) m)
    (fun s m _ => match curGroup? s with
      | none => none
      | some g => arriveFail s (barArriving s g p) 0 (fun _ => 0) m)
    (fun s g l =>
      let s1 := ((l.map (·.1)).filter fun m => (pendingAt s m 0).isNone).foldl (arriveStep 0 fun _ => 0) (clearWaits s (l.map (·.1)))
      (waitOn s1 g 0 (l.map (·.1)), [])) s

/-! ### Barrier objects (R289 to R291) -/

/-- A byte range of an object as a member's core sees it, or, on a shared line of a deterministic grid, as its workgroup does (R269). -/
def objNat (s : State) (m : Member) (va off n : Nat) : Nat :=
  let e := pageFor s m va
  leNat ((List.range n).map fun k =>
    loadByte s m e (va + off + k) (viewByte s (coreOfWarp s m.warp) m.warp e.key (physOf e va + off + k)))
def objScope (s : State) (m : Member) (va : Nat) : Nat := objNat s m va 0x10 1

/-- The checks of R291. -/
def objFail (need : Need) (s : State) (m : Member) (va : Nat) : Option Fail :=
  if va % 32 ≠ 0 then some { order := 21, cause := .misaligned, addr := va }
  else if takesForward s m then none
  else match accessFail s m va 32 need with
    | some f => some f
    | none =>
      let l := gpLocal (physOf (pageFor s m va) va)
      if tagDenies s m va then some { order := 26, cause := .tagDenied, addr := va }
      else if hostLocal l || isOnChip l then some { order := 28, cause := .access, addr := va }
      else if poisoned s (physOf (pageFor s m va) va) 32 then some { order := 27, cause := .memPoison, addr := va }
      else if 6 < objScope s m va ∨ objNat s m va 0x11 15 ≠ 0 then some { order := 29, cause := .reservedField, addr := va }
      else none

/-- A pending return that counts on no flag. -/
def quietReturn (s : State) (w : Nat) : State :=
  { s with loads := s.loads ++ [(s.nextId, { warp := w, part := partOfWarp s w })], nextId := s.nextId + 1 }

/-- The arrival of a deterministic workgroup at an object on a shared line: computed against the serial state, and logged (R270, R291). -/
def serialArrive (s : State) (m : Member) (va id reg : Nat) : State :=
  let e := pageFor s m va
  let o := leBytes 8 (serialNat s m e va 8) ++ leBytes 8 (serialNat s m e (va + 8) 8)
  forward (landOld (logWrite s m.warp 0 0 va (arriveNew o).2) id m.lane reg 8 (arriveNew o).1 0) m (packRet (arriveNew o).1 0)

/-- A member's arrival leaves its core, and the member waits after the instruction for its return (R283, R290). -/
def issueArrive (g : Group) (d : BitVec 7) (ins : Nat) (ms : List Member) (s : State) (m : Member) (x : Src) : State :=
  let va := (lo64 x.a).toNat
  if (thrOf s m).helper then s
  else
    let id := s.nextId
    let reg := retReg s ms m d
    let s1 := markUniform (quietReturn s m.warp) m.warp id [reg, reg + 1]
    if takesForward s m then
      takeFwd (landOld s1 id m.lane reg 8 (((fwdVal? s m).getD 0).extractLsb' 0 64).toNat 0) m
    else if detShared s m.warp va then serialArrive (accessTrace s1 m va .store 0) m va id reg
    else
      let s2 := accessTrace s1 m va .store 0
      let a : Atom := { atomOf ⟨2, levelOf (objScope s m va), 32, true, 0⟩ s2 m x ins with ret := some id, reg := reg }
      let s3 := updLoad (pushAtom s2 a) id fun l => { l with waits := [s2.nextId] }
      dropMembers (standAfterIn s3 g m (.returned id)) fun n => n == m

/-- The words of an object are awaited as plain loads are (R210, R227, R398). -/
def objWait (need : Need) (s : State) (m : Member) (va : Nat) : Option Wait :=
  if takesForward s m || (objFail need s m va).isSome then none else blockWait s m [va, va + 8, va + 16, va + 24]

/-- An arrival is an atomic: on a shared line of a deterministic grid it waits for the lower workgroups, and two entries of the log must
have room (R231, R270, R271, R291). -/
def execMarrive (p : BitVec 3) (d a : BitVec 7) (s : State) : Out :=
  groupOpE (.marrive p d a) .both (fun _ _ x => [{ addr := (lo64 x.a).toNat / 8 * 8, kind := 8, op := 0x23 }])
    (fun s m x => firstWait [laterWait s m x, objWait .store s m (lo64 x.a).toNat, serialWait s m (lo64 x.a).toNat])
    (fun s m x => match objFail .store s m (lo64 x.a).toNat with
      | some f => some f
      | none => logFail s m (lo64 x.a).toNat (logBefore s (.marrive p d a) (fun y z => logUnits s y (lo64 z.a).toNat 16) m)
          (logUnits s m (lo64 x.a).toNat 16))
    (fun s g l => (l.foldl (fun s' e => issueArrive g d s.nextId (l.map (·.1)) s' e.1 e.2) s, [])) s

/-- PHASE of an object as it stands at its SCOPE's point, or, on a shared line of a deterministic grid, as the workgroup reads it (R269). -/
def objPhase (s : State) (m : Member) (va : Nat) : Nat :=
  let e := pageFor s m va
  leNat ((List.range 8).map fun k => loadByte s m e (va + 8 + k)
    (levelByte s (levelOf (objScope s m va)) (coreOfWarp s m.warp) e.key (physOf e va + 8 + k)))

/-- `MWAIT`: waits until PHASE differs from p, then acquires at SCOPE. -/
def execMwait (p : BitVec 3) (d a : BitVec 7) (s : State) : Out :=
  groupOp (.mwait p d a) .fwd
    (fun s m x =>
      let va := (lo64 x.a).toNat
      if takesForward s m || (objFail .load s m va).isSome then none
      else match objWait .load s m va with
        | some w => some w
        | none => if objPhase s m va = (lo64 x.d).toNat then some (.phase va (lo64 x.d).toNat) else none)
    (fun s m x => objFail .load s m (lo64 x.a).toNat)
    (fun s _ l =>
      let vals := l.map fun e => (e.1, BitVec.ofNat 128 (objPhase s e.1 (lo64 e.2.a).toNat))
      let s1 := l.foldl (fun s' e =>
        if (thrOf s e.1).helper || takesForward s e.1 then s'
        else acquireAt (accessTrace s' e.1 (lo64 e.2.a).toNat .load 0) e.1 (objScope s e.1 (lo64 e.2.a).toNat))
        (clearWaits s (l.map (·.1)))
      (takeFwds (forwards s1 vals) (vals.map (·.1)), [])) s

/-! ### Full/empty words (R292, R293) -/

def wordFull (s : State) (m : Member) (off : Nat) : Bool := decide (bmGet (wgOfWarp s m.warp).full (off / 4) = 1)
def setFull (s : State) (m : Member) (off : Nat) (v : Bool) : State :=
  updWg s (warpOf s m.warp).wg fun w => { w with full := bmSet w.full (off / 4) (if v then 1 else 0) }

/-- The takes of a load form in ascending lane order: the state after them, what each taking member took, and the members
whose condition failed. `need` asks for a full word, `leave` says what the word is left as, none as it is. -/
def takeWords (need : Bool) (leave : Option Bool) : List (Member × Src) → State → State × List (Member × Val) × List (Member × Wait)
  | [], s => (s, [], [])
  | e :: t, s =>
    let off := addrS { a := e.2.a }
    let v := scrRead s e.1 off 4
    if (thrOf s e.1).helper then
      let (s', vs, ws) := takeWords need leave t s
      (s', (e.1, v) :: vs, ws)
    else if need && !wordFull s e.1 off then
      let (s', vs, ws) := takeWords need leave t s
      (s', vs, (e.1, .word off true) :: ws)
    else
      let s1 := match leave with
        | some b => setFull s e.1 off b
        | none => s
      let (s', vs, ws) := takeWords need leave t s1
      (s', (e.1, v) :: vs, ws)

/-- A full/empty load: takes, and a pending return behind which the thread's later accesses wait. -/
def feLoadOp (i : Instr) (need : Bool) (leave : Option Bool) (s : State) : Out :=
  groupOp i .own laterWait (fun s m x => scrLoadFail s m (lo32 x.a).toNat 4)
    (fun s g l =>
      let (s1, vals, held) := takeWords need leave l (clearWaits s (l.map (·.1)))
      let s2 := issueLong s1 g (vals.map (·.1)) fun w =>
        { writes := regWrites s (shapeOf i).d w vals, load := true, part := partOfWarp s w,
          acq := (vals.filter fun e => e.1.warp == w && !(thrOf s e.1).helper).map fun e => e.1.lane }
      (deferMembers s2 g held, [])) s

def execLdfK (p : BitVec 3) (d a : BitVec 7) (s : State) : Out := feLoadOp (.ldfK p d a) true none s
def execLdfE (p : BitVec 3) (d a : BitVec 7) (s : State) : Out := feLoadOp (.ldfE p d a) true (some false) s
def execLde (p : BitVec 3) (d a : BitVec 7) (s : State) : Out := feLoadOp (.lde p d a) false (some false) s

/-- One full/empty store: the word and its state, one indivisible action; its entry was folded before it. -/
def putFull (s : State) (m : Member) (off : Nat) (v : Word) : State :=
  setFull (updWg s (warpOf s m.warp).wg fun g =>
    { g with scr := bmSetAll g.scr ((List.range 4).map fun k => (off + k, v.extractLsb' (8 * k) 8)) }) m off true

/-- The stores in ascending lane order, and the members whose word is full. -/
def putWords (need : Bool) : List (Member × Src) → State → State × List (Member × Wait)
  | [], s => (s, [])
  | e :: t, s =>
    let off := (lo32 e.2.a).toNat
    if (thrOf s e.1).helper then putWords need t s
    else if need && wordFull s e.1 off then
      let (s', ws) := putWords need t s
      (s', (e.1, .word off false) :: ws)
    else putWords need t (putFull s e.1 off (lo32 e.2.d))

/-- A full/empty store: a release at wg, and so a comparison point of a redundant warp (R108, R371). -/
def feStoreOp (i : Instr) (need : Bool) (s : State) : Out :=
  groupOpE i .cmp
    (fun _ _ x => (logEntries 0 0 (lo32 x.a).toNat (bytesOf x.d 4)).map fun e =>
      { addr := e.va, data := leNat e.data, mask := e.mask, kind := 1 })
    (fun s m x => match laterWait s m x with
      | some w => some w
      | none => match curGroup? s with
        | none => none
        | some g =>
          let sh := shapeOf i
          let ms := (active s g sh.p).filter fun y => !comparesAt s .cmp y && !acqHeld s y
          if pastCompare s m || (ms.any fun y => !(thrOf s y).helper && (scrFail s y (lo32 (srcOf s g sh y).a).toNat 4).isSome) then none
          else jointWait s (ms.filter fun y => !pastCompare s y) 1 m)
    (fun s m x => scrFail s m (lo32 x.a).toNat 4)
    (fun s g l =>
      let (s1, held) := putWords need l (clearWaits s (l.map (·.1)))
      (deferMembers s1 g held, [])) s

def execSte (p : BitVec 3) (d a : BitVec 7) (s : State) : Out := feStoreOp (.ste p d a) true s
def execStf (p : BitVec 3) (d a : BitVec 7) (s : State) : Out := feStoreOp (.stf p d a) false s

/-! ### `SLEEP` (R294) -/

/-- Members with a count other than zero stand at the `SLEEP` until it expires; a member whose sleep has expired goes on. -/
def execSleepT (p : BitVec 3) (a : BitVec 7) (s : State) : Out :=
  groupOp (.sleepT p a) .own
    (fun s m x =>
      let n := min (lo32 x.a).toNat (2 ^ 24)
      match (thrOf s m).wait with
      | .sleep _ => if (thrOf s m).ready then none else some (.sleep (s.clk + 3 * n))
      | _ => if n = 0 then none else some (.sleep (s.clk + 3 * n)))
    noFail (fun s _ l => (clearWaits s (l.map (·.1)), [])) s

/-- `SLEEP_EXPIRY`: a is the warp, b the lane. -/
def sleepDue (s : State) (w l : Nat) : Bool :=
  match tblGet? (warpOf s w).lanes l with
  | some t =>
    (match t.wait with
     | .sleep u => decide (u ≤ s.clk) && !t.ready
     | _ => false) && !t.stopped && !(warpOf s w).halted
  | none => false
def execSleepExpiry (s : State) : Out :=
  if sleepDue s s.arg.a s.arg.b then .next (updThr s ⟨s.arg.b, s.arg.a⟩ fun t => { t with ready := true }) else .refused .notDue

/-- Every access that came before an identifier has been performed at sys: writes, atomics that are not held, compare-and-swaps,
and loads on their way (R335, R336). -/
def accessesDone (s : State) (n : Nat) : Bool :=
  (s.writes.all fun e => decide (n ≤ e.1)) && (s.atoms.all fun e => decide (n ≤ e.1) || e.2.posted.isSome) &&
  (s.mcas.all fun e => decide (n ≤ e.1)) && (s.loads.all fun e => decide (n ≤ e.1) || !e.2.load || !e.2.waits.isEmpty)

/-- The condition of a wait as it stands for a member (R263, R283). -/
def waitOver (s : State) (m : Member) : Bool :=
  let w := wgOfWarp s m.warp
  match (thrOf s m).wait with
  | .none => true
  | .word off full => wordFull s m off == full
  | .timeline k n => decide (n ≤ (timelineOf s (warpOf s m.warp).ctx k).value)
  | .barrier k _ => (barrierOpen s m k).isNone
  | .phase va p => takesForward s m || (objFail .load s m va).isSome || decide (objPhase s m va ≠ p)
  | .evpop => !(lcoreOf s w.lcore).ev.isEmpty
  | .evpush lk => decide (eventCount s lk < 256) && (lcoreOf s lk).evHeld.isEmpty
  | .held => !w.held
  | .cancel g => (gridOf s g).cancelTo.isEmpty
  | .release level n => releaseDone s m level n && !acqHeld s m
  | .victim c n => performedAt s c 0 4 n
  | .serial => serialOpen (gridOf s w.grid) w.block
  | .stopped k => s.warps.all fun e => partOfWarp s e.1 != k || e.2.halted
  | .drained n => accessesDone s n
  | .sleep _ => false
  | .returned id => (tblGet? s.loads id).isNone
  | .compared id => (tblGet? s.mcas id).isNone
  | .room => !(warpOf s m.warp).atCmp
  | .fwd lanes => lanes.all fun l => (fwdVal? s ⟨l, m.warp⟩).isSome
  | .acq => !acqHeld s m
  | .own a n => !atomHeld s m a n
  | .far va => !farHeld s m va
  | .reads => !acqHeld s m && !readsPending s m
  | .bank b => !bankBusy s m.warp b && !releasing s (warpOf s m.warp).wg b
  | .fill line n => homeTakes s (some n) (line * 128) 128
  | .joint level n ms => ms.all fun e => releaseDone s ⟨e.2, e.1⟩ level n

/-- `DEFERRED_MEMBER_RETEST`: a is the warp, b the lane; a member whose condition holds may resume its clause. -/
def retestDue (s : State) (w l : Nat) : Bool :=
  match tblGet? (warpOf s w).lanes l with
  | some t => decide (t.wait ≠ .none) && !t.ready && !t.stopped && !(warpOf s w).trapped && !(warpOf s w).halted && waitOver s ⟨l, w⟩
  | none => false
def execDeferredMemberRetest (s : State) : Out :=
  if retestDue s s.arg.a s.arg.b then .next (updThr s ⟨s.arg.b, s.arg.a⟩ fun t => { t with ready := true }) else .refused .notDue

end Sys2Proof.Machine
end

