-- ==== Sys2Proof/Machine/Room.lean ====
section
/-! DEFINITION. The free resources of a physical core and what a holder needs of them: warp slots and vector registers of the
quarters (R12), local-store banks (R194, R195), accumulator banks (R79), and the sequencer's store (R162). -/

namespace Sys2Proof.Machine

/-- What a core's residents occupy: physical slots, registers of each quarter, local-store banks, accumulator banks, and the
vector and uniform registers of sequencer instances. -/
structure Room where
  slots : List Nat := []
  regs : Tbl Nat := []
  banks : List Nat := []
  acc : List Nat := []
  seqV : Nat := 0
  seqS : Nat := 0
deriving DecidableEq, Repr

/-- The place that a holder takes: the quarter of its warp 0, the slot of each warp, its first scratchpad and operand bank, and
its accumulator banks, all physical. -/
structure Fit where
  q0 : Nat := 0
  slots : List Nat := []
  scr : Nat := 0
  op : Nat := 0
  acc : List Nat := []
deriving DecidableEq, Repr

/-- Registers taken in a quarter. -/
def regsIn (r : Room) (q : Nat) : Nat := (tblGet? r.regs q).getD 0

/-- A bank that a holder may take: not owned, and no role change pending (R195, R256). -/
def bankFree (r : Room) (b : Nat) : Bool := decide (b < 64) && !r.banks.contains b

/-- n consecutive free banks from b on, none of them among others taken. -/
def runFree (r : Room) (not : List Nat) (b n : Nat) : Bool :=
  (List.range n).all fun k => bankFree r (b + k) && !not.contains (b + k)

/-- The first run of n free banks. -/
def findBanks (r : Room) (not : List Nat) (n : Nat) : Option Nat := (List.range 65).find? fun b => runFree r not b n

/-- A scratchpad run and an operand run that do not meet. -/
def findRuns (r : Room) (n m : Nat) : Option (Nat × Nat) :=
  (List.range 65).findSome? fun b =>
    if runFree r [] b n then (findBanks r ((List.range n).map fun k => b + k) m).map fun o => (b, o) else none

/-- Free accumulator banks, the lowest n. -/
def findAcc (r : Room) (n : Nat) : Option (List Nat) :=
  let l := ((List.range 32).filter fun b => !r.acc.contains b).take n
  if l.length = n then some l else none

/-- The banks that a fit takes. -/
def fitBanks (k : Khdr) (f : Fit) : List Nat :=
  (List.range k.scrbanks).map (fun j => f.scr + j) ++ (List.range k.opbanks).map fun j => f.op + j

/-- Warps placed one after another from a quarter on: each takes the lowest free slot of its quarter and V registers (R12, R14). -/
def fitWarps (v q0 : Nat) : Nat → Nat → Room → Option (List Nat × Room)
  | 0, _, r => some ([], r)
  | n + 1, w, r =>
    let q := (q0 + w) % 4
    match (List.range 24).find? fun j => !r.slots.contains (q * 24 + j) with
    | none => none
    | some j =>
      if 512 < regsIn r q + v then none
      else
        let r1 := { r with slots := (q * 24 + j) :: r.slots, regs := tblSet r.regs q (regsIn r q + v) }
        (fitWarps v q0 n (w + 1) r1).map fun e => ((q * 24 + j) :: e.1, e.2)

/-- The banks of a holder taken. -/
def takeBanks (k : Khdr) (f : Fit) (r : Room) : Room := { r with banks := fitBanks k f ++ r.banks, acc := f.acc ++ r.acc }

/-- A workgroup of some warps fits: its place, and the room left. The spec leaves q0, slots and bank numbers to the placement (R14); the
model takes the lowest scratchpad and operand runs, the lowest quarter q0 in which every warp fits, and the lowest free slots and
accumulator banks (DESIGN CHOICE, log 12). -/
def fitWg (r : Room) (k : Khdr) (warps : Nat) : Option (Fit × Room) :=
  match findRuns r k.scrbanks k.opbanks, findAcc r k.accbanks with
  | some (b, o), some acc =>
    (List.range 4).findSome? fun q0 =>
      (fitWarps k.v q0 warps 0 r).map fun e =>
        let f : Fit := { q0 := q0, slots := e.1, scr := b, op := o, acc := acc }
        (f, takeBanks k f e.2)
  | _, _ => none

/-- A sequencer instance fits (R162). -/
def fitSeq (r : Room) (k : Khdr) : Option (Fit × Room) :=
  if 2048 < r.seqV + k.v ∨ 256 < r.seqS + k.s then none
  else match findRuns r k.scrbanks k.opbanks, findAcc r k.accbanks with
    | some (b, o), some acc =>
      let f : Fit := { scr := b, op := o, acc := acc }
      some (f, takeBanks k f { r with seqV := r.seqV + k.v, seqS := r.seqS + k.s })
    | _, _ => none

/-- A workgroup fits beside the instance of its launch, where the launch has a sequencer section and none stands there yet. -/
def fitBoth (r : Room) (k : Khdr) (warps : Nat) (seq : Bool) : Option Room :=
  if seq then
    match fitSeq r k with
    | some e => (fitWg e.2 k warps).map (·.2)
    | none => none
  else (fitWg r k warps).map (·.2)

/-- How many workgroups of one launch fit a room, at most n. -/
def fitCount (k : Khdr) (warps : Nat) : Nat → Room → Nat
  | 0, _ => 0
  | n + 1, r =>
    match fitWg r k warps with
    | some e => fitCount k warps n e.2 + 1
    | none => 0

/-- The same with the sequencer instance still to be placed. -/
def fitCountSeq (k : Khdr) (warps : Nat) (seq : Bool) (r : Room) : Nat :=
  if seq then
    match fitSeq r k with
    | some e => fitCount k warps 96 e.2
    | none => 0
  else fitCount k warps 96 r

/-- Dirty bytes stand in a core's L1: its banks leave that role only when they have been merged at their homes (R195). Which bank holds which
bytes is not given; the model merges all of them first (DEDUCED, log 34). -/
def l1Dirty (s : State) (c : Nat) : Bool := s.writes.any fun e => e.2.pcore == c && e.2.level == 1
/-- The banks of a core in L1 role. -/
def l1Banks (s : State) (c : Nat) : List Nat := (List.range 64).filter fun b => decide (bmGet (pcoreAt s c).role b = 0#2)

/-- The room of a physical core. -/
def roomOf (s : State) (c : Nat) : Room :=
  let ws := s.warps.filter fun e => coreOfWarp s e.1 == c
  let plain := ws.filter fun e => !(wgOf s e.2.wg).seqi
  let seqs := ws.filter fun e => (wgOf s e.2.wg).seqi
  let p := pcoreAt s c
  { slots := plain.map fun e => e.2.pslot
    regs := (List.range 4).map fun q => (q, ((plain.filter fun e => e.2.pslot / 24 == q).map fun e => e.2.nv).sum)
    banks := p.bank.map (·.1) ++ p.pend.map (·.1) ++ if l1Dirty s c then l1Banks s c else []
    acc := p.acc.map (·.1)
    seqV := (seqs.map fun e => e.2.nv).sum
    seqS := (seqs.map fun e => e.2.ns).sum }

/-! ### Local-store roles -/

/-- A word of a core's window lies in a local-store bank. -/
def inBank (b k : Nat) : Bool := decide (0xC00000 + 0x1000 * b ≤ 4 * k) && decide (4 * k < 0xC01000 + 0x1000 * b)
/-- A word of a core's window lies in an accumulator bank. -/
def inAcc (b k : Nat) : Bool := decide (0xC40000 + 0x2000 * b ≤ 4 * k) && decide (4 * k < 0xC42000 + 0x2000 * b)

/-- A bank takes a role at once, for it has no owner: it turns zero with its words empty (R195, R196). One that leaves the L1 role is
invalidated: the copies that it held are gone, all of them with the last such bank. -/
def setRole (s : State) (c bank : Nat) (role : BitVec 2) : State :=
  let was := bmGet (pcoreAt s c).role bank
  let s1 := updPcore s c fun p => { p with role := bmSet p.role bank role, chip := p.chip.filter fun e => !inBank bank e.1 }
  if was ≠ 0#2 then s1
  else if (l1Banks s1 c).isEmpty then dropCopies s1 c
  else if (pcoreAt s1 c).copies.isEmpty then s1
  else updPcore s1 c fun p => { p with copies := p.copies.filter fun e => Config.evict (64 * s.free + bank) e.1 }

/-- The banks of a holder taken on a core: roles set, owners entered, every word zero (R195, R196). -/
def ownBanks (s : State) (c g : Nat) (scr op acc : List Nat) : State :=
  let s1 := scr.foldl (fun s b => if bmGet (pcoreAt s c).role b = 1#2 then s else setRole s c b 1#2) s
  let s2 := op.foldl (fun s b => if bmGet (pcoreAt s c).role b = 2#2 then s else setRole s c b 2#2) s1
  updPcore s2 c fun p =>
    { p with bank := (scr ++ op).foldl (fun t b => tblSet t b g) p.bank, acc := acc.foldl (fun t b => tblSet t b g) p.acc,
             chip := p.chip.filter fun e => !((scr ++ op).any fun b => inBank b e.1) && !(acc.any fun b => inAcc b e.1) }

/-- `BANK_ROLE_CHANGE`: a is the core, b the bank: a pending change takes effect when the bank has no owner, and, where it leaves the L1
role, when no dirty byte is left to merge (R195). -/
def roleDue (s : State) (c bank : Nat) : Bool :=
  (tblGet? (pcoreAt s c).pend bank).isSome && (tblGet? (pcoreAt s c).bank bank).isNone &&
    (decide (bmGet (pcoreAt s c).role bank ≠ 0#2) || !l1Dirty s c)

def execBankRoleChange (s : State) : Out :=
  match tblGet? (pcoreAt s s.arg.a).pend s.arg.b with
  | some e =>
    if roleDue s s.arg.a s.arg.b then
      .next (setRole (updPcore s s.arg.a fun p => { p with pend := tblDel p.pend s.arg.b }) s.arg.a s.arg.b e.1)
    else .refused .notDue
  | none => .refused .notDue

/-! ### Cores and halls of a context -/

/-- Physical cores of a part, in ascending number. -/
def coresOf (s : State) (part : Nat) : List Nat := (s.pcores.filter fun e => e.2.owners.contains part).map (·.1)

/-- Parts of a context. -/
def partsOfCtx (s : State) (ctx : Nat) : List Nat := (s.parts.filter fun e => e.1 / 8192 == ctx).map (·.1)

/-- Halls in which some cores lie. -/
def hallsOf (l : List Nat) : List Nat := sortNat (l.map fun c => c / 8)

/-- Logical cores placed on a physical core, of one part. -/
def lcoresAt (s : State) (part c : Nat) : List Nat :=
  (s.lcores.filter fun e => e.1 / 2048 == part && e.2.pcore == some c).map (·.1)

end Sys2Proof.Machine
end

