-- ==== Sys2Proof/Machine/Launch.lean ====
section
/-! DEFINITION. Launches: packets, headers and region tables (R78, R79, R299, R300), the checks and the issue of a launch
(R301), grid summaries (R276), the naming of grids (R302), `LAUNCH`, `LAUNCHP`, `CANCEL`, `GRIDQ`, and the event instructions
`EVPOP`, `EVPUSH` and `TASKREL` (R296 to R298). -/

namespace Sys2Proof.Machine

/-! ### Kernel headers (R78, R79) -/

/-- The fields of a kernel header that launches use. -/
def khdrOf (addr : Nat) (b : List Byte) : Khdr :=
  let modes := bNat b 0x06 2
  { addr := addr, redun := modes % 4, det := decide (modes / 4 % 2 = 1), isSealed := decide (modes / 8 % 2 = 1),
    cls := modes / 16 % 2, v := bNat b 0x08 2, s := bNat b 0x0A 1, t := bNat b 0x0B 1, scratch := bNat b 0x0C 4,
    scrbanks := bNat b 0x10 1, opbanks := bNat b 0x11 1, accbanks := bNat b 0x12 1, cohort := bNat b 0x13 1,
    stopwin := bNat b 0x14 2, entry := bNat b 0x18 8, seqentry := bNat b 0x20 8, constaddr := bNat b 0x28 8,
    fpctl0 := BitVec.ofNat 32 (bNat b 0x30 4) }

/-- Reserved bits of `FPCTL` (R45). -/
def fpctlReserved (v : Nat) : Bool := decide (v / 4096 ≠ 0) || decide (v / 16 % 8 ≠ 0)

/-- Each field within its range (R79 check 4). -/
def khdrInRange (b : List Byte) : Bool :=
  let k := khdrOf 0 b
  decide (k.v % 32 = 0) && decide (32 ≤ k.v) && decide (k.v ≤ 512) && [16, 32, 48, 64].contains k.s && [0, 2, 4, 8].contains k.t &&
  decide (k.scratch % 4 = 0) && decide (k.scrbanks ≤ 64) && decide (k.opbanks ≤ 64) && decide (k.accbanks ≤ 32) &&
  decide (k.cohort ≤ 8) && decide (k.stopwin ≤ 1024) && decide (32 + 4 * k.t ≤ k.v) && decide (k.scrbanks + k.opbanks ≤ 64) &&
  decide (k.scratch ≤ k.scrbanks * 4096) && decide (k.entry % 64 = 0) && decide (k.seqentry % 64 = 0) &&
  decide (k.constaddr % 65536 = 0)

/-- The header checks in their order. -/
def khdrCause (b : List Byte) : Option Cause :=
  if bNat b 0 4 ≠ 0x4B445059 ∨ bNat b 4 2 = 0 then some .illegalEncoding
  else if Config.revision < bNat b 4 2 then some .launchRevision
  else if bNat b 6 2 / 32 ≠ 0 ∨ bNat b 6 2 % 4 = 3 ∨ bNat b 0x16 2 ≠ 0 ∨ bNat b 0x34 12 ≠ 0 ∨ fpctlReserved (bNat b 0x30 4) then
    some .reservedField
  else if !khdrInRange b then some .illegalEncoding
  else none

/-! ### Packets and region entries (R299, R300) -/

/-- A launch as it was read: packet address, packet, header, region entries. -/
structure Packet where
  addr : Nat := 0
  b : List Byte := []
  h : List Byte := []
  rs : List (List Byte) := []
deriving DecidableEq, Repr

def Packet.k (p : Packet) : Khdr := khdrOf (bNat p.b 0 8) p.h
def Packet.total (p : Packet) : Nat := bNat p.b 0x08 4 * bNat p.b 0x0C 4 * bNat p.b 0x10 4
def Packet.threads (p : Packet) : Nat := bNat p.b 0x14 2 * bNat p.b 0x16 2 * bNat p.b 0x18 2
def Packet.warps (p : Packet) : Nat := (p.threads + 63) / 64
def Packet.tctl (p : Packet) : Nat := bNat p.b 0x1D 1
def Packet.flags (p : Packet) : Nat := bNat p.b 0x1E 2
def Packet.nreg (p : Packet) : Nat := bNat p.b 0x4D 1
/-- Workgroups of a cohort, 0 without cohorts: the packet's, or the header's. -/
def Packet.cohort (p : Packet) : Nat := if bNat p.b 0x1C 1 = 0 then p.k.cohort else bNat p.b 0x1C 1

/-- How a launch's bytes are read: a failing access, and the bytes. -/
structure Reader where
  fail : Nat → Nat → Option Fail
  bytes : Nat → Nat → List Byte

/-- The loads of a member under R101. -/
def memberReader (s : State) (m : Member) : Reader :=
  { fail := fun va n => accessFail s m va n .load, bytes := fun va n => readGlobal s m va n }

/-- The reads of a queue sequencer, under its context's translation and its queue's identity (R254, R299). -/
def queueReader (s : State) (part ident : Nat) : Reader :=
  { fail := fun va n =>
      if isAperture va then some { order := 23, cause := .access, addr := va }
      else match translate s part va .load with
        | .error c => some { order := 25, cause := c, addr := va }
        | .ok e =>
          if tagAllows s part ident e.tag && poisoned s (physOf e va) n then some { order := 27, cause := .memPoison, addr := va }
          else none
    bytes := fun va n =>
      match translate s part va .load with
      | .error _ => List.replicate n 0
      | .ok e =>
        if tagAllows s part ident e.tag then
          (List.range n).map fun k => if isOnChip (gpLocal (physOf e va)) then chipByte s (physOf e va + k) else homeByte s (physOf e va + k) e.key
        else List.replicate n 0 }

/-- One aligned read of a launch. -/
def readPart (r : Reader) (va n align : Nat) : Except Fail (List Byte) :=
  if va % align ≠ 0 then .error { order := 21, cause := .misaligned, addr := va }
  else match r.fail va n with
    | some f => .error f
    | none => .ok (r.bytes va n)

/-- Region entries read one after another. -/
def readRegions (r : Reader) (va : Nat) : Nat → Except Fail (List (List Byte))
  | 0 => .ok []
  | n + 1 =>
    match readPart r va 32 32 with
    | .error f => .error f
    | .ok b =>
      match readRegions r ((va + 32) % 2 ^ 64) n with
      | .error f => .error f
      | .ok l => .ok (b :: l)

/-- Entries of a region table that are read: none where REGIONS is not aligned, which check 5 refuses (R299, R301; DEDUCED, log 35). -/
def regionsRead (b : List Byte) : Nat := if bNat b 0x40 8 % 32 = 0 then min (bNat b 0x4D 1) 8 else 0

/-- The packet, its header and its region table (R301 checks 1 and 2). The header is read as one 64-byte load: a KHDR that is not a multiple
of 64 is MISALIGNED under check 2, for no other check of R301 names it (DESIGN CHOICE, log 38). -/
def readPacket (r : Reader) (addr : Nat) : Except Fail Packet :=
  match readPart r addr 128 128 with
  | .error f => .error f
  | .ok b =>
    match readPart r (bNat b 0 8) 64 64 with
    | .error f => .error f
    | .ok h =>
      match readRegions r (bNat b 0x40 8) (regionsRead b) with
      | .error f => .error f
      | .ok rs => .ok { addr := addr, b := b, h := h, rs := rs }

/-- A region entry as the grid keeps it: VA, BSTRIDE, SIZE, SOFF, DIR. -/
def regionEntry (b : List Byte) : Nat × Nat × Nat × Nat × Nat := (bNat b 0 8, bNat b 8 8, bNat b 0x10 4, bNat b 0x14 4, bNat b 0x18 1)

/-- A region entry outside its ranges. -/
def regionBad (k : Khdr) (b : List Byte) : Bool :=
  let e := regionEntry b
  decide (e.2.2.1 % 4 ≠ 0) || decide (e.2.2.2.1 % 4 ≠ 0) || decide (k.scratch < e.2.2.2.1 + e.2.2.1) ||
  decide (e.2.2.2.2 < 1) || decide (3 < e.2.2.2.2)

/-! ### The checks of a launch (R301) -/

/-- Check 4. -/
def packetReserved (p : Packet) : Bool :=
  decide (p.tctl / 128 ≠ 0) || decide (p.flags / 16 ≠ 0) || (bNat p.b 0x1B 1 == 1 && decide (bNat p.b 0x2C 4 ≠ 0)) ||
  decide (bNat p.b 0x3C 4 ≠ 0) || decide (bNat p.b 0x4E 2 ≠ 0) || decide (bNat p.b 0x64 28 ≠ 0) ||
  p.rs.any fun b => decide (bNat b 0x19 7 ≠ 0)

/-- A logical place of the context that exists. -/
def placeExists (s : State) (ctx place : Nat) : Bool :=
  decide (place / 2048 % 8192 < (ctxOf s ctx).npkg) && decide (place % 2048 < (partOf s (partKey ctx (place / 2048 % 8192))).ncores)

/-- Check 5. -/
def packetBad (s : State) (ctx : Nat) (p : Packet) (pod : Bool) : Bool :=
  decide (bNat p.b 0x08 4 = 0) || decide (bNat p.b 0x0C 4 = 0) || decide (bNat p.b 0x10 4 = 0) || decide (2 ^ 48 < p.total) ||
  decide (p.threads < 1) || decide (1024 < p.threads) || decide (2 < bNat p.b 0x1A 1) || decide (2 < bNat p.b 0x1B 1) ||
  (bNat p.b 0x1B 1 == 1 && decide (bNat p.b 0x28 4 = 0)) || decide (8 < bNat p.b 0x1C 1) ||
  decide (p.tctl / 16 % 8 < (if pod then 5 else 4)) || decide (6 < p.tctl / 16 % 8) ||
  (decide (p.flags / 4 % 2 = 1) && decide (p.k.seqentry = 0)) || decide (8 < p.nreg) ||
  (if p.nreg = 0 then decide (bNat p.b 0x40 8 ≠ 0) else decide (bNat p.b 0x40 8 % 32 ≠ 0)) ||
  decide (2 < bNat p.b 0x4C 1) || decide (bNat p.b 0x58 8 % 64 ≠ 0) ||
  (decide (p.flags / 8 % 2 = 1) && (decide (bNat p.b 0x60 4 / 2 ^ 24 ≠ 0) || !placeExists s ctx (bNat p.b 0x60 4))) ||
  p.rs.any fun b => regionBad p.k b

/-- Check 8: the workgroup fits an empty core, its cohort an empty hall, and its replicas have halls of their own (R21, R368). -/
def packetFits (s : State) (ctx : Nat) (p : Packet) : Bool :=
  let seq := decide (p.k.seqentry ≠ 0)
  (fitBoth {} p.k p.warps seq).isSome && decide (p.cohort ≤ 8 * fitCountSeq p.k p.warps seq {}) &&
  (p.k.redun = 0 || decide (p.k.redun + 1 ≤ (hallsOf ((partsOfCtx s ctx).flatMap fun k => coresOf s k)).length))

/-- The refusal cause of a launch, none when it is accepted. -/
def launchCause (s : State) (ctx : Nat) (p : Packet) (pod priv : Bool) : Option Cause :=
  if packetReserved p then some .reservedField
  else if packetBad s ctx p pod then some .illegalEncoding
  else match khdrCause p.h with
    | some c => some c
    | none =>
      if bNat p.b 0x4C 1 ≠ 0 ∧ !priv then some .privilege
      else if packetFits s ctx p then none
      else some .shape

/-! ### Grids -/

/-- The grid of a launch. -/
def gridOfPacket (s : State) (ctx part : Nat) (p : Packet) (pod : Bool) (ident : Word) : Grid :=
  { ctx := ctx, part := part, num := nextNumber s ctx (p.tctl % 16), ctr := p.tctl % 16, scope := p.tctl / 16 % 8, k := p.k,
    gx := bNat p.b 0x08 4, gy := bNat p.b 0x0C 4, gz := bNat p.b 0x10 4, wx := bNat p.b 0x14 2, wy := bNat p.b 0x16 2,
    wz := bNat p.b 0x18 2,
    latency := (ctxOf s ctx).prio && (bNat p.b 0x1A 1 == 2 || (bNat p.b 0x1A 1 == 0 && p.k.cls == 1)),
    affn := bNat p.b 0x1B 1, afbase := bNat p.b 0x28 8,
    afs := [bInt p.b 0x30 4, bInt p.b 0x34 4, bInt p.b 0x38 4], cohort := p.cohort, pod := pod,
    held := decide (p.flags / 4 % 2 = 1), evt := decide (p.flags / 8 % 2 = 1), evcore := bNat p.b 0x60 4, args := bNat p.b 0x20 8,
    regions := bNat p.b 0x40 8, nreg := min p.nreg 8, idsrc := bNat p.b 0x4C 1, idval := BitVec.ofNat 32 (bNat p.b 0x48 4),
    idtab := bNat p.b 0x50 8, ident := ident, summary := bNat p.b 0x58 8, order := s.nextId, after := s.nextId, issued := s.clk,
    regs := p.rs.map regionEntry, ordered := decide (p.flags % 2 = 1) }

/-- Landings of a grid: 0 is the root, then packages, dies and halls by their number over the pod. -/
def pkgLanding (pkg : Nat) : Nat := 1000000 + pkg
def dieLanding (die : Nat) : Nat := 2000000 + die
def hallLanding (hall : Nat) : Nat := 3000000 + hall

/-- The landing that deals first: the Newel of a pod-wide grid, the package landing of another (R272). -/
def rootLanding (s : State) (g : Grid) : Nat := if g.pod then 0 else pkgLanding (partOf s g.part).pkg

/-- Blocks of one dealing unit: a cohort, or one block (R21, R260). -/
def gridUnit (g : Grid) : Nat := max g.cohort 1
def gridUnits (g : Grid) : Nat := (gridTotal g + gridUnit g - 1) / gridUnit g

/-! ### Summaries (R276) -/

/-- STATE of a summary. -/
def summaryState (g : Grid) : Nat :=
  (if g.complete then 1 else 0) + (if g.cut then 2 else 0) + (if g.lost then 4 else 0) + (if g.refused ≠ 0 then 8 else 0)

/-- The 384 bytes of a summary. -/
def summaryBytes (g : Grid) : List Byte :=
  leBytes 4 (summaryState g) ++ leBytes 4 g.flags.toNat ++ leBytes 8 (gridTotal g) ++ leBytes 8 g.started.length ++
  leBytes 8 g.retired ++ leBytes 8 g.discarded ++ leBytes 8 g.orphans ++ leBytes 16 0 ++
  (match g.first with
   | some r => faultBytes r
   | none => leBytes 64 0) ++
  (List.range 64).flatMap fun k => leBytes 4 (bmGet g.counts k).toNat

/-- The record of a landing about a grid (R276, R301). -/
def landingRecord (s : State) (gid : Nat) (c : Cause) (addr : Nat) : FaultRec :=
  let g := gridOf s gid
  { cause := causeCode c, src := 3, place := lkPlace g.ilk, addr := addr, info := g.num }

/-- The parts of a summary written in order, until one fails (R276). -/
def putSummaryParts (s : State) (gid : Nat) (va : Nat) : List (List Byte) → State
  | [] => s
  | b :: t =>
    let g := gridOf s gid
    match (if isAperture va then Except.error Cause.access else translate s g.part va .store) with
    | .error c => appendFault s g.part (landingRecord s gid c g.summary)
    | .ok e =>
      if !tagAllows s g.part g.ident.toNat e.tag then appendFault s g.part (landingRecord s gid .tagDenied g.summary)
      else putSummaryParts (putPlace (fillClr (fillTlb s g.part e) g.part g.ident.toNat e.tag) (physOf e va) e.key b) gid
        ((va + 64) % 2 ^ 64) t

/-- A list of bytes cut into parts of 64. -/
def parts64 : Nat → List Byte → List (List Byte)
  | 0, _ => []
  | n + 1, l => l.take 64 :: parts64 n (l.drop 64)

/-- The summary of a grid written at its packet's summary address. -/
def putSummary (s : State) (gid : Nat) : State :=
  let g := gridOf s gid
  if g.summary = 0 then s else putSummaryParts s gid g.summary (parts64 6 (summaryBytes g))

/-- A completed grid: its summary is written, its counter advances, and a record is pushed if its packet asks (R275). -/
def finishGrid (s : State) (gid : Nat) : State :=
  let s1 := putSummary (updGrid s gid fun g => { g with complete := true, mem0 := [], ranges := [] }) gid
  let g := gridOf s1 gid
  let s2 := completeNumber s1 g.ctx g.ctr g.num
  let lk := placeLk g.ctx g.evcore
  if g.evt && placeExists s2 g.ctx g.evcore then
    pushEvent s2 lk { kind := 3, cause := g.refused, ctr := g.ctr, source := lkPlace g.ilk, value := g.num, src := gid }
  else s2

/-- The number of launches on a grid's counter that came later and are complete (R302). -/
def laterDone (s : State) (g : Grid) : Nat :=
  (s.grids.filter fun e => e.2.ctx == g.ctx && e.2.ctr == g.ctr && decide (g.num < e.2.num) && e.2.complete).length

/-- Grids that are no longer retained leave the machine. -/
def pruneGrids (s : State) : State :=
  { s with grids := s.grids.filter fun e => !(e.2.complete && decide (256 ≤ laterDone s e.2)) }

/-- The retained grid of a context that a counter and a number name. -/
def gridNamed? (s : State) (ctx ctr num : Nat) : Option Nat :=
  (s.grids.find? fun e => e.2.ctx == ctx && e.2.ctr == ctr && e.2.num == num && decide (laterDone s e.2 < 256)).map (·.1)

/-! ### Issue (R301) -/

/-- A launch whose checks 1 to 3 passed: it takes its number; an accepted grid waits at its root landing, a refused one is
complete at once. Answers its number and STATUS. -/
def issueLaunch (s : State) (p : Packet) (g : Grid) (cause : Option Cause) : State × Nat × Nat :=
  let gid := s.nextId
  let s1 := tookId (takeNumber s g.ctx g.ctr)
  match cause with
  | none =>
    let root := rootLanding s g
    ({ s1 with grids := s1.grids ++ [(gid, { g with ranges := if g.k.det then [] else [(root, [(0, gridUnits g)])] })] }, g.num, 0)
  | some c =>
    let s2 : State := { s1 with grids := s1.grids ++ [(gid, { g with refused := causeCode c })] }
    let s3 := appendFault s2 g.part { landingRecord s2 gid c p.addr with grid := gid }
    (pruneGrids (finishGrid s3 gid), g.num, causeCode c)

/-- D to D + 3 of a launch. -/
def launchVal (num status : Nat) : Val := BitVec.ofNat 128 (num + status * 2 ^ 64)

/-- Checks 1 to 3 of a launch by a warp. -/
def launchFail (s : State) (m : Member) (x : Src) : Option Fail :=
  let addr := (lo64 x.a).toNat
  if addr % 128 ≠ 0 then some { order := 21, cause := .misaligned, addr := addr }
  else if isDet s m.warp then some { order := 22, cause := .access }
  else if takesForward s m then none
  else match readPacket (memberReader s m) addr with
    | .error f => some f
    | .ok p => if counterHas s (warpOf s m.warp).ctx (p.tctl % 16) 1 then none else some { order := 40, cause := .access }

/-- The traces of the loads of a launch, and their copies. -/
def launchTrace (s : State) (m : Member) (p : Packet) : State :=
  let one (t : State) (va n : Nat) : State := keepLoad s (accessTrace t m va .load 0) m va n
  let s1 := one (one s p.addr 128) (bNat p.b 0 8) 64
  (List.range p.rs.length).foldl (fun t k => one t ((bNat p.b 0x40 8 + 32 * k) % 2 ^ 64) 32) s1

/-- The words of n bytes at an address that a member reads as a block. -/
def wordsAt (va n : Nat) : List Nat := (List.range (n / 8)).map fun k => (va + 8 * k) % 2 ^ 64

/-- The packet, its header and its regions are awaited as plain loads are: behind the thread's own atomics of their bytes, for a package that
no port reaches, and for a locked line (R210, R227, R284, R398). -/
def launchWait (s : State) (m : Member) (x : Src) : Option Wait :=
  let addr := (lo64 x.a).toNat
  match laterWait s m x with
  | some w => some w
  | none =>
    if takesForward s m then none
    else match readPart (memberReader s m) addr 128 128 with
      | .error _ => none
      | .ok _ =>
        match blockWait s m (wordsAt addr 128) with
        | some w => some w
        | none =>
          match readPacket (memberReader s m) addr with
          | .error _ => none
          | .ok p => blockWait s m (wordsAt (bNat p.b 0 8) 64 ++ wordsAt (bNat p.b 0x40 8) (32 * p.rs.length))

/-- A launch instruction (R301). -/
def launchOp (i : Instr) (pod : Bool) (s : State) : Out :=
  onceOp i .both (fun _ _ x => [{ addr := (lo64 x.a).toNat / 8 * 8, kind := 5, op := if pod then 0x21 else 0x20 }]) launchWait launchFail
    (fun s _ act m x =>
      if takesForward s m then (takeFwd (spreadD s i act ((fwdVal? s m).getD 0)) m, [])
      else match readPacket (memberReader s m) (lo64 x.a).toNat with
        | .error _ => (s, [])
        | .ok p =>
          let w := warpOf s m.warp
          let lk := (wgOfWarp s m.warp).lcore
          let s1 := launchTrace s m p
          let g : Grid := { gridOfPacket s1 w.ctx (lkPart lk) p pod w.ident with
            warp := m.warp, lane := m.lane, ilk := lk, icore := coreOfL s1 lk, issuer := m.warp }
          let (s2, num, status) := issueLaunch s1 p g (launchCause s1 w.ctx p pod (ctxOf s1 w.ctx).priv)
          (forward (spreadD s2 i act (launchVal num status)) m (launchVal num status), [])) s

def execLaunch (p : BitVec 3) (d a : BitVec 7) (s : State) : Out := launchOp (.launch p d a) false s
def execLaunchp (p : BitVec 3) (d a : BitVec 7) (s : State) : Out := launchOp (.launchp p d a) true s

/-! ### `CANCEL` and `GRIDQ` (R302 to R304) -/

/-- The grid that an operand names, and its MODE bit. -/
def namedGrid? (s : State) (m : Member) (x : Src) : Option Nat :=
  gridNamed? s (warpOf s m.warp).ctx (x.a.extractLsb' 64 4).toNat (lo64 x.a).toNat
def cancelMode (x : Src) : Bool := x.a.getLsbD 68

/-- Landings of a grid, from its root down to the halls of the context's cores: those of every package for a deterministic grid,
whose blocks go to all of them (R268). -/
def landingsOf (s : State) (g : Grid) : List Nat :=
  let cores := (if g.pod || g.k.det then partsOfCtx s g.ctx else [g.part]).flatMap fun k => coresOf s k
  sortNat (rootLanding s g :: (cores.flatMap fun c => [pkgLanding (pcPkg c), dieLanding (pcDie c), hallLanding (pcHall c)]))

/-- A cancel is issued: every landing is to be reached; a later cancel may raise the mode (R278). -/
def startCancel (s : State) (gid : Nat) (discard : Bool) : State :=
  updGrid s gid fun g =>
    if g.complete then g
    else if g.cancelled then (if discard && !g.discard then { g with discard := true, cancelTo := landingsOf s g } else g)
    else { g with cancelled := true, discard := discard, cancelTo := landingsOf s g }

/-- What a cancel of a grid answers: STARTED, or TOTAL where the grid was complete before any cancel of it (R277, R278). -/
def cancelCount (g : Grid) : Nat := if g.complete && !g.cancelled then gridTotal g else g.started.length

/-- `CANCEL`: the group waits until every landing has acknowledged it, and D receives STARTED. -/
def execCancel (p : BitVec 3) (d a : BitVec 7) (s : State) : Out :=
  let i : Instr := .cancel p d a
  let answer (s : State) (m : Member) (x : Src) : Val :=
    match namedGrid? s m x with
    | some g => BitVec.ofNat 128 (cancelCount (gridOf s g))
    | none => 0xFFFFFFFFFFFFFFFF#128
  onceOp i .both (fun _ _ _ => [{ addr := 0, kind := 5, op := 0x22 }]) laterWait
    (fun s m _ => if isDet s m.warp then some { order := 22, cause := .access } else none)
    (fun s g act m x =>
      if takesForward s m then (takeFwd (spreadD s i act ((fwdVal? s m).getD 0)) m, [])
      else match namedGrid? s m x with
        | none => (forward (spreadD s i act (answer s m x)) m (answer s m x), [])
        | some gid =>
          let s1 := match (thrOf s m).wait with
            | .cancel _ => s
            | _ => startCancel s gid (cancelMode x)
          if (gridOf s1 gid).cancelTo.isEmpty then
            (forward (spreadD (clearWaits s1 act) i act (answer s1 m x)) m (answer s1 m x), [])
          else (deferOnce s1 g act (.cancel gid), [])) s

/-- The summary that `GRIDQ` reads: zeros where no grid is named. -/
def gridSnapshot (s : State) (m : Member) (x : Src) : List Byte :=
  match namedGrid? s m x with
  | some g => summaryBytes (gridOf s g)
  | none => leBytes 384 0

/-- The snapshot as a replica stores it: its own reading, or the leader's, which reaches it in 24 parts of 16 bytes (R369). -/
def takeSnapshot (s : State) (m : Member) (x : Src) : List Byte × State :=
  let part (k : Nat) (b : List Byte) : Val := BitVec.ofNat 128 (leNat ((b.drop (16 * k)).take 16))
  if takesForward s m then
    (List.range 24).foldl (fun e _ => (e.1 ++ leBytes 16 ((fwdVal? e.2 m).getD 0).toNat, takeFwd e.2 m)) ([], s)
  else
    let b := gridSnapshot s m x
    (b, (List.range 24).foldl (fun s k => forward s m (part k b)) s)

/-- `GRIDQ`: the summary as it stands, through plain stores of the deciding member. -/
def execGridq (p : BitVec 3) (d a : BitVec 7) (s : State) : Out :=
  let addr (x : Src) : Nat := (lo64 x.d).toNat
  onceOp (.gridq p d a) (.hold 48) noEntries
    (fun s m x => if takesForward s m && (fwdVal? s m).isNone then some (.fwd [m.lane]) else laterWait s m x)
    (fun s m x =>
      if addr x % 64 ≠ 0 then some { order := 21, cause := .misaligned, addr := addr x }
      else match (List.range 6).findSome? fun k => accessFail s m ((addr x + 64 * k) % 2 ^ 64) 64 .store with
        | some f => some f
        | none => logFail s m (addr x) 0 ((List.range 48).map fun k => logUnits s m ((addr x + 8 * k) % 2 ^ 64) 8).sum)
    (fun s _ _ m x =>
      let (b, s1) := takeSnapshot s m x
      ((List.range 48).foldl (fun s' k =>
        let va := (addr x + 8 * k) % 2 ^ 64
        storeGlobal (accessTrace s' m va .store 0) m va ((b.drop (8 * k)).take 8)) s1, [])) s

/-! ### Event instructions (R295 to R298) -/

/-- An event record as a quad (R295). -/
def eventVal (r : EvRec) : Val := BitVec.ofNat 128 (leNat (eventBytes r))

/-- `EVPOP`: the oldest record of the issuer's core, acquired at the scope at which its push was released (R214). -/
def execEvpop (p : BitVec 3) (d a : BitVec 7) (s : State) : Out :=
  let i : Instr := .evpop p d a
  onceOp i .fwd noEntries
    (fun s m _ =>
      if takesForward s m || a.getLsbD 0 then none
      else if (lcoreOf s (wgOfWarp s m.warp).lcore).ev.isEmpty then some .evpop
      else none)
    noFail
    (fun s _ act m _ =>
      let s0 := clearWaits s act
      if takesForward s m then (takeFwd (spreadD s0 i act ((fwdVal? s m).getD 0)) m, [])
      else
        let lk := (wgOfWarp s m.warp).lcore
        match (lcoreOf s lk).ev with
        | [] => (forward (spreadD s0 i act 0) m 0, [])
        | r :: _ =>
          (forward (spreadD (dropBelow (popEvent s0 lk) (coreOfWarp s m.warp) r.acq) i act (eventVal r)) m (eventVal r), [])) s

/-- The logical core that `EVPUSH` names. -/
def pushTarget (s : State) (m : Member) (x : Src) : Nat := placeLk (warpOf s m.warp).ctx ((lo32 x.a).toNat % 2 ^ 24)

/-- `EVPUSH`: a KIND 2 record for another core, pushed as a release at the smallest scope that contains both (R214, R297). -/
def execEvpush (p : BitVec 3) (d a : BitVec 7) (s : State) : Out :=
  onceOp (.evpush p d a) .cmp
    (fun _ _ x => [{ addr := (lo32 x.a).toNat, data := (lo64 x.d).toNat, kind := 6, op := 0x11 }])
    (fun s m x =>
      if takesForward s m then none
      else
        let lk := pushTarget s m x
        match releaseWait s m (levelOf (smallestScope (coreOfWarp s m.warp) (coreOfL s lk))) with
        | some w => some w
        | none =>
          if placeExists s (warpOf s m.warp).ctx ((lo32 x.a).toNat % 2 ^ 24) &&
              (decide (256 ≤ eventCount s lk) || !(lcoreOf s lk).evHeld.isEmpty) then some (.evpush lk)
          else none)
    (fun s m x => if placeExists s (warpOf s m.warp).ctx ((lo32 x.a).toNat % 2 ^ 24) then none else some { order := 21, cause := .access })
    (fun s _ act m x =>
      let s0 := clearWaits s act
      if takesForward s m then (s0, [])
      else
        (pushEvent s0 (pushTarget s m x)
          { kind := 2, cause := (lo32 x.a).toNat / 2 ^ 24, source := lkPlace (wgOfWarp s m.warp).lcore, value := (lo64 x.d).toNat,
            src := m.warp * 64 + m.lane, acq := smallestScope (coreOfWarp s m.warp) (coreOfL s (pushTarget s m x)) }, [])) s

/-- Held workgroups of a launch on a logical core, in ascending block. -/
def heldOn (s : State) (grid lk : Nat) : List Nat :=
  let l := (leadersOn s lk).filter fun e => e.2.grid == grid && e.2.held && !e.2.seqi
  (sortNat (l.map fun e => e.2.block)).filterMap fun b => (l.find? fun e => e.2.block == b).map (·.1)

/-- `TASKREL`: a release at wg that lets held workgroups start (R298). -/
def execTaskrel (p : BitVec 3) (d a : BitVec 7) (s : State) : Out :=
  let i : Instr := .taskrel p d a
  onceOp i .both (fun _ _ _ => [{ addr := 0, kind := 5, op := 0x12 }])
    (fun s m _ => if takesForward s m then none else releaseWait s m 1) noFail
    (fun s _ act m x =>
      let s0 := clearWaits s act
      if takesForward s m then (takeFwd (spreadD s0 i act ((fwdVal? s m).getD 0)) m, [])
      else
        let w := wgOfWarp s m.warp
        let l := (heldOn s w.grid w.lcore).take ((lo32 x.a).toNat % 65536)
        let s1 := l.foldl (fun s g => (wgMates s g).foldl (fun s x => updWg s x fun y => { y with held := false }) s) s0
        (forward (spreadD s1 i act (BitVec.ofNat 128 l.length)) m (BitVec.ofNat 128 l.length), [])) s

end Sys2Proof.Machine
end

