-- ==== Sys2Proof/Machine/Stops.lean ====
section
/-! DEFINITION. Run-ahead and its end (R320, R321), and stops: the request, the stop window, and when a warp counts as stopped
(R343, R344, R376). -/

namespace Sys2Proof.Machine

/-! ### Run-ahead (R320) -/

/-- The moment by which run-ahead ends: 2,048 a-cycles after its start. -/
def aheadLimit (a : Ahead) : Nat := a.start + 3 * 2048

/-- Run-ahead has ended: the batch holds 32 pages beyond the first, its time has passed, or it met what ends it. -/
def aheadEnded (s : State) (a : Ahead) : Bool := decide (33 ≤ a.pages.length) || decide (aheadLimit a ≤ s.clk) || a.finished

/-- Run-ahead ends: the warp stands at the faulting instruction with its registers as they were, and one PAGE_FAULT record is appended
with the batch; that of a leader is delivered for the logical warp, after the comparison of its replicas (R321, R371). -/
def endAhead (s : State) (w : Nat) : State :=
  match (warpOf s w).ahead with
  | none => s
  | some a =>
    let rest := sortNat (a.pages.drop 1)
    let s1 := updWarp s w fun x => { x with ahead := none }
    let r := trapRecord s1 { warp := w, cause := .pageFault, lane := a.lane } a.pc a.pos
    let r1 := { r with addr := a.pages.headD 0, info := pageInfo (rest.length + 1) a.write, pages := rest }
    if isRedun s w then updWarp s1 w fun x => { x with atCmp := true, pendTrap := some r1 } else trapWarp s1 w r1

/-- `RUN_AHEAD_END`: a is the warp. -/
def execRunAheadEnd (s : State) : Out :=
  match (warpOf s s.arg.a).ahead with
  | some a => if aheadEnded s a then .next (endAhead s s.arg.a) else .refused .notDue
  | none => .refused .notDue

/-! ### The request (R343) -/

/-- A thread under a stop stands at its restart point; one of a discarded workgroup ends there (R277). -/
def stopThread (s : State) (m : Member) : State :=
  if (wgOfWarp s m.warp).discard then endThread s m else updThr s m fun t => { t with stopped := true }

/-- The lanes of a warp that meet a condition. -/
def lanesWhere (s : State) (w : Nat) (p : Thread → Bool) : List Member :=
  ((warpOf s w).lanes.filter fun e => p e.2).map fun e => ⟨e.1, w⟩

/-- A stop is requested of one warp: threads that stand in a wait stop at once, run-ahead ends, a warp that has stopped for its trap
stands already. -/
def requestStop (s : State) (w : Nat) : State :=
  let s1 := endAhead s w
  let s2 := if (warpOf s1 w).stopAt.isSome then s1 else updWarp s1 w fun x => { x with stopAt := some s.clk }
  let still := (warpOf s2 w).trapped && (warpOf s2 w).trapAt.isNone
  (lanesWhere s2 w fun t => still || decide (t.wait ≠ .none)).foldl stopThread (if still then pullFromGroups s2 w else s2)

/-- The moment of the first request under which a warp's threads stop: a stop's, or its own trap's (R343). -/
def stopClock (x : Warp) : Option Nat :=
  match x.stopAt, x.trapAt with
  | some t, some u => some (min t u)
  | some t, none => some t
  | none, u => u

/-- A stop is requested of several warps. -/
def requestStops (s : State) (ws : List Nat) : State := ws.foldl requestStop s

/-- Every thread of a warp stands at a restart point. -/
def warpStill (s : State) (w : Nat) : Bool := (warpOf s w).lanes.all fun e => e.2.stopped

/-- The places at which a warp's threads stand, those in a group in flight at its present instruction. -/
def standing (s : State) (w : Nat) : List (Nat × Pair × Nat) :=
  (warpOf s w).lanes.map fun e =>
    match s.groups.find? fun g => g.2.mem.contains ⟨e.1, w⟩ with
    | some g => (e.1, g.2.pc, g.2.pos + 1)
    | none => (e.1, e.2.pc, e.2.pos)

/-- The replicas of a warp stand at one common restart point (R376). -/
def replicasMeet (s : State) (w : Nat) : Bool := (replicaWarps s w).all fun v => standing s v == standing s w

/-- `STOP_WINDOW_EXPIRY`: a is the warp: the window of its kernel has passed since the request, and its threads stop where they
stand; replicas stop together at one place. -/
def windowDue (s : State) (w : Nat) : Bool :=
  let x := warpOf s w
  match stopClock x with
  | some t => !x.stopNow && decide (t + 3 * min (khdrOfWarp s w).stopwin 768 ≤ s.clk) && !x.halted &&
      (replicaWarps s w).all (fun v => (stopClock (warpOf s v)).isSome) && replicasMeet s w
  | none => false

/-- The window of a warp has passed: every thread stops where it stands. -/
def stopWarpNow (s : State) (w : Nat) : State :=
  let s1 := updWarp (pullFromGroups s w) w fun x => { x with stopNow := x.stopAt.isSome, trapAt := none }
  (lanesWhere s1 w fun _ => true).foldl stopThread s1

def execStopWindowExpiry (s : State) : Out :=
  if windowDue s s.arg.a then .next ((replicaWarps s s.arg.a).foldl stopWarpNow s) else .refused .notDue

/-! ### Stopped warps (R344) -/

/-- A matrix or tile operation of a stopping warp still has to end first: a `TLD` or `TST` that is not stalled. -/
def tileBusy (o : MatOp) : Bool := decide (o.kind ≠ 0) && o.stall.isNone

/-- The issued operations of a warp are dealt with: no command completes on its flags but pending returns and engine
operations, its full/empty takes have written D, its tile operations have ended or are stalled, its `TUNBIND`s are complete, its stores
are at their homes, and its operations that return nothing are performed or held (R293, R344). -/
def opsSettled (s : State) (w : Nat) : Bool :=
  (s.loads.all fun e => e.2.warp != w || (e.2.load && e.2.acq.isEmpty) || !e.2.waits.isEmpty) &&
  (s.atoms.all fun e => e.2.warp != w || e.2.ret.isSome || e.2.posted.isSome) &&
  (s.mats.all fun e => e.2.warp != w || !tileBusy e.2) &&
  (s.ops.all fun e => !(e.2.warp == w && e.2.cmd == 5)) &&
  (s.writes.all fun e => e.2.warp != w)

/-- The replicas of a warp have been compared at the stop, and no store of it is held (R376). -/
def stopCompared (s : State) (w : Nat) : Bool := !isRedun s w || ((warpOf s w).cmpOk && (warpOf s w).hold.isEmpty)

/-- A warp that stands still in all its replicas waits for the comparison of its stop. -/
def stopCompareDue (s : State) (w : Nat) : Bool :=
  isRedun s w && !(warpOf s w).cmpOk && !(warpOf s w).atCmp && (replicaWarps s w).all fun v => warpStill s v

/-- `WARP_STOPPED`: a is the warp. Its stalled tile operations are abandoned, to be executed again whole (R184), and its matrix
operations keep their entries, to be resumed with their checks made again (R176). A warp of replicas is first brought to its
comparison. -/
def stoppedDue (s : State) (w : Nat) : Bool :=
  let x := warpOf s w
  (tblGet? s.warps w).isSome && x.stopAt.isSome && !x.halted && warpStill s w &&
  (stopCompareDue s w || (stopCompared s w && opsSettled s w))

/-- What awaits the answer of a stall of the warp awaits it no more: an `ERET` of the old record answers 1 (R408). -/
def dropStalls (s : State) (w : Nat) : State :=
  let mats := (s.mats.filter fun e => e.2.warp == w && e.2.stall.isSome).map (·.1)
  let ops := (s.ops.filter fun e => e.2.warp == w && e.2.stall.isSome).map (·.1)
  let s1 : State :=
    { s with mats := tblMap s.mats fun _ o => if o.warp = w then { o with again := true, stall := none, img := [] } else o,
             ops := tblMap s.ops fun _ o => if o.warp = w then { o with stall := none } else o }
  updPart s1 (partOfWarp s w) fun p =>
    { p with awaits := p.awaits.filter fun e =>
        match e.2 with
        | .matrix i => !mats.contains i
        | .engine i => !ops.contains i
        | _ => true }

def markStopped (s : State) (w : Nat) : State :=
  updWarp (dropStalls s w) w fun x => { x with halted := true, cmpOk := false }

def execWarpStopped (s : State) : Out :=
  if stoppedDue s s.arg.a then
    if stopCompareDue s s.arg.a then
      .next ((replicaWarps s s.arg.a).foldl (fun s v => updWarp s v fun x => { x with atCmp := true }) s)
    else .next (markStopped s s.arg.a)
  else .refused .notDue

/-- A warp leaves its stop: its threads go on from where they stand, unless it is trapped. -/
def resumeWarp (s : State) (w : Nat) : State :=
  updWarp s w fun x =>
    { x with stopAt := none, stopNow := false, halted := false,
             lanes := if x.trapped then x.lanes else tblMap x.lanes fun _ t => { t with stopped := false } }

/-- Warps of a part, and of a part on one die of its package (R279). -/
def warpsOfPart (s : State) (part : Nat) : List Nat := (s.warps.filter fun e => partOfWarp s e.1 == part).map (·.1)
def warpsOnDie (s : State) (part die : Nat) : List Nat := (warpsOfPart s part).filter fun w => pcDie (coreOfWarp s w) % 4 == die

/-- Every warp of some counts as stopped. -/
def allHalted (s : State) (ws : List Nat) : Bool := ws.all fun w => (warpOf s w).halted

end Sys2Proof.Machine
end

