-- ==== Sys2Proof/Machine/Dealer.lean ====
section
/-! DEFINITION. The Stair and the dispatcher: landings and dealing (R272 to R274), placement of workgroups, cohorts, replicas
and sequencer instances (R14, R21, R25, R257, R259 to R261, R268, R368), and their first state (R42, R260). -/

namespace Sys2Proof.Machine

/-! ### Cores that may take work -/



/-- Core number within its package, as reserved sets count (R402). -/
def coreInPkg (c : Nat) : Nat := c % 1280
def isReserved (s : State) (c : Nat) : Bool := (pkgAt s (pcPkg c)).reserved.contains (coreInPkg c)

/-- The part of a context to which a core is allotted. -/
def ownerFor (s : State) (ctx c : Nat) : Option Nat := (pcoreAt s c).owners.find? fun k => k / 8192 == ctx

/-- A core is being emptied of a part's work: vacated for latency-class work, or withdrawn (R258, R402). -/
def coreLeaves (s : State) (part c : Nat) : Bool := (pcoreAt s c).vacating || (pcoreAt s c).leaving.contains part

/-- The accesses that a launch's issue orders are performed at its scope (R211, R274). -/
def gridReleased (s : State) (g : Grid) : Bool :=
  g.queued || (releasedAt s g.icore g.warp g.lane 4 g.after)

/-- Earlier launches of the same issuer. -/
def earlierGrids (s : State) (g : Grid) : List (Nat × Grid) :=
  s.grids.filter fun e => e.2.ctx == g.ctx && e.2.issuer == g.issuer && e.2.queued == g.queued && decide (e.2.order < g.order)

/-- A grid may be dealt: its issue is complete, and under ORDERED every earlier launch of its issuer is complete (R299). -/
def gridFree (s : State) (g : Grid) : Bool :=
  !g.complete && gridReleased s g && (!g.ordered || (earlierGrids s g).all fun e => e.2.complete)

/-- A landing that a cancel has reached starts nothing more (R277). -/
def landingOpen (g : Grid) (l : Nat) : Bool := !g.cancelled || g.cancelTo.contains l

/-- Units in some ranges. -/
def unitsIn (l : List (Nat × Nat)) : Nat := (l.map fun e => e.2 - e.1).sum

def rangesAt (g : Grid) (l : Nat) : List (Nat × Nat) := tblGet g.ranges l

/-- A landing stands in a package, or above it. -/
def landingIn (l pkg : Nat) : Bool :=
  if l = 0 then true
  else if l < 2000000 then l - 1000000 == pkg
  else if l < 3000000 then (l - 2000000) / 4 == pkg
  else (l - 3000000) / 160 == pkg

/-- The blocks of a deterministic grid that a logical core starts, in order (R268): the next one. -/
def detNext? (s : State) (g : Grid) (lk : Nat) : Option Nat :=
  let n := (partOf s g.part).ncores
  let total := (ctxOf s g.ctx).npkg * n
  let i := (lkPart lk % 8192) * n + lk % 2048
  if lk % 2048 < n then
    ((List.range ((gridTotal g + total - 1) / total)).map fun j => i + j * total).find? fun b => decide (b < gridTotal g) && !g.started.contains b
  else none

/-- A deterministic grid has a block to start on a logical core: no cancel has reached its root. -/
def detWaits (s : State) (g : Grid) (lk : Nat) : Bool :=
  g.k.det && landingOpen g (rootLanding s g) && decide (lk / 2048 / 8192 = g.ctx) && (detNext? s g lk).isSome

/-- A latency-class block of a package waits for placement (R257): undealt at a landing of the package or above it, assigned to a
logical core of the package, or saved with a logical core that waits there. -/
def latencyWaits (s : State) (pkg : Nat) : Bool :=
  (s.grids.any fun e => e.2.latency && gridFree s e.2 &&
    ((partsOfCtx s e.2.ctx).any fun k => (partOf s k).pkg == pkg) &&
    ((e.2.ranges.any fun r => decide (unitsIn r.2 ≠ 0) && landingIn r.1 pkg) ||
     s.lcores.any fun l => (partOf s (lkPart l.1)).pkg == pkg && detWaits s e.2 l.1)) ||
  s.savedWgs.any fun e => (gridOf s e.2.grid).latency && (lcoreOf s e.2.lcore).waiting && (partOf s (lkPart e.2.lcore)).pkg == pkg

/-- A core may take workgroups of a grid: its part runs, it is not being vacated, and a bulk grid takes a reserved core only
while no latency-class work of the package waits (R257). -/
def coreOpen (s : State) (g : Grid) (c : Nat) : Bool :=
  match ownerFor s g.ctx c with
  | none => false
  | some part =>
    (g.pod || part == g.part) && partRuns s part &&
    !((partOf s part).frozenDies.contains (pcDie c % 4)) && !coreLeaves s part c && !(lcoresAt s part c).isEmpty &&
    (g.latency || !isReserved s c || !latencyWaits s (pcPkg c))

/-- No cancel has reached a landing over a core (R277). -/
def pathOpen (g : Grid) (c : Nat) : Bool :=
  !g.cancelled || (landingOpen g (pkgLanding (pcPkg c)) && landingOpen g (dieLanding (pcDie c)) && landingOpen g (hallLanding (pcHall c)))

/-- Open cores of a grid, under landings that no cancel has reached. -/
def openCores (s : State) (g : Grid) : List Nat :=
  ((if g.pod then partsOfCtx s g.ctx else [g.part]).flatMap fun k => coresOf s k).filter fun c => coreOpen s g c && pathOpen g c

/-- The logical core of a physical core that new workgroups of a grid take: the lowest of its context placed there. -/
def lcoreFor (s : State) (g : Grid) (c : Nat) : Nat :=
  match ownerFor s g.ctx c with
  | some part => (lcoresAt s part c).headD 0
  | none => 0

/-- The sequencer instance of a grid on a logical core, the leader's (R261). -/
def instanceOn? (s : State) (gid lk : Nat) : Option Nat :=
  (s.wgs.find? fun e => e.2.seqi && e.2.grid == gid && e.2.lcore == lk && !e.2.done && (e.2.leader == 0 || e.2.leader == e.1)).map (·.1)

/-- An instance has still to be placed before a workgroup of the grid on a logical core: one is placed on each, once (R261). -/
def needsInstance (s : State) (gid lk : Nat) : Bool :=
  decide ((gridOf s gid).k.seqentry ≠ 0) && !((gridOf s gid).seqAt.contains lk)

def gridWarps (g : Grid) : Nat := (g.wx * g.wy * g.wz + 63) / 64

/-! ### Dealing (R272) -/

/-- A child landing lies under a landing and over a core. -/
def under (l c : Nat) : Bool :=
  if l = 0 then true
  else if l < 2000000 then pcPkg c == l - 1000000
  else if l < 3000000 then pcDie c == l - 2000000
  else pcHall c == l - 3000000

def childOver (l c : Nat) : Nat :=
  if l = 0 then pkgLanding (pcPkg c) else if l < 2000000 then dieLanding (pcDie c) else hallLanding (pcHall c)

/-- The parent of a landing. -/
def parentOf (l : Nat) : Nat :=
  if l < 2000000 then 0 else if l < 3000000 then pkgLanding ((l - 2000000) / 4) else dieLanding ((l - 3000000) / 40)

/-- The lowest undealt unit of some ranges, and of a grid at a landing. -/
def lowestUnit? (l : List (Nat × Nat)) : Option Nat := minNat? ((l.filter fun r => decide (r.1 < r.2)).map (·.1))
def nextUnit? (g : Grid) (l : Nat) : Option Nat := lowestUnit? (rangesAt g l)

/-- Workgroups of a dealing unit: one, or a cohort, of which the final one may be short (R260). -/
def unitSize (g : Grid) (u : Nat) : Nat := min (gridUnit g) (gridTotal g - u * gridUnit g)

/-- The unit that a hall under a child landing c starts next: the lowest that waits at the hall, or above it up to c, else the one that c
is offered. -/
def unitFor (g : Grid) (c hall off : Nat) : Nat :=
  (([hall, parentOf hall, parentOf (parentOf hall)].filter (c ≤ ·)).findSome? (nextUnit? g)).getD off

/-- Free capacity of a hall landing, in units of the size of the one that it starts next: what its open cores admit. -/
def hallCapacity (s : State) (gid l u : Nat) : Nat :=
  let g := gridOf s gid
  let n := (((openCores s g).filter fun c => under l c).map fun c =>
    fitCountSeq g.k (gridWarps g) (needsInstance s gid (lcoreFor s g c)) (roomOf s c)).sum
  n / unitSize g u

/-- Free capacity of a child landing for units that it is offered: the sum over its halls. -/
def capacity (s : State) (gid l off : Nat) : Nat :=
  let g := gridOf s gid
  let halls := sortNat (((openCores s g).filter fun c => under l c).map fun c => hallLanding (pcHall c))
  (halls.map fun h => hallCapacity s gid h (unitFor g l h off)).sum

/-- The first n units of some ranges, and the rest. -/
def cutUnits : Nat → List (Nat × Nat) → List (Nat × Nat) × List (Nat × Nat)
  | _, [] => ([], [])
  | n, (lo, hi) :: t =>
    if n = 0 then ([], (lo, hi) :: t)
    else if hi - lo ≤ n then let r := cutUnits (n - (hi - lo)) t; ((lo, hi) :: r.1, r.2)
    else ([(lo, lo + n)], (lo + n, hi) :: t)

/-- A range entered among others that lie in ascending order, and joined with those that it touches. -/
def insRange (r : Nat × Nat) : List (Nat × Nat) → List (Nat × Nat)
  | [] => [r]
  | (lo, hi) :: t =>
    if hi < r.1 then (lo, hi) :: insRange r t
    else if hi = r.1 then insRange (lo, r.2) t
    else if r.2 = lo then (r.1, hi) :: t
    else r :: (lo, hi) :: t

/-- Ranges that a landing takes, in ascending order among its own. -/
def addRanges (g : Grid) (l : Nat) (rs : List (Nat × Nat)) : Grid :=
  { g with ranges := tblSet g.ranges l (rs.foldl (fun t r => insRange r t) (rangesAt g l)) }

/-- Ranges dealt to children in ascending order, each the units counted for it. -/
def dealTo (g : Grid) : List (Nat × Nat) → List (Nat × Nat) → Grid
  | [], _ => g
  | (child, n) :: t, l =>
    let r := cutUnits n l
    dealTo (if r.1.isEmpty then g else addRanges g child r.1) t r.2

/-- The number of units for each child: in proportion to capacity, what is left over one each in ascending order. -/
def shares (u : Nat) (cs : List (Nat × Nat)) : List (Nat × Nat) :=
  let total := (cs.map (·.2)).sum
  let base := cs.map fun e => (e.1, u * e.2 / total)
  let left := u - (base.map (·.2)).sum
  (List.range base.length).map fun i => let e := base.getD i (0, 0); (e.1, e.2 + if i < left then 1 else 0)



/-- The child of a landing that holds the most undealt units, the lowest of several. -/
def fullest (s : State) (g : Grid) (l : Nat) : Option Nat :=
  let cs := (g.ranges.map (·.1)).filter fun c => c != l && c != rootLanding s g && parentOf c == l
  cs.foldl (fun best c => match best with
    | none => if unitsIn (rangesAt g c) = 0 then none else some c
    | some b => if unitsIn (rangesAt g b) < unitsIn (rangesAt g c) then some c else some b) none

/-- A landing recalls the upper half of the undealt range of the child that holds the most. -/
def recallUnits (s : State) (g : Grid) (l : Nat) : Grid :=
  match fullest s g l with
  | none => g
  | some c =>
    let r := cutUnits (unitsIn (rangesAt g c) / 2) (rangesAt g c)
    addRanges { g with ranges := tblSet g.ranges c r.1 } l r.2

/-- A grid whose landing holds what it can deal: its own range, or, where that is empty, the one recalled. -/
def readyToDeal (s : State) (g : Grid) (l : Nat) : Grid := if unitsIn (rangesAt g l) = 0 then recallUnits s g l else g

/-- Children of a landing with free capacity for what it can deal, in ascending order. -/
def childrenOf (s : State) (gid l : Nat) : List (Nat × Nat) :=
  let g := gridOf s gid
  let off := (nextUnit? (readyToDeal s g l) l).getD 0
  let cs := sortNat (((openCores s g).filter fun c => under l c).map fun c => childOver l c)
  (cs.map fun c => (c, capacity s gid c off)).filter fun e => decide (e.2 ≠ 0)

/-- A landing deals what it holds to its children with free capacity. -/
def dealAll (s : State) (gid l : Nat) : State :=
  let g := readyToDeal s (gridOf s gid) l
  let have_ := rangesAt g l
  updGrid s gid fun _ => dealTo { g with ranges := tblSet g.ranges l [] } (shares (unitsIn have_) (childrenOf s gid l)) have_

/-- A landing that lost capacity returns its undealt ranges to its parent, which lost it too, and so to the root (R24, R273); a root that
a cancel has reached drops them (R277, R278). -/
def returnAll (s : State) (g : Grid) (lost : Nat → Bool) : Grid :=
  let root := rootLanding s g
  let back := g.ranges.filter fun e => e.1 != root && lost e.1 && decide (unitsIn e.2 ≠ 0)
  let g1 := { g with ranges := g.ranges.filter fun e => e.1 == root || !lost e.1 }
  if back.isEmpty then g
  else if landingOpen g root then back.foldl (fun g e => addRanges g root e.2) g1
  else { g1 with cut := true }

/-- The landings of a context that lost capacity return what they hold. -/
def returnRanges (s : State) (ctx : Nat) (lost : Nat → Bool) : State :=
  { s with grids := tblMap s.grids fun _ g => if g.ctx = ctx ∧ !g.complete then returnAll s g lost else g }

/-- Some of a context's cores lie under a landing. -/
def coresUnder (s : State) (ctx l : Nat) : Bool := (partsOfCtx s ctx).any fun k => (coresOf s k).any fun c => under l c

/-- Blocks of a grid wait at a landing: its ranges, or, in a deterministic grid, the next block of a logical core placed there. -/
def waitsAt (s : State) (g : Grid) (l : Nat) : Bool :=
  decide (unitsIn (rangesAt g l) ≠ 0) ||
    (g.k.det && !g.complete && decide (3000000 ≤ l) && s.lcores.any fun e => (match e.2.pcore with
      | some c => under l c && detWaits s g e.1
      | none => false))

/-- No earlier launch of the issuer waits at a landing (R274); a bulk one does not go before latency-class work (R257). -/
def firstAt (s : State) (g : Grid) (l : Nat) : Bool :=
  (earlierGrids s g).all fun e => !waitsAt s e.2 l || (g.latency && !e.2.latency)

/-- Latency-class blocks wait at a landing and can be dealt on from it: bulk blocks stay behind them there (R257). -/
def latencyAhead (s : State) (g : Grid) (l : Nat) : Bool :=
  !g.latency && s.grids.any fun e => e.2.latency && gridFree s e.2 && landingOpen e.2 l && decide (unitsIn (rangesAt e.2 l) ≠ 0) &&
    !(childrenOf s e.1 l).isEmpty

/-- `LANDING_DEAL`: a is the grid, b the parent, c the child. The child has free capacity and no blocks, and asks. -/
def dealDue (s : State) (gid l child : Nat) : Bool :=
  match tblGet? s.grids gid with
  | none => false
  | some g =>
    gridFree s g && !g.k.det && landingOpen g l && decide (l < 3000000) && firstAt s g l && !latencyAhead s g l &&
    ((childrenOf s gid l).any fun e => e.1 == child) && decide (unitsIn (rangesAt g child) = 0) &&
    (decide (unitsIn (rangesAt g l) ≠ 0) || (fullest s g l).isSome)

def execLandingDeal (s : State) : Out :=
  if dealDue s s.arg.a s.arg.b s.arg.c then .next (dealAll s s.arg.a s.arg.b) else .refused .notDue

/-! ### The first state of a holder (R42, R260) -/

/-- Coordinates of a block. -/
def blockX (g : Grid) (b : Nat) : Nat := b % g.gx
def blockY (g : Grid) (b : Nat) : Nat := b / g.gx % g.gy
def blockZ (g : Grid) (b : Nat) : Nat := b / g.gx / g.gy

/-- Words placed in consecutive uniform registers. -/
def uniforms (l : List Nat) : BMap 32 := bmSetAll [] ((List.range l.length).map fun i => (i, BitVec.ofNat 32 (l.getD i 0)))

/-- Initial uniform registers of warp w of a block, or of a sequencer instance. -/
def firstUniforms (g : Grid) (seqi : Bool) (b w lk : Nat) : BMap 32 :=
  let co := g.cohort
  uniforms (
    (if seqi then [0, 0, 0, 0] else [blockX g b, blockY g b, blockZ g b, w]) ++
    [g.args, g.args / 2 ^ 32, g.gx, g.gy, g.gz, g.wx, g.wy, g.wz] ++
    (if seqi then [0, 0, lk % 2048, 0]
     else [b, b / 2 ^ 32 % 65536, if co = 0 then 0 else b % co + 8 * (b / co % 2 ^ 29), if co = 0 then 0 else b / co / 2 ^ 29]))

/-- The lanes of warp w of a workgroup of n threads, helpers of its last quad included (R14, R15). -/
def firstLanes (n w entry age : Nat) : Tbl Thread :=
  (List.range (min 64 ((n + 3) / 4 * 4 - 64 * w))).map fun l =>
    (l, { pc := BitVec.ofNat 64 entry, helper := decide (n ≤ 64 * w + l), age := age })

/-! ### Logical numbers (R25) -/

/-- Holders of a logical core, resident or saved. -/
def holdersOf (s : State) (lk : Nat) : List (Nat × Wg) :=
  (leadersOn s lk) ++ s.savedWgs.filter fun e => e.2.lcore == lk

/-- A run of logical numbers: the physical ones where none is in use, else the first free run. -/
def logicalRun (used : List Nat) (bound b n : Nat) : Option Nat :=
  let free (x : Nat) : Bool := (List.range n).all fun k => !used.contains (x + k)
  if free b then some b else (List.range (bound + 1)).find? fun x => decide (x + n ≤ bound) && free x

/-- A logical number of a physical one: the same where free, else the lowest free of a range. -/
def logicalOne (used : List Nat) (lo hi p : Nat) : Option Nat :=
  if used.contains p then ((List.range (hi - lo)).map (· + lo)).find? (fun y => !used.contains y) else some p

/-- Logical numbers of physical numbers, each in the range that it names. -/
def logicalEach (range : Nat → Nat × Nat) (used : List Nat) : List Nat → Option (List Nat)
  | [] => some []
  | p :: t =>
    match logicalOne used (range p).1 (range p).2 p with
    | none => none
    | some x => (logicalEach range (x :: used) t).map fun l => x :: l

/-- Logical banks and slots in use on a logical core. -/
def usedBanks (s : State) (lk : Nat) : List Nat :=
  (holdersOf s lk).flatMap fun e => if e.2.done then [] else
    (List.range e.2.k.scrbanks).map (fun j => e.2.scrBank + j) ++ (List.range e.2.k.opbanks).map fun j => e.2.opBank + j
def usedAcc (s : State) (lk : Nat) : List Nat := (holdersOf s lk).flatMap fun e => if e.2.done then [] else e.2.rset.map (·.1)
def usedSlots (s : State) (lk : Nat) : List Nat :=
  (s.warps.filter fun e => (wgOf s e.2.wg).lcore == lk).map (fun e => e.2.slot) ++
  (s.savedWarps.filter fun e => (tblGet s.savedWgs e.2.wg).lcore == lk).map fun e => e.2.slot

/-! ### Placing a holder -/

/-- A warp enters its quarter's sets: the active set when that has room (R263). -/
def enterQuarter (s : State) (c pslot w : Nat) : State :=
  if 96 ≤ pslot then s
  else updPcore s c fun p =>
    let q := tblGet p.qs (pslot / 24)
    { p with qs := tblSet p.qs (pslot / 24) (if q.active.length < 8 then { q with active := q.active ++ [w], since := q.since ++ [w] } else { q with pend := q.pend ++ [w] }) }

/-- One warp of a new holder. -/
def placeWarp (s : State) (g : Grid) (hid c w slot pslot : Nat) : State :=
  let h := wgOf s hid
  let id := s.nextId
  let x : Warp :=
    { ctx := g.ctx, wg := hid, idx := w, slot := slot, pslot := pslot, nv := g.k.v, ns := g.k.s, nt := if h.seqi then 0 else g.k.t,
      sr := firstUniforms g h.seqi h.block w h.lcore, fpctl := g.k.fpctl0, ident := g.ident,
      lanes := if h.seqi then [(0, { pc := BitVec.ofNat 64 g.k.seqentry, age := id })] else firstLanes h.threads w g.k.entry id }
  enterQuarter (updWg { s with warps := s.warps ++ [(id, x)], nextId := id + 1 } hid fun y => { y with warps := y.warps ++ [id] }) c pslot id

/-- The logical numbers of a holder: its first scratchpad and operand bank, its accumulator banks, and its warps' slots. -/
structure Numbers where
  scr : Nat := 0
  op : Nat := 0
  acc : List Nat := []
  slots : List Nat := []
deriving DecidableEq, Repr

/-- Logical numbers of a new holder from its physical place, or its leader's where it is a further replica; none while the other
holders of its logical core, resident or saved, leave too few numbers free (R25). -/
def numbersOf (s : State) (g : Grid) (lk : Nat) (f : Fit) (lead : Option Nat) : Option Numbers :=
  match lead with
  | some l =>
    let y := wgOf s l
    some { scr := y.scrBank, op := y.opBank, acc := y.rset.map (·.1), slots := y.warps.map fun w => (warpOf s w).slot }
  | none =>
    let ub := usedBanks s lk
    match logicalRun ub 64 f.scr g.k.scrbanks with
    | none => none
    | some b =>
      match logicalRun (ub ++ (List.range g.k.scrbanks).map fun j => b + j) 64 f.op g.k.opbanks,
            logicalEach (fun _ => (0, 32)) (usedAcc s lk) f.acc, logicalEach (fun p => (p / 24 * 24, p / 24 * 24 + 24)) (usedSlots s lk) f.slots with
      | some o, some la, some ls => some { scr := b, op := o, acc := la, slots := ls }
      | _, _, _ => none

/-- A holder placed on a physical core at a fit, under its logical numbers. -/
def placeAt (s : State) (gid : Nat) (seqi : Bool) (b lk rep : Nat) (lead : Option Nat) (c : Nat) (f : Fit) (n : Numbers) : State :=
  let g := gridOf s gid
  let hid := s.nextId
  let (lb, lo, la, ls) := (n.scr, n.op, n.acc, n.slots)
  let scr := (List.range g.k.scrbanks).map fun j => f.scr + j
  let op := (List.range g.k.opbanks).map fun j => f.op + j
  let map : Tbl Nat := ((List.range scr.length).foldl (fun t j => tblSet t (lb + j) (scr.getD j 0))
    ((List.range op.length).foldl (fun t j => tblSet t (lo + j) (op.getD j 0)) []))
  let h : Wg :=
    { ctx := g.ctx, grid := gid, block := if seqi then 0 else b, lcore := lk, seqi := seqi, k := g.k,
      threads := if seqi then 1 else g.wx * g.wy * g.wz, scrBank := lb, opBank := lo, lsMap := map,
      rset := (List.range la.length).foldl (fun t j => tblSet t (la.getD j 0) (f.acc.getD j 0)) [], cbase := g.k.constaddr,
      held := g.held && !seqi, fresh := true, replica := rep, leader := if g.k.redun = 0 then 0 else lead.getD hid,
      rcore := if rep = 0 then none else some c }
  let s1 := ownBanks { s with wgs := s.wgs ++ [(hid, h)], nextId := hid + 1 } c hid scr op f.acc
  if seqi then placeWarp s1 g hid c 0 0x7F 0x7F
  else (List.range f.slots.length).foldl (fun s w => placeWarp s g hid c w (ls.getD w 0) (f.slots.getD w 0)) s1

/-- A holder placed on a core that admits it; answers the holder. -/
def placeHolder? (s : State) (gid : Nat) (seqi : Bool) (b lk rep : Nat) (lead : Option Nat) (c : Nat) : Option (State × Nat) :=
  let g := gridOf s gid
  match if seqi then fitSeq (roomOf s c) g.k else fitWg (roomOf s c) g.k (gridWarps g) with
  | none => none
  | some e => (numbersOf s g lk e.1 lead).map fun n => (placeAt s gid seqi b lk rep lead c e.1 n, s.nextId)

/-- The replicas of a holder placed, each on its core: the first leads. -/
def placeReplicas? (s : State) (gid : Nat) (seqi : Bool) (b lk : Nat) : Nat → Option Nat → List Nat → Option State
  | _, _, [] => some s
  | rep, lead, c :: t =>
    match placeHolder? s gid seqi b lk rep lead c with
    | none => none
    | some (s1, h) => placeReplicas? s1 gid seqi b lk (rep + 1) (some (lead.getD h)) t

/-- Cores on which the replicas of a holder stand, the leader's first. -/
def replicaCores (s : State) (h : Nat) : List Nat :=
  let l := (wgMates s h).map fun x => ((wgOf s x).replica, coreOfWg s x)
  (sortNat (l.map (·.1))).filterMap fun r => (l.find? fun e => e.1 == r).map (·.2)

/-- Cores for the further replicas of a workgroup: those of its launch's instance where one stands; else in other halls, on
other dies when the context holds cores on one, and in the given halls for the members of a cohort after the first (R368). -/
def pickReplicas (s : State) (gid lk : Nat) (halls : List Nat) : Nat → List Nat → Option (List Nat)
  | 0, got => some got
  | n + 1, got =>
    let g := gridOf s gid
    let part := lkPart lk
    let ok (c : Nat) : Bool := (fitBoth (roomOf s c) g.k (gridWarps g) (needsInstance s gid lk)).isSome
    let cs := match instanceOn? s gid lk with
      | some h => ((replicaCores s h).drop got.length).take 1
      | none =>
        let cs := (coresOf s part).filter fun c => !(got.any fun d => pcHall d == pcHall c) && !coreLeaves s part c
        let far := cs.filter fun c => !(got.any fun d => pcDie d == pcDie c)
        let cs := if far.isEmpty then cs else far
        match halls[got.length]? with
        | some h => cs.filter fun c => pcHall c == h
        | none => cs
    match cs.find? ok with
    | none => none
    | some c => pickReplicas s gid lk halls n (got ++ [c])

/-- A block placed on a core, with its replicas and the instance of its launch; answers the halls taken. -/
def placeBlock? (s : State) (gid b lk c : Nat) (halls : List Nat) : Option (State × List Nat) :=
  let g := gridOf s gid
  match pickReplicas s gid lk halls g.k.redun [c] with
  | none => none
  | some cs =>
    let s1? := if needsInstance s gid lk then placeReplicas? s gid true 0 lk 0 none cs else some s
    match s1? with
    | none => none
    | some s1 =>
      (placeReplicas? s1 gid false b lk 0 none cs).map fun s2 =>
        let inst := if needsInstance s gid lk then (instanceOn? s2 gid lk).toList else []
        (updGrid s2 gid fun g => { g with started := g.started ++ [b], seqs := g.seqs ++ inst,
                                          seqAt := if inst.isEmpty then g.seqAt else g.seqAt ++ [lk] }, cs.map fun c => c / 8)

/-- Further members of a cohort, each on the first core of the hall that admits it. -/
def placeMembers? (s : State) (gid : Nat) (halls : List Nat) : List Nat → Option State
  | [] => some s
  | b :: t =>
    let g := gridOf s gid
    let cs := (openCores s g).filter fun c => halls.headD 0 == pcHall c
    match cs.findSome? fun c => placeBlock? s gid b (lcoreFor s g c) c halls with
    | none => none
    | some (s1, _) => placeMembers? s1 gid halls t

/-- A dealing unit placed whole, its first block on the core given (R21). -/
def placeUnit? (s : State) (gid u c : Nat) : Option State :=
  let g := gridOf s gid
  let b := u * gridUnit g
  let rest := (List.range (min (gridUnit g) (gridTotal g - b) - 1)).map fun k => b + k + 1
  match placeBlock? s gid b (lcoreFor s g c) c [] with
  | none => none
  | some (s1, halls) => placeMembers? s1 gid halls rest

/-! ### Where a unit may go (R257, R259) -/

/-- The preferred die of a block, over the pod (R259). -/
def preferredDie? (s : State) (g : Grid) (b : Nat) : Option Nat :=
  if g.affn = 1 then some ((partOf s g.part).pkg * 4 + b / (g.afbase % 2 ^ 32) % 4)
  else if g.affn = 2 then
    let va := ((g.afbase : Int) + blockX g b * g.afs.getD 0 0 + blockY g b * g.afs.getD 1 0 + blockZ g b * g.afs.getD 2 0) % 2 ^ 64
    match pageOf s g.part va.toNat with
    | .ok e => some (homeDie (physOf e va.toNat))
    | .error _ => none
  else none

/-- The cores on which a unit at a hall landing may be placed now. Latency-class work takes a reserved core wherever one admits it, on
its preferred die before others; other work takes the preferred die's cores where one admits it, else the hall's. -/
def unitCores (s : State) (gid u l : Nat) : List Nat :=
  let g := gridOf s gid
  let ok (c : Nat) : Bool := (placeUnit? s gid u c).isSome
  let cs := openCores s g
  let near (cs : List Nat) : List Nat := match preferredDie? s g (u * gridUnit g) with
    | some d => cs.filter fun c => pcDie c == d && ok c
    | none => []
  let res := if g.latency then cs.filter fun c => isReserved s c && ok c else []
  let own := if res.isEmpty then cs.filter fun c => under l c && ok c else
    if res.any (under l) then res.filter (under l) else res
  let pref := near (if res.isEmpty then cs else res)
  if pref.isEmpty then own else pref



/-- The blocks of a deterministic grid that a core admits now, each with its logical core. -/
def detBlocks (s : State) (gid c : Nat) : List (Nat × Nat) :=
  let g := gridOf s gid
  (lcoresAt s ((ownerFor s g.ctx c).getD 0) c).filterMap fun lk => match detNext? s g lk with
    | some b => if (placeBlock? s gid b lk c []).isSome then some (b, lk) else none
    | none => none

/-- A latency-class unit or deterministic block that waits at a landing could take a core (R257). -/
def latencyFirst (s : State) (g : Grid) (l c : Nat) : Bool :=
  !g.latency && s.grids.any fun e => e.2.latency && gridFree s e.2 &&
    ((match nextUnit? e.2 l with
      | some u => (unitCores s e.1 u l).contains c
      | none => false) ||
     (e.2.k.det && coreOpen s { e.2 with pod := true } c && (detBlocks s e.1 c).any fun b => detWaits s e.2 b.2))

/-- The hall landing of a grid at which a block is the next. -/
def landingOf? (g : Grid) (b : Nat) : Option Nat :=
  (g.ranges.find? fun e => decide (3000000 ≤ e.1) && nextUnit? g e.1 == some (b / gridUnit g)).map (·.1)

/-- Logs of a part in use, and a free one (R351). -/
def freeLog? (s : State) (part : Nat) : Option Nat :=
  let p := partOf s part
  if p.savebase = 0 then none
  else
    let n := homeNat s (gpOf p.pkg (p.savebase.toNat / 4096 * 4096 % 2 ^ 51) + 0x44) 4
    let used := (s.wgs ++ s.savedWgs).filterMap fun e => if lkPart e.2.lcore = part then e.2.logIx else none
    (List.range (min n (used.length + 1))).find? fun i => !used.contains i

/-- A deterministic block may start on its logical core, which stands on the core given: no earlier launch of its issuer waits at that
core's hall (R274). -/
def detDue (s : State) (g : Grid) (b c : Nat) : Bool :=
  gridFree s g && landingOpen g (rootLanding s g) && pathOpen g c && coreOpen s { g with pod := true } c &&
  firstAt s g (hallLanding (pcHall c)) && !latencyFirst s g (hallLanding (pcHall c)) c &&
  ((lcoresAt s ((ownerFor s g.ctx c).getD 0) c).any fun lk => detNext? s g lk == some b && (freeLog? s (lkPart lk)).isSome)

/-- The logical core on which a deterministic block starts. -/
def detCore (s : State) (g : Grid) (b c : Nat) : Nat :=
  ((lcoresAt s ((ownerFor s g.ctx c).getD 0) c).find? fun lk => detNext? s g lk == some b).getD 0

/-- A plain unit may be placed on a core now. -/
def unitDue (s : State) (gid b c : Nat) : Bool :=
  let g := gridOf s gid
  match landingOf? g b with
  | none => false
  | some l =>
    decide (b % gridUnit g = 0) && gridFree s g && landingOpen g l && firstAt s g l &&
    (unitCores s gid (b / gridUnit g) l).contains c && !latencyFirst s g l c

end Sys2Proof.Machine
end

