-- ==== Sys2Proof/Machine/Placement.lean ====
section
/-! DEFINITION. Staging (R197, R300, R409), `WORKGROUP_PLACEMENT`, cancels at the landings (R277), the completion of grids (R275),
queue sequencers (R253 to R255), and the serial phase of deterministic grids (R271). -/

namespace Sys2Proof.Machine

/-! ### Staging (R197, R409) -/

/-- What staging has read so far: an access that failed ends it. -/
structure Staged where
  ident : Word := 0
  regions : List Region := []
  scr : BMap 8 := []
  consts : BMap 8 := []
  /-- denied words: address and tag -/
  denied : List (Nat × Nat) := []
  bad : Option (Cause × Nat) := none
deriving DecidableEq, Repr

/-- Why a staging read of one word fails. -/
def stageFail (s : State) (hid : Nat) (ident : Word) (va : Nat) : Option Cause :=
  let h := wgOf s hid
  let part := lkPart h.lcore
  if isAperture va then some .access
  else match translate s part va .load with
    | .error c => some c
    | .ok e =>
      if opForeign s hid va then some .access
      else if tagAllows s part ident.toNat e.tag && poisoned s (physOf e va) 4 then some .memPoison
      else none

/-- The tag that denies a staging read. -/
def stageDenied (s : State) (hid : Nat) (ident : Word) (va : Nat) : Option Nat :=
  let part := lkPart (wgOf s hid).lcore
  match translate s part va .load with
  | .ok e => if tagAllows s part ident.toNat e.tag then none else some e.tag
  | .error _ => none

/-- The bytes of a staging read: zeros where denied; memory at the grid's start on a shared line of a deterministic grid. -/
def stageBytes (s : State) (hid : Nat) (ident : Word) (va n : Nat) : List Byte :=
  let h := wgOf s hid
  match translate s (lkPart h.lcore) va .load with
  | .error _ => List.replicate n 0
  | .ok e =>
    if (stageDenied s hid ident va).isSome then List.replicate n 0
    else if opShared s hid va then bmList (gridOf s h.grid).mem0 (physOf e va) n
    else placeBytes s (coreOfWg s hid) e.key (physOf e va) n

/-- n words read one after another; each goes where `put` says. -/
def stageWords (s : State) (hid va : Nat) (put : Staged → Nat → List Byte → Staged) : Nat → Staged → Staged
  | 0, st => st
  | n + 1, st =>
    let st := stageWords s hid va put n st
    if st.bad.isSome then st
    else
      let a := (va + 4 * n) % 2 ^ 64
      match stageFail s hid st.ident a with
      | some c => { st with bad := some (c, a) }
      | none =>
        let st1 := put st n (stageBytes s hid st.ident a 4)
        match stageDenied s hid st.ident a with
        | some t => { st1 with denied := st1.denied ++ [(a, t)] }
        | none => st1

/-- Bytes entered in a map from a key on. -/
def putBytes (m : BMap 8) (k : Nat) (l : List Byte) : BMap 8 := bmSetAll m ((List.range l.length).map fun j => (k + j, l.getD j 0))

/-- A region of a block, from the eight words of its entry. -/
def regionOf (b : List Byte) (block : Nat) : Region :=
  let e := regionEntry b
  { va := (e.1 + block * e.2.1) % 2 ^ 64, size := e.2.2.1, soff := e.2.2.2.1, dir := e.2.2.2.2 }

/-- The region entries read again (R300). -/
def stageRegions (s : State) (hid : Nat) (st : Staged) : Staged :=
  let g := gridOf s (wgOf s hid).grid
  (List.range g.nreg).foldl (fun st k =>
    let st1 := stageWords s hid ((g.regions + 32 * k) % 2 ^ 64) (fun st n l => { st with scr := putBytes st.scr (4 * n) l }) 8 { st with scr := [] }
    { st1 with scr := [], regions := st1.regions ++ [regionOf (bmList st1.scr 0 32) (wgOf s hid).block] }) st

/-- The identity of a holder (R322): the issuer's, IDVAL, or its block's word of the table. -/
def stageIdent (s : State) (hid : Nat) (st : Staged) : Staged :=
  let h := wgOf s hid
  let g := gridOf s h.grid
  if g.idsrc = 1 then { st with ident := g.idval }
  else if g.idsrc = 2 ∧ !h.seqi then
    stageWords s hid ((g.idtab + 4 * h.block) % 2 ^ 64) (fun st _ l => { st with ident := BitVec.ofNat 32 (leNat l) }) 1 st
  else st

/-- In ranges staged into the scratchpad, and the constants of a sealed launch (R197). -/
def stageData (s : State) (hid : Nat) (st : Staged) : Staged :=
  let h := wgOf s hid
  let st1 := st.regions.foldl (fun st r =>
    if r.dir = 1 ∨ r.dir = 3 then stageWords s hid r.va (fun st n l => { st with scr := putBytes st.scr (r.soff + 4 * n) l }) (r.size / 4) st
    else st) st
  if h.k.isSealed then stageWords s hid h.cbase (fun st n l => { st with consts := putBytes st.consts (4 * n) l }) 1024 st1 else st1

/-- All that staging reads for a holder. -/
def stageAll (s : State) (hid : Nat) : Staged :=
  let h := wgOf s hid
  let st : Staged := { ident := (gridOf s h.grid).ident }
  let st1 := stageIdent s hid (if h.seqi then st else stageRegions s hid st)
  if st1.bad.isSome then st1 else stageData s hid st1

/-- The record of a staging fault. -/
def stagingRecord (s : State) (hid : Nat) (c : Cause) (addr : Nat) : FaultRec :=
  let h := wgOf s hid
  { cause := causeCode c, src := 0, place := lkPlace h.lcore, pc := BitVec.ofNat 64 (if h.seqi then h.k.seqentry else h.k.entry),
    slot := (warpOf s (h.warps.headD 0)).slot, addr := addr,
    info := if c = .pageFault then 1 else 0, grid := h.grid }

/-- A holder staged with its replicas: its scratchpad, constants, regions and identity; or one record under which every warp
stands trapped at its entry. -/
def stageHolder (s : State) (hid : Nat) : State :=
  let h := wgOf s hid
  let part := lkPart h.lcore
  let st := stageAll s hid
  let s0 := st.denied.foldl (fun s e => appendAudit s part e.1 st.ident.toNat e.2 0 (lkPlace h.lcore)) s
  match st.bad with
  | some (c, addr) =>
    let seq := nextSeq s0 part
    let s1 := addAwait (appendFault s0 part (stagingRecord s0 hid c addr)) part seq (.staging hid)
    (wgMates s hid).foldl (fun s x =>
      (wgOf s x).warps.foldl (fun s w => updWarp s w fun y => { y with trapped := true, trapSeq := seq })
        (updWg s x fun y => { y with staging := some seq })) s1
  | none =>
    (wgMates s hid).foldl (fun s x =>
      (wgOf s x).warps.foldl (fun s w => updWarp (if (warpOf s w).trapped then resumeOne s w else s) w fun y => { y with ident := st.ident })
        (updWg s x fun y => { y with staging := none, ident := st.ident, scr := st.scr, consts := st.consts, regions := st.regions })) s0

/-! ### `WORKGROUP_PLACEMENT` -/

/-- Holders placed by a step, the leaders among them, are staged. -/
def stageNew (s0 s : State) : State :=
  (s.wgs.filter fun e => (tblGet? s0.wgs e.1).isNone && (e.2.leader == 0 || e.2.leader == e.1)).foldl (fun s e => stageHolder s e.1) s

/-- The entry count and the block index of a log of a part's pool (R351). -/
def putLogHead (s : State) (part ix count block : Nat) : State :=
  if (partOf s part).savebase = 0 then s
  else putHome s (gpOf (partOf s part).pkg ((logBase s part + ix * logSize s part) % 2 ^ 51)) 0 (leBytes 8 count ++ leBytes 8 block)

/-- A deterministic block starts: memory as it stands is kept at the grid's first block, and the block takes a log, which begins empty
(R271, R351). R268 fixes the logical core of every block, so the members of a cohort are placed one by one on the cores that it
gives them, and not whole in one hall as R21 has a cohort placed (DEDUCED, log 39). -/
def startDet (s : State) (gid b c : Nat) : Option State :=
  let g := gridOf s gid
  let lk := detCore s g b c
  let s1 := if g.started.isEmpty then updGrid s gid fun g => { g with mem0 := s.mem } else s
  match freeLog? s (lkPart lk), placeBlock? s1 gid b lk c [] with
  | some ix, some e =>
    let s2 := putLogHead e.1 (lkPart lk) ix 0 b
    some { s2 with wgs := tblMap s2.wgs fun i h =>
      if (tblGet? s.wgs i).isNone && !h.seqi && (h.leader == 0 || h.leader == i) then { h with logIx := some ix } else h }
  | _, _ => none

/-- `WORKGROUP_PLACEMENT`: a is the grid, b the block, c the physical core. A cohort is placed whole with its first block. -/
def placement? (s : State) (gid b c : Nat) : Option State :=
  match tblGet? s.grids gid with
  | none => none
  | some g =>
    if g.k.det then (if detDue s g b c then startDet s gid b c else none)
    else if unitDue s gid b c then
      (match landingOf? g b with
       | none => none
       | some l =>
         let u := b / gridUnit g
         (placeUnit? s gid u c).map fun s1 => updGrid s1 gid fun g => { g with ranges := tblSet g.ranges l (cutUnits 1 (rangesAt g l)).2 })
    else none

def execWorkgroupPlacement (s : State) : Out :=
  match placement? s s.arg.a s.arg.b s.arg.c with
  | some s1 => .next (stageNew s s1)
  | none => .refused .notDue

/-! ### Cancels at the landings (R277, R278) -/

/-- A started block is discarded: its warps are asked to stop, and its threads end where they stop; a trapped one ends at once. -/
def discardHolder (s : State) (h : Nat) : State :=
  let s1 := updWg s h fun y => { y with discard := true, held := false }
  (wgOf s1 h).warps.foldl requestStop s1

/-- Blocks of a grid that run under a hall landing, in every replica. -/
def startedUnder (s : State) (gid l : Nat) : List Nat :=
  (s.wgs.filter fun e => e.2.grid == gid && !e.2.seqi && !e.2.done && under l (coreOfL s e.2.lcore)).map (·.1)

/-- Started blocks of a grid that a cancel discards at a landing: those under a hall; at the last landing of all, the rest of
them too, for a block saved meanwhile may stand again under a landing reached before. -/
def discardedAt (s : State) (gid l : Nat) (last : Bool) : List Nat :=
  if last then startedUnder s gid 0 else if 3000000 ≤ l then startedUnder s gid l else []

/-- `CANCEL_LANDING`: a is the grid, b the landing. A deterministic grid's blocks that have not started are dropped at its root, from
which they go to the logical cores that R268 gives them. -/
def reachLanding (s : State) (gid l : Nat) : State :=
  let s1 := updGrid s gid fun g =>
    { g with cancelTo := g.cancelTo.filter (· != l), ranges := tblDel g.ranges l,
             cut := g.cut || decide (unitsIn (rangesAt g l) ≠ 0) ||
               (g.k.det && decide (l = rootLanding s g) && decide (g.started.length < gridTotal g)) }
  let last := (gridOf s1 gid).cancelTo.isEmpty
  if (gridOf s gid).discard && (last || decide (3000000 ≤ l)) then
    let s2 := (discardedAt s1 gid l last).foldl discardHolder s1
    { s2 with savedWgs := tblMap s2.savedWgs fun _ h => if h.grid = gid ∧ !h.seqi then { h with discard := true } else h }
  else s1

def execCancelLanding (s : State) : Out :=
  match tblGet? s.grids s.arg.a with
  | some g => if g.cancelTo.contains s.arg.b then .next (reachLanding s s.arg.a s.arg.b) else .refused .notDue
  | none => .refused .notDue

/-! ### Completion (R275) -/

/-- Every block of a grid has ended or been dropped. -/
def blocksEnded (g : Grid) : Bool :=
  (g.ranges.all fun e => decide (unitsIn e.2 = 0)) && decide (g.retired + g.discarded = g.started.length) &&
  (decide (g.started.length = gridTotal g) || (g.cancelled && g.cancelTo.isEmpty))

/-- The conditions of R275, and the writes of the grid's blocks performed at its completion scope (R211). -/
def completionDue (s : State) (gid : Nat) : Bool :=
  match tblGet? s.grids gid with
  | none => false
  | some g =>
    !g.complete && partRuns s g.part && blocksEnded g && g.seqs.isEmpty && (s.wgs.all fun e => e.2.grid != gid) && (s.savedWgs.all fun e => e.2.grid != gid) &&
    (s.ops.all fun e => e.2.grid != gid) && (s.atoms.all fun e => e.2.grid != gid) &&
    (s.writes.all fun e => !(e.2.ctx == g.ctx && decide (e.1 < g.mark) && decide (e.2.level < levelOf g.scope))) &&
    !unitProtected s (match translate s g.part g.summary .store with | .ok e => physOf e g.summary | .error _ => 0) 384

def execGridCompletion (s : State) : Out :=
  if completionDue s s.arg.a then .next (pruneGrids (finishGrid s s.arg.a)) else .refused .notDue

/-! ### Queue sequencers (R254, R255) -/

def queueOf (s : State) (pkg q : Nat) : Queue := tblGet (pkgAt s pkg).queues q
def queueTail (s : State) (q : Queue) : Nat := homeNat s (q.desc + 0x40) 8

/-- The issuer number of a queue among the issuers of its context. -/
def queueIssuer (pkg q : Nat) : Nat := pkg * 256 + q

/-- Every earlier launch of a queue is complete. -/
def queueDone (s : State) (ctx pkg q : Nat) : Bool :=
  s.grids.all fun e => e.2.complete || !(e.2.queued && e.2.ctx == ctx && e.2.issuer == queueIssuer pkg q)

/-- The packet at a queue's head. -/
def headPacket (s : State) (q : Queue) : Except Fail Packet :=
  readPacket (queueReader s q.part q.ident.toNat) ((q.ring + 128 * (q.head % 2 ^ q.logn)) % 2 ^ 64)

/-- The packet at the head has ORDERED set and earlier packets of the queue are not complete. -/
def headWaits (s : State) (pkg qn : Nat) (q : Queue) : Bool :=
  match headPacket s q with
  | .ok p => decide (p.flags % 2 = 1) && !queueDone s q.ctx pkg qn
  | .error _ => false

/-- HEAD moves past a packet, in the queue and in its descriptor. -/
def advanceHead (s : State) (pkg qn : Nat) : State :=
  let q := queueOf s pkg qn
  let h := (q.head + 1) % 2 ^ 64
  putNat (updPkg s pkg fun p => { p with queues := tblUpd p.queues qn fun q => { q with head := h } }) (q.desc + 0x80) 8 h

/-- One packet launched, or reported where a check of 1 to 3 fails. -/
def launchHead (s : State) (pkg qn : Nat) : State :=
  let q := queueOf s pkg qn
  let addr := (q.ring + 128 * (q.head % 2 ^ q.logn)) % 2 ^ 64
  let bad (c : Cause) : State := appendFault s q.part { cause := causeCode c, src := 3, addr := addr }
  advanceHead (match headPacket s q with
    | .error f => bad f.cause
    | .ok p =>
      if !counterHas s q.ctx (p.tctl % 16) 1 then bad .access
      else
        let pod := decide (p.flags / 2 % 2 = 1)
        let g : Grid := { gridOfPacket s q.ctx q.part p pod q.ident with issuer := queueIssuer pkg qn, queued := true, ordered := false,
                                                                         ilk := lcoreKey q.part 0 }
        (issueLaunch s p g (launchCause s q.ctx p pod true)).1) pkg qn

/-- Packets taken in order, until none is left or one waits. -/
def takePackets (s : State) (pkg qn : Nat) : Nat → State
  | 0 => s
  | n + 1 =>
    let q := queueOf s pkg qn
    if q.head = q.tail ∨ headWaits s pkg qn q then s else takePackets (launchHead s pkg qn) pkg qn n

/-- The TAIL that the sequencer goes by: the one it reads now, or, while the queue is being removed, the one it last read (R402). -/
def tailRead (s : State) (q : Queue) : Nat := if q.removing then q.tail else queueTail s q

/-- `QUEUE_TAIL_WAKE`: a is the package, b the queue. -/
def wakeDue (s : State) (pkg qn : Nat) : Bool :=
  match tblGet? (pkgAt s pkg).queues qn with
  | none => false
  | some q => decide (q.head ≠ tailRead s q) && partRuns s q.part && !headWaits s pkg qn q

def execQueueTailWake (s : State) : Out :=
  if wakeDue s s.arg.a s.arg.b then
    let q := queueOf s s.arg.a s.arg.b
    let t := tailRead s q
    .next (takePackets (updPkg s s.arg.a fun p => { p with queues := tblUpd p.queues s.arg.b fun q => { q with tail := t } })
      s.arg.a s.arg.b (min ((t + 2 ^ 64 - q.head) % 2 ^ 64) (2 ^ q.logn)))
  else .refused .notDue

/-! ### The serial phase (R271) -/

/-- The lowest started block of a deterministic grid whose log is not applied, and its holder. -/
def nextLog? (s : State) (gid : Nat) : Option Nat :=
  let g := gridOf s gid
  match minNat? (g.started.filter fun b => decide (g.nextLog ≤ b)) with
  | none => none
  | some b =>
    if !(g.cancelled && g.cancelTo.isEmpty) && decide (g.nextLog < b) then none
    else (s.wgs.find? fun e => e.2.grid == gid && e.2.block == b && !e.2.seqi && e.2.logIx.isSome).map (·.1)

/-- An entry of a holder's log writes into a unit that a cut has still to copy: it waits (R363). -/
def entryProtected (s : State) (h : Nat) (e : LogEntry) : Bool :=
  match translate s (lkPart (wgOf s h).lcore) e.va .store with
  | .ok p => unitProtected s (physOf p e.va) 8
  | .error _ => false

/-- `WRITE_LOG_APPLY`: a is the grid: the next log is applied when its workgroup and every lower one have retired, no engine operation of
it is left, and no unit that it writes waits for a cut's copy. -/
def logDue (s : State) (gid : Nat) : Bool :=
  match nextLog? s gid with
  | none => false
  | some h => partRuns s (lkPart (wgOf s h).lcore) && (wgOf s h).done && !((wgOf s h).log.any (entryProtected s h)) && (s.ops.all fun e => e.2.wg != h) && (s.loads.all fun e => !((wgOf s h).warps.contains e.2.warp))

def applyNext (s : State) (gid : Nat) : State :=
  match nextLog? s gid with
  | none => s
  | some h =>
    let s0 := (wgOf s h).log.foldl (fun s e => applyLog s h e) s
    let s1 := match (wgOf s h).logIx with
      | some ix => putLogHead s0 (lkPart (wgOf s h).lcore) ix 0 0
      | none => s0
    reapWg (updGrid (updWg s1 h fun y => { y with logIx := none, log := [] }) gid fun g =>
      { g with nextLog := (wgOf s h).block + 1, mark := s1.nextId }) h

def execWriteLogApply (s : State) : Out :=
  if logDue s s.arg.a then .next (applyNext s s.arg.a) else .refused .notDue

end Sys2Proof.Machine
end

