-- ==== Sys2Proof/Machine/System.lean ====
section
/-! DEFINITION. Control and status registers (R43 to R46, R123, R311, R333), `SETID`, `TLBINV`, `CLRINV`, `BANKROLE` (R334 to R337),
`RDCLK`, `RAND` and `TRAP` (R355, R358). -/

namespace Sys2Proof.Machine

/-! ### The registers (R44) -/

/-- Access codes of R43. -/
inductive CsrAccess where
  | uRw | uRo | uRoPRw | pRw | pRo
deriving DecidableEq, Repr

/-- The access code of a register number, none when it is unassigned. -/
def csrAccess (n : Nat) : Option CsrAccess :=
  if n ≤ 0x005 then some .uRw
  else if n ≤ 0x00C then some .uRo
  else if n = 0x010 then some .uRo
  else if n = 0x011 ∨ n = 0x012 then some .uRoPRw
  else if 0x013 ≤ n ∧ n ≤ 0x017 then some .uRo
  else if 0x020 ≤ n ∧ n ≤ 0x02F then some .uRoPRw
  else if n = 0x080 then some .pRo
  else if 0x081 ≤ n ∧ n ≤ 0x086 then some .pRw
  else none

/-- Registers of context scope. -/
def csrOfContext (n : Nat) : Bool :=
  decide (n = 0x010 ∨ n = 0x012 ∨ n = 0x013 ∨ (0x020 ≤ n ∧ n ≤ 0x02F) ∨ (0x081 ≤ n ∧ n ≤ 0x086))

/-- `CFLAGS`: the flags that are set. -/
def cflagsOf (w : Warp) : Nat := ((List.range 12).map fun f => if bmGet w.fcount f = 0#6 then 0 else 2 ^ f).sum

/-- The physical bank behind a logical local-store bank of a logical core (R25). -/
def lcoreBank? (s : State) (lk b : Nat) : Option Nat := (leadersOn s lk).findSome? fun e => if e.2.done then none else tblGet? e.2.lsMap b

/-- `BROLE0`, `BROLE1`: roles of 32 logical banks from the one given. -/
def broleOf (s : State) (lk b0 : Nat) : Nat :=
  ((List.range 32).map fun k => match lcoreBank? s lk (b0 + k) with
    | some p => (bmGet (pcoreAt s (coreOfL s lk)).role p).toNat * 4 ^ k
    | none => 0).sum

/-- `BRPEND`. -/
def brpendOf (s : State) (lk : Nat) : Nat :=
  ((List.range 64).map fun b => match lcoreBank? s lk b with
    | some p => if (tblGet? (pcoreAt s (coreOfL s lk)).pend p).isSome then 2 ^ b else 0
    | none => 0).sum

/-- `ACMAP`: logical banks that the context holds on the core. -/
def acmapOf (s : State) (lk : Nat) : Nat :=
  ((List.range 32).map fun b => if (leadersOn s lk).any fun e => (tblGet? e.2.banks b).isSome then 2 ^ b else 0).sum

/-- A register of context scope of a part. -/
def partCsr (s : State) (part n : Nat) : Nat :=
  let p := partOf s part
  if n = 0x010 then p.ctxid
  else if n = 0x012 then (if (ctxOf s (part / 8192)).prio then 1 else 0)
  else if n = 0x013 then p.savecost.toNat
  else if 0x020 ≤ n ∧ n ≤ 0x02F then (timelineOf s (part / 8192) (n - 0x020)).value
  else if n = 0x081 then p.savebase.toNat
  else if n = 0x082 then p.ptbase.toNat
  else if n = 0x083 then p.gazbase.toNat
  else if n = 0x084 then p.clrbase.toNat
  else if n = 0x085 then p.fqbase.toNat
  else p.aqbase.toNat

/-- A register of a member's own. What `SLOTID` and `LANEID`[7:6] read in a sequencer instance the spec does not give: `SLOTID` reads
0x7F, the number that records use for it, and the quarter reads 0 (DESIGN CHOICE, log 47). -/
def ownCsr (s : State) (m : Member) (n : Nat) : Nat :=
  let w := warpOf s m.warp
  let g := wgOfWarp s m.warp
  if n = 0x000 then w.fpctl.toNat
  else if n = 0x001 then (thrOf s m).fpst.toNat
  else if n ≤ 0x005 then (bmGet w.nfmt (n - 2)).toNat
  else if n = 0x006 then cflagsOf w
  else if n = 0x007 then w.wbase
  else if n = 0x008 then g.cbase
  else if n = 0x009 then w.nv + w.ns * 2 ^ 10 + w.nt * 2 ^ 17
  else if n = 0x00A then m.lane + 64 * (if g.seqi then 0 else w.slot / 24)
  else if n = 0x00B then w.slot
  else if n = 0x00C then lkPlace g.lcore
  else if n = 0x011 then w.ident.toNat
  else if n = 0x014 then acmapOf s g.lcore
  else if n = 0x015 then broleOf s g.lcore 0
  else if n = 0x016 then broleOf s g.lcore 32
  else if n = 0x017 then brpendOf s g.lcore
  else if n = 0x080 then physloc (coreOfL s g.lcore)
  else partCsr s (lkPart g.lcore) n

/-! ### Targets and checks (R333, R43) -/

def csrNum (x : Src) : Nat := (lo32 x.a).toNat % 4096
def csrTarget (x : Src) : Nat := (lo32 x.a).toNat / 4096 % 2 ^ 17

/-- The part that a target names: the issuer's own for 0. -/
def csrPart? (s : State) (m : Member) (x : Src) : Option Nat :=
  let own := partOfWarp s m.warp
  if csrTarget x = 0 then some own else partByCtxid? s (partOf s own).pkg (csrTarget x - 1)

/-- The checks that reads and writes share. -/
def csrFail (write : Bool) (s : State) (m : Member) (x : Src) : Option Fail :=
  let bad (c : Cause) : Option Fail := some { order := 21, cause := c }
  let priv := isPriv s m.warp
  if csrTarget x ≠ 0 ∧ !priv then bad .privilege
  else if 65536 < csrTarget x ∨ (lo32 x.a).toNat / 2 ^ 29 ≠ 0 then bad .illegalEncoding
  else match csrAccess (csrNum x) with
    | none => bad .illegalEncoding
    | some acc =>
      match csrPart? s m x with
      | none => bad .access
      | some part =>
        if part ≠ partOfWarp s m.warp ∧ !csrOfContext (csrNum x) then bad .access
        else match acc, priv, write with
          | .uRw, _, _ => none
          | .uRo, _, true => bad .illegalEncoding
          | .uRo, _, false => none
          | .uRoPRw, false, true => bad .privilege
          | .uRoPRw, _, _ => none
          | .pRw, false, _ => bad .privilege
          | .pRw, true, _ => none
          | .pRo, false, _ => bad .privilege
          | .pRo, true, true => bad .illegalEncoding
          | .pRo, true, false => none

/-- A value that a register refuses: a reserved bit, or a field outside its range (R43, R45, R46, R123, R311, R340, R347). -/
def csrValueBad (n v : Nat) : Option Cause :=
  let log := v % 32
  let base := v / 4096 % 2 ^ 39
  if n = 0x000 then (if fpctlReserved v then some .reservedField else none)
  else if n = 0x001 then (if v / 64 ≠ 0 then some .reservedField else none)
  else if n ≤ 0x005 then
    (if v / 65536 ≠ 0 then some .reservedField else if v ≠ 0 ∧ !ndValid (BitVec.ofNat 16 v) then some .illegalEncoding else none)
  else if n = 0x011 then (if v / 2 ^ 32 ≠ 0 then some .reservedField else none)
  else if n = 0x012 then (if v / 2 ≠ 0 then some .reservedField else none)
  else if n = 0x081 then (if v / 2 ^ 51 ≠ 0 ∨ v % 4096 ≠ 0 then some .reservedField else none)
  else if n = 0x082 then (if v / 2 ^ 51 ≠ 0 ∨ v % 2 ^ 13 ≠ 0 then some .reservedField else none)
  else if n = 0x083 then (if v / 2 ^ 51 ≠ 0 ∨ v % 2 ^ 17 ≠ 0 then some .reservedField else none)
  else if 0x084 ≤ n ∧ n ≤ 0x086 then
    (if v / 2 ^ 51 ≠ 0 ∨ v / 32 % 128 ≠ 0 then some .reservedField
     else if n = 0x084 then (if 20 < log then some .illegalEncoding else none)
     else if log = 0 ∧ base = 0 then none
     else if log < 6 ∨ (if n = 0x085 then 20 else 24) < log then some .illegalEncoding
     else none)
  else none

/-- The checks of a write. -/
def csrwFail (s : State) (m : Member) (x : Src) : Option Fail :=
  match csrFail true s m x with
  | some f => some f
  | none =>
    match csrPart? s m x with
    | none => none
    | some part =>
      match csrValueBad (csrNum x) (lo64 x.d).toNat with
      | some c => some { order := 22, cause := c }
      | none =>
        if csrOfContext (csrNum x) && csrNum x != 0x012 && ctxRunning s (part / 8192) then some { order := 23, cause := .access } else none

/-! ### Writes -/

/-- The Gazetteer records of a part as its hall caches take them from the table (R109). -/
def loadGaz (s : State) (part : Nat) : State :=
  let p := partOf s part
  let base := gpOf p.pkg (p.gazbase.toNat % 2 ^ 51)
  updPart s part fun p =>
    { p with gaz := bmSetAll [] ((List.range 4096).map fun n => (n, BitVec.ofNat 256 (homeNat s (base + 32 * n) 32))) }

/-- A register of context scope written. -/
def writePartCsr (s : State) (part n v : Nat) : State :=
  let x := BitVec.ofNat 64 v
  if n = 0x012 then updCtx s (part / 8192) fun c => { c with prio := decide (v % 2 = 1) }
  else if 0x020 ≤ n ∧ n ≤ 0x02F then writeTmln s (part / 8192) (n - 0x020) v
  else if n = 0x081 then updPart s part fun p => { p with savebase := x }
  else if n = 0x082 then updPart s part fun p => { p with ptbase := x }
  else if n = 0x083 then loadGaz (updPart s part fun p => { p with gazbase := x }) part
  else if n = 0x084 then updPart s part fun p => { p with clrbase := x }
  else if n = 0x085 then updPart s part fun p => { p with fqbase := x }
  else updPart s part fun p => { p with aqbase := x }

/-- A register of warp scope written. -/
def writeWarpCsr (s : State) (w n v : Nat) : State :=
  if n = 0x000 then updWarp s w fun x => { x with fpctl := BitVec.ofNat 32 v }
  else if n = 0x011 then updWarp s w fun x => { x with ident := BitVec.ofNat 32 v }
  else updWarp s w fun x => { x with nfmt := bmSet x.nfmt (n - 2) (BitVec.ofNat 16 v) }

/-- One member's write, under its register's scope. -/
def csrWrite (act : List Member) (s : State) (m : Member) (x : Src) : State :=
  let n := csrNum x
  let v := (lo64 x.d).toNat
  if n = 0x001 then updThr s m fun t => { t with fpst := BitVec.ofNat 6 v }
  else if csrOfContext n then
    (if (thrOf s m).helper then s else match csrPart? s m x with
      | some part => writePartCsr s part n v
      | none => s)
  else if leadOf s act m.warp = some m then writeWarpCsr s m.warp n v
  else s

/-- `CSRR`: read once, by the leader of a replicated warp. -/
def execCsrr (p : BitVec 3) (d a : BitVec 7) (s : State) : Out :=
  readOnce (.csrr p d a) (csrFail false) (fun s m x => BitVec.ofNat 128 (match csrPart? s m x with
    | some part => if csrOfContext (csrNum x) then partCsr s part (csrNum x) else ownCsr s m (csrNum x)
    | none => 0)) s

def execCsrw (p : BitVec 3) (d a : BitVec 7) (s : State) : Out :=
  effectOp (.csrw p d a) csrwFail (fun s _ l => l.foldl (fun s e => csrWrite (l.map (·.1)) s e.1 e.2) s) s

/-- `IDENT_WRITE`: a is the warp, bits the value (R43). -/
def execIdentWrite (s : State) : Out :=
  if (tblGet? s.warps s.arg.a).isSome && isPriv s s.arg.a && (csrValueBad 0x011 (s.arg.bits.extractLsb' 0 64).toNat).isNone then
    .next (writeWarpCsr s s.arg.a 0x011 (s.arg.bits.extractLsb' 0 64).toNat)
  else .refused .notDue

/-- `NFMT_WRITE`: a is the warp, b the descriptor's number, bits the value; a refused value leaves the register (R123). -/
def execNfmtWrite (s : State) : Out :=
  let v := (s.arg.bits.extractLsb' 0 64).toNat
  if (tblGet? s.warps s.arg.a).isSome && decide (s.arg.b < 4) then
    .next (if (csrValueBad 0x002 v).isNone then writeWarpCsr s s.arg.a (2 + s.arg.b) v else s)
  else .refused .notDue

/-! ### `SETID` (R334) -/

def execSetid (p : BitVec 3) (d a : BitVec 7) (s : State) : Out :=
  effectOp (.setid p d a) noFail (fun s _ l =>
    let leads := (warpsIn (l.map (·.1))).filterMap fun w => l.find? fun e => e.1.warp == w && !(thrOf s e.1).helper
    let s1 := if d.getLsbD 0 then
        leads.foldl (fun s e => (wgOfWarp s e.1.warp).warps.foldl (fun s w => updWarp s w fun x => { x with ident := lo32 e.2.a }) s) s
      else s
    leads.foldl (fun s e => updWarp s e.1.warp fun x => { x with ident := lo32 e.2.a }) s1) s

/-! ### `TLBINV` and `CLRINV` (R335, R336) -/

/-- The fields of `TLBINV`'s control pair. -/
def tlbKind (x : Src) : Nat := (lo64 x.d).toNat % 4
def tlbCtx (x : Src) : Nat := (lo64 x.d).toNat / 65536 % 65536
def tlbPages (x : Src) : Nat := (lo64 x.d).toNat / 2 ^ 32

def tlbFail (_ : State) (_ : Member) (x : Src) : Option Fail :=
  let bad : Option Fail := some { order := 21, cause := .illegalEncoding }
  if (lo64 x.d).toNat / 4 % 2 ^ 14 ≠ 0 ∨ tlbKind x = 3 then bad
  else if tlbKind x = 1 then (if (lo64 x.a).toNat % 4096 ≠ 0 ∨ tlbPages x = 0 then bad else none)
  else if tlbPages x ≠ 0 then bad
  else none

/-- A cached translation overlaps a request. -/
def tlbCovers (x : Src) (e : TlbEntry) : Bool :=
  if tlbKind x = 1 then overlaps e.vbase e.size ((lo64 x.a).toNat % 2 ^ 57) (tlbPages x * 4096) else true

/-- The translations of the issuer's package that a request covers leave the caches. -/
def tlbDrop (s : State) (m : Member) (x : Src) : State :=
  let pkg := (partOf s (partOfWarp s m.warp)).pkg
  { s with parts := tblMap s.parts fun _ p =>
      if p.pkg = pkg ∧ (tlbKind x = 2 ∨ p.ctxid = tlbCtx x) then 
        { p with tlb := p.tlb.filter fun e => !tlbCovers x e, tlbAway := p.tlbAway.filter fun e => !tlbCovers x e } else p }

/-- Members that drop what they name at their first try, and wait until the accesses before it are performed. -/
def drainOp (i : Instr) (fail : State → Member → Src → Option Fail) (drop : State → Member → Src → State) (s : State) : Out :=
  groupOp i .own noWait fail (fun s g l =>
    let first := (l.filter fun e => !(thrOf s e.1).helper).filter fun e => match (thrOf s e.1).wait with
      | .drained _ => false
      | _ => true
    let mark (m : Member) : Nat := match (thrOf s m).wait with
      | .drained n => n
      | _ => s.nextId
    let held := (l.filter fun e => !(thrOf s e.1).helper && !accessesDone s (mark e.1)).map fun e => (e.1, Wait.drained (mark e.1))
    let s1 := first.foldl (fun s e => drop s e.1 e.2) s
    (deferMembers (clearWaits s1 (l.map (·.1))) g held, [])) s

def execTlbinv (p : BitVec 3) (d a : BitVec 7) (s : State) : Out := drainOp (.tlbinv p d a) tlbFail tlbDrop s

def clrFail (_ : State) (_ : Member) (x : Src) : Option Fail :=
  if (lo32 x.a).toNat / 65536 ≠ 0 ∨ (lo32 x.d).toNat / 2 ^ 20 % 2 ^ 11 ≠ 0 then some { order := 21, cause := .illegalEncoding } else none

/-- The clearance answers of a context for one tag, or for every tag. -/
def clrDrop (s : State) (m : Member) (x : Src) : State :=
  let pkg := (partOf s (partOfWarp s m.warp)).pkg
  let d := (lo32 x.d).toNat
  { s with parts := tblMap s.parts fun _ p =>
      if p.pkg = pkg ∧ p.ctxid = (lo32 x.a).toNat then
        { p with clr := p.clr.filter fun e => !(decide (2 ^ 31 ≤ d) || e.2.1 == d % 2 ^ 20)
                 clrAway := p.clrAway.filter fun e => !(decide (2 ^ 31 ≤ d) || e.2.1 == d % 2 ^ 20) } else p }

def execClrinv (p : BitVec 3) (d a : BitVec 7) (s : State) : Out := drainOp (.clrinv p d a) clrFail clrDrop s

/-! ### `BANKROLE` (R337) -/

def roleFail (s : State) (_ : Member) (x : Src) : Option Fail :=
  let a := (lo32 x.a).toNat
  if a / 2 ^ 24 ≠ 0 then some { order := 21, cause := .illegalEncoding }
  else match ofPhysloc a with
    | none => some { order := 22, cause := .access }
    | some c => if (tblGet? s.pkgs (pcPkg c)).isNone then some { order := 22, cause := .access } else none

/-- Requests for the banks whose named role differs from their present one. -/
def roleRequests (s : State) (x : Src) : State :=
  match ofPhysloc (lo32 x.a).toNat with
  | none => s
  | some c =>
    updPcore s c fun p =>
      { p with pend := (List.range 64).foldl (fun t b =>
          let r := x.d.extractLsb' (2 * b) 2
          if r = 3#2 ∨ r = bmGet p.role b then t else tblSet t b (r, true)) p.pend }

def execBankrole (p : BitVec 3) (d a : BitVec 7) (s : State) : Out :=
  effectOp (.bankrole p d a) roleFail
    (fun s _ l => l.foldl (fun s e => if (thrOf s e.1).helper then s else roleRequests s e.2) s) s

/-! ### `RDCLK`, `RAND` and `TRAP` (R355, R358) -/

/-- Neither instruction runs in a deterministic grid. -/
def detFail (s : State) (m : Member) (_ : Src) : Option Fail := if isDet s m.warp then some { order := 21, cause := .access } else none

/-- The count that a selector names: a-cycles and c-cycles since reset, a-cycles for which the package has held the context. -/
def clockVal (s : State) (part sel : Nat) : Nat :=
  let t := s.clk - (pkgAt s (partOf s part).pkg).clk0
  if sel = 0 then t / 3 else if sel = 1 then t else (partOf s part).runClk / 3

def execRdclk (p : BitVec 3) (d a : BitVec 7) (s : State) : Out :=
  readOnce (.rdclk p d a) detFail (fun s m _ =>
    BitVec.ofNat 128 (clockVal s (partOfWarp s m.warp) (a.extractLsb' 0 2).toNat % 2 ^ 64)) s

/-- `RAND`: each member takes a free value of its own (log 10). -/
def execRand (p : BitVec 3) (d : BitVec 7) (s : State) : Out :=
  let i : Instr := .rand p d
  groupOp i .fwd noWait detFail (fun s _ l =>
    let vals := (List.range l.length).filterMap fun k => (l[k]?).map fun e =>
      (e.1, loadedVal s e.1 ((Config.entropy (s.free + k)).setWidth 128))
    let s1 := writeD { s with free := s.free + l.length } (shapeOf i).d vals
    (takeFwds (forwards s1 vals) (vals.map (·.1)), [])) s

/-- `TRAP` raises USER_TRAP after its effect, with the code of the lowest lane (R355). -/
def execTrap (p : BitVec 3) (a : BitVec 7) (s : State) : Out :=
  groupOp (.trap p a) .own noWait noFail (fun s _ l =>
    let ns := l.filter fun e => !(thrOf s e.1).helper
    (s, (warpsIn (ns.map (·.1))).filterMap fun w => (ns.find? fun e => e.1.warp == w).map fun e =>
      { warp := w, cause := .userTrap, lane := e.1.lane, info := (lo32 e.2.a).toNat % 65536 })) s

end Sys2Proof.Machine
end

