-- ==== Sys2Proof/Machine/Save.lean ====
section
/-! DEFINITION. The save area written and read (R47 to R50, R345 to R352): warp records with their restart extensions, holders'
records, core records, the list of engine operations, and the header. -/

namespace Sys2Proof.Machine

/-! ### Bitmaps and small parts -/

/-- A set of numbers as a little-endian bitmap of n bytes (R349). -/
def bitmap (n : Nat) (l : List Nat) : List Byte := leBytes n ((sortNat l).map fun i => 2 ^ i).sum

/-- The numbers below n that a bitmap holds. -/
def bitsIn (n v : Nat) : List Nat := (List.range n).filter fun i => decide (v / 2 ^ i % 2 = 1)

def pad64 (l : List Byte) : List Byte := l ++ List.replicate (align64 l.length - l.length) 0

/-- A warp and a holder, resident or saved. -/
def anyWarp (s : State) (w : Nat) : Warp := (tblGet? s.warps w).getD (tblGet s.savedWarps w)
def anyWg (s : State) (h : Nat) : Wg := (tblGet? s.wgs h).getD (tblGet s.savedWgs h)

/-! ### Warp records (R47, R345, R346) -/

/-- The code word at an address for a logical core: its copy of the line, or memory through the page tables (R216, R317). -/
def codeWord? (s : State) (lk va : Nat) : Option Word :=
  match translate s (lkPart lk) (va / 64 * 64) .fetch with
  | .error _ => none
  | .ok e =>
    match tblGet? (lcoreOf s lk).code (va / 64 * 64) with
    | some l => some (l.words.getD (va % 64 / 4) 0)
    | none => some (BitVec.ofNat 32 (leNat ((List.range 4).map fun j => homeByte s (physOf e va + j) e.key)))

/-- The lanes of a warp all stand at one clause entry whose header gives a LIVE below 96: allocation registers that are dead
there (R48). -/
def deadFrom (s : State) (x : Warp) : Option (Nat × Nat) :=
  match x.lanes with
  | [] => none
  | (_, t) :: _ =>
    if x.lanes.all fun e => e.2.pos == 0 && e.2.pc == t.pc then
      (match codeWord? s (anyWg s x.wg).lcore t.pc.toNat with
       | some h => if hdrLive h ≤ 95 then some (x.wbase + hdrLive h, min (x.wbase + 96) (topReg x)) else none
       | none => none)
    else none

/-- The dead registers of a warp. -/
def isDead (dead : Option (Nat × Nat)) (g : Nat) : Bool :=
  match dead with
  | some (lo, hi) => decide (lo ≤ g) && decide (g < hi)
  | none => false

/-- The RESUME byte of a lane. -/
def resumeByte (x : Warp) (t : Thread) : Nat :=
  let sleeping := match t.wait with
    | .sleep _ => true
    | _ => false
  t.pos % 16 + (if t.wait ≠ .none ∧ !sleeping then 16 else 0) + (if sleeping then 32 else 0) + (if x.trapped then 64 else 0)

/-- Remaining a-cycles of a lane's `SLEEP`. -/
def sleepRem (s : State) (t : Thread) : Nat :=
  match t.wait with
  | .sleep u => (u - s.clk + 2) / 3
  | _ => 0

/-- The matrix entries of a warp as a save lists them: its `MMA` and `MMASP` operations, the older first, then the `TLD` and `TST`
operations that the stop has abandoned, while there is room for two (DESIGN CHOICE, log 36). -/
def listedMats (s : State) (w : Nat) : List (Nat × MatOp) :=
  (matsOfWarp s w ++ s.mats.filter fun e => e.2.warp == w && decide (e.2.kind ≠ 0) && e.2.again).take 2

/-- A matrix entry (R346). The entry of an abandoned `TLD` or `TST` has DSEL[7] set over its tile number, FORM 1 or 2, the record's
number in CTL and the window's corner in BPAIR: the spec gives it no entry, and has it executed again on restore (R184; DESIGN
CHOICE, log 36). -/
def matBytes (o : MatOp) : List Byte :=
  leBytes 8 o.pc.toNat ++ leBytes 1 o.pos ++ leBytes 1 (if o.kind = 0 then o.form else o.kind) ++
  leBytes 1 (if o.kind = 0 then o.dsel else 128 + o.dsel % 8) ++ leBytes 1 o.g ++
  leBytes 4 (if o.kind = 0 then o.ctl.toNat else o.num) ++
  leBytes 8 o.bpair.toNat ++ leBytes 1 o.flags.toNat ++ leBytes 1 o.flag ++ leBytes 2 0 ++ leBytes 4 o.shape.toNat ++
  bitmap 8 o.members ++ leBytes 24 0

/-- The restart record of a warp. -/
def restartBytes (s : State) (w : Nat) : List Byte :=
  let x := anyWarp s w
  let lane (l : Nat) : Option Thread := tblGet? x.lanes l
  ((List.range 64).flatMap fun l => leBytes 1 (match lane l with | some t => resumeByte x t | none => 0)) ++
  leBytes 4 x.shape.toNat ++ leBytes 2 (s.loads.filter fun e => e.2.warp == w && e.2.load).length ++
  leBytes 1 (listedMats s w).length ++ leBytes 1 0 ++ ((List.range 12).flatMap fun f => leBytes 1 (bmGet x.fcount f).toNat) ++
  leBytes 4 0 ++ leBytes 8 x.trapSeq ++
  (List.range 32).flatMap fun k =>
    let b (l : Nat) : Nat := match lane l with | some t => (if t.pos = 0 then 0 else t.base / 32 % 16) | none => 0
    leBytes 1 (b (2 * k) + 16 * b (2 * k + 1))

/-- A warp record and its extension. -/
def warpBytes (s : State) (w : Nat) : List Byte :=
  let x := anyWarp s w
  let lane (l : Nat) : Option Thread := tblGet? x.lanes l
  let dead := deadFrom s x
  leBytes 2 x.nv ++ leBytes 1 x.ns ++ leBytes 1 x.nt ++ leBytes 2 x.wbase ++ leBytes 2 (cflagsOf x) ++ leBytes 4 x.fpctl.toNat ++
  ((List.range 4).flatMap fun k => leBytes 4 (bmGet x.nfmt k).toNat) ++ bitmap 8 (x.lanes.map (·.1)) ++
  bitmap 8 ((x.lanes.filter fun e => e.2.helper).map (·.1)) ++ leBytes 4 x.ident.toNat ++ leBytes 16 0 ++
  ((List.range 64).flatMap fun l => leBytes 8 (match lane l with | some t => t.pc.toNat | none => 0)) ++
  ((List.range 64).flatMap fun l => leBytes 4 (match lane l with | some t => t.fpst.toNat | none => 0)) ++
  ((List.range 64).flatMap fun l => leBytes 1 (match lane l with | some t => t.preds.toNat + 128 | none => 128)) ++
  restartBytes s w ++
  ((List.range 64).flatMap fun n => leBytes 4 (if n < x.ns then (bmGet x.sr n).toNat else 0)) ++ leBytes 768 0 ++
  ((List.range 64).flatMap fun l => (List.range x.nv).flatMap fun g =>
    leBytes 4 (if isDead dead g then 0 else (bmGet x.vr (g * 64 + l)).toNat)) ++
  ((List.range 64).flatMap fun l => leBytes 4 (match lane l with | some t => sleepRem s t | none => 0)) ++
  (match listedMats s w with
   | [] => leBytes 128 0
   | [a] => matBytes a.2 ++ leBytes 64 0
   | a :: b :: _ => matBytes a.2 ++ matBytes b.2) ++ leBytes 128 0

/-! ### Holders' records (R349, R50) -/

/-- A saved accumulator bank: elements, then generator words. -/
def bankBytes (b : Bank) : List Byte :=
  ((List.range 2048).flatMap fun k => leBytes 4 (bmGet b.data k).toNat) ++ (List.range 128).flatMap fun k => leBytes 4 (bmGet b.gens k).toNat

/-- Warps of a holder that are left, by index. -/
def wgWarps (s : State) (h : Wg) : List (Nat × Nat) :=
  let l := h.warps.map fun w => ((anyWarp s w).idx, w)
  (sortNat (l.map (·.1))).filterMap fun i => l.find? fun e => e.1 == i

/-- Barrier words: EXPECT, COUNT, zero, PHASE. -/
def barBytes (b : Barrier) : List Byte := leBytes 2 b.expect ++ leBytes 2 b.count ++ leBytes 4 0 ++ leBytes 8 b.phase

/-- The header of a holder's record; a warp that has ended has slot 0xFF. -/
def wgHeader (s : State) (h : Wg) : List Byte :=
  let ws := wgWarps s h
  let g := gridOf s h.grid
  leBytes 8 h.k.addr ++ leBytes 8 h.block ++ leBytes 8 g.num ++ leBytes 1 g.ctr ++ leBytes 1 ws.length ++
  leBytes 1 ((if h.seqi then 1 else 0) + (if h.held then 2 else 0) + (if ws.any fun e => (anyWarp s e.2).trapped then 4 else 0)) ++
  leBytes 5 0 ++ bitmap 4 (h.banks.map (·.1)) ++ bitmap 4 (h.rset.map (·.1)) ++
  ((List.range 16).flatMap fun i => leBytes 1 (match ws.find? fun e => e.1 == i with | some e => (anyWarp s e.2).slot | none => 0xFF)) ++
  leBytes 8 0 ++ ((List.range 16).flatMap fun k => barBytes (tblGet h.bars k)) ++
  (List.range 16).flatMap fun k => bitmap 128 ((tblGet h.bars k).pend.map (·.1)) ++ bitmap 128 (tblGet h.bars k).arrived

/-- A holder's whole record. -/
def wgBytes (s : State) (h : Wg) : List Byte :=
  wgHeader s h ++ pad64 (bmList h.scr 0 h.k.scratch) ++
  pad64 (bitmap ((h.k.scratch + 31) / 32) (h.full.map (·.1))) ++ bmList h.opb 0 (h.k.opbanks * 4096) ++
  (h.banks.flatMap fun e => bankBytes e.2) ++ (wgWarps s h).flatMap fun e => warpBytes s e.2

/-! ### A whole layout (R348, R349) -/

/-- What a save writes, by offset from its base, and where each record lies. -/
structure Layout where
  pos : Nat := 0x4000
  out : List (Nat × List Byte) := []
  cores : Tbl Nat := []
  wgs : Tbl Nat := []
  warps : Tbl Nat := []
deriving DecidableEq, Repr

/-- A holder's record laid out. -/
def layWg (s : State) (l : Layout) (h : Nat) : Layout :=
  let x := anyWg s h
  let b := wgBytes s x
  let ws := wgWarps s x
  { l with pos := l.pos + align64 b.length, out := l.out ++ [(l.pos, b)], wgs := tblSet l.wgs h l.pos,
           warps := (List.range ws.length).foldl (fun t i =>
             tblSet t (ws.getD i (0, 0)).2 (l.pos + wgWarpOff x.k (wgV x) x.banks.length i)) l.warps }

/-- A core record and its holders' records: the sequencer instances first. -/
def layCore (s : State) (lk : Nat) (hs : List Nat) (ev : List EvRec) (l : Layout) : Layout :=
  if hs.isEmpty ∧ ev.isEmpty then l
  else
    let order := (hs.filter fun h => (anyWg s h).seqi) ++ hs.filter fun h => !(anyWg s h).seqi
    let at_ := l.pos
    let l1 := order.foldl (fun l h => layWg s l h) { l with pos := l.pos + coreSize hs.length }
    let evs := ev.take 256
    let b := leBytes 2 (lk % 2048) ++ leBytes 2 hs.length ++ leBytes 4 evs.length ++ leBytes 56 0 ++ evs.flatMap eventBytes ++
      leBytes (16 * (256 - evs.length)) 0 ++ order.flatMap fun h => leBytes 8 (tblGet l1.wgs h)
    { l1 with out := l1.out ++ [(at_, b)], cores := tblSet l1.cores (lk % 2048) at_ }

/-- Holders of a logical core that a save takes: the leaders that have not retired, resident or saved. -/
def liveHolders (s : State) (lk : Nat) : List Nat := ((holdersOf s lk).filter fun e => !e.2.done).map (·.1)

/-- Logical cores of a part, in ascending number. -/
def lcoresOfPart (s : State) (part : Nat) : List Nat := (s.lcores.filter fun e => e.1 / 2048 == part).map (·.1)

/-- An entry of the engine-operation list (R350). -/
def opBytes (o : EngOp) : List Byte :=
  leBytes 8 o.num ++ leBytes 1 o.cmd ++ leBytes 1 o.ctr ++ leBytes 2 0 ++ leBytes 4 (lkPlace o.lcore) ++ leBytes 4 o.ident.toNat ++
  leBytes 1 o.slot ++ leBytes 3 0 ++ leBytes 8 o.progress ++ (List.range 64).map (fun k => o.block.getD k 0) ++ leBytes 32 0

/-- Operations of a part that are listed: those of every holder, or of the holders given. -/
def listedOps (s : State) (part : Nat) (hs : Option (List Nat)) : List EngOp :=
  (s.ops.filter fun e => e.2.part == part && decide (e.2.cmd < 5) && (match hs with | some l => l.contains e.2.wg | none => true)).map (·.2)

/-- The list of engine operations laid out behind the records: the layout, the list's offset and its length. -/
def layOps (ops : List EngOp) (l : Layout) : Layout × Nat × Nat :=
  let b := ops.flatMap opBytes
  ({ l with pos := l.pos + align64 b.length, out := l.out ++ [(l.pos, b)] }, l.pos, ops.length)

/-- The whole layout of a part: core records, then the list of engine operations, with the list's offset and length. -/
def layPart (s : State) (part : Nat) : Layout × Nat × Nat :=
  layOps (listedOps s part none)
    ((lcoresOfPart s part).foldl (fun l lk => layCore s lk (liveHolders s lk) (lcoreOf s lk).ev l) {})

/-- Base of the save area of a part. -/
def saveBase (p : Part) : Nat := gpOf p.pkg (p.savebase.toNat % 2 ^ 51)

/-- Offsets of the records of a part's logical cores, by number: those of a layout, and those that lie in the area already. -/
def coreTab (s : State) (part base : Nat) (l : Layout) : Tbl Nat :=
  l.cores.foldl (fun t e => tblSet t e.1 e.2)
    ((s.lcores.filter fun e => decide (e.1 / 2048 = part) && decide (base < e.2.image)).map fun e => (e.1 % 2048, e.2.image - base))

/-- The fields of the header that the device writes (R348), at a base, with the offsets of the core records by number and the place
and length of the list of engine operations. The timeline counters are the context's: they stand in the header of logical
package 0 alone (R238). -/
def putHeader (s : State) (part base used : Nat) (cores : Tbl Nat) (list : Nat × Nat) : State :=
  let c := ctxOf s (part / 8192)
  let s1 := putNat (putNat (putNat (putNat (putNat s base 4 1) (base + 4) 4 (partOf s part).ncores) (base + 0x10) 8 used)
    (base + 0x18) 8 c.faultSeq) (base + 0x20) 8 c.auditSeq
  let s2 := putNat (putNat (putNat s1 (base + 0x28) 4 c.atomFlags.toNat) (base + 0x2C) 4 list.2) (base + 0x30) 8 list.1
  let s3 := putHome s2 (base + 0x80) 0 (if part % 8192 = 0 then (List.range 16).flatMap fun k =>
      leBytes 8 (timelineOf s (part / 8192) k).value ++ leBytes 8 (timelineOf s (part / 8192) k).mark
    else leBytes 256 0)
  let s4 := putHome (putHome s3 (base + 0x54) 0 (leBytes 44 0)) (base + 0x180) 0 (leBytes 3712 0)
  putHome (putHome s4 (base + 0x1000) 0 ((List.range 1280).flatMap fun n => leBytes 8 ((tblGet? cores n).getD 0))) (base + 0x3800) 0
    (leBytes 2048 0)

/-- The records of a layout written at a base. -/
def putLayout (s : State) (base : Nat) (l : Layout) : State := l.out.foldl (fun s e => putHome s (base + e.1) 0 e.2) s



/-! ### Reading records back (R49, R352) -/

/-- A warp's threads as their record gives them. -/
def readLanes (s : State) (a : Nat) (age : Nat) : Tbl Thread :=
  let present := homeNat s (a + 0x1C) 8
  let helper := homeNat s (a + 0x24) 8
  (bitsIn 64 present).map fun l =>
    let r := homeNat s (a + 0x380 + l) 1
    let eb := homeNat s (a + 0x3E0 + l / 2) 1 / 16 ^ (l % 2) % 16
    let rem := homeNat s (a + 0x800 + 256 * homeNat s a 2 + 4 * l) 4
    (l, { pc := BitVec.ofNat 64 (homeNat s (a + 0x40 + 8 * l) 8), pos := r % 16, base := 32 * eb,
          helper := decide (helper / 2 ^ l % 2 = 1), preds := BitVec.ofNat 7 (homeNat s (a + 0x340 + l) 1),
          fpst := BitVec.ofNat 6 (homeNat s (a + 0x240 + 4 * l) 4),
          wait := if r / 32 % 2 = 1 then .sleep (s.clk + 3 * rem) else .none, age := age,
          stopped := decide (r / 64 % 2 = 1) })

/-- A map of 32-bit words read from memory. -/
def readWords (s : State) (a n : Nat) (key : Nat → Nat) : BMap 32 :=
  bmSetAll [] ((List.range n).map fun i => (key i, BitVec.ofNat 32 (homeNat s (a + 4 * i) 4)))

/-- A warp loaded from its record; registers that are dead at the clause entry where it stopped become zero (R48). -/
def readWarp (s : State) (x : Warp) (a : Nat) : Warp :=
  let v := homeNat s a 2
  let r := a + 0x380
  let y := { x with nv := v, ns := homeNat s (a + 2) 1, nt := homeNat s (a + 3) 1, wbase := homeNat s (a + 4) 2, lanes := readLanes s a s.nextId }
  let dead := deadFrom s y
  { y with
    fpctl := BitVec.ofNat 32 (homeNat s (a + 8) 4),
    nfmt := bmSetAll [] ((List.range 4).map fun k => (k, BitVec.ofNat 16 (homeNat s (a + 0xC + 4 * k) 4))),
    ident := BitVec.ofNat 32 (homeNat s (a + 0x2C) 4),
    sr := readWords s (a + 0x400) (homeNat s (a + 2) 1) id,
    vr := bmSetAll [] ((List.range 64).flatMap fun l => (List.range v).map fun g =>
      (g * 64 + l, if isDead dead g then 0 else BitVec.ofNat 32 (homeNat s (a + 0x800 + l * 4 * v + 4 * g) 4))),
    shape := BitVec.ofNat 32 (homeNat s (r + 0x40) 4),
    fcount := bmSetAll [] ((List.range 12).map fun f => (f, BitVec.ofNat 6 (homeNat s (r + 0x48 + f) 1))),
    trapSeq := homeNat s (r + 0x58) 8, trapped := decide (homeNat s (r + 0x58) 8 ≠ 0),
    stopAt := none, stopNow := false, halted := false, image := 0 }

/-- A barrier from its words and masks. -/
def readBar (s : State) (a k : Nat) : Barrier :=
  let b := a + 0x40 + 16 * k
  let phase := homeNat s (b + 8) 8
  let arrived := bitsIn 1024 (homeNat s (a + 0x140 + 256 * k + 128) 128)
  { expect := homeNat s b 2, count := homeNat s (b + 2) 2, phase := phase, arrived := arrived,
    pend := (bitsIn 1024 (homeNat s (a + 0x140 + 256 * k) 128)).map fun t => (t, if arrived.contains t then phase else phase - 1) }

/-- An accumulator bank from its record. -/
def readBank (s : State) (a : Nat) : Bank := { data := readWords s a 2048 id, gens := readWords s (a + 8192) 128 id }

/-- A holder loaded from its record; its physical numbers are given at its placement. A bank whose `ACFREE` still waits for an
operation at the stop is saved among the banks held, and the record has no bit for the wait: it returns as a bank that is held and
not freed (R50, R180; DESIGN CHOICE, log 37). -/
def readWg (s : State) (h : Wg) (a : Nat) : Wg :=
  let banks := bitsIn 32 (homeNat s (a + 0x20) 4)
  { h with
    held := decide (homeNat s (a + 0x1A) 1 / 2 % 2 = 1),
    bars := (List.range 16).foldl (fun t k => tblSet t k (readBar s a k)) [],
    scr := bmSetAll [] ((List.range h.k.scratch).map fun i => (i, BitVec.ofNat 8 (homeNat s (a + wgScrOff + i) 1))),
    full := bmSetAll [] ((bitsIn (h.k.scratch / 4) (homeNat s (a + wgFullOff h.k) ((h.k.scratch + 31) / 32))).map fun i => (i, 1)),
    opb := bmSetAll [] ((List.range (h.k.opbanks * 4096)).map fun i => (i, BitVec.ofNat 8 (homeNat s (a + wgOpOff h.k + i) 1))),
    banks := (List.range banks.length).foldl (fun t i => tblSet t (banks.getD i 0) (readBank s (a + wgBankOff h.k i))) [],
    image := 0 }

/-- The matrix entries of a warp as its extension gives them. -/
def readMats (s : State) (w : Nat) (x : Warp) (a : Nat) : List MatOp :=
  let ext := a + 0x800 + 256 * x.nv
  (List.range (min (homeNat s (a + 0x380 + 0x46) 1) 2)).map fun i =>
    let e := ext + 0x100 + 64 * i
    let d := homeNat s (e + 0x0A) 1
    let form := homeNat s (e + 9) 1
    let ctl := BitVec.ofNat 32 (homeNat s (e + 0x0C) 4)
    let kind := if 128 ≤ d then (if form = 2 then 2 else 1) else 0
    let dsel := if 128 ≤ d then d % 8 else d
    let num := if 128 ≤ d then ctl.toNat else (mmaRec x (BitVec.ofNat 7 dsel)).getD 0
    { wg := x.wg, warp := w, kind := kind, nfA := nfmtOf x (ctlNfa ctl), nfB := nfmtOf x (ctlNfb ctl),
      pc := BitVec.ofNat 64 (homeNat s e 8), pos := homeNat s (e + 8) 1, form := form, dsel := dsel,
      g := homeNat s (e + 0x0B) 1, ctl := ctl, bpair := BitVec.ofNat 64 (homeNat s (e + 0x10) 8),
      flags := BitVec.ofNat 5 (homeNat s (e + 0x18) 1), flag := homeNat s (e + 0x19) 1, shape := BitVec.ofNat 32 (homeNat s (e + 0x1C) 4),
      members := bitsIn 64 (homeNat s (e + 0x20) 8), ident := x.ident, num := num, again := true, trapped := x.trapped }

/-- The zero fields of a matrix entry (R346). -/
def matEntryOk (s : State) (e : Nat) : Bool :=
  decide (homeNat s (e + 9) 1 < 8) && decide (homeNat s (e + 0x18) 1 < 32) && homeNat s (e + 0x1A) 2 == 0 && homeNat s (e + 0x28) 24 == 0

/-- The registers of a record have no reserved bit set (R6, R43, R45, R46, R123, R311). -/
def savedCsrsOk (s : State) (a : Nat) : Bool :=
  decide (homeNat s (a + 6) 2 < 4096) && (csrValueBad 0 (homeNat s (a + 8) 4)).isNone &&
  ((List.range 4).all fun n => decide (homeNat s (a + 0xC + 4 * n) 4 < 65536)) &&
  (List.range 64).all fun l => (csrValueBad 1 (homeNat s (a + 0x240 + 4 * l) 4)).isNone

/-- The checks of a warp record before anything is loaded (R49, R345): V, S and T as the header requests, reserved bytes and fields
zero. -/
def warpRecordOk (s : State) (k : Khdr) (seqi : Bool) (a : Nat) : Bool :=
  let r := a + 0x380
  let x := a + 0x800 + 256 * k.v
  savedCsrsOk s a && decide (homeNat s (r + 0x46) 1 ≤ 2) && matEntryOk s (x + 0x100) && matEntryOk s (x + 0x140) &&
  homeNat s a 2 == k.v && homeNat s (a + 2) 1 == k.s && homeNat s (a + 3) 1 == (if seqi then 0 else k.t) &&
  homeNat s (a + 0x30) 16 == 0 && homeNat s (a + 0x500) 768 == 0 && homeNat s (a + 0x400 + 4 * k.s) (256 - 4 * k.s) == 0 &&
  homeNat s (r + 0x47) 1 == 0 && homeNat s (r + 0x54) 4 == 0 &&
  ((List.range 64).all fun l => decide (homeNat s (r + l) 1 < 128)) &&
  homeNat s (a + 0x800 + 256 * k.v + 0x180) 128 == 0

/-- The checks of a holder's record. -/
def wgRecordOk (s : State) (k : Khdr) (a : Nat) : Bool :=
  let modes := homeNat s (a + 0x1A) 1
  let seqi := decide (modes % 2 = 1)
  let banks := (bitsIn 32 (homeNat s (a + 0x20) 4)).length
  decide (modes < 8) && homeNat s (a + 0x1B) 5 == 0 && homeNat s (a + 0x38) 8 == 0 && decide (homeNat s (a + 0x19) 1 ≤ 16) &&
  ((List.range 16).all fun n => homeNat s (a + 0x40 + 16 * n + 4) 4 == 0) &&
  (List.range (homeNat s (a + 0x19) 1)).all fun i => warpRecordOk s k seqi (a + wgWarpOff k k.v banks i)

/-- The event queue of a core record. -/
def readEvents (s : State) (a : Nat) : List EvRec :=
  (List.range (min (homeNat s (a + 4) 4) 256)).map fun i =>
    let e := a + 0x40 + 16 * i
    { kind := homeNat s e 1, cause := homeNat s (e + 1) 1, ctr := homeNat s (e + 2) 1, source := homeNat s (e + 4) 4,
      value := homeNat s (e + 8) 8 }

end Sys2Proof.Machine
end

