-- ==== Sys2Proof/Machine/Trap.lean ====
section
/-! DEFINITION. Answers to fault records: `ERET` (R353, R356, R408, R409), and the writing of held records (R341). -/

namespace Sys2Proof.Machine

/-! ### `ERET` on a saved warp (R353) -/

/-- Lanes of a warp that a mask names. -/
def lanesIn (x : Warp) (lanes : Nat) : List Nat := x.lanes.filterMap fun e => if lanes / 2 ^ e.1 % 2 = 1 then some e.1 else none

/-- MODES [2] of a saved holder as its saved warps stand. -/
def imageModes (s : State) (h : Nat) : State :=
  let g := tblGet s.savedWgs h
  let any := g.warps.any fun w => (savedWarp s w).trapped
  putNat s (g.image + 0x1A) 1 ((if g.seqi then 1 else 0) + (if g.held then 2 else 0) + (if any then 4 else 0))

/-- The present and helper masks of a saved warp as its lanes stand. -/
def imageMasks (s : State) (w : Nat) : State :=
  let x := savedWarp s w
  putHome (putHome s (x.image + 0x1C) 0 (bitmap 8 (x.lanes.map (·.1)))) (x.image + 0x24) 0
    (bitmap 8 ((x.lanes.filter fun e => e.2.helper).map (·.1)))

def updSaved (s : State) (w : Nat) (f : Warp → Warp) : State := { s with savedWarps := tblUpd s.savedWarps w f }

/-- The lanes of a saved warp are no longer trapped, in its table entry and in its image. -/
def imageResume (s : State) (w : Nat) : State :=
  let a := (savedWarp s w).image + 0x380
  let s1 := (savedWarp s w).lanes.foldl (fun s e => putNat s (a + e.1) 1 (homeNat s (a + e.1) 1 % 64)) (putNat s (a + 0x58) 8 0)
  updSaved s1 w fun x => { x with trapped := false, trapSeq := 0, lanes := tblMap x.lanes fun _ t => { t with stopped := false } }

/-- A lane of a saved warp is to resume at a PC with POS 0. -/
def imageLaneAt (s : State) (w l : Nat) (pc : Pair) : State :=
  let a := (savedWarp s w).image
  let eb := homeNat s (a + 0x3E0 + l / 2) 1
  let s1 := putNat (putNat s (a + 0x40 + 8 * l) 8 pc.toNat) (a + 0x380 + l) 1 0
  let s2 := putNat s1 (a + 0x3E0 + l / 2) 1 (if l % 2 = 0 then eb / 16 * 16 else eb % 16)
  updSaved s2 w fun x => { x with lanes := tblUpd x.lanes l fun t => { t with pc := pc, pos := 0, base := 0, wait := .none } }

/-- Lanes of a saved warp end: they leave its masks, and what follows from their end is done at the restore. -/
def imageEnd (s : State) (w : Nat) (ls : List Nat) : State :=
  imageMasks (updSaved s w fun x => dropHelpers { x with lanes := x.lanes.filter fun e => !ls.contains e.1 }) w

/-- The return from a trap applied to the image of a saved warp. -/
def imageEret (s : State) (w action : Nat) (pc : Pair) (lanes : Nat) : State :=
  let sel := lanesIn (savedWarp s w) lanes
  let s1 := imageResume s w
  let s2 :=
    if action = 1 then sel.foldl (fun s l => imageLaneAt s w l pc) s1
    else if action = 2 then imageEnd s1 w sel
    else s1
  imageModes s2 (savedWarp s w).wg

/-! ### Staging records (R409) -/

/-- Every thread of a holder and its replicas ends at ENTRY. -/
def endStaged (s : State) (h : Nat) : State :=
  let ws := (wgMates s h).flatMap fun x => (wgOf s x).warps
  ws.foldl (fun s w => (lanesWhere s w fun _ => true).foldl endThread s) (ws.foldl resumeOne s)

/-- The answer of a staging record while its holder is saved: the retry is made when the holder is placed again. -/
def savedStaging (s : State) (h action : Nat) : State :=
  let g := tblGet s.savedWgs h
  let s1 := g.warps.foldl (fun s w =>
    if action = 2 then imageEnd (imageResume s w) w ((savedWarp s w).lanes.map (·.1)) else imageResume s w) s
  imageModes { s1 with savedWgs := tblUpd s1.savedWgs h fun y => { y with staging := if action = 2 then none else some 0 } } h

/-! ### Frozen partitions (R279) -/

/-- A frozen partition of a part resumes: its warps leave their stop, unless the whole part stops. -/
def thawDie (s : State) (part die : Nat) : State :=
  let s1 := updPart s part fun p =>
    { p with frozenDies := p.frozenDies.filter (· != die), lastEvent := tblSet p.lastEvent die s.clk }
  let p := partOf s1 part
  if p.frozen || p.stopReq || p.idle then s1 else (warpsOnDie s1 part die).foldl resumeWarp s1

/-! ### `ERET` (R356) -/

/-- The answer of a record under which something waits: the state after it, and D. -/
def answerAwait (s : State) (part : Nat) (a : Await) (action : Nat) (pc : Pair) (lanes : Nat) : State × Nat :=
  match a with
  | .warp w =>
    if action = 3 then (s, 2)
    else (if isSaved s w then imageEret s w action pc lanes else eretWarp s w action pc lanes, 0)
  | .staging h =>
    if action = 1 ∨ action = 3 then (s, 2)
    else if (tblGet? s.savedWgs h).isSome then (savedStaging s h action, 0)
    else (if action = 0 then stageHolder s h else endStaged s h, 0)
  | .stall die => if action = 0 then (thawDie s part die, 0) else (s, 2)
  | .posted id =>
    if action = 0 then ({ s with atoms := tblUpd s.atoms id fun x => { x with posted := some 0 } }, 0)
    else if action = 3 then (dropPosted s id, 0)
    else (s, 2)
  | .engine id => if action = 0 then (resumeOp s id, 0) else if action = 3 then (dropOp s id, 0) else (s, 2)
  | .matrix id => if action = 0 then (updMat s id fun o => { o with stall := none }, 0) else (s, 2)

/-- One resume block performed on a package. -/
def eretBlock (s : State) (pkg : Nat) (b : List Byte) : State × Nat :=
  match partByCtxid? s pkg (bNat b 8 2) with
  | none => (s, 1)
  | some k =>
    match (partOf s k).awaits.find? fun e => e.1 == bNat b 0 8 with
    | none => (s, 1)
    | some (seq, a) =>
      let r := answerAwait (dropAwait s k seq) k a (bNat b 0x0A 1) (BitVec.ofNat 64 (bNat b 0x10 8)) (bNat b 0x18 8)
      if r.2 = 0 then r else (s, r.2)

/-- The checks of a resume block: it is read as loads of the member. -/
def eretFail (s : State) (m : Member) (x : Src) : Option Fail :=
  let va := (lo64 x.a).toNat
  if va % 32 ≠ 0 then some { order := 21, cause := .misaligned, addr := va }
  else if takesForward s m then none
  else match accessFail s m va 32 .load with
    | some f => some f
    | none =>
      let b := readGlobal s m va 32
      if bNat b 0x0B 5 ≠ 0 then some { order := 40, cause := .reservedField }
      else if 4 ≤ bNat b 0x0A 1 then some { order := 41, cause := .illegalEncoding }
      else none

/-- A resume block is awaited as a plain load is (R210, R227, R398). -/
def eretWait (s : State) (m : Member) (x : Src) : Option Wait :=
  let va := (lo64 x.a).toNat
  match laterWait s m x with
  | some w => some w
  | none =>
    if takesForward s m || decide (va % 32 ≠ 0) || (accessFail s m va 32 .load).isSome then none
    else blockWait s m ((List.range 4).map fun k => va + 8 * k)

/-- One member's `ERET`; a replica that does not lead takes the leader's result. -/
def eretMember (s : State) (m : Member) (x : Src) : State × Nat :=
  if takesForward s m then (takeFwd s m, ((fwdVal? s m).getD 0).toNat)
  else
    let va := (lo64 x.a).toNat
    let r := eretBlock (keepLoad s (accessTrace s m va .load 0) m va 32) (partOf s (partOfWarp s m.warp)).pkg (readGlobal s m va 32)
    (forward r.1 m (BitVec.ofNat 128 r.2), r.2)

/-- Members performed in ascending lane order, each with its D. -/
def eretMembers : List (Member × Src) → State → State × List (Member × Val)
  | [], s => (s, [])
  | e :: t, s =>
    let r := eretMember s e.1 e.2
    let q := eretMembers t r.1
    (q.1, (e.1, BitVec.ofNat 128 r.2) :: q.2)

def execEret (p : BitVec 3) (d a : BitVec 7) (s : State) : Out :=
  groupOp (.eret p d a) .ret eretWait eretFail
    (fun s _ l =>
      let r := eretMembers (l.filter fun e => !(thrOf s e.1).helper) s
      (writeD r.1 (shapeOf (.eret p d a)).d r.2, [])) s

/-! ### `HELD_FAULT_RECORD_WRITE` (R341) -/

/-- The oldest held record of a part finds room. -/
def heldRoom (s : State) (k : Nat) : Bool :=
  match (partOf s k).held with
  | [] => false
  | _ :: _ => decide (faultFree s (partOf s k) ≠ 0)

/-- The oldest held record of a part is written, as far as there is room. -/
def writeHeld (s : State) (k : Nat) : State :=
  match (partOf s k).held, faultQueue? (partOf s k) with
  | (r, n) :: t, some (b, size) =>
    let m := min (faultFree s (partOf s k)) ((faultSlots r).length - n)
    putHeldCount (updPart (putSlots s b size (((faultSlots r).drop n).take m)) k fun p =>
      { p with held := if n + m = (faultSlots r).length then t else (r, n + m) :: t }) k
  | _, _ => s

/-- `HELD_FAULT_RECORD_WRITE`: a is the part of the context. -/
def execHeldFaultRecordWrite (s : State) : Out :=
  if heldRoom s s.arg.a then .next (writeHeld s s.arg.a) else .refused .notDue

end Sys2Proof.Machine
end

