-- ==== Sys2Proof/Machine/Contexts.lean ====
section
/-! DEFINITION. Contexts stopped, saved, restored and placed again: `SAVECTX`, `HALT`, `RESTCTX` (R357), the placement of saved
logical cores (R21, R24, R25, R352), and the vacating of reserved cores (R258). -/

namespace Sys2Proof.Machine

/-! ### Stopping a part -/

/-- Every warp of a part is asked to stop, and nothing more is placed in it. -/
def stopPart (s : State) (part : Nat) : State :=
  requestStops (updPart s part fun p => { p with stopReq := true }) (warpsOfPart s part)

def partStopped (s : State) (part : Nat) : Bool := (partOf s part).stopReq && allHalted s (warpsOfPart s part)

/-- A part is left frozen in place (R357). -/
def freezePart (s : State) (part : Nat) : State := updPart s part fun p => { p with frozen := true, stopReq := false }

/-- Every warp of a frozen part resumes. -/
def thawPart (s : State) (part : Nat) : State :=
  (warpsOfPart s part).foldl resumeWarp (updPart s part fun p =>
    { p with frozen := false, frozenDies := [], stopReq := false,
             awaits := p.awaits.filter fun e => match e.2 with | .stall _ => false | _ => true })

/-! ### Saving -/

/-- A holder that is saved already, as its image now stands: returns and aperture writes have landed in it (R32). -/
def refreshSaved (s : State) (h : Nat) : State :=
  let g := tblGet s.savedWgs h
  let g' := { readWg s g g.image with image := g.image }
  g.warps.foldl (fun s w => updSaved s w fun x => { readWarp s x x.image with image := x.image, lanes := tblMap (readLanes s x.image 0) fun l t =>
      { t with wait := (tblGet x.lanes l).wait } })
    { s with savedWgs := tblSet s.savedWgs h g' }

/-- The event queue of a logical core as its image now stands. -/
def refreshEvents (s : State) (lk : Nat) : State :=
  if (lcoreOf s lk).image = 0 then s else updLcore s lk fun c => { c with ev := readEvents s c.image }

def savedOn (s : State) (lk : Nat) : List Nat := (s.savedWgs.filter fun e => e.2.lcore == lk).map (·.1)

def refreshPart (s : State) (part : Nat) : State :=
  (lcoresOfPart s part).foldl (fun s lk => (savedOn s lk).foldl refreshSaved (refreshEvents s lk)) s

/-- A holder gives its banks and slots to others; its contents stay in its record. -/
def leaveCore (s : State) (h : Nat) : State :=
  let s1 := (wgOf s h).warps.foldl dropFromQuarter s
  updPcore s1 (coreOfWg s h) fun p => { p with bank := p.bank.filter fun e => e.2 != h, acc := p.acc.filter fun e => e.2 != h }

/-- A replica that does not lead disappears with what it has pending (R376). -/
def dropReplica (s : State) (h : Nat) : State :=
  let ws := (wgOf s h).warps
  let s1 := leaveCore s h
  { s1 with wgs := tblDel s1.wgs h, warps := ws.foldl tblDel s1.warps, loads := s1.loads.filter fun e => !ws.contains e.2.warp,
            mats := s1.mats.filter fun e => !ws.contains e.2.warp }

/-- A resident holder becomes a saved one: its records lie at a base plus the offsets of a layout. -/
def moveOut (s : State) (base : Nat) (l : Layout) (h : Nat) : State :=
  let mates := (wgMates s h).filter (· != h)
  let s1 := mates.foldl dropReplica (leaveCore s h)
  let g := wgOf s1 h
  let at_ (t : Tbl Nat) (i : Nat) : Nat := base + (tblGet? t i).getD 0
  let listed := g.warps.flatMap fun w => (listedMats s1 w).map (·.1)
  { s1 with
    wgs := tblDel s1.wgs h, savedWgs := tblSet s1.savedWgs h { g with image := at_ l.wgs h }
    warps := g.warps.foldl tblDel s1.warps
    savedWarps := g.warps.foldl (fun t w => tblSet t w { warpOf s1 w with image := at_ l.warps w, fwd := [], halted := true }) s1.savedWarps
    mats := s1.mats.filter fun e => !listed.contains e.1 }

/-- A holder that is saved already lies where a new layout puts it. -/
def moveSaved (s : State) (base : Nat) (l : Layout) (h : Nat) : State :=
  let at_ (t : Tbl Nat) (i : Nat) : Nat := base + (tblGet? t i).getD 0
  { s with savedWgs := tblUpd s.savedWgs h fun g => { g with image := at_ l.wgs h },
           savedWarps := (tblGet s.savedWgs h).warps.foldl (fun t w => tblUpd t w fun x => { x with image := at_ l.warps w }) s.savedWarps }

/-- A logical core leaves its physical core, with its event queue in its record. -/
def lcoreOut (s : State) (base : Nat) (l : Layout) (lk : Nat) : State :=
  updLcore s lk fun c =>
    match tblGet? l.cores (lk % 2048) with
    | some a => { c with pcore := none, waiting := true, image := base + a, ev := [], cons := [], code := [] }
    | none => { c with pcore := none, waiting := true, image := 0, cons := [], code := [] }

/-- Holders of a layout moved to the save area. -/
def takeOut (s : State) (base : Nat) (l : Layout) : State :=
  l.wgs.foldl (fun s e => if (tblGet? s.wgs e.1).isSome then moveOut s base l e.1 else moveSaved s base l e.1) s

/-- A stopped part is saved: its area is written and its cores are vacated; without room it is left frozen. Answers D (R357). -/
def savePart (s : State) (part : Nat) : State × Nat :=
  let s0 := refreshPart s part
  let base := saveBase (partOf s part)
  let (l, ops) := layPart s0 part
  if (partOf s part).savebase = 0 ∨ homeNat s (base + 8) 8 < l.pos then (freezePart s part, 2 ^ 64 - 1)
  else
    let s1 := putHeader (putLayout s0 base l) part base l.pos l.cores ops
    let s2 := (lcoresOfPart s1 part).foldl (fun s lk => lcoreOut s base l lk) (takeOut s1 base l)
    (updPart s2 part fun p => { p with saved := true, entered := false, frozen := false, frozenDies := [], stopReq := false, tlb := [], tlbAway := [], clr := [], clrAway := [],
                                       awaits := p.awaits.filter fun e => match e.2 with | .stall _ => false | _ => true }, l.pos)

/-! ### The instructions -/

def ctxNum (x : Src) : Nat := (lo32 x.a).toNat % 65536

/-- The part that an operand names on the issuer's package. -/
def ctxPart? (s : State) (m : Member) (x : Src) : Option Nat := partByCtxid? s (partOf s (partOfWarp s m.warp)).pkg (ctxNum x)

/-- The checks of R357; hi is the number of bits of a that may be set. -/
def ctxFail (hi : Nat) (s : State) (m : Member) (x : Src) : Option Fail :=
  if (lo32 x.a).toNat / 2 ^ hi ≠ 0 then some { order := 21, cause := .illegalEncoding }
  else match ctxPart? s m x with
    | none => some { order := 22, cause := .access }
    | some k => if k / 8192 = (warpOf s m.warp).ctx then some { order := 22, cause := .access } else none

/-- Members whose operation is done with their D, and members that wait, from the targets in order: a target's members share one
operation, and later targets wait behind one that is not stopped. -/
def ctxRun (step : State → Member → Src → State × Option Nat) (key : Src → Nat) :
    List (Member × Src) → Tbl Nat → Option Nat → State → State × List (Member × Val) × List (Member × Wait)
  | [], _, _, s => (s, [], [])
  | e :: t, done, stuck, s =>
    let k := key e.2
    let part := (ctxPart? s e.1 e.2).getD 0
    match stuck, tblGet? done k with
    | _, some v =>
      let r := ctxRun step key t done stuck s
      (r.1, (e.1, BitVec.ofNat 128 v) :: r.2.1, r.2.2)
    | some _, none =>
      let r := ctxRun step key t done stuck s
      (r.1, r.2.1, (e.1, .stopped part) :: r.2.2)
    | none, none =>
      match step s e.1 e.2 with
      | (s1, some v) =>
        let r := ctxRun step key t (tblSet done k v) none s1
        (r.1, (e.1, BitVec.ofNat 128 v) :: r.2.1, r.2.2)
      | (s1, none) =>
        let r := ctxRun step key t done (some k) s1
        (r.1, r.2.1, (e.1, .stopped part) :: r.2.2)

/-- An instruction on contexts: `step` performs the operation of a member, or answers none while the target still stops. -/
def ctxOp (i : Instr) (hi : Nat) (step : State → Member → Src → State × Option Nat) (s : State) : Out :=
  groupOp i .ret noWait (ctxFail hi)
    (fun s g l =>
      let ns := l.filter fun e => !(thrOf s e.1).helper
      let (led, own) := (ns.filter fun e => takesForward s e.1, ns.filter fun e => !takesForward s e.1)
      let r := ctxRun step (fun x => (lo32 x.a).toNat) own [] none (clearWaits s (l.map (·.1)))
      let vals := led.map fun e => (e.1, (fwdVal? s e.1).getD 0)
      let s1 := takeFwds (forwards (writeD r.1 (shapeOf i).d (vals ++ r.2.1)) r.2.1) (led.map (·.1))
      (deferMembers s1 g r.2.2, [])) s

/-- `HALT`: the target is stopped and left frozen. -/
def haltStep (s : State) (m : Member) (x : Src) : State × Option Nat :=
  let k := (ctxPart? s m x).getD 0
  if (partOf s k).saved || (partOf s k).frozen then (s, some 0)
  else if partStopped s k then (freezePart s k, some 0)
  else let s1 := stopPart s k; if partStopped s1 k then (freezePart s1 k, some 0) else (s1, none)

/-- `SAVECTX`: the target is stopped, unless it is frozen, and saved. -/
def saveStep (s : State) (m : Member) (x : Src) : State × Option Nat :=
  let k := (ctxPart? s m x).getD 0
  let s1 := if partStopped s k then s else stopPart s k
  if partStopped s1 k then let r := savePart s1 k; (r.1, some r.2) else (s1, none)

def execHalt (p : BitVec 3) (a : BitVec 7) (s : State) : Out := ctxOp (.halt p a) 16 haltStep s
def execSavectx (p : BitVec 3) (d a : BitVec 7) (s : State) : Out := ctxOp (.savectx p d a) 16 saveStep s

/-! ### `RESTCTX` MODE 1: the area read back (R352) -/

/-- A holder's record in an area: its logical core and its address. -/
structure RecAt where
  lk : Nat
  at_ : Nat
deriving DecidableEq, Repr

/-- The records that the core table of an area names. -/
def areaRecords (s : State) (part : Nat) : List RecAt :=
  let base := saveBase (partOf s part)
  (List.range (min (homeNat s (base + 4) 4) 1280)).flatMap fun n =>
    let c := homeNat s (base + 0x1000 + 8 * n) 8
    if c = 0 then [] else
      (List.range (min (homeNat s (base + c + 2) 2) 200)).map fun i =>
        { lk := lcoreKey part n, at_ := base + homeNat s (base + c + 0x1040 + 8 * i) 8 }

def recSeqi (s : State) (r : RecAt) : Bool := decide (homeNat s (r.at_ + 0x1A) 1 % 2 = 1)

/-- The saved holder that a record is of, among those that the state knows. -/
def knownHolder? (s : State) (r : RecAt) : Option Nat :=
  (s.savedWgs.find? fun e =>
    e.2.lcore == r.lk && e.2.seqi == recSeqi s r && decide ((gridOf s e.2.grid).num = homeNat s (r.at_ + 0x10) 8) &&
      decide ((gridOf s e.2.grid).ctr = homeNat s (r.at_ + 0x18) 1) && (e.2.seqi || decide (e.2.block = homeNat s (r.at_ + 8) 8))).map (·.1)

/-- The kernel header of a record: its holder's, or read through the page tables of its context. -/
def recKhdr? (s : State) (part : Nat) (r : RecAt) : Option Khdr :=
  let va := homeNat s r.at_ 8
  match knownHolder? s r with
  | some h => if (tblGet s.savedWgs h).k.addr = va then some (tblGet s.savedWgs h).k else none
  | none =>
    match translate s part va .load with
    | .ok e =>
      let b := (List.range 64).map fun k => homeByte s (physOf e va + k) e.key
      if va % 64 = 0 ∧ (khdrCause b).isNone then some (khdrOf va b) else none
    | .error _ => none

/-- A run of bytes of an area is zero (R6, R348 to R350). -/
def zeroAt (s : State) (a n : Nat) : Bool := homeNat s a n == 0

/-- The addresses of an area's list of engine operations. -/
def opEntries (s : State) (part : Nat) : List Nat :=
  let base := saveBase (partOf s part)
  (List.range (homeNat s (base + 0x2C) 4)).map fun i => base + homeNat s (base + 0x30) 8 + 128 * i

/-- The zero fields of an area's header, of its core records and of its list of engine operations (R6, R348 to R350). -/
def areaZeros (s : State) (part : Nat) : Bool :=
  let base := saveBase (partOf s part)
  zeroAt s (base + 0x54) 44 && zeroAt s (base + 0x180) 3712 && zeroAt s (base + 0x3800) 2048 &&
  ((List.range (min (homeNat s (base + 4) 4) 1280)).all fun n =>
    let c := homeNat s (base + 0x1000 + 8 * n) 8
    c == 0 || zeroAt s (base + c + 8) 56) &&
  (opEntries s part).all fun a => zeroAt s (a + 0x0A) 2 && zeroAt s (a + 0x15) 3 && zeroAt s (a + 0x60) 32

/-- Every record of an area passes its checks (R49, R345, R352). -/
def areaOk (s : State) (part : Nat) : Bool :=
  let base := saveBase (partOf s part)
  decide (homeNat s base 4 = 1) && decide (homeNat s (base + 4) 4 ≤ 1280) && areaZeros s part &&
  (areaRecords s part).all fun r => match recKhdr? s part r with
    | some k => wgRecordOk s k r.at_
    | none => false

/-- A grid that the state does not know, with the blocks of an area already started: the area holds no root state, so none of its
blocks is left to start as far as the area tells, as after a cancel that has reached every landing (DESIGN CHOICE, log 42). -/
def stubGrid (s : State) (part : Nat) (k : Khdr) (r : RecAt) : Grid :=
  { ctx := part / 8192, part := part, num := homeNat s (r.at_ + 0x10) 8, ctr := homeNat s (r.at_ + 0x18) 1, k := k, cohort := k.cohort,
    wx := 64 * homeNat s (r.at_ + 0x19) 1, cancelled := true }

/-- The grid of a record, made where the state has none; its block counts as started. -/
def recGrid (s : State) (part : Nat) (k : Khdr) (r : RecAt) : State × Nat :=
  match gridNamed? s (part / 8192) (homeNat s (r.at_ + 0x18) 1) (homeNat s (r.at_ + 0x10) 8) with
  | some g => (s, g)
  | none => ({ s with grids := s.grids ++ [(s.nextId, stubGrid s part k r)], nextId := s.nextId + 1 }, s.nextId)

/-- The warps of a record: index, slot and address. -/
def recWarps (s : State) (k : Khdr) (r : RecAt) : List (Nat × Nat × Nat) :=
  let idx := (List.range 16).filter fun i => decide (homeNat s (r.at_ + 0x28 + i) 1 ≠ 0xFF)
  let banks := (bitsIn 32 (homeNat s (r.at_ + 0x20) 4)).length
  (List.range (min idx.length (homeNat s (r.at_ + 0x19) 1))).map fun i =>
    (idx.getD i 0, homeNat s (r.at_ + 0x28 + idx.getD i 0) 1, r.at_ + wgWarpOff k k.v banks i)

/-- Reserved banks by logical number. -/
def recRset (s : State) (r : RecAt) : List Nat := bitsIn 32 (homeNat s (r.at_ + 0x24) 4)

/-- One saved warp entered from an area. -/
def enterWarp (s : State) (h : Nat) (e : Nat × Nat × Nat) : State :=
  let g := tblGet s.savedWgs h
  let id := s.nextId
  let x : Warp := { readWarp s { ctx := g.ctx, wg := h, idx := e.1, slot := e.2.1, pslot := e.2.1 } e.2.2 with image := e.2.2, halted := true }
  { s with savedWarps := s.savedWarps ++ [(id, x)], nextId := id + 1,
           savedWgs := tblUpd s.savedWgs h fun g => { g with warps := g.warps ++ [id] } }

/-- A holder entered from a record that the state does not know. A record holds no logical scratchpad or operand bank number, although a
restore keeps them (R25, R349): the model gives each such holder the first free runs of its logical core, in the order of the records
(DESIGN CHOICE, log 33). -/
def enterNew (s : State) (part : Nat) (k : Khdr) (r : RecAt) : State :=
  let (s1, gid) := recGrid s part k r
  let h := s1.nextId
  let rs := recRset s r
  let ws := recWarps s k r
  let ub := usedBanks s r.lk
  let b0 := (logicalRun ub 64 0 k.scrbanks).getD 0
  let o0 := (logicalRun (ub ++ (List.range k.scrbanks).map fun j => b0 + j) 64 0 k.opbanks).getD 0
  let g : Wg :=
    { ctx := part / 8192, grid := gid, block := homeNat s (r.at_ + 8) 8, lcore := r.lk, seqi := recSeqi s r, k := k,
      threads := if recSeqi s r then 1 else 64 * ws.length, rset := rs.map fun b => (b, b), cbase := k.constaddr, image := r.at_,
      scrBank := b0, opBank := o0, leader := if k.redun = 0 then 0 else h }
  let s2 : State := { s1 with savedWgs := s1.savedWgs ++ [(h, { readWg s g r.at_ with image := r.at_ })], nextId := h + 1 }
  let s3 := ws.foldl (fun s e => enterWarp s h e) s2
  updGrid s3 gid fun g => if recSeqi s r then { g with seqs := g.seqs ++ [h], seqAt := g.seqAt ++ [r.lk] }
    else if g.started.contains (homeNat s (r.at_ + 8) 8) then g else { g with started := g.started ++ [homeNat s (r.at_ + 8) 8], gx := max g.gx (g.started.length + 1) }

/-- A known holder entered from its record: it keeps its key and those of its warps. -/
def enterKnown (s : State) (h : Nat) (k : Khdr) (r : RecAt) : State :=
  let g := tblGet s.savedWgs h
  let ws := recWarps s k r
  let s1 : State := { s with savedWgs := tblSet s.savedWgs h { readWg s g r.at_ with image := r.at_ } }
  let s2 := g.warps.foldl (fun s w =>
    match ws.find? fun e => e.1 == (savedWarp s w).idx with
    | some e => updSaved s w fun x => { readWarp s x e.2.2 with image := e.2.2, halted := true, slot := e.2.1 }
    | none => { s with savedWarps := tblDel s.savedWarps w,
                       savedWgs := tblUpd s.savedWgs h fun y => { y with warps := y.warps.filter (· != w) } }) s1
  (ws.filter fun e => !(g.warps.any fun w => (savedWarp s w).idx == e.1)).foldl (fun s e => enterWarp s h e) s2

/-- Saved holders and logs of a part that its area does not hold are gone. -/
def dropUnknown (s : State) (part : Nat) : State :=
  let keep := (areaRecords s part).filterMap fun r => knownHolder? s r
  let out := (s.savedWgs.filter fun e => lkPart e.2.lcore == part && !keep.contains e.1).flatMap fun e => e.1 :: e.2.warps
  { s with savedWgs := s.savedWgs.filter fun e => !out.contains e.1, savedWarps := s.savedWarps.filter fun e => !out.contains e.2.wg,
           loads := s.loads.filter fun e => !out.contains e.2.warp, mats := s.mats.filter fun e => !out.contains e.2.wg }

/-- An operation that the state does not know, from its entry: its records are those that the Gazetteer now holds, and where its STATUS
stands is not in the entry (R243, R350; DESIGN CHOICE, log 30). -/
def entryOp (s : State) (part a : Nat) : EngOp :=
  let lk := placeLk (part / 8192) (homeNat s (a + 0x0C) 4)
  let slot := homeNat s (a + 0x14) 1
  let w := ((s.savedWarps.find? fun e => (tblGet s.savedWgs e.2.wg).lcore == lk && e.2.slot == slot).map (·.1)).getD 0
  let b := homeBytes s (a + 0x20) 64
  let cmd := homeNat s (a + 8) 1
  let rec_ (n : Nat) : TRec := bmGet (partOf s part).gaz (n % 4096)
  { ctx := part / 8192, part := part, wg := (savedWarp s w).wg, grid := (tblGet s.savedWgs (savedWarp s w).wg).grid, warp := w, lcore := lk,
    slot := slot, cmd := cmd, num := homeNat s a 8, ctr := homeNat s (a + 9) 1, block := b, cscope := bNat b 0 4 / 16 % 8,
    ident := BitVec.ofNat 32 (homeNat s (a + 0x10) 4), progress := homeNat s (a + 0x18) 8, listed := true,
    trec := if cmd = 0 then rec_ (sideRec (bNat b 0x30 2)) else rec_ (bNat b 0x2C 2),
    trec2 := rec_ (sideRec (bNat b 0x32 2)) }

/-- An entry of the list is of an operation that the state knows. -/
def entryIs (s : State) (part a : Nat) (o : EngOp) : Bool :=
  o.part == part && decide (o.num = homeNat s a 8) && decide (o.cmd = homeNat s (a + 8) 1) && decide (o.ctr = homeNat s (a + 9) 1)

/-- The engine operations of a part as the list of an area gives them (R243, R350). -/
def enterOps (s : State) (part : Nat) : State :=
  let es := opEntries s part
  let s1 : State := { s with ops := s.ops.filter fun e => e.2.part != part || decide (5 ≤ e.2.cmd) || es.any fun a => entryIs s part a e.2 }
  es.foldl (fun s a =>
    match s.ops.find? fun e => entryIs s part a e.2 with
    | some e => updOp s e.1 fun o =>
        { o with progress := homeNat s (a + 0x18) 8, ident := BitVec.ofNat 32 (homeNat s (a + 0x10) 4), stall := none }
    | none => { s with ops := s.ops ++ [(s.nextId, entryOp s part a)], nextId := s.nextId + 1 }) s1

/-- Counts of a flag of a saved warp that neither a pending return nor a matrix entry of it accounts for: its engine operations'. -/
def flagsLeft (s : State) (w f : Nat) : Nat :=
  let x := savedWarp s w
  let e := x.image + 0x900 + 256 * x.nv
  let listed := ((List.range (min (homeNat s (x.image + 0x3C6) 1) 2)).filter fun i => decide (homeNat s (e + 64 * i + 0x19) 1 = f)).length
  (bmGet x.fcount f).toNat - listed - (s.loads.filter fun l => l.2.warp == w && l.2.flag == f).length -
    (s.mats.filter fun m => m.2.warp == w && m.2.flag == f).length

/-- The flag counts of saved warps that stand for engine operations which only the list gives fall when those operations of the warp
are complete: an entry does not say which flag it holds (R243, R345, R350; DESIGN CHOICE, log 30). -/
def enterFlags (s : State) (part : Nat) : State :=
  (s.savedWarps.filter fun e => lkPart (tblGet s.savedWgs e.2.wg).lcore == part && decide (homeNat s (e.2.image + 0x3C4) 2 = 0)).foldl (fun s e =>
    (List.range 12).foldl (fun s f =>
      let n := flagsLeft s e.1 f
      { s with loads := s.loads ++ (List.range n).map fun i =>
                 (s.nextId + i, { warp := e.1, flag := f, load := false, part := part,
                                  waits := (s.ops.filter fun o => o.2.warp == e.1 && o.2.listed).map (·.1) }),
               nextId := s.nextId + n }) s) s

/-- Nothing of a part is resident. -/
def partVacant (s : State) (part : Nat) : Bool := s.wgs.all fun e => lkPart e.2.lcore != part || e.2.done

/-- The counters of a context as the header of its logical package 0 gives them (R238); a counter never falls while another part of the
context has work resident. -/
def enterCounters (s : State) (part : Nat) : State :=
  let base := saveBase (partOf s part)
  let alone := (partsOfCtx s (part / 8192)).all fun k => partVacant s k
  if part % 8192 ≠ 0 then s
  else (List.range 16).foldl (fun s k => updTimeline s (part / 8192) k fun t =>
    if alone ∨ (t.value ≤ homeNat s (base + 0x80 + 16 * k) 8 ∧ t.mark ≤ homeNat s (base + 0x88 + 16 * k) 8) then
      { t with value := homeNat s (base + 0x80 + 16 * k) 8, mark := homeNat s (base + 0x88 + 16 * k) 8 } else t) s

/-- Counters, sequence numbers and atomic flags of a context as the header of an area of one of its parts gives them. The sequence
numbers are the context's, and never fall; the flags are ORed to those of the context while another part has work resident
(DEDUCED from R230, R327 and R341, log 43). -/
def enterHeader (s : State) (part : Nat) : State :=
  let base := saveBase (partOf s part)
  let alone := (partsOfCtx s (part / 8192)).all fun k => partVacant s k
  let fl := BitVec.ofNat 5 (homeNat s (base + 0x28) 4)
  let s1 := updCtx s (part / 8192) fun c =>
    { c with faultSeq := max c.faultSeq (homeNat s (base + 0x18) 8), auditSeq := max c.auditSeq (homeNat s (base + 0x20) 8),
             atomFlags := if alone then fl else c.atomFlags ||| fl }
  enterCounters (updPart s1 part fun p =>
    { p with saved := false, entered := true, frozen := false, frozenDies := [], stopReq := false, lastEvent := tblMap p.lastEvent fun _ _ => s.clk }) part

/-- A saved holder stands trapped under a staging fault (R409): every warp of it is trapped under one SEQ at the entry with an untouched
scratchpad. The record holds no bit for it (DESIGN CHOICE, log 40). -/
def stagingSeq? (s : State) (h : Nat) : Option Nat :=
  let g := tblGet s.savedWgs h
  let entry := if g.seqi then g.k.seqentry else g.k.entry
  match g.warps with
  | [] => none
  | w :: _ =>
    let q := (savedWarp s w).trapSeq
    if (g.warps.all fun v => (savedWarp s v).trapped && decide ((savedWarp s v).trapSeq = q) &&
          (savedWarp s v).lanes.all fun e => decide (e.2.pc.toNat = entry) && decide (e.2.pos = 0)) && g.scr.isEmpty && g.full.isEmpty
    then some q else none

/-- Trapped saved warps of a part, and holders whose staging failed, await their answers (R353, R409). -/
def enterAwaits (s : State) (part : Nat) : State :=
  let hs := (s.savedWgs.filter fun e => lkPart e.2.lcore == part).map (·.1)
  let s1 := hs.foldl (fun s h => match stagingSeq? s h with
    | some q =>
      let s' : State := { s with savedWgs := tblUpd s.savedWgs h fun g => { g with staging := if g.staging = some 0 then g.staging else some q } }
      if (partOf s part).awaits.any fun a => a.1 == q then s' else addAwait s' part q (.staging h)
    | none => s) s
  (s1.savedWarps.filter fun e => lkPart (tblGet s1.savedWgs e.2.wg).lcore == part && e.2.trapped).foldl (fun s e =>
    if (partOf s part).awaits.any fun a => a.1 == e.2.trapSeq then s else addAwait s part e.2.trapSeq (.warp e.1)) s1

/-- The logical cores that an area names beyond those of the part: N is the saved NCORES, which migrating leaves unchanged, and N never
falls (R23, R348; DEDUCED, log 59). -/
def raiseCores (s : State) (part : Nat) : State :=
  let n := (partOf s part).ncores
  let m := homeNat s (saveBase (partOf s part) + 4) 4
  updPart { s with lcores := (List.range (m - n)).foldl (fun t i => tblSet t (lcoreKey part (n + i)) {}) s.lcores } part fun p =>
    { p with ncores := max n m }

/-- The logical cores of a part wait for placement, each with its record. -/
def enterCores (s : State) (part : Nat) : State :=
  let base := saveBase (partOf s part)
  (lcoresOfPart s part).foldl (fun s lk =>
    let c := homeNat s (base + 0x1000 + 8 * (lk % 2048)) 8
    updLcore s lk fun x => { x with pcore := none, waiting := true, image := if c = 0 then 0 else base + c, ev := if c = 0 then x.ev else [],
                                    cons := [], code := [] }) s

/-- The entries of a log in the pool (R351). -/
def readLog (s : State) (a : Nat) : List LogEntry :=
  (List.range (homeNat s a 8)).map fun j =>
    let e := a + 16 + 24 * j
    { va := homeNat s e 8, mask := homeNat s (e + 8) 1, kind := homeNat s (e + 9) 1, opc := homeNat s (e + 10) 1, data := homeBytes s (e + 16) 8 }

/-- The address of log i of a part's pool. -/
def poolAt (s : State) (part i : Nat) : Nat := gpOf (partOf s part).pkg ((logBase s part + i * logSize s part) % 2 ^ 51)

/-- The logs of the saved deterministic workgroups of a part as its pool gives them (R351). -/
def savedLogs (s : State) (part : Nat) : State :=
  let n := homeNat s (saveBase (partOf s part) + 0x44) 4
  { s with savedWgs := tblMap s.savedWgs fun _ g =>
      if lkPart g.lcore = part ∧ g.k.det ∧ !g.seqi then
        match (List.range n).find? fun i => decide (homeNat s (poolAt s part i + 8) 8 = g.block) && (g.logIx == some i || g.logIx.isNone) with
        | some i => { g with logIx := some i, log := readLog s (poolAt s part i) }
        | none => g
      else g }

/-- A log with entries that no holder of a part claims is that of a workgroup which had retired: it waits, without warps, for its log to be
applied. A log does not name its grid: it is taken for the deterministic grid of the context that is not complete (R271, R351;
DESIGN CHOICE, log 44). -/
def retiredLog (s : State) (part i : Nat) : State :=
  let a := poolAt s part i
  let b := homeNat s (a + 8) 8
  let mine (g : Wg) : Bool := lkPart g.lcore == part && g.logIx == some i
  if homeNat s a 8 = 0 ∨ (s.wgs.any fun e => mine e.2) ∨ (s.savedWgs.any fun e => mine e.2) then s
  else match (s.grids.find? fun e => e.2.ctx == part / 8192 && e.2.k.det && !e.2.complete && e.2.started.contains b).orElse fun _ =>
      s.grids.find? fun e => e.2.ctx == part / 8192 && e.2.k.det && !e.2.complete with
    | none => s
    | some (gid, g) =>
      let x : Wg := { ctx := g.ctx, grid := gid, block := b, lcore := lcoreKey part 0, k := g.k, done := true, logIx := some i, log := readLog s a }
      updGrid { s with wgs := s.wgs ++ [(s.nextId, x)], nextId := s.nextId + 1 } gid fun g =>
        if g.started.contains b then g else { g with started := g.started ++ [b], retired := g.retired + 1 }

/-- The logs of a part as its pool gives them. -/
def enterLogs (s : State) (part : Nat) : State :=
  if (partOf s part).savebase = 0 then s
  else (List.range (homeNat s (saveBase (partOf s part) + 0x44) 4)).foldl (fun s i => retiredLog s part i) (savedLogs s part)

/-- Numbers on a counter whose operations are still to complete, as far as the state knows: engine operations, launches and `CKPT`
requests. -/
def outstanding (s : State) (ctx k : Nat) : List Nat :=
  (s.ops.filter fun e => e.2.ctx == ctx && e.2.ctr == k).map (·.2.num) ++
  (s.grids.filter fun e => e.2.ctx == ctx && e.2.ctr == k && !e.2.complete).map (·.2.num) ++
  ((((ctxOf s ctx).ckpt.getD {}).waits.filter fun e => e.1 == k).map (·.2.1))

/-- A counter on which every number taken is complete but for some: its value stands before the first of those. -/
def settleTl (out : List Nat) (t : Timeline) : Timeline :=
  match sortNat (out.filter fun n => decide (t.value < n) && decide (n ≤ t.mark) && !t.doneOut.contains n) with
  | [] => { t with value := t.mark, doneOut := [] }
  | n :: l => { t with value := n - 1, doneOut := ((List.range (t.mark - n)).map fun i => n + 1 + i).filter fun m => !l.contains m }

/-- The counters of a context whose parts have all been entered, or have work resident: an area gives a counter's value and mark and
not the numbers between them that are complete. Those of which the state knows nothing to do are complete: the requests of `CKPT` that
the cut covers are (R237, R348, R366; DEDUCED, log 79). -/
def settleCounters (s : State) (ctx : Nat) : State :=
  if (partsOfCtx s ctx).all fun k => (partOf s k).entered || !partVacant s k then
    (List.range 16).foldl (fun s k => updTimeline s ctx k (settleTl (outstanding s ctx k))) s
  else s

/-- The whole area of a part entered: nothing is placed yet. Landings over no core of the context return their ranges, for another
package may hold it now (R273). -/
def enterArea (s : State) (part : Nat) : State :=
  let recs := areaRecords s part
  let s1 := recs.foldl (fun s r =>
    match recKhdr? s part r, knownHolder? s r with
    | some k, some h => enterKnown s h k r
    | some k, none => enterNew s part k r
    | none, _ => s) (dropUnknown s part)
  let s2 := loadGaz (enterCores (enterLogs (enterHeader (raiseCores s1 part) part) part) part) part
  settleCounters (returnRanges (enterAwaits (enterFlags (enterOps s2 part) part) part) (part / 8192) fun l => !coresUnder s (part / 8192) l)
    (part / 8192)

/-- `RESTCTX`: D is 0, or the refusal cause. -/
def restStep (s : State) (m : Member) (x : Src) : State × Option Nat :=
  let k := (ctxPart? s m x).getD 0
  let p := partOf s k
  let refuse : State × Option Nat := (s, some (causeCode .access))
  if (lo32 x.a).toNat / 65536 = 0 then
    (if p.frozen || !p.frozenDies.isEmpty then (thawPart s k, some 0) else refuse)
  else if p.savebase = 0 || p.frozen || !p.frozenDies.isEmpty || p.stopReq || !partVacant s k || !areaOk s k then refuse
  else (enterArea s k, some 0)

def execRestctx (p : BitVec 3) (d a : BitVec 7) (s : State) : Out := ctxOp (.restctx p d a) 17 restStep s

/-! ### Placement of a saved logical core (R24, R25) -/

/-- The place of a saved holder's warps: each in the quarter that its logical slot names (R25). -/
def fitSlots (v : Nat) : List Nat → Room → Option (List Nat × Room)
  | [], r => some ([], r)
  | slot :: t, r =>
    let q := slot / 24
    match (List.range 24).find? fun j => !r.slots.contains (q * 24 + j) with
    | none => none
    | some j =>
      if 512 < regsIn r q + v then none
      else (fitSlots v t { r with slots := (q * 24 + j) :: r.slots, regs := tblSet r.regs q (regsIn r q + v) }).map fun e =>
        ((q * 24 + j) :: e.1, e.2)

/-- What a saved holder takes of a core: warp slots, banks in any order, accumulator banks. -/
structure SavedFit where
  slots : List Nat := []
  banks : List Nat := []
  acc : List Nat := []
deriving DecidableEq, Repr

/-- A saved holder fits a room. -/
def fitSaved (s : State) (r : Room) (g : Wg) : Option SavedFit :=
  let banks := ((List.range 64).filter fun b => !r.banks.contains b).take (g.k.scrbanks + g.k.opbanks)
  let acc := ((List.range 32).filter fun b => !r.acc.contains b).take g.rset.length
  if banks.length < g.k.scrbanks + g.k.opbanks ∨ acc.length < g.rset.length then none
  else if g.seqi then
    (if 2048 < r.seqV + g.k.v ∨ 256 < r.seqS + g.k.s then none else some { slots := [0x7F], banks := banks, acc := acc })
  else (fitSlots g.k.v (g.warps.map fun w => (savedWarp s w).slot) r).map fun e => { slots := e.1, banks := banks, acc := acc }

/-- A holder loaded from its record, under the physical numbers of its place. -/
def loadedWg (s : State) (g : Wg) (f : SavedFit) : Wg :=
  let x := readWg s g g.image
  let scr := f.banks.take g.k.scrbanks
  let op := f.banks.drop g.k.scrbanks
  let map : Tbl Nat := (List.range scr.length).foldl (fun t j => tblSet t (g.scrBank + j) (scr.getD j 0))
    ((List.range op.length).foldl (fun t j => tblSet t (g.opBank + j) (op.getD j 0)) [])
  let rset : Tbl Nat := (List.range f.acc.length).map fun j => ((g.rset.getD j (0, 0)).1, f.acc.getD j 0)
  { x with lsMap := map, rset := rset, banks := tblMap x.banks fun b y => { y with phys := (tblGet? rset b).getD 0 } }

/-- A restored holder enters a core: the caches below sys are invalidated there (R218), its banks are owned, and its warps enter their
quarters. -/
def enterCore (s : State) (c h : Nat) (f : SavedFit) : State :=
  let g := wgOf s h
  let s1 := ownBanks (dropBelow s c 6) c h (f.banks.take g.k.scrbanks) (f.banks.drop g.k.scrbanks) f.acc
  g.warps.foldl (fun s w => enterQuarter s c (warpOf s w).pslot w) s1

/-- The leader of a saved set placed on a core. -/
def placeLeader (s : State) (h c : Nat) (f : SavedFit) : State :=
  let g := tblGet s.savedWgs h
  let s1 : State :=
    { s with
      wgs := tblSet s.wgs h (loadedWg s g f), savedWgs := tblDel s.savedWgs h
      warps := (List.range g.warps.length).foldl (fun t i =>
        let w := g.warps.getD i 0
        tblSet t w { readWarp s (savedWarp s w) (savedWarp s w).image with pslot := f.slots.getD i 0 }) s.warps
      savedWarps := g.warps.foldl tblDel s.savedWarps }
  let s2 := g.warps.foldl (fun s' w =>
    let ms := readMats s w (warpOf s1 w) (savedWarp s w).image
    { s' with mats := s'.mats ++ (List.range ms.length).map fun i =>
                let o := ms.getD i {}
                (s'.nextId + i, { o with trec := (recOf? s' w o.num).getD 0, order := s'.nextId + i }),
              nextId := s'.nextId + ms.length }) { s1 with mats := s1.mats.filter fun e => !(g.warps.contains e.2.warp && decide (e.2.kind = 0)) }
  enterCore { s2 with nextId := s2.nextId + 1 } c h f

/-- A further replica of a placed leader, loaded from the same image (R376). -/
def placeCopy (s : State) (h rep c : Nat) (f : SavedFit) : State :=
  let g := wgOf s h
  let hid := s.nextId
  let n := g.warps.length
  let ids := (List.range n).map fun i => hid + 1 + i
  let new (w : Nat) : Nat := (((List.range n).find? fun i => g.warps.getD i 0 == w).map fun i => hid + 1 + i).getD 0
  let lg := loadedWg s { g with image := g.image } f
  let x : Wg := { g with warps := ids, replica := rep, rcore := some c, logIx := none, lsMap := lg.lsMap, rset := lg.rset,
                         banks := tblMap g.banks fun b y => { y with phys := (tblGet? lg.rset b).getD 0 } }
  let mats := (s.mats.filter fun e => g.warps.contains e.2.warp)
  let s1 : State :=
    { s with
      wgs := s.wgs ++ [(hid, x)]
      warps := s.warps ++ (List.range n).map fun i => (hid + 1 + i, { warpOf s (g.warps.getD i 0) with wg := hid, pslot := f.slots.getD i 0 })
      mats := s.mats ++ (List.range mats.length).map fun i =>
        let o := (mats.getD i (0, {})).2
        (hid + n + 1 + i, { o with wg := hid, warp := new o.warp })
      nextId := hid + n + 1 + mats.length }
  enterCore s1 c hid f

/-- Further replicas of a saved set, each in another hall (R368). -/
def placeFurther (s0 : State) (g : Wg) (h : Nat) : Nat → Nat → List Nat → State → Option State
  | 0, _, _, s => some s
  | n + 1, rep, got, s =>
    let part := lkPart g.lcore
    let cs := match instanceOn? s g.grid g.lcore with
      | some i => if i = h then (coresOf s part).filter fun c => !(got.any fun d => pcHall d == pcHall c) else ((replicaCores s i).drop rep).take 1
      | none => (coresOf s part).filter fun c => !(got.any fun d => pcHall d == pcHall c)
    let far := cs.filter fun c => !(got.any fun d => pcDie d == pcDie c)
    match (if far.isEmpty then cs else far).findSome? fun c => (fitSaved s0 (roomOf s c) g).map fun f => (c, f) with
    | none => none
    | some (c, f) => placeFurther s0 g h n (rep + 1) (got ++ [c]) (placeCopy s h rep c f)

/-- What follows from a placement: a staging retry that was answered, the ends of threads that an answer or a discard ended. -/
def settlePlaced (s : State) (h : Nat) : State :=
  let g := wgOf s h
  let s1 := if g.staging = some 0 then stageHolder s h else s
  let s2 := if g.discard then g.warps.foldl (fun s w => (lanesWhere s w fun _ => true).foldl endThread s) s1 else s1
  let s3 := if (tblGet? s2.wgs h).isSome then testBarriers s2 h else s2
  if (tblGet? s3.wgs h).isSome then reapWg (retireWg s3 h) h else s3

/-- A saved holder placed on a core with its replicas. -/
def placeSaved? (s : State) (h c : Nat) : Option State :=
  let g := tblGet s.savedWgs h
  match fitSaved s (roomOf s c) g with
  | none => none
  | some f => placeFurther s g h g.k.redun 1 [c] (placeLeader s h c f)

/-- Saved holders of a logical core in the order of their placement: the sequencer instances first. -/
def savedOrder (s : State) (lk : Nat) : List Nat :=
  (savedOn s lk).filter (fun h => (tblGet s.savedWgs h).seqi) ++ (savedOn s lk).filter fun h => !(tblGet s.savedWgs h).seqi

def placeAllSaved? (c : Nat) : List Nat → State → Option State
  | [], s => some s
  | h :: t, s =>
    match placeSaved? s h c with
    | none => none
    | some s1 => placeAllSaved? c t s1

/-- The event queue of a logical core returns from its record; held records take the free slots. -/
def eventsBack (s : State) (lk : Nat) : State :=
  updLcore s lk fun c =>
    let ev := if c.image = 0 then c.ev else readEvents s c.image
    let n := 256 - ev.length
    { c with ev := ev ++ c.evHeld.take n, evHeld := c.evHeld.drop n, image := 0 }

/-- A logical core placed on a physical core with its saved set. -/
def placeLcore? (s : State) (lk c : Nat) : Option State :=
  let s0 := updLcore s lk fun x => { x with pcore := some c, last := c, waiting := false }
  (placeAllSaved? c (savedOrder s lk) s0).map fun s1 => (savedOrder s lk).foldl settlePlaced (eventsBack s1 lk)

/-- No pending return of a logical core's saved warps is left to write (R352). -/
def returnsDone (s : State) (lk : Nat) : Bool :=
  (savedOn s lk).all fun h => (tblGet s.savedWgs h).warps.all fun w => decide (homeNat s ((savedWarp s w).image + 0x380 + 0x44) 2 = 0)

/-- The records of a logical core's saved holders pass their checks, which are made whenever they are loaded (R49, R352). -/
def recordsOk (s : State) (lk : Nat) : Bool :=
  (savedOn s lk).all fun h => wgRecordOk s (tblGet s.savedWgs h).k (tblGet s.savedWgs h).image

/-- A logical core without residents may leave a physical core that it shares for one of its part that holds none: the capacity that the
context holds is used (R24). -/
def mayLeave (s : State) (lk c : Nat) : Bool :=
  match (lcoreOf s lk).pcore with
  | none => false
  | some d => d != c && decide (2 ≤ (lcoresAt s (lkPart lk) d).length) && (lcoresAt s (lkPart lk) c).isEmpty

/-- A logical core may be placed on a physical core as far as its context, its residents, its records and reserved cores go. -/
def lcoreMay (s : State) (lk c : Nat) : Bool :=
  let part := lkPart lk
  let l := lcoreOf s lk
  let resident := s.wgs.any fun e => e.2.lcore == lk && !e.2.done
  (tblGet? s.lcores lk).isSome && partRuns s part && (pcoreAt s c).owners.contains part && !coreLeaves s part c &&
  !((partOf s part).frozenDies.contains (pcDie c % 4)) && (l.waiting || !(savedOn s lk).isEmpty || mayLeave s lk c) &&
  (l.pcore.isNone || l.pcore == some c || !resident) && returnsDone s lk && recordsOk s lk &&
  (!isReserved s c || !latencyWaits s (pcPkg c) || (savedOn s lk).isEmpty ||
    (savedOn s lk).any fun h => (gridOf s (tblGet s.savedWgs h).grid).latency)

/-- Cohorts that a logical core's saved holders belong to. -/
def savedCohorts (s : State) (lk : Nat) : List (Nat × Nat) :=
  (savedOn s lk).filterMap fun h =>
    let g := tblGet s.savedWgs h
    let co := (gridOf s g.grid).cohort
    if g.seqi ∨ co = 0 then none else some (g.grid, g.block / co)

/-- Logical cores whose saved sets share cohorts with some, found in n rounds: they are placed together (R21). -/
def linkedCores (s : State) : Nat → List Nat → List Nat
  | 0, l => l
  | n + 1, l =>
    let cs := l.flatMap fun lk => savedCohorts s lk
    let more := sortNat ((s.savedWgs.filter fun e => (savedCohorts s e.2.lcore).any fun c => cs.contains c).map fun e => e.2.lcore)
    linkedCores s n (l ++ more.filter fun lk => !l.contains lk)

/-- Further logical cores of shared cohorts, each on the first core of the hall that admits it. -/
def placeLinked? (hall : Nat) : List Nat → State → Option State
  | [], s => some s
  | lk :: t, s =>
    match ((coresOf s (lkPart lk)).filter fun c => pcHall c == hall && lcoreMay s lk c).findSome? fun c => placeLcore? s lk c with
    | none => none
    | some s1 => placeLinked? hall t s1

/-- `LOGICAL_CORE_PLACEMENT`: a is the logical core, b the physical core. -/
def lcorePlaced? (s : State) (lk c : Nat) : Option State :=
  if lcoreMay s lk c then
    match placeLcore? s lk c with
    | none => none
    | some s1 => placeLinked? (pcHall c) ((linkedCores s 8 [lk]).filter (· != lk)) s1
  else none

def execLogicalCorePlacement (s : State) : Out :=
  match lcorePlaced? s s.arg.a s.arg.b with
  | some s1 => .next s1
  | none => .refused .notDue

/-! ### Part of a part saved: vacating and withdrawing (R258, R402) -/

/-- The end of the records of a part that lie in its save area. -/
def areaEnd (s : State) (part : Nat) : Nat :=
  let base := saveBase (partOf s part)
  let l := (s.savedWgs.filter fun e => lkPart e.2.lcore == part && decide (e.2.image ≠ 0)).map fun e =>
    e.2.image - base + align64 (wgSize e.2 e.2.banks.length e.2.warps.length)
  let cs := (lcoresOfPart s part).filterMap fun lk =>
    let a := (lcoreOf s lk).image
    if a = 0 then none else some (a - base + coreSize (homeNat s (a + 2) 2))
  (l ++ cs).foldl max 0x4000

/-- The layout of some logical cores, after what the area holds: each with its holders given and those saved before, and behind them the list of the engine
operations of every holder that is then saved. -/
def layCores (s : State) (part : Nat) (l : List (Nat × List Nat)) : Layout × Nat × Nat :=
  layOps (listedOps s part (some (s.savedWgs.map (·.1) ++ l.flatMap (·.2)))) (l.foldl (fun y e =>
    let hs := e.2 ++ (savedOn s e.1).filter fun h => !e.2.contains h
    let gone := liveHolders s e.1 |>.all fun h => hs.contains h
    layCore s e.1 hs (if gone then (lcoreOf s e.1).ev else []) y) { pos := areaEnd s part })

/-- The layout fits the save area of a part. -/
def layFits (s : State) (part : Nat) (l : Layout) : Bool :=
  decide ((partOf s part).savebase ≠ 0) && decide (l.pos ≤ homeNat s (saveBase (partOf s part) + 8) 8)

/-- Holders of some logical cores saved with the header of the area; a logical core left without residents leaves its physical core. -/
def saveHolders (s : State) (part : Nat) (l : List (Nat × List Nat)) : State :=
  let base := saveBase (partOf s part)
  let s0 := l.foldl (fun s e => (savedOn s e.1).foldl refreshSaved (refreshEvents s e.1)) s
  let (y, ops) := layCores s0 part l
  let s1 := takeOut (putLayout s0 base y) base y
  let s2 := putHeader s1 part base y.pos (coreTab s1 part base y) ops
  l.foldl (fun s e =>
    if s.wgs.any fun x => x.2.lcore == e.1 && !x.2.done then updLcore s e.1 fun c => { c with waiting := true } else lcoreOut s base y e.1) s2

/-- Bulk holders that stand on a core, and the other members of their cohorts (R21, R258). -/
def vacateHolders (s : State) (c : Nat) : List Nat :=
  let here := (s.wgs.filter fun e => !e.2.done && (wgMates s e.1).any (fun x => coreOfWg s x == c) && !(gridOf s e.2.grid).latency &&
      (e.2.leader == 0 || e.2.leader == e.1)).map (·.1)
  let key (h : Nat) : Option (Nat × Nat) :=
    let g := wgOf s h
    let co := (gridOf s g.grid).cohort
    if g.seqi ∨ co = 0 then none else some (g.grid, g.block / co)
  let ks := here.filterMap key
  (s.wgs.filter fun e => here.contains e.1 || (!e.2.done && (e.2.leader == 0 || e.2.leader == e.1) &&
    match key e.1 with
    | some k => ks.contains k
    | none => false)).map (·.1)

/-- The warps of holders and their replicas. -/
def holderWarps (s : State) (hs : List Nat) : List Nat := hs.flatMap fun h => (wgMates s h).flatMap fun x => (wgOf s x).warps

/-- Holders by logical core. -/
def byLcore (s : State) (hs : List Nat) : List (Nat × List Nat) :=
  (sortNat (hs.map fun h => (wgOf s h).lcore)).map fun lk => (lk, hs.filter fun h => (wgOf s h).lcore == lk)

/-- The state as it would be once some holders have left their cores. -/
def emptied (s : State) (hs : List Nat) : State := hs.foldl (fun s h => moveOut s 0 {} h) s

/-- A latency-class unit or block of a grid waits, no core admits it, and a core would, in a state without its bulk work: undealt at a
landing, or assigned to a logical core of that core. Its whole cohort and the instance of its launch count (R21, R258, R261). -/
def latencyStuck (s s1 : State) (gid c : Nat) : Bool :=
  let g := gridOf s gid
  g.latency && gridFree s g && coreOpen s { g with pod := g.pod || g.k.det } c && pathOpen g c &&
  ((g.ranges.any fun r => under r.1 c && (match nextUnit? g r.1 with
      | some u => (unitCores s gid u r.1).isEmpty && (placeUnit? s1 gid u c).isSome
      | none => false)) ||
   (lcoresAt s ((ownerFor s g.ctx c).getD 0) c).any fun lk => detWaits s g lk && (match detNext? s g lk with
      | some b => (placeBlock? s gid b lk c []).isNone && (placeBlock? s1 gid b lk c []).isSome
      | none => false))

/-- A saved logical core with latency-class work waits, no core admits it, and a core would, in a state without its bulk work. -/
def savedStuck (s s1 : State) (lk c : Nat) : Bool :=
  lcoreMay s lk c && ((savedOn s lk).any fun h => (gridOf s (tblGet s.savedWgs h).grid).latency) &&
  ((coresOf s (lkPart lk)).all fun d => !lcoreMay s lk d || (placeLcore? s lk d).isNone) && (placeLcore? s1 lk c).isSome

/-- The dispatcher may choose a core to vacate: it is reserved and borrowed, the contexts whose work stands there run and have
save areas, and it would admit a stuck latency-class block of a context that holds it once emptied. -/
def vacateDue (s : State) (c : Nat) : Bool :=
  let hs := vacateHolders s c
  isReserved s c && !(pcoreAt s c).vacating && (pcoreAt s c).leaving.isEmpty && !hs.isEmpty &&
  (hs.all fun h => let k := lkPart (wgOf s h).lcore; partRuns s k && decide ((partOf s k).savebase ≠ 0)) &&
  ((s.grids.any fun e => latencyStuck s (emptied s hs) e.1 c) || s.lcores.any fun e => savedStuck s (emptied s hs) e.1 c)

/-- The stopped bulk work of a core is saved; without room in the save area it goes on. -/
def vacateSave (s : State) (c : Nat) : State :=
  let hs := vacateHolders s c
  let l := byLcore s hs
  let s1 := updPcore s c fun p => { p with vacating := false }
  let mine (part : Nat) : List (Nat × List Nat) := l.filter fun e => lkPart e.1 == part
  if (sortNat (l.map fun e => lkPart e.1)).all fun k => layFits s k (layCores s k (mine k)).1 then
    (sortNat (l.map fun e => lkPart e.1)).foldl (fun s k => saveHolders s k (mine k)) s1
  else (holderWarps s hs).foldl (fun s w => if (partOf s (partOfWarp s w)).stopReq then s else resumeWarp s w) s1

/-- `VACATE_RESERVED_CORE`: a is the core: the stop of its bulk work is requested, and once it has stopped it is saved. -/
def execVacateReservedCore (s : State) : Out :=
  let c := s.arg.a
  if (pcoreAt s c).vacating then
    let ws := holderWarps s (vacateHolders s c)
    (if allHalted s ws then .next (vacateSave s c)
     else if ws.any fun w => (warpOf s w).stopAt.isNone then .next (requestStops s ws)
     else .refused .notDue)
  else if vacateDue s c then
    .next (requestStops (updPcore s c fun p => { p with vacating := true }) (holderWarps s (vacateHolders s c)))
  else .refused .notDue

end Sys2Proof.Machine
end

