-- ==== Sys2Proof/Machine/Control.lean ====
section
/-! DEFINITION. Control transfer and the other control instructions (R61, R62, R94 to R99), and the permutation prefix (R59). -/

namespace Sys2Proof.Machine

/-- A transfer: each member that takes it has a target; a member whose target is no clause header stands at the transfer and
its warp is trapped, the others take their target, and `link` is written for them (R62, R95). A helper with a bad target
falls through (log 16). -/
def xferOp (i : Instr) (target : State → Group → List (Member × Src) → Member → Src → Option Pair) (link : Bool) (s : State) : Out :=
  groupOp i .own noWait noFail (fun s g l =>
    let ts := l.filterMap fun e => (target s g l e.1 e.2).map fun t => (e.1, t)
    let bad := ts.filterMap fun e => (targetFail s e.1.warp e.2).map fun f => (e.1, f)
    let good := ts.filter fun e => (targetFail s e.1.warp e.2).isNone
    let s1 := ts.foldl (fun s e => fetchTrace s e.1.warp e.2.toNat) s
    let s2 := if link then writeD s1 (shapeOf i).d (good.map fun e => (e.1, (fallThrough g).setWidth 128)) else s1
    let s3 := updGroup s2 s2.cur fun g => { g with taken := good.foldl (fun t e => tblSet t e.1.lane e.2) g.taken }
    let stay := bad.filter fun e => !(thrOf s e.1).helper
    let s4 := dropMembers (stay.foldl (fun s e => standBefore s g e.1) s3) fun m => stay.any fun e => e.1 == m
    ((trapsOf stay).foldl (fun s t => takeTrap s t g.pc (g.pos + 1)) s4, [])) s

/-- The clause header plus a word offset (R62). -/
def offTarget (g : Group) (o : Pair) : Pair := g.pc + (o <<< 2)

def execBra (p : BitVec 3) (o : BitVec 23) (s : State) : Out :=
  xferOp (.bra p o) (fun _ g _ _ _ => some (offTarget g (o.signExtend 64))) false s

/-- The value that a voting member brings to `BRC`: its predicate, inverted by D[3] (R95). -/
def brcVote (d : BitVec 7) (x : Src) : Bool := (predOf x.t (d.extractLsb' 0 3).toNat).xor (d.getLsbD 3)
/-- Members of the voting set of a member's warp. -/
def voters (l : List (Member × Src)) (m : Member) : List (Member × Src) := l.filter fun e => e.1.warp == m.warp

def execBrcAny (p : BitVec 3) (d a : BitVec 7) (s : State) : Out :=
  xferOp (.brcAny p d a) (fun _ g l m x =>
    if (voters l m).any fun e => brcVote d e.2 then some (offTarget g ((lo32 x.a).signExtend 64)) else none) false s
def execBrcAll (p : BitVec 3) (d a : BitVec 7) (s : State) : Out :=
  xferOp (.brcAll p d a) (fun _ g l m x =>
    if (voters l m).all fun e => brcVote d e.2 then some (offTarget g ((lo32 x.a).signExtend 64)) else none) false s
def execCall (p : BitVec 3) (d a : BitVec 7) (s : State) : Out :=
  xferOp (.call p d a) (fun _ g _ _ x => some (offTarget g ((lo32 x.a).signExtend 64))) true s
def execRet (p : BitVec 3) (a : BitVec 7) (s : State) : Out := xferOp (.ret p a) (fun _ _ _ _ x => some (lo64 x.a)) false s
def execJmpi (p : BitVec 3) (a : BitVec 7) (s : State) : Out := xferOp (.jmpi p a) (fun _ _ _ _ x => some (lo64 x.a)) false s

/-- `EXIT` ends its active members at the clause end (R96); it is a comparison point (R371). -/
def execExitT (p : BitVec 3) (s : State) : Out :=
  groupOp (.exitT p) .cmp noWait noFail (fun s _ l =>
    (updGroup s s.cur fun g => { g with ended := g.ended ++ l.map fun e => e.1.lane }, [])) s

/-- `NOP` has no effect (R97). -/
def execNop (p : BitVec 3) (s : State) : Out := effectOp (.nop p) noFail (fun s _ _ => s) s
/-- `YIELD` yields at the clause end, as YLD does (R97). -/
def execYield (p : BitVec 3) (s : State) : Out :=
  effectOp (.yield p) noFail (fun s _ l => if l.isEmpty then s else updGroup s s.cur fun g => { g with yld := true }) s
/-- `CONV` itself has no effect; its wait is made at the clause entry (R98). -/
def execConvW (s : State) : Out := effectOp .convW noFail (fun s _ _ => s) s

/-- A window base that is no multiple of 32, or at or above E (R99): the value of each warp's lowest active member. -/
def wbaseFail (_ : State) (_ : Member) (x : Src) : Option Fail :=
  let v := (lo32 x.a).toNat
  if v % 32 ≠ 0 ∨ topReg x.w ≤ v then some { order := 1, cause := .windowRange, info := v } else none

/-- `WBASE`: checked and written with the value of each represented warp's lowest active member that is no helper (R37, R99). -/
def execWbase (p : BitVec 3) (a : BitVec 7) (s : State) : Out :=
  groupOp (.wbase p a) .own noWait
    (fun s m x => match curGroup? s with
      | none => none
      | some g => if leadOf s (active s g p) m.warp = some m then wbaseFail s m x else none)
    (fun s _ l =>
      ((warpsIn (l.map (·.1))).foldl (fun s' w =>
        match l.find? fun e => e.1.warp == w && !(thrOf s e.1).helper with
        | some e => updWarp s' w fun x => { x with wbase := (lo32 e.2.a).toNat }
        | none => s') s, [])) s

/-- A permutation prefix gives the next instruction its patterns (R59). -/
def execPermutationPrefix (a b : BitVec 9) (s : State) : Out :=
  match curGroup? s with
  | none => .refused .notDue
  | some _ => .next (updGroup (retire s) s.cur fun g => { g with patA := a, patB := b })

end Sys2Proof.Machine
end

