-- ==== Sys2Proof/Machine/Monitor.lean ====
section
/-! DEFINITION. The progress monitor: partitions, their events and remaining work, the freeze of a partition with its STALL record
and snapshot (R279, R280). -/

namespace Sys2Proof.Machine

/-! ### What is left to do -/

/-- Logical cores of a part that wait for placement in a partition. -/
def waitingCores (s : State) (part die : Nat) : List Nat :=
  (s.lcores.filter fun e => e.1 / 2048 == part && e.2.waiting && (e.2.pcore.isNone || !(savedOn s e.1).isEmpty) && pcDie e.2.last % 4 == die).map (·.1)

/-- The grids of the work that remains in a partition, 0 for work of no grid (R276, R279). -/
def leftGrids (s : State) (part die : Nat) : List Nat :=
  let on (c : Nat) : Bool := pcDie c % 4 == die
  ((warpsOnDie s part die).filter fun w => !(warpOf s w).trapped).map (fun w => (wgOfWarp s w).grid) ++
  (s.grids.filter fun e => e.2.ctx == part / 8192 && !e.2.complete &&
    ((e.2.ranges.any fun r => decide (unitsIn r.2 ≠ 0) && (coresOf s part).any fun c => on c && under r.1 c) ||
     (lcoresOfPart s part).any fun lk => on (coreOfL s lk) && detWaits s e.2 lk)).map (·.1) ++
  (s.ops.filter fun e => e.2.part == part && on (opCore s e.2) && !e.2.complete && e.2.stall.isNone).map (·.2.grid) ++
  (s.atoms.filter fun e => e.2.part == part && on e.2.pcore && e.2.posted.isSome).map (·.2.grid) ++
  (waitingCores s part die).flatMap fun lk => 0 :: (savedOn s lk).map fun h => (tblGet s.savedWgs h).grid

/-- Work remains in a partition (R279). -/
def workRemains (s : State) (part die : Nat) : Bool := !(leftGrids s part die).isEmpty

/-! ### Events -/

/-- An event of a partition is counted: its window starts anew. -/
def countAt (s : State) (part c : Nat) : State := updPart s part fun p => { p with lastEvent := tblSet p.lastEvent (pcDie c % 4) s.clk }
def countWarp (s : State) (s1 : State) (w : Nat) : State := countAt s1 (partOfWarp s w) (coreOfWarp s w)

/-- Flits of a context at a package, where they belong to no one die: each of its partitions there counts them (DESIGN CHOICE, log 46). -/
def countPkg (s1 : State) (ctx pkg : Nat) : State :=
  s1.parts.foldl (fun t e => if e.1 / 8192 = ctx ∧ e.2.pkg = pkg then
    (List.range 4).foldl (fun t d => updPart t e.1 fun p => { p with lastEvent := tblSet p.lastEvent d s1.clk }) t else t) s1

/-- An operation of a partition whose home lies in another package crosses the fabric: it is sent for the context at the one and received
at the other. -/
def countCross (s1 : State) (part c a : Nat) : State :=
  if gpPkg a = pcPkg c then s1 else countPkg (countAt s1 part c) (part / 8192) (gpPkg a)

/-- What the next unit of an engine operation reads and writes. -/
def engAddrs (s : State) (o : EngOp) : List Nat :=
  match o.cmd with
  | 0 => (cpyCells o o.progress).flatMap fun e => cellAddrs e.1 ++ cellAddrs e.2
  | 1 => (gathRec s o ++ gathLin o).flatMap cellAddrs
  | 2 => (gathRec s o ++ gathLin o).flatMap cellAddrs
  | _ => []

/-- A unit that an engine has delivered counts where it has crossed the fabric; a collective's, where its ranks lie in several packages. -/
def countUnit (s s1 : State) (id : Nat) : State :=
  let o := opOf s id
  if (opOf s1 id).progress = o.progress then s1
  else
    let homes := if o.cmd = 3 then o.ranks.map fun r => gpOf (partOf s r.part).pkg 0 else (engAddrs s o).map (opHome s o)
    match homes.find? fun a => gpPkg a != pcPkg (opCore s o) with
    | some a => countCross s1 o.part (opCore s o) a
    | none => s1

/-- A step of the Stair that reaches a landing of a package counts there, in a context of several packages. -/
def countStair (s1 : State) (gid l : Nat) : State :=
  let g := gridOf s1 gid
  if 1000000 ≤ l ∧ l < 2000000 ∧ 1 < (ctxOf s1 g.ctx).npkg then countPkg s1 g.ctx (l - 1000000) else s1

/-- The events that a step counts, from the state before it and the state after it: clause issues, completions of long-latency and
engine operations, retirements, expiries of `SLEEP`, and flits of the context. -/
def countDone (i : Instr) (s s1 : State) : State :=
  let gone := (s.warps.filter fun e => (tblGet? s1.warps e.1).isNone).map (·.1)
  let s2 := gone.foldl (fun t w => countWarp s t w) s1
  match i with
  | .clauseIssue =>
    (match tblGet? s1.groups s.arg.a with
     | some g => (warpsIn g.mem).foldl (fun t w => countWarp s t w) s2
     | none => s2)
  | .loadReturn => countWarp s s2 (tblGet s.loads s.arg.a).warp
  | .longLatencyCompletion =>
    countWarp s s2 (if (tblGet? s.loads s.arg.a).isSome then (tblGet s.loads s.arg.a).warp else (matOf s s.arg.a).warp)
  | .mmaKgroup => if (tblGet? s1.mats s.arg.a).isNone then countWarp s s2 (matOf s s.arg.a).warp else s2
  | .engineOperationComplete => countAt s2 (opOf s s.arg.a).part (opCore s (opOf s s.arg.a))
  | .gazetteerBindComplete => countAt s2 (opOf s s.arg.a).part (opCore s (opOf s s.arg.a))
  | .gazetteerUnbindComplete => countAt s2 (opOf s s.arg.a).part (opCore s (opOf s s.arg.a))
  | .sleepExpiry => countWarp s s2 s.arg.a
  | .writeBackMerge =>
    let w := tblGet s.writes s.arg.a
    countCross s2 w.part w.pcore w.addr
  | .atomicPerform =>
    let o := tblGet s.atoms s.arg.a
    countCross s2 o.part o.pcore o.addr
  | .mcasLockGrant =>
    let o := tblGet s.mcas s.arg.a
    countCross s2 o.part o.pcore (o.want.headD 0 * 128)
  | .cpySectorDelivery => countUnit s s2 s.arg.a
  | .gathElement => countUnit s s2 s.arg.a
  | .scatElement => countUnit s s2 s.arg.a
  | .collElementWrite => countUnit s s2 s.arg.a
  | .landingDeal => countStair s2 s.arg.a s.arg.c
  | .cancelLanding => countStair s2 s.arg.a s.arg.b
  | _ => s2

/-- A window starts where work comes to remain. -/
def startWindows (s s1 : State) : State :=
  s1.parts.foldl (fun t e => (List.range 4).foldl (fun t d =>
    if !workRemains s e.1 d && workRemains s1 e.1 d then updPart t e.1 fun p => { p with lastEvent := tblSet p.lastEvent d s.clk } else t) t) s1

/-- The monitors' part of a step: the windows of its events, and of work that begins. -/
def countEvents (i : Instr) (s s1 : State) : State := startWindows s (countDone i s s1)

/-! ### The snapshot (R280) -/

/-- The oldest thread of a warp. -/
def oldestWaiting (x : Warp) : Option (Nat × Thread) :=
  x.lanes.foldl (fun best e => match best with
    | none => some e
    | some b => if e.2.age < b.2.age then some e else some b) none

/-- A thread that stands in no wait is held by `CONV` or by R20: its warp is not whole at its clause. -/
def wholeWait (s : State) (w : Nat) (t : Thread) : Bool :=
  match clauseAt s w t.pc with
  | .error _ => false
  | .ok c =>
    let g := groupAt c t.pc t.pos
    needsWhole s w g t.pos && !((warpOf s w).lanes.all fun e => e.2.pc == t.pc && e.2.pos == t.pos && threadMay s ⟨e.1, w⟩)

/-- KIND, OBJECT and VALUE of what a thread waits on. -/
def waitEntry (s : State) (w : Nat) (t : Thread) : Nat × Nat × Nat :=
  match t.wait with
  | .none => if (wgOfWarp s w).held then (11, 0, 0) else if wholeWait s w t then (2, 0, 0) else (1, 0, 0)
  | .word off full => (5, off, if full then 1 else 0)
  | .timeline k n => (6, k, n)
  | .barrier k p => (3, k, p)
  | .phase va p => (4, va, p)
  | .evpop => (7, 0, 0)
  | .evpush lk => (8, lkPlace lk, 0)
  | .held => (11, 0, 0)
  | _ => (1, 0, 0)

/-- A collective whose instance a warp's thread waits for has not started: its counter's wait counts as KIND 9. -/
def collWait? (s : State) (w : Nat) (t : Thread) : Option Nat :=
  match t.wait with
  | .timeline k n =>
    ((s.ops.find? fun e => e.2.warp == w && e.2.cmd == 3 && e.2.ctr == k && e.2.num == n && e.2.ranks.isEmpty && !e.2.ended).map
      fun e => bNat e.2.block 0x18 8)
  | _ => none

/-- A snapshot entry of 32 bytes. -/
def stallEntry (place slot kind : Nat) (pc : Pair) (obj val : Nat) : List Byte :=
  leBytes 4 place ++ leBytes 1 slot ++ leBytes 1 kind ++ leBytes 2 0 ++ leBytes 8 pc.toNat ++ leBytes 8 obj ++ leBytes 8 val

/-- The entry of a resident warp. -/
def warpEntry (s : State) (w : Nat) : List Byte :=
  let x := warpOf s w
  let g := wgOfWarp s w
  let t := ((oldestWaiting x).map (·.2)).getD {}
  let k := match collWait? s w t with
    | some gkey => (9, gkey, 0)
    | none => waitEntry s w t
  stallEntry (lkPlace g.lcore) (if g.seqi then 0x7F else x.slot) k.1 t.pc k.2.1 k.2.2

/-- The entry of a saved warp of a logical core that waits. -/
def savedEntry (s : State) (w : Nat) : List Byte :=
  let x := savedWarp s w
  let g := tblGet s.savedWgs x.wg
  let t := ((oldestWaiting x).map (·.2)).getD {}
  stallEntry (lkPlace g.lcore) (if g.seqi then 0x7F else x.slot) 10 t.pc 0 0

/-- Warps of some, the sequencer instance's first, then by slot. -/
def bySlot (l : List (Nat × Nat)) : List Nat := (sortNat (l.map (·.1))).flatMap fun k => (l.filter fun e => e.1 == k).map (·.2)

/-- Entries for cohorts that wait for placement, one for each grid with undealt cohorts at a landing over the partition: KIND 10 with
the launch's issuer, no slot, the kernel's ENTRY, the launch number and the number of cohorts (R21, R280; DESIGN CHOICE, log 45). -/
def cohortEntries (s : State) (part die : Nat) : List (List Byte) :=
  (s.grids.filter fun e => e.2.ctx == part / 8192 && !e.2.complete && decide (e.2.cohort ≠ 0)).flatMap fun e =>
    let n := ((e.2.ranges.filter fun r => (coresOf s part).any fun c => pcDie c % 4 == die && under r.1 c).map fun r => unitsIn r.2).sum
    if n = 0 then [] else [stallEntry (lkPlace e.2.ilk) 0xFF 10 (BitVec.ofNat 64 e.2.k.entry) e.2.num n]

/-- Entries of a partition in the order of R280: by logical core, within one by slot with the sequencer instance first; then those of
cohorts. -/
def stallEntries (s : State) (part die : Nat) : List (List Byte) :=
  ((lcoresOfPart s part).flatMap fun lk =>
    let ws := (warpsOnDie s part die).filter fun w => (wgOfWarp s w).lcore == lk && !(warpOf s w).trapped && !warpReady s w && isLeader s w
    let key (slot : Nat) (seqi : Bool) : Nat := if seqi then 0 else slot + 1
    let res := (bySlot (ws.map fun w => (key (warpOf s w).slot (wgOfWarp s w).seqi, w))).map fun w => warpEntry s w
    let sv := if (waitingCores s part die).contains lk then
        let l := (savedOn s lk).flatMap fun h => (tblGet s.savedWgs h).warps.map fun w =>
          (key (savedWarp s w).slot (tblGet s.savedWgs h).seqi, w)
        (bySlot l).map fun w => savedEntry s w
      else []
    res ++ sv) ++ cohortEntries s part die

/-- The partition's part of the stall area: its address and the number of entries it holds; none without an area. -/
def stallArea? (s : State) (part die : Nat) : Option (Nat × Nat) :=
  let p := partOf s part
  if p.savebase = 0 then none
  else
    let base := homeNat s (saveBase p + 0x48) 8
    let cap := homeNat s (saveBase p + 0x50) 4
    if base = 0 ∨ cap < 4 then none else some (gpOf p.pkg (base % 2 ^ 51) + die * (cap / 4) * 32, cap / 4)

/-- `STALL`: a is the context, b the die over the pod. -/
def stallDue (s : State) (part die : Nat) : Bool :=
  let p := partOf s part
  !(p.frozen || p.saved || p.idle || p.stopReq) && !(p.frozenDies.contains die) && workRemains s part die &&
  decide ((tblGet? p.lastEvent die).getD 0 + 2 ^ 26 ≤ s.clk)

/-- The partition is frozen, its snapshot written, and the record appended. -/
def stallPart (s : State) (part die : Nat) : State :=
  let es := stallEntries s part die
  let (area, n) := match stallArea? s part die with
    | some (a, cap) => (a, min cap es.length)
    | none => (0, 0)
  let s1 := (List.range n).foldl (fun s k => putHome s (area + 32 * k) 0 (es.getD k [])) s
  let s2 := requestStops (updPart s1 part fun p => { p with frozenDies := p.frozenDies ++ [die] }) (warpsOnDie s1 part die)
  let seq := nextSeq s2 part
  let r : FaultRec := { seq := seq, cause := causeCode .stall, src := 4, addr := area % 2 ^ 51, info := n, info2 := es.length }
  let s3 := (sortNat (leftGrids s part die)).foldl (fun s g => countFault s { r with grid := g }) s2
  addAwait (appendFault s3 part r) part seq (.stall die)

def execStall (s : State) : Out :=
  match partAt? s s.arg.a (s.arg.b / 4) with
  | some part => if stallDue s part (s.arg.b % 4) then .next (stallPart s part (s.arg.b % 4)) else .refused .notDue
  | none => .refused .notDue

end Sys2Proof.Machine
end

