-- ==== Sys2Proof/Machine/Scheduler.lean ====
section
/-! DEFINITION. The quarter scheduler (R17, R20, R54, R98, R263 to R266): which threads may start a clause, how they form an issue
group, and the clause's checks at its entry (R63, R405); rotation points; the returns of long-latency operations (R53, R102);
and the writes on their way to their homes (R198 to R201). -/

namespace Sys2Proof.Machine

/-! ### The quarter's sets (R263, R264) -/

/-- Keys of the sequencer's issue slot of a core lie above those of quarters. -/
def seqKey (c : Nat) : Nat := 2 ^ 32 + c
def keyCore (q : Nat) : Nat := if 2 ^ 32 ≤ q then q - 2 ^ 32 else q / 4
def quarterAt (s : State) (q : Nat) : Quarter := tblGet (pcoreAt s (q / 4)).qs (q % 4)
def updQuarter (s : State) (q : Nat) (f : Quarter → Quarter) : State :=
  updPcore s (q / 4) fun p => { p with qs := tblSet p.qs (q % 4) (f (tblGet p.qs (q % 4))) }

/-- Active warps without a ready thread change places with ready pending ones, in at most n exchanges. -/
def exchange (s : State) : Nat → Quarter → Quarter
  | 0, q => q
  | n + 1, q =>
    match q.active.find? (fun w => !warpReady s w), readyPending s q with
    | some a, some p => exchange s n (swapWarps q a p)
    | _, _ => q

/-- Warps whose threads the next issue of a slot may take. -/
def slotWarps (s : State) (q : Nat) : List Nat :=
  if 2 ^ 32 ≤ q then (s.warps.filter fun e => coreOfWarp s e.1 == keyCore q && (wgOf s e.2.wg).seqi).map (·.1)
  else (exchange s 8 (quarterAt s q)).active

/-- Ready threads of a slot. -/
def slotReady (s : State) (q : Nat) : List Member := (slotWarps s q).flatMap fun w => readyLanes s w

/-! ### Choosing an issue group (R17, R264, R266) -/

def ageOf (s : State) (m : Member) : Nat := (thrOf s m).age

/-- Members by age, the oldest first. -/
def byAge (s : State) (ms : List Member) : List Member :=
  (sortNat (ms.map fun m => ageOf s m)).flatMap fun a => ms.filter fun m => ageOf s m == a

/-- Threads that may share an issue group: one workgroup, one place, and neither deferred as part of a group. -/
def sameClause (s : State) (a b : Member) : Bool :=
  (warpOf s a.warp).wg == (warpOf s b.warp).wg && (thrOf s a).pc == (thrOf s b).pc && (thrOf s a).pos == (thrOf s b).pos &&
  decide ((thrOf s a).gid = 0) && decide ((thrOf s b).gid = 0)

/-- A group runs more than 4,096 bytes ahead of a ready thread of its workgroup (R266). -/
def runsAhead (s : State) (ready : List Member) (m : Member) : Bool :=
  ready.any fun n => (warpOf s n.warp).wg == (warpOf s m.warp).wg && decide ((thrOf s n).pc.toNat + 4096 < (thrOf s m).pc.toNat)

/-- The oldest member of the group that issues next: at a rotation pick the oldest of the warp at the pointer; otherwise the
oldest that does not run ahead. -/
def leadMember (s : State) (q : Nat) (ready : List Member) : Option Member :=
  let l := byAge s ready
  let k := quarterAt s q
  let rot := if 2 ^ 32 ≤ q ∨ !k.rotPick then none
    else match k.active[k.rot]? with
      | some w => l.find? fun m => m.warp == w
      | none => none
  match rot with
  | some m => some m
  | none => match l.find? fun m => !runsAhead s ready m with
    | some m => some m
    | none => l.head?

/-- Members added one by one, each to a lane that is free. -/
def fillLanes : List Member → List Member → List Member
  | got, [] => got
  | got, m :: t => if got.any fun n => n.lane == m.lane then fillLanes got t else fillLanes (got ++ [m]) t

/-- Warps added one by one, each whole or not at all. -/
def fillWhole (got : List Member) : List (List Member) → List Member
  | [] => got
  | l :: t => if l.any fun m => got.any fun n => n.lane == m.lane then fillWhole got t else fillWhole (got ++ l) t

/-- Members in ascending lane. -/
def byLane (ms : List Member) : List Member := (sortNat (ms.map (·.lane))).flatMap fun l => ms.filter fun m => m.lane == l

/-- The members of the group that a lead thread starts: a group that was deferred as one member resumes whole (R284). -/
def gather (s : State) (ready : List Member) (lead : Member) : List Member :=
  if (thrOf s lead).gid ≠ 0 then byLane (oneMember s lead) else
  let cand := (byAge s ready).filter fun m => sameClause s lead m && (!singleWarp s lead.warp || m.warp == lead.warp)
  let whole := match clauseAt s lead.warp (thrOf s lead).pc with
    | .ok c => needsWhole s lead.warp (groupAt c (thrOf s lead).pc (thrOf s lead).pos) (thrOf s lead).pos
    | .error _ => false
  let own := cand.filter fun m => m.warp == lead.warp
  let others := cand.filter fun m => m.warp != lead.warp
  byLane (if whole then fillWhole own ((warpsIn others).map fun w => others.filter fun m => m.warp == w)
          else fillLanes [lead] (cand.filter fun m => m != lead))

/-! ### The checks at the entry -/

/-- Majors and sub-ops that a package in reduced service does not have (R405). -/
def reducedLacks (w : Word) : Bool :=
  let maj := (w.extractLsb' 26 6).toNat
  let sub := (w.extractLsb' 2 7).toNat
  (decide (0x13 ≤ maj) && decide (maj ≤ 0x18)) || maj == 0x1E || maj == 0x1F || (decide (0x21 ≤ maj) && decide (maj ≤ 0x23)) ||
  (decide (0x35 ≤ maj) && decide (maj ≤ 0x38)) || (maj == 0x3B && (sub == 0x03 || sub == 0x21))

/-- The first body word that reduced service lacks. -/
def reducedAt : List Word → Nat → Option Nat
  | [], _ => none
  | w :: t, j => if reducedLacks w then some j else reducedAt t (j + 1)

/-- The checks of R63, with the cells of reduced service taken as unassigned while the package offers only that. -/
def entryBad (full priv : Bool) (c : Clause) : Option ClauseBad :=
  let bad := clauseBad priv c.at_ c.hdr c.body
  if full ∨ 16 < c.at_ + hdrLen c.hdr + 2 ∨ headerBad c.hdr then bad
  else
    let ins := c.body.take (instrCount c.body 0 0 c.body.length)
    match reducedAt ins 0 with
    | none => bad
    | some j =>
      match bodyBad (ins.take j) 0 none with
      | some b => some b
      | none => some { cause := .illegalEncoding, word := j + 1 }

/-- A trap of every warp of a group at its place, before any instruction. -/
def entryTrap (s : State) (ms : List Member) (mk : Nat → Nat → Trap) : State :=
  let t := thrOf s (ms.headD {})
  (warpsIn ms).foldl (fun s w =>
    let own := ms.filter fun m => m.warp == w
    let lane := ((own.find? fun m => !(thrOf s m).helper).getD (own.headD {})).lane
    takeTrap s (mk w lane) t.pc t.pos) s

/-- A place that no clause header stands at raises BAD_TARGET there (R62, R356). -/
def badPlace (s : State) (w : Nat) (pc : Pair) : Bool :=
  match fetchLine s w pc.toNat with
  | .ok ws => !isHeader ws pc.toNat
  | .error _ => false

/-- Members of warps under a stop that enter a STOP-marked clause stop there (R343). -/
def stopsHere (s : State) (c : Clause) (m : Member) : Bool :=
  (stopClock (warpOf s m.warp)).isSome && hdrStop c.hdr && decide ((thrOf s m).pos = 0) && !isRedun s m.warp

/-- A group starts its clause: each member keeps the window base of the entry (R99). -/
def startGroup (s : State) (q : Nat) (c : Clause) (ms : List Member) : State :=
  let m := ms.headD {}
  let t := thrOf s m
  let s0 := fetchTrace s m.warp t.pc.toNat
  let s1 := ms.foldl (fun s m => if (thrOf s m).pos = 0 then updThr s m fun t => { t with base := (warpOf s m.warp).wbase } else s)
    (if (wgOfWarp s m.warp).fresh then updWg s0 (warpOf s m.warp).wg fun h => { h with fresh := false } else s0)
  { s1 with groups := tblSet s1.groups q { groupAt c t.pc t.pos with wg := (warpOf s m.warp).wg, mem := ms } }

/-- A group of members issues: a failing fetch or check is its trap; members that are to stop do; the others start the clause. -/
def issueGroup (s : State) (q : Nat) (ms : List Member) : State :=
  let m := ms.headD {}
  let t := thrOf s m
  match clauseAt s m.warp t.pc with
  | .error e =>
    if e = .pageFault then
      entryTrap s ms fun w l => { warp := w, cause := e, lane := l, addr := t.pc.toNat / 4096 * 4096, info := 1 + 512 }
    else entryTrap s ms fun w l => { warp := w, cause := e, lane := l }
  | .ok c =>
    if badPlace s m.warp t.pc then entryTrap s ms fun w l => { warp := w, cause := .badTarget, lane := l, addr := t.pc.toNat }
    else match entryBad (pkgAt s (pcPkg (keyCore q))).full (isPriv s m.warp) c with
      | some b =>
        let ws := c.hdr :: c.body
        entryTrap s ms fun w l => { warp := w, cause := b.cause, lane := l, word := b.word, info := (ws.getD b.word 0).toNat }
      | none =>
        let stop := ms.filter fun m => stopsHere s c m
        let go := ms.filter fun m => !stopsHere s c m
        let s1 := stop.foldl stopThread s
        if go.isEmpty then s1 else startGroup s1 q c go

/-- `CLAUSE_ISSUE`: a is the quarter, or a core's sequencer. -/
def issueClause (s : State) (q : Nat) : State :=
  let s1 := if 2 ^ 32 ≤ q then s else updQuarter s q fun k => exchange s 8 k
  let ready := slotReady s1 q
  match leadMember s1 q ready with
  | none => s1
  | some m =>
    let s2 := if 2 ^ 32 ≤ q then s1 else updQuarter s1 q fun k => { k with rotPick := false }
    issueGroup s2 q (gather s2 ready m)

/-- Resident warps of a slot, active and pending alike. -/
def slotResidents (s : State) (q : Nat) : List Nat :=
  if 2 ^ 32 ≤ q then slotWarps s q else (quarterAt s q).active ++ (quarterAt s q).pend

/-- A waiting thread's condition holds and it is to become ready, which it does at once, before the slot issues (R263). -/
def wakesFirst (s : State) (q : Nat) : Bool :=
  (slotResidents s q).any fun w => (warpOf s w).lanes.any fun e => retestDue s w e.1 || sleepDue s w e.1

/-- A slot has no group in flight, a thread that is ready, and none that is still to become ready. -/
def issueDue (s : State) (q : Nat) : Bool := (tblGet? s.groups q).isNone && !(slotReady s q).isEmpty && !wakesFirst s q

def execClauseIssue (s : State) : Out := if issueDue s s.arg.a then .next (issueClause s s.arg.a) else .refused .notDue

/-! ### `ROTATION_POINT` (R264) -/

/-- The ready warp pending longest changes places with the warp active longest, and the pointer steps. -/
def rotate (s : State) (q : Nat) : State :=
  updQuarter s q fun k =>
    let k1 := match k.since, readyPending s k with
      | a :: _, some p => swapWarps k a p
      | _, _ => k
    { k1 with rot := (k.rot + 1) % 8, rotPick := true, rotAt := s.clk }

def rotationDue (s : State) (q : Nat) : Bool :=
  decide (q < 2 ^ 32) && (tblGet? (pcoreAt s (q / 4)).qs (q % 4)).isSome && decide ((quarterAt s q).rotAt + 3072 ≤ s.clk)

/-- `ROTATION_POINT`: a is the quarter; every 1,024 a-cycles. -/
def execRotationPoint (s : State) : Out := if rotationDue s s.arg.a then .next (rotate s s.arg.a) else .refused .notDue

/-! ### Returns (R53, R102) -/

/-- `FPST` bits of a lane raised, in its thread or in its image. -/
def landFp (s : State) (w l : Nat) (f : BitVec 6) : State :=
  if isSaved s w then
    let a := (savedWarp s w).image + 0x240 + 4 * l
    if (tblGet? (savedWarp s w).lanes l).isSome then putNat s a 4 ((BitVec.ofNat 32 (homeNat s a 4)) ||| f.setWidth 32).toNat else s
  else if present s w l && !(thrOf s ⟨l, w⟩).helper then updThr s ⟨l, w⟩ fun t => { t with fpst := t.fpst ||| f } else s

/-- A pending operation completes: its writes land, its flags are raised, its count falls (R53, R102). -/
def landReturn (s : State) (id : Nat) : State :=
  let l := tblGet s.loads id
  let s1 := l.writes.foldl (fun s r => landWrite s l.warp id r) s
  let s2 := l.fp.foldl (fun s e => landFp s l.warp e.1 e.2) s1
  let s3 := lowerFlag s2 l.warp l.flag
  let s4 := readBefore (readBefore (if l.load then imageReturned s3 l.warp else s3) true l.warp (l.old.filter fun e => e.1 % 2 = 0))
    false (warpOf s l.warp).wg (l.old.filter fun e => e.1 % 2 = 1)
  settleWarp { s4 with loads := tblDel s4.loads id } l.warp

def returnDue (s : State) (load : Bool) (id : Nat) : Bool :=
  match tblGet? s.loads id with
  | some l => l.waits.isEmpty && l.load == load
  | none => false

/-- `LOAD_RETURN`: a is the pending return. -/
def execLoadReturn (s : State) : Out := if returnDue s true s.arg.a then .next (landReturn s s.arg.a) else .refused .notDue

/-- `LONG_LATENCY_COMPLETION`: a is a pending operation that is no load, or a tile operation. -/
def execLongLatencyCompletion (s : State) : Out :=
  if returnDue s false s.arg.a then .next (landReturn s s.arg.a)
  else if matReady s s.arg.a && decide ((matOf s s.arg.a).kind ≠ 0) then .next (tileStep s s.arg.a)
  else .refused .notDue

/-! ### Writes on their way (R198 to R201) -/

/-- A write moves to the next level of its path. -/
def stepWrite (s : State) (id : Nat) (w : PWrite) : State :=
  let l := nextLevel w
  let s1 := dropCopiesOf s w.pcore w.addr w.data.length
  { s1 with writes := tblUpd s1.writes id (fun x => { x with level := l, arr := s1.nextId }), nextId := s1.nextId + 1 }

/-- `WRITE_PERFORMED_AT_SCOPE`: a is the write. -/
def execWritePerformedAtScope (s : State) : Out :=
  match tblGet? s.writes s.arg.a with
  | some w => if mayMove s s.arg.a w && decide (nextLevel w < 4) then .next (stepWrite s s.arg.a w) else .refused .notDue
  | none => .refused .notDue

/-- A write may merge at its home: it may move there, and its unit is not protected by a cut (R363). -/
def mergeDue (s : State) (id : Nat) : Bool :=
  match tblGet? s.writes id with
  | some w => mayMove s id w && decide (nextLevel w = 4) && !unitProtected s w.addr w.data.length
  | none => false

/-- The bytes of a write merge at its home (R201), or take their place in the on-chip map. -/
def mergeWrite (s : State) (id : Nat) : State :=
  let w := tblGet s.writes id
  let s1 := dropCopiesOf { s with writes := tblDel s.writes id } w.pcore w.addr w.data.length
  let s2 := if isOnChip (gpLocal w.addr) then putChipBytes s1 w.addr w.data else putHome s1 w.addr w.key w.data
  settleWarp s2 w.warp

/-- `WRITE_BACK_MERGE`: a is the write. -/
def execWriteBackMerge (s : State) : Out := if mergeDue s s.arg.a then .next (mergeWrite s s.arg.a) else .refused .notDue

end Sys2Proof.Machine
end

