-- ==== Sys2Proof/Machine/Surveyor.lean ====
section
/-! DEFINITION. The Surveyor (R359 to R367): cuts from their request to their manifest, streaming, protected units, `CKPT` (R378),
`SAVECOST` (R367), and the rollback of a context to its last cut (R366, R372). -/

namespace Sys2Proof.Machine

/-! ### Descriptors and requests (R359, R362) -/

def ckptOf (s : State) (ctx : Nat) : Ckpt := ((ctxOf s ctx).ckpt).getD {}
def updCkpt (s : State) (ctx : Nat) (f : Ckpt → Ckpt) : State := updCtx s ctx fun c => { c with ckpt := c.ckpt.map f }

/-- A field of a part's descriptor. -/
def descNat (s : State) (part off n : Nat) : Nat := homeNat s ((partOf s part).desc + off) n

/-- Parts of a context that have a descriptor. -/
def surveyed (s : State) (ctx : Nat) : List Nat := (partsOfCtx s ctx).filter fun k => decide ((partOf s k).desc ≠ 0)

/-- A cut begins: every core of the context, in every package, is asked to stop (R362 step 1). -/
def beginCut (s : State) (ctx : Nat) : State :=
  let s1 := updCkpt s ctx fun k => { k with cut := k.nextCut, phase := 1, nextCut := k.nextCut + 1, want := false }
  (partsOfCtx s1 ctx).foldl (fun s k => if (partOf s k).saved || (partOf s k).frozen then s else stopPart s k) s1

/-- A cut is requested: it begins, or the next one serves the request. -/
def requestCut (s : State) (ctx : Nat) : State :=
  if (ckptOf s ctx).phase = 0 then beginCut s ctx else updCkpt s ctx fun k => { k with want := true }

/-- The number of the cut that serves a request of the mailbox made now (R362). -/
def servingCut (s : State) (ctx : Nat) : Nat := (ckptOf s ctx).nextCut

/-- `CUT_INTERVAL_EXPIRY`: a is the context. -/
def intervalDue (s : State) (ctx : Nat) : Bool :=
  match (ckptOf s ctx).due with
  | some t => decide (t ≤ s.clk) && !(partsOfCtx s ctx).any fun k => (partOf s k).idle
  | none => false

def nextInterval (s : State) (ctx : Nat) : State :=
  let n := ((surveyed s ctx).map fun k => descNat s k 0x10 4).filter (· ≠ 0)
  updCkpt s ctx fun k => { k with due := (minNat? n).map fun i => s.clk + i * 2 ^ 20 }

def execCutIntervalExpiry (s : State) : Out :=
  if intervalDue s s.arg.a then .next (requestCut (nextInterval s s.arg.a) s.arg.a) else .refused .notDue

/-! ### Units of memory (R360) -/

/-- 64 KiB units that a leaf entry maps with W = 1, in HBM or the capacity tier. -/
def leafUnitsOf (lo hi n : Nat) : List Nat :=
  match leafEntry 0 n lo hi with
  | some e =>
    if e.wr && (decide (gpLocal e.pbase < 0xC000000000) || isCapacity (gpLocal e.pbase)) then
      (List.range ((e.size + 65535) / 65536)).map fun i => e.pbase / 65536 + i
    else []
  | none => []

/-- Units that a table of n levels maps with W = 1. -/
def tableUnits (s : State) (pkg : Nat) : Nat → Nat → List Nat
  | 0, _ => []
  | n + 1, tbl =>
    (List.range 512).flatMap fun i =>
      let a := gpOf pkg (tbl + 16 * i)
      let lo := homeNat s a 8
      if lo % 2 = 0 then []
      else if lo / 2 % 2 = 1 then leafUnitsOf lo (homeNat s (a + 8) 8) n
      else tableUnits s pkg n (lo / 2 ^ 13 % 2 ^ 38 * 2 ^ 13)

/-- Memory units of a context, in ascending number. -/
def ctxUnits (s : State) (ctx : Nat) : List Nat :=
  sortNat ((partsOfCtx s ctx).flatMap fun k =>
    if (partOf s k).ptbase = 0 then [] else tableUnits s (partOf s k).pkg 5 ((partOf s k).ptbase.toNat % 2 ^ 51))

/-- Units homed in the package of a part whose STREAM bit is set. -/
def streamUnits (s : State) (part : Nat) : List Nat :=
  let ctx := part / 8192
  (ctxUnits s ctx).filter fun u => gpPkg (u * 65536) == (partOf s part).pkg && !(ckptOf s ctx).clear.contains u

/-! ### Records of the area (R365) -/

/-- Bytes of the ring from a place to FLOOR. -/
def ringRoom (s : State) (part tail : Nat) : Nat :=
  let floor := descNat s part 0x30 8
  if tail < floor then floor - tail else floor + descNat s part 0x08 8 - tail

/-- Bytes written in the ring from an offset, round its end. -/
def putRing (s : State) (part off : Nat) (b : List Byte) : State :=
  let base := descNat s part 0x00 8
  let size := descNat s part 0x08 8
  let key := descNat s part 0x18 2
  let n := size - off % size
  putHome (putHome s (base + off % size) key (b.take n)) base key (b.drop n)

/-- Poisoned sectors of a memory range, by index in it, and its bytes with those sectors zero. -/
def poisonIn (s : State) (a n : Nat) : List Nat := (List.range (n / 32)).filter fun i => poisoned s (a + 32 * i) 32
def cleanBytes (s : State) (a n : Nat) : List Byte :=
  let l := poisonIn s a n
  (List.range n).map fun k => if l.contains (k / 32) then 0 else bmGet s.mem (a + k)

/-- A record: header, data, poisoned sectors, padded to 64 bytes. -/
def recordBytes (kind lpkg cut addr len : Nat) (data : List Byte) (pois : List Nat) : List Byte :=
  pad64 (leBytes 1 kind ++ leBytes 1 0 ++ leBytes 2 lpkg ++ leBytes 4 pois.length ++ leBytes 8 cut ++ leBytes 8 addr ++ leBytes 8 len ++
    leBytes 32 0 ++ data ++ pois.flatMap fun i => leBytes 4 i)

/-- The area of a part can be reached: it is memory of the capacity tier, and its key slot is loaded. -/
def areaReached (s : State) (part : Nat) : Bool :=
  let base := descNat s part 0x00 8
  let key := descNat s part 0x18 2
  assigned s base && isCapacity (gpLocal base) && keyLoaded s (gpPkg base) key

/-- A record placed at the area's TAIL, which moves past it. -/
def placeRecord (s : State) (part : Nat) (b : List Byte) : State :=
  let tail := descNat s part 0x38 8
  let s1 := putNat (putRing s part tail b) ((partOf s part).desc + 0x38) 8 ((tail + b.length) % descNat s part 0x08 8)
  updPart s1 part fun p => { p with written := p.written + b.length }

/-- A record appended at TAIL; none where it would reach FLOOR or the area cannot be reached. -/
def appendRecord (s : State) (part : Nat) (b : List Byte) : Except Cause State :=
  if !areaReached s part then .error .access
  else if ringRoom s part (descNat s part 0x38 8) ≤ b.length then .error .bounds
  else .ok (placeRecord s part b)

/-- The record of a unit of a part: kind 1 a snapshot unit of 128 bytes, kind 2 a memory unit. -/
def unitRecord (s : State) (part cut : Nat) (e : Nat × Nat) : List Byte :=
  let lpkg := part % 8192
  if e.1 = 1 then
    let a := gpOf (partOf s part).pkg (descNat s part 0x20 8 % 2 ^ 51) + 128 * e.2
    recordBytes 1 lpkg cut (128 * e.2) 128 (homeBytes s a 128) []
  else
    let a := e.2 * 65536
    recordBytes 2 lpkg cut (gpLocal a) 65536 (cleanBytes s a 65536) (poisonIn s a 65536)

/-! ### The end of a cut -/

/-- `CKPT` numbers served by a cut are complete, whether it is durable or has failed (R378). -/
def serveWaits (s : State) (ctx cut : Nat) : State :=
  let ws := (ckptOf s ctx).waits.filter fun e => decide (e.2.2 ≤ cut)
  ws.foldl (fun s e => completeNumber s ctx e.1 e.2.1)
    (updCkpt s ctx fun k => { k with waits := k.waits.filter fun e => decide (cut < e.2.2) })

/-- A cut is over: units are no longer protected, and a request that waited begins the next. -/
def closeCut (s : State) (ctx cut : Nat) : State :=
  let s1 := (surveyed s ctx).foldl (fun s k => updPart s k fun p => { p with todo := [], written := 0, manifested := false })
    { s with protU := s.protU.filter fun e => e.2 != ctx }
  let s2 := serveWaits (updCkpt s1 ctx fun k => { k with phase := 0 }) ctx cut
  if (ckptOf s2 ctx).want then beginCut s2 ctx else s2

/-- Stopped cores of a context resume, but for those that are frozen, saved or idle on their own account. -/
def resumeCores (s : State) (ctx : Nat) : State :=
  (partsOfCtx s ctx).foldl (fun s k =>
    let p := partOf s k
    if p.frozen || p.saved || p.idle then s
    else ((warpsOfPart s k).filter fun w => !(p.frozenDies.contains (pcDie (coreOfWarp s w) % 4))).foldl resumeWarp
      (updPart s k fun p => { p with stopReq := false })) s

/-- A cut fails: a record with SRC 2 and the cut's number, LASTCUT as before (R365). -/
def failCut (s : State) (ctx part : Nat) (c : Cause) : State :=
  let k := ckptOf s ctx
  let s1 := appendFault s part { cause := causeCode c, src := 2, info := k.cut }
  let s2 := (surveyed s1 ctx).foldl (fun s k => updPart s k fun p => { p with snapAll := true }) s1
  closeCut (if k.phase = 1 then resumeCores s2 ctx else s2) ctx k.cut

/-! ### `CUT_INSTANT` (R362 steps 2 and 3) -/

/-- The last core of a context in a cut has stopped, and its pending returns are written. -/
def instantDue (s : State) (ctx : Nat) : Bool :=
  decide ((ckptOf s ctx).phase = 1) &&
  (partsOfCtx s ctx).all fun k => allHalted s (warpsOfPart s k) && s.loads.all fun e => e.2.part != k

/-- The base of a part's snapshot buffer. -/
def snapBase (s : State) (part : Nat) : Nat := gpOf (partOf s part).pkg (descNat s part 0x20 8 % 2 ^ 51)

/-- Fields of the save header that system software writes, copied to the snapshot's. -/
def copyHeader (s : State) (part base : Nat) : State :=
  if (partOf s part).savebase = 0 then s
  else
    let b := saveBase (partOf s part)
    putHome (putHome s (base + 8) 0 (homeBytes s (b + 8) 8)) (base + 0x38) 0 (homeBytes s (b + 0x38) 28)

/-- The deterministic log pool of a part as memory units. -/
def poolUnits (s : State) (part : Nat) : List Nat :=
  let p := partOf s part
  if p.savebase = 0 then []
  else
    let a := gpOf p.pkg (homeNat s (saveBase p + 0x38) 8 % 2 ^ 51)
    let n := homeNat s (saveBase p + 0x40) 4 * homeNat s (saveBase p + 0x44) 4
    if n = 0 then [] else (List.range ((a + n - 1) / 65536 - a / 65536 + 1)).map fun i => a / 65536 + i

/-- Memory units protected (R363). -/
def protect (s : State) (l : List (Nat × Nat)) : State := { s with protU := s.protU ++ l }

/-- The snapshot buffer of a part written, and the units of its cut noted. -/
def snapWrite (s s0 : State) (part : Nat) (l : Layout) (ops : Nat × Nat) : State :=
  let base := snapBase s part
  let s1 := copyHeader (putHeader (putLayout s0 base l) part base l.pos l.cores ops) part base
  let changed := (List.range ((l.pos + 127) / 128)).filter fun u =>
    (partOf s part).snapAll || homeBytes s (base + 128 * u) 128 != homeBytes s1 (base + 128 * u) 128
  let mem := sortNat (streamUnits s part ++ poolUnits s part)
  protect (updPart s1 part fun p => { p with todo := changed.map (fun u => (1, u)) ++ mem.map (fun u => (2, u)), snapAll := false })
    (mem.map fun u => (u, part / 8192))

/-- One part's on-chip state written into its snapshot buffer, its changed units listed, and its memory units protected. -/
def snapPart (s : State) (part : Nat) : Except Cause State :=
  let s0 := refreshPart s part
  let l := layPart s0 part
  if descNat s part 0x28 8 < l.1.pos then .error .bounds else .ok (snapWrite s s0 part l.1 l.2)

/-- What the device keeps of a context's tables at the cut instant. -/
def snapTables (s : State) (ctx : Nat) : Snap :=
  let t := (surveyed s ctx).foldl (fun s k => takeOut s (snapBase s k) (layPart (refreshPart s k) k).1) s
  { grids := s.grids.filter fun e => e.2.ctx == ctx
    wgs := (t.savedWgs.filter fun e => e.2.ctx == ctx) ++ t.wgs.filter fun e => e.2.ctx == ctx && e.2.done && e.2.logIx.isSome
    warps := t.savedWarps.filter fun e => e.2.ctx == ctx }

def snapParts (ctx : Nat) : List Nat → State → State
  | [], s => s
  | k :: t, s =>
    match snapPart s k with
    | .error c => failCut s ctx k c
    | .ok s1 => snapParts ctx t s1

/-- `CUT_INSTANT`: a is the context. -/
def cutInstant (s : State) (ctx : Nat) : State :=
  let s1 := snapParts ctx (surveyed s ctx) { s with snaps := tblSet s.snaps (2 * ctx + 1) (snapTables s ctx) }
  if (ckptOf s1 ctx).phase = 1 ∧ (ckptOf s1 ctx).cut = (ckptOf s ctx).cut then
    resumeCores (updCkpt s1 ctx fun k => { k with phase := 2, since := some [] }) ctx
  else s1

def execCutInstant (s : State) : Out := if instantDue s s.arg.a then .next (cutInstant s s.arg.a) else .refused .notDue

/-! ### Records, manifest and durability (R362 steps 4 and 5) -/

/-- A unit of a cut is in the area: it is protected no longer, and its STREAM bit is clear. -/
def unitWritten (s : State) (part : Nat) (e : Nat × Nat) : State :=
  let ctx := part / 8192
  let s1 := updPart s part fun p => { p with todo := p.todo.filter (· != e) }
  if e.1 = 2 then
    updCkpt { s1 with protU := s1.protU.filter (· != (e.2, ctx)) } ctx fun k => { k with clear := insNat e.2 k.clear }
  else s1

/-- The next thing that the Surveyor writes for a cut: a unit of a part, or a part's manifest. -/
def nextRecord? (s : State) (ctx : Nat) : Option (Nat × Option (Nat × Nat)) :=
  (surveyed s ctx).findSome? fun k =>
    match (partOf s k).todo with
    | e :: _ => some (k, some e)
    | [] => if (partOf s k).manifested then none else some (k, none)

/-- A part's unit written to its area. -/
def writeUnit (s : State) (ctx part : Nat) (e : Nat × Nat) : State :=
  match appendRecord s part (unitRecord s part (ckptOf s ctx).cut e) with
  | .error c => failCut s ctx part c
  | .ok s1 => unitWritten s1 part e

/-- A part's manifest (kind 3): the offset of the previous one, and the bytes of the cut's records. -/
def writeManifest (s : State) (ctx part : Nat) : State :=
  let p := partOf s part
  let at_ := descNat s part 0x38 8
  match appendRecord s part (recordBytes 3 (part % 8192) (ckptOf s ctx).cut (p.manifest.getD (2 ^ 64 - 1)) p.written [] []) with
  | .error c => failCut s ctx part c
  | .ok s1 => updPart s1 part fun p => { p with manifest := some at_, manifested := true }

/-- `CUT_RECORD_WRITE`: a is the context. -/
def execCutRecordWrite (s : State) : Out :=
  let ctx := s.arg.a
  if (ckptOf s ctx).phase = 2 then
    match nextRecord? s ctx with
    | some (k, some e) => .next (writeUnit s ctx k e)
    | some (k, none) =>
      let s1 := writeManifest s ctx k
      .next (if (ckptOf s1 ctx).phase = 2 ∧ (nextRecord? s1 ctx).isNone then updCkpt s1 ctx fun k => { k with phase := 3 } else s1)
    | none => .next (updCkpt s ctx fun k => { k with phase := 3 })
  else .refused .notDue

/-- `CUT_DURABLE`: a is the context: every manifest of the cut is durable, and LASTCUT takes its number. -/
def cutDurable (s : State) (ctx : Nat) : State :=
  let n := (ckptOf s ctx).cut
  let s1 := (surveyed s ctx).foldl (fun s k => putNat s ((partOf s k).desc + 0x40) 8 n) s
  let s2 := updCkpt { s1 with snaps := tblSet s1.snaps (2 * ctx) (tblGet s1.snaps (2 * ctx + 1)) } ctx fun k => { k with lastCut := n }
  closeCut s2 ctx n

def execCutDurable (s : State) : Out :=
  if (ckptOf s s.arg.a).phase = 3 then .next (cutDurable s s.arg.a) else .refused .notDue

/-- `PROTECTED_UNIT_WRITE`: a is the context, b the unit: its contents at the cut instant are copied before a write merges (R363). -/
def execProtectedUnitWrite (s : State) : Out :=
  if (ckptOf s s.arg.a).phase = 2 then
    match (surveyed s s.arg.a).find? fun k => (partOf s k).todo.contains (2, s.arg.b) with
    | some k => .next (writeUnit s s.arg.a k (2, s.arg.b))
    | none => .refused .notDue
  else .refused .notDue

/-- `STREAM_UNIT_WRITE`: a is the context, b the unit: a changed unit is written between cuts under the next cut's number (R361). -/
def streamPart? (s : State) (ctx u : Nat) : Option Nat :=
  (surveyed s ctx).find? fun k => decide (descNat s k 0x14 4 / 2 % 2 = 1) && (streamUnits s k).contains u

def streamWrite? (s : State) (ctx u : Nat) : Option State :=
  if (ckptOf s ctx).phase = 0 ∧ !((partsOfCtx s ctx).any fun k => (partOf s k).idle) then
    match streamPart? s ctx u with
    | none => none
    | some k =>
      match appendRecord s k (unitRecord s k (ckptOf s ctx).nextCut (2, u)) with
      | .error _ => none
      | .ok s1 => some (unitWritten s1 k (2, u))
  else none

def execStreamUnitWrite (s : State) : Out :=
  match streamWrite? s s.arg.a s.arg.b with
  | some s1 => .next s1
  | none => .refused .notDue

/-! ### `SAVECOST` and PENDING (R367) -/

/-- USED of a part, as a save would report it. -/
def usedOf (s : State) (part : Nat) : Nat := (layPart (refreshPart s part) part).1.pos

/-- Bytes that a cut begun now would still have to write for a part. -/
def pendingOf (s : State) (part : Nat) : Nat :=
  let s0 := refreshPart s part
  let (l, list) := layPart s0 part
  let base := snapBase s part
  let s1 := putHeader (putLayout s0 base l) part base l.pos l.cores list
  let snaps := (List.range ((l.pos + 127) / 128)).filter fun u =>
    (partOf s part).snapAll || homeBytes s (base + 128 * u) 128 != homeBytes s1 (base + 128 * u) 128
  128 * snaps.length + 65536 * (streamUnits s part).length

/-- `SAVECOST_UPDATE`: a is the context. -/
def costDue (s : State) (ctx : Nat) : Bool :=
  !(partsOfCtx s ctx).isEmpty && (partsOfCtx s ctx).all fun k => decide ((partOf s k).costAt ≤ s.clk)

def costUpdate (s : State) (ctx : Nat) : State :=
  let ks := partsOfCtx s ctx
  let n := (ks.map fun k => usedOf s k).sum
  let s1 := ks.foldl (fun s k => updPart s k fun p => { p with savecost := BitVec.ofNat 48 n, costAt := s.clk + 2 ^ 16 }) s
  (surveyed s ctx).foldl (fun t k => putNat t ((partOf s k).desc + 0x48) 8 (pendingOf s k)) s1

def execSavecostUpdate (s : State) : Out := if costDue s s.arg.a then .next (costUpdate s s.arg.a) else .refused .notDue

/-! ### `CKPT` (R378) -/

def ckptCtr (x : Src) : Nat := (lo32 x.a).toNat

/-- Members of a list that take a number on a counter before one. -/
def ckptBefore (l : List (Member × Src)) (m : Member) (k : Nat) : Nat :=
  ((l.takeWhile fun e => e.1 != m).filter fun e => ckptCtr e.2 == k).length

/-- One member's request: it takes the next number, to be served by the first cut whose snapshot begins after it. -/
def ckptTake (s : State) (ctx k : Nat) : State :=
  let n := nextNumber s ctx k
  let serving := if (ckptOf s ctx).phase = 1 then (ckptOf s ctx).cut else (ckptOf s ctx).nextCut
  updCkpt (takeNumber s ctx k) ctx fun c => { c with waits := c.waits ++ [(k, n, serving)] }

def execCkpt (p : BitVec 3) (d a : BitVec 7) (s : State) : Out :=
  let i : Instr := .ckpt p d a
  groupOp i .both noWait
    (fun s m x =>
      let ctx := (warpOf s m.warp).ctx
      if (lo32 x.a).toNat / 16 ≠ 0 then some { order := 21, cause := .illegalEncoding }
      else if takesForward s m then none
      else if (partOf s (partOfWarp s m.warp)).desc = 0 ∨ (ctxOf s ctx).ckpt.isNone then some { order := 22, cause := .access }
      else
        let before := match curGroup? s with
          | some g => ckptBefore ((active s g p).map fun n => (n, srcOf s g (shapeOf i) n)) m (ckptCtr x)
          | none => 0
        if counterHas s ctx (ckptCtr x) (before + 1) then none else some { order := 23, cause := .access })
    (fun s _ l =>
      let own := l.filter fun e => !takesForward s e.1 && !(thrOf s e.1).helper
      let num (e : Member × Src) : Val :=
        BitVec.ofNat 128 (nextNumber s (warpOf s e.1.warp).ctx (ckptCtr e.2) + ckptBefore own e.1 (ckptCtr e.2))
      let led := l.filter fun e => takesForward s e.1 && !(thrOf s e.1).helper
      let vals := own.map (fun e => (e.1, num e)) ++ led.map fun e => (e.1, (fwdVal? s e.1).getD 0)
      let s1 := own.foldl (fun s e => ckptTake s (warpOf s e.1.warp).ctx (ckptCtr e.2)) s
      let s2 := takeFwds (forwards (writeD s1 (shapeOf i).d vals) vals) (led.map (·.1))
      (match own with
       | [] => s2
       | e :: _ => if (ckptOf s2 (warpOf s e.1.warp).ctx).phase = 1 then s2 else requestCut s2 (warpOf s e.1.warp).ctx, [])) s

/-! ### Rollback (R366, R372) -/

/-- A record of the area as a scan finds it. -/
structure AreaRec where
  off : Nat
  kind : Nat
  cut : Nat
  addr : Nat
  len : Nat
  npois : Nat
deriving DecidableEq, Repr

/-- A byte, and a number, of the ring of a part. -/
def ringNat (s : State) (part off n : Nat) : Nat :=
  leNat ((List.range n).map fun k => bmGet s.mem (descNat s part 0x00 8 + (off + k) % descNat s part 0x08 8))

/-- Records of the ring from an offset up to TAIL, at most n. -/
def scanRing (s : State) (part : Nat) : Nat → Nat → List AreaRec
  | 0, _ => []
  | n + 1, off =>
    if off = descNat s part 0x38 8 then []
    else
      let r : AreaRec := { off := off, kind := ringNat s part off 1, npois := ringNat s part (off + 4) 4, cut := ringNat s part (off + 8) 8,
                           addr := ringNat s part (off + 16) 8, len := ringNat s part (off + 24) 8 }
      let size := 64 + (if r.kind = 3 then 0 else r.len) + 4 * r.npois
      r :: scanRing s part n ((off + align64 size) % descNat s part 0x08 8)

def areaRecs (s : State) (part : Nat) : List AreaRec := scanRing s part (descNat s part 0x08 8 / 64) (descNat s part 0x30 8)

/-- The data of a record, and the sectors that it lists as poisoned. -/
def recData (s : State) (part : Nat) (r : AreaRec) : List Byte :=
  (List.range r.len).map fun k => bmGet s.mem (descNat s part 0x00 8 + (r.off + 64 + k) % descNat s part 0x08 8)
def recPoison (s : State) (part : Nat) (r : AreaRec) : List Nat :=
  (List.range r.npois).map fun i => ringNat s part (r.off + 64 + r.len + 4 * i) 4

/-- Bytes written at their home under the keys that their lines have. -/
def putKept (s : State) (a : Nat) (data : List Byte) : State :=
  markUnits { s with mem := bmSetAll s.mem ((List.range data.length).map fun k => (a + k, data.getD k 0)),
                     poison := s.poison.filter fun k => !(decide (a ≤ k * 32) && decide (k * 32 + 32 ≤ a + data.length)) } a data.length

/-- The memory units whose SINCE bit is set, rewritten from the records of a cut. -/
def rollMemory (s : State) (part cut : Nat) : State :=
  let ctx := part / 8192
  let rs := (areaRecs s part).filter fun r => r.kind == 2 && decide (r.cut ≤ cut)
  let changed (u : Nat) : Bool := match (ckptOf s ctx).since with
    | none => true
    | some l => l.contains u
  rs.foldl (fun t r =>
    let a := gpOf (partOf s part).pkg r.addr
    if changed (a / 65536) then
      let t1 := putKept t a (recData s part r)
      { t1 with poison := (recPoison s part r).foldl (fun l i => insNat (a / 32 + i) l) t1.poison }
    else t) s

/-- The snapshot buffer rebuilt from the records of a cut. -/
def rollBuffer (s : State) (part cut : Nat) : State :=
  let rs := (areaRecs s part).filter fun r => r.kind == 1 && decide (r.cut ≤ cut)
  rs.foldl (fun t r => putHome t (snapBase s part + r.addr) 0 (recData s part r)) s

/-- Everything of a context leaves the cores: holders, warps, operations in flight, pending work. -/
def dropWork (s : State) (ctx : Nat) : State :=
  let hs := (s.wgs.filter fun e => e.2.ctx == ctx).map (·.1)
  let ws := (s.warps.filter fun e => e.2.ctx == ctx).map (·.1)
  let s1 := hs.foldl leaveCore s
  { s1 with
    groups := s1.groups.filter fun e => !hs.contains e.2.wg
    wgs := s1.wgs.filter fun e => !hs.contains e.1, warps := s1.warps.filter fun e => !ws.contains e.1
    savedWgs := s1.savedWgs.filter fun e => e.2.ctx != ctx, savedWarps := s1.savedWarps.filter fun e => e.2.ctx != ctx
    loads := s1.loads.filter fun e => e.2.part / 8192 != ctx && !ws.contains e.2.warp
    atoms := s1.atoms.filter fun e => e.2.ctx != ctx, mcas := s1.mcas.filter fun e => e.2.ctx != ctx
    mats := s1.mats.filter fun e => !hs.contains e.2.wg, ops := s1.ops.filter fun e => e.2.ctx != ctx
    writes := s1.writes.filter fun e => e.2.ctx != ctx }

/-- A part's on-chip state reloaded from its snapshot buffer: it is entered as an area there, and its cores wait for placement. Its records
are checked before anything is loaded (R49, R352); where a check fails nothing is entered and the part stays frozen (DESIGN CHOICE,
log 41). -/
def rollPart (s : State) (part : Nat) : State :=
  let p := partOf s part
  let base : Pair := BitVec.ofNat 64 (gpLocal (snapBase s part))
  let s1 := updPart s part fun q => { q with savebase := base, awaits := [] }
  updPart (if areaOk s1 part then enterArea s1 part else freezePart s1 part) part fun q => { q with savebase := p.savebase }

/-- The rollback of a context to its last durable cut, in place. -/
def rollBack (s : State) (ctx : Nat) : State :=
  let c := (ckptOf s ctx).lastCut
  let snap := tblGet s.snaps (2 * ctx)
  let ks := surveyed s ctx
  let s1 := ks.foldl (fun s k => rollBuffer (rollMemory s k c) k c) (dropWork s ctx)
  let s2 : State := { s1 with grids := snap.grids.foldl (fun t e => tblSet t e.1 e.2) (s1.grids.filter fun e => e.2.ctx != ctx),
                              wgs := s1.wgs ++ snap.wgs.filter fun e => e.2.done,
                              savedWgs := (snap.wgs.filter fun e => !e.2.done).foldl (fun t e => tblSet t e.1 e.2) s1.savedWgs,
                              savedWarps := snap.warps.foldl (fun t e => tblSet t e.1 e.2) s1.savedWarps }
  let s3 := serveWaits (ks.foldl rollPart s2) ctx c
  updCkpt s3 ctx fun k => { k with since := some [], waits := [] }

/-- A cut in progress is abandoned. -/
def abandonCut (s : State) (ctx : Nat) : State :=
  let k := ckptOf s ctx
  if k.phase = 0 then s
  else
    let s1 := (surveyed s ctx).foldl (fun s k => updPart s k fun p => { p with todo := [], written := 0, manifested := false, snapAll := true })
      { s with protU := s.protU.filter fun e => e.2 != ctx }
    updCkpt s1 ctx fun k => { k with phase := 0 }

end Sys2Proof.Machine
end

