-- ==== Sys2Proof/Machine/Replica.lean ====
section
/-! DEFINITION. Redundant execution (R368 to R376): the comparison of replicas, outvotes with the rebuild of a replica, mismatches, and
`SIGCHK` and `REPLQ` (R379, R380). -/

namespace Sys2Proof.Machine

/-! ### What is compared (R371) -/

/-- What the Triangulation unit compares of a replica: signature, entry count, and its trap's cause and restart point. -/
structure Vote where
  sig : Pair
  n : Nat
  trap : Option (Nat × Pair × Nat)
deriving DecidableEq, Repr

def voteOf (s : State) (w : Nat) : Vote :=
  let x := warpOf s w
  { sig := x.sig, n := x.sigN, trap := x.pendTrap.map fun r => (r.cause, r.pc, r.pos) }

/-- The replicas of a warp by number, and the leader's warp. -/
def replicasOf (s : State) (w : Nat) : List Nat :=
  let l := (replicaWarps s w).map fun v => ((wgOfWarp s v).replica, v)
  (sortNat (l.map (·.1))).filterMap fun r => (l.find? fun e => e.1 == r).map (·.2)
def leaderWarp (s : State) (w : Nat) : Nat := ((replicaWarps s w).find? fun v => isLeader s v).getD w

/-- Every replica stands at its comparison point. -/
def compareDue (s : State) (w : Nat) : Bool :=
  (tblGet? s.warps w).isSome && isRedun s w && isLeader s w && (replicaWarps s w).all fun v => (warpOf s v).atCmp

/-! ### Agreement -/

/-- A held store performed for the leader: in its workgroup's log, on the chip, or on its way home. -/
def performHeld (s : State) (w : Nat) (h : HoldEntry) : State :=
  let x := warpOf s w
  if detShared s w h.va then appendLog s x.wg (logEntries 0 0 h.va h.data)
  else if isOnChip (gpLocal h.addr) then putChipBytes s h.addr h.data
  else pushWrite s { ctx := x.ctx, warp := w, pcore := coreOfWarp s w, part := partOfWarp s w, level := 0, addr := h.addr, data := h.data,
                     key := h.key, uncached := h.uncached }

/-- The comparison of a replica is over: its signature starts anew, and the threads that wait for it may perform their instruction. -/
def clearCompare (ok : Bool) (x : Warp) : Warp :=
  { x with sig := 0xFFFFFFFFFFFFFFFF, sigN := 0, hold := [], cmps := x.cmps + 1, atCmp := false, aged := false, cmpOk := ok && !x.aged,
           agreed := if ok then x.agreed ++ (x.lanes.filter fun e => e.2.wait == .room && !x.agreed.contains e.1).map (·.1) else x.agreed }

/-- The replicas agree: the leader's stores are performed in order, and a trap that all share is recorded once. -/
def agree (s : State) (w : Nat) : State :=
  let l := leaderWarp s w
  let x := warpOf s l
  let s1 := x.hold.foldl (fun s h => performHeld s l h) s
  let s2 := (replicaWarps s1 w).foldl (fun s v => updWarp s v (clearCompare x.pendTrap.isNone)) s1
  let s3 := match x.pendTrap with
    | some r => trapWarp s2 l r
    | none => s2
  (replicaWarps s3 w).foldl freeWarp s3

/-! ### Outvotes (R373, R375) -/

/-- The record of the Triangulation unit: the leader's comparison point and logical place. -/
def compareRecord (s : State) (w : Nat) (c : Cause) (info info2 : Nat) : FaultRec :=
  let l := leaderWarp s w
  let g := wgOfWarp s l
  let at_ := match (warpOf s l).lanes.find? fun e => decide (e.2.wait = .room) with
    | some e => (e.2.pc, e.2.pos)
    | none => (((standing s l).headD (0, 0, 0)).2.1, ((standing s l).headD (0, 0, 0)).2.2)
  { cause := causeCode c, src := 7, pc := at_.1, pos := at_.2, place := lkPlace g.lcore, slot := if g.seqi then 0x7F else (warpOf s l).slot,
    info := info, info2 := info2, grid := g.grid }

/-- A holder leads its replicas: it takes over what only the leader has. -/
def makeLeader (s : State) (h : Nat) : State :=
  let old := (wgOf s h).leader
  if old = h then s
  else
    let o := wgOf s old
    let mates := wgMates s h
    let s1 := mates.foldl (fun s x => updWg s x fun g => { g with leader := h }) s
    let s2 := updWg s1 old fun g => { g with rcore := some (coreOfWg s old), logIx := none }
    let s3 := updWg s2 h fun g => { g with log := o.log, logIx := o.logIx, staging := o.staging }
    updGrid s3 o.grid fun g => { g with seqs := g.seqs.map fun x => if x = old then h else x }

/-- A free physical slot of a quarter of a core. -/
def freeSlot (s : State) (c q : Nat) : Nat :=
  let used := (roomOf s c).slots
  (((List.range 24).map fun j => q * 24 + j).find? fun j => !used.contains j).getD (q * 24)

/-- One warp of a replica overwritten with its counterpart, with what that has pending. -/
def copyWarp (s : State) (w v : Nat) : State :=
  let x := warpOf s v
  let s1 := updWarp s w fun y => { x with wg := y.wg, pslot := y.pslot, slot := y.slot }
  let ls := s1.loads.filter fun e => e.2.warp == v
  let ms := s1.mats.filter fun e => e.2.warp == v
  let s2 : State := { s1 with loads := s1.loads.filter fun e => e.2.warp != w, mats := s1.mats.filter fun e => e.2.warp != w }
  { s2 with
    loads := s2.loads ++ (List.range ls.length).map fun i => (s2.nextId + i, { (ls.getD i (0, {})).2 with warp := w, waits := [] })
    mats := s2.mats ++ (List.range ms.length).map fun i =>
      (s2.nextId + ls.length + i, { (ms.getD i (0, {})).2 with warp := w, wg := (warpOf s w).wg })
    nextId := s2.nextId + ls.length + ms.length }

/-- A warp that a replica has no more, though its counterpart has it, stands there again. -/
def addWarp (s : State) (h v : Nat) : State :=
  let x := warpOf s v
  let c := coreOfWg s h
  let id := s.nextId
  let p := if (wgOf s h).seqi then 0x7F else freeSlot s c (x.slot / 24)
  copyWarp (enterQuarter (updWg { s with warps := s.warps ++ [(id, { x with wg := h, pslot := p })], nextId := id + 1 } h fun g =>
    { g with warps := g.warps ++ [id] }) c p id) id v

/-- A warp that the counterpart of a replica has no more leaves it. -/
def cutWarp (s : State) (h w : Nat) : State :=
  let s1 := dropFromQuarter s w
  { updWg s1 h (fun g => { g with warps := g.warps.filter (· != w) }) with
    warps := tblDel s1.warps w, loads := s1.loads.filter fun e => e.2.warp != w, mats := s1.mats.filter fun e => e.2.warp != w }

/-- A replica's workgroup is overwritten with another's, each stopped at its restart points (R373). -/
def rebuild (s : State) (bad good : Nat) : State :=
  let s1 := ((wgOf s bad).warps ++ (wgOf s good).warps).foldl pullFromGroups s
  let g := wgOf s1 good
  let s2 := updWg s1 bad fun b =>
    { b with scr := g.scr, full := g.full, opb := g.opb, bars := g.bars, consts := g.consts, regions := g.regions, held := g.held, done := g.done,
             discard := g.discard, banks := tblMap g.banks fun i y => { y with phys := (tblGet? b.rset i).getD y.phys } }
  let idx (s : State) (w : Nat) : Nat := (warpOf s w).idx
  let s3 := (wgOf s2 bad).warps.foldl (fun s w =>
    match g.warps.find? fun v => idx s v == idx s w with
    | some v => copyWarp s w v
    | none => cutWarp s bad w) s2
  g.warps.foldl (fun s v => if (wgOf s bad).warps.any fun w => idx s w == idx s v then s else addWarp s bad v) s3

/-- A replica is outvoted by another: the lowest-numbered good one leads, the bad one is rebuilt, and a record is appended. -/
def outvote (s : State) (bad : Nat) (good : Nat) : State :=
  let hb := (warpOf s bad).wg
  let hg := (warpOf s good).wg
  let r := compareRecord s bad .replOutvoted ((warpOf s good).cmps + 1) (wgOf s hb).replica
  let part := partOfWarp s bad
  let s1 := if (wgOf s hb).leader = hb then makeLeader s hg else s
  let s2 := rebuild s1 hb hg
  appendFault (updCtx s2 (part / 8192) fun c => { c with outvoted := c.outvoted + 1 }) part r

/-! ### Mismatch (R372) -/

/-- The replicas disagree: held stores are discarded, the context is frozen, and it is rolled back where its descriptor says so. -/
def mismatch (s : State) (w : Nat) : State :=
  let part := partOfWarp s w
  let ctx := part / 8192
  let k := ckptOf s ctx
  let roll := decide (descNat s part 0x14 4 % 2 = 1) && decide ((partOf s part).desc ≠ 0) && decide (k.lastCut ≠ 0)
  let r := compareRecord s w .replMismatch (if roll then k.lastCut else 0) 0
  let s1 := (replicaWarps s w).foldl (fun s v =>
    updWarp s v fun x => { clearCompare false x with pendTrap := none, trapped := x.trapped && x.pendTrap.isNone }) s
  let s2 := (partsOfCtx s1 ctx).foldl (fun s k => freezePart (stopPart s k) k) (abandonCut s1 ctx)
  let s3 := appendFault s2 part r
  if roll then rollBack s3 ctx else s3

/-! ### `REPLICA_COMPARISON` -/

/-- A replica that differs from two that agree, and the lowest-numbered of those. -/
def minority? (s : State) (w : Nat) : Option (Nat × Nat) :=
  match replicasOf s w with
  | [a, b, c] =>
    if voteOf s a = voteOf s b then some (c, a)
    else if voteOf s a = voteOf s c then some (b, a)
    else if voteOf s b = voteOf s c then some (a, b)
    else none
  | _ => none

/-- The comparison decided (R371 to R373): an outvoted replica is overwritten with its counterpart at the comparison point before
the instruction proceeds. -/
def decideCompare (s : State) (w : Nat) : State :=
  if (replicaWarps s w).all fun v => voteOf s v == voteOf s w then agree s w
  else match minority? s w with
    | some (bad, good) => agree (outvote s bad good) good
    | none => mismatch s w

/-- `REPLICA_COMPARISON`: a is the leader's warp. -/
def execReplicaComparison (s : State) : Out := if compareDue s s.arg.a then .next (decideCompare s s.arg.a) else .refused .notDue

/-- `HOLD_AGE_EXPIRY`: a is the leader's warp: the oldest entry not compared is 4,096 a-cycles old, and the replicas have folded the
same number of entries. -/
def ageDue (s : State) (w : Nat) : Bool :=
  (tblGet? s.warps w).isSome && isRedun s w && isLeader s w && decide ((warpOf s w).sigN ≠ 0) && decide ((warpOf s w).holdAt + 3 * 4096 ≤ s.clk) &&
  (replicaWarps s w).all fun v => !(warpOf s v).atCmp && !(warpOf s v).cmpOk && decide ((warpOf s v).sigN = (warpOf s w).sigN)

def execHoldAgeExpiry (s : State) : Out :=
  if ageDue s s.arg.a then
    .next ((replicaWarps s s.arg.a).foldl (fun s v => updWarp s v fun x => { x with atCmp := true, aged := true }) s)
  else .refused .notDue

/-- `REPLICA_UNCORRECTABLE_ERROR`: a is the warp, b the word of its registers, 64 × register + lane: the erring replica is rebuilt from a
healthy one (R375); without one the word is poisoned, and an instruction that reads it raises MEM_POISON (R382). -/
def execReplicaUncorrectableError (s : State) : Out :=
  let w := s.arg.a
  if (tblGet? s.warps w).isNone ∨ 64 * (warpOf s w).nv ≤ s.arg.b then .refused .notDue
  else match (replicasOf s w).find? fun v => v != w && !(warpOf s v).lanes.isEmpty with
    | some good => .next (outvote s w good)
    | none => .next (updWarp s w fun x => { x with bad := insNat s.arg.b x.bad })

/-! ### `SIGCHK` and `REPLQ` -/

/-- `SIGCHK`: D is 1 under redundancy, once the comparison has agreed, and 0 without. -/
def execSigchk (p : BitVec 3) (d a : BitVec 7) (s : State) : Out :=
  let i : Instr := .sigchk p d a
  groupOpE i .cmp (fun _ _ x => [{ addr := 0, data := (lo32 x.a).toNat, mask := 0x0F, kind := 7 }]) noWait noFail
    (fun s _ l =>
      (writeD (clearWaits s (l.map (·.1))) (shapeOf i).d (l.map fun e => (e.1, if isRedun s e.1.warp then 1 else 0)), [])) s

/-- The value that a selector of `REPLQ` names. -/
def replVal (s : State) (m : Member) (sel : Nat) : Nat :=
  let k := khdrOfWarp s m.warp
  let part := partOfWarp s m.warp
  if sel = 0 then k.redun + 4 * (k.redun + 1)
  else if sel = 1 then (if k.redun = 0 then 0 else (warpOf s m.warp).cmps)
  else if sel = 2 then (ctxOf s (part / 8192)).outvoted
  else if (partOf s part).desc = 0 then 0
  else descNat s part 0x40 8

def execReplq (p : BitVec 3) (d a : BitVec 7) (s : State) : Out :=
  readOnce (.replq p d a)
    (fun _ _ x => if (lo32 x.a).toNat / 4 ≠ 0 then some { order := 21, cause := .illegalEncoding } else none)
    (fun s m x => BitVec.ofNat 128 (replVal s m ((lo32 x.a).toNat % 4) % 2 ^ 64)) s

end Sys2Proof.Machine
end

