-- ==== Sys2Proof/Machine/Reliability.lean ====
section
/-! DEFINITION. The reliability of memory (R381 to R386): scrubbing, the hot list, scores, remapping and lost channels; and the event
ring of the management mailbox (R403). -/

namespace Sys2Proof.Machine

/-! ### The mailbox and its event ring (R401, R403) -/

def mbNat (s : State) (p off n : Nat) : Nat := leNat (bmList (pkgAt s p).mbox off n)
def mbPut (s : State) (p off : Nat) (data : List Byte) : State :=
  updPkg s p fun k => { k with mbox := bmSetAll k.mbox ((List.range data.length).map fun i => (off + i, data.getD i 0)) }

def ringTail (s : State) (p : Nat) : Nat := mbNat s p 0xC0 8
def ringHead (s : State) (p : Nat) : Nat := mbNat s p 0xC8 8

/-- An event of a package: written at TAIL, or counted LOST where the ring is full. -/
def appendEvent (s : State) (p kind unit count value : Nat) : State :=
  let t := ringTail s p
  if (t + 2 ^ 64 - ringHead s p) % 2 ^ 64 = 256 then mbPut s p 0xD0 (leBytes 8 (mbNat s p 0xD0 8 + 1))
  else
    mbPut (mbPut s p (0x1000 + 16 * (t % 256)) (leBytes 1 kind ++ leBytes 1 unit ++ leBytes 2 0 ++ leBytes 4 count ++ leBytes 8 value))
      p 0xC0 (leBytes 8 (t + 1))

/-! ### Rows -/

/-- c-cycles of 24 hours and of 7 days (R4, R383, R384). -/
def dayClk : Nat := 155520000000000
def weekClk : Nat := 7 * dayClk

/-- The row of an HBM byte, with its stack and bank in one number. -/
def rowKey (l : Nat) : Nat := ((l / 2 ^ 36) * 65536 + (Config.rowOf l).1 % 65536) * 2 ^ 32 + (Config.rowOf l).2 % 2 ^ 32
def rowStack (r : Nat) : Nat := r / 2 ^ 48
def rowBank (r : Nat) : Nat := r / 2 ^ 32 % 65536
def rowNum (r : Nat) : Nat := r % 2 ^ 32

/-- Score, count of corrected errors, and moment of the last one. -/
def rowState (s : State) (p r : Nat) : Nat × Nat × Nat := (tblGet? (pkgAt s p).rows r).getD (0, 0, 0)
def rowScore (s : State) (p r : Nat) : Nat := (rowState s p r).1

/-- An entry of the error log. -/
def logError (s : State) (p kind r : Nat) : State :=
  let x := rowState s p r
  updPkg s p fun k => { k with errlog := k.errlog ++ [{ kind := kind, unit := rowStack r, bank := rowBank r, row := rowNum r, count := x.2.1, score := x.1 }] }

/-- The row of some with the lowest score, the first of equals. -/
def coldest (s : State) (p : Nat) : List Nat → Option Nat
  | [] => none
  | r :: t => match coldest s p t with
    | none => some r
    | some q => if rowScore s p r ≤ rowScore s p q then some r else some q

/-- A row enters the hot list of its stack; a full list evicts the row with the lowest score. -/
def enterHot (s : State) (p r : Nat) : State :=
  let hot := (pkgAt s p).hot
  if hot.contains r then s
  else
    let own := hot.filter fun q => rowStack q == rowStack r
    let out := if own.length < 4096 then none else coldest s p own
    updPkg s p fun k => { k with hot := (hot.filter fun q => some q != out) ++ [r] }

/-- Spare rows taken in a bank, and remap entries in a stack. -/
def remapRoom (s : State) (p r : Nat) : Bool :=
  let m := (pkgAt s p).remaps
  decide ((m.filter fun e => rowStack e.1 == rowStack r).length < 2048) &&
  decide ((m.filter fun e => rowStack e.1 == rowStack r && rowBank e.1 == rowBank r).length < 16)

/-- A row is remapped to the lowest spare row of its bank, or reported where the entries or the spares have run out (R385). -/
def remapRow (s : State) (p r : Nat) : State :=
  let m := (pkgAt s p).remaps
  if (tblGet? m r).isSome then s
  else if remapRoom s p r then
    let used := (m.filter fun e => rowStack e.1 == rowStack r && rowBank e.1 == rowBank r).map (·.2)
    let spare := ((List.range 16).find? fun i => !used.contains i).getD 0
    logError (updPkg s p fun k => { k with remaps := tblSet k.remaps r spare }) p 3 r
  else logError s p 4 r

/-! ### Pages (R384) -/

/-- Rows that hold the bytes of a 64 KiB page. -/
def pageRows (page : Nat) : List Nat := sortNat ((List.range 2048).map fun i => rowKey (page * 65536 + 32 * i))
def pageScore (s : State) (p page : Nat) : Nat := ((pageRows page).map fun r => rowScore s p r).sum

/-- Pages of a row's stack with bytes in the row, whose score has reached 32 and which have not been reported. -/
def duePages (s : State) (p r : Nat) : List Nat :=
  ((List.range (2 ^ 20)).map fun i => rowStack r * 2 ^ 20 + i).filter fun page =>
    !(pkgAt s p).reported.contains page && (pageRows page).contains r && decide (32 ≤ pageScore s p page)

/-- A page reported (R385): it is remembered, and an event names it with its score in the state given first. -/
def reportPage (s0 : State) (p r : Nat) (s : State) (page : Nat) : State :=
  appendEvent (updPkg s p fun k => { k with reported := insNat page k.reported }) p 1 (rowStack r) (pageScore s0 p page) (page * 65536)

/-- Each such page is reported once. -/
def reportPages (s : State) (p r : Nat) : State :=
  (duePages s p r).foldl (reportPage s p r) s

/-- The score of a row rises to a value: a row that reaches 16 is remapped, a page that reaches 32 is reported. -/
def raiseScore (s : State) (p r score count last : Nat) : State :=
  let old := rowScore s p r
  let s1 := updPkg s p fun k => { k with rows := tblSet k.rows r (score, count, last) }
  let s2 := if old < 16 ∧ 16 ≤ score then remapRow s1 p r else s1
  if score = old then s2 else reportPages s2 p r

/-! ### The events -/

/-- A package works: it has power, and bring-up did not end at step 1. -/
def pkgLive (s : State) (p : Nat) : Bool := (tblGet? s.pkgs p).isSome && (pkgAt s p).powered && !(pkgAt s p).failed
def isHbm (l : Nat) : Bool := decide (l < 0xC000000000)

/-- A row of a stack in service. -/
def rowThere (s : State) (p r : Nat) : Bool := pkgLive s p && (pkgAt s p).hbm.contains (rowStack r)

/-- `SCRUB_ROW`: a is the package, b the row: corrected data is rewritten in place. -/
def execScrubRow (s : State) : Out :=
  if rowThere s s.arg.a s.arg.b then .next (updPkg s s.arg.a fun k => { k with scrubbed := tblSet k.scrubbed s.arg.b s.clk })
  else .refused .notDue

/-- `HOT_ROW_AGE_OUT`: a is the package, b the row. -/
def ageOutDue (s : State) (p r : Nat) : Bool := (pkgAt s p).hot.contains r && decide ((rowState s p r).2.2 + weekClk ≤ s.clk)
def execHotRowAgeOut (s : State) : Out :=
  if ageOutDue s s.arg.a s.arg.b then .next (updPkg s s.arg.a fun k => { k with hot := k.hot.filter (· != s.arg.b) })
  else .refused .notDue

/-- `SCORE_HALVING`: a is the package. -/
def halvingDue (s : State) (p : Nat) : Bool := pkgLive s p && decide ((pkgAt s p).halveAt + dayClk ≤ s.clk)
def execScoreHalving (s : State) : Out :=
  if halvingDue s s.arg.a then
    .next (updPkg s s.arg.a fun k => { k with rows := tblMap k.rows fun _ x => (x.1 / 2, x.2), halveAt := k.halveAt + dayClk })
  else .refused .notDue

/-- `CORRECTED_ERROR`: a is the package, b the local address. An HBM row gains a score and enters the hot list. -/
def correctRow (s : State) (p r : Nat) : State :=
  let x := rowState s p r
  let s1 := raiseScore s p r (min 255 (x.1 + 1)) (x.2.1 + 1) s.clk
  enterHot (logError s1 p 1 r) p r

def correctError (s : State) (p l : Nat) : State :=
  if isHbm l then correctRow s p (rowKey l)
  else updPkg s p fun k =>
    { k with errlog := k.errlog ++ [{ kind := 1, unit := Config.errUnit l, bank := (Config.rowOf l).1, row := (Config.rowOf l).2, count := 1 }] }

/-- A memory error of a package is at an address that it has. -/
def errorAt (s : State) (p l : Nat) : Bool := pkgLive s p && decide (l < 2 ^ 51) && assigned s (gpOf p l) && !hostLocal l

def execCorrectedError (s : State) : Out :=
  if errorAt s s.arg.a s.arg.b then .next (correctError s s.arg.a s.arg.b) else .refused .notDue

/-- `UNCORRECTABLE_ERROR`: a is the package, b the local address: the sector is poisoned, and an HBM row's score is 255. -/
def poisonAt (s : State) (a : Nat) : State := { s with poison := insNat (a / 32) s.poison }
def loseSector (s : State) (p l : Nat) : State :=
  let s1 := poisonAt s (gpOf p l)
  if isHbm l then
    let x := rowState s1 p (rowKey l)
    logError (raiseScore s1 p (rowKey l) 255 x.2.1 x.2.2) p 2 (rowKey l)
  else updPkg s1 p fun k =>
    { k with errlog := k.errlog ++ [{ kind := 2, unit := Config.errUnit l, bank := (Config.rowOf l).1, row := (Config.rowOf l).2, count := 1 }] }

def execUncorrectableError (s : State) : Out :=
  if errorAt s s.arg.a s.arg.b then .next (loseSector s s.arg.a s.arg.b) else .refused .notDue

/-! ### Remap tables (R385) -/

/-- 64 KiB pages with bytes in a channel, as maximal runs of pages: first page and length. -/
def runsOfPages : List Nat → List (Nat × Nat)
  | [] => []
  | x :: t => match runsOfPages t with
    | (y, n) :: r => if y = x + 1 then (x, n + 1) :: r else (x, 1) :: (y, n) :: r
    | [] => [(x, 1)]

/-- Pages of a stack that a channel holds bytes of. -/
def channelPages (k c : Nat) : List Nat :=
  ((List.range (2 ^ 20)).map fun i => k * 2 ^ 20 + i).filter fun page =>
    (List.range 2048).any fun i => Config.channelOf (page * 65536 + 32 * i) == c

/-- A run of lost pages of a stack reported by an event of KIND 2 (R385): its first page and its length. -/
def reportRun (p k : Nat) (s : State) (e : Nat × Nat) : State := appendEvent s p 2 k e.2 (e.1 * 65536)
/-- The runs of a lost channel in one stack reported. -/
def reportStack (p c : Nat) (s : State) (k : Nat) : State := (runsOfPages (channelPages k c)).foldl (reportRun p k) s

/-- A channel is taken offline: its ranges are reported, and the failure enters the journal. -/
def loseChannel (s : State) (p c : Nat) : State :=
  let s1 := updPkg s p fun k => { k with offline := insNat c k.offline, journal := k.journal ++ [journalEntry 4 c 0 3 k.starts] }
  (pkgAt s p).hbm.foldl (reportStack p c) s1

/-- `REMAP_TABLE_ERROR`: a is the package, b the channel, flag: both copies. One lost copy is rewritten and logged as corrected. -/
def execRemapTableError (s : State) : Out :=
  let p := s.arg.a
  if pkgLive s p then
    .next (if s.arg.flag then (if (pkgAt s p).offline.contains s.arg.b then s else loseChannel s p s.arg.b)
           else updPkg s p fun k => { k with errlog := k.errlog ++ [{ kind := 1, unit := Config.errUnit s.arg.b, count := 1 }] })
  else .refused .notDue

end Sys2Proof.Machine
end

