-- ==== Sys2Proof/Machine/Fabric.lean ====
section
/-! DEFINITION. What reaches a package from outside (R395 to R399, R403): fabric flits with their replay and retraining, RDMA, the
host's window and CXL.mem, and links that go down. -/

namespace Sys2Proof.Machine

def portOf (s : State) (p i : Nat) : Port := tblGet (pkgAt s p).ports i
def updPort (s : State) (p i : Nat) (f : Port → Port) : State := updPkg s p fun k => { k with ports := tblSet k.ports i (f (tblGet k.ports i)) }

/-- A package in full service (R405). -/
def fullLive (s : State) (p : Nat) : Bool := pkgLive s p && (pkgAt s p).full

/-! ### Agents' writes at sys (R396, R399) -/

/-- A write of an agent may be performed at its home: no byte of it waits to be copied for a cut, and no line of it is locked. -/
def agentFree (s : State) (a n : Nat) : Bool := !unitProtected s a n && !lineLocked s a n

/-- An agent's write at sys, at its home. -/
def agentWrite (s : State) (a key : Nat) (data : List Byte) : State := putHome s a key data

/-! ### Flits (R397) -/

/-- Bytes of a flit. -/
def flitBytes (f : BitVec 512) : List Byte := leBytes 64 f.toNat
def flitNat (f : BitVec 512) (off n : Nat) : Nat := leNat (((flitBytes f).drop off).take n)
def flitKind (f : BitVec 512) : Nat := flitNat f 0x00 1
def flitDst (f : BitVec 512) : Nat := flitNat f 0x02 2
def flitSrc (f : BitVec 512) : Nat := flitNat f 0x04 2
def flitAddr (f : BitVec 512) : Nat := flitNat f 0x10 8
def flitKey (f : BitVec 512) : Nat := flitNat f 0x0C 2
def flitSeq (f : BitVec 512) : Nat := flitNat f 0x0E 2
def flitPayload (f : BitVec 512) : List Byte := ((flitBytes f).drop 0x18).take 32

/-- CRC-64 of the first 56 bytes (R370, R397). -/
def flitCrc (b : List Byte) : Nat := ((b.take 56).foldl crcByte 0xFFFFFFFFFFFFFFFF#64).toNat
def crcGood (f : BitVec 512) : Bool := decide (flitCrc (flitBytes f) = flitNat f 0x38 8)

/-- A flit with its link sequence number and its CRC. -/
def sealFlit (b : List Byte) (seq : Nat) : BitVec 512 :=
  let c := b.take 0x0E ++ leBytes 2 seq ++ (b.drop 0x10).take 40
  BitVec.ofNat 512 (leNat (c ++ leBytes 8 (flitCrc c)))

/-- A fabric port that carries traffic, the lowest; else one that retrains; else port 0, where the flit waits. -/
def outPort (s : State) (p : Nat) : Nat :=
  let up := (List.range 8).find? fun i => (portOf s p i).up && !(portOf s p i).retrain
  let wait := (List.range 8).find? fun i => (portOf s p i).retrain
  (up.orElse fun _ => wait).getD 0

/-- A flit leaves on a port, or waits there while the port retrains or is down. -/
def sendFlit (s : State) (p : Nat) (b : List Byte) : State :=
  let i := outPort s p
  let x := portOf s p i
  let f := sealFlit b (x.sent % 65536)
  let s1 := updPort s p i fun x => { x with sent := x.sent + 1 }
  if x.up && !x.retrain then updPkg s1 p fun k => { k with outbox := k.outbox ++ [(i, f)] }
  else updPort s1 p i fun x => { x with queue := x.queue ++ [f] }

/-- The reply to a flit: its kind, flags, address and payload; it goes to the flit's source under the flit's tag. -/
def replyBytes (f : BitVec 512) (kind flags : Nat) (data : List Byte) : List Byte :=
  leBytes 1 kind ++ leBytes 1 flags ++ leBytes 2 (flitSrc f) ++ leBytes 2 (flitDst f) ++ ((flitBytes f).drop 6).take 8 ++ leBytes 2 0 ++
    leBytes 8 0 ++ data ++ leBytes (40 - data.length) 0

/-- The destination's memory holds the address, and the key slot of the capacity tier is loaded (R330). -/
def flitReaches (s : State) (p : Nat) (f : BitVec 512) : Bool :=
  decide (gpPkg (flitAddr f) = p) && assigned s (flitAddr f) && !isOnChip (gpLocal (flitAddr f)) &&
  (!isCapacity (gpLocal (flitAddr f)) || keyLoaded s p (flitKey f))

/-- A sector read for a peer: poison travels with it (R382, R397). -/
def flitRead (s : State) (p : Nat) (f : BitVec 512) : State :=
  let a := flitAddr f / 32 * 32
  let pois := poisoned s a 32
  let data := (List.range 32).map fun k => if pois then 0 else homeByte s (a + k) (flitKey f)
  sendFlit s p (replyBytes f 3 (2 + if pois then 1 else 0) data)

/-- A sector written for a peer, with its poison. -/
def flitWrite (s : State) (p : Nat) (f : BitVec 512) : State :=
  let a := flitAddr f / 32 * 32
  let s1 := agentWrite s a (flitKey f) (flitPayload f)
  let s2 := if flitNat f 1 1 % 2 = 1 then poisonAt s1 a else s1
  sendFlit s2 p (replyBytes f 5 2 [])

/-- An atomic, or a lock sequence, of a peer: the layout of its payload is not given, and the 8 bytes at its address become free
values. -/
def flitAtomic (s : State) (p : Nat) (f : BitVec 512) : State :=
  let a := flitAddr f / 8 * 8
  let s1 := agentWrite (tookFree s) a (flitKey f) ((List.range 8).map fun k => Config.flitByte s.free k)
  sendFlit s1 p (replyBytes f 5 2 [])

/-- A good flit acted on: passed on when it is for another package; otherwise by its kind. -/
def actFlit (s : State) (p : Nat) (f : BitVec 512) : State :=
  if flitDst f ≠ p then sendFlit s p (flitBytes f)
  else if !flitReaches s p f then s
  else if flitKind f = 1 then flitRead s p f
  else if flitKind f = 2 then flitWrite s p f
  else if flitKind f = 4 ∨ flitKind f = 6 then flitAtomic s p f
  else s

/-- A flit that writes here may be performed. -/
def flitFree (s : State) (p : Nat) (f : BitVec 512) : Bool :=
  decide (flitDst f ≠ p) || flitKind f == 1 || agentFree s (flitAddr f / 32 * 32) 32

/-- `FLIT_RECEIVE`: a is the package, b the port, bits the flit. A flit whose CRC fails, or that is not the next of its link, changes
nothing but the count of replays; after 16 of them the port retrains (R398). -/
def receiveFlit (s : State) (p i : Nat) (f : BitVec 512) : State :=
  if crcGood f then
    (if flitSeq f = (portOf s p i).expect % 65536 then actFlit (updPort s p i fun x => { x with expect := x.expect + 1, replays := 0 }) p f
     else s)
  else updPort s p i fun x => { x with replays := x.replays + 1, retrain := decide (16 < x.replays + 1) }

def flitDue (s : State) (p i : Nat) (f : BitVec 512) : Bool :=
  fullLive s p && decide (i < 8) && (portOf s p i).up && !(portOf s p i).retrain && flitFree s p f

def execFlitReceive (s : State) : Out :=
  if flitDue s s.arg.a s.arg.b s.arg.bits then .next (receiveFlit s s.arg.a s.arg.b s.arg.bits) else .refused .notDue

/-! ### Ports (R398, R403) -/

/-- A port goes down, and the event is reported. -/
def portDown (s : State) (p i : Nat) : State :=
  appendEvent (updPort s p i fun x => { x with up := false, retrain := false, replays := 0 }) p 3 i 0 0

/-- The flits that wait at a port are sent, none lost or repeated: by the port itself, or by the others where it is down. -/
def drainPort (s : State) (p i : Nat) : State :=
  let x := portOf s p i
  let s1 := updPort s p i fun x => { x with queue := [] }
  if x.up then updPkg s1 p fun k => { k with outbox := k.outbox ++ x.queue.map fun f => (i, f) }
  else x.queue.foldl (fun s f => sendFlit s p (flitBytes f)) s1

/-- Flits that wait at any port, once some port carries traffic. -/
def drainAll (s : State) (p : Nat) : State :=
  if (List.range 8).any fun i => (portOf s p i).up && !(portOf s p i).retrain then
    (List.range 8).foldl (fun s i => if (portOf s p i).retrain then s else drainPort s p i) s
  else s

/-- `PORT_RETRAIN_END`: a is the package, b the port, flag: it came up. -/
def execPortRetrainEnd (s : State) : Out :=
  let p := s.arg.a
  let i := s.arg.b
  if fullLive s p && decide (i < 8) && (portOf s p i).retrain then
    .next (drainAll (if s.arg.flag then updPort s p i fun x => { x with retrain := false, replays := 0 } else portDown s p i) p)
  else .refused .notDue

/-- `LINK_DOWN`: a is the package, b the port: an Ethernet, CXL root or host port loses its link. -/
def execLinkDown (s : State) : Out :=
  let i := s.arg.b
  if pkgLive s s.arg.a && decide (8 ≤ i) && decide (i ≤ 14) && (portOf s s.arg.a i).up then .next (portDown s s.arg.a i) else .refused .notDue

/-! ### RDMA (R399) -/

/-- An Ethernet port in service. -/
def etherUp (s : State) (p i : Nat) : Bool := fullLive s p && (i == 8 || i == 9) && (portOf s p i).up

/-- `RDMA_SEND_WAKE`: a is the package, b the port: the port takes the next send entry. -/
def execRdmaSendWake (s : State) : Out :=
  if etherUp s s.arg.a s.arg.b then .next (updPort s s.arg.a s.arg.b fun x => { x with sq := x.sq + 1 }) else .refused .notDue

/-- `RDMA_COMPLETION`: a is the package, b the port: a completion follows a send entry taken. -/
def execRdmaCompletion (s : State) : Out :=
  if etherUp s s.arg.a s.arg.b && decide ((portOf s s.arg.a s.arg.b).cq < (portOf s s.arg.a s.arg.b).sq) then
    .next (updPort s s.arg.a s.arg.b fun x => { x with cq := x.cq + 1 })
  else .refused .notDue

/-- `RDMA_INBOUND_WRITE`: a is the package, b the virtual address, c the `CTXID`: checked against the target page as a store, without
a tag check. A write that fails its check changes nothing. -/
def inboundPage? (s : State) (p ctxid va : Nat) : Option (Nat × TlbEntry) :=
  match partByCtxid? s p ctxid with
  | none => none
  | some k => match translate s k va .store with
    | .ok e => some (k, e)
    | .error _ => none

def inboundWrite (s : State) (p ctxid va : Nat) (data : List Byte) : State :=
  match inboundPage? s p ctxid va with
  | some (k, e) => if isOnChip (gpLocal (physOf e va)) then s else agentWrite (fillTlb s k e) (physOf e va) e.key data
  | none => s

/-- The write lies in one page, and may be performed. -/
def inboundDue (s : State) (p ctxid va n : Nat) : Bool :=
  fullLive s p && decide (va % 4096 + n ≤ 4096) &&
  (match inboundPage? s p ctxid va with
   | some (_, e) => agentFree s (physOf e va) n
   | none => true)

def execRdmaInboundWrite (s : State) : Out :=
  if inboundDue s s.arg.a s.arg.c s.arg.b s.arg.data.length then .next (inboundWrite s s.arg.a s.arg.c s.arg.b s.arg.data) else .refused .notDue

/-! ### The host (R395, R396) -/

/-- The host's link is up, and the bytes lie in the package's HBM: the window of BAR2, or the memory offered through CXL.mem. -/
def hostReach (s : State) (p off n : Nat) : Bool :=
  pkgLive s p && (portOf s p 14).up && decide (off + n ≤ 0xC000000000) &&
  assignedLocal (pkgAt s p) off && (n == 0 || assignedLocal (pkgAt s p) (off + n - 1))

/-- `HOST_BAR2_WRITE`: a is the package, b the offset. -/
def execHostBar2Write (s : State) : Out :=
  if hostReach s s.arg.a s.arg.b s.arg.data.length && agentFree s (gpOf s.arg.a s.arg.b) s.arg.data.length then
    .next (agentWrite s (gpOf s.arg.a s.arg.b) 0 s.arg.data)
  else .refused .notDue

/-- `HOST_CXL_MEM_ACCESS`: a is the package, b the address, flag: a write. A read leaves every state as it is. -/
def execHostCxlMemAccess (s : State) : Out :=
  if (pkgAt s s.arg.a).hostCxl && hostReach s s.arg.a s.arg.b s.arg.data.length &&
      (!s.arg.flag || agentFree s (gpOf s.arg.a s.arg.b) s.arg.data.length) then
    .next (if s.arg.flag then agentWrite s (gpOf s.arg.a s.arg.b) 0 s.arg.data else s)
  else .refused .notDue

end Sys2Proof.Machine
end

