-- ==== Sys2Proof/Machine/Mailbox.lean ====
section
/-! DEFINITION. The management mailbox: its command area, responses and commands (R401, R402), power states (R404), reset, bring-up and
its journal (R405 to R407). -/

namespace Sys2Proof.Machine

/-! ### Commands and responses (R401, R402) -/

def mbGo (s : State) (p : Nat) : Bool := decide (mbNat s p 0x80 8 = 1)
def mbOp (s : State) (p : Nat) : Nat := mbNat s p 0 1
def mbSub (s : State) (p : Nat) : Nat := mbNat s p 1 1
def mbArg (s : State) (p i : Nat) : Nat := mbNat s p (8 + 8 * i) 8

/-- A command waits at a package: only opcode 0x20 is answered where bring-up ended at step 1 (R407). -/
def mbWaits (s : State) (p : Nat) : Bool :=
  (tblGet? s.pkgs p).isSome && (pkgAt s p).powered && mbGo s p && (!(pkgAt s p).failed || mbOp s p == 0x20)

/-- A command of an opcode, with its SUB, waits. -/
def cmdDue (s : State) (p op : Nat) (sub : Nat → Bool) : Bool := mbWaits s p && mbOp s p == op && sub (mbSub s p)

/-- The response: STATUS, CAUSE and RES0; then GO is 0. -/
def respond (s : State) (p status cause res : Nat) : State :=
  let s1 := mbPut s p 0x40 (leBytes 1 status ++ leBytes 1 cause ++ leBytes 6 0 ++ leBytes 8 res ++ leBytes 48 0)
  updPkg (mbPut s1 p 0x80 (leBytes 8 0)) p fun k => { k with busy := false }
def answerDone (s : State) (p res : Nat) : State := respond s p 0 0 res
def answerRefused (s : State) (p : Nat) (c : Cause) : State := respond s p 2 (causeCode c) 0

/-- A command has started, and ends later: STATUS says busy. -/
def answerBusy (s : State) (p : Nat) : State := updPkg (mbPut s p 0x40 [1]) p fun k => { k with busy := true }

/-- Reserved bytes, and argument bits above the widths that a command uses, are zero. -/
def argsClean (s : State) (p : Nat) (ws : List Nat) : Bool :=
  decide (mbNat s p 2 6 = 0) && (List.range 7).all fun i => decide (mbArg s p i / 2 ^ (ws.getD i 0) = 0)

/-- A command's checks in order: reserved fields, fields outside their range, resources and states. -/
def cmdRefusal (s : State) (p : Nat) (ws : List Nat) (inRange able : Bool) : Option Cause :=
  if !argsClean s p ws then some .reservedField else if !inRange then some .illegalEncoding else if !able then some .access else none

/-- A command that ends at once. -/
def oneStep (s : State) (p : Nat) (bad : Option Cause) (run : State → State) : State :=
  match bad with
  | some c => answerRefused s p c
  | none => run s

/-- A command that ends once a condition holds: it starts, is kept going, and is answered. -/
def longCmd (s : State) (p : Nat) (bad : Option Cause) (start : State → State) (stuck ready : State → Bool) (finish : State → State) : Out :=
  if !(pkgAt s p).busy then
    match bad with
    | some c => .next (answerRefused s p c)
    | none => .next (answerBusy (start s) p)
  else if ready s then .next (finish s)
  else if stuck s then .next (start s)
  else .refused .notDue

/-- Memory that a command may name by local address: assigned, on no chip and in no encrypted tier. -/
def plainMemory (s : State) (p l n : Nat) : Bool :=
  let ok (x : Nat) : Bool := assigned s (gpOf p x) && !isCapacity x && !isOnChip x
  ok l && ok (l + n - 1) && decide (l + n ≤ 2 ^ 51)

/-- `MAILBOX_AREA_WRITE`: a is the package, b the offset: only the command, GO and HEAD take values, the command and GO none while GO is
1. -/
def areaTakes (go : Bool) (off : Nat) : Bool :=
  (!go && (decide (off < 0x40) || (decide (0x80 ≤ off) && decide (off < 0x88)))) || (decide (0xC8 ≤ off) && decide (off < 0xD0))

def areaWrite (s : State) (p off : Nat) (data : List Byte) : State :=
  let go := mbGo s p
  (List.range data.length).foldl (fun s k => if areaTakes go (off + k) then mbPut s p (off + k) [data.getD k 0] else s) s

def execMailboxAreaWrite (s : State) : Out :=
  if (tblGet? s.pkgs s.arg.a).isSome && (pkgAt s s.arg.a).powered then .next (areaWrite s s.arg.a s.arg.b s.arg.data) else .refused .notDue

/-- `UNKNOWN_OPCODE`: a is the package. -/
def knownOps : List Nat := [0x01, 0x02, 0x03, 0x04, 0x05, 0x06, 0x07, 0x08, 0x10, 0x11, 0x20]
def execUnknownOpcode (s : State) : Out :=
  if mbWaits s s.arg.a && !knownOps.contains (mbOp s s.arg.a) then .next (respond s s.arg.a 3 0 0) else .refused .notDue

/-! ### Contexts -/

/-- The lowest free number of a context at a package. -/
def freeCtxid (s : State) (p : Nat) : Option Nat := (List.range 65536).find? fun n => (partByCtxid? s p n).isNone

/-- A part of a context at a package, its registers at their reset values (R44). -/
def newPart (s : State) (p ctxid : Nat) : Part := { pkg := p, ctxid := ctxid, idle := decide ((pkgAt s p).power = 2) }

/-- `CREATE_CONTEXT`: a is the package. -/
def createCtx (s : State) (p n : Nat) : State :=
  let c := s.nextId
  answerDone { s with ctxs := tblSet s.ctxs c { priv := decide (mbSub s p % 2 = 1) }, parts := tblSet s.parts (partKey c 0) (newPart s p n),
                      nextId := c + 1 } p n

def execCreateContext (s : State) : Out :=
  let p := s.arg.a
  if cmdDue s p 0x01 fun _ => true then
    .next (match if mbSub s p / 2 ≠ 0 then some .reservedField else cmdRefusal s p [] true (freeCtxid s p).isSome with
      | some c => answerRefused s p c
      | none => createCtx s p ((freeCtxid s p).getD 0))
  else .refused .notDue

/-- The context that a number names at a package, and its part there. -/
def partNamed? (s : State) (p : Nat) : Option Nat := partByCtxid? s p (mbArg s p 1 % 65536)

/-- Parts are stopped as `HALT` does; one of them runs again; all of them stand. -/
def partStands (s : State) (k : Nat) : Bool := (partOf s k).saved || (partOf s k).frozen || partStopped s k
def haltParts (s : State) (ks : List Nat) : State :=
  ks.foldl (fun s k => if (partOf s k).saved || (partOf s k).frozen || (partOf s k).stopReq then s else stopPart s k) s
def partsLoose (s : State) (ks : List Nat) : Bool := ks.any fun k => !((partOf s k).saved || (partOf s k).frozen || (partOf s k).stopReq)

/-- A core that some parts give up: of its warps the kept ones stay; a core that no part holds keeps no copies. -/
def leftBy (p : PCore) (out : Nat → Bool) (kept : Nat → Bool) : PCore :=
  let os := p.owners.filter fun k => !out k
  { p with owners := os, leaving := p.leaving.filter fun k => !out k, vacating := p.vacating && !os.isEmpty,
           copies := if os.isEmpty then [] else p.copies,
           qs := if os.isEmpty then [] else tblMap p.qs fun _ q =>
             { q with active := q.active.filter kept, since := q.since.filter kept, pend := q.pend.filter kept } }

/-- A context leaves the machine: its held operations are dropped with their records, its resident state is discarded, and its queues,
descriptors and cached entries go; writes and operations on their way to memory go on. -/
def removeCtx (s : State) (ctx : Nat) : State :=
  let posted := (s.atoms.filter fun e => e.2.ctx == ctx && e.2.posted.isSome).map (·.1)
  let s1 := abandonCut (posted.foldl dropPosted s) ctx
  let s2 : State := { dropWork s1 ctx with writes := s1.writes, atoms := s1.atoms }
  { s2 with
    grids := s2.grids.filter fun e => e.2.ctx != ctx
    lcores := s2.lcores.filter fun e => lkCtx e.1 != ctx
    parts := s2.parts.filter fun e => e.1 / 8192 != ctx
    ctxs := tblDel s2.ctxs ctx
    snaps := s2.snaps.filter fun e => e.1 / 2 != ctx
    pcores := tblMap s2.pcores fun _ p =>
      if p.owners.any fun k => k / 8192 == ctx then leftBy p (fun k => k / 8192 == ctx) fun w => (tblGet? s2.warps w).isSome else p
    pkgs := tblMap s2.pkgs fun _ p => { p with queues := p.queues.filter fun e => e.2.ctx != ctx } }

/-- `DESTROY_CONTEXT`: a is the package. -/
def destroyed? (s : State) (p : Nat) : Option Nat := (partByCtxid? s p (mbArg s p 0 % 65536)).map (· / 8192)

def execDestroyContext (s : State) : Out :=
  let p := s.arg.a
  if cmdDue s p 0x02 fun _ => true then
    let ks := partsOfCtx s ((destroyed? s p).getD 0)
    longCmd s p (cmdRefusal s p [16] (mbSub s p == 0) (destroyed? s p).isSome) (fun s => haltParts s ks) (fun s => partsLoose s ks)
      (fun s => ks.all fun k => partStands s k) (fun s => answerDone (removeCtx s ((destroyed? s p).getD 0)) p 0)
  else .refused .notDue

/-! ### Queues (R253, R402) -/

/-- A descriptor with a reserved byte, or with a field outside its range. -/
def queueDescClean (s : State) (a : Nat) : Bool :=
  decide (homeNat s (a + 0x09) 55 = 0) && decide (homeNat s (a + 0x48) 56 = 0) && decide (homeNat s (a + 0x88) 120 = 0)
def queueDescInRange (s : State) (a : Nat) : Bool :=
  decide (4 ≤ homeNat s (a + 8) 1) && decide (homeNat s (a + 8) 1 ≤ 16) && decide (homeNat s a 8 % 128 = 0)

/-- The descriptor lies in memory, and through a PCIe port neither it nor its ring lies in host memory (R396). -/
def queuePlace (s : State) (k a : Nat) : Bool :=
  assigned s a && !isOnChip (gpLocal a) && !isCapacity (gpLocal a) && !hostPcie s a &&
  (match translate s k (homeNat s a 8) .load with
   | .ok e => !hostPcie s (physOf e (homeNat s a 8))
   | .error _ => true)

def queueNo (s : State) (p : Nat) : Nat := mbArg s p 1 / 65536 % 256

def registerBad (s : State) (p : Nat) : Option Cause :=
  let a := mbArg s p 0
  let k := partNamed? s p
  match cmdRefusal s p [64, 24, 32] (decide (mbSub s p ≤ 1) && decide (a % 256 = 0))
      (k.isSome && (tblGet? (pkgAt s p).queues (queueNo s p)).isNone && queuePlace s (k.getD 0) a) with
  | some c => some c
  | none => if !queueDescClean s a then some .reservedField else if !queueDescInRange s a then some .illegalEncoding else none

def registerQueueAt (s : State) (p : Nat) : State :=
  let a := mbArg s p 0
  let k := (partNamed? s p).getD 0
  let head := homeNat s (a + 0x80) 8
  let q : Queue := { ctx := k / 8192, part := k, desc := a, host := hostLocal (gpLocal a), ident := BitVec.ofNat 32 (mbArg s p 2), ring := homeNat s a 8,
                     logn := homeNat s (a + 8) 1, head := head, tail := head }
  answerDone (updPkg s p fun x => { x with queues := tblSet x.queues (queueNo s p) q }) p 0

/-- `REGISTER_QUEUE`: a is the package; a SUB that names no command is refused here. -/
def execRegisterQueue (s : State) : Out :=
  let p := s.arg.a
  if cmdDue s p 0x03 fun sub => sub != 1 then .next (oneStep s p (registerBad s p) fun s => registerQueueAt s p) else .refused .notDue

/-- `REMOVE_QUEUE`: a is the package: the queue goes once every packet below the TAIL last read is taken. -/
def removeBad (s : State) (p : Nat) : Option Cause :=
  cmdRefusal s p [0, 24] true (match partNamed? s p, tblGet? (pkgAt s p).queues (queueNo s p) with
    | some k, some q => q.part == k
    | _, _ => false)
def updQueue (s : State) (p n : Nat) (f : Queue → Queue) : State := updPkg s p fun x => { x with queues := tblUpd x.queues n f }

def execRemoveQueue (s : State) : Out :=
  let p := s.arg.a
  if cmdDue s p 0x03 fun sub => sub == 1 then
    longCmd s p (removeBad s p) (fun s => updQueue s p (queueNo s p) fun q => { q with removing := true }) (fun _ => false)
      (fun s => let q := queueOf s p (queueNo s p); decide (q.head = q.tail))
      (fun s => answerDone (updPkg s p fun x => { x with queues := tblDel x.queues (queueNo s p) }) p 0)
  else .refused .notDue

/-! ### Reserved cores and keys -/

/-- The cores that a bitmap of 160 bytes names. -/
def coreBits (s : State) (a : Nat) : List Nat := (List.range 1280).filter fun k => (bmGet s.mem (a + k / 8)).getLsbD (k % 8)

/-- `SET_RESERVED_CORES`: a is the package. -/
def execSetReservedCores (s : State) : Out :=
  let p := s.arg.a
  if cmdDue s p 0x04 fun _ => true then
    .next (oneStep s p (cmdRefusal s p [51] (mbSub s p == 0) (plainMemory s p (mbArg s p 0) 160)) fun s =>
      answerDone (updPkg s p fun x => { x with reserved := coreBits s (gpOf p (mbArg s p 0)) }) p 0)
  else .refused .notDue

/-- `LOAD_KEY_SLOT`: a is the package. -/
def slotArg (s : State) (p : Nat) : Nat := mbArg s p 0 % 4096

def execLoadKeySlot (s : State) : Out :=
  let p := s.arg.a
  if cmdDue s p 0x05 fun _ => true then
    .next (oneStep s p (cmdRefusal s p [12, 51] (mbSub s p == 0 && slotArg s p != 0) (plainMemory s p (mbArg s p 1) 64)) fun s =>
      answerDone (updPkg s p fun x => { x with keys := tblSet x.keys (slotArg s p) (homeBytes s (gpOf p (mbArg s p 1)) 64) }) p 0)
  else .refused .notDue

/-- Accesses made under a slot of a package that are still to be performed. -/
def keyInUse (s : State) (p key : Nat) : Bool :=
  let at_ (a k : Nat) : Bool := gpPkg a == p && isCapacity (gpLocal a) && k == key
  (s.writes.any fun e => at_ e.2.addr e.2.key) || (s.atoms.any fun e => at_ e.2.addr e.2.key && e.2.posted.isNone) ||
  (s.mcas.any fun e => e.2.words.any fun w => at_ w.addr w.key)

/-- `CLEAR_KEY_SLOT`: a is the package: no later access uses the slot, and it is empty once the earlier ones are performed. -/
def execClearKeySlot (s : State) : Out :=
  let p := s.arg.a
  if cmdDue s p 0x06 fun _ => true then
    longCmd s p (cmdRefusal s p [12] (mbSub s p == 0 && slotArg s p != 0) (keyLoaded s p (slotArg s p)))
      (fun s => updPkg s p fun x => { x with clearing := some (slotArg s p) }) (fun _ => false) (fun s => !keyInUse s p (slotArg s p))
      (fun s => answerDone (updPkg s p fun x => { x with keys := tblDel x.keys (slotArg s p), clearing := none }) p 0)
  else .refused .notDue

/-! ### Checkpoint descriptors (R359, R402) -/

def ckptDescClean (s : State) (a : Nat) : Bool :=
  decide (homeNat s (a + 0x14) 4 / 4 = 0) && decide (homeNat s (a + 0x1A) 6 = 0) && decide (homeNat s (a + 0x50) 176 = 0)
def ckptDescInRange (s : State) (a : Nat) : Bool :=
  decide (homeNat s a 8 % 64 = 0) && decide (homeNat s (a + 8) 8 % 64 = 0) && decide (homeNat s (a + 0x18) 2 < 4096) &&
  decide (homeNat s (a + 0x20) 8 % 4096 = 0) && isCapacity (gpLocal (homeNat s a 8))

def ckptBad (s : State) (p : Nat) : Option Cause :=
  let a := gpOf p (mbArg s p 0)
  let k := partNamed? s p
  match cmdRefusal s p [51, 16] (decide (mbSub s p ≤ 2) && decide (mbArg s p 0 % 256 = 0))
      (k.isSome && decide ((partOf s (k.getD 0)).desc = 0) && decide (mbArg s p 0 ≠ 0) && plainMemory s p (mbArg s p 0) 256) with
  | some c => some c
  | none =>
    if !ckptDescClean s a then some .reservedField
    else if !ckptDescInRange s a then some .illegalEncoding
    else if !assigned s (homeNat s a 8) then some .access
    else none

/-- `REGISTER_CHECKPOINT`: a is the package; a SUB that names no command is refused here. -/
def registerCkpt (s : State) (p : Nat) : State :=
  let k := (partNamed? s p).getD 0
  let s1 := updPart s k fun x => { x with desc := gpOf p (mbArg s p 0), snapAll := true, todo := [], written := 0, manifest := none, manifested := false }
  let s2 := updCtx s1 (k / 8192) fun c => { c with ckpt := some (c.ckpt.getD {}) }
  answerDone (nextInterval s2 (k / 8192)) p 0

def execRegisterCheckpoint (s : State) : Out :=
  let p := s.arg.a
  if cmdDue s p 0x07 fun sub => sub != 1 && sub != 2 then .next (oneStep s p (ckptBad s p) fun s => registerCkpt s p) else .refused .notDue

/-- The named part has a descriptor. -/
def hasDesc (s : State) (p : Nat) : Bool :=
  match partNamed? s p with
  | some k => decide ((partOf s k).desc ≠ 0)
  | none => false

/-- `REMOVE_CHECKPOINT`: a is the package: a cut in progress keeps the descriptor. -/
def removeCkpt (s : State) (p : Nat) : State :=
  let k := (partNamed? s p).getD 0
  let s1 := updPart s k fun x => { x with desc := 0 }
  answerDone (if (surveyed s1 (k / 8192)).isEmpty then updCtx s1 (k / 8192) fun c => { c with ckpt := none } else s1) p 0

def execRemoveCheckpoint (s : State) : Out :=
  let p := s.arg.a
  if cmdDue s p 0x07 fun sub => sub == 1 then
    .next (oneStep s p (cmdRefusal s p [0, 16] true (hasDesc s p && decide ((ckptOf s ((partNamed? s p).getD 0 / 8192)).phase = 0))) fun s =>
      removeCkpt s p)
  else .refused .notDue

/-- `REQUEST_CUT`: a is the package: RES0 is the number of the cut that serves the request. -/
def execRequestCut (s : State) : Out :=
  let p := s.arg.a
  if cmdDue s p 0x07 fun sub => sub == 2 then
    .next (oneStep s p (cmdRefusal s p [0, 16] true (hasDesc s p)) fun s =>
      let ctx := (partNamed? s p).getD 0 / 8192
      answerDone (requestCut s ctx) p (servingCut s ctx))
  else .refused .notDue

/-! ### Cores of a context (R23, R24, R402) -/

def lpkgArg (s : State) (p : Nat) : Nat := mbArg s p 1 / 65536 % 8192
def bitmapCores (s : State) (p : Nat) : List Nat := (coreBits s (gpOf p (mbArg s p 0))).map fun k => p * 1280 + k

/-- The part to which cores are allotted: the named one of this package; or a new one, where the number names a context of other
packages only and the logical package is its next. -/
def allotPart? (s : State) (p : Nat) : Option (Nat × Bool) :=
  match partNamed? s p with
  | some k => if k % 8192 = lpkgArg s p then some (k, false) else none
  | none =>
    (s.parts.find? fun e => e.2.ctxid == mbArg s p 1 % 65536 && (ctxOf s (e.1 / 8192)).npkg == lpkgArg s p).map fun e =>
      (partKey (e.1 / 8192) (lpkgArg s p), true)

/-- A core is in service. -/
def coreServes (s : State) (c : Nat) : Bool := (pkgAt s (pcPkg c)).dies.contains (c / 320 % 4)

/-- New logical cores, numbered from N upward, one for each core of a list. -/
def addLcores (s : State) (k : Nat) : List Nat → State
  | [] => s
  | c :: t =>
    let n := (partOf s k).ncores
    addLcores (updPart { s with lcores := tblSet s.lcores (lcoreKey k n) { pcore := some c, last := c } } k fun x => { x with ncores := n + 1 }) k t

/-- `ALLOT_CORES`: a is the package. -/
def allotTo (s : State) (p k : Nat) (fresh : Bool) : State :=
  let cs := bitmapCores s p
  let s1 : State := if fresh then
      updCtx { s with parts := tblSet s.parts k (newPart s p (mbArg s p 1 % 65536)) } (k / 8192) fun c => { c with npkg := c.npkg + 1 }
    else s
  let s2 := cs.foldl (fun s c => updPcore s c fun x => if x.owners.contains k then x else { x with owners := x.owners ++ [k] }) s1
  let s3 := updPart s2 k fun x => { x with lastEvent := cs.foldl (fun t c => tblSet t (c / 320 % 4) s.clk) x.lastEvent }
  addLcores s3 k ((cs.filter fun c => !(pcoreAt s c).owners.contains k).take ((coresOf s2 k).length - (partOf s2 k).ncores))

def execAllotCores (s : State) : Out :=
  let p := s.arg.a
  if cmdDue s p 0x08 fun sub => sub != 1 then
    .next (oneStep s p (cmdRefusal s p [51, 29] (mbSub s p == 0)
        (plainMemory s p (mbArg s p 0) 160 && (allotPart? s p).isSome && (bitmapCores s p).all fun c => coreServes s c)) fun s =>
      match allotPart? s p with
      | some (k, fresh) => answerDone (allotTo s p k fresh) p 0
      | none => s)
  else .refused .notDue

/-- The part from which cores are withdrawn. -/
def withdrawPart? (s : State) (p : Nat) : Option Nat :=
  match partNamed? s p with
  | some k => if k % 8192 = lpkgArg s p then some k else none
  | none => none

/-- Holders of a part that stand on some cores with any of their replicas, and the other members of their cohorts (R21). -/
def coreHolders (s : State) (k : Nat) (cs : List Nat) : List Nat :=
  let lead (e : Nat × Wg) : Bool := !e.2.done && (e.2.leader == 0 || e.2.leader == e.1) && lkCtx e.2.lcore == k / 8192
  let here := (s.wgs.filter fun e => lead e && (wgMates s e.1).any fun x => cs.contains (coreOfWg s x)).map (·.1)
  let key (h : Nat) : Option (Nat × Nat) :=
    let g := wgOf s h
    let co := (gridOf s g.grid).cohort
    if g.seqi ∨ co = 0 then none else some (g.grid, g.block / co)
  let ks := here.filterMap key
  (s.wgs.filter fun e => here.contains e.1 || (lead e && (match key e.1 with
    | some k => ks.contains k
    | none => false))).map (·.1)

/-- Logical cores to be saved with a withdrawal, by part, each with its holders. -/
def withdrawList (s : State) (k : Nat) (cs : List Nat) : List (Nat × List Nat) :=
  let hs := coreHolders s k cs
  let lks := sortNat ((hs.map fun h => (wgOf s h).lcore) ++
    (s.lcores.filter fun e => lkPart e.1 == k && (e.2.pcore.map fun c => cs.contains c).getD false).map (·.1))
  lks.map fun lk => (lk, hs.filter fun h => (wgOf s h).lcore == lk)
def partsIn (l : List (Nat × List Nat)) : List Nat := sortNat (l.map fun e => lkPart e.1)
def ofPart (l : List (Nat × List Nat)) (k : Nat) : List (Nat × List Nat) := l.filter fun e => lkPart e.1 == k

/-- The cores leave their context; warps that were stopped for the withdrawal and stayed go on. -/
def freeCores (s : State) (k : Nat) (cs : List Nat) : State :=
  cs.foldl (fun s c => updPcore s c fun x => leftBy x (· == k) fun w => (tblGet? s.warps w).isSome) s
def stayCores (s : State) (k : Nat) (cs : List Nat) : State :=
  cs.foldl (fun s c => updPcore s c fun x => { x with leaving := x.leaving.filter (· != k) }) s

/-- The withdrawal ends: the logical cores are saved and wait, and the landings over the cores return their ranges (R24, R273); without
room in a save area nothing changes. -/
def withdrawEnd (s : State) (p : Nat) : State :=
  let cs := bitmapCores s p
  let k := (withdrawPart? s p).getD 0
  let l := withdrawList s k cs
  if (partsIn l).all fun j => layFits s j (layCores s j (ofPart l j)).1 then
    answerDone (returnRanges (freeCores ((partsIn l).foldl (fun s j => saveHolders s j (ofPart l j)) s) k cs) (k / 8192) fun r =>
      cs.any fun c => under r c) p 0
  else
    let s1 := (holderWarps s (coreHolders s k cs)).foldl (fun s w => if (partOf s (partOfWarp s w)).stopReq || (partOf s (partOfWarp s w)).frozen then s else resumeWarp s w) s
    answerRefused (stayCores s1 k cs) p .access

/-- `WITHDRAW_CORES`: a is the package. -/
def withdrawBad (s : State) (p : Nat) : Option Cause :=
  cmdRefusal s p [51, 29] true
    (plainMemory s p (mbArg s p 0) 160 &&
     (match withdrawPart? s p with
      | some k => decide ((partOf s k).savebase ≠ 0) && (bitmapCores s p).all fun c => (pcoreAt s c).owners.contains k
      | none => false))

def execWithdrawCores (s : State) : Out :=
  let p := s.arg.a
  if cmdDue s p 0x08 fun sub => sub == 1 then
    let cs := bitmapCores s p
    let k := (withdrawPart? s p).getD 0
    let ws := holderWarps s (coreHolders s k cs)
    longCmd s p (withdrawBad s p)
      (fun s => requestStops (cs.foldl (fun s c => updPcore s c fun x => { x with leaving := x.leaving ++ [k] }) s) ws)
      (fun s => ws.any fun w => (warpOf s w).stopAt.isNone) (fun s => allHalted s ws) (fun s => withdrawEnd s p)
  else .refused .notDue

/-! ### Power (R404) -/

def partsOfPkg (s : State) (p : Nat) : List Nat := (s.parts.filter fun e => e.2.pkg == p).map (·.1)

/-- Contexts that stood for Idle go on unchanged. -/
def leaveIdle (s : State) (p : Nat) : State :=
  (partsOfPkg s p).foldl (fun s k =>
    if (partOf s k).idle then
      let s1 := updPart s k fun x => { x with idle := false }
      if (partOf s k).frozen || (partOf s k).saved || decide ((ckptOf s (k / 8192)).phase = 1) then s1
      else ((warpsOfPart s1 k).filter fun w => !((partOf s k).frozenDies.contains (pcDie (coreOfWarp s w) % 4))).foldl resumeWarp
        (updPart s1 k fun x => { x with stopReq := false, lastEvent := tblMap x.lastEvent fun _ _ => s.clk })
    else s) s
def setPower (s : State) (p n : Nat) : State := updPkg s p fun x => { x with power := n }

/-- Widths of the arguments: the limit belongs to Capped. -/
def powerWidths (s : State) (p : Nat) : List Nat := if mbArg s p 0 % 4 = 1 then [2, 64] else [2, 0]

/-- `POWER_RUN`: a is the package; state 3 is refused here. -/
def execPowerRun (s : State) : Out :=
  let p := s.arg.a
  if cmdDue s p 0x10 (fun _ => mbArg s p 0 % 4 == 0 || mbArg s p 0 % 4 == 3) then
    .next (oneStep s p (cmdRefusal s p (powerWidths s p) (mbSub s p == 0 && mbArg s p 0 == 0) true) fun s =>
      answerDone (setPower (leaveIdle s p) p 0) p 0)
  else .refused .notDue

/-- `POWER_CAPPED`: a is the package. -/
def execPowerCapped (s : State) : Out :=
  let p := s.arg.a
  if cmdDue s p 0x10 (fun _ => mbArg s p 0 % 4 == 1) then
    .next (oneStep s p (cmdRefusal s p (powerWidths s p) (mbSub s p == 0 && decide (mbArg s p 1 ≤ 3200)) true) fun s =>
      answerDone (updPkg (setPower (leaveIdle s p) p 1) p fun x => { x with watts := mbArg s p 1 }) p 0)
  else .refused .notDue

/-- `POWER_IDLE`: a is the package: complete once every core is stopped and any cut in progress has written its snapshot buffer. -/
def execPowerIdle (s : State) : Out :=
  let p := s.arg.a
  if cmdDue s p 0x10 (fun _ => mbArg s p 0 % 4 == 2) then
    let ks := partsOfPkg s p
    longCmd s p (cmdRefusal s p (powerWidths s p) (mbSub s p == 0) true)
      (fun s => haltParts (ks.foldl (fun s k => updPart s k fun x => { x with idle := true }) s) ks) (fun s => partsLoose s ks)
      (fun s => ks.all fun k => partStands s k && decide ((ckptOf s (k / 8192)).phase ≠ 1)) (fun s => answerDone (setPower s p 2) p 0)
  else .refused .notDue

/-- `THERMAL_TRIP`: a is the package, b the unit: 0 to 3 a compute die, 4 the Atrium. -/
def execThermalTrip (s : State) : Out :=
  if (tblGet? s.pkgs s.arg.a).isSome && (pkgAt s s.arg.a).powered && decide (s.arg.b ≤ 4) then
    .next (appendEvent (updPkg s s.arg.a fun x => { x with trip := true }) s.arg.a 4 s.arg.b 0 0)
  else .refused .notDue

/-- Contexts with a part at a package, and everything of them gone. -/
def ctxsAt (s : State) (p : Nat) : List Nat := sortNat ((partsOfPkg s p).map (· / 8192))

/-- A byte lies in a checkpoint area that holds a durable cut (R362, R404). -/
def inDurable (s : State) (a : Nat) : Bool :=
  s.parts.any fun e => decide (e.2.desc ≠ 0) && decide ((ckptOf s (e.1 / 8192)).lastCut ≠ 0) &&
    decide (homeNat s e.2.desc 8 ≤ a) && decide (a < homeNat s e.2.desc 8 + homeNat s (e.2.desc + 8) 8)

/-- Memory of a package is lost but for the host's, and for bytes that `keep` holds back. -/
def loseMemory (s : State) (p : Nat) (keep : Nat → Bool) : State :=
  let gone (a : Nat) : Bool := gpPkg a == p && !hostLocal (gpLocal a) && !keep a
  { s with mem := s.mem.filter fun e => !gone e.1, poison := s.poison.filter fun k => !gone (k * 32), lineKey := s.lineKey.filter fun e => !gone (e.1 * 128) }

/-- Everything on a package's dies is lost. -/
def losePackage (s : State) (p : Nat) : State :=
  let s1 := (ctxsAt s p).foldl removeCtx s
  { s1 with writes := s1.writes.filter fun e => e.2.pcore / 1280 != p, atoms := s1.atoms.filter fun e => e.2.pcore / 1280 != p,
            pcores := s1.pcores.filter fun e => pcPkg e.1 != p }

/-- `POWER_REMOVAL`: a is the package: only durable cuts and the module's flash remain. -/
def execPowerRemoval (s : State) : Out :=
  let p := s.arg.a
  if (tblGet? s.pkgs p).isSome && (pkgAt s p).powered then
    let s1 := losePackage (loseMemory s p fun a => isCapacity (gpLocal a) && inDurable s a) p
    .next { s1 with pkgs := tblSet s1.pkgs p { powered := false, journal := (pkgAt s p).journal, starts := (pkgAt s p).starts, hbm := [], dies := [] } }
  else .refused .notDue

/-! ### Bring-up (R405 to R407) -/

/-- Fields of a journal record. -/
def recStep (r : List Byte) : Nat := leNat (r.take 2)
def recUnit (r : List Byte) : Nat := leNat ((r.drop 2).take 1)
def recMethod (r : List Byte) : Nat := leNat ((r.drop 3).take 1)
def recResult (r : List Byte) : Nat := leNat ((r.drop 4).take 1)

/-- Method and result of the last record of a unit's step; a lost channel (result 3) has records of its own (R385). -/
def lastRecord? (j : List (List Byte)) (step unit : Nat) : Option (Nat × Nat) :=
  (j.reverse.find? fun r => recStep r == step && recUnit r == unit && recResult r != 3).map fun r => (recMethod r, recResult r)

/-- Channels that the journal says are offline. -/
def lostChannels (j : List (List Byte)) : List Nat := sortNat ((j.filter fun r => recStep r == 4 && recResult r == 3).map recUnit)

/-- One unit's step: primary method; alternate after a failure; skipped after a failure of that. Answers the journal and whether the unit
is in service. -/
def bringUnit (j : List (List Byte)) (start step unit : Nat) : List (List Byte) × Bool :=
  let out := Config.bringUp start step unit
  match lastRecord? j step unit with
  | some (_, 2) => (j ++ [journalEntry step unit 1 2 start], false)
  | some (1, 1) => (j ++ [journalEntry step unit 1 2 start], false)
  | some (_, 1) => (j ++ [journalEntry step unit 1 (if out then 0 else 1) start], out)
  | _ => (j ++ [journalEntry step unit 0 (if out then 0 else 1) start], out)

/-- A step of some units in order: the journal after it, and the units that passed. -/
def bringUnits (start step : Nat) : List Nat → List (List Byte) → List (List Byte) × List Nat
  | [], j => (j, [])
  | u :: t, j =>
    let (j1, ok) := bringUnit j start step u
    let (j2, us) := bringUnits start step t j1
    (j2, if ok then u :: us else us)

/-- `DEVICE_RESET`: a is the package, b the first compute die whose HBM trains. A failed step 1 ends bring-up. -/
def resetPkg (s : State) (p die : Nat) : State :=
  let old := pkgAt s p
  let n := old.starts + 1
  let s1 := losePackage (loseMemory s p fun a => isCapacity (gpLocal a)) p
  let (j1, ok) := bringUnit old.journal n 1 0
  let base : Pkg := { starts := n, clk0 := s.clk, halveAt := s.clk, journal := j1, hostCxl := Config.hostLink n, offline := lostChannels old.journal }
  let new : Pkg := if ok then
      { base with dies := [die], hbm := [3 * die, 3 * die + 1, 3 * die + 2],
                  journal := j1 ++ ((reducedSteps die).drop 1).map fun e => journalEntry e.1 e.2 0 0 n }
    else { base with failed := true, dies := [], hbm := [] }
  { s1 with pkgs := tblSet s1.pkgs p new }

def execDeviceReset (s : State) : Out :=
  if (tblGet? s.pkgs s.arg.a).isSome && decide (s.arg.b < 4) then .next (resetPkg s s.arg.a s.arg.b) else .refused .notDue

/-- A context is resident at a package: a workgroup or sequencer instance of it is resident there. -/
def ctxResident (s : State) (p : Nat) : Bool := s.wgs.any fun e => !e.2.done && (partOf s (lkPart e.2.lcore)).pkg == p

/-- CXL windows: each as much as its expanders hold, all with the LPDDR at most 32 TiB (R394). -/
def windowsOf (p : Nat) (up : List Nat) : List Nat → Nat → List Nat
  | [], _ => []
  | i :: t, room =>
    let n := if up.contains (10 + i) then min (min (Config.cxlBytes p i) (2 ^ 43)) room else 0
    n :: windowsOf p up t (room - n)

/-- `ENTER_FULL_SERVICE`: a is the package: the other units are brought up, each with its record. -/
def fullPkg (p : Nat) (x : Pkg) : Pkg :=
  let d0 := x.dies.headD 0
  let ds := (List.range 4).filter (· != d0)
  let (j2, l2) := bringUnits x.starts 2 (List.range 4) x.journal
  let (j3, l3) := bringUnits x.starts 3 ((ds.filter l2.contains).flatMap fun d => [3 * d, 3 * d + 1, 3 * d + 2]) j2
  let (j4, l4) := bringUnits x.starts 4 l3 j3
  let (j5, l5) := bringUnits x.starts 5 (ds.filter l2.contains) j4
  let (j6, l6) := bringUnits x.starts 6 [0] j5
  let (j7, l7) := bringUnits x.starts 7 [10, 11, 12, 13] j6
  let (j8, l8) := bringUnits x.starts 8 (List.range 8) j7
  let (j9, l9) := bringUnits x.starts 9 [8, 9] j8
  let lp := if l6.isEmpty then 0 else min (Config.lpddrBytes p) (2 ^ 42)
  let up := l8 ++ l9 ++ l7
  { x with full := true, dies := sortNat (d0 :: l5), hbm := sortNat (x.hbm ++ l4), journal := j9, lpddr := lp,
           cxl := windowsOf p l7 [0, 1, 2, 3] (2 ^ 45 - lp),
           ports := (List.range 14).foldl (fun t i => tblSet t i { tblGet x.ports i with up := up.contains i }) x.ports }

def execEnterFullService (s : State) : Out :=
  let p := s.arg.a
  if cmdDue s p 0x11 fun _ => true then
    .next (oneStep s p (cmdRefusal s p [] (mbSub s p == 0) (!(pkgAt s p).full && !ctxResident s p)) fun s =>
      answerDone (updPkg s p (fullPkg p)) p 0)
  else .refused .notDue

/-! ### The error log and the journal -/

/-- The 16 bytes of an error-log entry. -/
def errBytes (e : ErrEntry) : List Byte :=
  leBytes 1 e.kind ++ leBytes 1 e.unit ++ leBytes 2 e.bank ++ leBytes 4 e.row ++ leBytes 4 e.count ++ leBytes 1 e.score ++ leBytes 3 0

/-- Entries copied to memory, oldest first, as many as the bytes asked for take. -/
def copyEntries (s : State) (p : Nat) (l : List (List Byte)) : State :=
  let out := l.take (mbArg s p 1 / 16)
  answerDone (agentWrite s (gpOf p (mbArg s p 0)) 0 out.flatten) p (16 * out.length)

/-- A read of the log or the journal: the destination is there, and no byte of it waits for a cut. -/
def readDue (s : State) (p : Nat) : Bool := agentFree s (gpOf p (mbArg s p 0)) (mbArg s p 1)
def readBad (s : State) (p : Nat) : Option Cause :=
  cmdRefusal s p [51, 64] (decide (mbSub s p ≤ 1) && decide (mbArg s p 1 % 16 = 0))
    (decide (mbArg s p 1 = 0) || plainMemory s p (mbArg s p 0) (mbArg s p 1))

/-- `READ_ERROR_LOG`: a is the package; a SUB that names no command is refused here. -/
def execReadErrorLog (s : State) : Out :=
  let p := s.arg.a
  if cmdDue s p 0x20 (fun sub => sub != 1) && ((readBad s p).isSome || readDue s p) then
    .next (oneStep s p (readBad s p) fun s => copyEntries s p ((pkgAt s p).errlog.map errBytes))
  else .refused .notDue

/-- `READ_JOURNAL`: a is the package. -/
def execReadJournal (s : State) : Out :=
  let p := s.arg.a
  if cmdDue s p 0x20 (fun sub => sub == 1) && ((readBad s p).isSome || readDue s p) then
    .next (oneStep s p (readBad s p) fun s => copyEntries s p (pkgAt s p).journal)
  else .refused .notDue

end Sys2Proof.Machine
end

