-- ==== Sys2Proof/Machine/Loader.lean ====
section
/-! DEFINITION. The loading of code objects (R80 to R82): the object's tables, the binding of symbols, relocations, and the refusals that
leave a context as it was. -/

namespace Sys2Proof.Machine

/-! ### The object (R80, R81) -/

/-- A number of n bytes at an offset of a file; zero past its end. -/
def fNat (f : List Byte) (off n : Nat) : Nat := leNat ((f.drop off).take n)

/-- A section: kind, place in the file, size, alignment. -/
structure Section where
  kind : Nat
  off : Nat
  size : Nat
  align : Nat
deriving DecidableEq, Repr, Inhabited

/-- A symbol: name, section, binding, kind, value. -/
structure Sym where
  name : List Byte
  sec : Nat
  bind : Nat
  kind : Nat
  value : Nat
deriving DecidableEq, Repr, Inhabited

/-- A relocation: place, symbol, kind, addend. -/
structure Reloc where
  sec : Nat
  off : Nat
  sym : Nat
  kind : Nat
  add : Int
deriving DecidableEq, Repr, Inhabited

def nSections (f : List Byte) : Nat := fNat f 0x06 2
def nSyms (f : List Byte) : Nat := fNat f 0x18 4
def nRelocs (f : List Byte) : Nat := fNat f 0x1C 4
def secAt (f : List Byte) (i : Nat) : Nat := fNat f 0x08 8 + 32 * i
def symAt (f : List Byte) (i : Nat) : Nat := fNat f 0x10 8 + 32 * i
def relAt (f : List Byte) (i : Nat) : Nat := fNat f 0x20 8 + 24 * i

def sectionOf (f : List Byte) (i : Nat) : Section :=
  let a := secAt f i
  { kind := fNat f (a + 4) 2, off := fNat f (a + 8) 8, size := fNat f (a + 16) 8, align := fNat f (a + 24) 8 }
/-- A zero-terminated string of the string table, and whether the file holds its end. -/
def nameOf (f : List Byte) (off : Nat) : List Byte := (f.drop (fNat f 0x28 8 + off)).takeWhile (· != 0)
def nameEnds (f : List Byte) (off : Nat) : Bool := (f.drop (fNat f 0x28 8 + off)).contains 0
def symOf (f : List Byte) (i : Nat) : Sym :=
  let a := symAt f i
  { name := nameOf f (fNat f a 4), sec := fNat f (a + 4) 2, bind := fNat f (a + 6) 1, kind := fNat f (a + 7) 1, value := fNat f (a + 8) 8 }
def relocOf (f : List Byte) (i : Nat) : Reloc :=
  let a := relAt f i
  { sec := fNat f a 2, off := fNat f (a + 2) 6, sym := fNat f (a + 8) 4, kind := fNat f (a + 12) 2,
    add := (BitVec.ofNat 64 (fNat f (a + 16) 8)).toInt }

def sectionsOf (f : List Byte) : List Section := (List.range (nSections f)).map fun i => sectionOf f i
def symsOf (f : List Byte) : List Sym := (List.range (nSyms f)).map fun i => symOf f i
def relocsOf (f : List Byte) : List Reloc := (List.range (nRelocs f)).map fun i => relocOf f i

/-- A symbol is defined in the object: its section is one of the object's. R81 gives an undefined reference no encoding of its own: a
section index at or above the section count is one (DESIGN CHOICE, log 49). -/
def isDef (f : List Byte) (x : Sym) : Bool := decide (x.sec < nSections f)

/-- ISAREV of the kernel headers that the object's symbols name (R78). -/
def kernelRevs (f : List Byte) : List Nat :=
  ((symsOf f).filter fun x => x.kind == 1 && isDef f x).map fun x => fNat f ((sectionOf f x.sec).off + x.value + 4) 2

/-- The header's ISAREV is the highest of the object's kernels; an object without kernels has no such number to hold to (R80). -/
def revOk (f : List Byte) : Bool :=
  (kernelRevs f).isEmpty || decide (fNat f 0x04 2 = (kernelRevs f).foldl max 0)

/-- The object is well formed: its magic, its revision, its tables in the file, kinds in their range, strings that end, reserved fields
zero. An object that is not is refused (DEDUCED, log 48). -/
def objectOk (f : List Byte) : Bool :=
  decide (fNat f 0 4 = 0x4F504431) && decide (64 ≤ f.length) && decide (fNat f 0x30 16 = 0) && revOk f &&
  decide (secAt f (nSections f) ≤ f.length) && decide (symAt f (nSyms f) ≤ f.length) && decide (relAt f (nRelocs f) ≤ f.length) &&
  ((List.range (nSections f)).all fun i =>
    let x := sectionOf f i
    decide (x.kind ≤ 4) && decide (fNat f (secAt f i + 6) 2 = 0) && decide (x.off + x.size ≤ f.length) &&
      (x.kind != 0 || decide (x.size % 64 = 0)) && nameEnds f (fNat f (secAt f i) 4)) &&
  ((List.range (nSyms f)).all fun i =>
    nameEnds f (fNat f (symAt f i) 4) && decide ((symOf f i).bind ≤ 2) && decide ((symOf f i).kind ≤ 3) && decide (fNat f (symAt f i + 24) 8 = 0)) &&
  ((List.range (nRelocs f)).all fun i =>
    let r := relocOf f i
    decide (1 ≤ r.kind) && decide (r.kind ≤ 4) && decide (fNat f (relAt f i + 14) 2 = 0) && decide (r.sym < nSyms f) &&
      decide (r.sec < nSections f) && decide (r.off + (if r.kind = 1 then 8 else 4) ≤ (sectionOf f r.sec).size))

/-! ### Places -/

/-- A number rounded up to an alignment; code to 64 bytes at least. -/
def alignTo (n a : Nat) : Nat := if a ≤ 1 then n else (n + a - 1) / a * a

/-- Virtual addresses of the sections. R80 does not say where a load places them: one after another from a base that the load is given,
each at its alignment (DESIGN CHOICE, log 50). -/
def secBases : List Section → Nat → List Nat
  | [], _ => []
  | x :: t, a =>
    let b := alignTo a (if x.kind = 0 then max 64 x.align else x.align)
    b :: secBases t (b + x.size)

/-- The page of the context at an address: the loader goes through the page tables of the context's first logical package, where its
objects lie (DESIGN CHOICE, log 50). -/
def ctxPage? (s : State) (part va : Nat) : Option TlbEntry :=
  match pageOf s part va with
  | .ok e => if isOnChip (gpLocal e.pbase) || (isCapacity (gpLocal e.pbase) && !keyLoaded s (gpPkg e.pbase) e.key) then none else some e
  | .error _ => none

/-- Bytes written for a context at virtual addresses, by the runtime; none where a page is missing, which refuses the load (DESIGN
CHOICE, log 50). -/
def putCtx? (part : Nat) : Nat → List Byte → State → Option State
  | _, [], s => some s
  | va, b :: t, s =>
    match ctxPage? s part va with
    | some e => putCtx? part (va + 1) t (agentWrite s (physOf e va) e.key [b])
    | none => none

/-- A number of n bytes as the context's memory holds it. -/
def getCtx? (s : State) (part va n : Nat) : Option Nat :=
  if (List.range n).all fun k => (ctxPage? s part (va + k)).isSome then
    some (leNat ((List.range n).map fun k => match ctxPage? s part (va + k) with
      | some e => homeByte s (physOf e (va + k)) e.key
      | none => 0))
  else none

/-- The sixteen words of the code line of an address. -/
def lineOf? (s : State) (part va : Nat) : Option (List Word) :=
  (getCtx? s part (va / 64 * 64) 64).map fun n => wordsOf 16 (leBytes 64 n)

/-- The sections' bytes in their places. -/
def putSections? (part : Nat) (f : List Byte) : List (Section × Nat) → State → Option State
  | [], s => some s
  | (x, a) :: t, s =>
    match putCtx? part a ((f.drop x.off).take x.size) s with
    | some s1 => putSections? part f t s1
    | none => none

/-! ### Binding (R82) -/

def symAddr (bases : List Nat) (x : Sym) : Nat := bases.getD x.sec 0 + x.value

/-- The Gazetteer number of a record symbol. R81 does not say where an object holds it: the records of a section of kind 4 are numbered
in order, so it is the symbol's offset in its section over 32, the size of a record (DESIGN CHOICE, log 49). -/
def recNumber? (x : Sym) : Option Nat := if x.kind = 3 then some (x.value / 32) else none

/-- The object's definitions of global names. -/
def newDefs (f : List Byte) (bases : List Nat) : List SymDef :=
  ((symsOf f).filter fun x => isDef f x && x.bind != 0).map fun x =>
    { name := x.name, addr := symAddr bases x, recNum := recNumber? x, strong := x.bind == 1 }

/-- A name binds: one definition, or exactly one strong one; a weak one that a relocation has resolved to keeps a strong one out. -/
def nameOk (old all : List SymDef) (n : List Byte) : Bool :=
  let ds := all.filter fun d => d.name == n
  let strong := (ds.filter fun d => d.strong).length
  decide (ds.length ≤ 1) ||
    (decide (strong = 1) && !((old.filter fun d => d.name == n).any fun d => !d.strong && d.used))

/-- No name of the new definitions is in conflict. -/
def bindOk (old new : List SymDef) : Bool := new.all fun d => nameOk old (old ++ new) d.name

/-- The definition that a name binds to. -/
def bound? (all : List SymDef) (n : List Byte) : Option SymDef :=
  let ds := all.filter fun d => d.name == n
  match ds.find? fun d => d.strong with
  | some d => some d
  | none => ds.head?

/-- The address that a relocation's symbol stands for: its own, where it is local; otherwise the one its name binds to. -/
def target? (f : List Byte) (bases : List Nat) (all : List SymDef) (x : Sym) : Option Nat :=
  if x.bind = 0 then (if isDef f x then some (symAddr bases x) else none) else (bound? all x.name).map (·.addr)

/-- The Gazetteer number that a relocation's symbol stands for, by the same binding. -/
def targetRec? (f : List Byte) (all : List SymDef) (x : Sym) : Option Nat :=
  if x.bind = 0 then (if isDef f x then recNumber? x else none) else (bound? all x.name).bind (·.recNum)

/-- Definitions that the object's relocations resolve to are used. -/
def markUsed (f : List Byte) (all : List SymDef) : List SymDef :=
  let names := ((relocsOf f).map fun r => symOf f r.sym).filter fun x => x.bind != 0
  all.map fun d => if (names.any fun x => x.name == d.name) && bound? all d.name == some d then { d with used := true } else d

/-! ### Relocation (R81) -/

/-- The word index of the clause header of the clause that holds word j of a line, in at most n clauses. -/
def clauseHead (ws : List Word) (j : Nat) : Nat → Nat → Option Nat
  | 0, _ => none
  | n + 1, at_ =>
    let next := at_ + hdrLen (ws.getD at_ 0) + 2
    if j < at_ then none else if j < next then some at_ else clauseHead ws j n next

/-- A signed value fits a field of n bits. -/
def fitsSigned (v : Int) (n : Nat) : Bool := decide (-(2 : Int) ^ (n - 1) ≤ v) && decide (v < 2 ^ (n - 1))

/-- The value of a kind-2 or kind-3 relocation: a whole number of words to a clause header. -/
def branchValue? (s : State) (part place target : Nat) : Option Int :=
  match lineOf? s part place with
  | none => none
  | some ws =>
    match clauseHead ws (place % 64 / 4) 17 0 with
    | none => none
    | some h =>
      let d : Int := (target : Int) - (place / 64 * 64 + 4 * h : Nat)
      match lineOf? s part target with
      | some wt => if d % 4 = 0 ∧ isHeader wt target then some (d / 4) else none
      | none => none

/-- The bytes that a relocation writes at its place. -/
def relocBytes? (s : State) (part place target kind : Nat) : Option (List Byte) :=
  if kind = 1 then some (leBytes 8 target)
  else
    match getCtx? s part place 4 with
    | none => none
    | some w =>
      if kind = 4 then (if target < 256 then some (leBytes 4 (w / 256 * 256 + target)) else none)
      else match branchValue? s part place target with
        | none => none
        | some v =>
          if kind = 2 then
            (if fitsSigned v 23 then some (leBytes 4 (w / 2 ^ 23 * 2 ^ 23 + (BitVec.ofInt 23 v).toNat)) else none)
          else if fitsSigned v 32 then some (leBytes 4 (BitVec.ofInt 32 v).toNat) else none

/-- The value of a relocation before its field: the symbol's address plus the addend, which must be a 64-bit address, or the Gazetteer
number of a record symbol alone. -/
def relocTarget? (f : List Byte) (bases : List Nat) (all : List SymDef) (r : Reloc) : Option Nat :=
  let x := symOf f r.sym
  if r.kind = 4 then targetRec? f all x
  else match target? f bases all x with
    | some a => if 0 ≤ (a : Int) + r.add ∧ (a : Int) + r.add < 2 ^ 64 then some ((a : Int) + r.add).toNat else none
    | none => none

def relocateAll? (part : Nat) (f : List Byte) (bases : List Nat) (all : List SymDef) : List Reloc → State → Option State
  | [], s => some s
  | r :: t, s =>
    let place := bases.getD r.sec 0 + r.off
    match relocTarget? f bases all r with
    | none => none
    | some v =>
      match relocBytes? s part place v r.kind with
      | none => none
      | some b =>
        match putCtx? part place b s with
        | some s1 => relocateAll? part f bases all t s1
        | none => none

/-! ### The load -/

/-- Every name that the object refers to has a definition. -/
def refsOk (f : List Byte) (all : List SymDef) : Bool :=
  (symsOf f).all fun x => isDef f x || (x.bind != 0 && (bound? all x.name).isSome)

/-- A code object brings a name into conflict with the definitions loaded so far (R82). -/
def loadConflicts (s : State) (ctx base : Nat) (f : List Byte) : Bool :=
  objectOk f && !bindOk (ctxOf s ctx).syms (newDefs f (secBases (sectionsOf f) base))

/-- A code object loaded into a context from a base; none where the load is refused. -/
def load? (s : State) (ctx base : Nat) (f : List Byte) : Option State :=
  let part := partKey ctx 0
  let secs := sectionsOf f
  let bases := secBases secs base
  let old := (ctxOf s ctx).syms
  let new := newDefs f bases
  let all := old ++ new
  if !objectOk f || loadConflicts s ctx base f || !refsOk f all then none
  else match putSections? part f (secs.zip bases) s with
    | none => none
    | some s1 =>
      match relocateAll? part f bases all (relocsOf f) s1 with
      | none => none
      | some s2 => some (updCtx s2 ctx fun c => { c with syms := markUsed f all })

/-- The runtime's answer to a load. -/
def loadAnswerOf (s : State) (ctx base : Nat) (f : List Byte) : LoadAnswer :=
  if (load? s ctx base f).isSome then .done
  else if loadConflicts s ctx base f then .duplicateSymbol
  else .refused

/-- `CODE_OBJECT_LOAD`: a is the context, b the base. A refused load leaves the context exactly as it was, and the runtime's answer says
whether a conflict of names was the reason. -/
def execCodeObjectLoad (s : State) : Out :=
  if (tblGet? s.ctxs s.arg.a).isSome then
    .next { (load? s s.arg.a s.arg.b s.arg.data).getD s with loadAnswer := loadAnswerOf s s.arg.a s.arg.b s.arg.data }
  else .refused .notDue

end Sys2Proof.Machine
end

