-- ==== Sys2Proof/Machine/Dispatch.lean ====
section
/-! DEFINITION. The meaning of every instruction and event: one arm for each constructor of `Instr`. -/

namespace Sys2Proof.Machine

open Sys2Proof

def exec (i : Instr) (s : State) : Host.Outcome State Fault Refusal :=
  match i with
  | .addI32 p d a b => Sys2Proof.Machine.execAddI32 p d a b s
  | .subI32 p d a b => Sys2Proof.Machine.execSubI32 p d a b s
  | .addc p d a b => Sys2Proof.Machine.execAddc p d a b s
  | .subb p d a b => Sys2Proof.Machine.execSubb p d a b s
  | .addI64 p d a b => Sys2Proof.Machine.execAddI64 p d a b s
  | .subI64 p d a b => Sys2Proof.Machine.execSubI64 p d a b s
  | .addcI64 p d a b => Sys2Proof.Machine.execAddcI64 p d a b s
  | .subbI64 p d a b => Sys2Proof.Machine.execSubbI64 p d a b s
  | .mullo p d a b => Sys2Proof.Machine.execMullo p d a b s
  | .mulhiUs p d a b => Sys2Proof.Machine.execMulhiUs p d a b s
  | .mulhiSg p d a b => Sys2Proof.Machine.execMulhiSg p d a b s
  | .mad p d a b => Sys2Proof.Machine.execMad p d a b s
  | .andB p d a b => Sys2Proof.Machine.execAndB p d a b s
  | .orB p d a b => Sys2Proof.Machine.execOrB p d a b s
  | .xorB p d a b => Sys2Proof.Machine.execXorB p d a b s
  | .notB p d a => Sys2Proof.Machine.execNotB p d a s
  | .shl p d a b => Sys2Proof.Machine.execShl p d a b s
  | .shr p d a b => Sys2Proof.Machine.execShr p d a b s
  | .sar p d a b => Sys2Proof.Machine.execSar p d a b s
  | .rot p d a b => Sys2Proof.Machine.execRot p d a b s
  | .minSg p d a b => Sys2Proof.Machine.execMinSg p d a b s
  | .minUs p d a b => Sys2Proof.Machine.execMinUs p d a b s
  | .maxSg p d a b => Sys2Proof.Machine.execMaxSg p d a b s
  | .maxUs p d a b => Sys2Proof.Machine.execMaxUs p d a b s
  | .abs p d a => Sys2Proof.Machine.execAbs p d a s
  | .neg p d a => Sys2Proof.Machine.execNeg p d a s
  | .clz p d a => Sys2Proof.Machine.execClz p d a s
  | .popc p d a => Sys2Proof.Machine.execPopc p d a s
  | .brev p d a => Sys2Proof.Machine.execBrev p d a s
  | .bfxUs p d a b => Sys2Proof.Machine.execBfxUs p d a b s
  | .bfxSg p d a b => Sys2Proof.Machine.execBfxSg p d a b s
  | .bfi p d a b => Sys2Proof.Machine.execBfi p d a b s
  | .sel k d a b => Sys2Proof.Machine.execSel k d a b s
  | .cmpSg p d a b => Sys2Proof.Machine.execCmpSg p d a b s
  | .cmpUs p d a b => Sys2Proof.Machine.execCmpUs p d a b s
  | .cmpI64 p d a b => Sys2Proof.Machine.execCmpI64 p d a b s
  | .pand p d a b => Sys2Proof.Machine.execPand p d a b s
  | .por p d a b => Sys2Proof.Machine.execPor p d a b s
  | .pxor p d a b => Sys2Proof.Machine.execPxor p d a b s
  | .pnot p d a => Sys2Proof.Machine.execPnot p d a s
  | .mov p d a => Sys2Proof.Machine.execMov p d a s
  | .smovToUniform p d a => Sys2Proof.Machine.execSmovToUniform p d a s
  | .smovFromUniform p d a => Sys2Proof.Machine.execSmovFromUniform p d a s
  | .movI64 p d a => Sys2Proof.Machine.execMovI64 p d a s
  | .lea p d a b => Sys2Proof.Machine.execLea p d a b s
  | .idx2 p d a b => Sys2Proof.Machine.execIdx2 p d a b s
  | .shlI64 p d a b => Sys2Proof.Machine.execShlI64 p d a b s
  | .shrI64 p d a b => Sys2Proof.Machine.execShrI64 p d a b s
  | .sarI64 p d a b => Sys2Proof.Machine.execSarI64 p d a b s
  | .movi p d im => Sys2Proof.Machine.execMovi p d im s
  | .addI32Immediate p d a im => Sys2Proof.Machine.execAddI32Immediate p d a im s
  | .faddF32 p d a b => Sys2Proof.Machine.execFaddF32 p d a b s
  | .fsubF32 p d a b => Sys2Proof.Machine.execFsubF32 p d a b s
  | .fmulF32 p d a b => Sys2Proof.Machine.execFmulF32 p d a b s
  | .fminF32 p d a b => Sys2Proof.Machine.execFminF32 p d a b s
  | .fmaF32D0 p d a b => Sys2Proof.Machine.execFmaF32D0 p d a b s
  | .fmaF32D1 p d a b => Sys2Proof.Machine.execFmaF32D1 p d a b s
  | .fmaF32D2 p d a b => Sys2Proof.Machine.execFmaF32D2 p d a b s
  | .fmaF32D3 p d a b => Sys2Proof.Machine.execFmaF32D3 p d a b s
  | .fmaxF32 p d a b => Sys2Proof.Machine.execFmaxF32 p d a b s
  | .fcmpF32 p d a b => Sys2Proof.Machine.execFcmpF32 p d a b s
  | .fclassF32 p d a => Sys2Proof.Machine.execFclassF32 p d a s
  | .faddF16 p d a b => Sys2Proof.Machine.execFaddF16 p d a b s
  | .fsubF16 p d a b => Sys2Proof.Machine.execFsubF16 p d a b s
  | .fmulF16 p d a b => Sys2Proof.Machine.execFmulF16 p d a b s
  | .fminF16 p d a b => Sys2Proof.Machine.execFminF16 p d a b s
  | .fmaF16D0 p d a b => Sys2Proof.Machine.execFmaF16D0 p d a b s
  | .fmaF16D1 p d a b => Sys2Proof.Machine.execFmaF16D1 p d a b s
  | .fmaF16D2 p d a b => Sys2Proof.Machine.execFmaF16D2 p d a b s
  | .fmaF16D3 p d a b => Sys2Proof.Machine.execFmaF16D3 p d a b s
  | .fmaxF16 p d a b => Sys2Proof.Machine.execFmaxF16 p d a b s
  | .fcmpF16 p d a b => Sys2Proof.Machine.execFcmpF16 p d a b s
  | .fclassF16 p d a => Sys2Proof.Machine.execFclassF16 p d a s
  | .faddBf16 p d a b => Sys2Proof.Machine.execFaddBf16 p d a b s
  | .fsubBf16 p d a b => Sys2Proof.Machine.execFsubBf16 p d a b s
  | .fmulBf16 p d a b => Sys2Proof.Machine.execFmulBf16 p d a b s
  | .fminBf16 p d a b => Sys2Proof.Machine.execFminBf16 p d a b s
  | .fmaBf16D0 p d a b => Sys2Proof.Machine.execFmaBf16D0 p d a b s
  | .fmaBf16D1 p d a b => Sys2Proof.Machine.execFmaBf16D1 p d a b s
  | .fmaBf16D2 p d a b => Sys2Proof.Machine.execFmaBf16D2 p d a b s
  | .fmaBf16D3 p d a b => Sys2Proof.Machine.execFmaBf16D3 p d a b s
  | .fmaxBf16 p d a b => Sys2Proof.Machine.execFmaxBf16 p d a b s
  | .fcmpBf16 p d a b => Sys2Proof.Machine.execFcmpBf16 p d a b s
  | .fclassBf16 p d a => Sys2Proof.Machine.execFclassBf16 p d a s
  | .frcp p d a => Sys2Proof.Machine.execFrcp p d a s
  | .frsq p d a => Sys2Proof.Machine.execFrsq p d a s
  | .fsqrt p d a => Sys2Proof.Machine.execFsqrt p d a s
  | .fdiv p d a b => Sys2Proof.Machine.execFdiv p d a b s
  | .fex2 p d a => Sys2Proof.Machine.execFex2 p d a s
  | .flg2 p d a => Sys2Proof.Machine.execFlg2 p d a s
  | .fsin p d a => Sys2Proof.Machine.execFsin p d a s
  | .fcos p d a => Sys2Proof.Machine.execFcos p d a s
  | .frintRn p d a => Sys2Proof.Machine.execFrintRn p d a s
  | .frintRz p d a => Sys2Proof.Machine.execFrintRz p d a s
  | .frintRp p d a => Sys2Proof.Machine.execFrintRp p d a s
  | .frintRm p d a => Sys2Proof.Machine.execFrintRm p d a s
  | .dadd p d a b => Sys2Proof.Machine.execDadd p d a b s
  | .dmul p d a b => Sys2Proof.Machine.execDmul p d a b s
  | .dfma p d a b => Sys2Proof.Machine.execDfma p d a b s
  | .dcvtF64F32 p d a => Sys2Proof.Machine.execDcvtF64F32 p d a s
  | .dcvtF32F64 p d a => Sys2Proof.Machine.execDcvtF32F64 p d a s
  | .dcvtF64S64 p d a => Sys2Proof.Machine.execDcvtF64S64 p d a s
  | .dcvtS64F64 p d a => Sys2Proof.Machine.execDcvtS64F64 p d a s
  | .cvtRn p d a b => Sys2Proof.Machine.execCvtRn p d a b s
  | .cvtRz p d a b => Sys2Proof.Machine.execCvtRz p d a b s
  | .cvtRp p d a b => Sys2Proof.Machine.execCvtRp p d a b s
  | .cvtRm p d a b => Sys2Proof.Machine.execCvtRm p d a b s
  | .cvtn p d a b k => Sys2Proof.Machine.execCvtn p d a b k s
  | .cvtw p d a b k => Sys2Proof.Machine.execCvtw p d a b k s
  | .bsext p d a b => Sys2Proof.Machine.execBsext p d a b s
  | .bsapp p d a b => Sys2Proof.Machine.execBsapp p d a b s
  | .compress p d a => Sys2Proof.Machine.execCompress p d a s
  | .expand p d a b => Sys2Proof.Machine.execExpand p d a b s
  | .qswpH p d a => Sys2Proof.Machine.execQswpH p d a s
  | .qswpV p d a => Sys2Proof.Machine.execQswpV p d a s
  | .qswpD p d a => Sys2Proof.Machine.execQswpD p d a s
  | .elect p d => Sys2Proof.Machine.execElect p d s
  | .voteAny p d a => Sys2Proof.Machine.execVoteAny p d a s
  | .voteAll p d a => Sys2Proof.Machine.execVoteAll p d a s
  | .voteBallot p d a => Sys2Proof.Machine.execVoteBallot p d a s
  | .matchAny p d a => Sys2Proof.Machine.execMatchAny p d a s
  | .reduxI32 p d a b => Sys2Proof.Machine.execReduxI32 p d a b s
  | .reduxUs p d a b => Sys2Proof.Machine.execReduxUs p d a b s
  | .reduxF32 p d a b => Sys2Proof.Machine.execReduxF32 p d a b s
  | .scanI32 p d a b => Sys2Proof.Machine.execScanI32 p d a b s
  | .scanUs p d a b => Sys2Proof.Machine.execScanUs p d a b s
  | .scanF32 p d a b => Sys2Proof.Machine.execScanF32 p d a b s
  | .movf d f => Sys2Proof.Machine.execMovf d f s
  | .permutationPrefix a b => Sys2Proof.Machine.execPermutationPrefix a b s
  | .ldB32 p d a im => Sys2Proof.Machine.execLdB32 p d a im s
  | .stB32 p d a im => Sys2Proof.Machine.execStB32 p d a im s
  | .ldB64 p d a b => Sys2Proof.Machine.execLdB64 p d a b s
  | .stB64 p d a b => Sys2Proof.Machine.execStB64 p d a b s
  | .ldB128 p d a b => Sys2Proof.Machine.execLdB128 p d a b s
  | .stB128 p d a b => Sys2Proof.Machine.execStB128 p d a b s
  | .ldB8 p d a b => Sys2Proof.Machine.execLdB8 p d a b s
  | .ldB16 p d a b => Sys2Proof.Machine.execLdB16 p d a b s
  | .stB8 p d a b => Sys2Proof.Machine.execStB8 p d a b s
  | .stB16 p d a b => Sys2Proof.Machine.execStB16 p d a b s
  | .ldsB32 p d a b => Sys2Proof.Machine.execLdsB32 p d a b s
  | .stsB32 p d a b => Sys2Proof.Machine.execStsB32 p d a b s
  | .ldsB64 p d a b => Sys2Proof.Machine.execLdsB64 p d a b s
  | .stsB64 p d a b => Sys2Proof.Machine.execStsB64 p d a b s
  | .ldcB32 p d a b => Sys2Proof.Machine.execLdcB32 p d a b s
  | .ldcB64 p d a b => Sys2Proof.Machine.execLdcB64 p d a b s
  | .pref p d a b => Sys2Proof.Machine.execPref p d a b s
  | .ldrB32 p d a im => Sys2Proof.Machine.execLdrB32 p d a im s
  | .ldrB32Uniform p d a n => Sys2Proof.Machine.execLdrB32Uniform p d a n s
  | .strB32 p d a im => Sys2Proof.Machine.execStrB32 p d a im s
  | .strB32Uniform p d a n => Sys2Proof.Machine.execStrB32Uniform p d a n s
  | .atomB32 p d a b => Sys2Proof.Machine.execAtomB32 p d a b s
  | .casB32 p d a sc => Sys2Proof.Machine.execCasB32 p d a sc s
  | .atomB64 p d a b => Sys2Proof.Machine.execAtomB64 p d a b s
  | .casB64 p d a sc => Sys2Proof.Machine.execCasB64 p d a sc s
  | .redB32 p d a b => Sys2Proof.Machine.execRedB32 p d a b s
  | .redB64 p d a b => Sys2Proof.Machine.execRedB64 p d a b s
  | .fatom p d a b => Sys2Proof.Machine.execFatom p d a b s
  | .fatomNr p d a b => Sys2Proof.Machine.execFatomNr p d a b s
  | .mcas p d a => Sys2Proof.Machine.execMcas p d a s
  | .tshape p d a => Sys2Proof.Machine.execTshape p d a s
  | .tld p d a b => Sys2Proof.Machine.execTld p d a b s
  | .tst p d a b => Sys2Proof.Machine.execTst p d a b s
  | .tmov p d a => Sys2Proof.Machine.execTmov p d a s
  | .mmaBf16 p d a b => Sys2Proof.Machine.execMmaBf16 p d a b s
  | .mmaF16 p d a b => Sys2Proof.Machine.execMmaF16 p d a b s
  | .mmaNf p d a b => Sys2Proof.Machine.execMmaNf p d a b s
  | .mmaspBf16 p d a b => Sys2Proof.Machine.execMmaspBf16 p d a b s
  | .mmaspF16 p d a b => Sys2Proof.Machine.execMmaspF16 p d a b s
  | .mmaspNf p d a b => Sys2Proof.Machine.execMmaspNf p d a b s
  | .acalloc p d a => Sys2Proof.Machine.execAcalloc p d a s
  | .acfree p a => Sys2Proof.Machine.execAcfree p a s
  | .aczero p a => Sys2Proof.Machine.execAczero p a s
  | .acrd p d a => Sys2Proof.Machine.execAcrd p d a s
  | .acwr p d a => Sys2Proof.Machine.execAcwr p d a s
  | .accvt p d a => Sys2Proof.Machine.execAccvt p d a s
  | .acseed p d a => Sys2Proof.Machine.execAcseed p d a s
  | .acqry p d a => Sys2Proof.Machine.execAcqry p d a s
  | .bra p o => Sys2Proof.Machine.execBra p o s
  | .nop p => Sys2Proof.Machine.execNop p s
  | .brcAny p d a => Sys2Proof.Machine.execBrcAny p d a s
  | .brcAll p d a => Sys2Proof.Machine.execBrcAll p d a s
  | .call p d a => Sys2Proof.Machine.execCall p d a s
  | .ret p a => Sys2Proof.Machine.execRet p a s
  | .jmpi p a => Sys2Proof.Machine.execJmpi p a s
  | .exitT p => Sys2Proof.Machine.execExitT p s
  | .yield p => Sys2Proof.Machine.execYield p s
  | .convW => Sys2Proof.Machine.execConvW s
  | .wbase p a => Sys2Proof.Machine.execWbase p a s
  | .acqr p a => Sys2Proof.Machine.execAcqr p a s
  | .cfence p => Sys2Proof.Machine.execCfence p s
  | .ifence p => Sys2Proof.Machine.execIfence p s
  | .twait p d a => Sys2Proof.Machine.execTwait p d a s
  | .tread p d a => Sys2Proof.Machine.execTread p d a s
  | .tsignal p d a => Sys2Proof.Machine.execTsignal p d a s
  | .bar p => Sys2Proof.Machine.execBar p s
  | .bara p d a => Sys2Proof.Machine.execBara p d a s
  | .barw p d => Sys2Proof.Machine.execBarw p d s
  | .marrive p d a => Sys2Proof.Machine.execMarrive p d a s
  | .mwait p d a => Sys2Proof.Machine.execMwait p d a s
  | .ldfK p d a => Sys2Proof.Machine.execLdfK p d a s
  | .ldfE p d a => Sys2Proof.Machine.execLdfE p d a s
  | .ste p d a => Sys2Proof.Machine.execSte p d a s
  | .stf p d a => Sys2Proof.Machine.execStf p d a s
  | .lde p d a => Sys2Proof.Machine.execLde p d a s
  | .sleepT p a => Sys2Proof.Machine.execSleepT p a s
  | .ldAcqB32 p d a sc => Sys2Proof.Machine.execLdAcqB32 p d a sc s
  | .ldAcqB64 p d a sc => Sys2Proof.Machine.execLdAcqB64 p d a sc s
  | .stRelB32 p d a sc => Sys2Proof.Machine.execStRelB32 p d a sc s
  | .stRelB64 p d a sc => Sys2Proof.Machine.execStRelB64 p d a sc s
  | .fenceAcq p sc => Sys2Proof.Machine.execFenceAcq p sc s
  | .fenceRel p sc => Sys2Proof.Machine.execFenceRel p sc s
  | .fenceAcqrel p sc => Sys2Proof.Machine.execFenceAcqrel p sc s
  | .fenceSc p sc => Sys2Proof.Machine.execFenceSc p sc s
  | .cpy p d a => Sys2Proof.Machine.execCpy p d a s
  | .gath p d a => Sys2Proof.Machine.execGath p d a s
  | .scat p d a => Sys2Proof.Machine.execScat p d a s
  | .coll p d a => Sys2Proof.Machine.execColl p d a s
  | .tbind p d a => Sys2Proof.Machine.execTbind p d a s
  | .tunbind p d a => Sys2Proof.Machine.execTunbind p d a s
  | .evpop p d a => Sys2Proof.Machine.execEvpop p d a s
  | .evpush p d a => Sys2Proof.Machine.execEvpush p d a s
  | .taskrel p d a => Sys2Proof.Machine.execTaskrel p d a s
  | .launch p d a => Sys2Proof.Machine.execLaunch p d a s
  | .launchp p d a => Sys2Proof.Machine.execLaunchp p d a s
  | .cancel p d a => Sys2Proof.Machine.execCancel p d a s
  | .gridq p d a => Sys2Proof.Machine.execGridq p d a s
  | .csrr p d a => Sys2Proof.Machine.execCsrr p d a s
  | .csrw p d a => Sys2Proof.Machine.execCsrw p d a s
  | .tmlnWrite => Sys2Proof.Machine.execTmlnWrite s
  | .identWrite => Sys2Proof.Machine.execIdentWrite s
  | .nfmtWrite => Sys2Proof.Machine.execNfmtWrite s
  | .setid p d a => Sys2Proof.Machine.execSetid p d a s
  | .tlbinv p d a => Sys2Proof.Machine.execTlbinv p d a s
  | .clrinv p d a => Sys2Proof.Machine.execClrinv p d a s
  | .bankrole p d a => Sys2Proof.Machine.execBankrole p d a s
  | .trap p a => Sys2Proof.Machine.execTrap p a s
  | .eret p d a => Sys2Proof.Machine.execEret p d a s
  | .savectx p d a => Sys2Proof.Machine.execSavectx p d a s
  | .restctx p d a => Sys2Proof.Machine.execRestctx p d a s
  | .halt p a => Sys2Proof.Machine.execHalt p a s
  | .rdclk p d a => Sys2Proof.Machine.execRdclk p d a s
  | .rand p d => Sys2Proof.Machine.execRand p d s
  | .ckpt p d a => Sys2Proof.Machine.execCkpt p d a s
  | .sigchk p d a => Sys2Proof.Machine.execSigchk p d a s
  | .replq p d a => Sys2Proof.Machine.execReplq p d a s
  | .clauseIssue => Sys2Proof.Machine.execClauseIssue s
  | .heldFaultRecordWrite => Sys2Proof.Machine.execHeldFaultRecordWrite s
  | .runAheadEnd => Sys2Proof.Machine.execRunAheadEnd s
  | .loadReturn => Sys2Proof.Machine.execLoadReturn s
  | .longLatencyCompletion => Sys2Proof.Machine.execLongLatencyCompletion s
  | .deferredMemberRetest => Sys2Proof.Machine.execDeferredMemberRetest s
  | .rotationPoint => Sys2Proof.Machine.execRotationPoint s
  | .sleepExpiry => Sys2Proof.Machine.execSleepExpiry s
  | .stall => Sys2Proof.Machine.execStall s
  | .stopWindowExpiry => Sys2Proof.Machine.execStopWindowExpiry s
  | .warpStopped => Sys2Proof.Machine.execWarpStopped s
  | .vacateReservedCore => Sys2Proof.Machine.execVacateReservedCore s
  | .workgroupPlacement => Sys2Proof.Machine.execWorkgroupPlacement s
  | .logicalCorePlacement => Sys2Proof.Machine.execLogicalCorePlacement s
  | .landingDeal => Sys2Proof.Machine.execLandingDeal s
  | .cancelLanding => Sys2Proof.Machine.execCancelLanding s
  | .gridCompletion => Sys2Proof.Machine.execGridCompletion s
  | .queueTailWake => Sys2Proof.Machine.execQueueTailWake s
  | .cpySectorDelivery => Sys2Proof.Machine.execCpySectorDelivery s
  | .gathElement => Sys2Proof.Machine.execGathElement s
  | .scatElement => Sys2Proof.Machine.execScatElement s
  | .collInstanceStart => Sys2Proof.Machine.execCollInstanceStart s
  | .collElementWrite => Sys2Proof.Machine.execCollElementWrite s
  | .gazetteerBindComplete => Sys2Proof.Machine.execGazetteerBindComplete s
  | .gazetteerUnbindComplete => Sys2Proof.Machine.execGazetteerUnbindComplete s
  | .engineOperationComplete => Sys2Proof.Machine.execEngineOperationComplete s
  | .writeBackMerge => Sys2Proof.Machine.execWriteBackMerge s
  | .atomicPerform => Sys2Proof.Machine.execAtomicPerform s
  | .postedOperationReplay => Sys2Proof.Machine.execPostedOperationReplay s
  | .mcasLockGrant => Sys2Proof.Machine.execMcasLockGrant s
  | .lockBusy => Sys2Proof.Machine.execLockBusy s
  | .mmaKgroup => Sys2Proof.Machine.execMmaKgroup s
  | .acfreeRelease => Sys2Proof.Machine.execAcfreeRelease s
  | .bankRoleChange => Sys2Proof.Machine.execBankRoleChange s
  | .writeLogApply => Sys2Proof.Machine.execWriteLogApply s
  | .replicaComparison => Sys2Proof.Machine.execReplicaComparison s
  | .holdAgeExpiry => Sys2Proof.Machine.execHoldAgeExpiry s
  | .replicaUncorrectableError => Sys2Proof.Machine.execReplicaUncorrectableError s
  | .cutIntervalExpiry => Sys2Proof.Machine.execCutIntervalExpiry s
  | .cutInstant => Sys2Proof.Machine.execCutInstant s
  | .cutRecordWrite => Sys2Proof.Machine.execCutRecordWrite s
  | .cutDurable => Sys2Proof.Machine.execCutDurable s
  | .streamUnitWrite => Sys2Proof.Machine.execStreamUnitWrite s
  | .protectedUnitWrite => Sys2Proof.Machine.execProtectedUnitWrite s
  | .savecostUpdate => Sys2Proof.Machine.execSavecostUpdate s
  | .scrubRow => Sys2Proof.Machine.execScrubRow s
  | .hotRowAgeOut => Sys2Proof.Machine.execHotRowAgeOut s
  | .scoreHalving => Sys2Proof.Machine.execScoreHalving s
  | .correctedError => Sys2Proof.Machine.execCorrectedError s
  | .uncorrectableError => Sys2Proof.Machine.execUncorrectableError s
  | .remapTableError => Sys2Proof.Machine.execRemapTableError s
  | .flitReceive => Sys2Proof.Machine.execFlitReceive s
  | .portRetrainEnd => Sys2Proof.Machine.execPortRetrainEnd s
  | .rdmaSendWake => Sys2Proof.Machine.execRdmaSendWake s
  | .rdmaInboundWrite => Sys2Proof.Machine.execRdmaInboundWrite s
  | .rdmaCompletion => Sys2Proof.Machine.execRdmaCompletion s
  | .hostBar2Write => Sys2Proof.Machine.execHostBar2Write s
  | .hostCxlMemAccess => Sys2Proof.Machine.execHostCxlMemAccess s
  | .mailboxAreaWrite => Sys2Proof.Machine.execMailboxAreaWrite s
  | .createContext => Sys2Proof.Machine.execCreateContext s
  | .destroyContext => Sys2Proof.Machine.execDestroyContext s
  | .registerQueue => Sys2Proof.Machine.execRegisterQueue s
  | .removeQueue => Sys2Proof.Machine.execRemoveQueue s
  | .setReservedCores => Sys2Proof.Machine.execSetReservedCores s
  | .loadKeySlot => Sys2Proof.Machine.execLoadKeySlot s
  | .clearKeySlot => Sys2Proof.Machine.execClearKeySlot s
  | .registerCheckpoint => Sys2Proof.Machine.execRegisterCheckpoint s
  | .removeCheckpoint => Sys2Proof.Machine.execRemoveCheckpoint s
  | .requestCut => Sys2Proof.Machine.execRequestCut s
  | .allotCores => Sys2Proof.Machine.execAllotCores s
  | .withdrawCores => Sys2Proof.Machine.execWithdrawCores s
  | .powerRun => Sys2Proof.Machine.execPowerRun s
  | .powerCapped => Sys2Proof.Machine.execPowerCapped s
  | .powerIdle => Sys2Proof.Machine.execPowerIdle s
  | .enterFullService => Sys2Proof.Machine.execEnterFullService s
  | .readErrorLog => Sys2Proof.Machine.execReadErrorLog s
  | .readJournal => Sys2Proof.Machine.execReadJournal s
  | .thermalTrip => Sys2Proof.Machine.execThermalTrip s
  | .powerRemoval => Sys2Proof.Machine.execPowerRemoval s
  | .deviceReset => Sys2Proof.Machine.execDeviceReset s
  | .codeObjectLoad => Sys2Proof.Machine.execCodeObjectLoad s
  | .writePerformedAtScope => Sys2Proof.Machine.execWritePerformedAtScope s
  | .linkDown => Sys2Proof.Machine.execLinkDown s
  | .unknownOpcode => Sys2Proof.Machine.execUnknownOpcode s

end Sys2Proof.Machine
end

