-- ==== Sys2Proof/Machine/RunAhead.lean ====
section
/-! DEFINITION. What a warp executes while it runs ahead of a page fault (R320, R321): one instruction after another on its shadow
registers, with unknown values tracked, no effect on the machine, and the pages of faulting loads added to the batch. -/

namespace Sys2Proof.Machine

/-! ### What run-ahead does with an instruction -/

/-- What an instruction is to run-ahead: executed, a load, a branch, skipped, or its end. -/
inductive AheadKind where
  | runs | loads | branches | skips | ends
deriving DecidableEq, Repr

/-- R320's lists: stores, atomics, reductions, `MCAS`, engine, launch and event commands and writes to control registers are skipped, and
so is all else that acts on more than the warp's registers; `EXIT` and wait instructions end it. -/
def aheadKind : Instr → AheadKind
  | .ldB32 .. | .ldB64 .. | .ldB128 .. | .ldB8 .. | .ldB16 .. | .ldsB32 .. | .ldsB64 .. | .ldcB32 .. | .ldcB64 ..
  | .ldrB32 .. | .ldrB32Uniform .. | .ldAcqB32 .. | .ldAcqB64 .. => .loads
  | .bra .. | .brcAny .. | .brcAll .. | .call .. | .ret .. | .jmpi .. => .branches
  | .exitT .. | .bar .. | .barw .. | .twait .. | .mwait .. | .sleepT .. | .convW | .ldfK .. | .ldfE .. | .lde .. => .ends
  | .stB32 .. | .stB64 .. | .stB128 .. | .stB8 .. | .stB16 .. | .stsB32 .. | .stsB64 .. | .strB32 .. | .strB32Uniform ..
  | .stRelB32 .. | .stRelB64 .. | .ste .. | .stf .. | .tst .. | .pref ..
  | .atomB32 .. | .casB32 .. | .atomB64 .. | .casB64 .. | .redB32 .. | .redB64 .. | .fatom .. | .fatomNr .. | .mcas .. | .marrive ..
  | .tshape .. | .tld .. | .tmov .. | .mmaBf16 .. | .mmaF16 .. | .mmaNf .. | .mmaspBf16 .. | .mmaspF16 .. | .mmaspNf ..
  | .acalloc .. | .acfree .. | .aczero .. | .acrd .. | .acwr .. | .accvt .. | .acseed .. | .acqry ..
  | .acqr .. | .cfence .. | .ifence .. | .fenceAcq .. | .fenceRel .. | .fenceAcqrel .. | .fenceSc .. | .tsignal .. | .bara ..
  | .cpy .. | .gath .. | .scat .. | .coll .. | .tbind .. | .tunbind .. | .evpop .. | .evpush .. | .taskrel ..
  | .launch .. | .launchp .. | .cancel .. | .gridq .. | .csrw .. | .setid .. | .tlbinv .. | .clrinv .. | .bankrole ..
  | .trap .. | .eret .. | .savectx .. | .restctx .. | .halt .. | .ckpt .. | .sigchk .. | .rand .. => .skips
  | _ => .runs

/-! ### Unknown values -/

/-- Names of values in a lane: words of an operand field, a uniform register, a predicate. -/
def slotKeys (base lane width : Nat) (x : Slot) : List Nat :=
  let n := x.f.toNat
  if n < 96 then (List.range width).map fun j => 64 * (base + n + j) + lane
  else if n < 112 then (List.range width).map fun j => 2 ^ 15 + (n - 96) + j
  else []
def uniKey (n : BitVec 7) : Nat := 2 ^ 15 + n.toNat
def predKeys (lane k : Nat) : List Nat := if k < 7 then [2 ^ 16 + 64 * k + lane] else []

/-- Predicates that an instruction reads besides its guard. -/
def predsRead : Instr → List (BitVec 3)
  | .sel k _ _ _ => [k]
  | .pand _ _ a b | .por _ _ a b | .pxor _ _ a b => [a.extractLsb' 0 3, b.extractLsb' 0 3]
  | .pnot _ _ a | .voteAny _ _ a | .voteAll _ _ a | .voteBallot _ _ a => [a.extractLsb' 0 3]
  | .brcAny _ d _ | .brcAll _ d _ => [d.extractLsb' 0 3]
  | .addc .. | .subb .. | .addcI64 .. | .subbI64 .. => [6]
  | _ => []
/-- Predicates that an instruction writes. -/
def predsWritten : Instr → List (BitVec 3)
  | .cmpSg _ d _ _ | .cmpUs _ d _ _ | .cmpI64 _ d _ _ | .fcmpF32 _ d _ _ | .fcmpF16 _ d _ _ | .fcmpBf16 _ d _ _
  | .pand _ d _ _ | .por _ d _ _ | .pxor _ d _ _ | .pnot _ d _ | .elect _ d | .voteAny _ d _ | .voteAll _ d _ => [d.extractLsb' 0 3]
  | .addc .. | .subb .. | .addcI64 .. | .subbI64 .. => [6]
  | _ => []

/-- The values of a lane that an instruction reads, those that decide whether it executes first. -/
def guardKeys (i : Instr) (lane : Nat) : List Nat := predKeys lane (shapeOf i).p.toNat
def readKeys (base : Nat) (i : Instr) (lane : Nat) : List Nat :=
  let sh := shapeOf i
  guardKeys i lane ++ (predsRead i).flatMap (fun k => predKeys lane k.toNat) ++
  [sh.d, sh.a, sh.b].flatMap (fun x => slotKeys base lane (readWidth x.use) x) ++
  match i with
  | .smovFromUniform _ _ a => [uniKey a]
  | .ldrB32Uniform _ _ _ n => [2 ^ 15 + n.toNat]
  | .idx2 _ _ _ b => if b.getLsbD 6 then [2 ^ 15 + (b.extractLsb' 0 4).toNat] else []
  | _ => []
/-- The values of a lane that an instruction writes. -/
def writeKeys (base : Nat) (i : Instr) (lane : Nat) : List Nat :=
  let sh := shapeOf i
  slotKeys base lane (writeWidth sh.d.use) sh.d ++ (predsWritten i).flatMap (fun k => predKeys lane k.toNat) ++
  match i with
  | .smovToUniform _ d _ => [uniKey d]
  | _ => []

/-- Values become unknown, or known. -/
def forgetKeys (a : Ahead) (l : List Nat) : Ahead := { a with unknown := a.unknown ++ l.filter fun k => !a.unknown.contains k }
def learnKeys (a : Ahead) (l : List Nat) : Ahead := { a with unknown := a.unknown.filter fun k => !l.contains k }

/-- The window base in force for a lane. -/
def aheadBase (a : Ahead) (l : Nat) : Nat := (tblGet a.threads l).base
/-- The guard of an instruction holds for a lane, as far as it is known. -/
def aheadActive (a : Ahead) (i : Instr) (l : Nat) : Bool := predOf (tblGet a.threads l) (shapeOf i).p.toNat
/-- A lane's execution of an instruction reads an unknown value. -/
def unknownIn (a : Ahead) (i : Instr) (l : Nat) : Bool := (readKeys (aheadBase a l) i l).any fun k => a.unknown.contains k
/-- The guard of a lane is unknown. -/
def guardUnknown (a : Ahead) (i : Instr) (l : Nat) : Bool := (guardKeys i l).any fun k => a.unknown.contains k

/-! ### The shadow -/

/-- The machine as a warp in run-ahead sees it: its shadow registers in place of its own, no traps enabled, and its clause alone in
flight. -/
def aheadView (s : State) (w : Nat) (a : Ahead) (g : Group) : State :=
  { updWarp s w (fun x =>
      { x with vr := a.vr, sr := a.sr, wbase := a.wbase, lanes := a.threads, uw := [], fpctl := x.fpctl &&& 0xFFFFF07F#32, trapped := false,
               trapAt := none, ahead := none, pendTrap := none }) with
    groups := [(0, g)], cur := 0, loads := [] }

/-- The registers after an execution in the shadow: every result lands at once. -/
def aheadAfter (a : Ahead) (w : Nat) (t : State) : Ahead :=
  let x := warpOf t w
  let rs := (t.loads.filter fun e => e.2.warp == w).flatMap fun e => e.2.writes
  { a with
    vr := rs.foldl (fun m r => if r.reg < 512 then bmSet m (r.reg * 64 + r.lane) r.val else m) x.vr
    sr := rs.foldl (fun m r => if 512 ≤ r.reg then bmSet m (r.reg - 512) r.val else m) x.sr
    wbase := x.wbase, threads := x.lanes, grp := tblGet? t.groups 0 }

/-- An execution in the shadow had its effect: no trap, and no lane waits. -/
def aheadDone (t : State) (w : Nat) : Bool :=
  let x := warpOf t w
  !x.trapped && x.ahead.isNone && x.pendTrap.isNone && x.lanes.all fun e => decide (e.2.wait = .none)

/-- The clause goes on without the present instruction's effect. -/
def aheadSkip (s : State) (w : Nat) (a : Ahead) (g : Group) : Ahead :=
  let x := retire (aheadView s w a g)
  { a with threads := (warpOf x w).lanes, grp := tblGet? x.groups 0 }

/-- The lanes of a group. -/
def lanesOf (g : Group) : List Nat := g.mem.map (·.lane)

/-- What an instruction without a known result leaves: its destinations unknown in the lanes that may write them. -/
def aheadBlank (a : Ahead) (i : Instr) (g : Group) : Ahead :=
  forgetKeys a (((lanesOf g).filter fun l => guardUnknown a i l || aheadActive a i l).flatMap fun l => writeKeys (aheadBase a l) i l)

/-! ### One load of one lane -/

/-- A load of one lane: a page that faults joins the batch; a value is delivered where the translation hits and the page's tag allows it. -/
def aheadLoad (s : State) (w : Nat) (a : Ahead) (g : Group) (i : Instr) (acc : Ahead) (l : Nat) : Ahead :=
  let keys := writeKeys (aheadBase a l) i l
  if guardUnknown a i l then forgetKeys acc keys
  else if !aheadActive a i l then acc
  else if unknownIn a i l then forgetKeys acc keys
  else match exec i (aheadView s w a { g with mem := [⟨l, w⟩] }) with
    | .next t =>
      let part := partOfWarp s w
      let met := match (warpOf t w).ahead with | some b => b.pages | none => []
      let acc1 := { acc with pages := acc.pages ++ ((sortNat met).filter fun p => !acc.pages.contains p).take (33 - acc.pages.length) }
      if aheadDone t w && decide ((partOf t part).tlb = (partOf s part).tlb) &&
          decide ((ctxOf t (part / 8192)).auditSeq = (ctxOf s (part / 8192)).auditSeq) then
        let b := aheadAfter acc1 w { t with warps := tblUpd t.warps w fun x => { x with vr := acc1.vr, sr := acc1.sr } }
        learnKeys { acc1 with vr := b.vr, sr := b.sr } keys
      else forgetKeys acc1 keys
    | _ => forgetKeys acc keys

/-- A load of all the lanes: the highest first, so that a uniform destination keeps the lowest one's result (R37). -/
def aheadLoads (s : State) (w : Nat) (a : Ahead) (g : Group) (i : Instr) : Ahead :=
  (lanesOf g).reverse.foldl (aheadLoad s w a g i) a

/-! ### One instruction -/

/-- A value computed from an unknown value is unknown: after an execution, the destinations of the lanes that read one, or of all lanes
where an instruction reads other lanes or executes once for all. -/
def aheadTaint (a b : Ahead) (g : Group) (i : Instr) : Ahead :=
  let sh := shapeOf i
  let joint := sh.cross || sh.once || decide (g.patA ≠ 0) || decide (g.patB ≠ 0)
  let ls := (lanesOf g).filter fun l => guardUnknown a i l || aheadActive a i l
  let bad (l : Nat) : Bool := unknownIn a i l || (joint && ls.any fun k => unknownIn a i k)
  ls.reverse.foldl (fun c l =>
    let keys := writeKeys (aheadBase a l) i l
    if bad l then forgetKeys c keys else learnKeys c keys) b

/-- The clause that a warp in run-ahead executes next: the one at hand, with the threads that join it there, or the one at the place of its
lowest thread. -/
def aheadGroup? (s : State) (w : Nat) (a : Ahead) : Option (Ahead × Group) :=
  match a.grp with
  | some g =>
    some (a, { g with mem := (a.threads.filter fun e =>
      g.mem.contains ⟨e.1, w⟩ || (decide (e.2.pc = g.pc) && decide (e.2.pos = g.pos + 1))).map fun e => ⟨e.1, w⟩ })
  | none =>
    match a.threads with
    | [] => none
    | (_, t) :: _ =>
      match clauseAt s w t.pc with
      | .error _ => none
      | .ok c =>
        let here (x : Thread) : Bool := decide (x.pc = t.pc) && decide (x.pos = t.pos)
        let b := if t.pos = 0 then { a with threads := tblMap a.threads fun _ x => if here x then { x with base := a.wbase } else x } else a
        some (b, { groupAt c t.pc t.pos with
          wg := (warpOf s w).wg, mem := (a.threads.filter fun e => here e.2).map fun e => ⟨e.1, w⟩ })

/-- The next instruction of a warp's run-ahead. -/
def aheadOne (s : State) (w : Nat) (a0 : Ahead) : Ahead :=
  match aheadGroup? s w a0 with
  | none => { a0 with finished := true }
  | some (a, g) =>
    match cell (g.body.getD g.pos 0) with
    | none => { a with finished := true }
    | some (i, _) =>
      match aheadKind i with
      | .ends => { a with finished := true }
      | .skips => aheadSkip s w (aheadBlank a i g) g
      | .loads => aheadSkip s w (aheadLoads s w a g i) g
      | .branches =>
        if (lanesOf g).any fun l => unknownIn a i l then { a with finished := true }
        else match exec i (aheadView s w a g) with
          | .next t => if aheadDone t w then aheadTaint a (aheadAfter a w t) g i else { a with finished := true }
          | _ => { a with finished := true }
      | .runs =>
        match exec i (aheadView s w a g) with
        | .next t => if aheadDone t w then aheadTaint a (aheadAfter a w t) g i else aheadSkip s w (aheadBlank a i g) g
        | _ => { a with finished := true }

/-- Warps in run-ahead go on by one instruction, each freely in this step or not: how far they come before their time is up is a matter
of timing (log 18). -/
def runAhead (s : State) : State :=
  { s with warps := tblMap s.warps fun w x =>
      match x.ahead with
      | none => x
      | some a => if aheadEnded s a || !Config.ahead s.free w then x else { x with ahead := some (aheadOne s w a) } }

end Sys2Proof.Machine
end

