-- ==== Sys2Proof/Machine/Timing.lean ====
section
/-! DEFINITION. How time passes (R2, R4): a free number of c-cycles in a step, held at each moment by which the spec says that something
has happened while it can still happen. -/

namespace Sys2Proof.Machine

/-- A moment by which something has happened, and whether the machine can make it happen now. -/
structure Deadline where
  moment : Nat
  due : Bool
deriving DecidableEq, Repr

/-- The c-cycles that may pass from a clock value on: to the next deadline, and none past one that can still be met. -/
def capTick (clk : Nat) (n : Nat) (ds : List Deadline) : Nat :=
  ds.foldl (fun n d => if clk < d.moment then min n (d.moment - clk) else if d.due then 0 else n) n

/-- Threads of a warp are members of a group in flight. -/
def inFlight (s : State) (w : Nat) : Bool := s.groups.any fun e => e.2.mem.any fun m => m.warp == w

/-- A thread is ready and its slot may issue. -/
def issuesSoon (s : State) (w l : Nat) : Bool :=
  s.pcores.any fun e => (seqKey e.1 :: (List.range 4).map fun i => quarterOf e.1 i).any fun q =>
    issueDue s q && (slotReady s q).contains ⟨l, w⟩

/-- The threads of a warp under a stop all stand at restart points within 1,024 a-cycles of the request (R2, R258, R343). -/
def stopDeadlines (s : State) : List Deadline :=
  s.warps.filterMap fun e =>
    match stopClock e.2 with
    | none => none
    | some t => if warpStill s e.1 then none else some ⟨t + 3 * 1024, windowDue s e.1 || (e.2.stopNow && inFlight s e.1)⟩

/-- Run-ahead ends 2,048 a-cycles after its start (R320). -/
def aheadDeadlines (s : State) : List Deadline := s.warps.filterMap fun e => e.2.ahead.map fun a => ⟨aheadLimit a, aheadEnded s a⟩

/-- A thread that sleeps resumes no later than 64 a-cycles after its sleep's end (R294). -/
def sleepDeadlines (s : State) : List Deadline :=
  s.warps.flatMap fun e => e.2.lanes.filterMap fun l =>
    match l.2.wait with
    | .sleep u => if l.2.stopped then none else some ⟨u + 3 * 64, sleepDue s e.1 l.1 || (l.2.ready && issuesSoon s e.1 l.1)⟩
    | _ => none

/-- A rotation point stands every 1,024 a-cycles (R264). -/
def rotationDeadlines (s : State) : List Deadline :=
  s.pcores.flatMap fun e => e.2.qs.map fun q => ⟨q.2.rotAt + 3072, rotationDue s (quarterOf e.1 q.1)⟩

/-- An `MCAS` whose window ends without its compare releases its locks, and none is held for more than 3 µs (R210). -/
def lockDeadlines (s : State) : List Deadline := s.mcas.filterMap fun e => e.2.first.map fun t => ⟨t + mcasWindow + 1, mcasBusy s e.2⟩

/-- `SAVECOST` is updated at least every 2^16 c-cycles (R367). -/
def costDeadlines (s : State) : List Deadline :=
  s.ctxs.map fun e => ⟨((partsOfCtx s e.1).map fun k => (partOf s k).costAt).foldl max 0, costDue s e.1⟩

/-- No workgroup of a grid has issued its first instruction. -/
def notBegun (s : State) (gid : Nat) (g : Grid) : Bool :=
  g.started.all fun b => s.wgs.any fun e => e.2.grid == gid && e.2.block == b && e.2.fresh && !e.2.seqi

/-- A workgroup of a grid may issue its first instruction now, or a core with no role change pending may be given one (R256). -/
def launchCan (s : State) (gid : Nat) (g : Grid) : Bool :=
  (s.wgs.any fun e => e.2.grid == gid && e.2.fresh &&
    e.2.warps.any fun w => inFlight s w || (warpOf s w).lanes.any fun l => issuesSoon s w l.1) ||
  (coresOf s g.part).any (fun c => (pcoreAt s c).pend.isEmpty && g.ranges.any fun r => match nextUnit? g r.1 with
    | some u => (placement? s gid (u * gridUnit g) c).isSome
    | none => false) ||
  (landingsOf s g).any fun l => (childrenOf s gid l).any fun c => dealDue s gid l c.1

/-- The first workgroup of an accepted package-wide launch of a warp or a sequencer, of a kernel neither sealed nor deterministic, issues
its first instruction within 80 ns, 144 c-cycles, while a core admits it (R2, R256). -/
def launchDeadlines (s : State) : List Deadline :=
  s.grids.filterMap fun e =>
    if e.2.queued || e.2.pod || e.2.k.isSealed || e.2.k.det || e.2.complete || !notBegun s e.1 e.2 then none
    else some ⟨e.2.issued + 144, launchCan s e.1 e.2⟩

/-- A partition with work left is frozen when 2^26 c-cycles have passed without an event (R279). -/
def stallDeadlines (s : State) : List Deadline :=
  s.parts.flatMap fun e => (List.range 4).map fun d => ⟨(tblGet? e.2.lastEvent d).getD 0 + 2 ^ 26, stallDue s e.1 d⟩

/-- A warp of several replicas comes to a comparison 4,096 a-cycles after its oldest uncompared entry (R371). -/
def ageDeadlines (s : State) : List Deadline :=
  s.warps.filterMap fun e => if e.2.sigN = 0 then none else some ⟨e.2.holdAt + 3 * 4096, ageDue s e.1⟩

/-- A cut begins at the end of each interval (R362). -/
def cutDeadlines (s : State) : List Deadline :=
  s.ctxs.filterMap fun e => (ckptOf s e.1).due.map fun t => ⟨t, intervalDue s e.1⟩

/-- The last moment at which a row was scrubbed, or its package started. -/
def scrubbedAt (k : Pkg) (r : Nat) : Nat := (tblGet? k.scrubbed r).getD k.clk0

/-- A row that has been scrubbed or has had an error is scrubbed within 24 hours of its last scrub, and one on the hot list within 22.5
minutes of it or of its last corrected error (R383). -/
def scrubDeadlines (s : State) : List Deadline :=
  s.pkgs.flatMap fun e =>
    (e.2.hot.map fun r => ⟨max (scrubbedAt e.2 r) (rowState s e.1 r).2.2 + dayClk / 64, rowThere s e.1 r⟩) ++
    (sortNat (e.2.rows.map (·.1) ++ e.2.scrubbed.map (·.1))).map fun r => ⟨scrubbedAt e.2 r + dayClk, rowThere s e.1 r⟩

/-- Scores are halved every 24 hours, and a row leaves the hot list 7 days after its last corrected error (R383, R384). -/
def rowDeadlines (s : State) : List Deadline :=
  s.pkgs.flatMap fun e => ⟨e.2.halveAt + dayClk, halvingDue s e.1⟩ ::
    e.2.hot.map fun r => ⟨(rowState s e.1 r).2.2 + weekClk, ageOutDue s e.1 r⟩

/-- Every moment that holds time. -/
def deadlines (s : State) : List Deadline :=
  stopDeadlines s ++ aheadDeadlines s ++ sleepDeadlines s ++ rotationDeadlines s ++ lockDeadlines s ++ costDeadlines s ++ launchDeadlines s ++
  stallDeadlines s ++ ageDeadlines s ++ cutDeadlines s ++ scrubDeadlines s ++ rowDeadlines s

/-! ### Passing -/

/-- A part whose run count goes on: some core of its package holds the context, which is not saved, and the package is not in Idle (R358,
R404). -/
def partCounts (s : State) (k : Nat) (p : Part) : Bool :=
  !p.saved && decide ((pkgAt s p.pkg).power ≠ 2) && s.pcores.any fun e => e.2.owners.contains k

/-- Some c-cycles pass. -/
def passTime (s : State) (n : Nat) : State :=
  { s with clk := s.clk + n, parts := tblMap s.parts fun k p =>
      mixCaches s.free (if partCounts s k p then { p with runClk := p.runClk + n } else p) }

/-- The time of one step: a free number of c-cycles, up to the deadlines; warps in run-ahead go on. -/
def advance (s : State) : State :=
  let s1 := runAhead { s with free := s.free + 1 }
  passTime s1 (capTick s1.clk (Config.tick s.free) (deadlines s1))

end Sys2Proof.Machine
end

