-- ==== Sys2Proof/Machine/Step.lean ====
section
/-! DEFINITION. One step of the machine: the transitions that are due, the choice of one of them, its meaning, and what passes with it:
the count of progress events and the clocks. And how an instruction comes to stand where the next step fetches. -/

namespace Sys2Proof.Machine

/-! ### The transitions that may be due -/

/-- A transition: an instruction or event, the slot whose group runs it, and the operands of an event. -/
structure Trans where
  instr : Instr
  slot : Nat := 0
  arg : EvArg := {}
deriving DecidableEq, Repr

/-- The state in which a transition's meaning is asked for. -/
def Trans.arm (t : Trans) (s : State) : State := { s with cur := t.slot, arg := t.arg }

/-- A transition is due when its meaning gives a next state. -/
def Trans.due (t : Trans) (s : State) : Bool :=
  match exec t.instr (t.arm s) with
  | .next _ => true
  | _ => false

/-- One event for each key of a table. -/
def perKey {α : Type} (t : Tbl α) (i : Instr) : List Trans := t.map fun e => { instr := i, arg := { a := e.1 } }
def perKeys {α : Type} (t : Tbl α) (l : List Instr) : List Trans := l.flatMap fun i => perKey t i

/-- The instruction that a group in flight executes next. -/
def groupInstr? (g : Group) : Option Instr := (cell (g.body.getD g.pos 0)).map (·.1)

/-- The next instruction of every group in flight. -/
def groupTrans (s : State) : List Trans :=
  s.groups.filterMap fun e => (groupInstr? e.2).map fun i => { instr := i, slot := e.1 }

/-- Events of the cores: issue slots, rotation points, bank roles, vacating. -/
def coreTrans (s : State) : List Trans :=
  s.pcores.flatMap fun e =>
    ((seqKey e.1 :: (List.range 4).map fun i => quarterOf e.1 i).map fun q => { instr := .clauseIssue, arg := { a := q } : Trans }) ++
    ((List.range 4).map fun i => { instr := .rotationPoint, arg := { a := quarterOf e.1 i } : Trans }) ++
    (e.2.pend.map fun b => { instr := .bankRoleChange, arg := { a := e.1, b := b.1 } : Trans }) ++
    [{ instr := .vacateReservedCore, arg := { a := e.1 } }]

/-- Events of warps and their threads. -/
def warpTrans (s : State) : List Trans :=
  perKeys s.warps [.runAheadEnd, .stopWindowExpiry, .warpStopped, .replicaComparison, .holdAgeExpiry] ++
  s.warps.flatMap fun e => e.2.lanes.flatMap fun l =>
    [{ instr := .deferredMemberRetest, arg := { a := e.1, b := l.1 } }, { instr := .sleepExpiry, arg := { a := e.1, b := l.1 } }]

/-- Events of memory operations, returns, engines and banks. -/
def memTrans (s : State) : List Trans :=
  perKeys s.loads [.loadReturn, .longLatencyCompletion] ++ perKeys s.mats [.mmaKgroup, .longLatencyCompletion] ++
  perKeys s.writes [.writePerformedAtScope, .writeBackMerge] ++ perKeys s.atoms [.atomicPerform, .postedOperationReplay] ++
  perKeys s.mcas [.mcasLockGrant, .lockBusy] ++
  perKeys s.ops [.cpySectorDelivery, .gathElement, .scatElement, .collInstanceStart, .collElementWrite, .gazetteerBindComplete,
    .gazetteerUnbindComplete, .engineOperationComplete] ++
  s.wgs.flatMap fun e => e.2.banks.map fun b => { instr := .acfreeRelease, arg := { a := e.1, b := b.1 } }

/-- Blocks of a grid that may be placed: the first blocks of its undealt units, and a deterministic core's next block. -/
def gridBlocks (s : State) (g : Grid) (c : Nat) : List Nat :=
  if g.k.det then (lcoresAt s ((ownerFor s g.ctx c).getD 0) c).filterMap fun lk => detNext? s g lk
  else g.ranges.flatMap fun r => r.2.flatMap fun x => (List.range (x.2 - x.1)).map fun i => (x.1 + i) * gridUnit g

/-- Events of grids: dealing, placement, cancels, logs, completion. -/
def gridTrans (s : State) : List Trans :=
  perKeys s.grids [.writeLogApply, .gridCompletion] ++
  s.grids.flatMap fun e =>
    (e.2.cancelTo.map fun l => { instr := .cancelLanding, arg := { a := e.1, b := l } : Trans }) ++
    (if e.2.complete then []
     else
       let cores := (if e.2.pod || e.2.k.det then partsOfCtx s e.2.ctx else [e.2.part]).flatMap fun k => coresOf s k
       (cores.flatMap fun c => (gridBlocks s e.2 c).map fun b => { instr := .workgroupPlacement, arg := { a := e.1, b := b, c := c } : Trans }) ++
       ((landingsOf s e.2).flatMap fun l => ((childrenOf s e.1 l).map fun c =>
         { instr := .landingDeal, arg := { a := e.1, b := l, c := c.1 } : Trans })))

/-- Events of contexts and their parts: held records, waiting logical cores, the monitor, the Surveyor. -/
def ctxTrans (s : State) : List Trans :=
  perKeys s.ctxs [.cutIntervalExpiry, .cutInstant, .cutRecordWrite, .cutDurable, .savecostUpdate] ++
  perKey s.parts .heldFaultRecordWrite ++
  (s.parts.flatMap fun e => (List.range 4).map fun d => { instr := .stall, arg := { a := e.1 / 8192, b := e.2.pkg * 4 + d } : Trans }) ++
  (s.lcores.flatMap fun e => (coresOf s (lkPart e.1)).map fun c => { instr := .logicalCorePlacement, arg := { a := e.1, b := c } : Trans }) ++
  (s.parts.flatMap fun e =>
    if e.2.desc = 0 then []
    else ((streamUnits s e.1).map fun u => { instr := .streamUnitWrite, arg := { a := e.1 / 8192, b := u } : Trans }) ++
      ((e.2.todo.filter fun x => x.1 == 2).map fun x => { instr := .protectedUnitWrite, arg := { a := e.1 / 8192, b := x.2 } : Trans }))

/-- Events of packages: queues, the mailbox's command, the scrubber, RDMA completions. -/
def pkgTrans (s : State) : List Trans :=
  perKeys s.pkgs [.scoreHalving, .createContext, .destroyContext, .registerQueue, .removeQueue, .setReservedCores, .loadKeySlot, .clearKeySlot,
    .registerCheckpoint, .removeCheckpoint, .requestCut, .allotCores, .withdrawCores, .powerRun, .powerCapped, .powerIdle, .enterFullService,
    .readErrorLog, .readJournal, .unknownOpcode] ++
  s.pkgs.flatMap fun e =>
    (e.2.queues.map fun q => { instr := .queueTailWake, arg := { a := e.1, b := q.1 } : Trans }) ++
    (e.2.rows.map fun r => { instr := .scrubRow, arg := { a := e.1, b := r.1 } : Trans }) ++
    (e.2.hot.map fun r => { instr := .hotRowAgeOut, arg := { a := e.1, b := r } : Trans }) ++
    (e.2.ports.map fun p => { instr := .rdmaCompletion, arg := { a := e.1, b := p.1 } : Trans })

/-- The input from outside that comes next. -/
def inputTrans (s : State) : List Trans :=
  match s.inputs with
  | [] => []
  | e :: _ => [{ instr := e.1, arg := e.2 }]

/-- Every transition of the machine itself that is due. -/
def ownTrans (s : State) : List Trans :=
  (groupTrans s ++ coreTrans s ++ warpTrans s ++ memTrans s ++ gridTrans s ++ ctxTrans s ++ pkgTrans s).filter fun t => t.due s

/-- Inputs that are due. -/
def dueInputs (s : State) : List Trans := (inputTrans s).filter fun t => t.due s

/-! ### Running one transition -/

/-- An instruction or event run, and the progress events that it counts. -/
def runOne (i : Instr) (s : State) : Out :=
  match exec i s with
  | .next s1 => .next (countEvents i s s1)
  | .fault f => .fault f
  | .refused r => .refused r

/-- A transition run. The issue of a clause goes on to the first instruction of the group that it starts. -/
def runTrans (t : Trans) (s : State) : Out :=
  match runOne t.instr (t.arm s) with
  | .next s1 =>
    if t.instr = .clauseIssue then
      match (tblGet? s1.groups t.arg.a).bind groupInstr? with
      | some i => runOne i { s1 with cur := t.arg.a }
      | none => .next s1
    else .next s1
  | .fault f => .fault f
  | .refused r => .refused r



/-! ### The step -/

/-- The transition that is taken: the only one that is due, or a free choice of several. -/
def choose (s : State) : List Trans → Option Trans
  | [] => none
  | [t] => some t
  | l => l[Config.pick s.free % l.length]?

/-- One step: a transition that is due is taken, and time passes; without one, time alone passes. An input that is taken leaves the
list of inputs. -/
def step (s : State) : Out :=
  let own := ownTrans s
  let ins := dueInputs s
  match choose s (own ++ ins) with
  | none => .next (advance s)
  | some t =>
    match runTrans t s with
    | .next s1 => .next (advance (if !ins.isEmpty && !own.contains t then { s1 with inputs := s1.inputs.drop 1 } else s1))
    | .fault f => .fault f
    | .refused r => .refused r

/-! ### An instruction placed where the next step fetches -/

/-- Literal words of the instruction of a word; a prefix needs one instruction word after it. -/
def extraWords (w : Word) : Nat := if w.extractLsb' 26 6 = 0x3F#6 then 1 else wordLits w

/-- The clause that holds a word: a header of the right length with no flags, the word, and zero words (R51, R52). -/
def oneClause (w : Word) : List Word := (0x000FF07F#32 ||| (BitVec.ofNat 32 (extraWords w) <<< 9)) :: w :: List.replicate (extraWords w) 0#32

/-- Where the code lies. -/
def codeAt : Nat := 0x1000

/-- The bytes of words at an address. -/
def wordCells (a : Nat) (ws : List Word) : List (Nat × Byte) :=
  (List.range ws.length).flatMap fun i => (List.range 4).map fun j => (a + 4 * i + j, (ws.getD i 0).extractLsb' (8 * j) 8)

/-- A page that maps the first 2 MiB as they are. -/
def codePage : TlbEntry := { vbase := 0, pbase := 0, size := 0x200000, rd := true, wr := true, ex := true }

/-- Keys of the pieces that a running program needs. -/
def progCtx : Nat := 1
def progGrid : Nat := 2
def progWg : Nat := 3
def progWarp : Nat := 4
def progPart : Nat := partKey progCtx 0

/-- A privileged context with one logical core on core 0 of package 0 in full service, one grid of one workgroup of four threads, ready at
a clause that holds the instruction. -/
def State.withFetchWord (s : State) (_nbits w : Nat) : State :=
  let lk := lcoreKey progPart 0
  let k : Khdr := { addr := codeAt, entry := codeAt }
  let lanes : Tbl Thread := (List.range 4).map fun l => (l, { pc := BitVec.ofNat 64 codeAt, age := s.nextId + 5 })
  { s with
    mem := bmSetAll s.mem (wordCells codeAt (oneClause (BitVec.ofNat 32 w)))
    ctxs := tblSet s.ctxs progCtx { priv := true }
    parts := tblSet s.parts progPart { ncores := 1, tlb := [codePage], costAt := s.clk + 2 ^ 16, lastEvent := [(0, s.clk)] }
    lcores := tblSet s.lcores lk { pcore := some 0 }
    pcores := tblSet s.pcores 0 { owners := [progPart], qs := [(0, { active := [progWarp], since := [progWarp], rotAt := s.clk })] }
    grids := tblSet s.grids progGrid { ctx := progCtx, part := progPart, k := k, wx := 4, started := [0] }
    wgs := tblSet s.wgs progWg { ctx := progCtx, grid := progGrid, lcore := lk, k := k, threads := 4, warps := [progWarp] }
    warps := tblSet s.warps progWarp { ctx := progCtx, wg := progWg, lanes := lanes }
    pkgs := tblUpd s.pkgs 0 fun p => { p with full := true, halveAt := s.clk }
    nextId := s.nextId + 6 }

end Sys2Proof.Machine
end

