-- ==== Sys2Proof/Safety.lean ====
section
/-! DEFINITION. What a safe step and a safe state are, and the words in which statements are made: answers, the canonical form that
memory keeps, and the effect of a register instruction with its frame. -/

namespace Sys2Proof.Machine

/-! ### Steps and states -/

/-- A state that some number of steps reaches from another. -/
inductive Reaches (s : State) : State → Prop where
  | here : Reaches s s
  | more {t u : State} : Reaches s t → step t = .next u → Reaches s u

/-- Memory has its canonical form. -/
def MemOk (s : State) : Prop := Memory.wf s.mem = true

/-! ### Register instructions -/

/-- The members that perform an instruction: those of the group whose guard is true (R38). -/
def actors (s : State) (g : Group) (i : Instr) : List Member := active s g (shapeOf i).p

/-- Every operand register that an actor names lies below its bound, and no constant slot that it reads faults (R34, R39); a helper
is not checked (R15). -/
def OperandsPass (s : State) (g : Group) (i : Instr) : Prop :=
  ∀ m ∈ actors s g i, (thrOf s m).helper = false → operandFail s (shapeOf i) m = none

/-- The sources of an instruction for a member (R57 to R59). -/
def sources (s : State) (g : Group) (i : Instr) (m : Member) : Src := srcOf s g (shapeOf i) m

/-- The number in the D field, and how many words the instruction writes there. -/
def dstField (i : Instr) : Nat := (shapeOf i).d.f.toNat
def dstWords (i : Instr) : Nat := writeWidth (shapeOf i).d.use

/-- Allocation register r of lane l of a warp is a word of the window destination of one of some members (R34, R57). -/
def InWindowDst (s : State) (i : Instr) (ms : List Member) (w l r : Nat) : Prop :=
  ∃ m ∈ ms, m.warp = w ∧ m.lane = l ∧ dstField i < 96 ∧
    (thrOf s m).base + dstField i ≤ r ∧ r < (thrOf s m).base + dstField i + dstWords i

/-- Uniform register n of a warp is a word of the uniform destination that the lowest of some members writes (R37, R57). -/
def InUniformDst (s : State) (i : Instr) (ms : List Member) (w n : Nat) : Prop :=
  (leadOf s ms w).isSome = true ∧ 96 ≤ dstField i ∧ dstField i < 112 ∧
    dstField i - 96 ≤ n ∧ n < dstField i - 96 + dstWords i

/-- A warp without its registers and the moments of their writes (R88), its threads' predicates and flags, and the marks of its last
comparison. -/
def warpFrame (w : Warp) : Warp :=
  { w with vr := [], bad := [], sr := [], uw := [], cmpOk := false, agreed := [], lanes := tblMap w.lanes fun _ t => { t with preds := 0, fpst := 0 } }

/-- The state after a register instruction, before the clause goes on, in which the members ms take part and whose result for a
member is `f` of it: the destination's words, the predicates and the `FPST` bits of those members, and nothing else but the traces of
the constant slots that the instruction reads. -/
structure RegEffect (s : State) (g : Group) (i : Instr) (ms : List Member) (f : Member → Res) (u : State) : Prop where
  window : ∀ m ∈ ms, present s m.warp m.lane = true → dstField i < 96 → ∀ k < dstWords i,
    vreg u m.warp m.lane ((thrOf s m).base + dstField i + k) = (f m).d.extractLsb' (32 * k) 32
  uniform : ∀ w m, leadOf s ms w = some m → present s w m.lane = true → 96 ≤ dstField i → dstField i < 112 →
    ∀ k < dstWords i, ureg u w (dstField i - 96 + k) = (f m).d.extractLsb' (32 * k) 32
  preds : ∀ m ∈ ms, present s m.warp m.lane = true →
    (thrOf u m).preds = ((f m).preds.foldl (fun t x => setPred t x.1 x.2) (thrOf s m)).preds
  fpst : ∀ m ∈ ms, present s m.warp m.lane = true →
    (thrOf u m).fpst = if (thrOf s m).helper then (thrOf s m).fpst else (thrOf s m).fpst ||| (f m).fp
  otherVreg : ∀ w l r, l < 64 → ¬ InWindowDst s i ms w l r → vreg u w l r = vreg s w l r
  otherUreg : ∀ w n, ¬ InUniformDst s i ms w n → ureg u w n = ureg s w n
  otherThread : ∀ m, m ∉ ms → thrOf u m = thrOf s m
  frame : tblMap u.warps (fun _ w => warpFrame w) = tblMap s.warps (fun _ w => warpFrame w)
  rest : { u with warps := s.warps } = constTraces s (shapeOf i) (actors s g i)

/-- No flag that the result raises is trapped on by the warp's `FPCTL` (R45, R122). -/
def NoFpTrap (s : State) (g : Group) (i : Instr) (f : Member → Res) : Prop :=
  ∀ m ∈ actors s g i, (thrOf s m).helper = false → trapFlags (warpOf s m.warp) (f m).fp = 0

/-- A register instruction completes: it answers the state in which its effect is made and the clause goes on. -/
def RegCompletes (i : Instr) (s : State) (g : Group) (f : Member → Res) : Prop :=
  ∃ u, exec i s = .next (retire u) ∧ RegEffect s g i (actors s g i) f u

/-- The participants of a cross-lane instruction: its actors that are no helpers (R154). -/
def participants (s : State) (g : Group) (i : Instr) : List Member := nonHelpers s (actors s g i)
/-- Lanes and sources of the participants of a warp, in the group's order. -/
def warpSources (s : State) (g : Group) (i : Instr) (w : Nat) : List (Nat × Src) :=
  ((participants s g i).filter fun m => m.warp == w).map fun m => (m.lane, sources s g i m)

/-! ### Instructions that do more -/

/-- The state in which an instruction makes its effect: the constant slots that it reads are noted, and the mark of a comparison
that its warp has passed is cleared. -/
def noted (s : State) (g : Group) (i : Instr) : State :=
  redunMark (constTraces s (shapeOf i) (actors s g i)) .own [] (actors s g i)

/-- The same for an instruction that executes once for its group: its deciding member's reads are noted (R18). -/
def notedOnce (s : State) (g : Group) (i : Instr) (m : Member) : State :=
  redunMark (constTraces s (shapeOf i) [m]) .own [] (actors s g i)

/-- No warp of the group is replicated (R368). -/
def Unreplicated (s : State) (g : Group) : Prop := ∀ m ∈ g.mem, isRedun s m.warp = false

/-- Two states agree in every register, predicate and flag of every thread and warp, and in every other part of the warps but the
marks of comparisons. -/
structure SameRegisters (s u : State) : Prop where
  vregs : ∀ w l r, l < 64 → vreg u w l r = vreg s w l r
  uregs : ∀ w n, ureg u w n = ureg s w n
  threads : ∀ m, thrOf u m = thrOf s m

/-- Every byte of memory that lies outside some ranges reads as before, at its home and as every core and warp sees it. -/
def BytesKept (s u : State) (outside : Nat → Prop) : Prop :=
  ∀ a, outside a → bmGet u.mem a = bmGet s.mem a ∧ ∀ core warp key, viewByte u core warp key a = viewByte s core warp key a

end Sys2Proof.Machine
end

