-- ==== Sys2Proof/WellFormed.lean ====
section
/-! DEFINITION. Well-formed instructions: those whose fields pass every check that does not depend on the clause, the
machine or another word (R57, R63 step 3, R64). -/

namespace Sys2Proof

/-- The instruction names only operand and selector values that R57 and its description allow. -/
def Instr.wf (i : Instr) : Bool :=
  Machine.valueCause i = none && Machine.reservedCause i = none

/-- The instruction has a word; the others are events of the device. -/
def Instr.hasWord (i : Instr) : Bool := (encode i).isSome

end Sys2Proof
end

