-- ==== Sys2Proof/Certificates/Slice0/Obligations.lean ====
section
/-! DEFINITION. The statements for the provers: encodings, the step, register results with their frames, memory, atomics,
synchronisation, matrices, engines, launches, exceptions, contexts, reliability and the package, and the forms in which they speak of
results. -/

namespace Sys2Proof.Claims

open Sys2Proof.Machine

/-! ### Results of integer instructions (R84 to R88, R92) -/

/-- A 32-bit, and a 64-bit, result for D. -/
def d32 (v : Word) : Res := { d := v.setWidth 128 }
def d64 (v : Pair) : Res := { d := v.setWidth 128 }

/-- The carry and the borrow that p6 receives (R85). -/
def withP6 (r : Res) (v : Bool) : Res := { r with preds := [(6, v)] }

/-- The result that the spec gives an integer instruction, from the sources of one member. -/
inductive IntResult : Instr → (Src → Res) → Prop where
  | addI32 (p : BitVec 3) (d a b : BitVec 7) :
      IntResult (.addI32 p d a b) (fun x => d32 (lo32 x.a + lo32 x.b))
  | subI32 (p : BitVec 3) (d a b : BitVec 7) :
      IntResult (.subI32 p d a b) (fun x => d32 (lo32 x.a - lo32 x.b))
  | addI32Immediate (p : BitVec 3) (d a : BitVec 7) (i : BitVec 9) :
      IntResult (.addI32Immediate p d a i) (fun x => d32 (lo32 x.a + i.signExtend 32))
  | addc (p : BitVec 3) (d a b : BitVec 7) :
      IntResult (.addc p d a b) (fun x =>
      let n := (lo32 x.a).toNat + (lo32 x.b).toNat + (predOf x.t 6).toNat
      withP6 (d32 (BitVec.ofNat 32 n)) (decide (2 ^ 32 ≤ n)))
  | subb (p : BitVec 3) (d a b : BitVec 7) :
      IntResult (.subb p d a b) (fun x =>
      let n : Int := (lo32 x.a).toNat - (lo32 x.b).toNat - (predOf x.t 6).toNat
      withP6 (d32 (BitVec.ofInt 32 n)) (decide (n < 0)))
  | addI64 (p : BitVec 3) (d a b : BitVec 7) :
      IntResult (.addI64 p d a b) (fun x => d64 (lo64 x.a + lo64 x.b))
  | subI64 (p : BitVec 3) (d a b : BitVec 7) :
      IntResult (.subI64 p d a b) (fun x => d64 (lo64 x.a - lo64 x.b))
  | addcI64 (p : BitVec 3) (d a b : BitVec 7) :
      IntResult (.addcI64 p d a b) (fun x =>
      let n := (lo64 x.a).toNat + (lo64 x.b).toNat + (predOf x.t 6).toNat
      withP6 (d64 (BitVec.ofNat 64 n)) (decide (2 ^ 64 ≤ n)))
  | subbI64 (p : BitVec 3) (d a b : BitVec 7) :
      IntResult (.subbI64 p d a b) (fun x =>
      let n : Int := (lo64 x.a).toNat - (lo64 x.b).toNat - (predOf x.t 6).toNat
      withP6 (d64 (BitVec.ofInt 64 n)) (decide (n < 0)))
  | mullo (p : BitVec 3) (d a b : BitVec 7) :
      IntResult (.mullo p d a b) (fun x => d32 (BitVec.ofNat 32 ((lo32 x.a).toNat * (lo32 x.b).toNat)))
  | mulhiUs (p : BitVec 3) (d a b : BitVec 7) :
      IntResult (.mulhiUs p d a b) (fun x => d32 (BitVec.ofNat 32 ((lo32 x.a).toNat * (lo32 x.b).toNat / 2 ^ 32)))
  | mulhiSg (p : BitVec 3) (d a b : BitVec 7) :
      IntResult (.mulhiSg p d a b) (fun x => d32 (BitVec.ofInt 32 ((lo32 x.a).toInt * (lo32 x.b).toInt / 2 ^ 32)))
  | mad (p : BitVec 3) (d a b : BitVec 7) :
      IntResult (.mad p d a b) (fun x => d32 (BitVec.ofNat 32 ((lo32 x.a).toNat * (lo32 x.b).toNat + (lo32 x.d).toNat)))
  | andB (p : BitVec 3) (d a b : BitVec 7) :
      IntResult (.andB p d a b) (fun x => d32 (lo32 x.a &&& lo32 x.b))
  | orB (p : BitVec 3) (d a b : BitVec 7) :
      IntResult (.orB p d a b) (fun x => d32 (lo32 x.a ||| lo32 x.b))
  | xorB (p : BitVec 3) (d a b : BitVec 7) :
      IntResult (.xorB p d a b) (fun x => d32 (lo32 x.a ^^^ lo32 x.b))
  | notB (p : BitVec 3) (d a : BitVec 7) :
      IntResult (.notB p d a) (fun x => d32 (~~~ lo32 x.a))
  | shl (p : BitVec 3) (d a b : BitVec 7) :
      IntResult (.shl p d a b) (fun x => d32 (BitVec.ofNat 32 ((lo32 x.a).toNat * 2 ^ (lo32 x.b).toNat)))
  | shr (p : BitVec 3) (d a b : BitVec 7) :
      IntResult (.shr p d a b) (fun x => d32 (BitVec.ofNat 32 ((lo32 x.a).toNat / 2 ^ (lo32 x.b).toNat)))
  | sar (p : BitVec 3) (d a b : BitVec 7) :
      IntResult (.sar p d a b) (fun x => d32 (BitVec.ofInt 32 ((lo32 x.a).toInt / 2 ^ (lo32 x.b).toNat)))
  | rot (p : BitVec 3) (d a b : BitVec 7) :
      IntResult (.rot p d a b) (fun x => d32 ((lo32 x.a).rotateLeft ((lo32 x.b).toNat % 32)))
  | minSg (p : BitVec 3) (d a b : BitVec 7) :
      IntResult (.minSg p d a b) (fun x => d32 (if (lo32 x.a).toInt ≤ (lo32 x.b).toInt then lo32 x.a else lo32 x.b))
  | minUs (p : BitVec 3) (d a b : BitVec 7) :
      IntResult (.minUs p d a b) (fun x => d32 (if (lo32 x.a).toNat ≤ (lo32 x.b).toNat then lo32 x.a else lo32 x.b))
  | maxSg (p : BitVec 3) (d a b : BitVec 7) :
      IntResult (.maxSg p d a b) (fun x => d32 (if (lo32 x.b).toInt ≤ (lo32 x.a).toInt then lo32 x.a else lo32 x.b))
  | maxUs (p : BitVec 3) (d a b : BitVec 7) :
      IntResult (.maxUs p d a b) (fun x => d32 (if (lo32 x.b).toNat ≤ (lo32 x.a).toNat then lo32 x.a else lo32 x.b))
  | abs (p : BitVec 3) (d a : BitVec 7) :
      IntResult (.abs p d a) (fun x => d32 (BitVec.ofInt 32 ((lo32 x.a).toInt.natAbs)))
  | neg (p : BitVec 3) (d a : BitVec 7) :
      IntResult (.neg p d a) (fun x => d32 (BitVec.ofInt 32 (-(lo32 x.a).toInt)))
  | clz (p : BitVec 3) (d a : BitVec 7) :
      IntResult (.clz p d a) (fun x => d32 (BitVec.ofNat 32 (((List.range 33).find? fun n => decide ((lo32 x.a).toNat * 2 ^ n ≥ 2 ^ 31)).getD 32)))
  | popc (p : BitVec 3) (d a : BitVec 7) :
      IntResult (.popc p d a) (fun x => d32 (BitVec.ofNat 32 ((List.range 32).countP fun k => (lo32 x.a).getLsbD k)))
  | brev (p : BitVec 3) (d a : BitVec 7) :
      IntResult (.brev p d a) (fun x => d32 (lo32 x.a).reverse)
  | bfxUs (p : BitVec 3) (d a b : BitVec 7) :
      IntResult (.bfxUs p d a b) (fun x => d32 (BitVec.ofNat 32 ((lo32 x.a).toNat % 2 ^ fieldTop (lo32 x.b) / 2 ^ fieldPos (lo32 x.b))))
  | bfxSg (p : BitVec 3) (d a b : BitVec 7) :
      IntResult (.bfxSg p d a b) (fun x =>
      let n := fieldTop (lo32 x.b) - fieldPos (lo32 x.b)
      let v := (lo32 x.a).toNat % 2 ^ fieldTop (lo32 x.b) / 2 ^ fieldPos (lo32 x.b)
      d32 (BitVec.ofInt 32 (if 0 < n ∧ 2 ^ (n - 1) ≤ v then (v : Int) - 2 ^ n else v)))
  | bfi (p : BitVec 3) (d a b : BitVec 7) :
      IntResult (.bfi p d a b) (fun x =>
      let lo := fieldPos (lo32 x.b)
      let hi := fieldTop (lo32 x.b)
      let d := (lo32 x.d).toNat
      d32 (BitVec.ofNat 32 (d / 2 ^ hi * 2 ^ hi + (lo32 x.a).toNat % 2 ^ (hi - lo) * 2 ^ lo + d % 2 ^ lo)))
  | mov (p : BitVec 3) (d a : BitVec 7) :
      IntResult (.mov p d a) (fun x => d32 (lo32 x.a))
  | movi (p : BitVec 3) (d : BitVec 7) (i : BitVec 9) :
      IntResult (.movi p d i) (fun _ => d32 (i.signExtend 32))
  | movI64 (p : BitVec 3) (d a : BitVec 7) :
      IntResult (.movI64 p d a) (fun x => d64 (lo64 x.a))
  | shlI64 (p : BitVec 3) (d a b : BitVec 7) :
      IntResult (.shlI64 p d a b) (fun x => d64 (BitVec.ofNat 64 ((lo64 x.a).toNat * 2 ^ (lo32 x.b).toNat)))
  | shrI64 (p : BitVec 3) (d a b : BitVec 7) :
      IntResult (.shrI64 p d a b) (fun x => d64 (BitVec.ofNat 64 ((lo64 x.a).toNat / 2 ^ (lo32 x.b).toNat)))
  | sarI64 (p : BitVec 3) (d a b : BitVec 7) :
      IntResult (.sarI64 p d a b) (fun x => d64 (BitVec.ofInt 64 ((lo64 x.a).toInt / 2 ^ (lo32 x.b).toNat)))
  | lea (p : BitVec 3) (d a b : BitVec 7) :
      IntResult (.lea p d a b) (fun x =>
      d64 (BitVec.ofInt 64 ((lo64 x.a).toNat + ((lo32 x.b).extractLsb' 0 29).toInt * 2 ^ ((lo32 x.b).toNat / 2 ^ 29))))

/-! ### Results of predicate and floating-point instructions (R89 to R91, R133 to R142) -/

/-- A condition of the compares, between two numbers (R89). -/
def orderHolds (cond : Nat) (a b : Int) : Bool :=
  match cond with
  | 0 => decide (a = b)
  | 1 => decide (a ≠ b)
  | 2 => decide (a < b)
  | 3 => decide (a ≤ b)
  | 4 => decide (b < a)
  | _ => decide (b ≤ a)

/-- A result in the predicate that the low three bits of a selector name. -/
def toPred (d : BitVec 7) (v : Bool) : Res := { preds := [(d.toNat % 8, v)] }
/-- The predicate that the low three bits of a selector name, inverted by bit 3 (R90). -/
def predNamed (t : Thread) (f : BitVec 7) : Bool := predOf t (f.toNat % 8) != decide (f.toNat / 8 % 2 = 1)

/-- The result that the spec gives an instruction on predicates. -/
inductive PredResult : Instr → (Src → Res) → Prop where
  | sel (k : BitVec 3) (d a b : BitVec 7) :
      PredResult (.sel k d a b) (fun x => d32 (if predOf x.t k.toNat then lo32 x.a else lo32 x.b))
  | cmpSg (p : BitVec 3) (d a b : BitVec 7) (_ : d.toNat / 8 % 8 < 6) :
      PredResult (.cmpSg p d a b) (fun x => toPred d (orderHolds (d.toNat / 8 % 8) (lo32 x.a).toInt (lo32 x.b).toInt))
  | cmpUs (p : BitVec 3) (d a b : BitVec 7) (_ : d.toNat / 8 % 8 < 6) :
      PredResult (.cmpUs p d a b) (fun x => toPred d (orderHolds (d.toNat / 8 % 8) (lo32 x.a).toNat (lo32 x.b).toNat))
  | cmpI64 (p : BitVec 3) (d a b : BitVec 7) (_ : d.toNat / 8 % 8 < 6) :
      PredResult (.cmpI64 p d a b) (fun x => toPred d (if d.toNat < 64 then orderHolds (d.toNat / 8 % 8) (lo64 x.a).toInt (lo64 x.b).toInt
        else orderHolds (d.toNat / 8 % 8) (lo64 x.a).toNat (lo64 x.b).toNat))
  | pand (p : BitVec 3) (d a b : BitVec 7) :
      PredResult (.pand p d a b) (fun x => toPred d (predNamed x.t a && predNamed x.t b))
  | por (p : BitVec 3) (d a b : BitVec 7) :
      PredResult (.por p d a b) (fun x => toPred d (predNamed x.t a || predNamed x.t b))
  | pxor (p : BitVec 3) (d a b : BitVec 7) :
      PredResult (.pxor p d a b) (fun x => toPred d (predNamed x.t a != predNamed x.t b))
  | pnot (p : BitVec 3) (d a : BitVec 7) :
      PredResult (.pnot p d a) (fun x => toPred d (!predNamed x.t a))

/-- An FP32 result, and one on each half of a pair (R117), with the flags raised. -/
def onF32 (r : Warp → Nat → Nat → Nat → FOut) (x : Src) : Res :=
  let v := r x.w (lo32 x.a).toNat (lo32 x.b).toNat (lo32 x.d).toNat
  { d := BitVec.ofNat 128 v.1, fp := v.2 }
def onHalves (r : Warp → Nat → Nat → Nat → FOut) (x : Src) : Res :=
  let half (v : Val) (h : Nat) : Nat := (lo32 v).toNat / 65536 ^ h % 65536
  let l := r x.w (half x.a 0) (half x.b 0) (half x.d 0)
  let h := r x.w (half x.a 1) (half x.b 1) (half x.d 1)
  { d := BitVec.ofNat 128 (h.1 * 65536 + l.1), fp := l.2 ||| h.2 }
def onF64 (r : Warp → Nat → Nat → Nat → FOut) (x : Src) : Res :=
  let v := r x.w (lo64 x.a).toNat (lo64 x.b).toNat (lo64 x.d).toNat
  { d := BitVec.ofNat 128 v.1, fp := v.2 }

/-- The sum, difference, product, minimum and maximum of two patterns of a format under a warp's `FPCTL`: the exact value, rounded
once (R120, R134); a NaN source comes first (R118). -/
def sumOf (f : Fmt) (w : Warp) (a b _ : Nat) : FOut :=
  finish f (rmOf w) (ftzOf w) (with2 (exactAdd (decide (rmOf w = .down))) (unpack f (dazOf w) a) (unpack f (dazOf w) b))
def differenceOf (f : Fmt) (w : Warp) (a b _ : Nat) : FOut :=
  finish f (rmOf w) (ftzOf w)
    (with2 (fun x y => exactAdd (decide (rmOf w = .down)) x y.negate) (unpack f (dazOf w) a) (unpack f (dazOf w) b))
def productOf (f : Fmt) (w : Warp) (a b _ : Nat) : FOut :=
  finish f (rmOf w) (ftzOf w) (with2 exactMul (unpack f (dazOf w) a) (unpack f (dazOf w) b))
def lesserOf (f : Fmt) (w : Warp) (a b _ : Nat) : FOut :=
  finish f (rmOf w) false (with2 (fun x y => { v := if fvLess y x then y else x }) (unpack f (dazOf w) a) (unpack f (dazOf w) b))
def greaterOf (f : Fmt) (w : Warp) (a b _ : Nat) : FOut :=
  finish f (rmOf w) false (with2 (fun x y => { v := if fvLess x y then y else x }) (unpack f (dazOf w) a) (unpack f (dazOf w) b))
/-- a × b + d, d × a + b, a × b − d and d − a × b, each rounded once (R135). -/
def fusedOf (f : Fmt) (form : Nat) (w : Warp) (a b d : Nat) : FOut := ffma f form w a b d

/-- `FCMP` on the half that D[6] selects, or on FP32 (R136). -/
def compared (f : Fmt) (d : BitVec 7) (x : Src) : Res :=
  let pick (v : Val) : Nat :=
    if f = fp32 then (lo32 v).toNat else (lo32 v).toNat / 65536 ^ (d.toNat / 64) % 65536
  let r := fcmpOf f (d.toNat / 8 % 8) x.w (pick x.a) (pick x.b)
  { preds := [(d.toNat % 8, r.1)], fp := r.2 }

/-- The result that the spec gives a vector floating-point instruction. -/
inductive FloatResult : Instr → (Src → Res) → Prop where
  | faddF32 (p : BitVec 3) (d a b : BitVec 7) :
      FloatResult (.faddF32 p d a b) (onF32 (sumOf fp32))
  | fsubF32 (p : BitVec 3) (d a b : BitVec 7) :
      FloatResult (.fsubF32 p d a b) (onF32 (differenceOf fp32))
  | fmulF32 (p : BitVec 3) (d a b : BitVec 7) :
      FloatResult (.fmulF32 p d a b) (onF32 (productOf fp32))
  | fminF32 (p : BitVec 3) (d a b : BitVec 7) :
      FloatResult (.fminF32 p d a b) (onF32 (lesserOf fp32))
  | fmaxF32 (p : BitVec 3) (d a b : BitVec 7) :
      FloatResult (.fmaxF32 p d a b) (onF32 (greaterOf fp32))
  | fmaF32D0 (p : BitVec 3) (d a b : BitVec 7) :
      FloatResult (.fmaF32D0 p d a b) (onF32 (fusedOf fp32 0))
  | fmaF32D1 (p : BitVec 3) (d a b : BitVec 7) :
      FloatResult (.fmaF32D1 p d a b) (onF32 (fusedOf fp32 1))
  | fmaF32D2 (p : BitVec 3) (d a b : BitVec 7) :
      FloatResult (.fmaF32D2 p d a b) (onF32 (fusedOf fp32 2))
  | fmaF32D3 (p : BitVec 3) (d a b : BitVec 7) :
      FloatResult (.fmaF32D3 p d a b) (onF32 (fusedOf fp32 3))
  | faddF16 (p : BitVec 3) (d a b : BitVec 7) :
      FloatResult (.faddF16 p d a b) (onHalves (sumOf fp16))
  | fsubF16 (p : BitVec 3) (d a b : BitVec 7) :
      FloatResult (.fsubF16 p d a b) (onHalves (differenceOf fp16))
  | fmulF16 (p : BitVec 3) (d a b : BitVec 7) :
      FloatResult (.fmulF16 p d a b) (onHalves (productOf fp16))
  | fminF16 (p : BitVec 3) (d a b : BitVec 7) :
      FloatResult (.fminF16 p d a b) (onHalves (lesserOf fp16))
  | fmaxF16 (p : BitVec 3) (d a b : BitVec 7) :
      FloatResult (.fmaxF16 p d a b) (onHalves (greaterOf fp16))
  | fmaF16D0 (p : BitVec 3) (d a b : BitVec 7) :
      FloatResult (.fmaF16D0 p d a b) (onHalves (fusedOf fp16 0))
  | fmaF16D1 (p : BitVec 3) (d a b : BitVec 7) :
      FloatResult (.fmaF16D1 p d a b) (onHalves (fusedOf fp16 1))
  | fmaF16D2 (p : BitVec 3) (d a b : BitVec 7) :
      FloatResult (.fmaF16D2 p d a b) (onHalves (fusedOf fp16 2))
  | fmaF16D3 (p : BitVec 3) (d a b : BitVec 7) :
      FloatResult (.fmaF16D3 p d a b) (onHalves (fusedOf fp16 3))
  | faddBf16 (p : BitVec 3) (d a b : BitVec 7) :
      FloatResult (.faddBf16 p d a b) (onHalves (sumOf bf16))
  | fsubBf16 (p : BitVec 3) (d a b : BitVec 7) :
      FloatResult (.fsubBf16 p d a b) (onHalves (differenceOf bf16))
  | fmulBf16 (p : BitVec 3) (d a b : BitVec 7) :
      FloatResult (.fmulBf16 p d a b) (onHalves (productOf bf16))
  | fminBf16 (p : BitVec 3) (d a b : BitVec 7) :
      FloatResult (.fminBf16 p d a b) (onHalves (lesserOf bf16))
  | fmaxBf16 (p : BitVec 3) (d a b : BitVec 7) :
      FloatResult (.fmaxBf16 p d a b) (onHalves (greaterOf bf16))
  | fmaBf16D0 (p : BitVec 3) (d a b : BitVec 7) :
      FloatResult (.fmaBf16D0 p d a b) (onHalves (fusedOf bf16 0))
  | fmaBf16D1 (p : BitVec 3) (d a b : BitVec 7) :
      FloatResult (.fmaBf16D1 p d a b) (onHalves (fusedOf bf16 1))
  | fmaBf16D2 (p : BitVec 3) (d a b : BitVec 7) :
      FloatResult (.fmaBf16D2 p d a b) (onHalves (fusedOf bf16 2))
  | fmaBf16D3 (p : BitVec 3) (d a b : BitVec 7) :
      FloatResult (.fmaBf16D3 p d a b) (onHalves (fusedOf bf16 3))
  | fcmpF32 (p : BitVec 3) (d a b : BitVec 7) :
      FloatResult (.fcmpF32 p d a b) (compared fp32 d)
  | fcmpF16 (p : BitVec 3) (d a b : BitVec 7) :
      FloatResult (.fcmpF16 p d a b) (compared fp16 d)
  | fcmpBf16 (p : BitVec 3) (d a b : BitVec 7) :
      FloatResult (.fcmpBf16 p d a b) (compared bf16 d)
  | fclassF32 (p : BitVec 3) (d a : BitVec 7) :
      FloatResult (.fclassF32 p d a) (onF32 fun _ a _ _ => (fclassOf fp32 a, 0))
  | fclassF16 (p : BitVec 3) (d a : BitVec 7) :
      FloatResult (.fclassF16 p d a) (onHalves fun _ a _ _ => (fclassOf fp16 a, 0))
  | fclassBf16 (p : BitVec 3) (d a : BitVec 7) :
      FloatResult (.fclassBf16 p d a) (onHalves fun _ a _ _ => (fclassOf bf16 a, 0))
  | frcp (p : BitVec 3) (d a : BitVec 7) :
      FloatResult (.frcp p d a) (onF32 fun w a _ _ => frcpOf w a)
  | frsq (p : BitVec 3) (d a : BitVec 7) :
      FloatResult (.frsq p d a) (onF32 fun w a _ _ => frsqOf w a)
  | fsqrt (p : BitVec 3) (d a : BitVec 7) :
      FloatResult (.fsqrt p d a) (onF32 fun w a _ _ => fsqrtOf w a)
  | fdiv (p : BitVec 3) (d a b : BitVec 7) :
      FloatResult (.fdiv p d a b) (onF32 fun w a b _ => fdivOf w a b)
  | fex2 (p : BitVec 3) (d a : BitVec 7) :
      FloatResult (.fex2 p d a) (onF32 fun w a _ _ => fex2Of w a)
  | flg2 (p : BitVec 3) (d a : BitVec 7) :
      FloatResult (.flg2 p d a) (onF32 fun w a _ _ => flg2Of w a)
  | fsin (p : BitVec 3) (d a : BitVec 7) :
      FloatResult (.fsin p d a) (onF32 fun w a _ _ => fsinOf w a)
  | fcos (p : BitVec 3) (d a : BitVec 7) :
      FloatResult (.fcos p d a) (onF32 fun w a _ _ => fcosOf w a)
  | frintRn (p : BitVec 3) (d a : BitVec 7) :
      FloatResult (.frintRn p d a) (onF32 fun w a _ _ => frintOf .near w a)
  | frintRz (p : BitVec 3) (d a : BitVec 7) :
      FloatResult (.frintRz p d a) (onF32 fun w a _ _ => frintOf .zero w a)
  | frintRp (p : BitVec 3) (d a : BitVec 7) :
      FloatResult (.frintRp p d a) (onF32 fun w a _ _ => frintOf .up w a)
  | frintRm (p : BitVec 3) (d a : BitVec 7) :
      FloatResult (.frintRm p d a) (onF32 fun w a _ _ => frintOf .down w a)
  | dadd (p : BitVec 3) (d a b : BitVec 7) :
      FloatResult (.dadd p d a b) (onF64 (sumOf fp64))
  | dmul (p : BitVec 3) (d a b : BitVec 7) :
      FloatResult (.dmul p d a b) (onF64 (productOf fp64))
  | dfma (p : BitVec 3) (d a b : BitVec 7) :
      FloatResult (.dfma p d a b) (onF64 (fusedOf fp64 0))
  | movf (d : BitVec 7) (f : BitVec 20) :
      FloatResult (.movf d f) (fun _ => d32 (BitVec.ofNat 32 (f.toNat * 2 ^ 12)))

/-! ### Results of conversions and of cross-lane instructions (R143 to R160) -/

/-- A value of a format in the range lo to hi, as a pattern of n bits (R144). -/
def toInteger (f : Fmt) (rm : RMode) (lo hi : Int) (n : Nat) (w : Warp) (a : Nat) : FOut :=
  let r := toIntVal rm lo hi (unpack f (dazOf w) a)
  ((r.1 % 2 ^ n).toNat, r.2)
/-- A pattern of one format delivered into another (R118 to R121). -/
def toFormat (f g : Fmt) (rm : RMode) (w : Warp) (a : Nat) : FOut := deliver g rm (ftzOf w) (unpack f (dazOf w) a) false
/-- An integer delivered into a format (R146). -/
def fromInteger (g : Fmt) (rm : RMode) (w : Warp) (v : Int) : FOut := deliver g rm (ftzOf w) (.fin (decide (v < 0)) v.natAbs 0) false

/-- The result of `CVT` from its selector: SRC in [6:4], DST in [3:1], HI in [0] (R145, R146). -/
def cvtResult (rm : RMode) (b : BitVec 7) (x : Src) : Res :=
  let src := b.toNat / 16
  let dst := b.toNat / 2 % 8
  let hi := b.toNat % 2
  let a := if src = 1 ∨ src = 2 then (lo32 x.a).toNat / 65536 ^ hi % 65536 else (lo32 x.a).toNat
  let r : FOut :=
    match src, dst with
    | 0, 1 => toFormat fp32 fp16 rm x.w a
    | 0, 2 => toFormat fp32 bf16 rm x.w a
    | 1, 0 => toFormat fp16 fp32 rm x.w a
    | 1, 2 => toFormat fp16 bf16 rm x.w a
    | 2, 0 => toFormat bf16 fp32 rm x.w a
    | 2, 1 => toFormat bf16 fp16 rm x.w a
    | 0, 3 => toInteger fp32 rm (-(2 ^ 31)) (2 ^ 31 - 1) 32 x.w a
    | 1, 3 => toInteger fp16 rm (-(2 ^ 31)) (2 ^ 31 - 1) 32 x.w a
    | 2, 3 => toInteger bf16 rm (-(2 ^ 31)) (2 ^ 31 - 1) 32 x.w a
    | 0, 4 => toInteger fp32 rm 0 (2 ^ 32 - 1) 32 x.w a
    | 1, 4 => toInteger fp16 rm 0 (2 ^ 32 - 1) 32 x.w a
    | 2, 4 => toInteger bf16 rm 0 (2 ^ 32 - 1) 32 x.w a
    | 3, 0 => fromInteger fp32 rm x.w (lo32 x.a).toInt
    | 3, 1 => fromInteger fp16 rm x.w (lo32 x.a).toInt
    | 3, 2 => fromInteger bf16 rm x.w (lo32 x.a).toInt
    | 4, 0 => fromInteger fp32 rm x.w (lo32 x.a).toNat
    | 4, 1 => fromInteger fp16 rm x.w (lo32 x.a).toNat
    | _, _ => fromInteger bf16 rm x.w (lo32 x.a).toNat
  let d := (lo32 x.d).toNat
  let v := if dst = 1 ∨ dst = 2 then (if hi = 1 then d % 65536 + r.1 * 65536 else d / 65536 * 65536 + r.1) else r.1
  { d := BitVec.ofNat 128 v, fp := r.2 }

/-- The index of the larger of two candidates for `COMPRESS`: the larger magnitude, or the lower index (R152). -/
def outranks (a : Pair) (i j : Nat) : Bool :=
  let key (k : Nat) : Nat := a.toNat / 65536 ^ k % 32768
  decide (key j < key i) || (decide (key i = key j) && decide (i < j))
/-- The pairs (lo, hi) of indices, of which one holds the two highest-ranked elements. -/
def keptPair (a : Pair) : Nat × Nat :=
  ([(0, 1), (0, 2), (0, 3), (1, 2), (1, 3), (2, 3)].find? fun e =>
    (List.range 4).all fun k => k == e.1 || k == e.2 || (outranks a e.1 k && outranks a e.2 k)).getD (0, 1)

/-- The result that the spec gives a conversion with no check of its own. -/
inductive ConvertResult : Instr → (Src → Res) → Prop where
  | dcvtF64F32 (p : BitVec 3) (d a : BitVec 7) :
      ConvertResult (.dcvtF64F32 p d a) (onF32 fun w a _ _ => toFormat fp32 fp64 (rmOf w) w a)
  | dcvtF32F64 (p : BitVec 3) (d a : BitVec 7) :
      ConvertResult (.dcvtF32F64 p d a) (onF64 fun w a _ _ => toFormat fp64 fp32 (rmOf w) w a)
  | dcvtF64S64 (p : BitVec 3) (d a : BitVec 7) :
      ConvertResult (.dcvtF64S64 p d a) (fun x => onF64 (fun w _ _ _ => fromInteger fp64 (rmOf w) w (lo64 x.a).toInt) x)
  | dcvtS64F64 (p : BitVec 3) (d a : BitVec 7) :
      ConvertResult (.dcvtS64F64 p d a) (onF64 fun w a _ _ => toInteger fp64 (rmOf w) (-(2 ^ 63)) (2 ^ 63 - 1) 64 w a)
  | cvtRn (p : BitVec 3) (d a b : BitVec 7) (_ : b.toNat < 80 ∧ b.toNat / 2 % 8 < 5 ∧ b.toNat / 16 ≠ b.toNat / 2 % 8 ∧ (b.toNat / 16 < 3 ∨ b.toNat / 2 % 8 < 3)) :
      ConvertResult (.cvtRn p d a b) (cvtResult .near b)
  | cvtRz (p : BitVec 3) (d a b : BitVec 7) (_ : b.toNat < 80 ∧ b.toNat / 2 % 8 < 5 ∧ b.toNat / 16 ≠ b.toNat / 2 % 8 ∧ (b.toNat / 16 < 3 ∨ b.toNat / 2 % 8 < 3)) :
      ConvertResult (.cvtRz p d a b) (cvtResult .zero b)
  | cvtRp (p : BitVec 3) (d a b : BitVec 7) (_ : b.toNat < 80 ∧ b.toNat / 2 % 8 < 5 ∧ b.toNat / 16 ≠ b.toNat / 2 % 8 ∧ (b.toNat / 16 < 3 ∨ b.toNat / 2 % 8 < 3)) :
      ConvertResult (.cvtRp p d a b) (cvtResult .up b)
  | cvtRm (p : BitVec 3) (d a b : BitVec 7) (_ : b.toNat < 80 ∧ b.toNat / 2 % 8 < 5 ∧ b.toNat / 16 ≠ b.toNat / 2 % 8 ∧ (b.toNat / 16 < 3 ∨ b.toNat / 2 % 8 < 3)) :
      ConvertResult (.cvtRm p d a b) (cvtResult .down b)
  | bsext (p : BitVec 3) (d a b : BitVec 7) :
      ConvertResult (.bsext p d a b) (onF32 fun w a b _ => bsextOf w a b)
  | bsapp (p : BitVec 3) (d a b : BitVec 7) :
      ConvertResult (.bsapp p d a b) (fun x =>
      let c := (lo32 x.b).toNat % 256
      onF32 (fun w a _ _ =>
        if c = 255 then (0x7FC00000, 0)
        else deliver fp32 (rmOf w) (ftzOf w)
          (scale2 (unpack fp32 (dazOf w) a) (if (lo32 x.b).toNat / 256 % 2 = 1 then 127 - (c : Int) else (c : Int) - 127)) false) x)
  | compress (p : BitVec 3) (d a : BitVec 7) :
      ConvertResult (.compress p d a) (fun x =>
      let a := lo64 x.a
      let e := keptPair a
      d64 (BitVec.ofNat 64 (a.toNat / 65536 ^ e.2 % 65536 * 65536 + a.toNat / 65536 ^ e.1 % 65536 + (e.2 * 4 + e.1) * 2 ^ 32)))
  | expand (p : BitVec 3) (d a b : BitVec 7) :
      ConvertResult (.expand p d a b) (fun x =>
      let i := (lo32 x.b).toNat % 4
      let j := (lo32 x.b).toNat / 4 % 4
      d64 (BitVec.ofNat 64 (((lo32 x.a).toNat / 65536) * 65536 ^ j + (if i = j then 0 else (lo32 x.a).toNat % 65536 * 65536 ^ i))))

/-- The mask of the lanes of which something holds. -/
def lanesWhere (q : Nat → Bool) : Pair := BitVec.ofNat 64 (((List.range 64).map fun k => if q k then 2 ^ k else 0).sum)

/-- The combination of `REDUX` and `SCAN` on integers, and its identity, by OP (R159). -/
def combined (us : Bool) (op : Nat) (a b : Word) : Word :=
  match us, op with
  | false, 0 => a + b
  | false, 1 => if a.toInt ≤ b.toInt then a else b
  | false, 2 => if b.toInt ≤ a.toInt then a else b
  | false, 3 => a &&& b
  | false, 4 => a ||| b
  | false, _ => a ^^^ b
  | true, 1 => if a.toNat ≤ b.toNat then a else b
  | true, _ => if b.toNat ≤ a.toNat then a else b
def neutral (us : Bool) (op : Nat) : Word :=
  match us, op with
  | false, 1 => 0x7FFFFFFF
  | false, 2 => 0x80000000
  | false, 3 => 0xFFFFFFFF
  | true, 1 => 0xFFFFFFFF
  | _, _ => 0
def combinedOver (us : Bool) (op : Nat) (ps : List (Nat × Src)) : Word :=
  ps.foldl (fun v e => combined us op v (lo32 e.2.a)) (neutral us op)

/-- The result that the spec gives a cross-lane instruction, from the participants of the warp in lane order, for the participant in
a lane (R154 to R160). -/
inductive CrossResult : Instr → (List (Nat × Src) → Nat → Src → Res) → Prop where
  | elect (p : BitVec 3) (d : BitVec 7) :
      CrossResult (.elect p d) (fun ps l _ => toPred d ((ps.map (·.1)).head? == some l))
  | voteAny (p : BitVec 3) (d a : BitVec 7) :
      CrossResult (.voteAny p d a) (fun ps _ _ => toPred d (ps.any fun e => predNamed e.2.t a))
  | voteAll (p : BitVec 3) (d a : BitVec 7) :
      CrossResult (.voteAll p d a) (fun ps _ _ => toPred d (ps.all fun e => predNamed e.2.t a))
  | voteBallot (p : BitVec 3) (d a : BitVec 7) :
      CrossResult (.voteBallot p d a) (fun ps _ _ => d64 (lanesWhere fun k => ps.any fun e => e.1 == k && predNamed e.2.t a))
  | matchAny (p : BitVec 3) (d a : BitVec 7) :
      CrossResult (.matchAny p d a) (fun ps _ x => d64 (lanesWhere fun k => ps.any fun e => e.1 == k && lo32 e.2.a == lo32 x.a))
  | reduxI32 (p : BitVec 3) (d a b : BitVec 7) :
      CrossResult (.reduxI32 p d a b) (fun ps _ _ => d32 (combinedOver false (b.toNat % 8) ps))
  | reduxUs (p : BitVec 3) (d a b : BitVec 7) :
      CrossResult (.reduxUs p d a b) (fun ps _ _ => d32 (combinedOver true (b.toNat % 8) ps))
  | scanI32 (p : BitVec 3) (d a b : BitVec 7) :
      CrossResult (.scanI32 p d a b) (fun ps l _ =>
      d32 (combinedOver false (b.toNat % 8) (ps.filter fun e => if b.toNat / 8 % 2 = 1 then e.1 < l else e.1 ≤ l)))
  | scanUs (p : BitVec 3) (d a b : BitVec 7) :
      CrossResult (.scanUs p d a b) (fun ps l _ =>
      d32 (combinedOver true (b.toNat % 8) (ps.filter fun e => if b.toNat / 8 % 2 = 1 then e.1 < l else e.1 ≤ l)))
  | reduxF32 (p : BitVec 3) (d a b : BitVec 7) :
      CrossResult (.reduxF32 p d a b) (fun ps _ _ => let r := reduxF32 ps (b.toNat % 8); { d := BitVec.ofNat 128 r.1, fp := r.2 })
  | scanF32 (p : BitVec 3) (d a b : BitVec 7) :
      CrossResult (.scanF32 p d a b) (fun ps l _ =>
      let below (k : Nat) : Option Nat := ((ps.map (·.1)).filter (· < k)).getLast?
      let at? (k : Nat) : Option Nat := if b.toNat / 8 % 2 = 1 then below k else some k
      { d := BitVec.ofNat 128 (match at? l with
          | some k => (scanF32At ps (b.toNat % 8) k).1
          | none => if b.toNat % 8 = 0 then 0x80000000 else if b.toNat % 8 = 1 then 0x7F800000 else 0xFF800000)
        fp := (ps.filterMap fun e => at? e.1).foldl (fun fl k => fl ||| (scanF32At ps (b.toNat % 8) k).2) 0 })

/-- `QSWP`: the lane bits that differ, and the A field (R155). -/
inductive QuadSwap : Instr → (Nat × BitVec 7) → Prop where
  | qswpH (p : BitVec 3) (d a : BitVec 7) :
      QuadSwap (.qswpH p d a) (1, a)
  | qswpV (p : BitVec 3) (d a : BitVec 7) :
      QuadSwap (.qswpV p d a) (2, a)
  | qswpD (p : BitVec 3) (d a : BitVec 7) :
      QuadSwap (.qswpD p d a) (3, a)

/-! ### The forms in which statements about other instructions are made -/

/-- A group of unreplicated warps runs at an instruction, and the operand fields of every actor pass their checks. -/
structure Ready (s : State) (g : Group) (i : Instr) : Prop where
  cur : curGroup? s = some g
  plain : Unreplicated s g
  ops : OperandsPass s g i

/-- The actors of an instruction with their sources. -/
def acts (s : State) (g : Group) (i : Instr) : List (Member × Src) := (actors s g i).map fun m => (m, sources s g i m)
/-- A condition on every actor. -/
def EachActor (s : State) (g : Group) (i : Instr) (q : Member → Src → Prop) : Prop := ∀ m ∈ actors s g i, q m (sources s g i m)
/-- A condition on every actor that is no helper: only those are checked (R15). -/
def EachChecked (s : State) (g : Group) (i : Instr) (q : Member → Src → Prop) : Prop :=
  ∀ m ∈ actors s g i, (thrOf s m).helper = false → q m (sources s g i m)

/-- The pending returns of the represented warps, in the order of the warps. -/
def returnsOf (s : State) (g : Group) (ms : List Member) (mk : Nat → PLoad) : Tbl PLoad :=
  (warpsIn ms).zipIdx.map fun e =>
    (s.nextId + e.2, { mk e.1 with warp := e.1, flag := if (leadOf s ms e.1).isSome then groupFlag g else 15 })

/-- A long-latency operation is pending for every represented warp; the flag of each warp with an actor that is no helper has risen by
one (R53). No register has changed. -/
structure LongIssued (s : State) (g : Group) (ms : List Member) (mk : Nat → PLoad) (u : State) : Prop where
  loads : u.loads = s.loads ++ returnsOf s g ms mk
  flags : ∀ w f, (tblGet? s.warps w).isSome = true → f < 12 → bmGet (warpOf u w).fcount f =
    bmGet (warpOf s w).fcount f + if (leadOf s ms w).isSome = true ∧ groupFlag g = f then 1 else 0
  registers : SameRegisters s u

/-- Registers, predicates and `FPST` bits are as before. -/
structure SameValues (s u : State) : Prop where
  vregs : ∀ w l r, l < 64 → vreg u w l r = vreg s w l r
  uregs : ∀ w n, ureg u w n = ureg s w n
  flags : ∀ m, (thrOf u m).preds = (thrOf s m).preds ∧ (thrOf u m).fpst = (thrOf s m).fpst

/-- Every byte reads as before, unless an audit record of a denied read was appended. -/
def MemoryKept (s u : State) : Prop :=
  (∀ c, (ctxOf u c).auditSeq = (ctxOf s c).auditSeq) → BytesKept s u fun _ => True

/-! ### Plain accesses (R100 to R108) -/

/-- A sum of an address and a signed offset, modulo 2^64. -/
def sumAddr (a : Pair) (d : Int) : Nat := (((a.toNat : Int) + d) % 2 ^ 64).toNat
/-- The address of the forms with an immediate, and of the forms with a byte offset (R100). -/
def immAddr (i : BitVec 9) (x : Src) : Nat := sumAddr (lo64 x.a) (i.toInt * 4)
def offAddr (x : Src) : Nat := sumAddr (lo64 x.a) (lo32 x.b).toInt
/-- The offset of the scratchpad and constant forms. -/
def wordOff (x : Src) : Nat := ((lo32 x.a).toNat + (lo32 x.b).toNat) % 2 ^ 32

/-- The global loads and stores: address and size (R100). -/
inductive LoadForm : Instr → (Src → Nat) → Nat → Prop where
  | ldB32 (p : BitVec 3) (d a : BitVec 7) (i : BitVec 9) : LoadForm (.ldB32 p d a i) (immAddr i) 4
  | ldB64 (p : BitVec 3) (d a b : BitVec 7) : LoadForm (.ldB64 p d a b) offAddr 8
  | ldB128 (p : BitVec 3) (d a b : BitVec 7) : LoadForm (.ldB128 p d a b) offAddr 16
  | ldB8 (p : BitVec 3) (d a b : BitVec 7) : LoadForm (.ldB8 p d a b) offAddr 1
  | ldB16 (p : BitVec 3) (d a b : BitVec 7) : LoadForm (.ldB16 p d a b) offAddr 2
inductive StoreForm : Instr → (Src → Nat) → Nat → Prop where
  | stB32 (p : BitVec 3) (d a : BitVec 7) (i : BitVec 9) : StoreForm (.stB32 p d a i) (immAddr i) 4
  | stB64 (p : BitVec 3) (d a b : BitVec 7) : StoreForm (.stB64 p d a b) offAddr 8
  | stB128 (p : BitVec 3) (d a b : BitVec 7) : StoreForm (.stB128 p d a b) offAddr 16
  | stB8 (p : BitVec 3) (d a b : BitVec 7) : StoreForm (.stB8 p d a b) offAddr 1
  | stB16 (p : BitVec 3) (d a b : BitVec 7) : StoreForm (.stB16 p d a b) offAddr 2

/-- The stores of some members in lane order, each with its translation noted; they share an identifier. -/
def storeAll (addr : Src → Nat) (n ins : Nat) (s : State) (l : List (Member × Src)) : State :=
  l.foldl (fun s e => storeHalves (accessTrace s e.1 (addr e.2) .store 0) e.1 (addr e.2) (bytesOf e.2.d n) ins) s
/-- A physical byte that one of these stores writes, each member's address translated as it is when its store is made. -/
def StoredAt (addr : Src → Nat) (n ins : Nat) : State → List (Member × Src) → Nat → Prop
  | _, [], _ => False
  | s, e :: t, a =>
    let s1 := accessTrace s e.1 (addr e.2) .store 0
    (∃ k < n, a = physOf (pageFor s1 e.1 (addr e.2 + k / 8 * 8)) (addr e.2 + k / 8 * 8) + k % 8) ∨
      StoredAt addr n ins (storeHalves s1 e.1 (addr e.2) (bytesOf e.2.d n) ins) t a
/-- None of these stores goes to a shared line of a deterministic grid. -/
def PlainStores (addr : Src → Nat) (n ins : Nat) : State → List (Member × Src) → Prop
  | _, [] => True
  | s, e :: t =>
    let s1 := accessTrace s e.1 (addr e.2) .store 0
    (∀ h < 2, 8 * h < n → detShared s1 e.1.warp (addr e.2 + 8 * h) = false) ∧
      PlainStores addr n ins (storeHalves s1 e.1 (addr e.2) (bytesOf e.2.d n) ins) t

/-- The scratchpad and constant accesses: size in bytes. -/
inductive ScratchLoad : Instr → Nat → Prop where
  | ldsB32 (p : BitVec 3) (d a b : BitVec 7) : ScratchLoad (.ldsB32 p d a b) 4
  | ldsB64 (p : BitVec 3) (d a b : BitVec 7) : ScratchLoad (.ldsB64 p d a b) 8
inductive ScratchStore : Instr → Nat → Prop where
  | stsB32 (p : BitVec 3) (d a b : BitVec 7) : ScratchStore (.stsB32 p d a b) 4
  | stsB64 (p : BitVec 3) (d a b : BitVec 7) : ScratchStore (.stsB64 p d a b) 8
inductive ConstLoad : Instr → Nat → Prop where
  | ldcB32 (p : BitVec 3) (d a b : BitVec 7) : ConstLoad (.ldcB32 p d a b) 4
  | ldcB64 (p : BitVec 3) (d a b : BitVec 7) : ConstLoad (.ldcB64 p d a b) 8

/-- Byte o of its scratchpad as a warp sees it after the stores of some members in lane order: that of its own last one which covers it, or
what it saw before (R103, R104). -/
def scratchAfter (s : State) (w o n : Nat) (l : List (Member × Src)) : Byte :=
  l.foldl (fun v e => if (thrOf s e.1).helper = false ∧ e.1.warp = w ∧ wordOff e.2 ≤ o ∧ o < wordOff e.2 + n then
    e.2.d.extractLsb' (8 * (o - wordOff e.2)) 8 else v) ((readScr s w o 1).getD 0 0)
/-- The scratchpad bytes of a warp lie at places of their own (R25). -/
def ScratchPlaced (s : State) (w : Nat) : Prop :=
  ∀ o p, o < (khdrOfWarp s w).scratch → p < (khdrOfWarp s w).scratch → scrAddr s w o = scrAddr s w p → o = p

/-- The record that a record-addressed access names (R114). -/
inductive RecordLoad : Instr → (Warp → Nat) → Prop where
  | ldrB32 (p : BitVec 3) (d a : BitVec 7) (k : BitVec 8) : RecordLoad (.ldrB32 p d a k) fun _ => k.toNat
  | ldrB32Uniform (p : BitVec 3) (d a : BitVec 7) (n : BitVec 4) : RecordLoad (.ldrB32Uniform p d a n) fun w => (bmGet w.sr n.toNat).toNat
inductive RecordStore : Instr → (Warp → Nat) → Prop where
  | strB32 (p : BitVec 3) (d a : BitVec 7) (k : BitVec 8) : RecordStore (.strB32 p d a k) fun _ => k.toNat
  | strB32Uniform (p : BitVec 3) (d a : BitVec 7) (n : BitVec 4) :
      RecordStore (.strB32Uniform p d a n) fun w => (bmGet w.sr n.toNat).toNat

/-! ### Results with a check of their own (R88, R93, R149) -/

/-- The byte offset of element (x, y) of a record, with x and y clamped or wrapped as its BOUND says (R93). -/
def elementOffset (r : TRec) (x y : Int) : Int :=
  let live := 0 < trExt0 r ∧ 0 < trExt1 r
  let x' := if trBound r = 2 ∧ live then min (max x 0) (trExt0 r - 1) else if trBound r = 3 ∧ live then x % trExt0 r else x
  let y' := if trBound r = 2 ∧ live then min (max y 0) (trExt1 r - 1) else if trBound r = 3 ∧ live then y % trExt1 r else y
  y' * trStride r + x' * trEbits r / 8

/-- A narrow format is set, and an element position lies in the word (R147, R149). -/
def narrowOk (w : Warp) (k pos : Nat) : Prop := nfmtOf w k ≠ 0 ∧ (ndWidth (nfmtOf w k) = 4 ∨ pos < 4)

/-- The condition under which an instruction executes, and its result. -/
inductive CheckedResult : Instr → (State → Member → Src → Prop) → (State → Member → Src → Res) → Prop where
  | smovFromUniform (p : BitVec 3) (d a : BitVec 7) :
      CheckedResult (.smovFromUniform p d a) (fun s m _ => a.toNat < (warpOf s m.warp).ns) (fun s m _ => d32 (ureg s m.warp a.toNat))
  | idx2 (p : BitVec 3) (d a b : BitVec 7) :
      CheckedResult (.idx2 p d a b) (fun s m _ => (recOf? s m.warp (recSel (warpOf s m.warp) b)).isSome = true)
        (fun s m x => d64 (BitVec.ofInt 64 (elementOffset ((recOf? s m.warp (recSel (warpOf s m.warp) b)).getD 0)
          (x.a.extractLsb' 0 32).toInt (x.a.extractLsb' 32 32).toInt)))
  | cvtw (p : BitVec 3) (d a b : BitVec 7) (k : BitVec 2) :
      CheckedResult (.cvtw p d a b k) (fun s m x => narrowOk (warpOf s m.warp) k.toNat ((lo32 x.b).toNat % 8))
        (fun s m x =>
          let w := warpOf s m.warp
          let nd := nfmtOf w k.toNat
          let n := if ndWidth nd = 4 then 4 else 8
          let e := (lo32 x.a).toNat / 2 ^ (n * ((lo32 x.b).toNat % 8)) % 2 ^ ndWidth nd
          let v := toFormat (ndFmt nd) fp32 (rmOf w) w e
          { d := BitVec.ofNat 128 v.1, fp := v.2 })

/-- D of `CVTN`: the field at a position of D replaced by the value converted to the descriptor's format (R147). -/
def narrowed (w : Warp) (k pos : Nat) (rm : RMode) (x : Src) : Res :=
  let nd := nfmtOf w k
  let v := toFormat fp32 (ndFmt nd) rm w (lo32 x.a).toNat
  { d := (putField (lo32 x.d) pos (if ndWidth nd = 4 then 4 else 8) v.1).setWidth 128, fp := v.2 }
/-- Generator word c of bank b of a holder. -/
def genWord (s : State) (k b c : Nat) : Word := bmGet (tblGet (wgOf s k).banks b).gens c

/-! ### Record-addressed accesses (R114) -/

/-- The elements of a 32-bit unit of a record at (x, y): for each that is accessed, its number in the unit, its address and its
x coordinate, in ascending order. An element outside the extent is dropped by BOUND 1, clamped by 2 and wrapped by 3. -/
def unitElems (r : TRec) (x : Src) : List (Nat × Nat × Int) :=
  (List.range (32 / trEbits r)).filterMap fun (i : Nat) =>
    (boundElem r ((x.a.extractLsb' 0 32).toInt + (i : Int)) (x.a.extractLsb' 32 32).toInt).map fun e => (i, elemAddr r e.1 e.2, e.1)
/-- What `LDR` delivers to a member from the record of a number: each element in its place, zero elsewhere; a helper's load that would
fail delivers zeros. -/
def unitLoaded (s : State) (m : Member) (n : Nat) (x : Src) : Val :=
  let r := (recOf? s m.warp n).getD 0
  if unitFail s m x n .load = none then
    BitVec.ofNat 128 (((unitElems r x).map fun e =>
      let v := leNat (readGlobal s m e.2.1 (elemBytes r))
      (if trEbits r = 4 then v / 16 ^ (e.2.2 % 2).toNat % 16 else v) * 2 ^ (trEbits r * e.1)).sum % 2 ^ 32)
  else 0
/-- What `STR` does for a member: each element is stored at its address; a 4-bit element replaces its half of the byte, as the stores of its
instruction that come first leave it. -/
def unitStored (s : State) (m : Member) (r : TRec) (x : Src) (ins : Nat) : State :=
  (unitElems r x).foldl (fun s e =>
    let s1 := accessTrace s m e.2.1 .store 0
    let v := (lo32 x.d).toNat / 2 ^ (trEbits r * e.1) % 2 ^ trEbits r
    if trEbits r = 4 then
      let old := leNat (elemOld s1 m e.2.1 ins)
      storeGlobal s1 m e.2.1 [BitVec.ofNat 8 (if e.2.2 % 2 = 0 then old / 16 * 16 + v else old % 16 + v * 16)] ins
    else storeGlobal s1 m e.2.1 (leBytes (elemBytes r) v) ins) s

/-! ### Atomics (R225 to R231) -/

/-- The returning atomics and the reductions: 1 for a floating-point operation, the operation, and the size in bytes. The operation of
a compare-and-swap is 11. -/
inductive Returning : Instr → AtomForm → BitVec 7 → Prop where
  | atomB32 (p : BitVec 3) (d a b : BitVec 7) : Returning (.atomB32 p d a b) ⟨0, b.toNat % 16, 4, true, 0⟩ d
  | atomB64 (p : BitVec 3) (d a b : BitVec 7) : Returning (.atomB64 p d a b) ⟨0, b.toNat % 16, 8, true, 1⟩ d
  | casB32 (p : BitVec 3) (d a : BitVec 7) (sc : BitVec 3) : Returning (.casB32 p d a sc) ⟨0, 11, 4, true, 0⟩ d
  | casB64 (p : BitVec 3) (d a : BitVec 7) (sc : BitVec 3) : Returning (.casB64 p d a sc) ⟨0, 11, 8, true, 1⟩ d
  | fatomWord (p : BitVec 3) (d a b : BitVec 7) (_ : b.toNat % 16 ∈ [0, 1, 3, 4]) :
      Returning (.fatom p d a b) ⟨1, b.toNat % 16, 4, true, 0⟩ d
  | fatomPair (p : BitVec 3) (d a b : BitVec 7) (_ : b.toNat % 16 ∈ [2, 5, 6]) :
      Returning (.fatom p d a b) ⟨1, b.toNat % 16, 8, true, 0⟩ d
inductive Reduction : Instr → AtomForm → Prop where
  | redB32 (p : BitVec 3) (d a b : BitVec 7) : Reduction (.redB32 p d a b) ⟨0, b.toNat % 16, 4, false, 2⟩
  | redB64 (p : BitVec 3) (d a b : BitVec 7) : Reduction (.redB64 p d a b) ⟨0, b.toNat % 16, 8, false, 3⟩
  | fatomNrWord (p : BitVec 3) (d a b : BitVec 7) (_ : b.toNat % 16 ∈ [0, 1, 3, 4]) :
      Reduction (.fatomNr p d a b) ⟨1, b.toNat % 16, 4, false, 1⟩
  | fatomNrPair (p : BitVec 3) (d a b : BitVec 7) (_ : b.toNat % 16 ∈ [2, 5, 6]) :
      Reduction (.fatomNr p d a b) ⟨1, b.toNat % 16, 8, false, 1⟩

/-- The address of an atomic, and its operand: the low word or pair of D. A compare-and-swap compares with that and brings the next one
(R225). -/
def atomVa (x : Src) : Nat := (lo64 x.a).toNat
def atomA (fm : AtomForm) (x : Src) : Pair := if fm.n = 4 then (x.d.extractLsb' 0 32).setWidth 64 else x.d.extractLsb' 0 64
def atomB (fm : AtomForm) (x : Src) : Pair :=
  if fm.kind = 0 ∧ fm.opc = 11 then (if fm.n = 4 then (x.d.extractLsb' 32 32).setWidth 64 else x.d.extractLsb' 64 64) else 0

/-- The atomic of a member on its way: the physical word, the operation and its operands, and the identifier that the operations of its
instruction share. -/
structure AtomLeft (fm : AtomForm) (ins : Nat) (s : State) (m : Member) (x : Src) (a : Atom) : Prop where
  place : a.warp = m.warp ∧ a.lane = m.lane ∧ a.pcore = coreOfWarp s m.warp ∧ a.part = partOfWarp s m.warp ∧ a.ins = ins
  word : a.va = atomVa x ∧ a.addr = physOf (pageFor s m (atomVa x)) (atomVa x) ∧ a.key = (pageFor s m (atomVa x)).key ∧ a.size = fm.n
  op : a.kind = fm.kind ∧ a.opc = fm.opc ∧ a.a = atomA fm x ∧ a.b = atomB fm x

/-- The value that an integer atomic writes (R226); none writes nothing. -/
def intAtom {n : Nat} (op : Nat) (old v b : BitVec n) : Option (BitVec n) :=
  match op with
  | 0 => some (old + v)
  | 1 => some (if v.slt old then v else old)
  | 2 => some (if v.ult old then v else old)
  | 3 => some (if old.slt v then v else old)
  | 4 => some (if old.ult v then v else old)
  | 5 => some (old &&& v)
  | 6 => some (old ||| v)
  | 7 => some (old ^^^ v)
  | 8 => some v
  | 9 => some (if v.ule old then 0 else old + 1)
  | 10 => some (if old = 0 ∨ v.ult old then v else old - 1)
  | _ => if old = v then some b else none
/-- The value that a floating-point atomic writes: one rounding to nearest even, no flush (R230). -/
def floatAtom (op old v : Nat) : Nat :=
  let sum (f : Fmt) (x y : Nat) : Nat := (finish f .near false (with2 (exactAdd false) (unpack f false x) (unpack f false y))).1
  let less (f : Fmt) (x y : Nat) : Nat :=
    (finish f .near false (with2 (fun u v => { v := if fvLess v u then v else u }) (unpack f false x) (unpack f false y))).1
  let more (f : Fmt) (x y : Nat) : Nat :=
    (finish f .near false (with2 (fun u v => { v := if fvLess u v then v else u }) (unpack f false x) (unpack f false y))).1
  match op with
  | 0 => sum fp32 old v
  | 1 => sum bf16 (old / 65536) (v / 65536) * 65536 + sum bf16 (old % 65536) (v % 65536)
  | 2 => sum fp64 old v
  | 3 => less fp32 old v
  | 4 => more fp32 old v
  | 5 => less fp64 old v
  | _ => more fp64 old v
/-- What an atomic of size bytes writes over an old value. -/
def atomWrites (a : Atom) (old : Nat) : Option Nat :=
  if a.kind = 1 then some (floatAtom a.opc old a.a.toNat)
  else if a.size = 4 then (intAtom a.opc (BitVec.ofNat 32 old) (BitVec.ofNat 32 a.a.toNat) (BitVec.ofNat 32 a.b.toNat)).map (·.toNat)
  else (intAtom a.opc (BitVec.ofNat 64 old) a.a a.b).map (·.toNat)

/-- Why the replay of a posted operation fails again (R281): its translation, its tag, or the memory that its address is in. -/
inductive ReplayFails (s : State) (a : Atom) : Cause → Prop where
  | page (c : Cause) (_ : translate s a.part a.va .store = .error c) : ReplayFails s a c
  | tag (e : TlbEntry) (_ : translate s a.part a.va .store = .ok e) (_ : tagAllows s a.part a.ident.toNat e.tag = false) :
      ReplayFails s a .tagDenied
  | memory (e : TlbEntry) (_ : translate s a.part a.va .store = .ok e) (_ : tagAllows s a.part a.ident.toNat e.tag = true)
      (_ : isOnChip (gpLocal (physOf e a.va)) = true ∨ hostRefuses s a.kind a.opc (physOf e a.va) = true) : ReplayFails s a .access

/-- Memory holds the n low bytes of a number from an address on, and elsewhere what it held. -/
def WordPut (s u : State) (a n v : Nat) : Prop :=
  (∀ k < n, bmGet u.mem (a + k) = BitVec.ofNat 8 (v / 256 ^ k)) ∧ ∀ b, b < a ∨ a + n ≤ b → bmGet u.mem b = bmGet s.mem b

/-! ### Acquire, release and fences (R220 to R224) -/

inductive AcquireLoad : Instr → BitVec 3 → Nat → Prop where
  | ldAcqB32 (p : BitVec 3) (d a : BitVec 7) (sc : BitVec 3) : AcquireLoad (.ldAcqB32 p d a sc) sc 4
  | ldAcqB64 (p : BitVec 3) (d a : BitVec 7) (sc : BitVec 3) : AcquireLoad (.ldAcqB64 p d a sc) sc 8
inductive ReleaseStore : Instr → BitVec 3 → Nat → Prop where
  | stRelB32 (p : BitVec 3) (d a : BitVec 7) (sc : BitVec 3) : ReleaseStore (.stRelB32 p d a sc) sc 4
  | stRelB64 (p : BitVec 3) (d a : BitVec 7) (sc : BitVec 3) : ReleaseStore (.stRelB64 p d a sc) sc 8
/-- The fences: scope, and whether they have acquire and release strength. -/
inductive FenceForm : Instr → BitVec 3 → Bool → Bool → Prop where
  | fenceAcq (p sc : BitVec 3) : FenceForm (.fenceAcq p sc) sc true false
  | fenceRel (p sc : BitVec 3) : FenceForm (.fenceRel p sc) sc false true
  | fenceAcqrel (p sc : BitVec 3) : FenceForm (.fenceAcqrel p sc) sc true true
  | fenceSc (p sc : BitVec 3) : FenceForm (.fenceSc p sc) sc true true

/-- What a release of a thread at a scope orders is complete: its core's writes have reached the scope's level, its tile stores, its
record reads, its atomics, posted ones among them, and its compare-and-swaps are performed (R199, R205, R281). -/
def Released (s : State) (m : Member) (scope : Nat) : Prop :=
  (∀ e ∈ s.writes, visibleTo e.2 (coreOfWarp s m.warp) m.warp = true → levelOf scope ≤ e.2.level) ∧
    (∀ e ∈ s.mats, e.2.warp = m.warp → e.2.kind ≠ 2 ∧ readsRec e.2 = false) ∧
    (∀ e ∈ s.atoms, ¬ (e.2.warp = m.warp ∧ e.2.lane = m.lane)) ∧ ∀ e ∈ s.mcas, ¬ (e.2.warp = m.warp ∧ e.2.lane = m.lane)

/-- The copies below the point of a scope are dropped for a core: its own from hall on, and its die's from pkg on (R198, R200). -/
def CopiesDropped (u : State) (core scope : Nat) : Prop :=
  (2 ≤ scope → (pcoreAt u core).copies = []) ∧ (4 ≤ scope → dieCopies u (pcDie core) = [])

/-! ### Control transfer (R94 to R99) -/

/-- The transfers, with the target that each takes from the sources of its group (R95): a word offset from the clause header, or an
address; the branches on a vote take it where any, or every, member of the warp's voting set votes for it. -/
inductive Transfer : Instr → (Group → List (Member × Src) → Member → Src → Option Pair) → Prop where
  | bra (p : BitVec 3) (o : BitVec 23) : Transfer (.bra p o) fun g _ _ _ => some (BitVec.ofInt 64 (g.pc.toNat + o.toInt * 4))
  | brcAny (p : BitVec 3) (d a : BitVec 7) : Transfer (.brcAny p d a) fun g l m x =>
      if l.any fun e => e.1.warp == m.warp && (predOf e.2.t (d.toNat % 8) != decide (d.toNat / 8 % 2 = 1))
      then some (BitVec.ofInt 64 (g.pc.toNat + (lo32 x.a).toInt * 4)) else none
  | brcAll (p : BitVec 3) (d a : BitVec 7) : Transfer (.brcAll p d a) fun g l m x =>
      if l.all fun e => e.1.warp != m.warp || (predOf e.2.t (d.toNat % 8) != decide (d.toNat / 8 % 2 = 1))
      then some (BitVec.ofInt 64 (g.pc.toNat + (lo32 x.a).toInt * 4)) else none
  | call (p : BitVec 3) (d a : BitVec 7) : Transfer (.call p d a) fun g _ _ x => some (BitVec.ofInt 64 (g.pc.toNat + (lo32 x.a).toInt * 4))
  | ret (p : BitVec 3) (a : BitVec 7) : Transfer (.ret p a) fun _ _ _ x => some (lo64 x.a)
  | jmpi (p : BitVec 3) (a : BitVec 7) : Transfer (.jmpi p a) fun _ _ _ x => some (lo64 x.a)

/-- The targets taken, by lane. -/
def takenBy (target : Member → Src → Option Pair) (l : List (Member × Src)) (t : Tbl Pair) : Tbl Pair :=
  l.foldl (fun t e => match target e.1 e.2 with | some v => tblSet t e.1.lane v | none => t) t

/-- The members' destination words hold a value of each member, a uniform destination that of the lowest member which is no helper;
every other register word, and every thread but for
what it waited for, is as before (R34, R37, R57). -/
structure Received (s : State) (i : Instr) (ms : List Member) (v : Member → Val) (u : State) : Prop where
  window : ∀ m ∈ ms, present s m.warp m.lane = true → dstField i < 96 → ∀ k < dstWords i,
    vreg u m.warp m.lane ((thrOf s m).base + dstField i + k) = (v m).extractLsb' (32 * k) 32
  uniform : ∀ w m, leadOf s ms w = some m → present s w m.lane = true → 96 ≤ dstField i → dstField i < 112 →
    ∀ k < dstWords i, ureg u w (dstField i - 96 + k) = (v m).extractLsb' (32 * k) 32
  otherVreg : ∀ w l r, l < 64 → ¬ InWindowDst s i ms w l r → vreg u w l r = vreg s w l r
  otherUreg : ∀ w n, ¬ InUniformDst s i ms w n → ureg u w n = ureg s w n
  threads : ∀ m, { thrOf u m with wait := .none } = { thrOf s m with wait := .none }

/-! ### Returns -/

/-- The value of a register after the writes of a pending return: the last one to it, or what it held. -/
def landedIn (ws : List RegWrite) (old : Word) (hits : RegWrite → Bool) : Word :=
  ws.foldl (fun v x => if hits x then x.val else v) old

/-! ### Barriers and full/empty words (R285 to R293) -/

/-- A barrier after the arrival of thread t with count n, before its completion is tested: the first arrival of a phase sets EXPECT. -/
def arrived (b : Barrier) (t n : Nat) (helper : Bool) : Barrier :=
  let e := if b.count = 0 ∧ b.arrived = [] then n else b.expect
  { b with expect := e, count := if 0 < e ∧ helper = false then b.count + 1 else b.count, arrived := insNat t b.arrived,
           pend := b.pend.filter (fun x => x.1 != t) ++ [(t, b.phase)] }
/-- A phase is complete: EXPECT arrivals have come, or every live thread's where EXPECT is 0 (R287). -/
def Complete (s : State) (k : Nat) (b : Barrier) : Prop :=
  if 0 < b.expect then b.expect ≤ b.count else b.arrived ≠ [] ∧ ∀ t ∈ liveThreads s k, t ∈ b.arrived

/-- The full/empty loads: whether they wait for a full word, and what they leave it as (R292). -/
inductive FullLoad : Instr → Bool → Option Bool → Prop where
  | ldfK (p : BitVec 3) (d a : BitVec 7) : FullLoad (.ldfK p d a) true none
  | ldfE (p : BitVec 3) (d a : BitVec 7) : FullLoad (.ldfE p d a) true (some false)
  | lde (p : BitVec 3) (d a : BitVec 7) : FullLoad (.lde p d a) false (some false)
inductive FullStore : Instr → Bool → Prop where
  | ste (p : BitVec 3) (d a : BitVec 7) : FullStore (.ste p d a) true
  | stf (p : BitVec 3) (d a : BitVec 7) : FullStore (.stf p d a) false

/-! ### Instructions that each warp performs once (R161) -/

/-- A condition on the lowest actor of each represented warp that is no helper. -/
def EachLead (s : State) (g : Group) (i : Instr) (q : Member → Src → Prop) : Prop :=
  ∀ w m, leadOf s (actors s g i) w = some m → q m (sources s g i m)
/-- The state after an effect for each represented warp in order, made with the operands of its lowest actor that is no helper; the
effect also receives the warp's actors. -/
def perWarp (s : State) (g : Group) (i : Instr) (e : State → List Member → Member → Src → State) : State :=
  (warpsIn (actors s g i)).foldl (fun v w =>
    match leadOf s (actors s g i) w with
    | some m => e v ((actors s g i).filter fun n => n.warp == w) m (sources s g i m)
    | none => v) (noted s g i)
/-- The actors of warps that have such an actor, and the operands of that one. -/
def ledActors (s : State) (g : Group) (i : Instr) : List Member :=
  (actors s g i).filter fun m => (leadOf s (actors s g i) m.warp).isSome
def ledSource (s : State) (g : Group) (i : Instr) (m : Member) : Src :=
  match leadOf s (actors s g i) m.warp with
  | some l => sources s g i l
  | none => {}

/-! ### Matrices and accumulators (R163 to R183) -/

/-- The shape that a request is granted (R165): M 16; N the request rounded up to a multiple of 16, at most 128; K the least value of the
type that is enough, or its largest. -/
def grantedShape (a : Word) : Word :=
  let ty := a.toNat / 2 ^ 24 % 4
  let k := a.toNat / 2 ^ 16 % 256
  let n := a.toNat / 2 ^ 8 % 256
  let ks := if ty = 2 then [32, 64] else if ty = 3 then [32, 64, 128] else [16, 32]
  let gk := (ks.find? fun x => decide (k ≤ x)).getD (ks.getLastD 0)
  let gn := (([16, 32, 48, 64, 80, 96, 112, 128].find? fun x => decide (n ≤ x)).getD 128)
  BitVec.ofNat 32 (2 ^ 31 + ty * 2 ^ 24 + gk * 2 ^ 16 + gn * 2 ^ 8 + 16)

/-- The matrix multiplications: the element type, 4 more for a sparse A (R168). -/
inductive MatrixForm : Instr → Nat → BitVec 7 → Prop where
  | mmaBf16 (p : BitVec 3) (d a b : BitVec 7) : MatrixForm (.mmaBf16 p d a b) 0 d
  | mmaF16 (p : BitVec 3) (d a b : BitVec 7) : MatrixForm (.mmaF16 p d a b) 1 d
  | mmaNf (p : BitVec 3) (d a b : BitVec 7) : MatrixForm (.mmaNf p d a b) 2 d
  | mmaspBf16 (p : BitVec 3) (d a b : BitVec 7) : MatrixForm (.mmaspBf16 p d a b) 4 d
  | mmaspF16 (p : BitVec 3) (d a b : BitVec 7) : MatrixForm (.mmaspF16 p d a b) 5 d
  | mmaspNf (p : BitVec 3) (d a b : BitVec 7) : MatrixForm (.mmaspNf p d a b) 6 d
/-- The record that D of a multiplication names: none for 127, a uniform register's with bit 6, its own number otherwise (R168). -/
def namedRecord (w : Warp) (d : BitVec 7) : Option Nat :=
  if d.toNat = 127 then none else some (if d.toNat / 64 = 1 then (bmGet w.sr (d.toNat % 16)).toNat else d.toNat)

/-- The FP32 accumulator after a k-group of products: one rounding of the exact sum to nearest even (R171, R172). -/
def kgroupSum (ops : List (FVal × FVal)) (old : Word) : Word :=
  BitVec.ofNat 32 (finish fp32 .near false (kSum ops (unpack fp32 false old.toNat))).1

/-- Bank and element of an index (R179). -/
def elemBank (x : Src) : Nat := (lo32 x.a).toNat % 65536 / 2048
def elemWord (x : Src) : Nat := (lo32 x.a).toNat % 2048
/-- The holder through which a warp reaches a bank. -/
def reached (s : State) (w b : Nat) : Option Nat := reach? s (warpOf s w).wg b
/-- The low bits of A as a bank number. -/
def namedBank (x : Src) : Nat := (lo32 x.a).toNat % 32

/-! ### Instructions that execute once per issue group (R18) -/

/-- A group runs at an instruction; its deciding member, in an unreplicated warp, passes the operand checks and has no acquire
pending. -/
structure ReadyOnce (s : State) (g : Group) (i : Instr) (m : Member) : Prop where
  cur : curGroup? s = some g
  lead : decider s (actors s g i) = some m
  plain : isRedun s m.warp = false
  ops : operandFail s (shapeOf i) m = none
  free : acqHeld s m = false
  dest : destFails s (shapeOf i) (actors s g i) m = []

/-- The engine commands with a block, and their numbers (R240). -/
inductive Command : Instr → Nat → Prop where
  | cpy (p : BitVec 3) (d a : BitVec 7) : Command (.cpy p d a) 0
  | gath (p : BitVec 3) (d a : BitVec 7) : Command (.gath p d a) 1
  | scat (p : BitVec 3) (d a : BitVec 7) : Command (.scat p d a) 2
  | coll (p : BitVec 3) (d a : BitVec 7) : Command (.coll p d a) 3
  | tbind (p : BitVec 3) (d a : BitVec 7) : Command (.tbind p d a) 4
/-- The launches: whether they are pod-wide (R299). -/
inductive LaunchForm : Instr → Bool → Prop where
  | launch (p : BitVec 3) (d a : BitVec 7) : LaunchForm (.launch p d a) false
  | launchp (p : BitVec 3) (d a : BitVec 7) : LaunchForm (.launchp p d a) true

/-- A counter's mark has risen by one: the command that raised it has that number; its value, and every other counter, stay (R237). -/
def Numbered (s u : State) (ctx k : Nat) : Prop :=
  (timelineOf u ctx k).mark = (timelineOf s ctx k).mark + 1 ∧
    ∀ c j, ¬ (c = ctx ∧ j = k) → timelineOf u c j = timelineOf s c j

/-- The undealt ranges of a grid: one entry for a landing, each range from its low unit to its high one. -/
def RangesProper (g : Grid) : Prop := keysRise g.ranges = true ∧ ∀ e ∈ g.ranges, ∀ r ∈ e.2, r.1 ≤ r.2

/-- An engine's unit meets no failing access, no package that no port reaches, and room in its log. -/
def UnitPasses (s : State) (o : EngOp) (reads writes : List Nat) : Prop :=
  firstBad s o .load reads = none ∧ firstBad s o .store writes = none ∧
    (o.cmd = 3 ∨ apMis? reads = none ∧ apMis? writes = none) ∧ opLogFull s o writes = false ∧
    ∀ va ∈ reads ++ writes, opFar s o va = false
/-- The state after the translations of a unit's accesses are noted. -/
def unitNoted (s : State) (o : EngOp) (l : List Nat) : State := l.foldl (fun s va => engTrace s o va) s
/-- The state after pages of its two streams were translated ahead of the engine (R319). -/
def walkedAhead (o : EngOp) (ahead : List Nat × List Nat) (s : State) : State :=
  fillAhead (fillAhead s o.part 0 ahead.1) o.part 1 ahead.2

/-- Byte k of the stream of a `CPY`: row and column, its source cell and its destination cell (R244, R245). -/
def streamSrc (o : EngOp) (k : Nat) : Cell := srcCell o (k / bNat o.block 0x28 4) (k % bNat o.block 0x28 4)
def streamDst (o : EngOp) (k : Nat) : Cell := dstCell o (k / bNat o.block 0x28 4) (k % bNat o.block 0x28 4)
/-- The bytes of the stream in the next sector. -/
def sectorBytes (o : EngOp) : List Nat :=
  ((List.range 32).map fun j => 32 * o.progress + j).filter fun k => decide (k < bNat o.block 0x2C 4 * bNat o.block 0x28 4)

/-! ### Control and status registers (R43 to R46) -/

/-- The value of a control and status register (R44): a member's own registers, and those of context scope of a part. -/
def registerValue (s : State) (m : Member) (part : Nat) : Nat → Nat
  | 0x000 => (warpOf s m.warp).fpctl.toNat
  | 0x001 => (thrOf s m).fpst.toNat
  | 0x002 => (bmGet (warpOf s m.warp).nfmt 0).toNat
  | 0x003 => (bmGet (warpOf s m.warp).nfmt 1).toNat
  | 0x004 => (bmGet (warpOf s m.warp).nfmt 2).toNat
  | 0x005 => (bmGet (warpOf s m.warp).nfmt 3).toNat
  | 0x006 => ((List.range 12).map fun f => if 0 < (bmGet (warpOf s m.warp).fcount f).toNat then 2 ^ f else 0).sum
  | 0x007 => (warpOf s m.warp).wbase
  | 0x008 => (wgOfWarp s m.warp).cbase
  | 0x009 => (warpOf s m.warp).nv + 1024 * (warpOf s m.warp).ns + 131072 * (warpOf s m.warp).nt
  | 0x00A => m.lane + 64 * (if (wgOfWarp s m.warp).seqi then 0 else (warpOf s m.warp).slot / 24)
  | 0x00B => (warpOf s m.warp).slot
  | 0x00C => lkPlace (wgOfWarp s m.warp).lcore
  | 0x010 => (partOf s part).ctxid
  | 0x011 => (warpOf s m.warp).ident.toNat
  | 0x012 => if (ctxOf s (part / 8192)).prio then 1 else 0
  | 0x013 => (partOf s part).savecost.toNat
  | 0x014 => acmapOf s (wgOfWarp s m.warp).lcore
  | 0x015 => broleOf s (wgOfWarp s m.warp).lcore 0
  | 0x016 => broleOf s (wgOfWarp s m.warp).lcore 32
  | 0x017 => brpendOf s (wgOfWarp s m.warp).lcore
  | 0x080 => physloc (coreOfL s (wgOfWarp s m.warp).lcore)
  | 0x081 => (partOf s part).savebase.toNat
  | 0x082 => (partOf s part).ptbase.toNat
  | 0x083 => (partOf s part).gazbase.toNat
  | 0x084 => (partOf s part).clrbase.toNat
  | 0x085 => (partOf s part).fqbase.toNat
  | 0x086 => (partOf s part).aqbase.toNat
  | n => (timelineOf s (part / 8192) (n - 0x020)).value

/-- A register of the writer's own warp written (R43, R44): `FPCTL`, a narrow format descriptor, or `IDENT`. -/
def warpRegister (s : State) (w n : Nat) (v : Pair) : State :=
  match n with
  | 0x000 => updWarp s w fun x => { x with fpctl := v.extractLsb' 0 32 }
  | 0x011 => updWarp s w fun x => { x with ident := v.extractLsb' 0 32 }
  | _ => updWarp s w fun x => { x with nfmt := bmSet x.nfmt (n - 2) (v.extractLsb' 0 16) }
/-- The low word and the low pair that a `CSRW` writes, and its register. -/
def csrValue (x : Src) : Pair := x.d.extractLsb' 0 64

/-- The checks of an access to a register (R43): its number is assigned, and the context and the kind of the access are admitted. -/
inductive RegisterOpen : Nat → Bool → Bool → Prop where
  | own (n : Nat) (priv write : Bool) (_ : n < 6) : RegisterOpen n priv write
  | read (n : Nat) (priv : Bool) (_ : 6 ≤ n ∧ n ≤ 0x0C ∨ n = 0x10 ∨ 0x13 ≤ n ∧ n ≤ 0x17) : RegisterOpen n priv false
  | some (n : Nat) (_ : n = 0x11 ∨ n = 0x12 ∨ 0x20 ≤ n ∧ n ≤ 0x2F) (priv : Bool) : RegisterOpen n priv false
  | high (n : Nat) (_ : n = 0x11 ∨ n = 0x12 ∨ 0x20 ≤ n ∧ n ≤ 0x2F) (write : Bool) : RegisterOpen n true write
  | place : RegisterOpen 0x80 true false
  | base (n : Nat) (_ : 0x81 ≤ n ∧ n ≤ 0x86) (write : Bool) : RegisterOpen n true write

/-! ### Traps (R338 to R342) -/

/-- A range of bytes whose memory takes a write as it is given: outside the capacity tier, in channels that are in service. -/
def PlainBytes (s : State) (a n : Nat) : Prop := isCapacity (gpLocal a) = false ∧ ∀ k < n, channelLost s (a + k) = false
/-- Memory holds some bytes from an address on. -/
def Holds (u : State) (a : Nat) (l : List Byte) : Prop := ∀ k < l.length, bmGet u.mem (a + k) = l.getD k 0

/-- The warps with an actor that is no helper, each with the lowest one. -/
def leads (s : State) (g : Group) (i : Instr) : List (Nat × Member) :=
  (warpsIn (actors s g i)).filterMap fun w => (leadOf s (actors s g i) w).map fun m => (w, m)

/-! ### Contexts stopped and resumed (R357) -/

/-- A context instruction runs for one thread, in an unreplicated warp, and names a part of another context by a value that its checks
admit. -/
structure ContextNamed (s : State) (g : Group) (i : Instr) (hi : Nat) (m : Member) (k : Nat) : Prop where
  ready : Ready s g i
  one : actors s g i = [m]
  acts : (thrOf s m).helper = false
  admitted : ctxFail hi s m (sources s g i m) = none
  named : ctxPart? s m (sources s g i m) = some k
/-- The state in which such an instruction acts, and the state after it has given a number. -/
def resting (s : State) (g : Group) (i : Instr) (m : Member) : State := clearWaits (noted s g i) [m]
def answered (i : Instr) (m : Member) (r : State × Nat) : Out :=
  .next (retire (forward (writeD r.1 (shapeOf i).d [(m, BitVec.ofNat 128 r.2)]) m (BitVec.ofNat 128 r.2)))

/-! ### Packages and their mailbox (R401, R402) -/

/-- A command waits in the mailbox of a package that works. -/
structure Commanded (s : State) (p op : Nat) : Prop where
  there : (tblGet? s.pkgs p).isSome = true
  powered : (pkgAt s p).powered = true
  sound : (pkgAt s p).failed = false
  go : mbNat s p 0x80 8 = 1
  opcode : mbNat s p 0x00 1 = op

/-- The commands that end at once: what SUB and ARG0 they have, their checks, and their effect. -/
inductive ShortCommand : Instr → Nat → (State → Nat → Prop) → (State → Nat → Option Cause) → (State → Nat → State) → Prop where
  | create : ShortCommand .createContext 0x01 (fun _ _ => True)
      (fun s p => if 2 ≤ mbSub s p then some .reservedField else cmdRefusal s p [] true (freeCtxid s p).isSome)
      (fun s p => createCtx s p ((freeCtxid s p).getD 0))
  | register : ShortCommand .registerQueue 0x03 (fun s p => mbSub s p ≠ 1) registerBad registerQueueAt
  | reserve : ShortCommand .setReservedCores 0x04 (fun _ _ => True)
      (fun s p => cmdRefusal s p [51] (mbSub s p == 0) (plainMemory s p (mbArg s p 0) 160))
      (fun s p => answerDone (updPkg s p fun x => { x with reserved := coreBits s (gpOf p (mbArg s p 0)) }) p 0)
  | loadKey : ShortCommand .loadKeySlot 0x05 (fun _ _ => True)
      (fun s p => cmdRefusal s p [12, 51] (mbSub s p == 0 && slotArg s p != 0) (plainMemory s p (mbArg s p 1) 64))
      (fun s p => answerDone (updPkg s p fun x =>
        { x with keys := tblSet x.keys (slotArg s p) (homeBytes s (gpOf p (mbArg s p 1)) 64) }) p 0)
  | addDescriptor : ShortCommand .registerCheckpoint 0x07 (fun s p => mbSub s p ≠ 1 ∧ mbSub s p ≠ 2) ckptBad registerCkpt
  | dropDescriptor : ShortCommand .removeCheckpoint 0x07 (fun s p => mbSub s p = 1)
      (fun s p => cmdRefusal s p [0, 16] true (hasDesc s p && decide ((ckptOf s ((partNamed? s p).getD 0 / 8192)).phase = 0))) removeCkpt
  | cut : ShortCommand .requestCut 0x07 (fun s p => mbSub s p = 2) (fun s p => cmdRefusal s p [0, 16] true (hasDesc s p))
      (fun s p => answerDone (requestCut s ((partNamed? s p).getD 0 / 8192)) p (ckptOf s ((partNamed? s p).getD 0 / 8192)).nextCut)
  | run : ShortCommand .powerRun 0x10 (fun s p => mbArg s p 0 % 4 = 0 ∨ mbArg s p 0 % 4 = 3)
      (fun s p => cmdRefusal s p [2, 0] (mbSub s p == 0 && mbArg s p 0 == 0) true)
      (fun s p => answerDone (updPkg (leaveIdle s p) p fun x => { x with power := 0 }) p 0)
  | capped : ShortCommand .powerCapped 0x10 (fun s p => mbArg s p 0 % 4 = 1)
      (fun s p => cmdRefusal s p [2, 64] (mbSub s p == 0 && decide (mbArg s p 1 ≤ 3200)) true)
      (fun s p => answerDone (updPkg (updPkg (leaveIdle s p) p fun x => { x with power := 1 }) p fun x => { x with watts := mbArg s p 1 }) p 0)
  | full : ShortCommand .enterFullService 0x11 (fun _ _ => True)
      (fun s p => cmdRefusal s p [] (mbSub s p == 0) (!(pkgAt s p).full && !ctxResident s p))
      (fun s p => answerDone (updPkg s p (fullPkg p)) p 0)

/-- The commands that start, hold until a condition is met, and then end: what they wait for, and their effects. -/
inductive LongCommand : Instr → Nat → (State → Nat → Prop) → (State → Nat → Option Cause) → (State → Nat → State) →
    (State → Nat → Bool) → (State → Nat → State) → Prop where
  | destroy : LongCommand .destroyContext 0x02 (fun _ _ => True) (fun s p => cmdRefusal s p [16] (mbSub s p == 0) (destroyed? s p).isSome)
      (fun s p => haltParts s (partsOfCtx s ((destroyed? s p).getD 0)))
      (fun s p => (partsOfCtx s ((destroyed? s p).getD 0)).all fun k => partStands s k)
      (fun s p => answerDone (removeCtx s ((destroyed? s p).getD 0)) p 0)
  | remove : LongCommand .removeQueue 0x03 (fun s p => mbSub s p = 1) removeBad
      (fun s p => updQueue s p (queueNo s p) fun q => { q with removing := true })
      (fun s p => decide ((queueOf s p (queueNo s p)).head = (queueOf s p (queueNo s p)).tail))
      (fun s p => answerDone (updPkg s p fun x => { x with queues := tblDel x.queues (queueNo s p) }) p 0)
  | clearKey : LongCommand .clearKeySlot 0x06 (fun _ _ => True)
      (fun s p => cmdRefusal s p [12] (mbSub s p == 0 && slotArg s p != 0) (keyLoaded s p (slotArg s p)))
      (fun s p => updPkg s p fun x => { x with clearing := some (slotArg s p) }) (fun s p => !keyInUse s p (slotArg s p))
      (fun s p => answerDone (updPkg s p fun x => { x with keys := tblDel x.keys (slotArg s p), clearing := none }) p 0)
  | withdraw : LongCommand .withdrawCores 0x08 (fun s p => mbSub s p = 1) withdrawBad
      (fun s p => requestStops ((bitmapCores s p).foldl (fun v c => updPcore v c fun x =>
        { x with leaving := x.leaving ++ [(withdrawPart? s p).getD 0] }) s)
        (holderWarps s (coreHolders s ((withdrawPart? s p).getD 0) (bitmapCores s p))))
      (fun s p => allHalted s (holderWarps s (coreHolders s ((withdrawPart? s p).getD 0) (bitmapCores s p)))) withdrawEnd
  | idle : LongCommand .powerIdle 0x10 (fun s p => mbArg s p 0 % 4 = 2) (fun s p => cmdRefusal s p [2, 0] (mbSub s p == 0) true)
      (fun s p => haltParts ((partsOfPkg s p).foldl (fun s k => updPart s k fun x => { x with idle := true }) s) (partsOfPkg s p))
      (fun s p => (partsOfPkg s p).all fun k => partStands s k && decide ((ckptOf s (k / 8192)).phase ≠ 1))
      (fun s p => answerDone (updPkg s p fun x => { x with power := 2 }) p 0)

/-- The checks that every command makes first, in their order: a reserved byte or argument bit that is set; a field outside its range; a
resource or a state (R402). -/
def refusalOf (clean inRange able : Prop) (c : Option Cause) : Prop :=
  (¬ clean → c = some .reservedField) ∧ (clean → ¬ inRange → c = some .illegalEncoding) ∧ (clean → inRange → ¬ able → c = some .access) ∧
    (clean → inRange → able → c = none)

/-- Memory takes some bytes at an address, and keeps the others. -/
def BytesPut (s u : State) (a : Nat) (l : List Byte) : Prop :=
  Holds u a l ∧ ∀ b, b < a ∨ a + l.length ≤ b → bmGet u.mem b = bmGet s.mem b

/-! ### Encodings and checks of a clause -/

/-- Unassigned majors, and unassigned pairs of a major and a MIN (R65, R67, R69). -/
def emptyMajors : List (BitVec 6) := [0x0E, 0x0F, 0x1C, 0x1D, 0x24, 0x25]
def emptyCells : List (BitVec 6 × BitVec 2) :=
  [(0x12, 3), (0x15, 3), (0x18, 3), (0x1E, 3), (0x28, 3), (0x29, 3), (0x2F, 3), (0x33, 2), (0x33, 3), (0x34, 1), (0x34, 2), (0x34, 3),
   (0x36, 3), (0x37, 3), (0x38, 1), (0x38, 2), (0x38, 3), (0x3B, 1), (0x3B, 2), (0x3B, 3), (0x3E, 1), (0x3E, 2), (0x3E, 3)]
/-- Cells of format R that use no B field (R64, R65). -/
def cellsWithoutB : List (BitVec 6 × BitVec 2) :=
  [(0x03, 3), (0x06, 0), (0x06, 1), (0x06, 2), (0x06, 3), (0x07, 0), (0x09, 3), (0x0A, 0), (0x0A, 2), (0x12, 2), (0x15, 2), (0x18, 2),
   (0x19, 0), (0x19, 1), (0x19, 2), (0x1A, 0), (0x1A, 1), (0x1A, 2), (0x1A, 3), (0x1B, 0), (0x1B, 1), (0x1B, 2), (0x1B, 3),
   (0x1F, 0), (0x1F, 1), (0x1F, 2), (0x1F, 3), (0x23, 2), (0x26, 0), (0x26, 1), (0x26, 2), (0x27, 0), (0x27, 1), (0x27, 2), (0x27, 3),
   (0x34, 0), (0x35, 0), (0x35, 3)]

/-- Words with the instructions that they stand for, written out from R55 and the tables of R65 to R69. -/
def knownWords : List (Word × Instr) :=
  [(0b000000_111_0000001_0000010_0000011_00#32, .addI32 7 1 2 3),
   (0b000011_001_0000100_1100000_0000000_11#32, .notB 1 4 96),
   (0b001100_111_0000101_0000000_111111110#32, .movi 7 5 0x1FE),
   (0b010001_111_0000000_0000001_0000010_10#32, .fmaF32D2 7 0 1 2),
   (0b011110_111_0000010_0000100_0000110_01#32, .dmul 7 2 4 6),
   (0b100000_111_0000011_0000100_0100000_01#32, .cvtRz 7 3 4 0x20),
   (0b101000_010_0001000_0001001_0000001_01#32, .reduxUs 2 8 9 1),
   (0b101010_111_0000110_0001000_111111111#32, .ldB32 7 6 8 0x1FF),
   (0b101011_000_0000111_0001010_000000100#32, .stB32 0 7 10 4),
   (0b110010_111_0000001_0000010_0101011_00#32, .casB32 7 1 2 2),
   (0b110010_111_0000001_0000010_0100000_10#32, .redB32 7 1 2 0x20),
   (0b110101_111_0000000_0000010_0000000_00#32, .tshape 7 0 2),
   (0b111000_111_0000001_0000010_0000000_00#32, .acalloc 7 1 2),
   (0b111001_111_11111111111111111111110#32, .bra 7 0x7FFFFE),
   (0b11110_0000011_00000000000000000001#32, .movf 3 1),
   (0b111011_111_0000001_0000010_0000000_00#32, .cpy 7 1 2),
   (0b111110_111_0000001_0000010_0010001_00#32, .eret 7 1 2),
   (0b111111_001000001_000000000_00000000#32, .permutationPrefix 0x41 0)]

/-- The privileged instructions (R69). -/
inductive Privileged : Instr → Prop where
  | setid (p : BitVec 3) (d a : BitVec 7) : Privileged (.setid p d a)
  | tlbinv (p : BitVec 3) (d a : BitVec 7) : Privileged (.tlbinv p d a)
  | clrinv (p : BitVec 3) (d a : BitVec 7) : Privileged (.clrinv p d a)
  | bankrole (p : BitVec 3) (d a : BitVec 7) : Privileged (.bankrole p d a)
  | eret (p : BitVec 3) (d a : BitVec 7) : Privileged (.eret p d a)
  | savectx (p : BitVec 3) (d a : BitVec 7) : Privileged (.savectx p d a)
  | restctx (p : BitVec 3) (d a : BitVec 7) : Privileged (.restctx p d a)
  | halt (p : BitVec 3) (a : BitVec 7) : Privileged (.halt p a)

/-- The patterns that body word j stands under: those of the word before it (R60). -/
def patsAt (ws : List Word) (j : Nat) : Option (BitVec 9 × BitVec 9) := if j = 0 then none else prefixOf (ws.getD (j - 1) 0)
/-- A body word holds a privileged sub-op. -/
def privWord (w : Word) : Bool := match cell w with | some (i, _) => (shapeOf i).priv | none => false

/-! ### Rounding (R120) -/

/-- The exact value, in units of the place at which it is rounded. -/
def exactUnits (m : Nat) (e q : Int) : ℚ := (m : ℚ) * (2 : ℚ) ^ (e - q)

/-! ### The plain register instructions -/

/-- A register instruction whose result statements need no check but those of its operand fields. -/
def PlainRegister (i : Instr) : Prop := (∃ f, IntResult i f) ∨ (∃ f, PredResult i f) ∨ ∃ f, FloatResult i f
/-- The members that fail a check of an operand field, with the check (R34, R39). -/
def operandFails (s : State) (g : Group) (i : Instr) : List (Member × Fail) :=
  (actors s g i).filterMap fun m => if (thrOf s m).helper then none else (operandFail s (shapeOf i) m).map fun f => (m, f)
/-- A member names an allocation register at or above E (R34). -/
def AboveWindow (s : State) (i : Instr) (m : Member) : Prop :=
  ∃ x ∈ [(shapeOf i).a, (shapeOf i).b, (shapeOf i).d], x.f.toNat < 96 ∧ 0 < max (readWidth x.use) (writeWidth x.use) ∧
    topReg (warpOf s m.warp) < (thrOf s m).base + x.f.toNat + max (readWidth x.use) (writeWidth x.use)
/-- A body word holds a control transfer (R61). -/
def xferWord (w : Word) : Bool := match cell w with | some (i, _) => (shapeOf i).xfer | none => false

end Sys2Proof.Claims

open Sys2Proof Sys2Proof.Machine

/-- R84 to R88, R92: an integer instruction completes. Every actor's destination receives the result that the table gives (a uniform
destination that of the lowest actor, D = 127 nothing), p6 the carry or borrow, and nothing else changes. -/
def Sys2Proof.Claims.IntegerResults : Prop :=
  ∀ (i : Instr) (f : Src → Res), Claims.IntResult i f → ∀ (s : State) (g : Group), curGroup? s = some g → OperandsPass s g i →
    RegCompletes i s g fun m => f (sources s g i m)

/-- R89 to R91: a compare, a predicate operation and `SEL` complete with their result and change nothing else. -/
def Sys2Proof.Claims.PredicateResults : Prop :=
  ∀ (i : Instr) (f : Src → Res), Claims.PredResult i f → ∀ (s : State) (g : Group), curGroup? s = some g → OperandsPass s g i →
    RegCompletes i s g fun m => f (sources s g i m)

/-- R133 to R142: a vector floating-point instruction that raises no enabled flag completes with its result and its flags. -/
def Sys2Proof.Claims.FloatResults : Prop :=
  ∀ (i : Instr) (f : Src → Res), Claims.FloatResult i f → ∀ (s : State) (g : Group), curGroup? s = some g → OperandsPass s g i →
    (NoFpTrap s g i fun m => f (sources s g i m)) → RegCompletes i s g fun m => f (sources s g i m)

/-- R143 to R153: a conversion that raises no enabled flag completes with its result and its flags. -/
def Sys2Proof.Claims.ConversionResults : Prop :=
  ∀ (i : Instr) (f : Src → Res), Claims.ConvertResult i f → ∀ (s : State) (g : Group), curGroup? s = some g → OperandsPass s g i →
    (NoFpTrap s g i fun m => f (sources s g i m)) → RegCompletes i s g fun m => f (sources s g i m)

/-- R154 to R160: a cross-lane instruction that raises no enabled flag gives every participant its result, in its own warp. -/
def Sys2Proof.Claims.CrossLaneResults : Prop :=
  ∀ (i : Instr) (f : List (Nat × Src) → Nat → Src → Res), Claims.CrossResult i f →
    ∀ (s : State) (g : Group), curGroup? s = some g → OperandsPass s g i →
    (∀ m ∈ participants s g i, trapFlags (warpOf s m.warp) (f (warpSources s g i m.warp) m.lane (sources s g i m)).fp = 0) →
    ∃ u, exec i s = .next (retire u) ∧
      RegEffect s g i (participants s g i) (fun m => f (warpSources s g i m.warp) m.lane (sources s g i m)) u

/-- R155: `QSWP` gives every actor, helpers included, the register of the thread in its quad whose lane differs in the mnemonic's bits,
and zero where no thread stands. -/
def Sys2Proof.Claims.QuadSwapResults : Prop :=
  ∀ (i : Instr) (x : Nat) (a : BitVec 7), Claims.QuadSwap i (x, a) → ∀ (s : State) (g : Group), curGroup? s = some g →
    OperandsPass s g i →
    RegCompletes i s g fun m =>
      Claims.d32 (if present s m.warp (m.lane ^^^ x) then vreg s m.warp (m.lane ^^^ x) ((thrOf s m).base + a.toNat) else 0)

/-- R88: `SMOV` to a uniform register writes the value of each represented warp's lowest active member that is no helper, and nothing
else. -/
def Sys2Proof.Claims.UniformWrite : Prop :=
  ∀ (p : BitVec 3) (d a : BitVec 7) (s : State) (g : Group), curGroup? s = some g → OperandsPass s g (.smovToUniform p d a) →
    Claims.EachChecked s g (.smovToUniform p d a) (fun m _ => d.toNat < (warpOf s m.warp).ns) →
    ∃ u, exec (.smovToUniform p d a) s = .next (retire u) ∧
      (∀ w n, (tblGet? s.warps w).isSome = true → ureg u w n =
        match leadOf s (actors s g (.smovToUniform p d a)) w with
        | some m => if n = d.toNat then lo32 (sources s g (.smovToUniform p d a) m).a else ureg s w n
        | none => ureg s w n) ∧
      (∀ w l r, vreg u w l r = vreg s w l r) ∧ (∀ m, thrOf u m = thrOf s m) ∧
      tblMap u.warps (fun _ w => warpFrame w) = tblMap s.warps (fun _ w => warpFrame w) ∧
      { u with warps := s.warps } =
        constTraces s (shapeOf (.smovToUniform p d a)) (actors s g (.smovToUniform p d a))

/-- R88, R93, R149: `SMOV` from a uniform register, `IDX2` and `CVTW` complete with their result where their own check passes. -/
def Sys2Proof.Claims.CheckedRegisterResults : Prop :=
  ∀ (i : Instr) (ok : State → Member → Src → Prop) (f : State → Member → Src → Res), Claims.CheckedResult i ok f →
    ∀ (s : State) (g : Group), curGroup? s = some g → OperandsPass s g i → Claims.EachActor s g i (ok s) →
    (NoFpTrap s g i fun m => f s m (sources s g i m)) → RegCompletes i s g fun m => f s m (sources s g i m)

/-- R147: `CVTN` without SR rounds in the mode of `FPCTL` and replaces one field of D. -/
def Sys2Proof.Claims.NarrowRounded : Prop :=
  ∀ (p : BitVec 3) (d a b : BitVec 7) (k : BitVec 2) (s : State) (g : Group), b.toNat < 64 → curGroup? s = some g →
    OperandsPass s g (.cvtn p d a b k) →
    Claims.EachActor s g (.cvtn p d a b k) (fun m _ => Claims.narrowOk (warpOf s m.warp) k.toNat (b.toNat / 8)) →
    (NoFpTrap s g (.cvtn p d a b k) fun m =>
      Claims.narrowed (warpOf s m.warp) k.toNat (b.toNat / 8) (rmOf (warpOf s m.warp)) (sources s g (.cvtn p d a b k) m)) →
    RegCompletes (.cvtn p d a b k) s g fun m =>
      Claims.narrowed (warpOf s m.warp) k.toNat (b.toNat / 8) (rmOf (warpOf s m.warp)) (sources s g (.cvtn p d a b k) m)

/-- R147, R148: `CVTN` with SR rounds stochastically: the generator word of each actor's lane in the named bank takes one step, and
the value it steps to decides. The group holds a lane once, as issue groups do (R17). -/
def Sys2Proof.Claims.NarrowStochastic : Prop :=
  ∀ (p : BitVec 3) (d a b : BitVec 7) (k : BitVec 2) (s : State) (g : Group), 64 ≤ b.toNat → curGroup? s = some g →
    OperandsPass s g (.cvtn p d a b k) → (g.mem.map (·.lane)).Nodup →
    (∀ m ∈ actors s g (.cvtn p d a b k), ∃ x, tblGet? (wgOfWarp s m.warp).banks (b.toNat % 8) = some x ∧ x.freed = false) →
    (∀ m ∈ actors s g (.cvtn p d a b k), (tblGet? s.wgs (warpOf s m.warp).wg).isSome = true) →
    Claims.EachActor s g (.cvtn p d a b k) (fun m _ => Claims.narrowOk (warpOf s m.warp) k.toNat (b.toNat / 8 % 8)) →
    let r (m : Member) : Res := Claims.narrowed (warpOf s m.warp) k.toNat (b.toNat / 8 % 8)
      (.sr (genStep (Claims.genWord s (warpOf s m.warp).wg (b.toNat % 8) m.lane))) (sources s g (.cvtn p d a b k) m)
    NoFpTrap s g (.cvtn p d a b k) r →
    ∃ u, exec (.cvtn p d a b k) s = .next (retire u) ∧
      RegEffect s g (.cvtn p d a b k) (actors s g (.cvtn p d a b k)) r { u with wgs := s.wgs } ∧
      (∀ m ∈ actors s g (.cvtn p d a b k), Claims.genWord u (warpOf s m.warp).wg (b.toNat % 8) m.lane =
        genStep (Claims.genWord s (warpOf s m.warp).wg (b.toNat % 8) m.lane)) ∧
      (∀ h x c, (¬ ∃ m ∈ actors s g (.cvtn p d a b k), (warpOf s m.warp).wg = h ∧ x = b.toNat % 8 ∧ c = m.lane) →
        Claims.genWord u h x c = Claims.genWord s h x c) ∧
      (∀ h x e, accGet u h x e = accGet s h x e)

/-- R100 to R102: a global load that passes its checks is pending: its destination will receive the bytes that the member reads, the flag
has risen, no register has changed yet, and no byte of memory. -/
def Sys2Proof.Claims.GlobalLoads : Prop :=
  ∀ (i : Instr) (addr : Src → Nat) (n : Nat), Claims.LoadForm i addr n → ∀ (s : State) (g : Group), Claims.Ready s g i →
    Claims.EachActor s g i (fun m x => acqHeld s m = false ∧ atomHeld s m (physOf (pageFor s m (addr x)) (addr x)) n = false ∧
      farHeld s m (addr x) = false ∧ fillWait s m (addr x) n 0 = none) →
    Claims.EachChecked s g i (fun m x => addr x % n = 0 ∧ accessFail s m (addr x) n .load = none) →
    ∃ u, exec i s = .next (retire u) ∧
      Claims.LongIssued s g (actors s g i) (fun w =>
        { writes := regWrites s (shapeOf i).d w ((actors s g i).map fun m =>
            (m, valOf (readGlobal (noted s g i) m (addr (sources s g i m)) n)))
          load := true, part := partOfWarp s w }) u ∧ Claims.MemoryKept s u

/-- R100, R103, R271: a global store that passes its checks puts the low bytes of each actor's D on their way, in lane order, the
translation of each noted. Where no store goes to a shared line of a deterministic grid, no register changes and every byte outside the
stored ones reads as before. -/
def Sys2Proof.Claims.GlobalStores : Prop :=
  ∀ (i : Instr) (addr : Src → Nat) (n : Nat), Claims.StoreForm i addr n → ∀ (s : State) (g : Group), Claims.Ready s g i →
    Claims.EachActor s g i (fun m _ => acqHeld s m = false) →
    Claims.EachChecked s g i (fun m x =>
      storeFail s m (addr x) n (logBefore s i (fun y z => logUnits s y (addr z) n) m) = none) →
    let ins := (noted s g i).nextId
    let u := Claims.storeAll addr n ins (noted s g i) (Claims.acts s g i)
    exec i s = .next (retire u) ∧
      (Claims.PlainStores addr n ins (noted s g i) (Claims.acts s g i) → SameRegisters s u ∧ u.wgs = s.wgs ∧ u.loads = s.loads ∧
        ((∀ c, (ctxOf u c).auditSeq = (ctxOf s c).auditSeq) →
          BytesKept s u fun a => ¬ Claims.StoredAt addr n ins (noted s g i) (Claims.acts s g i) a))

/-- R103, R104: a store of a thread that is no helper, in an unreplicated warp, off the shared lines of deterministic grids, is what the
same thread's next load of those bytes sees; every other byte is as it was, and no home has changed. -/
def Obligations.StoreThenLoad : Prop :=
  ∀ (s : State) (m : Member) (va ins : Nat) (data : List Byte), (thrOf s m).helper = false → isRedun s m.warp = false →
    detShared s m.warp va = false →
    let e := pageFor s m va
    let u := storeGlobal s m va data ins
    (∀ k < data.length, viewByte u (coreOfWarp s m.warp) m.warp e.key (physOf e va + k) = data.getD k 0) ∧
      BytesKept s u (fun a => ¬ (physOf e va ≤ a ∧ a < physOf e va + data.length)) ∧ u.mem = s.mem ∧ SameRegisters s u

/-- R101, R103, R105: a scratchpad load that passes its checks is pending with the bytes of the thread's own scratchpad; a helper's
that would fail delivers zeros. -/
def Sys2Proof.Claims.ScratchpadLoads : Prop :=
  ∀ (i : Instr) (n : Nat), Claims.ScratchLoad i n → ∀ (s : State) (g : Group), Claims.Ready s g i →
    Claims.EachActor s g i (fun m _ => acqHeld s m = false) →
    Claims.EachChecked s g i (fun m x => scrLoadFail s m (Claims.wordOff x) n = none) →
    ∃ u, exec i s = .next (retire u) ∧
      Claims.LongIssued s g (actors s g i) (fun w =>
        { writes := regWrites s (shapeOf i).d w ((actors s g i).map fun m => (m,
            if scrLoadFail (noted s g i) m (Claims.wordOff (sources s g i m)) n = none then
              valOf (readScr s m.warp (Claims.wordOff (sources s g i m)) n) else 0))
          load := true, part := partOfWarp s w }) u ∧ u.wgs = s.wgs ∧ Claims.MemoryKept s u

/-- R100, R103, R203: a scratchpad store puts the low bytes of each actor's D into its warp's store queue, in lane order, from where the
warp's own scratchpad reads see them; what every other warp sees of its scratchpad, the banks themselves, every register and every other
byte stay. -/
def Sys2Proof.Claims.ScratchpadStores : Prop :=
  ∀ (i : Instr) (n : Nat), Claims.ScratchStore i n → ∀ (s : State) (g : Group), Claims.Ready s g i →
    Claims.EachActor s g i (fun m _ => acqHeld s m = false) →
    Claims.EachChecked s g i (fun m x => Claims.wordOff x % n = 0 ∧
      Claims.wordOff x + n ≤ (khdrOfWarp s m.warp).scratch) →
    (∀ m ∈ actors s g i, Claims.ScratchPlaced s m.warp) →
    ∃ u, exec i s = .next (retire u) ∧
      (∀ m ∈ actors s g i, ∀ o < (khdrOfWarp s m.warp).scratch,
        readScr u m.warp o 1 = [Claims.scratchAfter s m.warp o n (Claims.acts s g i)]) ∧
      (∀ w, (∀ m ∈ actors s g i, m.warp ≠ w) → ∀ o k, readScr u w o k = readScr s w o k) ∧
      u.wgs = s.wgs ∧ SameRegisters s u ∧ u.loads = s.loads ∧
      ((∀ c, (ctxOf u c).auditSeq = (ctxOf s c).auditSeq) → BytesKept s u fun a =>
        ¬ ∃ m ∈ actors s g i, ∃ k < n, a = scrAddr s m.warp (Claims.wordOff (sources s g i m)) + k)

/-- R106: a constant load that passes its checks is pending with the bytes that the constant path delivers, zeros where the page's tag
denies them. -/
def Sys2Proof.Claims.ConstantLoads : Prop :=
  ∀ (i : Instr) (n : Nat), Claims.ConstLoad i n → ∀ (s : State) (g : Group), Claims.Ready s g i →
    Claims.EachActor s g i (fun m _ => acqHeld s m = false) →
    Claims.EachChecked s g i (fun m x => ldcFail s m (Claims.wordOff x) n = none) →
    ∃ u, exec i s = .next (retire u) ∧
      Claims.LongIssued s g (actors s g i) (fun w =>
        { writes := regWrites s (shapeOf i).d w ((actors s g i).map fun m =>
            (m, valOf (ldcBytes (noted s g i) m (Claims.wordOff (sources s g i m)) n)))
          load := true, part := partOfWarp s w }) u ∧ Claims.MemoryKept s u

/-- R107: `PREF` completes and has no effect but that of reading its operands. -/
def Sys2Proof.Claims.PrefetchOnly : Prop :=
  ∀ (p : BitVec 3) (d a b : BitVec 7) (s : State) (g : Group), Claims.Ready s g (.pref p d a b) →
    exec (.pref p d a b) s = .next (retire (noted s g (.pref p d a b))) ∧ Claims.MemoryKept s (noted s g (.pref p d a b)) ∧
      SameRegisters s (noted s g (.pref p d a b))

/-- R114, R115: `LDR` is pending with the packed elements of the record that lie in its extent, after clamping or wrapping. -/
def Sys2Proof.Claims.RecordLoads : Prop :=
  ∀ (i : Instr) (num : Warp → Nat), Claims.RecordLoad i num → ∀ (s : State) (g : Group), Claims.Ready s g i →
    Claims.EachActor s g i (fun m x => unitWait s m x (num x.w) = none) →
    Claims.EachChecked s g i (fun m x => unitFail s m x (num x.w) .load = none) →
    ∃ u, exec i s = .next (retire u) ∧
      Claims.LongIssued s g (actors s g i) (fun w =>
        { writes := regWrites s (shapeOf i).d w ((actors s g i).map fun m =>
            (m, Claims.unitLoaded (noted s g i) m (num (warpOf s m.warp)) (sources s g i m)))
          load := true, part := partOfWarp s w }) u ∧ Claims.MemoryKept s u

/-- R114, R115: `STR` stores each element of each actor's unit that lies in the record's extent, in lane and element order. -/
def Sys2Proof.Claims.RecordStores : Prop :=
  ∀ (i : Instr) (num : Warp → Nat), Claims.RecordStore i num → ∀ (s : State) (g : Group), Claims.Ready s g i →
    Claims.EachActor s g i (fun m _ => acqHeld s m = false) →
    Claims.EachChecked s g i (fun m x => unitStoreFail s m x (num x.w)
      (logBefore s i (fun y z => unitLogs s y ((recOf? s y.warp (num z.w)).getD 0) z) m) = none) →
    exec i s = .next (retire ((Claims.acts s g i).foldl (fun v e => if (thrOf s e.1).helper then v
      else Claims.unitStored v e.1 ((recOf? (noted s g i) e.1.warp (num (warpOf s e.1.warp))).getD 0) e.2 (noted s g i).nextId)
      (noted s g i)))

/-- R225, R229, R231: a returning atomic that passes its checks issues a pending return for each represented warp and one operation for
each actor that is no helper; one on plain memory leaves with its word and its operands, and no register or byte changes yet. -/
def Sys2Proof.Claims.AtomicsIssue : Prop :=
  ∀ (i : Instr) (fm : AtomForm) (d : BitVec 7), Claims.Returning i fm d → ∀ (s : State) (g : Group), Claims.Ready s g i →
    Claims.EachActor s g i (fun m x => acqHeld s m = false ∧ serialWait s m (Claims.atomVa x) = none) →
    Claims.EachChecked s g i (fun m x => atomFail fm s m (Claims.atomVa x) (atomBefore i fm s m) = none) →
    exec i s = .next (retire (issueReturning (noted s g i) g (Claims.acts s g i) d ((fm.n + 3) / 4)
      (issueAtom fm d (noted s g i).nextId))) ∧
      ∀ (ins : Nat) (ms : List Member) (id : Nat) (v : State) (m : Member) (x : Src), (thrOf v m).helper = false →
        isRedun v m.warp = false → detShared v m.warp (Claims.atomVa x) = false →
        let u := issueAtom fm d ins ms id v m x
        (∃ a, Claims.AtomLeft fm ins v m x a ∧ a.ret = some id ∧ u.atoms = v.atoms ++ [(v.nextId, a)]) ∧
          u.loads = tblUpd v.loads id (fun l => { l with waits := l.waits ++ [v.nextId] }) ∧
          SameRegisters v u ∧ BytesKept v u fun _ => True

/-- R225, R229: a reduction that passes its checks issues one operation for each actor that is no helper; no register changes. -/
def Sys2Proof.Claims.ReductionsIssue : Prop :=
  ∀ (i : Instr) (fm : AtomForm), Claims.Reduction i fm → ∀ (s : State) (g : Group), Claims.Ready s g i →
    Claims.EachActor s g i (fun m _ => acqHeld s m = false) →
    Claims.EachChecked s g i (fun m x => atomFail fm s m (Claims.atomVa x) (atomBefore i fm s m) = none) →
    exec i s = .next (retire ((Claims.acts s g i).foldl (fun v e => issueRed fm (noted s g i).nextId v e.1 e.2) (noted s g i))) ∧
      ∀ (ins : Nat) (v : State) (m : Member) (x : Src), (thrOf v m).helper = false → isRedun v m.warp = false →
        detShared v m.warp (Claims.atomVa x) = false → globalFail v m (Claims.atomVa x) fm.n .store = none →
        let u := issueRed fm ins v m x
        (∃ a, Claims.AtomLeft fm ins v m x a ∧ a.ret = none ∧ a.posted = none ∧ u.atoms = v.atoms ++ [(v.nextId, a)]) ∧
          u.loads = v.loads ∧ SameRegisters v u ∧ BytesKept v u fun _ => True

/-- R208, R226, R227, R230: `ATOMIC_PERFORM` on memory outside the capacity tier and the lost channels, where a reduction finds no poison,
writes the operation's value over its word and nothing else, and hands the old value to the pending return; no register changes. -/
def Sys2Proof.Claims.AtomicPerformed : Prop :=
  ∀ (s : State) (a : Atom), tblGet? s.atoms s.arg.a = some a → atomReady s s.arg.a a = true → a.kind < 2 → a.size = 4 ∨ a.size = 8 →
    a.a.toNat < 256 ^ a.size → a.b.toNat < 256 ^ a.size → (a.ret = none → poisoned s a.addr a.size = false) →
    (∀ k < a.size, channelLost s (a.addr + k) = false) →
    isCapacity (gpLocal a.addr) = false → a.addr % a.size = 0 → isRedun s a.warp = false →
    let old := leNat (bmList s.mem a.addr a.size)
    ∃ u, exec .atomicPerform s = .next u ∧
      Claims.WordPut s u a.addr a.size ((Claims.atomWrites a old).getD old) ∧
      u.atoms = tblDel s.atoms s.arg.a ∧ u.writes = s.writes ∧ SameRegisters s u ∧
      ∀ l, a.ret = some l → ∀ e, tblGet? s.loads l = some e → ∃ e', tblGet? u.loads l = some e' ∧
        e'.writes = e.writes ++ retWrites a.lane a.reg a.size old ∧ e'.waits = e.waits.filter (· != s.arg.a)

/-- R228: `ATOMIC_PERFORM` of an operation that returns nothing, on a poisoned word, writes nothing there: the operation is gone, and all
else that happens is that a record of cause MEM_POISON is appended to its context's fault queue. -/
def Sys2Proof.Claims.AtomicOnPoison : Prop :=
  ∀ (s : State) (a : Atom), tblGet? s.atoms s.arg.a = some a → atomReady s s.arg.a a = true → a.ret = none →
    poisoned s a.addr a.size = true →
    ∃ r, exec .atomicPerform s = .next (appendFault { s with atoms := tblDel s.atoms s.arg.a } a.part r) ∧
      r.cause = causeCode .memPoison ∧ r.addr = a.va

/-- R281: a posted operation whose record is answered, and behind which no earlier posted one of its thread on its bytes waits, is
replayed, and its replay completes in every such state: a translation and tag that now pass send it on its way to the word as translated
now; one that fails again is recorded anew, and it stays held under the new record. -/
def Sys2Proof.Claims.PostedReplay : Prop :=
  (∀ (s : State) (a : Atom), tblGet? s.atoms s.arg.a = some a → replayReady s s.arg.a a = true →
    ∃ u, exec .postedOperationReplay s = .next u ∧ SameRegisters s u ∧ u.writes = s.writes) ∧
  (∀ (s : State) (a : Atom) (e : TlbEntry), tblGet? s.atoms s.arg.a = some a → replayReady s s.arg.a a = true →
    translate s a.part a.va .store = .ok e → tagAllows s a.part a.ident.toNat e.tag = true →
    isOnChip (gpLocal (physOf e a.va)) = false → hostRefuses s a.kind a.opc (physOf e a.va) = false →
    ∃ u, exec .postedOperationReplay s = .next u ∧
      u.atoms = tblUpd s.atoms s.arg.a (fun x => { x with posted := none, addr := physOf e a.va, key := e.key }) ∧
      u.mem = s.mem ∧ u.writes = s.writes ∧ SameRegisters s u) ∧
  ∀ (s : State) (a : Atom) (c : Cause), tblGet? s.atoms s.arg.a = some a → replayReady s s.arg.a a = true →
    Claims.ReplayFails s a c →
    ∃ r, exec .postedOperationReplay s = .next (addAwait (appendFault
        { s with atoms := tblUpd s.atoms s.arg.a fun x => { x with posted := some (nextSeq s a.part) } } a.part r)
        a.part (nextSeq s a.part) (.posted s.arg.a)) ∧ r.cause = causeCode c ∧ r.addr = a.va ∧ r.src = 5

/-- R233, R235: a compare-and-swap that passes its checks issues its operation, which holds no lock and wants the line of every word,
lowest address first; its member leaves the group and stands after the instruction until the compare. -/
def Sys2Proof.Claims.McasIssues : Prop :=
  ∀ (p : BitVec 3) (d a : BitVec 7) (s : State) (g : Group), Claims.Ready s g (.mcas p d a) →
    Claims.EachActor s g (.mcas p d a) (fun m x => mcasWait s m x = none) →
    Claims.EachChecked s g (.mcas p d a) (fun m x => mcasFail s m x (mcasBefore (.mcas p d a) s m) = none) →
    exec (.mcas p d a) s = .next (retire (issueReturning (noted s g (.mcas p d a)) g (Claims.acts s g (.mcas p d a)) d 1 (issueMcas g d))) ∧
      ∀ (ms : List Member) (id : Nat) (v : State) (m : Member) (x : Src), (thrOf v m).helper = false → isRedun v m.warp = false →
        mcasShared v m (lo64 x.a).toNat = false →
        let u := issueMcas g d ms id v m x
        ∃ n o, u.mcas = v.mcas ++ [(n, o)] ∧ o.warp = m.warp ∧ o.lane = m.lane ∧ o.ret = id ∧ o.held = [] ∧
          o.words = mcasWords v m (lo64 x.a).toNat ∧ o.want = sortNat (o.words.map fun w => w.addr / 128) ∧
          (present v m.warp m.lane = true → g.ended.contains m.lane = false → (thrOf u m).wait = .compared n)

/-- R209, R210, R234: the grant of the last lock compares every word at once: with all words as expected, every new value is written
and D will receive 0; otherwise memory stays, and D will receive status 1 and the mask of the words that differ. -/
def Sys2Proof.Claims.McasCompares : Prop :=
  ∀ (s : State) (o : Mcas) (l : Nat), tblGet? s.mcas s.arg.a = some o → mcasReady s s.arg.a o = true → o.want = [l] → o.obs = false →
    (∀ w ∈ o.words, poisoned s w.addr 8 = false ∧ isCapacity (gpLocal w.addr) = false ∧ w.addr % 8 = 0) →
    o.words.Pairwise (fun v w => v.addr + 8 ≤ w.addr) → isRedun s o.warp = false →
    let found (w : McasWord) : Nat := leNat (bmList s.mem w.addr 8)
    let bad := o.words.filter fun w => found w ≠ w.exp.toNat
    ∃ u, exec .mcasLockGrant s = .next u ∧ u.mcas = tblDel (tblUpd s.mcas s.arg.a fun x =>
        { x with held := x.held ++ [l], want := [], first := some (x.first.getD s.clk), arrive := s.nextId }) s.arg.a ∧
      (bad = [] → (∀ w ∈ o.words, ∀ k < 8, bmGet u.mem (w.addr + k) = w.new.extractLsb' (8 * k) 8) ∧
        ∀ b, (∀ w ∈ o.words, b < w.addr ∨ w.addr + 8 ≤ b) → bmGet u.mem b = bmGet s.mem b) ∧
      (bad ≠ [] → u.mem = s.mem) ∧
      ∀ e, tblGet? s.loads o.ret = some e → ∃ e', tblGet? u.loads o.ret = some e' ∧ e'.writes = e.writes ++
        retWrites o.lane o.reg 4 (if bad = [] then 0 else 2 ^ 24 + (bad.map fun w => 2 ^ w.idx).sum)

/-- R210: a grant that is not the last adds the lock and changes no byte; after the window of 2 µs (3600 c-cycles), LOCK_BUSY ends the
operation: nothing is written, and D will receive 0x1C000000. -/
def Sys2Proof.Claims.McasLocks : Prop :=
  (∀ (s : State) (o : Mcas) (l k : Nat) (t : List Nat), tblGet? s.mcas s.arg.a = some o → mcasReady s s.arg.a o = true →
    o.want = l :: k :: t → ∃ u, exec .mcasLockGrant s = .next u ∧ u.mem = s.mem ∧ u.writes = s.writes ∧ SameRegisters s u ∧
      tblGet? u.mcas s.arg.a = some { o with held := o.held ++ [l], want := k :: t, first := some (o.first.getD s.clk), arrive := s.nextId }) ∧
  ∀ (s : State) (o : Mcas) (t : Nat), tblGet? s.mcas s.arg.a = some o → o.first = some t → t + 3600 < s.clk → isRedun s o.warp = false →
    ∃ u, exec .lockBusy s = .next u ∧ u.mcas = tblDel s.mcas s.arg.a ∧ u.mem = s.mem ∧ SameRegisters s u ∧
      ∀ e, tblGet? s.loads o.ret = some e → ∃ e', tblGet? u.loads o.ret = some e' ∧
        e'.writes = e.writes ++ retWrites o.lane o.reg 4 0x1C000000

/-- R200, R205, R220: a load with acquire strength is made at its scope's point; where its page's tag allows it, its core, from hall scope
on, and its die, from package scope on, hold afterwards no copy but of bytes that the instruction itself has loaded. -/
def Sys2Proof.Claims.AcquireLoads : Prop :=
  ∀ (i : Instr) (sc : BitVec 3) (n : Nat), Claims.AcquireLoad i sc n → ∀ (s : State) (g : Group), Claims.Ready s g i →
    Claims.EachActor s g i (fun m x => acqHeld s m = false ∧ farHeld s m (Claims.atomVa x) = false ∧
      atomHeld s m (physOf (pageFor s m (Claims.atomVa x)) (Claims.atomVa x)) n = false ∧
      fillWait s m (Claims.atomVa x) n sc.toNat = none) →
    Claims.EachChecked s g i (fun m x => globalFail s m (Claims.atomVa x) n .load = none) →
    ∃ u, exec i s = .next (retire u) ∧
      Claims.LongIssued s g (actors s g i) (fun w =>
        { writes := regWrites s (shapeOf i).d w ((actors s g i).map fun m =>
            (m, valOf (readGlobal (noted s g i) m (Claims.atomVa (sources s g i m)) n sc.toNat)))
          load := true, part := partOfWarp s w }) u ∧ Claims.MemoryKept s u ∧
      let fresh (b : Nat) : Prop := ∃ x ∈ actors s g i, ∃ k < n,
        b = physOf (pageFor (noted s g i) x (Claims.atomVa (sources s g i x))) (Claims.atomVa (sources s g i x)) + k
      ∀ m ∈ actors s g i, (thrOf s m).helper = false → tagDenies (noted s g i) m (Claims.atomVa (sources s g i m)) = false →
        (2 ≤ sc.toNat → ∀ b, (tblGet? (pcoreAt u (coreOfWarp s m.warp)).copies b).isSome = true → fresh b) ∧
        (4 ≤ sc.toNat → ∀ b, (tblGet? (dieCopies u (pcDie (coreOfWarp s m.warp))) b).isSome = true → fresh b)

/-- R221: a store with release strength puts each actor's bytes on their way; the write of a plain word carries the level of its scope,
below which it does not leave the queue before what it orders. -/
def Sys2Proof.Claims.ReleaseStores : Prop :=
  ∀ (i : Instr) (sc : BitVec 3) (n : Nat), Claims.ReleaseStore i sc n → ∀ (s : State) (g : Group), Claims.Ready s g i →
    Claims.EachActor s g i (fun m _ => acqHeld s m = false) →
    Claims.EachChecked s g i (fun m x => storeFail s m (Claims.atomVa x) n
      (logBefore s i (fun y z => logUnits s y (Claims.atomVa z) n) m) = none) →
    exec i s = .next (retire ((Claims.acts s g i).foldl (fun v e => storeRelease (accessTrace v e.1 (Claims.atomVa e.2) .store 0) e.1
        sc.toNat (Claims.atomVa e.2) (bytesOf e.2.d n) (noted s g i).nextId) (noted s g i))) ∧
      ∀ (v : State) (m : Member) (va ins : Nat) (data : List Byte), (thrOf v m).helper = false → isRedun v m.warp = false →
        detShared v m.warp va = false →
        ∃ w, (storeRelease v m sc.toNat va data ins).writes = v.writes ++ [(v.nextId, w)] ∧ w.level = 0 ∧ w.warp = m.warp ∧
          w.lane = m.lane ∧ w.ins = ins ∧
          w.pcore = coreOfWarp v m.warp ∧ w.addr = physOf (pageFor v m va) va ∧ w.data = data ∧ w.rel = some (min sc.toNat 4) ∧
          (storeRelease v m sc.toNat va data ins).mem = v.mem

/-- R200, R222: a fence completes where nothing that it waits for is outstanding: one with release strength, and any at warp scope, when the
release at its scope is complete; another when the thread's returning atomics and compare-and-swaps are performed; none while the thread's
acquire is pending. It changes no register and no byte; one with acquire strength drops the copies below its scope's point. -/
def Sys2Proof.Claims.FencesComplete : Prop :=
  ∀ (i : Instr) (sc : BitVec 3) (acq rel : Bool), Claims.FenceForm i sc acq rel → ∀ (s : State) (g : Group), Claims.Ready s g i →
    Claims.EachActor s g i (fun m _ => acqHeld s m = false) →
    (rel = true ∨ sc = 0#3 → Claims.EachChecked s g i fun m _ => Claims.Released s m (max 1 sc.toNat)) →
    (rel = false → sc ≠ 0#3 → Claims.EachChecked s g i fun m _ => readsPending s m = false) →
    ∃ u, exec i s = .next (retire u) ∧ u.mem = s.mem ∧ u.writes = s.writes ∧ Claims.SameValues s u ∧
      (acq = true → ∀ m ∈ actors s g i, (thrOf s m).helper = false → Claims.CopiesDropped u (coreOfWarp s m.warp) sc.toNat)

/-- R222: a member whose release is not complete does not pass a fence of release strength: it stands at it, outside the group, with no
trap taken and nothing else done. -/
def Sys2Proof.Claims.FenceWaits : Prop :=
  ∀ (i : Instr) (sc : BitVec 3) (acq : Bool), Claims.FenceForm i sc acq true → ∀ (s : State) (g : Group) (m : Member),
    Claims.Ready s g i → actors s g i = [m] → (thrOf s m).helper = false → present s m.warp m.lane = true →
    releaseDone s m (max 1 (min sc.toNat 4)) (releaseMark s m) = false →
    ∃ u, exec i s = .next (retire u) ∧ (thrOf u m).pc = g.pc ∧ (thrOf u m).pos = g.pos + 1 ∧
      (∃ l n, (thrOf u m).wait = .release l n) ∧ u.mem = s.mem ∧ u.writes = s.writes ∧
      ∀ h, curGroup? u = some h → m ∉ h.mem

/-- R223: `ACQR` waits until every write that the victim's core has taken is merged at its home; then the victim's copies and those of the
member's own core and die are dropped, and nothing else changes. -/
def Sys2Proof.Claims.AcquireRemote : Prop :=
  ∀ (p : BitVec 3) (a : BitVec 7) (s : State) (g : Group), Claims.Ready s g (.acqr p a) →
    Claims.EachActor s g (.acqr p a) (fun m x => acqrWait s m x = none) →
    Claims.EachChecked s g (.acqr p a) (fun m x => acqrFail s m x = none) →
    ∃ u, exec (.acqr p a) s = .next (retire u) ∧ u.mem = (noted s g (.acqr p a)).mem ∧ u.writes = s.writes ∧ Claims.SameValues s u ∧
      Claims.MemoryKept s u ∧
      ∀ m ∈ actors s g (.acqr p a), (thrOf s m).helper = false → ∀ c, acqrVictim s m (sources s g (.acqr p a) m) = some c →
        (pcoreAt u c).copies = [] ∧ Claims.CopiesDropped u (coreOfWarp s m.warp) 5

/-- R224: `CFENCE` discards the constant-path copies, and `IFENCE` the code lines, of the logical core of every actor that is no helper;
memory and registers stay. -/
def Sys2Proof.Claims.CodeAndConstantFences : Prop :=
  (∀ (p : BitVec 3) (s : State) (g : Group), Claims.Ready s g (.cfence p) →
    ∃ u, exec (.cfence p) s = .next (retire u) ∧ u.mem = s.mem ∧ SameRegisters s u ∧
      ∀ k, (tblGet? s.lcores k).isSome = true → lcoreOf u k =
        if ∃ m ∈ actors s g (.cfence p), (thrOf s m).helper = false ∧ (wgOfWarp s m.warp).lcore = k
        then { lcoreOf s k with cons := [] } else lcoreOf s k) ∧
  ∀ (p : BitVec 3) (s : State) (g : Group), Claims.Ready s g (.ifence p) →
    ∃ u, exec (.ifence p) s = .next (retire u) ∧ u.mem = s.mem ∧ SameRegisters s u ∧
      ∀ k, (tblGet? s.lcores k).isSome = true → lcoreOf u k =
        if ∃ m ∈ actors s g (.ifence p), (thrOf s m).helper = false ∧ (wgOfWarp s m.warp).lcore = k
        then { lcoreOf s k with code := [] } else lcoreOf s k

/-- R53, R88, R96, R102: a pending operation with nothing outstanding completes: its register writes land in the lanes that are still there,
and in the uniform registers that no later operation in body order has written, its warp's flag falls by one, and no byte of memory
changes; then its warp and its workgroup are settled, which does nothing while the workgroup has a thread left and no empty warp. -/
def Obligations.ReturnsLand : Prop :=
  (∀ (s : State) (w : Nat), liveThreads s (warpOf s w).wg ≠ [] → (∀ x ∈ (wgOfWarp s w).warps, (warpOf s x).lanes ≠ []) →
    settleWarp s w = s) ∧
  ∀ (s : State) (l : PLoad), tblGet? s.loads s.arg.a = some l → l.waits = [] → isSaved s l.warp = false → l.fp = [] →
    (∀ x ∈ l.writes, x.lane < 64) → (tblGet? s.warps l.warp).isSome = true →
    ∃ u, exec (if l.load then .loadReturn else .longLatencyCompletion) s = .next (settleWarp u l.warp) ∧
      u.loads = tblDel s.loads s.arg.a ∧ u.mem = s.mem ∧ u.writes = s.writes ∧
      (∀ k r, r < 512 → k < 64 → vreg u l.warp k r = Claims.landedIn l.writes (vreg s l.warp k r) fun x =>
        decide (x.reg = r) && decide (x.lane = k) && present s l.warp k) ∧
      (∀ n, ureg u l.warp n = Claims.landedIn l.writes (ureg s l.warp n) fun x =>
        decide (x.reg = 512 + n) && decide (tblGet (warpOf s l.warp).uw n ≤ s.arg.a)) ∧
      (∀ f < 12, bmGet (warpOf u l.warp).fcount f = bmGet (warpOf s l.warp).fcount f - if l.flag = f then 1 else 0) ∧
      ∀ w, w ≠ l.warp → warpOf u w = warpOf s w

/-- R198, R201: a write that may move goes to the next level of its path; no home changes and no register. -/
def Sys2Proof.Claims.WriteMoves : Prop :=
  ∀ (s : State) (w : PWrite), tblGet? s.writes s.arg.a = some w → mayMove s s.arg.a w = true → nextLevel w < 4 →
    ∃ u, exec .writePerformedAtScope s = .next u ∧
      u.writes = tblUpd s.writes s.arg.a (fun x => { x with level := nextLevel w, arr := s.nextId }) ∧ u.mem = s.mem ∧ SameRegisters s u

/-- R201, R203: a write that reaches its home, in memory that is not of the capacity tier and in no lost channel, merges exactly its bytes;
one to a place of the on-chip map, a scratchpad store among them, takes that place, and memory stays; then its warp is settled. -/
def Sys2Proof.Claims.WriteMerges : Prop :=
  ∀ (s : State) (w : PWrite), tblGet? s.writes s.arg.a = some w → mayMove s s.arg.a w = true → nextLevel w = 4 →
    unitProtected s w.addr w.data.length = false →
    (isOnChip (gpLocal w.addr) = false → isCapacity (gpLocal w.addr) = false →
      (∀ k < w.data.length, isCapacity (gpLocal (w.addr + k)) = false ∧ channelLost s (w.addr + k) = false) →
      ∃ u, exec .writeBackMerge s = .next (settleWarp u w.warp) ∧ u.writes = tblDel s.writes s.arg.a ∧ SameRegisters s u ∧
        (∀ k < w.data.length, bmGet u.mem (w.addr + k) = w.data.getD k 0) ∧
        ∀ a, a < w.addr ∨ w.addr + w.data.length ≤ a → bmGet u.mem a = bmGet s.mem a) ∧
    (isOnChip (gpLocal w.addr) = true → ∃ u v, exec .writeBackMerge s = .next (settleWarp (putChipBytes u w.addr w.data) w.warp) ∧
      v = putChipBytes u w.addr w.data ∧ u.writes = tblDel s.writes s.arg.a ∧ u.wgs = s.wgs ∧ u.warps = s.warps ∧
      v.mem = s.mem ∧ v.writes = tblDel s.writes s.arg.a)

/-- R94, R95: a transfer whose targets are clause headers gives each member that takes it its target, which the clause end follows; a
`CALL` writes the address of the clause behind it to D; nothing else changes, and a member whose vote fails falls through. -/
def Sys2Proof.Claims.Transfers : Prop :=
  ∀ (i : Instr) (target : Group → List (Member × Src) → Member → Src → Option Pair), Claims.Transfer i target →
    ∀ (s : State) (g : Group), Claims.Ready s g i →
    Claims.EachActor s g i (fun m x => ∀ t, target g (Claims.acts s g i) m x = some t → targetFail (noted s g i) m.warp t = none) →
    ∃ u, exec i s = .next (retire u) ∧
      u.groups = tblUpd s.groups s.cur (fun h => { h with taken := Claims.takenBy (target g (Claims.acts s g i)) (Claims.acts s g i) h.taken }) ∧
      Claims.Received s i (actors s g i) (fun _ => (fallThrough g).setWidth 128) u ∧ Claims.MemoryKept s u

/-- R62, R95: where the one actor's target is no clause header, the actor stands at the transfer again, outside the group, and its warp
traps there with BAD_TARGET. -/
def Sys2Proof.Claims.BadTargetTraps : Prop :=
  ∀ (i : Instr) (target : Group → List (Member × Src) → Member → Src → Option Pair), Claims.Transfer i target →
    ∀ (s : State) (g : Group) (m : Member) (t : Pair) (ws : List Word), Claims.Ready s g i → actors s g i = [m] →
    (thrOf s m).helper = false → target g (Claims.acts s g i) m (sources s g i m) = some t →
    fetchLine (noted s g i) m.warp t.toNat = .ok ws → isHeader ws t.toNat = false →
    let v := dropMembers (standBefore (updGroup (fetchTrace (noted s g i) m.warp t.toNat) s.cur fun h => h) g m) fun n => n == m
    exec i s = .next (retire (takeTrap v { warp := m.warp, cause := .badTarget, lane := m.lane, addr := t.toNat } g.pc (g.pos + 1)))

/-- R96 to R99: `EXIT` ends its actors at the clause end; `CONV` itself does nothing; a prefix hands its
patterns to the next instruction. -/
def Sys2Proof.Claims.ClauseControl : Prop :=
  (∀ (p : BitVec 3) (s : State) (g : Group), Claims.Ready s g (.exitT p) → exec (.exitT p) s = .next (retire
    (updGroup (noted s g (.exitT p)) s.cur fun h => { h with ended := h.ended ++ (actors s g (.exitT p)).map fun m => m.lane }))) ∧
  (∀ (s : State) (g : Group), Claims.Ready s g .convW → exec .convW s = .next (retire (noted s g .convW))) ∧
  ∀ (a b : BitVec 9) (s : State) (g : Group), curGroup? s = some g → g.mem ≠ [] → g.pos + 1 < groupInstrs g →
    ∃ u, exec (.permutationPrefix a b) s = .next u ∧ curGroup? u = some { g with pos := g.pos + 1, patA := a, patB := b } ∧
      { u with groups := s.groups } = s

/-- R99: `WBASE` gives each represented warp the value of its lowest active member that is no helper, a multiple of 32 below the tiles;
any other value traps that warp with WINDOW_RANGE before any effect. -/
def Sys2Proof.Claims.WindowBase : Prop :=
  (∀ (p : BitVec 3) (a : BitVec 7) (s : State) (g : Group), Claims.Ready s g (.wbase p a) →
    Claims.EachChecked s g (.wbase p a) (fun m x => leadOf s (actors s g (.wbase p a)) m.warp = some m →
      (lo32 x.a).toNat % 32 = 0 ∧ (lo32 x.a).toNat < (warpOf s m.warp).nv - 4 * (warpOf s m.warp).nt) →
    ∃ u, exec (.wbase p a) s = .next (retire u) ∧ (∀ w, (tblGet? s.warps w).isSome = true → (warpOf u w).wbase =
      match leadOf s (actors s g (.wbase p a)) w with
      | some m => (lo32 (sources s g (.wbase p a) m).a).toNat
      | none => (warpOf s w).wbase) ∧ SameRegisters s u ∧ Claims.MemoryKept s u) ∧
  ∀ (p : BitVec 3) (a : BitVec 7) (s : State) (g : Group) (m : Member), Claims.Ready s g (.wbase p a) → actors s g (.wbase p a) = [m] →
    (thrOf s m).helper = false → ¬ ((lo32 (sources s g (.wbase p a) m).a).toNat % 32 = 0 ∧
      (lo32 (sources s g (.wbase p a) m).a).toNat < (warpOf s m.warp).nv - 4 * (warpOf s m.warp).nt) →
    ∃ fs, exec (.wbase p a) s = .next (trapBefore s g [m] fs) ∧ groupTraps s [m] fs =
      [{ warp := m.warp, cause := .windowRange, lane := m.lane, info := (lo32 (sources s g (.wbase p a) m).a).toNat,
         write := decide ((lo32 (sources s g (.wbase p a) m).a).toNat = 256) }]

/-- R285 to R287: `BARA`, `BARW` and `BAR` complete where no arrival waits for its release or is refused as the lower ones leave the barrier;
an arrival counts in its workgroup's barrier, and the arrival that completes the phase opens the next one. The one arrival is refused
whose count is above 1,024, or not 0 at b0, or differs from that of the open phase, or whose thread has arrived in it. -/
def Sys2Proof.Claims.WorkgroupBarriers : Prop :=
  (∀ (p : BitVec 3) (d a : BitVec 7) (s : State) (g : Group), let i := Instr.bara p d a
    Claims.Ready s g i → Claims.EachActor s g i (fun m _ => releaseWait s m 1 = none) →
    arriveFails (d.toNat % 16) (fun y => (lo32 (sources s g i y).a).toNat) (actors s g i) s = none →
    exec i s = .next (retire ((Claims.acts s g i).foldl (fun v e => arriveStep (d.toNat % 16) (fun _ => (lo32 e.2.a).toNat) v e.1)
      (clearWaits (noted s g i) (actors s g i))))) ∧
  (∀ (p : BitVec 3) (d : BitVec 7) (s : State) (g : Group), let i := Instr.barw p d
    Claims.Ready s g i → exec i s = .next (retire (waitOn (clearWaits (noted s g i) (actors s g i)) g (d.toNat % 16) (actors s g i)))) ∧
  (∀ (p : BitVec 3) (s : State) (g : Group), let i := Instr.bar p
    Claims.Ready s g i → Claims.EachActor s g i (fun m _ => pendingAt s m 0 = none → releaseWait s m 1 = none) →
    let ms := (actors s g i).filter fun m => (pendingAt s m 0).isNone
    arriveFails 0 (fun _ => 0) ms s = none →
    exec i s = .next (retire (waitOn (ms.foldl (arriveStep 0 fun _ => 0) (clearWaits (noted s g i) (actors s g i)))
      g 0 (actors s g i)))) ∧
  (∀ (s : State) (k n : Nat) (m : Member), (thrOf s m).helper = false →
    (arriveFails k (fun _ => n) [m] s = none ↔ n ≤ 1024 ∧ (k = 0 → n = 0) ∧ pendingAt s m k ≠ some (barOf s m k).phase ∧
      ((barOf s m k).count = 0 ∧ (barOf s m k).arrived = [] ∨ n = (barOf s m k).expect))) ∧
  ∀ (s : State) (k n : Nat) (m : Member), (tblGet? s.wgs (warpOf s m.warp).wg).isSome = true →
    let b := Claims.arrived (barOf s m k) (threadNo s m) n (thrOf s m).helper
    let u := arriveAt s k n m
    (Claims.Complete s (warpOf s m.warp).wg b →
      barOf u m k = { b with count := 0, arrived := [], phase := (b.phase + 1) % 2 ^ 64 }) ∧
    (¬ Claims.Complete s (warpOf s m.warp).wg b → barOf u m k = b) ∧ { u with wgs := s.wgs } = s

/-- R287, R288: a member waits at a barrier while the phase of its pending arrival is open: it leaves the group and stands at the
instruction; once the phase is over its arrival is no longer pending and it goes on. -/
def Sys2Proof.Claims.BarrierWait : Prop :=
  ∀ (s : State) (g : Group) (k p : Nat) (m : Member), curGroup? s = some g → present s m.warp m.lane = true →
    (tblGet? s.wgs (warpOf s m.warp).wg).isSome = true → pendingAt s m k = some p →
    ((barOf s m k).phase ≤ p → let u := waitOn s g k [m]
      (thrOf u m).wait = .barrier k p ∧ (thrOf u m).pc = g.pc ∧ (thrOf u m).pos = g.pos + 1 ∧ u.wgs = s.wgs ∧
        ∃ h, curGroup? u = some h ∧ h.mem = g.mem.filter fun n => !(m == n)) ∧
    (p < (barOf s m k).phase → let u := waitOn s g k [m]
      pendingAt u m k = none ∧ u.warps = s.warps ∧ ∃ h, curGroup? u = some h ∧ h.mem = g.mem)

/-- R289 to R291: `MARRIVE` sends one arrival for each actor that is no helper, which waits after the instruction; performed, it adds one
to COUNT, or, where EXPECT is reached, clears COUNT and steps PHASE, and returns the PHASE before. `MWAIT` goes on where PHASE differs, and
acquires at the object's SCOPE. -/
def Sys2Proof.Claims.BarrierObjects : Prop :=
  (∀ (p : BitVec 3) (d a : BitVec 7) (s : State) (g : Group), let i := Instr.marrive p d a
    Claims.Ready s g i → Claims.EachActor s g i (fun m x => acqHeld s m = false ∧ serialWait s m (Claims.atomVa x) = none) →
    Claims.EachChecked s g i (fun m x => objFail .store s m (Claims.atomVa x) = none ∧
      logFail s m (Claims.atomVa x) (logBefore s i (fun y z => logUnits s y (Claims.atomVa z) 16) m)
        (logUnits s m (Claims.atomVa x) 16) = none) →
    exec i s = .next (retire ((Claims.acts s g i).foldl
      (fun v e => issueArrive g d (noted s g i).nextId (actors s g i) v e.1 e.2) (noted s g i)))) ∧
  (∀ (g : Group) (d : BitVec 7) (ins : Nat) (ms : List Member) (v : State) (m : Member) (x : Src), (thrOf v m).helper = false →
    isRedun v m.warp = false → detShared v m.warp (Claims.atomVa x) = false → present v m.warp m.lane = true →
    g.ended.contains m.lane = false →
    let u := issueArrive g d ins ms v m x
    (∃ n a, u.atoms = v.atoms ++ [(n, a)] ∧ a.kind = 2 ∧ a.warp = m.warp ∧ a.lane = m.lane ∧
      a.addr = physOf (pageFor (accessTrace (quietReturn v m.warp) m (Claims.atomVa x) .store 0) m (Claims.atomVa x)) (Claims.atomVa x) ∧
      a.ret = some v.nextId) ∧ (thrOf u m).wait = .returned v.nextId) ∧
  (∀ (s : State) (a : Atom), tblGet? s.atoms s.arg.a = some a → atomReady s s.arg.a a = true → a.kind = 2 → a.size = 32 →
    a.addr % 32 = 0 → poisoned s a.addr 32 = false → isCapacity (gpLocal a.addr) = false → isRedun s a.warp = false →
    let expect := leNat (bmList s.mem a.addr 4)
    let count := leNat (bmList s.mem (a.addr + 4) 4)
    let phase := leNat (bmList s.mem (a.addr + 8) 8)
    ∃ u, exec .atomicPerform s = .next u ∧
      leNat (bmList u.mem (a.addr + 4) 4) = (if expect ≤ count + 1 then 0 else count + 1) ∧
      leNat (bmList u.mem (a.addr + 8) 8) = (if expect ≤ count + 1 then (phase + 1) % 2 ^ 64 else phase) ∧
      (∀ b, b < a.addr + 4 ∨ a.addr + 16 ≤ b → bmGet u.mem b = bmGet s.mem b) ∧
      ∀ l, a.ret = some l → ∀ e, tblGet? s.loads l = some e → ∃ e', tblGet? u.loads l = some e' ∧
        e'.writes = e.writes ++ retWrites a.lane a.reg 8 phase) ∧
  ∀ (p : BitVec 3) (d a : BitVec 7) (s : State) (g : Group), let i := Instr.mwait p d a
    Claims.Ready s g i →
    Claims.EachChecked s g i (fun m x => objFail .load s m (Claims.atomVa x) = none) →
    Claims.EachActor s g i (fun m x => objFail .load s m (Claims.atomVa x) = none →
      blockWait s m ((List.range 3).map fun k => Claims.atomVa x + 8 * k) = none ∧ objPhase s m (Claims.atomVa x) ≠ (lo64 x.d).toNat) →
    ∃ u, exec i s = .next (retire u) ∧ Claims.SameValues s u ∧ Claims.MemoryKept s u ∧
      ∀ m ∈ actors s g i, (thrOf s m).helper = false →
        Claims.CopiesDropped u (coreOfWarp s m.warp) (objScope (noted s g i) m (Claims.atomVa (sources s g i m)))

/-- R263, R283, R294: `SLEEP` goes on where its count is 0, and where the member's sleep has expired; a count n sends the one actor away
until 3 min(n, 2^24) c-cycles have passed;
expiry, and a retest of any wait whose condition holds, make the thread ready and change nothing else. -/
def Sys2Proof.Claims.SleepAndRetest : Prop :=
  (∀ (p : BitVec 3) (a : BitVec 7) (s : State) (g : Group), let i := Instr.sleepT p a
    Claims.Ready s g i → Claims.EachActor s g i (fun m x => (lo32 x.a).toNat = 0 ∧ (thrOf s m).wait = .none ∨
      ∃ c, (thrOf s m).wait = .sleep c ∧ (thrOf s m).ready = true) →
    exec i s = .next (retire (clearWaits (noted s g i) (actors s g i)))) ∧
  (∀ (p : BitVec 3) (a : BitVec 7) (s : State) (g : Group) (m : Member), let i := Instr.sleepT p a
    Claims.Ready s g i → actors s g i = [m] → present s m.warp m.lane = true → (thrOf s m).wait = .none →
    0 < (lo32 (sources s g i m).a).toNat →
    ∃ u, exec i s = .next (retire u) ∧ (thrOf u m).wait = .sleep (s.clk + 3 * min (lo32 (sources s g i m).a).toNat (2 ^ 24)) ∧
      (thrOf u m).pos = g.pos + 1 ∧ u.mem = s.mem) ∧
  (∀ (s : State) (t : Thread) (c : Nat), tblGet? (warpOf s s.arg.a).lanes s.arg.b = some t → t.wait = .sleep c → c ≤ s.clk →
    t.ready = false → t.stopped = false → (warpOf s s.arg.a).halted = false →
    exec .sleepExpiry s = .next (updThr s ⟨s.arg.b, s.arg.a⟩ fun t => { t with ready := true })) ∧
  ∀ (s : State) (t : Thread), tblGet? (warpOf s s.arg.a).lanes s.arg.b = some t → t.wait ≠ .none → t.ready = false →
    t.stopped = false → (warpOf s s.arg.a).trapped = false → (warpOf s s.arg.a).halted = false → waitOver s ⟨s.arg.b, s.arg.a⟩ = true →
    exec .deferredMemberRetest s = .next (updThr s ⟨s.arg.b, s.arg.a⟩ fun t => { t with ready := true })

/-- R292, R293: the full/empty loads and stores answer with the members that the words let pass, and defer the others; one actor takes a
full word (and leaves it empty, or as it is), or fills an empty one, and waits at the instruction otherwise. -/
def Sys2Proof.Claims.FullEmptyWords : Prop :=
  (∀ (i : Instr) (need : Bool) (leave : Option Bool), Claims.FullLoad i need leave → ∀ (s : State) (g : Group), Claims.Ready s g i →
    Claims.EachActor s g i (fun m _ => acqHeld s m = false) →
    Claims.EachChecked s g i (fun m x => scrLoadFail s m (lo32 x.a).toNat 4 = none) →
    let r := takeWords need leave (Claims.acts s g i) (clearWaits (noted s g i) (actors s g i))
    exec i s = .next (retire (deferMembers (issueLong r.1 g (r.2.1.map (·.1)) fun w =>
      { writes := regWrites (noted s g i) (shapeOf i).d w r.2.1, load := true, part := partOfWarp (noted s g i) w,
        acq := (r.2.1.filter fun e => e.1.warp == w && !(thrOf (noted s g i) e.1).helper).map fun e => e.1.lane }) g r.2.2))) ∧
  (∀ (need : Bool) (leave : Option Bool) (s : State) (m : Member) (x : Src), (thrOf s m).helper = false →
    takeWords need leave [(m, x)] s =
      if need = true ∧ wordFull s m (lo32 x.a).toNat = false then (s, [], [(m, .word (lo32 x.a).toNat true)])
      else (match leave with
        | some b => setFull s m (lo32 x.a).toNat b
        | none => s, [(m, scrRead s m (lo32 x.a).toNat 4)], [])) ∧
  (∀ (i : Instr) (need : Bool), Claims.FullStore i need → ∀ (s : State) (g : Group), Claims.Ready s g i →
    Claims.EachActor s g i (fun m _ => acqHeld s m = false ∧ (pastCompare s m = false → releaseWait s m 1 = none)) →
    Claims.EachChecked s g i (fun m x => scrFail s m (lo32 x.a).toNat 4 = none) →
    let r := putWords need (Claims.acts s g i) (clearWaits (noted s g i) (actors s g i))
    exec i s = .next (retire (deferMembers r.1 g r.2))) ∧
  ∀ (need : Bool) (s : State) (m : Member) (x : Src), (thrOf s m).helper = false →
    (tblGet? s.wgs (warpOf s m.warp).wg).isSome = true → (lo32 x.a).toNat % 4 = 0 →
    let o := (lo32 x.a).toNat
    let r := putWords need [(m, x)] s
    (need = true → wordFull s m o = true → r = (s, [(m, .word o false)])) ∧
    (need = false ∨ wordFull s m o = false → r.2 = [] ∧ wordFull r.1 m o = true ∧
      (∀ k < 4, bmGet (wgOfWarp r.1 m.warp).scr (o + k) = x.d.extractLsb' (8 * k) 8) ∧
      (∀ b, b < o ∨ o + 4 ≤ b → bmGet (wgOfWarp r.1 m.warp).scr b = bmGet (wgOfWarp s m.warp).scr b) ∧
      { r.1 with wgs := s.wgs } = s)

/-- R165: `TSHAPE` gives each represented warp the granted shape, which its actors receive in D. -/
def Sys2Proof.Claims.ShapeGranted : Prop :=
  ∀ (p : BitVec 3) (d a : BitVec 7) (s : State) (g : Group), let i := Instr.tshape p d a
    Claims.Ready s g i →
    ∃ u, exec i s = .next (retire u) ∧
      (∀ w, (tblGet? s.warps w).isSome = true → (warpOf u w).shape =
        match leadOf s (actors s g i) w with
        | some m => Claims.grantedShape (lo32 (sources s g i m).a)
        | none => (warpOf s w).shape) ∧
      Claims.Received s i (Claims.ledActors s g i)
        (fun m => (Claims.grantedShape (lo32 (Claims.ledSource s g i m).a)).setWidth 128) u ∧ Claims.MemoryKept s u

/-- R164, R178: `TMOV` copies the 1,024 bytes of a tile, none of whose words is poisoned, into the operand buffer, or back, row after row; it
answers with that one effect for each warp. -/
def Sys2Proof.Claims.TileMove : Prop :=
  (∀ (p : BitVec 3) (d a : BitVec 7) (s : State) (g : Group), let i := Instr.tmov p d a
    Claims.Ready s g i → Claims.EachLead s g i (fun m x => d.toNat % 8 < (warpOf s m.warp).nt ∧ (lo32 x.a).toNat % 64 = 0 ∧
      (lo32 x.a).toNat + 1024 ≤ (khdrOfWarp s m.warp).opbanks * 4096 ∧
      (d.toNat / 8 % 2 = 1 → ∀ b ∈ (warpOf s m.warp).bad, let r := topReg (warpOf s m.warp) + 4 * (d.toNat % 8)
        b / 64 < r ∨ r + 4 ≤ b / 64)) →
    exec i s = .next (retire (Claims.perWarp s g i fun v _ m x =>
      if d.toNat / 8 % 2 = 1 then setOpb v (warpOf v m.warp).wg (lo32 x.a).toNat (tileBytes (warpOf v m.warp) (d.toNat % 8))
      else setTile v m.warp (d.toNat % 8) (bmList (wgOfWarp v m.warp).opb (lo32 x.a).toNat 1024)))) ∧
  (∀ (s : State) (w k : Nat) (img : List Byte), (tblGet? s.warps w).isSome = true → img.length = 1024 →
    (∀ n < 1024, (tileBytes (warpOf (setTile s w k img) w) k).getD n 0 = img.getD n 0) ∧
      ∀ l r, l < 64 → (r < topReg (warpOf s w) + 4 * k ∨ topReg (warpOf s w) + 4 * k + 4 ≤ r) → vreg (setTile s w k img) w l r = vreg s w l r) ∧
  ∀ (s : State) (h off : Nat) (img : List Byte), (tblGet? s.wgs h).isSome = true →
    (∀ n < img.length, bmGet (wgOf (setOpb s h off img) h).opb (off + n) = img.getD n 0) ∧
      ∀ n, n < off ∨ off + img.length ≤ n → bmGet (wgOf (setOpb s h off img) h).opb n = bmGet (wgOf s h).opb n

/-- R53, R168, R170: a matrix multiplication, a tile load and a tile store that pass their checks enter one operation for each represented
warp, with its control word, its place and the shape as granted; the warp's flag rises. -/
def Sys2Proof.Claims.MatrixIssues : Prop :=
  (∀ (i : Instr) (form : Nat) (d : BitVec 7), Claims.MatrixForm i form d → ∀ (s : State) (g : Group), Claims.Ready s g i →
    Claims.EachLead s g i (fun m x => mmaFail form d s m x = none) →
    exec i s = .next (retire (Claims.perWarp s g i fun v act m x => issueMat v g act m
      { form := form, dsel := d.toNat, ctl := lo32 x.a, bpair := lo64 x.b, num := (Claims.namedRecord (warpOf s m.warp) d).getD 0,
        trec := match Claims.namedRecord (warpOf s m.warp) d with
          | some n => (recOf? v m.warp n).getD 0
          | none => 0
        nfA := nfmtOf (warpOf s m.warp) ((lo32 x.a).toNat / 2 ^ 20 % 4), nfB := nfmtOf (warpOf s m.warp) ((lo32 x.a).toNat / 2 ^ 18 % 4)
        hold := (reach? v (warpOf s m.warp).wg (ctlBank (lo32 x.a))).getD 0 }))) ∧
  (∀ (p : BitVec 3) (d a b : BitVec 7) (s : State) (g : Group), let i := Instr.tld p d a b
    Claims.Ready s g i → Claims.EachLead s g i (fun m x => acqHeld s m = false ∧
      tileAllFail false (d.toNat % 8) (recSel (warpOf s m.warp) b) (x.a.extractLsb' 0 32).toInt (x.a.extractLsb' 32 32).toInt s m = none) →
    exec i s = .next (retire (Claims.perWarp s g i fun v act m x =>
      let u := issueMat v g act m { kind := 1, dsel := d.toNat % 8, bpair := lo64 x.a, num := recSel (warpOf s m.warp) b,
                                    trec := (recOf? v m.warp (recSel (warpOf s m.warp) b)).getD 0 }
      if matReady u v.nextId then tileStep u v.nextId else u))) ∧
  (∀ (p : BitVec 3) (d a b : BitVec 7) (s : State) (g : Group), let i := Instr.tst p d a b
    Claims.Ready s g i → Claims.EachLead s g i (fun m x => acqHeld s m = false ∧
      tileAllFail true (d.toNat % 8) (recSel (warpOf s m.warp) b) (x.a.extractLsb' 0 32).toInt (x.a.extractLsb' 32 32).toInt s m = none) →
    exec i s = .next (retire (Claims.perWarp s g i fun v act m x =>
      let u := issueMat v g act m { kind := 2, dsel := d.toNat % 8, bpair := lo64 x.a, num := recSel (warpOf s m.warp) b,
                                    trec := (recOf? v m.warp (recSel (warpOf s m.warp) b)).getD 0 }
      if matReady u v.nextId then tileStep u v.nextId else u))) ∧
  ∀ (s : State) (g : Group) (act : List Member) (m : Member) (o : MatOp), (tblGet? s.warps m.warp).isSome = true →
    let u := issueMat s g act m o
    (∃ e, u.mats = s.mats ++ [(s.nextId, e)] ∧ e.form = o.form ∧ e.ctl = o.ctl ∧ e.bpair = o.bpair ∧ e.dsel = o.dsel ∧
      e.trec = o.trec ∧ e.nfA = o.nfA ∧ e.nfB = o.nfB ∧ e.hold = o.hold ∧ e.warp = m.warp ∧ e.shape = (warpOf s m.warp).shape ∧
      e.ident = (warpOf s m.warp).ident ∧ e.pc = g.pc ∧ e.pos = g.pos + 1 ∧
      e.flag = groupFlag g ∧ e.members = (act.filter fun m => !(thrOf s m).helper).map (·.lane)) ∧ u.mem = s.mem ∧ SameRegisters s u ∧
    (groupFlag g < 12 → bmGet (warpOf u m.warp).fcount (groupFlag g) = bmGet (warpOf s m.warp).fcount (groupFlag g) + 1)

/-- R167, R171 to R173, R180: one k-group of a multiplication whose B lies in the operand buffer, without stochastic rounding, adds to every
element of its block of the bank that its issue reached, be that released since or not, the exact sum of its products, of the image words
as it has read them, rounded once; every other element of the bank, and memory, stay. -/
def Sys2Proof.Claims.MatrixKGroup : Prop :=
  ∀ (s : State) (o : MatOp), tblGet? s.mats s.arg.a = some o → matReady s s.arg.a = true → matMates s s.arg.a = [s.arg.a] →
    o.kind = 0 → o.dsel % 128 = 127 → o.again = false → ctlAcf o.ctl = false →
    (tblGet? (wgOf s o.hold).banks (ctlBank o.ctl)).isSome = true → ctlCol o.ctl + shN o.shape ≤ 128 → o.g + 1 < shK o.shape / 4 →
    let r := readImgs s s.arg.a o
    ∃ u, exec .mmaKgroup s = .next u ∧ u.mem = s.mem ∧ (matOf u s.arg.a).g = o.g + 1 ∧ (matOf u s.arg.a).img = r.img ∧
      (∀ i < 16, ∀ j < shN o.shape, accGet u o.hold (ctlBank o.ctl) (i * 128 + (ctlCol o.ctl + j)) =
        Claims.kgroupSum ((aOps s r i).map fun e => (e.2, bFromBuf s r (4 * o.g + e.1) j))
          (accGet s o.hold (ctlBank o.ctl) (i * 128 + (ctlCol o.ctl + j)))) ∧
      ∀ i c, c < 128 → (16 ≤ i ∨ c < ctlCol o.ctl ∨ ctlCol o.ctl + shN o.shape ≤ c) →
        accGet u o.hold (ctlBank o.ctl) (i * 128 + c) = accGet s o.hold (ctlBank o.ctl) (i * 128 + c)

/-- R41, R180, R183: `ACALLOC`, where the bank that it is granted is not still being released (log 28), gives the warp's holder a bank whose
words are zero and its actors the bank's number, or 0xFFFFFFFF where none is granted; `ACFREE` gives a held bank up, at once or when the
operations on it are over; `ACQRY` reads masks and the shape. -/
def Sys2Proof.Claims.BankHolding : Prop :=
  (∀ (p : BitVec 3) (d a : BitVec 7) (s : State) (g : Group), let i := Instr.acalloc p d a
    Claims.Ready s g i → Claims.EachLead s g i (fun m x => grantWait s (warpOf s m.warp).wg ((lo32 x.a).toNat % 64) = none) →
    exec i s = .next (retire (Claims.perWarp s g i fun v act m x =>
      match grantBank v (warpOf v m.warp).wg ((lo32 x.a).toNat % 64) with
      | none => spreadD v i act 0xFFFFFFFF
      | some b => spreadD (if (tblGet? (wgOfWarp v m.warp).banks b).isSome then v
          else updWg v (warpOf v m.warp).wg fun w =>
            { w with banks := tblSet w.banks b { phys := (tblGet? w.rset b).getD 0, data := [], gens := [], freed := false } })
          i act (BitVec.ofNat 128 b)))) ∧
  (∀ (p : BitVec 3) (a : BitVec 7) (s : State) (g : Group), let i := Instr.acfree p a
    Claims.Ready s g i → exec i s = .next (retire (Claims.perWarp s g i fun v _ m x =>
      if holds v (warpOf v m.warp).wg (Claims.namedBank x) = false then v
      else if bankInUse v (warpOf v m.warp).wg (Claims.namedBank x) then updWg v (warpOf v m.warp).wg fun w =>
        { w with banks := tblUpd w.banks (Claims.namedBank x) fun k => { k with freed := true } }
      else updWg v (warpOf v m.warp).wg fun w => { w with banks := tblDel w.banks (Claims.namedBank x) }))) ∧
  (∀ (s : State) (k : Bank), tblGet? (wgOf s s.arg.a).banks s.arg.b = some k → k.freed = true →
    (∀ e ∈ s.mats, ¬ (e.2.kind = 0 ∧ ctlBank e.2.ctl = s.arg.b ∧ e.2.hold = s.arg.a)) →
    exec .acfreeRelease s = .next (updWg s s.arg.a fun w => { w with banks := tblDel w.banks s.arg.b })) ∧
  ∀ (p : BitVec 3) (d a : BitVec 7) (s : State) (g : Group), let i := Instr.acqry p d a
    Claims.Ready s g i → ∃ u, exec i s = .next (retire u) ∧
      Claims.Received s i (Claims.ledActors s g i)
        (fun m => (acqryVal s m ((lo32 (Claims.ledSource s g i m).a).toNat % 4)).setWidth 128) u ∧ Claims.MemoryKept s u

/-- R179, R181: `ACRD` is pending with the element of each actor's index, zero and ACUR where its bank is not reached; `ACWR` writes each
actor's word to its element, in lane order, and is pending; no other element changes, no byte of memory and no register. -/
def Sys2Proof.Claims.AccumulatorElements : Prop :=
  (∀ (p : BitVec 3) (d a : BitVec 7) (s : State) (g : Group), let i := Instr.acrd p d a
    Claims.Ready s g i → Claims.EachActor s g i (fun m x => bankBusy s m.warp (Claims.elemBank x) = false) →
    ∃ u, exec i s = .next (retire u) ∧
      Claims.LongIssued s g (actors s g i) (fun w =>
        { writes := regWrites s (shapeOf i).d w ((actors s g i).map fun m =>
            (m, ((match Claims.reached s m.warp (Claims.elemBank (sources s g i m)) with
              | some h => accGet s h (Claims.elemBank (sources s g i m)) (Claims.elemWord (sources s g i m))
              | none => 0).setWidth 128)))
          fp := ((actors s g i).filter fun m => m.warp == w &&
            (Claims.reached s m.warp (Claims.elemBank (sources s g i m))).isNone).map fun m => (m.lane, fpACUR)
          load := false, part := partOfWarp s w }) u ∧ u.wgs = s.wgs ∧ Claims.MemoryKept s u) ∧
  ∀ (p : BitVec 3) (d a : BitVec 7) (s : State) (g : Group), let i := Instr.acwr p d a
    Claims.Ready s g i → Claims.EachActor s g i (fun m x => bankBusy s m.warp (Claims.elemBank x) = false) →
    Claims.EachChecked s g i (fun m x => (Claims.reached s m.warp (Claims.elemBank x)).isSome = true) →
    ∃ u, exec i s = .next (retire u) ∧
      (∀ h b e, (tblGet? (wgOf s h).banks b).isSome = true → accGet u h b e = (actors s g i).foldl (fun v m =>
        if (thrOf s m).helper = false ∧ Claims.reached s m.warp (Claims.elemBank (sources s g i m)) = some h ∧
          Claims.elemBank (sources s g i m) = b ∧ Claims.elemWord (sources s g i m) = e
        then lo32 (sources s g i m).d else v) (accGet s h b e)) ∧ SameRegisters s u ∧ Claims.MemoryKept s u ∧
      u.loads.length = s.loads.length + (warpsIn (actors s g i)).length

/-- R173, R182, R183: `ACZERO` clears the data of a bank, `ACSEED` sets its 128 generator words, and `ACCVT` converts a block of it into a
tile or the operand buffer, its pending completion keeping the words that stood there; each makes that one effect for each represented
warp. -/
def Sys2Proof.Claims.BankContents : Prop :=
  (∀ (p : BitVec 3) (a : BitVec 7) (s : State) (g : Group), let i := Instr.aczero p a
    Claims.Ready s g i → Claims.EachLead s g i (fun m x => bankBusy s m.warp (Claims.namedBank x) = false ∧
      (Claims.reached s m.warp (Claims.namedBank x)).isSome = true) →
    exec i s = .next (retire (Claims.perWarp s g i fun v act m x =>
      match Claims.reached v m.warp (Claims.namedBank x) with
      | none => v
      | some h => accReturn (updWg v h fun w => { w with banks := tblUpd w.banks (Claims.namedBank x) fun k => { k with data := [] } })
          g act (fun _ => []) fun _ => []))) ∧
  (∀ (p : BitVec 3) (d a : BitVec 7) (s : State) (g : Group), let i := Instr.acseed p d a
    Claims.Ready s g i → Claims.EachLead s g i (fun m x => bankBusy s m.warp (Claims.namedBank x) = false ∧
      (Claims.reached s m.warp (Claims.namedBank x)).isSome = true) →
    exec i s = .next (retire (Claims.perWarp s g i fun v _ m x =>
      match Claims.reached v m.warp (Claims.namedBank x) with
      | none => v
      | some h => updWg v h fun w => { w with banks := tblUpd w.banks (Claims.namedBank x) fun k => { k with
          gens := bmSetAll k.gens ((List.range 128).map fun c => (c, lo32 x.d + BitVec.ofNat 32 (c * 0x9E3779B9))) } }))) ∧
  ∀ (p : BitVec 3) (d a : BitVec 7) (s : State) (g : Group), let i := Instr.accvt p d a
    Claims.Ready s g i → Claims.EachLead s g i (fun m x => bankBusy s m.warp (Claims.namedBank x) = false ∧ accvtFail d s m x = none) →
    exec i s = .next (retire (Claims.perWarp s g i fun v act m x =>
      let f := accvtFmt d x
      let h := Claims.reached v m.warp (Claims.namedBank x)
      let r := accvtImage f.1 f.2 (decide (d.toNat / 64 = 1)) (cvtCol x)
        (match h with | some h => tblGet (wgOf v h).banks (Claims.namedBank x) | none => {})
      let u := match h with
        | some h => updWg v h fun w => { w with banks := tblUpd w.banks (Claims.namedBank x) fun _ => r.1 }
        | none => v
      let t := if d.toNat / 8 % 2 = 1 then setOpb u (warpOf v m.warp).wg (cvtOff x) r.2.1 else setTile u m.warp (d.toNat % 8) r.2.1
      let fl := if h.isNone then r.2.2 ||| fpACUR else r.2.2
      accReturn t g act (fun _ => []) (fun _ => act.map fun m => (m.lane, fl))
        (if d.toNat / 8 % 2 = 1 then opbWords (wgOfWarp v m.warp) (cvtOff x) 256 else tileWords (warpOf s m.warp) (d.toNat % 8))))

/-- R237, R240: an engine command that passes its checks receives the next number of its counter, which every actor's D takes, and enters
its engine with the block as it was read; each represented warp has an operation pending on it. -/
def Sys2Proof.Claims.EngineCommands : Prop :=
  ∀ (i : Instr) (cmd : Nat), Claims.Command i cmd → ∀ (s : State) (g : Group) (m : Member), Claims.ReadyOnce s g i m →
    blockWait s m ((List.range 8).map fun k => ((lo64 (sources s g i m).a).toNat + 8 * k) % 2 ^ 64) = none →
    cmdFail cmd s m (sources s g i m) = none → (tblGet? s.ctxs (warpOf s m.warp).ctx).isSome = true →
    let b := cmdBlock (notedOnce s g i m) m (sources s g i m)
    let k := bNat b 0 8 % 16
    let n := (timelineOf s (warpOf s m.warp).ctx k).mark + 1
    ∃ u o, exec i s = .next (retire u) ∧ u.ops = s.ops ++ [(s.nextId, o)] ∧ o.cmd = cmd ∧ o.num = n ∧ o.ctr = k ∧
      o.cscope = bNat b 0 8 / 16 % 8 ∧ o.block = b ∧ o.progress = 0 ∧ o.ended = false ∧ o.warp = m.warp ∧ o.lane = m.lane ∧
      Claims.Numbered s u (warpOf s m.warp).ctx k ∧ Claims.Received s i (actors s g i) (fun _ => BitVec.ofNat 128 n) u ∧
      u.loads.length = s.loads.length + (warpsIn (actors s g i)).length ∧ Claims.MemoryKept s u

/-- R237, R250: `TUNBIND` of a record, a counter and a scope of package or wider receives the next number of the counter and enters its
engine for that record. -/
def Sys2Proof.Claims.UnbindCommand : Prop :=
  ∀ (p : BitVec 3) (d a : BitVec 7) (s : State) (g : Group) (m : Member), let i := Instr.tunbind p d a
    Claims.ReadyOnce s g i m → (khdrOfWarp s m.warp).isSealed = false → (tblGet? s.ctxs (warpOf s m.warp).ctx).isSome = true →
    let v := (lo32 (sources s g i m).a).toNat
    let n := (timelineOf s (warpOf s m.warp).ctx (v / 4096 % 16)).mark + 1
    v / 65536 ∈ [4, 5, 6] → n < 2 ^ 64 →
    ∃ u o, exec i s = .next (retire u) ∧ u.ops = s.ops ++ [(s.nextId, o)] ∧ o.cmd = 5 ∧ o.num = n ∧ o.ctr = v / 4096 % 16 ∧
      o.cscope = v / 65536 ∧ bNat o.block 8 2 = v % 4096 ∧ Claims.Numbered s u (warpOf s m.warp).ctx (v / 4096 % 16) ∧
      Claims.Received s i (actors s g i) (fun _ => BitVec.ofNat 128 n) u ∧ u.loads = s.loads ∧ Claims.MemoryKept s u

/-- R244, R245: a `CPY` whose next sector passes its checks delivers it: each byte of the destination stream takes the byte of the source
stream as the engine reads it, denied lines are audited, and PROGRESS rises by one; pages ahead may then be translated. -/
def Sys2Proof.Claims.SectorDelivered : Prop :=
  ∀ (s : State) (o : EngOp), tblGet? s.ops s.arg.a = some o → o.cmd = 0 → opReady s o = true →
    let ks := Claims.sectorBytes o
    let reads := (ks.map (Claims.streamSrc o)).flatMap cellAddrs
    let writes := (ks.map (Claims.streamDst o)).flatMap cellAddrs
    Claims.UnitPasses s o reads writes →
    exec .cpySectorDelivery s = .next (Claims.walkedAhead o (cpyAhead o) (opAdvance
      (cellsWrite (opAudit (Claims.unitNoted s o (reads ++ writes)) s.arg.a 3 ((reads.filter fun va => engDenied s o va).map fun va => va / 128 * 128))
        s.arg.a (ks.map fun k => (Claims.streamDst o k, cellRead s o (Claims.streamSrc o k))))
      s.arg.a ((bNat o.block 0x2C 4 * bNat o.block 0x28 4 + 31) / 32)))

/-- R246: the next element of a `GATH`, or of a `SCAT`, whose index word and row pass their checks: the row that the index names and the
row at LIN are copied, one into the other, and PROGRESS rises by one; here no tag denies a read. Pages ahead may then be translated. -/
def Sys2Proof.Claims.IndexedElements : Prop :=
  ∀ (s : State) (o : EngOp), tblGet? s.ops s.arg.a = some o → opReady s o = true → idxBad s o = none →
    (trBound o.trec = 0 → inExtent o.trec (bInt o.block 0x24 4) (gathY s o) = true ∧
      inExtent o.trec (bInt o.block 0x24 4 + bNat o.block 0x28 4 - 1) (gathY s o) = true) →
    engDenied s o ((bNat o.block 0x08 8 + 4 * o.progress) % 2 ^ 64) = false →
    opFar s o ((bNat o.block 0x08 8 + 4 * o.progress) % 2 ^ 64) = false →
    let row := gathRec s o
    let lin := gathLin o
    (o.cmd = 1 → Claims.UnitPasses s o (row.flatMap cellAddrs) (lin.flatMap cellAddrs) →
      (∀ va ∈ row.flatMap cellAddrs, engDenied s o va = false) →
      exec .gathElement s = .next (Claims.walkedAhead o (gathAhead false s o)
        (opAdvance (cellsWrite (Claims.unitNoted s o (row.flatMap cellAddrs ++ lin.flatMap cellAddrs)) s.arg.a
          (lin.zip (row.map fun c => cellRead s o c))) s.arg.a (bNat o.block 0x20 4)))) ∧
    (o.cmd = 2 → Claims.UnitPasses s o (lin.flatMap cellAddrs) (row.flatMap cellAddrs) →
      (∀ va ∈ lin.flatMap cellAddrs, engDenied s o va = false) →
      exec .scatElement s = .next (Claims.walkedAhead o (gathAhead true s o)
        (opAdvance (cellsWrite (Claims.unitNoted s o (lin.flatMap cellAddrs ++ row.flatMap cellAddrs)) s.arg.a
          (row.zip (lin.map fun c => cellRead s o c))) s.arg.a (bNat o.block 0x20 4))))

/-- R247, R248: a collective instance starts when NRANKS commands of its key have issued: members that agree, each of another rank, keep
its ranks; members that differ in a field of R248, or of which two name one rank (the model's choice of which these are, log 29), all end
with SHAPE and write nothing. An element of a started one is written, and PROGRESS rises by one. -/
def Sys2Proof.Claims.Collectives : Prop :=
  (∀ (s : State) (o : EngOp), tblGet? s.ops s.arg.a = some o → collReady s s.arg.a o = true →
    let ms := collMembers s o
    (collMismatch ms = true → exec .collInstanceStart s = .next (ms.foldl (fun s e => endOp s e.1 .shape (bNat e.2.block 0x10 8)) s)) ∧
    (collMismatch ms = false → collNarrow s ms = false → ∃ u, exec .collInstanceStart s = .next u ∧
      u.ops = ms.foldl (fun t e => tblUpd t e.1 fun o => { o with ranks := collRankList ms }) s.ops ∧ { u with ops := s.ops } = s)) ∧
  ∀ (s : State) (o : EngOp), tblGet? s.ops s.arg.a = some o → o.cmd = 3 → o.ranks ≠ [] → opReady s o = true → collBad s o o.progress = none →
    let n := collSize o.block
    let dst := (List.range n).map fun j => (bNat o.block 0x10 8 + n * o.progress + j) % 2 ^ 64
    let v := collElem s o o.progress
    (∀ e ∈ collReads o o.progress, ∀ va ∈ rankAddrs o.block (o.ranks.getD e.1 {}) e.2, opFar s (rankOp o (o.ranks.getD e.1 {})) va = false) →
    Claims.UnitPasses s o [] dst →
    exec .collElementWrite s = .next (opAdvance (updOp ((runsOf (dst.zip (leBytes n v.1))).foldl (fun s r => engWrite s s.arg.a r.1 r.2)
      (collAudit (Claims.unitNoted s o dst) s.arg.a o o.progress)) s.arg.a fun o => { o with fp := o.fp ||| v.2.extractLsb' 0 5 })
      s.arg.a (collOut o.block))

/-- R109, R116, R249, R250: a binding that is due places its block's record, an unbinding a record of zeros, in the Gazetteer entry that it
names, as every package that holds the context has it, and in that entry's 32 bytes of each table; no other entry and no other byte of
memory changes. -/
def Sys2Proof.Claims.Binding : Prop :=
  ∀ (s : State) (o : EngOp), tblGet? s.ops s.arg.a = some o → bindReady s s.arg.a o = true → o.cmd = 4 ∨ o.cmd = 5 →
    let n := bNat o.block 0x08 2 % 4096
    let r : TRec := if o.cmd = 4 then BitVec.ofNat 256 (bNat o.block 0x10 32) else 0
    let held := s.parts.filter fun e => e.1 / 8192 == o.ctx
    let entry (p : Part) := gpOf p.pkg (p.gazbase.toNat / 2 ^ 17 * 2 ^ 17 % 2 ^ 51) + 32 * n
    ∃ u, exec (if o.cmd = 4 then .gazetteerBindComplete else .gazetteerUnbindComplete) s = .next u ∧
      (∀ e ∈ held, ∀ k, bmGet (partOf u e.1).gaz k = if k = n then r else bmGet (partOf s e.1).gaz k) ∧
      (∀ e, e / 8192 ≠ o.ctx → partOf u e = partOf s e) ∧
      ((∀ e ∈ held, Claims.PlainBytes s (entry e.2) 32) →
        (∀ e ∈ held, ∀ k < 32, bmGet u.mem (entry e.2 + k) = BitVec.ofNat 8 (r.toNat / 256 ^ k)) ∧
        ∀ a, (∀ e ∈ held, a < entry e.2 ∨ entry e.2 + 32 ≤ a) → bmGet u.mem a = bmGet s.mem a) ∧
      (opOf u s.arg.a).ended = true ∧ SameRegisters s u

/-- R211, R241: an operation whose stream has ended writes its STATUS, where that passes its checks (one entered from a list alone has no
place for it, log 30); when its writes are performed at its completion scope it leaves its engine, and its counter reaches its number once every lower one is complete. -/
def Sys2Proof.Claims.OperationCompletes : Prop :=
  (∀ (s : State) (o : EngOp), tblGet? s.ops s.arg.a = some o → opCompleteReady s s.arg.a o = true → o.complete = false →
    o.listed = false → statusFail s o = none →
    exec .engineOperationComplete s = .next (updOp (engWrite (engTrace s o (o.addr + 0x38)) s.arg.a (o.addr + 0x38)
      (leBytes 8 (o.cause + o.fp.toNat * 2 ^ 16 + o.progress * 2 ^ 32))) s.arg.a fun o => { o with complete := true })) ∧
  ∀ (s : State) (o : EngOp), tblGet? s.ops s.arg.a = some o → opCompleteReady s s.arg.a o = true → o.complete = true →
    (tblGet? s.ctxs o.ctx).isSome = true → o.num = (timelineOf s o.ctx o.ctr).value + 1 →
    (timelineOf s o.ctx o.ctr).doneOut = [] →
    ∃ u, exec .engineOperationComplete s = .next u ∧ u.ops = tblDel s.ops s.arg.a ∧ (timelineOf u o.ctx o.ctr).value = o.num ∧
      (∀ e ∈ u.loads, s.arg.a ∉ e.2.waits) ∧ u.writes = s.writes ∧ SameRegisters s u

/-- R299, R301: a launch whose packet, header and regions are read, and whose counter has a number left, takes that number and answers
it in D with a STATUS: 0, and a grid of the packet's dimensions with nothing started, or, where a check fails, that check's cause. -/
def Sys2Proof.Claims.Launches : Prop :=
  ∀ (i : Instr) (pod : Bool), Claims.LaunchForm i pod → ∀ (s : State) (g : Group) (m : Member) (p : Packet), Claims.ReadyOnce s g i m →
    launchWait s m (sources s g i m) = none → launchFail s m (sources s g i m) = none → (tblGet? s.ctxs (warpOf s m.warp).ctx).isSome = true →
    readPacket (memberReader (notedOnce s g i m) m) (lo64 (sources s g i m).a).toNat = .ok p →
    let ctx := (warpOf s m.warp).ctx
    let v := launchTrace (notedOnce s g i m) m p
    let k := bNat p.b 0x1D 1 % 16
    let n := (timelineOf s ctx k).mark + 1
    (launchCause v ctx p pod (ctxOf v ctx).priv = none → ∃ u r, exec i s = .next (retire u) ∧ u.grids = s.grids ++ [(s.nextId, r)] ∧
      r.num = n ∧ r.ctr = k ∧ r.ctx = ctx ∧ r.gx = bNat p.b 0x08 4 ∧ r.gy = bNat p.b 0x0C 4 ∧ r.gz = bNat p.b 0x10 4 ∧
      r.wx = bNat p.b 0x14 2 ∧ r.wy = bNat p.b 0x16 2 ∧ r.wz = bNat p.b 0x18 2 ∧ r.pod = pod ∧ r.started = [] ∧ r.complete = false ∧
      r.cancelled = false ∧
      r.ident = (warpOf s m.warp).ident ∧ Claims.Numbered s u ctx k ∧ Claims.Received s i (actors s g i) (fun _ => BitVec.ofNat 128 n) u ∧
      Claims.MemoryKept s u) ∧
    ∀ c, launchCause v ctx p pod (ctxOf v ctx).priv = some c → ∃ u, exec i s = .next (retire u) ∧
      (timelineOf u ctx k).mark = n ∧ Claims.Received s i (actors s g i) (fun _ => BitVec.ofNat 128 (n + causeCode c * 2 ^ 64)) u

/-- R302, R304: `GRIDQ` stores the summary of the grid that its operand names, zeros where none is retained, as 48 stores of its deciding
member. -/
def Sys2Proof.Claims.GridQuery : Prop :=
  ∀ (p : BitVec 3) (d a : BitVec 7) (s : State) (g : Group) (m : Member), let i := Instr.gridq p d a
    Claims.ReadyOnce s g i m → let va := (lo64 (sources s g i m).d).toNat
    va % 64 = 0 → (∀ k < 6, accessFail s m ((va + 64 * k) % 2 ^ 64) 64 .store = none) →
    logFail s m va 0 ((List.range 48).map fun k => logUnits s m ((va + 8 * k) % 2 ^ 64) 8).sum = none →
    let b := match namedGrid? s m (sources s g i m) with
      | some n => summaryBytes (gridOf s n)
      | none => leBytes 384 0
    exec i s = .next (retire ((List.range 48).foldl (fun v k => storeGlobal (accessTrace v m ((va + 8 * k) % 2 ^ 64) .store 0) m
      ((va + 8 * k) % 2 ^ 64) ((b.drop (8 * k)).take 8)) (notedOnce s g i m)))

/-- R277, R278, R302, R303: `CANCEL` of no retained grid answers all ones; one that no landing keeps waiting answers the number of the grid's blocks
that started, or of all its blocks where the grid was complete before any cancel: so it is for a complete grid, and for a member that
waited until every landing acknowledged it. A first `CANCEL` of a running grid goes to every landing of the grid, and the actors wait. -/
def Sys2Proof.Claims.Cancels : Prop :=
  ∀ (p : BitVec 3) (d a : BitVec 7) (s : State) (g : Group) (m : Member), let i := Instr.cancel p d a
    Claims.ReadyOnce s g i m → isDet s m.warp = false →
    (namedGrid? s m (sources s g i m) = none → ∃ u, exec i s = .next (retire u) ∧
      Claims.Received s i (actors s g i) (fun _ => 0xFFFFFFFFFFFFFFFF#128) u ∧ Claims.MemoryKept s u) ∧
    (∀ n, namedGrid? s m (sources s g i m) = some n → (gridOf s n).complete = true ∨ (∃ k, (thrOf s m).wait = .cancel k) →
      (gridOf s n).cancelTo = [] →
      ∃ u, exec i s = .next (retire u) ∧ (∀ k, gridOf u k = gridOf s k) ∧ Claims.MemoryKept s u ∧
        Claims.Received s i (actors s g i) (fun _ => BitVec.ofNat 128
          (if (gridOf s n).complete = true ∧ (gridOf s n).cancelled = false then (gridOf s n).gx * (gridOf s n).gy * (gridOf s n).gz
           else (gridOf s n).started.length)) u) ∧
    ∀ n, namedGrid? s m (sources s g i m) = some n → (gridOf s n).complete = false → (gridOf s n).cancelled = false →
      (thrOf s m).wait = .none →
      ∃ u, exec i s = .next (retire u) ∧ (gridOf u n).cancelled = true ∧
        (gridOf u n).discard = (sources s g i m).a.getLsbD 68 ∧
        (gridOf u n).cancelTo = landingsOf (notedOnce s g i m) (gridOf s n) ∧
        ∀ x ∈ actors s g i, present s x.warp x.lane = true → (thrOf u x).wait = .cancel n ∧ (thrOf u x).pos = g.pos + 1

/-- R295 to R298: `EVPOP` takes the oldest record of its core into D, and answers 0 from an empty queue where it does not wait; `EVPUSH`
appends a record of KIND 2 to a queue with room; `TASKREL` lets the lowest held workgroups of its launch on its core start. -/
def Sys2Proof.Claims.EventQueues : Prop :=
  (∀ (p : BitVec 3) (d a : BitVec 7) (s : State) (g : Group) (m : Member), let i := Instr.evpop p d a
    curGroup? s = some g → decider s (actors s g i) = some m → isRedun s m.warp = false → operandFail s (shapeOf i) m = none →
    destFails s (shapeOf i) (actors s g i) m = [] →
    let lk := (wgOfWarp s m.warp).lcore
    ((lcoreOf s lk).ev = [] → a.toNat % 2 = 1 → ∃ u, exec i s = .next (retire u) ∧ Claims.Received s i (actors s g i) (fun _ => 0) u ∧
      u.lcores = s.lcores) ∧
    ∀ r t, (lcoreOf s lk).ev = r :: t → (lcoreOf s lk).evHeld = [] → (tblGet? s.lcores lk).isSome = true →
      ∃ u, exec i s = .next (retire u) ∧ (lcoreOf u lk).ev = t ∧
        Claims.Received s i (actors s g i) (fun _ => BitVec.ofNat 128 (leNat (eventBytes r))) u ∧
        Claims.CopiesDropped u (coreOfWarp s m.warp) r.acq) ∧
  (∀ (p : BitVec 3) (d a : BitVec 7) (s : State) (g : Group) (m : Member), let i := Instr.evpush p d a
    curGroup? s = some g → decider s (actors s g i) = some m → isRedun s m.warp = false → operandFail s (shapeOf i) m = none →
    let x := sources s g i m
    let lk := placeLk (warpOf s m.warp).ctx ((lo32 x.a).toNat % 2 ^ 24)
    placeExists s (warpOf s m.warp).ctx ((lo32 x.a).toNat % 2 ^ 24) = true →
    releaseWait s m (levelOf (smallestScope (coreOfWarp s m.warp) (coreOfL s lk))) = none →
    (lcoreOf s lk).evHeld = [] → (lcoreOf s lk).image = 0 → (lcoreOf s lk).ev.length < 256 → (tblGet? s.lcores lk).isSome = true →
    ∃ u r, exec i s = .next (retire u) ∧ (lcoreOf u lk).ev = (lcoreOf s lk).ev ++ [r] ∧ r.kind = 2 ∧
      r.cause = (lo32 x.a).toNat / 2 ^ 24 ∧ r.source = lkPlace (wgOfWarp s m.warp).lcore ∧ r.value = (lo64 x.d).toNat ∧
      r.acq = smallestScope (coreOfWarp s m.warp) (coreOfL s lk) ∧
      (∀ k, k ≠ lk → lcoreOf u k = lcoreOf (notedOnce s g i m) k) ∧ Claims.SameValues s u ∧ Claims.MemoryKept s u) ∧
  ∀ (p : BitVec 3) (d a : BitVec 7) (s : State) (g : Group) (m : Member), let i := Instr.taskrel p d a
    curGroup? s = some g → decider s (actors s g i) = some m → isRedun s m.warp = false → operandFail s (shapeOf i) m = none →
    destFails s (shapeOf i) (actors s g i) m = [] → releaseWait s m 1 = none →
    let l := (heldOn s (wgOfWarp s m.warp).grid (wgOfWarp s m.warp).lcore).take ((lo32 (sources s g i m).a).toNat % 65536)
    ∃ u, exec i s = .next (retire u) ∧ (∀ h ∈ l, (wgOf s h).leader = 0 → (wgOf u h).held = false) ∧
      (∀ h, h ∉ l.flatMap (wgMates s) → wgOf u h = wgOf s h) ∧
      Claims.Received s i (actors s g i) (fun _ => BitVec.ofNat 128 l.length) u ∧ Claims.MemoryKept s u

/-- R271, R272, R277: a landing that is due deals its undealt units to its children, none lost and none started, where its ranges run from
low to high, as they do afterwards; a cancel that reaches a landing drops what is undealt there; the next log of a deterministic grid is
applied, entry by entry, when its turn has come. -/
def Sys2Proof.Claims.Dealing : Prop :=
  (∀ (s : State), dealDue s s.arg.a s.arg.b s.arg.c = true → Claims.RangesProper (gridOf s s.arg.a) →
    ∃ u, exec .landingDeal s = .next u ∧ Claims.RangesProper (gridOf u s.arg.a) ∧
      ((gridOf u s.arg.a).ranges.map fun e => unitsIn e.2).sum = ((gridOf s s.arg.a).ranges.map fun e => unitsIn e.2).sum ∧
      (gridOf u s.arg.a).started = (gridOf s s.arg.a).started ∧ (∀ k, k ≠ s.arg.a → gridOf u k = gridOf s k) ∧
      { u with grids := s.grids } = s) ∧
  (∀ (s : State) (g : Grid), tblGet? s.grids s.arg.a = some g → s.arg.b ∈ g.cancelTo →
    ∃ u, exec .cancelLanding s = .next u ∧ (gridOf u s.arg.a).cancelTo = g.cancelTo.filter (· != s.arg.b) ∧
      (gridOf u s.arg.a).ranges = tblDel g.ranges s.arg.b ∧ (gridOf u s.arg.a).started = g.started) ∧
  ∀ (s : State) (h : Nat), nextLog? s s.arg.a = some h → logDue s s.arg.a = true →
    let t := (wgOf s h).log.foldl (fun s e => applyLog s h e) s
    let v := match (wgOf s h).logIx with
      | some ix => putLogHead t (lkPart (wgOf s h).lcore) ix 0 0
      | none => t
    exec .writeLogApply s = .next (reapWg (updGrid (updWg v h fun y => { y with logIx := none, log := [] }) s.arg.a fun g =>
      { g with nextLog := (wgOf s h).block + 1, mark := v.nextId }) h)

/-- R14, R21, R260: a placement that is due answers; a block of a grid of single, unreplicated blocks without a sequencer section counts
as started, and its holder stands on the core's logical core. -/
def Sys2Proof.Claims.Placement : Prop :=
  ∀ (s v : State), placement? s s.arg.a s.arg.b s.arg.c = some v → exec .workgroupPlacement s = .next (stageNew s v) ∧
    (gridUnit (gridOf s s.arg.a) = 1 → (gridOf s s.arg.a).k.redun = 0 → (gridOf s s.arg.a).k.seqentry = 0 →
      (∀ e ∈ s.wgs, e.1 < s.nextId) → (gridOf s s.arg.a).k.det = false →
      (gridOf v s.arg.a).started = (gridOf s s.arg.a).started ++ [s.arg.b] ∧
      v.wgs.map (·.1) = s.wgs.map (·.1) ++ [s.nextId] ∧ (wgOf v s.nextId).grid = s.arg.a ∧ (wgOf v s.nextId).block = s.arg.b ∧
      (wgOf v s.nextId).lcore = lcoreFor s (gridOf s s.arg.a) s.arg.c ∧
      (wgOf v s.nextId).threads = (gridOf s s.arg.a).wx * (gridOf s s.arg.a).wy * (gridOf s s.arg.a).wz)

/-- R211, R275: a grid whose conditions of completion hold completes, and its counter reaches its number once every lower one is
complete; no register changes. -/
def Sys2Proof.Claims.GridCompletes : Prop :=
  ∀ (s : State) (g : Grid), tblGet? s.grids s.arg.a = some g → completionDue s s.arg.a = true →
    ∃ u, exec .gridCompletion s = .next (pruneGrids u) ∧ (gridOf u s.arg.a).complete = true ∧
      ((tblGet? s.ctxs g.ctx).isSome = true → g.num = (timelineOf s g.ctx g.ctr).value + 1 → (timelineOf s g.ctx g.ctr).doneOut = [] →
        (timelineOf u g.ctx g.ctr).value = g.num) ∧ SameRegisters s u

/-- R254, R255: a queue whose TAIL moved takes its packets in order: with one packet at the head that needs no wait, it is launched, and
HEAD rises by one. -/
def Sys2Proof.Claims.QueueWakes : Prop :=
  ∀ (s : State) (q : Queue), tblGet? (pkgAt s s.arg.a).queues s.arg.b = some q → wakeDue s s.arg.a s.arg.b = true →
    q.removing = false → q.head + 1 = queueTail s q → queueTail s q < 2 ^ 64 →
    let v := updPkg s s.arg.a fun p => { p with queues := tblUpd p.queues s.arg.b fun q => { q with tail := queueTail s q } }
    headWaits v s.arg.a s.arg.b { q with tail := queueTail s q } = false →
    exec .queueTailWake s = .next (launchHead v s.arg.a s.arg.b) ∧
      (queueOf (launchHead v s.arg.a s.arg.b) s.arg.a s.arg.b).head = q.head + 1 ∧ SameRegisters s (launchHead v s.arg.a s.arg.b)

/-- R239: a thread's `TWAIT` ends when its counter has reached the number, and then acquires: its core drops its copies; until then the
thread waits at the instruction. -/
def Sys2Proof.Claims.CounterWait : Prop :=
  ∀ (p : BitVec 3) (d a : BitVec 7) (s : State) (g : Group), let i := Instr.twait p d a
    Claims.Ready s g i →
    let reached (m : Member) : Prop := (lo64 (sources s g i m).a).toNat ≤ (timelineOf s (warpOf s m.warp).ctx (d.toNat % 16)).value
    ∃ u, exec i s = .next (retire u) ∧ Claims.SameValues s u ∧ Claims.MemoryKept s u ∧
      ∀ m ∈ actors s g i, present s m.warp m.lane = true →
        (reached m → thrOf u m = { thrOf s m with wait := .none }) ∧
        ((thrOf s m).helper = false → reached m → Claims.CopiesDropped u (coreOfWarp s m.warp) 6) ∧
        (¬ reached m → (thrOf u m).pc = g.pc ∧ (thrOf u m).pos = g.pos + 1 ∧
          (thrOf u m).wait = .timeline (d.toNat % 16) (lo64 (sources s g i m).a).toNat)

/-- R239: `TREAD` gives the value of its counter; `RDCLK` (R358) the a-cycles, the c-cycles since reset, or the a-cycles of the context;
`RAND` to each member a value of its own, which the model leaves free (log 10). -/
def Sys2Proof.Claims.CounterAndClock : Prop :=
  (∀ (p : BitVec 3) (d a : BitVec 7) (s : State) (g : Group), let i := Instr.tread p d a
    Claims.Ready s g i → ∃ u, exec i s = .next (retire u) ∧ Claims.MemoryKept s u ∧
      Claims.Received s i (actors s g i) (fun m => BitVec.ofNat 128 (timelineOf s (warpOf s m.warp).ctx (a.toNat % 16)).value) u) ∧
  (∀ (p : BitVec 3) (d a : BitVec 7) (s : State) (g : Group), let i := Instr.rdclk p d a
    Claims.Ready s g i → (Claims.EachChecked s g i fun m _ => isDet s m.warp = false) →
    ∃ u, exec i s = .next (retire u) ∧ Claims.MemoryKept s u ∧
      Claims.Received s i (actors s g i) (fun m =>
        let q := partOf s (partOfWarp s m.warp)
        let n := match a.toNat % 4 with
          | 0 => (s.clk - (pkgAt s q.pkg).clk0) / 3
          | 1 => s.clk - (pkgAt s q.pkg).clk0
          | _ => q.runClk / 3
        BitVec.ofNat 128 (n % 2 ^ 64)) u) ∧
  ∀ (p : BitVec 3) (d : BitVec 7) (s : State) (g : Group), let i := Instr.rand p d
    Claims.Ready s g i → (Claims.EachChecked s g i fun m _ => isDet s m.warp = false) → (actors s g i).Nodup →
    ∃ u v, exec i s = .next (retire u) ∧ Claims.MemoryKept s u ∧ Claims.Received s i (actors s g i) v u ∧
      u.free = s.free + (actors s g i).length ∧
      ∀ k m, (actors s g i)[k]? = some m → v m = (Config.entropy (s.free + k)).setWidth 128

/-- R237, R239: the actors of `TSIGNAL` that are no helpers receive the next numbers of the counter, in lane order. Where what they issued
earlier has not been performed at the scope, each number is an operation that completes once it is; where it has, the numbers are complete at
once, and the counter's value reaches them when every lower number is complete (R211). -/
def Sys2Proof.Claims.SignalNumbers : Prop :=
  ∀ (p : BitVec 3) (d a : BitVec 7) (s : State) (g : Group) (c : Nat), let i := Instr.tsignal p d a
    Claims.Ready s g i → (∀ m ∈ actors s g i, (warpOf s m.warp).ctx = c) → (actors s g i).Nodup → (tblGet? s.ctxs c).isSome = true →
    let ms := nonHelpers s (actors s g i)
    let k := a.toNat % 16
    let n := (timelineOf s c k).mark
    let done (j : Nat) (m : Member) : Bool := signalDone (a.toNat / 16 % 8) { s with nextId := s.nextId + j } m
    n + ms.length < 2 ^ 64 →
    ∃ u l v, exec i s = .next (retire u) ∧ u.ops = s.ops ++ l ∧ (timelineOf u c k).mark = n + ms.length ∧
      Claims.Received s i ms v u ∧ Claims.MemoryKept s u ∧ (∀ j m, ms[j]? = some m → v m = BitVec.ofNat 128 (n + j + 1)) ∧
      ((∀ j m, ms[j]? = some m → done j m = false) → l.length = ms.length ∧ (timelineOf u c k).value = (timelineOf s c k).value ∧
        ∀ j m e, ms[j]? = some m → l[j]? = some e → e.1 = s.nextId + j ∧ e.2.cmd = 6 ∧ e.2.num = n + j + 1 ∧ e.2.ctr = k ∧
          e.2.cscope = a.toNat / 16 % 8 ∧ e.2.warp = m.warp ∧ e.2.lane = m.lane ∧ e.2.ended = true) ∧
      ((∀ m ∈ ms, done 0 m = true) → l = [] ∧
        ((timelineOf s c k).value = n → (timelineOf s c k).doneOut = [] → (timelineOf u c k).value = n + ms.length))

/-- R43, R44: `CSRR` of an assigned register that its access code admits gives its value, in the issuer's own part. -/
def Sys2Proof.Claims.RegisterReads : Prop :=
  ∀ (p : BitVec 3) (d a : BitVec 7) (s : State) (g : Group), let i := Instr.csrr p d a
    Claims.Ready s g i →
    (Claims.EachActor s g i fun m x => (lo32 x.a).toNat < 4096 ∧ Claims.RegisterOpen (lo32 x.a).toNat (isPriv s m.warp) false) →
    ∃ u, exec i s = .next (retire u) ∧ Claims.MemoryKept s u ∧ Claims.Received s i (actors s g i) (fun m =>
      BitVec.ofNat 128 (Claims.registerValue s m (partOfWarp s m.warp) (lo32 (sources s g i m).a).toNat)) u

/-- R37, R43: a `CSRW` of `FPST` writes each actor's own; one of `FPCTL`, a narrow format descriptor or `IDENT` writes that of each
represented warp, with the value of its lowest actor that is no helper; one of a context-scope register of another part whose context
has no core running writes that register. The other registers of the machine stay. -/
def Sys2Proof.Claims.RegisterWrites : Prop :=
  ∀ (p : BitVec 3) (d a : BitVec 7) (s : State) (g : Group), let i := Instr.csrw p d a
    Claims.Ready s g i → (Claims.EachChecked s g i fun m x => csrwFail s m x = none) →
    ((Claims.EachActor s g i fun _ x => lo32 x.a = 1#32) →
      exec i s = .next (retire ((actors s g i).foldl (fun v m =>
        updThr v m fun t => { t with fpst := (sources s g i m).d.extractLsb' 0 6 }) (noted s g i)))) ∧
    (∀ n, n ∈ [0, 2, 3, 4, 5, 17] → (Claims.EachActor s g i fun _ x => lo32 x.a = BitVec.ofNat 32 n) →
      exec i s = .next (retire ((actors s g i).foldl (fun v m =>
        if leadOf s (actors s g i) m.warp = some m then Claims.warpRegister v m.warp n (Claims.csrValue (sources s g i m)) else v)
        (noted s g i)))) ∧
    ∀ m k n, actors s g i = [m] → (thrOf s m).helper = false → csrNum (sources s g i m) = n →
      csrPart? s m (sources s g i m) = some k →
      let v := Claims.csrValue (sources s g i m)
      let gives (f : State → State) : Prop := exec i s = .next (retire (f (noted s g i)))
      (n = 0x12 → gives fun t => updCtx t (k / 8192) fun c => { c with prio := v.getLsbD 0 }) ∧
      (0x20 ≤ n → n < 0x30 → gives fun t => updCtx t (k / 8192) fun c =>
        { c with tmln := tblSet c.tmln (n - 0x20) { value := v.toNat, mark := v.toNat } }) ∧
      (n = 0x81 → gives fun t => updPart t k fun q => { q with savebase := v }) ∧
      (n = 0x82 → gives fun t => updPart t k fun q => { q with ptbase := v }) ∧
      (n = 0x83 → gives fun t => loadGaz (updPart t k fun q => { q with gazbase := v }) k) ∧
      (n = 0x84 → gives fun t => updPart t k fun q => { q with clrbase := v }) ∧
      (n = 0x85 → gives fun t => updPart t k fun q => { q with fqbase := v }) ∧
      (n = 0x86 → gives fun t => updPart t k fun q => { q with aqbase := v })

/-- R43, R333: an access to a register is refused: a target named by unprivileged code, and a privileged register, with PRIVILEGE; an
unassigned number, and a write of a read-only register, with ILLEGAL_ENCODING; a write of a context's register while it runs with
ACCESS. -/
def Sys2Proof.Claims.RegisterChecks : Prop :=
  ∀ (s : State) (m : Member) (x : Src) (write : Bool),
    (csrTarget x ≠ 0 → isPriv s m.warp = false → (csrFail write s m x).map (·.cause) = some .privilege) ∧
    (csrTarget x = 0 → (lo32 x.a).toNat < 2 ^ 29 →
      ((¬ ∃ w v, Claims.RegisterOpen (csrNum x) w v) → (csrFail write s m x).map (·.cause) = some .illegalEncoding) ∧
      (Claims.RegisterOpen (csrNum x) (isPriv s m.warp) write → csrFail write s m x = none) ∧
      (0x80 ≤ csrNum x → csrNum x ≤ 0x86 → isPriv s m.warp = false → (csrFail write s m x).map (·.cause) = some .privilege) ∧
      (6 ≤ csrNum x → csrNum x ≤ 0x10 → csrNum x ≠ 0x0D → csrNum x ≠ 0x0E → csrNum x ≠ 0x0F →
        (csrFail true s m x).map (·.cause) = some .illegalEncoding)) ∧
    ∀ k, csrFail true s m x = none → csrPart? s m x = some k → csrValueBad (csrNum x) (lo64 x.d).toNat = none →
      csrOfContext (csrNum x) = true → csrNum x ≠ 0x12 → ctxRunning s (k / 8192) = true → (csrwFail s m x).map (·.cause) = some .access

/-- R322, R334: `SETID` writes the identity of each represented warp, and with WG that of every other warp of its workgroup; no other
register changes. -/
def Sys2Proof.Claims.IdentitySet : Prop :=
  ∀ (p : BitVec 3) (d a : BitVec 7) (s : State) (g : Group), let i := Instr.setid p d a
    Claims.Ready s g i →
    ∃ u, exec i s = .next (retire u) ∧ SameRegisters s u ∧ Claims.MemoryKept s u ∧
      (∀ w m, leadOf s (actors s g i) w = some m → (tblGet? s.warps w).isSome = true → (warpOf u w).ident = lo32 (sources s g i m).a) ∧
      (d.toNat % 2 = 0 → ∀ w, leadOf s (actors s g i) w = none → (warpOf u w).ident = (warpOf s w).ident) ∧
      (d.toNat % 2 = 1 → ∀ v m, Claims.leads s g i = [(v, m)] → ∀ w, w ≠ v → (warpOf u w).ident =
        if w ∈ (wgOfWarp s v).warps ∧ (tblGet? s.warps w).isSome = true then lo32 (sources s g i m).a else (warpOf s w).ident)

/-- R335, R336: `TLBINV` and `CLRINV` drop, in the issuer's package, the translations and the clearance answers that they name, and
keep the others; each member goes on when every earlier access is performed, and waits otherwise. -/
def Sys2Proof.Claims.Invalidations : Prop :=
  (∀ (p : BitVec 3) (d a : BitVec 7) (s : State) (g : Group), let i := Instr.tlbinv p d a
    Claims.Ready s g i → (Claims.EachChecked s g i fun m x => tlbFail s m x = none) → (∀ m ∈ actors s g i, (thrOf s m).wait = .none) →
    ∃ u, exec i s = .next (retire u) ∧ Claims.SameValues s u ∧ Claims.MemoryKept s u ∧
      (∀ f ∈ [Part.tlb, Part.tlbAway], ∀ k e, e ∈ f (partOf u k) ↔ e ∈ f (partOf (noted s g i) k) ∧ ∀ m ∈ nonHelpers s (actors s g i),
        let x := sources s g i m
        ¬ ((partOf s k).pkg = (partOf s (partOfWarp s m.warp)).pkg ∧ (tlbKind x = 2 ∨ (partOf s k).ctxid = tlbCtx x) ∧
          (tlbKind x = 1 → overlaps e.vbase e.size ((lo64 x.a).toNat % 2 ^ 57) (tlbPages x * 4096) = true))) ∧
      (accessesDone s s.nextId = false → ∀ m ∈ actors s g i, (thrOf s m).helper = false → present s m.warp m.lane = true →
        (thrOf u m).wait = .drained s.nextId) ∧
      (accessesDone s s.nextId = true → ∀ m, thrOf u m = thrOf s m)) ∧
  ∀ (p : BitVec 3) (d a : BitVec 7) (s : State) (g : Group), let i := Instr.clrinv p d a
    Claims.Ready s g i → (Claims.EachChecked s g i fun m x => clrFail s m x = none) → (∀ m ∈ actors s g i, (thrOf s m).wait = .none) →
    ∃ u, exec i s = .next (retire u) ∧ Claims.SameValues s u ∧ Claims.MemoryKept s u ∧
      (∀ f ∈ [Part.clr, Part.clrAway], ∀ k e, e ∈ f (partOf u k) ↔ e ∈ f (partOf (noted s g i) k) ∧ ∀ m ∈ nonHelpers s (actors s g i),
        let x := sources s g i m
        ¬ ((partOf s k).pkg = (partOf s (partOfWarp s m.warp)).pkg ∧ (partOf s k).ctxid = (lo32 x.a).toNat ∧
          ((lo32 x.d).getLsbD 31 = true ∨ e.2.1 = (lo32 x.d).toNat % 2 ^ 20))) ∧
      (accessesDone s s.nextId = false → ∀ m ∈ actors s g i, (thrOf s m).helper = false → present s m.warp m.lane = true →
        (thrOf u m).wait = .drained s.nextId) ∧
      (accessesDone s s.nextId = true → ∀ m, thrOf u m = thrOf s m)

/-- R195, R337: `BANKROLE` requests, for the core that it names, each role that differs from the bank's present one; 3 asks nothing. -/
def Sys2Proof.Claims.RoleRequests : Prop :=
  ∀ (p : BitVec 3) (d a : BitVec 7) (s : State) (g : Group) (m : Member) (c : Nat), let i := Instr.bankrole p d a
    Claims.Ready s g i → nonHelpers s (actors s g i) = [m] → roleFail s m (sources s g i m) = none →
    ofPhysloc (lo32 (sources s g i m).a).toNat = some c →
    ∃ u, exec i s = .next (retire u) ∧ SameRegisters s u ∧ Claims.MemoryKept s u ∧
      (∀ b < 64, let r := (sources s g i m).d.extractLsb' (2 * b) 2
        tblGet? (pcoreAt u c).pend b =
          if r = 3#2 ∨ r = bmGet (pcoreAt s c).role b then tblGet? (pcoreAt s c).pend b else some (r, true)) ∧
      (pcoreAt u c).role = (pcoreAt s c).role ∧ ∀ k, k ≠ c → pcoreAt u k = pcoreAt s k

/-- R43, R44, R123: privileged code outside an instruction writes a counter of a context no core of which runs, with its mark, or a warp's
`IDENT`; a write of a narrow
format descriptor that the register refuses leaves it. -/
def Sys2Proof.Claims.RegisterEvents : Prop :=
  (∀ s : State, (tblGet? s.ctxs s.arg.a).isSome = true → s.arg.b < 16 → ctxRunning s s.arg.a = false → ∃ u, exec .tmlnWrite s = .next u ∧
    timelineOf u s.arg.a s.arg.b = { value := (s.arg.bits.extractLsb' 0 64).toNat, mark := (s.arg.bits.extractLsb' 0 64).toNat } ∧
    (∀ c k, ¬ (c = s.arg.a ∧ k = s.arg.b) → timelineOf u c k = timelineOf s c k) ∧ { u with ctxs := s.ctxs } = s) ∧
  (∀ s : State, (tblGet? s.warps s.arg.a).isSome = true → isPriv s s.arg.a = true → s.arg.bits.extractLsb' 32 32 = 0#32 →
    exec .identWrite s = .next (updWarp s s.arg.a fun w => { w with ident := s.arg.bits.extractLsb' 0 32 })) ∧
  ∀ s : State, (tblGet? s.warps s.arg.a).isSome = true → s.arg.b < 4 →
    let v := (s.arg.bits.extractLsb' 0 64).toNat
    (v < 65536 → v = 0 ∨ ndValid (BitVec.ofNat 16 v) = true →
      exec .nfmtWrite s = .next (updWarp s s.arg.a fun w => { w with nfmt := bmSet w.nfmt s.arg.b (BitVec.ofNat 16 v) })) ∧
    (65536 ≤ v ∨ v ≠ 0 ∧ ndValid (BitVec.ofNat 16 v) = false → exec .nfmtWrite s = .next s)

/-- R338, R355: `TRAP` traps each warp with an actor that is no helper under USER_TRAP, with the code of the lowest one, at the place after
the instruction; a group without such an actor goes on. -/
def Sys2Proof.Claims.UserTraps : Prop :=
  ∀ (p : BitVec 3) (a : BitVec 7) (s : State) (g : Group), let i := Instr.trap p a
    Claims.Ready s g i → let l := Claims.leads s g i
    (l = [] → exec i s = .next (retire (noted s g i))) ∧
    (l ≠ [] → let hit (m : Member) : Bool := l.any fun e => e.1 == m.warp
      let v := (g.mem.filter hit).foldl (fun t m => standAfter t g m) (noted s g i)
      (∀ w, isRedun v w = false) →
      exec i s = .next (retire (dropMembers (l.foldl (fun t e => trapWarp t e.1 (trapRecord t
        { warp := e.1, cause := .userTrap, lane := e.2.lane, info := (lo32 (sources s g i e.2).a).toNat % 65536 }
        (afterPlace g e.2.lane).1 (afterPlace g e.2.lane).2)) v) hit)))

/-- R338, R341, R342: a warp that traps under a record takes the next SEQ of its context, issues nothing more until it is answered, and is
entered with that SEQ; the record, with its SEQ, stands at the queue's TAIL, which rises by one, where the queue has room and no record
of its own source is held; otherwise it is held behind those. -/
def Sys2Proof.Claims.TrapRecorded : Prop :=
  (∀ (s : State) (w : Nat) (r : FaultRec), (wgOfWarp s w).leader = 0 → (tblGet? s.warps w).isSome = true →
    (tblGet? s.parts (partOfWarp s w)).isSome = true → (tblGet? s.ctxs (partOfWarp s w / 8192)).isSome = true →
    let u := trapWarp s w r
    let k := partOfWarp s w
    (warpOf u w).trapped = true ∧ (warpOf u w).trapSeq = nextSeq s k ∧ nextSeq u k = nextSeq s k + 1 ∧
      (partOf u k).awaits = (partOf s k).awaits ++ [(nextSeq s k, .warp w)] ∧ SameRegisters s u ∧
      ∀ v, v ≠ w → warpOf u v = warpOf s v) ∧
  (∀ (s : State) (k : Nat) (r : FaultRec) (b n : Nat), (∀ e ∈ (partOf s k).held, sameSource e.1 r = false) →
    faultQueue? (partOf s k) = some (b, n) → r.pages = [] → faultFree s (partOf s k) ≠ 0 → homeNat s b 8 + 1 < 2 ^ 64 →
    let a := b + 128 + 64 * (homeNat s b 8 % n)
    Claims.PlainBytes s b 8 → Claims.PlainBytes s a 64 →
    Claims.Holds (appendFault s k r) a (faultBytes { r with seq := nextSeq s k }) ∧
      Claims.Holds (appendFault s k r) b (leBytes 8 (homeNat s b 8 + 1)) ∧
      ∀ x, (x < b ∨ b + 8 ≤ x) → (x < a ∨ a + 64 ≤ x) → bmGet (appendFault s k r).mem x = bmGet s.mem x) ∧
  ∀ (s : State) (k : Nat) (r : FaultRec), (tblGet? s.parts k).isSome = true →
    (∃ e ∈ (partOf s k).held, sameSource e.1 r = true) ∨ faultFree s (partOf s k) = 0 →
    (partOf (appendFault s k r) k).held = (partOf s k).held ++ [({ r with seq := nextSeq s k }, 0)]

/-- R341: when the queue has room again, the oldest held record is written at its TAIL and no longer held; one with extensions is written as
far as the room goes. -/
def Sys2Proof.Claims.HeldRecords : Prop :=
  (∀ (s : State) (b n : Nat) (r : FaultRec) (i : Nat) (t : List (FaultRec × Nat)), let k := s.arg.a
    (partOf s k).held = (r, i) :: t → faultQueue? (partOf s k) = some (b, n) → faultFree s (partOf s k) ≠ 0 →
    (tblGet? s.parts k).isSome = true → i < (faultSlots r).length →
    let m := min (faultFree s (partOf s k)) ((faultSlots r).length - i)
    ∃ u, exec .heldFaultRecordWrite s = .next u ∧ SameRegisters s u ∧
      (partOf u k).held = if i + m = (faultSlots r).length then t else (r, i + m) :: t) ∧
  ∀ (s : State) (b n : Nat) (r : FaultRec) (t : List (FaultRec × Nat)), let k := s.arg.a
    (partOf s k).held = (r, 0) :: t → faultQueue? (partOf s k) = some (b, n) → faultFree s (partOf s k) ≠ 0 → r.pages = [] →
    homeNat s b 8 + 1 < 2 ^ 64 →
    let a := b + 128 + 64 * (homeNat s b 8 % n)
    Claims.PlainBytes s b 8 → Claims.PlainBytes s (b + 8) 8 → Claims.PlainBytes s a 64 →
    ∃ u, exec .heldFaultRecordWrite s = .next u ∧ (partOf u k).held = t ∧ Claims.Holds u a (faultBytes r) ∧
      Claims.Holds u b (leBytes 8 (homeNat s b 8 + 1) ++ leBytes 8 (t.map fun e => (faultSlots e.1).length - e.2).sum) ∧ SameRegisters s u

/-- R338, R356: `ERET` for one thread answers the record that its block names: D is 1 where nothing awaits that SEQ; a trapped warp that is
not saved resumes, its selected lanes at PC with POS 0 under action 1, ended under action 2, every other lane at its restart point; D is
0. A trap that another thread of the warp raised meanwhile, after its instruction's effect, is then taken. -/
def Sys2Proof.Claims.Resumes : Prop :=
  ∀ (p : BitVec 3) (d a : BitVec 7) (s : State) (g : Group) (m : Member) (k : Nat), let i := Instr.eret p d a
    Claims.Ready s g i → actors s g i = [m] → (thrOf s m).helper = false → eretWait s m (sources s g i m) = none →
    eretFail s m (sources s g i m) = none →
    let b := readGlobal (noted s g i) m (lo64 (sources s g i m).a).toNat 32
    partByCtxid? s (partOf s (partOfWarp s m.warp)).pkg (bNat b 8 2) = some k →
    let found := (partOf s k).awaits.find? fun e => e.1 == bNat b 0 8
    (found = none → ∃ u, exec i s = .next (retire u) ∧ Claims.Received s i [m] (fun _ => 1) u ∧ Claims.MemoryKept s u) ∧
    ∀ w, found = some (bNat b 0 8, .warp w) → isSaved s w = false → (wgOfWarp s w).leader = 0 → bNat b 0x0A 1 ≤ 2 →
      ∃ u v, exec i s = .next (retire (writeD (forward u m 0) (shapeOf i).d [(m, 0)])) ∧
        (partOf v k).awaits = (partOf s k).awaits.filter (fun e => e.1 != bNat b 0 8) ∧
        u = nextTrap (eretOne v w (bNat b 0x0A 1) (BitVec.ofNat 64 (bNat b 0x10 8)) (bNat b 0x18 8)) w ∧ SameRegisters s v ∧
        ((warpOf s w).later = [] → (warpOf u w).trapped = false ∧ (warpOf u w).trapSeq = 0) ∧
        ((warpOf s w).later ≠ [] → (tblGet? u.warps w).isSome = true → (warpOf u w).trapped = true) ∧
        ∀ l, let picked := bNat b 0x18 8 / 2 ^ l % 2 = 1 ∧ present s w l = true
          (bNat b 0x0A 1 = 1 → picked → (thrOf u ⟨l, w⟩).pc = BitVec.ofNat 64 (bNat b 0x10 8) ∧ (thrOf u ⟨l, w⟩).pos = 0) ∧
          (bNat b 0x0A 1 = 2 → picked → present u w l = false) ∧
          (bNat b 0x0A 1 = 0 ∨ bNat b 0x0A 1 = 1 ∧ ¬ picked →
            (thrOf u ⟨l, w⟩).pc = (thrOf s ⟨l, w⟩).pc ∧ (thrOf u ⟨l, w⟩).pos = (thrOf s ⟨l, w⟩).pos)

/-- R357: `HALT`, `SAVECTX` and `RESTCTX` for one thread. A part that is frozen or saved stays so under `HALT`; one that has stopped is
frozen; another is asked to stop and the thread waits. `SAVECTX` saves a stopped part and gives the bytes used, or freezes it and gives
all ones where it has no save area. `RESTCTX` with MODE 0 lets a frozen part go on, and gives ACCESS for another. -/
def Sys2Proof.Claims.ContextStops : Prop :=
  (∀ (p : BitVec 3) (a : BitVec 7) (s : State) (g : Group) (m : Member) (k : Nat), let i := Instr.halt p a
    Claims.ContextNamed s g i 16 m k → let t := Claims.resting s g i m
    ((partOf t k).saved = true ∨ (partOf t k).frozen = true → exec i s = Claims.answered i m (t, 0)) ∧
    ((partOf t k).saved = false → (partOf t k).frozen = false → partStopped t k = true →
      exec i s = Claims.answered i m (updPart t k fun q => { q with frozen := true, stopReq := false }, 0)) ∧
    ((partOf t k).saved = false → (partOf t k).frozen = false → partStopped t k = false → partStopped (stopPart t k) k = false →
      exec i s = .next (retire (deferMembers (stopPart t k) g [(m, .stopped k)])))) ∧
  (∀ (p : BitVec 3) (d a : BitVec 7) (s : State) (g : Group) (m : Member) (k : Nat), let i := Instr.savectx p d a
    Claims.ContextNamed s g i 16 m k → let t := Claims.resting s g i m
    (partStopped t k = true → exec i s = Claims.answered i m (savePart t k)) ∧
    (partStopped t k = false → partStopped (stopPart t k) k = false →
      exec i s = .next (retire (deferMembers (stopPart t k) g [(m, .stopped k)]))) ∧
    ((partOf t k).savebase = 0 → savePart t k = (updPart t k fun q => { q with frozen := true, stopReq := false }, 2 ^ 64 - 1)) ∧
    ((savePart t k).2 ≠ 2 ^ 64 - 1 → (tblGet? s.parts k).isSome = true → (partOf (savePart t k).1 k).saved = true ∧
      (partOf (savePart t k).1 k).frozen = false ∧ (partOf (savePart t k).1 k).tlb = [] ∧ (partOf (savePart t k).1 k).tlbAway = [])) ∧
  ∀ (p : BitVec 3) (d a : BitVec 7) (s : State) (g : Group) (m : Member) (k : Nat), let i := Instr.restctx p d a
    Claims.ContextNamed s g i 17 m k → let t := Claims.resting s g i m
    ((lo32 (sources s g i m).a).toNat < 65536 → (partOf t k).frozenDies = [] →
      ((partOf t k).frozen = true → exec i s = Claims.answered i m (thawPart t k, 0)) ∧
      ((partOf t k).frozen = false → exec i s = Claims.answered i m (t, 9))) ∧
    (65536 ≤ (lo32 (sources s g i m).a).toNat →
      ((partOf t k).savebase ≠ 0 → (partOf t k).frozen = false → (partOf t k).frozenDies = [] → (partOf t k).stopReq = false →
        partVacant t k = true → areaOk t k = true → exec i s = Claims.answered i m (enterArea t k, 0)) ∧
      ((partOf t k).savebase = 0 ∨ partVacant t k = false ∨ areaOk t k = false → exec i s = Claims.answered i m (t, 9)))

/-- R320, R343, R344: run-ahead that has come to its end ends in one PAGE_FAULT record with its batch, under which the warp is trapped; when the stop window has
passed every thread of the warp stands, outside the groups, at its restart point; a warp whose threads stand and whose operations are
dealt with counts as stopped. No register changes. -/
def Sys2Proof.Claims.WarpStops : Prop :=
  (∀ (s : State) (a : Ahead), (warpOf s s.arg.a).ahead = some a → (wgOfWarp s s.arg.a).leader = 0 →
    aheadEnded s a = true →
    (tblGet? s.parts (partOfWarp s s.arg.a)).isSome = true → (tblGet? s.ctxs (partOfWarp s s.arg.a / 8192)).isSome = true →
    ∃ u, exec .runAheadEnd s = .next u ∧ (warpOf u s.arg.a).ahead = none ∧ (warpOf u s.arg.a).trapped = true ∧
      (warpOf u s.arg.a).trapSeq = nextSeq s (partOfWarp s s.arg.a) ∧
      nextSeq u (partOfWarp s s.arg.a) = nextSeq s (partOfWarp s s.arg.a) + 1 ∧ SameRegisters s u) ∧
  (∀ s : State, windowDue s s.arg.a = true → (wgOfWarp s s.arg.a).leader = 0 → (wgOfWarp s s.arg.a).discard = false →
    ∃ u, exec .stopWindowExpiry s = .next u ∧ (∀ l, present s s.arg.a l = true → (thrOf u ⟨l, s.arg.a⟩).stopped = true) ∧
      (∀ e ∈ u.groups, ∀ m ∈ e.2.mem, m.warp ≠ s.arg.a) ∧ Claims.SameValues s u) ∧
  ∀ s : State, stoppedDue s s.arg.a = true →
    (isRedun s s.arg.a = false → ∃ u, exec .warpStopped s = .next u ∧ (warpOf u s.arg.a).halted = true ∧ SameRegisters s u) ∧
    (stopCompareDue s s.arg.a = true → ∃ u, exec .warpStopped s = .next u ∧
      (∀ v ∈ replicaWarps s s.arg.a, (tblGet? s.warps v).isSome = true → (warpOf u v).atCmp = true) ∧ SameRegisters s u)

/-- R279: a partition in which nothing has happened for 2^26 c-cycles, though work remains, is frozen: its record takes the next SEQ that is
free once its warps have been asked to stop, and awaits its answer. -/
def Sys2Proof.Claims.PartitionStalls : Prop :=
  ∀ (s : State) (k : Nat), partAt? s s.arg.a (s.arg.b / 4) = some k → stallDue s k (s.arg.b % 4) = true →
    (tblGet? s.ctxs (k / 8192)).isSome = true →
    ∃ u v, exec .stall s = .next u ∧ (partOf v k).frozenDies = (partOf s k).frozenDies ++ [s.arg.b % 4] ∧
      (partOf u k).frozenDies = (partOf v k).frozenDies ∧ nextSeq u k = nextSeq v k + 1 ∧
      (partOf u k).awaits = (partOf v k).awaits ++ [(nextSeq v k, .stall (s.arg.b % 4))]

/-- R24, R25, R258: a reserved core that latency-class work needs is vacated: its bulk work is asked to stop, and saved when it has; a
logical core that may be placed on a core stands there afterwards. -/
def Sys2Proof.Claims.CoresMoved : Prop :=
  (∀ s : State, let c := s.arg.a
    let ws := holderWarps s (vacateHolders s c)
    ((pcoreAt s c).vacating = false → vacateDue s c = true → 
      exec .vacateReservedCore s = .next (requestStops (updPcore s c fun q => { q with vacating := true }) ws)) ∧
    ((pcoreAt s c).vacating = true → allHalted s ws = true → exec .vacateReservedCore s = .next (vacateSave s c)) ∧
    ((pcoreAt s c).vacating = true → allHalted s ws = false → (∃ w ∈ ws, (warpOf s w).stopAt = none) →
      exec .vacateReservedCore s = .next (requestStops s ws))) ∧
  ∀ s v : State, lcorePlaced? s s.arg.a s.arg.b = some v → exec .logicalCorePlacement s = .next v ∧
    (lcoreOf v s.arg.a).pcore = some s.arg.b ∧ (lcoreOf v s.arg.a).waiting = false

/-- R195, R264: a pending role of a bank without an owner takes effect, and is pending no longer, where the bank does not leave the L1 role
with bytes still to merge; the copies of a core go with its last L1 bank. At a rotation point the pointer steps,
and a ready pending warp takes the place of the one active longest. -/
def Sys2Proof.Claims.RolesAndRotation : Prop :=
  (∀ (s : State) (e : BitVec 2 × Bool), tblGet? (pcoreAt s s.arg.a).pend s.arg.b = some e →
    tblGet? (pcoreAt s s.arg.a).bank s.arg.b = none → bmGet (pcoreAt s s.arg.a).role s.arg.b ≠ 0#2 ∨ l1Dirty s s.arg.a = false →
    ∃ u, exec .bankRoleChange s = .next u ∧ (bmGet (pcoreAt s s.arg.a).role s.arg.b = 0#2 → l1Banks u s.arg.a = [] → (pcoreAt u s.arg.a).copies = []) ∧ (∀ b, bmGet (pcoreAt u s.arg.a).role b =
        if b = s.arg.b then e.1 else bmGet (pcoreAt s s.arg.a).role b) ∧
      (pcoreAt u s.arg.a).pend = tblDel (pcoreAt s s.arg.a).pend s.arg.b ∧ (∀ c, c ≠ s.arg.a → pcoreAt u c = pcoreAt s c) ∧
      { u with pcores := s.pcores } = s) ∧
  ∀ (s : State) (k : Quarter), s.arg.a < 2 ^ 32 → tblGet? (pcoreAt s (s.arg.a / 4)).qs (s.arg.a % 4) = some k → k.rotAt + 3072 ≤ s.clk →
    ∃ u, exec .rotationPoint s = .next u ∧ { u with pcores := s.pcores } = s ∧ (quarterAt u s.arg.a).rot = (k.rot + 1) % 8 ∧
      (quarterAt u s.arg.a).rotPick = true ∧ (quarterAt u s.arg.a).rotAt = s.clk ∧
      (∀ a t w, k.since = a :: t → (k.pend.find? fun w => warpReady s w) = some w →
        (quarterAt u s.arg.a).active = k.active.map (fun x => if x = a then w else x) ∧
        (quarterAt u s.arg.a).since = k.since.filter (fun x => x != a) ++ [w] ∧
        (quarterAt u s.arg.a).pend = k.pend.filter (fun x => x != w) ++ [a]) ∧
      ((k.pend.find? fun w => warpReady s w) = none → (quarterAt u s.arg.a).active = k.active ∧
        (quarterAt u s.arg.a).since = k.since ∧ (quarterAt u s.arg.a).pend = k.pend)

/-- R17, R63, R99, R284: the issue of a clause whose fetch and checks pass starts a group at it: members that are ready, of one workgroup and
at one place, in distinct lanes, or, where a group was deferred as one, that group; a thread at the entry takes its warp's window base. -/
def Sys2Proof.Claims.ClauseStarts : Prop :=
  ∀ (s : State) (c : Clause) (m : Member), let q := s.arg.a
    let s1 := if 2 ^ 32 ≤ q then s else updQuarter s q fun k => exchange s 8 k
    let s2 := if 2 ^ 32 ≤ q then s1 else updQuarter s1 q fun k => { k with rotPick := false }
    let ms := gather s2 (slotReady s1 q) m
    issueDue s q = true → leadMember s1 q (slotReady s1 q) = some m → (slotReady s1 q).Nodup → ms ≠ [] →
    (∀ n ∈ ms, clauseAt s2 n.warp (thrOf s2 n).pc = .ok c ∧ badPlace s2 n.warp (thrOf s2 n).pc = false ∧ stopsHere s2 c n = false ∧
      entryBad (pkgAt s2 (pcPkg (keyCore q))).full (isPriv s2 n.warp) c = none) →
    ∃ u h, exec .clauseIssue s = .next u ∧ tblGet? u.groups q = some h ∧ h.mem = ms ∧ h.hdr = c.hdr ∧ h.body = c.body ∧
      h.pc = (thrOf s (ms.headD {})).pc ∧ h.pos = (thrOf s (ms.headD {})).pos - 1 ∧ h.wg = (warpOf s (ms.headD {}).warp).wg ∧
      (∀ n ∈ ms, (thrOf s n).pos = 0 → present s n.warp n.lane = true → (thrOf u n).base = (warpOf s n.warp).wbase) ∧
      ((thrOf s m).gid ≠ 0 → ms = byLane (oneMember s2 m)) ∧
      ((thrOf s m).gid = 0 → m ∈ ms ∧ (ms.map (·.lane)).Nodup ∧ ∀ n ∈ ms, n ∈ slotReady s1 q ∧ (thrOf s n).gid = 0 ∧
        (warpOf s n.warp).wg = (warpOf s m.warp).wg ∧ (thrOf s n).pc = (thrOf s m).pc ∧ (thrOf s n).pos = (thrOf s m).pos)

/-- R62, R63, R338: a clause that a thread's fetch does not reach, or whose checks fail, traps the warps of its group where they stand,
before any instruction: with the fetch's cause, with BAD_TARGET where no header stands, or with the cause and the word of the first check
that fails. -/
def Sys2Proof.Claims.ClauseTraps : Prop :=
  ∀ (s : State) (q : Nat) (m : Member), let t := thrOf s m
    (∀ e, clauseAt s m.warp t.pc = .error e → e ≠ .pageFault →
      issueGroup s q [m] = takeTrap s { warp := m.warp, cause := e, lane := m.lane } t.pc t.pos) ∧
    (clauseAt s m.warp t.pc = .error .pageFault → issueGroup s q [m] =
      takeTrap s { warp := m.warp, cause := .pageFault, lane := m.lane, addr := t.pc.toNat / 4096 * 4096, info := 513 } t.pc t.pos) ∧
    (∀ c, clauseAt s m.warp t.pc = .ok c → badPlace s m.warp t.pc = true →
      issueGroup s q [m] = takeTrap s { warp := m.warp, cause := .badTarget, lane := m.lane, addr := t.pc.toNat } t.pc t.pos) ∧
    ∀ c b, clauseAt s m.warp t.pc = .ok c → badPlace s m.warp t.pc = false →
      entryBad (pkgAt s (pcPkg (keyCore q))).full (isPriv s m.warp) c = some b →
      issueGroup s q [m] =
        takeTrap s { warp := m.warp, cause := b.cause, lane := m.lane, word := b.word, info := ((c.hdr :: c.body).getD b.word 0).toNat }
          t.pc t.pos
/-- R359 to R362, R378: the end of an interval begins a cut, or leaves a request; `CKPT` for one thread takes the next number of its counter,
which the cut serves, and requests one. -/
def Sys2Proof.Claims.CutsBegin : Prop :=
  (∀ (s : State) (t : Nat), let x := s.arg.a
    (ckptOf s x).due = some t → t ≤ s.clk → (∀ k ∈ partsOfCtx s x, (partOf s k).idle = false) →
    ((ckptOf s x).phase ≠ 0 → ∃ u, exec .cutIntervalExpiry s = .next u ∧ (ckptOf u x).want = true ∧ { u with ctxs := s.ctxs } = s) ∧
    ((ckptOf s x).phase = 0 → ∃ u, exec .cutIntervalExpiry s = .next u ∧ (ckptOf u x).phase = 1 ∧
      (ckptOf u x).cut = (ckptOf s x).nextCut ∧ (ckptOf u x).nextCut = (ckptOf s x).nextCut + 1 ∧
      ∀ k ∈ partsOfCtx s x, (partOf s k).saved = false → (partOf s k).frozen = false → (partOf u k).stopReq = true)) ∧
  ∀ (p : BitVec 3) (d a : BitVec 7) (s : State) (g : Group) (m : Member) (c : Ckpt), let i := Instr.ckpt p d a
    let x := (warpOf s m.warp).ctx
    let k := (lo32 (sources s g i m).a).toNat
    Claims.Ready s g i → actors s g i = [m] → (thrOf s m).helper = false → k < 16 → (partOf s (partOfWarp s m.warp)).desc ≠ 0 →
    (ctxOf s x).ckpt = some c → (timelineOf s x k).mark + 1 < 2 ^ 64 →
    let n := (timelineOf s x k).mark + 1
    ∃ w, Claims.Received s i [m] (fun _ => BitVec.ofNat 128 n) w ∧ (timelineOf w x k).mark = n ∧
      (ckptOf w x).waits = c.waits ++ [(k, n, if c.phase = 1 then c.cut else c.nextCut)] ∧ (ckptOf w x).phase = c.phase ∧
      exec i s = .next (retire (if c.phase = 1 then w else requestCut w x))

/-- R361 to R365: at its instant a cut snapshots the context's part, and its cores go on; the Surveyor then writes its units one by one, a
protected one first where a write waits for it, then its manifests; a record that the area cannot take fails the cut; when all are
durable LASTCUT takes the cut's number. Between cuts a changed unit is streamed. -/
def Sys2Proof.Claims.CutsProceed : Prop :=
  (∀ (s v : State) (k : Nat), let x := s.arg.a
    instantDue s x = true → surveyed s x = [k] → snapPart { s with snaps := tblSet s.snaps (2 * x + 1) (snapTables s x) } k = .ok v →
    (ckptOf v x).phase = 1 → (ckptOf v x).cut = (ckptOf s x).cut →
    exec .cutInstant s = .next (resumeCores (updCkpt v x fun c => { c with phase := 2, since := some [] }) x)) ∧
  (∀ (s : State) (k : Nat) (e : Nat × Nat), let x := s.arg.a
    (ckptOf s x).phase = 2 → nextRecord? s x = some (k, some e) →
    let r := appendRecord s k (unitRecord s k (ckptOf s x).cut e)
    (∀ v, r = .ok v → exec .cutRecordWrite s = .next (unitWritten v k e) ∧ (partOf (unitWritten v k e) k).todo =
      (partOf s k).todo.filter fun y => y != e) ∧
    ∀ c, r = .error c → exec .cutRecordWrite s = .next (failCut s x k c)) ∧
  (∀ (s : State) (k : Nat), let x := s.arg.a
    (ckptOf s x).phase = 2 → nextRecord? s x = some (k, none) →
    exec .cutRecordWrite s = .next (if (ckptOf (writeManifest s x k) x).phase = 2 ∧ (nextRecord? (writeManifest s x k) x).isNone = true then
      updCkpt (writeManifest s x k) x fun c => { c with phase := 3 } else writeManifest s x k)) ∧
  (∀ (s : State) (c : Ckpt), let x := s.arg.a
    (ctxOf s x).ckpt = some c → c.phase = 3 → c.want = false →
    ∃ u, exec .cutDurable s = .next u ∧ (ckptOf u x).lastCut = c.cut ∧ (ckptOf u x).phase = 0 ∧ (∀ e ∈ u.protU, e.2 ≠ x) ∧
      (∀ e ∈ (ckptOf u x).waits, c.cut < e.2.2) ∧ SameRegisters s u) ∧
  (∀ (s v : State) (k : Nat), let x := s.arg.a
    (ckptOf s x).phase = 2 → ((surveyed s x).find? fun k => (partOf s k).todo.contains (2, s.arg.b)) = some k →
    appendRecord s k (unitRecord s k (ckptOf s x).cut (2, s.arg.b)) = .ok v →
    exec .protectedUnitWrite s = .next (unitWritten v k (2, s.arg.b)) ∧ (s.arg.b, x) ∉ (unitWritten v k (2, s.arg.b)).protU) ∧
  ∀ (s v : State) (k : Nat), let x := s.arg.a
    (ckptOf s x).phase = 0 → (∀ k ∈ partsOfCtx s x, (partOf s k).idle = false) → streamPart? s x s.arg.b = some k →
    appendRecord s k (unitRecord s k (ckptOf s x).nextCut (2, s.arg.b)) = .ok v →
    exec .streamUnitWrite s = .next (unitWritten v k (2, s.arg.b))

/-- R365: a record that the area takes stands at TAIL of its ring, which moves past it by its length, and the cut's bytes count it. -/
def Sys2Proof.Claims.RecordPlaced : Prop :=
  ∀ (s v : State) (k : Nat) (b : List Byte), appendRecord s k b = .ok v →
    let d := (partOf s k).desc
    ringRoom s k (descNat s k 0x38 8) > b.length ∧
      v = updPart (putNat (putRing s k (descNat s k 0x38 8) b) (d + 0x38) 8 ((descNat s k 0x38 8 + b.length) % descNat s k 0x08 8)) k
        (fun q => { q with written := q.written + b.length }) ∧ SameRegisters s v

/-- R367: every 2^16 c-cycles `SAVECOST` of each part of a context takes the bytes that a save of the whole context would use. -/
def Sys2Proof.Claims.CostUpdates : Prop :=
  ∀ s : State, costDue s s.arg.a = true →
    ∃ u, exec .savecostUpdate s = .next u ∧ SameRegisters s u ∧ ∀ k ∈ partsOfCtx s s.arg.a,
      (partOf u k).savecost = BitVec.ofNat 48 ((partsOfCtx s s.arg.a).map fun j => usedOf s j).sum ∧ (partOf u k).costAt = s.clk + 2 ^ 16

/-- R371 to R375: replicas that agree in signature, entries and trap go on: each is compared once more and starts its signature anew; one that
two others outvote is rebuilt from the lowest of them, counted and recorded; without a majority the context is frozen. A store held for
4,096 a-cycles brings its warp to its comparison. A replica with an uncorrectable register error is rebuilt from another; where there is none,
the word of the register is poisoned. -/
def Sys2Proof.Claims.ReplicasCompared : Prop :=
  (∀ s : State, let w := s.arg.a
    compareDue s w = true → (replicaWarps s w).Nodup →
    let same := (replicaWarps s w).all fun v => voteOf s v == voteOf s w
    (same = true → exec .replicaComparison s = .next (agree s w) ∧
      ((warpOf s (leaderWarp s w)).hold = [] → (warpOf s (leaderWarp s w)).pendTrap = none → ∀ v ∈ replicaWarps s w,
        (warpOf s v).lanes ≠ [] → (warpOf (agree s w) v).cmps = (warpOf s v).cmps + 1 ∧ (warpOf (agree s w) v).sigN = 0 ∧
          (warpOf (agree s w) v).atCmp = false ∧ (warpOf (agree s w) v).cmpOk = !(warpOf s v).aged)) ∧
    (∀ bad good, same = false → minority? s w = some (bad, good) →
      exec .replicaComparison s = .next (agree (outvote s bad good) good)) ∧
    (same = false → minority? s w = none → exec .replicaComparison s = .next (mismatch s w))) ∧
  (∀ s : State, ageDue s s.arg.a = true → ∃ u, exec .holdAgeExpiry s = .next u ∧ SameRegisters s u ∧
    ∀ v ∈ replicaWarps s s.arg.a, (tblGet? s.warps v).isSome = true → (warpOf u v).atCmp = true ∧ (warpOf u v).aged = true) ∧
  ∀ s : State, (tblGet? s.warps s.arg.a).isSome = true → s.arg.b < 64 * (warpOf s s.arg.a).nv →
    let other := (replicasOf s s.arg.a).find? fun v => v != s.arg.a && !(warpOf s v).lanes.isEmpty
    (∀ good, other = some good → exec .replicaUncorrectableError s = .next (outvote s s.arg.a good)) ∧
    (other = none → ∃ u, exec .replicaUncorrectableError s = .next u ∧ SameRegisters s u ∧
      ∀ n, n ∈ (warpOf u s.arg.a).bad ↔ n = s.arg.b ∨ n ∈ (warpOf s s.arg.a).bad)

/-- R372, R373, R379, R380: in a vote of three replicas the one that differs is outvoted by the lower-numbered of the two that agree;
without redundancy `SIGCHK` gives 0, and `REPLQ` the replicas, the comparisons, the outvotes and the last cut. -/
def Sys2Proof.Claims.ReplicaQueries : Prop :=
  (∀ (s : State) (w a b c : Nat), replicasOf s w = [a, b, c] →
    (voteOf s a = voteOf s b → minority? s w = some (c, a)) ∧
    (voteOf s a = voteOf s c → voteOf s a ≠ voteOf s b → minority? s w = some (b, a)) ∧
    (voteOf s b = voteOf s c → voteOf s a ≠ voteOf s b → minority? s w = some (a, b)) ∧
    (voteOf s a ≠ voteOf s b → voteOf s a ≠ voteOf s c → voteOf s b ≠ voteOf s c → minority? s w = none)) ∧
  (∀ (p : BitVec 3) (d a : BitVec 7) (s : State) (g : Group), let i := Instr.sigchk p d a
    Claims.Ready s g i → ∃ u, exec i s = .next (retire u) ∧ Claims.MemoryKept s u ∧ Claims.Received s i (actors s g i) (fun _ => 0) u) ∧
  ∀ (p : BitVec 3) (d a : BitVec 7) (s : State) (g : Group), let i := Instr.replq p d a
    Claims.Ready s g i → (Claims.EachChecked s g i fun _ x => (lo32 x.a).toNat < 4) →
    ∃ u, exec i s = .next (retire u) ∧ Claims.MemoryKept s u ∧ Claims.Received s i (actors s g i) (fun m =>
      let k := partOfWarp s m.warp
      let n := match (lo32 (sources s g i m).a).toNat % 4 with
        | 0 => 4
        | 1 => 0
        | 2 => (ctxOf s (k / 8192)).outvoted
        | _ => if (partOf s k).desc = 0 then 0 else homeNat (noted s g i) ((partOf s k).desc + 0x40) 8
      BitVec.ofNat 128 (n % 2 ^ 64)) u

/-- R401, R402: a response gives STATUS, CAUSE and RES0, and clears GO; the command's area takes a written byte only where R401 lets it. -/
def Sys2Proof.Claims.MailboxArea : Prop :=
  (∀ (s : State) (p st c r : Nat), (tblGet? s.pkgs p).isSome = true → st < 256 → c < 256 → r < 2 ^ 64 →
    let u := respond s p st c r
    mbNat u p 0x40 1 = st ∧ mbNat u p 0x41 1 = c ∧ mbNat u p 0x48 8 = r ∧ mbNat u p 0x80 8 = 0 ∧ (pkgAt u p).busy = false ∧
      (∀ o, o < 0x40 ∨ 0x88 ≤ o → bmGet (pkgAt u p).mbox o = bmGet (pkgAt s p).mbox o) ∧ { u with pkgs := s.pkgs } = s) ∧
  ∀ (s : State) (b : Byte), (tblGet? s.pkgs s.arg.a).isSome = true → (pkgAt s s.arg.a).powered = true → s.arg.data = [b] →
    ∃ u, exec .mailboxAreaWrite s = .next u ∧ { u with pkgs := s.pkgs } = s ∧ ∀ o, bmGet (pkgAt u s.arg.a).mbox o =
      if o = s.arg.b ∧ ((mbGo s s.arg.a = false ∧ (o < 0x40 ∨ 0x80 ≤ o ∧ o < 0x88)) ∨ 0xC8 ≤ o ∧ o < 0xD0) then b
      else bmGet (pkgAt s s.arg.a).mbox o

/-- R402: a command that ends at once is refused with its cause, with no other effect, or has its effect and is answered; an opcode that names
no command is answered with STATUS 3. -/
def Sys2Proof.Claims.MailboxCommands : Prop :=
  (∀ i op due bad done, Claims.ShortCommand i op due bad done → ∀ s : State, Claims.Commanded s s.arg.a op → due s s.arg.a →
    (∀ c, bad s s.arg.a = some c → exec i s = .next (respond s s.arg.a 2 (causeCode c) 0)) ∧
    (bad s s.arg.a = none → exec i s = .next (done s s.arg.a))) ∧
  (∀ s : State, Claims.Commanded s s.arg.a 0x08 → mbSub s s.arg.a ≠ 1 →
    let able := plainMemory s s.arg.a (mbArg s s.arg.a 0) 160 && (allotPart? s s.arg.a).isSome && (bitmapCores s s.arg.a).all fun c => coreServes s c
    let bad := cmdRefusal s s.arg.a [51, 29] (mbSub s s.arg.a == 0) able
    (∀ c, bad = some c → exec .allotCores s = .next (respond s s.arg.a 2 (causeCode c) 0)) ∧
    ∀ k fresh, bad = none → allotPart? s s.arg.a = some (k, fresh) →
      exec .allotCores s = .next (answerDone (allotTo s s.arg.a k fresh) s.arg.a 0)) ∧
  (∀ s : State, (tblGet? s.pkgs s.arg.a).isSome = true → (pkgAt s s.arg.a).powered = true → (pkgAt s s.arg.a).failed = false →
    mbNat s s.arg.a 0x80 8 = 1 → mbOp s s.arg.a ∉ [1, 2, 3, 4, 5, 6, 7, 8, 0x10, 0x11, 0x20] →
    exec .unknownOpcode s = .next (respond s s.arg.a 3 0 0)) ∧
  ∀ (s : State) (p : Nat) (ws : List Nat) (inRange able : Bool), Claims.refusalOf
    (mbNat s p 2 6 = 0 ∧ ∀ i < 7, mbArg s p i < 2 ^ (ws.getD i 0)) (inRange = true) (able = true) (cmdRefusal s p ws inRange able)

/-- R402: a command that takes time is refused, or starts and says that it is busy; once what it waits for holds, it has its effect and is
answered. -/
def Sys2Proof.Claims.LongMailboxCommands : Prop :=
  ∀ i op due bad start ready finish, Claims.LongCommand i op due bad start ready finish → ∀ s : State, Claims.Commanded s s.arg.a op →
    due s s.arg.a →
    ((pkgAt s s.arg.a).busy = false → ∀ c, bad s s.arg.a = some c → exec i s = .next (respond s s.arg.a 2 (causeCode c) 0)) ∧
    ((pkgAt s s.arg.a).busy = false → bad s s.arg.a = none → exec i s = .next (answerBusy (start s s.arg.a) s.arg.a)) ∧
    ((pkgAt s s.arg.a).busy = true → ready s s.arg.a = true → exec i s = .next (finish s s.arg.a))

/-- R23, R330, R402, R404: what the commands leave: a new context has its number, its privilege and one part; allotted cores belong to the
part, with a logical core for each beyond those it has; a destroyed context is gone with its parts, holders, grids and queues. -/
def Sys2Proof.Claims.ContextTables : Prop :=
  (∀ (s : State) (p n : Nat), let u := createCtx s p n
    tblGet? u.ctxs s.nextId = some { priv := decide (mbSub s p % 2 = 1) } ∧ (partOf u (partKey s.nextId 0)).pkg = p ∧
      (partOf u (partKey s.nextId 0)).ctxid = n ∧ (partOf u (partKey s.nextId 0)).ncores = 0 ∧
      (∀ k, k ≠ partKey s.nextId 0 → partOf u k = partOf s k) ∧ SameRegisters s u) ∧
  (∀ (s : State) (p k : Nat), (tblGet? s.parts k).isSome = true → let u := allotTo s p k false
    (∀ c ∈ bitmapCores s p, k ∈ (pcoreAt u c).owners) ∧ (∀ c, c ∉ bitmapCores s p → pcoreAt u c = pcoreAt s c) ∧ SameRegisters s u) ∧
  ∀ (s : State) (x : Nat), (∀ e ∈ s.atoms, e.2.ctx = x → e.2.posted = none) → let u := removeCtx s x
    (∀ e ∈ u.wgs, e.2.ctx ≠ x) ∧ (∀ e ∈ u.grids, e.2.ctx ≠ x) ∧ (∀ e ∈ u.parts, e.1 / 8192 ≠ x) ∧ (∀ e ∈ u.warps, e.2.ctx ≠ x) ∧
      (∀ e ∈ u.ops, e.2.ctx ≠ x) ∧ (∀ p, ∀ e ∈ (pkgAt u p).queues, e.2.ctx ≠ x) ∧ u.writes = s.writes ∧ u.mem = s.mem

/-- R402: the error log and the journal are copied to memory, oldest first, in entries of 16 bytes, as many as the length asks for; RES0 is
the bytes copied. -/
def Sys2Proof.Claims.LogsRead : Prop :=
  ∀ (s : State) (i : Instr) (l : List (List Byte)), let p := s.arg.a
    (i = .readErrorLog ∧ mbSub s p = 0 ∧ l = (pkgAt s p).errlog.map errBytes) ∨ (i = .readJournal ∧ mbSub s p = 1 ∧ l = (pkgAt s p).journal) →
    Claims.Commanded s p 0x20 → readBad s p = none → readDue s p = true →
    let out := l.take (mbArg s p 1 / 16)
    ∃ u, exec i s = .next u ∧ SameRegisters s u ∧
      (Claims.PlainBytes s (gpOf p (mbArg s p 0)) out.flatten.length → Claims.BytesPut s u (gpOf p (mbArg s p 0)) out.flatten) ∧
      (16 * out.length < 2 ^ 64 → mbNat u p 0x48 8 = 16 * out.length) ∧ mbNat u p 0x40 1 = 0 ∧ mbNat u p 0x80 8 = 0

/-- R404 to R407: a thermal trip sets its output and is reported; without power the package keeps of its memory only what a durable cut holds;
a reset keeps the memory of its capacity tier and the journal, counts a start, and leaves the package on one die. -/
def Sys2Proof.Claims.PowerEvents : Prop :=
  (∀ s : State, (tblGet? s.pkgs s.arg.a).isSome = true → (pkgAt s s.arg.a).powered = true → s.arg.b ≤ 4 →
    ∃ u, exec .thermalTrip s = .next u ∧ (pkgAt u s.arg.a).trip = true ∧ { u with pkgs := s.pkgs } = s) ∧
  (∀ s : State, (tblGet? s.pkgs s.arg.a).isSome = true → (pkgAt s s.arg.a).powered = true → (∀ e ∈ s.atoms, e.2.posted = none) →
    ∃ u, exec .powerRemoval s = .next u ∧ (pkgAt u s.arg.a).powered = false ∧ (pkgAt u s.arg.a).journal = (pkgAt s s.arg.a).journal ∧
      ∀ a, bmGet u.mem a = if gpPkg a = s.arg.a ∧ hostLocal (gpLocal a) = false ∧
        ¬ (isCapacity (gpLocal a) = true ∧ inDurable s a = true) then 0 else bmGet s.mem a) ∧
  ∀ s : State, (tblGet? s.pkgs s.arg.a).isSome = true → s.arg.b < 4 → (∀ e ∈ s.atoms, e.2.posted = none) →
    ∃ u l, exec .deviceReset s = .next u ∧ (pkgAt u s.arg.a).powered = true ∧ (pkgAt u s.arg.a).full = false ∧
      (pkgAt u s.arg.a).starts = (pkgAt s s.arg.a).starts + 1 ∧ (pkgAt u s.arg.a).journal = (pkgAt s s.arg.a).journal ++ l ∧
      (pkgAt u s.arg.a).clk0 = s.clk ∧
      ((pkgAt u s.arg.a).failed = false → (pkgAt u s.arg.a).dies = [s.arg.b]) ∧
      (∀ a, bmGet u.mem a = if gpPkg a = s.arg.a ∧ hostLocal (gpLocal a) = false ∧ isCapacity (gpLocal a) = false then 0
        else bmGet s.mem a) ∧ ∀ k, k ≠ s.arg.a → (pkgAt u k).powered = (pkgAt s k).powered

/-- R381 to R385: an HBM row with a corrected error gains one in its count and, up to 255, in its score, and is on the hot list; an
uncorrectable error poisons its sector and sets the row's score to 255; scores halve once a day; a row leaves the hot list a week after
its last error; a scrub notes its moment; both copies of a remap table lost take the channel offline. No byte of memory changes. -/
def Sys2Proof.Claims.MemoryErrors : Prop :=
  (∀ s : State, errorAt s s.arg.a s.arg.b = true → isHbm s.arg.b = true → let p := s.arg.a
    let r := rowKey s.arg.b
    let x := rowState s p r
    (∃ u, exec .correctedError s = .next u ∧ rowState u p r = (min 255 (x.1 + 1), x.2.1 + 1, s.clk) ∧ r ∈ (pkgAt u p).hot ∧
      { u with pkgs := s.pkgs } = s) ∧
    ∃ u, exec .uncorrectableError s = .next u ∧ rowScore u p r = 255 ∧ u.poison = insNat (gpOf p s.arg.b / 32) s.poison ∧
      { u with pkgs := s.pkgs, poison := s.poison } = s) ∧
  (∀ s : State, errorAt s s.arg.a s.arg.b = true → isHbm s.arg.b = false →
    (∃ u e, exec .correctedError s = .next u ∧ (pkgAt u s.arg.a).errlog = (pkgAt s s.arg.a).errlog ++ [e] ∧ e.kind = 1 ∧
      { u with pkgs := s.pkgs } = s) ∧
    ∃ u e, exec .uncorrectableError s = .next u ∧ (pkgAt u s.arg.a).errlog = (pkgAt s s.arg.a).errlog ++ [e] ∧ e.kind = 2 ∧
      u.poison = insNat (gpOf s.arg.a s.arg.b / 32) s.poison) ∧
  (∀ s : State, pkgLive s s.arg.a = true → (pkgAt s s.arg.a).halveAt + 155520000000000 ≤ s.clk →
    ∃ u, exec .scoreHalving s = .next u ∧ (∀ r, rowScore u s.arg.a r = rowScore s s.arg.a r / 2) ∧ { u with pkgs := s.pkgs } = s) ∧
  (∀ s : State, s.arg.b ∈ (pkgAt s s.arg.a).hot → (rowState s s.arg.a s.arg.b).2.2 + 7 * 155520000000000 ≤ s.clk →
    ∃ u, exec .hotRowAgeOut s = .next u ∧ (pkgAt u s.arg.a).hot = (pkgAt s s.arg.a).hot.filter (fun r => r != s.arg.b) ∧
      { u with pkgs := s.pkgs } = s) ∧
  (∀ s : State, pkgLive s s.arg.a = true → rowStack s.arg.b ∈ (pkgAt s s.arg.a).hbm →
    exec .scrubRow s = .next (updPkg s s.arg.a fun k => { k with scrubbed := tblSet k.scrubbed s.arg.b s.clk })) ∧
  ∀ s : State, pkgLive s s.arg.a = true →
    (s.arg.flag = true → s.arg.b ∉ (pkgAt s s.arg.a).offline → ∃ u, exec .remapTableError s = .next u ∧
      (pkgAt u s.arg.a).offline = insNat s.arg.b (pkgAt s s.arg.a).offline ∧ { u with pkgs := s.pkgs } = s) ∧
    (s.arg.flag = false → ∃ u e, exec .remapTableError s = .next u ∧ (pkgAt u s.arg.a).errlog = (pkgAt s s.arg.a).errlog ++ [e] ∧ e.kind = 1 ∧
      { u with pkgs := s.pkgs } = s)

/-- R397, R398: a flit with a wrong CRC, or out of its link's order, changes no memory: the first counts as a replay, and the seventeenth in a row
makes the port retrain; a good write that this package can take puts its payload in its sector, and a good read changes no memory; a
retrained port carries traffic again. -/
def Sys2Proof.Claims.Flits : Prop :=
  (∀ s : State, flitDue s s.arg.a s.arg.b s.arg.bits = true → let x := portOf s s.arg.a s.arg.b
    let f := s.arg.bits
    (crcGood f = false → ∃ u, exec .flitReceive s = .next u ∧ { u with pkgs := s.pkgs } = s ∧
      (portOf u s.arg.a s.arg.b).replays = x.replays + 1 ∧ (portOf u s.arg.a s.arg.b).retrain = decide (16 ≤ x.replays)) ∧
    (crcGood f = true → flitSeq f ≠ x.expect % 65536 → exec .flitReceive s = .next s) ∧
    (crcGood f = true → flitSeq f = x.expect % 65536 → flitDst f = s.arg.a → flitReaches s s.arg.a f = true → flitKind f = 1 →
      ∃ u, exec .flitReceive s = .next u ∧ { u with pkgs := s.pkgs } = s) ∧
    (crcGood f = true → flitSeq f = x.expect % 65536 → flitDst f = s.arg.a → flitReaches s s.arg.a f = true → flitKind f = 2 →
      Claims.PlainBytes s (flitAddr f / 32 * 32) 32 →
      ∃ u, exec .flitReceive s = .next u ∧ Claims.BytesPut s u (flitAddr f / 32 * 32) (flitPayload f) ∧ SameRegisters s u)) ∧
  (∀ s : State, fullLive s s.arg.a = true → s.arg.b < 8 → (portOf s s.arg.a s.arg.b).retrain = true →
    ∃ u, exec .portRetrainEnd s = .next u ∧ (portOf u s.arg.a s.arg.b).retrain = false ∧ { u with pkgs := s.pkgs } = s ∧
      (s.arg.flag = false → (portOf u s.arg.a s.arg.b).up = false)) ∧
  ∀ s : State, pkgLive s s.arg.a = true → 8 ≤ s.arg.b → s.arg.b ≤ 14 → (portOf s s.arg.a s.arg.b).up = true →
    ∃ u, exec .linkDown s = .next u ∧ (portOf u s.arg.a s.arg.b).up = false ∧ { u with pkgs := s.pkgs } = s

/-- R395, R396, R399: writes of the host and of RDMA that may be performed put their bytes where they name them; RDMA is checked as a store of
its context, and one that fails changes nothing; a read through CXL.mem changes nothing; a send entry is taken, and completes later. -/
def Sys2Proof.Claims.OutsideWrites : Prop :=
  (∀ s : State, let a := gpOf s.arg.a s.arg.b
    hostReach s s.arg.a s.arg.b s.arg.data.length = true → agentFree s a s.arg.data.length = true → Claims.PlainBytes s a s.arg.data.length →
    (∃ u, exec .hostBar2Write s = .next u ∧ Claims.BytesPut s u a s.arg.data ∧ SameRegisters s u) ∧
    ((pkgAt s s.arg.a).hostCxl = true → (s.arg.flag = false → exec .hostCxlMemAccess s = .next s) ∧
      (s.arg.flag = true → ∃ u, exec .hostCxlMemAccess s = .next u ∧ Claims.BytesPut s u a s.arg.data ∧ SameRegisters s u))) ∧
  (∀ s : State, inboundDue s s.arg.a s.arg.c s.arg.b s.arg.data.length = true →
    (inboundPage? s s.arg.a s.arg.c s.arg.b = none → exec .rdmaInboundWrite s = .next s) ∧
    ∀ k e, inboundPage? s s.arg.a s.arg.c s.arg.b = some (k, e) → isOnChip (gpLocal (physOf e s.arg.b)) = false →
      Claims.PlainBytes s (physOf e s.arg.b) s.arg.data.length →
      ∃ u, exec .rdmaInboundWrite s = .next u ∧ Claims.BytesPut s u (physOf e s.arg.b) s.arg.data ∧ SameRegisters s u) ∧
  (∀ s : State, etherUp s s.arg.a s.arg.b = true → ∃ u, exec .rdmaSendWake s = .next u ∧
    (portOf u s.arg.a s.arg.b).sq = (portOf s s.arg.a s.arg.b).sq + 1 ∧ { u with pkgs := s.pkgs } = s) ∧
  ∀ s : State, etherUp s s.arg.a s.arg.b = true → (portOf s s.arg.a s.arg.b).cq < (portOf s s.arg.a s.arg.b).sq →
    ∃ u, exec .rdmaCompletion s = .next u ∧ (portOf u s.arg.a s.arg.b).cq = (portOf s s.arg.a s.arg.b).cq + 1 ∧ { u with pkgs := s.pkgs } = s

/-- R80 to R82: the load of a code object answers the context with the object in place, its relocations resolved and its global names bound;
a refused one leaves the context as it was: a malformed object, and one whose names conflict, for which the answer is DUPLICATE_SYMBOL. -/
def Sys2Proof.Claims.CodeLoads : Prop :=
  ∀ s : State, (tblGet? s.ctxs s.arg.a).isSome = true →
    (∀ v, load? s s.arg.a s.arg.b s.arg.data = some v → exec .codeObjectLoad s = .next { v with loadAnswer := .done } ∧
      (ctxOf v s.arg.a).syms.map (fun d => (d.name, d.addr, d.recNum, d.strong)) =
        ((ctxOf s s.arg.a).syms ++ newDefs s.arg.data (secBases (sectionsOf s.arg.data) s.arg.b)).map
          (fun d => (d.name, d.addr, d.recNum, d.strong))) ∧
    (load? s s.arg.a s.arg.b s.arg.data = none → ∃ r, exec .codeObjectLoad s = .next { s with loadAnswer := r } ∧ r ≠ .done) ∧
    (objectOk s.arg.data = false → exec .codeObjectLoad s = .next { s with loadAnswer := .refused }) ∧
    ∀ d e, d ∈ newDefs s.arg.data (secBases (sectionsOf s.arg.data) s.arg.b) → e ∈ (ctxOf s s.arg.a).syms → d.name = e.name →
      d.strong = true → e.strong = true → objectOk s.arg.data = true →
      exec .codeObjectLoad s = .next { s with loadAnswer := .duplicateSymbol }

/-- R55, R64 to R69: the word of a well-formed instruction decodes to that instruction, from the word, from its four bytes with the rest
left over, and from a table row's bits. -/
def Obligations.DecodeEncode : Prop :=
  ∀ (i : Instr) (w : Word), encode i = some w → i.wf = true →
    decodeWord w = .ok i ∧ decodeTableWord 32 w.toNat = some i ∧
      ∀ rest, decodeBytes (w.extractLsb' 0 8 :: w.extractLsb' 8 8 :: w.extractLsb' 16 8 :: w.extractLsb' 24 8 :: rest) = some (i, rest)

/-- R64: a word of an assigned cell whose operand and selector values are admitted either has every unused field, and every reserved value of a
selector, at zero, and then it is the one word of its instruction; or it raises RESERVED_FIELD. Nothing in an instruction word is ignored. -/
def Obligations.NothingIgnored : Prop :=
  ∀ (w : Word) (i : Instr) (m : Word), cell w = some (i, m) →
    encode i = some (w &&& ~~~m) ∧ (w &&& m = 0#32 → decodeWord w = .ok i) ∧ (w &&& m ≠ 0#32 → decodeWord w = .bad .reservedField) ∧
    (valueCause i = none → (w &&& m ≠ 0#32 ∨ reservedCause i ≠ none → wordBad w none = some .reservedField) ∧
      (w &&& m = 0#32 → reservedCause i = none → wordBad w none = none))

/-- R55, R65 to R69: words written out from the encoding tables decode to the instructions they stand for. -/
def Obligations.KnownWords : Prop :=
  ∀ e ∈ Claims.knownWords, decodeWord e.1 = .ok e.2

/-- R64, R65: an unassigned major or MIN is ILLEGAL_ENCODING; a non-zero B field in a cell that does not use it is RESERVED_FIELD. -/
def Obligations.UnassignedCells : Prop :=
  ∀ w : Word, let maj := w.extractLsb' 26 6
    let cellOf := (maj, w.extractLsb' 0 2)
    (maj ∈ Claims.emptyMajors ∨ cellOf ∈ Claims.emptyCells → decodeWord w = .bad .illegalEncoding) ∧
      (cellOf ∈ Claims.cellsWithoutB → w.extractLsb' 2 7 ≠ 0 → decodeWord w = .bad .reservedField)

/-- R63, R69: the checks of a clause in their order: a clause past its line; a reserved header value; the first body word that is no assigned,
admitted and clean instruction; a misplaced word; the first privileged sub-op in an unprivileged context. Exactly eight
instructions are privileged. -/
def Obligations.ClauseChecks : Prop :=
  (∀ (priv : Bool) (k : Nat) (h : Word) (body : List Word), let n := instrCount body 0 0 body.length
    let ws := body.take n
    let bad := clauseBad priv k h body
    let good (j : Nat) : Prop := wordBad (ws.getD j 0) (Claims.patsAt ws j) = none
    let fits := k + hdrLen h + 2 ≤ 16
    (¬ fits → bad = some ⟨.illegalEncoding, 0⟩) ∧
    (fits → headerBad h = true → bad = some ⟨.reservedField, 0⟩) ∧
    (fits → headerBad h = false →
      (∀ j c, j < ws.length → (∀ i < j, good i) → wordBad (ws.getD j 0) (Claims.patsAt ws j) = some c → bad = some ⟨c, j + 1⟩) ∧
      ((∀ j < ws.length, good j) → placeBad (decide (body.length < n + litsBefore body n)) ws 0 = none →
        (∀ j < ws.length, priv = false → (∀ i < j, Claims.privWord (ws.getD i 0) = false) → Claims.privWord (ws.getD j 0) = true →
          bad = some ⟨.privilege, j + 1⟩) ∧
        (priv = true ∨ (∀ j < ws.length, Claims.privWord (ws.getD j 0) = false) → bad = none)))) ∧
  ∀ i : Instr, (shapeOf i).priv = true ↔ Claims.Privileged i

/-- R17, R51: a step runs the decoded instruction: a group's present word that decodes to an instruction gives a due transition wherever that
instruction's meaning answers, and the step that takes it answers that meaning's state, with its progress events counted and time passed.
The issue of a clause goes on to the first instruction of the group that it starts. Where nothing is due, time alone passes. -/
def Obligations.StepRunsDecoded : Prop :=
  (∀ (s : State) (q : Nat) (g : Group) (i : Instr) (u : State), tblGet? s.groups q = some g → decodeWord (g.body.getD g.pos 0) = .ok i →
    let t : Trans := { instr := i, slot := q }
    exec i (t.arm s) = .next u →
    t ∈ ownTrans s ∧ (choose s (ownTrans s ++ dueInputs s) = some t → step s = .next (advance (countEvents i (t.arm s) u)))) ∧
  (∀ (s u v : State) (q : Nat) (g : Group) (i : Instr), let t : Trans := { instr := .clauseIssue, arg := { a := q } }
    let w := countEvents .clauseIssue (t.arm s) u
    t ∈ ownTrans s → exec .clauseIssue (t.arm s) = .next u → choose s (ownTrans s ++ dueInputs s) = some t →
    tblGet? w.groups q = some g → decodeWord (g.body.getD g.pos 0) = .ok i → exec i { w with cur := q } = .next v →
    step s = .next (advance (countEvents i { w with cur := q } v))) ∧
  ∀ s : State, ownTrans s = [] → dueInputs s = [] → step s = .next (advance s)

/-- R61: `BRA`, `BRC`, `CALL`, `RET`, `JMPI` and `EXIT` are the control transfers; a clause that holds one before its last instruction word raises
ILLEGAL_ENCODING. At the end of the clause a member for which a transfer takes effect stands at its target, one that `EXIT` takes has ended,
and every other stands at the header address + 4 × (LEN + 2), with its registers; before the end the group goes on to the next word. -/
def Obligations.ClauseEnd : Prop :=
  (∀ i : Instr, (shapeOf i).xfer = true ↔ (∃ f, Claims.Transfer i f) ∨ ∃ p, i = .exitT p) ∧
  (∀ (priv : Bool) (k : Nat) (h : Word) (body : List Word) (j : Nat), let n := instrCount body 0 0 body.length
    let ws := body.take n
    k + hdrLen h + 2 ≤ 16 → headerBad h = false → (∀ i < ws.length, wordBad (ws.getD i 0) (Claims.patsAt ws i) = none) →
    n + litsBefore body n ≤ body.length → (∀ i ≤ j, prefixOf (ws.getD i 0) = none) →
    j + 1 < ws.length → (∀ i < j, Claims.xferWord (ws.getD i 0) = false) → Claims.xferWord (ws.getD j 0) = true →
    clauseBad priv k h body = some ⟨.illegalEncoding, j + 1⟩) ∧
  ∀ (s : State) (g : Group), curGroup? s = some g → g.mem ≠ [] →
    (g.pos + 1 < groupInstrs g → retire s = { s with groups := tblSet s.groups s.cur { g with pos := g.pos + 1, patA := 0, patB := 0 } }) ∧
    (groupInstrs g ≤ g.pos + 1 → let u := retire s
      (keysRise s.groups = true → tblGet? u.groups s.cur = none) ∧
      ∀ m ∈ g.mem, present s m.warp m.lane = true →
        ((thrOf s m).helper = false → m.lane ∉ g.ended → g.body.length = hdrLen g.hdr + 1 →
          (thrOf u m).pc = (tblGet? g.taken m.lane).getD (g.pc + BitVec.ofNat 64 (4 * (hdrLen g.hdr + 2))) ∧ (thrOf u m).pos = 0 ∧
            (thrOf u m).preds = (thrOf s m).preds ∧ ∀ r, vreg u m.warp m.lane r = vreg s m.warp m.lane r) ∧
        (m.lane ∈ g.ended → keysRise (warpOf s m.warp).lanes = true → present u m.warp m.lane = false))

/-- R97: `NOP` has no effect; `YIELD` gives the end of its clause the effect of the header bit YLD, and a clause with both yields once. -/
def Obligations.NopAndYield : Prop :=
  (∀ (p : BitVec 3) (s : State) (g : Group), Claims.Ready s g (.nop p) → exec (.nop p) s = .next (retire (noted s g (.nop p)))) ∧
  (∀ (p : BitVec 3) (s : State) (g : Group), Claims.Ready s g (.yield p) →
    exec (.yield p) s = .next (retire (if actors s g (.yield p) = [] then noted s g (.yield p)
      else updGroup (noted s g (.yield p)) s.cur fun h => { h with yld := true }))) ∧
  ∀ (s : State) (g : Group), let flagged : Group := { g with hdr := g.hdr ||| 0x80#32 }
    endClause s { g with yld := true } = endClause s flagged ∧ endClause s { flagged with yld := true } = endClause s flagged

/-- R38: predicates p0 to p6 are one bit per thread; p7 reads as true, and a write to it is discarded; an instruction with PRED 7 is performed by
every member of its group, and one with another PRED by the members whose predicate of that number is true. -/
def Obligations.PredicateBits : Prop :=
  (∀ (t : Thread) (k : Nat) (v : Bool), k < 7 → predOf (setPred t k v) k = v ∧ (∀ j, j ≠ k → predOf (setPred t k v) j = predOf t j)) ∧
  (∀ (t : Thread) (v : Bool), predOf t 7 = true ∧ setPred t 7 v = t) ∧
  ∀ (s : State) (g : Group) (p : BitVec 3) (m : Member), m ∈ g.mem → m.lane < 64 →
    (m ∈ active s g p ↔ p = 7 ∨ (thrOf s m).preds.getLsbD p.toNat = true)

/-- R157: `MATCH`: D is an even pair, B is reserved; every participant receives the mask of the lanes of its warp whose participants have a 32-bit
value of a that is bitwise equal to its own; its own bit is set. -/
def Obligations.MatchMask : Prop :=
  (∀ (p : BitVec 3) (d a : BitVec 7), valueCause (.matchAny p d a) = none → d.toNat % 2 = 0 ∨ d = 127) ∧
  (∀ w : Word, w.extractLsb' 26 6 = 0x27#6 → w.extractLsb' 0 2 = 3#2 → w.extractLsb' 2 7 ≠ 0#7 → decodeWord w = .bad .reservedField) ∧
  ∀ (p : BitVec 3) (d a : BitVec 7) (s : State) (g : Group), let i := Instr.matchAny p d a
    curGroup? s = some g → OperandsPass s g i →
    ∃ u f, exec i s = .next (retire u) ∧ RegEffect s g i (participants s g i) f u ∧ ∀ m ∈ participants s g i,
      (f m).d.getLsbD m.lane = true ∧ (f m).preds = [] ∧ (f m).fp = 0 ∧
      ∀ k < 64, (f m).d.getLsbD k = true ↔
        ∃ n ∈ participants s g i, n.warp = m.warp ∧ n.lane = k ∧ lo32 (sources s g i n).a = lo32 (sources s g i m).a

/-- R406: full service begins on the mailbox command, which is refused while any context is resident. -/
def Obligations.FullService : Prop :=
  ∀ s : State, let p := s.arg.a
    Claims.Commanded s p 0x11 → argsClean s p [] = true → mbSub s p = 0 →
    (ctxResident s p = true → exec .enterFullService s = .next (respond s p 2 (causeCode .access) 0)) ∧
    ((pkgAt s p).full = false → ctxResident s p = false →
      ∃ u, exec .enterFullService s = .next u ∧ (pkgAt u p).full = true ∧ mbNat u p 0x40 1 = 0)

/-- R34, R101, R338: an operand at or above E, in a poisoned register, or in a constant slot that faults, of a member that is active and no helper traps
before any effect: the group is dissolved, no register changes, the member stands at the instruction, and where the operand names a register at or above E a
warp that does not run ahead is trapped. -/
def Obligations.OperandTraps : Prop :=
  ∀ (i : Instr) (s : State) (g : Group) (m : Member), Claims.PlainRegister i → curGroup? s = some g → Unreplicated s g →
    m ∈ actors s g i → (thrOf s m).helper = false → present s m.warp m.lane = true → (operandFail s (shapeOf i) m).isSome = true →
    let u := trapBefore s g (actors s g i) (Claims.operandFails s g i)
    exec i s = .next u ∧ (∀ r, vreg u m.warp m.lane r = vreg s m.warp m.lane r) ∧ (∀ n, ureg u m.warp n = ureg s m.warp n) ∧
      (thrOf u m).pc = g.pc ∧ (thrOf u m).pos = g.pos + 1 ∧ (thrOf u m).preds = (thrOf s m).preds ∧
      (Claims.AboveWindow s i m → (warpOf s m.warp).ahead = none → (warpOf u m.warp).trapped = true)

/-- R39, R215: what an instruction leaves behind where it reads a constant slot: copies and cached entries alone, and an audit record of a denied
read; an instruction that reads no constant slot leaves nothing. -/
def Obligations.ReadTraces : Prop :=
  (∀ (s : State) (sh : Shape) (ms : List Member), let u := constTraces s sh ms
    { u with mem := s.mem, poison := s.poison, lineKey := s.lineKey, parts := s.parts, lcores := s.lcores, ctxs := s.ctxs } = s ∧
      ((∀ k, (ctxOf u k).auditSeq = (ctxOf s k).auditSeq) → BytesKept s u fun _ => True) ∧
      ((∀ x ∈ [sh.a, sh.b, sh.d], readWidth x.use = 0 ∨ x.f.toNat < 112 ∨ x.f.toNat = 127) → u = s)) ∧
  ∀ (s : State) (g : Group) (i : Instr), let u := noted s g i
    SameRegisters s u ∧ { u with warps := s.warps } = constTraces s (shapeOf i) (actors s g i)

/-- R120, R126: an exact value, in units of the place at which it is rounded, goes to the value that its mode chooses; the result is inexact
where it is another value. -/
def Obligations.RoundingModes : Prop :=
  ∀ (rm : RMode) (neg : Bool) (m : Nat) (e q : Int), let x := Claims.exactUnits m e q
    let r := roundAt rm neg m e q false
    (r.2 = true ↔ (r.1 : ℚ) ≠ x) ∧
      (match rm with
       | .near => abs ((r.1 : ℚ) - x) ≤ 1 / 2 ∧ (abs ((r.1 : ℚ) - x) = 1 / 2 → r.1 % 2 = 0)
       | .zero => (r.1 : ℚ) ≤ x ∧ x < r.1 + 1
       | .up => if neg then (r.1 : ℚ) ≤ x ∧ x < r.1 + 1 else x ≤ r.1 ∧ (r.1 : ℚ) < x + 1
       | .down => if neg then x ≤ r.1 ∧ (r.1 : ℚ) < x + 1 else (r.1 : ℚ) ≤ x ∧ x < r.1 + 1
       | .sr rnd => (r.1 : Int) = ⌊x⌋ + (if 2 ^ 32 ≤ ⌊(x - ⌊x⌋) * 2 ^ 32⌋ + (rnd.toNat : Int) then 1 else 0))

/-- R401, R405, logs 6 and 7: right after reset package 0 works in reduced service on one die, die 0 (the model's choice of the die), with
its three stacks; no context and no work is resident; the mailbox and the event ring read zero (the model's choice too); the journal holds
a passed record of each step. Memory lists nothing and has its canonical form. -/
def Obligations.ResetState : Prop :=
  let s := State.reset
  Memory.wf s.mem = true ∧ s.mem = [] ∧ s.clk = 0 ∧ s.ctxs = [] ∧ s.parts = [] ∧ s.grids = [] ∧ s.warps = [] ∧ s.groups = [] ∧ s.writes = [] ∧
    (pkgAt s 0).powered = true ∧ (pkgAt s 0).full = false ∧ (pkgAt s 0).failed = false ∧ (pkgAt s 0).dies = [0] ∧
    (pkgAt s 0).hbm = [0, 1, 2] ∧ (pkgAt s 0).mbox = [] ∧ (pkgAt s 0).queues = [] ∧ (pkgAt s 0).starts = 1 ∧
    (pkgAt s 0).journal.length = 8 ∧ (∀ r ∈ (pkgAt s 0).journal, r.length = 16 ∧ recResult r = 0) ∧ (tblGet? s.pkgs 1) = none

/-- Memory keeps its canonical form: from every state that has it, every step leads to one that has it. -/
def Obligations.StepKeepsMemory : Prop :=
  ∀ s t : State, MemOk s → step s = .next t → MemOk t

/-- R17, R63, R99, R284: the issue of a clause whose fetch and checks pass starts a group at it: members that are ready, of one workgroup
and at one place, in distinct lanes, or, where a group was deferred as one, that group; a thread at the entry takes its warp's window base.
R62, R63, R338: a clause that a thread's fetch does not reach, or whose checks fail, traps the warps of its group where they stand, before
any instruction: with the fetch's cause, with BAD_TARGET where no header stands, or with the cause and the word of the first check that
fails. -/
def Obligations.ClauseIssue : Prop :=
  Claims.ClauseStarts ∧
  Claims.ClauseTraps

/-- R84 to R88, R92: an integer instruction completes. Every actor's destination receives the result that the table gives (a uniform
destination that of the lowest actor, D = 127 nothing), p6 the carry or borrow, and nothing else changes. R89 to R91: a compare, a predicate
operation and `SEL` complete with their result and change nothing else. -/
def Obligations.RegisterInstructions : Prop :=
  Claims.IntegerResults ∧
  Claims.PredicateResults

/-- R133 to R142: a vector floating-point instruction that raises no enabled flag completes with its result and its flags. R143 to R153: a
conversion that raises no enabled flag completes with its result and its flags. -/
def Obligations.FloatingPointInstructions : Prop :=
  Claims.FloatResults ∧
  Claims.ConversionResults

/-- R154 to R160: a cross-lane instruction that raises no enabled flag gives every participant its result, in its own warp. R155: `QSWP`
gives every actor, helpers included, the register of the thread in its quad whose lane differs in the mnemonic's bits, and zero where no
thread stands. -/
def Obligations.CrossLaneInstructions : Prop :=
  Claims.CrossLaneResults ∧
  Claims.QuadSwapResults

/-- R88: `SMOV` to a uniform register writes the value of each represented warp's lowest active member that is no helper, and nothing else.
R88, R93, R149: `SMOV` from a uniform register, `IDX2` and `CVTW` complete with their result where their own check passes. -/
def Obligations.CheckedInstructions : Prop :=
  Claims.UniformWrite ∧
  Claims.CheckedRegisterResults

/-- R147: `CVTN` without SR rounds in the mode of `FPCTL` and replaces one field of D. R147, R148: `CVTN` with SR rounds stochastically: the
generator word of each actor's lane in the named bank takes one step, and the value it steps to decides. The group holds a lane once, as
issue groups do (R17). -/
def Obligations.NarrowConversions : Prop :=
  Claims.NarrowRounded ∧
  Claims.NarrowStochastic

/-- R100 to R102: a global load that passes its checks is pending: its destination will receive the bytes that the member reads, the flag
has risen, no register has changed yet, and no byte of memory. R200, R205, R220: a load with acquire strength is made at its scope's point;
where its page's tag allows it, its core, from hall scope on, and its die, from package scope on, hold afterwards no copy but of bytes that
the instruction itself has loaded. -/
def Obligations.LoadsAndAcquires : Prop :=
  Claims.GlobalLoads ∧
  Claims.AcquireLoads

/-- R100, R103, R271: a global store that passes its checks puts the low bytes of each actor's D on their way, in lane order, the
translation of each noted. Where no store goes to a shared line of a deterministic grid, no register changes and every byte outside the
stored ones reads as before. R221: a store with release strength puts each actor's bytes on their way; the write of a plain word carries the
level of its scope, below which it does not leave the queue before what it orders. -/
def Obligations.StoresAndReleases : Prop :=
  Claims.GlobalStores ∧
  Claims.ReleaseStores

/-- R101, R103, R105: a scratchpad load that passes its checks is pending with the bytes of the thread's own scratchpad; a helper's that
would fail delivers zeros. R100, R103, R203: a scratchpad store puts the low bytes of each actor's D into its warp's store queue, in lane
order, from where the warp's own scratchpad reads see them; what every other warp sees of its scratchpad, the banks themselves, every
register and every other byte stay. -/
def Obligations.ScratchpadAccesses : Prop :=
  Claims.ScratchpadLoads ∧
  Claims.ScratchpadStores

/-- R106: a constant load that passes its checks is pending with the bytes that the constant path delivers, zeros where the page's tag
denies them. R107: `PREF` completes and has no effect but that of reading its operands. -/
def Obligations.ConstantPath : Prop :=
  Claims.ConstantLoads ∧
  Claims.PrefetchOnly

/-- R114, R115: `LDR` is pending with the packed elements of the record that lie in its extent, after clamping or wrapping. R114, R115:
`STR` stores each element of each actor's unit that lies in the record's extent, in lane and element order. -/
def Obligations.RecordAccesses : Prop :=
  Claims.RecordLoads ∧
  Claims.RecordStores

/-- R225, R229, R231: a returning atomic that passes its checks issues a pending return for each represented warp and one operation for each
actor that is no helper; one on plain memory leaves with its word and its operands, and no register or byte changes yet. R225, R229: a
reduction that passes its checks issues one operation for each actor that is no helper; no register changes. -/
def Obligations.AtomicsAndReductionsIssue : Prop :=
  Claims.AtomicsIssue ∧
  Claims.ReductionsIssue

/-- R208, R226, R227, R230: `ATOMIC_PERFORM` on memory outside the capacity tier and the lost channels, where a reduction finds no poison,
writes the operation's value over its word and nothing else, and hands the old value to the pending return; no register changes. R228:
`ATOMIC_PERFORM` of an operation that returns nothing, on a poisoned word, writes nothing there: the operation is gone, and all else that
happens is that a record of cause MEM_POISON is appended to its context's fault queue. R281: a posted operation whose record is answered,
and behind which no earlier posted one of its thread on its bytes waits, is replayed, and its replay completes in every such state: a
translation and tag that now pass send it on its way to the word as translated now; one that fails again is recorded anew, and it stays held
under the new record. -/
def Obligations.AtomicsPerformed : Prop :=
  Claims.AtomicPerformed ∧
  Claims.AtomicOnPoison ∧
  Claims.PostedReplay

/-- R233, R235: a compare-and-swap that passes its checks issues its operation, which holds no lock and wants the line of every word, lowest
address first; its member leaves the group and stands after the instruction until the compare. R209, R210, R234: the grant of the last lock
compares every word at once: with all words as expected, every new value is written and D will receive 0; otherwise memory stays, and D will
receive status 1 and the mask of the words that differ. R210: a grant that is not the last adds the lock and changes no byte; after the
window of 2 µs (3600 c-cycles), LOCK_BUSY ends the operation: nothing is written, and D will receive 0x1C000000. -/
def Obligations.MultiWordCompareAndSwap : Prop :=
  Claims.McasIssues ∧
  Claims.McasCompares ∧
  Claims.McasLocks

/-- R200, R222: a fence completes where nothing that it waits for is outstanding: one with release strength, and any at warp scope, when the
release at its scope is complete; another when the thread's returning atomics and compare-and-swaps are performed; none while the thread's
acquire is pending. It changes no register and no byte; one with acquire strength drops the copies below its scope's point. R222: a member
whose release is not complete does not pass a fence of release strength: it stands at it, outside the group, with no trap taken and nothing
else done. R223: `ACQR` waits until every write that the victim's core has taken is merged at its home; then the victim's copies and those
of the member's own core and die are dropped, and nothing else changes. R224: `CFENCE` discards the constant-path copies, and `IFENCE` the
code lines, of the logical core of every actor that is no helper; memory and registers stay. -/
def Obligations.FencesAndSynchronisation : Prop :=
  Claims.FencesComplete ∧
  Claims.FenceWaits ∧
  Claims.AcquireRemote ∧
  Claims.CodeAndConstantFences

/-- R198, R201: a write that may move goes to the next level of its path; no home changes and no register. R201, R203: a write that reaches
its home, in memory that is not of the capacity tier and in no lost channel, merges exactly its bytes; one to a place of the on-chip map, a
scratchpad store among them, takes that place, and memory stays; then its warp is settled. -/
def Obligations.WritesOnTheirWay : Prop :=
  Claims.WriteMoves ∧
  Claims.WriteMerges

/-- R94, R95: a transfer whose targets are clause headers gives each member that takes it its target, which the clause end follows; a `CALL`
writes the address of the clause behind it to D; nothing else changes, and a member whose vote fails falls through. R62, R95: where the one
actor's target is no clause header, the actor stands at the transfer again, outside the group, and its warp traps there with BAD_TARGET. -/
def Obligations.ControlTransfers : Prop :=
  Claims.Transfers ∧
  Claims.BadTargetTraps

/-- R96 to R99: `EXIT` ends its actors at the clause end; `CONV` itself does nothing; a prefix hands its patterns to the next instruction.
R99: `WBASE` gives each represented warp the value of its lowest active member that is no helper, a multiple of 32 below the tiles; any
other value traps that warp with WINDOW_RANGE before any effect. -/
def Obligations.ClauseAndWindow : Prop :=
  Claims.ClauseControl ∧
  Claims.WindowBase

/-- R285 to R287: `BARA`, `BARW` and `BAR` complete where no arrival waits for its release or is refused as the lower ones leave the
barrier; an arrival counts in its workgroup's barrier, and the arrival that completes the phase opens the next one. The one arrival is
refused whose count is above 1,024, or not 0 at b0, or differs from that of the open phase, or whose thread has arrived in it. R287, R288: a
member waits at a barrier while the phase of its pending arrival is open: it leaves the group and stands at the instruction; once the phase
is over its arrival is no longer pending and it goes on. R289 to R291: `MARRIVE` sends one arrival for each actor that is no helper, which
waits after the instruction; performed, it adds one to COUNT, or, where EXPECT is reached, clears COUNT and steps PHASE, and returns the
PHASE before. `MWAIT` goes on where PHASE differs, and acquires at the object's SCOPE. -/
def Obligations.Barriers : Prop :=
  Claims.WorkgroupBarriers ∧
  Claims.BarrierWait ∧
  Claims.BarrierObjects

/-- R263, R283, R294: `SLEEP` goes on where its count is 0, and where the member's sleep has expired; a count n sends the one actor away
until 3 min(n, 2^24) c-cycles have passed; expiry, and a retest of any wait whose condition holds, make the thread ready and change nothing
else. R239: a thread's `TWAIT` ends when its counter has reached the number, and then acquires: its core drops its copies; until then the
thread waits at the instruction. R292, R293: the full/empty loads and stores answer with the members that the words let pass, and defer the
others; one actor takes a full word (and leaves it empty, or as it is), or fills an empty one, and waits at the instruction otherwise. -/
def Obligations.WaitsAndFullEmpty : Prop :=
  Claims.SleepAndRetest ∧
  Claims.CounterWait ∧
  Claims.FullEmptyWords

/-- R239: `TREAD` gives the value of its counter; `RDCLK` (R358) the a-cycles, the c-cycles since reset, or the a-cycles of the context;
`RAND` to each member a value of its own, which the model leaves free (log 10). R237, R239: the actors of `TSIGNAL` that are no helpers
receive the next numbers of the counter, in lane order. Where what they issued earlier has not been performed at the scope, each number is
an operation that completes once it is; where it has, the numbers are complete at once, and the counter's value reaches them when every
lower number is complete (R211). -/
def Obligations.CountersAndClock : Prop :=
  Claims.CounterAndClock ∧
  Claims.SignalNumbers

/-- R165: `TSHAPE` gives each represented warp the granted shape, which its actors receive in D. R164, R178: `TMOV` copies the 1,024 bytes
of a tile, none of whose words is poisoned, into the operand buffer, or back, row after row; it answers with that one effect for each warp.
-/
def Obligations.TilesShapedAndMoved : Prop :=
  Claims.ShapeGranted ∧
  Claims.TileMove

/-- R53, R168, R170: a matrix multiplication, a tile load and a tile store that pass their checks enter one operation for each represented
warp, with its control word, its place and the shape as granted; the warp's flag rises. R167, R171 to R173, R180: one k-group of a
multiplication whose B lies in the operand buffer, without stochastic rounding, adds to every element of its block of the bank that its
issue reached, be that released since or not, the exact sum of its products, of the image words as it has read them, rounded once; every
other element of the bank, and memory, stay. -/
def Obligations.MatrixOperations : Prop :=
  Claims.MatrixIssues ∧
  Claims.MatrixKGroup

/-- R41, R180, R183: `ACALLOC`, where the bank that it is granted is not still being released (log 28), gives the warp's holder a bank whose
words are zero and its actors the bank's number, or 0xFFFFFFFF where none is granted; `ACFREE` gives a held bank up, at once or when the
operations on it are over; `ACQRY` reads masks and the shape. R173, R182, R183: `ACZERO` clears the data of a bank, `ACSEED` sets its 128
generator words, and `ACCVT` converts a block of it into a tile or the operand buffer, its pending completion keeping the words that stood
there; each makes that one effect for each represented warp. R179, R181: `ACRD` is pending with the element of each actor's index, zero and
ACUR where its bank is not reached; `ACWR` writes each actor's word to its element, in lane order, and is pending; no other element changes,
no byte of memory and no register. -/
def Obligations.AccumulatorBanks : Prop :=
  Claims.BankHolding ∧
  Claims.BankContents ∧
  Claims.AccumulatorElements

/-- R237, R240: an engine command that passes its checks receives the next number of its counter, which every actor's D takes, and enters
its engine with the block as it was read; each represented warp has an operation pending on it. R237, R250: `TUNBIND` of a record, a counter
and a scope of package or wider receives the next number of the counter and enters its engine for that record. -/
def Obligations.EngineCommandsIssue : Prop :=
  Claims.EngineCommands ∧
  Claims.UnbindCommand

/-- R244, R245: a `CPY` whose next sector passes its checks delivers it: each byte of the destination stream takes the byte of the source
stream as the engine reads it, denied lines are audited, and PROGRESS rises by one; pages ahead may then be translated. R246: the next
element of a `GATH`, or of a `SCAT`, whose index word and row pass their checks: the row that the index names and the row at LIN are copied,
one into the other, and PROGRESS rises by one; here no tag denies a read. Pages ahead may then be translated. R247, R248: a collective
instance starts when NRANKS commands of its key have issued: members that agree, each of another rank, keep its ranks; members that differ
in a field of R248, or of which two name one rank (the model's choice of which these are, log 29), all end with SHAPE and write nothing. An
element of a started one is written, and PROGRESS rises by one. -/
def Obligations.EngineElements : Prop :=
  Claims.SectorDelivered ∧
  Claims.IndexedElements ∧
  Claims.Collectives

/-- R109, R116, R249, R250: a binding that is due places its block's record, an unbinding a record of zeros, in the Gazetteer entry that it
names, as every package that holds the context has it, and in that entry's 32 bytes of each table; no other entry and no other byte of
memory changes. R211, R241: an operation whose stream has ended writes its STATUS, where that passes its checks (one entered from a list
alone has no place for it, log 30); when its writes are performed at its completion scope it leaves its engine, and its counter reaches its
number once every lower one is complete. -/
def Obligations.EngineBindingAndCompletion : Prop :=
  Claims.Binding ∧
  Claims.OperationCompletes

/-- R299, R301: a launch whose packet, header and regions are read, and whose counter has a number left, takes that number and answers it in
D with a STATUS: 0, and a grid of the packet's dimensions with nothing started, or, where a check fails, that check's cause. R302, R304:
`GRIDQ` stores the summary of the grid that its operand names, zeros where none is retained, as 48 stores of its deciding member. R277,
R278, R302, R303: `CANCEL` of no retained grid answers all ones; one that no landing keeps waiting answers the number of the grid's blocks
that started, or of all its blocks where the grid was complete before any cancel: so it is for a complete grid, and for a member that waited
until every landing acknowledged it. A first `CANCEL` of a running grid goes to every landing of the grid, and the actors wait. -/
def Obligations.LaunchesAndCancels : Prop :=
  Claims.Launches ∧
  Claims.GridQuery ∧
  Claims.Cancels

/-- R295 to R298: `EVPOP` takes the oldest record of its core into D, and answers 0 from an empty queue where it does not wait; `EVPUSH`
appends a record of KIND 2 to a queue with room; `TASKREL` lets the lowest held workgroups of its launch on its core start. R254, R255: a
queue whose TAIL moved takes its packets in order: with one packet at the head that needs no wait, it is launched, and HEAD rises by one. -/
def Obligations.EventAndPacketQueues : Prop :=
  Claims.EventQueues ∧
  Claims.QueueWakes

/-- R271, R272, R277: a landing that is due deals its undealt units to its children, none lost and none started, where its ranges run from
low to high, as they do afterwards; a cancel that reaches a landing drops what is undealt there; the next log of a deterministic grid is
applied, entry by entry, when its turn has come. R14, R21, R260: a placement that is due answers; a block of a grid of single, unreplicated
blocks without a sequencer section counts as started, and its holder stands on the core's logical core. R211, R275: a grid whose conditions
of completion hold completes, and its counter reaches its number once every lower one is complete; no register changes. -/
def Obligations.DealingAndPlacement : Prop :=
  Claims.Dealing ∧
  Claims.Placement ∧
  Claims.GridCompletes

/-- R43, R44: `CSRR` of an assigned register that its access code admits gives its value, in the issuer's own part. R43, R333: an access to
a register is refused: a target named by unprivileged code, and a privileged register, with PRIVILEGE; an unassigned number, and a write of
a read-only register, with ILLEGAL_ENCODING; a write of a context's register while it runs with ACCESS. -/
def Obligations.RegistersRead : Prop :=
  Claims.RegisterReads ∧
  Claims.RegisterChecks

/-- R37, R43: a `CSRW` of `FPST` writes each actor's own; one of `FPCTL`, a narrow format descriptor or `IDENT` writes that of each
represented warp, with the value of its lowest actor that is no helper; one of a context-scope register of another part whose context has no
core running writes that register. The other registers of the machine stay. R43, R44, R123: privileged code outside an instruction writes a
counter of a context no core of which runs, with its mark, or a warp's `IDENT`; a write of a narrow format descriptor that the register
refuses leaves it. -/
def Obligations.RegistersWritten : Prop :=
  Claims.RegisterWrites ∧
  Claims.RegisterEvents

/-- R322, R334: `SETID` writes the identity of each represented warp, and with WG that of every other warp of its workgroup; no other
register changes. R335, R336: `TLBINV` and `CLRINV` drop, in the issuer's package, the translations and the clearance answers that they
name, and keep the others; each member goes on when every earlier access is performed, and waits otherwise. R195, R337: `BANKROLE` requests,
for the core that it names, each role that differs from the bank's present one; 3 asks nothing. -/
def Obligations.IdentityAndInvalidation : Prop :=
  Claims.IdentitySet ∧
  Claims.Invalidations ∧
  Claims.RoleRequests

/-- R338, R355: `TRAP` traps each warp with an actor that is no helper under USER_TRAP, with the code of the lowest one, at the place after
the instruction; a group without such an actor goes on. R338, R341, R342: a warp that traps under a record takes the next SEQ of its
context, issues nothing more until it is answered, and is entered with that SEQ; the record, with its SEQ, stands at the queue's TAIL, which
rises by one, where the queue has room and no record of its own source is held; otherwise it is held behind those. R341: when the queue has
room again, the oldest held record is written at its TAIL and no longer held; one with extensions is written as far as the room goes. -/
def Obligations.TrapsTaken : Prop :=
  Claims.UserTraps ∧
  Claims.TrapRecorded ∧
  Claims.HeldRecords

/-- R338, R356: `ERET` for one thread answers the record that its block names: D is 1 where nothing awaits that SEQ; a trapped warp that is
not saved resumes, its selected lanes at PC with POS 0 under action 1, ended under action 2, every other lane at its restart point; D is 0.
A trap that another thread of the warp raised meanwhile, after its instruction's effect, is then taken. -/
def Obligations.TrapReturns : Prop :=
  Claims.Resumes

/-- R357: `HALT`, `SAVECTX` and `RESTCTX` for one thread. A part that is frozen or saved stays so under `HALT`; one that has stopped is
frozen; another is asked to stop and the thread waits. `SAVECTX` saves a stopped part and gives the bytes used, or freezes it and gives all
ones where it has no save area. `RESTCTX` with MODE 0 lets a frozen part go on, and gives ACCESS for another. R320, R343, R344: run-ahead
that has come to its end ends in one PAGE_FAULT record with its batch, under which the warp is trapped; when the stop window has passed
every thread of the warp stands, outside the groups, at its restart point; a warp whose threads stand and whose operations are dealt with
counts as stopped. No register changes. R279: a partition in which nothing has happened for 2^26 c-cycles, though work remains, is frozen:
its record takes the next SEQ that is free once its warps have been asked to stop, and awaits its answer. -/
def Obligations.ContextsStopped : Prop :=
  Claims.ContextStops ∧
  Claims.WarpStops ∧
  Claims.PartitionStalls

/-- R24, R25, R258: a reserved core that latency-class work needs is vacated: its bulk work is asked to stop, and saved when it has; a
logical core that may be placed on a core stands there afterwards. R195, R264: a pending role of a bank without an owner takes effect, and
is pending no longer, where the bank does not leave the L1 role with bytes still to merge; the copies of a core go with its last L1 bank. At
a rotation point the pointer steps, and a ready pending warp takes the place of the one active longest. -/
def Obligations.CoresAndRoles : Prop :=
  Claims.CoresMoved ∧
  Claims.RolesAndRotation

/-- R359 to R362, R378: the end of an interval begins a cut, or leaves a request; `CKPT` for one thread takes the next number of its
counter, which the cut serves, and requests one. R361 to R365: at its instant a cut snapshots the context's part, and its cores go on; the
Surveyor then writes its units one by one, a protected one first where a write waits for it, then its manifests; a record that the area
cannot take fails the cut; when all are durable LASTCUT takes the cut's number. Between cuts a changed unit is streamed. R365: a record that
the area takes stands at TAIL of its ring, which moves past it by its length, and the cut's bytes count it. R367: every 2^16 c-cycles
`SAVECOST` of each part of a context takes the bytes that a save of the whole context would use. -/
def Obligations.CheckpointCuts : Prop :=
  Claims.CutsBegin ∧
  Claims.CutsProceed ∧
  Claims.RecordPlaced ∧
  Claims.CostUpdates

/-- R371 to R375: replicas that agree in signature, entries and trap go on: each is compared once more and starts its signature anew; one
that two others outvote is rebuilt from the lowest of them, counted and recorded; without a majority the context is frozen. A store held for
4,096 a-cycles brings its warp to its comparison. A replica with an uncorrectable register error is rebuilt from another; where there is
none, the word of the register is poisoned. R372, R373, R379, R380: in a vote of three replicas the one that differs is outvoted by the
lower-numbered of the two that agree; without redundancy `SIGCHK` gives 0, and `REPLQ` the replicas, the comparisons, the outvotes and the
last cut. -/
def Obligations.Replicas : Prop :=
  Claims.ReplicasCompared ∧
  Claims.ReplicaQueries

/-- R401, R402: a response gives STATUS, CAUSE and RES0, and clears GO; the command's area takes a written byte only where R401 lets it.
R402: a command that ends at once is refused with its cause, with no other effect, or has its effect and is answered; an opcode that names
no command is answered with STATUS 3. R402: a command that takes time is refused, or starts and says that it is busy; once what it waits for
holds, it has its effect and is answered. -/
def Obligations.MailboxProtocol : Prop :=
  Claims.MailboxArea ∧
  Claims.MailboxCommands ∧
  Claims.LongMailboxCommands

/-- R23, R330, R402, R404: what the commands leave: a new context has its number, its privilege and one part; allotted cores belong to the
part, with a logical core for each beyond those it has; a destroyed context is gone with its parts, holders, grids and queues. R402: the
error log and the journal are copied to memory, oldest first, in entries of 16 bytes, as many as the length asks for; RES0 is the bytes
copied. R404 to R407: a thermal trip sets its output and is reported; without power the package keeps of its memory only what a durable cut
holds; a reset keeps the memory of its capacity tier and the journal, counts a start, and leaves the package on one die. R381 to R385: an
HBM row with a corrected error gains one in its count and, up to 255, in its score, and is on the hot list; an uncorrectable error poisons
its sector and sets the row's score to 255; scores halve once a day; a row leaves the hot list a week after its last error; a scrub notes
its moment; both copies of a remap table lost take the channel offline. No byte of memory changes. -/
def Obligations.PackageTables : Prop :=
  Claims.ContextTables ∧
  Claims.LogsRead ∧
  Claims.PowerEvents ∧
  Claims.MemoryErrors

/-- R397, R398: a flit with a wrong CRC, or out of its link's order, changes no memory: the first counts as a replay, and the seventeenth in
a row makes the port retrain; a good write that this package can take puts its payload in its sector, and a good read changes no memory; a
retrained port carries traffic again. R395, R396, R399: writes of the host and of RDMA that may be performed put their bytes where they name
them; RDMA is checked as a store of its context, and one that fails changes nothing; a read through CXL.mem changes nothing; a send entry is
taken, and completes later. R80 to R82: the load of a code object answers the context with the object in place, its relocations resolved and
its global names bound; a refused one leaves the context as it was: a malformed object, and one whose names conflict, for which the answer
is DUPLICATE_SYMBOL. -/
def Obligations.OutsideWorld : Prop :=
  Claims.Flits ∧
  Claims.OutsideWrites ∧
  Claims.CodeLoads
end

