-- ==== Sys2Proof/Laws/Maps.lean ====
section
/-! SUPPORT. Laws of tables and sparse maps: reading after writing, and the canonical form of memory. -/

namespace Sys2Proof.Machine

/-! ### Tables -/

theorem tblGet?_tblUpd {α : Type} (t : Tbl α) (i j : Nat) (f : α → α) :
    tblGet? (tblUpd t i f) j = if i = j then (tblGet? t j).map f else tblGet? t j := by
  induction t with
  | nil => simp [tblUpd, tblGet?]
  | cons e t ih =>
    obtain ⟨k, v⟩ := e
    by_cases hk : k = i
    · subst hk
      by_cases hj : k = j <;> simp [tblUpd, tblGet?, hj]
    · by_cases hj : k = j
      · subst hj
        simp [tblUpd, tblGet?, hk, Ne.symm hk]
      · simp [tblUpd, tblGet?, hk, hj, ih]

theorem tblGet?_tblSet {α : Type} (t : Tbl α) (i j : Nat) (v : α) :
    tblGet? (tblSet t i v) j = if i = j then some v else tblGet? t j := by
  induction t with
  | nil => simp [tblSet, tblGet?]
  | cons e t ih =>
    obtain ⟨k, u⟩ := e
    by_cases hk : k = i
    · subst hk
      by_cases hj : k = j <;> simp [tblSet, tblGet?, hj]
    · by_cases hlt : i < k
      · by_cases hj : i = j
        · subst hj; simp [tblSet, tblGet?, hk, hlt]
        · simp [tblSet, tblGet?, hk, hlt, hj]
      · by_cases hj : k = j
        · subst hj
          simp [tblSet, tblGet?, hk, hlt, Ne.symm hk]
        · simp [tblSet, tblGet?, hk, hlt, hj, ih]

theorem tblGet?_tblMap {α β : Type} (t : Tbl α) (f : Nat → α → β) (j : Nat) :
    tblGet? (tblMap t f) j = (tblGet? t j).map (f j) := by
  induction t with
  | nil => simp [tblMap, tblGet?]
  | cons e t ih =>
    obtain ⟨k, v⟩ := e
    by_cases hk : k = j
    · subst hk; simp [tblMap, tblGet?]
    · simpa [tblMap, tblGet?, hk] using ih

theorem tblGet?_tblDel_ne {α : Type} (t : Tbl α) (i j : Nat) (h : i ≠ j) : tblGet? (tblDel t i) j = tblGet? t j := by
  induction t with
  | nil => simp [tblDel, tblGet?]
  | cons e t ih =>
    obtain ⟨k, v⟩ := e
    by_cases hk : k = i
    · subst hk; simp [tblDel, tblGet?, h]
    · by_cases hj : k = j
      · subst hj; simp [tblDel, tblGet?, hk]
      · simp [tblDel, tblGet?, hk, hj, ih]

/-! ### Sparse maps -/

theorem bmGet_filter_ne {w : Nat} (m : BMap w) (i j : Nat) :
    bmGet (m.filter fun e => e.1 != i) j = if i = j then 0 else bmGet m j := by
  induction m with
  | nil => simp [bmGet]
  | cons e t ih =>
    obtain ⟨k, u⟩ := e
    by_cases hk : k = i
    · subst hk
      simp only [List.filter_cons, bne_self_eq_false, Bool.false_eq_true, if_false, ih]
      by_cases hj : k = j <;> simp [bmGet, hj]
    · have : (k != i) = true := by simpa using hk
      simp only [List.filter_cons, this, if_true]
      by_cases hj : k = j
      · subst hj; simp [bmGet, Ne.symm hk]
      · simp [bmGet, hj, ih]

theorem bmGet_tblSet {w : Nat} (m : BMap w) (i j : Nat) (v : BitVec w) :
    bmGet (tblSet m i v) j = if i = j then v else bmGet m j := by
  induction m with
  | nil => simp [tblSet, bmGet]
  | cons e t ih =>
    obtain ⟨k, u⟩ := e
    by_cases hk : k = i
    · subst hk
      by_cases hj : k = j <;> simp [tblSet, bmGet, hj]
    · by_cases hlt : i < k
      · by_cases hj : i = j
        · subst hj; simp [tblSet, bmGet, hk, hlt]
        · simp [tblSet, bmGet, hk, hlt, hj]
      · by_cases hj : k = j
        · subst hj; simp [tblSet, bmGet, hk, hlt, Ne.symm hk]
        · simp [tblSet, bmGet, hk, hlt, hj, ih]

/-- A read after a write of the same key gives the value written, and of another key what stood there. -/
theorem bmGet_bmSet {w : Nat} (m : BMap w) (i j : Nat) (v : BitVec w) :
    bmGet (bmSet m i v) j = if i = j then v else bmGet m j := by
  unfold bmSet
  split
  · rename_i hv; subst hv; exact bmGet_filter_ne m i j
  · exact bmGet_tblSet m i j v

/-- Every listed key of a tail lies above the head's. -/
theorem keysRise_cons {α : Type} (k : Nat) (v : α) (t : Tbl α) :
    keysRise ((k, v) :: t) = true ↔ (∀ e ∈ t, k < e.1) ∧ keysRise t = true := by
  induction t generalizing k v with
  | nil => simp [keysRise]
  | cons e t ih =>
    obtain ⟨k', v'⟩ := e
    have h' := ih k' v'
    simp only [keysRise, Bool.and_eq_true, decide_eq_true_eq, List.mem_cons, forall_eq_or_imp]
    constructor
    · rintro ⟨hlt, hr⟩
      exact ⟨⟨hlt, fun e he => Nat.lt_trans hlt ((h'.1 hr).1 e he)⟩, hr⟩
    · rintro ⟨⟨hlt, _⟩, hr⟩
      exact ⟨hlt, hr⟩

theorem noZero_iff {w : Nat} (m : BMap w) : noZero m = true ↔ ∀ e ∈ m, e.2 ≠ 0 := by
  induction m with
  | nil => simp [noZero]
  | cons e t ih => obtain ⟨k, v⟩ := e; simp [noZero, ih]

theorem mem_tblSet {α : Type} (t : Tbl α) (i : Nat) (v : α) (e : Nat × α) (h : e ∈ tblSet t i v) : e ∈ t ∨ e = (i, v) := by
  induction t with
  | nil => simp [tblSet] at h; exact .inr h
  | cons x t ih =>
    obtain ⟨k, u⟩ := x
    simp only [tblSet] at h
    split at h
    · rcases List.mem_cons.1 h with h | h
      · exact .inr h
      · exact .inl (List.mem_cons_of_mem _ h)
    · split at h
      · rcases List.mem_cons.1 h with h | h
        · exact .inr h
        · exact .inl h
      · rcases List.mem_cons.1 h with h | h
        · exact .inl (h ▸ List.mem_cons_self ..)
        · rcases ih h with h | h
          · exact .inl (List.mem_cons_of_mem _ h)
          · exact .inr h

theorem keysRise_tblSet {α : Type} (t : Tbl α) (i : Nat) (v : α) (h : keysRise t = true) : keysRise (tblSet t i v) = true := by
  induction t with
  | nil => rfl
  | cons x t ih =>
    obtain ⟨k, u⟩ := x
    obtain ⟨hk, ht⟩ := (keysRise_cons k u t).1 h
    simp only [tblSet]
    split
    · rename_i hki
      subst hki
      exact (keysRise_cons k v t).2 ⟨hk, ht⟩
    · split
      · rename_i hlt
        refine (keysRise_cons i v _).2 ⟨?_, h⟩
        intro e he
        rcases List.mem_cons.1 he with he | he
        · subst he; exact hlt
        · exact Nat.lt_trans hlt (hk e he)
      · refine (keysRise_cons k u _).2 ⟨?_, ih ht⟩
        intro e he
        rcases mem_tblSet t i v e he with he | he
        · exact hk e he
        · subst he; simp only; omega

theorem keysRise_filter {α : Type} (t : Tbl α) (p : Nat × α → Bool) (h : keysRise t = true) : keysRise (t.filter p) = true := by
  induction t with
  | nil => rfl
  | cons x t ih =>
    obtain ⟨k, u⟩ := x
    obtain ⟨hk, ht⟩ := (keysRise_cons k u t).1 h
    simp only [List.filter_cons]
    split
    · exact (keysRise_cons k u _).2 ⟨fun e he => hk e (List.mem_filter.1 he).1, ih ht⟩
    · exact ih ht

/-- Removing listed entries keeps the canonical form. -/
theorem bmWf_filter {w : Nat} (m : BMap w) (p : Nat × BitVec w → Bool) (h : bmWf m = true) : bmWf (m.filter p) = true := by
  simp only [bmWf, Bool.and_eq_true, noZero_iff] at h ⊢
  exact ⟨keysRise_filter m p h.1, fun e he => h.2 e (List.mem_filter.1 he).1⟩

/-- A write keeps the canonical form. -/
theorem bmWf_bmSet {w : Nat} (m : BMap w) (i : Nat) (v : BitVec w) (h : bmWf m = true) : bmWf (bmSet m i v) = true := by
  unfold bmSet
  split
  · exact bmWf_filter m _ h
  · rename_i hv
    simp only [bmWf, Bool.and_eq_true, noZero_iff] at h ⊢
    refine ⟨keysRise_tblSet m i v h.1, ?_⟩
    intro e he
    rcases mem_tblSet m i v e he with he | he
    · exact h.2 e he
    · subst he; exact hv

/-- Several writes keep the canonical form. -/
theorem bmWf_bmSetAll {w : Nat} (m : BMap w) (l : List (Nat × BitVec w)) (h : bmWf m = true) : bmWf (bmSetAll m l) = true := by
  induction l generalizing m with
  | nil => exact h
  | cons e t ih => obtain ⟨i, v⟩ := e; exact ih _ (bmWf_bmSet m i v h)

/-- Two canonical maps that read alike are the same list. -/
theorem bmWf_ext {w : Nat} (m n : BMap w) (hm : bmWf m = true) (hn : bmWf n = true) (h : ∀ i, bmGet m i = bmGet n i) : m = n := by
  have low : ∀ (l : BMap w) (i : Nat), (∀ e ∈ l, i < e.1) → bmGet l i = 0 := by
    intro l i hl
    induction l with
    | nil => rfl
    | cons x t ih =>
      obtain ⟨k, u⟩ := x
      have : k ≠ i := by have := hl (k, u) (List.mem_cons_self ..); simp only at this; omega
      simp [bmGet, this, ih fun e he => hl e (List.mem_cons_of_mem _ he)]
  induction m generalizing n with
  | nil =>
    cases n with
    | nil => rfl
    | cons y t =>
      obtain ⟨k, u⟩ := y
      have hz : u ≠ 0 := by simp [bmWf, noZero] at hn; exact hn.2.1
      exact absurd (by simpa [bmGet] using (h k).symm) hz
  | cons x t ih =>
    obtain ⟨k, u⟩ := x
    simp only [bmWf, Bool.and_eq_true, noZero_iff] at hm
    obtain ⟨hk, ht⟩ := (keysRise_cons k u t).1 hm.1
    cases n with
    | nil =>
      have hz : u ≠ 0 := hm.2 (k, u) (List.mem_cons_self ..)
      exact absurd (by simpa [bmGet] using h k) hz
    | cons y t' =>
      obtain ⟨k', u'⟩ := y
      simp only [bmWf, Bool.and_eq_true, noZero_iff] at hn
      obtain ⟨hk', ht'⟩ := (keysRise_cons k' u' t').1 hn.1
      have hz : u ≠ 0 := hm.2 (k, u) (List.mem_cons_self ..)
      have hz' : u' ≠ 0 := hn.2 (k', u') (List.mem_cons_self ..)
      have hkk : k = k' := by
        rcases Nat.lt_trichotomy k k' with hlt | he | hgt
        · have h1 := h k
          have h2 : bmGet ((k', u') :: t') k = 0 := low _ k (by
            intro e he
            rcases List.mem_cons.1 he with he | he
            · subst he; exact hlt
            · exact Nat.lt_trans hlt (hk' e he))
          rw [h2] at h1
          exact absurd (by simpa [bmGet] using h1) hz
        · exact he
        · have h1 := h k'
          have h2 : bmGet ((k, u) :: t) k' = 0 := low _ k' (by
            intro e he
            rcases List.mem_cons.1 he with he | he
            · subst he; exact hgt
            · exact Nat.lt_trans hgt (hk e he))
          rw [h2] at h1
          exact absurd (by simpa [bmGet] using h1.symm) hz'
      subst hkk
      have huu : u = u' := by simpa [bmGet] using h k
      subst huu
      congr 1
      refine ih t' ?_ ?_ ?_
      · simp only [bmWf, Bool.and_eq_true, noZero_iff]
        exact ⟨ht, fun e he => hm.2 e (List.mem_cons_of_mem _ he)⟩
      · simp only [bmWf, Bool.and_eq_true, noZero_iff]
        exact ⟨ht', fun e he => hn.2 e (List.mem_cons_of_mem _ he)⟩
      · intro i
        by_cases hi : k = i
        · subst hi
          rw [low t k hk, low t' k hk']
        · simpa [bmGet, hi] using h i

/-! ### Memory -/

theorem wf_bmSet (m : List Host.Cell) (a : Nat) (v : Byte) (h : Memory.wf m = true) : Memory.wf (bmSet m a v) = true :=
  bmWf_bmSet m a v h
theorem wf_bmSetAll (m : List Host.Cell) (l : List (Nat × Byte)) (h : Memory.wf m = true) : Memory.wf (bmSetAll m l) = true :=
  bmWf_bmSetAll m l h
theorem wf_filter (m : List Host.Cell) (p : Host.Cell → Bool) (h : Memory.wf m = true) : Memory.wf (m.filter p) = true :=
  bmWf_filter m p h

end Sys2Proof.Machine
end

