-- ==== Sys2Proof/Laws/Canonical.lean ====
section
/-! SUPPORT. What keeps memory canonical: the shapes that the operations of the machine are built from. -/

namespace Sys2Proof.Machine

/-- A next state of the answer has canonical memory. -/
def NextWf (o : Out) : Prop := ∀ t, o = .next t → Memory.wf t.mem = true
/-- The state of an option has canonical memory. -/
def SomeWf (o : Option State) : Prop := ∀ t, o = some t → Memory.wf t.mem = true

theorem nextWf_next {s : State} (h : Memory.wf s.mem = true) : NextWf (.next s) := fun t e => by cases e; exact h
theorem nextWf_refused (r : Refusal) : NextWf (.refused r) := fun t e => by cases e
theorem nextWf_fault (r : Fault) : NextWf (.fault r) := fun t e => by cases e
theorem someWf_some {s : State} (h : Memory.wf s.mem = true) : SomeWf (some s) := fun t e => by cases e; exact h
theorem someWf_none : SomeWf none := fun t e => by cases e
theorem someWf_bind {β : Type} (o : Option β) (f : β → Option State) (h : ∀ x, SomeWf (f x)) : SomeWf (o.bind f) := by
  cases o with
  | none => exact someWf_none
  | some x => exact h x
theorem someWf_map {β : Type} (o : Option β) (f : β → State) (h : ∀ x, Memory.wf (f x).mem = true) : SomeWf (o.map f) := by
  cases o with
  | none => exact someWf_none
  | some x => exact someWf_some (h x)

theorem wf_getD {o : Option State} {s : State} (ho : SomeWf o) (hs : Memory.wf s.mem = true) : Memory.wf (o.getD s).mem = true := by
  cases o with
  | none => exact hs
  | some t => exact ho t rfl
theorem nextWf_ite {c : Prop} [Decidable c] {a b : Out} (ha : NextWf a) (hb : NextWf b) : NextWf (if c then a else b) := by
  split <;> assumption
theorem someWf_ite {c : Prop} [Decidable c] {a b : Option State} (ha : SomeWf a) (hb : SomeWf b) : SomeWf (if c then a else b) := by
  split <;> assumption
theorem wf_ite {c : Prop} [Decidable c] {a b : State} (ha : Memory.wf a.mem = true) (hb : Memory.wf b.mem = true) :
    Memory.wf (if c then a else b).mem = true := by
  split <;> assumption

theorem wf_foldl {β : Type} (l : List β) (f : State → β → State) (s : State)
    (hf : ∀ s x, Memory.wf s.mem = true → Memory.wf (f s x).mem = true) (h : Memory.wf s.mem = true) :
    Memory.wf (l.foldl f s).mem = true := by
  induction l generalizing s with
  | nil => exact h
  | cons x t ih => exact ih _ (hf s x h)

theorem wf_foldl_fst {β γ : Type} (l : List β) (f : State × γ → β → State × γ) (s : State × γ)
    (hf : ∀ s x, Memory.wf s.1.mem = true → Memory.wf (f s x).1.mem = true) (h : Memory.wf s.1.mem = true) :
    Memory.wf (l.foldl f s).1.mem = true := by
  induction l generalizing s with
  | nil => exact h
  | cons x t ih => exact ih _ (hf s x h)

theorem someWf_foldlM {β : Type} (l : List β) (f : State → β → Option State) (s : State)
    (hf : ∀ s x, Memory.wf s.mem = true → SomeWf (f s x)) (h : Memory.wf s.mem = true) :
    SomeWf (l.foldlM f s) := by
  induction l generalizing s with
  | nil => exact someWf_some h
  | cons x t ih =>
    intro u e
    simp only [List.foldlM_cons] at e
    cases hx : f s x with
    | none => rw [hx] at e; cases e
    | some v => rw [hx] at e; exact ih v (hf s x h v hx) u e

end Sys2Proof.Machine
end

