-- ==== Sys2Proof/Laws/CanonicalBase.lean ====
section
/-! SUPPORT. Memory keeps its canonical form under the shared operations, from places to traps: one lemma for each definition that answers a state. -/

namespace Sys2Proof.Machine

set_option linter.unusedVariables false

/-! ### Place -/

theorem wf_updWarp (s : State) (w : Nat) (f : Warp → Warp) (hwf : Memory.wf s.mem = true) : Memory.wf (updWarp s w f).mem = true := by
  unfold updWarp
  repeat' (with_reducible first | assumption | (intro _) | dsimp only | split)
theorem wf_updThr (s : State) (m : Member) (f : Thread → Thread) (hwf : Memory.wf s.mem = true) : Memory.wf (updThr s m f).mem = true := by
  unfold updThr
  repeat' (with_reducible first | assumption | (intro _) | apply wf_updWarp | dsimp only | split)
theorem wf_updWg (s : State) (g : Nat) (f : Wg → Wg) (hwf : Memory.wf s.mem = true) : Memory.wf (updWg s g f).mem = true := by
  unfold updWg
  repeat' (with_reducible first | assumption | (intro _) | dsimp only | split)
theorem wf_updLcore (s : State) (k : Nat) (f : LCore → LCore) (hwf : Memory.wf s.mem = true) : Memory.wf (updLcore s k f).mem = true := by
  unfold updLcore
  repeat' (with_reducible first | assumption | (intro _) | dsimp only | split)
theorem wf_updPart (s : State) (k : Nat) (f : Part → Part) (hwf : Memory.wf s.mem = true) : Memory.wf (updPart s k f).mem = true := by
  unfold updPart
  repeat' (with_reducible first | assumption | (intro _) | dsimp only | split)
theorem wf_updCtx (s : State) (k : Nat) (f : Ctx → Ctx) (hwf : Memory.wf s.mem = true) : Memory.wf (updCtx s k f).mem = true := by
  unfold updCtx
  repeat' (with_reducible first | assumption | (intro _) | dsimp only | split)
theorem wf_updGrid (s : State) (k : Nat) (f : Grid → Grid) (hwf : Memory.wf s.mem = true) : Memory.wf (updGrid s k f).mem = true := by
  unfold updGrid
  repeat' (with_reducible first | assumption | (intro _) | dsimp only | split)
theorem wf_updPcore (s : State) (k : Nat) (f : PCore → PCore) (hwf : Memory.wf s.mem = true) : Memory.wf (updPcore s k f).mem = true := by
  unfold updPcore
  repeat' (with_reducible first | assumption | (intro _) | dsimp only | split)
theorem wf_updPkg (s : State) (k : Nat) (f : Pkg → Pkg) (hwf : Memory.wf s.mem = true) : Memory.wf (updPkg s k f).mem = true := by
  unfold updPkg
  repeat' (with_reducible first | assumption | (intro _) | dsimp only | split)
theorem wf_updGroup (s : State) (q : Nat) (f : Group → Group) (hwf : Memory.wf s.mem = true) : Memory.wf (updGroup s q f).mem = true := by
  unfold updGroup
  repeat' (with_reducible first | assumption | (intro _) | dsimp only | split)
theorem wf_updOp (s : State) (k : Nat) (f : EngOp → EngOp) (hwf : Memory.wf s.mem = true) : Memory.wf (updOp s k f).mem = true := by
  unfold updOp
  repeat' (with_reducible first | assumption | (intro _) | dsimp only | split)
theorem wf_updLoad (s : State) (k : Nat) (f : PLoad → PLoad) (hwf : Memory.wf s.mem = true) : Memory.wf (updLoad s k f).mem = true := by
  unfold updLoad
  repeat' (with_reducible first | assumption | (intro _) | dsimp only | split)
theorem wf_tookFree (s : State) (hwf : Memory.wf s.mem = true) : Memory.wf (tookFree s).mem = true := by
  unfold tookFree
  repeat' (with_reducible first | assumption | (intro _) | dsimp only | split)
theorem wf_tookId (s : State) (hwf : Memory.wf s.mem = true) : Memory.wf (tookId s).mem = true := by
  unfold tookId
  repeat' (with_reducible first | assumption | (intro _) | dsimp only | split)

/-! ### Mem -/

theorem wf_keepCopies (s : State) (src : Served) (core a key tag : Nat) (l : List Byte) (hwf : Memory.wf s.mem = true) : Memory.wf (keepCopies s src core a key tag l).mem = true := by
  unfold keepCopies
  repeat' (with_reducible first | assumption | (intro _) | apply wf_ite | apply wf_updPcore | dsimp only | split)
theorem wf_dropCopiesOf (s : State) (core a n : Nat) (hwf : Memory.wf s.mem = true) : Memory.wf (dropCopiesOf s core a n).mem = true := by
  unfold dropCopiesOf
  repeat' (with_reducible first | assumption | (intro _) | apply wf_ite | apply wf_updPcore | dsimp only | split)
theorem wf_dropCopies (s : State) (core : Nat) (hwf : Memory.wf s.mem = true) : Memory.wf (dropCopies s core).mem = true := by
  unfold dropCopies
  repeat' (with_reducible first | assumption | (intro _) | apply wf_ite | apply wf_updPcore | dsimp only | split)
theorem wf_dropDie (s : State) (die : Nat) (hwf : Memory.wf s.mem = true) : Memory.wf (dropDie s die).mem = true := by
  unfold dropDie
  repeat' (with_reducible first | assumption | (intro _) | dsimp only | split)
theorem wf_dropBelow (s : State) (core scope : Nat) (hwf : Memory.wf s.mem = true) : Memory.wf (dropBelow s core scope).mem = true := by
  unfold dropBelow
  repeat' (with_reducible first | assumption | (intro _) | apply wf_ite | apply wf_dropCopies | apply wf_dropDie | dsimp only | split)
theorem wf_markUnits (s : State) (a n : Nat) (hwf : Memory.wf s.mem = true) : Memory.wf (markUnits s a n).mem = true := by
  unfold markUnits
  repeat' (with_reducible first | assumption | (intro _) | apply wf_ite | dsimp only | split)
theorem wf_rekeyLine (s : State) (kb : List Byte) (line : Nat) (hwf : Memory.wf s.mem = true) :
    Memory.wf (rekeyLine s kb line).mem = true := by
  unfold rekeyLine
  dsimp only
  generalize List.map _ (List.range 128) = l
  exact wf_bmSetAll _ _ hwf
theorem wf_rekey (s : State) (a key n : Nat) (hwf : Memory.wf s.mem = true) : Memory.wf (rekey s a key n).mem = true := by
  unfold rekey
  repeat' (with_reducible first | assumption | (intro _) | apply wf_foldl | apply wf_foldl_fst | apply wf_ite | apply wf_rekeyLine | dsimp only | split)
theorem wf_putHome (s : State) (a key : Nat) (data : List Byte) (hwf : Memory.wf s.mem = true) :
    Memory.wf (putHome s a key data).mem = true := by
  unfold putHome
  apply wf_markUnits
  exact wf_bmSetAll _ _ (wf_rekey _ _ _ _ hwf)
theorem wf_putNat (s : State) (a n v : Nat) (hwf : Memory.wf s.mem = true) : Memory.wf (putNat s a n v).mem = true := by
  unfold putNat
  repeat' (with_reducible first | assumption | (intro _) | apply wf_putHome | dsimp only | split)
theorem wf_pushWrite (s : State) (w : PWrite) (hwf : Memory.wf s.mem = true) : Memory.wf (pushWrite s w).mem = true := by
  unfold pushWrite
  repeat' (with_reducible first | assumption | (intro _) | apply wf_ite | apply wf_dropCopiesOf | dsimp only | split)
theorem wf_readBefore (s : State) (tile : Bool) (owner : Nat) (l : List (Nat × Word)) (hwf : Memory.wf s.mem = true) : Memory.wf (readBefore s tile owner l).mem = true := by
  unfold readBefore
  repeat' (with_reducible first | assumption | (intro _) | apply wf_foldl | apply wf_foldl_fst | apply wf_ite | dsimp only | split)
theorem wf_fillTlb (s : State) (part : Nat) (e : TlbEntry) (hwf : Memory.wf s.mem = true) : Memory.wf (fillTlb s part e).mem = true := by
  unfold fillTlb
  repeat' (with_reducible first | assumption | (intro _) | apply wf_ite | apply wf_updPart | dsimp only | split)
theorem wf_fillClr (s : State) (part ident tag : Nat) (hwf : Memory.wf s.mem = true) : Memory.wf (fillClr s part ident tag).mem = true := by
  unfold fillClr
  repeat' (with_reducible first | assumption | (intro _) | apply wf_ite | apply wf_updPart | dsimp only | split)

/-! ### Records -/

theorem wf_putSlots (s : State) (b size : Nat) (l : List (List Byte)) (hwf : Memory.wf s.mem = true) : Memory.wf (putSlots s b size l).mem = true := by
  induction l generalizing s b with
  | nil => unfold putSlots; exact hwf
  | cons x t ih =>
    unfold putSlots
    repeat' (with_reducible first | assumption | (intro _) | apply ih | apply wf_putHome | apply wf_putNat | dsimp only | split)
theorem wf_putHeldCount (s : State) (k : Nat) (hwf : Memory.wf s.mem = true) : Memory.wf (putHeldCount s k).mem = true := by
  unfold putHeldCount
  repeat' (with_reducible first | assumption | (intro _) | apply wf_putNat | dsimp only | split)
theorem wf_countFault (s : State) (r : FaultRec) (hwf : Memory.wf s.mem = true) : Memory.wf (countFault s r).mem = true := by
  unfold countFault
  repeat' (with_reducible first | assumption | (intro _) | apply wf_ite | apply wf_updGrid | dsimp only | split)
theorem wf_writeParts (s : State) (k : Nat) (r : FaultRec) (n : Nat) (hwf : Memory.wf s.mem = true) : Memory.wf (writeParts s k r n).mem = true := by
  unfold writeParts
  repeat' (with_reducible first | assumption | (intro _) | apply wf_ite | apply wf_putSlots | apply wf_putHeldCount | apply wf_updPart | dsimp only | split)
theorem wf_appendFault (s : State) (k : Nat) (r : FaultRec) (hwf : Memory.wf s.mem = true) : Memory.wf (appendFault s k r).mem = true := by
  unfold appendFault
  repeat' (with_reducible first | assumption | (intro _) | apply wf_writeParts | apply wf_countFault | apply wf_updCtx | dsimp only | split)
theorem wf_addAwait (s : State) (k seq : Nat) (a : Await) (hwf : Memory.wf s.mem = true) : Memory.wf (addAwait s k seq a).mem = true := by
  unfold addAwait
  repeat' (with_reducible first | assumption | (intro _) | apply wf_updPart | dsimp only | split)
theorem wf_dropAwait (s : State) (k seq : Nat) (hwf : Memory.wf s.mem = true) : Memory.wf (dropAwait s k seq).mem = true := by
  unfold dropAwait
  repeat' (with_reducible first | assumption | (intro _) | apply wf_updPart | dsimp only | split)
theorem wf_appendAudit (s : State) (k va ident tag kind place : Nat) (hwf : Memory.wf s.mem = true) :
    Memory.wf (appendAudit s k va ident tag kind place).mem = true := by
  unfold appendAudit
  have h1 := wf_updCtx s (k / 8192) (fun c => { c with auditSeq := c.auditSeq + 1 }) hwf
  dsimp only
  split
  · exact h1
  · split
    · exact wf_putNat _ _ _ _ h1
    · exact wf_putNat _ _ _ _ (wf_putHome _ _ _ _ h1)

/-! ### Operands -/

theorem wf_setVreg (s : State) (w l g : Nat) (v : Word) (hwf : Memory.wf s.mem = true) : Memory.wf (setVreg s w l g v).mem = true := by
  unfold setVreg
  repeat' (with_reducible first | assumption | (intro _) | apply wf_updWarp | dsimp only | split)
theorem wf_setUreg (s : State) (w n : Nat) (v : Word) (hwf : Memory.wf s.mem = true) : Memory.wf (setUreg s w n v).mem = true := by
  unfold setUreg
  repeat' (with_reducible first | assumption | (intro _) | apply wf_updWarp | dsimp only | split)
theorem wf_constTrace (s : State) (m : Member) (off n : Nat) (hwf : Memory.wf s.mem = true) : Memory.wf (constTrace s m off n).mem = true := by
  unfold constTrace
  repeat' (with_reducible first | assumption | (intro _) | apply wf_foldl | apply wf_foldl_fst | apply wf_ite | apply wf_fillClr | apply wf_fillTlb | apply wf_updLcore | apply wf_appendAudit | dsimp only | split)
theorem wf_putVec (s : State) (m : Member) (f : Nat) (v : Val) (n : Nat) (hwf : Memory.wf s.mem = true) : Memory.wf (putVec s m f v n).mem = true := by
  induction n with
  | zero => unfold putVec; exact hwf
  | succ n ih =>
    unfold putVec
    repeat' (with_reducible first | assumption | (intro _) | apply ih | apply wf_setVreg | dsimp only | split)
theorem wf_putUni (s : State) (w u : Nat) (v : Val) (n : Nat) (hwf : Memory.wf s.mem = true) : Memory.wf (putUni s w u v n).mem = true := by
  induction n with
  | zero => unfold putUni; exact hwf
  | succ n ih =>
    unfold putUni
    repeat' (with_reducible first | assumption | (intro _) | apply ih | apply wf_setUreg | dsimp only | split)
theorem wf_writeD (s : State) (x : Slot) (vals : List (Member × Val)) (hwf : Memory.wf s.mem = true) : Memory.wf (writeD s x vals).mem = true := by
  unfold writeD
  repeat' (with_reducible first | assumption | (intro _) | apply wf_foldl | apply wf_foldl_fst | apply wf_ite | apply wf_putVec | apply wf_putUni | dsimp only | split)
theorem wf_constTraces (s : State) (sh : Shape) (ms : List Member) (hwf : Memory.wf s.mem = true) : Memory.wf (constTraces s sh ms).mem = true := by
  unfold constTraces
  repeat' (with_reducible first | assumption | (intro _) | apply wf_foldl | apply wf_foldl_fst | apply wf_ite | apply wf_constTrace | dsimp only | split)

/-! ### Access -/

theorem wf_appendLog (s : State) (g : Nat) (l : List LogEntry) (hwf : Memory.wf s.mem = true) : Memory.wf (appendLog s g l).mem = true := by
  unfold appendLog
  repeat' (with_reducible first | assumption | (intro _) | apply wf_putNat | apply wf_putHome | apply wf_updWg | dsimp only | split)
theorem wf_foldSig (s : State) (w addr data mask kind op : Nat) (hwf : Memory.wf s.mem = true) : Memory.wf (foldSig s w addr data mask kind op).mem = true := by
  unfold foldSig
  repeat' (with_reducible first | assumption | (intro _) | apply wf_ite | apply wf_updWarp | dsimp only | split)
theorem wf_foldStore (s : State) (w kind va : Nat) (data : List Byte) (hwf : Memory.wf s.mem = true) : Memory.wf (foldStore s w kind va data).mem = true := by
  unfold foldStore
  repeat' (with_reducible first | assumption | (intro _) | apply wf_foldl | apply wf_foldl_fst | apply wf_foldSig | dsimp only | split)
theorem wf_accessTrace (s : State) (m : Member) (va : Nat) (need : Need) (kind : Nat) (hwf : Memory.wf s.mem = true) : Memory.wf (accessTrace s m va need kind).mem = true := by
  unfold accessTrace
  repeat' (with_reducible first | assumption | (intro _) | apply wf_ite | apply wf_fillTlb | apply wf_fillClr | apply wf_appendAudit | dsimp only | split)
theorem wf_putChipWord (s : State) (core off : Nat) (v : Word) (hwf : Memory.wf s.mem = true) : Memory.wf (putChipWord s core off v).mem = true := by
  unfold putChipWord
  repeat' (with_reducible first | assumption | (intro _) | apply wf_setVreg | apply wf_readBefore | apply wf_updWg | apply wf_updPcore | dsimp only | split)
theorem wf_putChipBytes (s : State) (pa : Nat) (l : List Byte) (hwf : Memory.wf s.mem = true) : Memory.wf (putChipBytes s pa l).mem = true := by
  induction l generalizing s pa with
  | nil => unfold putChipBytes; exact hwf
  | cons x t ih =>
    unfold putChipBytes
    repeat' (with_reducible first | assumption | (intro _) | apply ih | apply wf_putChipWord | dsimp only | split)
theorem wf_putPlace (s : State) (pa key : Nat) (data : List Byte) (hwf : Memory.wf s.mem = true) : Memory.wf (putPlace s pa key data).mem = true := by
  unfold putPlace
  repeat' (with_reducible first | assumption | apply wf_putChipBytes | apply wf_putHome | split)
theorem wf_keepUnit (s0 s : State) (m : Member) (e : TlbEntry) (va n scope : Nat) (hwf : Memory.wf s.mem = true) : Memory.wf (keepUnit s0 s m e va n scope).mem = true := by
  unfold keepUnit
  repeat' (with_reducible first | assumption | (intro _) | apply wf_ite | apply wf_dropCopiesOf | apply wf_keepCopies | dsimp only | split)
theorem wf_keepLoad (s0 s : State) (m : Member) (va n scope : Nat) (hwf : Memory.wf s.mem = true) : Memory.wf (keepLoad s0 s m va n scope).mem = true := by
  unfold keepLoad
  repeat' (with_reducible first | assumption | (intro _) | apply wf_ite | apply wf_keepUnit | dsimp only | split)
theorem wf_storeGlobal (s : State) (m : Member) (va : Nat) (data : List Byte) (ins : Nat) (hwf : Memory.wf s.mem = true) : Memory.wf (storeGlobal s m va data ins).mem = true := by
  unfold storeGlobal
  repeat' (with_reducible first | assumption | (intro _) | apply wf_foldl | apply wf_foldl_fst | apply wf_ite | apply wf_updWarp | apply wf_foldStore | apply wf_appendLog | apply wf_pushWrite | dsimp only | split)
theorem wf_putScr (s : State) (g off : Nat) (data : List Byte) (hwf : Memory.wf s.mem = true) : Memory.wf (putScr s g off data).mem = true := by
  unfold putScr
  repeat' (with_reducible first | assumption | (intro _) | apply wf_updWg | dsimp only | split)
theorem wf_storeScr (s : State) (m : Member) (off : Nat) (data : List Byte) (ins : Nat) (hwf : Memory.wf s.mem = true) : Memory.wf (storeScr s m off data ins).mem = true := by
  unfold storeScr
  repeat' (with_reducible first | assumption | (intro _) | apply wf_foldl | apply wf_foldl_fst | apply wf_ite | apply wf_putScr | apply wf_foldStore | apply wf_pushWrite | dsimp only | split)

theorem wf_fillAhead (s : State) (part stream : Nat) (vas : List Nat) (hwf : Memory.wf s.mem = true) : Memory.wf (fillAhead s part stream vas).mem = true := by
  unfold fillAhead
  repeat' (with_reducible first | assumption | (intro _) | apply wf_foldl | apply wf_foldl_fst | apply wf_fillTlb | dsimp only | split)

/-! ### Image -/

theorem wf_imageReg (s : State) (w : Nat) (r : RegWrite) (hwf : Memory.wf s.mem = true) : Memory.wf (imageReg s w r).mem = true := by
  unfold imageReg
  repeat' (with_reducible first | assumption | (intro _) | apply wf_ite | apply wf_putNat | dsimp only | split)
theorem wf_imageFlag (s : State) (w f : Nat) (hwf : Memory.wf s.mem = true) : Memory.wf (imageFlag s w f).mem = true := by
  unfold imageFlag
  repeat' (with_reducible first | assumption | (intro _) | apply wf_ite | apply wf_putNat | dsimp only | split)
theorem wf_imageReturned (s : State) (w : Nat) (hwf : Memory.wf s.mem = true) : Memory.wf (imageReturned s w).mem = true := by
  unfold imageReturned
  repeat' (with_reducible first | assumption | (intro _) | apply wf_ite | apply wf_putNat | dsimp only | split)
theorem wf_imageEvent (s : State) (lk : Nat) (r : EvRec) (hwf : Memory.wf s.mem = true) : Memory.wf (imageEvent s lk r).mem = true := by
  unfold imageEvent
  repeat' (with_reducible first | assumption | (intro _) | apply wf_ite | apply wf_updLcore | apply wf_putHome | apply wf_putNat | dsimp only | split)

/-! ### Life -/

theorem wf_testBarrier (s : State) (g k : Nat) (hwf : Memory.wf s.mem = true) : Memory.wf (testBarrier s g k).mem = true := by
  unfold testBarrier
  repeat' (with_reducible first | assumption | (intro _) | apply wf_ite | apply wf_updWg | dsimp only | split)
theorem wf_testBarriers (s : State) (g : Nat) (hwf : Memory.wf s.mem = true) : Memory.wf (testBarriers s g).mem = true := by
  unfold testBarriers
  repeat' (with_reducible first | assumption | (intro _) | apply wf_foldl | apply wf_foldl_fst | apply wf_ite | apply wf_testBarrier | dsimp only | split)
theorem wf_releaseStorage (s : State) (g : Nat) (hwf : Memory.wf s.mem = true) : Memory.wf (releaseStorage s g).mem = true := by
  unfold releaseStorage
  repeat' (with_reducible first | assumption | (intro _) | apply wf_ite | apply wf_updWg | apply wf_updPcore | dsimp only | split)
theorem wf_dropFromQuarter (s : State) (w : Nat) (hwf : Memory.wf s.mem = true) : Memory.wf (dropFromQuarter s w).mem = true := by
  unfold dropFromQuarter
  repeat' (with_reducible first | assumption | (intro _) | apply wf_updPcore | dsimp only | split)
theorem wf_freeWarp (s : State) (w : Nat) (hwf : Memory.wf s.mem = true) : Memory.wf (freeWarp s w).mem = true := by
  unfold freeWarp
  repeat' (with_reducible first | assumption | (intro _) | apply wf_ite | apply wf_dropFromQuarter | apply wf_updWg | dsimp only | split)
theorem wf_reapWg (s : State) (g : Nat) (hwf : Memory.wf s.mem = true) : Memory.wf (reapWg s g).mem = true := by
  unfold reapWg
  repeat' (with_reducible first | assumption | (intro _) | apply wf_foldl | apply wf_foldl_fst | apply wf_ite | apply wf_freeWarp | dsimp only | split)
theorem wf_outWord (s : State) (g va : Nat) (data : List Byte) (hwf : Memory.wf s.mem = true) : Memory.wf (outWord s g va data).mem = true := by
  unfold outWord
  repeat' (with_reducible first | assumption | (intro _) | apply wf_ite | apply wf_fillClr | apply wf_fillTlb | apply wf_appendLog | apply wf_putChipBytes | apply wf_pushWrite | dsimp only | split)
theorem wf_writeOut (s : State) (g : Nat) (hwf : Memory.wf s.mem = true) : Memory.wf (writeOut s g).mem = true := by
  unfold writeOut
  repeat' (with_reducible first | assumption | (intro _) | apply wf_foldl | apply wf_foldl_fst | apply wf_outWord | apply wf_appendFault | dsimp only | split)
theorem wf_retireWg (s : State) (g : Nat) (hwf : Memory.wf s.mem = true) : Memory.wf (retireWg s g).mem = true := by
  unfold retireWg
  repeat' (with_reducible first | assumption | (intro _) | apply wf_ite | apply wf_updWg | apply wf_updGrid | apply wf_releaseStorage | apply wf_reapWg | apply wf_writeOut | dsimp only | split)
theorem wf_settleHolder (s : State) (g : Nat) (hwf : Memory.wf s.mem = true) : Memory.wf (settleHolder s g).mem = true := by
  unfold settleHolder
  repeat' (with_reducible first | assumption | (intro _) | apply wf_ite | apply wf_reapWg | apply wf_retireWg | dsimp only | split)
theorem wf_settleWarp (s : State) (w : Nat) (hwf : Memory.wf s.mem = true) : Memory.wf (settleWarp s w).mem = true := by
  unfold settleWarp
  repeat' (with_reducible first | assumption | (intro _) | apply wf_ite | apply wf_settleHolder | dsimp only | split)
theorem wf_endThread (s : State) (m : Member) (hwf : Memory.wf s.mem = true) : Memory.wf (endThread s m).mem = true := by
  unfold endThread
  repeat' (with_reducible first | assumption | (intro _) | apply wf_updWarp | apply wf_testBarriers | apply wf_reapWg | apply wf_retireWg | dsimp only | split)

/-! ### Ready -/

theorem wf_yieldWarp (s : State) (w : Nat) (hwf : Memory.wf s.mem = true) : Memory.wf (yieldWarp s w).mem = true := by
  unfold yieldWarp
  exact wf_updPcore _ _ _ hwf

/-! ### Ops -/

theorem wf_standAt (s : State) (m : Member) (pc : Pair) (pos : Nat) (hwf : Memory.wf s.mem = true) : Memory.wf (standAt s m pc pos).mem = true := by
  unfold standAt
  repeat' (with_reducible first | assumption | (intro _) | apply wf_ite | apply wf_updThr | dsimp only | split)
theorem wf_toSuccessor (s : State) (g : Group) (m : Member) (hwf : Memory.wf s.mem = true) : Memory.wf (toSuccessor s g m).mem = true := by
  unfold toSuccessor
  repeat' (with_reducible first | assumption | (intro _) | apply wf_ite | apply wf_endThread | apply wf_standAt | dsimp only | split)
theorem wf_yieldWarps (s : State) (g : Group) (ws : List Nat) (hwf : Memory.wf s.mem = true) : Memory.wf (yieldWarps s g ws).mem = true := by
  unfold yieldWarps
  repeat' (with_reducible first | assumption | (intro _) | apply wf_foldl | apply wf_foldl_fst | apply wf_ite | apply wf_yieldWarp | dsimp only | split)
theorem wf_standAfter (s : State) (g : Group) (m : Member) (hwf : Memory.wf s.mem = true) : Memory.wf (standAfter s g m).mem = true := by
  unfold standAfter
  repeat' (with_reducible first | assumption | (intro _) | apply wf_ite | apply wf_standAt | apply wf_yieldWarps | apply wf_toSuccessor | dsimp only | split)
theorem wf_standAfterIn (s : State) (g : Group) (m : Member) (w : Wait) (hwf : Memory.wf s.mem = true) : Memory.wf (standAfterIn s g m w).mem = true := by
  unfold standAfterIn
  repeat' (with_reducible first | assumption | (intro _) | apply wf_updThr | apply wf_standAfter | dsimp only | split)
theorem wf_standBefore (s : State) (g : Group) (m : Member) (hwf : Memory.wf s.mem = true) : Memory.wf (standBefore s g m).mem = true := by
  unfold standBefore
  repeat' (with_reducible first | assumption | (intro _) | apply wf_standAt | dsimp only | split)
theorem wf_dropGroup (s : State) (hwf : Memory.wf s.mem = true) : Memory.wf (dropGroup s).mem = true := by
  unfold dropGroup
  repeat' (with_reducible first | assumption | (intro _) | dsimp only | split)
theorem wf_endClause (s : State) (g : Group) (hwf : Memory.wf s.mem = true) : Memory.wf (endClause s g).mem = true := by
  unfold endClause
  repeat' (with_reducible first | assumption | (intro _) | apply wf_foldl | apply wf_foldl_fst | apply wf_yieldWarps | apply wf_toSuccessor | apply wf_dropGroup | dsimp only | split)
theorem wf_retire (s : State) (hwf : Memory.wf s.mem = true) : Memory.wf (retire s).mem = true := by
  unfold retire
  repeat' (with_reducible first | assumption | (intro _) | apply wf_ite | apply wf_dropGroup | apply wf_endClause | dsimp only | split)
theorem wf_dropMembers (s : State) (p : Member → Bool) (hwf : Memory.wf s.mem = true) : Memory.wf (dropMembers s p).mem = true := by
  unfold dropMembers
  repeat' (with_reducible first | assumption | (intro _) | apply wf_updGroup | dsimp only | split)
theorem wf_deferMembers (s : State) (g : Group) (ms : List (Member × Wait)) (hwf : Memory.wf s.mem = true) : Memory.wf (deferMembers s g ms).mem = true := by
  unfold deferMembers
  repeat' (with_reducible first | assumption | (intro _) | apply wf_foldl | apply wf_foldl_fst | apply wf_updThr | apply wf_standBefore | apply wf_dropMembers | dsimp only | split)
theorem wf_deferOnce (s : State) (g : Group) (act : List Member) (w : Wait) (hwf : Memory.wf s.mem = true) : Memory.wf (deferOnce s g act w).mem = true := by
  unfold deferOnce
  repeat' (with_reducible first | assumption | (intro _) | apply wf_foldl | apply wf_foldl_fst | apply wf_updThr | apply wf_deferMembers | dsimp only | split)
theorem wf_trapWarp (s : State) (w : Nat) (r : FaultRec) (hwf : Memory.wf s.mem = true) : Memory.wf (trapWarp s w r).mem = true := by
  unfold trapWarp
  repeat' (with_reducible first | assumption | (intro _) | apply wf_foldl | apply wf_foldl_fst | apply wf_updWarp | apply wf_addAwait | apply wf_appendFault | dsimp only | split)
theorem wf_takeTrap (s : State) (t : Trap) (pc : Pair) (pos : Nat) (hwf : Memory.wf s.mem = true) : Memory.wf (takeTrap s t pc pos).mem = true := by
  unfold takeTrap
  repeat' (with_reducible first | assumption | (intro _) | apply wf_ite | apply wf_updWarp | apply wf_trapWarp | dsimp only | split)
theorem wf_trapBefore (s : State) (g : Group) (act : List Member) (fs : List (Member × Fail)) (hwf : Memory.wf s.mem = true) : Memory.wf (trapBefore s g act fs).mem = true := by
  unfold trapBefore
  repeat' (with_reducible first | assumption | (intro _) | apply wf_foldl | apply wf_foldl_fst | apply wf_ite | apply wf_standBefore | apply wf_standAfter | apply wf_dropGroup | apply wf_takeTrap | dsimp only | split)
theorem wf_trapAfter (s : State) (g : Group) (ts : List Trap) (hwf : Memory.wf s.mem = true) : Memory.wf (trapAfter s g ts).mem = true := by
  unfold trapAfter
  repeat' (with_reducible first | assumption | (intro _) | apply wf_foldl | apply wf_foldl_fst | apply wf_standAfter | apply wf_retire | apply wf_dropMembers | apply wf_takeTrap | dsimp only | split)
theorem wf_resumeOne (s : State) (w : Nat) (hwf : Memory.wf s.mem = true) : Memory.wf (resumeOne s w).mem = true := by
  unfold resumeOne
  repeat' (with_reducible first | assumption | (intro _) | apply wf_ite | apply wf_updWarp | dsimp only | split)
theorem wf_eretOne (s : State) (w action : Nat) (pc : Pair) (lanes : Nat) (hwf : Memory.wf s.mem = true) : Memory.wf (eretOne s w action pc lanes).mem = true := by
  unfold eretOne
  repeat' (with_reducible first | assumption | (intro _) | apply wf_foldl | apply wf_foldl_fst | apply wf_ite | apply wf_endThread | apply wf_standAt | apply wf_resumeOne | dsimp only | split)
theorem wf_nextTrap (s : State) (w : Nat) (hwf : Memory.wf s.mem = true) : Memory.wf (nextTrap s w).mem = true := by
  unfold nextTrap
  repeat' (with_reducible first | assumption | (intro _) | apply wf_trapWarp | apply wf_updWarp | dsimp only | split)
theorem wf_eretWarp (s : State) (w action : Nat) (pc : Pair) (lanes : Nat) (hwf : Memory.wf s.mem = true) : Memory.wf (eretWarp s w action pc lanes).mem = true := by
  unfold eretWarp
  repeat' (with_reducible first | assumption | (intro _) | apply wf_foldl | apply wf_foldl_fst | apply wf_nextTrap | apply wf_eretOne | dsimp only | split)
theorem wf_pullFromGroups (s : State) (w : Nat) (hwf : Memory.wf s.mem = true) : Memory.wf (pullFromGroups s w).mem = true := by
  unfold pullFromGroups
  repeat' (with_reducible first | assumption | (intro _) | apply wf_foldl | apply wf_foldl_fst | apply wf_standBefore | dsimp only | split)
theorem wf_raiseFlag (s : State) (w f : Nat) (hwf : Memory.wf s.mem = true) : Memory.wf (raiseFlag s w f).mem = true := by
  unfold raiseFlag
  repeat' (with_reducible first | assumption | (intro _) | apply wf_ite | apply wf_updWarp | dsimp only | split)
theorem wf_lowerFlag (s : State) (w f : Nat) (hwf : Memory.wf s.mem = true) : Memory.wf (lowerFlag s w f).mem = true := by
  unfold lowerFlag
  repeat' (with_reducible first | assumption | (intro _) | apply wf_ite | apply wf_updWarp | apply wf_imageFlag | dsimp only | split)
theorem wf_markUniform (s : State) (w id : Nat) (regs : List Nat) (hwf : Memory.wf s.mem = true) : Memory.wf (markUniform s w id regs).mem = true := by
  unfold markUniform
  repeat' (with_reducible first | assumption | (intro _) | apply wf_foldl | apply wf_foldl_fst | apply wf_ite | apply wf_updWarp | dsimp only | split)
theorem wf_landUreg (s : State) (w id n : Nat) (v : Word) (hwf : Memory.wf s.mem = true) : Memory.wf (landUreg s w id n v).mem = true := by
  unfold landUreg
  repeat' (with_reducible first | assumption | (intro _) | apply wf_ite | apply wf_updWarp | dsimp only | split)
theorem wf_landWrite (s : State) (w id : Nat) (r : RegWrite) (hwf : Memory.wf s.mem = true) : Memory.wf (landWrite s w id r).mem = true := by
  unfold landWrite
  repeat' (with_reducible first | assumption | (intro _) | apply wf_ite | apply wf_imageReg | apply wf_landUreg | apply wf_setVreg | dsimp only | split)
theorem wf_issueLong (s : State) (g : Group) (ms : List Member) (mk : Nat → PLoad) (hwf : Memory.wf s.mem = true) : Memory.wf (issueLong s g ms mk).mem = true := by
  unfold issueLong
  repeat' (with_reducible first | assumption | (intro _) | apply wf_foldl | apply wf_foldl_fst | apply wf_ite | apply wf_raiseFlag | apply wf_markUniform | dsimp only | split)
theorem wf_forward (s : State) (m : Member) (v : Val) (hwf : Memory.wf s.mem = true) : Memory.wf (forward s m v).mem = true := by
  unfold forward
  repeat' (with_reducible first | assumption | (intro _) | apply wf_foldl | apply wf_foldl_fst | apply wf_ite | apply wf_updWarp | dsimp only | split)
theorem wf_takeFwd (s : State) (m : Member) (hwf : Memory.wf s.mem = true) : Memory.wf (takeFwd s m).mem = true := by
  unfold takeFwd
  repeat' (with_reducible first | assumption | (intro _) | apply wf_updWarp | dsimp only | split)
theorem wf_forwards (s : State) (vals : List (Member × Val)) (hwf : Memory.wf s.mem = true) : Memory.wf (forwards s vals).mem = true := by
  unfold forwards
  repeat' (with_reducible first | assumption | (intro _) | apply wf_foldl | apply wf_foldl_fst | apply wf_forward | dsimp only | split)
theorem wf_takeFwds (s : State) (ms : List Member) (hwf : Memory.wf s.mem = true) : Memory.wf (takeFwds s ms).mem = true := by
  unfold takeFwds
  repeat' (with_reducible first | assumption | (intro _) | apply wf_foldl | apply wf_foldl_fst | apply wf_ite | apply wf_takeFwd | dsimp only | split)
theorem wf_foldEntries (s : State) (en : Entries) (l : List (Member × Src)) (hwf : Memory.wf s.mem = true) : Memory.wf (foldEntries s en l).mem = true := by
  unfold foldEntries
  repeat' (with_reducible first | assumption | (intro _) | apply wf_foldl | apply wf_foldl_fst | apply wf_ite | apply wf_foldSig | dsimp only | split)
theorem wf_redunMark (s : State) (k : RKind) (waiting run : List Member) (hwf : Memory.wf s.mem = true) : Memory.wf (redunMark s k waiting run).mem = true := by
  unfold redunMark
  repeat' (with_reducible first | assumption | (intro _) | apply wf_foldl | apply wf_foldl_fst | apply wf_updWarp | dsimp only | split)
theorem wf_groupOpE (i : Instr) (k : RKind) (en : Entries) (wait : State → Member → Src → Option Wait) (fail : State → Member → Src → Option Fail) (run : State → Group → List (Member × Src) → State × List Trap) (s : State)  (hf_run : ∀ (a0 : State) (a1 : Group) (a2 : List (Member × Src)), Memory.wf a0.mem = true → Memory.wf (run a0 a1 a2).1.mem = true) (hwf : Memory.wf s.mem = true) : NextWf (groupOpE i k en wait fail run s) := by
  unfold groupOpE
  repeat' (with_reducible first | assumption | (intro _) | apply nextWf_next | apply nextWf_refused | apply wf_ite | apply nextWf_ite | apply wf_constTraces | apply wf_retire | apply wf_deferMembers | apply wf_trapBefore | apply wf_trapAfter | apply wf_foldEntries | apply wf_redunMark | apply hf_run | dsimp only | split)
theorem wf_groupOp (i : Instr) (k : RKind) (wait : State → Member → Src → Option Wait) (fail : State → Member → Src → Option Fail) (run : State → Group → List (Member × Src) → State × List Trap) (s : State)  (hf_run : ∀ (a0 : State) (a1 : Group) (a2 : List (Member × Src)), Memory.wf a0.mem = true → Memory.wf (run a0 a1 a2).1.mem = true) (hwf : Memory.wf s.mem = true) : NextWf (groupOp i k wait fail run s) := by
  unfold groupOp
  repeat' (with_reducible first | assumption | (intro _) | apply nextWf_next | apply nextWf_refused | apply wf_groupOpE | apply hf_run | dsimp only | split)
theorem wf_setFpst (s : State) (l : List (Member × BitVec 6)) (hwf : Memory.wf s.mem = true) : Memory.wf (setFpst s l).mem = true := by
  unfold setFpst
  repeat' (with_reducible first | assumption | (intro _) | apply wf_foldl | apply wf_foldl_fst | apply wf_ite | apply wf_updThr | dsimp only | split)
theorem wf_applyRes (s : State) (sh : Shape) (rs : List (Member × Res)) (hwf : Memory.wf s.mem = true) : Memory.wf (applyRes s sh rs).mem = true := by
  unfold applyRes
  repeat' (with_reducible first | assumption | (intro _) | apply wf_foldl | apply wf_foldl_fst | apply wf_ite | apply wf_updThr | apply wf_writeD | apply wf_setFpst | dsimp only | split)
theorem wf_regOp (i : Instr) (f : Src → Res) (s : State) (hwf : Memory.wf s.mem = true) : NextWf (regOp i f s) := by
  unfold regOp
  repeat' (with_reducible first | assumption | (intro _) | apply nextWf_next | apply nextWf_refused | apply wf_groupOp | apply wf_applyRes | dsimp only | split)
theorem wf_regOpF (i : Instr) (fail : State → Member → Src → Option Fail) (f : Src → Res) (s : State) (hwf : Memory.wf s.mem = true) : NextWf (regOpF i fail f s) := by
  unfold regOpF
  repeat' (with_reducible first | assumption | (intro _) | apply nextWf_next | apply nextWf_refused | apply wf_groupOp | apply wf_applyRes | dsimp only | split)
theorem wf_regOpG (i : Instr) (fail : State → Member → Src → Option Fail) (f : State → Member → Src → Res) (s : State) (hwf : Memory.wf s.mem = true) : NextWf (regOpG i fail f s) := by
  unfold regOpG
  repeat' (with_reducible first | assumption | (intro _) | apply nextWf_next | apply nextWf_refused | apply wf_groupOp | apply wf_applyRes | dsimp only | split)
theorem wf_warpOp (i : Instr) (f : List (Nat × Src) → Nat → Src → Res) (s : State) (hwf : Memory.wf s.mem = true) : NextWf (warpOp i f s) := by
  unfold warpOp
  repeat' (with_reducible first | assumption | (intro _) | apply nextWf_next | apply nextWf_refused | apply wf_groupOp | apply wf_applyRes | dsimp only | split)
theorem wf_effectOp (i : Instr) (fail : State → Member → Src → Option Fail) (run : State → Group → List (Member × Src) → State) (s : State)  (hf_run : ∀ (a0 : State) (a1 : Group) (a2 : List (Member × Src)), Memory.wf a0.mem = true → Memory.wf (run a0 a1 a2).mem = true) (hwf : Memory.wf s.mem = true) : NextWf (effectOp i fail run s) := by
  unfold effectOp
  repeat' (with_reducible first | assumption | (intro _) | apply nextWf_next | apply nextWf_refused | apply wf_groupOp | apply hf_run | dsimp only | split)
theorem wf_onceOp (i : Instr) (k : RKind) (en : Entries) (wait : State → Member → Src → Option Wait) (fail : State → Member → Src → Option Fail) (run : State → Group → List Member → Member → Src → State × List Trap) (s : State)  (hf_run : ∀ (a0 : State) (a1 : Group) (a2 : List Member) (a3 : Member) (a4 : Src), Memory.wf a0.mem = true → Memory.wf (run a0 a1 a2 a3 a4).1.mem = true) (hwf : Memory.wf s.mem = true) : NextWf (onceOp i k en wait fail run s) := by
  unfold onceOp
  repeat' (with_reducible first | assumption | (intro _) | apply nextWf_next | apply nextWf_refused | apply wf_ite | apply nextWf_ite | apply wf_constTraces | apply wf_retire | apply wf_deferOnce | apply wf_trapBefore | apply wf_trapAfter | apply wf_foldEntries | apply wf_redunMark | apply hf_run | dsimp only | split)
theorem wf_perWarpOp (i : Instr) (k : RKind) (wait : State → Member → Src → Option Wait) (fail : State → Member → Src → Option Fail) (run : State → Group → List Member → Member → Src → State) (s : State)  (hf_run : ∀ (a0 : State) (a1 : Group) (a2 : List Member) (a3 : Member) (a4 : Src), Memory.wf a0.mem = true → Memory.wf (run a0 a1 a2 a3 a4).mem = true) (hwf : Memory.wf s.mem = true) : NextWf (perWarpOp i k wait fail run s) := by
  unfold perWarpOp
  repeat' (with_reducible first | assumption | (intro _) | apply nextWf_next | apply nextWf_refused | apply wf_foldl | apply wf_foldl_fst | apply wf_ite | apply nextWf_ite | apply wf_groupOp | apply hf_run | dsimp only | split)
theorem wf_spreadD (s : State) (i : Instr) (act : List Member) (v : Val) (hwf : Memory.wf s.mem = true) : Memory.wf (spreadD s i act v).mem = true := by
  unfold spreadD
  repeat' (with_reducible first | assumption | (intro _) | apply wf_writeD | dsimp only | split)

end Sys2Proof.Machine
end

