-- ==== Sys2Proof/Laws/CanonicalRegister.lean ====
section
/-! SUPPORT. Memory keeps its canonical form under accesses, tiles, and vector floating-point instructions: one lemma for each definition that answers a state. -/

namespace Sys2Proof.Machine

set_option linter.unusedVariables false

/-! ### Tensor -/

theorem wf_execIdx2 (p : BitVec 3) (d a b : BitVec 7) (s : State) (hwf : Memory.wf s.mem = true) : NextWf (execIdx2 p d a b s) := by
  unfold execIdx2
  repeat' (with_reducible first | assumption | (intro _) | apply nextWf_next | apply nextWf_refused | apply wf_ite | apply nextWf_ite | apply wf_regOpG | dsimp only | split)

/-! ### PlainAccess -/

theorem wf_loadReturn (s : State) (g : Group) (sh : Shape) (vals : List (Member × Val)) (hwf : Memory.wf s.mem = true) : Memory.wf (loadReturn s g sh vals).mem = true := by
  unfold loadReturn
  repeat' (with_reducible first | assumption | (intro _) | apply wf_issueLong | apply wf_forwards | apply wf_takeFwds | dsimp only | split)
theorem wf_loadOp (i : Instr) (addr : Src → Nat) (n : Nat) (s : State) (hwf : Memory.wf s.mem = true) : NextWf (loadOp i addr n s) := by
  unfold loadOp
  repeat' (with_reducible first | assumption | (intro _) | apply nextWf_next | apply nextWf_refused | apply wf_foldl | apply wf_foldl_fst | apply wf_ite | apply nextWf_ite | apply wf_groupOp | apply wf_keepLoad | apply wf_accessTrace | apply wf_loadReturn | dsimp only | split)
theorem wf_storeHalves (s : State) (m : Member) (va : Nat) (data : List Byte) (ins : Nat) (hwf : Memory.wf s.mem = true) : Memory.wf (storeHalves s m va data ins).mem = true := by
  unfold storeHalves
  repeat' (with_reducible first | assumption | (intro _) | apply wf_ite | apply wf_storeGlobal | dsimp only | split)
theorem wf_storeOp (i : Instr) (addr : Src → Nat) (n : Nat) (s : State) (hwf : Memory.wf s.mem = true) : NextWf (storeOp i addr n s) := by
  unfold storeOp
  repeat' (with_reducible first | assumption | (intro _) | apply nextWf_next | apply nextWf_refused | apply wf_foldl | apply wf_foldl_fst | apply wf_groupOp | apply wf_storeHalves | apply wf_accessTrace | dsimp only | split)
theorem wf_execLdB32 (p : BitVec 3) (d a : BitVec 7) (i : BitVec 9) (s : State) (hwf : Memory.wf s.mem = true) : NextWf (execLdB32 p d a i s) := by
  unfold execLdB32
  repeat' (with_reducible first | assumption | (intro _) | apply nextWf_next | apply nextWf_refused | apply wf_loadOp | dsimp only | split)
theorem wf_execStB32 (p : BitVec 3) (d a : BitVec 7) (i : BitVec 9) (s : State) (hwf : Memory.wf s.mem = true) : NextWf (execStB32 p d a i s) := by
  unfold execStB32
  repeat' (with_reducible first | assumption | (intro _) | apply nextWf_next | apply nextWf_refused | apply wf_storeOp | dsimp only | split)
theorem wf_execLdB64 (p : BitVec 3) (d a b : BitVec 7) (s : State) (hwf : Memory.wf s.mem = true) : NextWf (execLdB64 p d a b s) := by
  unfold execLdB64
  repeat' (with_reducible first | assumption | (intro _) | apply nextWf_next | apply nextWf_refused | apply wf_loadOp | dsimp only | split)
theorem wf_execStB64 (p : BitVec 3) (d a b : BitVec 7) (s : State) (hwf : Memory.wf s.mem = true) : NextWf (execStB64 p d a b s) := by
  unfold execStB64
  repeat' (with_reducible first | assumption | (intro _) | apply nextWf_next | apply nextWf_refused | apply wf_storeOp | dsimp only | split)
theorem wf_execLdB128 (p : BitVec 3) (d a b : BitVec 7) (s : State) (hwf : Memory.wf s.mem = true) : NextWf (execLdB128 p d a b s) := by
  unfold execLdB128
  repeat' (with_reducible first | assumption | (intro _) | apply nextWf_next | apply nextWf_refused | apply wf_loadOp | dsimp only | split)
theorem wf_execStB128 (p : BitVec 3) (d a b : BitVec 7) (s : State) (hwf : Memory.wf s.mem = true) : NextWf (execStB128 p d a b s) := by
  unfold execStB128
  repeat' (with_reducible first | assumption | (intro _) | apply nextWf_next | apply nextWf_refused | apply wf_storeOp | dsimp only | split)
theorem wf_execLdB8 (p : BitVec 3) (d a b : BitVec 7) (s : State) (hwf : Memory.wf s.mem = true) : NextWf (execLdB8 p d a b s) := by
  unfold execLdB8
  repeat' (with_reducible first | assumption | (intro _) | apply nextWf_next | apply nextWf_refused | apply wf_loadOp | dsimp only | split)
theorem wf_execLdB16 (p : BitVec 3) (d a b : BitVec 7) (s : State) (hwf : Memory.wf s.mem = true) : NextWf (execLdB16 p d a b s) := by
  unfold execLdB16
  repeat' (with_reducible first | assumption | (intro _) | apply nextWf_next | apply nextWf_refused | apply wf_loadOp | dsimp only | split)
theorem wf_execStB8 (p : BitVec 3) (d a b : BitVec 7) (s : State) (hwf : Memory.wf s.mem = true) : NextWf (execStB8 p d a b s) := by
  unfold execStB8
  repeat' (with_reducible first | assumption | (intro _) | apply nextWf_next | apply nextWf_refused | apply wf_storeOp | dsimp only | split)
theorem wf_execStB16 (p : BitVec 3) (d a b : BitVec 7) (s : State) (hwf : Memory.wf s.mem = true) : NextWf (execStB16 p d a b s) := by
  unfold execStB16
  repeat' (with_reducible first | assumption | (intro _) | apply nextWf_next | apply nextWf_refused | apply wf_storeOp | dsimp only | split)
theorem wf_blockTraces (s0 : State) (m : Member) (vas : List Nat) (kind : Nat) (s : State) (hwf : Memory.wf s.mem = true) : Memory.wf (blockTraces s0 m vas kind s).mem = true := by
  unfold blockTraces
  repeat' (with_reducible first | assumption | (intro _) | apply wf_foldl | apply wf_foldl_fst | apply wf_accessTrace | apply wf_keepLoad | dsimp only | split)
theorem wf_ldsOp (i : Instr) (n : Nat) (s : State) (hwf : Memory.wf s.mem = true) : NextWf (ldsOp i n s) := by
  unfold ldsOp
  repeat' (with_reducible first | assumption | (intro _) | apply nextWf_next | apply nextWf_refused | apply wf_issueLong | apply wf_groupOp | dsimp only | split)
theorem wf_stsOp (i : Instr) (n : Nat) (s : State) (hwf : Memory.wf s.mem = true) : NextWf (stsOp i n s) := by
  unfold stsOp
  repeat' (with_reducible first | assumption | (intro _) | apply nextWf_next | apply nextWf_refused | apply wf_foldl | apply wf_foldl_fst | apply wf_groupOp | apply wf_storeScr | dsimp only | split)
theorem wf_execLdsB32 (p : BitVec 3) (d a b : BitVec 7) (s : State) (hwf : Memory.wf s.mem = true) : NextWf (execLdsB32 p d a b s) := by
  unfold execLdsB32
  repeat' (with_reducible first | assumption | (intro _) | apply nextWf_next | apply nextWf_refused | apply wf_ldsOp | dsimp only | split)
theorem wf_execStsB32 (p : BitVec 3) (d a b : BitVec 7) (s : State) (hwf : Memory.wf s.mem = true) : NextWf (execStsB32 p d a b s) := by
  unfold execStsB32
  repeat' (with_reducible first | assumption | (intro _) | apply nextWf_next | apply nextWf_refused | apply wf_stsOp | dsimp only | split)
theorem wf_execLdsB64 (p : BitVec 3) (d a b : BitVec 7) (s : State) (hwf : Memory.wf s.mem = true) : NextWf (execLdsB64 p d a b s) := by
  unfold execLdsB64
  repeat' (with_reducible first | assumption | (intro _) | apply nextWf_next | apply nextWf_refused | apply wf_ldsOp | dsimp only | split)
theorem wf_execStsB64 (p : BitVec 3) (d a b : BitVec 7) (s : State) (hwf : Memory.wf s.mem = true) : NextWf (execStsB64 p d a b s) := by
  unfold execStsB64
  repeat' (with_reducible first | assumption | (intro _) | apply nextWf_next | apply nextWf_refused | apply wf_stsOp | dsimp only | split)
theorem wf_ldcOp (i : Instr) (n : Nat) (s : State) (hwf : Memory.wf s.mem = true) : NextWf (ldcOp i n s) := by
  unfold ldcOp
  repeat' (with_reducible first | assumption | (intro _) | apply nextWf_next | apply nextWf_refused | apply wf_foldl | apply wf_foldl_fst | apply wf_ite | apply nextWf_ite | apply wf_constTrace | apply wf_groupOp | apply wf_loadReturn | dsimp only | split)
theorem wf_execLdcB32 (p : BitVec 3) (d a b : BitVec 7) (s : State) (hwf : Memory.wf s.mem = true) : NextWf (execLdcB32 p d a b s) := by
  unfold execLdcB32
  repeat' (with_reducible first | assumption | (intro _) | apply nextWf_next | apply nextWf_refused | apply wf_ldcOp | dsimp only | split)
theorem wf_execLdcB64 (p : BitVec 3) (d a b : BitVec 7) (s : State) (hwf : Memory.wf s.mem = true) : NextWf (execLdcB64 p d a b s) := by
  unfold execLdcB64
  repeat' (with_reducible first | assumption | (intro _) | apply nextWf_next | apply nextWf_refused | apply wf_ldcOp | dsimp only | split)
theorem wf_execPref (p : BitVec 3) (d a b : BitVec 7) (s : State) (hwf : Memory.wf s.mem = true) : NextWf (execPref p d a b s) := by
  unfold execPref
  repeat' (with_reducible first | assumption | (intro _) | apply nextWf_next | apply nextWf_refused | apply wf_effectOp | dsimp only | split)
theorem wf_elemStore (s : State) (m : Member) (r : TRec) (v : Nat) (va : Nat) (ex : Int) (ins : Nat) (hwf : Memory.wf s.mem = true) : Memory.wf (elemStore s m r v va ex ins).mem = true := by
  unfold elemStore
  repeat' (with_reducible first | assumption | (intro _) | apply wf_ite | apply wf_accessTrace | apply wf_storeGlobal | dsimp only | split)
theorem wf_unitStore (s : State) (m : Member) (r : TRec) (x : Src) (ins : Nat) (hwf : Memory.wf s.mem = true) : Memory.wf (unitStore s m r x ins).mem = true := by
  unfold unitStore
  repeat' (with_reducible first | assumption | (intro _) | apply wf_foldl | apply wf_foldl_fst | apply wf_elemStore | dsimp only | split)
theorem wf_ldrOp (i : Instr) (num : Warp → Nat) (s : State) (hwf : Memory.wf s.mem = true) : NextWf (ldrOp i num s) := by
  unfold ldrOp
  repeat' (with_reducible first | assumption | (intro _) | apply nextWf_next | apply nextWf_refused | apply wf_foldl | apply wf_foldl_fst | apply wf_ite | apply nextWf_ite | apply wf_groupOp | apply wf_keepLoad | apply wf_accessTrace | apply wf_loadReturn | dsimp only | split)
theorem wf_strOp (i : Instr) (num : Warp → Nat) (s : State) (hwf : Memory.wf s.mem = true) : NextWf (strOp i num s) := by
  unfold strOp
  repeat' (with_reducible first | assumption | (intro _) | apply nextWf_next | apply nextWf_refused | apply wf_foldl | apply wf_foldl_fst | apply wf_ite | apply nextWf_ite | apply wf_groupOp | apply wf_unitStore | dsimp only | split)
theorem wf_execLdrB32 (p : BitVec 3) (d a : BitVec 7) (i : BitVec 8) (s : State) (hwf : Memory.wf s.mem = true) : NextWf (execLdrB32 p d a i s) := by
  unfold execLdrB32
  repeat' (with_reducible first | assumption | (intro _) | apply nextWf_next | apply nextWf_refused | apply wf_ldrOp | dsimp only | split)
theorem wf_execLdrB32Uniform (p : BitVec 3) (d a : BitVec 7) (n : BitVec 4) (s : State) (hwf : Memory.wf s.mem = true) : NextWf (execLdrB32Uniform p d a n s) := by
  unfold execLdrB32Uniform
  repeat' (with_reducible first | assumption | (intro _) | apply nextWf_next | apply nextWf_refused | apply wf_ldrOp | dsimp only | split)
theorem wf_execStrB32 (p : BitVec 3) (d a : BitVec 7) (i : BitVec 8) (s : State) (hwf : Memory.wf s.mem = true) : NextWf (execStrB32 p d a i s) := by
  unfold execStrB32
  repeat' (with_reducible first | assumption | (intro _) | apply nextWf_next | apply nextWf_refused | apply wf_strOp | dsimp only | split)
theorem wf_execStrB32Uniform (p : BitVec 3) (d a : BitVec 7) (n : BitVec 4) (s : State) (hwf : Memory.wf s.mem = true) : NextWf (execStrB32Uniform p d a n s) := by
  unfold execStrB32Uniform
  repeat' (with_reducible first | assumption | (intro _) | apply nextWf_next | apply nextWf_refused | apply wf_strOp | dsimp only | split)

/-! ### VecFloat -/

theorem wf_execFaddF32 (p : BitVec 3) (d a b : BitVec 7) (s : State) (hwf : Memory.wf s.mem = true) : NextWf (execFaddF32 p d a b s) := by
  unfold execFaddF32
  repeat' (with_reducible first | assumption | (intro _) | apply nextWf_next | apply nextWf_refused | apply wf_regOp | dsimp only | split)
theorem wf_execFsubF32 (p : BitVec 3) (d a b : BitVec 7) (s : State) (hwf : Memory.wf s.mem = true) : NextWf (execFsubF32 p d a b s) := by
  unfold execFsubF32
  repeat' (with_reducible first | assumption | (intro _) | apply nextWf_next | apply nextWf_refused | apply wf_regOp | dsimp only | split)
theorem wf_execFmulF32 (p : BitVec 3) (d a b : BitVec 7) (s : State) (hwf : Memory.wf s.mem = true) : NextWf (execFmulF32 p d a b s) := by
  unfold execFmulF32
  repeat' (with_reducible first | assumption | (intro _) | apply nextWf_next | apply nextWf_refused | apply wf_regOp | dsimp only | split)
theorem wf_execFminF32 (p : BitVec 3) (d a b : BitVec 7) (s : State) (hwf : Memory.wf s.mem = true) : NextWf (execFminF32 p d a b s) := by
  unfold execFminF32
  repeat' (with_reducible first | assumption | (intro _) | apply nextWf_next | apply nextWf_refused | apply wf_regOp | dsimp only | split)
theorem wf_execFmaF32D0 (p : BitVec 3) (d a b : BitVec 7) (s : State) (hwf : Memory.wf s.mem = true) : NextWf (execFmaF32D0 p d a b s) := by
  unfold execFmaF32D0
  repeat' (with_reducible first | assumption | (intro _) | apply nextWf_next | apply nextWf_refused | apply wf_regOp | dsimp only | split)
theorem wf_execFmaF32D1 (p : BitVec 3) (d a b : BitVec 7) (s : State) (hwf : Memory.wf s.mem = true) : NextWf (execFmaF32D1 p d a b s) := by
  unfold execFmaF32D1
  repeat' (with_reducible first | assumption | (intro _) | apply nextWf_next | apply nextWf_refused | apply wf_regOp | dsimp only | split)
theorem wf_execFmaF32D2 (p : BitVec 3) (d a b : BitVec 7) (s : State) (hwf : Memory.wf s.mem = true) : NextWf (execFmaF32D2 p d a b s) := by
  unfold execFmaF32D2
  repeat' (with_reducible first | assumption | (intro _) | apply nextWf_next | apply nextWf_refused | apply wf_regOp | dsimp only | split)
theorem wf_execFmaF32D3 (p : BitVec 3) (d a b : BitVec 7) (s : State) (hwf : Memory.wf s.mem = true) : NextWf (execFmaF32D3 p d a b s) := by
  unfold execFmaF32D3
  repeat' (with_reducible first | assumption | (intro _) | apply nextWf_next | apply nextWf_refused | apply wf_regOp | dsimp only | split)
theorem wf_execFmaxF32 (p : BitVec 3) (d a b : BitVec 7) (s : State) (hwf : Memory.wf s.mem = true) : NextWf (execFmaxF32 p d a b s) := by
  unfold execFmaxF32
  repeat' (with_reducible first | assumption | (intro _) | apply nextWf_next | apply nextWf_refused | apply wf_regOp | dsimp only | split)
theorem wf_execFcmpF32 (p : BitVec 3) (d a b : BitVec 7) (s : State) (hwf : Memory.wf s.mem = true) : NextWf (execFcmpF32 p d a b s) := by
  unfold execFcmpF32
  repeat' (with_reducible first | assumption | (intro _) | apply nextWf_next | apply nextWf_refused | apply wf_regOp | dsimp only | split)
theorem wf_execFclassF32 (p : BitVec 3) (d a : BitVec 7) (s : State) (hwf : Memory.wf s.mem = true) : NextWf (execFclassF32 p d a s) := by
  unfold execFclassF32
  repeat' (with_reducible first | assumption | (intro _) | apply nextWf_next | apply nextWf_refused | apply wf_regOp | dsimp only | split)
theorem wf_execFaddF16 (p : BitVec 3) (d a b : BitVec 7) (s : State) (hwf : Memory.wf s.mem = true) : NextWf (execFaddF16 p d a b s) := by
  unfold execFaddF16
  repeat' (with_reducible first | assumption | (intro _) | apply nextWf_next | apply nextWf_refused | apply wf_regOp | dsimp only | split)
theorem wf_execFsubF16 (p : BitVec 3) (d a b : BitVec 7) (s : State) (hwf : Memory.wf s.mem = true) : NextWf (execFsubF16 p d a b s) := by
  unfold execFsubF16
  repeat' (with_reducible first | assumption | (intro _) | apply nextWf_next | apply nextWf_refused | apply wf_regOp | dsimp only | split)
theorem wf_execFmulF16 (p : BitVec 3) (d a b : BitVec 7) (s : State) (hwf : Memory.wf s.mem = true) : NextWf (execFmulF16 p d a b s) := by
  unfold execFmulF16
  repeat' (with_reducible first | assumption | (intro _) | apply nextWf_next | apply nextWf_refused | apply wf_regOp | dsimp only | split)
theorem wf_execFminF16 (p : BitVec 3) (d a b : BitVec 7) (s : State) (hwf : Memory.wf s.mem = true) : NextWf (execFminF16 p d a b s) := by
  unfold execFminF16
  repeat' (with_reducible first | assumption | (intro _) | apply nextWf_next | apply nextWf_refused | apply wf_regOp | dsimp only | split)
theorem wf_execFmaF16D0 (p : BitVec 3) (d a b : BitVec 7) (s : State) (hwf : Memory.wf s.mem = true) : NextWf (execFmaF16D0 p d a b s) := by
  unfold execFmaF16D0
  repeat' (with_reducible first | assumption | (intro _) | apply nextWf_next | apply nextWf_refused | apply wf_regOp | dsimp only | split)
theorem wf_execFmaF16D1 (p : BitVec 3) (d a b : BitVec 7) (s : State) (hwf : Memory.wf s.mem = true) : NextWf (execFmaF16D1 p d a b s) := by
  unfold execFmaF16D1
  repeat' (with_reducible first | assumption | (intro _) | apply nextWf_next | apply nextWf_refused | apply wf_regOp | dsimp only | split)
theorem wf_execFmaF16D2 (p : BitVec 3) (d a b : BitVec 7) (s : State) (hwf : Memory.wf s.mem = true) : NextWf (execFmaF16D2 p d a b s) := by
  unfold execFmaF16D2
  repeat' (with_reducible first | assumption | (intro _) | apply nextWf_next | apply nextWf_refused | apply wf_regOp | dsimp only | split)
theorem wf_execFmaF16D3 (p : BitVec 3) (d a b : BitVec 7) (s : State) (hwf : Memory.wf s.mem = true) : NextWf (execFmaF16D3 p d a b s) := by
  unfold execFmaF16D3
  repeat' (with_reducible first | assumption | (intro _) | apply nextWf_next | apply nextWf_refused | apply wf_regOp | dsimp only | split)
theorem wf_execFmaxF16 (p : BitVec 3) (d a b : BitVec 7) (s : State) (hwf : Memory.wf s.mem = true) : NextWf (execFmaxF16 p d a b s) := by
  unfold execFmaxF16
  repeat' (with_reducible first | assumption | (intro _) | apply nextWf_next | apply nextWf_refused | apply wf_regOp | dsimp only | split)
theorem wf_execFcmpF16 (p : BitVec 3) (d a b : BitVec 7) (s : State) (hwf : Memory.wf s.mem = true) : NextWf (execFcmpF16 p d a b s) := by
  unfold execFcmpF16
  repeat' (with_reducible first | assumption | (intro _) | apply nextWf_next | apply nextWf_refused | apply wf_regOp | dsimp only | split)
theorem wf_execFclassF16 (p : BitVec 3) (d a : BitVec 7) (s : State) (hwf : Memory.wf s.mem = true) : NextWf (execFclassF16 p d a s) := by
  unfold execFclassF16
  repeat' (with_reducible first | assumption | (intro _) | apply nextWf_next | apply nextWf_refused | apply wf_regOp | dsimp only | split)
theorem wf_execFaddBf16 (p : BitVec 3) (d a b : BitVec 7) (s : State) (hwf : Memory.wf s.mem = true) : NextWf (execFaddBf16 p d a b s) := by
  unfold execFaddBf16
  repeat' (with_reducible first | assumption | (intro _) | apply nextWf_next | apply nextWf_refused | apply wf_regOp | dsimp only | split)
theorem wf_execFsubBf16 (p : BitVec 3) (d a b : BitVec 7) (s : State) (hwf : Memory.wf s.mem = true) : NextWf (execFsubBf16 p d a b s) := by
  unfold execFsubBf16
  repeat' (with_reducible first | assumption | (intro _) | apply nextWf_next | apply nextWf_refused | apply wf_regOp | dsimp only | split)
theorem wf_execFmulBf16 (p : BitVec 3) (d a b : BitVec 7) (s : State) (hwf : Memory.wf s.mem = true) : NextWf (execFmulBf16 p d a b s) := by
  unfold execFmulBf16
  repeat' (with_reducible first | assumption | (intro _) | apply nextWf_next | apply nextWf_refused | apply wf_regOp | dsimp only | split)
theorem wf_execFminBf16 (p : BitVec 3) (d a b : BitVec 7) (s : State) (hwf : Memory.wf s.mem = true) : NextWf (execFminBf16 p d a b s) := by
  unfold execFminBf16
  repeat' (with_reducible first | assumption | (intro _) | apply nextWf_next | apply nextWf_refused | apply wf_regOp | dsimp only | split)
theorem wf_execFmaBf16D0 (p : BitVec 3) (d a b : BitVec 7) (s : State) (hwf : Memory.wf s.mem = true) : NextWf (execFmaBf16D0 p d a b s) := by
  unfold execFmaBf16D0
  repeat' (with_reducible first | assumption | (intro _) | apply nextWf_next | apply nextWf_refused | apply wf_regOp | dsimp only | split)
theorem wf_execFmaBf16D1 (p : BitVec 3) (d a b : BitVec 7) (s : State) (hwf : Memory.wf s.mem = true) : NextWf (execFmaBf16D1 p d a b s) := by
  unfold execFmaBf16D1
  repeat' (with_reducible first | assumption | (intro _) | apply nextWf_next | apply nextWf_refused | apply wf_regOp | dsimp only | split)
theorem wf_execFmaBf16D2 (p : BitVec 3) (d a b : BitVec 7) (s : State) (hwf : Memory.wf s.mem = true) : NextWf (execFmaBf16D2 p d a b s) := by
  unfold execFmaBf16D2
  repeat' (with_reducible first | assumption | (intro _) | apply nextWf_next | apply nextWf_refused | apply wf_regOp | dsimp only | split)
theorem wf_execFmaBf16D3 (p : BitVec 3) (d a b : BitVec 7) (s : State) (hwf : Memory.wf s.mem = true) : NextWf (execFmaBf16D3 p d a b s) := by
  unfold execFmaBf16D3
  repeat' (with_reducible first | assumption | (intro _) | apply nextWf_next | apply nextWf_refused | apply wf_regOp | dsimp only | split)
theorem wf_execFmaxBf16 (p : BitVec 3) (d a b : BitVec 7) (s : State) (hwf : Memory.wf s.mem = true) : NextWf (execFmaxBf16 p d a b s) := by
  unfold execFmaxBf16
  repeat' (with_reducible first | assumption | (intro _) | apply nextWf_next | apply nextWf_refused | apply wf_regOp | dsimp only | split)
theorem wf_execFcmpBf16 (p : BitVec 3) (d a b : BitVec 7) (s : State) (hwf : Memory.wf s.mem = true) : NextWf (execFcmpBf16 p d a b s) := by
  unfold execFcmpBf16
  repeat' (with_reducible first | assumption | (intro _) | apply nextWf_next | apply nextWf_refused | apply wf_regOp | dsimp only | split)
theorem wf_execFclassBf16 (p : BitVec 3) (d a : BitVec 7) (s : State) (hwf : Memory.wf s.mem = true) : NextWf (execFclassBf16 p d a s) := by
  unfold execFclassBf16
  repeat' (with_reducible first | assumption | (intro _) | apply nextWf_next | apply nextWf_refused | apply wf_regOp | dsimp only | split)
theorem wf_execFrcp (p : BitVec 3) (d a : BitVec 7) (s : State) (hwf : Memory.wf s.mem = true) : NextWf (execFrcp p d a s) := by
  unfold execFrcp
  repeat' (with_reducible first | assumption | (intro _) | apply nextWf_next | apply nextWf_refused | apply wf_regOp | dsimp only | split)
theorem wf_execFrsq (p : BitVec 3) (d a : BitVec 7) (s : State) (hwf : Memory.wf s.mem = true) : NextWf (execFrsq p d a s) := by
  unfold execFrsq
  repeat' (with_reducible first | assumption | (intro _) | apply nextWf_next | apply nextWf_refused | apply wf_regOp | dsimp only | split)
theorem wf_execFsqrt (p : BitVec 3) (d a : BitVec 7) (s : State) (hwf : Memory.wf s.mem = true) : NextWf (execFsqrt p d a s) := by
  unfold execFsqrt
  repeat' (with_reducible first | assumption | (intro _) | apply nextWf_next | apply nextWf_refused | apply wf_regOp | dsimp only | split)
theorem wf_execFex2 (p : BitVec 3) (d a : BitVec 7) (s : State) (hwf : Memory.wf s.mem = true) : NextWf (execFex2 p d a s) := by
  unfold execFex2
  repeat' (with_reducible first | assumption | (intro _) | apply nextWf_next | apply nextWf_refused | apply wf_regOp | dsimp only | split)
theorem wf_execFlg2 (p : BitVec 3) (d a : BitVec 7) (s : State) (hwf : Memory.wf s.mem = true) : NextWf (execFlg2 p d a s) := by
  unfold execFlg2
  repeat' (with_reducible first | assumption | (intro _) | apply nextWf_next | apply nextWf_refused | apply wf_regOp | dsimp only | split)
theorem wf_execFsin (p : BitVec 3) (d a : BitVec 7) (s : State) (hwf : Memory.wf s.mem = true) : NextWf (execFsin p d a s) := by
  unfold execFsin
  repeat' (with_reducible first | assumption | (intro _) | apply nextWf_next | apply nextWf_refused | apply wf_regOp | dsimp only | split)
theorem wf_execFcos (p : BitVec 3) (d a : BitVec 7) (s : State) (hwf : Memory.wf s.mem = true) : NextWf (execFcos p d a s) := by
  unfold execFcos
  repeat' (with_reducible first | assumption | (intro _) | apply nextWf_next | apply nextWf_refused | apply wf_regOp | dsimp only | split)
theorem wf_execFdiv (p : BitVec 3) (d a b : BitVec 7) (s : State) (hwf : Memory.wf s.mem = true) : NextWf (execFdiv p d a b s) := by
  unfold execFdiv
  repeat' (with_reducible first | assumption | (intro _) | apply nextWf_next | apply nextWf_refused | apply wf_regOp | dsimp only | split)
theorem wf_execFrintRn (p : BitVec 3) (d a : BitVec 7) (s : State) (hwf : Memory.wf s.mem = true) : NextWf (execFrintRn p d a s) := by
  unfold execFrintRn
  repeat' (with_reducible first | assumption | (intro _) | apply nextWf_next | apply nextWf_refused | apply wf_regOp | dsimp only | split)
theorem wf_execFrintRz (p : BitVec 3) (d a : BitVec 7) (s : State) (hwf : Memory.wf s.mem = true) : NextWf (execFrintRz p d a s) := by
  unfold execFrintRz
  repeat' (with_reducible first | assumption | (intro _) | apply nextWf_next | apply nextWf_refused | apply wf_regOp | dsimp only | split)
theorem wf_execFrintRp (p : BitVec 3) (d a : BitVec 7) (s : State) (hwf : Memory.wf s.mem = true) : NextWf (execFrintRp p d a s) := by
  unfold execFrintRp
  repeat' (with_reducible first | assumption | (intro _) | apply nextWf_next | apply nextWf_refused | apply wf_regOp | dsimp only | split)
theorem wf_execFrintRm (p : BitVec 3) (d a : BitVec 7) (s : State) (hwf : Memory.wf s.mem = true) : NextWf (execFrintRm p d a s) := by
  unfold execFrintRm
  repeat' (with_reducible first | assumption | (intro _) | apply nextWf_next | apply nextWf_refused | apply wf_regOp | dsimp only | split)
theorem wf_execDadd (p : BitVec 3) (d a b : BitVec 7) (s : State) (hwf : Memory.wf s.mem = true) : NextWf (execDadd p d a b s) := by
  unfold execDadd
  repeat' (with_reducible first | assumption | (intro _) | apply nextWf_next | apply nextWf_refused | apply wf_regOp | dsimp only | split)
theorem wf_execDmul (p : BitVec 3) (d a b : BitVec 7) (s : State) (hwf : Memory.wf s.mem = true) : NextWf (execDmul p d a b s) := by
  unfold execDmul
  repeat' (with_reducible first | assumption | (intro _) | apply nextWf_next | apply nextWf_refused | apply wf_regOp | dsimp only | split)
theorem wf_execDfma (p : BitVec 3) (d a b : BitVec 7) (s : State) (hwf : Memory.wf s.mem = true) : NextWf (execDfma p d a b s) := by
  unfold execDfma
  repeat' (with_reducible first | assumption | (intro _) | apply nextWf_next | apply nextWf_refused | apply wf_regOp | dsimp only | split)
theorem wf_execMovf (d : BitVec 7) (f : BitVec 20) (s : State) (hwf : Memory.wf s.mem = true) : NextWf (execMovf d f s) := by
  unfold execMovf
  repeat' (with_reducible first | assumption | (intro _) | apply nextWf_next | apply nextWf_refused | apply wf_regOp | dsimp only | split)

/-! ### Convert -/

theorem wf_execDcvtF64F32 (p : BitVec 3) (d a : BitVec 7) (s : State) (hwf : Memory.wf s.mem = true) : NextWf (execDcvtF64F32 p d a s) := by
  unfold execDcvtF64F32
  repeat' (with_reducible first | assumption | (intro _) | apply nextWf_next | apply nextWf_refused | apply wf_regOp | dsimp only | split)
theorem wf_execDcvtF32F64 (p : BitVec 3) (d a : BitVec 7) (s : State) (hwf : Memory.wf s.mem = true) : NextWf (execDcvtF32F64 p d a s) := by
  unfold execDcvtF32F64
  repeat' (with_reducible first | assumption | (intro _) | apply nextWf_next | apply nextWf_refused | apply wf_regOp | dsimp only | split)
theorem wf_execDcvtF64S64 (p : BitVec 3) (d a : BitVec 7) (s : State) (hwf : Memory.wf s.mem = true) : NextWf (execDcvtF64S64 p d a s) := by
  unfold execDcvtF64S64
  repeat' (with_reducible first | assumption | (intro _) | apply nextWf_next | apply nextWf_refused | apply wf_regOp | dsimp only | split)
theorem wf_execDcvtS64F64 (p : BitVec 3) (d a : BitVec 7) (s : State) (hwf : Memory.wf s.mem = true) : NextWf (execDcvtS64F64 p d a s) := by
  unfold execDcvtS64F64
  repeat' (with_reducible first | assumption | (intro _) | apply nextWf_next | apply nextWf_refused | apply wf_regOp | dsimp only | split)
theorem wf_execCvtRn (p : BitVec 3) (d a b : BitVec 7) (s : State) (hwf : Memory.wf s.mem = true) : NextWf (execCvtRn p d a b s) := by
  unfold execCvtRn
  repeat' (with_reducible first | assumption | (intro _) | apply nextWf_next | apply nextWf_refused | apply wf_regOp | dsimp only | split)
theorem wf_execCvtRz (p : BitVec 3) (d a b : BitVec 7) (s : State) (hwf : Memory.wf s.mem = true) : NextWf (execCvtRz p d a b s) := by
  unfold execCvtRz
  repeat' (with_reducible first | assumption | (intro _) | apply nextWf_next | apply nextWf_refused | apply wf_regOp | dsimp only | split)
theorem wf_execCvtRp (p : BitVec 3) (d a b : BitVec 7) (s : State) (hwf : Memory.wf s.mem = true) : NextWf (execCvtRp p d a b s) := by
  unfold execCvtRp
  repeat' (with_reducible first | assumption | (intro _) | apply nextWf_next | apply nextWf_refused | apply wf_regOp | dsimp only | split)
theorem wf_execCvtRm (p : BitVec 3) (d a b : BitVec 7) (s : State) (hwf : Memory.wf s.mem = true) : NextWf (execCvtRm p d a b s) := by
  unfold execCvtRm
  repeat' (with_reducible first | assumption | (intro _) | apply nextWf_next | apply nextWf_refused | apply wf_regOp | dsimp only | split)
theorem wf_cvtnOne (b : BitVec 7) (k : BitVec 2) (acc : State × List (Member × Res)) (e : Member × Src)
 (hwf : Memory.wf acc.1.mem = true) : Memory.wf (cvtnOne b k acc e).1.mem = true := by
  unfold cvtnOne
  dsimp only
  cases b.getLsbD 6
  · exact hwf
  · exact wf_updWg _ _ _ hwf
theorem wf_execCvtn (p : BitVec 3) (d a b : BitVec 7) (k : BitVec 2) (s : State) (hwf : Memory.wf s.mem = true) :
    NextWf (execCvtn p d a b k s) := by
  unfold execCvtn
  refine wf_groupOp _ _ _ _ _ _ (fun s g l h => ?_) hwf
  have hf : ∀ l (acc : State × List (Member × Res)), Memory.wf acc.1.mem = true → Memory.wf (List.foldl (cvtnOne b k) acc l).1.mem = true :=
    fun l acc h => wf_foldl_fst l _ acc (fun s x hs => wf_cvtnOne b k s x hs) h
  repeat' (with_reducible first | assumption | (intro _) | apply wf_applyRes | apply hf | dsimp only | split)
theorem wf_execCvtw (p : BitVec 3) (d a b : BitVec 7) (k : BitVec 2) (s : State) (hwf : Memory.wf s.mem = true) : NextWf (execCvtw p d a b k s) := by
  unfold execCvtw
  repeat' (with_reducible first | assumption | (intro _) | apply nextWf_next | apply nextWf_refused | apply wf_regOpF | dsimp only | split)
theorem wf_execBsext (p : BitVec 3) (d a b : BitVec 7) (s : State) (hwf : Memory.wf s.mem = true) : NextWf (execBsext p d a b s) := by
  unfold execBsext
  repeat' (with_reducible first | assumption | (intro _) | apply nextWf_next | apply nextWf_refused | apply wf_regOp | dsimp only | split)
theorem wf_execBsapp (p : BitVec 3) (d a b : BitVec 7) (s : State) (hwf : Memory.wf s.mem = true) : NextWf (execBsapp p d a b s) := by
  unfold execBsapp
  repeat' (with_reducible first | assumption | (intro _) | apply nextWf_next | apply nextWf_refused | apply wf_regOp | dsimp only | split)
theorem wf_execCompress (p : BitVec 3) (d a : BitVec 7) (s : State) (hwf : Memory.wf s.mem = true) : NextWf (execCompress p d a s) := by
  unfold execCompress
  repeat' (with_reducible first | assumption | (intro _) | apply nextWf_next | apply nextWf_refused | apply wf_regOp | dsimp only | split)
theorem wf_execExpand (p : BitVec 3) (d a b : BitVec 7) (s : State) (hwf : Memory.wf s.mem = true) : NextWf (execExpand p d a b s) := by
  unfold execExpand
  repeat' (with_reducible first | assumption | (intro _) | apply nextWf_next | apply nextWf_refused | apply wf_regOp | dsimp only | split)

/-! ### Matrix -/

theorem wf_setTile (s : State) (w k : Nat) (img : List Byte) (hwf : Memory.wf s.mem = true) : Memory.wf (setTile s w k img).mem = true := by
  unfold setTile
  repeat' (with_reducible first | assumption | (intro _) | apply wf_updWarp | apply wf_readBefore | dsimp only | split)
theorem wf_setOpb (s : State) (g off : Nat) (img : List Byte) (hwf : Memory.wf s.mem = true) : Memory.wf (setOpb s g off img).mem = true := by
  unfold setOpb
  repeat' (with_reducible first | assumption | (intro _) | apply wf_updWg | apply wf_readBefore | dsimp only | split)
theorem wf_execTshape (p : BitVec 3) (d a : BitVec 7) (s : State) (hwf : Memory.wf s.mem = true) : NextWf (execTshape p d a s) := by
  unfold execTshape
  repeat' (with_reducible first | assumption | (intro _) | apply nextWf_next | apply nextWf_refused | apply wf_updWarp | apply wf_perWarpOp | apply wf_spreadD | dsimp only | split)
theorem wf_accSet (s : State) (g b i : Nat) (v : Word) (hwf : Memory.wf s.mem = true) : Memory.wf (accSet s g b i v).mem = true := by
  unfold accSet
  repeat' (with_reducible first | assumption | (intro _) | apply wf_updWg | dsimp only | split)
theorem wf_auditLines (s : State) (m : Member) (ident : Nat) (ls : List Nat) (hwf : Memory.wf s.mem = true) : Memory.wf (auditLines s m ident ls).mem = true := by
  unfold auditLines
  repeat' (with_reducible first | assumption | (intro _) | apply wf_foldl | apply wf_foldl_fst | apply wf_appendAudit | dsimp only | split)
theorem wf_kGroup (s : State) (o : MatOp) (bval : Nat → Nat → FVal × BitVec 6) (hwf : Memory.wf s.mem = true) : Memory.wf (kGroup s o bval).1.mem = true := by
  unfold kGroup
  repeat' (with_reducible first | assumption | (intro _) | apply wf_foldl | apply wf_foldl_fst | apply wf_updWg | dsimp only | split)
theorem wfe_kGroup {s : State} {o : MatOp} {bval : Nat → Nat → FVal × BitVec 6} {t : State} {y : BitVec 6} (e : (kGroup s o bval) = (t, y)) (hwf : Memory.wf s.mem = true) : Memory.wf t.mem = true := by
  have := wf_kGroup s o bval hwf; rw [e] at this; exact this
theorem wf_updMat (s : State) (id : Nat) (f : MatOp → MatOp) (hwf : Memory.wf s.mem = true) : Memory.wf (updMat s id f).mem = true := by
  unfold updMat
  repeat' (with_reducible first | assumption | (intro _) | dsimp only | split)
theorem wf_stallMat (s : State) (id va : Nat) (hwf : Memory.wf s.mem = true) : Memory.wf (stallMat s id va).mem = true := by
  unfold stallMat
  repeat' (with_reducible first | assumption | (intro _) | apply wf_ite | apply wf_addAwait | apply wf_updMat | apply wf_appendFault | dsimp only | split)
theorem wf_trapMat (s : State) (id : Nat) (f : Fail) (hwf : Memory.wf s.mem = true) : Memory.wf (trapMat s id f).mem = true := by
  unfold trapMat
  repeat' (with_reducible first | assumption | (intro _) | apply wf_updMat | apply wf_takeTrap | apply wf_pullFromGroups | dsimp only | split)
theorem wf_finishMat (s : State) (id : Nat) (hwf : Memory.wf s.mem = true) : Memory.wf (finishMat s id).mem = true := by
  unfold finishMat
  repeat' (with_reducible first | assumption | (intro _) | apply wf_foldl | apply wf_foldl_fst | apply wf_ite | apply wf_updThr | apply wf_settleHolder | apply wf_lowerFlag | dsimp only | split)
theorem wf_withIssue (s : State) (o : MatOp) (hwf : Memory.wf s.mem = true) : Memory.wf (withIssue s o).mem = true := by
  unfold withIssue
  repeat' (with_reducible first | assumption | (intro _) | apply wf_updWarp | dsimp only | split)
theorem wf_asIssued (s : State) (o : MatOp) (hwf : Memory.wf s.mem = true) : Memory.wf (asIssued s o).mem = true := by
  unfold asIssued
  repeat' (with_reducible first | assumption | (intro _) | apply wf_withIssue | dsimp only | split)
theorem wf_kAdvance (s : State) (id : Nat) (fl : BitVec 6) (hwf : Memory.wf s.mem = true) : Memory.wf (kAdvance s id fl).mem = true := by
  unfold kAdvance
  repeat' (with_reducible first | assumption | (intro _) | apply wf_ite | apply wf_updMat | apply wf_finishMat | dsimp only | split)
theorem wf_kStep (s : State) (id : Nat) (hwf : Memory.wf s.mem = true) : Memory.wf (kStep s id).mem = true := by
  unfold kStep
  repeat' (with_reducible first | assumption | (intro _) | apply wf_foldl | apply wf_foldl_fst | apply wf_ite | apply wf_asIssued | apply wf_trapMat | apply wf_stallMat | apply wf_keepLoad | apply wf_fillClr | apply wf_fillTlb | apply wf_updMat | apply wf_auditLines | apply wf_kGroup | apply wf_kAdvance | apply wf_fillAhead | dsimp only | split)
theorem wf_execMmaKgroup (s : State) (hwf : Memory.wf s.mem = true) : NextWf (execMmaKgroup s) := by
  unfold execMmaKgroup
  repeat' (with_reducible first | assumption | (intro _) | apply nextWf_next | apply nextWf_refused | apply wf_ite | apply nextWf_ite | apply wf_kStep | dsimp only | split)
theorem wf_issueMat (s : State) (g : Group) (act : List Member) (m : Member) (o : MatOp) (hwf : Memory.wf s.mem = true) : Memory.wf (issueMat s g act m o).mem = true := by
  unfold issueMat
  repeat' (with_reducible first | assumption | (intro _) | apply wf_raiseFlag | dsimp only | split)
theorem wf_mmaOp (i : Instr) (form : Nat) (d : BitVec 7) (s : State) (hwf : Memory.wf s.mem = true) : NextWf (mmaOp i form d s) := by
  unfold mmaOp
  repeat' (with_reducible first | assumption | (intro _) | apply nextWf_next | apply nextWf_refused | apply wf_perWarpOp | apply wf_issueMat | dsimp only | split)
theorem wf_execMmaBf16 (p : BitVec 3) (d a b : BitVec 7) (s : State) (hwf : Memory.wf s.mem = true) : NextWf (execMmaBf16 p d a b s) := by
  unfold execMmaBf16
  repeat' (with_reducible first | assumption | (intro _) | apply nextWf_next | apply nextWf_refused | apply wf_mmaOp | dsimp only | split)
theorem wf_execMmaF16 (p : BitVec 3) (d a b : BitVec 7) (s : State) (hwf : Memory.wf s.mem = true) : NextWf (execMmaF16 p d a b s) := by
  unfold execMmaF16
  repeat' (with_reducible first | assumption | (intro _) | apply nextWf_next | apply nextWf_refused | apply wf_mmaOp | dsimp only | split)
theorem wf_execMmaNf (p : BitVec 3) (d a b : BitVec 7) (s : State) (hwf : Memory.wf s.mem = true) : NextWf (execMmaNf p d a b s) := by
  unfold execMmaNf
  repeat' (with_reducible first | assumption | (intro _) | apply nextWf_next | apply nextWf_refused | apply wf_mmaOp | dsimp only | split)
theorem wf_execMmaspBf16 (p : BitVec 3) (d a b : BitVec 7) (s : State) (hwf : Memory.wf s.mem = true) : NextWf (execMmaspBf16 p d a b s) := by
  unfold execMmaspBf16
  repeat' (with_reducible first | assumption | (intro _) | apply nextWf_next | apply nextWf_refused | apply wf_mmaOp | dsimp only | split)
theorem wf_execMmaspF16 (p : BitVec 3) (d a b : BitVec 7) (s : State) (hwf : Memory.wf s.mem = true) : NextWf (execMmaspF16 p d a b s) := by
  unfold execMmaspF16
  repeat' (with_reducible first | assumption | (intro _) | apply nextWf_next | apply nextWf_refused | apply wf_mmaOp | dsimp only | split)
theorem wf_execMmaspNf (p : BitVec 3) (d a b : BitVec 7) (s : State) (hwf : Memory.wf s.mem = true) : NextWf (execMmaspNf p d a b s) := by
  unfold execMmaspNf
  repeat' (with_reducible first | assumption | (intro _) | apply nextWf_next | apply nextWf_refused | apply wf_mmaOp | dsimp only | split)
theorem wf_runTld (s sv : State) (m : Member) (r : TRec) (x y : Int) (k tile : Nat) (ws : List Nat) (hwf : Memory.wf s.mem = true) : Memory.wf (runTld s sv m r x y k tile ws).mem = true := by
  unfold runTld
  repeat' (with_reducible first | assumption | (intro _) | apply wf_foldl | apply wf_foldl_fst | apply wf_keepLoad | apply wf_fillClr | apply wf_fillTlb | apply wf_setTile | apply wf_auditLines | dsimp only | split)
theorem wf_runTst (s : State) (m : Member) (r : TRec) (x y : Int) (k tile : Nat) (hwf : Memory.wf s.mem = true) : Memory.wf (runTst s m r x y k tile).mem = true := by
  unfold runTst
  repeat' (with_reducible first | assumption | (intro _) | apply wf_foldl | apply wf_foldl_fst | apply wf_elemStore | dsimp only | split)
theorem wf_tileStep (s : State) (id : Nat) (hwf : Memory.wf s.mem = true) : Memory.wf (tileStep s id).mem = true := by
  unfold tileStep
  repeat' (with_reducible first | assumption | (intro _) | apply wf_foldl | apply wf_foldl_fst | apply wf_ite | apply wf_asIssued | apply wf_stallMat | apply wf_trapMat | apply wf_runTld | apply wf_updWarp | apply wf_runTst | apply wf_withIssue | apply wf_finishMat | dsimp only | split)
theorem wf_tileOp (i : Instr) (store : Bool) (d b : BitVec 7) (s : State) (hwf : Memory.wf s.mem = true) : NextWf (tileOp i store d b s) := by
  unfold tileOp
  repeat' (with_reducible first | assumption | (intro _) | apply nextWf_next | apply nextWf_refused | apply wf_ite | apply nextWf_ite | apply wf_perWarpOp | apply wf_issueMat | apply wf_tileStep | dsimp only | split)
theorem wf_execTld (p : BitVec 3) (d a b : BitVec 7) (s : State) (hwf : Memory.wf s.mem = true) : NextWf (execTld p d a b s) := by
  unfold execTld
  repeat' (with_reducible first | assumption | (intro _) | apply nextWf_next | apply nextWf_refused | apply wf_tileOp | dsimp only | split)
theorem wf_execTst (p : BitVec 3) (d a b : BitVec 7) (s : State) (hwf : Memory.wf s.mem = true) : NextWf (execTst p d a b s) := by
  unfold execTst
  repeat' (with_reducible first | assumption | (intro _) | apply nextWf_next | apply nextWf_refused | apply wf_tileOp | dsimp only | split)
theorem wf_execTmov (p : BitVec 3) (d a : BitVec 7) (s : State) (hwf : Memory.wf s.mem = true) : NextWf (execTmov p d a s) := by
  unfold execTmov
  repeat' (with_reducible first | assumption | (intro _) | apply nextWf_next | apply nextWf_refused | apply wf_ite | apply nextWf_ite | apply wf_perWarpOp | apply wf_setTile | apply wf_setOpb | dsimp only | split)

/-! ### Accum -/

theorem wf_execAcalloc (p : BitVec 3) (d a : BitVec 7) (s : State) (hwf : Memory.wf s.mem = true) : NextWf (execAcalloc p d a s) := by
  unfold execAcalloc
  repeat' (with_reducible first | assumption | (intro _) | apply nextWf_next | apply nextWf_refused | apply wf_ite | apply nextWf_ite | apply wf_perWarpOp | apply wf_spreadD | apply wf_updWg | dsimp only | split)
theorem wf_execAcfree (p : BitVec 3) (a : BitVec 7) (s : State) (hwf : Memory.wf s.mem = true) : NextWf (execAcfree p a s) := by
  unfold execAcfree
  repeat' (with_reducible first | assumption | (intro _) | apply nextWf_next | apply nextWf_refused | apply wf_ite | apply nextWf_ite | apply wf_updWg | apply wf_perWarpOp | dsimp only | split)
theorem wf_execAcfreeRelease (s : State) (hwf : Memory.wf s.mem = true) : NextWf (execAcfreeRelease s) := by
  unfold execAcfreeRelease
  repeat' (with_reducible first | assumption | (intro _) | apply nextWf_next | apply nextWf_refused | apply wf_ite | apply nextWf_ite | apply wf_updWg | dsimp only | split)
theorem wf_accReturn (s : State) (g : Group) (ms : List Member) (writes : Nat → List RegWrite) (fp : Nat → List (Nat × BitVec 6)) (old : List (Nat × Word)) (hwf : Memory.wf s.mem = true) : Memory.wf (accReturn s g ms writes fp old).mem = true := by
  unfold accReturn
  repeat' (with_reducible first | assumption | (intro _) | apply wf_issueLong | dsimp only | split)
theorem wf_execAczero (p : BitVec 3) (a : BitVec 7) (s : State) (hwf : Memory.wf s.mem = true) : NextWf (execAczero p a s) := by
  unfold execAczero
  repeat' (with_reducible first | assumption | (intro _) | apply nextWf_next | apply nextWf_refused | apply wf_updWg | apply wf_perWarpOp | apply wf_accReturn | dsimp only | split)
theorem wf_execAcrd (p : BitVec 3) (d a : BitVec 7) (s : State) (hwf : Memory.wf s.mem = true) : NextWf (execAcrd p d a s) := by
  unfold execAcrd
  repeat' (with_reducible first | assumption | (intro _) | apply nextWf_next | apply nextWf_refused | apply wf_groupOp | apply wf_accReturn | dsimp only | split)
theorem wf_execAcwr (p : BitVec 3) (d a : BitVec 7) (s : State) (hwf : Memory.wf s.mem = true) : NextWf (execAcwr p d a s) := by
  unfold execAcwr
  repeat' (with_reducible first | assumption | (intro _) | apply nextWf_next | apply nextWf_refused | apply wf_foldl | apply wf_foldl_fst | apply wf_ite | apply nextWf_ite | apply wf_groupOp | apply wf_accSet | apply wf_accReturn | dsimp only | split)
theorem wf_execAcseed (p : BitVec 3) (d a : BitVec 7) (s : State) (hwf : Memory.wf s.mem = true) : NextWf (execAcseed p d a s) := by
  unfold execAcseed
  repeat' (with_reducible first | assumption | (intro _) | apply nextWf_next | apply nextWf_refused | apply wf_updWg | apply wf_perWarpOp | dsimp only | split)
theorem wf_execAcqry (p : BitVec 3) (d a : BitVec 7) (s : State) (hwf : Memory.wf s.mem = true) : NextWf (execAcqry p d a s) := by
  unfold execAcqry
  repeat' (with_reducible first | assumption | (intro _) | apply nextWf_next | apply nextWf_refused | apply wf_perWarpOp | apply wf_spreadD | dsimp only | split)
theorem wf_execAccvt (p : BitVec 3) (d a : BitVec 7) (s : State) (hwf : Memory.wf s.mem = true) : NextWf (execAccvt p d a s) := by
  unfold execAccvt
  repeat' (with_reducible first | assumption | (intro _) | apply nextWf_next | apply nextWf_refused | apply wf_ite | apply nextWf_ite | apply wf_perWarpOp | apply wf_updWg | apply wf_setOpb | apply wf_setTile | apply wf_accReturn | dsimp only | split)

end Sys2Proof.Machine
end

