-- ==== Sys2Proof/Laws/CanonicalSync.lean ====
section
/-! SUPPORT. Memory keeps its canonical form under ordering, atomics, engines, integer instructions and synchronisation: one lemma for each definition that answers a state. -/

namespace Sys2Proof.Machine

set_option linter.unusedVariables false

/-! ### Order -/

theorem wf_clearWaits (s : State) (ms : List Member) (hwf : Memory.wf s.mem = true) : Memory.wf (clearWaits s ms).mem = true := by
  unfold clearWaits
  repeat' (with_reducible first | assumption | (intro _) | apply wf_foldl | apply wf_foldl_fst | apply wf_updThr | dsimp only | split)
theorem wf_acquireAt (s : State) (m : Member) (scope : Nat) (hwf : Memory.wf s.mem = true) : Memory.wf (acquireAt s m scope).mem = true := by
  unfold acquireAt
  repeat' (with_reducible first | assumption | (intro _) | apply wf_ite | apply wf_dropBelow | dsimp only | split)
theorem wf_ldAcqOp (i : Instr) (scope : BitVec 3) (n : Nat) (s : State) (hwf : Memory.wf s.mem = true) : NextWf (ldAcqOp i scope n s) := by
  unfold ldAcqOp
  repeat' (with_reducible first | assumption | (intro _) | apply nextWf_next | apply nextWf_refused | apply wf_foldl | apply wf_foldl_fst | apply wf_ite | apply nextWf_ite | apply wf_groupOp | apply wf_accessTrace | apply wf_acquireAt | apply wf_keepLoad | apply wf_loadReturn | dsimp only | split)
theorem wf_execLdAcqB32 (p : BitVec 3) (d a : BitVec 7) (sc : BitVec 3) (s : State) (hwf : Memory.wf s.mem = true) : NextWf (execLdAcqB32 p d a sc s) := by
  unfold execLdAcqB32
  repeat' (with_reducible first | assumption | (intro _) | apply nextWf_next | apply nextWf_refused | apply wf_ldAcqOp | dsimp only | split)
theorem wf_execLdAcqB64 (p : BitVec 3) (d a : BitVec 7) (sc : BitVec 3) (s : State) (hwf : Memory.wf s.mem = true) : NextWf (execLdAcqB64 p d a sc s) := by
  unfold execLdAcqB64
  repeat' (with_reducible first | assumption | (intro _) | apply nextWf_next | apply nextWf_refused | apply wf_ldAcqOp | dsimp only | split)
theorem wf_storeRelease (s : State) (m : Member) (scope va : Nat) (data : List Byte) (ins : Nat) (hwf : Memory.wf s.mem = true) : Memory.wf (storeRelease s m scope va data ins).mem = true := by
  unfold storeRelease
  repeat' (with_reducible first | assumption | (intro _) | apply wf_ite | apply wf_appendLog | apply wf_pushWrite | dsimp only | split)
theorem wf_stRelOp (i : Instr) (scope : BitVec 3) (n : Nat) (s : State) (hwf : Memory.wf s.mem = true) : NextWf (stRelOp i scope n s) := by
  unfold stRelOp
  repeat' (with_reducible first | assumption | (intro _) | apply nextWf_next | apply nextWf_refused | apply wf_foldl | apply wf_foldl_fst | apply wf_groupOpE | apply wf_storeRelease | apply wf_accessTrace | dsimp only | split)
theorem wf_execStRelB32 (p : BitVec 3) (d a : BitVec 7) (sc : BitVec 3) (s : State) (hwf : Memory.wf s.mem = true) : NextWf (execStRelB32 p d a sc s) := by
  unfold execStRelB32
  repeat' (with_reducible first | assumption | (intro _) | apply nextWf_next | apply nextWf_refused | apply wf_stRelOp | dsimp only | split)
theorem wf_execStRelB64 (p : BitVec 3) (d a : BitVec 7) (sc : BitVec 3) (s : State) (hwf : Memory.wf s.mem = true) : NextWf (execStRelB64 p d a sc s) := by
  unfold execStRelB64
  repeat' (with_reducible first | assumption | (intro _) | apply nextWf_next | apply nextWf_refused | apply wf_stRelOp | dsimp only | split)
theorem wf_fenceRun (acq : Bool) (scope : Nat) (s : State) (l : List (Member × Src)) (hwf : Memory.wf s.mem = true) : Memory.wf (fenceRun acq scope s l).mem = true := by
  unfold fenceRun
  repeat' (with_reducible first | assumption | (intro _) | apply wf_foldl | apply wf_foldl_fst | apply wf_ite | apply wf_clearWaits | apply wf_acquireAt | dsimp only | split)
theorem wf_fenceOp (i : Instr) (acq rel : Bool) (scope : BitVec 3) (s : State) (hwf : Memory.wf s.mem = true) : NextWf (fenceOp i acq rel scope s) := by
  unfold fenceOp
  repeat' (with_reducible first | assumption | (intro _) | apply nextWf_next | apply nextWf_refused | apply wf_ite | apply nextWf_ite | apply wf_groupOp | apply wf_fenceRun | dsimp only | split)
theorem wf_execFenceAcq (p sc : BitVec 3) (s : State) (hwf : Memory.wf s.mem = true) : NextWf (execFenceAcq p sc s) := by
  unfold execFenceAcq
  repeat' (with_reducible first | assumption | (intro _) | apply nextWf_next | apply nextWf_refused | apply wf_fenceOp | dsimp only | split)
theorem wf_execFenceRel (p sc : BitVec 3) (s : State) (hwf : Memory.wf s.mem = true) : NextWf (execFenceRel p sc s) := by
  unfold execFenceRel
  repeat' (with_reducible first | assumption | (intro _) | apply nextWf_next | apply nextWf_refused | apply wf_fenceOp | dsimp only | split)
theorem wf_execFenceAcqrel (p sc : BitVec 3) (s : State) (hwf : Memory.wf s.mem = true) : NextWf (execFenceAcqrel p sc s) := by
  unfold execFenceAcqrel
  repeat' (with_reducible first | assumption | (intro _) | apply nextWf_next | apply nextWf_refused | apply wf_fenceOp | dsimp only | split)
theorem wf_execFenceSc (p sc : BitVec 3) (s : State) (hwf : Memory.wf s.mem = true) : NextWf (execFenceSc p sc s) := by
  unfold execFenceSc
  repeat' (with_reducible first | assumption | (intro _) | apply nextWf_next | apply nextWf_refused | apply wf_fenceOp | dsimp only | split)
theorem wf_acqrRun (s : State) (m : Member) (x : Src) (hwf : Memory.wf s.mem = true) : Memory.wf (acqrRun s m x).mem = true := by
  unfold acqrRun
  repeat' (with_reducible first | assumption | (intro _) | apply wf_ite | apply wf_dropBelow | apply wf_dropCopies | dsimp only | split)
theorem wf_execAcqr (p : BitVec 3) (a : BitVec 7) (s : State) (hwf : Memory.wf s.mem = true) : NextWf (execAcqr p a s) := by
  unfold execAcqr
  repeat' (with_reducible first | assumption | (intro _) | apply nextWf_next | apply nextWf_refused | apply wf_foldl | apply wf_foldl_fst | apply wf_groupOp | apply wf_clearWaits | apply wf_acqrRun | dsimp only | split)
theorem wf_dropConsts (s : State) (m : Member) (hwf : Memory.wf s.mem = true) : Memory.wf (dropConsts s m).mem = true := by
  unfold dropConsts
  repeat' (with_reducible first | assumption | (intro _) | apply wf_updLcore | dsimp only | split)
theorem wf_dropCode (s : State) (m : Member) (hwf : Memory.wf s.mem = true) : Memory.wf (dropCode s m).mem = true := by
  unfold dropCode
  repeat' (with_reducible first | assumption | (intro _) | apply wf_updLcore | dsimp only | split)
theorem wf_execCfence (p : BitVec 3) (s : State) (hwf : Memory.wf s.mem = true) : NextWf (execCfence p s) := by
  unfold execCfence
  repeat' (with_reducible first | assumption | (intro _) | apply nextWf_next | apply nextWf_refused | apply wf_foldl | apply wf_foldl_fst | apply wf_effectOp | apply wf_dropConsts | dsimp only | split)
theorem wf_execIfence (p : BitVec 3) (s : State) (hwf : Memory.wf s.mem = true) : NextWf (execIfence p s) := by
  unfold execIfence
  repeat' (with_reducible first | assumption | (intro _) | apply nextWf_next | apply nextWf_refused | apply wf_foldl | apply wf_foldl_fst | apply wf_effectOp | apply wf_dropCode | dsimp only | split)

/-! ### Atomics -/

theorem wf_keepAtomFlags (s : State) (grid part : Nat) (f : BitVec 6) (hwf : Memory.wf s.mem = true) : Memory.wf (keepAtomFlags s grid part f).mem = true := by
  unfold keepAtomFlags
  repeat' (with_reducible first | assumption | (intro _) | apply wf_ite | apply wf_updCtx | apply wf_updGrid | dsimp only | split)
theorem wf_logWrite (s : State) (w kind opc va : Nat) (data : List Byte) (hwf : Memory.wf s.mem = true) : Memory.wf (logWrite s w kind opc va data).mem = true := by
  unfold logWrite
  repeat' (with_reducible first | assumption | (intro _) | apply wf_appendLog | dsimp only | split)
theorem wf_pushAtom (s : State) (a : Atom) (hwf : Memory.wf s.mem = true) : Memory.wf (pushAtom s a).mem = true := by
  unfold pushAtom
  repeat' (with_reducible first | assumption | (intro _) | dsimp only | split)
theorem wf_postAtom (s : State) (id : Nat) (c : Cause) (hwf : Memory.wf s.mem = true) : Memory.wf (postAtom s id c).mem = true := by
  unfold postAtom
  repeat' (with_reducible first | assumption | (intro _) | apply wf_appendFault | apply wf_addAwait | dsimp only | split)
theorem wf_issueRed (fm : AtomForm) (ins : Nat) (s : State) (m : Member) (x : Src) (hwf : Memory.wf s.mem = true) : Memory.wf (issueRed fm ins s m x).mem = true := by
  unfold issueRed
  repeat' (with_reducible first | assumption | (intro _) | apply wf_ite | apply wf_logWrite | apply wf_pushAtom | apply wf_accessTrace | apply wf_postAtom | dsimp only | split)
theorem wf_landOld (s : State) (id lane reg n old : Nat) (f : BitVec 6) (hwf : Memory.wf s.mem = true) : Memory.wf (landOld s id lane reg n old f).mem = true := by
  unfold landOld
  repeat' (with_reducible first | assumption | (intro _) | apply wf_ite | apply wf_updLoad | dsimp only | split)
theorem wf_issueAtom (fm : AtomForm) (d : BitVec 7) (ins : Nat) (ms : List Member) (id : Nat) (s : State) (m : Member) (x : Src) (hwf : Memory.wf s.mem = true) : Memory.wf (issueAtom fm d ins ms id s m x).mem = true := by
  unfold issueAtom
  repeat' (with_reducible first | assumption | (intro _) | apply wf_ite | apply wf_takeFwd | apply wf_landOld | apply wf_logWrite | apply wf_forward | apply wf_keepAtomFlags | apply wf_pushAtom | apply wf_accessTrace | apply wf_updLoad | dsimp only | split)
theorem wf_issueReturning (s : State) (g : Group) (l : List (Member × Src)) (d : BitVec 7) (n : Nat) (one : List Member → Nat → State → Member → Src → State)  (hf_one : ∀ (a0 : List Member) (a1 : Nat) (a2 : State) (a3 : Member) (a4 : Src), Memory.wf a2.mem = true → Memory.wf (one a0 a1 a2 a3 a4).mem = true) (hwf : Memory.wf s.mem = true) : Memory.wf (issueReturning s g l d n one).mem = true := by
  unfold issueReturning
  repeat' (with_reducible first | assumption | (intro _) | apply wf_foldl | apply wf_foldl_fst | apply wf_ite | apply wf_issueLong | apply wf_markUniform | apply hf_one | dsimp only | split)
theorem wf_atomOp (i : Instr) (fm : AtomForm) (d b : BitVec 7) (s : State) (hwf : Memory.wf s.mem = true) : NextWf (atomOp i fm d b s) := by
  unfold atomOp
  repeat' (with_reducible first | assumption | (intro _) | apply nextWf_next | apply nextWf_refused | apply wf_groupOpE | apply wf_issueReturning | apply wf_issueAtom | dsimp only | split)
theorem wf_reductionOp (i : Instr) (fm : AtomForm) (b : BitVec 7) (s : State) (hwf : Memory.wf s.mem = true) : NextWf (reductionOp i fm b s) := by
  unfold reductionOp
  repeat' (with_reducible first | assumption | (intro _) | apply nextWf_next | apply nextWf_refused | apply wf_foldl | apply wf_foldl_fst | apply wf_groupOpE | apply wf_issueRed | dsimp only | split)
theorem wf_execAtomB32 (p : BitVec 3) (d a b : BitVec 7) (s : State) (hwf : Memory.wf s.mem = true) : NextWf (execAtomB32 p d a b s) := by
  unfold execAtomB32
  repeat' (with_reducible first | assumption | (intro _) | apply nextWf_next | apply nextWf_refused | apply wf_atomOp | dsimp only | split)
theorem wf_execAtomB64 (p : BitVec 3) (d a b : BitVec 7) (s : State) (hwf : Memory.wf s.mem = true) : NextWf (execAtomB64 p d a b s) := by
  unfold execAtomB64
  repeat' (with_reducible first | assumption | (intro _) | apply nextWf_next | apply nextWf_refused | apply wf_atomOp | dsimp only | split)
theorem wf_execCasB32 (p : BitVec 3) (d a : BitVec 7) (sc : BitVec 3) (s : State) (hwf : Memory.wf s.mem = true) : NextWf (execCasB32 p d a sc s) := by
  unfold execCasB32
  repeat' (with_reducible first | assumption | (intro _) | apply nextWf_next | apply nextWf_refused | apply wf_atomOp | dsimp only | split)
theorem wf_execCasB64 (p : BitVec 3) (d a : BitVec 7) (sc : BitVec 3) (s : State) (hwf : Memory.wf s.mem = true) : NextWf (execCasB64 p d a sc s) := by
  unfold execCasB64
  repeat' (with_reducible first | assumption | (intro _) | apply nextWf_next | apply nextWf_refused | apply wf_atomOp | dsimp only | split)
theorem wf_execRedB32 (p : BitVec 3) (d a b : BitVec 7) (s : State) (hwf : Memory.wf s.mem = true) : NextWf (execRedB32 p d a b s) := by
  unfold execRedB32
  repeat' (with_reducible first | assumption | (intro _) | apply nextWf_next | apply nextWf_refused | apply wf_reductionOp | dsimp only | split)
theorem wf_execRedB64 (p : BitVec 3) (d a b : BitVec 7) (s : State) (hwf : Memory.wf s.mem = true) : NextWf (execRedB64 p d a b s) := by
  unfold execRedB64
  repeat' (with_reducible first | assumption | (intro _) | apply nextWf_next | apply nextWf_refused | apply wf_reductionOp | dsimp only | split)
theorem wf_execFatom (p : BitVec 3) (d a b : BitVec 7) (s : State) (hwf : Memory.wf s.mem = true) : NextWf (execFatom p d a b s) := by
  unfold execFatom
  repeat' (with_reducible first | assumption | (intro _) | apply nextWf_next | apply nextWf_refused | apply wf_atomOp | dsimp only | split)
theorem wf_execFatomNr (p : BitVec 3) (d a b : BitVec 7) (s : State) (hwf : Memory.wf s.mem = true) : NextWf (execFatomNr p d a b s) := by
  unfold execFatomNr
  repeat' (with_reducible first | assumption | (intro _) | apply nextWf_next | apply nextWf_refused | apply wf_reductionOp | dsimp only | split)
theorem wf_returnOld (s : State) (id : Nat) (a : Atom) (n old : Nat) (f : BitVec 6) (hwf : Memory.wf s.mem = true) : Memory.wf (returnOld s id a n old f).mem = true := by
  unfold returnOld
  repeat' (with_reducible first | assumption | (intro _) | apply wf_updLoad | apply wf_forward | apply wf_landOld | dsimp only | split)
theorem wf_performAtom (s : State) (id : Nat) (hwf : Memory.wf s.mem = true) : Memory.wf (performAtom s id).mem = true := by
  unfold performAtom
  repeat' (with_reducible first | assumption | (intro _) | apply wf_ite | apply wf_appendFault | apply wf_returnOld | apply wf_dropCopiesOf | apply wf_putHome | apply wf_keepAtomFlags | dsimp only | split)
theorem wf_execAtomicPerform (s : State) (hwf : Memory.wf s.mem = true) : NextWf (execAtomicPerform s) := by
  unfold execAtomicPerform
  repeat' (with_reducible first | assumption | (intro _) | apply nextWf_next | apply nextWf_refused | apply wf_ite | apply nextWf_ite | apply wf_performAtom | dsimp only | split)
theorem wf_replayAtom (s : State) (id : Nat) (hwf : Memory.wf s.mem = true) : Memory.wf (replayAtom s id).mem = true := by
  unfold replayAtom
  repeat' (with_reducible first | assumption | (intro _) | apply wf_ite | apply wf_fillTlb | apply wf_fillClr | apply wf_postAtom | dsimp only | split)
theorem wf_execPostedOperationReplay (s : State) (hwf : Memory.wf s.mem = true) : NextWf (execPostedOperationReplay s) := by
  unfold execPostedOperationReplay
  repeat' (with_reducible first | assumption | (intro _) | apply nextWf_next | apply nextWf_refused | apply wf_ite | apply nextWf_ite | apply wf_replayAtom | dsimp only | split)
theorem wf_dropPosted (s : State) (id : Nat) (hwf : Memory.wf s.mem = true) : Memory.wf (dropPosted s id).mem = true := by
  unfold dropPosted
  repeat' (with_reducible first | assumption | (intro _) | apply wf_updGrid | apply wf_appendFault | dsimp only | split)
theorem wf_applyLog (s : State) (g : Nat) (e : LogEntry) (hwf : Memory.wf s.mem = true) : Memory.wf (applyLog s g e).mem = true := by
  unfold applyLog
  repeat' (with_reducible first | assumption | (intro _) | apply wf_foldl | apply wf_foldl_fst | apply wf_ite | apply wf_postAtom | apply wf_pushAtom | apply wf_appendFault | apply wf_keepAtomFlags | apply wf_putHome | apply wf_fillTlb | dsimp only | split)

/-! ### Mcas -/

theorem wf_obsWrites (s : State) (m : Member) (b : Nat) (obs : List (Nat × Nat)) (hwf : Memory.wf s.mem = true) : Memory.wf (obsWrites s m b obs).mem = true := by
  unfold obsWrites
  repeat' (with_reducible first | assumption | (intro _) | apply wf_foldl | apply wf_foldl_fst | apply wf_storeRelease | apply wf_accessTrace | dsimp only | split)
theorem wf_obsStores (s : State) (m : Member) (b : Nat) (obs : List (Nat × Nat)) (hwf : Memory.wf s.mem = true) : Memory.wf (obsStores s m b obs).mem = true := by
  unfold obsStores
  repeat' (with_reducible first | assumption | (intro _) | apply wf_foldl | apply wf_foldl_fst | apply wf_takeTrap | apply wf_obsWrites | dsimp only | split)
theorem wf_mcasSerial (s : State) (m : Member) (id reg b : Nat) (hwf : Memory.wf s.mem = true) : Memory.wf (mcasSerial s m id reg b).mem = true := by
  unfold mcasSerial
  repeat' (with_reducible first | assumption | (intro _) | apply wf_foldl | apply wf_foldl_fst | apply wf_ite | apply wf_storeRelease | apply wf_obsWrites | apply wf_forward | apply wf_landOld | dsimp only | split)
theorem wf_issueMcas (g : Group) (d : BitVec 7) (ms : List Member) (id : Nat) (s : State) (m : Member) (x : Src) (hwf : Memory.wf s.mem = true) : Memory.wf (issueMcas g d ms id s m x).mem = true := by
  unfold issueMcas
  repeat' (with_reducible first | assumption | (intro _) | apply wf_foldl | apply wf_foldl_fst | apply wf_ite | apply wf_takeFwd | apply wf_landOld | apply wf_blockTraces | apply wf_mcasSerial | apply wf_accessTrace | apply wf_updLoad | apply wf_dropMembers | apply wf_standAfterIn | dsimp only | split)
theorem wf_execMcas (p : BitVec 3) (d a : BitVec 7) (s : State) (hwf : Memory.wf s.mem = true) : NextWf (execMcas p d a s) := by
  unfold execMcas
  repeat' (with_reducible first | assumption | (intro _) | apply nextWf_next | apply nextWf_refused | apply wf_groupOpE | apply wf_issueReturning | apply wf_issueMcas | dsimp only | split)
theorem wf_markTurns (s : State) (o : Mcas) (hwf : Memory.wf s.mem = true) : Memory.wf (markTurns s o).mem = true := by
  unfold markTurns
  repeat' (with_reducible first | assumption | (intro _) | apply wf_ite | dsimp only | split)
theorem wf_endMcas (s : State) (id : Nat) (r : Option Nat) (hwf : Memory.wf s.mem = true) : Memory.wf (endMcas s id r).mem = true := by
  unfold endMcas
  repeat' (with_reducible first | assumption | (intro _) | apply wf_markTurns | apply wf_updLoad | apply wf_forward | apply wf_landOld | dsimp only | split)
theorem wf_compareMcas (s : State) (id : Nat) (hwf : Memory.wf s.mem = true) : Memory.wf (compareMcas s id).mem = true := by
  unfold compareMcas
  repeat' (with_reducible first | assumption | (intro _) | apply wf_foldl | apply wf_foldl_fst | apply wf_ite | apply wf_endMcas | apply wf_takeTrap | apply wf_standAt | apply wf_putHome | apply wf_dropBelow | apply wf_obsStores | dsimp only | split)
theorem wf_grantMcas (s : State) (id : Nat) (hwf : Memory.wf s.mem = true) : Memory.wf (grantMcas s id).mem = true := by
  unfold grantMcas
  repeat' (with_reducible first | assumption | (intro _) | apply wf_getD | apply wf_ite | apply wf_compareMcas | dsimp only | split)
theorem wf_execMcasLockGrant (s : State) (hwf : Memory.wf s.mem = true) : NextWf (execMcasLockGrant s) := by
  unfold execMcasLockGrant
  repeat' (with_reducible first | assumption | (intro _) | apply nextWf_next | apply nextWf_refused | apply wf_ite | apply nextWf_ite | apply wf_grantMcas | dsimp only | split)
theorem wf_execLockBusy (s : State) (hwf : Memory.wf s.mem = true) : NextWf (execLockBusy s) := by
  unfold execLockBusy
  repeat' (with_reducible first | assumption | (intro _) | apply nextWf_next | apply nextWf_refused | apply wf_ite | apply nextWf_ite | apply wf_endMcas | dsimp only | split)
theorem wf_abandonMcas (s : State) (id : Nat) (hwf : Memory.wf s.mem = true) : Memory.wf (abandonMcas s id).mem = true := by
  unfold abandonMcas
  repeat' (with_reducible first | assumption | (intro _) | apply wf_ite | apply wf_standAt | apply wf_endMcas | dsimp only | split)

/-! ### Timeline -/

theorem wf_updTimeline (s : State) (ctx k : Nat) (f : Timeline → Timeline) (hwf : Memory.wf s.mem = true) : Memory.wf (updTimeline s ctx k f).mem = true := by
  unfold updTimeline
  repeat' (with_reducible first | assumption | (intro _) | apply wf_updCtx | dsimp only | split)
theorem wf_takeNumber (s : State) (ctx k : Nat) (hwf : Memory.wf s.mem = true) : Memory.wf (takeNumber s ctx k).mem = true := by
  unfold takeNumber
  repeat' (with_reducible first | assumption | (intro _) | apply wf_updTimeline | dsimp only | split)
theorem wf_completeNumber (s : State) (ctx k n : Nat) (hwf : Memory.wf s.mem = true) : Memory.wf (completeNumber s ctx k n).mem = true := by
  unfold completeNumber
  repeat' (with_reducible first | assumption | (intro _) | apply wf_ite | apply wf_updTimeline | dsimp only | split)
theorem wf_writeTmln (s : State) (ctx k : Nat) (v : Nat) (hwf : Memory.wf s.mem = true) : Memory.wf (writeTmln s ctx k v).mem = true := by
  unfold writeTmln
  repeat' (with_reducible first | assumption | (intro _) | apply wf_updTimeline | dsimp only | split)
theorem wf_execTmlnWrite (s : State) (hwf : Memory.wf s.mem = true) : NextWf (execTmlnWrite s) := by
  unfold execTmlnWrite
  repeat' (with_reducible first | assumption | (intro _) | apply nextWf_next | apply nextWf_refused | apply wf_ite | apply nextWf_ite | apply wf_writeTmln | dsimp only | split)
theorem wf_pushEvent (s : State) (lk : Nat) (r : EvRec) (hwf : Memory.wf s.mem = true) : Memory.wf (pushEvent s lk r).mem = true := by
  unfold pushEvent
  repeat' (with_reducible first | assumption | (intro _) | apply wf_ite | apply wf_updLcore | apply wf_imageEvent | dsimp only | split)
theorem wf_popEvent (s : State) (lk : Nat) (hwf : Memory.wf s.mem = true) : Memory.wf (popEvent s lk).mem = true := by
  unfold popEvent
  repeat' (with_reducible first | assumption | (intro _) | apply wf_updLcore | dsimp only | split)
theorem wf_readOnce (i : Instr) (fail : State → Member → Src → Option Fail) (val : State → Member → Src → Val) (s : State) (hwf : Memory.wf s.mem = true) : NextWf (readOnce i fail val s) := by
  unfold readOnce
  repeat' (with_reducible first | assumption | (intro _) | apply nextWf_next | apply nextWf_refused | apply wf_writeD | apply wf_forwards | apply wf_takeFwds | apply wf_groupOp | dsimp only | split)
theorem wf_execTwait (p : BitVec 3) (d a : BitVec 7) (s : State) (hwf : Memory.wf s.mem = true) : NextWf (execTwait p d a s) := by
  unfold execTwait
  repeat' (with_reducible first | assumption | (intro _) | apply nextWf_next | apply nextWf_refused | apply wf_foldl | apply wf_foldl_fst | apply wf_ite | apply nextWf_ite | apply wf_groupOp | apply wf_acquireAt | apply wf_clearWaits | dsimp only | split)
theorem wf_execTread (p : BitVec 3) (d a : BitVec 7) (s : State) (hwf : Memory.wf s.mem = true) : NextWf (execTread p d a s) := by
  unfold execTread
  repeat' (with_reducible first | assumption | (intro _) | apply nextWf_next | apply nextWf_refused | apply wf_readOnce | dsimp only | split)
theorem wf_issueSignal (k scope : Nat) (s : State) (m : Member) (hwf : Memory.wf s.mem = true) : Memory.wf (issueSignal k scope s m).mem = true := by
  unfold issueSignal
  repeat' (with_reducible first | assumption | (intro _) | apply wf_ite | apply wf_completeNumber | apply wf_takeNumber | dsimp only | split)
theorem wf_execTsignal (p : BitVec 3) (d a : BitVec 7) (s : State) (hwf : Memory.wf s.mem = true) : NextWf (execTsignal p d a s) := by
  unfold execTsignal
  repeat' (with_reducible first | assumption | (intro _) | apply nextWf_next | apply nextWf_refused | apply wf_foldl | apply wf_foldl_fst | apply wf_ite | apply nextWf_ite | apply wf_writeD | apply wf_forwards | apply wf_takeFwds | apply wf_groupOp | apply wf_issueSignal | dsimp only | split)

/-! ### Aperture -/

theorem wf_putApWord (s : State) (ctx va : Nat) (v : Word) (hwf : Memory.wf s.mem = true) : Memory.wf (putApWord s ctx va v).mem = true := by
  unfold putApWord
  repeat' (with_reducible first | assumption | (intro _) | apply wf_foldl | apply wf_foldl_fst | apply wf_ite | apply wf_putNat | apply wf_setVreg | apply wf_readBefore | apply wf_updWg | dsimp only | split)
theorem wf_apClean (s : State) (ctx va n : Nat) (hwf : Memory.wf s.mem = true) : Memory.wf (apClean s ctx va n).mem = true := by
  unfold apClean
  repeat' (with_reducible first | assumption | (intro _) | apply wf_ite | dsimp only | split)
theorem wf_putApByte (s : State) (ctx va : Nat) (b : Byte) (hwf : Memory.wf s.mem = true) : Memory.wf (putApByte s ctx va b).mem = true := by
  unfold putApByte
  repeat' (with_reducible first | assumption | (intro _) | apply wf_putApWord | dsimp only | split)

/-! ### Engines -/

theorem wf_endOp (s : State) (id : Nat) (c : Cause) (addr : Nat) (hwf : Memory.wf s.mem = true) : Memory.wf (endOp s id c addr).mem = true := by
  unfold endOp
  repeat' (with_reducible first | assumption | (intro _) | apply wf_updOp | apply wf_appendFault | dsimp only | split)
theorem wf_stallOp (s : State) (id addr : Nat) (hwf : Memory.wf s.mem = true) : Memory.wf (stallOp s id addr).mem = true := by
  unfold stallOp
  repeat' (with_reducible first | assumption | (intro _) | apply wf_updOp | apply wf_appendFault | apply wf_addAwait | dsimp only | split)
theorem wf_resumeOp (s : State) (id : Nat) (hwf : Memory.wf s.mem = true) : Memory.wf (resumeOp s id).mem = true := by
  unfold resumeOp
  repeat' (with_reducible first | assumption | (intro _) | apply wf_updOp | dsimp only | split)
theorem wf_dropOp (s : State) (id : Nat) (hwf : Memory.wf s.mem = true) : Memory.wf (dropOp s id).mem = true := by
  unfold dropOp
  repeat' (with_reducible first | assumption | (intro _) | apply wf_endOp | apply wf_updOp | dsimp only | split)
theorem wf_engTrace (s : State) (o : EngOp) (va : Nat) (hwf : Memory.wf s.mem = true) : Memory.wf (engTrace s o va).mem = true := by
  unfold engTrace
  repeat' (with_reducible first | assumption | (intro _) | apply wf_ite | apply wf_fillTlb | apply wf_fillClr | dsimp only | split)
theorem wf_engWrite (s : State) (id : Nat) (va : Nat) (data : List Byte) (hwf : Memory.wf s.mem = true) : Memory.wf (engWrite s id va data).mem = true := by
  unfold engWrite
  repeat' (with_reducible first | assumption | (intro _) | apply wf_foldl | apply wf_foldl_fst | apply wf_ite | apply wf_putApByte | apply wf_apClean | apply wf_putChipBytes | apply wf_appendLog | apply wf_putHome | apply wf_pushWrite | dsimp only | split)
theorem wf_halfWrite (s : State) (id : Nat) (x : Option (Nat × Nat)) (v : Nat) (hwf : Memory.wf s.mem = true) : Memory.wf (halfWrite s id x v).mem = true := by
  unfold halfWrite
  repeat' (with_reducible first | assumption | (intro _) | apply wf_ite | apply wf_engWrite | dsimp only | split)
theorem wf_cellsWrite (s : State) (id : Nat) (l : List (Cell × Byte)) (hwf : Memory.wf s.mem = true) : Memory.wf (cellsWrite s id l).mem = true := by
  unfold cellsWrite
  repeat' (with_reducible first | assumption | (intro _) | apply wf_foldl | apply wf_foldl_fst | apply wf_ite | apply wf_engWrite | apply wf_halfWrite | dsimp only | split)
theorem wf_opAudit (s : State) (id kind : Nat) (l : List Nat) (hwf : Memory.wf s.mem = true) : Memory.wf (opAudit s id kind l).mem = true := by
  unfold opAudit
  repeat' (with_reducible first | assumption | (intro _) | apply wf_foldl | apply wf_foldl_fst | apply wf_ite | apply wf_updOp | apply wf_appendAudit | dsimp only | split)
theorem wf_engUnit (s : State) (id : Nat) (reads writes : List Nat) (ahead : List Nat × List Nat) (go : State → State)  (hf_go : ∀ (a0 : State), Memory.wf a0.mem = true → Memory.wf (go a0).mem = true) (hwf : Memory.wf s.mem = true) : Memory.wf (engUnit s id reads writes ahead go).mem = true := by
  unfold engUnit
  repeat' (with_reducible first | assumption | (intro _) | apply wf_foldl | apply wf_foldl_fst | apply wf_ite | apply wf_endOp | apply wf_stallOp | apply wf_engTrace | apply wf_fillAhead | apply hf_go | dsimp only | split)
theorem wf_opAdvance (s : State) (id total : Nat) (hwf : Memory.wf s.mem = true) : Memory.wf (opAdvance s id total).mem = true := by
  unfold opAdvance
  repeat' (with_reducible first | assumption | (intro _) | apply wf_updOp | dsimp only | split)
theorem wf_pushOp (s : State) (o : EngOp) (hwf : Memory.wf s.mem = true) : Memory.wf (pushOp s o).mem = true := by
  unfold pushOp
  repeat' (with_reducible first | assumption | (intro _) | apply wf_takeNumber | dsimp only | split)
theorem wf_holdFlags (s : State) (g : Group) (act : List Member) (id : Nat) (hwf : Memory.wf s.mem = true) : Memory.wf (holdFlags s g act id).mem = true := by
  unfold holdFlags
  repeat' (with_reducible first | assumption | (intro _) | apply wf_ite | apply wf_issueLong | dsimp only | split)
theorem wf_runCmd (i : Instr) (cmd : Nat) (s : State) (g : Group) (act : List Member) (m : Member) (x : Src) (hwf : Memory.wf s.mem = true) : Memory.wf (runCmd i cmd s g act m x).mem = true := by
  unfold runCmd
  repeat' (with_reducible first | assumption | (intro _) | apply wf_ite | apply wf_keepLoad | apply wf_accessTrace | apply wf_forward | apply wf_takeFwd | apply wf_spreadD | apply wf_pushOp | apply wf_holdFlags | dsimp only | split)
theorem wf_cmdOp (i : Instr) (cmd : Nat) (s : State) (hwf : Memory.wf s.mem = true) : NextWf (cmdOp i cmd s) := by
  unfold cmdOp
  repeat' (with_reducible first | assumption | (intro _) | apply nextWf_next | apply nextWf_refused | apply wf_onceOp | apply wf_runCmd | dsimp only | split)
theorem wf_execCpy (p : BitVec 3) (d a : BitVec 7) (s : State) (hwf : Memory.wf s.mem = true) : NextWf (execCpy p d a s) := by
  unfold execCpy
  repeat' (with_reducible first | assumption | (intro _) | apply nextWf_next | apply nextWf_refused | apply wf_cmdOp | dsimp only | split)
theorem wf_execGath (p : BitVec 3) (d a : BitVec 7) (s : State) (hwf : Memory.wf s.mem = true) : NextWf (execGath p d a s) := by
  unfold execGath
  repeat' (with_reducible first | assumption | (intro _) | apply nextWf_next | apply nextWf_refused | apply wf_cmdOp | dsimp only | split)
theorem wf_execScat (p : BitVec 3) (d a : BitVec 7) (s : State) (hwf : Memory.wf s.mem = true) : NextWf (execScat p d a s) := by
  unfold execScat
  repeat' (with_reducible first | assumption | (intro _) | apply nextWf_next | apply nextWf_refused | apply wf_cmdOp | dsimp only | split)
theorem wf_execColl (p : BitVec 3) (d a : BitVec 7) (s : State) (hwf : Memory.wf s.mem = true) : NextWf (execColl p d a s) := by
  unfold execColl
  repeat' (with_reducible first | assumption | (intro _) | apply nextWf_next | apply nextWf_refused | apply wf_cmdOp | dsimp only | split)
theorem wf_execTbind (p : BitVec 3) (d a : BitVec 7) (s : State) (hwf : Memory.wf s.mem = true) : NextWf (execTbind p d a s) := by
  unfold execTbind
  repeat' (with_reducible first | assumption | (intro _) | apply nextWf_next | apply nextWf_refused | apply wf_cmdOp | dsimp only | split)
theorem wf_execTunbind (p : BitVec 3) (d a : BitVec 7) (s : State) (hwf : Memory.wf s.mem = true) : NextWf (execTunbind p d a s) := by
  unfold execTunbind
  repeat' (with_reducible first | assumption | (intro _) | apply nextWf_next | apply nextWf_refused | apply wf_ite | apply nextWf_ite | apply wf_forward | apply wf_takeFwd | apply wf_onceOp | apply wf_spreadD | apply wf_pushOp | dsimp only | split)
theorem wf_cpySector (s : State) (id : Nat) (hwf : Memory.wf s.mem = true) : Memory.wf (cpySector s id).mem = true := by
  unfold cpySector
  repeat' (with_reducible first | assumption | (intro _) | apply wf_engUnit | apply wf_opAdvance | apply wf_cellsWrite | apply wf_opAudit | dsimp only | split)
theorem wf_execCpySectorDelivery (s : State) (hwf : Memory.wf s.mem = true) : NextWf (execCpySectorDelivery s) := by
  unfold execCpySectorDelivery
  repeat' (with_reducible first | assumption | (intro _) | apply nextWf_next | apply nextWf_refused | apply wf_ite | apply nextWf_ite | apply wf_cpySector | dsimp only | split)
theorem wf_gathStep (scat : Bool) (s : State) (id : Nat) (hwf : Memory.wf s.mem = true) : Memory.wf (gathStep scat s id).mem = true := by
  unfold gathStep
  repeat' (with_reducible first | assumption | (intro _) | apply wf_ite | apply wf_stallOp | apply wf_endOp | apply wf_engUnit | apply wf_opAudit | apply wf_appendAudit | apply wf_opAdvance | apply wf_cellsWrite | dsimp only | split)
theorem wf_execGathElement (s : State) (hwf : Memory.wf s.mem = true) : NextWf (execGathElement s) := by
  unfold execGathElement
  repeat' (with_reducible first | assumption | (intro _) | apply nextWf_next | apply nextWf_refused | apply wf_ite | apply nextWf_ite | apply wf_gathStep | dsimp only | split)
theorem wf_execScatElement (s : State) (hwf : Memory.wf s.mem = true) : NextWf (execScatElement s) := by
  unfold execScatElement
  repeat' (with_reducible first | assumption | (intro _) | apply nextWf_next | apply nextWf_refused | apply wf_ite | apply nextWf_ite | apply wf_gathStep | dsimp only | split)
theorem wf_putRecord (s : State) (ctx num : Nat) (r : TRec) (hwf : Memory.wf s.mem = true) : Memory.wf (putRecord s ctx num r).mem = true := by
  unfold putRecord
  repeat' (with_reducible first | assumption | (intro _) | apply wf_foldl | apply wf_foldl_fst | apply wf_putHome | apply wf_updPart | dsimp only | split)
theorem wf_bindDone (s : State) (id : Nat) (r : TRec) (hwf : Memory.wf s.mem = true) : Memory.wf (bindDone s id r).mem = true := by
  unfold bindDone
  repeat' (with_reducible first | assumption | (intro _) | apply wf_updOp | apply wf_putRecord | dsimp only | split)
theorem wf_execGazetteerBindComplete (s : State) (hwf : Memory.wf s.mem = true) : NextWf (execGazetteerBindComplete s) := by
  unfold execGazetteerBindComplete
  repeat' (with_reducible first | assumption | (intro _) | apply nextWf_next | apply nextWf_refused | apply wf_ite | apply nextWf_ite | apply wf_bindDone | dsimp only | split)
theorem wf_execGazetteerUnbindComplete (s : State) (hwf : Memory.wf s.mem = true) : NextWf (execGazetteerUnbindComplete s) := by
  unfold execGazetteerUnbindComplete
  repeat' (with_reducible first | assumption | (intro _) | apply nextWf_next | apply nextWf_refused | apply wf_ite | apply nextWf_ite | apply wf_bindDone | dsimp only | split)
theorem wf_putStatus (s : State) (id : Nat) (hwf : Memory.wf s.mem = true) : Memory.wf (putStatus s id).mem = true := by
  unfold putStatus
  repeat' (with_reducible first | assumption | (intro _) | apply wf_ite | apply wf_updOp | apply wf_stallOp | apply wf_appendFault | apply wf_engWrite | apply wf_engTrace | dsimp only | split)
theorem wf_finishOp (s : State) (id : Nat) (hwf : Memory.wf s.mem = true) : Memory.wf (finishOp s id).mem = true := by
  unfold finishOp
  repeat' (with_reducible first | assumption | (intro _) | apply wf_ite | apply wf_dropCopies | apply wf_pushEvent | apply wf_completeNumber | dsimp only | split)
theorem wf_execEngineOperationComplete (s : State) (hwf : Memory.wf s.mem = true) : NextWf (execEngineOperationComplete s) := by
  unfold execEngineOperationComplete
  repeat' (with_reducible first | assumption | (intro _) | apply nextWf_next | apply nextWf_refused | apply wf_ite | apply nextWf_ite | apply wf_putStatus | apply wf_finishOp | dsimp only | split)

/-! ### IntArith -/

theorem wf_execAddI32 (p : BitVec 3) (d a b : BitVec 7) (s : State) (hwf : Memory.wf s.mem = true) : NextWf (execAddI32 p d a b s) := by
  unfold execAddI32
  repeat' (with_reducible first | assumption | (intro _) | apply nextWf_next | apply nextWf_refused | apply wf_regOp | dsimp only | split)
theorem wf_execSubI32 (p : BitVec 3) (d a b : BitVec 7) (s : State) (hwf : Memory.wf s.mem = true) : NextWf (execSubI32 p d a b s) := by
  unfold execSubI32
  repeat' (with_reducible first | assumption | (intro _) | apply nextWf_next | apply nextWf_refused | apply wf_regOp | dsimp only | split)
theorem wf_execAddc (p : BitVec 3) (d a b : BitVec 7) (s : State) (hwf : Memory.wf s.mem = true) : NextWf (execAddc p d a b s) := by
  unfold execAddc
  repeat' (with_reducible first | assumption | (intro _) | apply nextWf_next | apply nextWf_refused | apply wf_regOp | dsimp only | split)
theorem wf_execSubb (p : BitVec 3) (d a b : BitVec 7) (s : State) (hwf : Memory.wf s.mem = true) : NextWf (execSubb p d a b s) := by
  unfold execSubb
  repeat' (with_reducible first | assumption | (intro _) | apply nextWf_next | apply nextWf_refused | apply wf_regOp | dsimp only | split)
theorem wf_execAddI64 (p : BitVec 3) (d a b : BitVec 7) (s : State) (hwf : Memory.wf s.mem = true) : NextWf (execAddI64 p d a b s) := by
  unfold execAddI64
  repeat' (with_reducible first | assumption | (intro _) | apply nextWf_next | apply nextWf_refused | apply wf_regOp | dsimp only | split)
theorem wf_execSubI64 (p : BitVec 3) (d a b : BitVec 7) (s : State) (hwf : Memory.wf s.mem = true) : NextWf (execSubI64 p d a b s) := by
  unfold execSubI64
  repeat' (with_reducible first | assumption | (intro _) | apply nextWf_next | apply nextWf_refused | apply wf_regOp | dsimp only | split)
theorem wf_execAddcI64 (p : BitVec 3) (d a b : BitVec 7) (s : State) (hwf : Memory.wf s.mem = true) : NextWf (execAddcI64 p d a b s) := by
  unfold execAddcI64
  repeat' (with_reducible first | assumption | (intro _) | apply nextWf_next | apply nextWf_refused | apply wf_regOp | dsimp only | split)
theorem wf_execSubbI64 (p : BitVec 3) (d a b : BitVec 7) (s : State) (hwf : Memory.wf s.mem = true) : NextWf (execSubbI64 p d a b s) := by
  unfold execSubbI64
  repeat' (with_reducible first | assumption | (intro _) | apply nextWf_next | apply nextWf_refused | apply wf_regOp | dsimp only | split)
theorem wf_execMullo (p : BitVec 3) (d a b : BitVec 7) (s : State) (hwf : Memory.wf s.mem = true) : NextWf (execMullo p d a b s) := by
  unfold execMullo
  repeat' (with_reducible first | assumption | (intro _) | apply nextWf_next | apply nextWf_refused | apply wf_regOp | dsimp only | split)
theorem wf_execMulhiUs (p : BitVec 3) (d a b : BitVec 7) (s : State) (hwf : Memory.wf s.mem = true) : NextWf (execMulhiUs p d a b s) := by
  unfold execMulhiUs
  repeat' (with_reducible first | assumption | (intro _) | apply nextWf_next | apply nextWf_refused | apply wf_regOp | dsimp only | split)
theorem wf_execMulhiSg (p : BitVec 3) (d a b : BitVec 7) (s : State) (hwf : Memory.wf s.mem = true) : NextWf (execMulhiSg p d a b s) := by
  unfold execMulhiSg
  repeat' (with_reducible first | assumption | (intro _) | apply nextWf_next | apply nextWf_refused | apply wf_regOp | dsimp only | split)
theorem wf_execMad (p : BitVec 3) (d a b : BitVec 7) (s : State) (hwf : Memory.wf s.mem = true) : NextWf (execMad p d a b s) := by
  unfold execMad
  repeat' (with_reducible first | assumption | (intro _) | apply nextWf_next | apply nextWf_refused | apply wf_regOp | dsimp only | split)
theorem wf_execAndB (p : BitVec 3) (d a b : BitVec 7) (s : State) (hwf : Memory.wf s.mem = true) : NextWf (execAndB p d a b s) := by
  unfold execAndB
  repeat' (with_reducible first | assumption | (intro _) | apply nextWf_next | apply nextWf_refused | apply wf_regOp | dsimp only | split)
theorem wf_execOrB (p : BitVec 3) (d a b : BitVec 7) (s : State) (hwf : Memory.wf s.mem = true) : NextWf (execOrB p d a b s) := by
  unfold execOrB
  repeat' (with_reducible first | assumption | (intro _) | apply nextWf_next | apply nextWf_refused | apply wf_regOp | dsimp only | split)
theorem wf_execXorB (p : BitVec 3) (d a b : BitVec 7) (s : State) (hwf : Memory.wf s.mem = true) : NextWf (execXorB p d a b s) := by
  unfold execXorB
  repeat' (with_reducible first | assumption | (intro _) | apply nextWf_next | apply nextWf_refused | apply wf_regOp | dsimp only | split)
theorem wf_execNotB (p : BitVec 3) (d a : BitVec 7) (s : State) (hwf : Memory.wf s.mem = true) : NextWf (execNotB p d a s) := by
  unfold execNotB
  repeat' (with_reducible first | assumption | (intro _) | apply nextWf_next | apply nextWf_refused | apply wf_regOp | dsimp only | split)
theorem wf_execShl (p : BitVec 3) (d a b : BitVec 7) (s : State) (hwf : Memory.wf s.mem = true) : NextWf (execShl p d a b s) := by
  unfold execShl
  repeat' (with_reducible first | assumption | (intro _) | apply nextWf_next | apply nextWf_refused | apply wf_regOp | dsimp only | split)
theorem wf_execShr (p : BitVec 3) (d a b : BitVec 7) (s : State) (hwf : Memory.wf s.mem = true) : NextWf (execShr p d a b s) := by
  unfold execShr
  repeat' (with_reducible first | assumption | (intro _) | apply nextWf_next | apply nextWf_refused | apply wf_regOp | dsimp only | split)
theorem wf_execSar (p : BitVec 3) (d a b : BitVec 7) (s : State) (hwf : Memory.wf s.mem = true) : NextWf (execSar p d a b s) := by
  unfold execSar
  repeat' (with_reducible first | assumption | (intro _) | apply nextWf_next | apply nextWf_refused | apply wf_regOp | dsimp only | split)
theorem wf_execRot (p : BitVec 3) (d a b : BitVec 7) (s : State) (hwf : Memory.wf s.mem = true) : NextWf (execRot p d a b s) := by
  unfold execRot
  repeat' (with_reducible first | assumption | (intro _) | apply nextWf_next | apply nextWf_refused | apply wf_regOp | dsimp only | split)
theorem wf_execMinSg (p : BitVec 3) (d a b : BitVec 7) (s : State) (hwf : Memory.wf s.mem = true) : NextWf (execMinSg p d a b s) := by
  unfold execMinSg
  repeat' (with_reducible first | assumption | (intro _) | apply nextWf_next | apply nextWf_refused | apply wf_regOp | dsimp only | split)
theorem wf_execMinUs (p : BitVec 3) (d a b : BitVec 7) (s : State) (hwf : Memory.wf s.mem = true) : NextWf (execMinUs p d a b s) := by
  unfold execMinUs
  repeat' (with_reducible first | assumption | (intro _) | apply nextWf_next | apply nextWf_refused | apply wf_regOp | dsimp only | split)
theorem wf_execMaxSg (p : BitVec 3) (d a b : BitVec 7) (s : State) (hwf : Memory.wf s.mem = true) : NextWf (execMaxSg p d a b s) := by
  unfold execMaxSg
  repeat' (with_reducible first | assumption | (intro _) | apply nextWf_next | apply nextWf_refused | apply wf_regOp | dsimp only | split)
theorem wf_execMaxUs (p : BitVec 3) (d a b : BitVec 7) (s : State) (hwf : Memory.wf s.mem = true) : NextWf (execMaxUs p d a b s) := by
  unfold execMaxUs
  repeat' (with_reducible first | assumption | (intro _) | apply nextWf_next | apply nextWf_refused | apply wf_regOp | dsimp only | split)
theorem wf_execAbs (p : BitVec 3) (d a : BitVec 7) (s : State) (hwf : Memory.wf s.mem = true) : NextWf (execAbs p d a s) := by
  unfold execAbs
  repeat' (with_reducible first | assumption | (intro _) | apply nextWf_next | apply nextWf_refused | apply wf_regOp | dsimp only | split)
theorem wf_execNeg (p : BitVec 3) (d a : BitVec 7) (s : State) (hwf : Memory.wf s.mem = true) : NextWf (execNeg p d a s) := by
  unfold execNeg
  repeat' (with_reducible first | assumption | (intro _) | apply nextWf_next | apply nextWf_refused | apply wf_regOp | dsimp only | split)
theorem wf_execClz (p : BitVec 3) (d a : BitVec 7) (s : State) (hwf : Memory.wf s.mem = true) : NextWf (execClz p d a s) := by
  unfold execClz
  repeat' (with_reducible first | assumption | (intro _) | apply nextWf_next | apply nextWf_refused | apply wf_regOp | dsimp only | split)
theorem wf_execPopc (p : BitVec 3) (d a : BitVec 7) (s : State) (hwf : Memory.wf s.mem = true) : NextWf (execPopc p d a s) := by
  unfold execPopc
  repeat' (with_reducible first | assumption | (intro _) | apply nextWf_next | apply nextWf_refused | apply wf_regOp | dsimp only | split)
theorem wf_execBrev (p : BitVec 3) (d a : BitVec 7) (s : State) (hwf : Memory.wf s.mem = true) : NextWf (execBrev p d a s) := by
  unfold execBrev
  repeat' (with_reducible first | assumption | (intro _) | apply nextWf_next | apply nextWf_refused | apply wf_regOp | dsimp only | split)
theorem wf_execBfxUs (p : BitVec 3) (d a b : BitVec 7) (s : State) (hwf : Memory.wf s.mem = true) : NextWf (execBfxUs p d a b s) := by
  unfold execBfxUs
  repeat' (with_reducible first | assumption | (intro _) | apply nextWf_next | apply nextWf_refused | apply wf_regOp | dsimp only | split)
theorem wf_execBfxSg (p : BitVec 3) (d a b : BitVec 7) (s : State) (hwf : Memory.wf s.mem = true) : NextWf (execBfxSg p d a b s) := by
  unfold execBfxSg
  repeat' (with_reducible first | assumption | (intro _) | apply nextWf_next | apply nextWf_refused | apply wf_regOp | dsimp only | split)
theorem wf_execBfi (p : BitVec 3) (d a b : BitVec 7) (s : State) (hwf : Memory.wf s.mem = true) : NextWf (execBfi p d a b s) := by
  unfold execBfi
  repeat' (with_reducible first | assumption | (intro _) | apply nextWf_next | apply nextWf_refused | apply wf_regOp | dsimp only | split)
theorem wf_execMov (p : BitVec 3) (d a : BitVec 7) (s : State) (hwf : Memory.wf s.mem = true) : NextWf (execMov p d a s) := by
  unfold execMov
  repeat' (with_reducible first | assumption | (intro _) | apply nextWf_next | apply nextWf_refused | apply wf_regOp | dsimp only | split)
theorem wf_execMovI64 (p : BitVec 3) (d a : BitVec 7) (s : State) (hwf : Memory.wf s.mem = true) : NextWf (execMovI64 p d a s) := by
  unfold execMovI64
  repeat' (with_reducible first | assumption | (intro _) | apply nextWf_next | apply nextWf_refused | apply wf_regOp | dsimp only | split)
theorem wf_execShlI64 (p : BitVec 3) (d a b : BitVec 7) (s : State) (hwf : Memory.wf s.mem = true) : NextWf (execShlI64 p d a b s) := by
  unfold execShlI64
  repeat' (with_reducible first | assumption | (intro _) | apply nextWf_next | apply nextWf_refused | apply wf_regOp | dsimp only | split)
theorem wf_execShrI64 (p : BitVec 3) (d a b : BitVec 7) (s : State) (hwf : Memory.wf s.mem = true) : NextWf (execShrI64 p d a b s) := by
  unfold execShrI64
  repeat' (with_reducible first | assumption | (intro _) | apply nextWf_next | apply nextWf_refused | apply wf_regOp | dsimp only | split)
theorem wf_execSarI64 (p : BitVec 3) (d a b : BitVec 7) (s : State) (hwf : Memory.wf s.mem = true) : NextWf (execSarI64 p d a b s) := by
  unfold execSarI64
  repeat' (with_reducible first | assumption | (intro _) | apply nextWf_next | apply nextWf_refused | apply wf_regOp | dsimp only | split)
theorem wf_execMovi (p : BitVec 3) (d : BitVec 7) (i : BitVec 9) (s : State) (hwf : Memory.wf s.mem = true) : NextWf (execMovi p d i s) := by
  unfold execMovi
  repeat' (with_reducible first | assumption | (intro _) | apply nextWf_next | apply nextWf_refused | apply wf_regOp | dsimp only | split)
theorem wf_execAddI32Immediate (p : BitVec 3) (d a : BitVec 7) (i : BitVec 9) (s : State) (hwf : Memory.wf s.mem = true) : NextWf (execAddI32Immediate p d a i s) := by
  unfold execAddI32Immediate
  repeat' (with_reducible first | assumption | (intro _) | apply nextWf_next | apply nextWf_refused | apply wf_regOp | dsimp only | split)
theorem wf_execLea (p : BitVec 3) (d a b : BitVec 7) (s : State) (hwf : Memory.wf s.mem = true) : NextWf (execLea p d a b s) := by
  unfold execLea
  repeat' (with_reducible first | assumption | (intro _) | apply nextWf_next | apply nextWf_refused | apply wf_regOp | dsimp only | split)
theorem wf_execSmovToUniform (p : BitVec 3) (d a : BitVec 7) (s : State) (hwf : Memory.wf s.mem = true) : NextWf (execSmovToUniform p d a s) := by
  unfold execSmovToUniform
  repeat' (with_reducible first | assumption | (intro _) | apply nextWf_next | apply nextWf_refused | apply wf_foldl | apply wf_foldl_fst | apply wf_setUreg | apply wf_effectOp | dsimp only | split)
theorem wf_execSmovFromUniform (p : BitVec 3) (d a : BitVec 7) (s : State) (hwf : Memory.wf s.mem = true) : NextWf (execSmovFromUniform p d a s) := by
  unfold execSmovFromUniform
  repeat' (with_reducible first | assumption | (intro _) | apply nextWf_next | apply nextWf_refused | apply wf_regOpF | dsimp only | split)

/-! ### Predicate -/

theorem wf_execCmpSg (p : BitVec 3) (d a b : BitVec 7) (s : State) (hwf : Memory.wf s.mem = true) : NextWf (execCmpSg p d a b s) := by
  unfold execCmpSg
  repeat' (with_reducible first | assumption | (intro _) | apply nextWf_next | apply nextWf_refused | apply wf_regOp | dsimp only | split)
theorem wf_execCmpUs (p : BitVec 3) (d a b : BitVec 7) (s : State) (hwf : Memory.wf s.mem = true) : NextWf (execCmpUs p d a b s) := by
  unfold execCmpUs
  repeat' (with_reducible first | assumption | (intro _) | apply nextWf_next | apply nextWf_refused | apply wf_regOp | dsimp only | split)
theorem wf_execCmpI64 (p : BitVec 3) (d a b : BitVec 7) (s : State) (hwf : Memory.wf s.mem = true) : NextWf (execCmpI64 p d a b s) := by
  unfold execCmpI64
  repeat' (with_reducible first | assumption | (intro _) | apply nextWf_next | apply nextWf_refused | apply wf_ite | apply nextWf_ite | apply wf_regOp | dsimp only | split)
theorem wf_execPand (p : BitVec 3) (d a b : BitVec 7) (s : State) (hwf : Memory.wf s.mem = true) : NextWf (execPand p d a b s) := by
  unfold execPand
  repeat' (with_reducible first | assumption | (intro _) | apply nextWf_next | apply nextWf_refused | apply wf_regOp | dsimp only | split)
theorem wf_execPor (p : BitVec 3) (d a b : BitVec 7) (s : State) (hwf : Memory.wf s.mem = true) : NextWf (execPor p d a b s) := by
  unfold execPor
  repeat' (with_reducible first | assumption | (intro _) | apply nextWf_next | apply nextWf_refused | apply wf_regOp | dsimp only | split)
theorem wf_execPxor (p : BitVec 3) (d a b : BitVec 7) (s : State) (hwf : Memory.wf s.mem = true) : NextWf (execPxor p d a b s) := by
  unfold execPxor
  repeat' (with_reducible first | assumption | (intro _) | apply nextWf_next | apply nextWf_refused | apply wf_regOp | dsimp only | split)
theorem wf_execPnot (p : BitVec 3) (d a : BitVec 7) (s : State) (hwf : Memory.wf s.mem = true) : NextWf (execPnot p d a s) := by
  unfold execPnot
  repeat' (with_reducible first | assumption | (intro _) | apply nextWf_next | apply nextWf_refused | apply wf_regOp | dsimp only | split)
theorem wf_execSel (k : BitVec 3) (d a b : BitVec 7) (s : State) (hwf : Memory.wf s.mem = true) : NextWf (execSel k d a b s) := by
  unfold execSel
  repeat' (with_reducible first | assumption | (intro _) | apply nextWf_next | apply nextWf_refused | apply wf_ite | apply nextWf_ite | apply wf_regOp | dsimp only | split)

/-! ### CrossLane -/

theorem wf_qswpOp (i : Instr) (x : Nat) (s : State) (hwf : Memory.wf s.mem = true) : NextWf (qswpOp i x s) := by
  unfold qswpOp
  repeat' (with_reducible first | assumption | (intro _) | apply nextWf_next | apply nextWf_refused | apply wf_ite | apply nextWf_ite | apply wf_regOpG | dsimp only | split)
theorem wf_execQswpH (p : BitVec 3) (d a : BitVec 7) (s : State) (hwf : Memory.wf s.mem = true) : NextWf (execQswpH p d a s) := by
  unfold execQswpH
  repeat' (with_reducible first | assumption | (intro _) | apply nextWf_next | apply nextWf_refused | apply wf_qswpOp | dsimp only | split)
theorem wf_execQswpV (p : BitVec 3) (d a : BitVec 7) (s : State) (hwf : Memory.wf s.mem = true) : NextWf (execQswpV p d a s) := by
  unfold execQswpV
  repeat' (with_reducible first | assumption | (intro _) | apply nextWf_next | apply nextWf_refused | apply wf_qswpOp | dsimp only | split)
theorem wf_execQswpD (p : BitVec 3) (d a : BitVec 7) (s : State) (hwf : Memory.wf s.mem = true) : NextWf (execQswpD p d a s) := by
  unfold execQswpD
  repeat' (with_reducible first | assumption | (intro _) | apply nextWf_next | apply nextWf_refused | apply wf_qswpOp | dsimp only | split)
theorem wf_execVoteAny (p : BitVec 3) (d a : BitVec 7) (s : State) (hwf : Memory.wf s.mem = true) : NextWf (execVoteAny p d a s) := by
  unfold execVoteAny
  repeat' (with_reducible first | assumption | (intro _) | apply nextWf_next | apply nextWf_refused | apply wf_warpOp | dsimp only | split)
theorem wf_execVoteAll (p : BitVec 3) (d a : BitVec 7) (s : State) (hwf : Memory.wf s.mem = true) : NextWf (execVoteAll p d a s) := by
  unfold execVoteAll
  repeat' (with_reducible first | assumption | (intro _) | apply nextWf_next | apply nextWf_refused | apply wf_warpOp | dsimp only | split)
theorem wf_execVoteBallot (p : BitVec 3) (d a : BitVec 7) (s : State) (hwf : Memory.wf s.mem = true) : NextWf (execVoteBallot p d a s) := by
  unfold execVoteBallot
  repeat' (with_reducible first | assumption | (intro _) | apply nextWf_next | apply nextWf_refused | apply wf_warpOp | dsimp only | split)
theorem wf_execMatchAny (p : BitVec 3) (d a : BitVec 7) (s : State) (hwf : Memory.wf s.mem = true) : NextWf (execMatchAny p d a s) := by
  unfold execMatchAny
  repeat' (with_reducible first | assumption | (intro _) | apply nextWf_next | apply nextWf_refused | apply wf_warpOp | dsimp only | split)
theorem wf_execElect (p : BitVec 3) (d : BitVec 7) (s : State) (hwf : Memory.wf s.mem = true) : NextWf (execElect p d s) := by
  unfold execElect
  repeat' (with_reducible first | assumption | (intro _) | apply nextWf_next | apply nextWf_refused | apply wf_warpOp | dsimp only | split)
theorem wf_execReduxI32 (p : BitVec 3) (d a b : BitVec 7) (s : State) (hwf : Memory.wf s.mem = true) : NextWf (execReduxI32 p d a b s) := by
  unfold execReduxI32
  repeat' (with_reducible first | assumption | (intro _) | apply nextWf_next | apply nextWf_refused | apply wf_warpOp | dsimp only | split)
theorem wf_execReduxUs (p : BitVec 3) (d a b : BitVec 7) (s : State) (hwf : Memory.wf s.mem = true) : NextWf (execReduxUs p d a b s) := by
  unfold execReduxUs
  repeat' (with_reducible first | assumption | (intro _) | apply nextWf_next | apply nextWf_refused | apply wf_warpOp | dsimp only | split)
theorem wf_execReduxF32 (p : BitVec 3) (d a b : BitVec 7) (s : State) (hwf : Memory.wf s.mem = true) : NextWf (execReduxF32 p d a b s) := by
  unfold execReduxF32
  repeat' (with_reducible first | assumption | (intro _) | apply nextWf_next | apply nextWf_refused | apply wf_warpOp | dsimp only | split)
theorem wf_execScanI32 (p : BitVec 3) (d a b : BitVec 7) (s : State) (hwf : Memory.wf s.mem = true) : NextWf (execScanI32 p d a b s) := by
  unfold execScanI32
  repeat' (with_reducible first | assumption | (intro _) | apply nextWf_next | apply nextWf_refused | apply wf_warpOp | dsimp only | split)
theorem wf_execScanUs (p : BitVec 3) (d a b : BitVec 7) (s : State) (hwf : Memory.wf s.mem = true) : NextWf (execScanUs p d a b s) := by
  unfold execScanUs
  repeat' (with_reducible first | assumption | (intro _) | apply nextWf_next | apply nextWf_refused | apply wf_warpOp | dsimp only | split)
theorem wf_execScanF32 (p : BitVec 3) (d a b : BitVec 7) (s : State) (hwf : Memory.wf s.mem = true) : NextWf (execScanF32 p d a b s) := by
  unfold execScanF32
  repeat' (with_reducible first | assumption | (intro _) | apply nextWf_next | apply nextWf_refused | apply wf_foldl | apply wf_foldl_fst | apply wf_ite | apply nextWf_ite | apply wf_warpOp | dsimp only | split)

/-! ### Collective -/

theorem wf_collStart (s : State) (o : EngOp) (hwf : Memory.wf s.mem = true) : Memory.wf (collStart s o).mem = true := by
  unfold collStart
  repeat' (with_reducible first | assumption | (intro _) | apply wf_foldl | apply wf_foldl_fst | apply wf_ite | apply wf_updOp | apply wf_endOp | dsimp only | split)
theorem wf_execCollInstanceStart (s : State) (hwf : Memory.wf s.mem = true) : NextWf (execCollInstanceStart s) := by
  unfold execCollInstanceStart
  repeat' (with_reducible first | assumption | (intro _) | apply nextWf_next | apply nextWf_refused | apply wf_ite | apply nextWf_ite | apply wf_collStart | dsimp only | split)
theorem wf_collAudit (s : State) (id : Nat) (o : EngOp) (k : Nat) (hwf : Memory.wf s.mem = true) : Memory.wf (collAudit s id o k).mem = true := by
  unfold collAudit
  repeat' (with_reducible first | assumption | (intro _) | apply wf_opAudit | dsimp only | split)
theorem wf_collStep (s : State) (id : Nat) (hwf : Memory.wf s.mem = true) : Memory.wf (collStep s id).mem = true := by
  unfold collStep
  repeat' (with_reducible first | assumption | (intro _) | apply wf_foldl | apply wf_foldl_fst | apply wf_ite | apply wf_stallOp | apply wf_endOp | apply wf_engUnit | apply wf_engWrite | apply wf_collAudit | apply wf_opAdvance | apply wf_updOp | dsimp only | split)
theorem wf_execCollElementWrite (s : State) (hwf : Memory.wf s.mem = true) : NextWf (execCollElementWrite s) := by
  unfold execCollElementWrite
  repeat' (with_reducible first | assumption | (intro _) | apply nextWf_next | apply nextWf_refused | apply wf_ite | apply nextWf_ite | apply wf_collStep | dsimp only | split)

/-! ### Fetch -/

theorem wf_fetchTrace (s : State) (w : Nat) (va : Nat) (hwf : Memory.wf s.mem = true) : Memory.wf (fetchTrace s w va).mem = true := by
  unfold fetchTrace
  repeat' (with_reducible first | assumption | (intro _) | apply wf_ite | apply wf_updLcore | apply wf_fillTlb | dsimp only | split)

/-! ### Sync -/

theorem wf_updBar (s : State) (m : Member) (k : Nat) (f : Barrier → Barrier) (hwf : Memory.wf s.mem = true) : Memory.wf (updBar s m k f).mem = true := by
  unfold updBar
  repeat' (with_reducible first | assumption | (intro _) | apply wf_updWg | dsimp only | split)
theorem wf_arriveAt (s : State) (k n : Nat) (m : Member) (hwf : Memory.wf s.mem = true) : Memory.wf (arriveAt s k n m).mem = true := by
  unfold arriveAt
  repeat' (with_reducible first | assumption | (intro _) | apply wf_ite | apply wf_testBarrier | apply wf_updBar | dsimp only | split)
theorem wf_clearPending (s : State) (k : Nat) (m : Member) (hwf : Memory.wf s.mem = true) : Memory.wf (clearPending s k m).mem = true := by
  unfold clearPending
  repeat' (with_reducible first | assumption | (intro _) | apply wf_updBar | dsimp only | split)
theorem wf_arriveStep (k : Nat) (n : Member → Nat) (s : State) (m : Member) (hwf : Memory.wf s.mem = true) : Memory.wf (arriveStep k n s m).mem = true := by
  unfold arriveStep
  repeat' (with_reducible first | assumption | (intro _) | apply wf_ite | apply wf_arriveAt | dsimp only | split)
theorem wf_execBara (p : BitVec 3) (d a : BitVec 7) (s : State) (hwf : Memory.wf s.mem = true) : NextWf (execBara p d a s) := by
  unfold execBara
  repeat' (with_reducible first | assumption | (intro _) | apply nextWf_next | apply nextWf_refused | apply wf_foldl | apply wf_foldl_fst | apply wf_groupOp | apply wf_arriveStep | apply wf_clearWaits | dsimp only | split)
theorem wf_waitOn (s : State) (g : Group) (k : Nat) (ms : List Member) (hwf : Memory.wf s.mem = true) : Memory.wf (waitOn s g k ms).mem = true := by
  unfold waitOn
  repeat' (with_reducible first | assumption | (intro _) | apply wf_foldl | apply wf_foldl_fst | apply wf_deferMembers | apply wf_clearPending | dsimp only | split)
theorem wf_execBarw (p : BitVec 3) (d : BitVec 7) (s : State) (hwf : Memory.wf s.mem = true) : NextWf (execBarw p d s) := by
  unfold execBarw
  repeat' (with_reducible first | assumption | (intro _) | apply nextWf_next | apply nextWf_refused | apply wf_groupOp | apply wf_clearWaits | apply wf_waitOn | dsimp only | split)
theorem wf_execBar (p : BitVec 3) (s : State) (hwf : Memory.wf s.mem = true) : NextWf (execBar p s) := by
  unfold execBar
  repeat' (with_reducible first | assumption | (intro _) | apply nextWf_next | apply nextWf_refused | apply wf_foldl | apply wf_foldl_fst | apply wf_ite | apply nextWf_ite | apply wf_groupOp | apply wf_arriveStep | apply wf_clearWaits | apply wf_waitOn | dsimp only | split)
theorem wf_quietReturn (s : State) (w : Nat) (hwf : Memory.wf s.mem = true) : Memory.wf (quietReturn s w).mem = true := by
  unfold quietReturn
  repeat' (with_reducible first | assumption | (intro _) | dsimp only | split)
theorem wf_serialArrive (s : State) (m : Member) (va id reg : Nat) (hwf : Memory.wf s.mem = true) : Memory.wf (serialArrive s m va id reg).mem = true := by
  unfold serialArrive
  repeat' (with_reducible first | assumption | (intro _) | apply wf_forward | apply wf_landOld | apply wf_logWrite | dsimp only | split)
theorem wf_issueArrive (g : Group) (d : BitVec 7) (ins : Nat) (ms : List Member) (s : State) (m : Member) (x : Src) (hwf : Memory.wf s.mem = true) : Memory.wf (issueArrive g d ins ms s m x).mem = true := by
  unfold issueArrive
  repeat' (with_reducible first | assumption | (intro _) | apply wf_ite | apply wf_markUniform | apply wf_quietReturn | apply wf_takeFwd | apply wf_landOld | apply wf_serialArrive | apply wf_accessTrace | apply wf_updLoad | apply wf_pushAtom | apply wf_dropMembers | apply wf_standAfterIn | dsimp only | split)
theorem wf_execMarrive (p : BitVec 3) (d a : BitVec 7) (s : State) (hwf : Memory.wf s.mem = true) : NextWf (execMarrive p d a s) := by
  unfold execMarrive
  repeat' (with_reducible first | assumption | (intro _) | apply nextWf_next | apply nextWf_refused | apply wf_foldl | apply wf_foldl_fst | apply wf_groupOpE | apply wf_issueArrive | dsimp only | split)
theorem wf_execMwait (p : BitVec 3) (d a : BitVec 7) (s : State) (hwf : Memory.wf s.mem = true) : NextWf (execMwait p d a s) := by
  unfold execMwait
  repeat' (with_reducible first | assumption | (intro _) | apply nextWf_next | apply nextWf_refused | apply wf_foldl | apply wf_foldl_fst | apply wf_ite | apply nextWf_ite | apply wf_groupOp | apply wf_acquireAt | apply wf_accessTrace | apply wf_clearWaits | apply wf_takeFwds | apply wf_forwards | dsimp only | split)
theorem wf_setFull (s : State) (m : Member) (off : Nat) (v : Bool) (hwf : Memory.wf s.mem = true) : Memory.wf (setFull s m off v).mem = true := by
  unfold setFull
  repeat' (with_reducible first | assumption | (intro _) | apply wf_ite | apply wf_updWg | dsimp only | split)
theorem wf_takeWords (need : Bool) (leave : Option Bool) (l : List (Member × Src)) (s : State) (hwf : Memory.wf s.mem = true) : Memory.wf (takeWords need leave l s).1.mem = true := by
  induction l generalizing s with
  | nil => unfold takeWords; exact hwf
  | cons x t ih =>
    unfold takeWords
    repeat' (with_reducible first | assumption | (intro _) | apply ih | apply wf_ite | apply wf_setFull | dsimp only | split)
theorem wfe_takeWords {need : Bool} {leave : Option Bool} {l : List (Member × Src)} {s : State} {t : State} {y : List (Member × Val) × List (Member × Wait)} (e : (takeWords need leave l s) = (t, y)) (hwf : Memory.wf s.mem = true) : Memory.wf t.mem = true := by
  have := wf_takeWords need leave l s hwf; rw [e] at this; exact this
theorem wf_feLoadOp (i : Instr) (need : Bool) (leave : Option Bool) (s : State) (hwf : Memory.wf s.mem = true) : NextWf (feLoadOp i need leave s) := by
  unfold feLoadOp
  repeat' (with_reducible first | assumption | (intro _) | apply nextWf_next | apply nextWf_refused | apply wf_deferMembers | apply wf_issueLong | apply wf_groupOp | apply wf_clearWaits | apply wf_takeWords | (apply wfe_takeWords; assumption) | dsimp only | split)
theorem wf_execLdfK (p : BitVec 3) (d a : BitVec 7) (s : State) (hwf : Memory.wf s.mem = true) : NextWf (execLdfK p d a s) := by
  unfold execLdfK
  repeat' (with_reducible first | assumption | (intro _) | apply nextWf_next | apply nextWf_refused | apply wf_feLoadOp | dsimp only | split)
theorem wf_execLdfE (p : BitVec 3) (d a : BitVec 7) (s : State) (hwf : Memory.wf s.mem = true) : NextWf (execLdfE p d a s) := by
  unfold execLdfE
  repeat' (with_reducible first | assumption | (intro _) | apply nextWf_next | apply nextWf_refused | apply wf_feLoadOp | dsimp only | split)
theorem wf_execLde (p : BitVec 3) (d a : BitVec 7) (s : State) (hwf : Memory.wf s.mem = true) : NextWf (execLde p d a s) := by
  unfold execLde
  repeat' (with_reducible first | assumption | (intro _) | apply nextWf_next | apply nextWf_refused | apply wf_feLoadOp | dsimp only | split)
theorem wf_putFull (s : State) (m : Member) (off : Nat) (v : Word) (hwf : Memory.wf s.mem = true) : Memory.wf (putFull s m off v).mem = true := by
  unfold putFull
  repeat' (with_reducible first | assumption | (intro _) | apply wf_updWg | apply wf_setFull | dsimp only | split)
theorem wf_putWords (need : Bool) (l : List (Member × Src)) (s : State) (hwf : Memory.wf s.mem = true) : Memory.wf (putWords need l s).1.mem = true := by
  induction l generalizing s with
  | nil => unfold putWords; exact hwf
  | cons x t ih =>
    unfold putWords
    repeat' (with_reducible first | assumption | (intro _) | apply ih | apply wf_ite | apply wf_putFull | dsimp only | split)
theorem wfe_putWords {need : Bool} {l : List (Member × Src)} {s : State} {t : State} {y : List (Member × Wait)} (e : (putWords need l s) = (t, y)) (hwf : Memory.wf s.mem = true) : Memory.wf t.mem = true := by
  have := wf_putWords need l s hwf; rw [e] at this; exact this
theorem wf_feStoreOp (i : Instr) (need : Bool) (s : State) (hwf : Memory.wf s.mem = true) : NextWf (feStoreOp i need s) := by
  unfold feStoreOp
  repeat' (with_reducible first | assumption | (intro _) | apply nextWf_next | apply nextWf_refused | apply wf_ite | apply nextWf_ite | apply wf_groupOpE | apply wf_putWords | apply wf_clearWaits | apply wf_deferMembers | dsimp only | split)
theorem wf_execSte (p : BitVec 3) (d a : BitVec 7) (s : State) (hwf : Memory.wf s.mem = true) : NextWf (execSte p d a s) := by
  unfold execSte
  repeat' (with_reducible first | assumption | (intro _) | apply nextWf_next | apply nextWf_refused | apply wf_feStoreOp | dsimp only | split)
theorem wf_execStf (p : BitVec 3) (d a : BitVec 7) (s : State) (hwf : Memory.wf s.mem = true) : NextWf (execStf p d a s) := by
  unfold execStf
  repeat' (with_reducible first | assumption | (intro _) | apply nextWf_next | apply nextWf_refused | apply wf_feStoreOp | dsimp only | split)
theorem wf_execSleepT (p : BitVec 3) (a : BitVec 7) (s : State) (hwf : Memory.wf s.mem = true) : NextWf (execSleepT p a s) := by
  unfold execSleepT
  repeat' (with_reducible first | assumption | (intro _) | apply nextWf_next | apply nextWf_refused | apply wf_ite | apply nextWf_ite | apply wf_groupOp | apply wf_clearWaits | dsimp only | split)
theorem wf_execSleepExpiry (s : State) (hwf : Memory.wf s.mem = true) : NextWf (execSleepExpiry s) := by
  unfold execSleepExpiry
  repeat' (with_reducible first | assumption | (intro _) | apply nextWf_next | apply nextWf_refused | apply wf_ite | apply nextWf_ite | apply wf_updThr | dsimp only | split)
theorem wf_execDeferredMemberRetest (s : State) (hwf : Memory.wf s.mem = true) : NextWf (execDeferredMemberRetest s) := by
  unfold execDeferredMemberRetest
  repeat' (with_reducible first | assumption | (intro _) | apply nextWf_next | apply nextWf_refused | apply wf_ite | apply nextWf_ite | apply wf_updThr | dsimp only | split)

end Sys2Proof.Machine
end

