-- ==== Sys2Proof/Laws/CanonicalContext.lean ====
section
/-! SUPPORT. Memory keeps its canonical form under launches, dealing, system instructions, traps and contexts: one lemma for each definition that answers a state. -/

namespace Sys2Proof.Machine

set_option linter.unusedVariables false

/-! ### Room -/

theorem wf_setRole (s : State) (c bank : Nat) (role : BitVec 2) (hwf : Memory.wf s.mem = true) : Memory.wf (setRole s c bank role).mem = true := by
  unfold setRole
  repeat' (with_reducible first | assumption | (intro _) | apply wf_ite | apply wf_updPcore | apply wf_dropCopies | dsimp only | split)
theorem wf_ownBanks (s : State) (c g : Nat) (scr op acc : List Nat) (hwf : Memory.wf s.mem = true) : Memory.wf (ownBanks s c g scr op acc).mem = true := by
  unfold ownBanks
  repeat' (with_reducible first | assumption | (intro _) | apply wf_foldl | apply wf_foldl_fst | apply wf_ite | apply wf_setRole | apply wf_updPcore | dsimp only | split)
theorem wf_execBankRoleChange (s : State) (hwf : Memory.wf s.mem = true) : NextWf (execBankRoleChange s) := by
  unfold execBankRoleChange
  repeat' (with_reducible first | assumption | (intro _) | apply nextWf_next | apply nextWf_refused | apply wf_ite | apply nextWf_ite | apply wf_updPcore | apply wf_setRole | dsimp only | split)

/-! ### Launch -/

theorem wf_putSummaryParts (s : State) (gid : Nat) (va : Nat) (l : List (List Byte)) (hwf : Memory.wf s.mem = true) : Memory.wf (putSummaryParts s gid va l).mem = true := by
  induction l generalizing s va with
  | nil => unfold putSummaryParts; exact hwf
  | cons x t ih =>
    unfold putSummaryParts
    repeat' (with_reducible first | assumption | (intro _) | apply ih | apply wf_ite | apply wf_putPlace | apply wf_fillTlb | apply wf_fillClr | apply wf_appendFault | dsimp only | split)
theorem wf_putSummary (s : State) (gid : Nat) (hwf : Memory.wf s.mem = true) : Memory.wf (putSummary s gid).mem = true := by
  unfold putSummary
  repeat' (with_reducible first | assumption | (intro _) | apply wf_ite | apply wf_putSummaryParts | dsimp only | split)
theorem wf_finishGrid (s : State) (gid : Nat) (hwf : Memory.wf s.mem = true) : Memory.wf (finishGrid s gid).mem = true := by
  unfold finishGrid
  repeat' (with_reducible first | assumption | (intro _) | apply wf_ite | apply wf_putSummary | apply wf_updGrid | apply wf_completeNumber | apply wf_pushEvent | dsimp only | split)
theorem wf_pruneGrids (s : State) (hwf : Memory.wf s.mem = true) : Memory.wf (pruneGrids s).mem = true := by
  unfold pruneGrids
  repeat' (with_reducible first | assumption | (intro _) | dsimp only | split)
theorem wf_issueLaunch (s : State) (p : Packet) (g : Grid) (cause : Option Cause) (hwf : Memory.wf s.mem = true) : Memory.wf (issueLaunch s p g cause).1.mem = true := by
  unfold issueLaunch
  repeat' (with_reducible first | assumption | (intro _) | apply wf_ite | apply wf_tookId | apply wf_appendFault | apply wf_takeNumber | apply wf_finishGrid | apply wf_pruneGrids | dsimp only | split)
theorem wfe_issueLaunch {s : State} {p : Packet} {g : Grid} {cause : Option Cause} {t : State} {y : Nat × Nat} (e : (issueLaunch s p g cause) = (t, y)) (hwf : Memory.wf s.mem = true) : Memory.wf t.mem = true := by
  have := wf_issueLaunch s p g cause hwf; rw [e] at this; exact this
theorem wf_launchTrace (s : State) (m : Member) (p : Packet) (hwf : Memory.wf s.mem = true) : Memory.wf (launchTrace s m p).mem = true := by
  unfold launchTrace
  repeat' (with_reducible first | assumption | (intro _) | apply wf_foldl | apply wf_foldl_fst | apply wf_keepLoad | apply wf_accessTrace | dsimp only | split)
theorem wf_launchOp (i : Instr) (pod : Bool) (s : State) (hwf : Memory.wf s.mem = true) : NextWf (launchOp i pod s) := by
  unfold launchOp
  repeat' (with_reducible first | assumption | (intro _) | apply nextWf_next | apply nextWf_refused | apply wf_ite | apply nextWf_ite | apply wf_forward | apply wf_takeFwd | apply wf_onceOp | apply wf_spreadD | apply wf_issueLaunch | (apply wfe_issueLaunch; assumption) | apply wf_launchTrace | dsimp only | split)
theorem wf_execLaunch (p : BitVec 3) (d a : BitVec 7) (s : State) (hwf : Memory.wf s.mem = true) : NextWf (execLaunch p d a s) := by
  unfold execLaunch
  repeat' (with_reducible first | assumption | (intro _) | apply nextWf_next | apply nextWf_refused | apply wf_launchOp | dsimp only | split)
theorem wf_execLaunchp (p : BitVec 3) (d a : BitVec 7) (s : State) (hwf : Memory.wf s.mem = true) : NextWf (execLaunchp p d a s) := by
  unfold execLaunchp
  repeat' (with_reducible first | assumption | (intro _) | apply nextWf_next | apply nextWf_refused | apply wf_launchOp | dsimp only | split)
theorem wf_startCancel (s : State) (gid : Nat) (discard : Bool) (hwf : Memory.wf s.mem = true) : Memory.wf (startCancel s gid discard).mem = true := by
  unfold startCancel
  repeat' (with_reducible first | assumption | (intro _) | apply wf_ite | apply wf_updGrid | dsimp only | split)
theorem wf_execCancel (p : BitVec 3) (d a : BitVec 7) (s : State) (hwf : Memory.wf s.mem = true) : NextWf (execCancel p d a s) := by
  unfold execCancel
  repeat' (with_reducible first | assumption | (intro _) | apply nextWf_next | apply nextWf_refused | apply wf_ite | apply nextWf_ite | apply wf_onceOp | apply wf_takeFwd | apply wf_spreadD | apply wf_forward | apply wf_startCancel | apply wf_clearWaits | apply wf_deferOnce | dsimp only | split)
theorem wf_takeSnapshot (s : State) (m : Member) (x : Src) (hwf : Memory.wf s.mem = true) : Memory.wf (takeSnapshot s m x).2.mem = true := by
  have hf : ∀ (l : List Nat) (e : List Byte × State), Memory.wf e.2.mem = true →
      Memory.wf (l.foldl (fun e _ => (e.1 ++ leBytes 16 ((fwdVal? e.2 m).getD 0).toNat, takeFwd e.2 m)) e).2.mem = true := by
    intro l
    induction l with
    | nil => intro e he; exact he
    | cons a t ih => intro e he; exact ih _ (wf_takeFwd _ _ he)
  unfold takeSnapshot
  dsimp only
  split
  · exact hf _ _ hwf
  · exact wf_foldl _ _ _ (fun _ _ h => wf_forward _ _ _ h) hwf
theorem wf_execGridq (p : BitVec 3) (d a : BitVec 7) (s : State) (hwf : Memory.wf s.mem = true) : NextWf (execGridq p d a s) := by
  unfold execGridq
  repeat' (with_reducible first | assumption | (intro _) | apply nextWf_next | apply nextWf_refused | apply wf_foldl | apply wf_foldl_fst | apply wf_ite | apply nextWf_ite | apply wf_onceOp | apply wf_takeSnapshot | apply wf_storeGlobal | apply wf_accessTrace | dsimp only | split)
theorem wf_execEvpop (p : BitVec 3) (d a : BitVec 7) (s : State) (hwf : Memory.wf s.mem = true) : NextWf (execEvpop p d a s) := by
  unfold execEvpop
  repeat' (with_reducible first | assumption | (intro _) | apply nextWf_next | apply nextWf_refused | apply wf_ite | apply nextWf_ite | apply wf_onceOp | apply wf_clearWaits | apply wf_takeFwd | apply wf_spreadD | apply wf_forward | apply wf_dropBelow | apply wf_popEvent | dsimp only | split)
theorem wf_execEvpush (p : BitVec 3) (d a : BitVec 7) (s : State) (hwf : Memory.wf s.mem = true) : NextWf (execEvpush p d a s) := by
  unfold execEvpush
  repeat' (with_reducible first | assumption | (intro _) | apply nextWf_next | apply nextWf_refused | apply wf_ite | apply nextWf_ite | apply wf_onceOp | apply wf_clearWaits | apply wf_pushEvent | dsimp only | split)
theorem wf_execTaskrel (p : BitVec 3) (d a : BitVec 7) (s : State) (hwf : Memory.wf s.mem = true) : NextWf (execTaskrel p d a s) := by
  unfold execTaskrel
  repeat' (with_reducible first | assumption | (intro _) | apply nextWf_next | apply nextWf_refused | apply wf_foldl | apply wf_foldl_fst | apply wf_ite | apply nextWf_ite | apply wf_updWg | apply wf_forward | apply wf_takeFwd | apply wf_onceOp | apply wf_spreadD | apply wf_clearWaits | dsimp only | split)

/-! ### Stops -/

theorem wf_endAhead (s : State) (w : Nat) (hwf : Memory.wf s.mem = true) : Memory.wf (endAhead s w).mem = true := by
  unfold endAhead
  repeat' (with_reducible first | assumption | (intro _) | apply wf_ite | apply wf_updWarp | apply wf_trapWarp | dsimp only | split)
theorem wf_execRunAheadEnd (s : State) (hwf : Memory.wf s.mem = true) : NextWf (execRunAheadEnd s) := by
  unfold execRunAheadEnd
  repeat' (with_reducible first | assumption | (intro _) | apply nextWf_next | apply nextWf_refused | apply wf_ite | apply nextWf_ite | apply wf_endAhead | dsimp only | split)
theorem wf_stopThread (s : State) (m : Member) (hwf : Memory.wf s.mem = true) : Memory.wf (stopThread s m).mem = true := by
  unfold stopThread
  repeat' (with_reducible first | assumption | (intro _) | apply wf_ite | apply wf_updThr | apply wf_endThread | dsimp only | split)
theorem wf_requestStop (s : State) (w : Nat) (hwf : Memory.wf s.mem = true) : Memory.wf (requestStop s w).mem = true := by
  unfold requestStop
  repeat' (with_reducible first | assumption | (intro _) | apply wf_foldl | apply wf_foldl_fst | apply wf_ite | apply wf_endAhead | apply wf_updWarp | apply wf_stopThread | apply wf_pullFromGroups | dsimp only | split)
theorem wf_requestStops (s : State) (ws : List Nat) (hwf : Memory.wf s.mem = true) : Memory.wf (requestStops s ws).mem = true := by
  unfold requestStops
  repeat' (with_reducible first | assumption | (intro _) | apply wf_foldl | apply wf_foldl_fst | apply wf_requestStop | dsimp only | split)
theorem wf_stopWarpNow (s : State) (w : Nat) (hwf : Memory.wf s.mem = true) : Memory.wf (stopWarpNow s w).mem = true := by
  unfold stopWarpNow
  repeat' (with_reducible first | assumption | (intro _) | apply wf_foldl | apply wf_foldl_fst | apply wf_updWarp | apply wf_pullFromGroups | apply wf_stopThread | dsimp only | split)
theorem wf_execStopWindowExpiry (s : State) (hwf : Memory.wf s.mem = true) : NextWf (execStopWindowExpiry s) := by
  unfold execStopWindowExpiry
  repeat' (with_reducible first | assumption | (intro _) | apply nextWf_next | apply nextWf_refused | apply wf_foldl | apply wf_foldl_fst | apply wf_ite | apply nextWf_ite | apply wf_stopWarpNow | dsimp only | split)
theorem wf_dropStalls (s : State) (w : Nat) (hwf : Memory.wf s.mem = true) : Memory.wf (dropStalls s w).mem = true := by
  unfold dropStalls
  repeat' (with_reducible first | assumption | (intro _) | apply wf_ite | apply wf_updPart | dsimp only | split)
theorem wf_markStopped (s : State) (w : Nat) (hwf : Memory.wf s.mem = true) : Memory.wf (markStopped s w).mem = true := by
  unfold markStopped
  repeat' (with_reducible first | assumption | (intro _) | apply wf_updWarp | apply wf_dropStalls | dsimp only | split)
theorem wf_execWarpStopped (s : State) (hwf : Memory.wf s.mem = true) : NextWf (execWarpStopped s) := by
  unfold execWarpStopped
  repeat' (with_reducible first | assumption | (intro _) | apply nextWf_next | apply nextWf_refused | apply wf_foldl | apply wf_foldl_fst | apply wf_ite | apply nextWf_ite | apply wf_updWarp | apply wf_markStopped | dsimp only | split)
theorem wf_resumeWarp (s : State) (w : Nat) (hwf : Memory.wf s.mem = true) : Memory.wf (resumeWarp s w).mem = true := by
  unfold resumeWarp
  repeat' (with_reducible first | assumption | (intro _) | apply wf_ite | apply wf_updWarp | dsimp only | split)

/-! ### Dealer -/

theorem wf_dealAll (s : State) (gid l : Nat) (hwf : Memory.wf s.mem = true) : Memory.wf (dealAll s gid l).mem = true := by
  unfold dealAll
  repeat' (with_reducible first | assumption | (intro _) | apply wf_ite | apply wf_updGrid | dsimp only | split)
theorem wf_returnRanges (s : State) (ctx : Nat) (lost : Nat → Bool) (hwf : Memory.wf s.mem = true) : Memory.wf (returnRanges s ctx lost).mem = true := by
  unfold returnRanges
  repeat' (with_reducible first | assumption | (intro _) | apply wf_ite | dsimp only | split)
theorem wf_execLandingDeal (s : State) (hwf : Memory.wf s.mem = true) : NextWf (execLandingDeal s) := by
  unfold execLandingDeal
  repeat' (with_reducible first | assumption | (intro _) | apply nextWf_next | apply nextWf_refused | apply wf_ite | apply nextWf_ite | apply wf_dealAll | dsimp only | split)
theorem wf_enterQuarter (s : State) (c pslot w : Nat) (hwf : Memory.wf s.mem = true) : Memory.wf (enterQuarter s c pslot w).mem = true := by
  unfold enterQuarter
  repeat' (with_reducible first | assumption | (intro _) | apply wf_ite | apply wf_updPcore | dsimp only | split)
theorem wf_placeWarp (s : State) (g : Grid) (hid c w slot pslot : Nat) (hwf : Memory.wf s.mem = true) : Memory.wf (placeWarp s g hid c w slot pslot).mem = true := by
  unfold placeWarp
  repeat' (with_reducible first | assumption | (intro _) | apply wf_ite | apply wf_updWg | apply wf_enterQuarter | dsimp only | split)
theorem wf_placeAt (s : State) (gid : Nat) (seqi : Bool) (b lk rep : Nat) (lead : Option Nat) (c : Nat) (f : Fit) (n : Numbers) (hwf : Memory.wf s.mem = true) : Memory.wf (placeAt s gid seqi b lk rep lead c f n).mem = true := by
  unfold placeAt
  repeat' (with_reducible first | assumption | (intro _) | apply wf_foldl | apply wf_foldl_fst | apply wf_ite | apply wf_ownBanks | apply wf_placeWarp | dsimp only | split)
theorem wfe_placeHolder? {s : State} {gid : Nat} {seqi : Bool} {b lk rep : Nat} {lead : Option Nat} {c : Nat} {t : State} {y : Nat}
    (e : placeHolder? s gid seqi b lk rep lead c = some (t, y)) (hwf : Memory.wf s.mem = true) : Memory.wf t.mem = true := by
  unfold placeHolder? at e
  dsimp only at e
  split at e
  · cases e
  · obtain ⟨x, -, hx⟩ := Option.map_eq_some_iff.1 e
    cases hx
    exact wf_placeAt _ _ _ _ _ _ _ _ _ _ hwf
theorem wf_placeReplicas? (s : State) (gid : Nat) (seqi : Bool) (b lk : Nat) (rep : Nat) (lead : Option Nat) (l : List Nat) (hwf : Memory.wf s.mem = true) : SomeWf (placeReplicas? s gid seqi b lk rep lead l) := by
  induction l generalizing s rep lead with
  | nil => unfold placeReplicas?; exact someWf_some hwf
  | cons x t ih =>
    unfold placeReplicas?
    repeat' (with_reducible first | assumption | (intro _) | apply ih | apply someWf_some | apply someWf_none | (apply wfe_placeHolder?; assumption) | dsimp only | split)
theorem wfe_placeReplicas? {s : State} {gid : Nat} {seqi : Bool} {b lk : Nat} {rep : Nat} {lead : Option Nat} {l : List Nat} {t : State} (e : (placeReplicas? s gid seqi b lk rep lead l) = some t) (hwf : Memory.wf s.mem = true) : Memory.wf t.mem = true := by
  exact wf_placeReplicas? s gid seqi b lk rep lead l hwf _ e
theorem wfe_placeBlock? {s : State} {gid b lk c : Nat} {halls : List Nat} {t : State} {y : List Nat}
    (e : placeBlock? s gid b lk c halls = some (t, y)) (hwf : Memory.wf s.mem = true) : Memory.wf t.mem = true := by
  unfold placeBlock? at e
  dsimp only at e
  split at e
  · cases e
  · split at e
    · cases e
    · rename_i s1 h1
      obtain ⟨x, h2, hx⟩ := Option.map_eq_some_iff.1 e
      cases hx
      apply wf_updGrid
      refine wfe_placeReplicas? h2 ?_
      split at h1
      · exact wfe_placeReplicas? h1 hwf
      · cases h1; exact hwf
theorem wf_placeMembers? (s : State) (gid : Nat) (halls l : List Nat) (hwf : Memory.wf s.mem = true) :
    SomeWf (placeMembers? s gid halls l) := by
  induction l generalizing s with
  | nil => exact someWf_some hwf
  | cons b t ih =>
    unfold placeMembers?
    dsimp only
    split
    · exact someWf_none
    · rename_i s1 x h
      obtain ⟨c, -, hc⟩ := List.exists_of_findSome?_eq_some h
      exact ih s1 (wfe_placeBlock? hc hwf)
theorem wfe_placeMembers? {s : State} {gid : Nat} {halls l : List Nat} {t : State} (e : placeMembers? s gid halls l = some t)
 (hwf : Memory.wf s.mem = true) : Memory.wf t.mem = true := wf_placeMembers? s gid halls l hwf t e
theorem wf_placeUnit? (s : State) (gid u c : Nat) (hwf : Memory.wf s.mem = true) : SomeWf (placeUnit? s gid u c) := by
  unfold placeUnit?
  repeat' (with_reducible first | assumption | (intro _) | apply someWf_some | apply someWf_none | (apply wfe_placeBlock?; assumption) | apply wf_placeMembers? | (apply wfe_placeMembers?; assumption) | dsimp only | split)
theorem wfe_placeUnit? {s : State} {gid u c : Nat} {t : State} (e : (placeUnit? s gid u c) = some t) (hwf : Memory.wf s.mem = true) : Memory.wf t.mem = true := by
  exact wf_placeUnit? s gid u c hwf _ e

/-! ### Placement -/

theorem wf_stageHolder (s : State) (hid : Nat) (hwf : Memory.wf s.mem = true) : Memory.wf (stageHolder s hid).mem = true := by
  unfold stageHolder
  repeat' (with_reducible first | assumption | (intro _) | apply wf_foldl | apply wf_foldl_fst | apply wf_ite | apply wf_appendAudit | apply wf_addAwait | apply wf_appendFault | apply wf_updWarp | apply wf_updWg | apply wf_resumeOne | dsimp only | split)
theorem wf_stageNew (s0 s : State) (hwf : Memory.wf s0.mem = true) (hwf1 : Memory.wf s.mem = true) : Memory.wf (stageNew s0 s).mem = true := by
  unfold stageNew
  repeat' (with_reducible first | assumption | (intro _) | apply wf_foldl | apply wf_foldl_fst | apply wf_stageHolder | dsimp only | split)
theorem wf_putLogHead (s : State) (part ix count block : Nat) (hwf : Memory.wf s.mem = true) : Memory.wf (putLogHead s part ix count block).mem = true := by
  unfold putLogHead
  repeat' (with_reducible first | assumption | (intro _) | apply wf_ite | apply wf_putHome | dsimp only | split)
theorem wf_startDet (s : State) (gid b c : Nat) (hwf : Memory.wf s.mem = true) : SomeWf (startDet s gid b c) := by
  intro t e
  unfold startDet at e
  dsimp only at e
  split at e
  · rename_i ix x hi hx
    cases e
    refine wf_putLogHead _ _ _ _ _ (wfe_placeBlock? (y := x.2) hx ?_)
    split
    · exact wf_updGrid _ _ _ hwf
    · exact hwf
  · cases e
theorem wf_placement? (s : State) (gid b c : Nat) (hwf : Memory.wf s.mem = true) : SomeWf (placement? s gid b c) := by
  intro t e
  unfold placement? at e
  split at e
  · cases e
  · split at e
    · split at e
      · exact wf_startDet _ _ _ _ hwf t e
      · cases e
    · split at e
      · split at e
        · cases e
        · obtain ⟨u, hx, he⟩ := Option.map_eq_some_iff.1 e
          rw [← he]
          exact wf_updGrid _ _ _ (wf_placeUnit? _ _ _ _ hwf u hx)
      · cases e
theorem wfe_placement? {s : State} {gid b c : Nat} {t : State} (e : placement? s gid b c = some t) (hwf : Memory.wf s.mem = true) :
    Memory.wf t.mem = true := wf_placement? s gid b c hwf t e
theorem wf_execWorkgroupPlacement (s : State) (hwf : Memory.wf s.mem = true) : NextWf (execWorkgroupPlacement s) := by
  unfold execWorkgroupPlacement
  repeat' (with_reducible first | assumption | (intro _) | apply nextWf_next | apply nextWf_refused | apply wf_stageNew | apply wf_placement? | (apply wfe_placement?; assumption) | dsimp only | split)
theorem wf_discardHolder (s : State) (h : Nat) (hwf : Memory.wf s.mem = true) : Memory.wf (discardHolder s h).mem = true := by
  unfold discardHolder
  repeat' (with_reducible first | assumption | (intro _) | apply wf_foldl | apply wf_foldl_fst | apply wf_updWg | apply wf_requestStop | dsimp only | split)
theorem wf_reachLanding (s : State) (gid l : Nat) (hwf : Memory.wf s.mem = true) : Memory.wf (reachLanding s gid l).mem = true := by
  unfold reachLanding
  repeat' (with_reducible first | assumption | (intro _) | apply wf_foldl | apply wf_foldl_fst | apply wf_ite | apply wf_updGrid | apply wf_discardHolder | dsimp only | split)
theorem wf_execCancelLanding (s : State) (hwf : Memory.wf s.mem = true) : NextWf (execCancelLanding s) := by
  unfold execCancelLanding
  repeat' (with_reducible first | assumption | (intro _) | apply nextWf_next | apply nextWf_refused | apply wf_ite | apply nextWf_ite | apply wf_reachLanding | dsimp only | split)
theorem wf_execGridCompletion (s : State) (hwf : Memory.wf s.mem = true) : NextWf (execGridCompletion s) := by
  unfold execGridCompletion
  repeat' (with_reducible first | assumption | (intro _) | apply nextWf_next | apply nextWf_refused | apply wf_ite | apply nextWf_ite | apply wf_finishGrid | apply wf_pruneGrids | dsimp only | split)
theorem wf_advanceHead (s : State) (pkg qn : Nat) (hwf : Memory.wf s.mem = true) : Memory.wf (advanceHead s pkg qn).mem = true := by
  unfold advanceHead
  repeat' (with_reducible first | assumption | (intro _) | apply wf_updPkg | apply wf_putNat | dsimp only | split)
theorem wf_launchHead (s : State) (pkg qn : Nat) (hwf : Memory.wf s.mem = true) : Memory.wf (launchHead s pkg qn).mem = true := by
  unfold launchHead
  repeat' (with_reducible first | assumption | (intro _) | apply wf_ite | apply wf_appendFault | apply wf_issueLaunch | (apply wfe_issueLaunch; assumption) | apply wf_advanceHead | dsimp only | split)
theorem wf_takePackets (s : State) (pkg qn : Nat) (n : Nat) (hwf : Memory.wf s.mem = true) : Memory.wf (takePackets s pkg qn n).mem = true := by
  induction n generalizing s with
  | zero => unfold takePackets; exact hwf
  | succ n ih =>
    unfold takePackets
    repeat' (with_reducible first | assumption | (intro _) | apply ih | apply wf_ite | apply wf_launchHead | dsimp only | split)
theorem wf_execQueueTailWake (s : State) (hwf : Memory.wf s.mem = true) : NextWf (execQueueTailWake s) := by
  unfold execQueueTailWake
  repeat' (with_reducible first | assumption | (intro _) | apply nextWf_next | apply nextWf_refused | apply wf_ite | apply nextWf_ite | apply wf_updPkg | apply wf_takePackets | dsimp only | split)
theorem wf_applyNext (s : State) (gid : Nat) (hwf : Memory.wf s.mem = true) : Memory.wf (applyNext s gid).mem = true := by
  unfold applyNext
  repeat' (with_reducible first | assumption | (intro _) | apply wf_foldl | apply wf_foldl_fst | apply wf_applyLog | apply wf_putLogHead | apply wf_reapWg | apply wf_updGrid | apply wf_updWg | dsimp only | split)
theorem wf_execWriteLogApply (s : State) (hwf : Memory.wf s.mem = true) : NextWf (execWriteLogApply s) := by
  unfold execWriteLogApply
  repeat' (with_reducible first | assumption | (intro _) | apply nextWf_next | apply nextWf_refused | apply wf_ite | apply nextWf_ite | apply wf_applyNext | dsimp only | split)

/-! ### System -/

theorem wf_loadGaz (s : State) (part : Nat) (hwf : Memory.wf s.mem = true) : Memory.wf (loadGaz s part).mem = true := by
  unfold loadGaz
  repeat' (with_reducible first | assumption | (intro _) | apply wf_ite | apply wf_updPart | dsimp only | split)
theorem wf_writePartCsr (s : State) (part n v : Nat) (hwf : Memory.wf s.mem = true) : Memory.wf (writePartCsr s part n v).mem = true := by
  unfold writePartCsr
  repeat' (with_reducible first | assumption | (intro _) | apply wf_ite | apply wf_updPart | apply wf_updCtx | apply wf_writeTmln | apply wf_loadGaz | dsimp only | split)
theorem wf_writeWarpCsr (s : State) (w n v : Nat) (hwf : Memory.wf s.mem = true) : Memory.wf (writeWarpCsr s w n v).mem = true := by
  unfold writeWarpCsr
  repeat' (with_reducible first | assumption | (intro _) | apply wf_ite | apply wf_updWarp | dsimp only | split)
theorem wf_csrWrite (act : List Member) (s : State) (m : Member) (x : Src) (hwf : Memory.wf s.mem = true) : Memory.wf (csrWrite act s m x).mem = true := by
  unfold csrWrite
  repeat' (with_reducible first | assumption | (intro _) | apply wf_ite | apply wf_updThr | apply wf_writePartCsr | apply wf_writeWarpCsr | dsimp only | split)
theorem wf_execCsrr (p : BitVec 3) (d a : BitVec 7) (s : State) (hwf : Memory.wf s.mem = true) : NextWf (execCsrr p d a s) := by
  unfold execCsrr
  repeat' (with_reducible first | assumption | (intro _) | apply nextWf_next | apply nextWf_refused | apply wf_ite | apply nextWf_ite | apply wf_readOnce | dsimp only | split)
theorem wf_execCsrw (p : BitVec 3) (d a : BitVec 7) (s : State) (hwf : Memory.wf s.mem = true) : NextWf (execCsrw p d a s) := by
  unfold execCsrw
  repeat' (with_reducible first | assumption | (intro _) | apply nextWf_next | apply nextWf_refused | apply wf_foldl | apply wf_foldl_fst | apply wf_effectOp | apply wf_csrWrite | dsimp only | split)
theorem wf_execIdentWrite (s : State) (hwf : Memory.wf s.mem = true) : NextWf (execIdentWrite s) := by
  unfold execIdentWrite
  repeat' (with_reducible first | assumption | (intro _) | apply nextWf_next | apply nextWf_refused | apply wf_ite | apply nextWf_ite | apply wf_writeWarpCsr | dsimp only | split)
theorem wf_execNfmtWrite (s : State) (hwf : Memory.wf s.mem = true) : NextWf (execNfmtWrite s) := by
  unfold execNfmtWrite
  repeat' (with_reducible first | assumption | (intro _) | apply nextWf_next | apply nextWf_refused | apply wf_ite | apply nextWf_ite | apply wf_writeWarpCsr | dsimp only | split)
theorem wf_execSetid (p : BitVec 3) (d a : BitVec 7) (s : State) (hwf : Memory.wf s.mem = true) : NextWf (execSetid p d a s) := by
  unfold execSetid
  repeat' (with_reducible first | assumption | (intro _) | apply nextWf_next | apply nextWf_refused | apply wf_foldl | apply wf_foldl_fst | apply wf_ite | apply nextWf_ite | apply wf_updWarp | apply wf_effectOp | dsimp only | split)
theorem wf_tlbDrop (s : State) (m : Member) (x : Src) (hwf : Memory.wf s.mem = true) : Memory.wf (tlbDrop s m x).mem = true := by
  unfold tlbDrop
  repeat' (with_reducible first | assumption | (intro _) | apply wf_ite | dsimp only | split)
theorem wf_drainOp (i : Instr) (fail : State → Member → Src → Option Fail) (drop : State → Member → Src → State) (s : State)  (hf_drop : ∀ (a0 : State) (a1 : Member) (a2 : Src), Memory.wf a0.mem = true → Memory.wf (drop a0 a1 a2).mem = true) (hwf : Memory.wf s.mem = true) : NextWf (drainOp i fail drop s) := by
  unfold drainOp
  repeat' (with_reducible first | assumption | (intro _) | apply nextWf_next | apply nextWf_refused | apply wf_foldl | apply wf_foldl_fst | apply wf_deferMembers | apply wf_groupOp | apply wf_clearWaits | apply hf_drop | dsimp only | split)
theorem wf_execTlbinv (p : BitVec 3) (d a : BitVec 7) (s : State) (hwf : Memory.wf s.mem = true) : NextWf (execTlbinv p d a s) := by
  unfold execTlbinv
  repeat' (with_reducible first | assumption | (intro _) | apply nextWf_next | apply nextWf_refused | apply wf_tlbDrop | apply wf_drainOp | dsimp only | split)
theorem wf_clrDrop (s : State) (m : Member) (x : Src) (hwf : Memory.wf s.mem = true) : Memory.wf (clrDrop s m x).mem = true := by
  unfold clrDrop
  repeat' (with_reducible first | assumption | (intro _) | apply wf_ite | dsimp only | split)
theorem wf_execClrinv (p : BitVec 3) (d a : BitVec 7) (s : State) (hwf : Memory.wf s.mem = true) : NextWf (execClrinv p d a s) := by
  unfold execClrinv
  repeat' (with_reducible first | assumption | (intro _) | apply nextWf_next | apply nextWf_refused | apply wf_drainOp | apply wf_clrDrop | dsimp only | split)
theorem wf_roleRequests (s : State) (x : Src) (hwf : Memory.wf s.mem = true) : Memory.wf (roleRequests s x).mem = true := by
  unfold roleRequests
  repeat' (with_reducible first | assumption | (intro _) | apply wf_foldl | apply wf_foldl_fst | apply wf_ite | apply wf_updPcore | dsimp only | split)
theorem wf_execBankrole (p : BitVec 3) (d a : BitVec 7) (s : State) (hwf : Memory.wf s.mem = true) : NextWf (execBankrole p d a s) := by
  unfold execBankrole
  repeat' (with_reducible first | assumption | (intro _) | apply nextWf_next | apply nextWf_refused | apply wf_foldl | apply wf_foldl_fst | apply wf_ite | apply nextWf_ite | apply wf_effectOp | apply wf_roleRequests | dsimp only | split)
theorem wf_execRdclk (p : BitVec 3) (d a : BitVec 7) (s : State) (hwf : Memory.wf s.mem = true) : NextWf (execRdclk p d a s) := by
  unfold execRdclk
  repeat' (with_reducible first | assumption | (intro _) | apply nextWf_next | apply nextWf_refused | apply wf_readOnce | dsimp only | split)
theorem wf_execRand (p : BitVec 3) (d : BitVec 7) (s : State) (hwf : Memory.wf s.mem = true) : NextWf (execRand p d s) := by
  unfold execRand
  repeat' (with_reducible first | assumption | (intro _) | apply nextWf_next | apply nextWf_refused | apply wf_writeD | apply wf_forwards | apply wf_takeFwds | apply wf_groupOp | dsimp only | split)
theorem wf_execTrap (p : BitVec 3) (a : BitVec 7) (s : State) (hwf : Memory.wf s.mem = true) : NextWf (execTrap p a s) := by
  unfold execTrap
  repeat' (with_reducible first | assumption | (intro _) | apply nextWf_next | apply nextWf_refused | apply wf_groupOp | dsimp only | split)

/-! ### Save -/

theorem wf_putHeader (s : State) (part base used : Nat) (cores : Tbl Nat) (list : Nat × Nat) (hwf : Memory.wf s.mem = true) : Memory.wf (putHeader s part base used cores list).mem = true := by
  unfold putHeader
  repeat' (with_reducible first | assumption | (intro _) | apply wf_ite | apply wf_putNat | apply wf_putHome | dsimp only | split)
theorem wf_putLayout (s : State) (base : Nat) (l : Layout) (hwf : Memory.wf s.mem = true) : Memory.wf (putLayout s base l).mem = true := by
  unfold putLayout
  repeat' (with_reducible first | assumption | (intro _) | apply wf_foldl | apply wf_foldl_fst | apply wf_putHome | dsimp only | split)

/-! ### Trap -/

theorem wf_imageModes (s : State) (h : Nat) (hwf : Memory.wf s.mem = true) : Memory.wf (imageModes s h).mem = true := by
  unfold imageModes
  repeat' (with_reducible first | assumption | (intro _) | apply wf_ite | apply wf_putNat | dsimp only | split)
theorem wf_imageMasks (s : State) (w : Nat) (hwf : Memory.wf s.mem = true) : Memory.wf (imageMasks s w).mem = true := by
  unfold imageMasks
  repeat' (with_reducible first | assumption | (intro _) | apply wf_putHome | dsimp only | split)
theorem wf_updSaved (s : State) (w : Nat) (f : Warp → Warp) (hwf : Memory.wf s.mem = true) : Memory.wf (updSaved s w f).mem = true := by
  unfold updSaved
  repeat' (with_reducible first | assumption | (intro _) | dsimp only | split)
theorem wf_imageResume (s : State) (w : Nat) (hwf : Memory.wf s.mem = true) : Memory.wf (imageResume s w).mem = true := by
  unfold imageResume
  repeat' (with_reducible first | assumption | (intro _) | apply wf_foldl | apply wf_foldl_fst | apply wf_putNat | apply wf_updSaved | dsimp only | split)
theorem wf_imageLaneAt (s : State) (w l : Nat) (pc : Pair) (hwf : Memory.wf s.mem = true) : Memory.wf (imageLaneAt s w l pc).mem = true := by
  unfold imageLaneAt
  repeat' (with_reducible first | assumption | (intro _) | apply wf_ite | apply wf_putNat | apply wf_updSaved | dsimp only | split)
theorem wf_imageEnd (s : State) (w : Nat) (ls : List Nat) (hwf : Memory.wf s.mem = true) : Memory.wf (imageEnd s w ls).mem = true := by
  unfold imageEnd
  repeat' (with_reducible first | assumption | (intro _) | apply wf_imageMasks | apply wf_updSaved | dsimp only | split)
theorem wf_imageEret (s : State) (w action : Nat) (pc : Pair) (lanes : Nat) (hwf : Memory.wf s.mem = true) : Memory.wf (imageEret s w action pc lanes).mem = true := by
  unfold imageEret
  repeat' (with_reducible first | assumption | (intro _) | apply wf_foldl | apply wf_foldl_fst | apply wf_ite | apply wf_imageModes | apply wf_imageResume | apply wf_imageLaneAt | apply wf_imageEnd | dsimp only | split)
theorem wf_endStaged (s : State) (h : Nat) (hwf : Memory.wf s.mem = true) : Memory.wf (endStaged s h).mem = true := by
  unfold endStaged
  repeat' (with_reducible first | assumption | (intro _) | apply wf_foldl | apply wf_foldl_fst | apply wf_endThread | apply wf_resumeOne | dsimp only | split)
theorem wf_savedStaging (s : State) (h action : Nat) (hwf : Memory.wf s.mem = true) : Memory.wf (savedStaging s h action).mem = true := by
  unfold savedStaging
  repeat' (with_reducible first | assumption | (intro _) | apply wf_foldl | apply wf_foldl_fst | apply wf_ite | apply wf_imageModes | apply wf_imageResume | apply wf_imageEnd | dsimp only | split)
theorem wf_thawDie (s : State) (part die : Nat) (hwf : Memory.wf s.mem = true) : Memory.wf (thawDie s part die).mem = true := by
  unfold thawDie
  repeat' (with_reducible first | assumption | (intro _) | apply wf_foldl | apply wf_foldl_fst | apply wf_ite | apply wf_updPart | apply wf_resumeWarp | dsimp only | split)
theorem wf_answerAwait (s : State) (part : Nat) (a : Await) (action : Nat) (pc : Pair) (lanes : Nat) (hwf : Memory.wf s.mem = true) : Memory.wf (answerAwait s part a action pc lanes).1.mem = true := by
  unfold answerAwait
  repeat' (with_reducible first | assumption | (intro _) | apply wf_ite | apply wf_eretWarp | apply wf_updMat | apply wf_dropPosted | apply wf_resumeOp | apply wf_dropOp | apply wf_stageHolder | apply wf_imageEret | apply wf_endStaged | apply wf_savedStaging | apply wf_thawDie | dsimp only | split)
theorem wfe_answerAwait {s : State} {part : Nat} {a : Await} {action : Nat} {pc : Pair} {lanes : Nat} {t : State} {y : Nat} (e : (answerAwait s part a action pc lanes) = (t, y)) (hwf : Memory.wf s.mem = true) : Memory.wf t.mem = true := by
  have := wf_answerAwait s part a action pc lanes hwf; rw [e] at this; exact this
theorem wf_eretBlock (s : State) (pkg : Nat) (b : List Byte) (hwf : Memory.wf s.mem = true) : Memory.wf (eretBlock s pkg b).1.mem = true := by
  unfold eretBlock
  repeat' (with_reducible first | assumption | (intro _) | apply wf_ite | apply wf_dropAwait | apply wf_answerAwait | (apply wfe_answerAwait; assumption) | dsimp only | split)
theorem wfe_eretBlock {s : State} {pkg : Nat} {b : List Byte} {t : State} {y : Nat} (e : (eretBlock s pkg b) = (t, y)) (hwf : Memory.wf s.mem = true) : Memory.wf t.mem = true := by
  have := wf_eretBlock s pkg b hwf; rw [e] at this; exact this
theorem wf_eretMember (s : State) (m : Member) (x : Src) (hwf : Memory.wf s.mem = true) : Memory.wf (eretMember s m x).1.mem = true := by
  unfold eretMember
  repeat' (with_reducible first | assumption | (intro _) | apply wf_ite | apply wf_keepLoad | apply wf_accessTrace | apply wf_forward | apply wf_takeFwd | apply wf_eretBlock | (apply wfe_eretBlock; assumption) | dsimp only | split)
theorem wfe_eretMember {s : State} {m : Member} {x : Src} {t : State} {y : Nat} (e : (eretMember s m x) = (t, y)) (hwf : Memory.wf s.mem = true) : Memory.wf t.mem = true := by
  have := wf_eretMember s m x hwf; rw [e] at this; exact this
theorem wf_eretMembers (l : List (Member × Src)) (s : State) (hwf : Memory.wf s.mem = true) : Memory.wf (eretMembers l s).1.mem = true := by
  induction l generalizing s with
  | nil => unfold eretMembers; exact hwf
  | cons x t ih =>
    unfold eretMembers
    repeat' (with_reducible first | assumption | (intro _) | apply ih | apply wf_eretMember | (apply wfe_eretMember; assumption) | dsimp only | split)
theorem wfe_eretMembers {l : List (Member × Src)} {s : State} {t : State} {y : List (Member × Val)} (e : (eretMembers l s) = (t, y)) (hwf : Memory.wf s.mem = true) : Memory.wf t.mem = true := by
  have := wf_eretMembers l s hwf; rw [e] at this; exact this
theorem wf_execEret (p : BitVec 3) (d a : BitVec 7) (s : State) (hwf : Memory.wf s.mem = true) : NextWf (execEret p d a s) := by
  unfold execEret
  repeat' (with_reducible first | assumption | (intro _) | apply nextWf_next | apply nextWf_refused | apply wf_writeD | apply wf_groupOp | apply wf_eretMembers | (apply wfe_eretMembers; assumption) | dsimp only | split)
theorem wf_writeHeld (s : State) (k : Nat) (hwf : Memory.wf s.mem = true) : Memory.wf (writeHeld s k).mem = true := by
  unfold writeHeld
  repeat' (with_reducible first | assumption | (intro _) | apply wf_ite | apply wf_putHeldCount | apply wf_updPart | apply wf_putSlots | dsimp only | split)
theorem wf_execHeldFaultRecordWrite (s : State) (hwf : Memory.wf s.mem = true) : NextWf (execHeldFaultRecordWrite s) := by
  unfold execHeldFaultRecordWrite
  repeat' (with_reducible first | assumption | (intro _) | apply nextWf_next | apply nextWf_refused | apply wf_writeHeld | dsimp only | split)

/-! ### Contexts -/

theorem wf_stopPart (s : State) (part : Nat) (hwf : Memory.wf s.mem = true) : Memory.wf (stopPart s part).mem = true := by
  unfold stopPart
  repeat' (with_reducible first | assumption | (intro _) | apply wf_updPart | apply wf_requestStops | dsimp only | split)
theorem wf_freezePart (s : State) (part : Nat) (hwf : Memory.wf s.mem = true) : Memory.wf (freezePart s part).mem = true := by
  unfold freezePart
  repeat' (with_reducible first | assumption | (intro _) | apply wf_updPart | dsimp only | split)
theorem wf_thawPart (s : State) (part : Nat) (hwf : Memory.wf s.mem = true) : Memory.wf (thawPart s part).mem = true := by
  unfold thawPart
  repeat' (with_reducible first | assumption | (intro _) | apply wf_foldl | apply wf_foldl_fst | apply wf_updPart | apply wf_resumeWarp | dsimp only | split)
theorem wf_refreshSaved (s : State) (h : Nat) (hwf : Memory.wf s.mem = true) : Memory.wf (refreshSaved s h).mem = true := by
  unfold refreshSaved
  repeat' (with_reducible first | assumption | (intro _) | apply wf_foldl | apply wf_foldl_fst | apply wf_updSaved | dsimp only | split)
theorem wf_refreshEvents (s : State) (lk : Nat) (hwf : Memory.wf s.mem = true) : Memory.wf (refreshEvents s lk).mem = true := by
  unfold refreshEvents
  repeat' (with_reducible first | assumption | (intro _) | apply wf_ite | apply wf_updLcore | dsimp only | split)
theorem wf_refreshPart (s : State) (part : Nat) (hwf : Memory.wf s.mem = true) : Memory.wf (refreshPart s part).mem = true := by
  unfold refreshPart
  repeat' (with_reducible first | assumption | (intro _) | apply wf_foldl | apply wf_foldl_fst | apply wf_refreshSaved | apply wf_refreshEvents | dsimp only | split)
theorem wf_leaveCore (s : State) (h : Nat) (hwf : Memory.wf s.mem = true) : Memory.wf (leaveCore s h).mem = true := by
  unfold leaveCore
  repeat' (with_reducible first | assumption | (intro _) | apply wf_foldl | apply wf_foldl_fst | apply wf_updPcore | apply wf_dropFromQuarter | dsimp only | split)
theorem wf_dropReplica (s : State) (h : Nat) (hwf : Memory.wf s.mem = true) : Memory.wf (dropReplica s h).mem = true := by
  unfold dropReplica
  repeat' (with_reducible first | assumption | (intro _) | apply wf_foldl | apply wf_foldl_fst | apply wf_leaveCore | dsimp only | split)
theorem wf_moveOut (s : State) (base : Nat) (l : Layout) (h : Nat) (hwf : Memory.wf s.mem = true) : Memory.wf (moveOut s base l h).mem = true := by
  unfold moveOut
  repeat' (with_reducible first | assumption | (intro _) | apply wf_foldl | apply wf_foldl_fst | apply wf_dropReplica | apply wf_leaveCore | dsimp only | split)
theorem wf_moveSaved (s : State) (base : Nat) (l : Layout) (h : Nat) (hwf : Memory.wf s.mem = true) : Memory.wf (moveSaved s base l h).mem = true := by
  unfold moveSaved
  repeat' (with_reducible first | assumption | (intro _) | apply wf_foldl | apply wf_foldl_fst | dsimp only | split)
theorem wf_lcoreOut (s : State) (base : Nat) (l : Layout) (lk : Nat) (hwf : Memory.wf s.mem = true) : Memory.wf (lcoreOut s base l lk).mem = true := by
  unfold lcoreOut
  repeat' (with_reducible first | assumption | (intro _) | apply wf_updLcore | dsimp only | split)
theorem wf_takeOut (s : State) (base : Nat) (l : Layout) (hwf : Memory.wf s.mem = true) : Memory.wf (takeOut s base l).mem = true := by
  unfold takeOut
  repeat' (with_reducible first | assumption | (intro _) | apply wf_foldl | apply wf_foldl_fst | apply wf_ite | apply wf_moveOut | apply wf_moveSaved | dsimp only | split)
theorem wf_savePart (s : State) (part : Nat) (hwf : Memory.wf s.mem = true) : Memory.wf (savePart s part).1.mem = true := by
  unfold savePart
  repeat' (with_reducible first | assumption | (intro _) | apply wf_foldl | apply wf_foldl_fst | apply wf_ite | apply wf_updPart | apply wf_putHeader | apply wf_putLayout | apply wf_putLogs | apply wf_freezePart | apply wf_refreshPart | apply wf_lcoreOut | apply wf_takeOut | dsimp only | split)
theorem wfe_savePart {s : State} {part : Nat} {t : State} {y : Nat} (e : (savePart s part) = (t, y)) (hwf : Memory.wf s.mem = true) : Memory.wf t.mem = true := by
  have := wf_savePart s part hwf; rw [e] at this; exact this
theorem wf_ctxRun (step : State → Member → Src → State × Option Nat) (key : Src → Nat) (l : List (Member × Src)) (done : Tbl Nat)
    (stuck : Option Nat) (s : State) (hf : ∀ s m x, Memory.wf s.mem = true → Memory.wf (step s m x).1.mem = true)
 (hwf : Memory.wf s.mem = true) : Memory.wf (ctxRun step key l done stuck s).1.mem = true := by
  induction l generalizing done stuck s with
  | nil => exact hwf
  | cons e t ih =>
    unfold ctxRun
    dsimp only
    split
    · exact ih _ _ _ hwf
    · exact ih _ _ _ hwf
    · have h := hf s e.1 e.2 hwf
      split
      · rename_i s1 v hs
        rw [hs] at h
        exact ih _ _ _ h
      · rename_i s1 hs
        rw [hs] at h
        exact ih _ _ _ h
theorem wf_ctxOp (i : Instr) (hi : Nat) (step : State → Member → Src → State × Option Nat) (s : State)
    (hf : ∀ s m x, Memory.wf s.mem = true → Memory.wf (step s m x).1.mem = true) (hwf : Memory.wf s.mem = true) :
    NextWf (ctxOp i hi step s) := by
  unfold ctxOp
  refine wf_groupOp _ _ _ _ _ _ (fun s g l h => ?_) hwf
  repeat' (with_reducible first | assumption | (intro _) | apply wf_takeFwds | apply wf_forwards | apply wf_writeD | apply wf_deferMembers | apply wf_ctxRun | apply wf_clearWaits | apply hf | dsimp only | split)
theorem wf_haltStep (s : State) (m : Member) (x : Src) (hwf : Memory.wf s.mem = true) : Memory.wf (haltStep s m x).1.mem = true := by
  unfold haltStep
  repeat' (with_reducible first | assumption | (intro _) | apply wf_ite | apply wf_stopPart | apply wf_freezePart | dsimp only | split)
theorem wfe_haltStep {s : State} {m : Member} {x : Src} {t : State} {y : Option Nat} (e : (haltStep s m x) = (t, y)) (hwf : Memory.wf s.mem = true) : Memory.wf t.mem = true := by
  have := wf_haltStep s m x hwf; rw [e] at this; exact this
theorem wf_saveStep (s : State) (m : Member) (x : Src) (hwf : Memory.wf s.mem = true) : Memory.wf (saveStep s m x).1.mem = true := by
  unfold saveStep
  repeat' (with_reducible first | assumption | (intro _) | apply wf_ite | apply wf_stopPart | apply wf_savePart | (apply wfe_savePart; assumption) | dsimp only | split)
theorem wfe_saveStep {s : State} {m : Member} {x : Src} {t : State} {y : Option Nat} (e : (saveStep s m x) = (t, y)) (hwf : Memory.wf s.mem = true) : Memory.wf t.mem = true := by
  have := wf_saveStep s m x hwf; rw [e] at this; exact this
theorem wf_execHalt (p : BitVec 3) (a : BitVec 7) (s : State) (hwf : Memory.wf s.mem = true) : NextWf (execHalt p a s) := by
  unfold execHalt
  repeat' (with_reducible first | assumption | (intro _) | apply nextWf_next | apply nextWf_refused | apply wf_ctxOp | apply wf_haltStep | (apply wfe_haltStep; assumption) | dsimp only | split)
theorem wf_execSavectx (p : BitVec 3) (d a : BitVec 7) (s : State) (hwf : Memory.wf s.mem = true) : NextWf (execSavectx p d a s) := by
  unfold execSavectx
  repeat' (with_reducible first | assumption | (intro _) | apply nextWf_next | apply nextWf_refused | apply wf_ctxOp | apply wf_saveStep | (apply wfe_saveStep; assumption) | dsimp only | split)
theorem wf_recGrid (s : State) (part : Nat) (k : Khdr) (r : RecAt) (hwf : Memory.wf s.mem = true) : Memory.wf (recGrid s part k r).1.mem = true := by
  unfold recGrid
  repeat' (with_reducible first | assumption | (intro _) | dsimp only | split)
theorem wfe_recGrid {s : State} {part : Nat} {k : Khdr} {r : RecAt} {t : State} {y : Nat} (e : (recGrid s part k r) = (t, y)) (hwf : Memory.wf s.mem = true) : Memory.wf t.mem = true := by
  have := wf_recGrid s part k r hwf; rw [e] at this; exact this
theorem wf_enterWarp (s : State) (h : Nat) (e : Nat × Nat × Nat) (hwf : Memory.wf s.mem = true) : Memory.wf (enterWarp s h e).mem = true := by
  unfold enterWarp
  repeat' (with_reducible first | assumption | (intro _) | dsimp only | split)
theorem wf_enterNew (s : State) (part : Nat) (k : Khdr) (r : RecAt) (hwf : Memory.wf s.mem = true) : Memory.wf (enterNew s part k r).mem = true := by
  unfold enterNew
  repeat' (with_reducible first | assumption | (intro _) | apply wf_foldl | apply wf_foldl_fst | apply wf_ite | apply wf_recGrid | apply wf_enterWarp | apply wf_updGrid | dsimp only | split)
theorem wf_enterKnown (s : State) (h : Nat) (k : Khdr) (r : RecAt) (hwf : Memory.wf s.mem = true) : Memory.wf (enterKnown s h k r).mem = true := by
  unfold enterKnown
  repeat' (with_reducible first | assumption | (intro _) | apply wf_foldl | apply wf_foldl_fst | apply wf_updSaved | apply wf_enterWarp | dsimp only | split)
theorem wf_dropUnknown (s : State) (part : Nat) (hwf : Memory.wf s.mem = true) : Memory.wf (dropUnknown s part).mem = true := by
  unfold dropUnknown
  repeat' (with_reducible first | assumption | (intro _) | dsimp only | split)
theorem wf_enterOps (s : State) (part : Nat) (hwf : Memory.wf s.mem = true) : Memory.wf (enterOps s part).mem = true := by
  unfold enterOps
  repeat' (with_reducible first | assumption | (intro _) | apply wf_foldl | apply wf_foldl_fst | apply wf_updOp | dsimp only | split)
theorem wf_enterFlags (s : State) (part : Nat) (hwf : Memory.wf s.mem = true) : Memory.wf (enterFlags s part).mem = true := by
  unfold enterFlags
  repeat' (with_reducible first | assumption | (intro _) | apply wf_foldl | apply wf_foldl_fst | dsimp only | split)
theorem wf_enterCounters (s : State) (part : Nat) (hwf : Memory.wf s.mem = true) : Memory.wf (enterCounters s part).mem = true := by
  unfold enterCounters
  repeat' (with_reducible first | assumption | (intro _) | apply wf_foldl | apply wf_foldl_fst | apply wf_ite | apply wf_updTimeline | dsimp only | split)
theorem wf_enterHeader (s : State) (part : Nat) (hwf : Memory.wf s.mem = true) : Memory.wf (enterHeader s part).mem = true := by
  unfold enterHeader
  repeat' (with_reducible first | assumption | (intro _) | apply wf_ite | apply wf_updCtx | apply wf_enterCounters | apply wf_updPart | dsimp only | split)
theorem wf_enterAwaits (s : State) (part : Nat) (hwf : Memory.wf s.mem = true) : Memory.wf (enterAwaits s part).mem = true := by
  unfold enterAwaits
  repeat' (with_reducible first | assumption | (intro _) | apply wf_foldl | apply wf_foldl_fst | apply wf_ite | apply wf_addAwait | dsimp only | split)
theorem wf_raiseCores (s : State) (part : Nat) (hwf : Memory.wf s.mem = true) : Memory.wf (raiseCores s part).mem = true := by
  unfold raiseCores
  repeat' (with_reducible first | assumption | (intro _) | apply wf_updPart | dsimp only)
theorem wf_enterCores (s : State) (part : Nat) (hwf : Memory.wf s.mem = true) : Memory.wf (enterCores s part).mem = true := by
  unfold enterCores
  repeat' (with_reducible first | assumption | (intro _) | apply wf_foldl | apply wf_foldl_fst | apply wf_ite | apply wf_updLcore | dsimp only | split)
theorem wf_savedLogs (s : State) (part : Nat) (hwf : Memory.wf s.mem = true) : Memory.wf (savedLogs s part).mem = true := by
  unfold savedLogs
  repeat' (with_reducible first | assumption | (intro _) | apply wf_ite | dsimp only | split)
theorem wf_retiredLog (s : State) (part i : Nat) (hwf : Memory.wf s.mem = true) : Memory.wf (retiredLog s part i).mem = true := by
  unfold retiredLog
  repeat' (with_reducible first | assumption | (intro _) | apply wf_ite | apply wf_updGrid | dsimp only | split)
theorem wf_enterLogs (s : State) (part : Nat) (hwf : Memory.wf s.mem = true) : Memory.wf (enterLogs s part).mem = true := by
  unfold enterLogs
  repeat' (with_reducible first | assumption | (intro _) | apply wf_foldl | apply wf_foldl_fst | apply wf_ite | apply wf_retiredLog | apply wf_savedLogs | dsimp only | split)
theorem wf_settleCounters (s : State) (ctx : Nat) (hwf : Memory.wf s.mem = true) : Memory.wf (settleCounters s ctx).mem = true := by
  unfold settleCounters
  repeat' (with_reducible first | assumption | (intro _) | apply wf_foldl | apply wf_ite | apply wf_updTimeline | dsimp only | split)
theorem wf_enterArea (s : State) (part : Nat) (hwf : Memory.wf s.mem = true) : Memory.wf (enterArea s part).mem = true := by
  unfold enterArea
  repeat' (with_reducible first | assumption | (intro _) | apply wf_settleCounters | apply wf_foldl | apply wf_foldl_fst | apply wf_enterKnown | apply wf_enterNew | apply wf_dropUnknown | apply wf_loadGaz | apply wf_raiseCores | apply wf_enterCores | apply wf_enterLogs | apply wf_enterHeader | apply wf_returnRanges | apply wf_enterAwaits | apply wf_enterFlags | apply wf_enterOps | dsimp only | split)
theorem wf_restStep (s : State) (m : Member) (x : Src) (hwf : Memory.wf s.mem = true) : Memory.wf (restStep s m x).1.mem = true := by
  unfold restStep
  repeat' (with_reducible first | assumption | (intro _) | apply wf_ite | apply wf_thawPart | apply wf_enterArea | dsimp only | split)
theorem wfe_restStep {s : State} {m : Member} {x : Src} {t : State} {y : Option Nat} (e : (restStep s m x) = (t, y)) (hwf : Memory.wf s.mem = true) : Memory.wf t.mem = true := by
  have := wf_restStep s m x hwf; rw [e] at this; exact this
theorem wf_execRestctx (p : BitVec 3) (d a : BitVec 7) (s : State) (hwf : Memory.wf s.mem = true) : NextWf (execRestctx p d a s) := by
  unfold execRestctx
  repeat' (with_reducible first | assumption | (intro _) | apply nextWf_next | apply nextWf_refused | apply wf_ctxOp | apply wf_restStep | (apply wfe_restStep; assumption) | dsimp only | split)
theorem wf_enterCore (s : State) (c h : Nat) (f : SavedFit) (hwf : Memory.wf s.mem = true) : Memory.wf (enterCore s c h f).mem = true := by
  unfold enterCore
  repeat' (with_reducible first | assumption | (intro _) | apply wf_foldl | apply wf_foldl_fst | apply wf_ownBanks | apply wf_dropBelow | apply wf_enterQuarter | dsimp only | split)
theorem wf_placeLeader (s : State) (h c : Nat) (f : SavedFit) (hwf : Memory.wf s.mem = true) : Memory.wf (placeLeader s h c f).mem = true := by
  unfold placeLeader
  repeat' (with_reducible first | assumption | (intro _) | apply wf_foldl | apply wf_foldl_fst | apply wf_enterCore | dsimp only | split)
theorem wf_placeCopy (s : State) (h rep c : Nat) (f : SavedFit) (hwf : Memory.wf s.mem = true) : Memory.wf (placeCopy s h rep c f).mem = true := by
  unfold placeCopy
  repeat' (with_reducible first | assumption | (intro _) | apply wf_enterCore | dsimp only | split)
theorem wf_settlePlaced (s : State) (h : Nat) (hwf : Memory.wf s.mem = true) : Memory.wf (settlePlaced s h).mem = true := by
  unfold settlePlaced
  repeat' (with_reducible first | assumption | (intro _) | apply wf_foldl | apply wf_foldl_fst | apply wf_ite | apply wf_testBarriers | apply wf_reapWg | apply wf_retireWg | apply wf_endThread | apply wf_stageHolder | dsimp only | split)
theorem wf_placeFurther (s0 : State) (g : Wg) (h n rep : Nat) (got : List Nat) (s : State) (hwf : Memory.wf s.mem = true) :
    SomeWf (placeFurther s0 g h n rep got s) := by
  induction n generalizing rep got s with
  | zero => exact someWf_some hwf
  | succ n ih =>
    unfold placeFurther
    dsimp only
    split
    · exact someWf_none
    · exact ih _ _ _ (wf_placeCopy _ _ _ _ _ hwf)
theorem wf_placeSaved? (s : State) (h c : Nat) (hwf : Memory.wf s.mem = true) : SomeWf (placeSaved? s h c) := by
  unfold placeSaved?
  repeat' (with_reducible first | assumption | (intro _) | apply someWf_some | apply someWf_none | apply wf_placeFurther | apply wf_placeLeader | dsimp only | split)
theorem wfe_placeSaved? {s : State} {h c : Nat} {t : State} (e : (placeSaved? s h c) = some t) (hwf : Memory.wf s.mem = true) : Memory.wf t.mem = true := by
  exact wf_placeSaved? s h c hwf _ e
theorem wf_placeAllSaved? (c : Nat) (l : List Nat) (s : State) (hwf : Memory.wf s.mem = true) : SomeWf (placeAllSaved? c l s) := by
  induction l generalizing s with
  | nil => unfold placeAllSaved?; exact someWf_some hwf
  | cons x t ih =>
    unfold placeAllSaved?
    repeat' (with_reducible first | assumption | (intro _) | apply ih | apply someWf_some | apply someWf_none | apply wf_placeSaved? | (apply wfe_placeSaved?; assumption) | dsimp only | split)
theorem wfe_placeAllSaved? {c : Nat} {l : List Nat} {s : State} {t : State} (e : (placeAllSaved? c l s) = some t) (hwf : Memory.wf s.mem = true) : Memory.wf t.mem = true := by
  exact wf_placeAllSaved? c l s hwf _ e
theorem wf_eventsBack (s : State) (lk : Nat) (hwf : Memory.wf s.mem = true) : Memory.wf (eventsBack s lk).mem = true := by
  unfold eventsBack
  repeat' (with_reducible first | assumption | (intro _) | apply wf_ite | apply wf_updLcore | dsimp only | split)
theorem wf_placeLcore? (s : State) (lk c : Nat) (hwf : Memory.wf s.mem = true) : SomeWf (placeLcore? s lk c) := by
  intro t e
  unfold placeLcore? at e
  obtain ⟨u, hx, he⟩ := Option.map_eq_some_iff.1 e
  rw [← he]
  refine wf_foldl _ _ _ (fun s x h => wf_settlePlaced _ _ h) (wf_eventsBack _ _ ?_)
  exact wf_placeAllSaved? _ _ _ (wf_updLcore _ _ _ hwf) u hx
theorem wf_placeLinked? (hall : Nat) (l : List Nat) (s : State) (hwf : Memory.wf s.mem = true) : SomeWf (placeLinked? hall l s) := by
  induction l generalizing s with
  | nil => exact someWf_some hwf
  | cons lk t ih =>
    unfold placeLinked?
    split
    · exact someWf_none
    · rename_i s1 h
      obtain ⟨c, -, hc⟩ := List.exists_of_findSome?_eq_some h
      exact ih s1 (wf_placeLcore? _ _ _ hwf s1 hc)
theorem wfe_placeLinked? {hall : Nat} {l : List Nat} {s t : State} (e : placeLinked? hall l s = some t) (hwf : Memory.wf s.mem = true) :
    Memory.wf t.mem = true := wf_placeLinked? hall l s hwf t e
theorem wf_lcorePlaced? (s : State) (lk c : Nat) (hwf : Memory.wf s.mem = true) : SomeWf (lcorePlaced? s lk c) := by
  unfold lcorePlaced?
  split
  · split
    · exact someWf_none
    · rename_i s1 h
      exact wf_placeLinked? _ _ _ (wf_placeLcore? _ _ _ hwf s1 h)
  · exact someWf_none
theorem wfe_lcorePlaced? {s : State} {lk c : Nat} {t : State} (e : lcorePlaced? s lk c = some t) (hwf : Memory.wf s.mem = true) :
    Memory.wf t.mem = true := wf_lcorePlaced? s lk c hwf t e
theorem wf_execLogicalCorePlacement (s : State) (hwf : Memory.wf s.mem = true) : NextWf (execLogicalCorePlacement s) := by
  unfold execLogicalCorePlacement
  repeat' (with_reducible first | assumption | (intro _) | apply nextWf_next | apply nextWf_refused | apply wf_lcorePlaced? | (apply wfe_lcorePlaced?; assumption) | dsimp only | split)
theorem wf_saveHolders (s : State) (part : Nat) (l : List (Nat × List Nat)) (hwf : Memory.wf s.mem = true) : Memory.wf (saveHolders s part l).mem = true := by
  unfold saveHolders
  repeat' (with_reducible first | assumption | (intro _) | apply wf_foldl | apply wf_foldl_fst | apply wf_ite | apply wf_refreshSaved | apply wf_refreshEvents | apply wf_takeOut | apply wf_putLayout | apply wf_putHeader | apply wf_updLcore | apply wf_lcoreOut | dsimp only | split)
theorem wf_emptied (s : State) (hs : List Nat) (hwf : Memory.wf s.mem = true) : Memory.wf (emptied s hs).mem = true := by
  unfold emptied
  repeat' (with_reducible first | assumption | (intro _) | apply wf_foldl | apply wf_foldl_fst | apply wf_moveOut | dsimp only | split)
theorem wf_vacateSave (s : State) (c : Nat) (hwf : Memory.wf s.mem = true) : Memory.wf (vacateSave s c).mem = true := by
  unfold vacateSave
  repeat' (with_reducible first | assumption | (intro _) | apply wf_foldl | apply wf_foldl_fst | apply wf_ite | apply wf_updPcore | apply wf_saveHolders | apply wf_resumeWarp | dsimp only | split)
theorem wf_execVacateReservedCore (s : State) (hwf : Memory.wf s.mem = true) : NextWf (execVacateReservedCore s) := by
  unfold execVacateReservedCore
  repeat' (with_reducible first | assumption | (intro _) | apply nextWf_next | apply nextWf_refused | apply wf_ite | apply nextWf_ite | apply wf_updPcore | apply wf_requestStops | apply wf_vacateSave | dsimp only | split)

/-! ### Control -/

theorem wf_xferOp (i : Instr) (target : State → Group → List (Member × Src) → Member → Src → Option Pair) (link : Bool) (s : State) (hwf : Memory.wf s.mem = true) : NextWf (xferOp i target link s) := by
  unfold xferOp
  repeat' (with_reducible first | assumption | (intro _) | apply nextWf_next | apply nextWf_refused | apply wf_foldl | apply wf_foldl_fst | apply wf_ite | apply nextWf_ite | apply wf_updGroup | apply wf_writeD | apply wf_standBefore | apply wf_dropMembers | apply wf_takeTrap | apply wf_groupOp | apply wf_fetchTrace | dsimp only | split)
theorem wf_execBra (p : BitVec 3) (o : BitVec 23) (s : State) (hwf : Memory.wf s.mem = true) : NextWf (execBra p o s) := by
  unfold execBra
  repeat' (with_reducible first | assumption | (intro _) | apply nextWf_next | apply nextWf_refused | apply wf_xferOp | dsimp only | split)
theorem wf_execBrcAny (p : BitVec 3) (d a : BitVec 7) (s : State) (hwf : Memory.wf s.mem = true) : NextWf (execBrcAny p d a s) := by
  unfold execBrcAny
  repeat' (with_reducible first | assumption | (intro _) | apply nextWf_next | apply nextWf_refused | apply wf_ite | apply nextWf_ite | apply wf_xferOp | dsimp only | split)
theorem wf_execBrcAll (p : BitVec 3) (d a : BitVec 7) (s : State) (hwf : Memory.wf s.mem = true) : NextWf (execBrcAll p d a s) := by
  unfold execBrcAll
  repeat' (with_reducible first | assumption | (intro _) | apply nextWf_next | apply nextWf_refused | apply wf_ite | apply nextWf_ite | apply wf_xferOp | dsimp only | split)
theorem wf_execCall (p : BitVec 3) (d a : BitVec 7) (s : State) (hwf : Memory.wf s.mem = true) : NextWf (execCall p d a s) := by
  unfold execCall
  repeat' (with_reducible first | assumption | (intro _) | apply nextWf_next | apply nextWf_refused | apply wf_xferOp | dsimp only | split)
theorem wf_execRet (p : BitVec 3) (a : BitVec 7) (s : State) (hwf : Memory.wf s.mem = true) : NextWf (execRet p a s) := by
  unfold execRet
  repeat' (with_reducible first | assumption | (intro _) | apply nextWf_next | apply nextWf_refused | apply wf_xferOp | dsimp only | split)
theorem wf_execJmpi (p : BitVec 3) (a : BitVec 7) (s : State) (hwf : Memory.wf s.mem = true) : NextWf (execJmpi p a s) := by
  unfold execJmpi
  repeat' (with_reducible first | assumption | (intro _) | apply nextWf_next | apply nextWf_refused | apply wf_xferOp | dsimp only | split)
theorem wf_execExitT (p : BitVec 3) (s : State) (hwf : Memory.wf s.mem = true) : NextWf (execExitT p s) := by
  unfold execExitT
  repeat' (with_reducible first | assumption | (intro _) | apply nextWf_next | apply nextWf_refused | apply wf_updGroup | apply wf_groupOp | dsimp only | split)
theorem wf_execNop (p : BitVec 3) (s : State) (hwf : Memory.wf s.mem = true) : NextWf (execNop p s) := by
  unfold execNop
  repeat' (with_reducible first | assumption | (intro _) | apply nextWf_next | apply nextWf_refused | apply wf_effectOp | dsimp only | split)
theorem wf_execYield (p : BitVec 3) (s : State) (hwf : Memory.wf s.mem = true) : NextWf (execYield p s) := by
  unfold execYield
  repeat' (with_reducible first | assumption | (intro _) | apply nextWf_next | apply nextWf_refused | apply wf_ite | apply nextWf_ite | apply wf_updGroup | apply wf_effectOp | dsimp only | split)
theorem wf_execConvW (s : State) (hwf : Memory.wf s.mem = true) : NextWf (execConvW s) := by
  unfold execConvW
  repeat' (with_reducible first | assumption | (intro _) | apply nextWf_next | apply nextWf_refused | apply wf_effectOp | dsimp only | split)
theorem wf_execWbase (p : BitVec 3) (a : BitVec 7) (s : State) (hwf : Memory.wf s.mem = true) : NextWf (execWbase p a s) := by
  unfold execWbase
  repeat' (with_reducible first | assumption | (intro _) | apply nextWf_next | apply nextWf_refused | apply wf_foldl | apply wf_foldl_fst | apply wf_ite | apply nextWf_ite | apply wf_updWarp | apply wf_groupOp | dsimp only | split)
theorem wf_execPermutationPrefix (a b : BitVec 9) (s : State) (hwf : Memory.wf s.mem = true) : NextWf (execPermutationPrefix a b s) := by
  unfold execPermutationPrefix
  repeat' (with_reducible first | assumption | (intro _) | apply nextWf_next | apply nextWf_refused | apply wf_updGroup | apply wf_retire | dsimp only | split)

/-! ### Monitor -/

theorem wf_countAt (s : State) (part c : Nat) (hwf : Memory.wf s.mem = true) : Memory.wf (countAt s part c).mem = true := by
  unfold countAt
  repeat' (with_reducible first | assumption | (intro _) | apply wf_updPart | dsimp only | split)
theorem wf_countWarp (s : State) (s1 : State) (w : Nat) (hwf : Memory.wf s.mem = true) (hwf1 : Memory.wf s1.mem = true) : Memory.wf (countWarp s s1 w).mem = true := by
  unfold countWarp
  repeat' (with_reducible first | assumption | (intro _) | apply wf_countAt | dsimp only | split)
theorem wf_countPkg (s1 : State) (ctx pkg : Nat) (hwf1 : Memory.wf s1.mem = true) : Memory.wf (countPkg s1 ctx pkg).mem = true := by
  unfold countPkg
  repeat' (with_reducible first | assumption | (intro _) | apply wf_foldl | apply wf_updPart | split)
theorem wf_countCross (s1 : State) (part c a : Nat) (hwf1 : Memory.wf s1.mem = true) : Memory.wf (countCross s1 part c a).mem = true := by
  unfold countCross
  repeat' (with_reducible first | assumption | apply wf_countPkg | apply wf_countAt | split)
theorem wf_countUnit (s s1 : State) (id : Nat) (hwf1 : Memory.wf s1.mem = true) : Memory.wf (countUnit s s1 id).mem = true := by
  unfold countUnit
  repeat' (with_reducible first | assumption | (intro _) | apply wf_ite | apply wf_countCross | dsimp only | split)
theorem wf_countStair (s1 : State) (gid l : Nat) (hwf1 : Memory.wf s1.mem = true) : Memory.wf (countStair s1 gid l).mem = true := by
  unfold countStair
  repeat' (with_reducible first | assumption | apply wf_countPkg | dsimp only | split)
theorem wf_countDone (i : Instr) (s s1 : State) (hwf : Memory.wf s.mem = true) (hwf1 : Memory.wf s1.mem = true) : Memory.wf (countDone i s s1).mem = true := by
  unfold countDone
  repeat' (with_reducible first | assumption | (intro _) | apply wf_foldl | apply wf_foldl_fst | apply wf_ite | apply wf_loadReturn | apply wf_countAt | apply wf_countWarp | apply wf_countCross | apply wf_countUnit | apply wf_countStair | dsimp only | split)
theorem wf_startWindows (s s1 : State) (hwf1 : Memory.wf s1.mem = true) : Memory.wf (startWindows s s1).mem = true := by
  unfold startWindows
  repeat' (with_reducible first | assumption | (intro _) | apply wf_foldl | apply wf_updPart | dsimp only | split)
theorem wf_countEvents (i : Instr) (s s1 : State) (hwf : Memory.wf s.mem = true) (hwf1 : Memory.wf s1.mem = true) : Memory.wf (countEvents i s s1).mem = true :=
  wf_startWindows _ _ (wf_countDone _ _ _ hwf hwf1)
theorem wf_stallPart (s : State) (part die : Nat) (hwf : Memory.wf s.mem = true) : Memory.wf (stallPart s part die).mem = true := by
  unfold stallPart
  repeat' (with_reducible first | assumption | (intro _) | apply wf_foldl | apply wf_foldl_fst | apply wf_putHome | apply wf_requestStops | apply wf_updPart | apply wf_countFault | apply wf_addAwait | apply wf_appendFault | dsimp only | split)
theorem wf_execStall (s : State) (hwf : Memory.wf s.mem = true) : NextWf (execStall s) := by
  unfold execStall
  repeat' (with_reducible first | assumption | (intro _) | apply nextWf_next | apply nextWf_refused | apply wf_ite | apply nextWf_ite | apply wf_stallPart | dsimp only | split)

/-! ### Scheduler -/

theorem wf_updQuarter (s : State) (q : Nat) (f : Quarter → Quarter) (hwf : Memory.wf s.mem = true) : Memory.wf (updQuarter s q f).mem = true := by
  unfold updQuarter
  repeat' (with_reducible first | assumption | (intro _) | apply wf_updPcore | dsimp only | split)
theorem wf_entryTrap (s : State) (ms : List Member) (mk : Nat → Nat → Trap) (hwf : Memory.wf s.mem = true) : Memory.wf (entryTrap s ms mk).mem = true := by
  unfold entryTrap
  repeat' (with_reducible first | assumption | (intro _) | apply wf_foldl | apply wf_foldl_fst | apply wf_takeTrap | dsimp only | split)
theorem wf_startGroup (s : State) (q : Nat) (c : Clause) (ms : List Member) (hwf : Memory.wf s.mem = true) : Memory.wf (startGroup s q c ms).mem = true := by
  unfold startGroup
  repeat' (with_reducible first | assumption | (intro _) | apply wf_foldl | apply wf_foldl_fst | apply wf_ite | apply wf_fetchTrace | apply wf_updThr | apply wf_updWg | dsimp only | split)
theorem wf_issueGroup (s : State) (q : Nat) (ms : List Member) (hwf : Memory.wf s.mem = true) : Memory.wf (issueGroup s q ms).mem = true := by
  unfold issueGroup
  repeat' (with_reducible first | assumption | (intro _) | apply wf_foldl | apply wf_foldl_fst | apply wf_ite | apply wf_entryTrap | apply wf_stopThread | apply wf_startGroup | dsimp only | split)
theorem wf_issueClause (s : State) (q : Nat) (hwf : Memory.wf s.mem = true) : Memory.wf (issueClause s q).mem = true := by
  unfold issueClause
  repeat' (with_reducible first | assumption | (intro _) | apply wf_ite | apply wf_updQuarter | apply wf_issueGroup | dsimp only | split)
theorem wf_execClauseIssue (s : State) (hwf : Memory.wf s.mem = true) : NextWf (execClauseIssue s) := by
  unfold execClauseIssue
  repeat' (with_reducible first | assumption | (intro _) | apply nextWf_next | apply nextWf_refused | apply wf_ite | apply nextWf_ite | apply wf_issueClause | dsimp only | split)
theorem wf_rotate (s : State) (q : Nat) (hwf : Memory.wf s.mem = true) : Memory.wf (rotate s q).mem = true := by
  unfold rotate
  repeat' (with_reducible first | assumption | (intro _) | apply wf_updQuarter | dsimp only | split)
theorem wf_execRotationPoint (s : State) (hwf : Memory.wf s.mem = true) : NextWf (execRotationPoint s) := by
  unfold execRotationPoint
  repeat' (with_reducible first | assumption | (intro _) | apply nextWf_next | apply nextWf_refused | apply wf_ite | apply nextWf_ite | apply wf_rotate | dsimp only | split)
theorem wf_landFp (s : State) (w l : Nat) (f : BitVec 6) (hwf : Memory.wf s.mem = true) : Memory.wf (landFp s w l f).mem = true := by
  unfold landFp
  repeat' (with_reducible first | assumption | (intro _) | apply wf_ite | apply wf_updThr | apply wf_putNat | dsimp only | split)
theorem wf_landReturn (s : State) (id : Nat) (hwf : Memory.wf s.mem = true) : Memory.wf (landReturn s id).mem = true := by
  unfold landReturn
  repeat' (with_reducible first | assumption | (intro _) | apply wf_foldl | apply wf_foldl_fst | apply wf_ite | apply wf_landWrite | apply wf_landFp | apply wf_lowerFlag | apply wf_readBefore | apply wf_imageReturned | apply wf_settleWarp | dsimp only | split)
theorem wf_execLoadReturn (s : State) (hwf : Memory.wf s.mem = true) : NextWf (execLoadReturn s) := by
  unfold execLoadReturn
  repeat' (with_reducible first | assumption | (intro _) | apply nextWf_next | apply nextWf_refused | apply wf_ite | apply nextWf_ite | apply wf_landReturn | dsimp only | split)
theorem wf_execLongLatencyCompletion (s : State) (hwf : Memory.wf s.mem = true) : NextWf (execLongLatencyCompletion s) := by
  unfold execLongLatencyCompletion
  repeat' (with_reducible first | assumption | (intro _) | apply nextWf_next | apply nextWf_refused | apply wf_ite | apply nextWf_ite | apply wf_tileStep | apply wf_landReturn | dsimp only | split)
theorem wf_stepWrite (s : State) (id : Nat) (w : PWrite) (hwf : Memory.wf s.mem = true) : Memory.wf (stepWrite s id w).mem = true := by
  unfold stepWrite
  repeat' (with_reducible first | assumption | (intro _) | apply wf_dropCopiesOf | dsimp only | split)
theorem wf_execWritePerformedAtScope (s : State) (hwf : Memory.wf s.mem = true) : NextWf (execWritePerformedAtScope s) := by
  unfold execWritePerformedAtScope
  repeat' (with_reducible first | assumption | (intro _) | apply nextWf_next | apply nextWf_refused | apply wf_ite | apply nextWf_ite | apply wf_stepWrite | dsimp only | split)
theorem wf_mergeWrite (s : State) (id : Nat) (hwf : Memory.wf s.mem = true) : Memory.wf (mergeWrite s id).mem = true := by
  unfold mergeWrite
  repeat' (with_reducible first | assumption | (intro _) | apply wf_ite | apply wf_dropCopiesOf | apply wf_putChipBytes | apply wf_putHome | apply wf_settleWarp | dsimp only | split)
theorem wf_execWriteBackMerge (s : State) (hwf : Memory.wf s.mem = true) : NextWf (execWriteBackMerge s) := by
  unfold execWriteBackMerge
  repeat' (with_reducible first | assumption | (intro _) | apply nextWf_next | apply nextWf_refused | apply wf_ite | apply nextWf_ite | apply wf_mergeWrite | dsimp only | split)

end Sys2Proof.Machine
end

