-- ==== Sys2Proof/Laws/CanonicalPackage.lean ====
section
/-! SUPPORT. Memory keeps its canonical form under checkpoints, replicas and packages: one lemma for each definition that answers a state. -/

namespace Sys2Proof.Machine

set_option linter.unusedVariables false

/-! ### Surveyor -/

theorem wf_updCkpt (s : State) (ctx : Nat) (f : Ckpt → Ckpt) (hwf : Memory.wf s.mem = true) : Memory.wf (updCkpt s ctx f).mem = true := by
  unfold updCkpt
  repeat' (with_reducible first | assumption | (intro _) | apply wf_updCtx | dsimp only | split)
theorem wf_beginCut (s : State) (ctx : Nat) (hwf : Memory.wf s.mem = true) : Memory.wf (beginCut s ctx).mem = true := by
  unfold beginCut
  repeat' (with_reducible first | assumption | (intro _) | apply wf_foldl | apply wf_foldl_fst | apply wf_ite | apply wf_stopPart | apply wf_updCkpt | dsimp only | split)
theorem wf_requestCut (s : State) (ctx : Nat) (hwf : Memory.wf s.mem = true) : Memory.wf (requestCut s ctx).mem = true := by
  unfold requestCut
  repeat' (with_reducible first | assumption | (intro _) | apply wf_ite | apply wf_updCkpt | apply wf_beginCut | dsimp only | split)
theorem wf_nextInterval (s : State) (ctx : Nat) (hwf : Memory.wf s.mem = true) : Memory.wf (nextInterval s ctx).mem = true := by
  unfold nextInterval
  repeat' (with_reducible first | assumption | (intro _) | apply wf_updCkpt | dsimp only | split)
theorem wf_execCutIntervalExpiry (s : State) (hwf : Memory.wf s.mem = true) : NextWf (execCutIntervalExpiry s) := by
  unfold execCutIntervalExpiry
  repeat' (with_reducible first | assumption | (intro _) | apply nextWf_next | apply nextWf_refused | apply wf_ite | apply nextWf_ite | apply wf_requestCut | apply wf_nextInterval | dsimp only | split)
theorem wf_putRing (s : State) (part off : Nat) (b : List Byte) (hwf : Memory.wf s.mem = true) : Memory.wf (putRing s part off b).mem = true := by
  unfold putRing
  repeat' (with_reducible first | assumption | (intro _) | apply wf_putHome | dsimp only | split)
theorem wf_placeRecord (s : State) (part : Nat) (b : List Byte) (hwf : Memory.wf s.mem = true) : Memory.wf (placeRecord s part b).mem = true := by
  unfold placeRecord
  repeat' (with_reducible first | assumption | (intro _) | apply wf_updPart | apply wf_putNat | apply wf_putRing | dsimp only | split)
theorem wfe_appendRecord {s : State} {part : Nat} {b : List Byte} {t : State} (e : appendRecord s part b = .ok t)
 (hwf : Memory.wf s.mem = true) : Memory.wf t.mem = true := by
  rw [appendRecord] at e
  split at e
  · cases e
  · split at e
    · cases e
    · rw [← Except.ok.inj e]
      exact wf_placeRecord _ _ _ hwf
theorem wf_serveWaits (s : State) (ctx cut : Nat) (hwf : Memory.wf s.mem = true) : Memory.wf (serveWaits s ctx cut).mem = true := by
  unfold serveWaits
  repeat' (with_reducible first | assumption | (intro _) | apply wf_foldl | apply wf_foldl_fst | apply wf_completeNumber | apply wf_updCkpt | dsimp only | split)
theorem wf_closeCut (s : State) (ctx cut : Nat) (hwf : Memory.wf s.mem = true) : Memory.wf (closeCut s ctx cut).mem = true := by
  unfold closeCut
  repeat' (with_reducible first | assumption | (intro _) | apply wf_foldl | apply wf_foldl_fst | apply wf_ite | apply wf_updPart | apply wf_updCkpt | apply wf_beginCut | apply wf_serveWaits | dsimp only | split)
theorem wf_resumeCores (s : State) (ctx : Nat) (hwf : Memory.wf s.mem = true) : Memory.wf (resumeCores s ctx).mem = true := by
  unfold resumeCores
  repeat' (with_reducible first | assumption | (intro _) | apply wf_foldl | apply wf_foldl_fst | apply wf_ite | apply wf_updPart | apply wf_resumeWarp | dsimp only | split)
theorem wf_failCut (s : State) (ctx part : Nat) (c : Cause) (hwf : Memory.wf s.mem = true) : Memory.wf (failCut s ctx part c).mem = true := by
  unfold failCut
  repeat' (with_reducible first | assumption | (intro _) | apply wf_foldl | apply wf_foldl_fst | apply wf_ite | apply wf_updPart | apply wf_appendFault | apply wf_closeCut | apply wf_resumeCores | dsimp only | split)
theorem wf_copyHeader (s : State) (part base : Nat) (hwf : Memory.wf s.mem = true) : Memory.wf (copyHeader s part base).mem = true := by
  unfold copyHeader
  repeat' (with_reducible first | assumption | (intro _) | apply wf_ite | apply wf_putHome | dsimp only | split)
theorem wf_protect (s : State) (l : List (Nat × Nat)) (hwf : Memory.wf s.mem = true) : Memory.wf (protect s l).mem = true := by
  unfold protect
  repeat' (with_reducible first | assumption | (intro _) | dsimp only | split)
theorem wf_snapWrite (s s0 : State) (part : Nat) (l : Layout) (ops : Nat × Nat) (hwf0 : Memory.wf s0.mem = true) : Memory.wf (snapWrite s s0 part l ops).mem = true := by
  unfold snapWrite
  repeat' (with_reducible first | assumption | (intro _) | apply wf_copyHeader | apply wf_putHeader | apply wf_putLayout | apply wf_protect | apply wf_updPart | dsimp only | split)
theorem wfe_snapPart {s : State} {part : Nat} {t : State} (e : snapPart s part = .ok t)
 (hwf : Memory.wf s.mem = true) : Memory.wf t.mem = true := by
  rw [snapPart] at e
  split at e
  · cases e
  · rw [← Except.ok.inj e]
    exact wf_snapWrite _ _ _ _ _ (wf_refreshPart _ _ hwf)
theorem wf_snapParts (ctx : Nat) (l : List Nat) (s : State) (hwf : Memory.wf s.mem = true) : Memory.wf (snapParts ctx l s).mem = true := by
  induction l generalizing s with
  | nil => unfold snapParts; exact hwf
  | cons x t ih =>
    unfold snapParts
    repeat' (with_reducible first | assumption | (intro _) | apply ih | apply wf_failCut | (apply wfe_snapPart; assumption) | dsimp only | split)
theorem wf_cutInstant (s : State) (ctx : Nat) (hwf : Memory.wf s.mem = true) : Memory.wf (cutInstant s ctx).mem = true := by
  unfold cutInstant
  repeat' (with_reducible first | assumption | (intro _) | apply wf_ite | apply wf_updCkpt | apply wf_resumeCores | apply wf_snapParts | dsimp only | split)
theorem wf_execCutInstant (s : State) (hwf : Memory.wf s.mem = true) : NextWf (execCutInstant s) := by
  unfold execCutInstant
  repeat' (with_reducible first | assumption | (intro _) | apply nextWf_next | apply nextWf_refused | apply wf_ite | apply nextWf_ite | apply wf_cutInstant | dsimp only | split)
theorem wf_unitWritten (s : State) (part : Nat) (e : Nat × Nat) (hwf : Memory.wf s.mem = true) : Memory.wf (unitWritten s part e).mem = true := by
  unfold unitWritten
  repeat' (with_reducible first | assumption | (intro _) | apply wf_ite | apply wf_updPart | apply wf_updCkpt | dsimp only | split)
theorem wf_writeUnit (s : State) (ctx part : Nat) (e : Nat × Nat) (hwf : Memory.wf s.mem = true) : Memory.wf (writeUnit s ctx part e).mem = true := by
  unfold writeUnit
  repeat' (with_reducible first | assumption | (intro _) | (apply wfe_appendRecord; assumption) | apply wf_failCut | apply wf_unitWritten | dsimp only | split)
theorem wf_writeManifest (s : State) (ctx part : Nat) (hwf : Memory.wf s.mem = true) : Memory.wf (writeManifest s ctx part).mem = true := by
  unfold writeManifest
  repeat' (with_reducible first | assumption | (intro _) | apply wf_updPart | (apply wfe_appendRecord; assumption) | apply wf_failCut | dsimp only | split)
theorem wf_execCutRecordWrite (s : State) (hwf : Memory.wf s.mem = true) : NextWf (execCutRecordWrite s) := by
  unfold execCutRecordWrite
  repeat' (with_reducible first | assumption | (intro _) | apply nextWf_next | apply nextWf_refused | apply wf_ite | apply nextWf_ite | apply wf_updCkpt | apply wf_writeUnit | apply wf_writeManifest | dsimp only | split)
theorem wf_cutDurable (s : State) (ctx : Nat) (hwf : Memory.wf s.mem = true) : Memory.wf (cutDurable s ctx).mem = true := by
  unfold cutDurable
  repeat' (with_reducible first | assumption | (intro _) | apply wf_foldl | apply wf_foldl_fst | apply wf_putNat | apply wf_updCkpt | apply wf_closeCut | dsimp only | split)
theorem wf_execCutDurable (s : State) (hwf : Memory.wf s.mem = true) : NextWf (execCutDurable s) := by
  unfold execCutDurable
  repeat' (with_reducible first | assumption | (intro _) | apply nextWf_next | apply nextWf_refused | apply wf_ite | apply nextWf_ite | apply wf_cutDurable | dsimp only | split)
theorem wf_execProtectedUnitWrite (s : State) (hwf : Memory.wf s.mem = true) : NextWf (execProtectedUnitWrite s) := by
  unfold execProtectedUnitWrite
  repeat' (with_reducible first | assumption | (intro _) | apply nextWf_next | apply nextWf_refused | apply wf_ite | apply nextWf_ite | apply wf_writeUnit | dsimp only | split)
theorem wf_streamWrite? (s : State) (ctx u : Nat) (hwf : Memory.wf s.mem = true) : SomeWf (streamWrite? s ctx u) := by
  unfold streamWrite?
  repeat' (with_reducible first | assumption | (intro _) | apply someWf_some | apply someWf_none | apply wf_ite | apply someWf_ite | (apply wfe_appendRecord; assumption) | apply wf_unitWritten | dsimp only | split)
theorem wfe_streamWrite? {s : State} {ctx u : Nat} {t : State} (e : (streamWrite? s ctx u) = some t) (hwf : Memory.wf s.mem = true) : Memory.wf t.mem = true := by
  exact wf_streamWrite? s ctx u hwf _ e
theorem wf_execStreamUnitWrite (s : State) (hwf : Memory.wf s.mem = true) : NextWf (execStreamUnitWrite s) := by
  unfold execStreamUnitWrite
  repeat' (with_reducible first | assumption | (intro _) | apply nextWf_next | apply nextWf_refused | apply wf_streamWrite? | (apply wfe_streamWrite?; assumption) | dsimp only | split)
theorem wf_costUpdate (s : State) (ctx : Nat) (hwf : Memory.wf s.mem = true) : Memory.wf (costUpdate s ctx).mem = true := by
  unfold costUpdate
  repeat' (with_reducible first | assumption | (intro _) | apply wf_foldl | apply wf_foldl_fst | apply wf_updPart | apply wf_putNat | dsimp only | split)
theorem wf_execSavecostUpdate (s : State) (hwf : Memory.wf s.mem = true) : NextWf (execSavecostUpdate s) := by
  unfold execSavecostUpdate
  repeat' (with_reducible first | assumption | (intro _) | apply nextWf_next | apply nextWf_refused | apply wf_ite | apply nextWf_ite | apply wf_costUpdate | dsimp only | split)
theorem wf_ckptTake (s : State) (ctx k : Nat) (hwf : Memory.wf s.mem = true) : Memory.wf (ckptTake s ctx k).mem = true := by
  unfold ckptTake
  repeat' (with_reducible first | assumption | (intro _) | apply wf_ite | apply wf_takeNumber | apply wf_updCkpt | dsimp only | split)
theorem wf_execCkpt (p : BitVec 3) (d a : BitVec 7) (s : State) (hwf : Memory.wf s.mem = true) : NextWf (execCkpt p d a s) := by
  unfold execCkpt
  repeat' (with_reducible first | assumption | (intro _) | apply nextWf_next | apply nextWf_refused | apply wf_foldl | apply wf_foldl_fst | apply wf_ite | apply nextWf_ite | apply wf_writeD | apply wf_forwards | apply wf_takeFwds | apply wf_groupOp | apply wf_requestCut | apply wf_ckptTake | dsimp only | split)
theorem wf_putKept (s : State) (a : Nat) (data : List Byte) (hwf : Memory.wf s.mem = true) :
    Memory.wf (putKept s a data).mem = true := by
  unfold putKept
  apply wf_markUnits
  exact wf_bmSetAll _ _ hwf
theorem wf_rollMemory (s : State) (part cut : Nat) (hwf : Memory.wf s.mem = true) : Memory.wf (rollMemory s part cut).mem = true := by
  unfold rollMemory
  repeat' (with_reducible first | assumption | (intro _) | apply wf_foldl | apply wf_foldl_fst | apply wf_ite | apply wf_putKept | dsimp only | split)
theorem wf_rollBuffer (s : State) (part cut : Nat) (hwf : Memory.wf s.mem = true) : Memory.wf (rollBuffer s part cut).mem = true := by
  unfold rollBuffer
  repeat' (with_reducible first | assumption | (intro _) | apply wf_foldl | apply wf_foldl_fst | apply wf_putHome | dsimp only | split)
theorem wf_dropWork (s : State) (ctx : Nat) (hwf : Memory.wf s.mem = true) : Memory.wf (dropWork s ctx).mem = true := by
  unfold dropWork
  repeat' (with_reducible first | assumption | (intro _) | apply wf_foldl | apply wf_foldl_fst | apply wf_leaveCore | dsimp only | split)
theorem wf_rollPart (s : State) (part : Nat) (hwf : Memory.wf s.mem = true) : Memory.wf (rollPart s part).mem = true := by
  unfold rollPart
  repeat' (with_reducible first | assumption | (intro _) | apply wf_ite | apply wf_updPart | apply wf_enterArea | apply wf_freezePart | dsimp only | split)
theorem wf_rollBack (s : State) (ctx : Nat) (hwf : Memory.wf s.mem = true) : Memory.wf (rollBack s ctx).mem = true := by
  unfold rollBack
  repeat' (with_reducible first | assumption | (intro _) | apply wf_foldl | apply wf_foldl_fst | apply wf_rollBuffer | apply wf_rollMemory | apply wf_dropWork | apply wf_serveWaits | apply wf_rollPart | apply wf_updCkpt | dsimp only | split)
theorem wf_abandonCut (s : State) (ctx : Nat) (hwf : Memory.wf s.mem = true) : Memory.wf (abandonCut s ctx).mem = true := by
  unfold abandonCut
  repeat' (with_reducible first | assumption | (intro _) | apply wf_foldl | apply wf_foldl_fst | apply wf_ite | apply wf_updPart | apply wf_updCkpt | dsimp only | split)

/-! ### Replica -/

theorem wf_performHeld (s : State) (w : Nat) (h : HoldEntry) (hwf : Memory.wf s.mem = true) : Memory.wf (performHeld s w h).mem = true := by
  unfold performHeld
  repeat' (with_reducible first | assumption | (intro _) | apply wf_ite | apply wf_appendLog | apply wf_putChipBytes | apply wf_pushWrite | dsimp only | split)
theorem wf_agree (s : State) (w : Nat) (hwf : Memory.wf s.mem = true) : Memory.wf (agree s w).mem = true := by
  unfold agree
  repeat' (with_reducible first | assumption | (intro _) | apply wf_foldl | apply wf_foldl_fst | apply wf_updWarp | apply wf_freeWarp | apply wf_trapWarp | apply wf_performHeld | dsimp only | split)
theorem wf_makeLeader (s : State) (h : Nat) (hwf : Memory.wf s.mem = true) : Memory.wf (makeLeader s h).mem = true := by
  unfold makeLeader
  repeat' (with_reducible first | assumption | (intro _) | apply wf_foldl | apply wf_foldl_fst | apply wf_ite | apply wf_updWg | apply wf_updGrid | dsimp only | split)
theorem wf_copyWarp (s : State) (w v : Nat) (hwf : Memory.wf s.mem = true) : Memory.wf (copyWarp s w v).mem = true := by
  unfold copyWarp
  repeat' (with_reducible first | assumption | (intro _) | apply wf_updWarp | dsimp only | split)
theorem wf_addWarp (s : State) (h v : Nat) (hwf : Memory.wf s.mem = true) : Memory.wf (addWarp s h v).mem = true := by
  unfold addWarp
  repeat' (with_reducible first | assumption | (intro _) | apply wf_ite | apply wf_updWg | apply wf_enterQuarter | apply wf_copyWarp | dsimp only | split)
theorem wf_cutWarp (s : State) (h w : Nat) (hwf : Memory.wf s.mem = true) : Memory.wf (cutWarp s h w).mem = true := by
  unfold cutWarp
  repeat' (with_reducible first | assumption | (intro _) | apply wf_updWg | apply wf_dropFromQuarter | dsimp only | split)
theorem wf_rebuild (s : State) (bad good : Nat) (hwf : Memory.wf s.mem = true) : Memory.wf (rebuild s bad good).mem = true := by
  unfold rebuild
  repeat' (with_reducible first | assumption | (intro _) | apply wf_foldl | apply wf_foldl_fst | apply wf_ite | apply wf_updWg | apply wf_pullFromGroups | apply wf_copyWarp | apply wf_addWarp | apply wf_cutWarp | dsimp only | split)
theorem wf_outvote (s : State) (bad : Nat) (good : Nat) (hwf : Memory.wf s.mem = true) : Memory.wf (outvote s bad good).mem = true := by
  unfold outvote
  repeat' (with_reducible first | assumption | (intro _) | apply wf_ite | apply wf_updCtx | apply wf_appendFault | apply wf_makeLeader | apply wf_rebuild | dsimp only | split)
theorem wf_mismatch (s : State) (w : Nat) (hwf : Memory.wf s.mem = true) : Memory.wf (mismatch s w).mem = true := by
  unfold mismatch
  repeat' (with_reducible first | assumption | (intro _) | apply wf_foldl | apply wf_foldl_fst | apply wf_ite | apply wf_updWarp | apply wf_appendFault | apply wf_stopPart | apply wf_freezePart | apply wf_rollBack | apply wf_abandonCut | dsimp only | split)
theorem wf_decideCompare (s : State) (w : Nat) (hwf : Memory.wf s.mem = true) : Memory.wf (decideCompare s w).mem = true := by
  unfold decideCompare
  repeat' (with_reducible first | assumption | (intro _) | apply wf_ite | apply wf_agree | apply wf_outvote | apply wf_mismatch | dsimp only | split)
theorem wf_execReplicaComparison (s : State) (hwf : Memory.wf s.mem = true) : NextWf (execReplicaComparison s) := by
  unfold execReplicaComparison
  repeat' (with_reducible first | assumption | (intro _) | apply nextWf_next | apply nextWf_refused | apply wf_ite | apply nextWf_ite | apply wf_decideCompare | dsimp only | split)
theorem wf_execHoldAgeExpiry (s : State) (hwf : Memory.wf s.mem = true) : NextWf (execHoldAgeExpiry s) := by
  unfold execHoldAgeExpiry
  repeat' (with_reducible first | assumption | (intro _) | apply nextWf_next | apply nextWf_refused | apply wf_foldl | apply wf_foldl_fst | apply wf_ite | apply nextWf_ite | apply wf_updWarp | dsimp only | split)
theorem wf_execReplicaUncorrectableError (s : State) (hwf : Memory.wf s.mem = true) : NextWf (execReplicaUncorrectableError s) := by
  unfold execReplicaUncorrectableError
  repeat' (with_reducible first | assumption | (intro _) | apply nextWf_next | apply wf_updWarp | apply nextWf_refused | apply wf_ite | apply nextWf_ite | apply wf_takeTrap | apply wf_pullFromGroups | apply wf_outvote | dsimp only | split)
theorem wf_execSigchk (p : BitVec 3) (d a : BitVec 7) (s : State) (hwf : Memory.wf s.mem = true) : NextWf (execSigchk p d a s) := by
  unfold execSigchk
  repeat' (with_reducible first | assumption | (intro _) | apply nextWf_next | apply nextWf_refused | apply wf_ite | apply nextWf_ite | apply wf_writeD | apply wf_groupOpE | apply wf_clearWaits | dsimp only | split)
theorem wf_execReplq (p : BitVec 3) (d a : BitVec 7) (s : State) (hwf : Memory.wf s.mem = true) : NextWf (execReplq p d a s) := by
  unfold execReplq
  repeat' (with_reducible first | assumption | (intro _) | apply nextWf_next | apply nextWf_refused | apply wf_ite | apply nextWf_ite | apply wf_readOnce | dsimp only | split)

/-! ### Reliability -/

theorem wf_mbPut (s : State) (p off : Nat) (data : List Byte) (hwf : Memory.wf s.mem = true) : Memory.wf (mbPut s p off data).mem = true := by
  unfold mbPut
  repeat' (with_reducible first | assumption | (intro _) | apply wf_updPkg | dsimp only | split)
theorem wf_appendEvent (s : State) (p kind unit count value : Nat) (hwf : Memory.wf s.mem = true) : Memory.wf (appendEvent s p kind unit count value).mem = true := by
  unfold appendEvent
  repeat' (with_reducible first | assumption | (intro _) | apply wf_ite | apply wf_mbPut | dsimp only | split)
theorem wf_logError (s : State) (p kind r : Nat) (hwf : Memory.wf s.mem = true) : Memory.wf (logError s p kind r).mem = true := by
  unfold logError
  repeat' (with_reducible first | assumption | (intro _) | apply wf_updPkg | dsimp only | split)
theorem wf_enterHot (s : State) (p r : Nat) (hwf : Memory.wf s.mem = true) : Memory.wf (enterHot s p r).mem = true := by
  unfold enterHot
  repeat' (with_reducible first | assumption | (intro _) | apply wf_ite | apply wf_updPkg | dsimp only | split)
theorem wf_remapRow (s : State) (p r : Nat) (hwf : Memory.wf s.mem = true) : Memory.wf (remapRow s p r).mem = true := by
  unfold remapRow
  repeat' (with_reducible first | assumption | (intro _) | apply wf_ite | apply wf_updPkg | apply wf_logError | dsimp only | split)
theorem wf_reportPage (s0 : State) (p r : Nat) (s : State) (page : Nat) (hwf : Memory.wf s0.mem = true) (hwf1 : Memory.wf s.mem = true) : Memory.wf (reportPage s0 p r s page).mem = true := by
  unfold reportPage
  repeat' (with_reducible first | assumption | (intro _) | apply wf_updPkg | apply wf_appendEvent | dsimp only | split)
theorem wf_reportPages (s : State) (p r : Nat) (hwf : Memory.wf s.mem = true) : Memory.wf (reportPages s p r).mem = true :=
  wf_foldl _ _ _ (fun t x h => wf_reportPage s p r t x hwf h) hwf
theorem wf_raiseScore (s : State) (p r score count last : Nat) (hwf : Memory.wf s.mem = true) : Memory.wf (raiseScore s p r score count last).mem = true := by
  unfold raiseScore
  repeat' (with_reducible first | assumption | (intro _) | apply wf_ite | apply wf_updPkg | apply wf_remapRow | apply wf_reportPages | dsimp only | split)
theorem wf_execScrubRow (s : State) (hwf : Memory.wf s.mem = true) : NextWf (execScrubRow s) := by
  unfold execScrubRow
  repeat' (with_reducible first | assumption | (intro _) | apply nextWf_next | apply nextWf_refused | apply wf_ite | apply nextWf_ite | apply wf_updPkg | dsimp only | split)
theorem wf_execHotRowAgeOut (s : State) (hwf : Memory.wf s.mem = true) : NextWf (execHotRowAgeOut s) := by
  unfold execHotRowAgeOut
  repeat' (with_reducible first | assumption | (intro _) | apply nextWf_next | apply nextWf_refused | apply wf_ite | apply nextWf_ite | apply wf_updPkg | dsimp only | split)
theorem wf_execScoreHalving (s : State) (hwf : Memory.wf s.mem = true) : NextWf (execScoreHalving s) := by
  unfold execScoreHalving
  repeat' (with_reducible first | assumption | (intro _) | apply nextWf_next | apply nextWf_refused | apply wf_ite | apply nextWf_ite | apply wf_updPkg | dsimp only | split)
theorem wf_correctRow (s : State) (p r : Nat) (hwf : Memory.wf s.mem = true) : Memory.wf (correctRow s p r).mem = true := by
  unfold correctRow
  repeat' (with_reducible first | assumption | (intro _) | apply wf_logError | apply wf_enterHot | apply wf_raiseScore | dsimp only | split)
theorem wf_correctError (s : State) (p l : Nat) (hwf : Memory.wf s.mem = true) : Memory.wf (correctError s p l).mem = true := by
  unfold correctError
  repeat' (with_reducible first | assumption | (intro _) | apply wf_ite | apply wf_updPkg | apply wf_correctRow | dsimp only | split)
theorem wf_execCorrectedError (s : State) (hwf : Memory.wf s.mem = true) : NextWf (execCorrectedError s) := by
  unfold execCorrectedError
  repeat' (with_reducible first | assumption | (intro _) | apply nextWf_next | apply nextWf_refused | apply wf_ite | apply nextWf_ite | apply wf_correctError | dsimp only | split)
theorem wf_poisonAt (s : State) (a : Nat) (hwf : Memory.wf s.mem = true) : Memory.wf (poisonAt s a).mem = true := by
  unfold poisonAt
  repeat' (with_reducible first | assumption | (intro _) | dsimp only | split)
theorem wf_loseSector (s : State) (p l : Nat) (hwf : Memory.wf s.mem = true) : Memory.wf (loseSector s p l).mem = true := by
  unfold loseSector
  repeat' (with_reducible first | assumption | (intro _) | apply wf_ite | apply wf_updPkg | apply wf_logError | apply wf_raiseScore | apply wf_poisonAt | dsimp only | split)
theorem wf_execUncorrectableError (s : State) (hwf : Memory.wf s.mem = true) : NextWf (execUncorrectableError s) := by
  unfold execUncorrectableError
  repeat' (with_reducible first | assumption | (intro _) | apply nextWf_next | apply nextWf_refused | apply wf_ite | apply nextWf_ite | apply wf_loseSector | dsimp only | split)
theorem wf_reportRun (p k : Nat) (s : State) (e : Nat × Nat) (hwf : Memory.wf s.mem = true) : Memory.wf (reportRun p k s e).mem = true := by
  unfold reportRun
  repeat' (with_reducible first | assumption | (intro _) | apply wf_appendEvent | dsimp only | split)
theorem wf_reportStack (p c : Nat) (s : State) (k : Nat) (hwf : Memory.wf s.mem = true) : Memory.wf (reportStack p c s k).mem = true := by
  unfold reportStack
  repeat' (with_reducible first | assumption | (intro _) | apply wf_foldl | apply wf_foldl_fst | apply wf_reportRun | dsimp only | split)
theorem wf_loseChannel (s : State) (p c : Nat) (hwf : Memory.wf s.mem = true) : Memory.wf (loseChannel s p c).mem = true := by
  rw [loseChannel]
  repeat' (with_reducible first | assumption | (intro _) | apply wf_foldl | apply wf_foldl_fst | apply wf_updPkg | apply wf_reportStack | dsimp only | split)
theorem wf_execRemapTableError (s : State) (hwf : Memory.wf s.mem = true) : NextWf (execRemapTableError s) := by
  unfold execRemapTableError
  repeat' (with_reducible first | assumption | (intro _) | apply nextWf_next | apply nextWf_refused | apply wf_ite | apply nextWf_ite | apply wf_updPkg | apply wf_loseChannel | dsimp only | split)

/-! ### Fabric -/

theorem wf_updPort (s : State) (p i : Nat) (f : Port → Port) (hwf : Memory.wf s.mem = true) : Memory.wf (updPort s p i f).mem = true := by
  unfold updPort
  repeat' (with_reducible first | assumption | (intro _) | apply wf_updPkg | dsimp only | split)
theorem wf_agentWrite (s : State) (a key : Nat) (data : List Byte) (hwf : Memory.wf s.mem = true) : Memory.wf (agentWrite s a key data).mem = true := by
  unfold agentWrite
  repeat' (with_reducible first | assumption | (intro _) | apply wf_putHome | dsimp only | split)
theorem wf_sendFlit (s : State) (p : Nat) (b : List Byte) (hwf : Memory.wf s.mem = true) : Memory.wf (sendFlit s p b).mem = true := by
  unfold sendFlit
  repeat' (with_reducible first | assumption | (intro _) | apply wf_ite | apply wf_updPkg | apply wf_updPort | dsimp only | split)
theorem wf_flitRead (s : State) (p : Nat) (f : BitVec 512) (hwf : Memory.wf s.mem = true) : Memory.wf (flitRead s p f).mem = true := by
  unfold flitRead
  repeat' (with_reducible first | assumption | (intro _) | apply wf_ite | apply wf_sendFlit | dsimp only | split)
theorem wf_flitWrite (s : State) (p : Nat) (f : BitVec 512) (hwf : Memory.wf s.mem = true) : Memory.wf (flitWrite s p f).mem = true := by
  unfold flitWrite
  repeat' (with_reducible first | assumption | (intro _) | apply wf_ite | apply wf_poisonAt | apply wf_agentWrite | apply wf_sendFlit | dsimp only | split)
theorem wf_flitAtomic (s : State) (p : Nat) (f : BitVec 512) (hwf : Memory.wf s.mem = true) : Memory.wf (flitAtomic s p f).mem = true := by
  unfold flitAtomic
  repeat' (with_reducible first | assumption | (intro _) | apply wf_tookFree | apply wf_agentWrite | apply wf_sendFlit | dsimp only | split)
theorem wf_actFlit (s : State) (p : Nat) (f : BitVec 512) (hwf : Memory.wf s.mem = true) : Memory.wf (actFlit s p f).mem = true := by
  unfold actFlit
  repeat' (with_reducible first | assumption | (intro _) | apply wf_ite | apply wf_sendFlit | apply wf_flitRead | apply wf_flitWrite | apply wf_flitAtomic | dsimp only | split)
theorem wf_receiveFlit (s : State) (p i : Nat) (f : BitVec 512) (hwf : Memory.wf s.mem = true) : Memory.wf (receiveFlit s p i f).mem = true := by
  unfold receiveFlit
  repeat' (with_reducible first | assumption | (intro _) | apply wf_ite | apply wf_updPort | apply wf_actFlit | dsimp only | split)
theorem wf_execFlitReceive (s : State) (hwf : Memory.wf s.mem = true) : NextWf (execFlitReceive s) := by
  unfold execFlitReceive
  repeat' (with_reducible first | assumption | (intro _) | apply nextWf_next | apply nextWf_refused | apply wf_ite | apply nextWf_ite | apply wf_receiveFlit | dsimp only | split)
theorem wf_portDown (s : State) (p i : Nat) (hwf : Memory.wf s.mem = true) : Memory.wf (portDown s p i).mem = true := by
  unfold portDown
  repeat' (with_reducible first | assumption | (intro _) | apply wf_appendEvent | apply wf_updPort | dsimp only | split)
theorem wf_drainPort (s : State) (p i : Nat) (hwf : Memory.wf s.mem = true) : Memory.wf (drainPort s p i).mem = true := by
  unfold drainPort
  repeat' (with_reducible first | assumption | (intro _) | apply wf_foldl | apply wf_foldl_fst | apply wf_ite | apply wf_updPkg | apply wf_updPort | apply wf_sendFlit | dsimp only | split)
theorem wf_drainAll (s : State) (p : Nat) (hwf : Memory.wf s.mem = true) : Memory.wf (drainAll s p).mem = true := by
  unfold drainAll
  repeat' (with_reducible first | assumption | (intro _) | apply wf_foldl | apply wf_foldl_fst | apply wf_ite | apply wf_drainPort | dsimp only | split)
theorem wf_execPortRetrainEnd (s : State) (hwf : Memory.wf s.mem = true) : NextWf (execPortRetrainEnd s) := by
  unfold execPortRetrainEnd
  repeat' (with_reducible first | assumption | (intro _) | apply nextWf_next | apply nextWf_refused | apply wf_ite | apply nextWf_ite | apply wf_updPort | apply wf_portDown | apply wf_drainAll | dsimp only | split)
theorem wf_execLinkDown (s : State) (hwf : Memory.wf s.mem = true) : NextWf (execLinkDown s) := by
  unfold execLinkDown
  repeat' (with_reducible first | assumption | (intro _) | apply nextWf_next | apply nextWf_refused | apply wf_ite | apply nextWf_ite | apply wf_portDown | dsimp only | split)
theorem wf_execRdmaSendWake (s : State) (hwf : Memory.wf s.mem = true) : NextWf (execRdmaSendWake s) := by
  unfold execRdmaSendWake
  repeat' (with_reducible first | assumption | (intro _) | apply nextWf_next | apply nextWf_refused | apply wf_ite | apply nextWf_ite | apply wf_updPort | dsimp only | split)
theorem wf_execRdmaCompletion (s : State) (hwf : Memory.wf s.mem = true) : NextWf (execRdmaCompletion s) := by
  unfold execRdmaCompletion
  repeat' (with_reducible first | assumption | (intro _) | apply nextWf_next | apply nextWf_refused | apply wf_ite | apply nextWf_ite | apply wf_updPort | dsimp only | split)
theorem wf_inboundWrite (s : State) (p ctxid va : Nat) (data : List Byte) (hwf : Memory.wf s.mem = true) : Memory.wf (inboundWrite s p ctxid va data).mem = true := by
  unfold inboundWrite
  repeat' (with_reducible first | assumption | (intro _) | apply wf_ite | apply wf_fillTlb | apply wf_agentWrite | dsimp only | split)
theorem wf_execRdmaInboundWrite (s : State) (hwf : Memory.wf s.mem = true) : NextWf (execRdmaInboundWrite s) := by
  unfold execRdmaInboundWrite
  repeat' (with_reducible first | assumption | (intro _) | apply nextWf_next | apply nextWf_refused | apply wf_ite | apply nextWf_ite | apply wf_inboundWrite | dsimp only | split)
theorem wf_execHostBar2Write (s : State) (hwf : Memory.wf s.mem = true) : NextWf (execHostBar2Write s) := by
  unfold execHostBar2Write
  repeat' (with_reducible first | assumption | (intro _) | apply nextWf_next | apply nextWf_refused | apply wf_ite | apply nextWf_ite | apply wf_agentWrite | dsimp only | split)
theorem wf_execHostCxlMemAccess (s : State) (hwf : Memory.wf s.mem = true) : NextWf (execHostCxlMemAccess s) := by
  unfold execHostCxlMemAccess
  repeat' (with_reducible first | assumption | (intro _) | apply nextWf_next | apply nextWf_refused | apply wf_ite | apply nextWf_ite | apply wf_agentWrite | dsimp only | split)

/-! ### Mailbox -/

theorem wf_respond (s : State) (p status cause res : Nat) (hwf : Memory.wf s.mem = true) : Memory.wf (respond s p status cause res).mem = true := by
  unfold respond
  repeat' (with_reducible first | assumption | (intro _) | apply wf_updPkg | apply wf_mbPut | dsimp only | split)
theorem wf_answerDone (s : State) (p res : Nat) (hwf : Memory.wf s.mem = true) : Memory.wf (answerDone s p res).mem = true := by
  unfold answerDone
  repeat' (with_reducible first | assumption | (intro _) | apply wf_respond | dsimp only | split)
theorem wf_answerRefused (s : State) (p : Nat) (c : Cause) (hwf : Memory.wf s.mem = true) : Memory.wf (answerRefused s p c).mem = true := by
  unfold answerRefused
  repeat' (with_reducible first | assumption | (intro _) | apply wf_respond | dsimp only | split)
theorem wf_answerBusy (s : State) (p : Nat) (hwf : Memory.wf s.mem = true) : Memory.wf (answerBusy s p).mem = true := by
  unfold answerBusy
  repeat' (with_reducible first | assumption | (intro _) | apply wf_updPkg | apply wf_mbPut | dsimp only | split)
theorem wf_oneStep (s : State) (p : Nat) (bad : Option Cause) (run : State → State)  (hf_run : ∀ (a0 : State), Memory.wf a0.mem = true → Memory.wf (run a0).mem = true) (hwf : Memory.wf s.mem = true) : Memory.wf (oneStep s p bad run).mem = true := by
  unfold oneStep
  repeat' (with_reducible first | assumption | (intro _) | apply wf_answerRefused | apply hf_run | dsimp only | split)
theorem wf_longCmd (s : State) (p : Nat) (bad : Option Cause) (start : State → State) (stuck ready : State → Bool) (finish : State → State)  (hf_start : ∀ (a0 : State), Memory.wf a0.mem = true → Memory.wf (start a0).mem = true) (hf_finish : ∀ (a0 : State), Memory.wf a0.mem = true → Memory.wf (finish a0).mem = true) (hwf : Memory.wf s.mem = true) : NextWf (longCmd s p bad start stuck ready finish) := by
  unfold longCmd
  repeat' (with_reducible first | assumption | (intro _) | apply nextWf_next | apply nextWf_refused | apply wf_ite | apply nextWf_ite | apply wf_answerRefused | apply wf_answerBusy | apply hf_start | apply hf_finish | dsimp only | split)
theorem wf_areaWrite (s : State) (p off : Nat) (data : List Byte) (hwf : Memory.wf s.mem = true) : Memory.wf (areaWrite s p off data).mem = true := by
  unfold areaWrite
  repeat' (with_reducible first | assumption | (intro _) | apply wf_foldl | apply wf_foldl_fst | apply wf_ite | apply wf_mbPut | dsimp only | split)
theorem wf_execMailboxAreaWrite (s : State) (hwf : Memory.wf s.mem = true) : NextWf (execMailboxAreaWrite s) := by
  unfold execMailboxAreaWrite
  repeat' (with_reducible first | assumption | (intro _) | apply nextWf_next | apply nextWf_refused | apply wf_ite | apply nextWf_ite | apply wf_areaWrite | dsimp only | split)
theorem wf_execUnknownOpcode (s : State) (hwf : Memory.wf s.mem = true) : NextWf (execUnknownOpcode s) := by
  unfold execUnknownOpcode
  repeat' (with_reducible first | assumption | (intro _) | apply nextWf_next | apply nextWf_refused | apply wf_ite | apply nextWf_ite | apply wf_respond | dsimp only | split)
theorem wf_createCtx (s : State) (p n : Nat) (hwf : Memory.wf s.mem = true) : Memory.wf (createCtx s p n).mem = true := by
  unfold createCtx
  repeat' (with_reducible first | assumption | (intro _) | apply wf_answerDone | dsimp only | split)
theorem wf_execCreateContext (s : State) (hwf : Memory.wf s.mem = true) : NextWf (execCreateContext s) := by
  unfold execCreateContext
  repeat' (with_reducible first | assumption | (intro _) | apply nextWf_next | apply nextWf_refused | apply wf_ite | apply nextWf_ite | apply wf_answerRefused | apply wf_createCtx | dsimp only | split)
theorem wf_haltParts (s : State) (ks : List Nat) (hwf : Memory.wf s.mem = true) : Memory.wf (haltParts s ks).mem = true := by
  unfold haltParts
  repeat' (with_reducible first | assumption | (intro _) | apply wf_foldl | apply wf_foldl_fst | apply wf_ite | apply wf_stopPart | dsimp only | split)
theorem wf_removeCtx (s : State) (ctx : Nat) (hwf : Memory.wf s.mem = true) : Memory.wf (removeCtx s ctx).mem = true := by
  unfold removeCtx
  repeat' (with_reducible first | assumption | (intro _) | apply wf_foldl | apply wf_foldl_fst | apply wf_ite | apply wf_dropPosted | apply wf_dropWork | apply wf_abandonCut | dsimp only | split)
theorem wf_execDestroyContext (s : State) (hwf : Memory.wf s.mem = true) : NextWf (execDestroyContext s) := by
  unfold execDestroyContext
  repeat' (with_reducible first | assumption | (intro _) | apply nextWf_next | apply nextWf_refused | apply wf_ite | apply nextWf_ite | apply wf_answerDone | apply wf_longCmd | apply wf_haltParts | apply wf_removeCtx | dsimp only | split)
theorem wf_registerQueueAt (s : State) (p : Nat) (hwf : Memory.wf s.mem = true) : Memory.wf (registerQueueAt s p).mem = true := by
  unfold registerQueueAt
  repeat' (with_reducible first | assumption | (intro _) | apply wf_updPkg | apply wf_answerDone | dsimp only | split)
theorem wf_execRegisterQueue (s : State) (hwf : Memory.wf s.mem = true) : NextWf (execRegisterQueue s) := by
  unfold execRegisterQueue
  repeat' (with_reducible first | assumption | (intro _) | apply nextWf_next | apply nextWf_refused | apply wf_ite | apply nextWf_ite | apply wf_oneStep | apply wf_registerQueueAt | dsimp only | split)
theorem wf_updQueue (s : State) (p n : Nat) (f : Queue → Queue) (hwf : Memory.wf s.mem = true) : Memory.wf (updQueue s p n f).mem = true := by
  unfold updQueue
  repeat' (with_reducible first | assumption | (intro _) | apply wf_updPkg | dsimp only | split)
theorem wf_execRemoveQueue (s : State) (hwf : Memory.wf s.mem = true) : NextWf (execRemoveQueue s) := by
  unfold execRemoveQueue
  repeat' (with_reducible first | assumption | (intro _) | apply nextWf_next | apply nextWf_refused | apply wf_ite | apply nextWf_ite | apply wf_updPkg | apply wf_answerDone | apply wf_longCmd | apply wf_updQueue | dsimp only | split)
theorem wf_execSetReservedCores (s : State) (hwf : Memory.wf s.mem = true) : NextWf (execSetReservedCores s) := by
  unfold execSetReservedCores
  repeat' (with_reducible first | assumption | (intro _) | apply nextWf_next | apply nextWf_refused | apply wf_ite | apply nextWf_ite | apply wf_updPkg | apply wf_answerDone | apply wf_oneStep | dsimp only | split)
theorem wf_execLoadKeySlot (s : State) (hwf : Memory.wf s.mem = true) : NextWf (execLoadKeySlot s) := by
  unfold execLoadKeySlot
  repeat' (with_reducible first | assumption | (intro _) | apply nextWf_next | apply nextWf_refused | apply wf_ite | apply nextWf_ite | apply wf_updPkg | apply wf_answerDone | apply wf_oneStep | dsimp only | split)
theorem wf_execClearKeySlot (s : State) (hwf : Memory.wf s.mem = true) : NextWf (execClearKeySlot s) := by
  unfold execClearKeySlot
  repeat' (with_reducible first | assumption | (intro _) | apply nextWf_next | apply nextWf_refused | apply wf_ite | apply nextWf_ite | apply wf_updPkg | apply wf_answerDone | apply wf_longCmd | dsimp only | split)
theorem wf_registerCkpt (s : State) (p : Nat) (hwf : Memory.wf s.mem = true) : Memory.wf (registerCkpt s p).mem = true := by
  unfold registerCkpt
  repeat' (with_reducible first | assumption | (intro _) | apply wf_updPart | apply wf_updCtx | apply wf_nextInterval | apply wf_answerDone | dsimp only | split)
theorem wf_execRegisterCheckpoint (s : State) (hwf : Memory.wf s.mem = true) : NextWf (execRegisterCheckpoint s) := by
  unfold execRegisterCheckpoint
  repeat' (with_reducible first | assumption | (intro _) | apply nextWf_next | apply nextWf_refused | apply wf_ite | apply nextWf_ite | apply wf_oneStep | apply wf_registerCkpt | dsimp only | split)
theorem wf_removeCkpt (s : State) (p : Nat) (hwf : Memory.wf s.mem = true) : Memory.wf (removeCkpt s p).mem = true := by
  unfold removeCkpt
  repeat' (with_reducible first | assumption | (intro _) | apply wf_ite | apply wf_updPart | apply wf_updCtx | apply wf_answerDone | dsimp only | split)
theorem wf_execRemoveCheckpoint (s : State) (hwf : Memory.wf s.mem = true) : NextWf (execRemoveCheckpoint s) := by
  unfold execRemoveCheckpoint
  repeat' (with_reducible first | assumption | (intro _) | apply nextWf_next | apply nextWf_refused | apply wf_ite | apply nextWf_ite | apply wf_oneStep | apply wf_removeCkpt | dsimp only | split)
theorem wf_execRequestCut (s : State) (hwf : Memory.wf s.mem = true) : NextWf (execRequestCut s) := by
  unfold execRequestCut
  repeat' (with_reducible first | assumption | (intro _) | apply nextWf_next | apply nextWf_refused | apply wf_ite | apply nextWf_ite | apply wf_requestCut | apply wf_answerDone | apply wf_oneStep | dsimp only | split)
theorem wf_addLcores (s : State) (k : Nat) (l : List Nat) (hwf : Memory.wf s.mem = true) : Memory.wf (addLcores s k l).mem = true := by
  induction l generalizing s with
  | nil => unfold addLcores; exact hwf
  | cons x t ih =>
    unfold addLcores
    repeat' (with_reducible first | assumption | (intro _) | apply ih | apply wf_updPart | dsimp only | split)
theorem wf_allotTo (s : State) (p k : Nat) (fresh : Bool) (hwf : Memory.wf s.mem = true) : Memory.wf (allotTo s p k fresh).mem = true := by
  unfold allotTo
  repeat' (with_reducible first | assumption | (intro _) | apply wf_foldl | apply wf_foldl_fst | apply wf_ite | apply wf_updPart | apply wf_updCtx | apply wf_updPcore | apply wf_addLcores | dsimp only | split)
theorem wf_execAllotCores (s : State) (hwf : Memory.wf s.mem = true) : NextWf (execAllotCores s) := by
  unfold execAllotCores
  repeat' (with_reducible first | assumption | (intro _) | apply nextWf_next | apply nextWf_refused | apply wf_ite | apply nextWf_ite | apply wf_answerDone | apply wf_oneStep | apply wf_allotTo | dsimp only | split)
theorem wf_freeCores (s : State) (k : Nat) (cs : List Nat) (hwf : Memory.wf s.mem = true) : Memory.wf (freeCores s k cs).mem = true := by
  unfold freeCores
  repeat' (with_reducible first | assumption | (intro _) | apply wf_foldl | apply wf_foldl_fst | apply wf_updPcore | dsimp only | split)
theorem wf_stayCores (s : State) (k : Nat) (cs : List Nat) (hwf : Memory.wf s.mem = true) : Memory.wf (stayCores s k cs).mem = true := by
  unfold stayCores
  repeat' (with_reducible first | assumption | (intro _) | apply wf_foldl | apply wf_foldl_fst | apply wf_updPcore | dsimp only | split)
theorem wf_withdrawEnd (s : State) (p : Nat) (hwf : Memory.wf s.mem = true) : Memory.wf (withdrawEnd s p).mem = true := by
  unfold withdrawEnd
  repeat' (with_reducible first | assumption | (intro _) | apply wf_foldl | apply wf_foldl_fst | apply wf_ite | apply wf_answerDone | apply wf_returnRanges | apply wf_freeCores | apply wf_saveHolders | apply wf_resumeWarp | apply wf_answerRefused | apply wf_stayCores | dsimp only | split)
theorem wf_execWithdrawCores (s : State) (hwf : Memory.wf s.mem = true) : NextWf (execWithdrawCores s) := by
  unfold execWithdrawCores
  repeat' (with_reducible first | assumption | (intro _) | apply nextWf_next | apply nextWf_refused | apply wf_foldl | apply wf_foldl_fst | apply wf_ite | apply nextWf_ite | apply wf_updPcore | apply wf_requestStops | apply wf_longCmd | apply wf_withdrawEnd | dsimp only | split)
theorem wf_leaveIdle (s : State) (p : Nat) (hwf : Memory.wf s.mem = true) : Memory.wf (leaveIdle s p).mem = true := by
  unfold leaveIdle
  repeat' (with_reducible first | assumption | (intro _) | apply wf_foldl | apply wf_foldl_fst | apply wf_ite | apply wf_updPart | apply wf_resumeWarp | dsimp only | split)
theorem wf_setPower (s : State) (p n : Nat) (hwf : Memory.wf s.mem = true) : Memory.wf (setPower s p n).mem = true := by
  unfold setPower
  repeat' (with_reducible first | assumption | (intro _) | apply wf_updPkg | dsimp only | split)
theorem wf_execPowerRun (s : State) (hwf : Memory.wf s.mem = true) : NextWf (execPowerRun s) := by
  unfold execPowerRun
  repeat' (with_reducible first | assumption | (intro _) | apply nextWf_next | apply nextWf_refused | apply wf_ite | apply nextWf_ite | apply wf_answerDone | apply wf_oneStep | apply wf_leaveIdle | apply wf_setPower | dsimp only | split)
theorem wf_execPowerCapped (s : State) (hwf : Memory.wf s.mem = true) : NextWf (execPowerCapped s) := by
  unfold execPowerCapped
  repeat' (with_reducible first | assumption | (intro _) | apply nextWf_next | apply nextWf_refused | apply wf_ite | apply nextWf_ite | apply wf_updPkg | apply wf_answerDone | apply wf_oneStep | apply wf_leaveIdle | apply wf_setPower | dsimp only | split)
theorem wf_execPowerIdle (s : State) (hwf : Memory.wf s.mem = true) : NextWf (execPowerIdle s) := by
  unfold execPowerIdle
  repeat' (with_reducible first | assumption | (intro _) | apply nextWf_next | apply nextWf_refused | apply wf_foldl | apply wf_foldl_fst | apply wf_ite | apply nextWf_ite | apply wf_updPart | apply wf_answerDone | apply wf_longCmd | apply wf_haltParts | apply wf_setPower | dsimp only | split)
theorem wf_execThermalTrip (s : State) (hwf : Memory.wf s.mem = true) : NextWf (execThermalTrip s) := by
  unfold execThermalTrip
  repeat' (with_reducible first | assumption | (intro _) | apply nextWf_next | apply nextWf_refused | apply wf_ite | apply nextWf_ite | apply wf_updPkg | apply wf_appendEvent | dsimp only | split)
theorem wf_loseMemory (s : State) (p : Nat) (keep : Nat → Bool) (hwf : Memory.wf s.mem = true) :
    Memory.wf (loseMemory s p keep).mem = true := wf_filter _ _ hwf
theorem wf_losePackage (s : State) (p : Nat) (hwf : Memory.wf s.mem = true) : Memory.wf (losePackage s p).mem = true := by
  unfold losePackage
  repeat' (with_reducible first | assumption | (intro _) | apply wf_foldl | apply wf_foldl_fst | apply wf_removeCtx | dsimp only | split)
theorem wf_execPowerRemoval (s : State) (hwf : Memory.wf s.mem = true) : NextWf (execPowerRemoval s) := by
  unfold execPowerRemoval
  repeat' (with_reducible first | assumption | (intro _) | apply nextWf_next | apply nextWf_refused | apply wf_ite | apply nextWf_ite | apply wf_loseMemory | apply wf_losePackage | dsimp only | split)
theorem wf_resetPkg (s : State) (p die : Nat) (hwf : Memory.wf s.mem = true) : Memory.wf (resetPkg s p die).mem = true := by
  unfold resetPkg
  repeat' (with_reducible first | assumption | (intro _) | apply wf_ite | apply wf_loseMemory | apply wf_losePackage | dsimp only | split)
theorem wf_execDeviceReset (s : State) (hwf : Memory.wf s.mem = true) : NextWf (execDeviceReset s) := by
  unfold execDeviceReset
  repeat' (with_reducible first | assumption | (intro _) | apply nextWf_next | apply nextWf_refused | apply wf_ite | apply nextWf_ite | apply wf_resetPkg | dsimp only | split)
theorem wf_execEnterFullService (s : State) (hwf : Memory.wf s.mem = true) : NextWf (execEnterFullService s) := by
  unfold execEnterFullService
  repeat' (with_reducible first | assumption | (intro _) | apply nextWf_next | apply nextWf_refused | apply wf_ite | apply nextWf_ite | apply wf_updPkg | apply wf_answerDone | apply wf_oneStep | dsimp only | split)
theorem wf_copyEntries (s : State) (p : Nat) (l : List (List Byte)) (hwf : Memory.wf s.mem = true) : Memory.wf (copyEntries s p l).mem = true := by
  unfold copyEntries
  repeat' (with_reducible first | assumption | (intro _) | apply wf_agentWrite | apply wf_answerDone | dsimp only | split)
theorem wf_execReadErrorLog (s : State) (hwf : Memory.wf s.mem = true) : NextWf (execReadErrorLog s) := by
  unfold execReadErrorLog
  repeat' (with_reducible first | assumption | (intro _) | apply nextWf_next | apply nextWf_refused | apply wf_ite | apply nextWf_ite | apply wf_oneStep | apply wf_copyEntries | dsimp only | split)
theorem wf_execReadJournal (s : State) (hwf : Memory.wf s.mem = true) : NextWf (execReadJournal s) := by
  unfold execReadJournal
  repeat' (with_reducible first | assumption | (intro _) | apply nextWf_next | apply nextWf_refused | apply wf_ite | apply nextWf_ite | apply wf_oneStep | apply wf_copyEntries | dsimp only | split)

/-! ### Loader -/

theorem wf_putCtx? (part : Nat) (va : Nat) (l : List Byte) (s : State) (hwf : Memory.wf s.mem = true) : SomeWf (putCtx? part va l s) := by
  induction l generalizing va s with
  | nil => unfold putCtx?; exact someWf_some hwf
  | cons x t ih =>
    unfold putCtx?
    repeat' (with_reducible first | assumption | (intro _) | apply ih | apply someWf_some | apply someWf_none | apply wf_agentWrite | dsimp only | split)
theorem wfe_putCtx? {part : Nat} {va : Nat} {l : List Byte} {s : State} {t : State} (e : (putCtx? part va l s) = some t) (hwf : Memory.wf s.mem = true) : Memory.wf t.mem = true := by
  exact wf_putCtx? part va l s hwf _ e
theorem wf_putSections? (part : Nat) (f : List Byte) (l : List (Section × Nat)) (s : State) (hwf : Memory.wf s.mem = true) : SomeWf (putSections? part f l s) := by
  induction l generalizing s with
  | nil => unfold putSections?; exact someWf_some hwf
  | cons x t ih =>
    unfold putSections?
    repeat' (with_reducible first | assumption | (intro _) | apply ih | apply someWf_some | apply someWf_none | apply wf_putCtx? | (apply wfe_putCtx?; assumption) | dsimp only | split)
theorem wfe_putSections? {part : Nat} {f : List Byte} {l : List (Section × Nat)} {s : State} {t : State} (e : (putSections? part f l s) = some t) (hwf : Memory.wf s.mem = true) : Memory.wf t.mem = true := by
  exact wf_putSections? part f l s hwf _ e
theorem wf_relocateAll? (part : Nat) (f : List Byte) (bases : List Nat) (all : List SymDef) (l : List Reloc) (s : State) (hwf : Memory.wf s.mem = true) : SomeWf (relocateAll? part f bases all l s) := by
  induction l generalizing s with
  | nil => unfold relocateAll?; exact someWf_some hwf
  | cons x t ih =>
    unfold relocateAll?
    repeat' (with_reducible first | assumption | (intro _) | apply ih | apply someWf_some | apply someWf_none | apply wf_putCtx? | (apply wfe_putCtx?; assumption) | dsimp only | split)
theorem wfe_relocateAll? {part : Nat} {f : List Byte} {bases : List Nat} {all : List SymDef} {l : List Reloc} {s : State} {t : State} (e : (relocateAll? part f bases all l s) = some t) (hwf : Memory.wf s.mem = true) : Memory.wf t.mem = true := by
  exact wf_relocateAll? part f bases all l s hwf _ e
theorem wf_load? (s : State) (ctx base : Nat) (f : List Byte) (hwf : Memory.wf s.mem = true) : SomeWf (load? s ctx base f) := by
  unfold load?
  repeat' (with_reducible first | assumption | (intro _) | apply someWf_some | apply someWf_none | apply wf_ite | apply someWf_ite | apply wf_updCtx | apply wf_putSections? | (apply wfe_putSections?; assumption) | apply wf_relocateAll? | (apply wfe_relocateAll?; assumption) | dsimp only | split)
theorem wfe_load? {s : State} {ctx base : Nat} {f : List Byte} {t : State} (e : (load? s ctx base f) = some t) (hwf : Memory.wf s.mem = true) : Memory.wf t.mem = true := by
  exact wf_load? s ctx base f hwf _ e
theorem wf_execCodeObjectLoad (s : State) (hwf : Memory.wf s.mem = true) : NextWf (execCodeObjectLoad s) := by
  unfold execCodeObjectLoad
  split
  · exact nextWf_next (wf_getD (wf_load? _ _ _ _ hwf) hwf)
  · exact nextWf_refused _

/-! ### Timing -/

theorem wf_runAhead (s : State) (hwf : Memory.wf s.mem = true) : Memory.wf (runAhead s).mem = true := hwf
theorem wf_passTime (s : State) (n : Nat) (hwf : Memory.wf s.mem = true) : Memory.wf (passTime s n).mem = true := hwf
theorem wf_advance (s : State) (hwf : Memory.wf s.mem = true) : Memory.wf (advance s).mem = true := hwf

/-! ### Step -/

theorem wf_Trans.arm (t : Trans) (s : State) (hwf : Memory.wf s.mem = true) : Memory.wf (Trans.arm t s).mem = true := hwf

end Sys2Proof.Machine
end

