-- ==== Sys2Proof/Laws/Regs.lean ====
section
/-! SUPPORT. Laws of registers, threads and warps: what the operations that write them leave in each register, and what they leave
alone. -/

namespace Sys2Proof.Machine

/-! ### Looking up a warp and a thread after an update -/

theorem tblGet_tblUpd {α : Type} [Inhabited α] (t : Tbl α) (i j : Nat) (f : α → α) :
    tblGet (tblUpd t i f) j = if i = j ∧ (tblGet? t j).isSome = true then f (tblGet t j) else tblGet t j := by
  unfold tblGet
  rw [tblGet?_tblUpd]
  by_cases h : i = j
  · cases hj : tblGet? t j <;> simp [h]
  · simp [h]

/-- The warp is in the table. -/
abbrev warpIn (s : State) (w : Nat) : Prop := (tblGet? s.warps w).isSome = true

theorem warpOf_updWarp (s : State) (w v : Nat) (f : Warp → Warp) :
    warpOf (updWarp s w f) v = if w = v ∧ warpIn s v then f (warpOf s v) else warpOf s v := by
  unfold warpOf updWarp
  rw [tblGet_tblUpd]

theorem warpOf_updWarp_self (s : State) (w : Nat) (f : Warp → Warp) (h : warpIn s w) : warpOf (updWarp s w f) w = f (warpOf s w) := by
  classical rw [warpOf_updWarp]; simp [h]

theorem warpOf_updWarp_ne (s : State) (w v : Nat) (f : Warp → Warp) (h : w ≠ v) : warpOf (updWarp s w f) v = warpOf s v := by
  classical rw [warpOf_updWarp]; simp [h]

theorem warpOf_of_not_in (s : State) (w : Nat) (h : ¬ warpIn s w) : warpOf s w = default := by
  unfold warpIn at h
  unfold warpOf tblGet
  cases hw : tblGet? s.warps w with
  | none => rfl
  | some x => simp [hw] at h

theorem warpIn_of_present (s : State) (w l : Nat) (h : present s w l = true) : warpIn s w := by
  classical
  by_cases hn : warpIn s w
  · exact hn
  · unfold present at h
    rw [warpOf_of_not_in s w hn] at h
    have e : (default : Warp).lanes = [] := rfl
    rw [e] at h
    cases h

theorem warpIn_updWarp (s : State) (w v : Nat) (f : Warp → Warp) : warpIn (updWarp s w f) v ↔ warpIn s v := by
  unfold warpIn updWarp
  simp only
  rw [tblGet?_tblUpd]
  split <;> simp

/-! ### What a register write leaves alone -/

/-- Two states differ only in registers, predicates, flags and comparison marks. -/
structure SameFrame (s u : State) : Prop where
  frame : tblMap u.warps (fun _ w => warpFrame w) = tblMap s.warps (fun _ w => warpFrame w)
  rest : ∀ x, { u with warps := x } = { s with warps := x }

theorem SameFrame.refl (s : State) : SameFrame s s := ⟨rfl, fun _ => rfl⟩
theorem SameFrame.trans {s t u : State} (h : SameFrame s t) (k : SameFrame t u) : SameFrame s u :=
  ⟨k.frame.trans h.frame, fun x => (k.rest x).trans (h.rest x)⟩

theorem tblMap_tblUpd {α β : Type} (t : Tbl α) (i : Nat) (f : α → α) (g : α → β) (h : ∀ a, g (f a) = g a) :
    tblMap (tblUpd t i f) (fun _ a => g a) = tblMap t (fun _ a => g a) := by
  induction t with
  | nil => rfl
  | cons e t ih =>
    obtain ⟨k, v⟩ := e
    simp only [tblUpd]
    split
    · simp [tblMap, h]
    · simp only [tblMap, List.map_cons] at ih ⊢
      rw [ih]

theorem sameFrame_updWarp (s : State) (w : Nat) (f : Warp → Warp) (h : ∀ x, warpFrame (f x) = warpFrame x) :
    SameFrame s (updWarp s w f) :=
  ⟨tblMap_tblUpd s.warps w f warpFrame h, fun _ => rfl⟩

theorem SameFrame.warp {s u : State} (h : SameFrame s u) (w : Nat) : warpFrame (warpOf u w) = warpFrame (warpOf s w) := by
  have e := congrArg (fun t => tblGet? t w) h.frame
  simp only [tblGet?_tblMap] at e
  unfold warpOf tblGet
  cases hu : tblGet? u.warps w <;> cases hs : tblGet? s.warps w <;> simp [hu, hs] at e ⊢
  exact e

theorem SameFrame.warpIn {s u : State} (h : SameFrame s u) (w : Nat) : warpIn u w ↔ warpIn s w := by
  have e := congrArg (fun t => tblGet? t w) h.frame
  simp only [tblGet?_tblMap] at e
  unfold Machine.warpIn
  cases hu : tblGet? u.warps w <;> cases hs : tblGet? s.warps w <;> simp [hu, hs] at e ⊢

/-- A thread without its predicates and flags. -/
def thrFrame (t : Thread) : Thread := { t with preds := 0, fpst := 0 }

theorem lanes_of_frame {x y : Warp} (h : warpFrame x = warpFrame y) (l : Nat) :
    thrFrame (tblGet x.lanes l) = thrFrame (tblGet y.lanes l) ∧
      (tblGet? x.lanes l).isSome = (tblGet? y.lanes l).isSome := by
  have e := congrArg (fun z : Warp => tblGet? z.lanes l) h
  simp only [warpFrame, tblGet?_tblMap] at e
  unfold tblGet
  cases hu : tblGet? x.lanes l <;> cases hs : tblGet? y.lanes l <;> rw [hu, hs] at e
  · exact ⟨rfl, rfl⟩
  · cases e
  · cases e
  · exact ⟨Option.some.inj e, rfl⟩

theorem SameFrame.thread {s u : State} (h : SameFrame s u) (m : Member) : thrFrame (thrOf u m) = thrFrame (thrOf s m) :=
  (lanes_of_frame (h.warp m.warp) m.lane).1

theorem SameFrame.present {s u : State} (h : SameFrame s u) (w l : Nat) : present u w l = present s w l :=
  (lanes_of_frame (h.warp w) l).2

theorem SameFrame.base {s u : State} (h : SameFrame s u) (m : Member) : (thrOf u m).base = (thrOf s m).base :=
  by
  show (thrFrame (thrOf u m)).base = (thrFrame (thrOf s m)).base
  rw [h.thread]
theorem SameFrame.helper {s u : State} (h : SameFrame s u) (m : Member) : (thrOf u m).helper = (thrOf s m).helper :=
  by
  show (thrFrame (thrOf u m)).helper = (thrFrame (thrOf s m)).helper
  rw [h.thread]
theorem SameFrame.fpctl {s u : State} (h : SameFrame s u) (w : Nat) : (warpOf u w).fpctl = (warpOf s w).fpctl :=
  by
  show (warpFrame (warpOf u w)).fpctl = (warpFrame (warpOf s w)).fpctl
  rw [h.warp]

theorem SameFrame.foldl {β : Type} (l : List β) (f : State → β → State) (s : State) (h : ∀ s x, SameFrame s (f s x)) :
    SameFrame s (l.foldl f s) := by
  induction l generalizing s with
  | nil => exact .refl s
  | cons x t ih => exact (h s x).trans (ih (f s x))

/-! ### Vector registers -/

theorem sameFrame_setVreg (s : State) (w l g : Nat) (v : Word) : SameFrame s (setVreg s w l g v) :=
  sameFrame_updWarp s w _ fun _ => rfl

theorem vreg_setVreg (s : State) (w l g w' l' g' : Nat) (v : Word) (hl : l < 64) (hl' : l' < 64) :
    vreg (setVreg s w l g v) w' l' g' = if w = w' ∧ warpIn s w ∧ l = l' ∧ g = g' then v else vreg s w' l' g' := by
  classical
  unfold vreg setVreg
  by_cases hw : w = w'
  · subst hw
    by_cases hi : warpIn s w
    · rw [warpOf_updWarp_self _ _ _ hi]
      simp only [bmGet_bmSet]
      by_cases hg : g * 64 + l = g' * 64 + l'
      · have : l = l' ∧ g = g' := by omega
        simp [this.1, this.2, hi]
      · have : ¬ (l = l' ∧ g = g') := by omega
        rw [if_neg hg, if_neg (fun h => this h.2.2)]
    · rw [warpOf_updWarp]; simp [hi]
  · rw [warpOf_updWarp_ne _ _ _ _ hw]; simp [hw]

theorem ureg_setVreg (s : State) (w l g w' n : Nat) (v : Word) : ureg (setVreg s w l g v) w' n = ureg s w' n := by
  classical
  unfold ureg setVreg
  rw [warpOf_updWarp]
  split <;> rfl

theorem thrOf_updWarp_of_lanes (s : State) (w : Nat) (f : Warp → Warp) (m : Member) (h : ∀ x, (f x).lanes = x.lanes) :
    thrOf (updWarp s w f) m = thrOf s m := by
  classical
  unfold thrOf
  rw [warpOf_updWarp]
  split
  · rw [h]
  · rfl

theorem thrOf_setVreg (s : State) (w l g : Nat) (v : Word) (m : Member) : thrOf (setVreg s w l g v) m = thrOf s m :=
  thrOf_updWarp_of_lanes s w _ m fun _ => rfl
theorem thrOf_setUreg (s : State) (w n : Nat) (v : Word) (m : Member) : thrOf (setUreg s w n v) m = thrOf s m :=
  thrOf_updWarp_of_lanes s w _ m fun _ => rfl

theorem sameFrame_putVec (s : State) (m : Member) (f : Nat) (v : Val) (n : Nat) : SameFrame s (putVec s m f v n) := by
  induction n with
  | zero => exact .refl s
  | succ n ih => exact ih.trans (sameFrame_setVreg ..)

theorem thrOf_putVec (s : State) (m : Member) (f : Nat) (v : Val) (n : Nat) (m' : Member) : thrOf (putVec s m f v n) m' = thrOf s m' := by
  induction n with
  | zero => rfl
  | succ n ih => exact (thrOf_setVreg ..).trans ih

theorem ureg_putVec (s : State) (m : Member) (f : Nat) (v : Val) (n w k : Nat) : ureg (putVec s m f v n) w k = ureg s w k := by
  induction n with
  | zero => rfl
  | succ n ih => exact (ureg_setVreg ..).trans ih

/-- The words of a value in consecutive window registers of one member. -/
theorem vreg_putVec (s : State) (m : Member) (f : Nat) (v : Val) (n w l r : Nat) (hm : m.lane < 64) (hl : l < 64):
    vreg (putVec s m f v n) w l r =
      if m.warp = w ∧ warpIn s m.warp ∧ m.lane = l ∧ (thrOf s m).base + f ≤ r ∧ r < (thrOf s m).base + f + n
      then v.extractLsb' (32 * (r - ((thrOf s m).base + f))) 32 else vreg s w l r := by
  classical
  induction n with
  | zero =>
    rw [if_neg]
    · rfl
    · omega
  | succ n ih =>
    show vreg (setVreg (putVec s m f v n) m.warp m.lane ((thrOf s m).base + f + n) (v.extractLsb' (32 * n) 32)) w l r = _
    have hw : warpIn (putVec s m f v n) m.warp ↔ warpIn s m.warp := (sameFrame_putVec s m f v n).warpIn m.warp
    rw [vreg_setVreg _ _ _ _ _ _ _ _ hm hl, ih]
    by_cases h1 : m.warp = w ∧ warpIn s m.warp ∧ m.lane = l
    · obtain ⟨h1, h2, h3⟩ := h1
      by_cases h4 : (thrOf s m).base + f + n = r
      · rw [if_pos ⟨h1, hw.2 h2, h3, h4⟩, if_pos ⟨h1, h2, h3, by omega, by omega⟩]
        congr 1
        omega
      · rw [if_neg (fun h => h4 h.2.2.2)]
        by_cases h5 : (thrOf s m).base + f ≤ r ∧ r < (thrOf s m).base + f + n
        · rw [if_pos ⟨h1, h2, h3, h5⟩, if_pos ⟨h1, h2, h3, by omega, by omega⟩]
        · rw [if_neg (fun h => h5 h.2.2.2), if_neg (fun h => h5 ⟨h.2.2.2.1, by omega⟩)]
    · rw [if_neg (fun h => h1 ⟨h.1, hw.1 h.2.1, h.2.2.1⟩), if_neg (fun h => h1 ⟨h.1, h.2.1, h.2.2.1⟩),
        if_neg (fun h => h1 ⟨h.1, h.2.1, h.2.2.1⟩)]

/-! ### Uniform registers -/

theorem sameFrame_setUreg (s : State) (w n : Nat) (v : Word) : SameFrame s (setUreg s w n v) :=
  sameFrame_updWarp s w _ fun _ => rfl

theorem ureg_setUreg (s : State) (w n w' n' : Nat) (v : Word) :
    ureg (setUreg s w n v) w' n' = if w = w' ∧ warpIn s w ∧ n = n' then v else ureg s w' n' := by
  classical
  unfold ureg setUreg
  by_cases hw : w = w'
  · subst hw
    by_cases hi : warpIn s w
    · rw [warpOf_updWarp_self _ _ _ hi]
      rw [bmGet_bmSet]
      by_cases hn : n = n'
      · rw [if_pos hn, if_pos ⟨rfl, hi, hn⟩]
      · rw [if_neg hn, if_neg (fun h => hn h.2.2)]
    · rw [warpOf_updWarp]; simp [hi]
  · rw [warpOf_updWarp_ne _ _ _ _ hw]; simp [hw]

theorem vreg_setUreg (s : State) (w n w' l g : Nat) (v : Word) : vreg (setUreg s w n v) w' l g = vreg s w' l g := by
  classical
  unfold vreg setUreg
  rw [warpOf_updWarp]
  split <;> rfl

theorem sameFrame_putUni (s : State) (w u : Nat) (v : Val) (n : Nat) : SameFrame s (putUni s w u v n) := by
  induction n with
  | zero => exact .refl s
  | succ n ih => exact ih.trans (sameFrame_setUreg ..)

theorem thrOf_putUni (s : State) (w u : Nat) (v : Val) (n : Nat) (m : Member) : thrOf (putUni s w u v n) m = thrOf s m := by
  induction n with
  | zero => rfl
  | succ n ih => exact (thrOf_setUreg ..).trans ih

theorem vreg_putUni (s : State) (w u : Nat) (v : Val) (n w' l g : Nat) : vreg (putUni s w u v n) w' l g = vreg s w' l g := by
  induction n with
  | zero => rfl
  | succ n ih => exact (vreg_setUreg ..).trans ih

theorem ureg_putUni (s : State) (w u : Nat) (v : Val) (n w' k : Nat) :
    ureg (putUni s w u v n) w' k =
      if w = w' ∧ warpIn s w ∧ u ≤ k ∧ k < u + n then v.extractLsb' (32 * (k - u)) 32 else ureg s w' k := by
  classical
  induction n with
  | zero => rw [if_neg]; · rfl
            · omega
  | succ n ih =>
    show ureg (setUreg (putUni s w u v n) w (u + n) (v.extractLsb' (32 * n) 32)) w' k = _
    have hw : warpIn (putUni s w u v n) w ↔ warpIn s w := (sameFrame_putUni s w u v n).warpIn w
    rw [ureg_setUreg, ih]
    by_cases h1 : w = w' ∧ warpIn s w
    · obtain ⟨h1, h2⟩ := h1
      by_cases h4 : u + n = k
      · rw [if_pos ⟨h1, hw.2 h2, h4⟩, if_pos ⟨h1, h2, by omega, by omega⟩]
        congr 1
        omega
      · rw [if_neg (fun h => h4 h.2.2)]
        by_cases h5 : u ≤ k ∧ k < u + n
        · rw [if_pos ⟨h1, h2, h5⟩, if_pos ⟨h1, h2, by omega, by omega⟩]
        · rw [if_neg (fun h => h5 h.2.2), if_neg (fun h => h5 ⟨h.2.2.1, by omega⟩)]
    · rw [if_neg (fun h => h1 ⟨h.1, hw.1 h.2.1⟩), if_neg (fun h => h1 ⟨h.1, h.2.1⟩), if_neg (fun h => h1 ⟨h.1, h.2.1⟩)]

/-! ### The D operand -/

/-- D of several members written to window registers. -/
theorem vreg_foldl_putVec (ms : List Member) (F : Member → Val) (s : State) (f n w l r : Nat) (hms : ∀ m ∈ ms, m.lane < 64)
    (hl : l < 64) :
    vreg ((ms.map fun m => (m, F m)).foldl (fun s e => putVec s e.1 f e.2 n) s) w l r =
      if ⟨l, w⟩ ∈ ms ∧ warpIn s w ∧ (thrOf s ⟨l, w⟩).base + f ≤ r ∧ r < (thrOf s ⟨l, w⟩).base + f + n
      then (F ⟨l, w⟩).extractLsb' (32 * (r - ((thrOf s ⟨l, w⟩).base + f))) 32 else vreg s w l r := by
  classical
  induction ms generalizing s with
  | nil => simp
  | cons m t ih =>
    have hm := hms m (List.mem_cons_self ..)
    have hf := sameFrame_putVec s m f (F m) n
    simp only [List.map_cons, List.foldl_cons]
    rw [ih (putVec s m f (F m) n) fun x hx => hms x (List.mem_cons_of_mem _ hx)]
    rw [thrOf_putVec, vreg_putVec s m f (F m) n w l r hm hl]
    have hw := hf.warpIn w
    by_cases ht : ⟨l, w⟩ ∈ t ∧ warpIn s w ∧ (thrOf s ⟨l, w⟩).base + f ≤ r ∧ r < (thrOf s ⟨l, w⟩).base + f + n
    · rw [if_pos ⟨ht.1, hw.2 ht.2.1, ht.2.2⟩, if_pos ⟨List.mem_cons_of_mem _ ht.1, ht.2⟩]
    · rw [if_neg (fun h => ht ⟨h.1, hw.1 h.2.1, h.2.2⟩)]
      by_cases he : m = ⟨l, w⟩
      · subst he
        by_cases hr : warpIn s w ∧ (thrOf s ⟨l, w⟩).base + f ≤ r ∧ r < (thrOf s ⟨l, w⟩).base + f + n
        · rw [if_pos ⟨rfl, hr.1, rfl, hr.2⟩, if_pos ⟨List.mem_cons_self .., hr⟩]
        · rw [if_neg (fun h => hr ⟨h.2.1, h.2.2.2⟩), if_neg (fun h => hr h.2)]
      · have : ¬ (m.warp = w ∧ m.lane = l) := fun h => he (by cases m; simp_all)
        rw [if_neg (fun h => this ⟨h.1, h.2.2.1⟩), if_neg]
        rintro ⟨h1, h2⟩
        rcases List.mem_cons.1 h1 with h1 | h1
        · exact he h1.symm
        · exact ht ⟨h1, h2⟩

end Sys2Proof.Machine
end

