-- ==== Sys2Proof/Laws/Effect.lean ====
section
/-! SUPPORT. Laws of register instructions: destinations, predicates and flags of several members, and what a register instruction
answers. -/

namespace Sys2Proof.Machine

theorem mem_insNat (x y : Nat) (l : List Nat) : x ∈ insNat y l ↔ x = y ∨ x ∈ l := by
  induction l with
  | nil => simp [insNat]
  | cons z t ih =>
    simp only [insNat]
    split
    · rename_i h; subst h; simp
    · split
      · simp
      · simp only [List.mem_cons, ih]
        constructor
        · rintro (h | h | h) <;> simp [h]
        · rintro (h | h | h) <;> simp [h]

theorem mem_sortNat (x : Nat) (l : List Nat) : x ∈ sortNat l ↔ x ∈ l := by
  unfold sortNat
  induction l with
  | nil => simp
  | cons y t ih => rw [List.foldr_cons, mem_insNat, ih, List.mem_cons]

theorem mem_warpsIn (w : Nat) (ms : List Member) : w ∈ warpsIn ms ↔ ∃ m ∈ ms, m.warp = w := by
  unfold warpsIn
  rw [mem_sortNat]
  simp [List.mem_map]

/-- The lowest member of a warp that is no helper, as the destination writes find it. -/
theorem find?_lead (s : State) (ms : List Member) (F : Member → Val) (w : Nat) :
    (ms.map fun m => (m, F m)).find? (fun e => e.1.warp == w && !(thrOf s e.1).helper) =
      (leadOf s ms w).map fun m => (m, F m) := by
  unfold leadOf nonHelpers
  induction ms with
  | nil => rfl
  | cons m t ih =>
    simp only [List.map_cons, List.find?_cons, List.filter_cons]
    cases hh : (thrOf s m).helper <;> cases hw : (m.warp == w) <;> simp [hw, ih]

theorem leadOf_mem (s : State) (ms : List Member) (w : Nat) (m : Member) (h : leadOf s ms w = some m) :
    m ∈ ms ∧ m.warp = w ∧ (thrOf s m).helper = false := by
  unfold leadOf nonHelpers at h
  have h1 := List.mem_of_find?_eq_some h
  have h2 := List.find?_some h
  have h3 := List.mem_filter.1 h1
  refine ⟨h3.1, by simpa using h2, by simpa using h3.2⟩

/-! ### A uniform destination -/

/-- One step of the fold over warps. -/
def uniStep (s : State) (vals : List (Member × Val)) (u k : Nat) (s' : State) (w : Nat) : State :=
  match vals.find? fun e => e.1.warp == w && !(thrOf s e.1).helper with
  | some e => putUni s' w u e.2 k
  | none => s'

theorem sameFrame_uniStep (s : State) (vals : List (Member × Val)) (u k : Nat) (s' : State) (w : Nat) :
    SameFrame s' (uniStep s vals u k s' w) := by
  unfold uniStep
  split
  · exact sameFrame_putUni ..
  · exact .refl _

theorem thrOf_uniStep (s : State) (vals : List (Member × Val)) (u k : Nat) (s' : State) (w : Nat) (m : Member) :
    thrOf (uniStep s vals u k s' w) m = thrOf s' m := by
  unfold uniStep
  split
  · exact thrOf_putUni ..
  · rfl

theorem vreg_uniStep (s : State) (vals : List (Member × Val)) (u k : Nat) (s' : State) (w w' l g : Nat) :
    vreg (uniStep s vals u k s' w) w' l g = vreg s' w' l g := by
  unfold uniStep
  split
  · exact vreg_putUni ..
  · rfl

theorem ureg_foldl_uniStep (s : State) (ms : List Member) (F : Member → Val) (u k : Nat) (ws : List Nat) (s' : State) (w n : Nat) :
    ureg (ws.foldl (uniStep s (ms.map fun m => (m, F m)) u k) s') w n =
      match leadOf s ms w with
      | some m => if w ∈ ws ∧ warpIn s' w ∧ u ≤ n ∧ n < u + k then (F m).extractLsb' (32 * (n - u)) 32 else ureg s' w n
      | none => ureg s' w n := by
  classical
  induction ws generalizing s' with
  | nil => cases leadOf s ms w <;> simp
  | cons x t ih =>
    simp only [List.foldl_cons]
    rw [ih]
    have hf := sameFrame_uniStep s (ms.map fun m => (m, F m)) u k s' x
    have hw := hf.warpIn w
    have hx : uniStep s (ms.map fun m => (m, F m)) u k s' x =
        match leadOf s ms x with | some m => putUni s' x u (F m) k | none => s' := by
      unfold uniStep
      rw [find?_lead]
      cases leadOf s ms x <;> rfl
    cases hl : leadOf s ms w with
    | none =>
      simp only
      rw [hx]
      cases hlx : leadOf s ms x with
      | none => rfl
      | some m =>
        simp only
        rw [ureg_putUni, if_neg]
        rintro ⟨h, -⟩
        subst h
        rw [hl] at hlx
        cases hlx
    | some m =>
      simp only
      by_cases ht : w ∈ t ∧ warpIn s' w ∧ u ≤ n ∧ n < u + k
      · rw [if_pos ⟨ht.1, hw.2 ht.2.1, ht.2.2⟩, if_pos ⟨List.mem_cons_of_mem _ ht.1, ht.2⟩]
      · rw [if_neg (fun h => ht ⟨h.1, hw.1 h.2.1, h.2.2⟩), hx]
        by_cases hxw : x = w
        · subst hxw
          rw [hl]
          simp only
          rw [ureg_putUni]
          by_cases hr : warpIn s' x ∧ u ≤ n ∧ n < u + k
          · rw [if_pos ⟨rfl, hr⟩, if_pos ⟨List.mem_cons_self .., hr⟩]
          · rw [if_neg (fun h => hr h.2), if_neg (fun h => hr h.2)]
        · rw [if_neg (c := w ∈ x :: t ∧ _)]
          · cases hlx : leadOf s ms x with
            | none => rfl
            | some m' =>
              simp only
              rw [ureg_putUni, if_neg]
              rintro ⟨h, -⟩
              exact hxw h
          · rintro ⟨h1, h2⟩
            rcases List.mem_cons.1 h1 with h1 | h1
            · exact hxw h1.symm
            · exact ht ⟨h1, h2⟩

/-! ### `writeD` -/

theorem writeD_uni (s : State) (x : Slot) (vals : List (Member × Val)) (h1 : ¬ x.f.toNat < 96) (h2 : x.f.toNat < 112) :
    writeD s x vals = (warpsIn (vals.map (·.1))).foldl (uniStep s vals (x.f.toNat - 96) (writeWidth x.use)) s := by
  unfold writeD
  simp only [h1, h2, if_false, if_true]
  rfl

theorem sameFrame_writeD (s : State) (x : Slot) (vals : List (Member × Val)) : SameFrame s (writeD s x vals) := by
  by_cases h1 : x.f.toNat < 96
  · unfold writeD
    simp only [h1, if_true]
    exact SameFrame.foldl _ _ _ fun s e => sameFrame_putVec ..
  · by_cases h2 : x.f.toNat < 112
    · rw [writeD_uni s x vals h1 h2]
      exact SameFrame.foldl _ _ _ fun s' w => sameFrame_uniStep ..
    · unfold writeD
      simp only [h1, h2, if_false]
      exact .refl s

theorem foldl_inv {β : Type} (P : State → Prop) (l : List β) (f : State → β → State) (s : State) (hf : ∀ s x, P s → P (f s x)) (h : P s) :
    P (l.foldl f s) := by
  induction l generalizing s with
  | nil => exact h
  | cons x t ih => exact ih _ (hf s x h)

theorem thrOf_writeD (s : State) (x : Slot) (vals : List (Member × Val)) (m : Member) : thrOf (writeD s x vals) m = thrOf s m := by
  by_cases h1 : x.f.toNat < 96
  · unfold writeD
    simp only [h1, if_true]
    exact foldl_inv (fun u => thrOf u m = thrOf s m) _ _ _ (fun s e h => (thrOf_putVec ..).trans h) rfl
  · by_cases h2 : x.f.toNat < 112
    · rw [writeD_uni s x vals h1 h2]
      exact foldl_inv (fun u => thrOf u m = thrOf s m) _ _ _ (fun s e h => (thrOf_uniStep ..).trans h) rfl
    · unfold writeD
      simp only [h1, h2, if_false]

/-- Vector registers after D is written. -/
theorem vreg_writeD (s : State) (x : Slot) (ms : List Member) (F : Member → Val) (w l r : Nat) (hms : ∀ m ∈ ms, m.lane < 64) (hl : l < 64) :
    vreg (writeD s x (ms.map fun m => (m, F m))) w l r =
      if x.f.toNat < 96 ∧ ⟨l, w⟩ ∈ ms ∧ warpIn s w ∧ (thrOf s ⟨l, w⟩).base + x.f.toNat ≤ r ∧
          r < (thrOf s ⟨l, w⟩).base + x.f.toNat + writeWidth x.use
      then (F ⟨l, w⟩).extractLsb' (32 * (r - ((thrOf s ⟨l, w⟩).base + x.f.toNat))) 32 else vreg s w l r := by
  classical
  by_cases h1 : x.f.toNat < 96
  · unfold writeD
    simp only [h1, if_true, true_and]
    exact vreg_foldl_putVec ms F s _ _ w l r hms hl
  · rw [if_neg (fun h => h1 h.1)]
    by_cases h2 : x.f.toNat < 112
    · rw [writeD_uni s x _ h1 h2]
      exact foldl_inv (fun u => vreg u w l r = vreg s w l r) _ _ _ (fun s e h => (vreg_uniStep ..).trans h) rfl
    · unfold writeD
      simp only [h1, h2, if_false]

/-- Uniform registers after D is written. -/
theorem ureg_writeD (s : State) (x : Slot) (ms : List Member) (F : Member → Val) (w n : Nat) :
    ureg (writeD s x (ms.map fun m => (m, F m))) w n =
      match leadOf s ms w with
      | some m => if 96 ≤ x.f.toNat ∧ x.f.toNat < 112 ∧ warpIn s w ∧ x.f.toNat - 96 ≤ n ∧ n < x.f.toNat - 96 + writeWidth x.use
                  then (F m).extractLsb' (32 * (n - (x.f.toNat - 96))) 32 else ureg s w n
      | none => ureg s w n := by
  classical
  by_cases h1 : x.f.toNat < 96
  · have : ureg (writeD s x (ms.map fun m => (m, F m))) w n = ureg s w n := by
      unfold writeD
      simp only [h1, if_true]
      exact foldl_inv (fun u => ureg u w n = ureg s w n) _ _ _ (fun s e h => (ureg_putVec ..).trans h) rfl
    rw [this]
    cases leadOf s ms w with
    | none => rfl
    | some m => simp only; rw [if_neg]; omega
  · by_cases h2 : x.f.toNat < 112
    · rw [writeD_uni s x _ h1 h2, ureg_foldl_uniStep]
      cases hl : leadOf s ms w with
      | none => rfl
      | some m =>
        simp only
        have hm := leadOf_mem s ms w m hl
        have hin : w ∈ warpsIn ((ms.map fun m => (m, F m)).map (·.1)) := by
          rw [mem_warpsIn]
          exact ⟨m, by simpa using hm.1, hm.2.1⟩
        by_cases hr : warpIn s w ∧ x.f.toNat - 96 ≤ n ∧ n < x.f.toNat - 96 + writeWidth x.use
        · rw [if_pos ⟨hin, hr⟩, if_pos ⟨by omega, h2, hr⟩]
        · rw [if_neg (fun h => hr h.2), if_neg (fun h => hr h.2.2)]
    · have : ureg (writeD s x (ms.map fun m => (m, F m))) w n = ureg s w n := by
        unfold writeD
        simp only [h1, h2, if_false]
      rw [this]
      cases leadOf s ms w with
      | none => rfl
      | some m => simp only; rw [if_neg]; omega

/-! ### Threads -/

theorem thrOf_updThr (s : State) (m m' : Member) (f : Thread → Thread) :
    thrOf (updThr s m f) m' = if m = m' ∧ present s m.warp m.lane = true then f (thrOf s m') else thrOf s m' := by
  classical
  unfold thrOf updThr
  by_cases hw : m.warp = m'.warp
  · by_cases hi : warpIn s m.warp
    · rw [← hw, warpOf_updWarp_self _ _ _ hi]
      simp only
      rw [tblGet_tblUpd]
      by_cases hl : m.lane = m'.lane
      · have : m = m' := by cases m; cases m'; simp_all
        subst this
        simp [present]
      · have : m ≠ m' := fun h => hl (by rw [h])
        simp [hl, this]
    · have hp : present s m.warp m.lane ≠ true := fun h => hi (warpIn_of_present _ _ _ h)
      rw [warpOf_updWarp, if_neg (fun h => hi (hw ▸ h.2)), if_neg (fun h => hp h.2)]
  · rw [warpOf_updWarp_ne _ _ _ _ hw]
    have : m ≠ m' := fun h => hw (by rw [h])
    simp [this]

theorem vreg_updThr (s : State) (m : Member) (f : Thread → Thread) (w l r : Nat) : vreg (updThr s m f) w l r = vreg s w l r := by
  classical
  unfold vreg updThr
  rw [warpOf_updWarp]
  split <;> rfl
theorem ureg_updThr (s : State) (m : Member) (f : Thread → Thread) (w n : Nat) : ureg (updThr s m f) w n = ureg s w n := by
  classical
  unfold ureg updThr
  rw [warpOf_updWarp]
  split <;> rfl

theorem tblMap_congr_upd (t : Tbl Thread) (i : Nat) (f : Thread → Thread) (h : ∀ x, thrFrame (f x) = thrFrame x) :
    tblMap (tblUpd t i f) (fun _ x => { x with preds := 0, fpst := 0 }) = tblMap t (fun _ x => { x with preds := 0, fpst := 0 }) :=
  tblMap_tblUpd t i f thrFrame h

theorem sameFrame_updThr (s : State) (m : Member) (f : Thread → Thread) (h : ∀ x, thrFrame (f x) = thrFrame x) :
    SameFrame s (updThr s m f) := by
  refine sameFrame_updWarp s m.warp _ fun x => ?_
  simp only [warpFrame, tblMap_congr_upd _ _ _ h]

/-! ### Predicates -/

/-- The value of predicate j after a list of predicate writes. -/
def predAfter (l : List (Nat × Bool)) (j : Nat) (o : Bool) : Bool := l.foldl (fun o x => if x.1 = j then x.2 else o) o

/-- A predicate write sets its predicate and no other; a write to p7 is discarded (R38). -/
theorem predOf_setPred (t : Thread) (k j : Nat) (v : Bool) :
    predOf (setPred t k v) j = if k < 7 ∧ k = j then v else predOf t j := by
  unfold predOf setPred
  by_cases hk : k ≥ 7
  · simp [hk, show ¬ k < 7 by omega]
  · have hk' : k < 7 := by omega
    by_cases hj : j ≥ 7
    · have : k ≠ j := by omega
      simp [hj, this]
    · have hj' : j < 7 := by omega
      have hm : ∀ k < 7, ∀ j < 7, (BitVec.ofNat 7 (2 ^ k)).getLsbD j = decide (k = j) := by decide
      have h := hm k hk' j hj'
      simp only [hk, hj, hk', if_false, true_and, decide_false, Bool.false_or]
      cases v
      · simp only [Bool.false_eq_true, if_false, BitVec.getLsbD_and, BitVec.getLsbD_not, h, hj', decide_true, Bool.true_and]
        by_cases e : k = j <;> simp [e]
      · simp only [if_true, BitVec.getLsbD_or, h]
        by_cases e : k = j <;> simp [e]

theorem thrFrame_setPred (t : Thread) (k : Nat) (v : Bool) : thrFrame (setPred t k v) = thrFrame t := by
  unfold setPred
  split <;> rfl
theorem fpst_setPred (t : Thread) (k : Nat) (v : Bool) : (setPred t k v).fpst = t.fpst := by
  unfold setPred
  split <;> rfl

/-- Predicate writes made in order. -/
def setPreds (l : List (Nat × Bool)) (t : Thread) : Thread := l.foldl (fun t x => setPred t x.1 x.2) t

theorem predOf_setPreds (l : List (Nat × Bool)) (t : Thread) (j : Nat) (hj : j < 7) :
    predOf (setPreds l t) j = predAfter l j (predOf t j) := by
  unfold setPreds predAfter
  induction l generalizing t with
  | nil => rfl
  | cons x l ih =>
    simp only [List.foldl_cons]
    rw [ih, predOf_setPred]
    congr 1
    by_cases h : x.1 = j
    · simp [h, hj]
    · simp [h]

theorem thrFrame_setPreds (l : List (Nat × Bool)) (t : Thread) : thrFrame (setPreds l t) = thrFrame t := by
  unfold setPreds
  induction l generalizing t with
  | nil => rfl
  | cons x l ih => simp only [List.foldl_cons]; rw [ih, thrFrame_setPred]
theorem fpst_setPreds (l : List (Nat × Bool)) (t : Thread) : (setPreds l t).fpst = t.fpst := by
  unfold setPreds
  induction l generalizing t with
  | nil => rfl
  | cons x l ih => simp only [List.foldl_cons]; rw [ih, fpst_setPred]

theorem preds_ext (t u : Thread) (h : ∀ j < 7, predOf t j = predOf u j) : t.preds = u.preds := by
  apply BitVec.eq_of_getLsbD_eq
  intro i hi
  have := h i hi
  unfold predOf at this
  simpa [show ¬ i ≥ 7 by omega] using this

theorem predAfter_idem (l : List (Nat × Bool)) (j : Nat) (o : Bool) : predAfter l j (predAfter l j o) = predAfter l j o := by
  have key : (∀ o, predAfter l j o = o) ∨ ∀ o o', predAfter l j o = predAfter l j o' := by
    unfold predAfter
    induction l with
    | nil => exact .inl fun _ => rfl
    | cons x l ih =>
      rcases ih with ih | ih
      · by_cases h : x.1 = j
        · refine .inr fun o o' => ?_
          simp [h]
        · refine .inl fun o => ?_
          simp [h, ih]
      · refine .inr fun o o' => ?_
        simp only [List.foldl_cons]
        exact ih _ _
  rcases key with h | h
  · exact h _
  · exact h _ _

theorem setPreds_idem (l : List (Nat × Bool)) (t : Thread) : (setPreds l (setPreds l t)).preds = (setPreds l t).preds := by
  apply preds_ext
  intro j hj
  rw [predOf_setPreds _ _ _ hj, predOf_setPreds _ _ _ hj, predAfter_idem]

/-- Predicates depend on the predicates before alone. -/
theorem setPreds_congr (l : List (Nat × Bool)) (t u : Thread) (h : t.preds = u.preds) : (setPreds l t).preds = (setPreds l u).preds := by
  apply preds_ext
  intro j hj
  rw [predOf_setPreds _ _ _ hj, predOf_setPreds _ _ _ hj]
  unfold predOf
  rw [h]

theorem thread_ext (t u : Thread) (h1 : thrFrame t = thrFrame u) (h2 : t.preds = u.preds) (h3 : t.fpst = u.fpst) : t = u := by
  cases t; cases u
  simp only [thrFrame, Thread.mk.injEq] at h1
  simp_all

/-- One step of the predicate writes of several members. -/
def predStep (s : State) (e : Member × Res) : State :=
  if e.2.preds.isEmpty then s else updThr s e.1 fun t => e.2.preds.foldl (fun t x => setPred t x.1 x.2) t

theorem sameFrame_predStep (s : State) (e : Member × Res) : SameFrame s (predStep s e) := by
  unfold predStep
  split
  · exact .refl s
  · exact sameFrame_updThr s e.1 _ fun x => thrFrame_setPreds e.2.preds x

theorem thrOf_predStep (s : State) (e : Member × Res) (m : Member) :
    thrOf (predStep s e) m = if e.1 = m ∧ present s m.warp m.lane = true then setPreds e.2.preds (thrOf s m) else thrOf s m := by
  unfold predStep
  split
  · rename_i h
    have : e.2.preds = [] := by simpa using h
    rw [this]
    split <;> rfl
  · rw [thrOf_updThr]
    by_cases h : e.1 = m
    · subst h; rfl
    · rw [if_neg (fun x => h x.1), if_neg (fun x => h x.1)]

theorem thrOf_foldl_predStep (ms : List Member) (R : Member → Res) (s : State) (m : Member) :
    (thrOf ((ms.map fun m => (m, R m)).foldl predStep s) m).preds =
        (if m ∈ ms ∧ present s m.warp m.lane = true then (setPreds (R m).preds (thrOf s m)).preds else (thrOf s m).preds) ∧
      (thrOf ((ms.map fun m => (m, R m)).foldl predStep s) m).fpst = (thrOf s m).fpst := by
  induction ms generalizing s with
  | nil => simp
  | cons x t ih =>
    simp only [List.map_cons, List.foldl_cons]
    obtain ⟨h1, h2⟩ := ih (predStep s (x, R x))
    have hp := (sameFrame_predStep s (x, R x)).present m.warp m.lane
    have ht := thrOf_predStep s (x, R x) m
    simp only at ht
    rw [h1, h2, hp, ht]
    refine ⟨?_, ?_⟩
    · by_cases hx : x = m
      · subst hx
        by_cases hpr : present s x.warp x.lane = true
        · rw [if_pos (c := x = x ∧ _) ⟨rfl, hpr⟩, if_pos (c := x ∈ x :: t ∧ _) ⟨List.mem_cons_self .., hpr⟩]
          split
          · exact setPreds_idem ..
          · rfl
        · rw [if_neg (fun h => hpr h.2), if_neg (fun h => hpr h.2), if_neg (fun h => hpr h.2)]
      · rw [if_neg (c := x = m ∧ _) (fun h => hx h.1)]
        by_cases hm : m ∈ t
        · by_cases hpr : present s m.warp m.lane = true
          · rw [if_pos ⟨hm, hpr⟩, if_pos ⟨List.mem_cons_of_mem _ hm, hpr⟩]
          · rw [if_neg (fun h => hpr h.2), if_neg (fun h => hpr h.2)]
        · rw [if_neg (fun h => hm h.1), if_neg]
          rintro ⟨h, -⟩
          rcases List.mem_cons.1 h with h | h
          · exact hx h.symm
          · exact hm h
    · split
      · exact fpst_setPreds ..
      · rfl

/-! ### `FPST` -/

def fpStep (s : State) (e : Member × BitVec 6) : State :=
  if (thrOf s e.1).helper then s else updThr s e.1 fun t => { t with fpst := t.fpst ||| e.2 }

theorem sameFrame_fpStep (s : State) (e : Member × BitVec 6) : SameFrame s (fpStep s e) := by
  unfold fpStep
  split
  · exact .refl s
  · exact sameFrame_updThr s e.1 _ fun _ => rfl

theorem thrOf_fpStep (s : State) (e : Member × BitVec 6) (m : Member) :
    thrOf (fpStep s e) m =
      if e.1 = m ∧ present s m.warp m.lane = true ∧ (thrOf s m).helper = false then { thrOf s m with fpst := (thrOf s m).fpst ||| e.2 }
      else thrOf s m := by
  unfold fpStep
  by_cases h : e.1 = m
  · subst h
    cases hh : (thrOf s e.1).helper
    · simp only [Bool.false_eq_true, if_false]
      rw [thrOf_updThr]
      simp
    · simp
  · split
    · simp [h]
    · rw [thrOf_updThr, if_neg (fun x => h x.1), if_neg (fun x => h x.1)]

theorem thrOf_foldl_fpStep (ms : List Member) (R : Member → BitVec 6) (s : State) (m : Member) :
    (thrOf ((ms.map fun m => (m, R m)).foldl fpStep s) m).fpst =
        (if m ∈ ms ∧ present s m.warp m.lane = true ∧ (thrOf s m).helper = false then (thrOf s m).fpst ||| R m else (thrOf s m).fpst) ∧
      (thrOf ((ms.map fun m => (m, R m)).foldl fpStep s) m).preds = (thrOf s m).preds := by
  induction ms generalizing s with
  | nil => simp
  | cons x t ih =>
    simp only [List.map_cons, List.foldl_cons]
    obtain ⟨h1, h2⟩ := ih (fpStep s (x, R x))
    have hf := sameFrame_fpStep s (x, R x)
    have ht := thrOf_fpStep s (x, R x) m
    simp only at ht
    rw [h1, h2, hf.present m.warp m.lane, hf.helper m]
    refine ⟨?_, ?_⟩
    · by_cases hx : x = m
      · subst hx
        by_cases hpr : present s x.warp x.lane = true ∧ (thrOf s x).helper = false
        · rw [if_pos ⟨rfl, hpr⟩] at ht
          rw [if_pos (c := x ∈ x :: t ∧ _) ⟨List.mem_cons_self .., hpr⟩, ht]
          split
          · simp only
            rw [BitVec.or_assoc, BitVec.or_self]
          · rfl
        · rw [if_neg (fun h => hpr h.2)] at ht
          rw [if_neg (fun h => hpr h.2), if_neg (fun h => hpr h.2), ht]
      · rw [if_neg (c := x = m ∧ _) (fun h => hx h.1)] at ht
        rw [ht]
        by_cases hm : m ∈ t
        · by_cases hpr : present s m.warp m.lane = true ∧ (thrOf s m).helper = false
          · rw [if_pos ⟨hm, hpr⟩, if_pos ⟨List.mem_cons_of_mem _ hm, hpr⟩]
          · rw [if_neg (fun h => hpr h.2), if_neg (fun h => hpr h.2)]
        · rw [if_neg (fun h => hm h.1), if_neg]
          rintro ⟨h, -⟩
          rcases List.mem_cons.1 h with h | h
          · exact hx h.symm
          · exact hm h
    · rw [ht]
      split <;> rfl

theorem vreg_predStep (s : State) (e : Member × Res) (w l r : Nat) : vreg (predStep s e) w l r = vreg s w l r := by
  unfold predStep; split
  · rfl
  · exact vreg_updThr ..
theorem ureg_predStep (s : State) (e : Member × Res) (w n : Nat) : ureg (predStep s e) w n = ureg s w n := by
  unfold predStep; split
  · rfl
  · exact ureg_updThr ..
theorem vreg_fpStep (s : State) (e : Member × BitVec 6) (w l r : Nat) : vreg (fpStep s e) w l r = vreg s w l r := by
  unfold fpStep; split
  · rfl
  · exact vreg_updThr ..
theorem ureg_fpStep (s : State) (e : Member × BitVec 6) (w n : Nat) : ureg (fpStep s e) w n = ureg s w n := by
  unfold fpStep; split
  · rfl
  · exact ureg_updThr ..

/-! ### `applyRes` -/

theorem applyRes_eq (s : State) (sh : Shape) (ms : List Member) (R : Member → Res) :
    applyRes s sh (ms.map fun m => (m, R m)) =
      (ms.map fun m => (m, (R m).fp)).foldl fpStep ((ms.map fun m => (m, R m)).foldl predStep (writeD s sh.d (ms.map fun m => (m, (R m).d)))) := by
  unfold applyRes setFpst
  simp only [List.map_map]
  rfl

theorem sameFrame_applyRes (s : State) (sh : Shape) (ms : List Member) (R : Member → Res) :
    SameFrame s (applyRes s sh (ms.map fun m => (m, R m))) := by
  rw [applyRes_eq]
  exact ((sameFrame_writeD ..).trans (SameFrame.foldl _ _ _ sameFrame_predStep)).trans (SameFrame.foldl _ _ _ sameFrame_fpStep)

theorem vreg_applyRes (s : State) (sh : Shape) (ms : List Member) (R : Member → Res) (w l r : Nat) :
    vreg (applyRes s sh (ms.map fun m => (m, R m))) w l r = vreg (writeD s sh.d (ms.map fun m => (m, (R m).d))) w l r := by
  rw [applyRes_eq]
  refine foldl_inv (fun u => vreg u w l r = _) _ _ _ (fun s e h => (vreg_fpStep ..).trans h) ?_
  exact foldl_inv (fun u => vreg u w l r = _) _ _ _ (fun s e h => (vreg_predStep ..).trans h) rfl

theorem ureg_applyRes (s : State) (sh : Shape) (ms : List Member) (R : Member → Res) (w n : Nat) :
    ureg (applyRes s sh (ms.map fun m => (m, R m))) w n = ureg (writeD s sh.d (ms.map fun m => (m, (R m).d))) w n := by
  rw [applyRes_eq]
  refine foldl_inv (fun u => ureg u w n = _) _ _ _ (fun s e h => (ureg_fpStep ..).trans h) ?_
  exact foldl_inv (fun u => ureg u w n = _) _ _ _ (fun s e h => (ureg_predStep ..).trans h) rfl

theorem thrOf_applyRes (s : State) (sh : Shape) (ms : List Member) (R : Member → Res) (m : Member) :
    (thrOf (applyRes s sh (ms.map fun m => (m, R m))) m).preds =
        (if m ∈ ms ∧ present s m.warp m.lane = true then (setPreds (R m).preds (thrOf s m)).preds else (thrOf s m).preds) ∧
    (thrOf (applyRes s sh (ms.map fun m => (m, R m))) m).fpst =
        (if m ∈ ms ∧ present s m.warp m.lane = true ∧ (thrOf s m).helper = false then (thrOf s m).fpst ||| (R m).fp
         else (thrOf s m).fpst) := by
  rw [applyRes_eq]
  have hw := sameFrame_writeD s sh.d (ms.map fun m => (m, (R m).d))
  have hd := thrOf_writeD s sh.d (ms.map fun m => (m, (R m).d)) m
  obtain ⟨p1, p2⟩ := thrOf_foldl_predStep ms R (writeD s sh.d (ms.map fun m => (m, (R m).d))) m
  obtain ⟨f1, f2⟩ := thrOf_foldl_fpStep ms (fun m => (R m).fp)
    ((ms.map fun m => (m, R m)).foldl predStep (writeD s sh.d (ms.map fun m => (m, (R m).d)))) m
  have hp := hw.trans (SameFrame.foldl (ms.map fun m => (m, R m)) predStep _ sameFrame_predStep)
  refine ⟨?_, ?_⟩
  · rw [f2, p1, hd, hw.present]
  · rw [f1, p2, hd, hp.present, hp.helper]

end Sys2Proof.Machine
end

