-- ==== Sys2Proof/Laws/State.lean ====
section
/-! SUPPORT. What each update of the state leaves in each field: one lemma for a field and an update, so that no later proof unfolds a
record update. -/

namespace Sys2Proof.Machine

/-! ### `updWarp` -/

@[simp] theorem updWarp_mem (s : State) (w : Nat) (f : Warp → Warp) : (updWarp s w f).mem = s.mem := rfl
@[simp] theorem updWarp_poison (s : State) (w : Nat) (f : Warp → Warp) : (updWarp s w f).poison = s.poison := rfl
@[simp] theorem updWarp_lineKey (s : State) (w : Nat) (f : Warp → Warp) : (updWarp s w f).lineKey = s.lineKey := rfl
@[simp] theorem updWarp_clk (s : State) (w : Nat) (f : Warp → Warp) : (updWarp s w f).clk = s.clk := rfl
@[simp] theorem updWarp_writes (s : State) (w : Nat) (f : Warp → Warp) : (updWarp s w f).writes = s.writes := rfl
@[simp] theorem updWarp_loads (s : State) (w : Nat) (f : Warp → Warp) : (updWarp s w f).loads = s.loads := rfl
@[simp] theorem updWarp_atoms (s : State) (w : Nat) (f : Warp → Warp) : (updWarp s w f).atoms = s.atoms := rfl
@[simp] theorem updWarp_mcas (s : State) (w : Nat) (f : Warp → Warp) : (updWarp s w f).mcas = s.mcas := rfl
@[simp] theorem updWarp_mats (s : State) (w : Nat) (f : Warp → Warp) : (updWarp s w f).mats = s.mats := rfl
@[simp] theorem updWarp_ops (s : State) (w : Nat) (f : Warp → Warp) : (updWarp s w f).ops = s.ops := rfl
@[simp] theorem updWarp_groups (s : State) (w : Nat) (f : Warp → Warp) : (updWarp s w f).groups = s.groups := rfl
@[simp] theorem updWarp_grids (s : State) (w : Nat) (f : Warp → Warp) : (updWarp s w f).grids = s.grids := rfl
@[simp] theorem updWarp_wgs (s : State) (w : Nat) (f : Warp → Warp) : (updWarp s w f).wgs = s.wgs := rfl
@[simp] theorem updWarp_warps (s : State) (w : Nat) (f : Warp → Warp) : (updWarp s w f).warps = tblUpd s.warps w f := rfl
@[simp] theorem updWarp_savedWgs (s : State) (w : Nat) (f : Warp → Warp) : (updWarp s w f).savedWgs = s.savedWgs := rfl
@[simp] theorem updWarp_savedWarps (s : State) (w : Nat) (f : Warp → Warp) : (updWarp s w f).savedWarps = s.savedWarps := rfl
@[simp] theorem updWarp_lcores (s : State) (w : Nat) (f : Warp → Warp) : (updWarp s w f).lcores = s.lcores := rfl
@[simp] theorem updWarp_pcores (s : State) (w : Nat) (f : Warp → Warp) : (updWarp s w f).pcores = s.pcores := rfl
@[simp] theorem updWarp_dcopies (s : State) (w : Nat) (f : Warp → Warp) : (updWarp s w f).dcopies = s.dcopies := rfl
@[simp] theorem updWarp_ctxs (s : State) (w : Nat) (f : Warp → Warp) : (updWarp s w f).ctxs = s.ctxs := rfl
@[simp] theorem updWarp_parts (s : State) (w : Nat) (f : Warp → Warp) : (updWarp s w f).parts = s.parts := rfl
@[simp] theorem updWarp_pkgs (s : State) (w : Nat) (f : Warp → Warp) : (updWarp s w f).pkgs = s.pkgs := rfl
@[simp] theorem updWarp_protU (s : State) (w : Nat) (f : Warp → Warp) : (updWarp s w f).protU = s.protU := rfl
@[simp] theorem updWarp_snaps (s : State) (w : Nat) (f : Warp → Warp) : (updWarp s w f).snaps = s.snaps := rfl
@[simp] theorem updWarp_loadAnswer (s : State) (w : Nat) (f : Warp → Warp) : (updWarp s w f).loadAnswer = s.loadAnswer := rfl
@[simp] theorem updWarp_inputs (s : State) (w : Nat) (f : Warp → Warp) : (updWarp s w f).inputs = s.inputs := rfl
@[simp] theorem updWarp_free (s : State) (w : Nat) (f : Warp → Warp) : (updWarp s w f).free = s.free := rfl
@[simp] theorem updWarp_nextId (s : State) (w : Nat) (f : Warp → Warp) : (updWarp s w f).nextId = s.nextId := rfl
@[simp] theorem updWarp_cur (s : State) (w : Nat) (f : Warp → Warp) : (updWarp s w f).cur = s.cur := rfl
@[simp] theorem updWarp_arg (s : State) (w : Nat) (f : Warp → Warp) : (updWarp s w f).arg = s.arg := rfl

/-! ### `updThr` -/

@[simp] theorem updThr_mem (s : State) (m : Member) (f : Thread → Thread) : (updThr s m f).mem = s.mem := rfl
@[simp] theorem updThr_poison (s : State) (m : Member) (f : Thread → Thread) : (updThr s m f).poison = s.poison := rfl
@[simp] theorem updThr_lineKey (s : State) (m : Member) (f : Thread → Thread) : (updThr s m f).lineKey = s.lineKey := rfl
@[simp] theorem updThr_clk (s : State) (m : Member) (f : Thread → Thread) : (updThr s m f).clk = s.clk := rfl
@[simp] theorem updThr_writes (s : State) (m : Member) (f : Thread → Thread) : (updThr s m f).writes = s.writes := rfl
@[simp] theorem updThr_loads (s : State) (m : Member) (f : Thread → Thread) : (updThr s m f).loads = s.loads := rfl
@[simp] theorem updThr_atoms (s : State) (m : Member) (f : Thread → Thread) : (updThr s m f).atoms = s.atoms := rfl
@[simp] theorem updThr_mcas (s : State) (m : Member) (f : Thread → Thread) : (updThr s m f).mcas = s.mcas := rfl
@[simp] theorem updThr_mats (s : State) (m : Member) (f : Thread → Thread) : (updThr s m f).mats = s.mats := rfl
@[simp] theorem updThr_ops (s : State) (m : Member) (f : Thread → Thread) : (updThr s m f).ops = s.ops := rfl
@[simp] theorem updThr_groups (s : State) (m : Member) (f : Thread → Thread) : (updThr s m f).groups = s.groups := rfl
@[simp] theorem updThr_grids (s : State) (m : Member) (f : Thread → Thread) : (updThr s m f).grids = s.grids := rfl
@[simp] theorem updThr_wgs (s : State) (m : Member) (f : Thread → Thread) : (updThr s m f).wgs = s.wgs := rfl
@[simp] theorem updThr_warps (s : State) (m : Member) (f : Thread → Thread) : (updThr s m f).warps = tblUpd s.warps m.warp fun w => { w with lanes := tblUpd w.lanes m.lane f } := rfl
@[simp] theorem updThr_savedWgs (s : State) (m : Member) (f : Thread → Thread) : (updThr s m f).savedWgs = s.savedWgs := rfl
@[simp] theorem updThr_savedWarps (s : State) (m : Member) (f : Thread → Thread) : (updThr s m f).savedWarps = s.savedWarps := rfl
@[simp] theorem updThr_lcores (s : State) (m : Member) (f : Thread → Thread) : (updThr s m f).lcores = s.lcores := rfl
@[simp] theorem updThr_pcores (s : State) (m : Member) (f : Thread → Thread) : (updThr s m f).pcores = s.pcores := rfl
@[simp] theorem updThr_dcopies (s : State) (m : Member) (f : Thread → Thread) : (updThr s m f).dcopies = s.dcopies := rfl
@[simp] theorem updThr_ctxs (s : State) (m : Member) (f : Thread → Thread) : (updThr s m f).ctxs = s.ctxs := rfl
@[simp] theorem updThr_parts (s : State) (m : Member) (f : Thread → Thread) : (updThr s m f).parts = s.parts := rfl
@[simp] theorem updThr_pkgs (s : State) (m : Member) (f : Thread → Thread) : (updThr s m f).pkgs = s.pkgs := rfl
@[simp] theorem updThr_protU (s : State) (m : Member) (f : Thread → Thread) : (updThr s m f).protU = s.protU := rfl
@[simp] theorem updThr_snaps (s : State) (m : Member) (f : Thread → Thread) : (updThr s m f).snaps = s.snaps := rfl
@[simp] theorem updThr_loadAnswer (s : State) (m : Member) (f : Thread → Thread) : (updThr s m f).loadAnswer = s.loadAnswer := rfl
@[simp] theorem updThr_inputs (s : State) (m : Member) (f : Thread → Thread) : (updThr s m f).inputs = s.inputs := rfl
@[simp] theorem updThr_free (s : State) (m : Member) (f : Thread → Thread) : (updThr s m f).free = s.free := rfl
@[simp] theorem updThr_nextId (s : State) (m : Member) (f : Thread → Thread) : (updThr s m f).nextId = s.nextId := rfl
@[simp] theorem updThr_cur (s : State) (m : Member) (f : Thread → Thread) : (updThr s m f).cur = s.cur := rfl
@[simp] theorem updThr_arg (s : State) (m : Member) (f : Thread → Thread) : (updThr s m f).arg = s.arg := rfl

/-! ### `updWg` -/

@[simp] theorem updWg_mem (s : State) (g : Nat) (f : Wg → Wg) : (updWg s g f).mem = s.mem := rfl
@[simp] theorem updWg_poison (s : State) (g : Nat) (f : Wg → Wg) : (updWg s g f).poison = s.poison := rfl
@[simp] theorem updWg_lineKey (s : State) (g : Nat) (f : Wg → Wg) : (updWg s g f).lineKey = s.lineKey := rfl
@[simp] theorem updWg_clk (s : State) (g : Nat) (f : Wg → Wg) : (updWg s g f).clk = s.clk := rfl
@[simp] theorem updWg_writes (s : State) (g : Nat) (f : Wg → Wg) : (updWg s g f).writes = s.writes := rfl
@[simp] theorem updWg_loads (s : State) (g : Nat) (f : Wg → Wg) : (updWg s g f).loads = s.loads := rfl
@[simp] theorem updWg_atoms (s : State) (g : Nat) (f : Wg → Wg) : (updWg s g f).atoms = s.atoms := rfl
@[simp] theorem updWg_mcas (s : State) (g : Nat) (f : Wg → Wg) : (updWg s g f).mcas = s.mcas := rfl
@[simp] theorem updWg_mats (s : State) (g : Nat) (f : Wg → Wg) : (updWg s g f).mats = s.mats := rfl
@[simp] theorem updWg_ops (s : State) (g : Nat) (f : Wg → Wg) : (updWg s g f).ops = s.ops := rfl
@[simp] theorem updWg_groups (s : State) (g : Nat) (f : Wg → Wg) : (updWg s g f).groups = s.groups := rfl
@[simp] theorem updWg_grids (s : State) (g : Nat) (f : Wg → Wg) : (updWg s g f).grids = s.grids := rfl
@[simp] theorem updWg_wgs (s : State) (g : Nat) (f : Wg → Wg) : (updWg s g f).wgs = tblUpd s.wgs g f := rfl
@[simp] theorem updWg_warps (s : State) (g : Nat) (f : Wg → Wg) : (updWg s g f).warps = s.warps := rfl
@[simp] theorem updWg_savedWgs (s : State) (g : Nat) (f : Wg → Wg) : (updWg s g f).savedWgs = s.savedWgs := rfl
@[simp] theorem updWg_savedWarps (s : State) (g : Nat) (f : Wg → Wg) : (updWg s g f).savedWarps = s.savedWarps := rfl
@[simp] theorem updWg_lcores (s : State) (g : Nat) (f : Wg → Wg) : (updWg s g f).lcores = s.lcores := rfl
@[simp] theorem updWg_pcores (s : State) (g : Nat) (f : Wg → Wg) : (updWg s g f).pcores = s.pcores := rfl
@[simp] theorem updWg_dcopies (s : State) (g : Nat) (f : Wg → Wg) : (updWg s g f).dcopies = s.dcopies := rfl
@[simp] theorem updWg_ctxs (s : State) (g : Nat) (f : Wg → Wg) : (updWg s g f).ctxs = s.ctxs := rfl
@[simp] theorem updWg_parts (s : State) (g : Nat) (f : Wg → Wg) : (updWg s g f).parts = s.parts := rfl
@[simp] theorem updWg_pkgs (s : State) (g : Nat) (f : Wg → Wg) : (updWg s g f).pkgs = s.pkgs := rfl
@[simp] theorem updWg_protU (s : State) (g : Nat) (f : Wg → Wg) : (updWg s g f).protU = s.protU := rfl
@[simp] theorem updWg_snaps (s : State) (g : Nat) (f : Wg → Wg) : (updWg s g f).snaps = s.snaps := rfl
@[simp] theorem updWg_loadAnswer (s : State) (g : Nat) (f : Wg → Wg) : (updWg s g f).loadAnswer = s.loadAnswer := rfl
@[simp] theorem updWg_inputs (s : State) (g : Nat) (f : Wg → Wg) : (updWg s g f).inputs = s.inputs := rfl
@[simp] theorem updWg_free (s : State) (g : Nat) (f : Wg → Wg) : (updWg s g f).free = s.free := rfl
@[simp] theorem updWg_nextId (s : State) (g : Nat) (f : Wg → Wg) : (updWg s g f).nextId = s.nextId := rfl
@[simp] theorem updWg_cur (s : State) (g : Nat) (f : Wg → Wg) : (updWg s g f).cur = s.cur := rfl
@[simp] theorem updWg_arg (s : State) (g : Nat) (f : Wg → Wg) : (updWg s g f).arg = s.arg := rfl

/-! ### `updLcore` -/

@[simp] theorem updLcore_mem (s : State) (k : Nat) (f : LCore → LCore) : (updLcore s k f).mem = s.mem := rfl
@[simp] theorem updLcore_poison (s : State) (k : Nat) (f : LCore → LCore) : (updLcore s k f).poison = s.poison := rfl
@[simp] theorem updLcore_lineKey (s : State) (k : Nat) (f : LCore → LCore) : (updLcore s k f).lineKey = s.lineKey := rfl
@[simp] theorem updLcore_clk (s : State) (k : Nat) (f : LCore → LCore) : (updLcore s k f).clk = s.clk := rfl
@[simp] theorem updLcore_writes (s : State) (k : Nat) (f : LCore → LCore) : (updLcore s k f).writes = s.writes := rfl
@[simp] theorem updLcore_loads (s : State) (k : Nat) (f : LCore → LCore) : (updLcore s k f).loads = s.loads := rfl
@[simp] theorem updLcore_atoms (s : State) (k : Nat) (f : LCore → LCore) : (updLcore s k f).atoms = s.atoms := rfl
@[simp] theorem updLcore_mcas (s : State) (k : Nat) (f : LCore → LCore) : (updLcore s k f).mcas = s.mcas := rfl
@[simp] theorem updLcore_mats (s : State) (k : Nat) (f : LCore → LCore) : (updLcore s k f).mats = s.mats := rfl
@[simp] theorem updLcore_ops (s : State) (k : Nat) (f : LCore → LCore) : (updLcore s k f).ops = s.ops := rfl
@[simp] theorem updLcore_groups (s : State) (k : Nat) (f : LCore → LCore) : (updLcore s k f).groups = s.groups := rfl
@[simp] theorem updLcore_grids (s : State) (k : Nat) (f : LCore → LCore) : (updLcore s k f).grids = s.grids := rfl
@[simp] theorem updLcore_wgs (s : State) (k : Nat) (f : LCore → LCore) : (updLcore s k f).wgs = s.wgs := rfl
@[simp] theorem updLcore_warps (s : State) (k : Nat) (f : LCore → LCore) : (updLcore s k f).warps = s.warps := rfl
@[simp] theorem updLcore_savedWgs (s : State) (k : Nat) (f : LCore → LCore) : (updLcore s k f).savedWgs = s.savedWgs := rfl
@[simp] theorem updLcore_savedWarps (s : State) (k : Nat) (f : LCore → LCore) : (updLcore s k f).savedWarps = s.savedWarps := rfl
@[simp] theorem updLcore_lcores (s : State) (k : Nat) (f : LCore → LCore) : (updLcore s k f).lcores = tblUpd s.lcores k f := rfl
@[simp] theorem updLcore_pcores (s : State) (k : Nat) (f : LCore → LCore) : (updLcore s k f).pcores = s.pcores := rfl
@[simp] theorem updLcore_dcopies (s : State) (k : Nat) (f : LCore → LCore) : (updLcore s k f).dcopies = s.dcopies := rfl
@[simp] theorem updLcore_ctxs (s : State) (k : Nat) (f : LCore → LCore) : (updLcore s k f).ctxs = s.ctxs := rfl
@[simp] theorem updLcore_parts (s : State) (k : Nat) (f : LCore → LCore) : (updLcore s k f).parts = s.parts := rfl
@[simp] theorem updLcore_pkgs (s : State) (k : Nat) (f : LCore → LCore) : (updLcore s k f).pkgs = s.pkgs := rfl
@[simp] theorem updLcore_protU (s : State) (k : Nat) (f : LCore → LCore) : (updLcore s k f).protU = s.protU := rfl
@[simp] theorem updLcore_snaps (s : State) (k : Nat) (f : LCore → LCore) : (updLcore s k f).snaps = s.snaps := rfl
@[simp] theorem updLcore_loadAnswer (s : State) (k : Nat) (f : LCore → LCore) : (updLcore s k f).loadAnswer = s.loadAnswer := rfl
@[simp] theorem updLcore_inputs (s : State) (k : Nat) (f : LCore → LCore) : (updLcore s k f).inputs = s.inputs := rfl
@[simp] theorem updLcore_free (s : State) (k : Nat) (f : LCore → LCore) : (updLcore s k f).free = s.free := rfl
@[simp] theorem updLcore_nextId (s : State) (k : Nat) (f : LCore → LCore) : (updLcore s k f).nextId = s.nextId := rfl
@[simp] theorem updLcore_cur (s : State) (k : Nat) (f : LCore → LCore) : (updLcore s k f).cur = s.cur := rfl
@[simp] theorem updLcore_arg (s : State) (k : Nat) (f : LCore → LCore) : (updLcore s k f).arg = s.arg := rfl

/-! ### `updPart` -/

@[simp] theorem updPart_mem (s : State) (k : Nat) (f : Part → Part) : (updPart s k f).mem = s.mem := rfl
@[simp] theorem updPart_poison (s : State) (k : Nat) (f : Part → Part) : (updPart s k f).poison = s.poison := rfl
@[simp] theorem updPart_lineKey (s : State) (k : Nat) (f : Part → Part) : (updPart s k f).lineKey = s.lineKey := rfl
@[simp] theorem updPart_clk (s : State) (k : Nat) (f : Part → Part) : (updPart s k f).clk = s.clk := rfl
@[simp] theorem updPart_writes (s : State) (k : Nat) (f : Part → Part) : (updPart s k f).writes = s.writes := rfl
@[simp] theorem updPart_loads (s : State) (k : Nat) (f : Part → Part) : (updPart s k f).loads = s.loads := rfl
@[simp] theorem updPart_atoms (s : State) (k : Nat) (f : Part → Part) : (updPart s k f).atoms = s.atoms := rfl
@[simp] theorem updPart_mcas (s : State) (k : Nat) (f : Part → Part) : (updPart s k f).mcas = s.mcas := rfl
@[simp] theorem updPart_mats (s : State) (k : Nat) (f : Part → Part) : (updPart s k f).mats = s.mats := rfl
@[simp] theorem updPart_ops (s : State) (k : Nat) (f : Part → Part) : (updPart s k f).ops = s.ops := rfl
@[simp] theorem updPart_groups (s : State) (k : Nat) (f : Part → Part) : (updPart s k f).groups = s.groups := rfl
@[simp] theorem updPart_grids (s : State) (k : Nat) (f : Part → Part) : (updPart s k f).grids = s.grids := rfl
@[simp] theorem updPart_wgs (s : State) (k : Nat) (f : Part → Part) : (updPart s k f).wgs = s.wgs := rfl
@[simp] theorem updPart_warps (s : State) (k : Nat) (f : Part → Part) : (updPart s k f).warps = s.warps := rfl
@[simp] theorem updPart_savedWgs (s : State) (k : Nat) (f : Part → Part) : (updPart s k f).savedWgs = s.savedWgs := rfl
@[simp] theorem updPart_savedWarps (s : State) (k : Nat) (f : Part → Part) : (updPart s k f).savedWarps = s.savedWarps := rfl
@[simp] theorem updPart_lcores (s : State) (k : Nat) (f : Part → Part) : (updPart s k f).lcores = s.lcores := rfl
@[simp] theorem updPart_pcores (s : State) (k : Nat) (f : Part → Part) : (updPart s k f).pcores = s.pcores := rfl
@[simp] theorem updPart_dcopies (s : State) (k : Nat) (f : Part → Part) : (updPart s k f).dcopies = s.dcopies := rfl
@[simp] theorem updPart_ctxs (s : State) (k : Nat) (f : Part → Part) : (updPart s k f).ctxs = s.ctxs := rfl
@[simp] theorem updPart_parts (s : State) (k : Nat) (f : Part → Part) : (updPart s k f).parts = tblUpd s.parts k f := rfl
@[simp] theorem updPart_pkgs (s : State) (k : Nat) (f : Part → Part) : (updPart s k f).pkgs = s.pkgs := rfl
@[simp] theorem updPart_protU (s : State) (k : Nat) (f : Part → Part) : (updPart s k f).protU = s.protU := rfl
@[simp] theorem updPart_snaps (s : State) (k : Nat) (f : Part → Part) : (updPart s k f).snaps = s.snaps := rfl
@[simp] theorem updPart_loadAnswer (s : State) (k : Nat) (f : Part → Part) : (updPart s k f).loadAnswer = s.loadAnswer := rfl
@[simp] theorem updPart_inputs (s : State) (k : Nat) (f : Part → Part) : (updPart s k f).inputs = s.inputs := rfl
@[simp] theorem updPart_free (s : State) (k : Nat) (f : Part → Part) : (updPart s k f).free = s.free := rfl
@[simp] theorem updPart_nextId (s : State) (k : Nat) (f : Part → Part) : (updPart s k f).nextId = s.nextId := rfl
@[simp] theorem updPart_cur (s : State) (k : Nat) (f : Part → Part) : (updPart s k f).cur = s.cur := rfl
@[simp] theorem updPart_arg (s : State) (k : Nat) (f : Part → Part) : (updPart s k f).arg = s.arg := rfl

/-! ### `updCtx` -/

@[simp] theorem updCtx_mem (s : State) (k : Nat) (f : Ctx → Ctx) : (updCtx s k f).mem = s.mem := rfl
@[simp] theorem updCtx_poison (s : State) (k : Nat) (f : Ctx → Ctx) : (updCtx s k f).poison = s.poison := rfl
@[simp] theorem updCtx_lineKey (s : State) (k : Nat) (f : Ctx → Ctx) : (updCtx s k f).lineKey = s.lineKey := rfl
@[simp] theorem updCtx_clk (s : State) (k : Nat) (f : Ctx → Ctx) : (updCtx s k f).clk = s.clk := rfl
@[simp] theorem updCtx_writes (s : State) (k : Nat) (f : Ctx → Ctx) : (updCtx s k f).writes = s.writes := rfl
@[simp] theorem updCtx_loads (s : State) (k : Nat) (f : Ctx → Ctx) : (updCtx s k f).loads = s.loads := rfl
@[simp] theorem updCtx_atoms (s : State) (k : Nat) (f : Ctx → Ctx) : (updCtx s k f).atoms = s.atoms := rfl
@[simp] theorem updCtx_mcas (s : State) (k : Nat) (f : Ctx → Ctx) : (updCtx s k f).mcas = s.mcas := rfl
@[simp] theorem updCtx_mats (s : State) (k : Nat) (f : Ctx → Ctx) : (updCtx s k f).mats = s.mats := rfl
@[simp] theorem updCtx_ops (s : State) (k : Nat) (f : Ctx → Ctx) : (updCtx s k f).ops = s.ops := rfl
@[simp] theorem updCtx_groups (s : State) (k : Nat) (f : Ctx → Ctx) : (updCtx s k f).groups = s.groups := rfl
@[simp] theorem updCtx_grids (s : State) (k : Nat) (f : Ctx → Ctx) : (updCtx s k f).grids = s.grids := rfl
@[simp] theorem updCtx_wgs (s : State) (k : Nat) (f : Ctx → Ctx) : (updCtx s k f).wgs = s.wgs := rfl
@[simp] theorem updCtx_warps (s : State) (k : Nat) (f : Ctx → Ctx) : (updCtx s k f).warps = s.warps := rfl
@[simp] theorem updCtx_savedWgs (s : State) (k : Nat) (f : Ctx → Ctx) : (updCtx s k f).savedWgs = s.savedWgs := rfl
@[simp] theorem updCtx_savedWarps (s : State) (k : Nat) (f : Ctx → Ctx) : (updCtx s k f).savedWarps = s.savedWarps := rfl
@[simp] theorem updCtx_lcores (s : State) (k : Nat) (f : Ctx → Ctx) : (updCtx s k f).lcores = s.lcores := rfl
@[simp] theorem updCtx_pcores (s : State) (k : Nat) (f : Ctx → Ctx) : (updCtx s k f).pcores = s.pcores := rfl
@[simp] theorem updCtx_dcopies (s : State) (k : Nat) (f : Ctx → Ctx) : (updCtx s k f).dcopies = s.dcopies := rfl
@[simp] theorem updCtx_ctxs (s : State) (k : Nat) (f : Ctx → Ctx) : (updCtx s k f).ctxs = tblUpd s.ctxs k f := rfl
@[simp] theorem updCtx_parts (s : State) (k : Nat) (f : Ctx → Ctx) : (updCtx s k f).parts = s.parts := rfl
@[simp] theorem updCtx_pkgs (s : State) (k : Nat) (f : Ctx → Ctx) : (updCtx s k f).pkgs = s.pkgs := rfl
@[simp] theorem updCtx_protU (s : State) (k : Nat) (f : Ctx → Ctx) : (updCtx s k f).protU = s.protU := rfl
@[simp] theorem updCtx_snaps (s : State) (k : Nat) (f : Ctx → Ctx) : (updCtx s k f).snaps = s.snaps := rfl
@[simp] theorem updCtx_loadAnswer (s : State) (k : Nat) (f : Ctx → Ctx) : (updCtx s k f).loadAnswer = s.loadAnswer := rfl
@[simp] theorem updCtx_inputs (s : State) (k : Nat) (f : Ctx → Ctx) : (updCtx s k f).inputs = s.inputs := rfl
@[simp] theorem updCtx_free (s : State) (k : Nat) (f : Ctx → Ctx) : (updCtx s k f).free = s.free := rfl
@[simp] theorem updCtx_nextId (s : State) (k : Nat) (f : Ctx → Ctx) : (updCtx s k f).nextId = s.nextId := rfl
@[simp] theorem updCtx_cur (s : State) (k : Nat) (f : Ctx → Ctx) : (updCtx s k f).cur = s.cur := rfl
@[simp] theorem updCtx_arg (s : State) (k : Nat) (f : Ctx → Ctx) : (updCtx s k f).arg = s.arg := rfl

/-! ### `updGrid` -/

@[simp] theorem updGrid_mem (s : State) (k : Nat) (f : Grid → Grid) : (updGrid s k f).mem = s.mem := rfl
@[simp] theorem updGrid_poison (s : State) (k : Nat) (f : Grid → Grid) : (updGrid s k f).poison = s.poison := rfl
@[simp] theorem updGrid_lineKey (s : State) (k : Nat) (f : Grid → Grid) : (updGrid s k f).lineKey = s.lineKey := rfl
@[simp] theorem updGrid_clk (s : State) (k : Nat) (f : Grid → Grid) : (updGrid s k f).clk = s.clk := rfl
@[simp] theorem updGrid_writes (s : State) (k : Nat) (f : Grid → Grid) : (updGrid s k f).writes = s.writes := rfl
@[simp] theorem updGrid_loads (s : State) (k : Nat) (f : Grid → Grid) : (updGrid s k f).loads = s.loads := rfl
@[simp] theorem updGrid_atoms (s : State) (k : Nat) (f : Grid → Grid) : (updGrid s k f).atoms = s.atoms := rfl
@[simp] theorem updGrid_mcas (s : State) (k : Nat) (f : Grid → Grid) : (updGrid s k f).mcas = s.mcas := rfl
@[simp] theorem updGrid_mats (s : State) (k : Nat) (f : Grid → Grid) : (updGrid s k f).mats = s.mats := rfl
@[simp] theorem updGrid_ops (s : State) (k : Nat) (f : Grid → Grid) : (updGrid s k f).ops = s.ops := rfl
@[simp] theorem updGrid_groups (s : State) (k : Nat) (f : Grid → Grid) : (updGrid s k f).groups = s.groups := rfl
@[simp] theorem updGrid_grids (s : State) (k : Nat) (f : Grid → Grid) : (updGrid s k f).grids = tblUpd s.grids k f := rfl
@[simp] theorem updGrid_wgs (s : State) (k : Nat) (f : Grid → Grid) : (updGrid s k f).wgs = s.wgs := rfl
@[simp] theorem updGrid_warps (s : State) (k : Nat) (f : Grid → Grid) : (updGrid s k f).warps = s.warps := rfl
@[simp] theorem updGrid_savedWgs (s : State) (k : Nat) (f : Grid → Grid) : (updGrid s k f).savedWgs = s.savedWgs := rfl
@[simp] theorem updGrid_savedWarps (s : State) (k : Nat) (f : Grid → Grid) : (updGrid s k f).savedWarps = s.savedWarps := rfl
@[simp] theorem updGrid_lcores (s : State) (k : Nat) (f : Grid → Grid) : (updGrid s k f).lcores = s.lcores := rfl
@[simp] theorem updGrid_pcores (s : State) (k : Nat) (f : Grid → Grid) : (updGrid s k f).pcores = s.pcores := rfl
@[simp] theorem updGrid_dcopies (s : State) (k : Nat) (f : Grid → Grid) : (updGrid s k f).dcopies = s.dcopies := rfl
@[simp] theorem updGrid_ctxs (s : State) (k : Nat) (f : Grid → Grid) : (updGrid s k f).ctxs = s.ctxs := rfl
@[simp] theorem updGrid_parts (s : State) (k : Nat) (f : Grid → Grid) : (updGrid s k f).parts = s.parts := rfl
@[simp] theorem updGrid_pkgs (s : State) (k : Nat) (f : Grid → Grid) : (updGrid s k f).pkgs = s.pkgs := rfl
@[simp] theorem updGrid_protU (s : State) (k : Nat) (f : Grid → Grid) : (updGrid s k f).protU = s.protU := rfl
@[simp] theorem updGrid_snaps (s : State) (k : Nat) (f : Grid → Grid) : (updGrid s k f).snaps = s.snaps := rfl
@[simp] theorem updGrid_loadAnswer (s : State) (k : Nat) (f : Grid → Grid) : (updGrid s k f).loadAnswer = s.loadAnswer := rfl
@[simp] theorem updGrid_inputs (s : State) (k : Nat) (f : Grid → Grid) : (updGrid s k f).inputs = s.inputs := rfl
@[simp] theorem updGrid_free (s : State) (k : Nat) (f : Grid → Grid) : (updGrid s k f).free = s.free := rfl
@[simp] theorem updGrid_nextId (s : State) (k : Nat) (f : Grid → Grid) : (updGrid s k f).nextId = s.nextId := rfl
@[simp] theorem updGrid_cur (s : State) (k : Nat) (f : Grid → Grid) : (updGrid s k f).cur = s.cur := rfl
@[simp] theorem updGrid_arg (s : State) (k : Nat) (f : Grid → Grid) : (updGrid s k f).arg = s.arg := rfl

/-! ### `updPcore` -/

@[simp] theorem updPcore_mem (s : State) (k : Nat) (f : PCore → PCore) : (updPcore s k f).mem = s.mem := rfl
@[simp] theorem updPcore_poison (s : State) (k : Nat) (f : PCore → PCore) : (updPcore s k f).poison = s.poison := rfl
@[simp] theorem updPcore_lineKey (s : State) (k : Nat) (f : PCore → PCore) : (updPcore s k f).lineKey = s.lineKey := rfl
@[simp] theorem updPcore_clk (s : State) (k : Nat) (f : PCore → PCore) : (updPcore s k f).clk = s.clk := rfl
@[simp] theorem updPcore_writes (s : State) (k : Nat) (f : PCore → PCore) : (updPcore s k f).writes = s.writes := rfl
@[simp] theorem updPcore_loads (s : State) (k : Nat) (f : PCore → PCore) : (updPcore s k f).loads = s.loads := rfl
@[simp] theorem updPcore_atoms (s : State) (k : Nat) (f : PCore → PCore) : (updPcore s k f).atoms = s.atoms := rfl
@[simp] theorem updPcore_mcas (s : State) (k : Nat) (f : PCore → PCore) : (updPcore s k f).mcas = s.mcas := rfl
@[simp] theorem updPcore_mats (s : State) (k : Nat) (f : PCore → PCore) : (updPcore s k f).mats = s.mats := rfl
@[simp] theorem updPcore_ops (s : State) (k : Nat) (f : PCore → PCore) : (updPcore s k f).ops = s.ops := rfl
@[simp] theorem updPcore_groups (s : State) (k : Nat) (f : PCore → PCore) : (updPcore s k f).groups = s.groups := rfl
@[simp] theorem updPcore_grids (s : State) (k : Nat) (f : PCore → PCore) : (updPcore s k f).grids = s.grids := rfl
@[simp] theorem updPcore_wgs (s : State) (k : Nat) (f : PCore → PCore) : (updPcore s k f).wgs = s.wgs := rfl
@[simp] theorem updPcore_warps (s : State) (k : Nat) (f : PCore → PCore) : (updPcore s k f).warps = s.warps := rfl
@[simp] theorem updPcore_savedWgs (s : State) (k : Nat) (f : PCore → PCore) : (updPcore s k f).savedWgs = s.savedWgs := rfl
@[simp] theorem updPcore_savedWarps (s : State) (k : Nat) (f : PCore → PCore) : (updPcore s k f).savedWarps = s.savedWarps := rfl
@[simp] theorem updPcore_lcores (s : State) (k : Nat) (f : PCore → PCore) : (updPcore s k f).lcores = s.lcores := rfl
@[simp] theorem updPcore_pcores (s : State) (k : Nat) (f : PCore → PCore) : (updPcore s k f).pcores = tblSet s.pcores k (f (pcoreAt s k)) := rfl
@[simp] theorem updPcore_dcopies (s : State) (k : Nat) (f : PCore → PCore) : (updPcore s k f).dcopies = s.dcopies := rfl
@[simp] theorem updPcore_ctxs (s : State) (k : Nat) (f : PCore → PCore) : (updPcore s k f).ctxs = s.ctxs := rfl
@[simp] theorem updPcore_parts (s : State) (k : Nat) (f : PCore → PCore) : (updPcore s k f).parts = s.parts := rfl
@[simp] theorem updPcore_pkgs (s : State) (k : Nat) (f : PCore → PCore) : (updPcore s k f).pkgs = s.pkgs := rfl
@[simp] theorem updPcore_protU (s : State) (k : Nat) (f : PCore → PCore) : (updPcore s k f).protU = s.protU := rfl
@[simp] theorem updPcore_snaps (s : State) (k : Nat) (f : PCore → PCore) : (updPcore s k f).snaps = s.snaps := rfl
@[simp] theorem updPcore_loadAnswer (s : State) (k : Nat) (f : PCore → PCore) : (updPcore s k f).loadAnswer = s.loadAnswer := rfl
@[simp] theorem updPcore_inputs (s : State) (k : Nat) (f : PCore → PCore) : (updPcore s k f).inputs = s.inputs := rfl
@[simp] theorem updPcore_free (s : State) (k : Nat) (f : PCore → PCore) : (updPcore s k f).free = s.free := rfl
@[simp] theorem updPcore_nextId (s : State) (k : Nat) (f : PCore → PCore) : (updPcore s k f).nextId = s.nextId := rfl
@[simp] theorem updPcore_cur (s : State) (k : Nat) (f : PCore → PCore) : (updPcore s k f).cur = s.cur := rfl
@[simp] theorem updPcore_arg (s : State) (k : Nat) (f : PCore → PCore) : (updPcore s k f).arg = s.arg := rfl

/-! ### `updPkg` -/

@[simp] theorem updPkg_mem (s : State) (k : Nat) (f : Pkg → Pkg) : (updPkg s k f).mem = s.mem := rfl
@[simp] theorem updPkg_poison (s : State) (k : Nat) (f : Pkg → Pkg) : (updPkg s k f).poison = s.poison := rfl
@[simp] theorem updPkg_lineKey (s : State) (k : Nat) (f : Pkg → Pkg) : (updPkg s k f).lineKey = s.lineKey := rfl
@[simp] theorem updPkg_clk (s : State) (k : Nat) (f : Pkg → Pkg) : (updPkg s k f).clk = s.clk := rfl
@[simp] theorem updPkg_writes (s : State) (k : Nat) (f : Pkg → Pkg) : (updPkg s k f).writes = s.writes := rfl
@[simp] theorem updPkg_loads (s : State) (k : Nat) (f : Pkg → Pkg) : (updPkg s k f).loads = s.loads := rfl
@[simp] theorem updPkg_atoms (s : State) (k : Nat) (f : Pkg → Pkg) : (updPkg s k f).atoms = s.atoms := rfl
@[simp] theorem updPkg_mcas (s : State) (k : Nat) (f : Pkg → Pkg) : (updPkg s k f).mcas = s.mcas := rfl
@[simp] theorem updPkg_mats (s : State) (k : Nat) (f : Pkg → Pkg) : (updPkg s k f).mats = s.mats := rfl
@[simp] theorem updPkg_ops (s : State) (k : Nat) (f : Pkg → Pkg) : (updPkg s k f).ops = s.ops := rfl
@[simp] theorem updPkg_groups (s : State) (k : Nat) (f : Pkg → Pkg) : (updPkg s k f).groups = s.groups := rfl
@[simp] theorem updPkg_grids (s : State) (k : Nat) (f : Pkg → Pkg) : (updPkg s k f).grids = s.grids := rfl
@[simp] theorem updPkg_wgs (s : State) (k : Nat) (f : Pkg → Pkg) : (updPkg s k f).wgs = s.wgs := rfl
@[simp] theorem updPkg_warps (s : State) (k : Nat) (f : Pkg → Pkg) : (updPkg s k f).warps = s.warps := rfl
@[simp] theorem updPkg_savedWgs (s : State) (k : Nat) (f : Pkg → Pkg) : (updPkg s k f).savedWgs = s.savedWgs := rfl
@[simp] theorem updPkg_savedWarps (s : State) (k : Nat) (f : Pkg → Pkg) : (updPkg s k f).savedWarps = s.savedWarps := rfl
@[simp] theorem updPkg_lcores (s : State) (k : Nat) (f : Pkg → Pkg) : (updPkg s k f).lcores = s.lcores := rfl
@[simp] theorem updPkg_pcores (s : State) (k : Nat) (f : Pkg → Pkg) : (updPkg s k f).pcores = s.pcores := rfl
@[simp] theorem updPkg_dcopies (s : State) (k : Nat) (f : Pkg → Pkg) : (updPkg s k f).dcopies = s.dcopies := rfl
@[simp] theorem updPkg_ctxs (s : State) (k : Nat) (f : Pkg → Pkg) : (updPkg s k f).ctxs = s.ctxs := rfl
@[simp] theorem updPkg_parts (s : State) (k : Nat) (f : Pkg → Pkg) : (updPkg s k f).parts = s.parts := rfl
@[simp] theorem updPkg_pkgs (s : State) (k : Nat) (f : Pkg → Pkg) : (updPkg s k f).pkgs = tblUpd s.pkgs k f := rfl
@[simp] theorem updPkg_protU (s : State) (k : Nat) (f : Pkg → Pkg) : (updPkg s k f).protU = s.protU := rfl
@[simp] theorem updPkg_snaps (s : State) (k : Nat) (f : Pkg → Pkg) : (updPkg s k f).snaps = s.snaps := rfl
@[simp] theorem updPkg_loadAnswer (s : State) (k : Nat) (f : Pkg → Pkg) : (updPkg s k f).loadAnswer = s.loadAnswer := rfl
@[simp] theorem updPkg_inputs (s : State) (k : Nat) (f : Pkg → Pkg) : (updPkg s k f).inputs = s.inputs := rfl
@[simp] theorem updPkg_free (s : State) (k : Nat) (f : Pkg → Pkg) : (updPkg s k f).free = s.free := rfl
@[simp] theorem updPkg_nextId (s : State) (k : Nat) (f : Pkg → Pkg) : (updPkg s k f).nextId = s.nextId := rfl
@[simp] theorem updPkg_cur (s : State) (k : Nat) (f : Pkg → Pkg) : (updPkg s k f).cur = s.cur := rfl
@[simp] theorem updPkg_arg (s : State) (k : Nat) (f : Pkg → Pkg) : (updPkg s k f).arg = s.arg := rfl

/-! ### `updGroup` -/

@[simp] theorem updGroup_mem (s : State) (q : Nat) (f : Group → Group) : (updGroup s q f).mem = s.mem := rfl
@[simp] theorem updGroup_poison (s : State) (q : Nat) (f : Group → Group) : (updGroup s q f).poison = s.poison := rfl
@[simp] theorem updGroup_lineKey (s : State) (q : Nat) (f : Group → Group) : (updGroup s q f).lineKey = s.lineKey := rfl
@[simp] theorem updGroup_clk (s : State) (q : Nat) (f : Group → Group) : (updGroup s q f).clk = s.clk := rfl
@[simp] theorem updGroup_writes (s : State) (q : Nat) (f : Group → Group) : (updGroup s q f).writes = s.writes := rfl
@[simp] theorem updGroup_loads (s : State) (q : Nat) (f : Group → Group) : (updGroup s q f).loads = s.loads := rfl
@[simp] theorem updGroup_atoms (s : State) (q : Nat) (f : Group → Group) : (updGroup s q f).atoms = s.atoms := rfl
@[simp] theorem updGroup_mcas (s : State) (q : Nat) (f : Group → Group) : (updGroup s q f).mcas = s.mcas := rfl
@[simp] theorem updGroup_mats (s : State) (q : Nat) (f : Group → Group) : (updGroup s q f).mats = s.mats := rfl
@[simp] theorem updGroup_ops (s : State) (q : Nat) (f : Group → Group) : (updGroup s q f).ops = s.ops := rfl
@[simp] theorem updGroup_groups (s : State) (q : Nat) (f : Group → Group) : (updGroup s q f).groups = tblUpd s.groups q f := rfl
@[simp] theorem updGroup_grids (s : State) (q : Nat) (f : Group → Group) : (updGroup s q f).grids = s.grids := rfl
@[simp] theorem updGroup_wgs (s : State) (q : Nat) (f : Group → Group) : (updGroup s q f).wgs = s.wgs := rfl
@[simp] theorem updGroup_warps (s : State) (q : Nat) (f : Group → Group) : (updGroup s q f).warps = s.warps := rfl
@[simp] theorem updGroup_savedWgs (s : State) (q : Nat) (f : Group → Group) : (updGroup s q f).savedWgs = s.savedWgs := rfl
@[simp] theorem updGroup_savedWarps (s : State) (q : Nat) (f : Group → Group) : (updGroup s q f).savedWarps = s.savedWarps := rfl
@[simp] theorem updGroup_lcores (s : State) (q : Nat) (f : Group → Group) : (updGroup s q f).lcores = s.lcores := rfl
@[simp] theorem updGroup_pcores (s : State) (q : Nat) (f : Group → Group) : (updGroup s q f).pcores = s.pcores := rfl
@[simp] theorem updGroup_dcopies (s : State) (q : Nat) (f : Group → Group) : (updGroup s q f).dcopies = s.dcopies := rfl
@[simp] theorem updGroup_ctxs (s : State) (q : Nat) (f : Group → Group) : (updGroup s q f).ctxs = s.ctxs := rfl
@[simp] theorem updGroup_parts (s : State) (q : Nat) (f : Group → Group) : (updGroup s q f).parts = s.parts := rfl
@[simp] theorem updGroup_pkgs (s : State) (q : Nat) (f : Group → Group) : (updGroup s q f).pkgs = s.pkgs := rfl
@[simp] theorem updGroup_protU (s : State) (q : Nat) (f : Group → Group) : (updGroup s q f).protU = s.protU := rfl
@[simp] theorem updGroup_snaps (s : State) (q : Nat) (f : Group → Group) : (updGroup s q f).snaps = s.snaps := rfl
@[simp] theorem updGroup_loadAnswer (s : State) (q : Nat) (f : Group → Group) : (updGroup s q f).loadAnswer = s.loadAnswer := rfl
@[simp] theorem updGroup_inputs (s : State) (q : Nat) (f : Group → Group) : (updGroup s q f).inputs = s.inputs := rfl
@[simp] theorem updGroup_free (s : State) (q : Nat) (f : Group → Group) : (updGroup s q f).free = s.free := rfl
@[simp] theorem updGroup_nextId (s : State) (q : Nat) (f : Group → Group) : (updGroup s q f).nextId = s.nextId := rfl
@[simp] theorem updGroup_cur (s : State) (q : Nat) (f : Group → Group) : (updGroup s q f).cur = s.cur := rfl
@[simp] theorem updGroup_arg (s : State) (q : Nat) (f : Group → Group) : (updGroup s q f).arg = s.arg := rfl

/-! ### `updOp` -/

@[simp] theorem updOp_mem (s : State) (k : Nat) (f : EngOp → EngOp) : (updOp s k f).mem = s.mem := rfl
@[simp] theorem updOp_poison (s : State) (k : Nat) (f : EngOp → EngOp) : (updOp s k f).poison = s.poison := rfl
@[simp] theorem updOp_lineKey (s : State) (k : Nat) (f : EngOp → EngOp) : (updOp s k f).lineKey = s.lineKey := rfl
@[simp] theorem updOp_clk (s : State) (k : Nat) (f : EngOp → EngOp) : (updOp s k f).clk = s.clk := rfl
@[simp] theorem updOp_writes (s : State) (k : Nat) (f : EngOp → EngOp) : (updOp s k f).writes = s.writes := rfl
@[simp] theorem updOp_loads (s : State) (k : Nat) (f : EngOp → EngOp) : (updOp s k f).loads = s.loads := rfl
@[simp] theorem updOp_atoms (s : State) (k : Nat) (f : EngOp → EngOp) : (updOp s k f).atoms = s.atoms := rfl
@[simp] theorem updOp_mcas (s : State) (k : Nat) (f : EngOp → EngOp) : (updOp s k f).mcas = s.mcas := rfl
@[simp] theorem updOp_mats (s : State) (k : Nat) (f : EngOp → EngOp) : (updOp s k f).mats = s.mats := rfl
@[simp] theorem updOp_ops (s : State) (k : Nat) (f : EngOp → EngOp) : (updOp s k f).ops = tblUpd s.ops k f := rfl
@[simp] theorem updOp_groups (s : State) (k : Nat) (f : EngOp → EngOp) : (updOp s k f).groups = s.groups := rfl
@[simp] theorem updOp_grids (s : State) (k : Nat) (f : EngOp → EngOp) : (updOp s k f).grids = s.grids := rfl
@[simp] theorem updOp_wgs (s : State) (k : Nat) (f : EngOp → EngOp) : (updOp s k f).wgs = s.wgs := rfl
@[simp] theorem updOp_warps (s : State) (k : Nat) (f : EngOp → EngOp) : (updOp s k f).warps = s.warps := rfl
@[simp] theorem updOp_savedWgs (s : State) (k : Nat) (f : EngOp → EngOp) : (updOp s k f).savedWgs = s.savedWgs := rfl
@[simp] theorem updOp_savedWarps (s : State) (k : Nat) (f : EngOp → EngOp) : (updOp s k f).savedWarps = s.savedWarps := rfl
@[simp] theorem updOp_lcores (s : State) (k : Nat) (f : EngOp → EngOp) : (updOp s k f).lcores = s.lcores := rfl
@[simp] theorem updOp_pcores (s : State) (k : Nat) (f : EngOp → EngOp) : (updOp s k f).pcores = s.pcores := rfl
@[simp] theorem updOp_dcopies (s : State) (k : Nat) (f : EngOp → EngOp) : (updOp s k f).dcopies = s.dcopies := rfl
@[simp] theorem updOp_ctxs (s : State) (k : Nat) (f : EngOp → EngOp) : (updOp s k f).ctxs = s.ctxs := rfl
@[simp] theorem updOp_parts (s : State) (k : Nat) (f : EngOp → EngOp) : (updOp s k f).parts = s.parts := rfl
@[simp] theorem updOp_pkgs (s : State) (k : Nat) (f : EngOp → EngOp) : (updOp s k f).pkgs = s.pkgs := rfl
@[simp] theorem updOp_protU (s : State) (k : Nat) (f : EngOp → EngOp) : (updOp s k f).protU = s.protU := rfl
@[simp] theorem updOp_snaps (s : State) (k : Nat) (f : EngOp → EngOp) : (updOp s k f).snaps = s.snaps := rfl
@[simp] theorem updOp_loadAnswer (s : State) (k : Nat) (f : EngOp → EngOp) : (updOp s k f).loadAnswer = s.loadAnswer := rfl
@[simp] theorem updOp_inputs (s : State) (k : Nat) (f : EngOp → EngOp) : (updOp s k f).inputs = s.inputs := rfl
@[simp] theorem updOp_free (s : State) (k : Nat) (f : EngOp → EngOp) : (updOp s k f).free = s.free := rfl
@[simp] theorem updOp_nextId (s : State) (k : Nat) (f : EngOp → EngOp) : (updOp s k f).nextId = s.nextId := rfl
@[simp] theorem updOp_cur (s : State) (k : Nat) (f : EngOp → EngOp) : (updOp s k f).cur = s.cur := rfl
@[simp] theorem updOp_arg (s : State) (k : Nat) (f : EngOp → EngOp) : (updOp s k f).arg = s.arg := rfl

/-! ### `updLoad` -/

@[simp] theorem updLoad_mem (s : State) (k : Nat) (f : PLoad → PLoad) : (updLoad s k f).mem = s.mem := rfl
@[simp] theorem updLoad_poison (s : State) (k : Nat) (f : PLoad → PLoad) : (updLoad s k f).poison = s.poison := rfl
@[simp] theorem updLoad_lineKey (s : State) (k : Nat) (f : PLoad → PLoad) : (updLoad s k f).lineKey = s.lineKey := rfl
@[simp] theorem updLoad_clk (s : State) (k : Nat) (f : PLoad → PLoad) : (updLoad s k f).clk = s.clk := rfl
@[simp] theorem updLoad_writes (s : State) (k : Nat) (f : PLoad → PLoad) : (updLoad s k f).writes = s.writes := rfl
@[simp] theorem updLoad_loads (s : State) (k : Nat) (f : PLoad → PLoad) : (updLoad s k f).loads = tblUpd s.loads k f := rfl
@[simp] theorem updLoad_atoms (s : State) (k : Nat) (f : PLoad → PLoad) : (updLoad s k f).atoms = s.atoms := rfl
@[simp] theorem updLoad_mcas (s : State) (k : Nat) (f : PLoad → PLoad) : (updLoad s k f).mcas = s.mcas := rfl
@[simp] theorem updLoad_mats (s : State) (k : Nat) (f : PLoad → PLoad) : (updLoad s k f).mats = s.mats := rfl
@[simp] theorem updLoad_ops (s : State) (k : Nat) (f : PLoad → PLoad) : (updLoad s k f).ops = s.ops := rfl
@[simp] theorem updLoad_groups (s : State) (k : Nat) (f : PLoad → PLoad) : (updLoad s k f).groups = s.groups := rfl
@[simp] theorem updLoad_grids (s : State) (k : Nat) (f : PLoad → PLoad) : (updLoad s k f).grids = s.grids := rfl
@[simp] theorem updLoad_wgs (s : State) (k : Nat) (f : PLoad → PLoad) : (updLoad s k f).wgs = s.wgs := rfl
@[simp] theorem updLoad_warps (s : State) (k : Nat) (f : PLoad → PLoad) : (updLoad s k f).warps = s.warps := rfl
@[simp] theorem updLoad_savedWgs (s : State) (k : Nat) (f : PLoad → PLoad) : (updLoad s k f).savedWgs = s.savedWgs := rfl
@[simp] theorem updLoad_savedWarps (s : State) (k : Nat) (f : PLoad → PLoad) : (updLoad s k f).savedWarps = s.savedWarps := rfl
@[simp] theorem updLoad_lcores (s : State) (k : Nat) (f : PLoad → PLoad) : (updLoad s k f).lcores = s.lcores := rfl
@[simp] theorem updLoad_pcores (s : State) (k : Nat) (f : PLoad → PLoad) : (updLoad s k f).pcores = s.pcores := rfl
@[simp] theorem updLoad_dcopies (s : State) (k : Nat) (f : PLoad → PLoad) : (updLoad s k f).dcopies = s.dcopies := rfl
@[simp] theorem updLoad_ctxs (s : State) (k : Nat) (f : PLoad → PLoad) : (updLoad s k f).ctxs = s.ctxs := rfl
@[simp] theorem updLoad_parts (s : State) (k : Nat) (f : PLoad → PLoad) : (updLoad s k f).parts = s.parts := rfl
@[simp] theorem updLoad_pkgs (s : State) (k : Nat) (f : PLoad → PLoad) : (updLoad s k f).pkgs = s.pkgs := rfl
@[simp] theorem updLoad_protU (s : State) (k : Nat) (f : PLoad → PLoad) : (updLoad s k f).protU = s.protU := rfl
@[simp] theorem updLoad_snaps (s : State) (k : Nat) (f : PLoad → PLoad) : (updLoad s k f).snaps = s.snaps := rfl
@[simp] theorem updLoad_loadAnswer (s : State) (k : Nat) (f : PLoad → PLoad) : (updLoad s k f).loadAnswer = s.loadAnswer := rfl
@[simp] theorem updLoad_inputs (s : State) (k : Nat) (f : PLoad → PLoad) : (updLoad s k f).inputs = s.inputs := rfl
@[simp] theorem updLoad_free (s : State) (k : Nat) (f : PLoad → PLoad) : (updLoad s k f).free = s.free := rfl
@[simp] theorem updLoad_nextId (s : State) (k : Nat) (f : PLoad → PLoad) : (updLoad s k f).nextId = s.nextId := rfl
@[simp] theorem updLoad_cur (s : State) (k : Nat) (f : PLoad → PLoad) : (updLoad s k f).cur = s.cur := rfl
@[simp] theorem updLoad_arg (s : State) (k : Nat) (f : PLoad → PLoad) : (updLoad s k f).arg = s.arg := rfl

/-! ### `tookFree` -/

@[simp] theorem tookFree_mem (s : State) : (tookFree s).mem = s.mem := rfl
@[simp] theorem tookFree_poison (s : State) : (tookFree s).poison = s.poison := rfl
@[simp] theorem tookFree_lineKey (s : State) : (tookFree s).lineKey = s.lineKey := rfl
@[simp] theorem tookFree_clk (s : State) : (tookFree s).clk = s.clk := rfl
@[simp] theorem tookFree_writes (s : State) : (tookFree s).writes = s.writes := rfl
@[simp] theorem tookFree_loads (s : State) : (tookFree s).loads = s.loads := rfl
@[simp] theorem tookFree_atoms (s : State) : (tookFree s).atoms = s.atoms := rfl
@[simp] theorem tookFree_mcas (s : State) : (tookFree s).mcas = s.mcas := rfl
@[simp] theorem tookFree_mats (s : State) : (tookFree s).mats = s.mats := rfl
@[simp] theorem tookFree_ops (s : State) : (tookFree s).ops = s.ops := rfl
@[simp] theorem tookFree_groups (s : State) : (tookFree s).groups = s.groups := rfl
@[simp] theorem tookFree_grids (s : State) : (tookFree s).grids = s.grids := rfl
@[simp] theorem tookFree_wgs (s : State) : (tookFree s).wgs = s.wgs := rfl
@[simp] theorem tookFree_warps (s : State) : (tookFree s).warps = s.warps := rfl
@[simp] theorem tookFree_savedWgs (s : State) : (tookFree s).savedWgs = s.savedWgs := rfl
@[simp] theorem tookFree_savedWarps (s : State) : (tookFree s).savedWarps = s.savedWarps := rfl
@[simp] theorem tookFree_lcores (s : State) : (tookFree s).lcores = s.lcores := rfl
@[simp] theorem tookFree_pcores (s : State) : (tookFree s).pcores = s.pcores := rfl
@[simp] theorem tookFree_dcopies (s : State) : (tookFree s).dcopies = s.dcopies := rfl
@[simp] theorem tookFree_ctxs (s : State) : (tookFree s).ctxs = s.ctxs := rfl
@[simp] theorem tookFree_parts (s : State) : (tookFree s).parts = s.parts := rfl
@[simp] theorem tookFree_pkgs (s : State) : (tookFree s).pkgs = s.pkgs := rfl
@[simp] theorem tookFree_protU (s : State) : (tookFree s).protU = s.protU := rfl
@[simp] theorem tookFree_snaps (s : State) : (tookFree s).snaps = s.snaps := rfl
@[simp] theorem tookFree_loadAnswer (s : State) : (tookFree s).loadAnswer = s.loadAnswer := rfl
@[simp] theorem tookFree_inputs (s : State) : (tookFree s).inputs = s.inputs := rfl
@[simp] theorem tookFree_free (s : State) : (tookFree s).free = s.free + 1 := rfl
@[simp] theorem tookFree_nextId (s : State) : (tookFree s).nextId = s.nextId := rfl
@[simp] theorem tookFree_cur (s : State) : (tookFree s).cur = s.cur := rfl
@[simp] theorem tookFree_arg (s : State) : (tookFree s).arg = s.arg := rfl

/-! ### `tookId` -/

@[simp] theorem tookId_mem (s : State) : (tookId s).mem = s.mem := rfl
@[simp] theorem tookId_poison (s : State) : (tookId s).poison = s.poison := rfl
@[simp] theorem tookId_lineKey (s : State) : (tookId s).lineKey = s.lineKey := rfl
@[simp] theorem tookId_clk (s : State) : (tookId s).clk = s.clk := rfl
@[simp] theorem tookId_writes (s : State) : (tookId s).writes = s.writes := rfl
@[simp] theorem tookId_loads (s : State) : (tookId s).loads = s.loads := rfl
@[simp] theorem tookId_atoms (s : State) : (tookId s).atoms = s.atoms := rfl
@[simp] theorem tookId_mcas (s : State) : (tookId s).mcas = s.mcas := rfl
@[simp] theorem tookId_mats (s : State) : (tookId s).mats = s.mats := rfl
@[simp] theorem tookId_ops (s : State) : (tookId s).ops = s.ops := rfl
@[simp] theorem tookId_groups (s : State) : (tookId s).groups = s.groups := rfl
@[simp] theorem tookId_grids (s : State) : (tookId s).grids = s.grids := rfl
@[simp] theorem tookId_wgs (s : State) : (tookId s).wgs = s.wgs := rfl
@[simp] theorem tookId_warps (s : State) : (tookId s).warps = s.warps := rfl
@[simp] theorem tookId_savedWgs (s : State) : (tookId s).savedWgs = s.savedWgs := rfl
@[simp] theorem tookId_savedWarps (s : State) : (tookId s).savedWarps = s.savedWarps := rfl
@[simp] theorem tookId_lcores (s : State) : (tookId s).lcores = s.lcores := rfl
@[simp] theorem tookId_pcores (s : State) : (tookId s).pcores = s.pcores := rfl
@[simp] theorem tookId_dcopies (s : State) : (tookId s).dcopies = s.dcopies := rfl
@[simp] theorem tookId_ctxs (s : State) : (tookId s).ctxs = s.ctxs := rfl
@[simp] theorem tookId_parts (s : State) : (tookId s).parts = s.parts := rfl
@[simp] theorem tookId_pkgs (s : State) : (tookId s).pkgs = s.pkgs := rfl
@[simp] theorem tookId_protU (s : State) : (tookId s).protU = s.protU := rfl
@[simp] theorem tookId_snaps (s : State) : (tookId s).snaps = s.snaps := rfl
@[simp] theorem tookId_loadAnswer (s : State) : (tookId s).loadAnswer = s.loadAnswer := rfl
@[simp] theorem tookId_inputs (s : State) : (tookId s).inputs = s.inputs := rfl
@[simp] theorem tookId_free (s : State) : (tookId s).free = s.free := rfl
@[simp] theorem tookId_nextId (s : State) : (tookId s).nextId = s.nextId + 1 := rfl
@[simp] theorem tookId_cur (s : State) : (tookId s).cur = s.cur := rfl
@[simp] theorem tookId_arg (s : State) : (tookId s).arg = s.arg := rfl

end Sys2Proof.Machine
end

