-- ==== Sys2Proof/Laws/Memory.lean ====
section
/-! SUPPORT. What a write at its home does (R192, R331, R382): the parts of the state that it leaves, and, where the bytes lie outside the
capacity tier and in channels in service, every byte of memory after it. -/

namespace Sys2Proof.Machine

/-- Two states differ in memory, poison, the keys of lines, and the Surveyor's bits alone. -/
structure HomeFrame (s u : State) : Prop where
  rest : { u with mem := s.mem, poison := s.poison, lineKey := s.lineKey, ctxs := s.ctxs } = s

theorem HomeFrame.refl (s : State) : HomeFrame s s := ⟨rfl⟩
theorem HomeFrame.trans {s t u : State} (h : HomeFrame s t) (k : HomeFrame t u) : HomeFrame s u := by
  have h1 := h.rest; have k1 := k.rest
  exact ⟨by rw [← k1] at h1; exact h1⟩

theorem HomeFrame.foldl {β : Type} (l : List β) (f : State → β → State) (s : State) (h : ∀ s x, HomeFrame s (f s x)) :
    HomeFrame s (l.foldl f s) := by
  induction l generalizing s with
  | nil => exact .refl s
  | cons x t ih => exact (h s x).trans (ih _)

theorem homeFrame_rekey (s : State) (a key n : Nat) : HomeFrame s (rekey s a key n) := by
  unfold rekey
  split
  · apply HomeFrame.foldl
    intro s i
    dsimp only
    split
    · split
      · exact .refl s
      · exact ⟨rfl⟩
    · exact ⟨rfl⟩
  · exact .refl s

theorem homeFrame_markUnits (s : State) (a n : Nat) : HomeFrame s (markUnits s a n) := by
  unfold markUnits
  split
  · exact .refl s
  · exact ⟨rfl⟩

theorem homeFrame_putHome (s : State) (a key : Nat) (data : List Byte) : HomeFrame s (putHome s a key data) := by
  unfold putHome
  refine .trans (homeFrame_rekey s a key data.length) (.trans ?_ (homeFrame_markUnits _ _ _))
  exact ⟨rfl⟩

/-- A write at its home leaves every package, part and write as it is. -/
theorem pkgs_putHome (s : State) (a key : Nat) (data : List Byte) : (putHome s a key data).pkgs = s.pkgs := by
  have h := congrArg State.pkgs (homeFrame_putHome s a key data).rest; exact h
theorem parts_putHome (s : State) (a key : Nat) (data : List Byte) : (putHome s a key data).parts = s.parts := by
  have h := congrArg State.parts (homeFrame_putHome s a key data).rest; exact h
theorem writes_putHome (s : State) (a key : Nat) (data : List Byte) : (putHome s a key data).writes = s.writes := by
  have h := congrArg State.writes (homeFrame_putHome s a key data).rest; exact h

/-- Bytes written one after another from an address. -/
theorem bmGet_bmSetAll_range {w : Nat} (m : BMap w) (a : Nat) (d : List (BitVec w)) (n b : Nat) :
    bmGet (bmSetAll m ((List.range n).map fun k => (a + k, d.getD k 0))) b =
      if a ≤ b ∧ b < a + n then d.getD (b - a) 0 else bmGet m b := by
  induction n generalizing m with
  | zero =>
    simp only [List.range_zero, List.map_nil, bmSetAll]
    rw [if_neg (by omega)]
  | succ n ih =>
    have append : ∀ (l r : List (Nat × BitVec w)) (m : BMap w), bmSetAll m (l ++ r) = bmSetAll (bmSetAll m l) r := by
      intro l
      induction l with
      | nil => intro r m; rfl
      | cons e t ih => intro r m; exact ih r _
    rw [List.range_succ, List.map_append, append]
    simp only [List.map_cons, List.map_nil, bmSetAll, bmGet_bmSet, ih]
    by_cases h : a + n = b
    · subst h
      rw [if_pos rfl, if_pos (by omega)]
      congr 1; omega
    · rw [if_neg h]
      by_cases h2 : a ≤ b ∧ b < a + n
      · rw [if_pos h2, if_pos (by omega)]
      · rw [if_neg h2, if_neg (by omega)]

/-- Every byte of memory after a write at its home, outside the capacity tier and in channels in service. -/
theorem bmGet_putHome (s : State) (a key : Nat) (data : List Byte) (b : Nat) (hc : isCapacity (gpLocal a) = false)
    (hl : ∀ k < data.length, channelLost s (a + k) = false) :
    bmGet (putHome s a key data).mem b = if a ≤ b ∧ b < a + data.length then data.getD (b - a) 0 else bmGet s.mem b := by
  have hmark : ∀ (t : State) (x n : Nat), (markUnits t x n).mem = t.mem := by
    intro t x n; unfold markUnits; split <;> rfl
  have hre : rekey s a key data.length = s := by unfold rekey; simp [hc]
  have hfil : ((List.range data.length).map fun k => (a + k, data.getD k 0)).filter (fun e => !channelLost s e.1) =
      (List.range data.length).map fun k => (a + k, data.getD k 0) := by
    apply List.filter_eq_self.2
    intro e he
    obtain ⟨k, hk, rfl⟩ := List.mem_map.1 he
    simp [hl k (List.mem_range.1 hk)]
  unfold putHome
  rw [hmark]
  dsimp only
  rw [hre, hfil]
  exact bmGet_bmSetAll_range s.mem a data data.length b

end Sys2Proof.Machine
end

