-- ==== Sys2Proof/Laws/PerInstr.lean ====
section
/-! SUPPORT. The encoder and the decoder agree: for each constructor of `Instr`, a well-formed instruction's word decodes to it. -/

namespace Sys2Proof

/-! ### Bits and fields of an encoded word -/

theorem encR_bit (m : BitVec 6) (p : BitVec 3) (d a b : BitVec 7) (n : BitVec 2) (i : Nat) : (encR m p d a b n).getLsbD i =
    if i < 2 then n.getLsbD i else if i < 9 then b.getLsbD (i - 2) else if i < 16 then a.getLsbD (i - 9)
    else if i < 23 then d.getLsbD (i - 16) else if i < 26 then p.getLsbD (i - 23) else m.getLsbD (i - 26) := by
  show BitVec.getLsbD (w := 6+3+7+7+7+2) (m ++ p ++ d ++ a ++ b ++ n) i = _
  simp only [BitVec.getLsbD_append, Nat.sub_sub]
  repeat' split
  all_goals first | rfl | (exfalso; omega)

theorem encI_bit (m : BitVec 6) (p : BitVec 3) (d a : BitVec 7) (n : BitVec 9) (i : Nat) : (encI m p d a n).getLsbD i =
    if i < 9 then n.getLsbD i else if i < 16 then a.getLsbD (i - 9)
    else if i < 23 then d.getLsbD (i - 16) else if i < 26 then p.getLsbD (i - 23) else m.getLsbD (i - 26) := by
  show BitVec.getLsbD (w := 6+3+7+7+9) (m ++ p ++ d ++ a ++ n) i = _
  simp only [BitVec.getLsbD_append, Nat.sub_sub]
  repeat' split
  all_goals first | rfl | (exfalso; omega)

theorem encR_maj (m : BitVec 6) (p : BitVec 3) (d a b : BitVec 7) (n : BitVec 2) : (encR m p d a b n).extractLsb' 26 6 = m := by
  apply BitVec.eq_of_getLsbD_eq; intro i hi
  rw [BitVec.getLsbD_extractLsb', encR_bit]
  simp only [hi, decide_true, Bool.true_and]
  repeat' split
  all_goals first | (exfalso; omega) | (congr 1; omega)
theorem encR_p (m : BitVec 6) (p : BitVec 3) (d a b : BitVec 7) (n : BitVec 2) : (encR m p d a b n).extractLsb' 23 3 = p := by
  apply BitVec.eq_of_getLsbD_eq; intro i hi
  rw [BitVec.getLsbD_extractLsb', encR_bit]
  simp only [hi, decide_true, Bool.true_and]
  repeat' split
  all_goals first | (exfalso; omega) | (congr 1; omega)
theorem encR_d (m : BitVec 6) (p : BitVec 3) (d a b : BitVec 7) (n : BitVec 2) : (encR m p d a b n).extractLsb' 16 7 = d := by
  apply BitVec.eq_of_getLsbD_eq; intro i hi
  rw [BitVec.getLsbD_extractLsb', encR_bit]
  simp only [hi, decide_true, Bool.true_and]
  repeat' split
  all_goals first | (exfalso; omega) | (congr 1; omega)
theorem encR_a (m : BitVec 6) (p : BitVec 3) (d a b : BitVec 7) (n : BitVec 2) : (encR m p d a b n).extractLsb' 9 7 = a := by
  apply BitVec.eq_of_getLsbD_eq; intro i hi
  rw [BitVec.getLsbD_extractLsb', encR_bit]
  simp only [hi, decide_true, Bool.true_and]
  repeat' split
  all_goals first | (exfalso; omega) | (congr 1; omega)
theorem encR_b (m : BitVec 6) (p : BitVec 3) (d a b : BitVec 7) (n : BitVec 2) : (encR m p d a b n).extractLsb' 2 7 = b := by
  apply BitVec.eq_of_getLsbD_eq; intro i hi
  rw [BitVec.getLsbD_extractLsb', encR_bit]
  simp only [hi, decide_true, Bool.true_and]
  repeat' split
  all_goals first | (exfalso; omega) | (congr 1; omega)
theorem encR_n (m : BitVec 6) (p : BitVec 3) (d a b : BitVec 7) (n : BitVec 2) : (encR m p d a b n).extractLsb' 0 2 = n := by
  apply BitVec.eq_of_getLsbD_eq; intro i hi
  rw [BitVec.getLsbD_extractLsb', encR_bit]
  simp only [hi, decide_true, Bool.true_and]
  repeat' split
  all_goals first | (exfalso; omega) | (congr 1; omega)
theorem encI_maj (m : BitVec 6) (p : BitVec 3) (d a : BitVec 7) (n : BitVec 9) : (encI m p d a n).extractLsb' 26 6 = m := by
  apply BitVec.eq_of_getLsbD_eq; intro i hi
  rw [BitVec.getLsbD_extractLsb', encI_bit]
  simp only [hi, decide_true, Bool.true_and]
  repeat' split
  all_goals first | (exfalso; omega) | (congr 1; omega)
theorem encI_p (m : BitVec 6) (p : BitVec 3) (d a : BitVec 7) (n : BitVec 9) : (encI m p d a n).extractLsb' 23 3 = p := by
  apply BitVec.eq_of_getLsbD_eq; intro i hi
  rw [BitVec.getLsbD_extractLsb', encI_bit]
  simp only [hi, decide_true, Bool.true_and]
  repeat' split
  all_goals first | (exfalso; omega) | (congr 1; omega)
theorem encI_d (m : BitVec 6) (p : BitVec 3) (d a : BitVec 7) (n : BitVec 9) : (encI m p d a n).extractLsb' 16 7 = d := by
  apply BitVec.eq_of_getLsbD_eq; intro i hi
  rw [BitVec.getLsbD_extractLsb', encI_bit]
  simp only [hi, decide_true, Bool.true_and]
  repeat' split
  all_goals first | (exfalso; omega) | (congr 1; omega)
theorem encI_a (m : BitVec 6) (p : BitVec 3) (d a : BitVec 7) (n : BitVec 9) : (encI m p d a n).extractLsb' 9 7 = a := by
  apply BitVec.eq_of_getLsbD_eq; intro i hi
  rw [BitVec.getLsbD_extractLsb', encI_bit]
  simp only [hi, decide_true, Bool.true_and]
  repeat' split
  all_goals first | (exfalso; omega) | (congr 1; omega)
theorem encI_imm (m : BitVec 6) (p : BitVec 3) (d a : BitVec 7) (n : BitVec 9) : (encI m p d a n).extractLsb' 0 9 = n := by
  apply BitVec.eq_of_getLsbD_eq; intro i hi
  rw [BitVec.getLsbD_extractLsb', encI_bit]
  simp only [hi, decide_true, Bool.true_and]
  repeat' split
  all_goals first | (exfalso; omega) | (congr 1; omega)

/-! ### Reserved fields of an encoded word are zero -/

theorem mask_b (m : BitVec 6) (p : BitVec 3) (d : BitVec 7) (a : BitVec 7) (n : BitVec 2) : encR m p d a 0#7 n &&& 0x000001FC#32 = 0#32 := by
  apply BitVec.eq_of_getLsbD_eq; intro i hi
  rw [BitVec.getLsbD_and, encR_bit]
  have : ∀ i < 32, (0x000001FC#32).getLsbD i = decide (2 ≤ i ∧ i < 9) := by decide
  rw [this i hi]
  repeat' split
  all_goals simp
  all_goals omega
theorem mask_d (m : BitVec 6) (p : BitVec 3) (a : BitVec 7) (b : BitVec 7) (n : BitVec 2) : encR m p 0#7 a b n &&& 0x007F0000#32 = 0#32 := by
  apply BitVec.eq_of_getLsbD_eq; intro i hi
  rw [BitVec.getLsbD_and, encR_bit]
  have : ∀ i < 32, (0x007F0000#32).getLsbD i = decide (16 ≤ i ∧ i < 23) := by decide
  rw [this i hi]
  repeat' split
  all_goals simp
  all_goals omega
theorem mask_da (m : BitVec 6) (p : BitVec 3) (b : BitVec 7) (n : BitVec 2) : encR m p 0#7 0#7 b n &&& 0x007FFE00#32 = 0#32 := by
  apply BitVec.eq_of_getLsbD_eq; intro i hi
  rw [BitVec.getLsbD_and, encR_bit]
  have : ∀ i < 32, (0x007FFE00#32).getLsbD i = decide (9 ≤ i ∧ i < 23) := by decide
  rw [this i hi]
  repeat' split
  all_goals simp
  all_goals omega
theorem mask_a (m : BitVec 6) (p : BitVec 3) (d : BitVec 7) (b : BitVec 7) (n : BitVec 2) : encR m p d 0#7 b n &&& 0x0000FE00#32 = 0#32 := by
  apply BitVec.eq_of_getLsbD_eq; intro i hi
  rw [BitVec.getLsbD_and, encR_bit]
  have : ∀ i < 32, (0x0000FE00#32).getLsbD i = decide (9 ≤ i ∧ i < 16) := by decide
  rw [this i hi]
  repeat' split
  all_goals simp
  all_goals omega
theorem mask_ab (m : BitVec 6) (p : BitVec 3) (d : BitVec 7) (n : BitVec 2) : encR m p d 0#7 0#7 n &&& 0x0000FFFC#32 = 0#32 := by
  apply BitVec.eq_of_getLsbD_eq; intro i hi
  rw [BitVec.getLsbD_and, encR_bit]
  have : ∀ i < 32, (0x0000FFFC#32).getLsbD i = decide (2 ≤ i ∧ i < 16) := by decide
  rw [this i hi]
  repeat' split
  all_goals simp
  all_goals omega

/-! ### Decoding an encoded word -/

theorem decode_of_cell {w : Word} {i : Instr} {m : Word} (h : cell w = some (i, m)) (hm : w &&& m = 0#32) : decodeWord w = .ok i := by
  unfold decodeWord
  rw [h]
  simp only [hm, if_true]

theorem cell_encR (m : BitVec 6) (p : BitVec 3) (d a b : BitVec 7) (n : BitVec 2) :
    cell (encR m p d a b n) = cellAt (encR m p d a b n) m.toNat n.toNat p d a b := by
  unfold cell
  rw [encR_maj, encR_n, encR_p, encR_d, encR_a, encR_b]

theorem cell_encI (m : BitVec 6) (p : BitVec 3) (d a : BitVec 7) (n : BitVec 9) :
    cell (encI m p d a n) = cellAt (encI m p d a n) m.toNat ((encI m p d a n).extractLsb' 0 2).toNat p d a ((encI m p d a n).extractLsb' 2 7) := by
  unfold cell
  rw [encI_maj, encI_p, encI_d, encI_a]

theorem scope_cases (s : BitVec 3) (h : s ≠ 7#3) : s = 0#3 ∨ s = 1#3 ∨ s = 2#3 ∨ s = 3#3 ∨ s = 4#3 ∨ s = 5#3 ∨ s = 6#3 := by
  revert s; decide


theorem encI_bits (m : BitVec 6) (p : BitVec 3) (d a : BitVec 7) (n : BitVec 9) (k w : Nat) (h : k + w ≤ 9) :
    (encI m p d a n).extractLsb' k w = n.extractLsb' k w := by
  apply BitVec.eq_of_getLsbD_eq; intro i hi
  rw [BitVec.getLsbD_extractLsb', BitVec.getLsbD_extractLsb', encI_bit]
  rw [if_pos (by omega)]

theorem encR_bbits (m : BitVec 6) (p : BitVec 3) (d a b : BitVec 7) (n : BitVec 2) (k w : Nat) (h : k + w ≤ 7) :
    (encR m p d a b n).extractLsb' (2 + k) w = b.extractLsb' k w := by
  apply BitVec.eq_of_getLsbD_eq; intro i hi
  rw [BitVec.getLsbD_extractLsb', BitVec.getLsbD_extractLsb', encR_bit]
  simp only [hi, decide_true, Bool.true_and]
  rw [if_neg (by omega), if_pos (by omega)]
  congr 1; omega

theorem encB_bit (m : BitVec 6) (p : BitVec 3) (o : BitVec 23) (i : Nat) : (encB m p o).getLsbD i =
    if i < 23 then o.getLsbD i else if i < 26 then p.getLsbD (i - 23) else m.getLsbD (i - 26) := by
  show BitVec.getLsbD (w := 6+3+23) (m ++ p ++ o) i = _
  simp only [BitVec.getLsbD_append, Nat.sub_sub]
  repeat' split
  all_goals first | rfl | (exfalso; omega)

theorem encF_bit (d : BitVec 7) (f : BitVec 20) (i : Nat) : (encF d f).getLsbD i =
    if i < 20 then f.getLsbD i else if i < 27 then d.getLsbD (i - 20) else (0b11110#5).getLsbD (i - 27) := by
  show BitVec.getLsbD (w := 5+7+20) (0b11110#5 ++ d ++ f) i = _
  simp only [BitVec.getLsbD_append, Nat.sub_sub]
  repeat' split
  all_goals first | rfl | (exfalso; omega)

theorem encX_bit (a b : BitVec 9) (i : Nat) : (encX a b).getLsbD i =
    if i < 8 then false else if i < 17 then b.getLsbD (i - 8) else if i < 26 then a.getLsbD (i - 17) else (0x3F#6).getLsbD (i - 26) := by
  show BitVec.getLsbD (w := 6+9+9+8) (0x3F#6 ++ a ++ b ++ 0#8) i = _
  simp only [BitVec.getLsbD_append, Nat.sub_sub]
  repeat' split
  all_goals first | rfl | (exfalso; omega) | simp

/-- The cell that a word with the given fields has. -/
theorem cell_of_maj (w : Word) (m : BitVec 6) (h : w.extractLsb' 26 6 = m) :
    cell w = cellAt w m.toNat (w.extractLsb' 0 2).toNat (w.extractLsb' 23 3) (w.extractLsb' 16 7) (w.extractLsb' 9 7) (w.extractLsb' 2 7) := by
  unfold cell
  rw [h]

theorem app_low {n m : Nat} (x : BitVec n) (y : BitVec m) (k w : Nat) (h : k + w ≤ m) : (x ++ y).extractLsb' k w = y.extractLsb' k w := by
  apply BitVec.eq_of_getLsbD_eq; intro i hi
  rw [BitVec.getLsbD_extractLsb', BitVec.getLsbD_extractLsb', BitVec.getLsbD_append, if_pos (by omega)]

theorem app_high {n m : Nat} (x : BitVec n) (y : BitVec m) (k w : Nat) (h : m ≤ k) :
    (x ++ y).extractLsb' k w = x.extractLsb' (k - m) w := by
  apply BitVec.eq_of_getLsbD_eq; intro i hi
  rw [BitVec.getLsbD_extractLsb', BitVec.getLsbD_extractLsb', BitVec.getLsbD_append, if_neg (by omega)]
  congr 2; omega

theorem extract_all {n : Nat} (x : BitVec n) : x.extractLsb' 0 n = x := by
  apply BitVec.eq_of_getLsbD_eq; intro i hi
  rw [BitVec.getLsbD_extractLsb']
  simp [hi]

end Sys2Proof

namespace Sys2Proof.Laws.RoundTrip

/-- The word of a well-formed instruction decodes to the instruction. -/
def Statement (i : Instr) : Prop := ∀ w, encode i = some w → i.wf = true → decodeWord w = .ok i

theorem addI32 (p : BitVec 3) (d : BitVec 7) (a : BitVec 7) (b : BitVec 7) : Statement (.addI32 p d a b) := by
  intro w h _
  cases h
  exact decode_of_cell ((cell_encR ..).trans rfl) (BitVec.and_zero)
theorem subI32 (p : BitVec 3) (d : BitVec 7) (a : BitVec 7) (b : BitVec 7) : Statement (.subI32 p d a b) := by
  intro w h _
  cases h
  exact decode_of_cell ((cell_encR ..).trans rfl) (BitVec.and_zero)
theorem addc (p : BitVec 3) (d : BitVec 7) (a : BitVec 7) (b : BitVec 7) : Statement (.addc p d a b) := by
  intro w h _
  cases h
  exact decode_of_cell ((cell_encR ..).trans rfl) (BitVec.and_zero)
theorem subb (p : BitVec 3) (d : BitVec 7) (a : BitVec 7) (b : BitVec 7) : Statement (.subb p d a b) := by
  intro w h _
  cases h
  exact decode_of_cell ((cell_encR ..).trans rfl) (BitVec.and_zero)
theorem addI64 (p : BitVec 3) (d : BitVec 7) (a : BitVec 7) (b : BitVec 7) : Statement (.addI64 p d a b) := by
  intro w h _
  cases h
  exact decode_of_cell ((cell_encR ..).trans rfl) (BitVec.and_zero)
theorem subI64 (p : BitVec 3) (d : BitVec 7) (a : BitVec 7) (b : BitVec 7) : Statement (.subI64 p d a b) := by
  intro w h _
  cases h
  exact decode_of_cell ((cell_encR ..).trans rfl) (BitVec.and_zero)
theorem addcI64 (p : BitVec 3) (d : BitVec 7) (a : BitVec 7) (b : BitVec 7) : Statement (.addcI64 p d a b) := by
  intro w h _
  cases h
  exact decode_of_cell ((cell_encR ..).trans rfl) (BitVec.and_zero)
theorem subbI64 (p : BitVec 3) (d : BitVec 7) (a : BitVec 7) (b : BitVec 7) : Statement (.subbI64 p d a b) := by
  intro w h _
  cases h
  exact decode_of_cell ((cell_encR ..).trans rfl) (BitVec.and_zero)
theorem mullo (p : BitVec 3) (d : BitVec 7) (a : BitVec 7) (b : BitVec 7) : Statement (.mullo p d a b) := by
  intro w h _
  cases h
  exact decode_of_cell ((cell_encR ..).trans rfl) (BitVec.and_zero)
theorem mulhiUs (p : BitVec 3) (d : BitVec 7) (a : BitVec 7) (b : BitVec 7) : Statement (.mulhiUs p d a b) := by
  intro w h _
  cases h
  exact decode_of_cell ((cell_encR ..).trans rfl) (BitVec.and_zero)
theorem mulhiSg (p : BitVec 3) (d : BitVec 7) (a : BitVec 7) (b : BitVec 7) : Statement (.mulhiSg p d a b) := by
  intro w h _
  cases h
  exact decode_of_cell ((cell_encR ..).trans rfl) (BitVec.and_zero)
theorem mad (p : BitVec 3) (d : BitVec 7) (a : BitVec 7) (b : BitVec 7) : Statement (.mad p d a b) := by
  intro w h _
  cases h
  exact decode_of_cell ((cell_encR ..).trans rfl) (BitVec.and_zero)
theorem andB (p : BitVec 3) (d : BitVec 7) (a : BitVec 7) (b : BitVec 7) : Statement (.andB p d a b) := by
  intro w h _
  cases h
  exact decode_of_cell ((cell_encR ..).trans rfl) (BitVec.and_zero)
theorem orB (p : BitVec 3) (d : BitVec 7) (a : BitVec 7) (b : BitVec 7) : Statement (.orB p d a b) := by
  intro w h _
  cases h
  exact decode_of_cell ((cell_encR ..).trans rfl) (BitVec.and_zero)
theorem xorB (p : BitVec 3) (d : BitVec 7) (a : BitVec 7) (b : BitVec 7) : Statement (.xorB p d a b) := by
  intro w h _
  cases h
  exact decode_of_cell ((cell_encR ..).trans rfl) (BitVec.and_zero)
theorem notB (p : BitVec 3) (d : BitVec 7) (a : BitVec 7) : Statement (.notB p d a) := by
  intro w h _
  cases h
  exact decode_of_cell ((cell_encR ..).trans rfl) (mask_b ..)
theorem shl (p : BitVec 3) (d : BitVec 7) (a : BitVec 7) (b : BitVec 7) : Statement (.shl p d a b) := by
  intro w h _
  cases h
  exact decode_of_cell ((cell_encR ..).trans rfl) (BitVec.and_zero)
theorem shr (p : BitVec 3) (d : BitVec 7) (a : BitVec 7) (b : BitVec 7) : Statement (.shr p d a b) := by
  intro w h _
  cases h
  exact decode_of_cell ((cell_encR ..).trans rfl) (BitVec.and_zero)
theorem sar (p : BitVec 3) (d : BitVec 7) (a : BitVec 7) (b : BitVec 7) : Statement (.sar p d a b) := by
  intro w h _
  cases h
  exact decode_of_cell ((cell_encR ..).trans rfl) (BitVec.and_zero)
theorem rot (p : BitVec 3) (d : BitVec 7) (a : BitVec 7) (b : BitVec 7) : Statement (.rot p d a b) := by
  intro w h _
  cases h
  exact decode_of_cell ((cell_encR ..).trans rfl) (BitVec.and_zero)
theorem minSg (p : BitVec 3) (d : BitVec 7) (a : BitVec 7) (b : BitVec 7) : Statement (.minSg p d a b) := by
  intro w h _
  cases h
  exact decode_of_cell ((cell_encR ..).trans rfl) (BitVec.and_zero)
theorem minUs (p : BitVec 3) (d : BitVec 7) (a : BitVec 7) (b : BitVec 7) : Statement (.minUs p d a b) := by
  intro w h _
  cases h
  exact decode_of_cell ((cell_encR ..).trans rfl) (BitVec.and_zero)
theorem maxSg (p : BitVec 3) (d : BitVec 7) (a : BitVec 7) (b : BitVec 7) : Statement (.maxSg p d a b) := by
  intro w h _
  cases h
  exact decode_of_cell ((cell_encR ..).trans rfl) (BitVec.and_zero)
theorem maxUs (p : BitVec 3) (d : BitVec 7) (a : BitVec 7) (b : BitVec 7) : Statement (.maxUs p d a b) := by
  intro w h _
  cases h
  exact decode_of_cell ((cell_encR ..).trans rfl) (BitVec.and_zero)
theorem abs (p : BitVec 3) (d : BitVec 7) (a : BitVec 7) : Statement (.abs p d a) := by
  intro w h _
  cases h
  exact decode_of_cell ((cell_encR ..).trans rfl) (mask_b ..)
theorem neg (p : BitVec 3) (d : BitVec 7) (a : BitVec 7) : Statement (.neg p d a) := by
  intro w h _
  cases h
  exact decode_of_cell ((cell_encR ..).trans rfl) (mask_b ..)
theorem clz (p : BitVec 3) (d : BitVec 7) (a : BitVec 7) : Statement (.clz p d a) := by
  intro w h _
  cases h
  exact decode_of_cell ((cell_encR ..).trans rfl) (mask_b ..)
theorem popc (p : BitVec 3) (d : BitVec 7) (a : BitVec 7) : Statement (.popc p d a) := by
  intro w h _
  cases h
  exact decode_of_cell ((cell_encR ..).trans rfl) (mask_b ..)
theorem brev (p : BitVec 3) (d : BitVec 7) (a : BitVec 7) : Statement (.brev p d a) := by
  intro w h _
  cases h
  exact decode_of_cell ((cell_encR ..).trans rfl) (mask_b ..)
theorem bfxUs (p : BitVec 3) (d : BitVec 7) (a : BitVec 7) (b : BitVec 7) : Statement (.bfxUs p d a b) := by
  intro w h _
  cases h
  exact decode_of_cell ((cell_encR ..).trans rfl) (BitVec.and_zero)
theorem bfxSg (p : BitVec 3) (d : BitVec 7) (a : BitVec 7) (b : BitVec 7) : Statement (.bfxSg p d a b) := by
  intro w h _
  cases h
  exact decode_of_cell ((cell_encR ..).trans rfl) (BitVec.and_zero)
theorem bfi (p : BitVec 3) (d : BitVec 7) (a : BitVec 7) (b : BitVec 7) : Statement (.bfi p d a b) := by
  intro w h _
  cases h
  exact decode_of_cell ((cell_encR ..).trans rfl) (BitVec.and_zero)
theorem sel (k : BitVec 3) (d : BitVec 7) (a : BitVec 7) (b : BitVec 7) : Statement (.sel k d a b) := by
  intro w h _
  cases h
  exact decode_of_cell ((cell_encR ..).trans rfl) (BitVec.and_zero)
theorem cmpSg (p : BitVec 3) (d : BitVec 7) (a : BitVec 7) (b : BitVec 7) : Statement (.cmpSg p d a b) := by
  intro w h _
  cases h
  exact decode_of_cell ((cell_encR ..).trans rfl) (BitVec.and_zero)
theorem cmpUs (p : BitVec 3) (d : BitVec 7) (a : BitVec 7) (b : BitVec 7) : Statement (.cmpUs p d a b) := by
  intro w h _
  cases h
  exact decode_of_cell ((cell_encR ..).trans rfl) (BitVec.and_zero)
theorem cmpI64 (p : BitVec 3) (d : BitVec 7) (a : BitVec 7) (b : BitVec 7) : Statement (.cmpI64 p d a b) := by
  intro w h _
  cases h
  exact decode_of_cell ((cell_encR ..).trans rfl) (BitVec.and_zero)
theorem pand (p : BitVec 3) (d : BitVec 7) (a : BitVec 7) (b : BitVec 7) : Statement (.pand p d a b) := by
  intro w h _
  cases h
  exact decode_of_cell ((cell_encR ..).trans rfl) (BitVec.and_zero)
theorem por (p : BitVec 3) (d : BitVec 7) (a : BitVec 7) (b : BitVec 7) : Statement (.por p d a b) := by
  intro w h _
  cases h
  exact decode_of_cell ((cell_encR ..).trans rfl) (BitVec.and_zero)
theorem pxor (p : BitVec 3) (d : BitVec 7) (a : BitVec 7) (b : BitVec 7) : Statement (.pxor p d a b) := by
  intro w h _
  cases h
  exact decode_of_cell ((cell_encR ..).trans rfl) (BitVec.and_zero)
theorem pnot (p : BitVec 3) (d : BitVec 7) (a : BitVec 7) : Statement (.pnot p d a) := by
  intro w h _
  cases h
  exact decode_of_cell ((cell_encR ..).trans rfl) (mask_b ..)
theorem mov (p : BitVec 3) (d : BitVec 7) (a : BitVec 7) : Statement (.mov p d a) := by
  intro w h _
  cases h
  exact decode_of_cell ((cell_encR ..).trans rfl) (mask_b ..)
theorem smovToUniform (p : BitVec 3) (d : BitVec 7) (a : BitVec 7) : Statement (.smovToUniform p d a) := by
  intro w h _
  cases h
  exact decode_of_cell ((cell_encR ..).trans rfl) (BitVec.and_zero)
theorem smovFromUniform (p : BitVec 3) (d : BitVec 7) (a : BitVec 7) : Statement (.smovFromUniform p d a) := by
  intro w h _
  cases h
  exact decode_of_cell ((cell_encR ..).trans rfl) (BitVec.and_zero)
theorem movI64 (p : BitVec 3) (d : BitVec 7) (a : BitVec 7) : Statement (.movI64 p d a) := by
  intro w h _
  cases h
  exact decode_of_cell ((cell_encR ..).trans rfl) (mask_b ..)
theorem lea (p : BitVec 3) (d : BitVec 7) (a : BitVec 7) (b : BitVec 7) : Statement (.lea p d a b) := by
  intro w h _
  cases h
  exact decode_of_cell ((cell_encR ..).trans rfl) (BitVec.and_zero)
theorem idx2 (p : BitVec 3) (d : BitVec 7) (a : BitVec 7) (b : BitVec 7) : Statement (.idx2 p d a b) := by
  intro w h _
  cases h
  exact decode_of_cell ((cell_encR ..).trans rfl) (BitVec.and_zero)
theorem shlI64 (p : BitVec 3) (d : BitVec 7) (a : BitVec 7) (b : BitVec 7) : Statement (.shlI64 p d a b) := by
  intro w h _
  cases h
  exact decode_of_cell ((cell_encR ..).trans rfl) (BitVec.and_zero)
theorem shrI64 (p : BitVec 3) (d : BitVec 7) (a : BitVec 7) (b : BitVec 7) : Statement (.shrI64 p d a b) := by
  intro w h _
  cases h
  exact decode_of_cell ((cell_encR ..).trans rfl) (BitVec.and_zero)
theorem sarI64 (p : BitVec 3) (d : BitVec 7) (a : BitVec 7) (b : BitVec 7) : Statement (.sarI64 p d a b) := by
  intro w h _
  cases h
  exact decode_of_cell ((cell_encR ..).trans rfl) (BitVec.and_zero)
theorem movi (p : BitVec 3) (d : BitVec 7) (i : BitVec 9) : Statement (.movi p d i) := by
  intro w h _
  cases h
  refine decode_of_cell ((cell_encI ..).trans (?_ : _ = some (Instr.movi p d i, 0x0000FE00#32))) ?_
  · show some (Instr.movi p d ((encI _ p d _ _).extractLsb' 0 9), _) = _
    rw [encI_imm]
  · apply BitVec.eq_of_getLsbD_eq; intro j hj
    rw [BitVec.getLsbD_and, encI_bit]
    have : ∀ i < 32, (0x0000FE00#32).getLsbD i = decide (9 ≤ i ∧ i < 16) := by decide
    rw [this j hj]
    repeat' split
    all_goals simp
    all_goals omega
theorem addI32Immediate (p : BitVec 3) (d : BitVec 7) (a : BitVec 7) (i : BitVec 9) : Statement (.addI32Immediate p d a i) := by
  intro w h _
  cases h
  refine decode_of_cell ((cell_encI ..).trans ?_) BitVec.and_zero
  show some (Instr.addI32Immediate p d a ((encI _ p d a _).extractLsb' 0 9), _) = _
  rw [encI_imm]
theorem faddF32 (p : BitVec 3) (d : BitVec 7) (a : BitVec 7) (b : BitVec 7) : Statement (.faddF32 p d a b) := by
  intro w h _
  cases h
  exact decode_of_cell ((cell_encR ..).trans rfl) (BitVec.and_zero)
theorem fsubF32 (p : BitVec 3) (d : BitVec 7) (a : BitVec 7) (b : BitVec 7) : Statement (.fsubF32 p d a b) := by
  intro w h _
  cases h
  exact decode_of_cell ((cell_encR ..).trans rfl) (BitVec.and_zero)
theorem fmulF32 (p : BitVec 3) (d : BitVec 7) (a : BitVec 7) (b : BitVec 7) : Statement (.fmulF32 p d a b) := by
  intro w h _
  cases h
  exact decode_of_cell ((cell_encR ..).trans rfl) (BitVec.and_zero)
theorem fminF32 (p : BitVec 3) (d : BitVec 7) (a : BitVec 7) (b : BitVec 7) : Statement (.fminF32 p d a b) := by
  intro w h _
  cases h
  exact decode_of_cell ((cell_encR ..).trans rfl) (BitVec.and_zero)
theorem fmaF32D0 (p : BitVec 3) (d : BitVec 7) (a : BitVec 7) (b : BitVec 7) : Statement (.fmaF32D0 p d a b) := by
  intro w h _
  cases h
  exact decode_of_cell ((cell_encR ..).trans rfl) (BitVec.and_zero)
theorem fmaF32D1 (p : BitVec 3) (d : BitVec 7) (a : BitVec 7) (b : BitVec 7) : Statement (.fmaF32D1 p d a b) := by
  intro w h _
  cases h
  exact decode_of_cell ((cell_encR ..).trans rfl) (BitVec.and_zero)
theorem fmaF32D2 (p : BitVec 3) (d : BitVec 7) (a : BitVec 7) (b : BitVec 7) : Statement (.fmaF32D2 p d a b) := by
  intro w h _
  cases h
  exact decode_of_cell ((cell_encR ..).trans rfl) (BitVec.and_zero)
theorem fmaF32D3 (p : BitVec 3) (d : BitVec 7) (a : BitVec 7) (b : BitVec 7) : Statement (.fmaF32D3 p d a b) := by
  intro w h _
  cases h
  exact decode_of_cell ((cell_encR ..).trans rfl) (BitVec.and_zero)
theorem fmaxF32 (p : BitVec 3) (d : BitVec 7) (a : BitVec 7) (b : BitVec 7) : Statement (.fmaxF32 p d a b) := by
  intro w h _
  cases h
  exact decode_of_cell ((cell_encR ..).trans rfl) (BitVec.and_zero)
theorem fcmpF32 (p : BitVec 3) (d : BitVec 7) (a : BitVec 7) (b : BitVec 7) : Statement (.fcmpF32 p d a b) := by
  intro w h _
  cases h
  exact decode_of_cell ((cell_encR ..).trans rfl) (BitVec.and_zero)
theorem fclassF32 (p : BitVec 3) (d : BitVec 7) (a : BitVec 7) : Statement (.fclassF32 p d a) := by
  intro w h _
  cases h
  exact decode_of_cell ((cell_encR ..).trans rfl) (mask_b ..)
theorem faddF16 (p : BitVec 3) (d : BitVec 7) (a : BitVec 7) (b : BitVec 7) : Statement (.faddF16 p d a b) := by
  intro w h _
  cases h
  exact decode_of_cell ((cell_encR ..).trans rfl) (BitVec.and_zero)
theorem fsubF16 (p : BitVec 3) (d : BitVec 7) (a : BitVec 7) (b : BitVec 7) : Statement (.fsubF16 p d a b) := by
  intro w h _
  cases h
  exact decode_of_cell ((cell_encR ..).trans rfl) (BitVec.and_zero)
theorem fmulF16 (p : BitVec 3) (d : BitVec 7) (a : BitVec 7) (b : BitVec 7) : Statement (.fmulF16 p d a b) := by
  intro w h _
  cases h
  exact decode_of_cell ((cell_encR ..).trans rfl) (BitVec.and_zero)
theorem fminF16 (p : BitVec 3) (d : BitVec 7) (a : BitVec 7) (b : BitVec 7) : Statement (.fminF16 p d a b) := by
  intro w h _
  cases h
  exact decode_of_cell ((cell_encR ..).trans rfl) (BitVec.and_zero)
theorem fmaF16D0 (p : BitVec 3) (d : BitVec 7) (a : BitVec 7) (b : BitVec 7) : Statement (.fmaF16D0 p d a b) := by
  intro w h _
  cases h
  exact decode_of_cell ((cell_encR ..).trans rfl) (BitVec.and_zero)
theorem fmaF16D1 (p : BitVec 3) (d : BitVec 7) (a : BitVec 7) (b : BitVec 7) : Statement (.fmaF16D1 p d a b) := by
  intro w h _
  cases h
  exact decode_of_cell ((cell_encR ..).trans rfl) (BitVec.and_zero)
theorem fmaF16D2 (p : BitVec 3) (d : BitVec 7) (a : BitVec 7) (b : BitVec 7) : Statement (.fmaF16D2 p d a b) := by
  intro w h _
  cases h
  exact decode_of_cell ((cell_encR ..).trans rfl) (BitVec.and_zero)
theorem fmaF16D3 (p : BitVec 3) (d : BitVec 7) (a : BitVec 7) (b : BitVec 7) : Statement (.fmaF16D3 p d a b) := by
  intro w h _
  cases h
  exact decode_of_cell ((cell_encR ..).trans rfl) (BitVec.and_zero)
theorem fmaxF16 (p : BitVec 3) (d : BitVec 7) (a : BitVec 7) (b : BitVec 7) : Statement (.fmaxF16 p d a b) := by
  intro w h _
  cases h
  exact decode_of_cell ((cell_encR ..).trans rfl) (BitVec.and_zero)
theorem fcmpF16 (p : BitVec 3) (d : BitVec 7) (a : BitVec 7) (b : BitVec 7) : Statement (.fcmpF16 p d a b) := by
  intro w h _
  cases h
  exact decode_of_cell ((cell_encR ..).trans rfl) (BitVec.and_zero)
theorem fclassF16 (p : BitVec 3) (d : BitVec 7) (a : BitVec 7) : Statement (.fclassF16 p d a) := by
  intro w h _
  cases h
  exact decode_of_cell ((cell_encR ..).trans rfl) (mask_b ..)
theorem faddBf16 (p : BitVec 3) (d : BitVec 7) (a : BitVec 7) (b : BitVec 7) : Statement (.faddBf16 p d a b) := by
  intro w h _
  cases h
  exact decode_of_cell ((cell_encR ..).trans rfl) (BitVec.and_zero)
theorem fsubBf16 (p : BitVec 3) (d : BitVec 7) (a : BitVec 7) (b : BitVec 7) : Statement (.fsubBf16 p d a b) := by
  intro w h _
  cases h
  exact decode_of_cell ((cell_encR ..).trans rfl) (BitVec.and_zero)
theorem fmulBf16 (p : BitVec 3) (d : BitVec 7) (a : BitVec 7) (b : BitVec 7) : Statement (.fmulBf16 p d a b) := by
  intro w h _
  cases h
  exact decode_of_cell ((cell_encR ..).trans rfl) (BitVec.and_zero)
theorem fminBf16 (p : BitVec 3) (d : BitVec 7) (a : BitVec 7) (b : BitVec 7) : Statement (.fminBf16 p d a b) := by
  intro w h _
  cases h
  exact decode_of_cell ((cell_encR ..).trans rfl) (BitVec.and_zero)
theorem fmaBf16D0 (p : BitVec 3) (d : BitVec 7) (a : BitVec 7) (b : BitVec 7) : Statement (.fmaBf16D0 p d a b) := by
  intro w h _
  cases h
  exact decode_of_cell ((cell_encR ..).trans rfl) (BitVec.and_zero)
theorem fmaBf16D1 (p : BitVec 3) (d : BitVec 7) (a : BitVec 7) (b : BitVec 7) : Statement (.fmaBf16D1 p d a b) := by
  intro w h _
  cases h
  exact decode_of_cell ((cell_encR ..).trans rfl) (BitVec.and_zero)
theorem fmaBf16D2 (p : BitVec 3) (d : BitVec 7) (a : BitVec 7) (b : BitVec 7) : Statement (.fmaBf16D2 p d a b) := by
  intro w h _
  cases h
  exact decode_of_cell ((cell_encR ..).trans rfl) (BitVec.and_zero)
theorem fmaBf16D3 (p : BitVec 3) (d : BitVec 7) (a : BitVec 7) (b : BitVec 7) : Statement (.fmaBf16D3 p d a b) := by
  intro w h _
  cases h
  exact decode_of_cell ((cell_encR ..).trans rfl) (BitVec.and_zero)
theorem fmaxBf16 (p : BitVec 3) (d : BitVec 7) (a : BitVec 7) (b : BitVec 7) : Statement (.fmaxBf16 p d a b) := by
  intro w h _
  cases h
  exact decode_of_cell ((cell_encR ..).trans rfl) (BitVec.and_zero)
theorem fcmpBf16 (p : BitVec 3) (d : BitVec 7) (a : BitVec 7) (b : BitVec 7) : Statement (.fcmpBf16 p d a b) := by
  intro w h _
  cases h
  exact decode_of_cell ((cell_encR ..).trans rfl) (BitVec.and_zero)
theorem fclassBf16 (p : BitVec 3) (d : BitVec 7) (a : BitVec 7) : Statement (.fclassBf16 p d a) := by
  intro w h _
  cases h
  exact decode_of_cell ((cell_encR ..).trans rfl) (mask_b ..)
theorem frcp (p : BitVec 3) (d : BitVec 7) (a : BitVec 7) : Statement (.frcp p d a) := by
  intro w h _
  cases h
  exact decode_of_cell ((cell_encR ..).trans rfl) (mask_b ..)
theorem frsq (p : BitVec 3) (d : BitVec 7) (a : BitVec 7) : Statement (.frsq p d a) := by
  intro w h _
  cases h
  exact decode_of_cell ((cell_encR ..).trans rfl) (mask_b ..)
theorem fsqrt (p : BitVec 3) (d : BitVec 7) (a : BitVec 7) : Statement (.fsqrt p d a) := by
  intro w h _
  cases h
  exact decode_of_cell ((cell_encR ..).trans rfl) (mask_b ..)
theorem fdiv (p : BitVec 3) (d : BitVec 7) (a : BitVec 7) (b : BitVec 7) : Statement (.fdiv p d a b) := by
  intro w h _
  cases h
  exact decode_of_cell ((cell_encR ..).trans rfl) (BitVec.and_zero)
theorem fex2 (p : BitVec 3) (d : BitVec 7) (a : BitVec 7) : Statement (.fex2 p d a) := by
  intro w h _
  cases h
  exact decode_of_cell ((cell_encR ..).trans rfl) (mask_b ..)
theorem flg2 (p : BitVec 3) (d : BitVec 7) (a : BitVec 7) : Statement (.flg2 p d a) := by
  intro w h _
  cases h
  exact decode_of_cell ((cell_encR ..).trans rfl) (mask_b ..)
theorem fsin (p : BitVec 3) (d : BitVec 7) (a : BitVec 7) : Statement (.fsin p d a) := by
  intro w h _
  cases h
  exact decode_of_cell ((cell_encR ..).trans rfl) (mask_b ..)
theorem fcos (p : BitVec 3) (d : BitVec 7) (a : BitVec 7) : Statement (.fcos p d a) := by
  intro w h _
  cases h
  exact decode_of_cell ((cell_encR ..).trans rfl) (mask_b ..)
theorem frintRn (p : BitVec 3) (d : BitVec 7) (a : BitVec 7) : Statement (.frintRn p d a) := by
  intro w h _
  cases h
  exact decode_of_cell ((cell_encR ..).trans rfl) (mask_b ..)
theorem frintRz (p : BitVec 3) (d : BitVec 7) (a : BitVec 7) : Statement (.frintRz p d a) := by
  intro w h _
  cases h
  exact decode_of_cell ((cell_encR ..).trans rfl) (mask_b ..)
theorem frintRp (p : BitVec 3) (d : BitVec 7) (a : BitVec 7) : Statement (.frintRp p d a) := by
  intro w h _
  cases h
  exact decode_of_cell ((cell_encR ..).trans rfl) (mask_b ..)
theorem frintRm (p : BitVec 3) (d : BitVec 7) (a : BitVec 7) : Statement (.frintRm p d a) := by
  intro w h _
  cases h
  exact decode_of_cell ((cell_encR ..).trans rfl) (mask_b ..)
theorem dadd (p : BitVec 3) (d : BitVec 7) (a : BitVec 7) (b : BitVec 7) : Statement (.dadd p d a b) := by
  intro w h _
  cases h
  exact decode_of_cell ((cell_encR ..).trans rfl) (BitVec.and_zero)
theorem dmul (p : BitVec 3) (d : BitVec 7) (a : BitVec 7) (b : BitVec 7) : Statement (.dmul p d a b) := by
  intro w h _
  cases h
  exact decode_of_cell ((cell_encR ..).trans rfl) (BitVec.and_zero)
theorem dfma (p : BitVec 3) (d : BitVec 7) (a : BitVec 7) (b : BitVec 7) : Statement (.dfma p d a b) := by
  intro w h _
  cases h
  exact decode_of_cell ((cell_encR ..).trans rfl) (BitVec.and_zero)
theorem dcvtF64F32 (p : BitVec 3) (d : BitVec 7) (a : BitVec 7) : Statement (.dcvtF64F32 p d a) := by
  intro w h _
  cases h
  exact decode_of_cell ((cell_encR ..).trans rfl) (mask_b ..)
theorem dcvtF32F64 (p : BitVec 3) (d : BitVec 7) (a : BitVec 7) : Statement (.dcvtF32F64 p d a) := by
  intro w h _
  cases h
  exact decode_of_cell ((cell_encR ..).trans rfl) (mask_b ..)
theorem dcvtF64S64 (p : BitVec 3) (d : BitVec 7) (a : BitVec 7) : Statement (.dcvtF64S64 p d a) := by
  intro w h _
  cases h
  exact decode_of_cell ((cell_encR ..).trans rfl) (mask_b ..)
theorem dcvtS64F64 (p : BitVec 3) (d : BitVec 7) (a : BitVec 7) : Statement (.dcvtS64F64 p d a) := by
  intro w h _
  cases h
  exact decode_of_cell ((cell_encR ..).trans rfl) (mask_b ..)
theorem cvtRn (p : BitVec 3) (d : BitVec 7) (a : BitVec 7) (b : BitVec 7) : Statement (.cvtRn p d a b) := by
  intro w h _
  cases h
  exact decode_of_cell ((cell_encR ..).trans rfl) (BitVec.and_zero)
theorem cvtRz (p : BitVec 3) (d : BitVec 7) (a : BitVec 7) (b : BitVec 7) : Statement (.cvtRz p d a b) := by
  intro w h _
  cases h
  exact decode_of_cell ((cell_encR ..).trans rfl) (BitVec.and_zero)
theorem cvtRp (p : BitVec 3) (d : BitVec 7) (a : BitVec 7) (b : BitVec 7) : Statement (.cvtRp p d a b) := by
  intro w h _
  cases h
  exact decode_of_cell ((cell_encR ..).trans rfl) (BitVec.and_zero)
theorem cvtRm (p : BitVec 3) (d : BitVec 7) (a : BitVec 7) (b : BitVec 7) : Statement (.cvtRm p d a b) := by
  intro w h _
  cases h
  exact decode_of_cell ((cell_encR ..).trans rfl) (BitVec.and_zero)
theorem cvtn (p : BitVec 3) (d : BitVec 7) (a : BitVec 7) (b : BitVec 7) (k : BitVec 2) : Statement (.cvtn p d a b k) := by
  intro w h _
  cases h
  have hk : k = 0#2 ∨ k = 1#2 ∨ k = 2#2 ∨ k = 3#2 := (by decide : ∀ k : BitVec 2, k = 0#2 ∨ k = 1#2 ∨ k = 2#2 ∨ k = 3#2) k
  rcases hk with rfl | rfl | rfl | rfl
  all_goals exact decode_of_cell ((cell_encR ..).trans rfl) BitVec.and_zero
theorem cvtw (p : BitVec 3) (d : BitVec 7) (a : BitVec 7) (b : BitVec 7) (k : BitVec 2) : Statement (.cvtw p d a b k) := by
  intro w h _
  cases h
  have hk : k = 0#2 ∨ k = 1#2 ∨ k = 2#2 ∨ k = 3#2 := (by decide : ∀ k : BitVec 2, k = 0#2 ∨ k = 1#2 ∨ k = 2#2 ∨ k = 3#2) k
  rcases hk with rfl | rfl | rfl | rfl
  all_goals exact decode_of_cell ((cell_encR ..).trans rfl) BitVec.and_zero
theorem bsext (p : BitVec 3) (d : BitVec 7) (a : BitVec 7) (b : BitVec 7) : Statement (.bsext p d a b) := by
  intro w h _
  cases h
  exact decode_of_cell ((cell_encR ..).trans rfl) (BitVec.and_zero)
theorem bsapp (p : BitVec 3) (d : BitVec 7) (a : BitVec 7) (b : BitVec 7) : Statement (.bsapp p d a b) := by
  intro w h _
  cases h
  exact decode_of_cell ((cell_encR ..).trans rfl) (BitVec.and_zero)
theorem compress (p : BitVec 3) (d : BitVec 7) (a : BitVec 7) : Statement (.compress p d a) := by
  intro w h _
  cases h
  exact decode_of_cell ((cell_encR ..).trans rfl) (mask_b ..)
theorem expand (p : BitVec 3) (d : BitVec 7) (a : BitVec 7) (b : BitVec 7) : Statement (.expand p d a b) := by
  intro w h _
  cases h
  exact decode_of_cell ((cell_encR ..).trans rfl) (BitVec.and_zero)
theorem qswpH (p : BitVec 3) (d : BitVec 7) (a : BitVec 7) : Statement (.qswpH p d a) := by
  intro w h _
  cases h
  exact decode_of_cell ((cell_encR ..).trans rfl) (mask_b ..)
theorem qswpV (p : BitVec 3) (d : BitVec 7) (a : BitVec 7) : Statement (.qswpV p d a) := by
  intro w h _
  cases h
  exact decode_of_cell ((cell_encR ..).trans rfl) (mask_b ..)
theorem qswpD (p : BitVec 3) (d : BitVec 7) (a : BitVec 7) : Statement (.qswpD p d a) := by
  intro w h _
  cases h
  exact decode_of_cell ((cell_encR ..).trans rfl) (mask_b ..)
theorem elect (p : BitVec 3) (d : BitVec 7) : Statement (.elect p d) := by
  intro w h _
  cases h
  exact decode_of_cell ((cell_encR ..).trans rfl) (mask_ab ..)
theorem voteAny (p : BitVec 3) (d : BitVec 7) (a : BitVec 7) : Statement (.voteAny p d a) := by
  intro w h _
  cases h
  exact decode_of_cell ((cell_encR ..).trans rfl) (mask_b ..)
theorem voteAll (p : BitVec 3) (d : BitVec 7) (a : BitVec 7) : Statement (.voteAll p d a) := by
  intro w h _
  cases h
  exact decode_of_cell ((cell_encR ..).trans rfl) (mask_b ..)
theorem voteBallot (p : BitVec 3) (d : BitVec 7) (a : BitVec 7) : Statement (.voteBallot p d a) := by
  intro w h _
  cases h
  exact decode_of_cell ((cell_encR ..).trans rfl) (mask_b ..)
theorem matchAny (p : BitVec 3) (d : BitVec 7) (a : BitVec 7) : Statement (.matchAny p d a) := by
  intro w h _
  cases h
  exact decode_of_cell ((cell_encR ..).trans rfl) (mask_b ..)
theorem reduxI32 (p : BitVec 3) (d : BitVec 7) (a : BitVec 7) (b : BitVec 7) : Statement (.reduxI32 p d a b) := by
  intro w h _
  cases h
  exact decode_of_cell ((cell_encR ..).trans rfl) (BitVec.and_zero)
theorem reduxUs (p : BitVec 3) (d : BitVec 7) (a : BitVec 7) (b : BitVec 7) : Statement (.reduxUs p d a b) := by
  intro w h _
  cases h
  exact decode_of_cell ((cell_encR ..).trans rfl) (BitVec.and_zero)
theorem reduxF32 (p : BitVec 3) (d : BitVec 7) (a : BitVec 7) (b : BitVec 7) : Statement (.reduxF32 p d a b) := by
  intro w h _
  cases h
  exact decode_of_cell ((cell_encR ..).trans rfl) (BitVec.and_zero)
theorem scanI32 (p : BitVec 3) (d : BitVec 7) (a : BitVec 7) (b : BitVec 7) : Statement (.scanI32 p d a b) := by
  intro w h _
  cases h
  exact decode_of_cell ((cell_encR ..).trans rfl) (BitVec.and_zero)
theorem scanUs (p : BitVec 3) (d : BitVec 7) (a : BitVec 7) (b : BitVec 7) : Statement (.scanUs p d a b) := by
  intro w h _
  cases h
  exact decode_of_cell ((cell_encR ..).trans rfl) (BitVec.and_zero)
theorem scanF32 (p : BitVec 3) (d : BitVec 7) (a : BitVec 7) (b : BitVec 7) : Statement (.scanF32 p d a b) := by
  intro w h _
  cases h
  exact decode_of_cell ((cell_encR ..).trans rfl) (BitVec.and_zero)
theorem movf (d : BitVec 7) (f : BitVec 20) : Statement (.movf d f) := by
  intro w h _
  cases h
  have hd : (encF d f).extractLsb' 20 7 = d := by
    apply BitVec.eq_of_getLsbD_eq; intro i hi
    rw [BitVec.getLsbD_extractLsb', encF_bit, if_neg (by omega), if_pos (by omega)]
    simp [hi]
  have hf : (encF d f).extractLsb' 0 20 = f := by
    apply BitVec.eq_of_getLsbD_eq; intro i hi
    rw [BitVec.getLsbD_extractLsb', encF_bit, if_pos (by omega)]
    simp [hi]
  have hm : (encF d f).extractLsb' 26 6 = 0x3C#6 ∨ (encF d f).extractLsb' 26 6 = 0x3D#6 := by
    have e : (encF d f).extractLsb' 26 6 = 0b11110#5 ++ d.extractLsb' 6 1 := by
      apply BitVec.eq_of_getLsbD_eq; intro i hi
      rw [BitVec.getLsbD_extractLsb', encF_bit]
      show _ = BitVec.getLsbD (w := 5+1) (0b11110#5 ++ d.extractLsb' 6 1) i
      rw [BitVec.getLsbD_append]
      by_cases h0 : i < 1
      · have : i = 0 := by omega
        subst this
        simp
      · rw [if_neg h0, if_neg (by omega), if_neg (by omega)]
        simp only [hi, decide_true, Bool.true_and]
        congr 1; omega
    rw [e]
    generalize d.extractLsb' 6 1 = x
    revert x; decide
  rcases hm with hm | hm
  · refine decode_of_cell ((cell_of_maj _ _ hm).trans ?_) BitVec.and_zero
    show some (Instr.movf ((encF d f).extractLsb' 20 7) ((encF d f).extractLsb' 0 20), _) = _
    rw [hd, hf]
  · refine decode_of_cell ((cell_of_maj _ _ hm).trans ?_) BitVec.and_zero
    show some (Instr.movf ((encF d f).extractLsb' 20 7) ((encF d f).extractLsb' 0 20), _) = _
    rw [hd, hf]
theorem permutationPrefix (a : BitVec 9) (b : BitVec 9) : Statement (.permutationPrefix a b) := by
  intro w h _
  cases h
  have hm : (encX a b).extractLsb' 26 6 = 0x3F#6 := by
    apply BitVec.eq_of_getLsbD_eq; intro i hi
    rw [BitVec.getLsbD_extractLsb', encX_bit, if_neg (by omega), if_neg (by omega), if_neg (by omega)]
    simp [hi]
  have ha : (encX a b).extractLsb' 17 9 = a := by
    apply BitVec.eq_of_getLsbD_eq; intro i hi
    rw [BitVec.getLsbD_extractLsb', encX_bit, if_neg (by omega), if_neg (by omega), if_pos (by omega)]
    simp [hi]
  have hb : (encX a b).extractLsb' 8 9 = b := by
    apply BitVec.eq_of_getLsbD_eq; intro i hi
    rw [BitVec.getLsbD_extractLsb', encX_bit, if_neg (by omega), if_pos (by omega)]
    simp [hi]
  refine decode_of_cell ((cell_of_maj _ _ hm).trans (?_ : _ = some (Instr.permutationPrefix a b, 0x000000FF#32))) ?_
  · show some (Instr.permutationPrefix ((encX a b).extractLsb' 17 9) ((encX a b).extractLsb' 8 9), _) = _
    rw [ha, hb]
  · apply BitVec.eq_of_getLsbD_eq; intro j hj
    rw [BitVec.getLsbD_and, encX_bit]
    have h1 : ∀ i < 32, (0x000000FF#32).getLsbD i = decide (i < 8) := by decide
    rw [h1 j hj]
    by_cases h : j < 8 <;> simp [h]
theorem ldB32 (p : BitVec 3) (d : BitVec 7) (a : BitVec 7) (i : BitVec 9) : Statement (.ldB32 p d a i) := by
  intro w h _
  cases h
  refine decode_of_cell ((cell_encI ..).trans ?_) BitVec.and_zero
  show some (Instr.ldB32 p d a ((encI _ p d a _).extractLsb' 0 9), _) = _
  rw [encI_imm]
theorem stB32 (p : BitVec 3) (d : BitVec 7) (a : BitVec 7) (i : BitVec 9) : Statement (.stB32 p d a i) := by
  intro w h _
  cases h
  refine decode_of_cell ((cell_encI ..).trans ?_) BitVec.and_zero
  show some (Instr.stB32 p d a ((encI _ p d a _).extractLsb' 0 9), _) = _
  rw [encI_imm]
theorem ldB64 (p : BitVec 3) (d : BitVec 7) (a : BitVec 7) (b : BitVec 7) : Statement (.ldB64 p d a b) := by
  intro w h _
  cases h
  exact decode_of_cell ((cell_encR ..).trans rfl) (BitVec.and_zero)
theorem stB64 (p : BitVec 3) (d : BitVec 7) (a : BitVec 7) (b : BitVec 7) : Statement (.stB64 p d a b) := by
  intro w h _
  cases h
  exact decode_of_cell ((cell_encR ..).trans rfl) (BitVec.and_zero)
theorem ldB128 (p : BitVec 3) (d : BitVec 7) (a : BitVec 7) (b : BitVec 7) : Statement (.ldB128 p d a b) := by
  intro w h _
  cases h
  exact decode_of_cell ((cell_encR ..).trans rfl) (BitVec.and_zero)
theorem stB128 (p : BitVec 3) (d : BitVec 7) (a : BitVec 7) (b : BitVec 7) : Statement (.stB128 p d a b) := by
  intro w h _
  cases h
  exact decode_of_cell ((cell_encR ..).trans rfl) (BitVec.and_zero)
theorem ldB8 (p : BitVec 3) (d : BitVec 7) (a : BitVec 7) (b : BitVec 7) : Statement (.ldB8 p d a b) := by
  intro w h _
  cases h
  exact decode_of_cell ((cell_encR ..).trans rfl) (BitVec.and_zero)
theorem ldB16 (p : BitVec 3) (d : BitVec 7) (a : BitVec 7) (b : BitVec 7) : Statement (.ldB16 p d a b) := by
  intro w h _
  cases h
  exact decode_of_cell ((cell_encR ..).trans rfl) (BitVec.and_zero)
theorem stB8 (p : BitVec 3) (d : BitVec 7) (a : BitVec 7) (b : BitVec 7) : Statement (.stB8 p d a b) := by
  intro w h _
  cases h
  exact decode_of_cell ((cell_encR ..).trans rfl) (BitVec.and_zero)
theorem stB16 (p : BitVec 3) (d : BitVec 7) (a : BitVec 7) (b : BitVec 7) : Statement (.stB16 p d a b) := by
  intro w h _
  cases h
  exact decode_of_cell ((cell_encR ..).trans rfl) (BitVec.and_zero)
theorem ldsB32 (p : BitVec 3) (d : BitVec 7) (a : BitVec 7) (b : BitVec 7) : Statement (.ldsB32 p d a b) := by
  intro w h _
  cases h
  exact decode_of_cell ((cell_encR ..).trans rfl) (BitVec.and_zero)
theorem stsB32 (p : BitVec 3) (d : BitVec 7) (a : BitVec 7) (b : BitVec 7) : Statement (.stsB32 p d a b) := by
  intro w h _
  cases h
  exact decode_of_cell ((cell_encR ..).trans rfl) (BitVec.and_zero)
theorem ldsB64 (p : BitVec 3) (d : BitVec 7) (a : BitVec 7) (b : BitVec 7) : Statement (.ldsB64 p d a b) := by
  intro w h _
  cases h
  exact decode_of_cell ((cell_encR ..).trans rfl) (BitVec.and_zero)
theorem stsB64 (p : BitVec 3) (d : BitVec 7) (a : BitVec 7) (b : BitVec 7) : Statement (.stsB64 p d a b) := by
  intro w h _
  cases h
  exact decode_of_cell ((cell_encR ..).trans rfl) (BitVec.and_zero)
theorem ldcB32 (p : BitVec 3) (d : BitVec 7) (a : BitVec 7) (b : BitVec 7) : Statement (.ldcB32 p d a b) := by
  intro w h _
  cases h
  exact decode_of_cell ((cell_encR ..).trans rfl) (BitVec.and_zero)
theorem ldcB64 (p : BitVec 3) (d : BitVec 7) (a : BitVec 7) (b : BitVec 7) : Statement (.ldcB64 p d a b) := by
  intro w h _
  cases h
  exact decode_of_cell ((cell_encR ..).trans rfl) (BitVec.and_zero)
theorem pref (p : BitVec 3) (d : BitVec 7) (a : BitVec 7) (b : BitVec 7) : Statement (.pref p d a b) := by
  intro w h _
  cases h
  exact decode_of_cell ((cell_encR ..).trans rfl) (BitVec.and_zero)
theorem ldrB32 (p : BitVec 3) (d : BitVec 7) (a : BitVec 7) (i : BitVec 8) : Statement (.ldrB32 p d a i) := by
  intro w h _
  cases h
  refine decode_of_cell ((cell_encI ..).trans ?_) BitVec.and_zero
  show (if (encI _ p d a _).extractLsb' 8 1 = 0#1 then some (Instr.ldrB32 p d a ((encI _ p d a _).extractLsb' 0 8), 0#32) else _) = _
  rw [encI_bits _ _ _ _ _ 8 1 (by omega), encI_bits _ _ _ _ _ 0 8 (by omega)]
  rw [app_high (0#1) i 8 1 (by omega), app_low (0#1) i 0 8 (by omega)]
  rw [show i.extractLsb' 0 8 = i from extract_all i]
  rfl
theorem ldrB32Uniform (p : BitVec 3) (d : BitVec 7) (a : BitVec 7) (n : BitVec 4) : Statement (.ldrB32Uniform p d a n) := by
  intro w h _
  cases h
  refine decode_of_cell ((cell_encI ..).trans (?_ : _ = some (Instr.ldrB32Uniform p d a n, 0x000000F0#32))) ?_
  · show (if (encI _ p d a _).extractLsb' 8 1 = 0#1 then _ else some (Instr.ldrB32Uniform p d a ((encI _ p d a _).extractLsb' 0 4), _)) = _
    rw [encI_bits _ _ _ _ _ 8 1 (by omega), encI_bits _ _ _ _ _ 0 4 (by omega)]
    rw [app_high (0b10000#5) n 8 1 (by omega), app_low (0b10000#5) n 0 4 (by omega), extract_all]
    rfl
  · apply BitVec.eq_of_getLsbD_eq; intro j hj
    rw [BitVec.getLsbD_and, encI_bit]
    have h1 : ∀ i < 32, (0x000000F0#32).getLsbD i = decide (4 ≤ i ∧ i < 8) := by decide
    have h2 : ∀ i, (0b10000#5 ++ n).getLsbD i = if i < 4 then n.getLsbD i else (0b10000#5).getLsbD (i - 4) := fun i => BitVec.getLsbD_append
    have h3 : ∀ i < 4, (0b10000#5).getLsbD i = false := by decide
    rw [h1 j hj]
    by_cases hj2 : 4 ≤ j ∧ j < 8
    · rw [if_pos (show j < 9 by omega), h2, if_neg (by omega), h3 _ (by omega)]
      simp
    · simp [hj2]
theorem strB32 (p : BitVec 3) (d : BitVec 7) (a : BitVec 7) (i : BitVec 8) : Statement (.strB32 p d a i) := by
  intro w h _
  cases h
  refine decode_of_cell ((cell_encI ..).trans ?_) BitVec.and_zero
  show (if (encI _ p d a _).extractLsb' 8 1 = 0#1 then some (Instr.strB32 p d a ((encI _ p d a _).extractLsb' 0 8), 0#32) else _) = _
  rw [encI_bits _ _ _ _ _ 8 1 (by omega), encI_bits _ _ _ _ _ 0 8 (by omega)]
  rw [app_high (0#1) i 8 1 (by omega), app_low (0#1) i 0 8 (by omega)]
  rw [show i.extractLsb' 0 8 = i from extract_all i]
  rfl
theorem strB32Uniform (p : BitVec 3) (d : BitVec 7) (a : BitVec 7) (n : BitVec 4) : Statement (.strB32Uniform p d a n) := by
  intro w h _
  cases h
  refine decode_of_cell ((cell_encI ..).trans (?_ : _ = some (Instr.strB32Uniform p d a n, 0x000000F0#32))) ?_
  · show (if (encI _ p d a _).extractLsb' 8 1 = 0#1 then _ else some (Instr.strB32Uniform p d a ((encI _ p d a _).extractLsb' 0 4), _)) = _
    rw [encI_bits _ _ _ _ _ 8 1 (by omega), encI_bits _ _ _ _ _ 0 4 (by omega)]
    rw [app_high (0b10000#5) n 8 1 (by omega), app_low (0b10000#5) n 0 4 (by omega), extract_all]
    rfl
  · apply BitVec.eq_of_getLsbD_eq; intro j hj
    rw [BitVec.getLsbD_and, encI_bit]
    have h1 : ∀ i < 32, (0x000000F0#32).getLsbD i = decide (4 ≤ i ∧ i < 8) := by decide
    have h2 : ∀ i, (0b10000#5 ++ n).getLsbD i = if i < 4 then n.getLsbD i else (0b10000#5).getLsbD (i - 4) := fun i => BitVec.getLsbD_append
    have h3 : ∀ i < 4, (0b10000#5).getLsbD i = false := by decide
    rw [h1 j hj]
    by_cases hj2 : 4 ≤ j ∧ j < 8
    · rw [if_pos (show j < 9 by omega), h2, if_neg (by omega), h3 _ (by omega)]
      simp
    · simp [hj2]
theorem atomB32 (p : BitVec 3) (d : BitVec 7) (a : BitVec 7) (b : BitVec 7) : Statement (.atomB32 p d a b) := by
  intro w h hw
  cases h
  have hb : b.extractLsb' 0 4 ≠ 11#4 := by
    intro e
    revert hw
    simp [Instr.wf, Machine.valueCause, Machine.selectorOk, e]
  refine decode_of_cell ((cell_encR ..).trans ?_) BitVec.and_zero
  show (if (encR _ p d a b _).extractLsb' (2 + 0) 4 = 11#4 then _ else some (Instr.atomB32 p d a b, 0#32)) = _
  rw [encR_bbits _ _ _ _ _ _ 0 4 (by omega), if_neg hb]
theorem casB32 (p : BitVec 3) (d : BitVec 7) (a : BitVec 7) (s : BitVec 3) : Statement (.casB32 p d a s) := by
  intro w h _
  cases h
  refine decode_of_cell ((cell_encR ..).trans ?_) BitVec.and_zero
  show (if (encR _ p d a _ _).extractLsb' (2 + 0) 4 = 11#4 then some (Instr.casB32 p d a ((encR _ p d a _ _).extractLsb' (2 + 4) 3), 0#32) else _) = _
  rw [encR_bbits _ _ _ _ _ _ 0 4 (by omega), encR_bbits _ _ _ _ _ _ 4 3 (by omega)]
  rw [app_low s (11#4) 0 4 (by omega), app_high s (11#4) 4 3 (by omega)]
  rw [show s.extractLsb' (4 - 4) 3 = s from extract_all s]
  rfl
theorem atomB64 (p : BitVec 3) (d : BitVec 7) (a : BitVec 7) (b : BitVec 7) : Statement (.atomB64 p d a b) := by
  intro w h hw
  cases h
  have hb : b.extractLsb' 0 4 ≠ 11#4 := by
    intro e
    revert hw
    simp [Instr.wf, Machine.valueCause, Machine.selectorOk, e]
  refine decode_of_cell ((cell_encR ..).trans ?_) BitVec.and_zero
  show (if (encR _ p d a b _).extractLsb' (2 + 0) 4 = 11#4 then _ else some (Instr.atomB64 p d a b, 0#32)) = _
  rw [encR_bbits _ _ _ _ _ _ 0 4 (by omega), if_neg hb]
theorem casB64 (p : BitVec 3) (d : BitVec 7) (a : BitVec 7) (s : BitVec 3) : Statement (.casB64 p d a s) := by
  intro w h _
  cases h
  refine decode_of_cell ((cell_encR ..).trans ?_) BitVec.and_zero
  show (if (encR _ p d a _ _).extractLsb' (2 + 0) 4 = 11#4 then some (Instr.casB64 p d a ((encR _ p d a _ _).extractLsb' (2 + 4) 3), 0#32) else _) = _
  rw [encR_bbits _ _ _ _ _ _ 0 4 (by omega), encR_bbits _ _ _ _ _ _ 4 3 (by omega)]
  rw [app_low s (11#4) 0 4 (by omega), app_high s (11#4) 4 3 (by omega)]
  rw [show s.extractLsb' (4 - 4) 3 = s from extract_all s]
  rfl
theorem redB32 (p : BitVec 3) (d : BitVec 7) (a : BitVec 7) (b : BitVec 7) : Statement (.redB32 p d a b) := by
  intro w h _
  cases h
  exact decode_of_cell ((cell_encR ..).trans rfl) (BitVec.and_zero)
theorem redB64 (p : BitVec 3) (d : BitVec 7) (a : BitVec 7) (b : BitVec 7) : Statement (.redB64 p d a b) := by
  intro w h _
  cases h
  exact decode_of_cell ((cell_encR ..).trans rfl) (BitVec.and_zero)
theorem fatom (p : BitVec 3) (d : BitVec 7) (a : BitVec 7) (b : BitVec 7) : Statement (.fatom p d a b) := by
  intro w h _
  cases h
  exact decode_of_cell ((cell_encR ..).trans rfl) (BitVec.and_zero)
theorem fatomNr (p : BitVec 3) (d : BitVec 7) (a : BitVec 7) (b : BitVec 7) : Statement (.fatomNr p d a b) := by
  intro w h _
  cases h
  exact decode_of_cell ((cell_encR ..).trans rfl) (BitVec.and_zero)
theorem mcas (p : BitVec 3) (d : BitVec 7) (a : BitVec 7) : Statement (.mcas p d a) := by
  intro w h _
  cases h
  exact decode_of_cell ((cell_encR ..).trans rfl) (mask_b ..)
theorem tshape (p : BitVec 3) (d : BitVec 7) (a : BitVec 7) : Statement (.tshape p d a) := by
  intro w h _
  cases h
  exact decode_of_cell ((cell_encR ..).trans rfl) (mask_b ..)
theorem tld (p : BitVec 3) (d : BitVec 7) (a : BitVec 7) (b : BitVec 7) : Statement (.tld p d a b) := by
  intro w h _
  cases h
  exact decode_of_cell ((cell_encR ..).trans rfl) (BitVec.and_zero)
theorem tst (p : BitVec 3) (d : BitVec 7) (a : BitVec 7) (b : BitVec 7) : Statement (.tst p d a b) := by
  intro w h _
  cases h
  exact decode_of_cell ((cell_encR ..).trans rfl) (BitVec.and_zero)
theorem tmov (p : BitVec 3) (d : BitVec 7) (a : BitVec 7) : Statement (.tmov p d a) := by
  intro w h _
  cases h
  exact decode_of_cell ((cell_encR ..).trans rfl) (mask_b ..)
theorem mmaBf16 (p : BitVec 3) (d : BitVec 7) (a : BitVec 7) (b : BitVec 7) : Statement (.mmaBf16 p d a b) := by
  intro w h _
  cases h
  exact decode_of_cell ((cell_encR ..).trans rfl) (BitVec.and_zero)
theorem mmaF16 (p : BitVec 3) (d : BitVec 7) (a : BitVec 7) (b : BitVec 7) : Statement (.mmaF16 p d a b) := by
  intro w h _
  cases h
  exact decode_of_cell ((cell_encR ..).trans rfl) (BitVec.and_zero)
theorem mmaNf (p : BitVec 3) (d : BitVec 7) (a : BitVec 7) (b : BitVec 7) : Statement (.mmaNf p d a b) := by
  intro w h _
  cases h
  exact decode_of_cell ((cell_encR ..).trans rfl) (BitVec.and_zero)
theorem mmaspBf16 (p : BitVec 3) (d : BitVec 7) (a : BitVec 7) (b : BitVec 7) : Statement (.mmaspBf16 p d a b) := by
  intro w h _
  cases h
  exact decode_of_cell ((cell_encR ..).trans rfl) (BitVec.and_zero)
theorem mmaspF16 (p : BitVec 3) (d : BitVec 7) (a : BitVec 7) (b : BitVec 7) : Statement (.mmaspF16 p d a b) := by
  intro w h _
  cases h
  exact decode_of_cell ((cell_encR ..).trans rfl) (BitVec.and_zero)
theorem mmaspNf (p : BitVec 3) (d : BitVec 7) (a : BitVec 7) (b : BitVec 7) : Statement (.mmaspNf p d a b) := by
  intro w h _
  cases h
  exact decode_of_cell ((cell_encR ..).trans rfl) (BitVec.and_zero)
theorem acalloc (p : BitVec 3) (d : BitVec 7) (a : BitVec 7) : Statement (.acalloc p d a) := by
  intro w h _
  cases h
  exact decode_of_cell ((cell_encR ..).trans rfl) (BitVec.and_zero)
theorem acfree (p : BitVec 3) (a : BitVec 7) : Statement (.acfree p a) := by
  intro w h _
  cases h
  exact decode_of_cell ((cell_encR ..).trans rfl) (mask_d ..)
theorem aczero (p : BitVec 3) (a : BitVec 7) : Statement (.aczero p a) := by
  intro w h _
  cases h
  exact decode_of_cell ((cell_encR ..).trans rfl) (mask_d ..)
theorem acrd (p : BitVec 3) (d : BitVec 7) (a : BitVec 7) : Statement (.acrd p d a) := by
  intro w h _
  cases h
  exact decode_of_cell ((cell_encR ..).trans rfl) (BitVec.and_zero)
theorem acwr (p : BitVec 3) (d : BitVec 7) (a : BitVec 7) : Statement (.acwr p d a) := by
  intro w h _
  cases h
  exact decode_of_cell ((cell_encR ..).trans rfl) (BitVec.and_zero)
theorem accvt (p : BitVec 3) (d : BitVec 7) (a : BitVec 7) : Statement (.accvt p d a) := by
  intro w h _
  cases h
  exact decode_of_cell ((cell_encR ..).trans rfl) (BitVec.and_zero)
theorem acseed (p : BitVec 3) (d : BitVec 7) (a : BitVec 7) : Statement (.acseed p d a) := by
  intro w h _
  cases h
  exact decode_of_cell ((cell_encR ..).trans rfl) (BitVec.and_zero)
theorem acqry (p : BitVec 3) (d : BitVec 7) (a : BitVec 7) : Statement (.acqry p d a) := by
  intro w h _
  cases h
  exact decode_of_cell ((cell_encR ..).trans rfl) (BitVec.and_zero)
theorem bra (p : BitVec 3) (o : BitVec 23) : Statement (.bra p o) := by
  intro w h _
  cases h
  have hm : (encB 0x39#6 p o).extractLsb' 26 6 = 0x39#6 := by
    apply BitVec.eq_of_getLsbD_eq; intro i hi
    rw [BitVec.getLsbD_extractLsb', encB_bit, if_neg (by omega), if_neg (by omega)]
    simp [hi]
  have hp : (encB 0x39#6 p o).extractLsb' 23 3 = p := by
    apply BitVec.eq_of_getLsbD_eq; intro i hi
    rw [BitVec.getLsbD_extractLsb', encB_bit, if_neg (by omega), if_pos (by omega)]
    simp [hi]
  have ho : (encB 0x39#6 p o).extractLsb' 0 23 = o := by
    apply BitVec.eq_of_getLsbD_eq; intro i hi
    rw [BitVec.getLsbD_extractLsb', encB_bit, if_pos (by omega)]
    simp [hi]
  refine decode_of_cell ((cell_of_maj _ _ hm).trans ?_) BitVec.and_zero
  show some (Instr.bra ((encB 0x39#6 p o).extractLsb' 23 3) ((encB 0x39#6 p o).extractLsb' 0 23), _) = _
  rw [hp, ho]
theorem nop (p : BitVec 3) : Statement (.nop p) := by
  intro w h _
  cases h
  exact decode_of_cell ((cell_encR ..).trans rfl) (mask_da ..)
theorem brcAny (p : BitVec 3) (d : BitVec 7) (a : BitVec 7) : Statement (.brcAny p d a) := by
  intro w h _
  cases h
  exact decode_of_cell ((cell_encR ..).trans rfl) (BitVec.and_zero)
theorem brcAll (p : BitVec 3) (d : BitVec 7) (a : BitVec 7) : Statement (.brcAll p d a) := by
  intro w h _
  cases h
  exact decode_of_cell ((cell_encR ..).trans rfl) (BitVec.and_zero)
theorem call (p : BitVec 3) (d : BitVec 7) (a : BitVec 7) : Statement (.call p d a) := by
  intro w h _
  cases h
  exact decode_of_cell ((cell_encR ..).trans rfl) (BitVec.and_zero)
theorem ret (p : BitVec 3) (a : BitVec 7) : Statement (.ret p a) := by
  intro w h _
  cases h
  exact decode_of_cell ((cell_encR ..).trans rfl) (mask_d ..)
theorem jmpi (p : BitVec 3) (a : BitVec 7) : Statement (.jmpi p a) := by
  intro w h _
  cases h
  exact decode_of_cell ((cell_encR ..).trans rfl) (mask_d ..)
theorem exitT (p : BitVec 3) : Statement (.exitT p) := by
  intro w h _
  cases h
  exact decode_of_cell ((cell_encR ..).trans rfl) (mask_da ..)
theorem yield (p : BitVec 3) : Statement (.yield p) := by
  intro w h _
  cases h
  exact decode_of_cell ((cell_encR ..).trans rfl) (mask_da ..)
theorem convW : Statement (.convW) := by
  intro w h _
  cases h
  exact decode_of_cell ((cell_encR ..).trans rfl) (mask_da ..)
theorem wbase (p : BitVec 3) (a : BitVec 7) : Statement (.wbase p a) := by
  intro w h _
  cases h
  exact decode_of_cell ((cell_encR ..).trans rfl) (mask_d ..)
theorem acqr (p : BitVec 3) (a : BitVec 7) : Statement (.acqr p a) := by
  intro w h _
  cases h
  exact decode_of_cell ((cell_encR ..).trans rfl) (mask_d ..)
theorem cfence (p : BitVec 3) : Statement (.cfence p) := by
  intro w h _
  cases h
  exact decode_of_cell ((cell_encR ..).trans rfl) (mask_da ..)
theorem ifence (p : BitVec 3) : Statement (.ifence p) := by
  intro w h _
  cases h
  exact decode_of_cell ((cell_encR ..).trans rfl) (mask_da ..)
theorem twait (p : BitVec 3) (d : BitVec 7) (a : BitVec 7) : Statement (.twait p d a) := by
  intro w h _
  cases h
  exact decode_of_cell ((cell_encR ..).trans rfl) (BitVec.and_zero)
theorem tread (p : BitVec 3) (d : BitVec 7) (a : BitVec 7) : Statement (.tread p d a) := by
  intro w h _
  cases h
  exact decode_of_cell ((cell_encR ..).trans rfl) (BitVec.and_zero)
theorem tsignal (p : BitVec 3) (d : BitVec 7) (a : BitVec 7) : Statement (.tsignal p d a) := by
  intro w h _
  cases h
  exact decode_of_cell ((cell_encR ..).trans rfl) (BitVec.and_zero)
theorem bar (p : BitVec 3) : Statement (.bar p) := by
  intro w h _
  cases h
  exact decode_of_cell ((cell_encR ..).trans rfl) (mask_da ..)
theorem bara (p : BitVec 3) (d : BitVec 7) (a : BitVec 7) : Statement (.bara p d a) := by
  intro w h _
  cases h
  exact decode_of_cell ((cell_encR ..).trans rfl) (BitVec.and_zero)
theorem barw (p : BitVec 3) (d : BitVec 7) : Statement (.barw p d) := by
  intro w h _
  cases h
  exact decode_of_cell ((cell_encR ..).trans rfl) (mask_a ..)
theorem marrive (p : BitVec 3) (d : BitVec 7) (a : BitVec 7) : Statement (.marrive p d a) := by
  intro w h _
  cases h
  exact decode_of_cell ((cell_encR ..).trans rfl) (BitVec.and_zero)
theorem mwait (p : BitVec 3) (d : BitVec 7) (a : BitVec 7) : Statement (.mwait p d a) := by
  intro w h _
  cases h
  exact decode_of_cell ((cell_encR ..).trans rfl) (BitVec.and_zero)
theorem ldfK (p : BitVec 3) (d : BitVec 7) (a : BitVec 7) : Statement (.ldfK p d a) := by
  intro w h _
  cases h
  exact decode_of_cell ((cell_encR ..).trans rfl) (BitVec.and_zero)
theorem ldfE (p : BitVec 3) (d : BitVec 7) (a : BitVec 7) : Statement (.ldfE p d a) := by
  intro w h _
  cases h
  exact decode_of_cell ((cell_encR ..).trans rfl) (BitVec.and_zero)
theorem ste (p : BitVec 3) (d : BitVec 7) (a : BitVec 7) : Statement (.ste p d a) := by
  intro w h _
  cases h
  exact decode_of_cell ((cell_encR ..).trans rfl) (BitVec.and_zero)
theorem stf (p : BitVec 3) (d : BitVec 7) (a : BitVec 7) : Statement (.stf p d a) := by
  intro w h _
  cases h
  exact decode_of_cell ((cell_encR ..).trans rfl) (BitVec.and_zero)
theorem lde (p : BitVec 3) (d : BitVec 7) (a : BitVec 7) : Statement (.lde p d a) := by
  intro w h _
  cases h
  exact decode_of_cell ((cell_encR ..).trans rfl) (BitVec.and_zero)
theorem sleepT (p : BitVec 3) (a : BitVec 7) : Statement (.sleepT p a) := by
  intro w h _
  cases h
  exact decode_of_cell ((cell_encR ..).trans rfl) (mask_d ..)
theorem ldAcqB32 (p : BitVec 3) (d : BitVec 7) (a : BitVec 7) (s : BitVec 3) : Statement (.ldAcqB32 p d a s) := by
  intro w h hw
  cases h
  have hs : s ≠ 7#3 := by
    intro e; subst e; revert hw; simp [Instr.wf, Machine.valueCause, Machine.selectorOk]
  rcases scope_cases s hs with rfl | rfl | rfl | rfl | rfl | rfl | rfl
  all_goals exact decode_of_cell ((cell_encR ..).trans rfl) (BitVec.and_zero)
theorem ldAcqB64 (p : BitVec 3) (d : BitVec 7) (a : BitVec 7) (s : BitVec 3) : Statement (.ldAcqB64 p d a s) := by
  intro w h hw
  cases h
  have hs : s ≠ 7#3 := by
    intro e; subst e; revert hw; simp [Instr.wf, Machine.valueCause, Machine.selectorOk]
  rcases scope_cases s hs with rfl | rfl | rfl | rfl | rfl | rfl | rfl
  all_goals exact decode_of_cell ((cell_encR ..).trans rfl) (BitVec.and_zero)
theorem stRelB32 (p : BitVec 3) (d : BitVec 7) (a : BitVec 7) (s : BitVec 3) : Statement (.stRelB32 p d a s) := by
  intro w h hw
  cases h
  have hs : s ≠ 7#3 := by
    intro e; subst e; revert hw; simp [Instr.wf, Machine.valueCause, Machine.selectorOk]
  rcases scope_cases s hs with rfl | rfl | rfl | rfl | rfl | rfl | rfl
  all_goals exact decode_of_cell ((cell_encR ..).trans rfl) (BitVec.and_zero)
theorem stRelB64 (p : BitVec 3) (d : BitVec 7) (a : BitVec 7) (s : BitVec 3) : Statement (.stRelB64 p d a s) := by
  intro w h hw
  cases h
  have hs : s ≠ 7#3 := by
    intro e; subst e; revert hw; simp [Instr.wf, Machine.valueCause, Machine.selectorOk]
  rcases scope_cases s hs with rfl | rfl | rfl | rfl | rfl | rfl | rfl
  all_goals exact decode_of_cell ((cell_encR ..).trans rfl) (BitVec.and_zero)
theorem fenceAcq (p : BitVec 3) (s : BitVec 3) : Statement (.fenceAcq p s) := by
  intro w h hw
  cases h
  have hs : s ≠ 7#3 := by
    intro e; subst e; revert hw; simp [Instr.wf, Machine.valueCause, Machine.selectorOk]
  rcases scope_cases s hs with rfl | rfl | rfl | rfl | rfl | rfl | rfl
  all_goals exact decode_of_cell ((cell_encR ..).trans rfl) (mask_da ..)
theorem fenceRel (p : BitVec 3) (s : BitVec 3) : Statement (.fenceRel p s) := by
  intro w h hw
  cases h
  have hs : s ≠ 7#3 := by
    intro e; subst e; revert hw; simp [Instr.wf, Machine.valueCause, Machine.selectorOk]
  rcases scope_cases s hs with rfl | rfl | rfl | rfl | rfl | rfl | rfl
  all_goals exact decode_of_cell ((cell_encR ..).trans rfl) (mask_da ..)
theorem fenceAcqrel (p : BitVec 3) (s : BitVec 3) : Statement (.fenceAcqrel p s) := by
  intro w h hw
  cases h
  have hs : s ≠ 7#3 := by
    intro e; subst e; revert hw; simp [Instr.wf, Machine.valueCause, Machine.selectorOk]
  rcases scope_cases s hs with rfl | rfl | rfl | rfl | rfl | rfl | rfl
  all_goals exact decode_of_cell ((cell_encR ..).trans rfl) (mask_da ..)
theorem fenceSc (p : BitVec 3) (s : BitVec 3) : Statement (.fenceSc p s) := by
  intro w h hw
  cases h
  have hs : s ≠ 7#3 := by
    intro e; subst e; revert hw; simp [Instr.wf, Machine.valueCause, Machine.selectorOk]
  rcases scope_cases s hs with rfl | rfl | rfl | rfl | rfl | rfl | rfl
  all_goals exact decode_of_cell ((cell_encR ..).trans rfl) (mask_da ..)
theorem cpy (p : BitVec 3) (d : BitVec 7) (a : BitVec 7) : Statement (.cpy p d a) := by
  intro w h _
  cases h
  exact decode_of_cell ((cell_encR ..).trans rfl) (BitVec.and_zero)
theorem gath (p : BitVec 3) (d : BitVec 7) (a : BitVec 7) : Statement (.gath p d a) := by
  intro w h _
  cases h
  exact decode_of_cell ((cell_encR ..).trans rfl) (BitVec.and_zero)
theorem scat (p : BitVec 3) (d : BitVec 7) (a : BitVec 7) : Statement (.scat p d a) := by
  intro w h _
  cases h
  exact decode_of_cell ((cell_encR ..).trans rfl) (BitVec.and_zero)
theorem coll (p : BitVec 3) (d : BitVec 7) (a : BitVec 7) : Statement (.coll p d a) := by
  intro w h _
  cases h
  exact decode_of_cell ((cell_encR ..).trans rfl) (BitVec.and_zero)
theorem tbind (p : BitVec 3) (d : BitVec 7) (a : BitVec 7) : Statement (.tbind p d a) := by
  intro w h _
  cases h
  exact decode_of_cell ((cell_encR ..).trans rfl) (BitVec.and_zero)
theorem tunbind (p : BitVec 3) (d : BitVec 7) (a : BitVec 7) : Statement (.tunbind p d a) := by
  intro w h _
  cases h
  exact decode_of_cell ((cell_encR ..).trans rfl) (BitVec.and_zero)
theorem evpop (p : BitVec 3) (d : BitVec 7) (a : BitVec 7) : Statement (.evpop p d a) := by
  intro w h _
  cases h
  exact decode_of_cell ((cell_encR ..).trans rfl) (BitVec.and_zero)
theorem evpush (p : BitVec 3) (d : BitVec 7) (a : BitVec 7) : Statement (.evpush p d a) := by
  intro w h _
  cases h
  exact decode_of_cell ((cell_encR ..).trans rfl) (BitVec.and_zero)
theorem taskrel (p : BitVec 3) (d : BitVec 7) (a : BitVec 7) : Statement (.taskrel p d a) := by
  intro w h _
  cases h
  exact decode_of_cell ((cell_encR ..).trans rfl) (BitVec.and_zero)
theorem launch (p : BitVec 3) (d : BitVec 7) (a : BitVec 7) : Statement (.launch p d a) := by
  intro w h _
  cases h
  exact decode_of_cell ((cell_encR ..).trans rfl) (BitVec.and_zero)
theorem launchp (p : BitVec 3) (d : BitVec 7) (a : BitVec 7) : Statement (.launchp p d a) := by
  intro w h _
  cases h
  exact decode_of_cell ((cell_encR ..).trans rfl) (BitVec.and_zero)
theorem cancel (p : BitVec 3) (d : BitVec 7) (a : BitVec 7) : Statement (.cancel p d a) := by
  intro w h _
  cases h
  exact decode_of_cell ((cell_encR ..).trans rfl) (BitVec.and_zero)
theorem gridq (p : BitVec 3) (d : BitVec 7) (a : BitVec 7) : Statement (.gridq p d a) := by
  intro w h _
  cases h
  exact decode_of_cell ((cell_encR ..).trans rfl) (BitVec.and_zero)
theorem csrr (p : BitVec 3) (d : BitVec 7) (a : BitVec 7) : Statement (.csrr p d a) := by
  intro w h _
  cases h
  exact decode_of_cell ((cell_encR ..).trans rfl) (BitVec.and_zero)
theorem csrw (p : BitVec 3) (d : BitVec 7) (a : BitVec 7) : Statement (.csrw p d a) := by
  intro w h _
  cases h
  exact decode_of_cell ((cell_encR ..).trans rfl) (BitVec.and_zero)
theorem setid (p : BitVec 3) (d : BitVec 7) (a : BitVec 7) : Statement (.setid p d a) := by
  intro w h _
  cases h
  exact decode_of_cell ((cell_encR ..).trans rfl) (BitVec.and_zero)
theorem tlbinv (p : BitVec 3) (d : BitVec 7) (a : BitVec 7) : Statement (.tlbinv p d a) := by
  intro w h _
  cases h
  exact decode_of_cell ((cell_encR ..).trans rfl) (BitVec.and_zero)
theorem clrinv (p : BitVec 3) (d : BitVec 7) (a : BitVec 7) : Statement (.clrinv p d a) := by
  intro w h _
  cases h
  exact decode_of_cell ((cell_encR ..).trans rfl) (BitVec.and_zero)
theorem bankrole (p : BitVec 3) (d : BitVec 7) (a : BitVec 7) : Statement (.bankrole p d a) := by
  intro w h _
  cases h
  exact decode_of_cell ((cell_encR ..).trans rfl) (BitVec.and_zero)
theorem trap (p : BitVec 3) (a : BitVec 7) : Statement (.trap p a) := by
  intro w h _
  cases h
  exact decode_of_cell ((cell_encR ..).trans rfl) (mask_d ..)
theorem eret (p : BitVec 3) (d : BitVec 7) (a : BitVec 7) : Statement (.eret p d a) := by
  intro w h _
  cases h
  exact decode_of_cell ((cell_encR ..).trans rfl) (BitVec.and_zero)
theorem savectx (p : BitVec 3) (d : BitVec 7) (a : BitVec 7) : Statement (.savectx p d a) := by
  intro w h _
  cases h
  exact decode_of_cell ((cell_encR ..).trans rfl) (BitVec.and_zero)
theorem restctx (p : BitVec 3) (d : BitVec 7) (a : BitVec 7) : Statement (.restctx p d a) := by
  intro w h _
  cases h
  exact decode_of_cell ((cell_encR ..).trans rfl) (BitVec.and_zero)
theorem halt (p : BitVec 3) (a : BitVec 7) : Statement (.halt p a) := by
  intro w h _
  cases h
  exact decode_of_cell ((cell_encR ..).trans rfl) (mask_d ..)
theorem rdclk (p : BitVec 3) (d : BitVec 7) (a : BitVec 7) : Statement (.rdclk p d a) := by
  intro w h _
  cases h
  exact decode_of_cell ((cell_encR ..).trans rfl) (BitVec.and_zero)
theorem rand (p : BitVec 3) (d : BitVec 7) : Statement (.rand p d) := by
  intro w h _
  cases h
  exact decode_of_cell ((cell_encR ..).trans rfl) (mask_a ..)
theorem ckpt (p : BitVec 3) (d : BitVec 7) (a : BitVec 7) : Statement (.ckpt p d a) := by
  intro w h _
  cases h
  exact decode_of_cell ((cell_encR ..).trans rfl) (BitVec.and_zero)
theorem sigchk (p : BitVec 3) (d : BitVec 7) (a : BitVec 7) : Statement (.sigchk p d a) := by
  intro w h _
  cases h
  exact decode_of_cell ((cell_encR ..).trans rfl) (BitVec.and_zero)
theorem replq (p : BitVec 3) (d : BitVec 7) (a : BitVec 7) : Statement (.replq p d a) := by
  intro w h _
  cases h
  exact decode_of_cell ((cell_encR ..).trans rfl) (BitVec.and_zero)
theorem tmlnWrite : Statement (.tmlnWrite) := by
  intro w h _
  cases h
theorem identWrite : Statement (.identWrite) := by
  intro w h _
  cases h
theorem nfmtWrite : Statement (.nfmtWrite) := by
  intro w h _
  cases h
theorem clauseIssue : Statement (.clauseIssue) := by
  intro w h _
  cases h
theorem heldFaultRecordWrite : Statement (.heldFaultRecordWrite) := by
  intro w h _
  cases h
theorem runAheadEnd : Statement (.runAheadEnd) := by
  intro w h _
  cases h
theorem loadReturn : Statement (.loadReturn) := by
  intro w h _
  cases h
theorem longLatencyCompletion : Statement (.longLatencyCompletion) := by
  intro w h _
  cases h
theorem deferredMemberRetest : Statement (.deferredMemberRetest) := by
  intro w h _
  cases h
theorem rotationPoint : Statement (.rotationPoint) := by
  intro w h _
  cases h
theorem sleepExpiry : Statement (.sleepExpiry) := by
  intro w h _
  cases h
theorem stall : Statement (.stall) := by
  intro w h _
  cases h
theorem stopWindowExpiry : Statement (.stopWindowExpiry) := by
  intro w h _
  cases h
theorem warpStopped : Statement (.warpStopped) := by
  intro w h _
  cases h
theorem vacateReservedCore : Statement (.vacateReservedCore) := by
  intro w h _
  cases h
theorem workgroupPlacement : Statement (.workgroupPlacement) := by
  intro w h _
  cases h
theorem logicalCorePlacement : Statement (.logicalCorePlacement) := by
  intro w h _
  cases h
theorem landingDeal : Statement (.landingDeal) := by
  intro w h _
  cases h
theorem cancelLanding : Statement (.cancelLanding) := by
  intro w h _
  cases h
theorem gridCompletion : Statement (.gridCompletion) := by
  intro w h _
  cases h
theorem queueTailWake : Statement (.queueTailWake) := by
  intro w h _
  cases h
theorem cpySectorDelivery : Statement (.cpySectorDelivery) := by
  intro w h _
  cases h
theorem gathElement : Statement (.gathElement) := by
  intro w h _
  cases h
theorem scatElement : Statement (.scatElement) := by
  intro w h _
  cases h
theorem collInstanceStart : Statement (.collInstanceStart) := by
  intro w h _
  cases h
theorem collElementWrite : Statement (.collElementWrite) := by
  intro w h _
  cases h
theorem gazetteerBindComplete : Statement (.gazetteerBindComplete) := by
  intro w h _
  cases h
theorem gazetteerUnbindComplete : Statement (.gazetteerUnbindComplete) := by
  intro w h _
  cases h
theorem engineOperationComplete : Statement (.engineOperationComplete) := by
  intro w h _
  cases h
theorem writeBackMerge : Statement (.writeBackMerge) := by
  intro w h _
  cases h
theorem atomicPerform : Statement (.atomicPerform) := by
  intro w h _
  cases h
theorem postedOperationReplay : Statement (.postedOperationReplay) := by
  intro w h _
  cases h
theorem mcasLockGrant : Statement (.mcasLockGrant) := by
  intro w h _
  cases h
theorem lockBusy : Statement (.lockBusy) := by
  intro w h _
  cases h
theorem mmaKgroup : Statement (.mmaKgroup) := by
  intro w h _
  cases h
theorem acfreeRelease : Statement (.acfreeRelease) := by
  intro w h _
  cases h
theorem bankRoleChange : Statement (.bankRoleChange) := by
  intro w h _
  cases h
theorem writeLogApply : Statement (.writeLogApply) := by
  intro w h _
  cases h
theorem replicaComparison : Statement (.replicaComparison) := by
  intro w h _
  cases h
theorem holdAgeExpiry : Statement (.holdAgeExpiry) := by
  intro w h _
  cases h
theorem replicaUncorrectableError : Statement (.replicaUncorrectableError) := by
  intro w h _
  cases h
theorem cutIntervalExpiry : Statement (.cutIntervalExpiry) := by
  intro w h _
  cases h
theorem cutInstant : Statement (.cutInstant) := by
  intro w h _
  cases h
theorem cutRecordWrite : Statement (.cutRecordWrite) := by
  intro w h _
  cases h
theorem cutDurable : Statement (.cutDurable) := by
  intro w h _
  cases h
theorem streamUnitWrite : Statement (.streamUnitWrite) := by
  intro w h _
  cases h
theorem protectedUnitWrite : Statement (.protectedUnitWrite) := by
  intro w h _
  cases h
theorem savecostUpdate : Statement (.savecostUpdate) := by
  intro w h _
  cases h
theorem scrubRow : Statement (.scrubRow) := by
  intro w h _
  cases h
theorem hotRowAgeOut : Statement (.hotRowAgeOut) := by
  intro w h _
  cases h
theorem scoreHalving : Statement (.scoreHalving) := by
  intro w h _
  cases h
theorem correctedError : Statement (.correctedError) := by
  intro w h _
  cases h
theorem uncorrectableError : Statement (.uncorrectableError) := by
  intro w h _
  cases h
theorem remapTableError : Statement (.remapTableError) := by
  intro w h _
  cases h
theorem flitReceive : Statement (.flitReceive) := by
  intro w h _
  cases h
theorem portRetrainEnd : Statement (.portRetrainEnd) := by
  intro w h _
  cases h
theorem rdmaSendWake : Statement (.rdmaSendWake) := by
  intro w h _
  cases h
theorem rdmaInboundWrite : Statement (.rdmaInboundWrite) := by
  intro w h _
  cases h
theorem rdmaCompletion : Statement (.rdmaCompletion) := by
  intro w h _
  cases h
theorem hostBar2Write : Statement (.hostBar2Write) := by
  intro w h _
  cases h
theorem hostCxlMemAccess : Statement (.hostCxlMemAccess) := by
  intro w h _
  cases h
theorem mailboxAreaWrite : Statement (.mailboxAreaWrite) := by
  intro w h _
  cases h
theorem createContext : Statement (.createContext) := by
  intro w h _
  cases h
theorem destroyContext : Statement (.destroyContext) := by
  intro w h _
  cases h
theorem registerQueue : Statement (.registerQueue) := by
  intro w h _
  cases h
theorem removeQueue : Statement (.removeQueue) := by
  intro w h _
  cases h
theorem setReservedCores : Statement (.setReservedCores) := by
  intro w h _
  cases h
theorem loadKeySlot : Statement (.loadKeySlot) := by
  intro w h _
  cases h
theorem clearKeySlot : Statement (.clearKeySlot) := by
  intro w h _
  cases h
theorem registerCheckpoint : Statement (.registerCheckpoint) := by
  intro w h _
  cases h
theorem removeCheckpoint : Statement (.removeCheckpoint) := by
  intro w h _
  cases h
theorem requestCut : Statement (.requestCut) := by
  intro w h _
  cases h
theorem allotCores : Statement (.allotCores) := by
  intro w h _
  cases h
theorem withdrawCores : Statement (.withdrawCores) := by
  intro w h _
  cases h
theorem powerRun : Statement (.powerRun) := by
  intro w h _
  cases h
theorem powerCapped : Statement (.powerCapped) := by
  intro w h _
  cases h
theorem powerIdle : Statement (.powerIdle) := by
  intro w h _
  cases h
theorem enterFullService : Statement (.enterFullService) := by
  intro w h _
  cases h
theorem readErrorLog : Statement (.readErrorLog) := by
  intro w h _
  cases h
theorem readJournal : Statement (.readJournal) := by
  intro w h _
  cases h
theorem thermalTrip : Statement (.thermalTrip) := by
  intro w h _
  cases h
theorem powerRemoval : Statement (.powerRemoval) := by
  intro w h _
  cases h
theorem deviceReset : Statement (.deviceReset) := by
  intro w h _
  cases h
theorem codeObjectLoad : Statement (.codeObjectLoad) := by
  intro w h _
  cases h
theorem writePerformedAtScope : Statement (.writePerformedAtScope) := by
  intro w h _
  cases h
theorem linkDown : Statement (.linkDown) := by
  intro w h _
  cases h
theorem unknownOpcode : Statement (.unknownOpcode) := by
  intro w h _
  cases h

end Sys2Proof.Laws.RoundTrip
end

