-- ==== Sys2Proof/Laws/Register.lean ====
section
/-! SUPPORT. What the combinators of register instructions answer: the completion of a register instruction with its whole effect. -/

namespace Sys2Proof.Machine

/-! ### Writes at home leave the tables alone -/

theorem warps_foldl {β : Type} (l : List β) (f : State → β → State) (s : State) (h : ∀ s x, (f s x).warps = s.warps) :
    (l.foldl f s).warps = s.warps := by
  induction l generalizing s with
  | nil => rfl
  | cons x t ih => simp only [List.foldl_cons]; rw [ih, h]

theorem warps_rekey (s : State) (a key n : Nat) : (rekey s a key n).warps = s.warps := by
  unfold rekey
  split
  · refine warps_foldl _ _ _ fun s x => ?_
    dsimp only
    split
    · split <;> rfl
    · rfl
  · rfl

theorem warps_markUnits (s : State) (a n : Nat) : (markUnits s a n).warps = s.warps := by
  unfold markUnits
  split <;> rfl

theorem warps_putHome (s : State) (a key : Nat) (data : List Byte) : (putHome s a key data).warps = s.warps := by
  unfold putHome
  rw [warps_markUnits]
  exact warps_rekey ..

theorem warps_appendAudit (s : State) (k va ident tag kind place : Nat) : (appendAudit s k va ident tag kind place).warps = s.warps := by
  unfold appendAudit
  dsimp only
  split
  · rfl
  · split
    · exact (warps_putHome ..).trans rfl
    · exact (warps_putHome ..).trans ((warps_putHome ..).trans rfl)

theorem warps_fillTlb (s : State) (part : Nat) (e : TlbEntry) : (fillTlb s part e).warps = s.warps := rfl
theorem warps_fillClr (s : State) (part ident tag : Nat) : (fillClr s part ident tag).warps = s.warps := by
  unfold fillClr
  split <;> rfl

theorem warps_constTrace (s : State) (m : Member) (off n : Nat) : (constTrace s m off n).warps = s.warps := by
  unfold constTrace
  dsimp only
  split
  · rfl
  · split
    · rfl
    · have h : ∀ e : TlbEntry, (fillClr (fillTlb s (lkPart (wgOfWarp s m.warp).lcore) e) (lkPart (wgOfWarp s m.warp).lcore)
          (warpOf s m.warp).ident.toNat e.tag).warps = s.warps := fun e => (warps_fillClr ..).trans (warps_fillTlb ..)
      split
      · exact h _
      · split
        · exact h _
        · exact (warps_appendAudit ..).trans (h _)
      · exact h _

/-- Reading constant slots writes no register of any warp (R39). -/
theorem warps_constTraces (s : State) (sh : Shape) (ms : List Member) : (constTraces s sh ms).warps = s.warps := by
  unfold constTraces
  refine warps_foldl _ _ _ fun s x => ?_
  split
  · exact warps_foldl _ _ _ fun s m => warps_foldl _ _ _ fun s k => warps_constTrace ..
  · rfl

/-! ### Reading the warps of two states with the same table -/

theorem warpOf_congr {s u : State} (h : u.warps = s.warps) (w : Nat) : warpOf u w = warpOf s w := by unfold warpOf; rw [h]
theorem thrOf_congr {s u : State} (h : u.warps = s.warps) (m : Member) : thrOf u m = thrOf s m := by unfold thrOf; rw [warpOf_congr h]
theorem vreg_congr {s u : State} (h : u.warps = s.warps) (w l r : Nat) : vreg u w l r = vreg s w l r := by unfold vreg; rw [warpOf_congr h]
theorem ureg_congr {s u : State} (h : u.warps = s.warps) (w n : Nat) : ureg u w n = ureg s w n := by unfold ureg; rw [warpOf_congr h]
theorem present_congr {s u : State} (h : u.warps = s.warps) (w l : Nat) : present u w l = present s w l := by
  unfold present; rw [warpOf_congr h]

/-! ### The marks of redundancy -/

theorem sameFrame_clearRun (ms : List Member) (ws : List Nat) (s : State) :
    SameFrame s (ws.foldl (fun s w => updWarp s w (clearRun ms w)) s) ∧
      (∀ w l r, vreg (ws.foldl (fun s w => updWarp s w (clearRun ms w)) s) w l r = vreg s w l r) ∧
      (∀ w n, ureg (ws.foldl (fun s w => updWarp s w (clearRun ms w)) s) w n = ureg s w n) ∧
      ∀ m, thrOf (ws.foldl (fun s w => updWarp s w (clearRun ms w)) s) m = thrOf s m := by
  refine ⟨SameFrame.foldl _ _ _ fun s w => sameFrame_updWarp s w _ fun _ => rfl, ?_, ?_, ?_⟩
  · intro w l r
    refine foldl_inv (fun u => vreg u w l r = _) _ _ _ (fun s v h => ?_) rfl
    rw [← h]; unfold vreg; rw [warpOf_updWarp]; split <;> rfl
  · intro w n
    refine foldl_inv (fun u => ureg u w n = _) _ _ _ (fun s v h => ?_) rfl
    rw [← h]; unfold ureg; rw [warpOf_updWarp]; split <;> rfl
  · intro m
    refine foldl_inv (fun u => thrOf u m = _) _ _ _ (fun s v h => ?_) rfl
    rw [← h]; exact thrOf_updWarp_of_lanes s v _ m fun _ => rfl

theorem redunMark_own (s : State) (k : RKind) (run : List Member) :
    redunMark s k [] run =
      (warpsIn run).foldl (fun s w => updWarp s w (clearRun run w)) s := rfl

/-- An instruction of its own state alone never waits for its replicas (R369). -/
theorem redunWait_own (s : State) (act : List Member) (m : Member) : redunWait s .own act m = none := by
  unfold redunWait
  split
  · rfl
  · have : comparesAt s .own m = false := by simp [comparesAt, holdFull]
    rw [this]
    simp [awaitsValue]

/-! ### Deferring no member -/

theorem tblUpd_id {α : Type} (t : Tbl α) (i : Nat) (f : α → α) (h : ∀ a, f a = a) : tblUpd t i f = t := by
  induction t with
  | nil => rfl
  | cons e t ih =>
    obtain ⟨k, v⟩ := e
    simp only [tblUpd, h, ih]
    split <;> rfl

theorem deferMembers_nil (s : State) (g : Group) : deferMembers s g [] = s := by
  unfold deferMembers dropMembers updGroup
  rw [tblUpd_id]
  · rfl
  · intro a
    have : (a.mem.filter fun m => !([] : List (Member × Wait)).any fun e => e.1 == m) = a.mem := List.filter_eq_self.2 (by simp)
    rw [this]

/-! ### Members and their sources -/

theorem actors_lane (s : State) (g : Group) (i : Instr) (m : Member) (h : m ∈ actors s g i) : m.lane < 64 := by
  unfold actors active at h
  have := (List.mem_filter.1 h).2
  simp only [Bool.and_eq_true, decide_eq_true_eq] at this
  exact this.1

theorem splitWaits_own (s : State) (g : Group) (i : Instr) :
    splitWaits s g (shapeOf i) .own (noWait s) = ((actors s g i).map fun m => (m, sources s g i m), []) := by
  unfold splitWaits
  simp only [redunWait_own, noWait, Option.isNone_none, Bool.and_self, Prod.mk.injEq]
  exact ⟨List.filter_eq_self.2 (by simp), by simp⟩

theorem failsOf_nil (s : State) (g : Group) (i : Instr) (fail : Member → Src → Option Fail) (hop : OperandsPass s g i)
    (hf : ∀ m ∈ actors s g i, (thrOf s m).helper = false → fail m (sources s g i m) = none) :
    failsOf s (shapeOf i) ((actors s g i).map fun m => (m, sources s g i m)) fail = [] := by
  unfold failsOf
  rw [List.filterMap_eq_nil_iff]
  intro e he
  obtain ⟨m, hm, rfl⟩ := List.mem_map.1 he
  cases hh : (thrOf s m).helper
  · simp only [Bool.false_eq_true, if_false, hop m hm hh, hf m hm hh, Option.map_none]
  · simp

/-- An instruction of its own state alone whose checks pass: its effect is made in the state with its constant reads noted. -/
theorem groupOp_own (i : Instr) (fail : State → Member → Src → Option Fail)
    (run : State → Group → List (Member × Src) → State × List Trap) (s : State) (g : Group) (hg : curGroup? s = some g)
    (hop : OperandsPass s g i)
    (hf : ∀ m ∈ actors s g i, (thrOf s m).helper = false → fail s m (sources s g i m) = none)
    (s0 : State) (hs0 : s0 = redunMark (constTraces s (shapeOf i) (actors s g i)) .own [] (actors s g i))
    (hts : (run s0 g ((actors s g i).map fun m => (m, sources s g i m))).2 = []) :
    groupOp i .own noWait fail run s =
      .next (retire (run s0 g ((actors s g i).map fun m => (m, sources s g i m))).1) := by
  have hcmp : ((active s g (shapeOf i).p).filter fun m => comparesAt s .own m) = [] := by
    rw [List.filter_eq_nil_iff]
    intro m _
    simp [comparesAt, holdFull]
  have hmap : ((actors s g i).map fun m => (m, sources s g i m)).map (·.1) = actors s g i := by
    simp [Function.comp_def]
  unfold groupOp groupOpE
  rw [hg]
  simp only [splitWaits_own, failsOf_nil s g i (fail s) hop hf, hcmp, List.map_nil, foldEntries, List.foldl_nil, hmap, deferMembers_nil]
  rw [← hs0, hts]
  simp

/-! ### Register instructions -/

theorem fpTraps_nil (s : State) (ms : List Member) (R : Member → Res)
    (h : ∀ m ∈ ms, (thrOf s m).helper = false → trapFlags (warpOf s m.warp) (R m).fp = 0) :
    fpTraps s ((ms.map fun m => (m, R m)).map fun e => (e.1, e.2.fp)) = [] := by
  unfold fpTraps
  rw [List.filterMap_eq_nil_iff]
  intro w _
  rw [Option.map_eq_none_iff, List.find?_eq_none]
  intro e he
  simp only [List.map_map, List.mem_map] at he
  obtain ⟨m, hm, rfl⟩ := he
  simp only [Function.comp, Bool.and_eq_true, beq_iff_eq, Bool.not_eq_eq_eq_not, Bool.not_true, decide_eq_true_eq, not_and, ne_eq,
    Decidable.not_not]
  rintro ⟨hw, hh⟩
  rw [← hw]
  exact h m hm hh

/-- The effect of results applied in the state with the constant reads noted. -/
theorem regEffect_applyRes (s : State) (g : Group) (i : Instr) (ms : List Member) (hms : ∀ m ∈ ms, m ∈ actors s g i)
    (R : Member → Res) :
    RegEffect s g i ms R
      (applyRes (redunMark (constTraces s (shapeOf i) (actors s g i)) .own [] (actors s g i)) (shapeOf i)
        (ms.map fun m => (m, R m))) := by
  have hc := warps_constTraces s (shapeOf i) (actors s g i)
  generalize hs1 : constTraces s (shapeOf i) (actors s g i) = s1
  rw [hs1] at hc
  rw [redunMark_own]
  obtain ⟨hm, hv, hu, ht⟩ := sameFrame_clearRun (actors s g i) (warpsIn (actors s g i)) s1
  generalize hs2 : (warpsIn (actors s g i)).foldl
    (fun v w => updWarp v w (clearRun (actors s g i) w)) s1 = s2
  rw [hs2] at hm hv hu ht
  have ha := sameFrame_applyRes s2 (shapeOf i) ms R
  have hin : ∀ w, warpIn s2 w ↔ warpIn s w := fun w => by
    rw [hm.warpIn w]; unfold warpIn; rw [hc]
  have hpr : ∀ w l, present s2 w l = present s w l := fun w l => (hm.present w l).trans (present_congr hc w l)
  have hthr : ∀ m, thrOf s2 m = thrOf s m := fun m => (ht m).trans (thrOf_congr hc m)
  have hlane : ∀ m ∈ ms, m.lane < 64 := fun m h => actors_lane s g i m (hms m h)
  have hlead : ∀ ms w, leadOf s2 ms w = leadOf s ms w := fun ms w => by
    unfold leadOf nonHelpers
    simp only [hthr]
  refine ⟨?_, ?_, ?_, ?_, ?_, ?_, ?_, ?_, ?_⟩
  · rintro ⟨l, w⟩ hma hp hd k hk
    show vreg _ w l _ = _
    rw [vreg_applyRes, vreg_writeD _ _ _ _ _ _ _ hlane (hlane _ hma)]
    simp only [hthr]
    have hd' : (shapeOf i).d.f.toNat < 96 := hd
    have hk' : k < writeWidth (shapeOf i).d.use := hk
    rw [if_pos ⟨hd', hma, (hin w).2 (warpIn_of_present _ _ _ hp), by unfold dstField; omega, by unfold dstField; omega⟩]
    congr 1
    unfold dstField
    omega
  · intro w m hl hp h1 h2 k hk
    have hm' := leadOf_mem s _ w m hl
    rw [ureg_applyRes, ureg_writeD, hlead, hl]
    simp only
    have hk' : k < writeWidth (shapeOf i).d.use := hk
    unfold dstField at h1 h2 ⊢
    rw [if_pos ⟨h1, h2, (hin w).2 (warpIn_of_present _ _ _ hp), by omega, by omega⟩]
    congr 1
    omega
  · intro m hma hp
    rw [(thrOf_applyRes s2 (shapeOf i) ms R m).1, hthr, hpr, if_pos ⟨hma, hp⟩]
    rfl
  · intro m hma hp
    rw [(thrOf_applyRes s2 (shapeOf i) ms R m).2, hthr, hpr]
    cases hh : (thrOf s m).helper
    · rw [if_pos ⟨hma, hp, rfl⟩]; simp
    · rw [if_neg (fun h => Bool.noConfusion h.2.2)]; simp
  · intro w l r hl hn
    rw [vreg_applyRes, vreg_writeD _ _ _ _ _ _ _ hlane hl, if_neg, hv, vreg_congr hc]
    rintro ⟨h1, h2, -, h3, h4⟩
    rw [hthr] at h3 h4
    exact hn ⟨⟨l, w⟩, h2, rfl, rfl, h1, h3, h4⟩
  · intro w n hn
    rw [ureg_applyRes, ureg_writeD, hlead]
    cases hl : leadOf s ms w with
    | none => simp only; rw [hu, ureg_congr hc]
    | some m =>
      simp only
      rw [if_neg, hu, ureg_congr hc]
      rintro ⟨h1, h2, -, h3, h4⟩
      exact hn ⟨by rw [hl]; rfl, h1, h2, h3, h4⟩
  · intro m hma
    obtain ⟨h1, h2⟩ := thrOf_applyRes s2 (shapeOf i) ms R m
    rw [if_neg (fun h => hma h.1)] at h1 h2
    rw [← hthr m]
    exact thread_ext _ _ (ha.thread m) h1 h2
  · exact ha.frame.trans (hm.frame.trans (by rw [hc]))
  · rw [ha.rest, hm.rest, ← hc, hs1]

theorem fpTraps_noted (s : State) (g : Group) (i : Instr) (ms : List Member) (R : Member → Res)
    (h : ∀ m ∈ ms, (thrOf s m).helper = false → trapFlags (warpOf s m.warp) (R m).fp = 0) :
    fpTraps (noted s g i) ((ms.map fun m => (m, R m)).map fun e => (e.1, e.2.fp)) = [] := by
  apply fpTraps_nil
  intro m hm hh
  have hc := warps_constTraces s (shapeOf i) (actors s g i)
  unfold noted at hh ⊢
  rw [redunMark_own] at hh ⊢
  obtain ⟨h1, -, -, h4⟩ := sameFrame_clearRun (actors s g i) (warpsIn (actors s g i)) (constTraces s (shapeOf i) (actors s g i))
  rw [h4, thrOf_congr hc] at hh
  have := h m hm hh
  unfold trapFlags at this ⊢
  rw [h1.fpctl, warpOf_congr hc]
  exact this

theorem thrOf_noted (s : State) (g : Group) (i : Instr) (m : Member) : thrOf (noted s g i) m = thrOf s m := by
  unfold noted
  rw [redunMark_own, (sameFrame_clearRun _ _ _).2.2.2, thrOf_congr (warps_constTraces ..)]

/-- Where every actor passes an instruction's own check, every actor performs it. -/
theorem performers_all (s : State) (g : Group) (i : Instr) (fail : State → Member → Src → Option Fail)
    (hf : ∀ m ∈ actors s g i, fail s m (sources s g i m) = none) :
    performers s fail ((actors s g i).map fun m => (m, sources s g i m)) = (actors s g i).map fun m => (m, sources s g i m) := by
  unfold performers
  rw [List.filter_eq_self]
  intro e he
  obtain ⟨m, hm, rfl⟩ := List.mem_map.1 he
  simp [hf m hm]

/-- A register instruction completes with its effect whenever its operands pass and no flag that it raises is trapped on. -/
theorem regOp_spec (i : Instr) (f : Src → Res) (s : State) (g : Group) (hg : curGroup? s = some g) (hop : OperandsPass s g i)
    (hfp : NoFpTrap s g i fun m => f (sources s g i m)) :
    ∃ u, regOp i f s = .next (retire u) ∧ RegEffect s g i (actors s g i) (fun m => f (sources s g i m)) u := by
  refine ⟨_, ?_, regEffect_applyRes s g i (actors s g i) (fun _ h => h) fun m => f (sources s g i m)⟩
  unfold regOp
  have hmap : ((actors s g i).map fun m => (m, sources s g i m)).map (fun e => (e.1, f e.2)) =
      (actors s g i).map fun m => (m, f (sources s g i m)) := by simp [Function.comp_def]
  rw [groupOp_own i noFail _ s g hg hop (fun _ _ _ => rfl) (noted s g i) rfl]
  · simp only [hmap]; rfl
  · simp only [hmap]
    exact fpTraps_noted s g i (actors s g i) (fun m => f (sources s g i m)) hfp

theorem regOpF_spec (i : Instr) (fail : State → Member → Src → Option Fail) (f : Src → Res) (s : State) (g : Group)
    (hg : curGroup? s = some g) (hop : OperandsPass s g i)
    (hf : ∀ m ∈ actors s g i, fail s m (sources s g i m) = none)
    (hfp : NoFpTrap s g i fun m => f (sources s g i m)) :
    ∃ u, regOpF i fail f s = .next (retire u) ∧ RegEffect s g i (actors s g i) (fun m => f (sources s g i m)) u := by
  refine ⟨_, ?_, regEffect_applyRes s g i (actors s g i) (fun _ h => h) fun m => f (sources s g i m)⟩
  unfold regOpF
  have hmap : (performers s fail ((actors s g i).map fun m => (m, sources s g i m))).map (fun e => (e.1, f e.2)) =
      (actors s g i).map fun m => (m, f (sources s g i m)) := by rw [performers_all s g i fail hf]; simp [Function.comp_def]
  rw [groupOp_own i fail _ s g hg hop (fun m hm _ => hf m hm) (noted s g i) rfl]
  · simp only [hmap]; rfl
  · simp only [hmap]
    exact fpTraps_noted s g i (actors s g i) (fun m => f (sources s g i m)) hfp

theorem regOpG_spec (i : Instr) (fail : State → Member → Src → Option Fail) (f : State → Member → Src → Res) (h : Member → Res)
    (s : State) (g : Group) (hg : curGroup? s = some g) (hop : OperandsPass s g i)
    (hf : ∀ m ∈ actors s g i, fail s m (sources s g i m) = none)
    (hh : ∀ m ∈ actors s g i, f (noted s g i) m (sources s g i m) = h m) (hfp : NoFpTrap s g i h) :
    ∃ u, regOpG i fail f s = .next (retire u) ∧ RegEffect s g i (actors s g i) h u := by
  refine ⟨_, ?_, regEffect_applyRes s g i (actors s g i) (fun _ h => h) h⟩
  unfold regOpG
  have hmap : (performers s fail ((actors s g i).map fun m => (m, sources s g i m))).map (fun e => (e.1, f (noted s g i) e.1 e.2)) =
      (actors s g i).map fun m => (m, h m) := by
    rw [performers_all s g i fail hf, List.map_map]
    exact List.map_congr_left fun m hm => by simp [hh m hm]
  rw [groupOp_own i fail _ s g hg hop (fun m hm _ => hf m hm) (noted s g i) rfl]
  · simp only [hmap]; rfl
  · simp only [hmap]
    exact fpTraps_noted s g i (actors s g i) h hfp

/-- A cross-lane instruction completes with its effect on the participants. -/
theorem warpOp_spec (i : Instr) (f : List (Nat × Src) → Nat → Src → Res) (s : State) (g : Group) (hg : curGroup? s = some g)
    (hop : OperandsPass s g i)
    (hfp : ∀ m ∈ participants s g i, trapFlags (warpOf s m.warp) (f (warpSources s g i m.warp) m.lane (sources s g i m)).fp = 0) :
    ∃ u, warpOp i f s = .next (retire u) ∧
      RegEffect s g i (participants s g i) (fun m => f (warpSources s g i m.warp) m.lane (sources s g i m)) u := by
  refine ⟨_, ?_, regEffect_applyRes s g i (participants s g i) (fun m hm => (List.mem_filter.1 hm).1) _⟩
  unfold warpOp
  have hps : (((actors s g i).map fun m => (m, sources s g i m)).filter fun e => !(thrOf (noted s g i) e.1).helper) =
      (participants s g i).map fun m => (m, sources s g i m) := by
    simp only [thrOf_noted, participants, nonHelpers, List.filter_map, Function.comp_def]
  have hmap : (((participants s g i).map fun m => (m, sources s g i m)).map fun e =>
        (e.1, f (((((participants s g i).map fun m => (m, sources s g i m)).filter fun x => x.1.warp == e.1.warp)).map
          fun x => (x.1.lane, x.2)) e.1.lane e.2)) =
      (participants s g i).map fun m => (m, f (warpSources s g i m.warp) m.lane (sources s g i m)) := by
    rw [List.map_map]
    refine List.map_congr_left fun m _ => ?_
    simp only [Function.comp, warpSources, List.filter_map, List.map_map, Function.comp_def]
  rw [groupOp_own i noFail _ s g hg hop (fun _ _ _ => rfl) (noted s g i) rfl]
  · simp only [hps, hmap]; rfl
  · simp only [hps, hmap]
    apply fpTraps_noted
    intro m hm _
    exact hfp m hm

/-! ### Other instructions of an unreplicated group -/

theorem redunWait_unreplicated (s : State) (k : RKind) (act : List Member) (m : Member) (h : isRedun s m.warp = false) : redunWait s k act m = none := by
  simp [redunWait, h]

theorem comparesAt_unreplicated (s : State) (k : RKind) (m : Member) (h : isRedun s m.warp = false) : comparesAt s k m = false := by
  simp [comparesAt, h]

/-- An instruction of an unreplicated group whose actors neither wait nor fail makes its effect in the state with its constant reads
noted, and the clause goes on. -/
theorem groupOpE_plain (i : Instr) (k : RKind) (en : Entries) (wait : State → Member → Src → Option Wait)
    (fail : State → Member → Src → Option Fail) (run : State → Group → List (Member × Src) → State × List Trap) (s : State) (g : Group)
    (hg : curGroup? s = some g) (hu : Unreplicated s g) (hop : OperandsPass s g i)
    (hw : ∀ m ∈ actors s g i, wait s m (sources s g i m) = none)
    (hf : ∀ m ∈ actors s g i, (thrOf s m).helper = false → fail s m (sources s g i m) = none)
    (hts : (run (noted s g i) g ((actors s g i).map fun m => (m, sources s g i m))).2 = []) :
    groupOpE i k en wait fail run s = .next (retire (run (noted s g i) g ((actors s g i).map fun m => (m, sources s g i m))).1) := by
  have hmem : ∀ m ∈ actors s g i, isRedun s m.warp = false := fun m hm => hu m (List.mem_filter.1 hm).1
  have hsw : splitWaits s g (shapeOf i) k (wait s) = ((actors s g i).map fun m => (m, sources s g i m), []) := by
    unfold splitWaits
    refine Prod.ext ?_ ?_
    · refine List.filter_eq_self.2 fun e he => ?_
      obtain ⟨m, hm, rfl⟩ := List.mem_map.1 he
      have h2 : wait s m (srcOf s g (shapeOf i) m) = none := hw m hm
      simp [redunWait_unreplicated s k _ m (hmem m hm), h2]
    · refine List.filterMap_eq_nil_iff.2 fun e he => ?_
      obtain ⟨m, hm, rfl⟩ := List.mem_map.1 he
      have h2 : wait s m (srcOf s g (shapeOf i) m) = none := hw m hm
      simp [redunWait_unreplicated s k _ m (hmem m hm), h2]
  have hcmp : ((active s g (shapeOf i).p).filter fun m => comparesAt s k m) = [] := by
    rw [List.filter_eq_nil_iff]
    intro m hm
    simp [comparesAt_unreplicated s k m (hmem m hm)]
  have hmap : ((actors s g i).map fun m => (m, sources s g i m)).map (·.1) = actors s g i := by
    simp [Function.comp_def]
  have hmark : redunMark (constTraces s (shapeOf i) (actors s g i)) k [] (actors s g i) = noted s g i := rfl
  unfold groupOpE
  rw [hg]
  simp only [hsw, failsOf_nil s g i (fail s) hop hf, hcmp, List.map_nil, foldEntries, List.foldl_nil, hmap, deferMembers_nil, hmark]
  rw [hts]
  simp

theorem groupOp_plain (i : Instr) (k : RKind) (wait : State → Member → Src → Option Wait)
    (fail : State → Member → Src → Option Fail) (run : State → Group → List (Member × Src) → State × List Trap) (s : State) (g : Group)
    (hg : curGroup? s = some g) (hu : Unreplicated s g) (hop : OperandsPass s g i)
    (hw : ∀ m ∈ actors s g i, wait s m (sources s g i m) = none)
    (hf : ∀ m ∈ actors s g i, (thrOf s m).helper = false → fail s m (sources s g i m) = none)
    (hts : (run (noted s g i) g ((actors s g i).map fun m => (m, sources s g i m))).2 = []) :
    groupOp i k wait fail run s = .next (retire (run (noted s g i) g ((actors s g i).map fun m => (m, sources s g i m))).1) :=
  groupOpE_plain i k noEntries wait fail run s g hg hu hop hw hf hts

/-- An instruction that executes once for its group: its deciding member neither waits nor fails. -/
theorem onceOp_plain (i : Instr) (k : RKind) (en : Entries) (wait : State → Member → Src → Option Wait)
    (fail : State → Member → Src → Option Fail) (run : State → Group → List Member → Member → Src → State × List Trap) (s : State)
    (g : Group) (m : Member) (hg : curGroup? s = some g) (hm : decider s (actors s g i) = some m) (hu : isRedun s m.warp = false)
    (hop : operandFail s (shapeOf i) m = none) (hd : destFails s (shapeOf i) (actors s g i) m = []) (hw : wait s m (sources s g i m) = none) (hf : fail s m (sources s g i m) = none)
    (hts : (run (notedOnce s g i m) g (actors s g i) m (sources s g i m)).2 = []) :
    onceOp i k en wait fail run s = .next (retire (run (notedOnce s g i m) g (actors s g i) m (sources s g i m)).1) := by
  have hh : (thrOf s m).helper = false := by
    unfold decider nonHelpers at hm
    have := List.mem_of_head? hm
    simpa using (List.mem_filter.1 this).2
  have hw' : wait s m (srcOf s g (shapeOf i) m) = none := hw
  have hf' : fail s m (srcOf s g (shapeOf i) m) = none := hf
  unfold onceOp
  rw [hg]
  have hm' : decider s (active s g (shapeOf i).p) = some m := hm
  simp only [hm', redunWait_unreplicated s k _ m hu, Option.orElse_none, hw']
  have hfs : failsOf s (shapeOf i) [(m, srcOf s g (shapeOf i) m)] (fail s) = [] := by
    simp [failsOf, hh, hop, hf']
  have hd' : destFails s (shapeOf i) (active s g (shapeOf i).p) m = [] := hd
  simp only [hfs, hd', List.append_nil]
  have hmark : redunMark (constTraces s (shapeOf i) [m]) k [] (active s g (shapeOf i).p) = notedOnce s g i m := rfl
  have hts' : (run (notedOnce s g i m) g (active s g (shapeOf i).p) m (srcOf s g (shapeOf i) m)).2 = [] := hts
  simp only [hmark, hts']
  rfl

end Sys2Proof.Machine
end

