-- ==== Sys2Proof/Tests/Slice0.lean ====
section
/-! SUPPORT. Tests: words of every cell of the opcode map, an ill-formed term for each check of a well-formed instruction, and for every
statement with hypotheses a state and operands that meet them. -/

namespace Sys2Proof.Tests
open Sys2Proof.Machine

theorem test_reset_mem : Memory.wf State.reset.mem = true := by decide

/-! ### Words -/

/-- The predicate, destination and sources of the words below. -/
abbrev P : BitVec 3 := 0b101
abbrev D : BitVec 7 := 0b1100010
abbrev A : BitVec 7 := 0b0110100
abbrev B : BitVec 7 := 0b1010110
/-- Words of R55 with the majors, MINs and sub-ops of R65 to R69: integer. -/
theorem test_words_integer :
    ([0b000000_101_1100010_0110100_1010110_00#32,
      0b000000_101_1100010_0110100_1010110_01#32,
      0b000000_101_1100010_0110100_1010110_10#32,
      0b000000_101_1100010_0110100_1010110_11#32,
      0b000001_101_1100010_0110100_1010110_00#32,
      0b000001_101_1100010_0110100_1010110_01#32,
      0b000001_101_1100010_0110100_1010110_10#32,
      0b000001_101_1100010_0110100_1010110_11#32,
      0b000010_101_1100010_0110100_1010110_00#32,
      0b000010_101_1100010_0110100_1010110_01#32,
      0b000010_101_1100010_0110100_1010110_10#32,
      0b000010_101_1100010_0110100_1010110_11#32,
      0b000011_101_1100010_0110100_1010110_00#32,
      0b000011_101_1100010_0110100_1010110_01#32,
      0b000011_101_1100010_0110100_1010110_10#32,
      0b000011_101_1100010_0110100_0000000_11#32,
      0b000100_101_1100010_0110100_1010110_00#32,
      0b000100_101_1100010_0110100_1010110_01#32,
      0b000100_101_1100010_0110100_1010110_10#32,
      0b000100_101_1100010_0110100_1010110_11#32,
      0b000101_101_1100010_0110100_1010110_00#32,
      0b000101_101_1100010_0110100_1010110_01#32,
      0b000101_101_1100010_0110100_1010110_10#32,
      0b000101_101_1100010_0110100_1010110_11#32,
      0b000110_101_1100010_0110100_0000000_00#32,
      0b000110_101_1100010_0110100_0000000_01#32,
      0b000110_101_1100010_0110100_0000000_10#32,
      0b000110_101_1100010_0110100_0000000_11#32,
      0b000111_101_1100010_0110100_0000000_00#32,
      0b000111_101_1100010_0110100_1010110_01#32,
      0b000111_101_1100010_0110100_1010110_10#32,
      0b000111_101_1100010_0110100_1010110_11#32,
      0b001000_101_1100010_0110100_1010110_00#32,
      0b001000_101_1100010_0110100_1010110_01#32,
      0b001000_101_1100010_0110100_1010110_10#32,
      0b001000_101_1100010_0110100_1010110_11#32,
      0b001001_101_1100010_0110100_1010110_00#32,
      0b001001_101_1100010_0110100_1010110_01#32,
      0b001001_101_1100010_0110100_1010110_10#32,
      0b001001_101_1100010_0110100_0000000_11#32,
      0b001010_101_1100010_0110100_0000000_00#32,
      0b001010_101_1100010_0110100_0000000_01#32,
      0b001010_101_1100010_0110100_0000001_01#32,
      0b001010_101_1100010_0110100_0000000_10#32,
      0b001010_101_1100010_0110100_1010110_11#32,
      0b001011_101_1100010_0110100_1010110_00#32,
      0b001011_101_1100010_0110100_1010110_01#32,
      0b001011_101_1100010_0110100_1010110_10#32,
      0b001011_101_1100010_0110100_1010110_11#32,
      0b001100_101_1100010_0000000_101100110#32,
      0b001101_101_1100010_0110100_101100110#32] : List Word).map decodeWord =
    ([.addI32 P D A B,
      .subI32 P D A B,
      .addc P D A B,
      .subb P D A B,
      .addI64 P D A B,
      .subI64 P D A B,
      .addcI64 P D A B,
      .subbI64 P D A B,
      .mullo P D A B,
      .mulhiUs P D A B,
      .mulhiSg P D A B,
      .mad P D A B,
      .andB P D A B,
      .orB P D A B,
      .xorB P D A B,
      .notB P D A,
      .shl P D A B,
      .shr P D A B,
      .sar P D A B,
      .rot P D A B,
      .minSg P D A B,
      .minUs P D A B,
      .maxSg P D A B,
      .maxUs P D A B,
      .abs P D A,
      .neg P D A,
      .clz P D A,
      .popc P D A,
      .brev P D A,
      .bfxUs P D A B,
      .bfxSg P D A B,
      .bfi P D A B,
      .sel P D A B,
      .cmpSg P D A B,
      .cmpUs P D A B,
      .cmpI64 P D A B,
      .pand P D A B,
      .por P D A B,
      .pxor P D A B,
      .pnot P D A,
      .mov P D A,
      .smovToUniform P D A,
      .smovFromUniform P D A,
      .movI64 P D A,
      .lea P D A B,
      .idx2 P D A B,
      .shlI64 P D A B,
      .shrI64 P D A B,
      .sarI64 P D A B,
      .movi P D 0b101100110#9,
      .addI32Immediate P D A 0b101100110#9] : List Instr).map .ok := by
  rfl

/-- Words of R55 with the majors, MINs and sub-ops of R65 to R69: float32. -/
theorem test_words_float32 :
    ([0b010000_101_1100010_0110100_1010110_00#32,
      0b010000_101_1100010_0110100_1010110_01#32,
      0b010000_101_1100010_0110100_1010110_10#32,
      0b010000_101_1100010_0110100_1010110_11#32,
      0b010001_101_1100010_0110100_1010110_00#32,
      0b010001_101_1100010_0110100_1010110_01#32,
      0b010001_101_1100010_0110100_1010110_10#32,
      0b010001_101_1100010_0110100_1010110_11#32,
      0b010010_101_1100010_0110100_1010110_00#32,
      0b010010_101_1100010_0110100_1010110_01#32,
      0b010010_101_1100010_0110100_0000000_10#32,
      0b011001_101_1100010_0110100_0000000_00#32,
      0b011001_101_1100010_0110100_0000000_01#32,
      0b011001_101_1100010_0110100_0000000_10#32,
      0b011001_101_1100010_0110100_1010110_11#32,
      0b011010_101_1100010_0110100_0000000_00#32,
      0b011010_101_1100010_0110100_0000000_01#32,
      0b011010_101_1100010_0110100_0000000_10#32,
      0b011010_101_1100010_0110100_0000000_11#32,
      0b011011_101_1100010_0110100_0000000_00#32,
      0b011011_101_1100010_0110100_0000000_01#32,
      0b011011_101_1100010_0110100_0000000_10#32,
      0b011011_101_1100010_0110100_0000000_11#32] : List Word).map decodeWord =
    ([.faddF32 P D A B,
      .fsubF32 P D A B,
      .fmulF32 P D A B,
      .fminF32 P D A B,
      .fmaF32D0 P D A B,
      .fmaF32D1 P D A B,
      .fmaF32D2 P D A B,
      .fmaF32D3 P D A B,
      .fmaxF32 P D A B,
      .fcmpF32 P D A B,
      .fclassF32 P D A,
      .frcp P D A,
      .frsq P D A,
      .fsqrt P D A,
      .fdiv P D A B,
      .fex2 P D A,
      .flg2 P D A,
      .fsin P D A,
      .fcos P D A,
      .frintRn P D A,
      .frintRz P D A,
      .frintRp P D A,
      .frintRm P D A] : List Instr).map .ok := by
  rfl

/-- Words of R55 with the majors, MINs and sub-ops of R65 to R69: float16. -/
theorem test_words_float16 :
    ([0b010011_101_1100010_0110100_1010110_00#32,
      0b010011_101_1100010_0110100_1010110_01#32,
      0b010011_101_1100010_0110100_1010110_10#32,
      0b010011_101_1100010_0110100_1010110_11#32,
      0b010100_101_1100010_0110100_1010110_00#32,
      0b010100_101_1100010_0110100_1010110_01#32,
      0b010100_101_1100010_0110100_1010110_10#32,
      0b010100_101_1100010_0110100_1010110_11#32,
      0b010101_101_1100010_0110100_1010110_00#32,
      0b010101_101_1100010_0110100_1010110_01#32,
      0b010101_101_1100010_0110100_0000000_10#32,
      0b010110_101_1100010_0110100_1010110_00#32,
      0b010110_101_1100010_0110100_1010110_01#32,
      0b010110_101_1100010_0110100_1010110_10#32,
      0b010110_101_1100010_0110100_1010110_11#32,
      0b010111_101_1100010_0110100_1010110_00#32,
      0b010111_101_1100010_0110100_1010110_01#32,
      0b010111_101_1100010_0110100_1010110_10#32,
      0b010111_101_1100010_0110100_1010110_11#32,
      0b011000_101_1100010_0110100_1010110_00#32,
      0b011000_101_1100010_0110100_1010110_01#32,
      0b011000_101_1100010_0110100_0000000_10#32] : List Word).map decodeWord =
    ([.faddF16 P D A B,
      .fsubF16 P D A B,
      .fmulF16 P D A B,
      .fminF16 P D A B,
      .fmaF16D0 P D A B,
      .fmaF16D1 P D A B,
      .fmaF16D2 P D A B,
      .fmaF16D3 P D A B,
      .fmaxF16 P D A B,
      .fcmpF16 P D A B,
      .fclassF16 P D A,
      .faddBf16 P D A B,
      .fsubBf16 P D A B,
      .fmulBf16 P D A B,
      .fminBf16 P D A B,
      .fmaBf16D0 P D A B,
      .fmaBf16D1 P D A B,
      .fmaBf16D2 P D A B,
      .fmaBf16D3 P D A B,
      .fmaxBf16 P D A B,
      .fcmpBf16 P D A B,
      .fclassBf16 P D A] : List Instr).map .ok := by
  rfl

/-- Words of R55 with the majors, MINs and sub-ops of R65 to R69: float64 and conversions. -/
theorem test_words_float64_and_conversions :
    ([0b011110_101_1100010_0110100_1010110_00#32,
      0b011110_101_1100010_0110100_1010110_01#32,
      0b011110_101_1100010_0110100_1010110_10#32,
      0b011111_101_1100010_0110100_0000000_00#32,
      0b011111_101_1100010_0110100_0000000_01#32,
      0b011111_101_1100010_0110100_0000000_10#32,
      0b011111_101_1100010_0110100_0000000_11#32,
      0b100000_101_1100010_0110100_1010110_00#32,
      0b100000_101_1100010_0110100_1010110_01#32,
      0b100000_101_1100010_0110100_1010110_10#32,
      0b100000_101_1100010_0110100_1010110_11#32,
      0b100001_101_1100010_0110100_1010110_00#32,
      0b100001_101_1100010_0110100_1010110_01#32,
      0b100001_101_1100010_0110100_1010110_10#32,
      0b100001_101_1100010_0110100_1010110_11#32,
      0b100010_101_1100010_0110100_1010110_00#32,
      0b100010_101_1100010_0110100_1010110_01#32,
      0b100010_101_1100010_0110100_1010110_10#32,
      0b100010_101_1100010_0110100_1010110_11#32,
      0b100011_101_1100010_0110100_1010110_00#32,
      0b100011_101_1100010_0110100_1010110_01#32,
      0b100011_101_1100010_0110100_0000000_10#32,
      0b100011_101_1100010_0110100_1010110_11#32] : List Word).map decodeWord =
    ([.dadd P D A B,
      .dmul P D A B,
      .dfma P D A B,
      .dcvtF64F32 P D A,
      .dcvtF32F64 P D A,
      .dcvtF64S64 P D A,
      .dcvtS64F64 P D A,
      .cvtRn P D A B,
      .cvtRz P D A B,
      .cvtRp P D A B,
      .cvtRm P D A B,
      .cvtn P D A B 0#2,
      .cvtn P D A B 1#2,
      .cvtn P D A B 2#2,
      .cvtn P D A B 3#2,
      .cvtw P D A B 0#2,
      .cvtw P D A B 1#2,
      .cvtw P D A B 2#2,
      .cvtw P D A B 3#2,
      .bsext P D A B,
      .bsapp P D A B,
      .compress P D A,
      .expand P D A B] : List Instr).map .ok := by
  rfl

/-- Words of R55 with the majors, MINs and sub-ops of R65 to R69: cross lane. -/
theorem test_words_cross_lane :
    ([0b100110_101_1100010_0110100_0000000_00#32,
      0b100110_101_1100010_0110100_0000000_01#32,
      0b100110_101_1100010_0110100_0000000_10#32,
      0b100110_101_1100010_0000000_0000000_11#32,
      0b100111_101_1100010_0110100_0000000_00#32,
      0b100111_101_1100010_0110100_0000000_01#32,
      0b100111_101_1100010_0110100_0000000_10#32,
      0b100111_101_1100010_0110100_0000000_11#32,
      0b101000_101_1100010_0110100_1010110_00#32,
      0b101000_101_1100010_0110100_1010110_01#32,
      0b101000_101_1100010_0110100_1010110_10#32,
      0b101001_101_1100010_0110100_1010110_00#32,
      0b101001_101_1100010_0110100_1010110_01#32,
      0b101001_101_1100010_0110100_1010110_10#32] : List Word).map decodeWord =
    ([.qswpH P D A,
      .qswpV P D A,
      .qswpD P D A,
      .elect P D,
      .voteAny P D A,
      .voteAll P D A,
      .voteBallot P D A,
      .matchAny P D A,
      .reduxI32 P D A B,
      .reduxUs P D A B,
      .reduxF32 P D A B,
      .scanI32 P D A B,
      .scanUs P D A B,
      .scanF32 P D A B] : List Instr).map .ok := by
  rfl

/-- Words of R55 with the majors, MINs and sub-ops of R65 to R69: memory. -/
theorem test_words_memory :
    ([0b101010_101_1100010_0110100_101100110#32,
      0b101011_101_1100010_0110100_101100110#32,
      0b101100_101_1100010_0110100_1010110_00#32,
      0b101100_101_1100010_0110100_1010110_01#32,
      0b101100_101_1100010_0110100_1010110_10#32,
      0b101100_101_1100010_0110100_1010110_11#32,
      0b101101_101_1100010_0110100_1010110_00#32,
      0b101101_101_1100010_0110100_1010110_01#32,
      0b101101_101_1100010_0110100_1010110_10#32,
      0b101101_101_1100010_0110100_1010110_11#32,
      0b101110_101_1100010_0110100_1010110_00#32,
      0b101110_101_1100010_0110100_1010110_01#32,
      0b101110_101_1100010_0110100_1010110_10#32,
      0b101110_101_1100010_0110100_1010110_11#32,
      0b101111_101_1100010_0110100_1010110_00#32,
      0b101111_101_1100010_0110100_1010110_01#32,
      0b101111_101_1100010_0110100_1010110_10#32,
      0b110000_101_1100010_0110100_010100110#32,
      0b110000_101_1100010_0110100_100001011#32,
      0b110001_101_1100010_0110100_010100110#32,
      0b110001_101_1100010_0110100_100001011#32] : List Word).map decodeWord =
    ([.ldB32 P D A 0b101100110#9,
      .stB32 P D A 0b101100110#9,
      .ldB64 P D A B,
      .stB64 P D A B,
      .ldB128 P D A B,
      .stB128 P D A B,
      .ldB8 P D A B,
      .ldB16 P D A B,
      .stB8 P D A B,
      .stB16 P D A B,
      .ldsB32 P D A B,
      .stsB32 P D A B,
      .ldsB64 P D A B,
      .stsB64 P D A B,
      .ldcB32 P D A B,
      .ldcB64 P D A B,
      .pref P D A B,
      .ldrB32 P D A 0b10100110#8,
      .ldrB32Uniform P D A 0b1011#4,
      .strB32 P D A 0b10100110#8,
      .strB32Uniform P D A 0b1011#4] : List Instr).map .ok := by
  rfl

/-- Words of R55 with the majors, MINs and sub-ops of R65 to R69: atomics. -/
theorem test_words_atomics :
    ([0b110010_101_1100010_0110100_1011011_00#32,
      0b110010_101_1100010_0110100_1010110_00#32,
      0b110010_101_1100010_0110100_1011011_01#32,
      0b110010_101_1100010_0110100_1010110_01#32,
      0b110010_101_1100010_0110100_1010110_10#32,
      0b110010_101_1100010_0110100_1010110_11#32,
      0b110011_101_1100010_0110100_1010110_00#32,
      0b110011_101_1100010_0110100_1010110_01#32,
      0b110100_101_1100010_0110100_0000000_00#32] : List Word).map decodeWord =
    ([.casB32 P D A P,
      .atomB32 P D A B,
      .casB64 P D A P,
      .atomB64 P D A B,
      .redB32 P D A B,
      .redB64 P D A B,
      .fatom P D A B,
      .fatomNr P D A B,
      .mcas P D A] : List Instr).map .ok := by
  rfl

/-- Words of R55 with the majors, MINs and sub-ops of R65 to R69: matrix. -/
theorem test_words_matrix :
    ([0b110101_101_1100010_0110100_0000000_00#32,
      0b110101_101_1100010_0110100_1010110_01#32,
      0b110101_101_1100010_0110100_1010110_10#32,
      0b110101_101_1100010_0110100_0000000_11#32,
      0b110110_101_1100010_0110100_1010110_00#32,
      0b110110_101_1100010_0110100_1010110_01#32,
      0b110110_101_1100010_0110100_1010110_10#32,
      0b110111_101_1100010_0110100_1010110_00#32,
      0b110111_101_1100010_0110100_1010110_01#32,
      0b110111_101_1100010_0110100_1010110_10#32,
      0b111000_101_1100010_0110100_0000000_00#32,
      0b111000_101_0000000_0110100_0000001_00#32,
      0b111000_101_0000000_0110100_0000010_00#32,
      0b111000_101_1100010_0110100_0000011_00#32,
      0b111000_101_1100010_0110100_0000100_00#32,
      0b111000_101_1100010_0110100_0000101_00#32,
      0b111000_101_1100010_0110100_0000110_00#32,
      0b111000_101_1100010_0110100_0000111_00#32] : List Word).map decodeWord =
    ([.tshape P D A,
      .tld P D A B,
      .tst P D A B,
      .tmov P D A,
      .mmaBf16 P D A B,
      .mmaF16 P D A B,
      .mmaNf P D A B,
      .mmaspBf16 P D A B,
      .mmaspF16 P D A B,
      .mmaspNf P D A B,
      .acalloc P D A,
      .acfree P A,
      .aczero P A,
      .acrd P D A,
      .acwr P D A,
      .accvt P D A,
      .acseed P D A,
      .acqry P D A] : List Instr).map .ok := by
  rfl

/-- Words of R55 with the majors, MINs and sub-ops of R65 to R69: control. -/
theorem test_words_control :
    ([0b111001_101_10110011100011110000110#32,
      0b111010_101_0000000_0000000_0000000_00#32,
      0b111010_101_1100010_0110100_0000001_00#32,
      0b111010_101_1100010_0110100_0000001_01#32,
      0b111010_101_1100010_0110100_0000010_00#32,
      0b111010_101_0000000_0110100_0000011_00#32,
      0b111010_101_0000000_0110100_0000100_00#32,
      0b111010_101_0000000_0000000_0000101_00#32,
      0b111010_101_0000000_0000000_0000110_00#32,
      0b111010_111_0000000_0000000_0000111_00#32,
      0b111010_101_0000000_0110100_0001000_00#32,
      0b111010_101_0000000_0110100_0010000_00#32,
      0b111010_101_0000000_0000000_0010001_00#32,
      0b111010_101_0000000_0000000_0010010_00#32,
      0b111010_101_1100010_0110100_0010011_00#32,
      0b111010_101_1100010_0110100_0010100_00#32,
      0b111010_101_1100010_0110100_0010101_00#32,
      0b111010_101_0000000_0000000_0100000_00#32,
      0b111010_101_1100010_0110100_0100001_00#32,
      0b111010_101_1100010_0000000_0100010_00#32,
      0b111010_101_1100010_0110100_0100011_00#32,
      0b111010_101_1100010_0110100_0100100_00#32,
      0b111010_101_1100010_0110100_0100101_00#32,
      0b111010_101_1100010_0110100_0100101_01#32,
      0b111010_101_1100010_0110100_0100110_00#32,
      0b111010_101_1100010_0110100_0100111_00#32,
      0b111010_101_1100010_0110100_0101000_00#32,
      0b111010_101_0000000_0110100_0101001_00#32,
      0b111010_101_1100010_0110100_1000101_00#32,
      0b111010_101_1100010_0110100_1001101_00#32,
      0b111010_101_1100010_0110100_1010101_00#32,
      0b111010_101_1100010_0110100_1011101_00#32,
      0b111010_101_0000000_0000000_1100101_00#32,
      0b111010_101_0000000_0000000_1100101_01#32,
      0b111010_101_0000000_0000000_1100101_10#32,
      0b111010_101_0000000_0000000_1100101_11#32] : List Word).map decodeWord =
    ([.bra P 0b10110011100011110000110#23,
      .nop P,
      .brcAny P D A,
      .brcAll P D A,
      .call P D A,
      .ret P A,
      .jmpi P A,
      .exitT P,
      .yield P,
      .convW ,
      .wbase P A,
      .acqr P A,
      .cfence P,
      .ifence P,
      .twait P D A,
      .tread P D A,
      .tsignal P D A,
      .bar P,
      .bara P D A,
      .barw P D,
      .marrive P D A,
      .mwait P D A,
      .ldfK P D A,
      .ldfE P D A,
      .ste P D A,
      .stf P D A,
      .lde P D A,
      .sleepT P A,
      .ldAcqB32 P D A P,
      .ldAcqB64 P D A P,
      .stRelB32 P D A P,
      .stRelB64 P D A P,
      .fenceAcq P P,
      .fenceRel P P,
      .fenceAcqrel P P,
      .fenceSc P P] : List Instr).map .ok := by
  rfl

/-- Words of R55 with the majors, MINs and sub-ops of R65 to R69: engines. -/
theorem test_words_engines :
    ([0b111011_101_1100010_0110100_0000000_00#32,
      0b111011_101_1100010_0110100_0000001_00#32,
      0b111011_101_1100010_0110100_0000010_00#32,
      0b111011_101_1100010_0110100_0000011_00#32,
      0b111011_101_1100010_0110100_0000100_00#32,
      0b111011_101_1100010_0110100_0000101_00#32,
      0b111011_101_1100010_0110100_0010000_00#32,
      0b111011_101_1100010_0110100_0010001_00#32,
      0b111011_101_1100010_0110100_0010010_00#32,
      0b111011_101_1100010_0110100_0100000_00#32,
      0b111011_101_1100010_0110100_0100001_00#32,
      0b111011_101_1100010_0110100_0100010_00#32,
      0b111011_101_1100010_0110100_0100011_00#32] : List Word).map decodeWord =
    ([.cpy P D A,
      .gath P D A,
      .scat P D A,
      .coll P D A,
      .tbind P D A,
      .tunbind P D A,
      .evpop P D A,
      .evpush P D A,
      .taskrel P D A,
      .launch P D A,
      .launchp P D A,
      .cancel P D A,
      .gridq P D A] : List Instr).map .ok := by
  rfl

/-- Words of R55 with the majors, MINs and sub-ops of R65 to R69: system. -/
theorem test_words_system :
    ([0b111110_101_1100010_0110100_0000000_00#32,
      0b111110_101_1100010_0110100_0000001_00#32,
      0b111110_101_1100010_0110100_0000010_00#32,
      0b111110_101_1100010_0110100_0000011_00#32,
      0b111110_101_1100010_0110100_0000100_00#32,
      0b111110_101_1100010_0110100_0000101_00#32,
      0b111110_101_0000000_0110100_0010000_00#32,
      0b111110_101_1100010_0110100_0010001_00#32,
      0b111110_101_1100010_0110100_0010010_00#32,
      0b111110_101_1100010_0110100_0010011_00#32,
      0b111110_101_0000000_0110100_0010100_00#32,
      0b111110_101_1100010_0110100_0010101_00#32,
      0b111110_101_1100010_0000000_0010110_00#32,
      0b111110_101_1100010_0110100_0100000_00#32,
      0b111110_101_1100010_0110100_0100001_00#32,
      0b111110_101_1100010_0110100_0100010_00#32] : List Word).map decodeWord =
    ([.csrr P D A,
      .csrw P D A,
      .setid P D A,
      .tlbinv P D A,
      .clrinv P D A,
      .bankrole P D A,
      .trap P A,
      .eret P D A,
      .savectx P D A,
      .restctx P D A,
      .halt P A,
      .rdclk P D A,
      .rand P D,
      .ckpt P D A,
      .sigchk P D A,
      .replq P D A] : List Instr).map .ok := by
  rfl

/-- Words of R55 with the majors, MINs and sub-ops of R65 to R69: immediate and prefix. -/
theorem test_words_immediate_and_prefix :
    ([0b11110_1100010_10110011100011110000#32,
      0b111111_001100101_011000110_00000000#32] : List Word).map decodeWord =
    ([.movf D 0b10110011100011110000#20,
      .permutationPrefix 0b001100101#9 0b011000110#9] : List Instr).map .ok := by
  rfl


/-! ### Well-formed instructions: an ill-formed one for each check -/

/-- R57: a 64-bit source at an odd field and at 126; a 128-bit source off a multiple of four and at 96; destinations at a constant slot, odd, off
a multiple of four and at 96; updated destinations at a constant slot (127 too), odd, off a multiple of four and at 96. -/
theorem test_wf_operands :
    ([.addI64 7 2 1 4, .addI64 7 2 126 4, .stB128 7 2 4 0, .stB128 7 96 4 0, .addI32 7 112 1 1, .addI64 7 3 2 2, .addI64 7 112 2 2,
      .ldB128 7 2 4 0, .ldB128 7 96 4 0, .mad 7 112 1 1, .mad 7 127 1 1, .dfma 7 3 2 2, .dfma 7 112 2 2, .casB64 7 2 4 0, .casB64 7 96 4 0] :
        List Instr).all (fun i => !i.wf) = true ∧
      ([.addI64 7 2 126 4] : List Instr).map valueCause = [some .illegalEncoding] := by decide

/-- The selector values that are illegal encodings, by their descriptions. -/
theorem test_wf_selectors :
    ([.smovToUniform 7 64 1, .smovFromUniform 7 1 64, .cmpSg 7 0b0110000 1 1, .cmpUs 7 0b0111000 1 1, .cmpI64 7 0b0110000 2 2, .pref 7 2 4 0,
      .cvtRn 7 1 1 0b0000000, .cvtRz 7 1 1 0b1010000, .cvtRp 7 2 2 0b0111000, .cvtRm 7 1 1 0b0001001,
      .reduxI32 7 1 1 6, .scanI32 7 1 1 7, .reduxUs 7 1 1 0, .scanUs 7 1 1 3, .reduxF32 7 1 1 3, .scanF32 7 1 1 4,
      .atomB32 7 1 4 11, .atomB64 7 2 4 15, .redB32 7 1 4 8, .redB64 7 2 4 11, .fatom 7 1 4 7, .fatomNr 7 1 4 8, .tsignal 7 2 0,
      .rdclk 7 2 3, .qswpH 7 1 96, .qswpV 7 1 111, .qswpD 7 1 127, .ldAcqB32 7 1 4 7, .ldAcqB64 7 2 4 7, .stRelB32 7 1 4 7, .stRelB64 7 2 4 7,
      .fenceAcq 7 7, .fenceRel 7 7, .fenceAcqrel 7 7, .fenceSc 7 7] : List Instr).all
        (fun i => !selectorOk i && valueCause i = some .illegalEncoding && !i.wf) = true := by decide

/-- The reserved values of selectors. -/
theorem test_wf_reserved :
    ([.cmpSg 7 0b1000000 1 1, .cmpUs 7 0b1000000 1 1, .fcmpF32 7 0b1000000 1 1, .pand 7 8 1 1, .por 7 1 16 1, .pxor 7 1 1 16, .pnot 7 8 1, .pnot 7 1 16,
      .brcAny 7 16 0, .brcAll 7 64 0, .idx2 7 2 2 0b1010000, .tld 7 0 4 0b1100000, .tst 7 0 4 0b1010000, .cvtn 7 1 1 1 0,
      .voteAny 7 8 1, .voteAll 7 1 16, .voteBallot 7 2 16, .elect 7 8, .reduxI32 7 1 1 8, .reduxUs 7 1 1 9, .reduxF32 7 1 1 16,
      .scanI32 7 1 1 16, .scanUs 7 1 1 17, .scanF32 7 1 1 32, .atomB32 7 1 4 0x70, .atomB64 7 2 4 0x70, .redB32 7 1 4 0x70, .redB64 7 2 4 0x70,
      .fatom 7 1 4 0x70, .fatomNr 7 1 4 0x70, .casB32 7 2 4 7, .casB64 7 4 4 7, .tmov 7 16 1, .mmaBf16 7 0b1010000 0 0, .mmaspNf 7 0b1100000 0 0,
      .accvt 7 0b0110000 1, .accvt 7 0b0001001 1, .twait 7 16 4, .tread 7 2 16, .tsignal 7 2 0x70, .bara 7 16 1, .barw 7 16, .evpop 7 4 2,
      .setid 7 2 1, .rdclk 7 2 4, .permutationPrefix 1 0, .permutationPrefix 0 0b100000111, .permutationPrefix 0b101000100 0, .permutationPrefix 0b111000000 0,
      .tld 7 8 4 0, .tst 7 16 4 0] : List Instr).all
        (fun i => valueCause i = none && reservedCause i = some .reservedField && !i.wf) = true := by decide

/-- R57: the widest fields that are well formed. -/
theorem test_wf_good :
    ([.addI64 7 110 124 127, .stB128 7 92 4 0, .addI32 7 127 126 1, .ldB128 7 127 4 0, .mad 7 111 127 111, .dfma 7 110 124 127, .casB64 7 92 4 6,
      .cmpI64 7 0b0101111 2 2, .cvtRn 7 1 1 0b0010001, .tsignal 7 2 0x60, .permutationPrefix 0b100000110 0b101000011] : List Instr).all (·.wf) = true := by
  decide
/-! ### A bench: one thread at an instruction -/

/-- Package 0 in full service; context part 8192 (package 0, CTXID 1) with one page that maps 2 MiB at 0; its logical core 0 on physical
core 0; workgroup 3 of grid 2 there with one warp, number 4; and in flight on quarter 0 the group of its lane 0, at the first word of a
clause at 0x1000. The arguments: the warp's registers, its one thread, and the clause's words. -/
def bench (vr : BMap 32) (t : Thread) (body : List Word) : State :=
  { pkgs := [(0, { full := true, dies := [0, 1, 2, 3] })]
    ctxs := [(1, { priv := true })]
    parts := [(8192, { ncores := 1, tlb := [{ size := 0x200000, rd := true, wr := true, ex := true }] })]
    lcores := [(16777216, { pcore := some 0 })]
    pcores := [(0, { owners := [8192] })]
    grids := [(2, { ctx := 1, part := 8192, started := [0] })]
    wgs := [(3, { ctx := 1, grid := 2, lcore := 16777216, threads := 1, warps := [4], k := { scratch := 64 } })]
    warps := [(4, { ctx := 1, wg := 3, vr := vr, lanes := [(0, t)] })]
    groups := [(0, { wg := 3, mem := [⟨0, 4⟩], pc := 0x1000, body := body })]
    nextId := 10 }
/-- The group of the bench, and its member. -/
def benchG (body : List Word) : Group := { wg := 3, mem := [⟨0, 4⟩], pc := 0x1000, body := body }
def me : Member := ⟨0, 4⟩
/-- Its thread: predicate 1 true, all else at zero. -/
def thr0 : Thread := { pc := 0x1000, preds := 2 }
theorem ready_of {s : State} {g : Group} {i : Instr} (h : curGroup? s = some g) (h1 : ∀ m ∈ g.mem, isRedun s m.warp = false)
    (h2 : ∀ m ∈ actors s g i, (thrOf s m).helper = false → operandFail s (shapeOf i) m = none) : Claims.Ready s g i := ⟨h, h1, h2⟩

theorem eachLead_of {s : State} {g : Group} {i : Instr} {q : Member → Src → Prop} (h : ∀ m ∈ actors s g i, q m (sources s g i m)) :
    Claims.EachLead s g i q := by
  intro w m hm
  have : m ∈ actors s g i := by
    unfold leadOf at hm; exact List.mem_of_mem_filter (List.mem_of_find?_eq_some hm)
  exact h m this

theorem eachActor_of {s : State} {g : Group} {i : Instr} {q : Member → Src → Prop} (h : actors s g i = [me]) (hq : q me (sources s g i me)) :
    Claims.EachActor s g i q := by
  intro m hm; rw [h] at hm; simp at hm; subst hm; exact hq
theorem eachChecked_of {s : State} {g : Group} {i : Instr} {q : Member → Src → Prop} (h : actors s g i = [me]) (hq : q me (sources s g i me)) :
    Claims.EachChecked s g i q := by
  intro m hm _; rw [h] at hm; simp at hm; subst hm; exact hq
/-! ### Hypotheses that can be met: one state for each statement (and each clause) that has some -/

theorem wit_IntegerResults : ∃ i f s g, Claims.IntResult i f ∧ curGroup? s = some g ∧ OperandsPass s g i ∧ actors s g i = [me] :=
  ⟨_, _, bench [(64, 7)] thr0 [], benchG [], .addI32 7 2 1 1, rfl, by unfold OperandsPass; decide, by decide⟩

theorem wit_PredicateResults : ∃ i f s g, Claims.PredResult i f ∧ curGroup? s = some g ∧ OperandsPass s g i ∧ actors s g i = [me] :=
  ⟨_, _, bench [(64, 7)] thr0 [], benchG [], .cmpI64 1 0b1101011 0 2 (by decide), rfl, by unfold OperandsPass; decide, by decide⟩

theorem wit_FloatResults : ∃ i f s g, Claims.FloatResult i f ∧ curGroup? s = some g ∧ OperandsPass s g i ∧
    (NoFpTrap s g i fun m => f (sources s g i m)) ∧ actors s g i = [me] :=
  ⟨_, _, bench [(64, 0x3F800000)] thr0 [], benchG [], .faddF32 7 2 1 1, rfl, by unfold OperandsPass; decide,
    by unfold NoFpTrap; decide, by decide⟩

theorem wit_ConversionResults : ∃ i f s g, Claims.ConvertResult i f ∧ curGroup? s = some g ∧ OperandsPass s g i ∧
    (NoFpTrap s g i fun m => f (sources s g i m)) ∧ actors s g i = [me] :=
  ⟨_, _, bench [(64, 0x3F800000)] thr0 [], benchG [], .cvtRn 7 2 1 0b0000010 (by decide), rfl, by unfold OperandsPass; decide,
    by unfold NoFpTrap; decide, by decide⟩

theorem wit_CrossLaneResults : ∃ i f s g, Claims.CrossResult i f ∧ curGroup? s = some g ∧ OperandsPass s g i ∧
    (∀ m ∈ participants s g i, trapFlags (warpOf s m.warp) (f (warpSources s g i m.warp) m.lane (sources s g i m)).fp = 0) ∧
    participants s g i = [me] :=
  ⟨_, _, bench [(64, 0x3F800000)] thr0 [], benchG [], .scanF32 7 2 1 8, rfl, by unfold OperandsPass; decide, by decide, by decide⟩

theorem wit_QuadSwapResults : ∃ i x a s g, Claims.QuadSwap i (x, a) ∧ curGroup? s = some g ∧ OperandsPass s g i ∧ actors s g i = [me] :=
  ⟨_, _, _, bench [(64, 7)] thr0 [], benchG [], .qswpD 7 2 1, rfl, by unfold OperandsPass; decide, by decide⟩

theorem wit_UniformWrite : ∃ p d a s g, curGroup? s = some g ∧ OperandsPass s g (.smovToUniform p d a) ∧
    Claims.EachChecked s g (.smovToUniform p d a) (fun m _ => d.toNat < (warpOf s m.warp).ns) ∧
    actors s g (.smovToUniform p d a) = [me] :=
  ⟨7, 15, 1, bench [(64, 7)] thr0 [], benchG [], rfl, by unfold OperandsPass; decide, by unfold Claims.EachChecked; decide, by decide⟩

theorem wit_CheckedRegisterResults : ∃ i ok f s g, Claims.CheckedResult i ok f ∧ curGroup? s = some g ∧ OperandsPass s g i ∧
    Claims.EachActor s g i (ok s) ∧ (NoFpTrap s g i fun m => f s m (sources s g i m)) ∧ actors s g i = [me] :=
  ⟨_, _, _, bench [] thr0 [], benchG [], .smovFromUniform 7 2 15, rfl, by unfold OperandsPass; decide,
    by unfold Claims.EachActor; decide, by unfold NoFpTrap; decide, by decide⟩

/-- The bench with bank 0 held and descriptor 1 in the warp's first narrow-format field. -/
def benchN : State :=
  let s := bench [(64, 0x3F800000)] thr0 []
  { s with wgs := tblUpd s.wgs 3 fun w => { w with banks := [(0, {})] }
           warps := tblUpd s.warps 4 fun w => { w with nfmt := [(0, 1)] } }

theorem wit_NarrowRounded : ∃ (p : BitVec 3) (d a b : BitVec 7) (k : BitVec 2) (s : State) (g : Group), b.toNat < 64 ∧ curGroup? s = some g ∧
    OperandsPass s g (.cvtn p d a b k) ∧
    Claims.EachActor s g (.cvtn p d a b k) (fun m _ => Claims.narrowOk (warpOf s m.warp) k.toNat (b.toNat / 8)) ∧
    (NoFpTrap s g (.cvtn p d a b k) fun m =>
      Claims.narrowed (warpOf s m.warp) k.toNat (b.toNat / 8) (rmOf (warpOf s m.warp)) (sources s g (.cvtn p d a b k) m)) ∧
    actors s g (.cvtn p d a b k) = [me] :=
  ⟨7, 2, 1, 8, 0, benchN, benchG [], by decide, rfl, by unfold OperandsPass; decide,
    by unfold Claims.EachActor Claims.narrowOk; decide, by unfold NoFpTrap; decide, by decide⟩

theorem wit_NarrowStochastic : ∃ (p : BitVec 3) (d a b : BitVec 7) (k : BitVec 2) (s : State) (g : Group), 64 ≤ b.toNat ∧ curGroup? s = some g ∧
    OperandsPass s g (.cvtn p d a b k) ∧ (g.mem.map (·.lane)).Nodup ∧
    (∀ m ∈ actors s g (.cvtn p d a b k), ∃ x, tblGet? (wgOfWarp s m.warp).banks (b.toNat % 8) = some x ∧ x.freed = false) ∧
    (∀ m ∈ actors s g (.cvtn p d a b k), (tblGet? s.wgs (warpOf s m.warp).wg).isSome = true) ∧
    Claims.EachActor s g (.cvtn p d a b k) (fun m _ => Claims.narrowOk (warpOf s m.warp) k.toNat (b.toNat / 8 % 8)) ∧
    (NoFpTrap s g (.cvtn p d a b k) fun m => Claims.narrowed (warpOf s m.warp) k.toNat (b.toNat / 8 % 8)
      (.sr (genStep (Claims.genWord s (warpOf s m.warp).wg (b.toNat % 8) m.lane))) (sources s g (.cvtn p d a b k) m)) ∧
    actors s g (.cvtn p d a b k) = [me] :=
  ⟨7, 2, 1, 72, 0, benchN, benchG [], by decide, rfl, by unfold OperandsPass; decide, by decide,
    by intro m hm; have : m = me := by simpa using (by decide : ∀ m ∈ actors benchN (benchG []) (.cvtn 7 2 1 72 0), m = me) m hm
       subst this; exact ⟨{}, by decide, rfl⟩,
    by decide, by unfold Claims.EachActor Claims.narrowOk; decide, by unfold NoFpTrap; decide, by decide⟩

theorem wit_GlobalLoads : ∃ i addr n s g, Claims.LoadForm i addr n ∧ Claims.Ready s g i ∧
    Claims.EachActor s g i (fun m x => acqHeld s m = false ∧ atomHeld s m (physOf (pageFor s m (addr x)) (addr x)) n = false ∧
      farHeld s m (addr x) = false ∧ fillWait s m (addr x) n 0 = none) ∧
    Claims.EachChecked s g i (fun m x => addr x % n = 0 ∧ accessFail s m (addr x) n .load = none) ∧ actors s g i = [me] :=
  ⟨_, _, _, bench [(64, 0x1FFFF0)] thr0 [], benchG [], .ldB128 7 4 1 3,
    ready_of rfl (by decide) (by decide),
    by unfold Claims.EachActor; decide, by unfold Claims.EachChecked; decide, by decide⟩

theorem wit_GlobalStores : ∃ i addr n s g, Claims.StoreForm i addr n ∧ Claims.Ready s g i ∧
    Claims.EachActor s g i (fun m _ => acqHeld s m = false) ∧
    Claims.EachChecked s g i (fun m x => storeFail s m (addr x) n (logBefore s i (fun y z => logUnits s y (addr z) n) m) = none) ∧
    Claims.PlainStores addr n (noted s g i).nextId (noted s g i) (Claims.acts s g i) ∧ actors s g i = [me] :=
  ⟨_, _, _, bench [(64, 0x2000)] thr0 [], benchG [], .stB128 7 4 1 3,
    ready_of rfl (by decide) (by decide),
    by unfold Claims.EachActor; decide, by unfold Claims.EachChecked; decide,
    ⟨by decide, trivial⟩, by decide⟩

theorem wit_StoreThenLoad : ∃ (s : State) (m : Member) (va : Nat), (thrOf s m).helper = false ∧ isRedun s m.warp = false ∧
    detShared s m.warp va = false :=
  ⟨bench [] thr0 [], me, 0x2000, by decide⟩

theorem wit_ScratchpadLoads : ∃ i n s g, Claims.ScratchLoad i n ∧ Claims.Ready s g i ∧
    Claims.EachActor s g i (fun m _ => acqHeld s m = false) ∧
    Claims.EachChecked s g i (fun m x => scrLoadFail s m (Claims.wordOff x) n = none) ∧ actors s g i = [me] :=
  ⟨_, _, bench [(64, 56)] thr0 [], benchG [], .ldsB64 7 4 1 3,
    ready_of rfl (by decide) (by decide),
    by unfold Claims.EachActor; decide, by unfold Claims.EachChecked; decide, by decide⟩

theorem wit_ScratchpadStores : ∃ i n s g, Claims.ScratchStore i n ∧ Claims.Ready s g i ∧
    Claims.EachActor s g i (fun m _ => acqHeld s m = false) ∧
    Claims.EachChecked s g i (fun m x => Claims.wordOff x % n = 0 ∧
      Claims.wordOff x + n ≤ (khdrOfWarp s m.warp).scratch) ∧
    (∀ m ∈ actors s g i, Claims.ScratchPlaced s m.warp) ∧ actors s g i = [me] :=
  ⟨_, _, bench [(64, 56)] thr0 [], benchG [], .stsB64 7 4 1 3,
    ready_of rfl (by decide) (by decide),
    by unfold Claims.EachActor; decide, by unfold Claims.EachChecked; decide, by
      intro m hm o p ho hp h
      have hm : m = me := by simpa using (by decide : ∀ m ∈ actors (bench [(64, 56)] thr0 []) (benchG []) (.stsB64 7 4 1 3), m = me) m hm
      subst hm
      have ho : o < 64 := ho
      have hp : p < 64 := hp
      simp only [scrAddr, show o / 4096 = 0 by omega, show p / 4096 = 0 by omega, lsAddr, gpOf] at h
      have h := Nat.add_left_cancel (Nat.add_left_cancel h)
      rwa [Nat.mod_eq_of_lt (by omega), Nat.mod_eq_of_lt (by omega)] at h, by decide⟩

theorem wit_ConstantLoads : ∃ i n s g, Claims.ConstLoad i n ∧ Claims.Ready s g i ∧
    Claims.EachActor s g i (fun m _ => acqHeld s m = false) ∧
    Claims.EachChecked s g i (fun m x => ldcFail s m (Claims.wordOff x) n = none) ∧ actors s g i = [me] :=
  ⟨_, _, bench [(64, 56)] thr0 [], benchG [], .ldcB64 7 4 1 3,
    ready_of rfl (by decide) (by decide),
    by unfold Claims.EachActor; decide, by unfold Claims.EachChecked; decide, by decide⟩

theorem wit_PrefetchOnly : ∃ p d a b s g, Claims.Ready s g (.pref p d a b) ∧ actors s g (.pref p d a b) = [me] :=
  ⟨7, 0, 2, 4, bench [] thr0 [], benchG [], ready_of rfl (by decide) (by decide), by decide⟩

/-- A record of 32-bit integers with BOUND 0: 64 columns, 16 rows, 256 bytes a row, from an address (R110). -/
def rec5 (base : Nat) : TRec := BitVec.ofNat 256 (base + 64 * 2 ^ 64 + 16 * 2 ^ 96 + 256 * 2 ^ 128 + 3 * 2 ^ 176)
/-- The bench with a record bound as number 5. -/
def benchR (r : TRec) (vr : BMap 32) : State :=
  let s := bench vr thr0 []
  { s with parts := tblUpd s.parts 8192 fun p => { p with gaz := [(5, r)] } }

theorem wit_RecordLoads : ∃ i num s g, Claims.RecordLoad i num ∧ Claims.Ready s g i ∧
    Claims.EachActor s g i (fun m x => unitWait s m x (num x.w) = none) ∧
    Claims.EachChecked s g i (fun m x => unitFail s m x (num x.w) .load = none) ∧ actors s g i = [me] :=
  ⟨_, _, benchR (rec5 0x3000) [(64, 63), (128, 15)], benchG [], .ldrB32 7 4 1 5,
    ready_of rfl (by decide) (by decide),
    by unfold Claims.EachActor; decide, by unfold Claims.EachChecked; decide, by decide⟩

theorem wit_RecordStores : ∃ i num s g, Claims.RecordStore i num ∧ Claims.Ready s g i ∧
    Claims.EachActor s g i (fun m _ => acqHeld s m = false) ∧
    Claims.EachChecked s g i (fun m x => unitStoreFail s m x (num x.w)
      (logBefore s i (fun y z => unitLogs s y ((recOf? s y.warp (num z.w)).getD 0) z) m) = none) ∧ actors s g i = [me] :=
  ⟨_, _, benchR (rec5 0x3000) [(64, 63), (128, 15)], benchG [], .strB32 7 4 1 5,
    ready_of rfl (by decide) (by decide),
    by unfold Claims.EachActor; decide, by unfold Claims.EachChecked; decide, by decide⟩

theorem wit_AtomicsIssue : ∃ i fm d s g, Claims.Returning i fm d ∧ Claims.Ready s g i ∧
    Claims.EachActor s g i (fun m x => acqHeld s m = false ∧ serialWait s m (Claims.atomVa x) = none) ∧
    Claims.EachChecked s g i (fun m x => atomFail fm s m (Claims.atomVa x) (atomBefore i fm s m) = none) ∧ actors s g i = [me] :=
  ⟨_, _, _, bench [(64, 0x2000)] thr0 [], benchG [], .fatomPair 7 4 1 2 (by decide),
    ready_of rfl (by decide) (by decide),
    by unfold Claims.EachActor; decide, by unfold Claims.EachChecked; decide, by decide⟩

/-- Of both: a thread from which an atomic, a store or a compare-and-swap leaves. -/
theorem wit_AtomicsIssue_leaves : ∃ (v : State) (m : Member) (x : Src), (thrOf v m).helper = false ∧ isRedun v m.warp = false ∧
    detShared v m.warp (Claims.atomVa x) = false ∧ globalFail v m (Claims.atomVa x) 8 .store = none ∧
    mcasShared v m (lo64 x.a).toNat = false ∧ isOnChip (gpLocal (physOf (pageFor v m 0) 0)) = false ∧
    present v m.warp m.lane = true ∧ (benchG []).ended.contains m.lane = false :=
  ⟨bench [] thr0 [], me, { a := 0x2000, b := 0, d := 0, t := thr0, w := {} }, by decide⟩

theorem wit_ReductionsIssue : ∃ i fm s g, Claims.Reduction i fm ∧ Claims.Ready s g i ∧
    Claims.EachActor s g i (fun m _ => acqHeld s m = false) ∧
    Claims.EachChecked s g i (fun m x => atomFail fm s m (Claims.atomVa x) (atomBefore i fm s m) = none) ∧ actors s g i = [me] :=
  ⟨_, _, bench [(64, 0x2000)] thr0 [], benchG [], .redB64 7 4 1 0,
    ready_of rfl (by decide) (by decide),
    by unfold Claims.EachActor; decide, by unfold Claims.EachChecked; decide, by decide⟩

/-- An atomic on its way at 0x2000, with a pending return, and the state in which its event comes. -/
def atom7 : Atom := { ctx := 1, part := 8192, grid := 2, warp := 4, va := 0x2000, addr := 0x2000, size := 4, a := 1, ret := some 8, reg := 4 }
def benchA (a : Atom) (poison : List Nat) : State :=
  { bench [] thr0 [] with atoms := [(7, a)], loads := [(8, { warp := 4, flag := 0, waits := [7], part := 8192 })], poison := poison
                          arg := { a := 7 } }

theorem wit_AtomicPerformed : ∃ (s : State) (a : Atom), tblGet? s.atoms s.arg.a = some a ∧ atomReady s s.arg.a a = true ∧ a.kind < 2 ∧
    (a.size = 4 ∨ a.size = 8) ∧ a.a.toNat < 256 ^ a.size ∧ a.b.toNat < 256 ^ a.size ∧ poisoned s a.addr a.size = false ∧
    (∀ k < a.size, channelLost s (a.addr + k) = false) ∧ isCapacity (gpLocal a.addr) = false ∧ a.addr % a.size = 0 ∧ isRedun s a.warp = false :=
  ⟨benchA atom7 [], atom7, by decide⟩

theorem wit_AtomicOnPoison : ∃ (s : State) (a : Atom), tblGet? s.atoms s.arg.a = some a ∧ atomReady s s.arg.a a = true ∧ a.ret = none ∧
    poisoned s a.addr a.size = true :=
  ⟨benchA { atom7 with ret := none } [0x100], { atom7 with ret := none }, by decide⟩

theorem wit_PostedReplay : ∃ (s : State) (a : Atom) (e : TlbEntry), tblGet? s.atoms s.arg.a = some a ∧ replayReady s s.arg.a a = true ∧
    translate s a.part a.va .store = .ok e ∧ tagAllows s a.part a.ident.toNat e.tag = true ∧
    isOnChip (gpLocal (physOf e a.va)) = false ∧ hostRefuses s a.kind a.opc (physOf e a.va) = false :=
  ⟨benchA { atom7 with posted := some 0, ret := none } [], { atom7 with posted := some 0, ret := none },
    { size := 0x200000, rd := true, wr := true, ex := true }, by decide⟩

/-- An address that no page maps fails again. -/
theorem wit_PostedReplay_again : ∃ (s : State) (a : Atom) (c : Cause), tblGet? s.atoms s.arg.a = some a ∧
    replayReady s s.arg.a a = true ∧ Claims.ReplayFails s a c :=
  let a : Atom := { atom7 with posted := some 0, ret := none, va := 0x200000 }
  ⟨benchA a [], a, .pageFault, by decide, by decide, .page _ (by decide)⟩

theorem wit_McasIssues : ∃ p d a s g, Claims.Ready s g (.mcas p d a) ∧
    Claims.EachActor s g (.mcas p d a) (fun m x => mcasWait s m x = none) ∧
    Claims.EachChecked s g (.mcas p d a) (fun m x => mcasFail s m x (mcasBefore (.mcas p d a) s m) = none) ∧
    actors s g (.mcas p d a) = [me] :=
  ⟨7, 6, 1, { bench [(64, 0x2000)] thr0 [] with mem := [(0x2000, 1), (0x2009, 0x30)] }, benchG [],
    ready_of rfl (by decide) (by decide),
    by unfold Claims.EachActor; decide, by unfold Claims.EachChecked; decide, by decide⟩

/-- A compare-and-swap of two words in two lines, with a pending return. -/
def mcas7 : Mcas :=
  { ctx := 1, part := 8192, warp := 4, words := [{ addr := 0x2000, exp := 0, new := 5 }, { addr := 0x2080, exp := 1, new := 6, idx := 1 }]
    want := [65], held := [64], first := some 0, ret := 8, reg := 4 }
def benchM (o : Mcas) (clk : Nat) : State :=
  { bench [] thr0 [] with mcas := [(7, o)], loads := [(8, { warp := 4, flag := 0, waits := [7], part := 8192 })], clk := clk, arg := { a := 7 } }

theorem wit_McasCompares : ∃ (s : State) (o : Mcas) (l : Nat), tblGet? s.mcas s.arg.a = some o ∧ mcasReady s s.arg.a o = true ∧
    o.want = [l] ∧ o.obs = false ∧
    (∀ w ∈ o.words, poisoned s w.addr 8 = false ∧ isCapacity (gpLocal w.addr) = false ∧ w.addr % 8 = 0) ∧
    o.words.Pairwise (fun v w => v.addr + 8 ≤ w.addr) ∧ isRedun s o.warp = false :=
  ⟨benchM mcas7 3600, mcas7, 65, by decide⟩

theorem wit_McasLocks_grant : ∃ (s : State) (o : Mcas) (l k : Nat) (t : List Nat), tblGet? s.mcas s.arg.a = some o ∧
    mcasReady s s.arg.a o = true ∧ o.want = l :: k :: t :=
  ⟨benchM { mcas7 with want := [64, 65], held := [], first := none } 0, { mcas7 with want := [64, 65], held := [], first := none }, 64, 65, [],
    by decide⟩

theorem wit_McasLocks_busy : ∃ (s : State) (o : Mcas) (t : Nat), tblGet? s.mcas s.arg.a = some o ∧ o.first = some t ∧ t + 3600 < s.clk ∧
    isRedun s o.warp = false :=
  ⟨benchM mcas7 3601, mcas7, 0, by decide⟩

theorem wit_AcquireLoads : ∃ i sc n s g, Claims.AcquireLoad i sc n ∧ Claims.Ready s g i ∧
    Claims.EachActor s g i (fun m x => acqHeld s m = false ∧ farHeld s m (Claims.atomVa x) = false ∧
      atomHeld s m (physOf (pageFor s m (Claims.atomVa x)) (Claims.atomVa x)) n = false ∧
      fillWait s m (Claims.atomVa x) n sc.toNat = none) ∧
    Claims.EachChecked s g i (fun m x => globalFail s m (Claims.atomVa x) n .load = none) ∧ actors s g i = [me] ∧ 2 ≤ sc.toNat ∧
    tagDenies (noted s g i) me (Claims.atomVa (sources s g i me)) = false :=
  ⟨_, _, _, bench [(64, 0x2000)] thr0 [], benchG [], .ldAcqB64 7 4 1 3,
    ready_of rfl (by decide) (by decide),
    by unfold Claims.EachActor; decide, by unfold Claims.EachChecked; decide, by decide⟩

theorem wit_ReleaseStores : ∃ i sc n s g, Claims.ReleaseStore i sc n ∧ Claims.Ready s g i ∧
    Claims.EachActor s g i (fun m _ => acqHeld s m = false) ∧
    Claims.EachChecked s g i (fun m x => storeFail s m (Claims.atomVa x) n
      (logBefore s i (fun y z => logUnits s y (Claims.atomVa z) n) m) = none) ∧ actors s g i = [me] :=
  ⟨_, _, _, bench [(64, 0x2000)] thr0 [], benchG [], .stRelB64 7 4 1 3,
    ready_of rfl (by decide) (by decide),
    by unfold Claims.EachActor; decide, by unfold Claims.EachChecked; decide, by decide⟩

theorem wit_FencesComplete : ∃ i sc acq rel s g, Claims.FenceForm i sc acq rel ∧ Claims.Ready s g i ∧
    Claims.EachActor s g i (fun m _ => acqHeld s m = false) ∧
    (rel = true ∨ sc = 0#3 → Claims.EachChecked s g i fun m _ => Claims.Released s m (max 1 sc.toNat)) ∧ actors s g i = [me] ∧
    acq = true ∧ 2 ≤ sc.toNat :=
  ⟨_, _, _, _, bench [] thr0 [], benchG [], .fenceSc 7 3,
    ready_of rfl (by decide) (by decide),
    by unfold Claims.EachActor; decide, by unfold Claims.EachChecked Claims.Released; decide, by decide⟩

theorem wit_FencesComplete_acquire : ∃ i sc s g, Claims.FenceForm i sc true false ∧ Claims.Ready s g i ∧
    Claims.EachActor s g i (fun m _ => acqHeld s m = false) ∧ sc ≠ 0#3 ∧
    (Claims.EachChecked s g i fun m _ => readsPending s m = false) ∧ actors s g i = [me] :=
  ⟨_, _, bench [] thr0 [], benchG [], .fenceAcq 7 3,
    ready_of rfl (by decide) (by decide),
    by unfold Claims.EachActor; decide, by decide, by unfold Claims.EachChecked; decide, by decide⟩

/-- The bench with a store of its core on its way. -/
def benchW (level : Nat) : State :=
  { bench [] thr0 [] with
    writes := [(6, { ctx := 1, warp := 4, part := 8192, level := level, addr := 0x2000, data := [1, 2, 3, 4] })] }

theorem wit_FenceWaits : ∃ i sc acq s g m, Claims.FenceForm i sc acq true ∧ Claims.Ready s g i ∧ actors s g i = [m] ∧
    (thrOf s m).helper = false ∧ present s m.warp m.lane = true ∧ releaseDone s m (max 1 (min sc.toNat 4)) (releaseMark s m) = false :=
  ⟨_, _, _, benchW 0, benchG [], me, .fenceRel 7 2,
    ready_of rfl (by decide) (by decide), by decide⟩

theorem wit_AcquireRemote : ∃ p a s g, Claims.Ready s g (.acqr p a) ∧
    Claims.EachActor s g (.acqr p a) (fun m x => acqrWait s m x = none) ∧
    Claims.EachChecked s g (.acqr p a) (fun m x => acqrFail s m x = none) ∧ actors s g (.acqr p a) = [me] ∧
    acqrVictim s me (sources s g (.acqr p a) me) = some 1 :=
  ⟨7, 1, { bench [(64, 1)] thr0 [] with
      parts := tblUpd (bench [] thr0 []).parts 8192 fun p => { p with ncores := 2 }
      lcores := [(16777216, { pcore := some 0 }), (16777217, { pcore := some 1 })] }, benchG [], ready_of rfl (by decide) (by decide),
    by unfold Claims.EachActor; decide, by unfold Claims.EachChecked; decide, by decide⟩

theorem wit_CodeAndConstantFences : ∃ p s g, Claims.Ready s g (.cfence p) ∧ Claims.Ready s g (.ifence p) ∧
    actors s g (.cfence p) = [me] ∧ actors s g (.ifence p) = [me] ∧ (tblGet? s.lcores 16777216).isSome = true :=
  ⟨7, bench [] thr0 [], benchG [], ready_of rfl (by decide) (by decide),
    ready_of rfl (by decide) (by decide), by decide⟩

theorem wit_ReturnsLand : ∃ (s : State) (l : PLoad), tblGet? s.loads s.arg.a = some l ∧ l.waits = [] ∧ isSaved s l.warp = false ∧
    l.fp = [] ∧ (∀ x ∈ l.writes, x.lane < 64) ∧ (warpOf s l.warp).lanes ≠ [] ∧ l.writes ≠ [] :=
  ⟨{ bench [] thr0 [] with loads := [(8, { warp := 4, flag := 0, writes := [⟨0, 4, 9⟩, ⟨0, 527, 5⟩], part := 8192 })], arg := { a := 8 } },
    { warp := 4, flag := 0, writes := [⟨0, 4, 9⟩, ⟨0, 527, 5⟩], part := 8192 }, by decide⟩

theorem wit_ReturnsLand_settled : ∃ (s : State) (w : Nat), liveThreads s (warpOf s w).wg ≠ [] ∧
    (∀ x ∈ (wgOfWarp s w).warps, (warpOf s x).lanes ≠ []) := ⟨bench [] thr0 [], 4, by decide⟩

theorem wit_WriteMoves : ∃ (s : State) (w : PWrite), tblGet? s.writes s.arg.a = some w ∧ mayMove s s.arg.a w = true ∧ nextLevel w < 4 :=
  ⟨{ benchW 0 with arg := { a := 6 } }, { ctx := 1, warp := 4, part := 8192, addr := 0x2000, data := [1, 2, 3, 4] }, by decide⟩

theorem wit_WriteMerges : ∃ (s : State) (w : PWrite), tblGet? s.writes s.arg.a = some w ∧ mayMove s s.arg.a w = true ∧ nextLevel w = 4 ∧
    unitProtected s w.addr w.data.length = false ∧ isOnChip (gpLocal w.addr) = false ∧ isCapacity (gpLocal w.addr) = false ∧
    (∀ k < w.data.length, isCapacity (gpLocal (w.addr + k)) = false ∧ channelLost s (w.addr + k) = false) :=
  ⟨{ benchW 3 with arg := { a := 6 } }, { ctx := 1, warp := 4, part := 8192, level := 3, addr := 0x2000, data := [1, 2, 3, 4] }, by decide⟩

/-- A scratchpad store on its way to its place of the on-chip map. -/
theorem wit_WriteMerges_scratch : ∃ (s : State) (w : PWrite), tblGet? s.writes s.arg.a = some w ∧ mayMove s s.arg.a w = true ∧
    nextLevel w = 4 ∧ unitProtected s w.addr w.data.length = false ∧ isOnChip (gpLocal w.addr) = true :=
  let w : PWrite := { ctx := 1, warp := 4, part := 8192, addr := scrAddr (bench [] thr0 []) 4 0, data := [1, 2, 3, 4], scr := true }
  ⟨{ bench [] thr0 [] with writes := [(6, w)], arg := { a := 6 } }, w, by decide⟩

theorem wit_Transfers : ∃ i target s g, Claims.Transfer i target ∧ Claims.Ready s g i ∧
    Claims.EachActor s g i (fun m x => ∀ t, target g (Claims.acts s g i) m x = some t → targetFail (noted s g i) m.warp t = none) ∧
    actors s g i = [me] ∧ target g (Claims.acts s g i) me (sources s g i me) = some 0x1010 := by
  refine ⟨_, _, bench [(64, 4)] thr0 [], benchG [], .call 7 2 1, ready_of rfl (by decide) (by decide), ?_, by decide⟩
  intro m hm t ht
  have h : m = me := by simpa using (by decide : ∀ m ∈ actors (bench [(64, 4)] thr0 []) (benchG []) (.call 7 2 1), m = me) m hm
  subst h
  have h : t = 0x1010 := by rw [← Option.some.injEq, ← ht]; decide
  subst h; decide

theorem wit_BadTargetTraps : ∃ (i : Instr) (target : Group → List (Member × Src) → Member → Src → Option Pair) (s : State) (g : Group)
    (m : Member) (t : Pair) (ws : List Word), Claims.Transfer i target ∧ Claims.Ready s g i ∧ actors s g i = [m] ∧
    (thrOf s m).helper = false ∧ target g (Claims.acts s g i) m (sources s g i m) = some t ∧
    fetchLine (noted s g i) m.warp t.toNat = .ok ws ∧ isHeader ws t.toNat = false :=
  ⟨_, _, bench [] thr0 [], benchG [], me, 0x1004, List.replicate 16 0, .bra 7 1, ready_of rfl (by decide) (by decide), by decide, by decide,
    by decide, rfl, by decide⟩

theorem wit_ClauseControl : ∃ s g, Claims.Ready s g (.exitT 7) ∧ Claims.Ready s g .convW ∧ actors s g (.exitT 7) = [me] :=
  ⟨bench [] thr0 [], benchG [], ready_of rfl (by decide) (by decide), ready_of rfl (by decide) (by decide), by decide⟩

theorem wit_ClauseControl_prefix : ∃ (s : State) (g : Group), curGroup? s = some g ∧ g.mem ≠ [] ∧ g.pos + 1 < groupInstrs g :=
  ⟨bench [] thr0 [0, 0], benchG [0, 0], rfl, by decide⟩

theorem wit_WindowBase : ∃ p a s g, Claims.Ready s g (.wbase p a) ∧
    Claims.EachChecked s g (.wbase p a) (fun m x => leadOf s (actors s g (.wbase p a)) m.warp = some m →
      (lo32 x.a).toNat % 32 = 0 ∧ (lo32 x.a).toNat < (warpOf s m.warp).nv - 4 * (warpOf s m.warp).nt) ∧
    actors s g (.wbase p a) = [me] :=
  let s := bench [(64, 32)] thr0 []
  ⟨7, 1, { s with warps := tblUpd s.warps 4 fun w => { w with nv := 64, nt := 1 } }, benchG [], ready_of rfl (by decide) (by decide),
    by unfold Claims.EachChecked; decide, by decide⟩

theorem wit_WindowBase_range : ∃ p a s g m, Claims.Ready s g (.wbase p a) ∧ actors s g (.wbase p a) = [m] ∧
    (thrOf s m).helper = false ∧ ¬ ((lo32 (sources s g (.wbase p a) m).a).toNat % 32 = 0 ∧
      (lo32 (sources s g (.wbase p a) m).a).toNat < (warpOf s m.warp).nv - 4 * (warpOf s m.warp).nt) :=
  ⟨7, 1, bench [(64, 32)] thr0 [], benchG [], me, ready_of rfl (by decide) (by decide), by decide⟩

theorem wit_WorkgroupBarriers : ∃ p d a s g, Claims.Ready s g (.bara p d a) ∧ Claims.Ready s g (.barw p d) ∧ Claims.Ready s g (.bar p) ∧
    Claims.EachActor s g (.bara p d a) (fun m _ => releaseWait s m 1 = none) ∧
    arriveFails (d.toNat % 16) (fun y => (lo32 (sources s g (.bara p d a) y).a).toNat) (actors s g (.bara p d a)) s = none ∧
    Claims.EachActor s g (.bar p) (fun m _ => pendingAt s m 0 = none → releaseWait s m 1 = none) ∧
    arriveFails 0 (fun _ => 0) ((actors s g (.bar p)).filter fun m => (pendingAt s m 0).isNone) s = none ∧
    actors s g (.bara p d a) = [me] ∧ ((actors s g (.bar p)).filter fun m => (pendingAt s m 0).isNone) = [me] :=
  ⟨7, 3, 1, bench [(64, 1024)] thr0 [], benchG [], ready_of rfl (by decide) (by decide), ready_of rfl (by decide) (by decide),
    ready_of rfl (by decide) (by decide), by unfold Claims.EachActor; decide, by decide,
    by unfold Claims.EachActor; decide, by decide, by decide⟩

/-- An arrival at its bounds: 1,024 is admitted at b3, 1,025 is not, nor 1 at b0. -/
theorem wit_WorkgroupBarriers_bounds : ∃ s m, (thrOf s m).helper = false ∧ arriveFails 3 (fun _ => 1024) [m] s = none ∧
    arriveFails 3 (fun _ => 1025) [m] s ≠ none ∧ arriveFails 0 (fun _ => 1) [m] s ≠ none :=
  ⟨bench [] thr0 [], me, by decide⟩

/-- A barrier at which the thread's first phase is open; where n arrivals are expected the phase completes with the nth. -/
def benchB (b : Barrier) : State :=
  let s := bench [] thr0 []
  { s with wgs := tblUpd s.wgs 3 fun w => { w with bars := [(3, b)] } }

theorem wit_WorkgroupBarriers_arrival : ∃ s n m, (tblGet? s.wgs (warpOf s m.warp).wg).isSome = true ∧
    Claims.Complete s (warpOf s m.warp).wg (Claims.arrived (barOf s m 3) (threadNo s m) n (thrOf s m).helper) ∧
    ¬ Claims.Complete s (warpOf s m.warp).wg (Claims.arrived (barOf s m 4) (threadNo s m) 2 (thrOf s m).helper) :=
  ⟨benchB {}, 1, me, by unfold Claims.Complete; decide⟩

theorem wit_BarrierWait : ∃ s g k p m, curGroup? s = some g ∧ present s m.warp m.lane = true ∧
    (tblGet? s.wgs (warpOf s m.warp).wg).isSome = true ∧ pendingAt s m k = some p ∧ (barOf s m k).phase ≤ p :=
  ⟨benchB { expect := 2, count := 1, pend := [(0, 0)] }, benchG [], 3, 0, me, rfl, by decide⟩

theorem wit_BarrierWait_over : ∃ s g k p m, curGroup? s = some g ∧ present s m.warp m.lane = true ∧
    (tblGet? s.wgs (warpOf s m.warp).wg).isSome = true ∧ pendingAt s m k = some p ∧ p < (barOf s m k).phase :=
  ⟨benchB { phase := 1, pend := [(0, 0)] }, benchG [], 3, 0, me, rfl, by decide⟩

theorem wit_BarrierObjects : ∃ p d a s g, Claims.Ready s g (.marrive p d a) ∧ Claims.Ready s g (.mwait p d a) ∧
    Claims.EachActor s g (.marrive p d a) (fun m x => acqHeld s m = false ∧ serialWait s m (Claims.atomVa x) = none) ∧
    Claims.EachChecked s g (.marrive p d a) (fun m x => objFail .store s m (Claims.atomVa x) = none ∧
      logFail s m (Claims.atomVa x) (logBefore s (.marrive p d a) (fun y z => logUnits s y (Claims.atomVa z) 16) m)
        (logUnits s m (Claims.atomVa x) 16) = none) ∧
    Claims.EachChecked s g (.mwait p d a) (fun m x => objFail .load s m (Claims.atomVa x) = none ∧
      blockWait s m ((List.range 3).map fun k => Claims.atomVa x + 8 * k) = none ∧
      objPhase s m (Claims.atomVa x) ≠ (lo64 x.d).toNat) ∧ actors s g (.marrive p d a) = [me] ∧ actors s g (.mwait p d a) = [me] ∧
    2 ≤ objScope (noted s g (.mwait p d a)) me (Claims.atomVa (sources s g (.mwait p d a) me)) :=
  ⟨7, 6, 1, { bench [(64, 0x2000), (384, 5)] thr0 [] with mem := [(0x2010, 3)] }, benchG [], ready_of rfl (by decide) (by decide),
    ready_of rfl (by decide) (by decide), by unfold Claims.EachActor; decide, by unfold Claims.EachChecked; decide,
    by unfold Claims.EachChecked; decide, by decide⟩

theorem wit_BarrierObjects_performed : ∃ (s : State) (a : Atom), tblGet? s.atoms s.arg.a = some a ∧ atomReady s s.arg.a a = true ∧
    a.kind = 2 ∧ a.size = 32 ∧ a.addr % 32 = 0 ∧ poisoned s a.addr 32 = false ∧ isCapacity (gpLocal a.addr) = false ∧
    isRedun s a.warp = false :=
  ⟨benchA { atom7 with kind := 2, size := 32 } [], { atom7 with kind := 2, size := 32 }, by decide⟩

theorem wit_SleepAndRetest : ∃ p a s g, Claims.Ready s g (.sleepT p a) ∧
    Claims.EachActor s g (.sleepT p a) (fun m x => (lo32 x.a).toNat = 0 ∧ (thrOf s m).wait = .none) ∧ actors s g (.sleepT p a) = [me] :=
  ⟨7, 1, bench [] thr0 [], benchG [], ready_of rfl (by decide) (by decide), by unfold Claims.EachActor; decide, by decide⟩

theorem wit_SleepAndRetest_over : ∃ p a s g, Claims.Ready s g (.sleepT p a) ∧ actors s g (.sleepT p a) = [me] ∧
    Claims.EachActor s g (.sleepT p a) (fun m _ => ∃ c, (thrOf s m).wait = .sleep c ∧ (thrOf s m).ready = true) :=
  ⟨7, 1, bench [(64, 1)] { thr0 with wait := .sleep 3, ready := true } [], benchG [], ready_of rfl (by decide) (by decide), by decide,
    eachActor_of (by decide) ⟨3, by decide⟩⟩

theorem wit_SleepAndRetest_sleeps : ∃ p a s g m, Claims.Ready s g (.sleepT p a) ∧ actors s g (.sleepT p a) = [m] ∧
    (thrOf s m).helper = false ∧ present s m.warp m.lane = true ∧ (thrOf s m).wait = .none ∧
    0 < (lo32 (sources s g (.sleepT p a) m).a).toNat :=
  ⟨7, 1, bench [(64, 1)] thr0 [], benchG [], me, ready_of rfl (by decide) (by decide), by decide⟩

theorem wit_SleepAndRetest_expiry : ∃ (s : State) (t : Thread) (c : Nat), tblGet? (warpOf s s.arg.a).lanes s.arg.b = some t ∧
    t.wait = .sleep c ∧ c ≤ s.clk ∧ t.ready = false ∧ t.stopped = false ∧ (warpOf s s.arg.a).halted = false :=
  ⟨{ bench [] { thr0 with wait := .sleep 3 } [] with clk := 3, arg := { a := 4 } }, { thr0 with wait := .sleep 3 }, 3, by decide⟩

theorem wit_SleepAndRetest_retest : ∃ (s : State) (t : Thread), tblGet? (warpOf s s.arg.a).lanes s.arg.b = some t ∧ t.wait ≠ .none ∧
    t.ready = false ∧ t.stopped = false ∧ (warpOf s s.arg.a).trapped = false ∧ (warpOf s s.arg.a).halted = false ∧
    waitOver s ⟨s.arg.b, s.arg.a⟩ = true :=
  ⟨{ bench [] { thr0 with wait := .held } [] with arg := { a := 4 } }, { thr0 with wait := .held }, by decide⟩

theorem wit_FullEmptyWords : ∃ (i : Instr) (need : Bool) (leave : Option Bool) (s : State) (g : Group), Claims.FullLoad i need leave ∧
    Claims.Ready s g i ∧ Claims.EachActor s g i (fun m _ => acqHeld s m = false) ∧
    Claims.EachChecked s g i (fun m x => scrLoadFail s m (lo32 x.a).toNat 4 = none) ∧ actors s g i = [me] :=
  ⟨_, _, _, bench [(64, 60)] thr0 [], benchG [], .ldfE 7 4 1, ready_of rfl (by decide) (by decide), by unfold Claims.EachActor; decide,
    by unfold Claims.EachChecked; decide, by decide⟩

theorem wit_FullEmptyWords_store : ∃ (i : Instr) (need : Bool) (s : State) (g : Group), Claims.FullStore i need ∧
    Claims.Ready s g i ∧ Claims.EachActor s g i (fun m _ => acqHeld s m = false ∧ (pastCompare s m = false → releaseWait s m 1 = none)) ∧
    Claims.EachChecked s g i (fun m x => scrFail s m (lo32 x.a).toNat 4 = none) ∧ actors s g i = [me] :=
  ⟨_, _, bench [(64, 60)] thr0 [], benchG [], .ste 7 4 1, ready_of rfl (by decide) (by decide), by unfold Claims.EachActor; decide,
    by unfold Claims.EachChecked; decide, by decide⟩

theorem wit_FullEmptyWords_word : ∃ (s : State) (m : Member) (x : Src), (thrOf s m).helper = false ∧
    (tblGet? s.wgs (warpOf s m.warp).wg).isSome = true ∧ (lo32 x.a).toNat % 4 = 0 ∧ wordFull s m (lo32 x.a).toNat = false :=
  ⟨bench [] thr0 [], me, { a := 60, t := thr0 }, by decide⟩

theorem wit_FullEmptyWords_full : ∃ (s : State) (m : Member) (x : Src), (thrOf s m).helper = false ∧
    (tblGet? s.wgs (warpOf s m.warp).wg).isSome = true ∧ (lo32 x.a).toNat % 4 = 0 ∧ wordFull s m (lo32 x.a).toNat = true :=
  let s := bench [] thr0 []
  ⟨{ s with wgs := tblUpd s.wgs 3 fun w => { w with full := [(15, 1)] } }, me, { a := 60, t := thr0 }, by decide⟩

/-- The bench for matrices: 64 registers with one tile, an operand buffer of two banks, bank 0 held, the shape of bf16 with N and K 16,
and record 5 of bf16 elements. -/
def benchX (vr : BMap 32) : State :=
  let s := benchR (BitVec.ofNat 256 (0x3000 + 64 * 2 ^ 64 + 16 * 2 ^ 96 + 256 * 2 ^ 128 + 0x11 * 2 ^ 176)) vr
  { s with wgs := tblUpd s.wgs 3 fun w => { w with k := { scratch := 64, opbanks := 2, accbanks := 1 }, banks := [(0, {})] }
           warps := tblUpd s.warps 4 fun w => { w with nv := 64, nt := 1, shape := 0x80101010 } }

theorem wit_ShapeGranted : ∃ p d a s g, Claims.Ready s g (.tshape p d a) ∧ actors s g (.tshape p d a) = [me] :=
  ⟨7, 4, 1, benchX [], benchG [], ready_of rfl (by decide) (by decide), by decide⟩

theorem wit_TileMove : ∃ (p : BitVec 3) (d a : BitVec 7) (s : State) (g : Group), Claims.Ready s g (.tmov p d a) ∧
    Claims.EachLead s g (.tmov p d a) (fun m x => d.toNat % 8 < (warpOf s m.warp).nt ∧ (lo32 x.a).toNat % 64 = 0 ∧
      (lo32 x.a).toNat + 1024 ≤ (khdrOfWarp s m.warp).opbanks * 4096 ∧
      (d.toNat / 8 % 2 = 1 → ∀ b ∈ (warpOf s m.warp).bad, let r := topReg (warpOf s m.warp) + 4 * (d.toNat % 8)
        b / 64 < r ∨ r + 4 ≤ b / 64)) ∧ actors s g (.tmov p d a) = [me] ∧
    (tblGet? s.warps 4).isSome = true ∧ (tblGet? s.wgs 3).isSome = true :=
  ⟨7, 8, 1, benchX [(64, 7168)], benchG [], ready_of rfl (by decide) (by decide), eachLead_of (by decide), by decide⟩

theorem wit_TileMove_image : ∃ img : List Byte, img.length = 1024 := ⟨List.replicate 1024 0, List.length_replicate⟩

theorem wit_MatrixIssues : ∃ i form d s g, Claims.MatrixForm i form d ∧ Claims.Ready s g i ∧
    Claims.EachLead s g i (fun m x => mmaFail form d s m x = none) ∧ actors s g i = [me] :=
  ⟨_, _, _, benchX [], benchG [], .mmaBf16 7 127 1 2, ready_of rfl (by decide) (by decide), eachLead_of (by decide), by decide⟩

set_option maxRecDepth 20000 in
theorem wit_MatrixIssues_tiles : ∃ p d a b s g, Claims.Ready s g (.tld p d a b) ∧ Claims.Ready s g (.tst p d a b) ∧
    Claims.EachLead s g (.tld p d a b) (fun m x => acqHeld s m = false ∧
      tileAllFail false (d.toNat % 8) (recSel (warpOf s m.warp) b) (x.a.extractLsb' 0 32).toInt (x.a.extractLsb' 32 32).toInt s m = none) ∧
    Claims.EachLead s g (.tst p d a b) (fun m x => acqHeld s m = false ∧
      tileAllFail true (d.toNat % 8) (recSel (warpOf s m.warp) b) (x.a.extractLsb' 0 32).toInt (x.a.extractLsb' 32 32).toInt s m = none) ∧
    actors s g (.tld p d a b) = [me] ∧ actors s g (.tst p d a b) = [me] ∧ (tblGet? s.warps me.warp).isSome = true :=
  ⟨7, 0, 2, 5, benchX [], benchG [], ready_of rfl (by decide) (by decide), ready_of rfl (by decide) (by decide),
    eachLead_of (by decide), eachLead_of (by decide), by decide⟩

theorem wit_MatrixKGroup : ∃ (s : State) (o : MatOp), tblGet? s.mats s.arg.a = some o ∧ matReady s s.arg.a = true ∧
    matMates s s.arg.a = [s.arg.a] ∧ o.kind = 0 ∧ o.dsel % 128 = 127 ∧ o.again = false ∧ ctlAcf o.ctl = false ∧
    (tblGet? (wgOf s o.hold).banks (ctlBank o.ctl)).isSome = true ∧ ctlCol o.ctl + shN o.shape ≤ 128 ∧ o.g + 1 < shK o.shape / 4 :=
  let o : MatOp := { wg := 3, warp := 4, dsel := 127, ctl := 0x70000000, shape := 0x80101010, members := [0], g := 2, hold := 3 }
  ⟨{ benchX [] with mats := [(7, o)], arg := { a := 7 } }, o, by decide⟩

theorem wit_BankHolding : ∃ p d a s g, Claims.Ready s g (.acalloc p d a) ∧ Claims.Ready s g (.acfree p a) ∧
    Claims.Ready s g (.acqry p d a) ∧
    Claims.EachLead s g (.acalloc p d a) (fun m x => grantWait s (warpOf s m.warp).wg ((lo32 x.a).toNat % 64) = none) ∧
    actors s g (.acalloc p d a) = [me] ∧ actors s g (.acfree p a) = [me] ∧ actors s g (.acqry p d a) = [me] :=
  ⟨7, 4, 1, benchX [], benchG [], ready_of rfl (by decide) (by decide), ready_of rfl (by decide) (by decide),
    ready_of rfl (by decide) (by decide), eachLead_of (by decide), by decide⟩

theorem wit_BankHolding_release : ∃ (s : State) (k : Bank), tblGet? (wgOf s s.arg.a).banks s.arg.b = some k ∧ k.freed = true ∧
    (∀ e ∈ s.mats, ¬ (e.2.kind = 0 ∧ ctlBank e.2.ctl = s.arg.b ∧ e.2.hold = s.arg.a)) :=
  let s := benchX []
  ⟨{ s with wgs := tblUpd s.wgs 3 fun w => { w with banks := [(0, { freed := true })] }, arg := { a := 3 } }, { freed := true }, by decide⟩

theorem wit_AccumulatorElements : ∃ p d a s g, Claims.Ready s g (.acrd p d a) ∧ Claims.Ready s g (.acwr p d a) ∧
    Claims.EachActor s g (.acrd p d a) (fun m x => bankBusy s m.warp (Claims.elemBank x) = false) ∧
    Claims.EachActor s g (.acwr p d a) (fun m x => bankBusy s m.warp (Claims.elemBank x) = false) ∧
    Claims.EachChecked s g (.acwr p d a) (fun m x => (Claims.reached s m.warp (Claims.elemBank x)).isSome = true) ∧
    actors s g (.acrd p d a) = [me] ∧ actors s g (.acwr p d a) = [me] :=
  ⟨7, 4, 1, benchX [(64, 2047)], benchG [], ready_of rfl (by decide) (by decide), ready_of rfl (by decide) (by decide),
    by unfold Claims.EachActor; decide, by unfold Claims.EachActor; decide, by unfold Claims.EachChecked; decide, by decide⟩

theorem wit_BankContents : ∃ p d a s g, Claims.Ready s g (.aczero p a) ∧ Claims.Ready s g (.acseed p d a) ∧ Claims.Ready s g (.accvt p d a) ∧
    Claims.EachLead s g (.aczero p a) (fun m x => bankBusy s m.warp (Claims.namedBank x) = false ∧
      (Claims.reached s m.warp (Claims.namedBank x)).isSome = true) ∧
    Claims.EachLead s g (.acseed p d a) (fun m x => bankBusy s m.warp (Claims.namedBank x) = false ∧
      (Claims.reached s m.warp (Claims.namedBank x)).isSome = true) ∧
    Claims.EachLead s g (.accvt p d a) (fun m x => bankBusy s m.warp (Claims.namedBank x) = false ∧ accvtFail d s m x = none) ∧
    actors s g (.aczero p a) = [me] ∧ actors s g (.acseed p d a) = [me] ∧ actors s g (.accvt p d a) = [me] :=
  ⟨7, 0, 1, benchX [], benchG [], ready_of rfl (by decide) (by decide), ready_of rfl (by decide) (by decide),
    ready_of rfl (by decide) (by decide), eachLead_of (by decide), eachLead_of (by decide), eachLead_of (by decide), by decide⟩

/-- The cells of n bytes of a number at an address, and a block of 64 bytes from numbers at offsets. -/
def cells (a n v : Nat) : List Host.Cell := (List.range n).filterMap fun k =>
  if v / 256 ^ k % 256 = 0 then none else some (a + k, BitVec.ofNat 8 (v / 256 ^ k))
def blk (l : List (Nat × Nat)) : List Byte := leBytes 64 ((l.map fun e => e.2 * 256 ^ e.1).sum)

/-- One row of four bytes from 0x4000 to 0x5000, on counter 0, with completion scope package. -/
def cpyBlk : List (Nat × Nat) := [(0, 0x40), (8, 0x4000), (0x10, 0x5000), (0x28, 4), (0x2C, 1)]

set_option maxRecDepth 20000 in
theorem wit_EngineCommands : ∃ i cmd s g m, Claims.Command i cmd ∧ Claims.ReadyOnce s g i m ∧
    blockWait s m ((List.range 8).map fun k => ((lo64 (sources s g i m).a).toNat + 8 * k) % 2 ^ 64) = none ∧
    cmdFail cmd s m (sources s g i m) = none ∧ (tblGet? s.ctxs (warpOf s m.warp).ctx).isSome = true :=
  ⟨_, _, { bench [(64, 0x2000)] thr0 [] with mem := cells 0x2000 64 ((cpyBlk.map fun e => e.2 * 256 ^ e.1).sum) }, benchG [], me, .cpy 7 4 1,
    ⟨rfl, by decide, by decide, by decide, by decide, by decide⟩, by decide, by decide, by decide⟩

theorem wit_UnbindCommand : ∃ (p : BitVec 3) (d a : BitVec 7) (s : State) (g : Group) (m : Member), Claims.ReadyOnce s g (.tunbind p d a) m ∧
    (khdrOfWarp s m.warp).isSealed = false ∧ (tblGet? s.ctxs (warpOf s m.warp).ctx).isSome = true ∧
    (lo32 (sources s g (.tunbind p d a) m).a).toNat / 65536 ∈ [4, 5, 6] ∧
    (timelineOf s (warpOf s m.warp).ctx ((lo32 (sources s g (.tunbind p d a) m).a).toNat / 4096 % 16)).mark + 1 < 2 ^ 64 :=
  ⟨7, 4, 1, bench [(64, 0x6FFFF)] thr0 [], benchG [], me, ⟨rfl, by decide, by decide, by decide, by decide, by decide⟩, by decide⟩

/-- The bench with engine operations; the event is about the first, number 7. -/
def op7 : EngOp := { ctx := 1, part := 8192, grid := 2, wg := 3, warp := 4, lcore := 16777216, num := 1, cscope := 4, addr := 0x2000 }
def benchO (l : Tbl EngOp) : State := { benchR (rec5 0x3000) [] with ops := l, arg := { a := 7 } }

theorem wit_SectorDelivered : ∃ (s : State) (o : EngOp), tblGet? s.ops s.arg.a = some o ∧ o.cmd = 0 ∧ opReady s o = true ∧
    Claims.UnitPasses s o (((Claims.sectorBytes o).map (Claims.streamSrc o)).flatMap cellAddrs)
      (((Claims.sectorBytes o).map (Claims.streamDst o)).flatMap cellAddrs) ∧ Claims.sectorBytes o = [0, 1, 2, 3] :=
  ⟨benchO [(7, { op7 with block := blk cpyBlk })], { op7 with block := blk cpyBlk }, by unfold Claims.UnitPasses; decide⟩

/-- One element of one word: row 0 of record 5, and 0x5000, by the index at 0x4000. -/
def gathBlk : List Byte := blk [(0, 0x40), (8, 0x4000), (0x10, 0x5000), (0x20, 1), (0x28, 1), (0x2C, 5)]

theorem wit_IndexedElements : ∃ (s v : State) (o q : EngOp), tblGet? s.ops s.arg.a = some o ∧ opReady s o = true ∧ idxBad s o = none ∧
    (trBound o.trec = 0 → inExtent o.trec (bInt o.block 0x24 4) (gathY s o) = true ∧
      inExtent o.trec (bInt o.block 0x24 4 + bNat o.block 0x28 4 - 1) (gathY s o) = true) ∧
    engDenied s o ((bNat o.block 0x08 8 + 4 * o.progress) % 2 ^ 64) = false ∧
    opFar s o ((bNat o.block 0x08 8 + 4 * o.progress) % 2 ^ 64) = false ∧ o.cmd = 1 ∧
    Claims.UnitPasses s o ((gathRec s o).flatMap cellAddrs) ((gathLin o).flatMap cellAddrs) ∧
    (∀ va ∈ (gathRec s o).flatMap cellAddrs, engDenied s o va = false) ∧
    tblGet? v.ops v.arg.a = some q ∧ opReady v q = true ∧ idxBad v q = none ∧ q.cmd = 2 ∧
    Claims.UnitPasses v q ((gathLin q).flatMap cellAddrs) ((gathRec v q).flatMap cellAddrs) ∧
    (∀ va ∈ (gathLin q).flatMap cellAddrs, engDenied v q va = false) :=
  ⟨benchO [(7, { op7 with cmd := 1, block := gathBlk, trec := rec5 0x3000 })], benchO [(7, { op7 with cmd := 2, block := gathBlk, trec := rec5 0x3000 })],
    { op7 with cmd := 1, block := gathBlk, trec := rec5 0x3000 }, { op7 with cmd := 2, block := gathBlk, trec := rec5 0x3000 },
    by unfold Claims.UnitPasses; decide⟩

/-- A rank of a collective of n ranks: an all-reduce of one word from 0x4000 to 0x5000 for group 9. -/
def collBlk (n rank count : Nat) : List Byte :=
  blk [(0, 0x40), (8, 0x4000), (0x10, 0x5000), (0x18, 9), (0x20, count), (0x24, n), (0x26, rank)]
def coll7 (n rank count : Nat) : EngOp := { op7 with cmd := 3, block := collBlk n rank count }

theorem wit_Collectives : ∃ (s : State) (o : EngOp), tblGet? s.ops s.arg.a = some o ∧ collReady s s.arg.a o = true ∧
    collMismatch (collMembers s o) = false ∧ collNarrow s (collMembers s o) = false :=
  ⟨benchO [(7, coll7 2 0 1), (8, coll7 2 1 1)], coll7 2 0 1, by decide⟩

theorem wit_Collectives_mismatch : ∃ (s : State) (o : EngOp), tblGet? s.ops s.arg.a = some o ∧ collReady s s.arg.a o = true ∧
    collMismatch (collMembers s o) = true :=
  ⟨benchO [(7, coll7 2 0 1), (8, coll7 2 1 2)], coll7 2 0 1, by decide⟩

/-- Two members that name one rank. -/
theorem wit_Collectives_oneRank : ∃ (s : State) (o : EngOp), tblGet? s.ops s.arg.a = some o ∧ collReady s s.arg.a o = true ∧
    collMismatch (collMembers s o) = true :=
  ⟨benchO [(7, coll7 2 0 1), (8, { coll7 2 0 1 with lane := 1 })], coll7 2 0 1, by decide⟩

theorem wit_Collectives_element : ∃ (s : State) (o : EngOp), tblGet? s.ops s.arg.a = some o ∧ o.cmd = 3 ∧ o.ranks ≠ [] ∧ opReady s o = true ∧
    collBad s o o.progress = none ∧
    (∀ e ∈ collReads o o.progress, ∀ va ∈ rankAddrs o.block (o.ranks.getD e.1 {}) e.2, opFar s (rankOp o (o.ranks.getD e.1 {})) va = false) ∧
    Claims.UnitPasses s o [] ((List.range (collSize o.block)).map fun j =>
      (bNat o.block 0x10 8 + collSize o.block * o.progress + j) % 2 ^ 64) :=
  let o := { coll7 1 0 1 with ranks := [{ src := 0x4000, part := 8192, lcore := 16777216, wg := 3 }] }
  ⟨benchO [(7, o)], o, by unfold Claims.UnitPasses; decide⟩

theorem wit_Binding : ∃ (s v : State) (o q : EngOp), tblGet? s.ops s.arg.a = some o ∧ bindReady s s.arg.a o = true ∧
    o.cmd = 4 ∧ tblGet? v.ops v.arg.a = some q ∧ bindReady v v.arg.a q = true ∧ q.cmd = 5 ∧
    (s.parts.filter fun e => e.1 / 8192 == o.ctx) ≠ [] ∧ ∀ e ∈ s.parts.filter fun e => e.1 / 8192 == o.ctx,
      let b := gpOf e.2.pkg (e.2.gazbase.toNat / 2 ^ 17 * 2 ^ 17 % 2 ^ 51) + 32 * 5
      isCapacity (gpLocal b) = false ∧ ∀ k < 32, channelLost s (b + k) = false :=
  ⟨benchO [(7, { op7 with cmd := 4, block := blk [(0, 0x40), (8, 5)] })], benchO [(7, { op7 with cmd := 5, block := blk [(8, 5)] })],
    { op7 with cmd := 4, block := blk [(0, 0x40), (8, 5)] }, { op7 with cmd := 5, block := blk [(8, 5)] }, by decide⟩

theorem wit_OperationCompletes_status : ∃ (s : State) (o : EngOp), tblGet? s.ops s.arg.a = some o ∧ opCompleteReady s s.arg.a o = true ∧
    o.complete = false ∧ o.listed = false ∧ statusFail s o = none :=
  ⟨benchO [(7, { op7 with ended := true })], { op7 with ended := true }, by decide⟩

theorem wit_OperationCompletes : ∃ (s : State) (o : EngOp), tblGet? s.ops s.arg.a = some o ∧ opCompleteReady s s.arg.a o = true ∧
    o.complete = true ∧ (tblGet? s.ctxs o.ctx).isSome = true ∧ o.num = (timelineOf s o.ctx o.ctr).value + 1 ∧
    (timelineOf s o.ctx o.ctr).doneOut = [] :=
  ⟨benchO [(7, { op7 with ended := true, complete := true })], { op7 with ended := true, complete := true }, by decide⟩

def num (l : List (Nat × Nat)) : Nat := (l.map fun e => e.2 * 256 ^ e.1).sum
/-- A packet of one block of one thread on counter 0, the header it names, and memory with both at 0x2000. -/
def packetNum : Nat := num [(0, 0x2080), (8, 1), (0xC, 1), (0x10, 1), (0x14, 1), (0x16, 1), (0x18, 1), (0x1D, 0x40)]
def headerNum : Nat := num [(0, 0x4B445059), (4, 1), (8, 32), (0xA, 16), (0x18, 0x1000)]
def packetMem : List Host.Cell := cells 0x2000 128 packetNum ++ cells 0x2080 64 headerNum
def packet (bad : Nat) : Packet := { addr := 0x2000, b := leBytes 128 (packetNum + bad), h := leBytes 64 headerNum }
def benchL (bad : Nat) : State :=
  { bench [(64, 0x2000)] thr0 [] with mem := cells 0x2000 128 (packetNum + bad) ++ cells 0x2080 64 headerNum }

set_option maxRecDepth 20000 in
theorem wit_Launches : ∃ i pod s g m p, Claims.LaunchForm i pod ∧ Claims.ReadyOnce s g i m ∧
    launchWait s m (sources s g i m) = none ∧ launchFail s m (sources s g i m) = none ∧
    (tblGet? s.ctxs (warpOf s m.warp).ctx).isSome = true ∧
    readPacket (memberReader (notedOnce s g i m) m) (lo64 (sources s g i m).a).toNat = .ok p ∧
    launchCause (launchTrace (notedOnce s g i m) m p) (warpOf s m.warp).ctx p pod (ctxOf (launchTrace (notedOnce s g i m) m p) (warpOf s m.warp).ctx).priv = none :=
  ⟨_, _, benchL 0, benchG [], me, packet 0, .launch 7 4 1, ⟨rfl, by decide, by decide, by decide, by decide, by decide⟩,
    by decide, by decide, by decide, by rfl, by decide⟩

set_option maxRecDepth 20000 in
/-- The same launch by `LAUNCHP`, which needs a completion scope of pod. -/
theorem wit_Launches_pod : ∃ s g m p, Claims.ReadyOnce s g (.launchp 7 4 1) m ∧
    launchWait s m (sources s g (.launchp 7 4 1) m) = none ∧ launchFail s m (sources s g (.launchp 7 4 1) m) = none ∧
    (tblGet? s.ctxs (warpOf s m.warp).ctx).isSome = true ∧
    readPacket (memberReader (notedOnce s g (.launchp 7 4 1) m) m) (lo64 (sources s g (.launchp 7 4 1) m).a).toNat = .ok p ∧
    launchCause (launchTrace (notedOnce s g (.launchp 7 4 1) m) m p) (warpOf s m.warp).ctx p true
      (ctxOf (launchTrace (notedOnce s g (.launchp 7 4 1) m) m p) (warpOf s m.warp).ctx).priv = none :=
  ⟨benchL (0x10 * 256 ^ 0x1D), benchG [], me, packet (0x10 * 256 ^ 0x1D), ⟨rfl, by decide, by decide, by decide, by decide, by decide⟩,
    by decide, by decide, by decide, by rfl, by decide⟩

set_option maxRecDepth 20000 in
/-- The same packet with a reserved bit of TCTL set. -/
theorem wit_Launches_refused : ∃ i pod s g m p c, Claims.LaunchForm i pod ∧ Claims.ReadyOnce s g i m ∧
    launchWait s m (sources s g i m) = none ∧ launchFail s m (sources s g i m) = none ∧
    (tblGet? s.ctxs (warpOf s m.warp).ctx).isSome = true ∧
    readPacket (memberReader (notedOnce s g i m) m) (lo64 (sources s g i m).a).toNat = .ok p ∧
    launchCause (launchTrace (notedOnce s g i m) m p) (warpOf s m.warp).ctx p pod (ctxOf (launchTrace (notedOnce s g i m) m p) (warpOf s m.warp).ctx).priv = some c :=
  ⟨_, _, benchL (0x80 * 256 ^ 0x1D), benchG [], me, packet (0x80 * 256 ^ 0x1D), .reservedField, .launch 7 4 1,
    ⟨rfl, by decide, by decide, by decide, by decide, by decide⟩, by decide, by decide, by decide, by rfl, by decide⟩

set_option maxRecDepth 20000 in
theorem wit_GridQuery : ∃ (p : BitVec 3) (d a : BitVec 7) (s : State) (g : Group) (m : Member), Claims.ReadyOnce s g (.gridq p d a) m ∧
    (lo64 (sources s g (.gridq p d a) m).d).toNat % 64 = 0 ∧
    (∀ k < 6, accessFail s m (((lo64 (sources s g (.gridq p d a) m).d).toNat + 64 * k) % 2 ^ 64) 64 .store = none) ∧
    logFail s m (lo64 (sources s g (.gridq p d a) m).d).toNat 0 ((List.range 48).map fun k =>
      logUnits s m (((lo64 (sources s g (.gridq p d a) m).d).toNat + 8 * k) % 2 ^ 64) 8).sum = none :=
  ⟨7, 4, 1, bench [(256, 0x2000)] thr0 [], benchG [], me, ⟨rfl, by decide, by decide, by decide, by decide, by decide⟩, by decide⟩

/-- The bench whose grid is number 1 of counter 0. -/
def benchC (g : Grid) (vr : BMap 32) : State := { bench vr thr0 [] with grids := [(2, g)] }
def grid2 : Grid := { ctx := 1, part := 8192, num := 1, started := [0], k := { v := 32 } }

theorem wit_Cancels_none : ∃ (p : BitVec 3) (d a : BitVec 7) (s : State) (g : Group) (m : Member), Claims.ReadyOnce s g (.cancel p d a) m ∧
    isDet s m.warp = false ∧ namedGrid? s m (sources s g (.cancel p d a) m) = none :=
  ⟨7, 4, 4, benchC grid2 [], benchG [], me, ⟨rfl, by decide, by decide, by decide, by decide, by decide⟩, by decide⟩

theorem wit_Cancels_complete : ∃ (p : BitVec 3) (d a : BitVec 7) (s : State) (g : Group) (m : Member) (n : Nat),
    Claims.ReadyOnce s g (.cancel p d a) m ∧ isDet s m.warp = false ∧
    namedGrid? s m (sources s g (.cancel p d a) m) = some n ∧ (gridOf s n).complete = true ∧ (gridOf s n).cancelTo = [] :=
  ⟨7, 4, 4, benchC { grid2 with complete := true } [(256, 1)], benchG [], me, 2, ⟨rfl, by decide, by decide, by decide, by decide, by decide⟩,
    by decide⟩

/-- A member whose `CANCEL` waited, and which every landing has acknowledged since. -/
theorem wit_Cancels_acknowledged : ∃ (p : BitVec 3) (d a : BitVec 7) (s : State) (g : Group) (m : Member) (n : Nat),
    Claims.ReadyOnce s g (.cancel p d a) m ∧ isDet s m.warp = false ∧ namedGrid? s m (sources s g (.cancel p d a) m) = some n ∧
    (∃ k, (thrOf s m).wait = .cancel k) ∧ (gridOf s n).cancelTo = [] :=
  ⟨7, 4, 4, { bench [(256, 1)] { thr0 with wait := .cancel 2, ready := true } [] with grids := [(2, { grid2 with cancelled := true })] }, benchG [],
    me, 2, ⟨rfl, by decide, by decide, by decide, by decide, by decide⟩, by decide, by decide, ⟨2, by decide⟩, by decide⟩

theorem wit_Cancels_running : ∃ (p : BitVec 3) (d a : BitVec 7) (s : State) (g : Group) (m : Member) (n : Nat),
    Claims.ReadyOnce s g (.cancel p d a) m ∧ isDet s m.warp = false ∧ (thrOf s m).wait = .none ∧
    namedGrid? s m (sources s g (.cancel p d a) m) = some n ∧ (gridOf s n).complete = false ∧ (gridOf s n).cancelled = false ∧
    actors s g (.cancel p d a) = [me] ∧ present s me.warp me.lane = true :=
  ⟨7, 4, 4, benchC grid2 [(256, 1)], benchG [], me, 2, ⟨rfl, by decide, by decide, by decide, by decide, by decide⟩, by decide⟩

theorem wit_EventQueues_empty : ∃ (p : BitVec 3) (d a : BitVec 7) (s : State) (g : Group) (m : Member), curGroup? s = some g ∧
    decider s (actors s g (.evpop p d a)) = some m ∧ isRedun s m.warp = false ∧ operandFail s (shapeOf (.evpop p d a)) m = none ∧
    destFails s (shapeOf (.evpop p d a)) (actors s g (.evpop p d a)) m = [] ∧
    (lcoreOf s (wgOfWarp s m.warp).lcore).ev = [] ∧ a.toNat % 2 = 1 :=
  ⟨7, 4, 1, bench [] thr0 [], benchG [], me, rfl, by decide⟩

theorem wit_EventQueues_pop : ∃ (p : BitVec 3) (d a : BitVec 7) (s : State) (g : Group) (m : Member) (r : EvRec) (t : List EvRec),
    curGroup? s = some g ∧ decider s (actors s g (.evpop p d a)) = some m ∧ isRedun s m.warp = false ∧
    operandFail s (shapeOf (.evpop p d a)) m = none ∧ destFails s (shapeOf (.evpop p d a)) (actors s g (.evpop p d a)) m = [] ∧
    (lcoreOf s (wgOfWarp s m.warp).lcore).ev = r :: t ∧
    (lcoreOf s (wgOfWarp s m.warp).lcore).evHeld = [] ∧ (tblGet? s.lcores (wgOfWarp s m.warp).lcore).isSome = true :=
  ⟨7, 4, 0, { bench [] thr0 [] with lcores := [(16777216, { pcore := some 0, ev := [{ kind := 2, value := 5 }] })] }, benchG [], me,
    { kind := 2, value := 5 }, [], rfl, by decide⟩

theorem wit_EventQueues_push : ∃ (p : BitVec 3) (d a : BitVec 7) (s : State) (g : Group) (m : Member), let i := Instr.evpush p d a
    curGroup? s = some g ∧ decider s (actors s g i) = some m ∧ isRedun s m.warp = false ∧ operandFail s (shapeOf i) m = none ∧
    (let x := sources s g i m
     let lk := placeLk (warpOf s m.warp).ctx ((lo32 x.a).toNat % 2 ^ 24)
     placeExists s (warpOf s m.warp).ctx ((lo32 x.a).toNat % 2 ^ 24) = true ∧
     releaseWait s m (levelOf (smallestScope (coreOfWarp s m.warp) (coreOfL s lk))) = none ∧
     (lcoreOf s lk).evHeld = [] ∧ (lcoreOf s lk).image = 0 ∧ (lcoreOf s lk).ev.length < 256 ∧ (tblGet? s.lcores lk).isSome = true) :=
  ⟨7, 4, 1, bench [] thr0 [], benchG [], me, rfl, by decide⟩

theorem wit_EventQueues_release : ∃ (p : BitVec 3) (d a : BitVec 7) (s : State) (g : Group) (m : Member), let i := Instr.taskrel p d a
    curGroup? s = some g ∧ decider s (actors s g i) = some m ∧ isRedun s m.warp = false ∧ operandFail s (shapeOf i) m = none ∧
    destFails s (shapeOf i) (actors s g i) m = [] ∧ releaseWait s m 1 = none :=
  ⟨7, 4, 1, bench [(64, 1)] thr0 [], benchG [], me, rfl, by decide⟩

theorem wit_Dealing : ∃ s : State, dealDue s s.arg.a s.arg.b s.arg.c = true ∧ Claims.RangesProper (gridOf s s.arg.a) :=
  ⟨{ benchC { grid2 with started := [], gx := 2, ranges := [(1000000, [(0, 2)])] } [] with arg := { a := 2, b := 1000000, c := 2000000 } },
    by unfold Claims.RangesProper; decide⟩

theorem wit_Dealing_cancel : ∃ (s : State) (g : Grid), tblGet? s.grids s.arg.a = some g ∧ s.arg.b ∈ g.cancelTo :=
  ⟨{ benchC { grid2 with cancelTo := [1000000] } [] with arg := { a := 2, b := 1000000 } }, { grid2 with cancelTo := [1000000] }, by decide⟩

theorem wit_Dealing_log : ∃ (s : State) (h : Nat), nextLog? s s.arg.a = some h ∧ logDue s s.arg.a = true :=
  let s := benchC { grid2 with k := { v := 32, det := true } } []
  ⟨{ s with wgs := tblUpd s.wgs 3 fun w => { w with done := true, logIx := some 0, log := [{ va := 0x2000, mask := 15, data := [1, 2, 3, 4] }] }
            arg := { a := 2 } }, 3, by decide⟩

theorem wit_Placement : ∃ s : State, (placement? s s.arg.a s.arg.b s.arg.c).isSome = true ∧ gridUnit (gridOf s s.arg.a) = 1 ∧
    (gridOf s s.arg.a).k.redun = 0 ∧ (gridOf s s.arg.a).k.seqentry = 0 ∧ (∀ e ∈ s.wgs, e.1 < s.nextId) ∧
    (gridOf s s.arg.a).k.det = false :=
  ⟨{ benchC { grid2 with started := [], ranges := [(3000000, [(0, 1)])] } [] with wgs := [], warps := [], groups := [], arg := { a := 2 } },
    by decide⟩

theorem wit_GridCompletes : ∃ (s : State) (g : Grid), tblGet? s.grids s.arg.a = some g ∧ completionDue s s.arg.a = true ∧
    (tblGet? s.ctxs g.ctx).isSome = true ∧ g.num = (timelineOf s g.ctx g.ctr).value + 1 ∧ (timelineOf s g.ctx g.ctr).doneOut = [] :=
  ⟨{ benchC { grid2 with retired := 1 } [] with wgs := [], warps := [], groups := [], arg := { a := 2 } }, { grid2 with retired := 1 }, by decide⟩

/-- A queue with one packet at its head: TAIL of its descriptor at 0x3000 is 1. -/
def queue1 : Queue := { ctx := 1, part := 8192, desc := 0x3000, ring := 0x2000 }
def benchQ : State :=
  let s := bench [] thr0 []
  { s with pkgs := tblUpd s.pkgs 0 fun p => { p with queues := [(1, queue1)] }
           mem := packetMem ++ [(0x3040, 1)], arg := { b := 1 } }

set_option maxRecDepth 20000 in
theorem wit_QueueWakes : ∃ (s : State) (q : Queue), tblGet? (pkgAt s s.arg.a).queues s.arg.b = some q ∧ wakeDue s s.arg.a s.arg.b = true ∧
    q.removing = false ∧ q.head + 1 = queueTail s q ∧ queueTail s q < 2 ^ 64 ∧
    headWaits (updPkg s s.arg.a fun p => { p with queues := tblUpd p.queues s.arg.b fun q => { q with tail := queueTail s q } }) s.arg.a s.arg.b
      { q with tail := queueTail s q } = false :=
  ⟨benchQ, queue1, by decide⟩

/-- A thread whose counter has reached its number, and one whose counter has not. -/
theorem wit_CounterWait : ∃ (p : BitVec 3) (d a : BitVec 7) (s v : State) (g : Group), Claims.Ready s g (.twait p d a) ∧
    Claims.Ready v g (.twait p d a) ∧ actors s g (.twait p d a) = [me] ∧ present s me.warp me.lane = true ∧ (thrOf s me).helper = false ∧
    (lo64 (sources s g (.twait p d a) me).a).toNat ≤ (timelineOf s (warpOf s me.warp).ctx (d.toNat % 16)).value ∧
    actors v g (.twait p d a) = [me] ∧ present v me.warp me.lane = true ∧ (thrOf v me).helper = false ∧
    ¬ (lo64 (sources v g (.twait p d a) me).a).toNat ≤ (timelineOf v (warpOf v me.warp).ctx (d.toNat % 16)).value :=
  ⟨7, 4, 2, bench [] thr0 [], bench [(128, 1)] thr0 [], benchG [], ready_of rfl (by decide) (by decide), ready_of rfl (by decide) (by decide),
    by decide⟩

theorem wit_CounterAndClock : ∃ (p : BitVec 3) (d a : BitVec 7) (s : State) (g : Group), Claims.Ready s g (.tread p d a) ∧
    Claims.Ready s g (.rdclk p d a) ∧ Claims.Ready s g (.rand p d) ∧
    (Claims.EachChecked s g (.rdclk p d a) fun m _ => isDet s m.warp = false) ∧
    (Claims.EachChecked s g (.rand p d) fun m _ => isDet s m.warp = false) ∧ (actors s g (.rand p d)).Nodup ∧
    actors s g (.rdclk p d a) = [me] ∧ actors s g (.rand p d) = [me] ∧ actors s g (.tread p d a) = [me] :=
  ⟨7, 4, 1, bench [] thr0 [], benchG [], ready_of rfl (by decide) (by decide), ready_of rfl (by decide) (by decide),
    ready_of rfl (by decide) (by decide), eachChecked_of (by decide) (by decide), eachChecked_of (by decide) (by decide), by decide⟩

theorem wit_SignalNumbers_done : ∃ (p : BitVec 3) (d a : BitVec 7) (s : State) (g : Group) (c : Nat), Claims.Ready s g (.tsignal p d a) ∧
    (∀ m ∈ actors s g (.tsignal p d a), (warpOf s m.warp).ctx = c) ∧ (actors s g (.tsignal p d a)).Nodup ∧ (tblGet? s.ctxs c).isSome = true ∧
    (timelineOf s c (a.toNat % 16)).mark + (nonHelpers s (actors s g (.tsignal p d a))).length < 2 ^ 64 ∧
    nonHelpers s (actors s g (.tsignal p d a)) = [me] ∧ signalDone (a.toNat / 16 % 8) s me = true ∧
    (timelineOf s c (a.toNat % 16)).value = (timelineOf s c (a.toNat % 16)).mark ∧ (timelineOf s c (a.toNat % 16)).doneOut = [] :=
  ⟨7, 4, 79, bench [] thr0 [], benchG [], 1, ready_of rfl (by decide) (by decide), by decide⟩

theorem wit_SignalNumbers_pending : ∃ (p : BitVec 3) (d a : BitVec 7) (s : State) (g : Group) (c : Nat), Claims.Ready s g (.tsignal p d a) ∧
    (∀ m ∈ actors s g (.tsignal p d a), (warpOf s m.warp).ctx = c) ∧ (actors s g (.tsignal p d a)).Nodup ∧ (tblGet? s.ctxs c).isSome = true ∧
    (timelineOf s c (a.toNat % 16)).mark + (nonHelpers s (actors s g (.tsignal p d a))).length < 2 ^ 64 ∧
    nonHelpers s (actors s g (.tsignal p d a)) = [me] ∧ signalDone (a.toNat / 16 % 8) s me = false :=
  ⟨7, 4, 79, benchW 0, benchG [], 1, ready_of rfl (by decide) (by decide), by decide⟩

theorem wit_RegisterReads : ∃ (p : BitVec 3) (d a : BitVec 7) (s : State) (g : Group), Claims.Ready s g (.csrr p d a) ∧
    (Claims.EachActor s g (.csrr p d a) fun m x => (lo32 x.a).toNat < 4096 ∧ Claims.RegisterOpen (lo32 x.a).toNat (isPriv s m.warp) false) ∧
    actors s g (.csrr p d a) = [me] :=
  ⟨7, 4, 1, bench [(64, 0x80)] thr0 [], benchG [], ready_of rfl (by decide) (by decide),
    eachActor_of (by decide) ⟨by decide, Claims.RegisterOpen.place⟩, by decide⟩

theorem wit_RegisterWrites : ∃ (p : BitVec 3) (d a : BitVec 7) (s : State) (g : Group), Claims.Ready s g (.csrw p d a) ∧
    (Claims.EachChecked s g (.csrw p d a) fun m x => csrwFail s m x = none) ∧
    (Claims.EachActor s g (.csrw p d a) fun _ x => lo32 x.a = 1#32) ∧ actors s g (.csrw p d a) = [me] :=
  ⟨7, 4, 1, bench [(64, 1), (256, 63)] thr0 [], benchG [], ready_of rfl (by decide) (by decide),
    eachChecked_of (by decide) (by decide), eachActor_of (by decide) (by decide), by decide⟩

theorem wit_RegisterWrites_warp : ∃ (p : BitVec 3) (d a : BitVec 7) (s : State) (g : Group), Claims.Ready s g (.csrw p d a) ∧
    (Claims.EachChecked s g (.csrw p d a) fun m x => csrwFail s m x = none) ∧
    (Claims.EachActor s g (.csrw p d a) fun _ x => lo32 x.a = BitVec.ofNat 32 17) ∧ actors s g (.csrw p d a) = [me] :=
  ⟨7, 4, 1, bench [(64, 0x11), (256, 63)] thr0 [], benchG [], ready_of rfl (by decide) (by decide),
    eachChecked_of (by decide) (by decide), eachActor_of (by decide) (by decide), by decide⟩

/-- The bench with a second context, number 2, that runs nothing; its CTXID is 1. -/
def bench2 (vr : BMap 32) : State :=
  let s := bench vr thr0 []
  { s with ctxs := s.ctxs ++ [(2, {})], parts := s.parts ++ [(16384, { ctxid := 1 })] }

theorem wit_RegisterWrites_context : ∃ (p : BitVec 3) (d a : BitVec 7) (s : State) (g : Group) (m : Member) (k n : Nat),
    Claims.Ready s g (.csrw p d a) ∧ (Claims.EachChecked s g (.csrw p d a) fun m x => csrwFail s m x = none) ∧
    actors s g (.csrw p d a) = [m] ∧ (thrOf s m).helper = false ∧ csrNum (sources s g (.csrw p d a) m) = n ∧
    csrPart? s m (sources s g (.csrw p d a) m) = some k ∧ n = 0x86 :=
  ⟨7, 4, 1, bench2 [(64, 0x2086), (256, 0x5006)], benchG [], me, 16384, 0x86, ready_of rfl (by decide) (by decide),
    eachChecked_of (by decide) (by decide), by decide⟩

/-- The bench whose context is not privileged. -/
def benchU : State := { bench [] thr0 [] with ctxs := [(1, {})] }

theorem wit_RegisterChecks : ∃ (s v : State) (m : Member) (x y z : Src) (k : Nat),
    csrTarget x ≠ 0 ∧ isPriv s m.warp = false ∧
    csrTarget y = 0 ∧ (lo32 y.a).toNat < 2 ^ 29 ∧ 0x80 ≤ csrNum y ∧ csrNum y ≤ 0x86 ∧
    csrFail true v m z = none ∧ csrPart? v m z = some k ∧ csrValueBad (csrNum z) (lo64 z.d).toNat = none ∧
    csrOfContext (csrNum z) = true ∧ csrNum z ≠ 0x12 ∧ ctxRunning v (k / 8192) = true :=
  ⟨benchU, bench [] thr0 [], me, { a := 0x1000 }, { a := 0x86 }, { a := 0x86 }, 8192, by decide⟩

theorem wit_RegisterChecks_open : ∃ (s : State) (m : Member) (x : Src), csrTarget x = 0 ∧ (lo32 x.a).toNat < 2 ^ 29 ∧
    Claims.RegisterOpen (csrNum x) (isPriv s m.warp) true := ⟨benchU, me, { a := 5 }, by decide, by decide, .own 5 _ _ (by decide)⟩

theorem wit_RegisterChecks_unassigned : ∃ x : Src, csrTarget x = 0 ∧ (lo32 x.a).toNat < 2 ^ 29 ∧
    ¬ ∃ w v, Claims.RegisterOpen (csrNum x) w v := by
  refine ⟨{ a := 0x0D }, by decide, by decide, ?_⟩
  rintro ⟨w, v, h⟩
  have e : csrNum { a := 0x0D } = 0x0D := by decide
  rw [e] at h
  cases h <;> omega

theorem wit_IdentitySet : ∃ (p : BitVec 3) (d a : BitVec 7) (s : State) (g : Group), Claims.Ready s g (.setid p d a) ∧ d.toNat % 2 = 1 ∧
    leadOf s (actors s g (.setid p d a)) 4 = some me ∧ Claims.leads s g (.setid p d a) = [(4, me)] :=
  ⟨7, 1, 1, bench [] thr0 [], benchG [], ready_of rfl (by decide) (by decide), by decide⟩

theorem wit_Invalidations : ∃ (p : BitVec 3) (d a : BitVec 7) (s : State) (g : Group), Claims.Ready s g (.tlbinv p d a) ∧
    Claims.Ready s g (.clrinv p d a) ∧ (Claims.EachChecked s g (.tlbinv p d a) fun m x => tlbFail s m x = none) ∧
    (Claims.EachChecked s g (.clrinv p d a) fun m x => clrFail s m x = none) ∧
    (∀ m ∈ actors s g (.tlbinv p d a), (thrOf s m).wait = .none) ∧ (∀ m ∈ actors s g (.clrinv p d a), (thrOf s m).wait = .none) ∧
    actors s g (.tlbinv p d a) = [me] ∧ actors s g (.clrinv p d a) = [me] ∧ accessesDone s s.nextId = true :=
  ⟨7, 4, 2, bench [(256, 1), (320, 1)] thr0 [], benchG [], ready_of rfl (by decide) (by decide), ready_of rfl (by decide) (by decide),
    eachChecked_of (by decide) (by decide), eachChecked_of (by decide) (by decide), by decide⟩

theorem wit_Invalidations_wait : ∃ (p : BitVec 3) (d a : BitVec 7) (s : State) (g : Group), Claims.Ready s g (.tlbinv p d a) ∧
    Claims.Ready s g (.clrinv p d a) ∧ (Claims.EachChecked s g (.tlbinv p d a) fun m x => tlbFail s m x = none) ∧
    (Claims.EachChecked s g (.clrinv p d a) fun m x => clrFail s m x = none) ∧
    (∀ m ∈ actors s g (.tlbinv p d a), (thrOf s m).wait = .none) ∧ (∀ m ∈ actors s g (.clrinv p d a), (thrOf s m).wait = .none) ∧
    actors s g (.tlbinv p d a) = [me] ∧ actors s g (.clrinv p d a) = [me] ∧ accessesDone s s.nextId = false ∧
    (thrOf s me).helper = false ∧ present s me.warp me.lane = true :=
  ⟨7, 4, 2, benchW 0, benchG [], ready_of rfl (by decide) (by decide), ready_of rfl (by decide) (by decide),
    eachChecked_of (by decide) (by decide), eachChecked_of (by decide) (by decide), by decide⟩

theorem wit_RoleRequests : ∃ (p : BitVec 3) (d a : BitVec 7) (s : State) (g : Group) (m : Member) (c : Nat), Claims.Ready s g (.bankrole p d a) ∧
    nonHelpers s (actors s g (.bankrole p d a)) = [m] ∧ roleFail s m (sources s g (.bankrole p d a) m) = none ∧
    ofPhysloc (lo32 (sources s g (.bankrole p d a) m).a).toNat = some c :=
  ⟨7, 4, 1, bench [(256, 0x31)] thr0 [], benchG [], me, 0, ready_of rfl (by decide) (by decide), by decide⟩

set_option exponentiation.threshold 600 in
theorem wit_RegisterEvents : ∃ s v : State, (tblGet? s.ctxs s.arg.a).isSome = true ∧ s.arg.b < 16 ∧ ctxRunning s s.arg.a = false ∧
    (tblGet? v.warps v.arg.a).isSome = true ∧ isPriv v v.arg.a = true ∧ v.arg.bits.extractLsb' 32 32 = 0#32 ∧ v.arg.b < 4 ∧
    (v.arg.bits.extractLsb' 0 64).toNat < 65536 :=
  ⟨{ bench [] thr0 [] with ctxs := [(1, { priv := true }), (2, {})], arg := { a := 2, b := 15 } },
    { bench [] thr0 [] with arg := { a := 4, b := 3 } }, by decide⟩

set_option exponentiation.threshold 600 in
theorem wit_RegisterEvents_refused : ∃ v : State, (tblGet? v.warps v.arg.a).isSome = true ∧ v.arg.b < 4 ∧
    65536 ≤ (v.arg.bits.extractLsb' 0 64).toNat :=
  ⟨{ bench [] thr0 [] with arg := { a := 4, b := 3, bits := 65536 } }, by decide⟩

theorem wit_UserTraps : ∃ (p : BitVec 3) (a : BitVec 7) (s : State) (g : Group), Claims.Ready s g (.trap p a) ∧
    Claims.leads s g (.trap p a) ≠ [] := ⟨7, 1, bench [(64, 5)] thr0 [], benchG [], ready_of rfl (by decide) (by decide), by decide⟩

theorem wit_UserTraps_unreplicated : ∀ w, isRedun (bench [(64, 5)] thr0 []) w = false := by
  intro w
  by_cases h : w = 4
  · subst h; decide
  · have : warpOf (bench [(64, 5)] thr0 []) w = default := by
      simp [warpOf, tblGet, tblGet?, bench, Ne.symm h]
    simp only [isRedun, khdrOfWarp, wgOfWarp, this]; decide

theorem wit_UserTraps_none : ∃ (p : BitVec 3) (a : BitVec 7) (s : State) (g : Group), Claims.Ready s g (.trap p a) ∧
    Claims.leads s g (.trap p a) = [] := ⟨0, 1, bench [(64, 5)] thr0 [], benchG [], ready_of rfl (by decide) (by decide), by decide⟩

/-- The bench whose part has a fault queue of 64 slots at 0x5000. -/
def benchF (held : List (FaultRec × Nat)) : State :=
  { bench [] thr0 [] with parts := [(8192, { ncores := 1, fqbase := 0x5006, held := held })], arg := { a := 1 } }

/-- A record finds room though one of another source is held. -/
theorem wit_TrapRecorded : ∃ (s : State) (w k b n : Nat) (r : FaultRec), (wgOfWarp s w).leader = 0 ∧ (tblGet? s.warps w).isSome = true ∧
    (tblGet? s.parts (partOfWarp s w)).isSome = true ∧ (tblGet? s.ctxs (partOfWarp s w / 8192)).isSome = true ∧ (partOf s k).held ≠ [] ∧
    (∀ e ∈ (partOf s k).held, sameSource e.1 r = false) ∧ faultQueue? (partOf s k) = some (b, n) ∧ r.pages = [] ∧
    faultFree s (partOf s k) ≠ 0 ∧ homeNat s b 8 + 1 < 2 ^ 64 ∧ Claims.PlainBytes s b 8 ∧
    Claims.PlainBytes s (b + 128 + 64 * (homeNat s b 8 % n)) 64 :=
  ⟨benchF [({ slot := 1 }, 0)], 4, 8192, 0x5000, 64, {}, by unfold Claims.PlainBytes; decide⟩

/-- One of whose source another is held; and one that finds the queue full. -/
theorem wit_TrapRecorded_held : ∃ (s v : State) (k : Nat) (r : FaultRec), (tblGet? s.parts k).isSome = true ∧
    (∃ e ∈ (partOf s k).held, sameSource e.1 r = true) ∧ (tblGet? v.parts k).isSome = true ∧ faultFree v (partOf v k) = 0 :=
  ⟨benchF [({}, 0)], { benchF [] with mem := [(0x5000, 64)] }, 8192, {}, by decide⟩

theorem wit_HeldRecords : ∃ (s : State) (b n : Nat) (r : FaultRec) (t : List (FaultRec × Nat)), (partOf s s.arg.a).held = (r, 0) :: t ∧
    faultFree s (partOf s s.arg.a) ≠ 0 ∧ faultQueue? (partOf s s.arg.a) = some (b, n) ∧ r.pages = [] ∧ 0 < (faultSlots r).length ∧
    (tblGet? s.parts s.arg.a).isSome = true ∧ homeNat s b 8 + 1 < 2 ^ 64 ∧
    Claims.PlainBytes s b 8 ∧ Claims.PlainBytes s (b + 8) 8 ∧ Claims.PlainBytes s (b + 128 + 64 * (homeNat s b 8 % n)) 64 :=
  ⟨{ benchF [({ seq := 1 }, 0)] with arg := { a := 8192 } }, 0x5000, 64, { seq := 1 }, [], by unfold Claims.PlainBytes; decide⟩

/-- A record of two slots of which one is written. -/
theorem wit_HeldRecords_rest : ∃ (s : State) (b n : Nat) (r : FaultRec) (i : Nat) (t : List (FaultRec × Nat)),
    (partOf s s.arg.a).held = (r, i) :: t ∧ faultQueue? (partOf s s.arg.a) = some (b, n) ∧ faultFree s (partOf s s.arg.a) ≠ 0 ∧
    (tblGet? s.parts s.arg.a).isSome = true ∧ i < (faultSlots r).length ∧ 0 < i :=
  ⟨{ benchF [({ pages := [0x1000] }, 1)] with arg := { a := 8192 } }, 0x5000, 64, { pages := [0x1000] }, 1, [], by decide⟩

/-- The bench with a second warp, trapped under SEQ 1; memory at 0x2000 answers it with ACTION 2 for lane 0. -/
def benchT : State :=
  let s := bench [(64, 0x2000)] thr0 []
  { s with warps := s.warps ++ [(5, { ctx := 1, wg := 3, idx := 1, lanes := [(0, { thr0 with stopped := true })], trapped := true, trapSeq := 1 })]
           parts := tblUpd s.parts 8192 fun p => { p with awaits := [(1, .warp 5)] }
           mem := [(0x2000, 1), (0x200A, 2), (0x2018, 1)] }

set_option maxRecDepth 20000 in
theorem wit_Resumes : ∃ (p : BitVec 3) (d a : BitVec 7) (s : State) (g : Group) (m : Member) (k w : Nat), Claims.Ready s g (.eret p d a) ∧
    actors s g (.eret p d a) = [m] ∧ (thrOf s m).helper = false ∧ eretWait s m (sources s g (.eret p d a) m) = none ∧
    eretFail s m (sources s g (.eret p d a) m) = none ∧
    (let b := readGlobal (noted s g (.eret p d a)) m (lo64 (sources s g (.eret p d a) m).a).toNat 32
     partByCtxid? s (partOf s (partOfWarp s m.warp)).pkg (bNat b 8 2) = some k ∧
     ((partOf s k).awaits.find? fun e => e.1 == bNat b 0 8) = some (bNat b 0 8, .warp w) ∧ isSaved s w = false ∧
     (wgOfWarp s w).leader = 0 ∧ bNat b 0x0A 1 = 2 ∧ bNat b 0x18 8 / 2 ^ 0 % 2 = 1 ∧ present s w 0 = true ∧ (warpOf s w).later = []) :=
  ⟨7, 4, 1, benchT, benchG [], me, 8192, 5, ready_of rfl (by decide) (by decide), by decide⟩

/-- The same with a trap of another thread behind the one that is answered. -/
def benchTL : State := { benchT with warps := tblUpd benchT.warps 5 fun w => { w with later := [{ cause := 15 }] } }

set_option maxRecDepth 20000 in
theorem wit_Resumes_later : ∃ (p : BitVec 3) (d a : BitVec 7) (s : State) (g : Group) (m : Member) (k w : Nat), Claims.Ready s g (.eret p d a) ∧
    actors s g (.eret p d a) = [m] ∧ (thrOf s m).helper = false ∧ eretWait s m (sources s g (.eret p d a) m) = none ∧
    eretFail s m (sources s g (.eret p d a) m) = none ∧
    (let b := readGlobal (noted s g (.eret p d a)) m (lo64 (sources s g (.eret p d a) m).a).toNat 32
     partByCtxid? s (partOf s (partOfWarp s m.warp)).pkg (bNat b 8 2) = some k ∧
     ((partOf s k).awaits.find? fun e => e.1 == bNat b 0 8) = some (bNat b 0 8, .warp w) ∧ isSaved s w = false ∧
     (wgOfWarp s w).leader = 0 ∧ bNat b 0x0A 1 ≤ 2 ∧ (warpOf s w).later ≠ []) :=
  ⟨7, 4, 1, benchTL, benchG [], me, 8192, 5, ready_of rfl (by decide) (by decide), by decide⟩

set_option maxRecDepth 20000 in
theorem wit_Resumes_unknown : ∃ (p : BitVec 3) (d a : BitVec 7) (s : State) (g : Group) (m : Member) (k : Nat), Claims.Ready s g (.eret p d a) ∧
    actors s g (.eret p d a) = [m] ∧ (thrOf s m).helper = false ∧ eretWait s m (sources s g (.eret p d a) m) = none ∧
    eretFail s m (sources s g (.eret p d a) m) = none ∧
    (let b := readGlobal (noted s g (.eret p d a)) m (lo64 (sources s g (.eret p d a) m).a).toNat 32
     partByCtxid? s (partOf s (partOfWarp s m.warp)).pkg (bNat b 8 2) = some k ∧
     ((partOf s k).awaits.find? fun e => e.1 == bNat b 0 8) = none) :=
  ⟨7, 4, 1, bench [(64, 0x2000)] thr0 [], benchG [], me, 8192, ready_of rfl (by decide) (by decide), by decide⟩

/-- The bench with context 2, its part 16384 under CTXID 1, and work of it: grid 12, holder 13 and warp 14 on physical core 1. -/
def benchK (p : Part) (w : Warp) (a : Nat) : State :=
  let s := bench [(64, BitVec.ofNat 32 a)] thr0 []
  { s with ctxs := s.ctxs ++ [(2, {})], parts := s.parts ++ [(16384, p)], lcores := s.lcores ++ [(33554432, { pcore := some 1 })]
           pcores := s.pcores ++ [(1, { owners := [16384] })], grids := s.grids ++ [(12, { ctx := 2, part := 16384, started := [0] })]
           wgs := s.wgs ++ [(13, { ctx := 2, grid := 12, lcore := 33554432, threads := 1, warps := [14] })], warps := s.warps ++ [(14, w)], nextId := 20 }
def part2 : Part := { ctxid := 1, ncores := 1 }
def warp14 : Warp := { ctx := 2, wg := 13, lanes := [(0, thr0)] }

theorem named_of {s : State} {g : Group} {i : Instr} {hi k : Nat} (h : Claims.Ready s g i) (h1 : actors s g i = [me] ∧
    (thrOf s me).helper = false ∧ ctxFail hi s me (sources s g i me) = none ∧ ctxPart? s me (sources s g i me) = some k) :
    Claims.ContextNamed s g i hi me k := ⟨h, h1.1, h1.2.1, h1.2.2.1, h1.2.2.2⟩

theorem wit_ContextStops_halt : ∃ (p : BitVec 3) (a : BitVec 7) (s t v : State) (g : Group) (m : Member) (k : Nat),
    Claims.ContextNamed s g (.halt p a) 16 m k ∧ (partOf (Claims.resting s g (.halt p a) m) k).frozen = true ∧
    Claims.ContextNamed t g (.halt p a) 16 m k ∧ (partOf (Claims.resting t g (.halt p a) m) k).saved = false ∧
      (partOf (Claims.resting t g (.halt p a) m) k).frozen = false ∧ partStopped (Claims.resting t g (.halt p a) m) k = true ∧
    Claims.ContextNamed v g (.halt p a) 16 m k ∧ (partOf (Claims.resting v g (.halt p a) m) k).saved = false ∧
      (partOf (Claims.resting v g (.halt p a) m) k).frozen = false ∧ partStopped (Claims.resting v g (.halt p a) m) k = false ∧
      partStopped (stopPart (Claims.resting v g (.halt p a) m) k) k = false :=
  ⟨7, 1, benchK { part2 with frozen := true } warp14 1, benchK { part2 with stopReq := true } { warp14 with halted := true } 1,
    benchK part2 warp14 1, benchG [], me, 16384, named_of (ready_of rfl (by decide) (by decide)) (by decide), by decide,
    named_of (ready_of rfl (by decide) (by decide)) (by decide), by decide, by decide, by decide,
    named_of (ready_of rfl (by decide) (by decide)) (by decide), by decide⟩

theorem wit_ContextStops_save : ∃ (p : BitVec 3) (d a : BitVec 7) (t v : State) (g : Group) (m : Member) (k : Nat),
    Claims.ContextNamed t g (.savectx p d a) 16 m k ∧ partStopped (Claims.resting t g (.savectx p d a) m) k = true ∧
      (partOf (Claims.resting t g (.savectx p d a) m) k).savebase = 0 ∧
    Claims.ContextNamed v g (.savectx p d a) 16 m k ∧ partStopped (Claims.resting v g (.savectx p d a) m) k = false ∧
      partStopped (stopPart (Claims.resting v g (.savectx p d a) m) k) k = false :=
  ⟨7, 4, 1, benchK { part2 with stopReq := true } { warp14 with halted := true } 1, benchK part2 warp14 1, benchG [], me, 16384,
    named_of (ready_of rfl (by decide) (by decide)) (by decide), by decide, by decide,
    named_of (ready_of rfl (by decide) (by decide)) (by decide), by decide⟩

/-- A save area at 0x10000 of 64 KiB: its size at 0x10008. The part has no work left. -/
def benchSave : State :=
  let s := bench [(64, 1)] thr0 []
  { benchK { part2 with stopReq := true, savebase := 0x10000 } warp14 1 with wgs := s.wgs, warps := s.warps, mem := [(0x1000A, 1)] }

set_option maxRecDepth 100000 in
theorem wit_ContextStops_saved : ∃ (p : BitVec 3) (d a : BitVec 7) (t : State) (g : Group) (m : Member) (k : Nat),
    Claims.ContextNamed t g (.savectx p d a) 16 m k ∧ (savePart (Claims.resting t g (.savectx p d a) m) k).2 ≠ 2 ^ 64 - 1 ∧
      (tblGet? t.parts k).isSome = true :=
  ⟨7, 4, 1, benchSave, benchG [], me, 16384, named_of (ready_of rfl (by decide) (by decide)) (by decide), by decide⟩

theorem wit_ContextStops_resume : ∃ (p : BitVec 3) (d a : BitVec 7) (t v : State) (g : Group) (m : Member) (k : Nat),
    Claims.ContextNamed t g (.restctx p d a) 17 m k ∧ (lo32 (sources t g (.restctx p d a) m).a).toNat < 65536 ∧
      (partOf (Claims.resting t g (.restctx p d a) m) k).frozenDies = [] ∧ (partOf (Claims.resting t g (.restctx p d a) m) k).frozen = true ∧
    Claims.ContextNamed v g (.restctx p d a) 17 m k ∧ (lo32 (sources v g (.restctx p d a) m).a).toNat < 65536 ∧
      (partOf (Claims.resting v g (.restctx p d a) m) k).frozenDies = [] ∧ (partOf (Claims.resting v g (.restctx p d a) m) k).frozen = false :=
  ⟨7, 4, 1, benchK { part2 with frozen := true } warp14 1, benchK part2 warp14 1, benchG [], me, 16384,
    named_of (ready_of rfl (by decide) (by decide)) (by decide), by decide, by decide, by decide,
    named_of (ready_of rfl (by decide) (by decide)) (by decide), by decide⟩

/-- An empty image of version 1 at 0x10000, and a part without work. -/
def benchRest : State :=
  { benchK { part2 with savebase := 0x10000 } { warp14 with lanes := [] } 65537 with
    wgs := (bench [] thr0 []).wgs, warps := (bench [(64, 65537)] thr0 []).warps, mem := [(0x10000, 1)] }

set_option maxRecDepth 400000 in
theorem wit_ContextStops_enter : ∃ (p : BitVec 3) (d a : BitVec 7) (t v : State) (g : Group) (m : Member) (k : Nat),
    Claims.ContextNamed t g (.restctx p d a) 17 m k ∧ 65536 ≤ (lo32 (sources t g (.restctx p d a) m).a).toNat ∧
      (let u := Claims.resting t g (.restctx p d a) m
       (partOf u k).savebase ≠ 0 ∧ (partOf u k).frozen = false ∧ (partOf u k).frozenDies = [] ∧ (partOf u k).stopReq = false ∧
       partVacant u k = true ∧ areaOk u k = true) ∧
    Claims.ContextNamed v g (.restctx p d a) 17 m k ∧ 65536 ≤ (lo32 (sources v g (.restctx p d a) m).a).toNat ∧
      (partOf (Claims.resting v g (.restctx p d a) m) k).savebase = 0 :=
  ⟨7, 4, 1, benchRest, benchK part2 warp14 65537, benchG [], me, 16384, named_of (ready_of rfl (by decide) (by decide)) (by decide),
    by decide, by decide, named_of (ready_of rfl (by decide) (by decide)) (by decide), by decide⟩

/-- The bench's warp changed, at a clock value, with the event about warp 4. -/
def benchV (f : Warp → Warp) (clk : Nat) : State :=
  let s := bench [] thr0 []
  { s with warps := tblUpd s.warps 4 f, clk := clk, arg := { a := 4 } }

theorem wit_WarpStops : ∃ (s : State) (a : Ahead), (warpOf s s.arg.a).ahead = some a ∧ (wgOfWarp s s.arg.a).leader = 0 ∧
    aheadEnded s a = true ∧ (tblGet? s.parts (partOfWarp s s.arg.a)).isSome = true ∧
    (tblGet? s.ctxs (partOfWarp s s.arg.a / 8192)).isSome = true :=
  let a : Ahead := { pages := [0x200000], finished := true }
  ⟨benchV (fun w => { w with ahead := some a }) 0, a, by decide⟩

theorem wit_WarpStops_window : ∃ s : State, windowDue s s.arg.a = true ∧ (wgOfWarp s s.arg.a).leader = 0 ∧
    (wgOfWarp s s.arg.a).discard = false ∧ present s s.arg.a 0 = true := ⟨benchV (fun w => { w with stopAt := some 0 }) 0, by decide⟩

theorem wit_WarpStops_stopped : ∃ s : State, stoppedDue s s.arg.a = true ∧ isRedun s s.arg.a = false :=
  ⟨benchV (fun w => { w with stopAt := some 0, stopNow := true, lanes := [(0, { thr0 with stopped := true })] }) 0, by decide⟩

/-- Replicas of warp 4, in holders 3, 23 and 33, with a vote each; the event about warp 4. -/
def repl (n lead id : Nat) (red : Nat) : Wg :=
  { ctx := 1, grid := 2, lcore := 16777216, threads := 1, warps := [id], k := { redun := red }, replica := n, leader := lead }
def benchP (red : Nat) (f g h : Warp → Warp) : State :=
  { bench [] thr0 [] with
    wgs := [(3, repl 0 3 4 red), (23, repl 1 3 24 red)] ++ if red = 2 then [(33, repl 2 3 34 red)] else []
    warps := [(4, f { ctx := 1, wg := 3, lanes := [(0, thr0)] }), (24, g { ctx := 1, wg := 23, lanes := [(0, thr0)] })] ++
      if red = 2 then [(34, h { ctx := 1, wg := 33, lanes := [(0, thr0)] })] else []
    clk := 12288, groups := [], arg := { a := 4 } }

theorem wit_WarpStops_compared : ∃ s : State, stoppedDue s s.arg.a = true ∧ stopCompareDue s s.arg.a = true :=
  let f (w : Warp) : Warp := { w with stopAt := some 0, lanes := [(0, { thr0 with stopped := true })] }
  ⟨benchP 1 f f f, by decide⟩

theorem wit_PartitionStalls : ∃ (s : State) (k : Nat), partAt? s s.arg.a (s.arg.b / 4) = some k ∧ stallDue s k (s.arg.b % 4) = true ∧
    (tblGet? s.ctxs (k / 8192)).isSome = true :=
  ⟨{ bench [] thr0 [] with clk := 2 ^ 26, arg := { a := 1 } }, 8192, by decide⟩

/-- A bulk holder on a reserved core, and a grid of latency class whose block fits no core of its context. -/
def benchD (vac halt : Bool) : State :=
  let s := bench [] thr0 []
  { s with pkgs := tblUpd s.pkgs 0 fun p => { p with reserved := [0] }
           parts := tblUpd s.parts 8192 fun p => { p with savebase := 0x10000 }
           pcores := [(0, { owners := [8192], vacating := vac })]
           warps := (List.range 4).map fun i =>
             (30 + i, { ctx := 1, wg := 3, idx := i, slot := 24 * i, pslot := 24 * i, nv := 512, halted := halt, lanes := [(0, thr0)] })
           wgs := [(3, { ctx := 1, grid := 2, lcore := 16777216, threads := 256, warps := (List.range 4).map (30 + ·), k := { v := 512 } })]
           grids := s.grids ++ [(12, { ctx := 1, part := 8192, num := 2, latency := true, k := { v := 32 }, ranges := [(3000000, [(0, 1)])] })]
           groups := [], nextId := 200 }

set_option maxRecDepth 20000 in
theorem wit_CoresMoved : ∃ s t v : State, (pcoreAt s s.arg.a).vacating = false ∧ vacateDue s s.arg.a = true ∧
    (pcoreAt t t.arg.a).vacating = true ∧ allHalted t (holderWarps t (vacateHolders t t.arg.a)) = true ∧
    (pcoreAt v v.arg.a).vacating = true ∧ allHalted v (holderWarps v (vacateHolders v v.arg.a)) = false ∧
    (∃ w ∈ holderWarps v (vacateHolders v v.arg.a), (warpOf v w).stopAt = none) :=
  ⟨benchD false false, benchD true true, benchD true false, by decide, by decide, by decide, by decide, by decide, by decide, by decide⟩

theorem wit_CoresMoved_placed : ∃ s : State, (lcorePlaced? s s.arg.a s.arg.b).isSome = true :=
  ⟨{ bench [] thr0 [] with lcores := [(16777216, { waiting := true })], wgs := [], warps := [], groups := [], arg := { a := 16777216 } }, by decide⟩

theorem wit_RolesAndRotation : ∃ (s : State) (e : BitVec 2 × Bool), tblGet? (pcoreAt s s.arg.a).pend s.arg.b = some e ∧
    tblGet? (pcoreAt s s.arg.a).bank s.arg.b = none ∧ bmGet (pcoreAt s s.arg.a).role s.arg.b = 0 ∧ l1Dirty s s.arg.a = false :=
  ⟨{ bench [] thr0 [] with pcores := [(0, { owners := [8192], pend := [(63, (2, true))] })], arg := { b := 63 } }, (2, true), by decide⟩

theorem wit_RolesAndRotation_point : ∃ (s t : State) (k j : Quarter) (a w : Nat), s.arg.a < 2 ^ 32 ∧
    tblGet? (pcoreAt s (s.arg.a / 4)).qs (s.arg.a % 4) = some k ∧ k.rotAt + 3072 ≤ s.clk ∧
    k.since = [a] ∧ (k.pend.find? fun w => warpReady s w) = some w ∧
    tblGet? (pcoreAt t (t.arg.a / 4)).qs (t.arg.a % 4) = some j ∧ j.rotAt + 3072 ≤ t.clk ∧ (j.pend.find? fun w => warpReady t w) = none :=
  ⟨{ bench [] thr0 [] with pcores := [(0, { qs := [(0, { active := [8], since := [8], pend := [4] })] })], groups := [], clk := 3072 },
    { bench [] thr0 [] with pcores := [(0, { qs := [(0, { active := [4], since := [4] })] })], groups := [], clk := 3072 },
    { active := [8], since := [8], pend := [4] }, { active := [4], since := [4] }, 8, 4, by decide⟩

/-- A warp that is ready at the clause of NOP at 0x1000 (words of zeros hold LEN 0: one body word). -/
def benchI : State := { bench [] thr0 [] with pcores := [(0, { owners := [8192], qs := [(0, { active := [4], since := [4] })] })], groups := [] }

set_option maxRecDepth 20000 in
theorem wit_ClauseStarts : ∃ (s : State) (c : Clause) (m : Member),
    (let q := s.arg.a
     let s1 := if 2 ^ 32 ≤ q then s else updQuarter s q fun k => exchange s 8 k
     let s2 := if 2 ^ 32 ≤ q then s1 else updQuarter s1 q fun k => { k with rotPick := false }
     let ms := gather s2 (slotReady s1 q) m
     issueDue s q = true ∧ leadMember s1 q (slotReady s1 q) = some m ∧ (slotReady s1 q).Nodup ∧ ms ≠ [] ∧ (thrOf s m).gid = 0 ∧
     (∀ n ∈ ms, (match clauseAt s2 n.warp (thrOf s2 n).pc with | .ok x => decide (x = c) | .error _ => false) = true ∧
       badPlace s2 n.warp (thrOf s2 n).pc = false ∧ stopsHere s2 c n = false ∧
       entryBad (pkgAt s2 (pcPkg (keyCore q))).full (isPriv s2 n.warp) c = none)) :=
  ⟨benchI, clauseOf (List.replicate 16 0) 0x1000, me, by decide⟩

set_option maxRecDepth 20000 in
/-- A group that was deferred as one. -/
theorem wit_ClauseStarts_group : ∃ (s : State) (m : Member),
    (let q := s.arg.a
     let s1 := if 2 ^ 32 ≤ q then s else updQuarter s q fun k => exchange s 8 k
     let s2 := if 2 ^ 32 ≤ q then s1 else updQuarter s1 q fun k => { k with rotPick := false }
     issueDue s q = true ∧ leadMember s1 q (slotReady s1 q) = some m ∧ (slotReady s1 q).Nodup ∧ gather s2 (slotReady s1 q) m ≠ [] ∧
     (thrOf s m).gid ≠ 0) :=
  ⟨{ benchI with warps := tblUpd benchI.warps 4 fun w => { w with lanes := [(0, { thr0 with gid := 9 })] } }, me, by decide⟩

theorem wit_ClauseTraps : ∃ (s : State) (m : Member) (e : Cause), e ≠ .pageFault ∧
    clauseAt s m.warp (thrOf s m).pc = .error e :=
  ⟨{ benchI with parts := [(8192, { ncores := 1, tlb := [{ size := 0x200000, rd := true }] })] }, me, .access, by decide, rfl⟩

theorem wit_ClauseTraps_place : ∃ (s : State) (m : Member) (c : Clause), clauseAt s m.warp (thrOf s m).pc = .ok c ∧
    badPlace s m.warp (thrOf s m).pc = true :=
  ⟨bench [] { thr0 with pc := 0x1004 } [], me, clauseOf (List.replicate 16 0) 0x1004, rfl, by decide⟩

theorem wit_ClauseTraps_entry : ∃ (s : State) (m : Member) (c : Clause), clauseAt s m.warp (thrOf s m).pc = .ok c ∧
    badPlace s m.warp (thrOf s m).pc = false ∧ (entryBad (pkgAt s (pcPkg (keyCore 0))).full (isPriv s m.warp) c).isSome = true :=
  ⟨{ benchI with mem := [(0x1007, 0xFC)] }, me, clauseOf (0 :: 0xFC000000 :: List.replicate 14 0) 0x1000, rfl, by decide⟩

/-- The bench's context under checkpoints: a descriptor at 0x6000 whose area is 1 MiB of the capacity tier with an empty ring, and whose
snapshot buffer is 64 KiB at 0x20000. -/
def benchCk (c : Ckpt) (f : Part → Part) : State :=
  let s := bench [(64, 0)] thr0 []
  { s with ctxs := [(1, { priv := true, ckpt := some c })]
           parts := tblUpd s.parts 8192 fun p => f { p with desc := 0x6000, savebase := 0x10000, ptbase := 0x8000 }
           pkgs := tblUpd s.pkgs 0 fun p => { p with lpddr := 2 ^ 30, keys := [(1, List.replicate 64 1)] }
           mem := [(0x6005, 0x10), (0x600A, 0x10), (0x6014, 2), (0x6018, 1), (0x6022, 2), (0x602A, 1)] ++ tables, arg := { a := 1 } }
where
  /-- Five levels of page tables from 0x8000 on, each with its first entry, that map the 4 KiB at 0x30000 for writing. -/
  tables : List Host.Cell := [(0x8000, 1), (0x8001, 0xA0), (0xA000, 1), (0xA001, 0xC0), (0xC000, 1), (0xC001, 0xE0),
    (0xE000, 1), (0xE002, 1), (0x10000, 0x0F), (0x10002, 3)]

theorem wit_CutsBegin : ∃ (s v : State) (t u : Nat), (ckptOf s s.arg.a).due = some t ∧ t ≤ s.clk ∧
    (∀ k ∈ partsOfCtx s s.arg.a, (partOf s k).idle = false) ∧ (ckptOf s s.arg.a).phase ≠ 0 ∧
    (ckptOf v v.arg.a).due = some u ∧ u ≤ v.clk ∧ (∀ k ∈ partsOfCtx v v.arg.a, (partOf v k).idle = false) ∧ (ckptOf v v.arg.a).phase = 0 :=
  ⟨benchCk { due := some 0, phase := 2 } id, benchCk { due := some 0 } id, 0, 0, by decide⟩

theorem wit_CutsBegin_request : ∃ (p : BitVec 3) (d a : BitVec 7) (s : State) (g : Group) (m : Member) (c : Ckpt),
    Claims.Ready s g (.ckpt p d a) ∧ actors s g (.ckpt p d a) = [m] ∧ (thrOf s m).helper = false ∧
    (lo32 (sources s g (.ckpt p d a) m).a).toNat < 16 ∧ (partOf s (partOfWarp s m.warp)).desc ≠ 0 ∧
    (ctxOf s (warpOf s m.warp).ctx).ckpt = some c ∧
    (timelineOf s (warpOf s m.warp).ctx (lo32 (sources s g (.ckpt p d a) m).a).toNat).mark + 1 < 2 ^ 64 :=
  ⟨7, 4, 1, benchCk {} id, benchG [], me, {}, ready_of rfl (by decide) (by decide), by decide⟩

/-- A cut at its instant: no warp of the context runs. -/
def benchInstant : State :=
  { benchCk { cut := 1, phase := 1 } (fun p => { p with stopReq := true }) with warps := [], wgs := [], groups := [] }

set_option maxRecDepth 100000 in
theorem wit_CutsProceed_instant : ∃ (s v : State) (k : Nat), instantDue s s.arg.a = true ∧ surveyed s s.arg.a = [k] ∧
    snapPart { s with snaps := tblSet s.snaps (2 * s.arg.a + 1) (snapTables s s.arg.a) } k = .ok v ∧
    (ckptOf v s.arg.a).phase = 1 ∧ (ckptOf v s.arg.a).cut = (ckptOf s s.arg.a).cut := by
  have h : ∃ v, snapPart { benchInstant with snaps := tblSet benchInstant.snaps 3 (snapTables benchInstant 1) } 8192 = .ok v ∧
      (ckptOf v 1).phase = 1 ∧ (ckptOf v 1).cut = 1 := ⟨_, rfl, by decide, by decide⟩
  obtain ⟨v, h⟩ := h
  exact ⟨benchInstant, v, 8192, by decide, by decide, h⟩

set_option maxRecDepth 100000 in
theorem wit_CutsProceed_record : ∃ (s v t : State) (k : Nat) (e f : Nat × Nat) (c : Cause), (ckptOf s s.arg.a).phase = 2 ∧
    nextRecord? s s.arg.a = some (k, some e) ∧ appendRecord s k (unitRecord s k (ckptOf s s.arg.a).cut e) = .ok v ∧
    (ckptOf t t.arg.a).phase = 2 ∧ nextRecord? t t.arg.a = some (k, some f) ∧
    appendRecord t k (unitRecord t k (ckptOf t t.arg.a).cut f) = .error c := by
  have h : ∃ v, appendRecord (benchCk { cut := 1, phase := 2 } fun p => { p with todo := [(1, 0)] }) 8192
      (unitRecord (benchCk { cut := 1, phase := 2 } fun p => { p with todo := [(1, 0)] }) 8192 1 (1, 0)) = .ok v := ⟨_, rfl⟩
  obtain ⟨v, h⟩ := h
  exact ⟨benchCk { cut := 1, phase := 2 } fun p => { p with todo := [(1, 0)] }, v,
    { benchCk { cut := 1, phase := 2 } fun p => { p with todo := [(1, 0)] } with pkgs := [(0, {})] }, 8192, (1, 0), (1, 0), .access,
    by decide, by decide, h, by decide, by decide, rfl⟩

theorem wit_CutsProceed_manifest : ∃ (s : State) (k : Nat), (ckptOf s s.arg.a).phase = 2 ∧ nextRecord? s s.arg.a = some (k, none) :=
  ⟨benchCk { cut := 1, phase := 2 } id, 8192, by decide⟩

theorem wit_CutsProceed_durable : ∃ (s : State) (c : Ckpt), (ctxOf s s.arg.a).ckpt = some c ∧ c.phase = 3 ∧ c.want = false :=
  ⟨benchCk { cut := 1, phase := 3 } id, { cut := 1, phase := 3 }, by decide⟩

theorem leBytes_length (n v : Nat) : (leBytes n v).length = n := by
  induction n generalizing v with
  | zero => rfl
  | succ n h => simp [leBytes, h]

/-- The record of a memory unit without poison has 64 bytes of header and 65,536 of data. -/
theorem unit_record_length (s : State) (k c u : Nat) (h : s.poison = []) (h1 : ∀ p, (pkgAt s p).offline = []) :
    (unitRecord s k c (2, u)).length = 65600 := by
  have hp : poisonIn s (u * 65536) 65536 = [] := by
    unfold poisonIn
    rw [List.filter_eq_nil_iff]
    intro i _
    simp [poisoned, h, h1]
  have hc : (cleanBytes s (u * 65536) 65536).length = 65536 := by
    unfold cleanBytes; rw [List.length_map, List.length_range]
  have e : unitRecord s k c (2, u) =
      recordBytes 2 (k % 8192) c (gpLocal (u * 65536)) 65536 (cleanBytes s (u * 65536) 65536) (poisonIn s (u * 65536) 65536) := rfl
  rw [e, hp]
  unfold recordBytes pad64
  simp only [List.length_append, List.length_replicate, leBytes_length, hc, List.length_flatMap, List.map_nil, List.sum_nil,
    align64]
  norm_num

/-- Where the area is reached and the ring has more room than that, the record is taken. -/
theorem unit_record_taken (s : State) (k c u : Nat) (h : s.poison = []) (h0 : ∀ p, (pkgAt s p).offline = [])
    (h1 : areaReached s k = true) (h2 : 65600 < ringRoom s k (descNat s k 0x38 8)) :
    ∃ v, appendRecord s k (unitRecord s k c (2, u)) = .ok v := by
  refine ⟨placeRecord s k (unitRecord s k c (2, u)), ?_⟩
  unfold appendRecord
  rw [h1, unit_record_length s k c u h h0]
  rw [if_neg (by simp), if_neg (Nat.not_le.mpr h2)]

theorem benchCk_offline (c : Ckpt) (f : Part → Part) (p : Nat) : (pkgAt (benchCk c f) p).offline = [] := by
  by_cases h : p = 0
  · subst h; rfl
  · have e : (pkgAt (benchCk c f) p) = (tblGet? [(0, _)] p).getD default := rfl
    rw [e, tblGet?, if_neg (Ne.symm h)]; rfl

theorem wit_CutsProceed_protected : ∃ (s v : State) (k : Nat), (ckptOf s s.arg.a).phase = 2 ∧
    ((surveyed s s.arg.a).find? fun k => (partOf s k).todo.contains (2, s.arg.b)) = some k ∧
    appendRecord s k (unitRecord s k (ckptOf s s.arg.a).cut (2, s.arg.b)) = .ok v := by
  obtain ⟨v, h⟩ := unit_record_taken { benchCk { cut := 1, phase := 2 } fun p => { p with todo := [(2, 3)] } with arg := { a := 1, b := 3 } }
    8192 1 3 rfl (benchCk_offline { cut := 1, phase := 2 } fun p => { p with todo := [(2, 3)] }) (by decide) (by decide)
  exact ⟨_, v, 8192, by decide, by decide, h⟩

/-- The units of a table whose first entry is a leaf, and of one whose first entry names a table. -/
theorem unit_of_leaf {s : State} {pkg n tbl u : Nat} (lo hi : Nat) (h : homeNat s (gpOf pkg tbl) 8 = lo) (h1 : homeNat s (gpOf pkg tbl + 8) 8 = hi)
    (h2 : lo % 2 = 1 ∧ lo / 2 % 2 = 1) (hu : u ∈ leafUnitsOf lo hi n) : u ∈ tableUnits s pkg (n + 1) tbl := by
  unfold tableUnits
  refine List.mem_flatMap.mpr ⟨0, by simp, ?_⟩
  simp only [Nat.mul_zero, Nat.add_zero, h, h1, h2.1, h2.2]
  simpa using hu
theorem unit_of_node {s : State} {pkg n tbl u : Nat} (lo c : Nat) (h : homeNat s (gpOf pkg tbl) 8 = lo)
    (h2 : lo % 2 = 1 ∧ lo / 2 % 2 = 0 ∧ lo / 2 ^ 13 % 2 ^ 38 * 2 ^ 13 = c) (hu : u ∈ tableUnits s pkg n c) : u ∈ tableUnits s pkg (n + 1) tbl := by
  unfold tableUnits
  refine List.mem_flatMap.mpr ⟨0, by simp, ?_⟩
  simp only [Nat.mul_zero, Nat.add_zero, h, h2.1, h2.2.1, h2.2.2]
  simpa using hu

theorem wit_CutsProceed_stream : ∃ (s v : State) (k : Nat), (ckptOf s s.arg.a).phase = 0 ∧
    (∀ k ∈ partsOfCtx s s.arg.a, (partOf s k).idle = false) ∧ streamPart? s s.arg.a s.arg.b = some k ∧
    appendRecord s k (unitRecord s k (ckptOf s s.arg.a).nextCut (2, s.arg.b)) = .ok v := by
  let s : State := { benchCk {} id with arg := { a := 1, b := 3 } }
  obtain ⟨v, h⟩ := unit_record_taken s 8192 1 3 rfl (benchCk_offline {} id) (by decide) (by decide)
  have hu : 3 ∈ tableUnits s 0 5 0x8000 :=
    unit_of_node 0xA001 0xA000 (by decide) (by decide) (unit_of_node 0xC001 0xC000 (by decide) (by decide)
      (unit_of_node 0xE001 0xE000 (by decide) (by decide) (unit_of_node 0x10001 0x10000 (by decide) (by decide)
        (unit_of_leaf 0x3000F 0 (by decide) (by decide) (by decide) (by decide)))))
  have hc : 3 ∈ ctxUnits s 1 := by
    unfold ctxUnits
    rw [mem_sortNat]
    refine List.mem_flatMap.mpr ⟨8192, by decide, ?_⟩
    rw [if_neg (by decide)]
    exact hu
  have hs : (streamUnits s 8192).contains 3 = true :=
    List.contains_iff_mem.mpr (List.mem_filter.mpr ⟨hc, by decide⟩)
  have hp : streamPart? s 1 3 = some 8192 := by
    have e : surveyed s 1 = [8192] := by decide
    have e1 : decide (descNat s 8192 0x14 4 / 2 % 2 = 1) = true := by decide
    unfold streamPart?
    rw [e, List.find?_cons_of_pos]
    rw [e1, hs]; rfl
  exact ⟨s, v, 8192, by decide, by decide, hp, h⟩

theorem wit_RecordPlaced : ∃ (s v : State) (k : Nat) (b : List Byte), appendRecord s k b = .ok v :=
  ⟨benchCk {} id, _, 8192, [1], rfl⟩

theorem wit_CostUpdates : ∃ s : State, costDue s s.arg.a = true := ⟨benchCk {} id, by decide⟩

/-- Warps of replicas with a signature at a comparison point. -/
def atCmp (sig : Pair) (w : Warp) : Warp := { w with sig := sig, sigN := 1, atCmp := true }

theorem wit_ReplicasCompared : ∃ s : State, compareDue s s.arg.a = true ∧ (replicaWarps s s.arg.a).Nodup ∧
    ((replicaWarps s s.arg.a).all fun v => voteOf s v == voteOf s s.arg.a) = true ∧
    (warpOf s (leaderWarp s s.arg.a)).hold = [] ∧ (warpOf s (leaderWarp s s.arg.a)).pendTrap = none ∧ (warpOf s 24).lanes ≠ [] :=
  ⟨benchP 2 (atCmp 1) (atCmp 1) (atCmp 1), by decide⟩

theorem wit_ReplicasCompared_outvoted : ∃ (s t : State) (bad good : Nat), compareDue s s.arg.a = true ∧ (replicaWarps s s.arg.a).Nodup ∧
    ((replicaWarps s s.arg.a).all fun v => voteOf s v == voteOf s s.arg.a) = false ∧ minority? s s.arg.a = some (bad, good) ∧
    compareDue t t.arg.a = true ∧ (replicaWarps t t.arg.a).Nodup ∧
    ((replicaWarps t t.arg.a).all fun v => voteOf t v == voteOf t t.arg.a) = false ∧ minority? t t.arg.a = none :=
  ⟨benchP 2 (atCmp 1) (atCmp 2) (atCmp 1), benchP 1 (atCmp 1) (atCmp 2) (atCmp 1), 24, 4, by decide⟩

theorem wit_ReplicasCompared_age : ∃ s : State, ageDue s s.arg.a = true :=
  let f (w : Warp) : Warp := { w with sigN := 1 }
  ⟨benchP 2 f f f, by decide⟩

theorem wit_ReplicasCompared_error : ∃ (s t : State) (good : Nat) (m : Member), (tblGet? s.warps s.arg.a).isSome = true ∧
    ((replicasOf s s.arg.a).find? fun v => v != s.arg.a && !(warpOf s v).lanes.isEmpty) = some good ∧
    (tblGet? t.warps t.arg.a).isSome = true ∧ ((replicasOf t t.arg.a).find? fun v => v != t.arg.a && !(warpOf t v).lanes.isEmpty) = none ∧
    (warpOf t t.arg.a).trapped = false ∧
    ((byAge t ((warpOf t t.arg.a).lanes.map fun e => ⟨e.1, t.arg.a⟩)).find? fun m => !(thrOf t m).helper) = some m :=
  ⟨benchP 1 id id id, { bench [] thr0 [] with arg := { a := 4 } }, 24, me, by decide⟩

theorem wit_ReplicaQueries : ∃ (s t v x : State) (w a b c : Nat), replicasOf s w = [a, b, c] ∧ voteOf s a = voteOf s b ∧
    replicasOf t w = [a, b, c] ∧ voteOf t a = voteOf t c ∧ voteOf t a ≠ voteOf t b ∧
    replicasOf v w = [a, b, c] ∧ voteOf v b = voteOf v c ∧ voteOf v a ≠ voteOf v b ∧
    replicasOf x w = [a, b, c] ∧ voteOf x a ≠ voteOf x b ∧ voteOf x a ≠ voteOf x c ∧ voteOf x b ≠ voteOf x c :=
  ⟨benchP 2 (atCmp 1) (atCmp 1) (atCmp 2), benchP 2 (atCmp 1) (atCmp 2) (atCmp 1), benchP 2 (atCmp 1) (atCmp 2) (atCmp 2),
    benchP 2 (atCmp 1) (atCmp 2) (atCmp 3), 4, 4, 24, 34, by decide⟩

theorem wit_ReplicaQueries_asked : ∃ (p : BitVec 3) (d a : BitVec 7) (s : State) (g : Group), Claims.Ready s g (.sigchk p d a) ∧
    Claims.Ready s g (.replq p d a) ∧ (Claims.EachChecked s g (.replq p d a) fun _ x => (lo32 x.a).toNat < 4) ∧
    actors s g (.sigchk p d a) = [me] ∧ actors s g (.replq p d a) = [me] :=
  ⟨7, 4, 1, bench [(64, 3)] thr0 [], benchG [], ready_of rfl (by decide) (by decide), ready_of rfl (by decide) (by decide),
    eachChecked_of (by decide) (by decide), by decide⟩

/-- Package 0 with a command in its mailbox: its bytes but for GO, which is 1. -/
def benchMb (l : BMap 8) (f : Pkg → Pkg) : State := { bench [] thr0 [] with pkgs := [(0, f { mbox := l ++ [(0x80, 1)] })], arg := {} }

theorem wit_MailboxArea : ∃ (s : State) (p st c r : Nat) (b : Byte), (tblGet? s.pkgs p).isSome = true ∧ st < 256 ∧ c < 256 ∧ r < 2 ^ 64 ∧
    (tblGet? s.pkgs s.arg.a).isSome = true ∧ (pkgAt s s.arg.a).powered = true ∧ s.arg.data = [b] :=
  ⟨{ State.reset with arg := { b := 0x80, data := [1] } }, 0, 255, 255, 2 ^ 64 - 1, 1, by decide⟩

theorem wit_MailboxCommands : ∃ i op due bad done s t c, Claims.ShortCommand i op due bad done ∧ Claims.Commanded s s.arg.a op ∧
    due s s.arg.a ∧ bad s s.arg.a = none ∧ Claims.Commanded t t.arg.a op ∧ due t t.arg.a ∧ bad t t.arg.a = some c :=
  ⟨_, _, _, _, _, { benchMb [(0, 0x11)] id with wgs := [] }, benchMb [(0, 0x11), (1, 1)] id, .illegalEncoding, .full,
    ⟨by decide, by decide, by decide, by decide, by decide⟩, trivial, by decide,
    ⟨by decide, by decide, by decide, by decide, by decide⟩, trivial, by decide⟩

set_option maxRecDepth 100000 in
set_option exponentiation.threshold 1000 in
theorem wit_MailboxCommands_allot : ∃ (s : State) (k : Nat) (fresh : Bool), Claims.Commanded s s.arg.a 0x08 ∧ mbSub s s.arg.a ≠ 1 ∧
    cmdRefusal s s.arg.a [51, 29] (mbSub s s.arg.a == 0) (plainMemory s s.arg.a (mbArg s s.arg.a 0) 160 && (allotPart? s s.arg.a).isSome &&
      (bitmapCores s s.arg.a).all fun c => coreServes s c) = none ∧ allotPart? s s.arg.a = some (k, fresh) :=
  ⟨{ benchMb [(0, 8), (9, 0x20)] id with mem := [(0x2000, 2)] }, 8192, false,
    ⟨by decide, by decide, by decide, by decide, by decide⟩, by decide, by decide, by decide⟩

set_option maxRecDepth 100000 in
set_option exponentiation.threshold 1000 in
theorem wit_MailboxCommands_refused : ∃ (s : State) (c : Cause), Claims.Commanded s s.arg.a 0x08 ∧ mbSub s s.arg.a ≠ 1 ∧
    cmdRefusal s s.arg.a [51, 29] (mbSub s s.arg.a == 0) (plainMemory s s.arg.a (mbArg s s.arg.a 0) 160 && (allotPart? s s.arg.a).isSome &&
      (bitmapCores s s.arg.a).all fun c => coreServes s c) = some c :=
  ⟨{ benchMb [(0, 8), (9, 0x20)] id with mem := [(0x2028, 1)] }, .access,
    ⟨by decide, by decide, by decide, by decide, by decide⟩, by decide, by decide⟩

theorem wit_MailboxCommands_unknown : ∃ s : State, (tblGet? s.pkgs s.arg.a).isSome = true ∧ (pkgAt s s.arg.a).powered = true ∧
    (pkgAt s s.arg.a).failed = false ∧ mbNat s s.arg.a 0x80 8 = 1 ∧ mbOp s s.arg.a ∉ [1, 2, 3, 4, 5, 6, 7, 8, 0x10, 0x11, 0x20] :=
  ⟨benchMb [(0, 9)] id, by decide⟩

theorem wit_LongMailboxCommands : ∃ i op due bad start ready finish s t v c, Claims.LongCommand i op due bad start ready finish ∧
    Claims.Commanded s s.arg.a op ∧ due s s.arg.a ∧ (pkgAt s s.arg.a).busy = false ∧ bad s s.arg.a = none ∧
    Claims.Commanded t t.arg.a op ∧ due t t.arg.a ∧ (pkgAt t t.arg.a).busy = false ∧ bad t t.arg.a = some c ∧
    Claims.Commanded v v.arg.a op ∧ due v v.arg.a ∧ (pkgAt v v.arg.a).busy = true ∧ ready v v.arg.a = true :=
  let keyed (busy : Bool) (p : Pkg) : Pkg := { p with keys := [(1, List.replicate 64 0)], busy := busy }
  ⟨_, _, _, _, _, _, _, benchMb [(0, 6), (8, 1)] (keyed false), benchMb [(0, 6), (8, 2)] (keyed false), benchMb [(0, 6), (8, 1)] (keyed true), .access,
    .clearKey, ⟨by decide, by decide, by decide, by decide, by decide⟩, trivial, by decide, by decide,
    ⟨by decide, by decide, by decide, by decide, by decide⟩, trivial, by decide, by decide,
    ⟨by decide, by decide, by decide, by decide, by decide⟩, trivial, by decide, by decide⟩

theorem wit_ContextTables : ∃ (s : State) (k x : Nat), (tblGet? s.parts k).isSome = true ∧ (∀ e ∈ s.atoms, e.2.ctx = x → e.2.posted = none) :=
  ⟨benchA atom7 [], 8192, 1, by decide⟩

theorem wit_LogsRead : ∃ (s : State) (i : Instr) (l : List (List Byte)),
    ((i = .readErrorLog ∧ mbSub s s.arg.a = 0 ∧ l = (pkgAt s s.arg.a).errlog.map errBytes) ∨
      (i = .readJournal ∧ mbSub s s.arg.a = 1 ∧ l = (pkgAt s s.arg.a).journal)) ∧ Claims.Commanded s s.arg.a 0x20 ∧ readBad s s.arg.a = none ∧
    readDue s s.arg.a = true ∧ 16 * (l.take (mbArg s s.arg.a 1 / 16)).length < 2 ^ 64 ∧
    Claims.PlainBytes s (gpOf s.arg.a (mbArg s s.arg.a 0)) (l.take (mbArg s s.arg.a 1 / 16)).flatten.length :=
  ⟨benchMb [(0, 0x20), (1, 1), (9, 0x20), (16, 16)] fun p => { p with journal := [journalEntry 1 0 0 0 1] }, .readJournal, [journalEntry 1 0 0 0 1],
    .inr (by decide), ⟨by decide, by decide, by decide, by decide, by decide⟩, by decide, by decide, by decide,
    by unfold Claims.PlainBytes; decide⟩

theorem wit_PowerEvents : ∃ s : State, (tblGet? s.pkgs s.arg.a).isSome = true ∧ (pkgAt s s.arg.a).powered = true ∧ s.arg.b < 4 ∧
    (∀ e ∈ s.atoms, e.2.posted = none) := ⟨{ State.reset with arg := { b := 3 } }, by decide⟩

theorem wit_MemoryErrors : ∃ s t : State, errorAt s s.arg.a s.arg.b = true ∧ isHbm s.arg.b = true ∧ errorAt t t.arg.a t.arg.b = true ∧
    isHbm t.arg.b = false :=
  ⟨{ State.reset with arg := { b := 0x2FFFFFFFFF } }, { benchCk {} id with arg := { b := 0x100000000000 } }, by decide⟩

theorem wit_MemoryErrors_time : ∃ s t v : State, pkgLive s s.arg.a = true ∧ (pkgAt s s.arg.a).halveAt + 155520000000000 ≤ s.clk ∧
    t.arg.b ∈ (pkgAt t t.arg.a).hot ∧ (rowState t t.arg.a t.arg.b).2.2 + 7 * 155520000000000 ≤ t.clk ∧
    pkgLive v v.arg.a = true ∧ rowStack v.arg.b ∈ (pkgAt v v.arg.a).hbm :=
  ⟨{ State.reset with clk := 155520000000000 },
    { State.reset with pkgs := [(0, { hot := [5], rows := [(5, (3, 9, 0))] })], clk := 7 * 155520000000000, arg := { b := 5 } },
    { State.reset with arg := { b := 2 ^ 49 } }, by decide⟩

theorem wit_MemoryErrors_table : ∃ s t : State, pkgLive s s.arg.a = true ∧ s.arg.flag = true ∧ s.arg.b ∉ (pkgAt s s.arg.a).offline ∧
    pkgLive t t.arg.a = true ∧ t.arg.flag = false :=
  ⟨{ State.reset with arg := { b := 31, flag := true } }, State.reset, by decide⟩

/-- A sealed flit of a KIND to address 0x2000 of package 0, with its order number 0; and the bench as it receives some flit on port 0. -/
def flit (kind : Nat) : BitVec 512 := sealFlit (leBytes 56 (kind + 0x2000 * 256 ^ 0x10)) 0
def benchFl (f : BitVec 512) : State := { bench [] thr0 [] with arg := { bits := f } }

set_option maxRecDepth 100000 in
set_option exponentiation.threshold 1000 in
theorem wit_Flits : ∃ s : State, flitDue s s.arg.a s.arg.b s.arg.bits = true ∧ crcGood s.arg.bits = false :=
  ⟨benchFl 0, by decide +kernel⟩

set_option maxRecDepth 20000 in
theorem wit_Flits_read : ∃ s : State, flitDue s s.arg.a s.arg.b s.arg.bits = true ∧ crcGood s.arg.bits = true ∧
    flitSeq s.arg.bits = (portOf s s.arg.a s.arg.b).expect % 65536 ∧ flitDst s.arg.bits = s.arg.a ∧
    flitReaches s s.arg.a s.arg.bits = true ∧ flitKind s.arg.bits = 1 :=
  ⟨benchFl (flit 1), by decide +kernel⟩

theorem wit_Flits_write : ∃ s : State, flitDue s s.arg.a s.arg.b s.arg.bits = true ∧ crcGood s.arg.bits = true ∧
    flitSeq s.arg.bits = (portOf s s.arg.a s.arg.b).expect % 65536 ∧ flitDst s.arg.bits = s.arg.a ∧
    flitReaches s s.arg.a s.arg.bits = true ∧ flitKind s.arg.bits = 2 ∧ Claims.PlainBytes s (flitAddr s.arg.bits / 32 * 32) 32 :=
  ⟨benchFl (flit 2), by unfold Claims.PlainBytes; decide +kernel⟩

theorem wit_Flits_order : ∃ s : State, flitDue s s.arg.a s.arg.b s.arg.bits = true ∧ crcGood s.arg.bits = true ∧
    flitSeq s.arg.bits ≠ (portOf s s.arg.a s.arg.b).expect % 65536 :=
  ⟨benchFl (sealFlit (leBytes 56 0) 1), by decide +kernel⟩

theorem wit_Flits_ports : ∃ s t : State, fullLive s s.arg.a = true ∧ s.arg.b < 8 ∧ (portOf s s.arg.a s.arg.b).retrain = true ∧ s.arg.flag = false ∧
    pkgLive t t.arg.a = true ∧ 8 ≤ t.arg.b ∧ t.arg.b ≤ 14 ∧ (portOf t t.arg.a t.arg.b).up = true :=
  ⟨{ State.reset with pkgs := [(0, { full := true, ports := [(7, { retrain := true })] })], arg := { b := 7 } }, { State.reset with arg := { b := 14 } },
    by decide⟩

theorem wit_OutsideWrites : ∃ s : State, hostReach s s.arg.a s.arg.b s.arg.data.length = true ∧
    agentFree s (gpOf s.arg.a s.arg.b) s.arg.data.length = true ∧ Claims.PlainBytes s (gpOf s.arg.a s.arg.b) s.arg.data.length ∧
    (pkgAt s s.arg.a).hostCxl = true ∧ s.arg.flag = true :=
  ⟨{ bench [] thr0 [] with arg := { b := 0x2000, data := [1, 2], flag := true } }, by unfold Claims.PlainBytes; decide⟩

theorem wit_OutsideWrites_rdma : ∃ (s t : State) (k : Nat) (e : TlbEntry), inboundDue s s.arg.a s.arg.c s.arg.b s.arg.data.length = true ∧
    inboundPage? s s.arg.a s.arg.c s.arg.b = some (k, e) ∧ isOnChip (gpLocal (physOf e s.arg.b)) = false ∧
    Claims.PlainBytes s (physOf e s.arg.b) s.arg.data.length ∧
    inboundDue t t.arg.a t.arg.c t.arg.b t.arg.data.length = true ∧ inboundPage? t t.arg.a t.arg.c t.arg.b = none :=
  ⟨{ bench [] thr0 [] with arg := { b := 0x2000, data := [1, 2] } }, { bench [] thr0 [] with arg := { b := 0x2000, c := 5, data := [1, 2] } }, 8192,
    { size := 0x200000, rd := true, wr := true, ex := true }, by unfold Claims.PlainBytes; decide⟩

theorem wit_OutsideWrites_ether : ∃ s : State, etherUp s s.arg.a s.arg.b = true ∧ (portOf s s.arg.a s.arg.b).cq < (portOf s s.arg.a s.arg.b).sq :=
  ⟨{ State.reset with pkgs := [(0, { full := true, ports := [(9, { sq := 1 })] })], arg := { b := 9 } }, by decide⟩

/-- A code object without sections and symbols: the 64 bytes of its header. -/
def objectOf : List Byte := leBytes 64 0x4F504431
theorem wit_CodeLoads : ∃ s t : State, (tblGet? s.ctxs s.arg.a).isSome = true ∧ (load? s s.arg.a s.arg.b s.arg.data).isSome = true ∧
    (tblGet? t.ctxs t.arg.a).isSome = true ∧ load? t t.arg.a t.arg.b t.arg.data = none ∧ objectOk t.arg.data = false :=
  ⟨{ bench [] thr0 [] with arg := { a := 1, b := 0x2000, data := objectOf } }, { bench [] thr0 [] with arg := { a := 1, b := 0x2000 } }, by decide⟩

/-- A code object of one empty section in which the strong symbol A stands (R80, R81), and a context in which A is bound. -/
def objectA : List Byte :=
  leBytes 130 (num [(0, 0x4F504431), (6, 1), (8, 64), (0x10, 96), (0x18, 1), (0x20, 128), (0x28, 128), (68, 1), (102, 1), (103, 2), (128, 0x41)])
set_option maxRecDepth 20000 in
theorem wit_CodeLoads_duplicate : ∃ (s : State) (d e : SymDef), (tblGet? s.ctxs s.arg.a).isSome = true ∧
    d ∈ newDefs s.arg.data (secBases (sectionsOf s.arg.data) s.arg.b) ∧ e ∈ (ctxOf s s.arg.a).syms ∧ d.name = e.name ∧
    d.strong = true ∧ e.strong = true ∧ objectOk s.arg.data = true :=
  ⟨{ bench [] thr0 [] with ctxs := [(1, { syms := [{ name := [0x41], addr := 0x1000, strong := true }] })]
                           arg := { a := 1, b := 0x2000, data := objectA } },
    { name := [0x41], addr := 0x2000, strong := true }, { name := [0x41], addr := 0x1000, strong := true }, by decide⟩


theorem wit_DecodeEncode : ∃ (i : Instr) (w : Word), encode i = some w ∧ i.wf = true := ⟨.addI32 7 1 2 3, 0b000000_111_0000001_0000010_0000011_00#32, by decide⟩

theorem wit_NothingIgnored : ∃ (w v u : Word) (i j k : Instr) (m n o : Word), cell w = some (i, m) ∧ w &&& m = 0#32 ∧ valueCause i = none ∧
    reservedCause i = none ∧ cell v = some (j, n) ∧ v &&& n ≠ 0#32 ∧ valueCause j = none ∧
    cell u = some (k, o) ∧ u &&& o = 0#32 ∧ valueCause k = none ∧ reservedCause k ≠ none :=
  ⟨0, 0x0C000007#32, 0x23C00209#32, _, _, _, _, _, _, rfl, by decide, by decide, by decide,
    rfl, by decide, by decide, rfl, by decide, by decide, by decide⟩

theorem wit_UnassignedCells : ∃ w v u : Word, w.extractLsb' 26 6 ∈ Claims.emptyMajors ∧
    (v.extractLsb' 26 6, v.extractLsb' 0 2) ∈ Claims.emptyCells ∧
    (u.extractLsb' 26 6, u.extractLsb' 0 2) ∈ Claims.cellsWithoutB ∧ u.extractLsb' 2 7 ≠ 0 :=
  ⟨0x0E#32 <<< 26, 0x12#32 <<< 26 ||| 3, 0x03#32 <<< 26 ||| 0b111, by decide⟩

/-- Words of clauses: a header of LEN n without flags, `NOP`, `BRA` and the privileged `SETID`. -/
def headerW (n : Nat) : Word := 0x000FF07F#32 ||| BitVec.ofNat 32 (n * 512)
def nopW : Word := 0b111010_111_0000000_0000000_0000000_00#32
def braW : Word := 0b111001_111_00000000000000000000101#32
def setidW : Word := 0b111110_111_0000000_0000001_0000010_00#32

theorem wit_ClauseChecks : ∃ (k : Nat) (h h2 : Word) (b1 b2 b3 : List Word), ¬ 15 + hdrLen h + 2 ≤ 16 ∧
    k + hdrLen h + 2 ≤ 16 ∧ headerBad h2 = true ∧ hdrLen h = hdrLen h2 ∧ headerBad h = false ∧
    (let ws := b1.take (instrCount b1 0 0 b1.length);
      1 < ws.length ∧ (∀ i < 1, wordBad (ws.getD i 0) (Claims.patsAt ws i) = none) ∧
        wordBad (ws.getD 1 0) (Claims.patsAt ws 1) = some .illegalEncoding) ∧
    (let n := instrCount b2 0 0 b2.length
      let ws := b2.take n
      (∀ j < ws.length, wordBad (ws.getD j 0) (Claims.patsAt ws j) = none) ∧ placeBad (decide (b2.length < n + litsBefore b2 n)) ws 0 = none ∧
        1 < ws.length ∧ (∀ i < 1, Claims.privWord (ws.getD i 0) = false) ∧ Claims.privWord (ws.getD 1 0) = true) ∧
    (let n := instrCount b3 0 0 b3.length
      let ws := b3.take n
      (∀ j < ws.length, wordBad (ws.getD j 0) (Claims.patsAt ws j) = none) ∧ placeBad (decide (b3.length < n + litsBefore b3 n)) ws 0 = none ∧
        ∀ j < ws.length, Claims.privWord (ws.getD j 0) = false) :=
  ⟨0, headerW 1, headerW 1 &&& 0xFFFCFFFF#32, [nopW, 0x0E#32 <<< 26], [nopW, setidW], [nopW, braW], by decide⟩

theorem next_of_due {t : Trans} {s : State} (h : t.due s = true) : ∃ u, exec t.instr (t.arm s) = .next u := by
  unfold Trans.due at h; revert h; cases exec t.instr (t.arm s) <;> simp

theorem wit_StepRunsDecoded : ∃ (s : State) (g : Group) (i : Instr) (u : State), tblGet? s.groups 0 = some g ∧
    decodeWord (g.body.getD g.pos 0) = .ok i ∧ exec i (Trans.arm { instr := i, slot := 0 } s) = .next u ∧
    choose s (ownTrans s ++ dueInputs s) = some { instr := i, slot := 0 } :=
  have ⟨s, g, h⟩ : ∃ (s : State) (g : Group), tblGet? s.groups 0 = some g ∧ decodeWord (g.body.getD g.pos 0) = .ok (.addI32 0 0 0 0) ∧
      choose s (ownTrans s ++ dueInputs s) = some { instr := .addI32 0 0 0 0, slot := 0 } ∧
      Trans.due { instr := .addI32 0 0 0 0, slot := 0 } s = true :=
    ⟨{ bench [] thr0 [0] with parts := [] }, benchG [0], by decide +kernel⟩
  have ⟨u, k⟩ := next_of_due h.2.2.2
  ⟨s, g, .addI32 0 0 0 0, u, h.1, h.2.1, k, h.2.2.1⟩

/-- The issue of a clause on quarter 0 is the transition taken, and the instruction of the group that it starts completes. -/
def issueRuns (i : Instr) (s : State) : Bool :=
  let t : Trans := { instr := .clauseIssue }
  choose s (ownTrans s ++ dueInputs s) = some t && (ownTrans s).contains t &&
  match exec .clauseIssue (t.arm s) with
  | .next u =>
    let w := countEvents .clauseIssue (t.arm s) u
    (match tblGet? w.groups 0 with
    | some g => decide (decodeWord (g.body.getD g.pos 0) = .ok i) && Trans.due { instr := i, arg := w.arg } w
    | none => false)
  | _ => false

theorem wit_StepRunsDecoded_issue : ∃ s : State, issueRuns (.addI32 0 0 0 0) s = true := ⟨State.reset.withFetchWord 32 0, by decide +kernel⟩

theorem wit_StepRunsDecoded_idle : ∃ s : State, ownTrans s = [] ∧ dueInputs s = [] := ⟨State.reset, by decide +kernel⟩

theorem wit_ClauseEnd : ∃ (k : Nat) (h : Word) (body : List Word) (j : Nat), k + hdrLen h + 2 ≤ 16 ∧ headerBad h = false ∧
    (let n := instrCount body 0 0 body.length
      let ws := body.take n
      (∀ i < ws.length, wordBad (ws.getD i 0) (Claims.patsAt ws i) = none) ∧ n + litsBefore body n ≤ body.length ∧
        (∀ i ≤ j, prefixOf (ws.getD i 0) = none) ∧ j + 1 < ws.length ∧ (∀ i < j, Claims.xferWord (ws.getD i 0) = false) ∧
        Claims.xferWord (ws.getD j 0) = true) :=
  ⟨13, headerW 1, [braW, nopW], 0, by decide⟩

theorem wit_ClauseEnd_goes_on : ∃ (s : State) (g : Group), curGroup? s = some g ∧ g.mem ≠ [] ∧ g.pos + 1 < groupInstrs g :=
  ⟨bench [] thr0 [nopW, nopW], benchG [nopW, nopW], rfl, by decide⟩

theorem wit_ClauseEnd_ends : ∃ (s t : State) (g h : Group), curGroup? s = some g ∧ g.mem ≠ [] ∧ groupInstrs g ≤ g.pos + 1 ∧ keysRise s.groups = true ∧
    me ∈ g.mem ∧ present s me.warp me.lane = true ∧ (thrOf s me).helper = false ∧ me.lane ∉ g.ended ∧ g.body.length = hdrLen g.hdr + 1 ∧
    tblGet? g.taken me.lane = some 0x2000 ∧
    curGroup? t = some h ∧ h.mem ≠ [] ∧ groupInstrs h ≤ h.pos + 1 ∧ me ∈ h.mem ∧ present t me.warp me.lane = true ∧ me.lane ∈ h.ended ∧
    keysRise (warpOf t me.warp).lanes = true :=
  let g : Group := { benchG [nopW] with hdr := headerW 0, taken := [(0, 0x2000)] }
  let h : Group := { benchG [nopW] with hdr := headerW 0, ended := [0] }
  ⟨{ bench [] thr0 [] with groups := [(0, g)] }, { bench [] thr0 [] with groups := [(0, h)] }, g, h, rfl, by decide, by decide, by decide, by decide,
    by decide, by decide, by decide, by decide, by decide, rfl, by decide⟩

theorem wit_NopAndYield : ∃ (s : State) (g : Group), Claims.Ready s g (.nop 7) ∧ Claims.Ready s g (.yield 7) ∧ actors s g (.yield 7) = [me] ∧
    actors s g (.yield 2) = [] ∧ Claims.Ready s g (.yield 2) :=
  ⟨bench [] thr0 [], benchG [], ready_of rfl (by decide) (by decide), ready_of rfl (by decide) (by decide), by decide, by decide,
    ready_of rfl (by decide) (by decide)⟩

theorem wit_PredicateBits : ∃ (s : State) (g : Group) (p q : BitVec 3) (m : Member), m ∈ g.mem ∧ m.lane < 64 ∧ m ∈ active s g p ∧ p ≠ 7 ∧
    m ∉ active s g q ∧ q.toNat < 7 := ⟨bench [] thr0 [], benchG [], 1, 2, me, by decide⟩

theorem wit_MatchMask : ∃ (s : State) (g : Group), curGroup? s = some g ∧ OperandsPass s g (.matchAny 7 2 1) ∧
    participants s g (.matchAny 7 2 1) = [me] ∧ valueCause (.matchAny 7 2 1) = none :=
  ⟨bench [(64, 7)] thr0 [], benchG [], rfl, by unfold OperandsPass; decide, by decide, by decide⟩

theorem wit_MatchMask_reserved : ∃ w : Word, w.extractLsb' 26 6 = 0x27#6 ∧ w.extractLsb' 0 2 = 3#2 ∧ w.extractLsb' 2 7 ≠ 0#7 :=
  ⟨0b100111_111_0000010_0000001_0000001_11#32, by decide⟩

theorem wit_FullService : ∃ s t : State, Claims.Commanded s s.arg.a 0x11 ∧ argsClean s s.arg.a [] = true ∧ mbSub s s.arg.a = 0 ∧
    ctxResident s s.arg.a = true ∧ Claims.Commanded t t.arg.a 0x11 ∧ argsClean t t.arg.a [] = true ∧ mbSub t t.arg.a = 0 ∧
    (pkgAt t t.arg.a).full = false ∧ ctxResident t t.arg.a = false :=
  ⟨benchMb [(0, 0x11)] id, { State.reset with pkgs := [(0, { mbox := [(0, 0x11), (0x80, 1)] })] },
    ⟨by decide, by decide, by decide, by decide, by decide⟩, by decide, by decide, by decide,
    ⟨by decide, by decide, by decide, by decide, by decide⟩, by decide, by decide, by decide, by decide⟩

theorem wit_OperandTraps : ∃ (i : Instr) (s : State) (g : Group), Claims.PlainRegister i ∧ curGroup? s = some g ∧ Unreplicated s g ∧
    me ∈ actors s g i ∧ (thrOf s me).helper = false ∧ present s me.warp me.lane = true ∧ (operandFail s (shapeOf i) me).isSome = true ∧
    Claims.AboveWindow s i me :=
  let t : Thread := { thr0 with base := 65 }
  ⟨.addI32 7 95 1 1, bench [] t [], benchG [], .inl ⟨_, .addI32 7 95 1 1⟩, rfl, by unfold Unreplicated; decide, by decide, by decide, by decide, by decide,
    by unfold Claims.AboveWindow; decide⟩

theorem wit_ReadTraces : ∃ (s : State) (sh : Shape), (∀ k, (ctxOf (constTraces s sh [me]) k).auditSeq = (ctxOf s k).auditSeq) ∧
    (∀ x ∈ [sh.a, sh.b, sh.d], readWidth x.use = 0 ∨ x.f.toNat < 112 ∨ x.f.toNat = 127) :=
  ⟨bench [] thr0 [], shapeOf (.addI32 7 1 2 3), fun _ => rfl, by decide⟩

theorem wit_StepKeepsMemory : ∃ s t : State, MemOk s ∧ step s = .next t :=
  have ⟨s, h, k⟩ : ∃ s : State, (ownTrans s = [] ∧ dueInputs s = []) ∧ MemOk s := ⟨State.reset, by decide +kernel, by unfold MemOk; decide⟩
  ⟨s, advance s, k, by simp [step, h.1, h.2, choose]⟩

end Sys2Proof.Tests
end

/-! ## The step (O6) -/

namespace Sys2Proof

/-! ### No word decodes to the issue of a clause

The cells of the opcode map are checked by value: MAJ and MIN select all but a few of them (R55, R65 to R69). -/

/-- The instruction of a cell, where it has one, is an instruction of a program and not the issue of a clause. -/
def noIssue (c : Option (Instr × Word)) : Bool :=
  c.all fun x => match x.1 with | .clauseIssue => false | _ => true

theorem noIssue_ite {c : Prop} [Decidable c] {x y : Option (Instr × Word)} (hx : noIssue x = true) (hy : noIssue y = true) :
    noIssue (if c then x else y) = true := by
  split <;> assumption

theorem noIssue_cell38 (p : BitVec 3) (d a : BitVec 7) (b n : Nat) : noIssue (cell38 p d a b n) = true := by
  unfold cell38
  split <;> rfl

theorem noIssue_cell3B (p : BitVec 3) (d a : BitVec 7) (b n : Nat) : noIssue (cell3B p d a b n) = true := by
  unfold cell3B
  split <;> rfl

theorem noIssue_cell3E (p : BitVec 3) (d a : BitVec 7) (b n : Nat) : noIssue (cell3E p d a b n) = true := by
  unfold cell3E
  split <;> rfl

theorem noIssue_cell3A_values (p : BitVec 3) (d a : BitVec 7) :
    ((List.range 16).all fun i => (List.range 8).all fun j => (List.range 4).all fun n =>
      (i == 0 && j == 7) || noIssue (cell3A p d a (8 * i + j) n)) = true := rfl

theorem noIssue_cell3A (p : BitVec 3) (d a : BitVec 7) {b n : Nat} (hb : b < 128) (hn : n < 4) : noIssue (cell3A p d a b n) = true := by
  by_cases h7 : b = 7
  · subst h7
    have hc : ∀ n < 4, noIssue (cell3A p d a 7 n) = true := by
      intro n hn
      interval_cases n
      · exact noIssue_ite rfl rfl
      all_goals rfl
    exact hc n hn
  · have h := noIssue_cell3A_values p d a
    simp only [List.all_eq_true, List.mem_range, Bool.or_eq_true, Bool.and_eq_true, beq_iff_eq] at h
    have := h (b / 8) (by omega) (b % 8) (by omega) n hn
    rw [Nat.div_add_mod] at this
    exact this.resolve_left fun e => h7 (by omega)

/-- The majors whose cells depend on other fields than MAJ and MIN. -/
def fieldMajors : List Nat := [0x0A, 0x30, 0x31, 0x32, 0x38, 0x3A, 0x3B, 0x3E]

theorem noIssue_cellAt_values (w : Word) (p : BitVec 3) (d a b : BitVec 7) :
    ((List.range 64).all fun j => (List.range 4).all fun n => fieldMajors.contains j || noIssue (cellAt w j n p d a b)) = true := rfl

theorem noIssue_cellAt_fieldMajors (w : Word) (p : BitVec 3) (d a b : BitVec 7) {n : Nat} (hn : n < 4) :
    ∀ j ∈ fieldMajors, noIssue (cellAt w j n p d a b) = true := by
  have h0A : ∀ n < 4, noIssue (cellAt w 0x0A n p d a b) = true := by
    intro n hn
    interval_cases n
    · rfl
    · exact noIssue_ite rfl (noIssue_ite rfl rfl)
    all_goals rfl
  have h32 : ∀ n < 4, noIssue (cellAt w 0x32 n p d a b) = true := by
    intro n hn
    interval_cases n
    · exact noIssue_ite rfl rfl
    · exact noIssue_ite rfl rfl
    all_goals rfl
  simp only [fieldMajors, List.forall_mem_cons, List.not_mem_nil, false_imp_iff, implies_true, and_true]
  exact ⟨h0A n hn, noIssue_ite rfl rfl, noIssue_ite rfl rfl, h32 n hn, noIssue_cell38 .., noIssue_cell3A p d a b.isLt hn,
    noIssue_cell3B .., noIssue_cell3E ..⟩

theorem noIssue_cell (w : Word) : noIssue (cell w) = true := by
  unfold cell
  have hn : (w.extractLsb' 0 2).toNat < 4 := (w.extractLsb' 0 2).isLt
  by_cases hj : (w.extractLsb' 26 6).toNat ∈ fieldMajors
  · exact noIssue_cellAt_fieldMajors w _ _ _ _ hn _ hj
  · have h := noIssue_cellAt_values w (w.extractLsb' 23 3) (w.extractLsb' 16 7) (w.extractLsb' 9 7) (w.extractLsb' 2 7)
    simp only [List.all_eq_true, List.mem_range, Bool.or_eq_true, List.contains_iff_mem] at h
    exact (h _ (w.extractLsb' 26 6).isLt _ hn).resolve_left hj

theorem decodeWord_cell {w : Word} {i : Instr} (h : decodeWord w = .ok i) : ∃ m, cell w = some (i, m) := by
  unfold decodeWord at h
  split at h
  · cases h
  next j m hc =>
    split at h
    · cases h; exact ⟨m, hc⟩
    · cases h

/-- R51: no word decodes to an event of the scheduler. -/
theorem decodeWord_ne_clauseIssue {w : Word} {i : Instr} (h : decodeWord w = .ok i) : i ≠ .clauseIssue := by
  obtain ⟨m, hc⟩ := decodeWord_cell h
  rintro rfl
  have hn := noIssue_cell w
  rw [hc] at hn
  cases hn
end Sys2Proof

namespace Sys2Proof.Machine

theorem mem_of_tblGet? {α : Type} {t : Tbl α} {k : Nat} {v : α} (h : tblGet? t k = some v) : (k, v) ∈ t := by
  induction t with
  | nil => cases h
  | cons e t ih =>
    obtain ⟨j, u⟩ := e
    simp only [tblGet?] at h
    split at h
    next hj => subst hj; cases h; exact List.mem_cons_self ..
    next => exact List.mem_cons_of_mem _ (ih h)

theorem groupInstr?_of_decode {g : Group} {i : Instr} (h : decodeWord (g.body.getD g.pos 0) = .ok i) : groupInstr? g = some i := by
  obtain ⟨m, hc⟩ := decodeWord_cell h
  unfold groupInstr?
  rw [hc]
  rfl

/-- R17: the present instruction of a group in flight is a due transition of the machine wherever its meaning answers. -/
theorem groupTrans_mem_ownTrans {s u : State} {q : Nat} {g : Group} {i : Instr} (hg : tblGet? s.groups q = some g)
    (hi : groupInstr? g = some i) (hu : exec i (Trans.arm { instr := i, slot := q } s) = .next u) :
    ({ instr := i, slot := q } : Trans) ∈ ownTrans s := by
  have hmem : ({ instr := i, slot := q } : Trans) ∈ groupTrans s :=
    List.mem_filterMap.2 ⟨(q, g), mem_of_tblGet? hg, by simp [hi]⟩
  refine List.mem_filter.2 ⟨?_, by unfold Trans.due; rw [hu]⟩
  simp only [List.mem_append, hmem, true_or]

theorem runOne_next {i : Instr} {s u : State} (h : exec i s = .next u) : runOne i s = .next (countEvents i s u) := by
  unfold runOne
  rw [h]

theorem runTrans_of_ne_issue {t : Trans} {s u : State} (ht : t.instr ≠ .clauseIssue) (h : exec t.instr (t.arm s) = .next u) :
    runTrans t s = .next (countEvents t.instr (t.arm s) u) := by
  unfold runTrans
  rw [runOne_next h]
  exact if_neg ht

/-- The issue of a clause goes on to the first instruction of the group that it starts. -/
theorem runTrans_issue {t : Trans} {s u v : State} {g : Group} {i : Instr} (ht : t.instr = .clauseIssue)
    (h : exec t.instr (t.arm s) = .next u) (hg : tblGet? (countEvents t.instr (t.arm s) u).groups t.arg.a = some g)
    (hi : groupInstr? g = some i) (hv : exec i { countEvents t.instr (t.arm s) u with cur := t.arg.a } = .next v) :
    runTrans t s = .next (countEvents i { countEvents t.instr (t.arm s) u with cur := t.arg.a } v) := by
  unfold runTrans
  rw [runOne_next h]
  simp only [ht, if_true] at hg hv ⊢
  rw [hg]
  simp only [Option.bind_some, hi]
  exact runOne_next hv

/-- A step that takes a transition of the machine itself answers that transition's state with time passed; no input is used up. -/
theorem step_own {s u : State} {t : Trans} (ht : t ∈ ownTrans s) (hc : choose s (ownTrans s ++ dueInputs s) = some t)
    (hr : runTrans t s = .next u) : step s = .next (advance u) := by
  unfold step
  simp only [hc, hr]
  rw [if_neg]
  simp [ht]

theorem step_idle {s : State} (ho : ownTrans s = []) (hi : dueInputs s = []) : step s = .next (advance s) := by
  simp [step, ho, hi, choose]

end Sys2Proof.Machine

section
open Sys2Proof Sys2Proof.Machine

/-- Settles O6: a due transition of the machine itself, once taken, answers its meaning's state. -/
theorem stepRunsDecoded : Obligations.StepRunsDecoded := by
  unfold Obligations.StepRunsDecoded
  refine ⟨?_, ?_, fun s => step_idle⟩
  · intro s q g i u hg hd t hu
    have hmem := groupTrans_mem_ownTrans hg (groupInstr?_of_decode hd) hu
    exact ⟨hmem, fun hc => step_own hmem hc (runTrans_of_ne_issue (decodeWord_ne_clauseIssue hd) hu)⟩
  · intro s u v q g i t w hmem hu hc hg hd hv
    exact step_own hmem hc (runTrans_issue rfl hu hg (groupInstr?_of_decode hd) hv)

end

/-! ## The issue of a clause (O8) -/

namespace Sys2Proof.Machine

/-! ### Sorting by a key -/

theorem pairwise_insNat {l : List Nat} (x : Nat) (hl : l.Pairwise (· < ·)) : (insNat x l).Pairwise (· < ·) := by
  induction l with
  | nil => simp [insNat]
  | cons y t ih =>
    obtain ⟨hy, ht⟩ := List.pairwise_cons.1 hl
    unfold insNat
    split
    · exact hl
    next hxy =>
      split
      next hlt =>
        refine List.pairwise_cons.2 ⟨fun z hz => ?_, hl⟩
        rcases List.mem_cons.1 hz with rfl | hz
        · exact hlt
        · exact hlt.trans (hy z hz)
      next hge =>
        refine List.pairwise_cons.2 ⟨fun z hz => ?_, ih ht⟩
        rcases (mem_insNat z x t).1 hz with rfl | hz
        · omega
        · exact hy z hz

theorem sortNat_rises (l : List Nat) : (sortNat l).Pairwise (· < ·) := by
  induction l with
  | nil => exact List.Pairwise.nil
  | cons x t ih => exact pairwise_insNat x ih

/-- The elements of a list in the order of a key, as `byAge` and `byLane` list members. -/
def byKey {α : Type} (f : α → Nat) (l : List α) : List α := (sortNat (l.map f)).flatMap fun k => l.filter fun x => f x == k

theorem byAge_eq (s : State) (ms : List Member) : byAge s ms = byKey (ageOf s) ms := rfl

theorem mem_byKey {α : Type} (f : α → Nat) (l : List α) (x : α) : x ∈ byKey f l ↔ x ∈ l := by
  simp only [byKey, List.mem_flatMap, mem_sortNat, List.mem_map, List.mem_filter, beq_iff_eq]
  exact ⟨fun ⟨_, _, hx, _⟩ => hx, fun hx => ⟨f x, ⟨x, hx, rfl⟩, hx, rfl⟩⟩

theorem nodup_map_byKey {α β : Type} (f : α → Nat) (g : α → β) (l : List α) (hg : ∀ x y, g x = g y → f x = f y)
    (hl : (l.map g).Nodup) : ((byKey f l).map g).Nodup := by
  unfold byKey
  rw [List.map_flatMap, List.nodup_flatMap]
  refine ⟨fun k _ => hl.sublist (List.filter_sublist.map g), (sortNat_rises _).imp fun {j k} hjk => ?_⟩
  intro y hj hk
  simp only [List.mem_map, List.mem_filter, beq_iff_eq] at hj hk
  obtain ⟨a, ⟨-, ha⟩, hay⟩ := hj
  obtain ⟨b, ⟨-, hb⟩, hby⟩ := hk
  have := hg a b (hay.trans hby.symm)
  omega

theorem nodup_byAge (s : State) {ms : List Member} (h : ms.Nodup) : (byAge s ms).Nodup := by
  have := nodup_map_byKey (ageOf s) id ms (fun x y e => by rw [show x = y from e]) (by simpa using h)
  simpa [byAge_eq] using this

theorem nodup_lanes_byLane {ms : List Member} (h : (ms.map (·.lane)).Nodup) : ((byLane ms).map (·.lane)).Nodup :=
  nodup_map_byKey (·.lane) (·.lane) ms (fun _ _ e => e) h

/-! ### Filling the lanes of a group (R17) -/

theorem not_mem_lanes {got : List Member} {m : Member} (h : ¬ (got.any fun n => n.lane == m.lane) = true) :
    m.lane ∉ got.map (·.lane) := by
  simp only [List.any_eq_true, beq_iff_eq] at h
  simpa [List.mem_map] using h

/-- Members added one by one: those already there stay, each in a lane of its own. -/
theorem fillLanes_spec (l got : List Member) (hg : (got.map (·.lane)).Nodup) :
    (∀ n ∈ got, n ∈ fillLanes got l) ∧ (∀ n ∈ fillLanes got l, n ∈ got ∨ n ∈ l) ∧ ((fillLanes got l).map (·.lane)).Nodup := by
  induction l generalizing got with
  | nil => exact ⟨fun _ h => h, fun _ h => .inl h, hg⟩
  | cons m t ih =>
    unfold fillLanes
    split
    · obtain ⟨h1, h2, h3⟩ := ih got hg
      exact ⟨h1, fun n hn => (h2 n hn).imp_right (List.mem_cons_of_mem _), h3⟩
    next hm =>
      have hg' : ((got ++ [m]).map (·.lane)).Nodup := by
        rw [List.map_append, List.nodup_append]
        refine ⟨hg, by simp, fun x hx y hy => ?_⟩
        obtain rfl : y = m.lane := by simpa using hy
        rintro rfl
        exact not_mem_lanes hm hx
      obtain ⟨h1, h2, h3⟩ := ih (got ++ [m]) hg'
      refine ⟨fun n hn => h1 n (List.mem_append_left _ hn), fun n hn => ?_, h3⟩
      rcases h2 n hn with h | h
      · rcases List.mem_append.1 h with h | h
        · exact .inl h
        · exact .inr (List.mem_singleton.1 h ▸ List.mem_cons_self ..)
      · exact .inr (List.mem_cons_of_mem _ h)

/-- Warps added one by one, each whole or not at all. -/
theorem fillWhole_spec (ls : List (List Member)) (got : List Member) (hg : (got.map (·.lane)).Nodup)
    (hl : ∀ l ∈ ls, (l.map (·.lane)).Nodup) :
    (∀ n ∈ got, n ∈ fillWhole got ls) ∧ (∀ n ∈ fillWhole got ls, n ∈ got ∨ ∃ l ∈ ls, n ∈ l) ∧
      ((fillWhole got ls).map (·.lane)).Nodup := by
  induction ls generalizing got with
  | nil => exact ⟨fun _ h => h, fun _ h => .inl h, hg⟩
  | cons l t ih =>
    have ht : ∀ x ∈ t, (x.map (·.lane)).Nodup := fun x hx => hl x (List.mem_cons_of_mem _ hx)
    have up : ∀ n, (∃ x ∈ t, n ∈ x) → ∃ x ∈ l :: t, n ∈ x := fun n ⟨x, hx, hn⟩ => ⟨x, List.mem_cons_of_mem _ hx, hn⟩
    unfold fillWhole
    split
    · obtain ⟨h1, h2, h3⟩ := ih got hg ht
      exact ⟨h1, fun n hn => (h2 n hn).imp_right (up n), h3⟩
    next hm =>
      have hg' : ((got ++ l).map (·.lane)).Nodup := by
        rw [List.map_append, List.nodup_append]
        refine ⟨hg, hl l (List.mem_cons_self ..), fun x hx y hy => ?_⟩
        obtain ⟨m, hm', rfl⟩ := List.mem_map.1 hy
        rintro rfl
        exact not_mem_lanes (fun h => hm (List.any_eq_true.2 ⟨m, hm', h⟩)) hx
      obtain ⟨h1, h2, h3⟩ := ih (got ++ l) hg' ht
      refine ⟨fun n hn => h1 n (List.mem_append_left _ hn), fun n hn => ?_, h3⟩
      rcases h2 n hn with h | h
      · exact (List.mem_append.1 h).imp_right fun h => ⟨l, List.mem_cons_self .., h⟩
      · exact .inr (up n h)

/-! ### The members of an issue group (R17, R284) -/

theorem leadMember_mem {s : State} {q : Nat} {ready : List Member} {m : Member} (h : leadMember s q ready = some m) : m ∈ ready := by
  suffices hm : m ∈ byAge s ready from (mem_byKey _ _ _).1 hm
  unfold leadMember at h
  dsimp only at h
  split at h
  next x hrot =>
    cases h
    split at hrot
    · cases hrot
    · split at hrot
      · exact List.mem_of_find?_eq_some hrot
      · cases hrot
  next =>
    split at h
    next x hx => cases h; exact List.mem_of_find?_eq_some hx
    next => exact List.mem_of_mem_head? h

/-- Members of one warp, each listed once, have each a lane of their own. -/
theorem nodup_lanes_of_warp {l : List Member} {w : Nat} (hl : l.Nodup) (hw : ∀ m ∈ l, m.warp = w) : (l.map (·.lane)).Nodup := by
  refine List.Nodup.map_on (fun x hx y hy e => ?_) hl
  have := (hw x hx).trans (hw y hy).symm
  cases x; cases y
  simp_all

/-- A thread may share an issue group with the lead thread (R17). -/
theorem sameClause_iff (s : State) (a b : Member) :
    sameClause s a b = true ↔ (warpOf s a.warp).wg = (warpOf s b.warp).wg ∧ (thrOf s a).pc = (thrOf s b).pc ∧
      (thrOf s a).pos = (thrOf s b).pos ∧ (thrOf s a).gid = 0 ∧ (thrOf s b).gid = 0 := by
  simp only [sameClause, Bool.and_eq_true, beq_iff_eq, decide_eq_true_eq, and_assoc]

theorem gather_deferred {s : State} {ready : List Member} {m : Member} (h : (thrOf s m).gid ≠ 0) :
    gather s ready m = byLane (oneMember s m) := if_pos h

/-- The members that a lead thread's group takes from its candidates, before they stand in ascending lane. -/
def taken (whole : Bool) (lead : Member) (cand : List Member) : List Member :=
  let others := cand.filter fun n => n.warp != lead.warp
  if whole then fillWhole (cand.filter fun n => n.warp == lead.warp) ((warpsIn others).map fun w => others.filter fun n => n.warp == w)
  else fillLanes [lead] (cand.filter fun n => n != lead)

theorem gather_eq {s : State} {ready : List Member} {m : Member} (h : (thrOf s m).gid = 0) : ∃ whole, gather s ready m =
    byLane (taken whole m ((byAge s ready).filter fun n => sameClause s m n && (!singleWarp s m.warp || n.warp == m.warp))) := by
  unfold gather
  rw [if_neg (not_not.2 h)]
  exact ⟨_, rfl⟩

theorem taken_spec {m : Member} {cand : List Member} (whole : Bool) (hm : m ∈ cand) (hc : cand.Nodup) :
    m ∈ taken whole m cand ∧ (∀ n ∈ taken whole m cand, n ∈ cand) ∧ ((taken whole m cand).map (·.lane)).Nodup := by
  cases whole with
  | true =>
    have hwarp : ∀ (k : Member → Bool) (w : Nat), (∀ n, k n = true → n.warp = w) → ((cand.filter k).map (·.lane)).Nodup :=
      fun k w hk => nodup_lanes_of_warp (hc.filter k) fun n hn => hk n (List.mem_filter.1 hn).2
    obtain ⟨h1, h2, h3⟩ := fillWhole_spec
      ((warpsIn (cand.filter fun n => n.warp != m.warp)).map fun w =>
        (cand.filter fun n => n.warp != m.warp).filter fun n => n.warp == w)
      (cand.filter fun n => n.warp == m.warp) (hwarp _ m.warp fun n hn => by simpa using hn) (by
        intro l hl
        obtain ⟨w, -, rfl⟩ := List.mem_map.1 hl
        rw [List.filter_filter]
        exact hwarp _ w fun n hn => by simp at hn; exact hn.1)
    refine ⟨h1 m (List.mem_filter.2 ⟨hm, by simp⟩), fun n hn => ?_, h3⟩
    rcases h2 n hn with hn | ⟨l, hl, hn⟩
    · exact (List.mem_filter.1 hn).1
    · obtain ⟨w, -, rfl⟩ := List.mem_map.1 hl
      exact (List.mem_filter.1 (List.mem_filter.1 hn).1).1
  | false =>
    obtain ⟨h1, h2, h3⟩ := fillLanes_spec (cand.filter fun n => n != m) [m] (by simp)
    refine ⟨h1 m (List.mem_singleton_self m), fun n hn => ?_, h3⟩
    rcases h2 n hn with hn | hn
    · exact List.mem_singleton.1 hn ▸ hm
    · exact (List.mem_filter.1 hn).1

/-- The group of a lead thread that was not deferred as part of one: the lead itself, and ready threads of its workgroup at its place,
each in a lane of its own. -/
theorem gather_fresh {s : State} {ready : List Member} {m : Member} (h0 : (thrOf s m).gid = 0) (hr : ready.Nodup) (hm : m ∈ ready) :
    m ∈ gather s ready m ∧ ((gather s ready m).map (·.lane)).Nodup ∧
      ∀ n ∈ gather s ready m, n ∈ ready ∧ sameClause s m n = true := by
  obtain ⟨whole, hw⟩ := gather_eq (ready := ready) h0
  rw [hw]
  have hself : sameClause s m m = true := (sameClause_iff s m m).2 ⟨rfl, rfl, rfl, h0, h0⟩
  have hmem : m ∈ (byAge s ready).filter fun n => sameClause s m n && (!singleWarp s m.warp || n.warp == m.warp) :=
    List.mem_filter.2 ⟨(mem_byKey _ _ _).2 hm, by simp [hself]⟩
  obtain ⟨h1, h2, h3⟩ := taken_spec whole hmem ((nodup_byAge s hr).filter _)
  refine ⟨(mem_byKey _ _ _).2 h1, nodup_lanes_byLane h3, fun n hn => ?_⟩
  obtain ⟨hn, hk⟩ := List.mem_filter.1 (h2 n ((mem_byKey _ _ _).1 hn))
  exact ⟨(mem_byKey _ _ _).1 hn, (Bool.and_eq_true _ _ ▸ hk).1⟩

/-! ### The start of a group -/

@[simp] theorem groupAt_hdr (c : Clause) (pc : Pair) (pos : Nat) : (groupAt c pc pos).hdr = c.hdr := by
  unfold groupAt; dsimp only; split <;> rfl
@[simp] theorem groupAt_body (c : Clause) (pc : Pair) (pos : Nat) : (groupAt c pc pos).body = c.body := by
  unfold groupAt; dsimp only; split <;> rfl
@[simp] theorem groupAt_pc (c : Clause) (pc : Pair) (pos : Nat) : (groupAt c pc pos).pc = pc := by
  unfold groupAt; dsimp only; split <;> rfl
@[simp] theorem groupAt_pos (c : Clause) (pc : Pair) (pos : Nat) : (groupAt c pc pos).pos = pos - 1 := by
  unfold groupAt; dsimp only; split <;> rfl

theorem warps_fetchTrace (s : State) (w va : Nat) : (fetchTrace s w va).warps = s.warps := by
  unfold fetchTrace
  dsimp only
  split <;> rfl

theorem present_updThr (s : State) (m : Member) (f : Thread → Thread) (w l : Nat) : present (updThr s m f) w l = present s w l := by
  unfold present updThr
  rw [warpOf_updWarp]
  split
  · rw [tblGet?_tblUpd]; split <;> simp
  · rfl

theorem wbase_updThr (s : State) (m : Member) (f : Thread → Thread) (w : Nat) :
    (warpOf (updThr s m f) w).wbase = (warpOf s w).wbase := by
  unfold updThr
  rw [warpOf_updWarp]
  split <;> rfl

/-- A thread at the entry of a clause takes its warp's window base (R99). -/
def enterBase (s : State) (m : Member) : State :=
  if (thrOf s m).pos = 0 then updThr s m fun t => { t with base := (warpOf s m.warp).wbase } else s

theorem present_enterBase (s : State) (m : Member) (w l : Nat) : present (enterBase s m) w l = present s w l := by
  unfold enterBase
  split
  · exact present_updThr ..
  · rfl

theorem wbase_enterBase (s : State) (m : Member) (w : Nat) : (warpOf (enterBase s m) w).wbase = (warpOf s w).wbase := by
  unfold enterBase
  split
  · exact wbase_updThr ..
  · rfl

theorem thrOf_enterBase (s : State) (m n : Member) :
    thrOf (enterBase s m) n = if m = n ∧ (thrOf s n).pos = 0 ∧ present s n.warp n.lane = true
      then { thrOf s n with base := (warpOf s n.warp).wbase } else thrOf s n := by
  by_cases h0 : (thrOf s m).pos = 0
  · rw [enterBase, if_pos h0, thrOf_updThr]
    by_cases hm : m = n
    · subst hm; simp [h0]
    · simp [hm]
  · rw [enterBase, if_neg h0, if_neg]
    rintro ⟨rfl, h, -⟩
    exact h0 h

theorem thrOf_foldl_enterBase (ms : List Member) (s : State) (n : Member) :
    thrOf (ms.foldl enterBase s) n = if n ∈ ms ∧ (thrOf s n).pos = 0 ∧ present s n.warp n.lane = true
      then { thrOf s n with base := (warpOf s n.warp).wbase } else thrOf s n := by
  induction ms generalizing s with
  | nil => simp
  | cons m t ih =>
    rw [List.foldl_cons, ih, present_enterBase, wbase_enterBase, thrOf_enterBase]
    by_cases hm : m = n
    · subst hm
      by_cases hp : (thrOf s m).pos = 0 ∧ present s m.warp m.lane = true
      · simp [hp]
      · rw [if_neg (c := m = m ∧ _) fun h => hp h.2, if_neg fun h => hp h.2, if_neg fun h => hp h.2]
    · rw [if_neg (c := m = n ∧ _) fun h => hm h.1]
      simp [Ne.symm hm]

/-- The group that a start places in its slot, and the window base of its threads at the entry. -/
theorem startGroup_spec (s : State) (q : Nat) (c : Clause) (ms : List Member) :
    ∃ h, tblGet? (startGroup s q c ms).groups q = some h ∧ h.mem = ms ∧ h.hdr = c.hdr ∧ h.body = c.body ∧
      h.pc = (thrOf s (ms.headD {})).pc ∧ h.pos = (thrOf s (ms.headD {})).pos - 1 ∧ h.wg = (warpOf s (ms.headD {}).warp).wg ∧
      ∀ n ∈ ms, (thrOf s n).pos = 0 → present s n.warp n.lane = true → (thrOf (startGroup s q c ms) n).base = (warpOf s n.warp).wbase := by
  refine ⟨{ groupAt c (thrOf s (ms.headD {})).pc (thrOf s (ms.headD {})).pos with wg := (warpOf s (ms.headD {}).warp).wg, mem := ms },
    (tblGet?_tblSet ..).trans (if_pos rfl), rfl, groupAt_hdr .., groupAt_body .., groupAt_pc .., groupAt_pos ..,
    rfl, fun n hn h0 hp => ?_⟩
  let t := if (wgOfWarp s (ms.headD {}).warp).fresh
    then updWg (fetchTrace s (ms.headD {}).warp (thrOf s (ms.headD {})).pc.toNat) (warpOf s (ms.headD {}).warp).wg fun h => { h with fresh := false }
    else fetchTrace s (ms.headD {}).warp (thrOf s (ms.headD {})).pc.toNat
  have ht : t.warps = s.warps := by
    dsimp only [t]
    split <;> exact warps_fetchTrace ..
  have hthr : thrOf (startGroup s q c ms) n = thrOf (ms.foldl enterBase t) n := rfl
  rw [hthr, thrOf_foldl_enterBase, thrOf_congr ht, warpOf_congr ht, present_congr ht, if_pos ⟨hn, h0, hp⟩]

/-- A group whose fetch and checks pass, and none of whose members stops, starts its clause. -/
theorem issueGroup_start {s : State} {q : Nat} {c : Clause} {ms : List Member} (hne : ms ≠ [])
    (h : ∀ n ∈ ms, clauseAt s n.warp (thrOf s n).pc = .ok c ∧ badPlace s n.warp (thrOf s n).pc = false ∧ stopsHere s c n = false ∧
      entryBad (pkgAt s (pcPkg (keyCore q))).full (isPriv s n.warp) c = none) :
    issueGroup s q ms = startGroup s q c ms := by
  obtain ⟨m, hm, hmem⟩ : ∃ m, ms.headD {} = m ∧ m ∈ ms := by
    cases ms with
    | nil => exact absurd rfl hne
    | cons m t => exact ⟨m, rfl, List.mem_cons_self ..⟩
  obtain ⟨hc, hb, -, he⟩ := h m hmem
  have hstop : (ms.filter fun n => stopsHere s c n) = [] := List.filter_eq_nil_iff.2 fun n hn => by simp [(h n hn).2.2.1]
  have hgo : (ms.filter fun n => !stopsHere s c n) = ms := List.filter_eq_self.2 fun n hn => by simp [(h n hn).2.2.1]
  unfold issueGroup
  simp only [hm, hc, hb, he, hstop, hgo, List.foldl_nil, Bool.false_eq_true, if_false]
  rw [if_neg (by simpa using hne)]

/-! ### Traps at the entry of a clause (R63, R338) -/

/-- A group of one member: its warp traps where it stands, and the record names its lane. -/
theorem entryTrap_one (s : State) (m : Member) (mk : Nat → Nat → Trap) :
    entryTrap s [m] mk = takeTrap s (mk m.warp m.lane) (thrOf s m).pc (thrOf s m).pos := by
  have hw : warpsIn [m] = [m.warp] := rfl
  have hl : ((([m] : List Member).find? fun n => !(thrOf s n).helper).getD m).lane = m.lane := by
    cases h : (thrOf s m).helper <;> simp [h]
  unfold entryTrap
  simp only [hw, List.foldl_cons, List.foldl_nil, List.filter_cons, beq_self_eq_true, if_true, List.filter_nil, List.headD_cons, hl]

end Sys2Proof.Machine

section
open Sys2Proof Sys2Proof.Machine

/-- R17, R63, R99, R284: a clause whose fetch and checks pass. -/
theorem clauseStarts : Claims.ClauseStarts := by
  intro s c m q s1 s2 ms hdue hlead hnd hne hall
  have hw1 : s1.warps = s.warps := by dsimp only [s1]; split <;> rfl
  have hw2 : s2.warps = s.warps := by dsimp only [s2]; split <;> exact hw1
  have hexec : exec .clauseIssue s = .next (startGroup s2 q c ms) := by
    have h1 : exec .clauseIssue s = .next (issueClause s q) := if_pos hdue
    have h2 : issueClause s q = issueGroup s2 q ms := by
      show (match leadMember s1 q (slotReady s1 q) with | none => s1 | some m => _) = _
      rw [hlead]
    rw [h1, h2, issueGroup_start hne hall]
  obtain ⟨h, hg, hmem, hhdr, hbody, hpc, hpos, hwg, hbase⟩ := startGroup_spec s2 q c ms
  simp only [thrOf_congr hw2, warpOf_congr hw2, present_congr hw2] at hpc hpos hwg hbase
  refine ⟨_, h, hexec, hg, hmem, hhdr, hbody, hpc, hpos, hwg, hbase, fun hgid => ?_, fun hgid => ?_⟩
  · exact gather_deferred (by rw [thrOf_congr hw2]; exact hgid)
  · obtain ⟨h1, h2, h3⟩ := gather_fresh (s := s2) (by rw [thrOf_congr hw2]; exact hgid) hnd (leadMember_mem hlead)
    refine ⟨h1, h2, fun n hn => ?_⟩
    obtain ⟨hr, hs⟩ := h3 n hn
    obtain ⟨ewg, epc, epos, -, egid⟩ := (sameClause_iff s2 m n).1 hs
    simp only [thrOf_congr hw2, warpOf_congr hw2] at ewg epc epos egid
    exact ⟨hr, egid, ewg.symm, epc.symm, epos.symm⟩

/-- R62, R63, R338: a clause that a thread's fetch does not reach, or whose checks fail. -/
theorem clauseTraps : Claims.ClauseTraps := by
  intro s q m
  dsimp only
  refine ⟨fun e he hne => ?_, fun he => ?_, fun c hc hb => ?_, fun c b hc hb he => ?_⟩
  all_goals unfold issueGroup
  all_goals dsimp only [List.headD_cons]
  · rw [he]; simp only [if_neg hne, entryTrap_one]
  · rw [he]; simp only [if_true, entryTrap_one]
  · rw [hc]; simp only [hb, if_true, entryTrap_one]
  · rw [hc]; simp only [hb, he, Bool.false_eq_true, if_false, entryTrap_one]

/-- Settles O8: the start of a group, and the traps of a clause that does not start. -/
theorem clauseIssue : Obligations.ClauseIssue := ⟨clauseStarts, clauseTraps⟩

end

/-! ## Conversions to a narrow format (O21) -/

namespace Sys2Proof.Machine

/-! ### What reading a constant slot leaves (R39, R215) -/

/-- Two states differ in memory with its keys and poison, and in the contexts, parts and logical cores, alone. -/
structure ReadFrame (s u : State) : Prop where
  rest : { u with mem := s.mem, poison := s.poison, lineKey := s.lineKey, ctxs := s.ctxs, parts := s.parts, lcores := s.lcores } = s

theorem ReadFrame.refl (s : State) : ReadFrame s s := ⟨rfl⟩
theorem ReadFrame.trans {s t u : State} (h : ReadFrame s t) (k : ReadFrame t u) : ReadFrame s u := by
  have h1 := h.rest
  have k1 := k.rest
  exact ⟨by rw [← k1] at h1; exact h1⟩
theorem ReadFrame.foldl {β : Type} (l : List β) (f : State → β → State) (s : State) (h : ∀ s x, ReadFrame s (f s x)) :
    ReadFrame s (l.foldl f s) := by
  induction l generalizing s with
  | nil => exact .refl s
  | cons x t ih => exact (h s x).trans (ih _)
theorem ReadFrame.wgs {s u : State} (h : ReadFrame s u) : u.wgs = s.wgs := by have := congrArg State.wgs h.rest; exact this

theorem HomeFrame.readFrame {s u : State} (h : HomeFrame s u) : ReadFrame s u := by
  have hr := h.rest
  have hp : u.parts = s.parts := by have := congrArg State.parts hr; exact this
  have hl : u.lcores = s.lcores := by have := congrArg State.lcores hr; exact this
  exact ⟨by rw [← hp, ← hl]; exact hr⟩

theorem readFrame_putHome (s : State) (a key : Nat) (data : List Byte) : ReadFrame s (putHome s a key data) :=
  (homeFrame_putHome s a key data).readFrame

theorem readFrame_appendAudit (s : State) (k va ident tag kind place : Nat) : ReadFrame s (appendAudit s k va ident tag kind place) := by
  have hctx : ∀ f, ReadFrame s (updCtx s (k / 8192) f) := fun f => ⟨rfl⟩
  unfold appendAudit
  dsimp only
  split
  · exact hctx _
  · split
    · exact (hctx _).trans (readFrame_putHome ..)
    · exact (hctx _).trans ((readFrame_putHome ..).trans (readFrame_putHome ..))

theorem readFrame_fillTlb (s : State) (part : Nat) (e : TlbEntry) : ReadFrame s (fillTlb s part e) := ⟨rfl⟩

theorem readFrame_fillClr (s : State) (part ident tag : Nat) : ReadFrame s (fillClr s part ident tag) := by
  unfold fillClr
  split
  · exact .refl s
  · exact ⟨rfl⟩

theorem readFrame_constTrace (s : State) (m : Member) (off n : Nat) : ReadFrame s (constTrace s m off n) := by
  unfold constTrace
  dsimp only
  split
  · exact .refl s
  · split
    · exact .refl s
    next e _ =>
      have hfill : ReadFrame s (fillClr (fillTlb s (lkPart (wgOfWarp s m.warp).lcore) e) (lkPart (wgOfWarp s m.warp).lcore)
          (warpOf s m.warp).ident.toNat e.tag) := (readFrame_fillTlb ..).trans (readFrame_fillClr ..)
      split
      · exact hfill.trans ⟨rfl⟩
      · split
        · exact hfill
        · exact hfill.trans (readFrame_appendAudit ..)
      · exact hfill

theorem readFrame_constTraces (s : State) (sh : Shape) (ms : List Member) : ReadFrame s (constTraces s sh ms) := by
  unfold constTraces
  refine ReadFrame.foldl _ _ _ fun s x => ?_
  split
  · exact ReadFrame.foldl _ _ _ fun s m => ReadFrame.foldl _ _ _ fun s k => readFrame_constTrace ..
  · exact .refl s

theorem sameFrame_noted (s : State) (g : Group) (i : Instr) : SameFrame (constTraces s (shapeOf i) (actors s g i)) (noted s g i) := by
  unfold noted
  rw [redunMark_own]
  exact (sameFrame_clearRun ..).1

theorem SameFrame.wgs {s u : State} (h : SameFrame s u) : u.wgs = s.wgs := by have := congrArg State.wgs (h.rest []); exact this

theorem wgs_noted (s : State) (g : Group) (i : Instr) : (noted s g i).wgs = s.wgs :=
  (sameFrame_noted s g i).wgs.trans (readFrame_constTraces ..).wgs

theorem wg_noted (s : State) (g : Group) (i : Instr) (w : Nat) : (warpOf (noted s g i) w).wg = (warpOf s w).wg := by
  have h : (warpOf (noted s g i) w).wg = (warpOf (constTraces s (shapeOf i) (actors s g i)) w).wg :=
    by have := congrArg Warp.wg ((sameFrame_noted s g i).warp w); exact this
  rw [h, warpOf_congr (warps_constTraces ..)]

/-! ### Results do not depend on the workgroups -/

/-- A state with other workgroups. -/
def withWgs (x : Tbl Wg) (s : State) : State := { s with wgs := x }

theorem foldl_withWgs {β : Type} (x : Tbl Wg) (l : List β) (f : State → β → State) (s : State)
    (h : ∀ s e, f (withWgs x s) e = withWgs x (f s e)) : l.foldl f (withWgs x s) = withWgs x (l.foldl f s) := by
  induction l generalizing s with
  | nil => rfl
  | cons e t ih => rw [List.foldl_cons, List.foldl_cons, h, ih]

theorem putVec_withWgs (x : Tbl Wg) (s : State) (m : Member) (f : Nat) (v : Val) (n : Nat) :
    putVec (withWgs x s) m f v n = withWgs x (putVec s m f v n) := by
  induction n with
  | zero => rfl
  | succ n ih => exact (congrArg (fun t => setVreg t m.warp m.lane ((thrOf s m).base + f + n) (v.extractLsb' (32 * n) 32)) ih).trans rfl

theorem putUni_withWgs (x : Tbl Wg) (s : State) (w u : Nat) (v : Val) (n : Nat) :
    putUni (withWgs x s) w u v n = withWgs x (putUni s w u v n) := by
  induction n with
  | zero => rfl
  | succ n ih => exact (congrArg (fun t => setUreg t w (u + n) (v.extractLsb' (32 * n) 32)) ih).trans rfl

theorem uniStep_withWgs (x : Tbl Wg) (s : State) (vals : List (Member × Val)) (u k : Nat) (t : State) (w : Nat) :
    uniStep s vals u k (withWgs x t) w = withWgs x (uniStep s vals u k t w) := by
  unfold uniStep
  split
  · exact putUni_withWgs ..
  · rfl

theorem writeD_withWgs (x : Tbl Wg) (s : State) (y : Slot) (vals : List (Member × Val)) :
    writeD (withWgs x s) y vals = withWgs x (writeD s y vals) := by
  by_cases h1 : y.f.toNat < 96
  · unfold writeD
    simp only [h1, if_true]
    exact foldl_withWgs x _ _ _ fun s e => putVec_withWgs ..
  · by_cases h2 : y.f.toNat < 112
    · rw [writeD_uni _ _ _ h1 h2, writeD_uni _ _ _ h1 h2]
      exact foldl_withWgs x _ (uniStep s vals _ _) s fun t w => uniStep_withWgs ..
    · unfold writeD
      simp only [h1, h2, if_false]

theorem applyRes_withWgs (x : Tbl Wg) (s : State) (sh : Shape) (ms : List Member) (R : Member → Res) :
    applyRes (withWgs x s) sh (ms.map fun m => (m, R m)) = withWgs x (applyRes s sh (ms.map fun m => (m, R m))) := by
  have hp : ∀ s e, predStep (withWgs x s) e = withWgs x (predStep s e) := fun s e => by
    unfold predStep
    split <;> rfl
  have hf : ∀ s e, fpStep (withWgs x s) e = withWgs x (fpStep s e) := fun s e => by
    unfold fpStep
    have hh : (thrOf (withWgs x s) e.1).helper = (thrOf s e.1).helper := rfl
    rw [hh]
    split <;> rfl
  rw [applyRes_eq, applyRes_eq, writeD_withWgs, foldl_withWgs x _ _ _ hp, foldl_withWgs x _ _ _ hf]

/-- The results applied in a state with other workgroups, and these put back. -/
theorem applyRes_withWgs_restored (x : Tbl Wg) (s : State) (sh : Shape) (ms : List Member) (R : Member → Res) :
    { applyRes (withWgs x s) sh (ms.map fun m => (m, R m)) with wgs := s.wgs } = applyRes s sh (ms.map fun m => (m, R m)) := by
  rw [applyRes_withWgs]
  have hw := (sameFrame_applyRes s sh ms R).wgs
  generalize applyRes s sh (ms.map fun m => (m, R m)) = u at hw
  rw [← hw]
  rfl

/-! ### Stepping generator words (R127, R148) -/

/-- A holder that is there holds a bank. -/
def bankIn (s : State) (h b : Nat) : Prop := (tblGet? s.wgs h).isSome = true ∧ (tblGet? (wgOf s h).banks b).isSome = true

theorem bankIn_congr {s u : State} (h : u.wgs = s.wgs) (g b : Nat) : bankIn u g b ↔ bankIn s g b := by unfold bankIn wgOf; rw [h]
theorem genWord_congr {s u : State} (h : u.wgs = s.wgs) (g b c : Nat) : Claims.genWord u g b c = Claims.genWord s g b c := by
  unfold Claims.genWord wgOf; rw [h]
theorem accGet_congr {s u : State} (h : u.wgs = s.wgs) (g b e : Nat) : accGet u g b e = accGet s g b e := by
  unfold accGet wgOf; rw [h]

/-- The state after a change of one bank of a holder. -/
def updBank (s : State) (g b : Nat) (f : Bank → Bank) : State := updWg s g fun w => { w with banks := tblUpd w.banks b f }

theorem wgOf_updBank (s : State) (g b h : Nat) (f : Bank → Bank) :
    wgOf (updBank s g b f) h = if g = h ∧ (tblGet? s.wgs h).isSome = true then { wgOf s h with banks := tblUpd (wgOf s h).banks b f }
      else wgOf s h := by
  unfold wgOf updBank updWg
  rw [tblGet_tblUpd]

theorem bankIn_updBank (s : State) (g b h x : Nat) (f : Bank → Bank) : bankIn (updBank s g b f) h x ↔ bankIn s h x := by
  have hw : (tblGet? (updBank s g b f).wgs h).isSome = (tblGet? s.wgs h).isSome := by
    unfold updBank updWg
    rw [tblGet?_tblUpd]
    split <;> simp
  unfold bankIn
  rw [hw, wgOf_updBank]
  split
  · rw [tblGet?_tblUpd]
    split <;> simp
  · rfl

open Classical in
theorem bank_updBank (s : State) (g b h x : Nat) (f : Bank → Bank) :
    tblGet (wgOf (updBank s g b f) h).banks x =
      if g = h ∧ b = x ∧ bankIn s h x then f (tblGet (wgOf s h).banks x) else tblGet (wgOf s h).banks x := by
  unfold bankIn
  rw [wgOf_updBank]
  by_cases hg : g = h ∧ (tblGet? s.wgs h).isSome = true
  · simp [hg, tblGet_tblUpd]
  · rw [if_neg hg, if_neg fun hh => hg ⟨hh.1, hh.2.2.1⟩]

/-- The state after one step of the generator word of a member's lane in bank b of its holder. -/
def genStepped (b : Nat) (s : State) (m : Member) : State := (stepGen s (warpOf s m.warp).wg b m.lane).2

theorem genStepped_eq (b : Nat) (s : State) (m : Member) : genStepped b s m = updBank s (warpOf s m.warp).wg b fun k =>
    { k with gens := bmSet k.gens m.lane (genStep (Claims.genWord s (warpOf s m.warp).wg b m.lane)) } := rfl

theorem warps_foldl_genStepped (b : Nat) (ms : List Member) (s : State) : (ms.foldl (genStepped b) s).warps = s.warps :=
  warps_foldl _ _ _ fun _ _ => rfl

theorem foldl_genStepped_withWgs (b : Nat) (ms : List Member) (s : State) :
    ms.foldl (genStepped b) s = withWgs (ms.foldl (genStepped b) s).wgs s := by
  induction ms generalizing s with
  | nil => rfl
  | cons m t ih =>
    rw [List.foldl_cons]
    exact (ih (genStepped b s m)).trans rfl

theorem genWord_genStepped_ne (b : Nat) (s : State) (m : Member) (h x c : Nat)
    (hne : ¬ ((warpOf s m.warp).wg = h ∧ x = b ∧ c = m.lane)) : Claims.genWord (genStepped b s m) h x c = Claims.genWord s h x c := by
  classical
  unfold Claims.genWord
  rw [genStepped_eq, bank_updBank]
  split
  next hin =>
    rw [bmGet_bmSet, if_neg]
    exact fun hc => hne ⟨hin.1, hin.2.1.symm, hc.symm⟩
  next => rfl

theorem genWord_genStepped (b : Nat) (s : State) (m : Member) (hb : bankIn s (warpOf s m.warp).wg b) :
    Claims.genWord (genStepped b s m) (warpOf s m.warp).wg b m.lane = genStep (Claims.genWord s (warpOf s m.warp).wg b m.lane) := by
  classical
  unfold Claims.genWord
  rw [genStepped_eq, bank_updBank, if_pos ⟨rfl, rfl, hb⟩, bmGet_bmSet, if_pos rfl]
  rfl

theorem accGet_genStepped (b : Nat) (s : State) (m : Member) (h x e : Nat) : accGet (genStepped b s m) h x e = accGet s h x e := by
  classical
  unfold accGet
  rw [genStepped_eq, bank_updBank]
  split <;> rfl

theorem accGet_foldl_genStepped (b : Nat) (ms : List Member) (s : State) (h x e : Nat) :
    accGet (ms.foldl (genStepped b) s) h x e = accGet s h x e :=
  foldl_inv (fun u => accGet u h x e = accGet s h x e) _ _ _ (fun _ _ hu => (accGet_genStepped ..).trans hu) rfl

theorem genWord_foldl_genStepped_ne (b : Nat) (ms : List Member) (s : State) (h x c : Nat)
    (hne : ¬ ∃ m ∈ ms, (warpOf s m.warp).wg = h ∧ x = b ∧ c = m.lane) :
    Claims.genWord (ms.foldl (genStepped b) s) h x c = Claims.genWord s h x c := by
  induction ms generalizing s with
  | nil => rfl
  | cons m t ih =>
    rw [List.foldl_cons, ih (genStepped b s m) fun ⟨n, hn, hw⟩ => hne ⟨n, List.mem_cons_of_mem _ hn, hw⟩]
    exact genWord_genStepped_ne b s m h x c fun hw => hne ⟨m, List.mem_cons_self .., hw⟩

/-- Of members in distinct lanes each steps the generator word of its own lane once. -/
theorem genWord_foldl_genStepped (b : Nat) (ms : List Member) (s : State) (hl : (ms.map (·.lane)).Nodup)
    (hb : ∀ m ∈ ms, bankIn s (warpOf s m.warp).wg b) (n : Member) (hn : n ∈ ms) :
    Claims.genWord (ms.foldl (genStepped b) s) (warpOf s n.warp).wg b n.lane =
      genStep (Claims.genWord s (warpOf s n.warp).wg b n.lane) := by
  induction ms generalizing s with
  | nil => cases hn
  | cons m t ih =>
    obtain ⟨hm, ht⟩ := List.nodup_cons.1 (List.map_cons ▸ hl)
    have hbt : ∀ k ∈ t, bankIn (genStepped b s m) (warpOf (genStepped b s m) k.warp).wg b := fun k hk =>
      (bankIn_updBank ..).2 (hb k (List.mem_cons_of_mem _ hk))
    rw [List.foldl_cons]
    rcases List.mem_cons.1 hn with rfl | hn
    · rw [genWord_foldl_genStepped_ne, genWord_genStepped b s n (hb n (List.mem_cons_self ..))]
      rintro ⟨k, hk, -, -, hc⟩
      exact hm (hc ▸ List.mem_map_of_mem hk)
    · have hlane : ¬ n.lane = m.lane := fun hc => hm (hc ▸ List.mem_map_of_mem hn)
      exact (ih (genStepped b s m) ht hbt hn).trans
        (congrArg genStep (genWord_genStepped_ne b s m _ b n.lane fun hc => hlane hc.2.2))

/-- The state in which an instruction makes its effect, after each actor has stepped the generator word of its lane. -/
def actorsStepped (s : State) (g : Group) (i : Instr) (b : Nat) : State := (actors s g i).foldl (genStepped b) (noted s g i)

theorem actorsStepped_withWgs (s : State) (g : Group) (i : Instr) (b : Nat) : ∃ x, actorsStepped s g i b = withWgs x (noted s g i) :=
  ⟨_, foldl_genStepped_withWgs ..⟩

theorem genWord_actorsStepped {s : State} {g : Group} {i : Instr} {b : Nat} (hl : ((actors s g i).map (·.lane)).Nodup)
    (hb : ∀ m ∈ actors s g i, bankIn s (warpOf s m.warp).wg b) {m : Member} (hm : m ∈ actors s g i) :
    Claims.genWord (actorsStepped s g i b) (warpOf s m.warp).wg b m.lane = genStep (Claims.genWord s (warpOf s m.warp).wg b m.lane) := by
  have hstep := genWord_foldl_genStepped b (actors s g i) (noted s g i) hl (fun n hn => by
    rw [bankIn_congr (wgs_noted ..), wg_noted]; exact hb n hn) m hm
  rwa [wg_noted, genWord_congr (wgs_noted ..)] at hstep

theorem genWord_actorsStepped_ne {s : State} {g : Group} {i : Instr} {b h x c : Nat}
    (hne : ¬ ∃ m ∈ actors s g i, (warpOf s m.warp).wg = h ∧ x = b ∧ c = m.lane) :
    Claims.genWord (actorsStepped s g i b) h x c = Claims.genWord s h x c := by
  have hkeep := genWord_foldl_genStepped_ne b (actors s g i) (noted s g i) h x c (by simpa only [wg_noted] using hne)
  rwa [genWord_congr (wgs_noted ..)] at hkeep

theorem accGet_actorsStepped (s : State) (g : Group) (i : Instr) (b h x e : Nat) :
    accGet (actorsStepped s g i b) h x e = accGet s h x e :=
  (accGet_foldl_genStepped ..).trans (accGet_congr (wgs_noted ..) ..)

/-- Results applied in that state, and the workgroups put back, are the whole effect of a register instruction. -/
theorem regEffect_actorsStepped (s : State) (g : Group) (i : Instr) (b : Nat) (R : Member → Res) :
    RegEffect s g i (actors s g i) R
      { applyRes (actorsStepped s g i b) (shapeOf i) ((actors s g i).map fun m => (m, R m)) with wgs := s.wgs } := by
  obtain ⟨x, hx⟩ := actorsStepped_withWgs s g i b
  have hres : { applyRes (actorsStepped s g i b) (shapeOf i) ((actors s g i).map fun m => (m, R m)) with wgs := s.wgs } =
      applyRes (noted s g i) (shapeOf i) ((actors s g i).map fun m => (m, R m)) := by
    rw [hx, ← wgs_noted s g i]
    exact applyRes_withWgs_restored ..
  rw [hres]
  exact regEffect_applyRes s g i _ (fun _ h => h) R

/-! ### The checks and the selector of `CVTN` -/

theorem narrowFail_eq_none {w : Warp} {k pos : Nat} (h : Claims.narrowOk w k pos) : narrowFail w k pos = none := by
  obtain ⟨hset, hpos⟩ := h
  unfold narrowFail
  rw [if_neg]
  rintro (h0 | ⟨hw, hp⟩)
  · exact hset h0
  · rcases hpos with hpos | hpos
    · exact hw hpos
    · omega

theorem selPos (b : BitVec 7) : (b.extractLsb' 3 3).toNat = b.toNat / 8 % 8 := by
  simp [BitVec.extractLsb'_toNat, Nat.shiftRight_eq_div_pow]
theorem selBank (b : BitVec 7) : (b.extractLsb' 0 3).toNat = b.toNat % 8 := by
  simp [BitVec.extractLsb'_toNat]
theorem selSr (b : BitVec 7) : b.getLsbD 6 = decide (64 ≤ b.toNat) := by
  have := b.isLt
  rw [BitVec.getLsbD, Nat.testBit_eq_decide_div_mod_eq, decide_eq_decide]
  omega

theorem cvtnFail_rounded {b : BitVec 7} {k : BitVec 2} {s : State} {m : Member} {x : Src} (hb : b.getLsbD 6 = false)
    (h : Claims.narrowOk x.w k.toNat (b.extractLsb' 3 3).toNat) : cvtnFail b k s m x = none := by
  unfold cvtnFail
  rw [narrowFail_eq_none h, hb]
  rfl

theorem cvtnFail_stochastic {b : BitVec 7} {k : BitVec 2} {s : State} {m : Member} {x : Src} {y : Bank}
    (h : Claims.narrowOk x.w k.toNat (b.extractLsb' 3 3).toNat)
    (hy : tblGet? (wgOfWarp s m.warp).banks (b.extractLsb' 0 3).toNat = some y) (hf : y.freed = false) : cvtnFail b k s m x = none := by
  unfold cvtnFail
  rw [narrowFail_eq_none h, hy]
  simp [hf]

/-! ### The results of `CVTN` -/

theorem cvtnOne_rounded {b : BitVec 7} {k : BitVec 2} (hb : b.getLsbD 6 = false) (s : State) (rs : List (Member × Res)) (m : Member)
    (x : Src) :
    cvtnOne b k (s, rs) (m, x) = (s, rs ++ [(m, Claims.narrowed x.w k.toNat (b.extractLsb' 3 3).toNat (rmOf x.w) x)]) := by
  unfold cvtnOne
  rw [hb]
  rfl

theorem cvtnOne_stochastic {b : BitVec 7} {k : BitVec 2} (hb : b.getLsbD 6 = true) (s : State) (rs : List (Member × Res)) (m : Member)
    (x : Src) :
    cvtnOne b k (s, rs) (m, x) = (genStepped (b.extractLsb' 0 3).toNat s m, rs ++ [(m, Claims.narrowed x.w k.toNat (b.extractLsb' 3 3).toNat
      (.sr (genStep (Claims.genWord s (warpOf s m.warp).wg (b.extractLsb' 0 3).toNat m.lane))) x)]) := by
  unfold cvtnOne
  rw [hb]
  rfl

theorem foldl_cvtnOne_rounded {b : BitVec 7} {k : BitVec 2} (hb : b.getLsbD 6 = false) (f : Member → Src) (ms : List Member) (s : State)
    (rs : List (Member × Res)) :
    (ms.map fun m => (m, f m)).foldl (cvtnOne b k) (s, rs) =
      (s, rs ++ ms.map fun m => (m, Claims.narrowed (f m).w k.toNat (b.extractLsb' 3 3).toNat (rmOf (f m).w) (f m))) := by
  induction ms generalizing rs with
  | nil => simp
  | cons m t ih => rw [List.map_cons, List.foldl_cons, cvtnOne_rounded hb, ih, List.append_assoc]; rfl

/-- Each member of distinct lanes rounds with the value that its own generator word steps to. -/
theorem foldl_cvtnOne_stochastic {b : BitVec 7} {k : BitVec 2} (hb : b.getLsbD 6 = true) (f : Member → Src) (ms : List Member)
    (hl : (ms.map (·.lane)).Nodup) (s : State) (rs : List (Member × Res)) :
    (ms.map fun m => (m, f m)).foldl (cvtnOne b k) (s, rs) =
      (ms.foldl (genStepped (b.extractLsb' 0 3).toNat) s, rs ++ ms.map fun m => (m, Claims.narrowed (f m).w k.toNat (b.extractLsb' 3 3).toNat
        (.sr (genStep (Claims.genWord s (warpOf s m.warp).wg (b.extractLsb' 0 3).toNat m.lane))) (f m))) := by
  induction ms generalizing s rs with
  | nil => simp
  | cons m t ih =>
    obtain ⟨hm, ht⟩ := List.nodup_cons.1 (List.map_cons ▸ hl)
    have hkeep : ∀ n ∈ t, Claims.genWord (genStepped (b.extractLsb' 0 3).toNat s m) (warpOf s n.warp).wg (b.extractLsb' 0 3).toNat n.lane =
        Claims.genWord s (warpOf s n.warp).wg (b.extractLsb' 0 3).toNat n.lane := fun n hn =>
      genWord_genStepped_ne _ _ _ _ _ _ fun hc => hm (hc.2.2 ▸ List.mem_map_of_mem hn)
    rw [List.map_cons, List.foldl_cons, cvtnOne_stochastic hb, ih ht, List.append_assoc, List.foldl_cons]
    refine Prod.ext rfl (congrArg (rs ++ ·) (congrArg (_ :: ·) (List.map_congr_left fun n hn => ?_)))
    have hwg : (warpOf (genStepped (b.extractLsb' 0 3).toNat s m) n.warp).wg = (warpOf s n.warp).wg := rfl
    rw [hwg, hkeep n hn]

/-- `CVTN` completes with the results of its actors where they pass its checks and raise no flag that is trapped on. -/
theorem exec_cvtn {p : BitVec 3} {d a b : BitVec 7} {k : BitVec 2} {s : State} {g : Group} (hg : curGroup? s = some g)
    (hop : OperandsPass s g (.cvtn p d a b k))
    (hf : ∀ m ∈ actors s g (.cvtn p d a b k), cvtnFail b k s m (sources s g (.cvtn p d a b k) m) = none) (v : State) (R : Member → Res)
    (hv : v.warps = (noted s g (.cvtn p d a b k)).warps)
    (hR : ((actors s g (.cvtn p d a b k)).map fun m => (m, sources s g (.cvtn p d a b k) m)).foldl (cvtnOne b k)
      (noted s g (.cvtn p d a b k), []) = (v, (actors s g (.cvtn p d a b k)).map fun m => (m, R m)))
    (hfp : NoFpTrap s g (.cvtn p d a b k) R) :
    exec (.cvtn p d a b k) s =
      .next (retire (applyRes v (shapeOf (.cvtn p d a b k)) ((actors s g (.cvtn p d a b k)).map fun m => (m, R m)))) := by
  have hts : fpTraps v (((actors s g (.cvtn p d a b k)).map fun m => (m, R m)).map fun e => (e.1, e.2.fp)) = [] := by
    have h : ∀ l, fpTraps v l = fpTraps (noted s g (.cvtn p d a b k)) l := fun l => by
      unfold fpTraps
      simp only [thrOf_congr hv, warpOf_congr hv]
    rw [h]
    exact fpTraps_noted s g _ _ R hfp
  show execCvtn p d a b k s = _
  unfold execCvtn
  rw [groupOp_own _ (cvtnFail b k) _ s g hg hop (fun m hm _ => hf m hm) (noted s g (.cvtn p d a b k)) rfl]
  · simp only [performers_all s g _ (cvtnFail b k) hf, hR]
  · simp only [performers_all s g _ (cvtnFail b k) hf, hR, hts]

end Sys2Proof.Machine

section
open Sys2Proof Sys2Proof.Machine

/-- R147: `CVTN` without SR. -/
theorem narrowRounded : Claims.NarrowRounded := by
  intro p d a b k s g hb hg hop hok hfp
  have hsr : b.getLsbD 6 = false := by rw [selSr, decide_eq_false_iff_not]; omega
  have hpos : (b.extractLsb' 3 3).toNat = b.toNat / 8 := by rw [selPos]; omega
  refine ⟨_, exec_cvtn hg hop (fun m hm => cvtnFail_rounded hsr (hpos ▸ hok m hm)) _ _ rfl ?_ hfp,
    regEffect_applyRes s g _ _ (fun _ h => h) _⟩
  rw [foldl_cvtnOne_rounded hsr, hpos]
  rfl

/-- R147, R148: `CVTN` with SR. -/
theorem narrowStochastic : Claims.NarrowStochastic := by
  intro p d a b k s g hb hg hop hlanes hbank hwg hok r hfp
  have hsr : b.getLsbD 6 = true := by rw [selSr, decide_eq_true_iff]; exact hb
  have hl : ((actors s g (.cvtn p d a b k)).map (·.lane)).Nodup := hlanes.sublist (List.filter_sublist.map _)
  have hin : ∀ m ∈ actors s g (.cvtn p d a b k), bankIn s (warpOf s m.warp).wg (b.toNat % 8) := fun m hm => by
    obtain ⟨y, hy, -⟩ := hbank m hm
    exact ⟨hwg m hm, Option.isSome_of_eq_some hy⟩
  have hfail : ∀ m ∈ actors s g (.cvtn p d a b k), cvtnFail b k s m (sources s g (.cvtn p d a b k) m) = none := fun m hm => by
    obtain ⟨y, hy, hfree⟩ := hbank m hm
    exact cvtnFail_stochastic (selPos b ▸ hok m hm) (selBank b ▸ hy) hfree
  have hwarps : (actorsStepped s g (.cvtn p d a b k) (b.toNat % 8)).warps = (noted s g (.cvtn p d a b k)).warps :=
    warps_foldl_genStepped ..
  have hfold := foldl_cvtnOne_stochastic hsr (k := k) (sources s g (.cvtn p d a b k)) _ hl (noted s g (.cvtn p d a b k)) []
  simp only [selPos, selBank, genWord_congr (wgs_noted ..), wg_noted, List.nil_append] at hfold
  refine ⟨_, exec_cvtn hg hop hfail _ r hwarps hfold hfp, regEffect_actorsStepped s g _ _ r, fun m hm => ?_, fun h x c hne => ?_,
    fun h x e => ?_⟩
  · exact (genWord_congr (sameFrame_applyRes ..).wgs ..).trans (genWord_actorsStepped hl hin hm)
  · exact (genWord_congr (sameFrame_applyRes ..).wgs ..).trans (genWord_actorsStepped_ne hne)
  · exact (accGet_congr (sameFrame_applyRes ..).wgs ..).trans (accGet_actorsStepped ..)

/-- Settles O21: the rounded form keeps the state of the generators, the stochastic one steps one word for each actor. -/
theorem narrowConversions : Obligations.NarrowConversions := ⟨narrowRounded, narrowStochastic⟩

end

/-! ## The completion of a grid (O47)

R276 has the summary of a completed grid stored through the page tables of its context, and R26 and R27 give every register of a resident
warp a place in the on-chip map, which a privileged context may map. A summary address on such a page makes the completion write a register. -/

namespace Sys2Proof.Machine

/-- A page that maps the window of core 0 in the on-chip map, which begins with the registers of the warp in slot 0 (R26, R27). -/
def windowPage : TlbEntry := { vbase := 0x200000, pbase := 0x7000000000000, size := 0x200000, rd := true, wr := true }

/-- A grid of one block, which has retired, with its summary at the start of that page. -/
def windowGrid : Grid := { ctx := 1, part := 8192, num := 1, started := [0], retired := 1, summary := 0x200000 }

/-- A privileged context in which that grid is about to complete, while a warp of another grid stands in slot 0 of core 0. -/
def summaryOnRegister : State :=
  { pkgs := [(0, { full := true, dies := [0, 1, 2, 3] })]
    ctxs := [(1, { priv := true })]
    parts := [(8192, { ncores := 1, tlb := [windowPage] })]
    lcores := [(16777216, { pcore := some 0 })]
    pcores := [(0, { owners := [8192] })]
    grids := [(2, windowGrid), (5, { ctx := 1, part := 8192, num := 2, started := [0] })]
    wgs := [(3, { ctx := 1, grid := 5, lcore := 16777216, threads := 1, warps := [4] })]
    warps := [(4, { ctx := 1, wg := 3, nv := 32, lanes := [(0, {})] })]
    arg := { a := 2 }
    nextId := 10 }

theorem completionDue_summaryOnRegister : completionDue summaryOnRegister 2 = true := by decide

/-- Register 0 of lane 0 holds zero before the completion, and STATE of the summary (R276) after it. -/
theorem vreg_summaryOnRegister : vreg summaryOnRegister 4 0 0 = 0 := rfl
theorem vreg_finishGrid_summaryOnRegister : vreg (finishGrid summaryOnRegister 2) 4 0 0 = 1 := by decide +kernel

/-- A completion that is due leaves the warps that the grid's end leaves: the grids that are no longer retained are no part of them. -/
theorem warps_gridCompletion {s u : State} (hd : completionDue s s.arg.a = true) (h : exec .gridCompletion s = .next (pruneGrids u)) :
    u.warps = (finishGrid s s.arg.a).warps := by
  have hx : exec .gridCompletion s = .next (pruneGrids (finishGrid s s.arg.a)) := if_pos hd
  have hp : pruneGrids u = pruneGrids (finishGrid s s.arg.a) := Host.Outcome.next.inj (h.symm.trans hx)
  have hw : (pruneGrids u).warps = (pruneGrids (finishGrid s s.arg.a)).warps := congrArg State.warps hp
  exact hw

end Sys2Proof.Machine

section
open Sys2Proof Sys2Proof.Machine

/-- The completion of a grid whose summary lies on a page of the on-chip map writes a register of a resident warp. -/
theorem not_gridCompletes : ¬ Claims.GridCompletes := by
  intro h
  obtain ⟨u, hx, -, -, hsame⟩ := h summaryOnRegister windowGrid rfl completionDue_summaryOnRegister
  have hreg := hsame.vregs 4 0 0 (by decide)
  rw [vreg_congr (warps_gridCompletion completionDue_summaryOnRegister hx)] at hreg
  have hone : (1 : Word) = 0 := (vreg_finishGrid_summaryOnRegister.symm.trans hreg).trans vreg_summaryOnRegister
  exact absurd hone (by decide)

/-- Refutes O47: a completion changes a register where a privileged context's page maps its grid's SUMMARY to the on-chip map. -/
theorem not_dealingAndPlacement : ¬ Obligations.DealingAndPlacement := fun ⟨_, _, h⟩ => not_gridCompletes h

end

/-! ## Encodings (O1, O2, O4, O3) -/

namespace Sys2Proof

/-! ### The word of a well-formed instruction decodes to it -/

namespace Laws.RoundTrip

/-- The events of the device have no word. -/
theorem statement_of_no_word {i : Instr} (h : encode i = none) : Statement i := fun _ hw => nomatch h.symm.trans hw

/-- The round trip of each instruction of the opcode map, collected (R55, R65 to R69). -/
theorem statement_all (i : Instr) : Statement i := by
  cases i with
  | addI32 => exact addI32 _ _ _ _ | subI32 => exact subI32 _ _ _ _ | addc => exact addc _ _ _ _ | subb => exact subb _ _ _ _
  | addI64 => exact addI64 _ _ _ _ | subI64 => exact subI64 _ _ _ _ | addcI64 => exact addcI64 _ _ _ _ | subbI64 => exact subbI64 _ _ _ _
  | mullo => exact mullo _ _ _ _ | mulhiUs => exact mulhiUs _ _ _ _ | mulhiSg => exact mulhiSg _ _ _ _ | mad => exact mad _ _ _ _
  | andB => exact andB _ _ _ _ | orB => exact orB _ _ _ _ | xorB => exact xorB _ _ _ _ | notB => exact notB _ _ _
  | shl => exact shl _ _ _ _ | shr => exact shr _ _ _ _ | sar => exact sar _ _ _ _ | rot => exact rot _ _ _ _
  | minSg => exact minSg _ _ _ _ | minUs => exact minUs _ _ _ _ | maxSg => exact maxSg _ _ _ _ | maxUs => exact maxUs _ _ _ _
  | abs => exact abs _ _ _ | neg => exact neg _ _ _ | clz => exact clz _ _ _ | popc => exact popc _ _ _ | brev => exact brev _ _ _
  | bfxUs => exact bfxUs _ _ _ _ | bfxSg => exact bfxSg _ _ _ _ | bfi => exact bfi _ _ _ _ | sel => exact sel _ _ _ _
  | cmpSg => exact cmpSg _ _ _ _ | cmpUs => exact cmpUs _ _ _ _ | cmpI64 => exact cmpI64 _ _ _ _ | pand => exact pand _ _ _ _
  | por => exact por _ _ _ _ | pxor => exact pxor _ _ _ _ | pnot => exact pnot _ _ _ | mov => exact mov _ _ _
  | smovToUniform => exact smovToUniform _ _ _ | smovFromUniform => exact smovFromUniform _ _ _ | movI64 => exact movI64 _ _ _
  | lea => exact lea _ _ _ _ | idx2 => exact idx2 _ _ _ _ | shlI64 => exact shlI64 _ _ _ _ | shrI64 => exact shrI64 _ _ _ _
  | sarI64 => exact sarI64 _ _ _ _ | movi => exact movi _ _ _ | addI32Immediate => exact addI32Immediate _ _ _ _
  | faddF32 => exact faddF32 _ _ _ _ | fsubF32 => exact fsubF32 _ _ _ _ | fmulF32 => exact fmulF32 _ _ _ _
  | fminF32 => exact fminF32 _ _ _ _ | fmaF32D0 => exact fmaF32D0 _ _ _ _ | fmaF32D1 => exact fmaF32D1 _ _ _ _
  | fmaF32D2 => exact fmaF32D2 _ _ _ _ | fmaF32D3 => exact fmaF32D3 _ _ _ _ | fmaxF32 => exact fmaxF32 _ _ _ _
  | fcmpF32 => exact fcmpF32 _ _ _ _ | fclassF32 => exact fclassF32 _ _ _ | faddF16 => exact faddF16 _ _ _ _
  | fsubF16 => exact fsubF16 _ _ _ _ | fmulF16 => exact fmulF16 _ _ _ _ | fminF16 => exact fminF16 _ _ _ _
  | fmaF16D0 => exact fmaF16D0 _ _ _ _ | fmaF16D1 => exact fmaF16D1 _ _ _ _ | fmaF16D2 => exact fmaF16D2 _ _ _ _
  | fmaF16D3 => exact fmaF16D3 _ _ _ _ | fmaxF16 => exact fmaxF16 _ _ _ _ | fcmpF16 => exact fcmpF16 _ _ _ _
  | fclassF16 => exact fclassF16 _ _ _ | faddBf16 => exact faddBf16 _ _ _ _ | fsubBf16 => exact fsubBf16 _ _ _ _
  | fmulBf16 => exact fmulBf16 _ _ _ _ | fminBf16 => exact fminBf16 _ _ _ _ | fmaBf16D0 => exact fmaBf16D0 _ _ _ _
  | fmaBf16D1 => exact fmaBf16D1 _ _ _ _ | fmaBf16D2 => exact fmaBf16D2 _ _ _ _ | fmaBf16D3 => exact fmaBf16D3 _ _ _ _
  | fmaxBf16 => exact fmaxBf16 _ _ _ _ | fcmpBf16 => exact fcmpBf16 _ _ _ _ | fclassBf16 => exact fclassBf16 _ _ _
  | frcp => exact frcp _ _ _ | frsq => exact frsq _ _ _ | fsqrt => exact fsqrt _ _ _ | fdiv => exact fdiv _ _ _ _
  | fex2 => exact fex2 _ _ _ | flg2 => exact flg2 _ _ _ | fsin => exact fsin _ _ _ | fcos => exact fcos _ _ _
  | frintRn => exact frintRn _ _ _ | frintRz => exact frintRz _ _ _ | frintRp => exact frintRp _ _ _ | frintRm => exact frintRm _ _ _
  | dadd => exact dadd _ _ _ _ | dmul => exact dmul _ _ _ _ | dfma => exact dfma _ _ _ _ | dcvtF64F32 => exact dcvtF64F32 _ _ _
  | dcvtF32F64 => exact dcvtF32F64 _ _ _ | dcvtF64S64 => exact dcvtF64S64 _ _ _ | dcvtS64F64 => exact dcvtS64F64 _ _ _
  | cvtRn => exact cvtRn _ _ _ _ | cvtRz => exact cvtRz _ _ _ _ | cvtRp => exact cvtRp _ _ _ _ | cvtRm => exact cvtRm _ _ _ _
  | cvtn => exact cvtn _ _ _ _ _ | cvtw => exact cvtw _ _ _ _ _ | bsext => exact bsext _ _ _ _ | bsapp => exact bsapp _ _ _ _
  | compress => exact compress _ _ _ | expand => exact expand _ _ _ _ | qswpH => exact qswpH _ _ _ | qswpV => exact qswpV _ _ _
  | qswpD => exact qswpD _ _ _ | elect => exact elect _ _ | voteAny => exact voteAny _ _ _ | voteAll => exact voteAll _ _ _
  | voteBallot => exact voteBallot _ _ _ | matchAny => exact matchAny _ _ _ | reduxI32 => exact reduxI32 _ _ _ _
  | reduxUs => exact reduxUs _ _ _ _ | reduxF32 => exact reduxF32 _ _ _ _ | scanI32 => exact scanI32 _ _ _ _
  | scanUs => exact scanUs _ _ _ _ | scanF32 => exact scanF32 _ _ _ _ | movf => exact movf _ _
  | permutationPrefix => exact permutationPrefix _ _ | ldB32 => exact ldB32 _ _ _ _ | stB32 => exact stB32 _ _ _ _
  | ldB64 => exact ldB64 _ _ _ _ | stB64 => exact stB64 _ _ _ _ | ldB128 => exact ldB128 _ _ _ _ | stB128 => exact stB128 _ _ _ _
  | ldB8 => exact ldB8 _ _ _ _ | ldB16 => exact ldB16 _ _ _ _ | stB8 => exact stB8 _ _ _ _ | stB16 => exact stB16 _ _ _ _
  | ldsB32 => exact ldsB32 _ _ _ _ | stsB32 => exact stsB32 _ _ _ _ | ldsB64 => exact ldsB64 _ _ _ _ | stsB64 => exact stsB64 _ _ _ _
  | ldcB32 => exact ldcB32 _ _ _ _ | ldcB64 => exact ldcB64 _ _ _ _ | pref => exact pref _ _ _ _ | ldrB32 => exact ldrB32 _ _ _ _
  | ldrB32Uniform => exact ldrB32Uniform _ _ _ _ | strB32 => exact strB32 _ _ _ _ | strB32Uniform => exact strB32Uniform _ _ _ _
  | atomB32 => exact atomB32 _ _ _ _ | casB32 => exact casB32 _ _ _ _ | atomB64 => exact atomB64 _ _ _ _ | casB64 => exact casB64 _ _ _ _
  | redB32 => exact redB32 _ _ _ _ | redB64 => exact redB64 _ _ _ _ | fatom => exact fatom _ _ _ _ | fatomNr => exact fatomNr _ _ _ _
  | mcas => exact mcas _ _ _ | tshape => exact tshape _ _ _ | tld => exact tld _ _ _ _ | tst => exact tst _ _ _ _
  | tmov => exact tmov _ _ _ | mmaBf16 => exact mmaBf16 _ _ _ _ | mmaF16 => exact mmaF16 _ _ _ _ | mmaNf => exact mmaNf _ _ _ _
  | mmaspBf16 => exact mmaspBf16 _ _ _ _ | mmaspF16 => exact mmaspF16 _ _ _ _ | mmaspNf => exact mmaspNf _ _ _ _
  | acalloc => exact acalloc _ _ _ | acfree => exact acfree _ _ | aczero => exact aczero _ _ | acrd => exact acrd _ _ _
  | acwr => exact acwr _ _ _ | accvt => exact accvt _ _ _ | acseed => exact acseed _ _ _ | acqry => exact acqry _ _ _
  | bra => exact bra _ _ | nop => exact nop _ | brcAny => exact brcAny _ _ _ | brcAll => exact brcAll _ _ _ | call => exact call _ _ _
  | ret => exact ret _ _ | jmpi => exact jmpi _ _ | exitT => exact exitT _ | yield => exact yield _ | convW => exact convW
  | wbase => exact wbase _ _ | acqr => exact acqr _ _ | cfence => exact cfence _ | ifence => exact ifence _ | twait => exact twait _ _ _
  | tread => exact tread _ _ _ | tsignal => exact tsignal _ _ _ | bar => exact bar _ | bara => exact bara _ _ _ | barw => exact barw _ _
  | marrive => exact marrive _ _ _ | mwait => exact mwait _ _ _ | ldfK => exact ldfK _ _ _ | ldfE => exact ldfE _ _ _
  | ste => exact ste _ _ _ | stf => exact stf _ _ _ | lde => exact lde _ _ _ | sleepT => exact sleepT _ _
  | ldAcqB32 => exact ldAcqB32 _ _ _ _ | ldAcqB64 => exact ldAcqB64 _ _ _ _ | stRelB32 => exact stRelB32 _ _ _ _
  | stRelB64 => exact stRelB64 _ _ _ _ | fenceAcq => exact fenceAcq _ _ | fenceRel => exact fenceRel _ _
  | fenceAcqrel => exact fenceAcqrel _ _ | fenceSc => exact fenceSc _ _ | cpy => exact cpy _ _ _ | gath => exact gath _ _ _
  | scat => exact scat _ _ _ | coll => exact coll _ _ _ | tbind => exact tbind _ _ _ | tunbind => exact tunbind _ _ _
  | evpop => exact evpop _ _ _ | evpush => exact evpush _ _ _ | taskrel => exact taskrel _ _ _ | launch => exact launch _ _ _
  | launchp => exact launchp _ _ _ | cancel => exact cancel _ _ _ | gridq => exact gridq _ _ _ | csrr => exact csrr _ _ _
  | csrw => exact csrw _ _ _ | setid => exact setid _ _ _ | tlbinv => exact tlbinv _ _ _ | clrinv => exact clrinv _ _ _
  | bankrole => exact bankrole _ _ _ | trap => exact trap _ _ | eret => exact eret _ _ _ | savectx => exact savectx _ _ _
  | restctx => exact restctx _ _ _ | halt => exact halt _ _ | rdclk => exact rdclk _ _ _ | rand => exact rand _ _
  | ckpt => exact ckpt _ _ _ | sigchk => exact sigchk _ _ _ | replq => exact replq _ _ _
  | _ => exact statement_of_no_word rfl

end Laws.RoundTrip

theorem decodeWord_encode {i : Instr} {w : Word} (h : encode i = some w) (hwf : i.wf = true) : decodeWord w = .ok i :=
  Laws.RoundTrip.statement_all i w h hwf

/-- Adjacent fields of a word, put together. -/
theorem extract_append {w : Nat} (x : BitVec w) (l j n k : Nat) (h : k = j + n := by rfl) :
    x.extractLsb' k l ++ x.extractLsb' j n = x.extractLsb' j (l + n) :=
  BitVec.extractLsb'_append_extractLsb'_eq_extractLsb' h

/-- R5, R51: the bytes of a word, the first at the lowest address, make the word. -/
theorem wordOfBytes_extract (w : Word) :
    wordOfBytes (w.extractLsb' 0 8) (w.extractLsb' 8 8) (w.extractLsb' 16 8) (w.extractLsb' 24 8) = w := by
  unfold wordOfBytes
  rw [extract_append w 8 16 8 24, extract_append w 16 8 8 16, extract_append w 24 0 8 8]
  exact extract_all w

theorem decodeBytes_extract {w : Word} {i : Instr} (h : decodeWord w = .ok i) (rest : List Byte) :
    decodeBytes (w.extractLsb' 0 8 :: w.extractLsb' 8 8 :: w.extractLsb' 16 8 :: w.extractLsb' 24 8 :: rest) = some (i, rest) := by
  simp only [decodeBytes, wordOfBytes_extract, h]

theorem decodeTableWord_of_decodeWord {w : Word} {i : Instr} (h : decodeWord w = .ok i) : decodeTableWord 32 w.toNat = some i := by
  unfold decodeTableWord
  rw [BitVec.ofNat_toNat, BitVec.setWidth_eq]
  simp only [decodeBytes_extract h]

end Sys2Proof

section
open Sys2Proof Sys2Proof.Machine

/-- Settles O1: the word decodes to its instruction, and its bytes and its table row make the word. -/
theorem decodeEncode : Obligations.DecodeEncode := by
  unfold Obligations.DecodeEncode
  intro i w h hwf
  have hd := decodeWord_encode h hwf
  exact ⟨hd, decodeTableWord_of_decodeWord hd, decodeBytes_extract hd⟩

end

/-! ### The fields of a word -/

namespace Sys2Proof

/-- A word is made of its fields in format R. -/
theorem word_eq_encR (w : Word) : w = encR (w.extractLsb' 26 6) (w.extractLsb' 23 3) (w.extractLsb' 16 7) (w.extractLsb' 9 7)
    (w.extractLsb' 2 7) (w.extractLsb' 0 2) := by
  unfold encR
  rw [extract_append w 6 23 3 26, extract_append w 9 16 7 23, extract_append w 16 9 7 16, extract_append w 23 2 7 9,
    extract_append w 30 0 2 2]
  exact (extract_all w).symm

theorem word_eq_encI (w : Word) : w = encI (w.extractLsb' 26 6) (w.extractLsb' 23 3) (w.extractLsb' 16 7) (w.extractLsb' 9 7)
    (w.extractLsb' 0 9) := by
  unfold encI
  rw [extract_append w 6 23 3 26, extract_append w 9 16 7 23, extract_append w 16 9 7 16, extract_append w 23 0 9 9]
  exact (extract_all w).symm

theorem word_eq_encB (w : Word) : w = encB (w.extractLsb' 26 6) (w.extractLsb' 23 3) (w.extractLsb' 0 23) := by
  unfold encB
  rw [extract_append w 6 23 3 26, extract_append w 9 0 23 23]
  exact (extract_all w).symm

/-- A field of a field. -/
theorem extract_extract {w : Nat} (x : BitVec w) (k l j n : Nat) (h : j + n ≤ l := by decide) :
    (x.extractLsb' k l).extractLsb' j n = x.extractLsb' (k + j) n := by
  apply BitVec.eq_of_getLsbD_eq
  intro i hi
  simp only [BitVec.getLsbD_extractLsb', hi, decide_true, Bool.true_and, decide_eq_true (show j + i < l by omega), Nat.add_assoc]

/-! ### A word with reserved fields cleared

A mask of a cell of format R reserves whole fields D, A and B (R64), so that clearing its bits clears those fields. -/

/-- The masks of the cells of format R: nothing, B, D, A, D with A, and A with B. -/
def fieldMasks : List Word := [0x00000000#32, 0x000001FC#32, 0x007F0000#32, 0x0000FE00#32, 0x007FFE00#32, 0x0000FFFC#32]

/-- The word of some fields in which those of D, A and B are zero that a mask reserves. -/
def cleared (maj : BitVec 6) (p : BitVec 3) (d a b : BitVec 7) (n : BitVec 2) (m : Word) : Word :=
  let keep (k : Nat) (f : BitVec 7) : BitVec 7 := if m.toNat / 2 ^ k % 2 = 1 then 0#7 else f
  encR maj p (keep 16 d) (keep 9 a) (keep 2 b) n

theorem getLsbD_and_not {w : Nat} (f x : BitVec w) (k : Nat) : (f &&& ~~~x).getLsbD k = (f.getLsbD k && !x.getLsbD k) := by
  rw [BitVec.getLsbD_and, BitVec.getLsbD_not]
  by_cases hk : k < w
  · simp [hk]
  · simp [hk, BitVec.getLsbD_of_ge f k (Nat.le_of_not_lt hk)]

theorem encR_and_not (maj : BitVec 6) (p : BitVec 3) (d a b x y z : BitVec 7) (n : BitVec 2) :
    encR maj p d a b n &&& ~~~encR 0#6 0#3 x y z 0#2 = encR maj p (d &&& ~~~x) (a &&& ~~~y) (b &&& ~~~z) n := by
  apply BitVec.eq_of_getLsbD_eq
  intro i _
  rw [getLsbD_and_not, encR_bit, encR_bit, encR_bit]
  split_ifs <;> simp only [getLsbD_and_not, BitVec.getLsbD_zero, Bool.not_false, Bool.and_true]

theorem cleared_eq {m : Word} (hm : m ∈ fieldMasks) (maj : BitVec 6) (p : BitVec 3) (d a b : BitVec 7) (n : BitVec 2) :
    cleared maj p d a b n m = encR maj p d a b n &&& ~~~m := by
  have hones (f : BitVec 7) : f &&& ~~~0#7 = f := BitVec.and_allOnes (x := f)
  have hzero (f : BitVec 7) : f &&& ~~~127#7 = 0#7 := BitVec.and_zero (x := f)
  have of_fields (x y z : BitVec 7) (hm : encR 0#6 0#3 x y z 0#2 = m)
      (h : encR maj p (d &&& ~~~x) (a &&& ~~~y) (b &&& ~~~z) n = cleared maj p d a b n m) :
      cleared maj p d a b n m = encR maj p d a b n &&& ~~~m := by
    rw [← h, ← encR_and_not, hm]
  simp only [fieldMasks, List.mem_cons, List.not_mem_nil, or_false] at hm
  rcases hm with rfl | rfl | rfl | rfl | rfl | rfl
  · exact of_fields 0#7 0#7 0#7 rfl (by rw [hones, hones, hones]; rfl)
  · exact of_fields 0#7 0#7 127#7 rfl (by rw [hones, hones, hzero]; rfl)
  · exact of_fields 127#7 0#7 0#7 rfl (by rw [hones, hones, hzero]; rfl)
  · exact of_fields 0#7 127#7 0#7 rfl (by rw [hones, hones, hzero]; rfl)
  · exact of_fields 127#7 127#7 0#7 rfl (by rw [hzero, hzero, hones]; rfl)
  · exact of_fields 0#7 127#7 127#7 rfl (by rw [hones, hzero, hzero]; rfl)

/-! ### The instruction of a cell is that of the word without its reserved bits (R55, R64 to R69) -/

/-- The instruction of a cell, where it has one, has the word that its reserved bits leave. -/
def Clean (w : Word) (c : Option (Instr × Word)) : Prop := ∀ x ∈ c, encode x.1 = some (w &&& ~~~x.2)

theorem Clean.ite {w : Word} {x y : Option (Instr × Word)} {c : Prop} [Decidable c] (hx : c → Clean w x) (hy : ¬ c → Clean w y) :
    Clean w (if c then x else y) := by
  split
  next h => exact hx h
  next h => exact hy h

theorem Clean.some {w m : Word} {i : Instr} (h : encode i = Option.some (w &&& ~~~m)) : Clean w (Option.some (i, m)) := by
  intro x hx
  obtain rfl := Option.some.inj hx
  exact h

theorem Clean.none (w : Word) : Clean w Option.none := fun _ h => nomatch h

/-- A cell whose mask reserves whole fields. -/
theorem Clean.fields {maj : BitVec 6} {p : BitVec 3} {d a b : BitVec 7} {n : BitVec 2} {i : Instr} {m : Word}
    (h : encode i = Option.some (cleared maj p d a b n m)) (hm : fieldMasks.contains m = true) :
    Clean (encR maj p d a b n) (Option.some (i, m)) :=
  .some (h.trans (congrArg Option.some (cleared_eq (List.contains_iff_mem.1 hm) ..)))

/-- The majors whose cells depend on other fields than MAJ and MIN, and those of no format R. -/
def listedMajors : List Nat := [0x0A, 0x0C, 0x0D, 0x2A, 0x2B, 0x30, 0x31, 0x32, 0x38, 0x39, 0x3A, 0x3B, 0x3C, 0x3D, 0x3E, 0x3F]

theorem clean_cellAt_fields (w : Word) {j n : Nat} (hj : j < 64) (hn : n < 4) (hl : j ∉ listedMajors) (p : BitVec 3) (d a b : BitVec 7) :
    Clean (encR (BitVec.ofNat 6 j) p d a b (BitVec.ofNat 2 n)) (cellAt w j n p d a b) := by
  interval_cases j
  all_goals first | exact absurd (List.contains_iff_mem.mp rfl) hl | interval_cases n
  all_goals first | exact .fields rfl rfl | exact .none _

theorem clean_cell38 (p : BitVec 3) (d a : BitVec 7) (k n : Nat) :
    Clean (encR 0x38#6 p d a (BitVec.ofNat 7 k) (BitVec.ofNat 2 n)) (cell38 p d a k n) := by
  unfold cell38
  split
  all_goals first | exact .fields rfl rfl | exact .none _

theorem clean_cell3A {k n : Nat} (hk : k < 128) (hn : n < 4) (p : BitVec 3) (d a : BitVec 7) :
    Clean (encR 0x3A#6 p d a (BitVec.ofNat 7 k) (BitVec.ofNat 2 n)) (cell3A p d a k n) := by
  by_cases hconv : k = 7 ∧ n = 0
  · obtain ⟨rfl, rfl⟩ := hconv
    refine .ite (fun hp => ?_) (fun _ => .none _)
    subst hp
    exact .fields rfl rfl
  · interval_cases k
    all_goals interval_cases n
    all_goals first | exact .fields rfl rfl | exact .none _ | exact absurd ⟨rfl, rfl⟩ hconv

theorem clean_cell3B (p : BitVec 3) (d a : BitVec 7) (k n : Nat) :
    Clean (encR 0x3B#6 p d a (BitVec.ofNat 7 k) (BitVec.ofNat 2 n)) (cell3B p d a k n) := by
  unfold cell3B
  split
  all_goals first | exact .fields rfl rfl | exact .none _

theorem clean_cell3E (p : BitVec 3) (d a : BitVec 7) (k n : Nat) :
    Clean (encR 0x3E#6 p d a (BitVec.ofNat 7 k) (BitVec.ofNat 2 n)) (cell3E p d a k n) := by
  unfold cell3E
  split
  all_goals first | exact .fields rfl rfl | exact .none _

/-! ### The majors of other formats, and those whose cells B or an immediate select -/

theorem Clean.of_cellAt {w : Word} {maj : BitVec 6} (hm : w.extractLsb' 26 6 = maj)
    (h : Clean w (cellAt w maj.toNat (w.extractLsb' 0 2).toNat (w.extractLsb' 23 3) (w.extractLsb' 16 7) (w.extractLsb' 9 7)
      (w.extractLsb' 2 7))) : Clean w (cell w) := by
  rw [cell_of_maj w maj hm]
  exact h

/-- A cell without reserved bits, whose instruction has the word itself. -/
theorem Clean.whole {w : Word} {i : Instr} (h : encode i = Option.some w) : Clean w (Option.some (i, 0#32)) :=
  .some (h.trans (congrArg Option.some (BitVec.and_allOnes (x := w)).symm))

section
variable {w : Word}

/-- A word of format R whose MIN and B the cell names. -/
theorem word_of_min {maj : BitVec 6} {n : BitVec 2} (hm : w.extractLsb' 26 6 = maj) (hn : w.extractLsb' 0 2 = n) :
    encR maj (w.extractLsb' 23 3) (w.extractLsb' 16 7) (w.extractLsb' 9 7) (w.extractLsb' 2 7) n = w := by
  rw [← hm, ← hn]
  exact (word_eq_encR w).symm

theorem word_of_imm {maj : BitVec 6} (hm : w.extractLsb' 26 6 = maj) :
    encI maj (w.extractLsb' 23 3) (w.extractLsb' 16 7) (w.extractLsb' 9 7) (w.extractLsb' 0 9) = w := by
  rw [← hm]
  exact (word_eq_encI w).symm

theorem encI_and_not (maj : BitVec 6) (p : BitVec 3) (d a x : BitVec 7) (f y : BitVec 9) :
    encI maj p d a f &&& ~~~encI 0#6 0#3 0#7 x y = encI maj p d (a &&& ~~~x) (f &&& ~~~y) := by
  apply BitVec.eq_of_getLsbD_eq
  intro i _
  rw [getLsbD_and_not, encI_bit, encI_bit, encI_bit]
  split_ifs <;> simp only [getLsbD_and_not, BitVec.getLsbD_zero, Bool.not_false, Bool.and_true]

theorem clean_movi (hm : w.extractLsb' 26 6 = 0x0C#6) : Clean w (cell w) := by
  refine .of_cellAt hm (.some (congrArg Option.some ?_))
  have h := encI_and_not 0x0C#6 (w.extractLsb' 23 3) (w.extractLsb' 16 7) (w.extractLsb' 9 7) 127#7 (w.extractLsb' 0 9) 0#9
  rw [word_of_imm hm] at h
  exact (h.trans (congrArg₂ _ BitVec.and_zero BitVec.and_allOnes)).symm

/-- `LDR` and `STR`, whose bit 8 of the immediate says whether it is a count or names a uniform register (R114). -/
theorem clean_record {maj : BitVec 6} {i : BitVec 8 → Instr} {u : BitVec 4 → Instr} (hm : w.extractLsb' 26 6 = maj)
    (hi : ∀ x, encode (i x) = some (encI maj (w.extractLsb' 23 3) (w.extractLsb' 16 7) (w.extractLsb' 9 7) (0#1 ++ x)))
    (hu : ∀ x, encode (u x) = some (encI maj (w.extractLsb' 23 3) (w.extractLsb' 16 7) (w.extractLsb' 9 7) (0b10000#5 ++ x))) :
    Clean w (if w.extractLsb' 8 1 = 0#1 then some (i (w.extractLsb' 0 8), 0x00000000#32)
      else some (u (w.extractLsb' 0 4), 0x000000F0#32)) := by
  refine .ite (fun h0 => .whole ?_) (fun h1 => .some ?_)
  · rw [hi, ← h0, extract_append w 1 0 8 8]
    exact congrArg some (word_of_imm hm)
  · have hbits : ∀ f : BitVec 9, f.extractLsb' 8 1 ≠ 0#1 → f &&& ~~~0xF0#9 = 0b10000#5 ++ f.extractLsb' 0 4 := by decide
    have hf : (w.extractLsb' 0 9).extractLsb' 8 1 = w.extractLsb' 8 1 := extract_extract w 0 9 8 1
    have hu' : (w.extractLsb' 0 9).extractLsb' 0 4 = w.extractLsb' 0 4 := extract_extract w 0 9 0 4
    have h := encI_and_not maj (w.extractLsb' 23 3) (w.extractLsb' 16 7) (w.extractLsb' 9 7) 0#7 (w.extractLsb' 0 9) 0xF0#9
    rw [word_of_imm hm, hbits _ (hf ▸ h1), hu'] at h
    rw [hu]
    exact congrArg some (h.trans (congrArg₂ _ BitVec.and_allOnes rfl)).symm

/-- `CAS` and the other returning atomics of one width, which B's low four bits tell apart (R225). -/
theorem clean_atomic {n : BitVec 2} {c : BitVec 3 → Instr} {at_ : Instr} (hm : w.extractLsb' 26 6 = 0x32#6) (hn : w.extractLsb' 0 2 = n)
    (hc : ∀ s, encode (c s) = some (encR 0x32#6 (w.extractLsb' 23 3) (w.extractLsb' 16 7) (w.extractLsb' 9 7) (s ++ 11#4) n))
    (ha : encode at_ = some (encR 0x32#6 (w.extractLsb' 23 3) (w.extractLsb' 16 7) (w.extractLsb' 9 7) (w.extractLsb' 2 7) n)) :
    Clean w (if w.extractLsb' 2 4 = 11#4 then some (c (w.extractLsb' 6 3), 0#32) else some (at_, 0#32)) := by
  refine .ite (fun h => .whole ?_) (fun _ => .whole ?_)
  · rw [hc, ← h, extract_append w 3 2 4 6]
    exact congrArg some (word_of_min hm hn)
  · rw [ha]
    exact congrArg some (word_of_min hm hn)

theorem clean_smov (hm : w.extractLsb' 26 6 = 0x0A#6) (hn : w.extractLsb' 0 2 = 1#2) : Clean w
    (if w.extractLsb' 2 7 = 0#7 then some (.smovToUniform (w.extractLsb' 23 3) (w.extractLsb' 16 7) (w.extractLsb' 9 7), 0#32)
      else if w.extractLsb' 2 7 = 1#7 then some (.smovFromUniform (w.extractLsb' 23 3) (w.extractLsb' 16 7) (w.extractLsb' 9 7), 0#32)
      else none) := by
  have h := word_of_min hm hn
  refine .ite (fun hb => .whole ?_) (fun _ => .ite (fun hb => .whole ?_) (fun _ => .none _))
  · rw [hb] at h
    exact congrArg some h
  · rw [hb] at h
    exact congrArg some h

theorem clean_movf {maj : BitVec 6} (hm : w.extractLsb' 26 6 = maj) (h5 : maj.extractLsb' 1 5 = 0b11110#5) :
    Clean w (some (.movf (w.extractLsb' 20 7) (w.extractLsb' 0 20), 0#32)) := by
  have hsub : (w.extractLsb' 26 6).extractLsb' 1 5 = w.extractLsb' 27 5 := extract_extract w 26 6 1 5
  have h : w.extractLsb' 27 5 = 0b11110#5 := by rw [← hsub, hm, h5]
  refine .whole (congrArg some ?_)
  unfold encF
  rw [← h, extract_append w 5 20 7 27, extract_append w 12 0 20 20]
  exact extract_all w

theorem clean_prefix (hm : w.extractLsb' 26 6 = 0x3F#6) :
    Clean w (some (.permutationPrefix (w.extractLsb' 17 9) (w.extractLsb' 8 9), 0x000000FF#32)) := by
  refine .some (congrArg some (BitVec.eq_of_getLsbD_eq fun i hi => ?_))
  have hmask : ∀ i < 32, (0x000000FF#32).getLsbD i = decide (i < 8) := by decide
  rw [encX_bit, ← hm, getLsbD_and_not, hmask i hi]
  simp only [BitVec.getLsbD_extractLsb']
  split_ifs with h8 h17 h26
  · simp [h8]
  · rw [decide_eq_true (by omega), Nat.add_sub_cancel' (by omega)]; simp [h8]
  · rw [decide_eq_true (by omega), Nat.add_sub_cancel' (by omega)]; simp [h8]
  · rw [decide_eq_true (by omega), Nat.add_sub_cancel' (by omega)]; simp [h8]

theorem Clean.of_min {maj : BitVec 6} {n : BitVec 2} (hm : w.extractLsb' 26 6 = maj) (hn : w.extractLsb' 0 2 = n)
    (h : Clean (encR maj (w.extractLsb' 23 3) (w.extractLsb' 16 7) (w.extractLsb' 9 7) (w.extractLsb' 2 7) n)
      (cellAt w maj.toNat n.toNat (w.extractLsb' 23 3) (w.extractLsb' 16 7) (w.extractLsb' 9 7) (w.extractLsb' 2 7))) :
    Clean w (cell w) := by
  rw [word_of_min hm hn, ← hn] at h
  exact .of_cellAt hm h

theorem min_cases (n : BitVec 2) : n = 0#2 ∨ n = 1#2 ∨ n = 2#2 ∨ n = 3#2 := by
  revert n
  decide

/-- Major 0x0A, whose MIN 1 is `SMOV` in two directions (R88). -/
theorem clean_moves (hm : w.extractLsb' 26 6 = 0x0A#6) : Clean w (cell w) := by
  rcases min_cases (w.extractLsb' 0 2) with hn | hn | hn | hn
  · exact .of_min hm hn (.fields rfl rfl)
  · refine .of_cellAt hm ?_
    rw [hn]
    exact clean_smov hm hn
  · exact .of_min hm hn (.fields rfl rfl)
  · exact .of_min hm hn (.fields rfl rfl)

/-- Major 0x32, the atomics and the reductions (R225). -/
theorem clean_atomics (hm : w.extractLsb' 26 6 = 0x32#6) : Clean w (cell w) := by
  rcases min_cases (w.extractLsb' 0 2) with hn | hn | hn | hn
  · refine .of_cellAt hm ?_
    rw [hn]
    exact clean_atomic hm hn (fun _ => rfl) rfl
  · refine .of_cellAt hm ?_
    rw [hn]
    exact clean_atomic hm hn (fun _ => rfl) rfl
  · exact .of_min hm hn (.fields rfl rfl)
  · exact .of_min hm hn (.fields rfl rfl)

/-- The majors of sub-ops, which B and MIN select (R67 to R69). -/
theorem clean_subop {maj : BitVec 6} {f : Nat → Nat → Option (Instr × Word)} (hm : w.extractLsb' 26 6 = maj)
    (h : ∀ k < 128, ∀ n < 4, Clean (encR maj (w.extractLsb' 23 3) (w.extractLsb' 16 7) (w.extractLsb' 9 7) (BitVec.ofNat 7 k)
      (BitVec.ofNat 2 n)) (f k n)) : Clean w (f (w.extractLsb' 2 7).toNat (w.extractLsb' 0 2).toNat) := by
  have hk := h _ (w.extractLsb' 2 7).isLt _ (w.extractLsb' 0 2).isLt
  rwa [BitVec.ofNat_toNat, BitVec.ofNat_toNat, BitVec.setWidth_eq, BitVec.setWidth_eq, word_of_min hm rfl] at hk

end

/-! ### Nothing in a word is ignored (R64) -/

theorem clean_cell (w : Word) : Clean w (cell w) := by
  by_cases hl : (w.extractLsb' 26 6).toNat ∈ listedMajors
  · have maj_of {j : Nat} (h : (w.extractLsb' 26 6).toNat = j) : w.extractLsb' 26 6 = BitVec.ofNat 6 j := by
      rw [← h, BitVec.ofNat_toNat, BitVec.setWidth_eq]
    simp only [listedMajors, List.mem_cons, List.not_mem_nil, or_false] at hl
    rcases hl with h | h | h | h | h | h | h | h | h | h | h | h | h | h | h | h
    · exact clean_moves (maj_of h)
    · exact clean_movi (maj_of h)
    · exact .of_cellAt (maj_of h) (.whole (congrArg some (word_of_imm (maj_of h))))
    · exact .of_cellAt (maj_of h) (.whole (congrArg some (word_of_imm (maj_of h))))
    · exact .of_cellAt (maj_of h) (.whole (congrArg some (word_of_imm (maj_of h))))
    · exact .of_cellAt (maj_of h) (clean_record (maj_of h) (fun _ => rfl) fun _ => rfl)
    · exact .of_cellAt (maj_of h) (clean_record (maj_of h) (fun _ => rfl) fun _ => rfl)
    · exact clean_atomics (maj_of h)
    · exact .of_cellAt (maj_of h) (clean_subop (maj_of h) fun k _ n _ => clean_cell38 _ _ _ k n)
    · exact .of_cellAt (maj_of h) (.whole (congrArg some (maj_of h ▸ (word_eq_encB w).symm)))
    · exact .of_cellAt (maj_of h) (clean_subop (maj_of h) fun k hk n hn => clean_cell3A hk hn _ _ _)
    · exact .of_cellAt (maj_of h) (clean_subop (maj_of h) fun k _ n _ => clean_cell3B _ _ _ k n)
    · exact .of_cellAt (maj_of h) (clean_movf (maj_of h) rfl)
    · exact .of_cellAt (maj_of h) (clean_movf (maj_of h) rfl)
    · exact .of_cellAt (maj_of h) (clean_subop (maj_of h) fun k _ n _ => clean_cell3E _ _ _ k n)
    · exact .of_cellAt (maj_of h) (clean_prefix (maj_of h))
  · have h := clean_cellAt_fields w (w.extractLsb' 26 6).isLt (w.extractLsb' 0 2).isLt hl (w.extractLsb' 23 3) (w.extractLsb' 16 7)
      (w.extractLsb' 9 7) (w.extractLsb' 2 7)
    rw [BitVec.ofNat_toNat, BitVec.ofNat_toNat, BitVec.setWidth_eq, BitVec.setWidth_eq, ← word_eq_encR] at h
    exact h

theorem decodeWord_of_not_clear {w m : Word} {i : Instr} (h : cell w = some (i, m)) (hm : w &&& m ≠ 0#32) :
    decodeWord w = .bad .reservedField := by
  unfold decodeWord
  rw [h]
  exact if_neg hm

theorem decodeWord_of_no_cell {w : Word} (h : cell w = none) : decodeWord w = .bad .illegalEncoding := by
  unfold decodeWord
  rw [h]

end Sys2Proof

namespace Sys2Proof.Machine

theorem reservedCause_eq (i : Instr) : reservedCause i = none ∨ reservedCause i = some .reservedField := by
  unfold reservedCause
  split
  · exact .inr rfl
  · exact .inl rfl

/-- R63 step 3: a word that stands under no pattern and whose operand values are admitted. -/
theorem wordBad_of_cell {w m : Word} {i : Instr} (h : cell w = some (i, m)) (hv : valueCause i = none) :
    wordBad w none = if w &&& m ≠ 0#32 then some .reservedField else reservedCause i := by
  unfold wordBad
  simp only [h, hv]

end Sys2Proof.Machine

section
open Sys2Proof Sys2Proof.Machine

/-- Settles O2: the instruction of a cell has the word that the reserved bits leave. -/
theorem nothingIgnored : Obligations.NothingIgnored := by
  unfold Obligations.NothingIgnored
  intro w i m hc
  refine ⟨clean_cell w _ hc, decode_of_cell hc, decodeWord_of_not_clear hc, fun hv => ⟨fun h => ?_, fun hm hr => ?_⟩⟩
  · rw [wordBad_of_cell hc hv]
    split
    · rfl
    next hm => exact (reservedCause_eq i).resolve_left (h.resolve_left hm)
  · rw [wordBad_of_cell hc hv, if_neg (not_not.2 hm), hr]

end

/-! ### Unassigned cells and unused B fields (R64, R65) -/

namespace Sys2Proof

theorem cell38_min {p : BitVec 3} {d a : BitVec 7} {k n : Nat} (hn : n ≠ 0) : cell38 p d a k n = none := by
  unfold cell38
  split <;> first | rfl | exact absurd rfl hn

theorem cell3B_min {p : BitVec 3} {d a : BitVec 7} {k n : Nat} (hn : n ≠ 0) : cell3B p d a k n = none := by
  unfold cell3B
  split <;> first | rfl | exact absurd rfl hn

theorem cell3E_min {p : BitVec 3} {d a : BitVec 7} {k n : Nat} (hn : n ≠ 0) : cell3E p d a k n = none := by
  unfold cell3E
  split <;> first | rfl | exact absurd rfl hn

theorem cellAt_emptyMajors (w : Word) (p : BitVec 3) (d a b : BitVec 7) : (Claims.emptyMajors.all fun j =>
    (List.range 4).all fun n => (cellAt w j.toNat n p d a b).isNone) = true := rfl

theorem cellAt_emptyCells (w : Word) (p : BitVec 3) (d a b : BitVec 7) : ∀ c ∈ Claims.emptyCells,
    cellAt w c.1.toNat c.2.toNat p d a b = none := by
  intro c hc
  fin_cases hc
  all_goals first | rfl | exact cell38_min (Nat.succ_ne_zero _) | exact cell3B_min (Nat.succ_ne_zero _) | exact cell3E_min (Nat.succ_ne_zero _)

theorem cellAt_cellsWithoutB (w : Word) (p : BitVec 3) (d a b : BitVec 7) : ∀ c ∈ Claims.cellsWithoutB,
    ∃ i, cellAt w c.1.toNat c.2.toNat p d a b = some (i, 0x000001FC#32) := by
  intro c hc
  fin_cases hc <;> exact ⟨_, rfl⟩

theorem cell_emptyMajors {w : Word} (h : w.extractLsb' 26 6 ∈ Claims.emptyMajors) : cell w = none := by
  have hall := cellAt_emptyMajors w (w.extractLsb' 23 3) (w.extractLsb' 16 7) (w.extractLsb' 9 7) (w.extractLsb' 2 7)
  simp only [List.all_eq_true, List.mem_range, Option.isNone_iff_eq_none] at hall
  exact hall _ h _ (w.extractLsb' 0 2).isLt

theorem cell_emptyCells {w : Word} (h : (w.extractLsb' 26 6, w.extractLsb' 0 2) ∈ Claims.emptyCells) : cell w = none :=
  cellAt_emptyCells w _ _ _ _ _ h

theorem cell_cellsWithoutB {w : Word} (h : (w.extractLsb' 26 6, w.extractLsb' 0 2) ∈ Claims.cellsWithoutB) :
    ∃ i, cell w = some (i, 0x000001FC#32) :=
  cellAt_cellsWithoutB w _ _ _ _ _ h

/-- The B field of a word whose bits under the mask of B are zero. -/
theorem fieldB_of_mask {w : Word} (h : w &&& 0x000001FC#32 = 0#32) : w.extractLsb' 2 7 = 0#7 := by
  have hsub : (w &&& 0x000001FC#32).extractLsb' 2 7 = w.extractLsb' 2 7 &&& (0x000001FC#32).extractLsb' 2 7 := BitVec.extractLsb'_and
  rw [h, show (0x000001FC#32).extractLsb' 2 7 = BitVec.allOnes 7 from rfl, BitVec.and_allOnes] at hsub
  exact hsub.symm

end Sys2Proof

section
open Sys2Proof Sys2Proof.Machine

/-- Settles O4: the cells are empty, and B is the reserved field of the cells without it. -/
theorem unassignedCells : Obligations.UnassignedCells := by
  unfold Obligations.UnassignedCells
  intro w maj cellOf
  refine ⟨fun h => decodeWord_of_no_cell (h.elim cell_emptyMajors cell_emptyCells), fun h hb => ?_⟩
  obtain ⟨i, hc⟩ := cell_cellsWithoutB h
  exact decodeWord_of_not_clear hc fun hm => hb (fieldB_of_mask hm)

/-- Settles O3: the words are written out, and so is what they decode to. -/
theorem knownWords : Obligations.KnownWords := by
  unfold Obligations.KnownWords
  decide

end

/-! ## Returns (O32) -/

namespace Sys2Proof.Machine

/-- The uniform register that the operation issued under `id` writes, where no later write of it stands (R88). -/
abbrev landsUniform (x : Warp) (id n : Nat) (r : RegWrite) : Bool := decide (r.reg = 512 + n) && decide (tblGet x.uw n ≤ id)

/-- The lane register of a return that its thread still receives (R96). -/
abbrev landsLane (here : Nat → Bool) (k n : Nat) (r : RegWrite) : Bool := decide (r.reg = n) && decide (r.lane = k) && here k

/-- What does not depend on the warps is the same in two states that differ only in registers, predicates and flags. -/
theorem SameFrame.read {s u : State} (h : SameFrame s u) {β : Type} (f : State → β)
    (hf : ∀ (v : State) (x : Tbl Warp), f { v with warps := x } = f v) : f u = f s := by
  rw [← hf u [], h.rest, hf]

/-! ### One register write -/

/-- A register write of a warp that is resident, by the three places it may go to. -/
theorem landWrite_cases (s : State) (w id : Nat) (r : RegWrite) (hs : isSaved s w = false) :
    (512 ≤ r.reg ∧ landWrite s w id r = landUreg s w id (r.reg - 512) r.val) ∨
    (r.reg < 512 ∧ present s w r.lane = true ∧ landWrite s w id r = setVreg s w r.lane r.reg r.val) ∨
    (r.reg < 512 ∧ present s w r.lane = false ∧ landWrite s w id r = s) := by
  by_cases hr : 512 ≤ r.reg
  · exact .inl ⟨hr, by simp [landWrite, hs, hr]⟩
  · cases hp : present s w r.lane
    · exact .inr (.inr ⟨by omega, rfl, by simp [landWrite, hs, hr, hp]⟩)
    · exact .inr (.inl ⟨by omega, rfl, by simp [landWrite, hs, hr, hp]⟩)

theorem sameFrame_landUreg (s : State) (w id n : Nat) (v : Word) : SameFrame s (landUreg s w id n v) :=
  sameFrame_updWarp s w _ fun x => by split <;> rfl

theorem sameFrame_landWrite (s : State) (w id : Nat) (r : RegWrite) (hs : isSaved s w = false) :
    SameFrame s (landWrite s w id r) := by
  obtain ⟨-, e⟩ | ⟨-, -, e⟩ | ⟨-, -, e⟩ := landWrite_cases s w id r hs <;> rw [e]
  · exact sameFrame_landUreg ..
  · exact sameFrame_setVreg ..
  · exact .refl s

theorem warpOf_landWrite_ne (s : State) (w id : Nat) (r : RegWrite) (hs : isSaved s w = false) (x : Nat) (hx : x ≠ w) :
    warpOf (landWrite s w id r) x = warpOf s x := by
  obtain ⟨-, e⟩ | ⟨-, -, e⟩ | ⟨-, -, e⟩ := landWrite_cases s w id r hs <;> rw [e]
  · exact warpOf_updWarp_ne _ _ _ _ hx.symm
  · exact warpOf_updWarp_ne _ _ _ _ hx.symm

theorem uw_landWrite (s : State) (w id : Nat) (r : RegWrite) (hs : isSaved s w = false) (x : Nat) :
    (warpOf (landWrite s w id r) x).uw = (warpOf s x).uw := by
  classical
  obtain ⟨-, e⟩ | ⟨-, -, e⟩ | ⟨-, -, e⟩ := landWrite_cases s w id r hs <;> rw [e]
  · unfold landUreg
    rw [warpOf_updWarp]
    split
    · split <;> rfl
    · rfl
  · unfold setVreg
    rw [warpOf_updWarp]
    split <;> rfl

theorem vreg_landUreg (s : State) (w id n : Nat) (v : Word) (x l g : Nat) : vreg (landUreg s w id n v) x l g = vreg s x l g := by
  classical
  unfold vreg landUreg
  rw [warpOf_updWarp]
  split
  · split <;> rfl
  · rfl

theorem ureg_landUreg (s : State) (w id n : Nat) (v : Word) (hw : warpIn s w) (k : Nat) :
    ureg (landUreg s w id n v) w k = if n = k ∧ tblGet (warpOf s w).uw n ≤ id then v else ureg s w k := by
  unfold ureg landUreg
  rw [warpOf_updWarp_self _ _ _ hw]
  by_cases h : id < tblGet (warpOf s w).uw n
  · rw [if_pos h, if_neg (by omega)]
  · rw [if_neg h, bmGet_bmSet]
    simp [Nat.not_lt.mp h]

/-- A lane register after one register write of a return. -/
theorem vreg_landWrite (s : State) (w id : Nat) (r : RegWrite) (hs : isSaved s w = false) (hw : warpIn s w) (hl : r.lane < 64)
    (k n : Nat) (hk : k < 64) (hn : n < 512) :
    vreg (landWrite s w id r) w k n = if landsLane (present s w) k n r then r.val else vreg s w k n := by
  obtain ⟨hr, e⟩ | ⟨hr, hp, e⟩ | ⟨hr, hp, e⟩ := landWrite_cases s w id r hs <;> rw [e]
  · rw [vreg_landUreg, if_neg (by simp [landsLane]; omega)]
  · rw [vreg_setVreg _ _ _ _ _ _ _ _ hl hk]
    have hiff : (w = w ∧ warpIn s w ∧ r.lane = k ∧ r.reg = n) ↔ landsLane (present s w) k n r = true := by
      rw [landsLane, Bool.and_eq_true, Bool.and_eq_true, decide_eq_true_eq, decide_eq_true_eq]
      exact ⟨fun ⟨_, _, a, b⟩ => ⟨⟨b, a⟩, a ▸ hp⟩, fun ⟨⟨b, a⟩, _⟩ => ⟨rfl, hw, a, b⟩⟩
    by_cases hc : landsLane (present s w) k n r = true
    · rw [if_pos hc, if_pos (hiff.mpr hc)]
    · rw [if_neg hc, if_neg fun h => hc (hiff.mp h)]
  · rw [if_neg]
    simp only [landsLane, Bool.and_eq_true, decide_eq_true_eq]
    rintro ⟨⟨-, a⟩, b⟩
    rw [← a, hp] at b
    cases b

/-- A uniform register after one register write of a return. -/
theorem ureg_landWrite (s : State) (w id : Nat) (r : RegWrite) (hs : isSaved s w = false) (hw : warpIn s w) (n : Nat) :
    ureg (landWrite s w id r) w n = if landsUniform (warpOf s w) id n r then r.val else ureg s w n := by
  obtain ⟨hr, e⟩ | ⟨hr, hp, e⟩ | ⟨hr, hp, e⟩ := landWrite_cases s w id r hs <;> rw [e]
  · rw [ureg_landUreg _ _ _ _ _ hw]
    have hiff : (r.reg - 512 = n ∧ tblGet (warpOf s w).uw (r.reg - 512) ≤ id) ↔ landsUniform (warpOf s w) id n r = true := by
      simp only [landsUniform, Bool.and_eq_true, decide_eq_true_eq]
      constructor
      · rintro ⟨rfl, h⟩; exact ⟨by omega, h⟩
      · rintro ⟨a, h⟩
        obtain rfl : r.reg - 512 = n := by omega
        exact ⟨rfl, h⟩
    simp only [hiff]
  · rw [ureg_setVreg, if_neg (by simp [landsUniform]; omega)]
  · rw [if_neg (by simp [landsUniform]; omega)]

/-! ### All register writes of a return -/

/-- What the register writes of a return leave in a resident warp, in its other registers and elsewhere. -/
structure Landed (s u : State) (w id : Nat) (ws : List RegWrite) : Prop where
  frame : SameFrame s u
  uw : ∀ x, (warpOf u x).uw = (warpOf s x).uw
  other : ∀ x, x ≠ w → warpOf u x = warpOf s x
  lane : ∀ k n, n < 512 → k < 64 → vreg u w k n = Claims.landedIn ws (vreg s w k n) (landsLane (present s w) k n)
  uniform : ∀ n, ureg u w n = Claims.landedIn ws (ureg s w n) (landsUniform (warpOf s w) id n)

theorem landed_foldl_landWrite (w id : Nat) (ws : List RegWrite) (s : State) (hs : isSaved s w = false) (hw : warpIn s w)
    (hl : ∀ r ∈ ws, r.lane < 64) : Landed s (ws.foldl (fun s r => landWrite s w id r) s) w id ws := by
  induction ws generalizing s with
  | nil => exact ⟨.refl s, fun _ => rfl, fun _ _ => rfl, fun _ _ _ _ => rfl, fun _ => rfl⟩
  | cons r ws ih =>
    have hf := sameFrame_landWrite s w id r hs
    have ih := ih (landWrite s w id r) (by rw [← hs, isSaved, isSaved, hf.read State.savedWarps fun _ _ => rfl]) ((hf.warpIn w).mpr hw)
      fun x hx => hl x (List.mem_cons_of_mem _ hx)
    have hp : present (landWrite s w id r) w = present s w := funext fun k => hf.present w k
    refine ⟨hf.trans ih.frame, fun x => (ih.uw x).trans (uw_landWrite s w id r hs x),
      fun x hx => (ih.other x hx).trans (warpOf_landWrite_ne s w id r hs x hx), fun k n hn hk => ?_, fun n => ?_⟩
    · rw [List.foldl_cons, ih.lane k n hn hk, vreg_landWrite s w id r hs hw (hl r List.mem_cons_self) k n hk hn, hp]
      rfl
    · have hu : landsUniform (warpOf (landWrite s w id r) w) id n = landsUniform (warpOf s w) id n := by
        funext x
        simp only [landsUniform, uw_landWrite s w id r hs]
      rw [List.foldl_cons, ih.uniform n, ureg_landWrite s w id r hs hw n, hu]
      rfl

/-! ### The flag, and what comes after it -/

/-- A warp whose count of a flag falls by one; flag 15 is none (R53). -/
def loweredFlag (f : Nat) (x : Warp) : Warp :=
  if f < 12 then { x with fcount := bmSet x.fcount f (bmGet x.fcount f - 1) } else x

theorem lowerFlag_resident (s : State) (w f : Nat) (hs : isSaved s w = false) : lowerFlag s w f = updWarp s w (loweredFlag f) := by
  by_cases hf : f < 12
  · rw [lowerFlag, hs, if_pos hf, show loweredFlag f = _ from funext fun x => if_pos hf]
    rfl
  · rw [lowerFlag, hs, if_neg hf, updWarp, tblUpd_id _ _ (loweredFlag f) fun x => if_neg hf]
    rfl

theorem bmGet_fcount_loweredFlag (f : Nat) (x : Warp) (k : Nat) (hk : k < 12) :
    bmGet (loweredFlag f x).fcount k = bmGet x.fcount k - if f = k then 1 else 0 := by
  unfold loweredFlag
  split
  · rw [bmGet_bmSet]
    split
    · next h => rw [h]
    · exact (BitVec.sub_zero _).symm
  · rw [if_neg (by omega)]
    exact (BitVec.sub_zero _).symm

theorem vr_loweredFlag (f : Nat) (x : Warp) : (loweredFlag f x).vr = x.vr := by unfold loweredFlag; split <;> rfl
theorem sr_loweredFlag (f : Nat) (x : Warp) : (loweredFlag f x).sr = x.sr := by unfold loweredFlag; split <;> rfl

/-- A return of a resident warp, up to the settling of its holder: the register writes, the flag, the words that a matrix multiplication
in flight may read as they were, and the entry gone. -/
def landed (s : State) (id : Nat) (l : PLoad) : State :=
  let s3 := updWarp (l.writes.foldl (fun s r => landWrite s l.warp id r) s) l.warp (loweredFlag l.flag)
  let s4 := readBefore (readBefore s3 true l.warp (l.old.filter fun e => e.1 % 2 = 0)) false (warpOf s l.warp).wg
    (l.old.filter fun e => e.1 % 2 = 1)
  { s4 with loads := tblDel s4.loads id }

theorem landReturn_eq_settle (s : State) (id : Nat) (l : PLoad) (hl : tblGet? s.loads id = some l) (hs : isSaved s l.warp = false)
    (hfp : l.fp = []) (hw : warpIn s l.warp) (hlane : ∀ r ∈ l.writes, r.lane < 64) :
    landReturn s id = settleWarp (landed s id l) l.warp := by
  have e : tblGet s.loads id = l := by rw [tblGet, hl]; rfl
  have h := landed_foldl_landWrite l.warp id l.writes s hs hw hlane
  have hs1 : isSaved (l.writes.foldl (fun s r => landWrite s l.warp id r) s) l.warp = false := by
    rw [← hs, isSaved, isSaved, h.frame.read State.savedWarps fun _ _ => rfl]
  have hs3 : ∀ F, imageReturned (updWarp (l.writes.foldl (fun s r => landWrite s l.warp id r) s) l.warp F) l.warp =
      updWarp (l.writes.foldl (fun s r => landWrite s l.warp id r) s) l.warp F := fun F => if_neg (by
    show ¬ isSaved (l.writes.foldl (fun s r => landWrite s l.warp id r) s) l.warp = true
    rw [hs1]; exact Bool.false_ne_true)
  simp only [landReturn, e, hfp, List.foldl_nil, lowerFlag_resident _ _ _ hs1, hs3, ite_self]
  rfl

/-- What a return of a resident warp leaves before its holder is settled. -/
theorem landed_leaves (s : State) (id : Nat) (l : PLoad) (hs : isSaved s l.warp = false) (hw : warpIn s l.warp)
    (hlane : ∀ r ∈ l.writes, r.lane < 64) :
    (landed s id l).loads = tblDel s.loads id ∧ (landed s id l).mem = s.mem ∧ (landed s id l).writes = s.writes ∧
      (∀ k r, r < 512 → k < 64 → vreg (landed s id l) l.warp k r =
        Claims.landedIn l.writes (vreg s l.warp k r) (landsLane (present s l.warp) k r)) ∧
      (∀ n, ureg (landed s id l) l.warp n = Claims.landedIn l.writes (ureg s l.warp n) (landsUniform (warpOf s l.warp) id n)) ∧
      (∀ f < 12, bmGet (warpOf (landed s id l) l.warp).fcount f =
        bmGet (warpOf s l.warp).fcount f - if l.flag = f then 1 else 0) ∧
      ∀ w, w ≠ l.warp → warpOf (landed s id l) w = warpOf s w := by
  have h := landed_foldl_landWrite l.warp id l.writes s hs hw hlane
  have hwarp : warpOf (landed s id l) l.warp =
      loweredFlag l.flag (warpOf (l.writes.foldl (fun s r => landWrite s l.warp id r) s) l.warp) :=
    warpOf_updWarp_self _ _ _ ((h.frame.warpIn l.warp).mpr hw)
  refine ⟨h.frame.read (fun v => tblDel v.loads id) fun _ _ => rfl, h.frame.read State.mem fun _ _ => rfl,
    h.frame.read State.writes fun _ _ => rfl, fun k r hr hk => ?_, fun n => ?_, fun f hf => ?_, fun w hne => ?_⟩
  · rw [← h.lane k r hr hk, vreg, hwarp, vr_loweredFlag]
    rfl
  · rw [← h.uniform n, ureg, hwarp, sr_loweredFlag]
    rfl
  · rw [hwarp, bmGet_fcount_loweredFlag _ _ _ hf]
    have hfc := congrArg (fun x => bmGet (Warp.fcount x) f) (h.frame.warp l.warp)
    exact congrArg (· - if l.flag = f then 1 else 0) hfc
  · exact (warpOf_updWarp_ne _ _ _ _ hne.symm).trans (h.other w hne)

theorem exec_return (s : State) (l : PLoad) (hl : tblGet? s.loads s.arg.a = some l) (hwait : l.waits = []) :
    exec (if l.load then .loadReturn else .longLatencyCompletion) s = .next (landReturn s s.arg.a) := by
  have hdue : ∀ b, returnDue s b s.arg.a = (l.load == b) := fun b => by simp [returnDue, hl, hwait]
  cases hb : l.load
  · show execLongLatencyCompletion s = _
    simp [execLongLatencyCompletion, hdue, hb]
  · show execLoadReturn s = _
    simp [execLoadReturn, hdue, hb]

/-! ### A holder that goes on -/

theorem freeWarp_of_lanes (s : State) (w : Nat) (h : (warpOf s w).lanes ≠ []) : freeWarp s w = s := by
  have e : (warpOf s w).lanes.isEmpty = false := by simpa using h
  simp [freeWarp, e]

theorem foldl_freeWarp_of_lanes (s : State) (ws : List Nat) (h : ∀ x ∈ ws, (warpOf s x).lanes ≠ []) : ws.foldl freeWarp s = s := by
  induction ws with
  | nil => rfl
  | cons w ws ih =>
    rw [List.foldl_cons, freeWarp_of_lanes s w (h w List.mem_cons_self)]
    exact ih fun x hx => h x (List.mem_cons_of_mem _ hx)

/-- A holder with a thread left and no empty warp goes on (R96). -/
theorem settleWarp_of_live (s : State) (w : Nat) (hl : liveThreads s (warpOf s w).wg ≠ [])
    (hw : ∀ x ∈ (wgOfWarp s w).warps, (warpOf s x).lanes ≠ []) : settleWarp s w = s := by
  have hlive : (liveThreads s (warpOf s w).wg).isEmpty = false := by simpa using hl
  have hne : (wgOf s (warpOf s w).wg).warps.isEmpty = false := by
    cases hx : (wgOf s (warpOf s w).wg).warps with
    | nil => exact absurd (by rw [liveThreads, hx]; rfl) hl
    | cons => rfl
  have hretire : retireWg s (warpOf s w).wg = s := by simp [retireWg, hlive]
  have hreap : reapWg s (warpOf s w).wg = s := by
    have hfree := foldl_freeWarp_of_lanes s (wgOf s (warpOf s w).wg).warps hw
    simp only [reapWg, hfree, hne, Bool.and_false, Bool.false_and, Bool.false_eq_true, if_false]
  simp [settleWarp, settleHolder, hretire, hreap]

end Sys2Proof.Machine

section
open Sys2Proof Sys2Proof.Machine

/-- Settles O32: a return changes its warp by its register writes in order and by its flag, and the holder of a live workgroup with no
empty warp stays as it is. -/
theorem returnsLand : Obligations.ReturnsLand := by
  refine ⟨settleWarp_of_live, fun s l hl hwait hs hfp hlane hw => ?_⟩
  refine ⟨landed s s.arg.a l, ?_, landed_leaves s s.arg.a l hs hw hlane⟩
  rw [exec_return s l hl hwait, landReturn_eq_settle s s.arg.a l hl hs hfp hw hlane]

end

/-! ## Control transfers (O34) -/

namespace Sys2Proof.Machine

/-! ### What the notes of a read leave of memory (R215, R327) -/

/-- The audit sequence of every context has not fallen, and where none has risen, memory with its keys and the writes on their way are the
same: only the record of a denied read writes. -/
structure AuditFrame (s u : State) : Prop where
  seq : ∀ c, (ctxOf s c).auditSeq ≤ (ctxOf u c).auditSeq
  keep : (∀ c, (ctxOf u c).auditSeq = (ctxOf s c).auditSeq) →
    u.mem = s.mem ∧ u.lineKey = s.lineKey ∧ u.writes = s.writes ∧ u.pkgs = s.pkgs

theorem AuditFrame.refl (s : State) : AuditFrame s s := ⟨fun _ => le_rfl, fun _ => ⟨rfl, rfl, rfl, rfl⟩⟩

theorem AuditFrame.trans {s t u : State} (h : AuditFrame s t) (k : AuditFrame t u) : AuditFrame s u := by
  refine ⟨fun c => (h.seq c).trans (k.seq c), fun e => ?_⟩
  have hst : ∀ c, (ctxOf t c).auditSeq = (ctxOf s c).auditSeq := fun c =>
    le_antisymm ((k.seq c).trans (e c).le) (h.seq c)
  obtain ⟨h1, h2, h3, h4⟩ := h.keep hst
  obtain ⟨k1, k2, k3, k4⟩ := k.keep fun c => (e c).trans (hst c).symm
  exact ⟨k1.trans h1, k2.trans h2, k3.trans h3, k4.trans h4⟩

theorem AuditFrame.foldl {β : Type} (l : List β) (f : State → β → State) (s : State) (h : ∀ s x, AuditFrame s (f s x)) :
    AuditFrame s (l.foldl f s) := by
  induction l generalizing s with
  | nil => exact .refl s
  | cons x t ih => exact (h s x).trans (ih _)

theorem AuditFrame.of_same {s u : State} (hc : u.ctxs = s.ctxs) (hm : u.mem = s.mem) (hl : u.lineKey = s.lineKey)
    (hw : u.writes = s.writes) (hp : u.pkgs = s.pkgs) : AuditFrame s u := by
  refine ⟨fun c => ?_, fun _ => ⟨hm, hl, hw, hp⟩⟩
  rw [ctxOf, ctxOf, hc]

theorem SameFrame.auditFrame {s u : State} (h : SameFrame s u) : AuditFrame s u :=
  .of_same (h.read State.ctxs fun _ _ => rfl) (h.read State.mem fun _ _ => rfl) (h.read State.lineKey fun _ _ => rfl)
    (h.read State.writes fun _ _ => rfl) (h.read State.pkgs fun _ _ => rfl)

theorem AuditFrame.memoryKept {s u : State} (h : AuditFrame s u) : Claims.MemoryKept s u := by
  intro e a _
  obtain ⟨hm, hl, hw, hp⟩ := h.keep e
  refine ⟨by rw [hm], fun core warp key => ?_⟩
  have hh : ∀ key, homeByte u a key = homeByte s a key := fun key => by
    unfold homeByte underKey keyBytes pkgAt
    rw [hm, hl, hp]
  rw [viewByte, viewByte, hw, hh]

theorem auditSeq_updCtx_succ (s : State) (k c : Nat) :
    (ctxOf (updCtx s k fun x => { x with auditSeq := x.auditSeq + 1 }) c).auditSeq =
      if k = c ∧ (tblGet? s.ctxs c).isSome = true then (ctxOf s c).auditSeq + 1 else (ctxOf s c).auditSeq := by
  unfold ctxOf updCtx
  rw [tblGet_tblUpd]
  split <;> rfl

theorem ctxs_rekey (s : State) (a key n : Nat) : (rekey s a key n).ctxs = s.ctxs := by
  unfold rekey
  split
  · refine foldl_inv (fun u => u.ctxs = s.ctxs) _ _ _ (fun u i h => ?_) rfl
    dsimp only
    split
    · split <;> exact h
    · exact h
  · rfl

theorem auditSeq_markUnits (s : State) (a n c : Nat) : (ctxOf (markUnits s a n) c).auditSeq = (ctxOf s c).auditSeq := by
  unfold markUnits
  split
  · rfl
  · unfold ctxOf tblGet
    dsimp only
    rw [tblGet?_tblMap]
    cases tblGet? s.ctxs c <;> rfl

theorem auditSeq_putHome (s : State) (a key : Nat) (data : List Byte) (c : Nat) :
    (ctxOf (putHome s a key data) c).auditSeq = (ctxOf s c).auditSeq := by
  unfold putHome
  dsimp only
  rw [auditSeq_markUnits]
  unfold ctxOf
  dsimp only
  rw [ctxs_rekey]

/-- A state in which the audit sequence of one present context has risen. -/
theorem auditFrame_of_rise (s u : State) (k : Nat) (hin : (tblGet? s.ctxs k).isSome = true)
    (hu : ∀ c, (ctxOf u c).auditSeq = (ctxOf (updCtx s k fun x => { x with auditSeq := x.auditSeq + 1 }) c).auditSeq) :
    AuditFrame s u := by
  refine ⟨fun c => ?_, fun e => ?_⟩
  · rw [hu, auditSeq_updCtx_succ]
    split <;> omega
  · have h := e k
    rw [hu, auditSeq_updCtx_succ, if_pos ⟨rfl, hin⟩] at h
    omega

theorem auditFrame_appendAudit (s : State) (k va ident tag kind place : Nat) :
    AuditFrame s (appendAudit s k va ident tag kind place) := by
  unfold appendAudit
  dsimp only
  split
  · refine ⟨fun c => ?_, fun _ => ⟨rfl, rfl, rfl, rfl⟩⟩
    rw [auditSeq_updCtx_succ]
    split <;> omega
  next hn =>
    have hin : (tblGet? s.ctxs (k / 8192)).isSome = true := by
      rw [not_or] at hn
      simpa [Option.isSome_iff_ne_none] using hn.2
    split
    · exact auditFrame_of_rise s _ _ hin fun c => auditSeq_putHome ..
    · exact auditFrame_of_rise s _ _ hin fun c => (auditSeq_putHome ..).trans (auditSeq_putHome ..)

theorem auditFrame_fillClr (s : State) (part ident tag : Nat) : AuditFrame s (fillClr s part ident tag) := by
  unfold fillClr
  split
  · exact .refl s
  · exact .of_same rfl rfl rfl rfl rfl

theorem auditFrame_fillTlb (s : State) (part : Nat) (e : TlbEntry) : AuditFrame s (fillTlb s part e) := .of_same rfl rfl rfl rfl rfl
theorem auditFrame_updLcore (s : State) (k : Nat) (f : LCore → LCore) : AuditFrame s (updLcore s k f) := .of_same rfl rfl rfl rfl rfl

theorem auditFrame_constTrace (s : State) (m : Member) (off n : Nat) : AuditFrame s (constTrace s m off n) := by
  unfold constTrace
  dsimp only
  split
  · exact .refl s
  · split
    · exact .refl s
    next e _ =>
      have hfill : AuditFrame s (fillClr (fillTlb s (lkPart (wgOfWarp s m.warp).lcore) e) (lkPart (wgOfWarp s m.warp).lcore)
          (warpOf s m.warp).ident.toNat e.tag) := (auditFrame_fillTlb ..).trans (auditFrame_fillClr ..)
      split
      · exact hfill.trans (auditFrame_updLcore ..)
      · split
        · exact hfill
        · exact hfill.trans (auditFrame_appendAudit ..)
      · exact hfill

theorem auditFrame_constTraces (s : State) (sh : Shape) (ms : List Member) : AuditFrame s (constTraces s sh ms) := by
  unfold constTraces
  refine AuditFrame.foldl _ _ _ fun s x => ?_
  split
  · exact AuditFrame.foldl _ _ _ fun s m => AuditFrame.foldl _ _ _ fun s k => auditFrame_constTrace ..
  · exact .refl s

theorem auditFrame_noted (s : State) (g : Group) (i : Instr) : AuditFrame s (noted s g i) :=
  (auditFrame_constTraces ..).trans (sameFrame_noted s g i).auditFrame

theorem auditFrame_fetchTrace (s : State) (w va : Nat) : AuditFrame s (fetchTrace s w va) := by
  unfold fetchTrace
  dsimp only
  split
  · exact (auditFrame_fillTlb ..).trans (auditFrame_updLcore ..)
  · exact .refl s

/-! ### The group and the registers under the notes of a read and of a fetch -/

theorem ReadFrame.groups {s u : State} (h : ReadFrame s u) : u.groups = s.groups := by have := congrArg State.groups h.rest; exact this
theorem ReadFrame.cur {s u : State} (h : ReadFrame s u) : u.cur = s.cur := by have := congrArg State.cur h.rest; exact this

theorem groups_noted (s : State) (g : Group) (i : Instr) : (noted s g i).groups = s.groups :=
  ((sameFrame_noted s g i).read State.groups fun _ _ => rfl).trans (readFrame_constTraces ..).groups
theorem cur_noted (s : State) (g : Group) (i : Instr) : (noted s g i).cur = s.cur :=
  ((sameFrame_noted s g i).read State.cur fun _ _ => rfl).trans (readFrame_constTraces ..).cur

theorem readFrame_fetchTrace (s : State) (w va : Nat) : ReadFrame s (fetchTrace s w va) := by
  unfold fetchTrace
  dsimp only
  split
  · exact ⟨rfl⟩
  · exact .refl s

theorem vreg_noted (s : State) (g : Group) (i : Instr) (w l r : Nat) : vreg (noted s g i) w l r = vreg s w l r := by
  rw [noted, redunMark_own, (sameFrame_clearRun _ _ _).2.1, vreg_congr (warps_constTraces ..)]
theorem ureg_noted (s : State) (g : Group) (i : Instr) (w n : Nat) : ureg (noted s g i) w n = ureg s w n := by
  rw [noted, redunMark_own, (sameFrame_clearRun _ _ _).2.2.1, ureg_congr (warps_constTraces ..)]
theorem present_noted (s : State) (g : Group) (i : Instr) (w l : Nat) : present (noted s g i) w l = present s w l :=
  ((sameFrame_noted s g i).present w l).trans (present_congr (warps_constTraces ..) w l)
theorem leadOf_noted (s : State) (g : Group) (i : Instr) (ms : List Member) (w : Nat) : leadOf (noted s g i) ms w = leadOf s ms w := by
  simp only [leadOf, nonHelpers, thrOf_noted]

/-! ### The target of each transfer (R95) -/

theorem offTarget_signExtend (g : Group) {n : Nat} (o : BitVec n) :
    offTarget g (o.signExtend 64) = BitVec.ofInt 64 (g.pc.toNat + o.toInt * 4) := by
  rw [offTarget, BitVec.ofInt_add, BitVec.ofInt_mul, BitVec.ofInt_natCast, BitVec.ofNat_toNat, BitVec.setWidth_eq,
    BitVec.shiftLeft_eq_mul_twoPow]
  rfl

theorem brcVote_eq (d : BitVec 7) (x : Src) :
    brcVote d x = (predOf x.t (d.toNat % 8) != decide (d.toNat / 8 % 2 = 1)) := by
  have h3 : d.getLsbD 3 = decide (d.toNat / 8 % 2 = 1) := by
    rw [BitVec.getLsbD, Nat.testBit_eq_decide_div_mod_eq]
  have h0 : (d.extractLsb' 0 3).toNat = d.toNat % 8 := by simp [BitVec.extractLsb'_toNat]
  rw [brcVote, h3, h0]

/-- A transfer runs as the shared transfer operation with its target, and it writes a destination only where it links. -/
structure RunsAs (i : Instr) (target : Group → List (Member × Src) → Member → Src → Option Pair) (link : Bool) : Prop where
  exec : ∀ s, Machine.exec i s = xferOp i (fun _ => target) link s
  linked : link = true → ∀ g l m x, (target g l m x).isSome = true
  unlinked : link = false → dstWords i = 0

theorem transfer_runsAs {i : Instr} {target : Group → List (Member × Src) → Member → Src → Option Pair} (h : Claims.Transfer i target) :
    ∃ link, RunsAs i target link := by
  cases h with
  | bra p o =>
    refine ⟨false, ⟨fun s => ?_, nofun, fun _ => rfl⟩⟩
    simp only [← offTarget_signExtend]
    rfl
  | brcAny p d a =>
    refine ⟨false, ⟨fun s => ?_, nofun, fun _ => rfl⟩⟩
    simp only [← offTarget_signExtend, ← brcVote_eq, ← List.any_filter]
    rfl
  | brcAll p d a =>
    refine ⟨false, ⟨fun s => ?_, nofun, fun _ => rfl⟩⟩
    have hall : ∀ (l : List (Member × Src)) (m : Member),
        (l.all fun e => e.1.warp != m.warp || brcVote d e.2) = (voters l m).all fun e => brcVote d e.2 := fun l m => by
      rw [voters, List.all_filter]
      rfl
    simp only [← offTarget_signExtend, ← brcVote_eq, hall]
    rfl
  | call p d a =>
    refine ⟨true, ⟨fun s => ?_, fun _ _ _ _ _ => rfl, nofun⟩⟩
    simp only [← offTarget_signExtend]
    rfl
  | ret p a => exact ⟨false, ⟨fun _ => rfl, nofun, fun _ => rfl⟩⟩
  | jmpi p a => exact ⟨false, ⟨fun _ => rfl, nofun, fun _ => rfl⟩⟩

/-! ### A transfer whose targets are clause headers -/

/-- The members that take a transfer, with their targets. -/
def takers (target : Member → Src → Option Pair) (l : List (Member × Src)) : List (Member × Pair) :=
  l.filterMap fun e => (target e.1 e.2).map fun t => (e.1, t)

/-- The fetches of the targets noted, and the link written. -/
def xferNoted (i : Instr) (link : Bool) (g : Group) (ts : List (Member × Pair)) (s : State) : State :=
  let s1 := ts.foldl (fun s e => fetchTrace s e.1.warp e.2.toNat) s
  if link then writeD s1 (shapeOf i).d (ts.map fun e => (e.1, (fallThrough g).setWidth 128)) else s1

theorem foldl_takers (target : Member → Src → Option Pair) (l : List (Member × Src)) (t : Tbl Pair) :
    (takers target l).foldl (fun t e => tblSet t e.1.lane e.2) t = Claims.takenBy target l t := by
  rw [takers, List.foldl_filterMap, Claims.takenBy]
  congr 1
  funext t e
  cases target e.1 e.2 <;> rfl

theorem takers_of_all (target : Member → Src → Option Pair) (l : List (Member × Src)) (h : ∀ m x, (target m x).isSome = true) :
    (takers target l).map (·.1) = l.map (·.1) := by
  induction l with
  | nil => rfl
  | cons e l ih =>
    obtain ⟨t, ht⟩ := Option.isSome_iff_exists.mp (h e.1 e.2)
    simpa [takers, ht] using ih

theorem writeD_nil (s : State) (x : Slot) : writeD s x [] = s := by
  unfold writeD
  dsimp only
  split
  · rfl
  · split <;> rfl

/-- What a transfer runs at its members. -/
def xferRun (i : Instr) (target : Group → List (Member × Src) → Member → Src → Option Pair) (link : Bool) (s : State) (g : Group)
    (l : List (Member × Src)) : State :=
  let ts := takers (target g l) l
  let bad := ts.filterMap fun e => (targetFail s e.1.warp e.2).map fun f => (e.1, f)
  let good := ts.filter fun e => (targetFail s e.1.warp e.2).isNone
  let s1 := ts.foldl (fun s e => fetchTrace s e.1.warp e.2.toNat) s
  let s2 := if link then writeD s1 (shapeOf i).d (good.map fun e => (e.1, (fallThrough g).setWidth 128)) else s1
  let s3 := updGroup s2 s2.cur fun g => { g with taken := good.foldl (fun t e => tblSet t e.1.lane e.2) g.taken }
  let stay := bad.filter fun e => !(thrOf s e.1).helper
  let s4 := dropMembers (stay.foldl (fun s e => standBefore s g e.1) s3) fun m => stay.any fun e => e.1 == m
  (trapsOf stay).foldl (fun s t => takeTrap s t g.pc (g.pos + 1)) s4

theorem exec_transfer {i : Instr} {target : Group → List (Member × Src) → Member → Src → Option Pair} {link : Bool}
    (h : RunsAs i target link) (s : State) (g : Group) (hr : Claims.Ready s g i) :
    exec i s = .next (retire (xferRun i target link (noted s g i) g (Claims.acts s g i))) := by
  rw [h.exec]
  exact groupOp_plain i .own noWait noFail (fun s g l => (xferRun i target link s g l, [])) s g hr.cur hr.plain hr.ops
    (fun _ _ => rfl) (fun _ _ _ => rfl) rfl

theorem dropMembers_none (s : State) : dropMembers s (fun _ => false) = s := by
  unfold dropMembers updGroup
  rw [tblUpd_id]
  intro a
  simp

theorem xferRun_of_headers (i : Instr) (target : Group → List (Member × Src) → Member → Src → Option Pair) (link : Bool) (s : State)
    (g : Group) (l : List (Member × Src))
    (h : ∀ e ∈ l, ∀ t, target g l e.1 e.2 = some t → targetFail s e.1.warp t = none) :
    xferRun i target link s g l =
      let u := xferNoted i link g (takers (target g l) l) s
      updGroup u u.cur fun h => { h with taken := Claims.takenBy (target g l) l h.taken } := by
  have hts : ∀ e ∈ takers (target g l) l, targetFail s e.1.warp e.2 = none := by
    intro e he
    obtain ⟨x, hx, hxe⟩ := List.mem_filterMap.mp he
    obtain ⟨t, ht, rfl⟩ := Option.map_eq_some_iff.mp hxe
    exact h x hx t ht
  have hbad : ((takers (target g l) l).filterMap fun e => (targetFail s e.1.warp e.2).map fun f => (e.1, f)) = [] :=
    List.filterMap_eq_nil_iff.mpr fun e he => by rw [hts e he]; rfl
  have hgood : ((takers (target g l) l).filter fun e => (targetFail s e.1.warp e.2).isNone) = takers (target g l) l :=
    List.filter_eq_self.mpr fun e he => by rw [hts e he]; rfl
  simp only [xferRun, hbad, hgood, List.filter_nil, List.foldl_nil, List.any_nil, dropMembers_none, foldl_takers]
  rfl

theorem readFrame_foldl_fetchTrace (ts : List (Member × Pair)) (s : State) :
    ReadFrame s (ts.foldl (fun s e => fetchTrace s e.1.warp e.2.toNat) s) :=
  ReadFrame.foldl _ _ _ fun s e => readFrame_fetchTrace s e.1.warp e.2.toNat

theorem warps_foldl_fetchTrace (ts : List (Member × Pair)) (s : State) :
    (ts.foldl (fun s e => fetchTrace s e.1.warp e.2.toNat) s).warps = s.warps :=
  warps_foldl _ _ _ fun s e => warps_fetchTrace s e.1.warp e.2.toNat

/-- The notes of a transfer leave its group in flight as it is. -/
theorem xferNoted_group (i : Instr) (link : Bool) (g : Group) (ts : List (Member × Pair)) (s : State) :
    (xferNoted i link g ts s).groups = s.groups ∧ (xferNoted i link g ts s).cur = s.cur := by
  have h := readFrame_foldl_fetchTrace ts s
  unfold xferNoted
  cases link with
  | false => exact ⟨h.groups, h.cur⟩
  | true =>
    have hw := sameFrame_writeD (ts.foldl (fun s e => fetchTrace s e.1.warp e.2.toNat) s) (shapeOf i).d
      (ts.map fun e => (e.1, (fallThrough g).setWidth 128))
    exact ⟨(hw.read State.groups fun _ _ => rfl).trans h.groups, (hw.read State.cur fun _ _ => rfl).trans h.cur⟩

theorem auditFrame_xferNoted (i : Instr) (link : Bool) (g : Group) (ts : List (Member × Pair)) (s : State) :
    AuditFrame s (xferNoted i link g ts s) := by
  have h : AuditFrame s (ts.foldl (fun s e => fetchTrace s e.1.warp e.2.toNat) s) :=
    AuditFrame.foldl _ _ _ fun s e => auditFrame_fetchTrace s e.1.warp e.2.toNat
  unfold xferNoted
  cases link with
  | false => exact h
  | true => exact h.trans (sameFrame_writeD ..).auditFrame

/-! ### The destination -/

theorem received_of_same {s u : State} {i : Instr} {ms : List Member} {v : Member → Val} (hd : dstWords i = 0)
    (hv : ∀ w l r, vreg u w l r = vreg s w l r) (hu : ∀ w n, ureg u w n = ureg s w n) (ht : ∀ m, thrOf u m = thrOf s m) :
    Claims.Received s i ms v u where
  window _ _ _ _ k hk := absurd hk (by omega)
  uniform _ _ _ _ _ _ k hk := absurd hk (by omega)
  otherVreg w l r _ _ := hv w l r
  otherUreg w n _ := hu w n
  threads m := by rw [ht]

/-- A destination written in a state that reads as another: its members receive their values. -/
theorem received_writeD {s s1 : State} {i : Instr} {ms : List Member} (v : Member → Val) (hms : ∀ m ∈ ms, m.lane < 64)
    (hv : ∀ w l r, vreg s1 w l r = vreg s w l r) (hu : ∀ w n, ureg s1 w n = ureg s w n) (ht : ∀ m, thrOf s1 m = thrOf s m)
    (hp : ∀ w l, present s1 w l = present s w l) :
    Claims.Received s i ms v (writeD s1 (shapeOf i).d (ms.map fun m => (m, v m))) := by
  have hlead : ∀ w, leadOf s1 ms w = leadOf s ms w := fun w => by simp only [leadOf, nonHelpers, ht]
  refine ⟨?_, ?_, ?_, ?_, fun m => by rw [thrOf_writeD, ht]⟩
  · rintro ⟨l, w⟩ hm hpr hd k hk
    have hin : warpIn s1 w := warpIn_of_present _ _ l ((hp w l).trans hpr)
    have hk' : k < writeWidth (shapeOf i).d.use := hk
    dsimp only
    rw [vreg_writeD _ _ _ _ _ _ _ hms (show l < 64 from hms _ hm), ht,
      if_pos ⟨hd, hm, hin, by unfold dstField; omega, by unfold dstField; omega⟩]
    congr 1
    unfold dstField
    omega
  · intro w m hl hpr h1 h2 k hk
    have hw := (leadOf_mem s _ w m hl).2.1
    have hin : warpIn s1 w := warpIn_of_present _ _ m.lane ((hp w m.lane).trans hpr)
    have hk' : k < writeWidth (shapeOf i).d.use := hk
    rw [ureg_writeD, hlead, hl]
    unfold dstField at h1 h2 ⊢
    dsimp only
    rw [if_pos ⟨h1, h2, hin, by omega, by omega⟩]
    congr 1
    omega
  · intro w l r hl hn
    rw [vreg_writeD _ _ _ _ _ _ _ hms hl, if_neg, hv]
    rintro ⟨h1, h2, -, h3, h4⟩
    rw [ht] at h3 h4
    exact hn ⟨⟨l, w⟩, h2, rfl, rfl, h1, h3, h4⟩
  · intro w n hn
    rw [ureg_writeD, hlead]
    cases hl : leadOf s ms w with
    | none => exact hu w n
    | some m =>
      dsimp only
      rw [if_neg, hu]
      rintro ⟨h1, h2, -, h3, h4⟩
      exact hn ⟨by rw [hl]; rfl, h1, h2, h3, h4⟩

theorem received_xferNoted {i : Instr} {target : Group → List (Member × Src) → Member → Src → Option Pair} {link : Bool}
    (h : RunsAs i target link) (s : State) (g : Group) :
    Claims.Received s i (actors s g i) (fun _ => (fallThrough g).setWidth 128)
      (xferNoted i link g (takers (target g (Claims.acts s g i)) (Claims.acts s g i)) (noted s g i)) := by
  set ts := takers (target g (Claims.acts s g i)) (Claims.acts s g i) with hts
  have hw := warps_foldl_fetchTrace ts (noted s g i)
  have hv : ∀ w l r, vreg (ts.foldl (fun s e => fetchTrace s e.1.warp e.2.toNat) (noted s g i)) w l r = vreg s w l r :=
    fun w l r => (vreg_congr hw w l r).trans (vreg_noted s g i w l r)
  have hu : ∀ w n, ureg (ts.foldl (fun s e => fetchTrace s e.1.warp e.2.toNat) (noted s g i)) w n = ureg s w n :=
    fun w n => (ureg_congr hw w n).trans (ureg_noted s g i w n)
  have ht : ∀ m, thrOf (ts.foldl (fun s e => fetchTrace s e.1.warp e.2.toNat) (noted s g i)) m = thrOf s m :=
    fun m => (thrOf_congr hw m).trans (thrOf_noted s g i m)
  have hp : ∀ w l, present (ts.foldl (fun s e => fetchTrace s e.1.warp e.2.toNat) (noted s g i)) w l = present s w l :=
    fun w l => (present_congr hw w l).trans (present_noted s g i w l)
  unfold xferNoted
  cases link with
  | false => exact received_of_same (h.unlinked rfl) hv hu ht
  | true =>
    have hmem : ts.map (·.1) = actors s g i := by
      rw [hts, takers_of_all _ _ (h.linked rfl g _), Claims.acts, List.map_map]
      exact List.map_id _
    have hvals : (ts.map fun e => (e.1, (fallThrough g).setWidth 128)) =
        (actors s g i).map fun m => (m, (fallThrough g).setWidth 128) := by
      rw [← hmem, List.map_map]
      rfl
    dsimp only
    rw [if_pos rfl, hvals]
    exact received_writeD (fun _ => (fallThrough g).setWidth 128) (actors_lane s g i) hv hu ht hp

theorem Received.congr {s u u' : State} {i : Instr} {ms : List Member} {v : Member → Val} (h : Claims.Received s i ms v u)
    (hw : u'.warps = u.warps) : Claims.Received s i ms v u' where
  window m hm hp hd k hk := (vreg_congr hw ..).trans (h.window m hm hp hd k hk)
  uniform w m hl hp h1 h2 k hk := (ureg_congr hw ..).trans (h.uniform w m hl hp h1 h2 k hk)
  otherVreg w l r hl hn := (vreg_congr hw ..).trans (h.otherVreg w l r hl hn)
  otherUreg w n hn := (ureg_congr hw ..).trans (h.otherUreg w n hn)
  threads m := by rw [thrOf_congr hw]; exact h.threads m

/-- R94, R95: the members take their targets, and a link is written. -/
theorem transfers : Claims.Transfers := by
  intro i target hi s g hr hfit
  obtain ⟨link, hrun⟩ := transfer_runsAs hi
  have hfit' : ∀ e ∈ Claims.acts s g i, ∀ t, target g (Claims.acts s g i) e.1 e.2 = some t →
      targetFail (noted s g i) e.1.warp t = none := by
    intro e he t ht
    obtain ⟨m, hm, rfl⟩ := List.mem_map.mp he
    exact hfit m hm t ht
  set u := xferNoted i link g (takers (target g (Claims.acts s g i)) (Claims.acts s g i)) (noted s g i) with hu
  obtain ⟨hgr, hcur⟩ := xferNoted_group i link g (takers (target g (Claims.acts s g i)) (Claims.acts s g i)) (noted s g i)
  refine ⟨updGroup u u.cur fun h => { h with taken := Claims.takenBy (target g (Claims.acts s g i)) (Claims.acts s g i) h.taken },
    ?_, ?_, ?_, ?_⟩
  · rw [exec_transfer hrun s g hr, xferRun_of_headers _ _ _ _ _ _ hfit']
  · show tblUpd u.groups u.cur _ = _
    rw [hgr, hcur, groups_noted, cur_noted]
  · exact Received.congr (received_xferNoted hrun s g) rfl
  · exact ((auditFrame_noted s g i).trans ((auditFrame_xferNoted ..).trans (.of_same rfl rfl rfl rfl rfl))).memoryKept

/-! ### The one actor's target is no clause header -/

theorem trapsOf_one (m : Member) (va : Nat) (n : Nat) :
    trapsOf [(m, { order := n, cause := .badTarget, addr := va })] =
      [{ warp := m.warp, cause := .badTarget, lane := m.lane, addr := va }] := by
  simp [trapsOf, warpsIn, sortNat, insNat]

theorem xferRun_of_no_header (i : Instr) (target : Group → List (Member × Src) → Member → Src → Option Pair) (link : Bool) (s : State)
    (g : Group) (m : Member) (x : Src) (t : Pair) (ws : List Word) (hh : (thrOf s m).helper = false)
    (ht : target g [(m, x)] m x = some t) (hf : fetchLine s m.warp t.toNat = .ok ws) (hb : isHeader ws t.toNat = false) :
    xferRun i target link s g [(m, x)] =
      takeTrap (dropMembers (standBefore (updGroup (fetchTrace s m.warp t.toNat) s.cur fun h => h) g m) fun n => n == m)
        { warp := m.warp, cause := .badTarget, lane := m.lane, addr := t.toNat } g.pc (g.pos + 1) := by
  have hts : takers (target g [(m, x)]) [(m, x)] = [(m, t)] := by simp [takers, ht]
  have hfail : targetFail s m.warp t = some { order := 30, cause := .badTarget, addr := t.toNat } := by
    simp [targetFail, hf, hb]
  have hcur := (readFrame_fetchTrace s m.warp t.toNat).cur
  have hsym : (fun n => m == n) = fun n => n == m := funext fun n => Bool.beq_comm
  simp only [xferRun, hts, List.filterMap_cons, List.filterMap_nil, hfail, Option.map_some, List.filter_cons, List.filter_nil,
    Option.isNone_some, Bool.false_eq_true, if_false, List.map_nil, writeD_nil, ite_self, List.foldl_cons, List.foldl_nil, hh,
    Bool.not_false, if_true, trapsOf_one, List.any_cons, List.any_nil, Bool.or_false, hcur, hsym]

/-- R62, R95: the actor stands at the transfer again and its warp traps there. -/
theorem badTargetTraps : Claims.BadTargetTraps := by
  intro i target hi s g m t ws hr hm hh ht hf hb
  obtain ⟨link, hrun⟩ := transfer_runsAs hi
  have hacts : Claims.acts s g i = [(m, sources s g i m)] := by rw [Claims.acts, hm]; rfl
  rw [hacts] at ht
  rw [exec_transfer hrun s g hr, hacts,
    xferRun_of_no_header i target link (noted s g i) g m _ t ws ((congrArg Thread.helper (thrOf_noted s g i m)).trans hh) ht hf hb,
    cur_noted]

end Sys2Proof.Machine

section
open Sys2Proof Sys2Proof.Machine

/-- Settles O34: the transfers whose targets are clause headers, and the one whose target is none. -/
theorem controlTransfers : Obligations.ControlTransfers := ⟨transfers, badTargetTraps⟩

end

/-! ## Matrix operations (O40) -/

namespace Sys2Proof.Machine

/-! ### An instruction that each warp performs once (R161) -/

theorem find?_lead_map {β : Type} (s : State) (ms : List Member) (F : Member → β) (w : Nat) :
    (ms.map fun m => (m, F m)).find? (fun e => e.1.warp == w && !(thrOf s e.1).helper) = (leadOf s ms w).map fun m => (m, F m) := by
  rw [List.find?_map, leadOf, nonHelpers, List.find?_filter]
  congr 2
  funext m
  simp only [Function.comp, Bool.decide_and, Bool.decide_eq_true, Bool.and_comm]

/-- The lowest actors of the represented warps neither wait nor fail: the effect is made for each warp in order. -/
theorem perWarpOp_plain (i : Instr) (k : RKind) (wait : State → Member → Src → Option Wait) (fail : State → Member → Src → Option Fail)
    (run : State → Group → List Member → Member → Src → State) (s : State) (g : Group) (hr : Claims.Ready s g i)
    (hw : Claims.EachLead s g i fun m x => wait s m x = none) (hf : Claims.EachLead s g i fun m x => fail s m x = none) :
    perWarpOp i k wait fail run s = .next (retire (Claims.perWarp s g i fun v act m x => run v g act m x)) := by
  have hrun : ∀ (v : State), Claims.perWarp s g i (fun v act m x => run v g act m x) =
      (warpsIn ((Claims.acts s g i).map (·.1))).foldl (fun s' w =>
        match (Claims.acts s g i).find? fun e => e.1.warp == w && !(thrOf (noted s g i) e.1).helper with
        | some e => run s' g (((Claims.acts s g i).filter fun x => x.1.warp == w).map (·.1)) e.1 e.2
        | none => s') (noted s g i) := by
    intro _
    have hmap : (Claims.acts s g i).map (·.1) = actors s g i := by
      rw [Claims.acts, List.map_map]
      exact List.map_id _
    rw [Claims.perWarp, hmap]
    congr 1
    funext v w
    rw [Claims.acts, find?_lead_map, leadOf_noted, List.filter_map, List.map_map]
    cases leadOf s (actors s g i) w with
    | none => rfl
    | some m =>
      have hact : List.map (Prod.fst ∘ fun m => (m, sources s g i m))
          ((actors s g i).filter ((fun x => x.1.warp == w) ∘ fun m => (m, sources s g i m))) =
          (actors s g i).filter fun n => n.warp == w := List.map_id _
      rw [hact]
      rfl
  rw [hrun s]
  unfold perWarpOp
  refine groupOp_plain i k _ _ _ s g hr.cur hr.plain hr.ops (fun m _ => ?_) (fun m _ _ => ?_) rfl
  · dsimp only
    rw [hr.cur]
    show (match (leadOf s (actors s g i) m.warp).map fun l => (l, sources s g i l) with
      | some (l, x) => wait s l x
      | none => none) = none
    cases hl : leadOf s (actors s g i) m.warp with
    | none => rfl
    | some l => exact hw m.warp l hl
  · dsimp only
    rw [hr.cur]
    show (match (leadOf s (actors s g i) m.warp).map fun l => (l, sources s g i l) with
      | some (l, _) => if l = m then fail s m (sources s g i m) else none
      | none => none) = none
    cases hl : leadOf s (actors s g i) m.warp with
    | none => rfl
    | some l =>
      dsimp only [Option.map_some]
      split
      · next h => exact h ▸ hf m.warp l hl
      · rfl

theorem perWarp_congr {s : State} {g : Group} {i : Instr} {e f : State → List Member → Member → Src → State}
    (h : ∀ v act m, e v act m (sources s g i m) = f v act m (sources s g i m)) : Claims.perWarp s g i e = Claims.perWarp s g i f := by
  unfold Claims.perWarp
  congr 1
  funext v w
  cases leadOf s (actors s g i) w with
  | none => rfl
  | some m => exact h ..

theorem sources_w (s : State) (g : Group) (i : Instr) (m : Member) : (sources s g i m).w = warpOf s m.warp := rfl

/-! ### The issue of a matrix operation (R168, R170) -/

theorem mmaRec_eq_namedRecord (w : Warp) (d : BitVec 7) : mmaRec w d = Claims.namedRecord w d := by
  have h127 : d = 127#7 ↔ d.toNat = 127 := by
    constructor
    · rintro rfl; rfl
    · exact fun h => BitVec.eq_of_toNat_eq h
  have h6 : d.getLsbD 6 = decide (d.toNat / 64 = 1) := by
    have hlt := d.isLt
    rw [BitVec.getLsbD, Nat.testBit_eq_decide_div_mod_eq]
    congr 1
    simp only [eq_iff_iff]
    omega
  have hlow : ∀ k, (d.extractLsb' 0 k).toNat = d.toNat % 2 ^ k := fun k => by simp [BitVec.extractLsb'_toNat]
  simp only [mmaRec, Claims.namedRecord, h127, h6, hlow, decide_eq_true_eq]
  split
  · rfl
  · split
    · rfl
    · have hlt := d.isLt
      rw [Nat.mod_eq_of_lt (by omega)]

theorem extract3_toNat (d : BitVec 7) : (d.extractLsb' 0 3).toNat = d.toNat % 8 := by simp [BitVec.extractLsb'_toNat]

theorem ctlNfa_eq (c : Word) : ctlNfa c = c.toNat / 2 ^ 20 % 4 := by
  simp [ctlNfa, BitVec.extractLsb'_toNat, Nat.shiftRight_eq_div_pow]
theorem ctlNfb_eq (c : Word) : ctlNfb c = c.toNat / 2 ^ 18 % 4 := by
  simp [ctlNfb, BitVec.extractLsb'_toNat, Nat.shiftRight_eq_div_pow]

theorem exec_matrixForm {i : Instr} {form : Nat} {d : BitVec 7} (h : Claims.MatrixForm i form d) (s : State) :
    exec i s = mmaOp i form d s := by
  cases h <;> rfl

/-- The operation that a multiplication enters, from the state at its warp's turn and its sources. -/
def mmaEntry (form : Nat) (d : BitVec 7) (v : State) (m : Member) (x : Src) : MatOp :=
  { form := form, dsel := d.toNat, ctl := lo32 x.a, bpair := lo64 x.b, num := (mmaRec x.w d).getD 0,
    trec := (match mmaRec x.w d with | some n => (recOf? v m.warp n).getD 0 | none => 0),
    nfA := nfmtOf x.w (ctlNfa (lo32 x.a)), nfB := nfmtOf x.w (ctlNfb (lo32 x.a)),
    hold := (reach? v x.w.wg (ctlBank (lo32 x.a))).getD 0 }

theorem multiplication_issues {i : Instr} {form : Nat} {d : BitVec 7} (h : Claims.MatrixForm i form d) (s : State) (g : Group)
    (hr : Claims.Ready s g i) (hf : Claims.EachLead s g i fun m x => mmaFail form d s m x = none) :
    exec i s = .next (retire (Claims.perWarp s g i fun v act m x => issueMat v g act m
      { form := form, dsel := d.toNat, ctl := lo32 x.a, bpair := lo64 x.b, num := (Claims.namedRecord (warpOf s m.warp) d).getD 0,
        trec := match Claims.namedRecord (warpOf s m.warp) d with
          | some n => (recOf? v m.warp n).getD 0
          | none => 0
        nfA := nfmtOf (warpOf s m.warp) ((lo32 x.a).toNat / 2 ^ 20 % 4), nfB := nfmtOf (warpOf s m.warp) ((lo32 x.a).toNat / 2 ^ 18 % 4)
        hold := (reach? v (warpOf s m.warp).wg (ctlBank (lo32 x.a))).getD 0 })) := by
  have hop : mmaOp i form d s = perWarpOp i .own noWait (mmaFail form d) (fun v g act m x => issueMat v g act m (mmaEntry form d v m x)) s :=
    rfl
  rw [exec_matrixForm h, hop, perWarpOp_plain i .own noWait (mmaFail form d) _ s g hr (fun _ _ _ => rfl) hf]
  refine congrArg (fun u => (.next (retire u) : Out)) (perWarp_congr fun v act m => ?_)
  simp only [mmaEntry, mmaRec_eq_namedRecord, ctlNfa_eq, ctlNfb_eq, sources_w] <;> rfl

/-- The operation that a tile instruction enters. -/
def tileEntry (store : Bool) (d b : BitVec 7) (v : State) (m : Member) (x : Src) : MatOp :=
  { kind := if store then 2 else 1, dsel := (d.extractLsb' 0 3).toNat, bpair := lo64 x.a, num := recSel x.w b,
    trec := (recOf? v m.warp (recSel x.w b)).getD 0 }

/-- The operation entered, and performed at once where nothing holds it. -/
def tileEnter (v : State) (g : Group) (act : List Member) (m : Member) (o : MatOp) : State :=
  let u := issueMat v g act m o
  if matReady u v.nextId then tileStep u v.nextId else u

theorem tile_issues (i : Instr) (store : Bool) (d b : BitVec 7) (s : State) (g : Group) (hr : Claims.Ready s g i)
    (hf : Claims.EachLead s g i fun m x => acqHeld s m = false ∧ tileAllFail store (d.toNat % 8) (recSel (warpOf s m.warp) b)
      (x.a.extractLsb' 0 32).toInt (x.a.extractLsb' 32 32).toInt s m = none) :
    tileOp i store d b s = .next (retire (Claims.perWarp s g i fun v act m x => tileEnter v g act m
      { kind := if store then 2 else 1, dsel := d.toNat % 8, bpair := lo64 x.a, num := recSel (warpOf s m.warp) b,
        trec := (recOf? v m.warp (recSel (warpOf s m.warp) b)).getD 0 })) := by
  have hop : tileOp i store d b s = perWarpOp i (if store then .hold 4 else .own) (fun s m _ => laterWait s m {}) (fun s m x =>
      if takesForward s m && !store then none
      else tileAllFail store (d.extractLsb' 0 3).toNat (recSel x.w b) (unitX x) (unitY x) s m)
      (fun v g act m x => tileEnter v g act m (tileEntry store d b v m x)) s := rfl
  rw [hop, perWarpOp_plain i _ _ _ _ s g hr (fun w m hl => ?_) (fun w m hl => ?_)]
  · refine congrArg (fun u => (.next (retire u) : Out)) (perWarp_congr fun v act m => ?_)
    rw [tileEntry, extract3_toNat, sources_w]
  · simp [laterWait, (hf w m hl).1]
  · dsimp only
    split
    · rfl
    · rw [extract3_toNat]
      exact (hf w m hl).2

theorem mats_raiseFlag (s : State) (w f : Nat) : (raiseFlag s w f).mats = s.mats := by unfold raiseFlag; split <;> rfl
theorem mem_raiseFlag (s : State) (w f : Nat) : (raiseFlag s w f).mem = s.mem := by unfold raiseFlag; split <;> rfl

theorem sameRegisters_raiseFlag {s t : State} (h : t.warps = s.warps) (w f : Nat) : SameRegisters s (raiseFlag t w f) := by
  unfold raiseFlag
  split
  · refine ⟨fun v l r _ => ?_, fun v n => ?_, fun m => ?_⟩
    · rw [← vreg_congr h]
      unfold vreg
      rw [warpOf_updWarp]
      split <;> rfl
    · rw [← ureg_congr h]
      unfold ureg
      rw [warpOf_updWarp]
      split <;> rfl
    · rw [← thrOf_congr h]
      exact thrOf_updWarp_of_lanes t w _ m fun _ => rfl
  · exact ⟨fun v l r _ => vreg_congr h v l r, ureg_congr h, thrOf_congr h⟩

theorem fcount_raiseFlag (s : State) (w f : Nat) (hw : warpIn s w) (hf : f < 12) :
    bmGet (warpOf (raiseFlag s w f) w).fcount f = bmGet (warpOf s w).fcount f + 1 := by
  rw [raiseFlag, if_pos hf, warpOf_updWarp_self _ _ _ hw, bmGet_bmSet, if_pos rfl]

/-- R53, R168, R170: each represented warp enters one operation, and its flag rises. -/
theorem matrixIssues : Claims.MatrixIssues := by
  refine ⟨fun i form d h s g => multiplication_issues h s g, fun p d a b s g => tile_issues (.tld p d a b) false d b s g,
    fun p d a b s g => tile_issues (.tst p d a b) true d b s g, fun s g act m o hw => ?_⟩
  refine ⟨⟨_, mats_raiseFlag .., rfl, rfl, rfl, rfl, rfl, rfl, rfl, rfl, rfl, rfl, rfl, rfl, rfl, rfl, rfl⟩, mem_raiseFlag .., ?_, fun hf => ?_⟩
  · exact sameRegisters_raiseFlag (s := s) (by rfl) m.warp (groupFlag g)
  · exact fcount_raiseFlag _ m.warp (groupFlag g) hw hf

end Sys2Proof.Machine
namespace Sys2Proof.Machine

/-! ### The k-group of a multiplication (R171, R172) -/

/-- What of an operation stays as its image words are read. -/
theorem readImgs_keeps {β : Type} (f : MatOp → β) (hf : ∀ o t, f { o with img := t } = f o) (s : State) (id : Nat) (o : MatOp) :
    f (readImgs s id o) = f o := by
  unfold readImgs
  generalize kWords s o = l
  suffices h : ∀ (l : List Nat) (o' : MatOp), f o' = f o → f (l.foldl (fun o n =>
      if (tblGet? o.img n).isSome then o
      else { o with img := tblSet o.img n (match imgOld s o n with
        | v :: _ => if Config.early s.free (id * 2 ^ 32 + 2 ^ 31 + n) then v else imgNow s o n
        | [] => imgNow s o n) }) o') = f o from h l o rfl
  intro l
  induction l with
  | nil => exact fun _ h => h
  | cons n l ih =>
    intro o' h
    refine ih _ ?_
    dsimp only
    split
    · exact h
    · exact (hf ..).trans h

/-- An element of a bank. -/
abbrev elemIx (i c : Nat) : Nat := i * 128 + c

theorem elemIx_inj {i c i' c' : Nat} (hc : c < 128) (hc' : c' < 128) : elemIx i c = elemIx i' c' ↔ i = i' ∧ c = c' := by
  constructor
  · intro h
    have : i * 128 + c = i' * 128 + c' := h
    omega
  · rintro ⟨rfl, rfl⟩; rfl

/-- The update of a column without stochastic rounding: its rows, one after another. -/
def colRow (c : Nat) (ops : Nat → List (FVal × FVal)) (bk : Bank) (i : Nat) : Bank :=
  { bk with data := bmSet bk.data (elemIx i c) (Claims.kgroupSum (ops i) (bmGet bk.data (elemIx i c))) }

theorem accStep_plain (rnd : Word) (ops : List (FVal × FVal)) (old : Word) :
    accStep false rnd ops old = (Claims.kgroupSum ops old, (finish fp32 .near false (kSum ops (unpack fp32 false old.toNat))).2) := rfl

theorem colStep_plain (o : MatOp) (h : ctlAcf o.ctl = false) (c : Nat) (as : List (List (Nat × FVal))) (b : Nat → FVal × BitVec 6) (bk : Bank)
    (fl : BitVec 6) : (colStep o c as b bk fl).1 =
      (List.range 16).foldl (colRow c fun i => (as.getD i []).map fun e => (e.2, (b e.1).1)) bk := by
  simp only [colStep, h, Bool.false_eq_true, if_false, accStep_plain]
  generalize List.range 16 = l
  induction l generalizing bk fl with
  | nil => rfl
  | cons i l ih => exact ih _ _

theorem bmGet_foldl_colRow (c : Nat) (ops : Nat → List (FVal × FVal)) (n : Nat) (bk : Bank) (i' c' : Nat) (hc : c < 128) (hc' : c' < 128) :
    bmGet ((List.range n).foldl (colRow c ops) bk).data (elemIx i' c') =
      if i' < n ∧ c' = c then Claims.kgroupSum (ops i') (bmGet bk.data (elemIx i' c')) else bmGet bk.data (elemIx i' c') := by
  induction n with
  | zero => rw [if_neg (by omega)]; rfl
  | succ n ih =>
    rw [List.range_succ, List.foldl_append, List.foldl_cons, List.foldl_nil]
    show bmGet (bmSet _ _ _) _ = _
    rw [bmGet_bmSet]
    by_cases he : elemIx n c = elemIx i' c'
    · obtain ⟨rfl, rfl⟩ := (elemIx_inj hc hc').mp he
      rw [if_pos rfl, ih, if_neg (by omega), if_pos ⟨by omega, rfl⟩]
    · have hne : ¬ (n = i' ∧ c = c') := fun h => he ((elemIx_inj hc hc').mpr h)
      rw [if_neg he, ih]
      by_cases hi : i' < n ∧ c' = c
      · rw [if_pos hi, if_pos ⟨by omega, hi.2⟩]
      · rw [if_neg hi, if_neg fun h => hi ⟨by omega, h.2⟩]

/-- The bank after the columns of a k-group, without stochastic rounding. -/
theorem bmGet_foldl_colStep (o : MatOp) (h : ctlAcf o.ctl = false) (as : List (List (Nat × FVal))) (b : Nat → Nat → FVal × BitVec 6)
    (n : Nat) (bk : Bank) (fl : BitVec 6) (hn : ctlCol o.ctl + n ≤ 128) (i c : Nat) (hc : c < 128) :
    bmGet ((List.range n).foldl (fun (acc : Bank × BitVec 6) j =>
        colStep o (ctlCol o.ctl + j) as (fun q => b q j) acc.1 acc.2) (bk, fl)).1.data (elemIx i c) =
      if i < 16 ∧ ctlCol o.ctl ≤ c ∧ c < ctlCol o.ctl + n
      then Claims.kgroupSum ((as.getD i []).map fun e => (e.2, (b e.1 (c - ctlCol o.ctl)).1)) (bmGet bk.data (elemIx i c))
      else bmGet bk.data (elemIx i c) := by
  induction n with
  | zero => rw [if_neg (by omega)]; rfl
  | succ n ih =>
    rw [List.range_succ, List.foldl_append, List.foldl_cons, List.foldl_nil, colStep_plain _ h,
      bmGet_foldl_colRow _ _ _ _ _ _ (by omega) hc, ih (by omega)]
    by_cases hcn : c = ctlCol o.ctl + n
    · subst hcn
      rw [if_neg (c := i < 16 ∧ ctlCol o.ctl ≤ _ ∧ ctlCol o.ctl + n < ctlCol o.ctl + n) (by omega), Nat.add_sub_cancel_left]
      by_cases hi : i < 16
      · rw [if_pos ⟨hi, rfl⟩, if_pos ⟨hi, by omega, by omega⟩]
      · rw [if_neg fun x => hi x.1, if_neg fun x => hi x.1]
    · rw [if_neg fun x => hcn x.2]
      by_cases hi : i < 16 ∧ ctlCol o.ctl ≤ c ∧ c < ctlCol o.ctl + n
      · rw [if_pos hi, if_pos ⟨hi.1, hi.2.1, by omega⟩]
      · rw [if_neg hi, if_neg fun x => hi ⟨x.1, x.2.1, by omega⟩]

/-- The bank and the flags that a k-group leaves. -/
def kBank (s : State) (o : MatOp) (bval : Nat → Nat → FVal × BitVec 6) : Bank × BitVec 6 :=
  (List.range (shN o.shape)).foldl (fun (acc : Bank × BitVec 6) j =>
      colStep o (ctlCol o.ctl + j) ((List.range 16).map fun i => aOps s o i) (fun q => bval q j) acc.1 acc.2)
    (tblGet (wgOf s o.hold).banks (matBank o), 0)

theorem kGroup_eq (s : State) (o : MatOp) (bval : Nat → Nat → FVal × BitVec 6) :
    kGroup s o bval = (updWg s o.hold fun w => { w with banks := tblUpd w.banks (matBank o) fun _ => (kBank s o bval).1 }, (kBank s o bval).2) :=
  rfl

/-- An element after one k-group, without stochastic rounding. -/
theorem bmGet_kBank (s : State) (o : MatOp) (bval : Nat → Nat → FVal × BitVec 6) (h : ctlAcf o.ctl = false)
    (hn : ctlCol o.ctl + shN o.shape ≤ 128) (i c : Nat) (hc : c < 128) :
    bmGet (kBank s o bval).1.data (elemIx i c) =
      if i < 16 ∧ ctlCol o.ctl ≤ c ∧ c < ctlCol o.ctl + shN o.shape
      then Claims.kgroupSum ((aOps s o i).map fun e => (e.2, (bval e.1 (c - ctlCol o.ctl)).1)) (accGet s o.hold (matBank o) (elemIx i c))
      else accGet s o.hold (matBank o) (elemIx i c) := by
  rw [kBank, bmGet_foldl_colStep _ h _ _ _ _ _ hn _ _ hc]
  by_cases hi : i < 16 ∧ ctlCol o.ctl ≤ c ∧ c < ctlCol o.ctl + shN o.shape
  · rw [if_pos hi, if_pos hi]
    have hrow : ((List.range 16).map fun i => aOps s o i).getD i [] = aOps s o i := by
      simp [List.getD_eq_getElem?_getD, hi.1]
    rw [hrow]
    rfl
  · rw [if_neg hi, if_neg hi]
    rfl

theorem tblGet_of_some {α : Type} [Inhabited α] {t : Tbl α} {k : Nat} {v : α} (h : tblGet? t k = some v) : tblGet t k = v := by
  rw [tblGet, h]
  rfl

/-- A bank of a present holder replaced. -/
theorem accGet_replaced (s : State) (h b : Nat) (bk : Bank) (hb : (tblGet? (wgOf s h).banks b).isSome = true) (n : Nat) :
    accGet (updWg s h fun w => { w with banks := tblUpd w.banks b fun _ => bk }) h b n = bmGet bk.data n := by
  have hw : (tblGet? s.wgs h).isSome = true := by
    cases hx : tblGet? s.wgs h with
    | some => rfl
    | none =>
      rw [wgOf, tblGet, hx] at hb
      cases hb
  unfold accGet wgOf updWg
  rw [tblGet_tblUpd, if_pos ⟨rfl, hw⟩]
  dsimp only
  rw [tblGet_tblUpd, if_pos ⟨rfl, hb⟩]

/-! ### The step of one unreplicated multiplication whose B lies in the operand buffer -/

theorem fillAhead_nil (s : State) (part stream : Nat) : fillAhead s part stream [] = s := by
  simp [fillAhead]
theorem accessesFail_nil (s : State) (m : Member) (need : Need) : accessesFail s m need [] = none := rfl
theorem auditLines_nil (s : State) (m : Member) (ident : Nat) : auditLines s m ident [] = s := rfl
theorem deniedLines_nil (s : State) (m : Member) : deniedLines s m [] = [] := rfl

theorem updMat_id (s : State) (id : Nat) (f : MatOp → MatOp) (h : ∀ o, f o = o) : updMat s id f = s := by
  unfold updMat
  rw [tblUpd_id _ _ _ h]

/-- The step of one multiplication, up to the rise of its G. -/
theorem kStep_of_buffer (s : State) (id : Nat) (o : MatOp) (ho : tblGet? s.mats id = some o) (hm : matMates s id = [id])
    (hk : readsRec o = false) (ha : o.again = false) :
    let r := readImgs s id o
    kStep s id =
      let p := kGroup (updMat s id fun _ => r) r fun q j => (bFromBuf s r (4 * r.g + q) j, 0)
      kAdvance p.1 id p.2 := by
  have hmat : matOf s id = o := tblGet_of_some ho
  have hr : readsRec (readImgs s id o) = false := by
    rw [← hk]
    exact readImgs_keeps readsRec (fun _ _ => rfl) s id o
  have hres : ∀ r, resumed s r o = o := fun r => by simp [resumed, ha]
  intro r
  simp only [kStep, hmat, hk, ha, Bool.false_and, Bool.false_eq_true, if_false, deniedLines_nil, accessesFail_nil, List.filter_nil,
    List.foldl_nil, List.append_nil, auditLines_nil, fillAhead_nil, updMat_id _ _ (fun o : MatOp => o) fun _ => rfl, hm, List.foldl_cons, hres, hr]
  rfl

/-- G rises where the k-group is not the last one. -/
theorem kAdvance_of_more (s : State) (id : Nat) (fl : BitVec 6) (o : MatOp) (ho : tblGet? s.mats id = some o)
    (hg : o.g + 1 < shK o.shape / 4) :
    kAdvance s id fl = updMat s id fun o => { o with g := o.g + 1, flags := o.flags ||| fl.extractLsb' 0 5 } := by
  have hm : matOf (updMat s id fun o => { o with g := o.g + 1, flags := o.flags ||| fl.extractLsb' 0 5 }) id =
      { o with g := o.g + 1, flags := o.flags ||| fl.extractLsb' 0 5 } := by
    rw [matOf, updMat, tblGet_tblUpd, if_pos ⟨rfl, by rw [ho]; rfl⟩, tblGet_of_some ho]
  unfold kAdvance
  dsimp only
  rw [hm]
  exact if_neg (by dsimp only; omega)

/-- R167, R171 to R173, R180: one k-group adds to its block of the bank, and keeps the other elements and memory. -/
theorem matrixKGroup : Claims.MatrixKGroup := by
  intro s o ho hready hm hkind hd ha hacf hbank hcol hmore r
  have hmat : matOf s s.arg.a = o := tblGet_of_some ho
  have hk : readsRec o = false := by simp [readsRec, hkind, hd]
  have hctl : r.ctl = o.ctl := readImgs_keeps MatOp.ctl (fun _ _ => rfl) s s.arg.a o
  have hshape : r.shape = o.shape := readImgs_keeps MatOp.shape (fun _ _ => rfl) s s.arg.a o
  have hg : r.g = o.g := readImgs_keeps MatOp.g (fun _ _ => rfl) s s.arg.a o
  have hhold : r.hold = o.hold := readImgs_keeps MatOp.hold (fun _ _ => rfl) s s.arg.a o
  set t := updMat s s.arg.a fun _ => r with ht
  set p := kGroup t r (fun q j => (bFromBuf s r (4 * r.g + q) j, 0)) with hp
  have htr : tblGet? p.1.mats s.arg.a = some r := by
    show tblGet? (tblUpd s.mats s.arg.a fun _ => r) s.arg.a = some r
    rw [tblGet?_tblUpd, if_pos rfl, ho]
    rfl
  have hstep : exec .mmaKgroup s =
      .next (updMat p.1 s.arg.a fun o => { o with g := o.g + 1, flags := o.flags ||| p.2.extractLsb' 0 5 }) := by
    show execMmaKgroup s = _
    rw [execMmaKgroup, hready, hmat, hkind, kStep_of_buffer s s.arg.a o ho hm hk ha]
    exact congrArg (fun u => (.next u : Out)) (kAdvance_of_more _ _ _ _ htr (by rw [hg, hshape]; exact hmore))
  have hmatu : matOf (updMat p.1 s.arg.a fun o => { o with g := o.g + 1, flags := o.flags ||| p.2.extractLsb' 0 5 }) s.arg.a =
      { r with g := r.g + 1, flags := r.flags ||| p.2.extractLsb' 0 5 } := by
    rw [matOf, updMat, tblGet_tblUpd, if_pos ⟨rfl, by rw [htr]; rfl⟩, tblGet_of_some htr]
  have hacc : ∀ i c, c < 128 → accGet p.1 o.hold (ctlBank o.ctl) (elemIx i c) =
      if i < 16 ∧ ctlCol o.ctl ≤ c ∧ c < ctlCol o.ctl + shN o.shape
      then Claims.kgroupSum ((aOps s r i).map fun e => (e.2, bFromBuf s r (4 * o.g + e.1) (c - ctlCol o.ctl)))
        (accGet s o.hold (ctlBank o.ctl) (elemIx i c))
      else accGet s o.hold (ctlBank o.ctl) (elemIx i c) := by
    intro i c hc
    have h := bmGet_kBank t r (fun q j => (bFromBuf s r (4 * r.g + q) j, 0)) (by rw [hctl]; exact hacf)
      (by rw [hctl, hshape]; exact hcol) i c hc
    rw [hp, kGroup_eq]
    dsimp only
    rw [← hhold, ← hctl, show ctlBank r.ctl = matBank r from rfl, accGet_replaced t r.hold (matBank r) _ (by rw [hhold, matBank, hctl]; exact hbank), h,
      hshape, hg]
    rfl
  refine ⟨_, hstep, rfl, by rw [hmatu, hg], by rw [hmatu], fun i hi j hj => ?_, fun i c hc hout => ?_⟩
  · refine (hacc i (ctlCol o.ctl + j) (by omega)).trans ?_
    rw [if_pos ⟨hi, by omega, by omega⟩, Nat.add_sub_cancel_left]
  · refine (hacc i c hc).trans ?_
    rw [if_neg (by omega)]

end Sys2Proof.Machine

section
open Sys2Proof Sys2Proof.Machine

/-- Settles O40: the issue of the operations, and one k-group of a multiplication. -/
theorem matrixOperations : Obligations.MatrixOperations := ⟨matrixIssues, matrixKGroup⟩

end

/-! ## The end of a clause (O7)

R17 forms an issue group of threads of one workgroup. The statement takes any group in flight, and where its members belong to two
workgroups, the end of the one that `EXIT` takes may retire its workgroup, whose out ranges (R197) are then written; on a page that maps
the on-chip map (R26, R27) that store changes a register of the other. -/

namespace Sys2Proof.Machine

/-- The word of `EXIT` under the guard p0. -/
def exitWord : Word := 0xE8000014

theorem decodeWord_exitWord : decodeWord exitWord = .ok (.exitT 0) := by decide +kernel

/-- The last thread of a workgroup at its `EXIT`, in one group with a thread of another workgroup whose guard is false. -/
def exitGroup : Group := { wg := 9, mem := [⟨0, 4⟩, ⟨1, 6⟩], body := [exitWord], ended := [1] }

/-- A workgroup of one warp with an out range of one word on the page that maps the registers of slot 0. -/
def outOnRegister : Wg :=
  { ctx := 1, grid := 5, lcore := 16777216, threads := 1, warps := [6], scr := [(0, 1)],
    regions := [{ va := 0x200000, size := 4, dir := 2 }] }

/-- The group at its clause end; the warp of the other workgroup stands in slot 0 of core 0. -/
def exitBesideRegister : State :=
  { pkgs := [(0, { full := true, dies := [0, 1, 2, 3] })]
    ctxs := [(1, { priv := true })]
    parts := [(8192, { ncores := 1, tlb := [windowPage] })]
    lcores := [(16777216, { pcore := some 0 })]
    pcores := [(0, { owners := [8192] })]
    grids := [(5, { ctx := 1, part := 8192, num := 2, started := [0, 1] })]
    groups := [(0, exitGroup)]
    wgs := [(3, { ctx := 1, grid := 5, lcore := 16777216, threads := 1, warps := [4] }), (9, outOnRegister)]
    warps := [(4, { ctx := 1, wg := 3, nv := 32, lanes := [(0, {})] }), (6, { ctx := 1, wg := 9, slot := 1, nv := 32, lanes := [(1, { preds := 1 })] })]
    nextId := 10 }

/-- The register of the thread that goes on holds zero before the clause end, and the word of the out range after it. -/
theorem vreg_exitBesideRegister : vreg exitBesideRegister 4 0 0 = 0 := rfl
theorem vreg_retire_exitBesideRegister : vreg (retire exitBesideRegister) 4 0 0 = 1 := by decide +kernel

end Sys2Proof.Machine

section
open Sys2Proof Sys2Proof.Machine

/-- Refutes O7: the member that `EXIT` does not take has not its registers after the clause end, where the group's other member is the last
thread of another workgroup. -/
theorem not_clauseEnd : ¬ Obligations.ClauseEnd := by
  intro h
  obtain ⟨-, -, hend⟩ := h
  obtain ⟨-, hlast⟩ := hend exitBesideRegister exitGroup rfl (by decide)
  obtain ⟨-, hmem⟩ := hlast (by decide)
  obtain ⟨hgo, -⟩ := hmem ⟨0, 4⟩ (by decide) (by decide)
  obtain ⟨-, -, -, hregs⟩ := hgo rfl (by decide) (by decide)
  have hreg : vreg (retire exitBesideRegister) 4 0 0 = vreg exitBesideRegister 4 0 0 := hregs 0
  rw [vreg_retire_exitBesideRegister, vreg_exitBesideRegister] at hreg
  exact absurd hreg (by decide)

end

/-! ## NOP and YIELD (O9) -/

namespace Sys2Proof.Machine

/-- An instruction that only changes its members or their warps, in an unreplicated group whose actors pass its check. -/
theorem effectOp_plain (i : Instr) (fail : State → Member → Src → Option Fail) (run : State → Group → List (Member × Src) → State)
    (s : State) (g : Group) (hr : Claims.Ready s g i) (hf : Claims.EachChecked s g i fun m x => fail s m x = none) :
    effectOp i fail run s = .next (retire (run (noted s g i) g (Claims.acts s g i))) :=
  groupOp_plain i .own noWait fail _ s g hr.cur hr.plain hr.ops (fun _ _ => rfl) hf rfl

/-! ### The state after a part of an instruction, and an update of each represented warp -/

theorem nodup_warpsIn (ms : List Member) : (warpsIn ms).Nodup := (sortNat_rises _).imp fun h => Nat.ne_of_lt h

theorem map_fst_acts (s : State) (g : Group) (i : Instr) : (Claims.acts s g i).map (·.1) = actors s g i := by
  rw [Claims.acts, List.map_map]
  exact List.map_id _

theorem sameRegisters_refl (s : State) : SameRegisters s s := ⟨fun _ _ _ _ => rfl, fun _ _ => rfl, fun _ => rfl⟩

theorem sameRegisters_trans {s t u : State} (h : SameRegisters s t) (k : SameRegisters t u) : SameRegisters s u :=
  ⟨fun w l r hl => (k.vregs w l r hl).trans (h.vregs w l r hl), fun w n => (k.uregs w n).trans (h.uregs w n),
    fun m => (k.threads m).trans (h.threads m)⟩

theorem sameRegisters_of_warps {s u : State} (h : u.warps = s.warps) : SameRegisters s u :=
  ⟨fun w l r _ => vreg_congr h w l r, ureg_congr h, thrOf_congr h⟩

theorem sameRegisters_foldl {β : Type} (l : List β) (f : State → β → State) (s : State) (h : ∀ s x, SameRegisters s (f s x)) :
    SameRegisters s (l.foldl f s) := by
  induction l generalizing s with
  | nil => exact sameRegisters_refl s
  | cons x t ih => exact sameRegisters_trans (h s x) (ih _)

theorem sameRegisters_noted (s : State) (g : Group) (i : Instr) : SameRegisters s (noted s g i) :=
  ⟨fun w l r _ => vreg_noted s g i w l r, ureg_noted s g i, thrOf_noted s g i⟩

theorem sameRegisters_updWarp (s : State) (w : Nat) (f : Warp → Warp) (hv : ∀ x, (f x).vr = x.vr) (hs : ∀ x, (f x).sr = x.sr)
    (hl : ∀ x, (f x).lanes = x.lanes) : SameRegisters s (updWarp s w f) := by
  refine ⟨fun v l r _ => ?_, fun v n => ?_, fun m => thrOf_updWarp_of_lanes s w f m hl⟩
  · unfold vreg
    rw [warpOf_updWarp]
    split
    · rw [hv]
    · rfl
  · unfold ureg
    rw [warpOf_updWarp]
    split
    · rw [hs]
    · rfl

/-- Each warp of a list without repetitions receives its own update. -/
theorem warpOf_foldl_updWarp (F : Nat → Warp → Warp) (ws : List Nat) (hn : ws.Nodup) (s : State) (w : Nat) (hw : warpIn s w) :
    warpOf (ws.foldl (fun v x => updWarp v x (F x)) s) w = if w ∈ ws then F w (warpOf s w) else warpOf s w := by
  induction ws generalizing s with
  | nil => rfl
  | cons x t ih =>
    obtain ⟨hx, ht⟩ := List.nodup_cons.mp hn
    rw [List.foldl_cons, ih ht _ ((warpIn_updWarp s x w _).2 hw), warpOf_updWarp]
    by_cases hxw : x = w
    · subst hxw
      simp [hx, hw]
    · simp [hxw, Ne.symm hxw]

/-! ### The two instructions -/

theorem acts_isEmpty (s : State) (g : Group) (i : Instr) : (Claims.acts s g i).isEmpty = true ↔ actors s g i = [] := by
  rw [Claims.acts, List.isEmpty_iff, List.map_eq_nil_iff]

/-- Of its group's header and mark the end of a clause reads only whether one of them yields. -/
theorem endClause_hdr_yld (s : State) (g : Group) (h : Word) (y : Bool)
    (hyld : (y || h.getLsbD 7) = (g.yld || g.hdr.getLsbD 7)) :
    endClause s { g with hdr := h, yld := y } = endClause s g := by
  unfold endClause yieldWarps
  simp only [hyld]
  rfl

/-- R97: without an effect of `NOP`, the state stays what the reading of the operands has left. -/
theorem nop_keeps (p : BitVec 3) (s : State) (g : Group) (hr : Claims.Ready s g (.nop p)) :
    exec (.nop p) s = .next (retire (noted s g (.nop p))) :=
  effectOp_plain (.nop p) noFail (fun s _ _ => s) s g hr fun _ _ _ => rfl

/-- R97: `YIELD` marks its group, where one of its members performs it. -/
theorem yield_marks (p : BitVec 3) (s : State) (g : Group) (hr : Claims.Ready s g (.yield p)) :
    exec (.yield p) s = .next (retire (if actors s g (.yield p) = [] then noted s g (.yield p)
      else updGroup (noted s g (.yield p)) s.cur fun h => { h with yld := true })) := by
  have h := effectOp_plain (.yield p) noFail (fun s _ l => if l.isEmpty then s else updGroup s s.cur fun g => { g with yld := true })
    s g hr fun _ _ _ => rfl
  simp only [acts_isEmpty, cur_noted] at h
  exact h

end Sys2Proof.Machine

section
open Sys2Proof Sys2Proof.Machine

/-- Settles O9: the mark of `YIELD` and the header bit YLD have one effect. -/
theorem nopAndYield : Obligations.NopAndYield := by
  refine ⟨nop_keeps, yield_marks, fun s g => ?_⟩
  have hflag := endClause_hdr_yld s { g with hdr := g.hdr ||| 0x80#32 }
  exact ⟨(hflag g.hdr true (by simp)).trans rfl, hflag _ true (by simp)⟩

end

/-! ## The ends of clauses, the prefix, and the window base (O35) -/

namespace Sys2Proof.Machine

/-- R96: at its clause end the group loses the actors of `EXIT`. -/
theorem exit_ends (p : BitVec 3) (s : State) (g : Group) (hr : Claims.Ready s g (.exitT p)) : exec (.exitT p) s = .next (retire
    (updGroup (noted s g (.exitT p)) s.cur fun h => { h with ended := h.ended ++ (actors s g (.exitT p)).map fun m => m.lane })) := by
  have h := groupOp_plain (.exitT p) .cmp noWait noFail
    (fun s _ l => (updGroup s s.cur fun g => { g with ended := g.ended ++ l.map fun e => e.1.lane }, []))
    s g hr.cur hr.plain hr.ops (fun _ _ => rfl) (fun _ _ _ => rfl) rfl
  simp only [List.map_map, Function.comp_def, cur_noted] at h
  exact h

/-- R98: the wait of `CONV` is the clause entry's; the instruction leaves only the reading of its operands. -/
theorem conv_keeps (s : State) (g : Group) (hr : Claims.Ready s g .convW) : exec .convW s = .next (retire (noted s g .convW)) :=
  effectOp_plain .convW noFail (fun s _ _ => s) s g hr fun _ _ _ => rfl

/-- R59: within the clause a prefix changes its group alone. -/
theorem prefix_hands_on (a b : BitVec 9) (s : State) (g : Group) (hg : curGroup? s = some g) (hm : g.mem ≠ [])
    (hpos : g.pos + 1 < groupInstrs g) :
    ∃ u, exec (.permutationPrefix a b) s = .next u ∧ curGroup? u = some { g with pos := g.pos + 1, patA := a, patB := b } ∧
      { u with groups := s.groups } = s := by
  have hret : retire s = { s with groups := tblSet s.groups s.cur { g with pos := g.pos + 1, patA := 0, patB := 0 } } := by
    simp [retire, hg, hm, hpos]
  refine ⟨updGroup (retire s) s.cur fun g => { g with patA := a, patB := b }, ?_, ?_, ?_⟩
  · show execPermutationPrefix a b s = _
    rw [execPermutationPrefix, hg]
  · rw [hret]
    simp [curGroup?, updGroup, tblGet?_tblUpd, tblGet?_tblSet]
  · rw [hret]
    rfl

/-! ### `WBASE` (R99) -/

/-- WINDOW_RANGE of a value that is no window base. -/
def wbaseFault (x : Src) : Fail := { order := 1, cause := .windowRange, info := (lo32 x.a).toNat }

theorem wbaseFail_eq_none (s : State) (m : Member) (x : Src) :
    wbaseFail s m x = none ↔ (lo32 x.a).toNat % 32 = 0 ∧ (lo32 x.a).toNat < x.w.nv - 4 * x.w.nt := by
  unfold wbaseFail topReg
  dsimp only
  split
  · next h => simp only [reduceCtorEq, false_iff]; omega
  · next h => simp only [true_iff]; omega

/-- The check of `WBASE`: made for the lowest member of each warp that performs it and is no helper. -/
def wbaseCheck (p : BitVec 3) (s : State) (m : Member) (x : Src) : Option Fail :=
  match curGroup? s with
  | none => none
  | some g => if leadOf s (active s g p) m.warp = some m then wbaseFail s m x else none

/-- The window bases written. -/
def wbaseWrite (s : State) (l : List (Member × Src)) : State :=
  (warpsIn (l.map (·.1))).foldl (fun s' w =>
    match l.find? fun e => e.1.warp == w && !(thrOf s e.1).helper with
    | some e => updWarp s' w fun x => { x with wbase := (lo32 e.2.a).toNat }
    | none => s') s

theorem exec_wbase (p : BitVec 3) (a : BitVec 7) (s : State) :
    exec (.wbase p a) s = groupOp (.wbase p a) .own noWait (wbaseCheck p) (fun s _ l => (wbaseWrite s l, [])) s := rfl

theorem wbaseCheck_eq (p : BitVec 3) (a : BitVec 7) (s : State) (g : Group) (hg : curGroup? s = some g) (m : Member) (x : Src) :
    wbaseCheck p s m x = if leadOf s (actors s g (.wbase p a)) m.warp = some m then wbaseFail s m x else none := by
  rw [wbaseCheck, hg]
  rfl

/-- The window base that the lowest actor of a warp that is no helper gives it. -/
def rebase (s : State) (g : Group) (i : Instr) (w : Nat) (x : Warp) : Warp :=
  match leadOf s (actors s g i) w with
  | some m => { x with wbase := (lo32 (sources s g i m).a).toNat }
  | none => x

/-- The state after the window base of each represented warp is written. -/
def rebased (s : State) (g : Group) (i : Instr) : State :=
  (warpsIn (actors s g i)).foldl (fun v w => updWarp v w (rebase s g i w)) (noted s g i)

theorem rebase_keeps {α : Type} (π : Warp → α) (hπ : ∀ x b, π { x with wbase := b } = π x) (s : State) (g : Group) (i : Instr) (w : Nat)
    (x : Warp) : π (rebase s g i w x) = π x := by
  unfold rebase
  split
  · exact hπ x _
  · rfl

theorem updWarp_id (s : State) (w : Nat) (f : Warp → Warp) (h : ∀ x, f x = x) : updWarp s w f = s := by
  rw [updWarp, tblUpd_id _ _ _ h]

theorem wbaseWrite_noted (s : State) (g : Group) (i : Instr) : wbaseWrite (noted s g i) (Claims.acts s g i) = rebased s g i := by
  unfold wbaseWrite rebased
  rw [map_fst_acts]
  congr 1
  funext v w
  rw [Claims.acts, find?_lead_map, leadOf_noted]
  unfold rebase
  cases leadOf s (actors s g i) w with
  | none => exact (updWarp_id v w _ fun _ => rfl).symm
  | some m => rfl

theorem wbase_rebased (s : State) (g : Group) (i : Instr) (w : Nat) (hw : warpIn s w) :
    (warpOf (rebased s g i) w).wbase =
      match leadOf s (actors s g i) w with
      | some m => (lo32 (sources s g i m).a).toNat
      | none => (warpOf s w).wbase := by
  have hbase : (warpOf (noted s g i) w).wbase = (warpOf s w).wbase :=
    by
    have hframe := congrArg Warp.wbase ((sameFrame_noted s g i).warp w)
    rw [warpOf_congr (warps_constTraces s (shapeOf i) (actors s g i)) w] at hframe
    exact hframe
  have hin : warpIn (noted s g i) w := ((sameFrame_noted s g i).warpIn w).2 (by rwa [warpIn, warps_constTraces])
  rw [rebased, warpOf_foldl_updWarp _ _ (nodup_warpsIn _) _ _ hin]
  cases hl : leadOf s (actors s g i) w with
  | none =>
    split
    · rw [rebase, hl]; exact hbase
    · exact hbase
  | some m =>
    obtain ⟨hm, hmw, -⟩ := leadOf_mem s _ w m hl
    rw [if_pos ((mem_warpsIn w _).2 ⟨m, hm, hmw⟩), rebase, hl]

theorem sameRegisters_rebased (s : State) (g : Group) (i : Instr) : SameRegisters s (rebased s g i) :=
  sameRegisters_trans (sameRegisters_noted s g i) (sameRegisters_foldl _ _ _ fun v w =>
    sameRegisters_updWarp v w _ (rebase_keeps Warp.vr (fun _ _ => rfl) s g i w) (rebase_keeps Warp.sr (fun _ _ => rfl) s g i w)
      (rebase_keeps Warp.lanes (fun _ _ => rfl) s g i w))

theorem auditFrame_rebased (s : State) (g : Group) (i : Instr) : AuditFrame s (rebased s g i) :=
  (auditFrame_noted s g i).trans (.foldl _ _ _ fun _ _ => .of_same rfl rfl rfl rfl rfl)

/-- An instruction of its own state alone, some of whose actors fail a check, traps before its effect (R338). -/
theorem groupOp_fails (i : Instr) (fail : State → Member → Src → Option Fail)
    (run : State → Group → List (Member × Src) → State × List Trap) (s : State) (g : Group) (fs : List (Member × Fail))
    (hg : curGroup? s = some g) (hfs : failsOf s (shapeOf i) (Claims.acts s g i) (fail s) = fs) (hne : fs ≠ []) :
    groupOp i .own noWait fail run s = .next (trapBefore s g (actors s g i) fs) := by
  unfold groupOp groupOpE
  rw [hg]
  dsimp only
  rw [splitWaits_own]
  dsimp only
  rw [show failsOf s (shapeOf i) ((actors s g i).map fun m => (m, sources s g i m)) (fail s) = fs from hfs]
  cases fs with
  | nil => exact absurd rfl hne
  | cons f t => rfl

theorem groupTraps_one (s : State) (m : Member) (f : Fail) (hh : (thrOf s m).helper = false) (hf : f.cause ≠ .pageFault) :
    groupTraps s [m] [(m, f)] =
      [{ warp := m.warp, cause := f.cause, lane := m.lane, addr := f.addr, info := f.info, info2 := f.info2,
         write := decide (f.info = 256) }] := by
  have hw : warpsIn [m] = [m.warp] := rfl
  simp [groupTraps, trapsOf, hw, hf, nonHelpers, hh]

theorem leadOf_one (s : State) (m : Member) (hh : (thrOf s m).helper = false) : leadOf s [m] m.warp = some m := by
  simp [leadOf, nonHelpers, hh]

/-- R99: the values that are multiples of 32 below the tiles become the window bases, and no other does. -/
theorem windowBase : Claims.WindowBase := by
  refine ⟨fun p a s g hr hf => ?_, fun p a s g m hr hm hh hbad => ?_⟩
  · refine ⟨rebased s g (.wbase p a), ?_, wbase_rebased s g _, sameRegisters_rebased s g _, (auditFrame_rebased s g _).memoryKept⟩
    rw [exec_wbase, ← wbaseWrite_noted]
    refine groupOp_plain _ _ _ _ _ s g hr.cur hr.plain hr.ops (fun _ _ => rfl) (fun n hn hnh => ?_) rfl
    rw [wbaseCheck_eq p a s g hr.cur]
    split
    · next hl => exact (wbaseFail_eq_none ..).2 (hf n hn hnh hl)
    · rfl
  · set f := wbaseFault (sources s g (.wbase p a) m) with hf
    have hfail : wbaseFail s m (sources s g (.wbase p a) m) = some f := by
      refine if_pos ?_
      have : topReg (sources s g (.wbase p a) m).w = (warpOf s m.warp).nv - 4 * (warpOf s m.warp).nt := rfl
      omega
    have hcheck : wbaseCheck p s m (sources s g (.wbase p a) m) = some f := by
      rw [wbaseCheck_eq p a s g hr.cur, hm, if_pos (leadOf_one s m hh), hfail]
    have hacts : Claims.acts s g (.wbase p a) = [(m, sources s g (.wbase p a) m)] := by rw [Claims.acts, hm]; rfl
    have hop := hr.ops m (by rw [hm]; exact List.mem_singleton_self m) hh
    have hfs : failsOf s (shapeOf (.wbase p a)) (Claims.acts s g (.wbase p a)) (wbaseCheck p s) = [(m, f)] := by
      simp [hacts, failsOf, hh, hop, hcheck]
    refine ⟨[(m, f)], ?_, groupTraps_one s m f hh (by rw [hf, wbaseFault]; exact Cause.noConfusion)⟩
    rw [exec_wbase, groupOp_fails _ _ _ s g _ hr.cur hfs (List.cons_ne_nil _ _), hm]

end Sys2Proof.Machine

section
open Sys2Proof Sys2Proof.Machine

/-- Settles O35: the ends and prefixes of clauses, and the window base with its trap. -/
theorem clauseAndWindow : Obligations.ClauseAndWindow := ⟨⟨exit_ends, conv_keeps, prefix_hands_on⟩, windowBase⟩

end

/-! ## Instructions on integers and predicates (O16) -/

namespace Sys2Proof.Machine

/-! ### Sums and differences with carry (R85) -/

theorem add_carry {w : Nat} (a b : BitVec w) (n : Nat) : a + b + BitVec.ofNat w n = BitVec.ofNat w (a.toNat + b.toNat + n) := by
  simp [BitVec.ofNat_add]

theorem sub_borrow {w : Nat} (a b : BitVec w) (n : Nat) :
    a - b - BitVec.ofNat w n = BitVec.ofInt w ((a.toNat : Int) - b.toNat - n) := by
  simp [Int.sub_eq_add_neg, BitVec.ofInt_add, BitVec.ofInt_neg, BitVec.ofInt_natCast, BitVec.sub_eq_add_neg]

theorem borrowOut_eq {w : Nat} (a b : BitVec w) (c : Bool) :
    borrowOut a b c = decide ((a.toNat : Int) - b.toNat - c.toNat < 0) := by
  rw [borrowOut, decide_eq_decide]
  omega

/-! ### Products (R84) -/

theorem mul_eq_ofNat (a b : Word) : a * b = BitVec.ofNat 32 (a.toNat * b.toNat) := by simp [BitVec.ofNat_mul]

theorem mul_add_eq_ofNat (a b d : Word) : a * b + d = BitVec.ofNat 32 (a.toNat * b.toNat + d.toNat) := by
  simp [BitVec.ofNat_mul, BitVec.ofNat_add]

/-! ### Shifts (R84, R87) -/

theorem shlW_eq {w : Nat} (a : BitVec w) (n : Word) : shlW a n = BitVec.ofNat w (a.toNat * 2 ^ n.toNat) := by
  unfold shlW
  split
  · next h =>
    apply BitVec.eq_of_toNat_eq
    obtain ⟨k, hk⟩ := Nat.exists_eq_add_of_le h
    rw [hk, Nat.pow_add, BitVec.toNat_ofNat, Nat.mul_left_comm, Nat.mul_mod_right]
    simp
  · apply BitVec.eq_of_toNat_eq
    rw [BitVec.toNat_shiftLeft, BitVec.toNat_ofNat, Nat.shiftLeft_eq]

theorem shrW_eq {w : Nat} (a : BitVec w) (n : Word) : shrW a n = BitVec.ofNat w (a.toNat / 2 ^ n.toNat) := by
  unfold shrW
  split
  · next h =>
    rw [Nat.div_eq_of_lt (a.isLt.trans_le (Nat.pow_le_pow_right (by decide) h))]
    rfl
  · apply BitVec.eq_of_toNat_eq
    rw [BitVec.toNat_ushiftRight, Nat.shiftRight_eq_div_pow, BitVec.toNat_ofNat, Nat.mod_eq_of_lt]
    exact (Nat.div_le_self _ _).trans_lt a.isLt

/-- A quotient by more than the magnitude is 0, or −1 below 0. -/
theorem ediv_of_natAbs_lt (t b : Int) (hlo : -b ≤ t) (hhi : t < b) : t / b = if t < 0 then -1 else 0 := by
  have hb : 0 < b := by omega
  split
  · exact ((Int.ediv_emod_unique (r := t + b) hb).2 ⟨by omega, by omega, by omega⟩).1
  · exact Int.ediv_eq_zero_of_lt (by omega) hhi

theorem sarW_eq {w : Nat} (a : BitVec w) (n : Word) : sarW a n = BitVec.ofInt w (a.toInt / 2 ^ n.toNat) := by
  unfold sarW
  split
  · next h =>
    have hpow : (2 : Int) ^ (w - 1) ≤ 2 ^ n.toNat := by exact_mod_cast Nat.pow_le_pow_right (by decide) (by omega)
    have hlo := BitVec.le_toInt a
    have hhi := BitVec.toInt_lt (x := a)
    rw [ediv_of_natAbs_lt _ _ (by omega) (by omega), BitVec.msb_eq_toInt]
    by_cases ht : a.toInt < 0 <;> simp [ht, BitVec.ofInt_neg, BitVec.neg_one_eq_allOnes]
  · rw [BitVec.sshiftRight, Int.shiftRight_eq_div_pow]
    norm_cast

/-! ### The lesser and the greater (R84) -/

theorem minS_eq (a b : Word) : minS a b = if a.toInt ≤ b.toInt then a else b := by
  unfold minS
  rw [BitVec.slt_eq_decide]
  by_cases h : b.toInt < a.toInt
  · simp [h, Int.not_le.2 h]
  · simp [h, Int.not_lt.1 h]

theorem minU_eq (a b : Word) : minU a b = if a.toNat ≤ b.toNat then a else b := by
  unfold minU BitVec.ult
  by_cases h : b.toNat < a.toNat
  · simp [h, Nat.not_le.2 h]
  · simp [h, Nat.not_lt.1 h]

theorem maxS_eq (a b : Word) : maxS a b = if b.toInt ≤ a.toInt then a else b := by
  unfold maxS
  rw [BitVec.slt_eq_decide]
  by_cases h : a.toInt < b.toInt
  · simp [h, Int.not_le.2 h]
  · simp [h, Int.not_lt.1 h]

theorem maxU_eq (a b : Word) : maxU a b = if b.toNat ≤ a.toNat then a else b := by
  unfold maxU BitVec.ult
  by_cases h : a.toNat < b.toNat
  · simp [h, Nat.not_le.2 h]
  · simp [h, Nat.not_lt.1 h]

theorem zero_sub_eq_ofInt (a : Word) : 0 - a = BitVec.ofInt 32 (-a.toInt) := by
  rw [BitVec.ofInt_neg, BitVec.ofInt_toInt]
  exact BitVec.zero_sub a

theorem absW_eq (a : Word) : absW a = BitVec.ofInt 32 a.toInt.natAbs := by
  unfold absW
  rw [BitVec.msb_eq_toInt]
  by_cases h : a.toInt < 0
  · rw [decide_eq_true h, if_pos rfl, zero_sub_eq_ofInt, Int.ofNat_natAbs_of_nonpos h.le]
  · rw [decide_eq_false h, if_neg Bool.false_ne_true, Int.natAbs_of_nonneg (Int.not_lt.1 h), BitVec.ofInt_toInt]

/-! ### Counts of bits, and their reverse (R84) -/

theorem popN_eq (a : Word) (n : Nat) : popN a n = (List.range n).countP fun k => a.getLsbD k := by
  induction n with
  | zero => rfl
  | succ n ih =>
    rw [popN, ih, List.range_succ, List.countP_append]
    cases h : a.getLsbD n <;> simp [h]

/-- The zeros before the first one of n bits: the least doubling that carries into bit n. -/
theorem clzN_eq (a : Word) (n : Nat) (ha : a.toNat < 2 ^ n) :
    clzN a n = ((List.range (n + 1)).find? fun k => decide (2 ^ n ≤ 2 * (a.toNat * 2 ^ k))).getD n := by
  induction n with
  | zero =>
    have h0 : a.toNat = 0 := by simpa using ha
    simp [clzN, h0]
  | succ n ih =>
    have hpow : 2 ^ (n + 1) = 2 * 2 ^ n := Nat.pow_succ'
    rw [List.range_succ_eq_map, List.find?_cons]
    by_cases hlt : a.toNat < 2 ^ n
    · have hbit : a.getLsbD n = false := Nat.testBit_lt_two_pow hlt
      have hfirst : decide (2 ^ (n + 1) ≤ 2 * (a.toNat * 2 ^ 0)) = false := decide_eq_false (by omega)
      have hrest : ((fun k => decide (2 ^ (n + 1) ≤ 2 * (a.toNat * 2 ^ k))) ∘ Nat.succ) =
          fun k => decide (2 ^ n ≤ 2 * (a.toNat * 2 ^ k)) := by
        funext k
        simp only [Function.comp, decide_eq_decide, Nat.pow_succ']
        rw [Nat.mul_left_comm a.toNat]
        omega
      rw [hfirst, List.find?_map, hrest, clzN, hbit, if_neg Bool.false_ne_true, ih hlt]
      cases (List.range (n + 1)).find? _ <;> rfl
    · have hbit : a.getLsbD n = true := by
        rw [BitVec.getLsbD, Nat.testBit_eq_decide_div_mod_eq, decide_eq_true_eq,
          Nat.div_eq_of_lt_le (by omega) (by omega : a.toNat < (1 + 1) * 2 ^ n)]
      have hfirst : decide (2 ^ (n + 1) ≤ 2 * (a.toNat * 2 ^ 0)) = true := decide_eq_true (by omega)
      rw [hfirst, clzN, hbit]
      rfl

theorem clzW_eq (a : Word) :
    clzW a = BitVec.ofNat 32 (((List.range 33).find? fun n => decide (a.toNat * 2 ^ n ≥ 2 ^ 31)).getD 32) := by
  have hp : (fun n => decide (a.toNat * 2 ^ n ≥ 2 ^ 31)) = fun n => decide (2 ^ 32 ≤ 2 * (a.toNat * 2 ^ n)) := by
    funext n
    rw [decide_eq_decide]
    omega
  rw [clzW, clzN_eq a 32 a.isLt, hp]

/-- The first n bits, the lowest one first in the number. -/
theorem testBit_reversed (a : Word) (n j : Nat) :
    ((List.range n).foldl (fun acc k => 2 * acc + (a.getLsbD k).toNat) 0).testBit j = (decide (j < n) && a.getLsbD (n - 1 - j)) := by
  induction n generalizing j with
  | zero => simp
  | succ n ih =>
    rw [List.range_succ, List.foldl_append, List.foldl_cons, List.foldl_nil]
    cases j with
    | zero => cases h : a.getLsbD n <;> simp [Nat.testBit_zero, h]
    | succ j =>
      have hhalf : (2 * (List.range n).foldl (fun acc k => 2 * acc + (a.getLsbD k).toNat) 0 + (a.getLsbD n).toNat) / 2 =
          (List.range n).foldl (fun acc k => 2 * acc + (a.getLsbD k).toNat) 0 := by
        cases a.getLsbD n <;> simp [Nat.mul_add_div]
      rw [Nat.testBit_add_one, hhalf, ih, show n + 1 - 1 - (j + 1) = n - 1 - j by omega]
      simp

theorem brevW_eq (a : Word) : brevW a = a.reverse := by
  apply BitVec.eq_of_getLsbD_eq
  intro k _
  rw [brevW, BitVec.getLsbD_ofNat, testBit_reversed, BitVec.getLsbD_reverse, BitVec.getMsbD_eq_getLsbD]
  simp

/-! ### Bit fields (R86) -/

theorem fieldPos_le_fieldTop (b : Word) : fieldPos b ≤ fieldTop b := by
  unfold fieldTop fieldPos
  omega

theorem fieldTop_le (b : Word) : fieldTop b ≤ 32 := Nat.min_le_right _ _

theorem field_eq (a b : Word) :
    a.toNat / 2 ^ fieldPos b % 2 ^ (fieldTop b - fieldPos b) = a.toNat % 2 ^ fieldTop b / 2 ^ fieldPos b := by
  rw [← Nat.mod_mul_right_div_self, ← Nat.pow_add, Nat.add_sub_cancel' (fieldPos_le_fieldTop b)]

theorem bfxU_eq (a b : Word) : bfxU a b = BitVec.ofNat 32 (a.toNat % 2 ^ fieldTop b / 2 ^ fieldPos b) := by rw [bfxU, field_eq]

theorem bfxS_eq (a b : Word) :
    let n := fieldTop b - fieldPos b
    let v := a.toNat % 2 ^ fieldTop b / 2 ^ fieldPos b
    bfxS a b = BitVec.ofInt 32 (if 0 < n ∧ 2 ^ (n - 1) ≤ v then (v : Int) - 2 ^ n else v) := by
  intro n v
  have hlt : v < 2 ^ n := by
    show a.toNat % 2 ^ fieldTop b / 2 ^ fieldPos b < _
    rw [← field_eq]
    exact Nat.mod_lt _ (Nat.two_pow_pos _)
  have hle : 2 ^ n ≤ 2 ^ 32 := Nat.pow_le_pow_right (by decide) ((Nat.sub_le _ _).trans (fieldTop_le b))
  have hv : (bfxU a b).toNat = v := by
    rw [bfxU_eq, BitVec.toNat_ofNat, Nat.mod_eq_of_lt (by omega)]
  unfold bfxS
  simp only [hv]
  by_cases hn : n = 0
  · have hv0 : v = 0 := by simpa [hn] using hlt
    rw [if_pos hn, if_neg (by omega), hv0]
    rfl
  · have hpow : 2 ^ n = 2 * 2 ^ (n - 1) := by rw [← Nat.pow_succ', Nat.succ_eq_add_one, Nat.sub_add_cancel (by omega)]
    rw [if_neg hn]
    by_cases htop : 2 ^ (n - 1) ≤ v
    · have hdiv : v / 2 ^ (n - 1) % 2 = 1 := by
        rw [Nat.div_eq_of_lt_le (k := 1) (by omega) (by omega)]
      rw [if_pos hdiv, if_pos ⟨by omega, htop⟩]
    · have hdiv : v / 2 ^ (n - 1) % 2 ≠ 1 := by
        rw [Nat.div_eq_of_lt (by omega)]
        decide
      rw [if_neg hdiv, if_neg (by omega), BitVec.ofInt_natCast]

theorem bfiW_eq (d a b : Word) :
    bfiW d a b = BitVec.ofNat 32 (d.toNat / 2 ^ fieldTop b * 2 ^ fieldTop b +
      a.toNat % 2 ^ (fieldTop b - fieldPos b) * 2 ^ fieldPos b + d.toNat % 2 ^ fieldPos b) := by
  have hle := fieldPos_le_fieldTop b
  have hmid : 2 ^ fieldPos b * (a.toNat % 2 ^ (fieldTop b - fieldPos b)) + d.toNat % 2 ^ fieldPos b < 2 ^ fieldTop b := by
    have h1 : a.toNat % 2 ^ (fieldTop b - fieldPos b) < 2 ^ (fieldTop b - fieldPos b) := Nat.mod_lt _ (Nat.two_pow_pos _)
    have h2 : d.toNat % 2 ^ fieldPos b < 2 ^ fieldPos b := Nat.mod_lt _ (Nat.two_pow_pos _)
    have h3 : 2 ^ fieldTop b = 2 ^ fieldPos b * 2 ^ (fieldTop b - fieldPos b) := by rw [← Nat.pow_add, Nat.add_sub_cancel' hle]
    rw [h3]
    have h4 := Nat.mul_le_mul_left (2 ^ fieldPos b) h1
    rw [Nat.succ_eq_add_one, Nat.mul_add, Nat.mul_one] at h4
    omega
  apply BitVec.eq_of_getLsbD_eq
  intro j hj
  rw [BitVec.getLsbD_ofNat, Nat.add_assoc, Nat.mul_comm _ (2 ^ fieldTop b), Nat.mul_comm _ (2 ^ fieldPos b),
    Nat.testBit_two_pow_mul_add _ hmid, Nat.testBit_two_pow_mul_add _ (Nat.mod_lt _ (Nat.two_pow_pos _))]
  simp only [bfiW, BitVec.getLsbD_or, BitVec.getLsbD_and, BitVec.getLsbD_not, BitVec.getLsbD_ofNat, BitVec.getLsbD_shiftLeft,
    Nat.testBit_mul_two_pow, Nat.testBit_two_pow_sub_one, Nat.testBit_mod_two_pow, Nat.testBit_div_two_pow, hj, decide_true, Bool.true_and]
  have hd : d.toNat.testBit j = d.getLsbD j := rfl
  by_cases hlo : j < fieldPos b
  · have hhi : j < fieldTop b := by omega
    simp [hlo, hhi, hd]
  · by_cases hhi : j < fieldTop b
    · have h1 : j - fieldPos b < fieldTop b - fieldPos b := by omega
      simp [hlo, Nat.not_lt.1 hlo, hhi, h1]
      rfl
    · have h1 : ¬ j - fieldPos b < fieldTop b - fieldPos b := by omega
      simp [hlo, hhi, h1, Nat.sub_add_cancel (Nat.not_lt.1 hhi), hd]

/-! ### Addresses (R92) -/

theorem shiftLeft_eq_ofInt {w : Nat} (v : Int) (k : Nat) : BitVec.ofInt w v <<< k = BitVec.ofInt w (v * 2 ^ k) := by
  rw [BitVec.shiftLeft_eq_mul_twoPow, BitVec.ofInt_mul]
  congr 1
  apply BitVec.eq_of_toNat_eq
  rw [BitVec.toNat_twoPow, show (2 : Int) ^ k = ((2 ^ k : Nat) : Int) by norm_cast, BitVec.ofInt_natCast, BitVec.toNat_ofNat]

theorem leaPair_eq (a : Pair) (b : Word) :
    leaPair a b = BitVec.ofInt 64 (a.toNat + (b.extractLsb' 0 29).toInt * 2 ^ (b.toNat / 2 ^ 29)) := by
  have hk : (b.extractLsb' 29 3).toNat = b.toNat / 2 ^ 29 := by
    rw [BitVec.extractLsb'_toNat, Nat.shiftRight_eq_div_pow]
    omega
  rw [leaPair, hk, BitVec.ofInt_add, BitVec.ofInt_natCast, BitVec.ofNat_toNat, BitVec.setWidth_eq, BitVec.signExtend,
    shiftLeft_eq_ofInt]

/-! ### Conditions and predicates (R89, R90) -/

theorem condHolds_eq (c : Nat) (a b : Int) (hc : c < 6) (eq lt : Bool) (heq : eq = decide (a = b)) (hlt : lt = decide (a < b)) :
    condHolds c eq lt = Claims.orderHolds c a b := by
  subst heq hlt
  have hle : (decide (a < b) || decide (a = b)) = decide (a ≤ b) := by
    rw [← Bool.decide_or, decide_eq_decide]
    omega
  match c, hc with
  | 0, _ => rfl
  | 1, _ => simp [condHolds, Claims.orderHolds]
  | 2, _ => rfl
  | 3, _ => exact hle
  | 4, _ => simp only [condHolds, Claims.orderHolds, hle, ← decide_not, Int.not_le]
  | 5, _ => simp only [condHolds, Claims.orderHolds, ← decide_not, Int.not_lt]

theorem cond_toNat (d : BitVec 7) : (d.extractLsb' 3 3).toNat = d.toNat / 8 % 8 := by simp [BitVec.extractLsb'_toNat, Nat.shiftRight_eq_div_pow]

theorem predSel_eq (t : Thread) (f : BitVec 7) : predSel t f = Claims.predNamed t f := by
  have hbit : f.getLsbD 3 = decide (f.toNat / 8 % 2 = 1) := Nat.testBit_eq_decide_div_mod_eq
  rw [predSel, Claims.predNamed, extract3_toNat, hbit, Bool.bne_eq_xor]

theorem predRes_eq (d : BitVec 7) (v : Bool) : predRes d v = Claims.toPred d v := by rw [predRes, Claims.toPred, extract3_toNat]

theorem cmpRes_eq (d : BitVec 7) (hd : d.toNat / 8 % 8 < 6) (a b : Int) (eq lt : Bool) (heq : eq = decide (a = b))
    (hlt : lt = decide (a < b)) : cmpRes d eq lt = Claims.toPred d (Claims.orderHolds (d.toNat / 8 % 8) a b) := by
  rw [cmpRes, Claims.toPred, extract3_toNat, cond_toNat, condHolds_eq _ a b hd eq lt heq hlt]

theorem beq_eq_decide_toInt {w : Nat} (a b : BitVec w) : (a == b) = decide (a.toInt = b.toInt) := by
  rw [Bool.eq_iff_iff]
  simp [BitVec.toInt_inj]

theorem beq_eq_decide_toNat {w : Nat} (a b : BitVec w) : (a == b) = decide ((a.toNat : Int) = b.toNat) := by
  rw [Bool.eq_iff_iff]
  simp [BitVec.toNat_inj]

theorem ult_eq_decide_toNat {w : Nat} (a b : BitVec w) : a.ult b = decide ((a.toNat : Int) < b.toNat) := by
  rw [BitVec.ult, decide_eq_decide]
  omega

/-! ### The instructions -/

/-- A register instruction may be given by equal results. -/
theorem exec_eq_regOp {i : Instr} {f : Src → Res} {s : State} (r : Src → Res) (hr : exec i s = regOp i r s) (hx : ∀ x, r x = f x) :
    exec i s = regOp i f s := by rw [hr, funext hx]

/-- The integer instructions are register instructions, each with the result that the spec gives. -/
theorem exec_integer {i : Instr} {f : Src → Res} (h : Claims.IntResult i f) (s : State) : exec i s = regOp i f s := by
  cases h with
  | addI32 | subI32 | addI32Immediate | addI64 | subI64 | mulhiUs | mulhiSg | andB | orB | xorB | notB | rot | mov | movi | movI64 => rfl
  | addc => exact exec_eq_regOp addcRes32 rfl fun x => by rw [addcRes32, add_carry]; rfl
  | subb => exact exec_eq_regOp subbRes32 rfl fun x => by rw [subbRes32, sub_borrow, borrowOut_eq]; rfl
  | addcI64 => exact exec_eq_regOp addcRes64 rfl fun x => by rw [addcRes64, add_carry]; rfl
  | subbI64 => exact exec_eq_regOp subbRes64 rfl fun x => by rw [subbRes64, sub_borrow, borrowOut_eq]; rfl
  | mullo => exact exec_eq_regOp (bin32 (· * ·)) rfl fun x => congrArg Claims.d32 (mul_eq_ofNat _ _)
  | mad => exact exec_eq_regOp (fun x => res32 (lo32 x.a * lo32 x.b + lo32 x.d)) rfl fun x => congrArg Claims.d32 (mul_add_eq_ofNat _ _ _)
  | shl => exact exec_eq_regOp (bin32 shlW) rfl fun x => congrArg Claims.d32 (shlW_eq _ _)
  | shr => exact exec_eq_regOp (bin32 shrW) rfl fun x => congrArg Claims.d32 (shrW_eq _ _)
  | sar => exact exec_eq_regOp (bin32 sarW) rfl fun x => congrArg Claims.d32 (sarW_eq _ _)
  | minSg => exact exec_eq_regOp (bin32 minS) rfl fun x => congrArg Claims.d32 (minS_eq _ _)
  | minUs => exact exec_eq_regOp (bin32 minU) rfl fun x => congrArg Claims.d32 (minU_eq _ _)
  | maxSg => exact exec_eq_regOp (bin32 maxS) rfl fun x => congrArg Claims.d32 (maxS_eq _ _)
  | maxUs => exact exec_eq_regOp (bin32 maxU) rfl fun x => congrArg Claims.d32 (maxU_eq _ _)
  | abs => exact exec_eq_regOp (un32 absW) rfl fun x => congrArg Claims.d32 (absW_eq _)
  | neg => exact exec_eq_regOp (un32 fun a => 0 - a) rfl fun x => congrArg Claims.d32 (zero_sub_eq_ofInt _)
  | clz => exact exec_eq_regOp (un32 clzW) rfl fun x => congrArg Claims.d32 (clzW_eq _)
  | popc => exact exec_eq_regOp (un32 popcW) rfl fun x => congrArg Claims.d32 (by rw [popcW, popN_eq])
  | brev => exact exec_eq_regOp (un32 brevW) rfl fun x => congrArg Claims.d32 (brevW_eq _)
  | bfxUs => exact exec_eq_regOp (bin32 bfxU) rfl fun x => congrArg Claims.d32 (bfxU_eq _ _)
  | bfxSg => exact exec_eq_regOp (bin32 bfxS) rfl fun x => congrArg Claims.d32 (bfxS_eq _ _)
  | bfi => exact exec_eq_regOp (fun x => res32 (bfiW (lo32 x.d) (lo32 x.a) (lo32 x.b))) rfl fun x => congrArg Claims.d32 (bfiW_eq _ _ _)
  | shlI64 => exact exec_eq_regOp (fun x => res64 (shlW (lo64 x.a) (lo32 x.b))) rfl fun x => congrArg Claims.d64 (shlW_eq _ _)
  | shrI64 => exact exec_eq_regOp (fun x => res64 (shrW (lo64 x.a) (lo32 x.b))) rfl fun x => congrArg Claims.d64 (shrW_eq _ _)
  | sarI64 => exact exec_eq_regOp (fun x => res64 (sarW (lo64 x.a) (lo32 x.b))) rfl fun x => congrArg Claims.d64 (sarW_eq _ _)
  | lea => exact exec_eq_regOp (fun x => res64 (leaPair (lo64 x.a) (lo32 x.b))) rfl fun x => congrArg Claims.d64 (leaPair_eq _ _)

/-- Compares, predicate logic and `SEL` are register instructions, each with the result that the spec gives. -/
theorem exec_predicate {i : Instr} {f : Src → Res} (h : Claims.PredResult i f) (s : State) : exec i s = regOp i f s := by
  cases h with
  | sel => rfl
  | cmpSg p d a b hd =>
    exact exec_eq_regOp (fun x => cmpRes d (lo32 x.a == lo32 x.b) ((lo32 x.a).slt (lo32 x.b))) rfl fun x => cmpRes_eq d hd _ _ _ _ (beq_eq_decide_toInt _ _) BitVec.slt_eq_decide
  | cmpUs p d a b hd =>
    exact exec_eq_regOp (fun x => cmpRes d (lo32 x.a == lo32 x.b) ((lo32 x.a).ult (lo32 x.b))) rfl fun x => cmpRes_eq d hd _ _ _ _ (beq_eq_decide_toNat _ _) (ult_eq_decide_toNat _ _)
  | cmpI64 p d a b hd =>
    refine exec_eq_regOp (fun x => cmpRes d (lo64 x.a == lo64 x.b)
      (if d.getLsbD 6 then (lo64 x.a).ult (lo64 x.b) else (lo64 x.a).slt (lo64 x.b))) rfl fun x => ?_
    have hbit : d.getLsbD 6 = decide (¬ d.toNat < 64) := by
      rw [BitVec.getLsbD, Nat.testBit_eq_decide_div_mod_eq, decide_eq_decide]
      omega
    by_cases h64 : d.toNat < 64
    · simp only [hbit, h64, not_true, decide_false, if_false, if_true, Bool.false_eq_true]
      exact cmpRes_eq d hd _ _ _ _ (beq_eq_decide_toInt _ _) BitVec.slt_eq_decide
    · simp only [hbit, h64, not_false_iff, decide_true, if_false, if_true]
      exact cmpRes_eq d hd _ _ _ _ (beq_eq_decide_toNat _ _) (ult_eq_decide_toNat _ _)
  | pand p d a b => exact exec_eq_regOp (fun x => predRes d (predSel x.t a && predSel x.t b)) rfl fun x => by rw [predRes_eq, predSel_eq, predSel_eq]
  | por p d a b => exact exec_eq_regOp (fun x => predRes d (predSel x.t a || predSel x.t b)) rfl fun x => by rw [predRes_eq, predSel_eq, predSel_eq]
  | pxor p d a b => exact exec_eq_regOp (fun x => predRes d ((predSel x.t a).xor (predSel x.t b))) rfl fun x => by rw [predRes_eq, predSel_eq, predSel_eq, Bool.bne_eq_xor]
  | pnot p d a => exact exec_eq_regOp (fun x => predRes d (!predSel x.t a)) rfl fun x => by rw [predRes_eq, predSel_eq]

/-- Integer instructions, and those on predicates, raise no `FPST` bit. -/
theorem fp_of_integer {i : Instr} {f : Src → Res} (h : Claims.IntResult i f) (x : Src) : (f x).fp = 0 := by cases h <;> rfl
theorem fp_of_predicate {i : Instr} {f : Src → Res} (h : Claims.PredResult i f) (x : Src) : (f x).fp = 0 := by cases h <;> rfl

/-- A register instruction whose results raise no `FPST` bit completes. -/
theorem regCompletes_of_no_flag (i : Instr) (f : Src → Res) (hx : ∀ s, exec i s = regOp i f s) (hfp : ∀ x, (f x).fp = 0) (s : State)
    (g : Group) (hg : curGroup? s = some g) (hop : OperandsPass s g i) : RegCompletes i s g fun m => f (sources s g i m) := by
  rw [RegCompletes, hx s]
  refine regOp_spec i f s g hg hop fun m _ _ => ?_
  rw [hfp]
  simp [trapFlags]

end Sys2Proof.Machine

section
open Sys2Proof Sys2Proof.Machine

/-- R84 to R88, R92: each integer instruction is one of the register instructions, with the result of its table. -/
theorem integerResults : Claims.IntegerResults := fun i f h s g hg hop =>
  regCompletes_of_no_flag i f (exec_integer h) (fp_of_integer h) s g hg hop

/-- R89 to R91: so is each compare, predicate operation and `SEL`. -/
theorem predicateResults : Claims.PredicateResults := fun i f h s g hg hop =>
  regCompletes_of_no_flag i f (exec_predicate h) (fp_of_predicate h) s g hg hop

/-- Settles O16: the instructions whose results are functions of their sources, on integers and on predicates. -/
theorem registerInstructions : Obligations.RegisterInstructions := ⟨integerResults, predicateResults⟩

end

/-! ## What the traces of accesses leave, and the register instructions with checks of their own (O20) -/

namespace Sys2Proof.Machine

/-! ### States that differ in traces alone (R102, R206, R215, R318, R323) -/

/-- A context, a part, a logical core and a warp without what is noted as instructions read: the audit sequence and the Surveyor's bits,
cached translations and clearances, constant words, and the marks of comparisons. -/
def bareCtx (c : Ctx) : Ctx := { c with ckpt := none, auditSeq := 0 }
def barePart (p : Part) : Part := { p with tlb := [], tlbAway := [], clr := [], clrAway := [] }
def bareLcore (c : LCore) : LCore := { c with cons := [] }
def bareWarp (w : Warp) : Warp := { w with cmpOk := false, agreed := [] }

/-- A state without that, and without memory, poison, the keys of lines, copies and the cores' own tables. -/
def traceless (s : State) : State :=
  { s with
    mem := [], poison := [], lineKey := [], dcopies := [], pcores := []
    ctxs := tblMap s.ctxs fun _ c => bareCtx c
    parts := tblMap s.parts fun _ p => barePart p
    lcores := tblMap s.lcores fun _ c => bareLcore c
    warps := tblMap s.warps fun _ w => bareWarp w }

/-- Two states differ in that alone. -/
structure TraceFrame (s u : State) : Prop where
  same : traceless u = traceless s

theorem TraceFrame.refl (s : State) : TraceFrame s s := ⟨rfl⟩
theorem TraceFrame.trans {s t u : State} (h : TraceFrame s t) (k : TraceFrame t u) : TraceFrame s u := ⟨k.same.trans h.same⟩
theorem TraceFrame.symm {s u : State} (h : TraceFrame s u) : TraceFrame u s := ⟨h.same.symm⟩
theorem TraceFrame.foldl {β : Type} (l : List β) (f : State → β → State) (s : State) (h : ∀ s x, TraceFrame s (f s x)) :
    TraceFrame s (l.foldl f s) := by
  induction l generalizing s with
  | nil => exact .refl s
  | cons x t ih => exact (h s x).trans (ih _)

/-- What reads nothing of a trace is the same in both states. -/
theorem TraceFrame.read {s u : State} (h : TraceFrame s u) {β : Type} (f : State → β) (hf : ∀ v, f (traceless v) = f v) : f u = f s := by
  rw [← hf u, h.same, hf]

theorem tblGet_tblMap {α : Type} [Inhabited α] (t : Tbl α) (f : α → α) (k : Nat) (h : f default = default) :
    tblGet (tblMap t fun _ a => f a) k = f (tblGet t k) := by
  rw [tblGet, tblGet, tblGet?_tblMap]
  cases tblGet? t k with
  | none => exact h.symm
  | some a => rfl

theorem lcoreOf_traceless (s : State) (k : Nat) : lcoreOf (traceless s) k = bareLcore (lcoreOf s k) := tblGet_tblMap s.lcores bareLcore k rfl
theorem partOf_traceless (s : State) (k : Nat) : partOf (traceless s) k = barePart (partOf s k) := tblGet_tblMap s.parts barePart k rfl
theorem warpOf_traceless (s : State) (w : Nat) : warpOf (traceless s) w = bareWarp (warpOf s w) := tblGet_tblMap s.warps bareWarp w rfl

theorem wgOfWarp_traceless (s : State) (w : Nat) : wgOfWarp (traceless s) w = wgOfWarp s w := by
  rw [wgOfWarp, wgOfWarp, warpOf_traceless]
  rfl
theorem thrOf_traceless (s : State) (m : Member) : thrOf (traceless s) m = thrOf s m := by
  rw [thrOf, thrOf, warpOf_traceless]
  rfl
theorem coreOfWarp_traceless (s : State) (w : Nat) : coreOfWarp (traceless s) w = coreOfWarp s w := by
  simp only [coreOfWarp, coreOfWg, coreOfL, warpOf_traceless, lcoreOf_traceless]
  rfl

/-- What an access finds of its thread, its warp, its place and its record is the same before and after traces. -/
theorem TraceFrame.wgOfWarp {s u : State} (h : TraceFrame s u) (w : Nat) : wgOfWarp u w = wgOfWarp s w :=
  h.read (Machine.wgOfWarp · w) fun v => wgOfWarp_traceless v w
theorem TraceFrame.thrOf {s u : State} (h : TraceFrame s u) (m : Member) : thrOf u m = thrOf s m :=
  h.read (Machine.thrOf · m) fun v => thrOf_traceless v m
theorem TraceFrame.coreOfWarp {s u : State} (h : TraceFrame s u) (w : Nat) : coreOfWarp u w = coreOfWarp s w :=
  h.read (Machine.coreOfWarp · w) fun v => coreOfWarp_traceless v w
theorem TraceFrame.partOfWarp {s u : State} (h : TraceFrame s u) (w : Nat) : partOfWarp u w = partOfWarp s w := by
  rw [Machine.partOfWarp, Machine.partOfWarp, h.wgOfWarp]
theorem TraceFrame.isRedun {s u : State} (h : TraceFrame s u) (w : Nat) : isRedun u w = isRedun s w := by
  rw [Machine.isRedun, Machine.isRedun, khdrOfWarp, khdrOfWarp, h.wgOfWarp]
theorem TraceFrame.recOf? {s u : State} (h : TraceFrame s u) (w n : Nat) : recOf? u w n = recOf? s w n := by
  refine h.read (Machine.recOf? · w n) fun v => ?_
  simp only [Machine.recOf?, Machine.partOfWarp, wgOfWarp_traceless, partOf_traceless]
  rfl
theorem TraceFrame.detShared {s u : State} (h : TraceFrame s u) (w va : Nat) : detShared u w va = detShared s w va := by
  refine h.read (Machine.detShared · w va) fun v => ?_
  simp only [Machine.detShared, wgOfWarp_traceless]
  rfl
theorem TraceFrame.sameRegisters {s u : State} (h : TraceFrame s u) : SameRegisters s u := by
  have hv : ∀ v w l r, vreg (traceless v) w l r = vreg v w l r := fun v w l r => by rw [vreg, vreg, warpOf_traceless]; rfl
  have hu : ∀ v w n, ureg (traceless v) w n = ureg v w n := fun v w n => by rw [ureg, ureg, warpOf_traceless]; rfl
  exact ⟨fun w l r _ => h.read (vreg · w l r) fun v => hv v w l r, fun w n => h.read (ureg · w n) fun v => hu v w n, h.thrOf⟩
theorem TraceFrame.warpIn {s u : State} (h : TraceFrame s u) (w : Nat) : warpIn u w ↔ warpIn s w := by
  have hs : ∀ v : State, (tblGet? (traceless v).warps w).isSome = (tblGet? v.warps w).isSome := fun v => by
    rw [show (traceless v).warps = tblMap v.warps fun _ w => bareWarp w from rfl, tblGet?_tblMap,
      Option.isSome_map]
  rw [Machine.warpIn, h.read (fun v => (tblGet? v.warps w).isSome) hs]

/-! ### The traces -/

theorem traceFrame_updPart (s : State) (k : Nat) (f : Part → Part) (h : ∀ p, barePart (f p) = barePart p) : TraceFrame s (updPart s k f) :=
  ⟨congrArg (fun t => { traceless s with parts := t }) (tblMap_tblUpd s.parts k f barePart h)⟩
theorem traceFrame_updLcore (s : State) (k : Nat) (f : LCore → LCore) (h : ∀ c, bareLcore (f c) = bareLcore c) :
    TraceFrame s (updLcore s k f) :=
  ⟨congrArg (fun t => { traceless s with lcores := t }) (tblMap_tblUpd s.lcores k f bareLcore h)⟩
theorem traceFrame_updCtx (s : State) (k : Nat) (f : Ctx → Ctx) (h : ∀ c, bareCtx (f c) = bareCtx c) : TraceFrame s (updCtx s k f) :=
  ⟨congrArg (fun t => { traceless s with ctxs := t }) (tblMap_tblUpd s.ctxs k f bareCtx h)⟩
theorem traceFrame_updWarp (s : State) (w : Nat) (f : Warp → Warp) (h : ∀ x, bareWarp (f x) = bareWarp x) : TraceFrame s (updWarp s w f) :=
  ⟨congrArg (fun t => { traceless s with warps := t }) (tblMap_tblUpd s.warps w f bareWarp h)⟩
theorem traceFrame_updPcore (s : State) (c : Nat) (f : PCore → PCore) : TraceFrame s (updPcore s c f) := ⟨rfl⟩

theorem traceFrame_fillTlb (s : State) (part : Nat) (e : TlbEntry) : TraceFrame s (fillTlb s part e) :=
  traceFrame_updPart s part _ fun p => by split <;> rfl

theorem traceFrame_fillClr (s : State) (part ident tag : Nat) : TraceFrame s (fillClr s part ident tag) := by
  unfold fillClr
  split
  · exact .refl s
  · exact traceFrame_updPart s part _ fun p => by split <;> rfl

theorem traceFrame_markUnits (s : State) (a n : Nat) : TraceFrame s (markUnits s a n) := by
  unfold markUnits
  split
  · exact .refl s
  · refine ⟨congrArg (fun t => { traceless s with ctxs := t }) ?_⟩
    simp only [tblMap, List.map_map]
    rfl

theorem traceFrame_rekey (s : State) (a key n : Nat) : TraceFrame s (rekey s a key n) := by
  unfold rekey
  split
  · refine .foldl _ _ _ fun s i => ?_
    dsimp only
    split
    · split
      · exact .refl s
      · exact ⟨rfl⟩
    · exact ⟨rfl⟩
  · exact .refl s

theorem traceFrame_putHome (s : State) (a key : Nat) (data : List Byte) : TraceFrame s (putHome s a key data) := by
  unfold putHome
  refine (traceFrame_rekey s a key data.length).trans (.trans ?_ (traceFrame_markUnits _ _ _))
  exact ⟨rfl⟩

theorem traceFrame_appendAudit (s : State) (k va ident tag kind place : Nat) : TraceFrame s (appendAudit s k va ident tag kind place) := by
  have hseq : TraceFrame s (updCtx s (k / 8192) fun c => { c with auditSeq := c.auditSeq + 1 }) := traceFrame_updCtx _ _ _ fun _ => rfl
  unfold appendAudit
  dsimp only
  split
  · exact hseq
  · split
    · exact hseq.trans (traceFrame_putHome ..)
    · exact hseq.trans ((traceFrame_putHome ..).trans (traceFrame_putHome ..))

theorem traceFrame_constTrace (s : State) (m : Member) (off n : Nat) : TraceFrame s (constTrace s m off n) := by
  unfold constTrace
  dsimp only
  split
  · exact .refl s
  · split
    · exact .refl s
    next e _ =>
      have hfill : TraceFrame s (fillClr (fillTlb s (lkPart (wgOfWarp s m.warp).lcore) e) (lkPart (wgOfWarp s m.warp).lcore)
          (warpOf s m.warp).ident.toNat e.tag) := (traceFrame_fillTlb ..).trans (traceFrame_fillClr ..)
      split
      · exact hfill.trans (traceFrame_updLcore _ _ _ fun _ => rfl)
      · split
        · exact hfill
        · exact hfill.trans (traceFrame_appendAudit ..)
      · exact hfill

theorem traceFrame_constTraces (s : State) (sh : Shape) (ms : List Member) : TraceFrame s (constTraces s sh ms) := by
  unfold constTraces
  refine .foldl _ _ _ fun s x => ?_
  split
  · exact .foldl _ _ _ fun s m => .foldl _ _ _ fun s k => traceFrame_constTrace ..
  · exact .refl s

theorem traceFrame_noted (s : State) (g : Group) (i : Instr) : TraceFrame s (noted s g i) := by
  rw [noted, redunMark_own]
  exact (traceFrame_constTraces ..).trans (.foldl _ _ _ fun s w => traceFrame_updWarp _ _ _ fun _ => rfl)

theorem traceFrame_accessTrace (s : State) (m : Member) (va : Nat) (need : Need) (kind : Nat) :
    TraceFrame s (accessTrace s m va need kind) := by
  unfold accessTrace
  dsimp only
  split
  · exact .refl s
  · have hfill := fun e : TlbEntry => (traceFrame_fillTlb s (partOfWarp s m.warp) e).trans
      (traceFrame_fillClr _ (partOfWarp s m.warp) (warpOf s m.warp).ident.toNat e.tag)
    split
    · exact (hfill _).trans (traceFrame_appendAudit ..)
    · exact hfill _

theorem traceFrame_dropCopiesOf (s : State) (core a n : Nat) : TraceFrame s (dropCopiesOf s core a n) := by
  have hdie : TraceFrame s { s with dcopies := tblUpd s.dcopies (pcDie core) fun t => dropUnits t a n } := ⟨rfl⟩
  unfold dropCopiesOf
  dsimp only
  split
  · exact hdie
  · exact hdie.trans (traceFrame_updPcore ..)

theorem traceFrame_keepCopies (s : State) (src : Served) (core a key tag : Nat) (l : List Byte) :
    TraceFrame s (keepCopies s src core a key tag l) := by
  unfold keepCopies
  dsimp only
  split <;> split <;> exact ⟨rfl⟩

theorem traceFrame_keepUnit (s0 s : State) (m : Member) (e : TlbEntry) (va n scope : Nat) : TraceFrame s (keepUnit s0 s m e va n scope) := by
  unfold keepUnit
  dsimp only
  split
  · exact traceFrame_dropCopiesOf ..
  · exact traceFrame_keepCopies ..

theorem traceFrame_keepLoad (s0 s : State) (m : Member) (va n scope : Nat) : TraceFrame s (keepLoad s0 s m va n scope) := by
  unfold keepLoad
  dsimp only
  split
  · exact .refl s
  · split
    · exact .refl s
    · split
      · exact traceFrame_keepUnit ..
      · exact (traceFrame_keepUnit ..).trans (traceFrame_keepUnit ..)

/-! ### `SMOV` to a uniform register (R37, R88) -/

theorem uniFail_eq_none (n : Nat) (s : State) (m : Member) (x : Src) : uniFail n s m x = none ↔ n < x.w.ns := by
  unfold uniFail
  split <;> simp <;> omega

/-- The uniform registers written: each represented warp's with the source of its lowest actor that is no helper. -/
def uniformSet (s : State) (ms : List Member) (F : Member → Val) (n : Nat) (v : State) : State :=
  (warpsIn ms).foldl (uniStep s (ms.map fun m => (m, F m)) n 1) v

theorem sameFrame_uniformSet (s : State) (ms : List Member) (F : Member → Val) (n : Nat) (v : State) : SameFrame v (uniformSet s ms F n v) :=
  SameFrame.foldl _ _ _ fun _ _ => sameFrame_uniStep ..

theorem thrOf_uniformSet (s : State) (ms : List Member) (F : Member → Val) (n : Nat) (v : State) (m : Member) :
    thrOf (uniformSet s ms F n v) m = thrOf v m :=
  foldl_inv (fun u => thrOf u m = thrOf v m) _ _ _ (fun _ _ h => (thrOf_uniStep ..).trans h) rfl

theorem vreg_uniformSet (s : State) (ms : List Member) (F : Member → Val) (n : Nat) (v : State) (w l r : Nat) :
    vreg (uniformSet s ms F n v) w l r = vreg v w l r :=
  foldl_inv (fun u => vreg u w l r = vreg v w l r) _ _ _ (fun _ _ h => (vreg_uniStep ..).trans h) rfl

theorem ureg_uniformSet (s : State) (ms : List Member) (F : Member → Val) (n : Nat) (v : State) (w k : Nat) (hw : warpIn v w) :
    ureg (uniformSet s ms F n v) w k =
      match leadOf s ms w with
      | some m => if k = n then lo32 (F m) else ureg v w k
      | none => ureg v w k := by
  rw [uniformSet, ureg_foldl_uniStep]
  cases hl : leadOf s ms w with
  | none => rfl
  | some m =>
    obtain ⟨hm, hmw, -⟩ := leadOf_mem s ms w m hl
    have hin : w ∈ warpsIn ms := (mem_warpsIn w ms).2 ⟨m, hm, hmw⟩
    by_cases hk : k = n
    · subst hk
      dsimp only
      rw [if_pos ⟨hin, hw, le_rfl, Nat.lt_succ_self k⟩]
      simp [lo32]
    · dsimp only
      rw [if_neg (fun h => hk (by omega))]
      simp [hk]

/-- `SMOV` to a uniform register, of the members that perform it. -/
def smovWrite (n : Nat) (s : State) (l : List (Member × Src)) : State :=
  (warpsIn (l.map (·.1))).foldl (fun s' w =>
    match l.find? fun e => e.1.warp == w && !(thrOf s e.1).helper with
    | some e => setUreg s' w n (lo32 e.2.a)
    | none => s') s

theorem smovWrite_acts (n : Nat) (s : State) (g : Group) (i : Instr) (v : State) :
    smovWrite n v (Claims.acts s g i) = uniformSet v (actors s g i) (fun m => (sources s g i m).a) n v := by
  unfold smovWrite uniformSet
  rw [map_fst_acts]
  congr 1
  funext u w
  rw [Claims.acts, find?_lead_map, uniStep, find?_lead]
  cases leadOf v (actors s g i) w <;> rfl

theorem exec_smovToUniform (p : BitVec 3) (d a : BitVec 7) (s : State) (g : Group) (hg : curGroup? s = some g)
    (hop : OperandsPass s g (.smovToUniform p d a))
    (hf : Claims.EachChecked s g (.smovToUniform p d a) fun m _ => d.toNat < (warpOf s m.warp).ns) :
    exec (.smovToUniform p d a) s =
      .next (retire (smovWrite d.toNat (noted s g (.smovToUniform p d a)) (Claims.acts s g (.smovToUniform p d a)))) :=
  groupOp_own (.smovToUniform p d a) (uniFail d.toNat) (fun s _ l => (smovWrite d.toNat s l, [])) s g hg hop
    (fun m hm hh => (uniFail_eq_none ..).2 (hf m hm hh)) _ rfl rfl

/-- R88: the uniform register takes the value of the lowest actor of its warp that is no helper, and nothing else changes. -/
theorem uniformWrite : Claims.UniformWrite := by
  intro p d a s g hg hop hf
  set i := Instr.smovToUniform p d a
  set ms := actors s g i
  set s0 := noted s g i with hs0
  set u := uniformSet s0 ms (fun m => (sources s g i m).a) d.toNat s0
  have hframe := sameFrame_uniformSet s0 ms (fun m => (sources s g i m).a) d.toNat s0
  have hall := (sameFrame_noted s g i).trans hframe
  refine ⟨u, ?_, fun w n hw => ?_, fun w l r => ?_, fun m => ?_, ?_, ?_⟩
  · rw [exec_smovToUniform p d a s g hg hop hf, smovWrite_acts]
  · have h := ureg_uniformSet s0 ms (fun m => (sources s g i m).a) d.toNat s0 w n (((traceFrame_noted s g i).warpIn w).2 hw)
    rw [leadOf_noted, ureg_noted] at h
    exact h
  · rw [vreg_uniformSet, vreg_noted]
  · rw [thrOf_uniformSet, thrOf_noted]
  · rw [hall.frame, warps_constTraces]
  · have h := hall.rest s.warps
    rw [h, ← warps_constTraces s (shapeOf i) ms]

/-! ### `SMOV` from a uniform register, `IDX2` and `CVTW` (R88, R93, R149) -/

theorem trBound_lt (r : TRec) : trBound r < 4 := (r.extractLsb' 184 2).isLt

/-- The element that an element's coordinates name under BOUND, with those of no element as they are. -/
theorem boundElem_getD (r : TRec) (x y : Int) (hb : 2 ≤ trBound r) :
    (boundElem r x y).getD (x, y) =
      if 0 < trExt0 r ∧ 0 < trExt1 r then
        (if trBound r = 2 then (min (max x 0) (trExt0 r - 1), min (max y 0) (trExt1 r - 1)) else (x % trExt0 r, y % trExt1 r))
      else (x, y) := by
  have hlt := trBound_lt r
  unfold boundElem inExtent
  by_cases hin : 0 ≤ x ∧ x < trExt0 r ∧ 0 ≤ y ∧ y < trExt1 r
  · obtain ⟨hx0, hx1, hy0, hy1⟩ := hin
    simp [hx0, hx1, hy0, hy1, Int.emod_eq_of_lt]
  · have hno : (decide (0 ≤ x) && decide (x < trExt0 r) && decide (0 ≤ y) && decide (y < trExt1 r)) = false := by
      rw [Bool.eq_false_iff]
      simpa [and_assoc] using hin
    rw [hno, if_neg Bool.false_ne_true]
    by_cases hlive : 0 < trExt0 r ∧ 0 < trExt1 r
    · rw [if_neg (by omega), if_pos hlive]
      obtain h2 | h3 : trBound r = 2 ∨ trBound r = 3 := by omega
      · rw [h2]
        rfl
      · rw [h3]
        rfl
    · rw [if_pos (by omega), if_neg hlive]
      rfl

theorem idx2Val_eq (r : TRec) (a : Val) :
    idx2Val r a = BitVec.ofInt 64 (Claims.elementOffset r (a.extractLsb' 0 32).toInt (a.extractLsb' 32 32).toInt) := by
  have hlt := trBound_lt r
  unfold idx2Val Claims.elementOffset
  by_cases hb : 2 ≤ trBound r
  · simp only [ge_iff_le, hb, if_true, boundElem_getD _ _ _ hb]
    by_cases hlive : 0 < trExt0 r ∧ 0 < trExt1 r
    · obtain h2 | h3 : trBound r = 2 ∨ trBound r = 3 := by omega
      · simp [hlive, h2]
      · simp [hlive, h3]
    · simp [hlive]
  · have h2 : trBound r ≠ 2 := by omega
    have h3 : trBound r ≠ 3 := by omega
    simp [hb, h2, h3]

/-- RECORD_INVALID of `IDX2`, and its result. -/
def idx2Check (b : BitVec 7) (s : State) (m : Member) (x : Src) : Option Fail :=
  if (recOf? s m.warp (recSel x.w b)).isNone then some (recInvalid (recSel x.w b)) else none
def idx2Res (b : BitVec 7) (s : State) (m : Member) (x : Src) : Res := res64 (idx2Val ((recOf? s m.warp (recSel x.w b)).getD 0) x.a)

theorem cvtwPos_eq (x : Src) : cvtwPos x = (lo32 x.b).toNat % 8 := by simp [cvtwPos, BitVec.extractLsb'_toNat]

theorem cvtwOf_eq (k : Nat) : cvtwOf k = fun x =>
    let nd := nfmtOf x.w k
    let e := (lo32 x.a).toNat / 2 ^ (fieldBits nd * ((lo32 x.b).toNat % 8)) % 2 ^ ndWidth nd
    fres (Claims.toFormat (ndFmt nd) fp32 (rmOf x.w) x.w e) := by
  funext x
  rw [cvtwOf, cvtwPos_eq]
  rfl

/-- R88, R93, R149: the three are register instructions whose own checks pass. -/
theorem checkedRegisterResults : Claims.CheckedRegisterResults := by
  intro i ok f h s g hg hop hok hfp
  cases h with
  | smovFromUniform p d a =>
    exact regOpF_spec (.smovFromUniform p d a) (uniFail a.toNat) (fun x => res32 (bmGet x.w.sr a.toNat)) s g hg hop
      (fun m hm => (uniFail_eq_none ..).2 (hok m hm)) hfp
  | idx2 p d a b =>
    refine regOpG_spec (.idx2 p d a b) (idx2Check b) (idx2Res b) _ s g hg hop (fun m hm => ?_) (fun m _ => ?_) hfp
    · have hsome : (recOf? s m.warp (recSel (warpOf s m.warp) b)).isSome = true := hok m hm
      exact if_neg (by simpa [sources_w, Option.isSome_iff_ne_none] using hsome)
    · rw [idx2Res, idx2Val_eq, (traceFrame_noted s g _).recOf?]
      rfl
  | cvtw p d a b k =>
    have hrun := regOpF_spec (.cvtw p d a b k) (fun _ _ x => narrowFail x.w k.toNat (cvtwPos x)) (cvtwOf k.toNat) s g hg hop
      fun m hm => narrowFail_eq_none (by rw [cvtwPos_eq]; exact hok m hm)
    rw [cvtwOf_eq] at hrun
    exact hrun hfp
end Sys2Proof.Machine

section
open Sys2Proof Sys2Proof.Machine

/-- Settles O20: the register instructions with a check of their own, and the one that writes uniform registers alone. -/
theorem checkedInstructions : Obligations.CheckedInstructions := ⟨uniformWrite, checkedRegisterResults⟩

end

/-! ## Pending loads, and the constant path (O26) -/

namespace Sys2Proof.Machine

/-! ### States that differ in pending returns alone (R53) -/

/-- Two states differ in pending returns with their identifiers, and in nothing of the warps that a thread reads. -/
structure IssueFrame (s u : State) : Prop where
  same : { u with warps := s.warps, loads := s.loads, nextId := s.nextId } = s
  registers : SameRegisters s u
  holder : ∀ w, (warpOf u w).wg = (warpOf s w).wg
  there : ∀ w, warpIn u w ↔ warpIn s w

theorem IssueFrame.refl (s : State) : IssueFrame s s := ⟨rfl, sameRegisters_refl s, fun _ => rfl, fun _ => Iff.rfl⟩

theorem IssueFrame.trans {s t u : State} (h : IssueFrame s t) (k : IssueFrame t u) : IssueFrame s u := by
  refine ⟨?_, sameRegisters_trans h.registers k.registers, fun w => (k.holder w).trans (h.holder w),
    fun w => (k.there w).trans (h.there w)⟩
  have hk := k.same
  have hh := h.same
  rw [← hk] at hh
  exact hh

theorem IssueFrame.foldl {β : Type} (l : List β) (f : State → β → State) (s : State) (h : ∀ s x, IssueFrame s (f s x)) :
    IssueFrame s (l.foldl f s) := by
  induction l generalizing s with
  | nil => exact .refl s
  | cons x t ih => exact (h s x).trans (ih _)

theorem IssueFrame.read {s u : State} (h : IssueFrame s u) {β : Type} (f : State → β)
    (hf : ∀ (v : State) (x : Tbl Warp) (l : Tbl PLoad) (n : Nat), f { v with warps := x, loads := l, nextId := n } = f v) : f u = f s := by
  rw [← hf u s.warps s.loads s.nextId, h.same]

theorem IssueFrame.auditFrame {s u : State} (h : IssueFrame s u) : AuditFrame s u :=
  .of_same (h.read State.ctxs fun _ _ _ _ => rfl) (h.read State.mem fun _ _ _ _ => rfl) (h.read State.lineKey fun _ _ _ _ => rfl)
    (h.read State.writes fun _ _ _ _ => rfl) (h.read State.pkgs fun _ _ _ _ => rfl)

theorem IssueFrame.isRedun {s u : State} (h : IssueFrame s u) (w : Nat) : isRedun u w = isRedun s w := by
  have hg : wgOfWarp u w = wgOfWarp s w := by rw [wgOfWarp, wgOfWarp, h.holder, wgOf, wgOf, h.read State.wgs fun _ _ _ _ => rfl]
  rw [Machine.isRedun, Machine.isRedun, khdrOfWarp, khdrOfWarp, hg]

theorem issueFrame_updWarp (s : State) (w : Nat) (f : Warp → Warp) (hv : ∀ x, (f x).vr = x.vr) (hs : ∀ x, (f x).sr = x.sr)
    (hl : ∀ x, (f x).lanes = x.lanes) (hg : ∀ x, (f x).wg = x.wg) : IssueFrame s (updWarp s w f) := by
  refine ⟨rfl, sameRegisters_updWarp s w f hv hs hl, fun v => ?_, fun v => warpIn_updWarp s w v f⟩
  rw [warpOf_updWarp]
  split
  · exact hg _
  · rfl

theorem issueFrame_markUniform (s : State) (w id : Nat) (regs : List Nat) : IssueFrame s (markUniform s w id regs) := by
  unfold markUniform
  dsimp only
  split
  · exact .refl s
  · exact issueFrame_updWarp s w _ (fun _ => rfl) (fun _ => rfl) (fun _ => rfl) fun _ => rfl

theorem issueFrame_raiseFlag (s : State) (w f : Nat) : IssueFrame s (raiseFlag s w f) := by
  unfold raiseFlag
  split
  · exact issueFrame_updWarp s w _ (fun _ => rfl) (fun _ => rfl) (fun _ => rfl) fun _ => rfl
  · exact .refl s

/-! ### The returns that an instruction enters -/

/-- The flag that a warp's return raises: the clause's, or none where all its members are helpers. -/
def returnFlag (s : State) (g : Group) (ms : List Member) (w : Nat) : Nat := if (leadOf s ms w).isSome then groupFlag g else 15
/-- The pending return of a warp. -/
def returnOf (s : State) (g : Group) (ms : List Member) (mk : Nat → PLoad) (w : Nat) : PLoad :=
  { mk w with warp := w, flag := returnFlag s g ms w }
/-- It enters the state. -/
def enterReturn (s : State) (w : Nat) (e : PLoad) (regs : List Nat) : State :=
  markUniform { s with loads := s.loads ++ [(s.nextId, e)], nextId := s.nextId + 1 } w s.nextId regs
def issueStep (g : Group) (ms : List Member) (mk : Nat → PLoad) (s : State) (w : Nat) : State :=
  raiseFlag (enterReturn s w (returnOf s g ms mk w) ((mk w).writes.map fun r => r.reg)) w (returnFlag s g ms w)

theorem issueLong_eq (s : State) (g : Group) (ms : List Member) (mk : Nat → PLoad) :
    issueLong s g ms mk = (warpsIn ms).foldl (issueStep g ms mk) s := rfl

theorem issueFrame_enterReturn (s : State) (w : Nat) (e : PLoad) (regs : List Nat) : IssueFrame s (enterReturn s w e regs) :=
  .trans (t := { s with loads := s.loads ++ [(s.nextId, e)], nextId := s.nextId + 1 })
    ⟨rfl, sameRegisters_of_warps rfl, fun _ => rfl, fun _ => Iff.rfl⟩ (issueFrame_markUniform ..)

theorem issueFrame_issueStep (g : Group) (ms : List Member) (mk : Nat → PLoad) (s : State) (w : Nat) :
    IssueFrame s (issueStep g ms mk s w) := (issueFrame_enterReturn ..).trans (issueFrame_raiseFlag ..)

theorem issueFrame_issueLong (s : State) (g : Group) (ms : List Member) (mk : Nat → PLoad) : IssueFrame s (issueLong s g ms mk) :=
  .foldl _ _ _ fun s w => issueFrame_issueStep g ms mk s w

theorem leadOf_congr {s u : State} (h : ∀ m, thrOf u m = thrOf s m) (ms : List Member) (w : Nat) : leadOf u ms w = leadOf s ms w := by
  simp only [leadOf, nonHelpers, h]

theorem IssueFrame.returnFlag {s u : State} (h : IssueFrame s u) (g : Group) (ms : List Member) (w : Nat) :
    returnFlag u g ms w = returnFlag s g ms w := by
  rw [Machine.returnFlag, Machine.returnFlag, leadOf_congr h.registers.threads]

theorem loads_raiseFlag (s : State) (w f : Nat) : (raiseFlag s w f).loads = s.loads := by unfold raiseFlag; split <;> rfl
theorem nextId_raiseFlag (s : State) (w f : Nat) : (raiseFlag s w f).nextId = s.nextId := by unfold raiseFlag; split <;> rfl
theorem loads_enterReturn (s : State) (w : Nat) (e : PLoad) (regs : List Nat) :
    (enterReturn s w e regs).loads = s.loads ++ [(s.nextId, e)] := by unfold enterReturn markUniform; dsimp only; split <;> rfl
theorem nextId_enterReturn (s : State) (w : Nat) (e : PLoad) (regs : List Nat) : (enterReturn s w e regs).nextId = s.nextId + 1 := by
  unfold enterReturn markUniform; dsimp only; split <;> rfl

theorem loads_foldl_issueStep (g : Group) (ms : List Member) (mk : Nat → PLoad) (b : State) (ws : List Nat) (s : State) (k n : Nat)
    (hb : IssueFrame b s) (hk : s.nextId = n + k) :
    (ws.foldl (issueStep g ms mk) s).loads = s.loads ++ (ws.zipIdx k).map fun e => (n + e.2, returnOf b g ms mk e.1) := by
  induction ws generalizing s k with
  | nil => simp
  | cons w t ih =>
    have hret : returnOf s g ms mk w = returnOf b g ms mk w := by rw [returnOf, returnOf, hb.returnFlag]
    have hnext : (issueStep g ms mk s w).nextId = n + (k + 1) := by
      rw [issueStep, nextId_raiseFlag, nextId_enterReturn, hk, Nat.add_assoc]
    rw [List.foldl_cons, ih _ _ (hb.trans (issueFrame_issueStep ..)) hnext, issueStep, loads_raiseFlag, loads_enterReturn, hret, hk,
      List.zipIdx_cons, List.map_cons, List.append_assoc]
    rfl

theorem fcount_raiseFlag_of_any (s : State) (x fl w f : Nat) (hw : warpIn s w) (hf : f < 12) :
    bmGet (warpOf (raiseFlag s x fl) w).fcount f = bmGet (warpOf s w).fcount f + if x = w ∧ fl = f then 1 else 0 := by
  unfold raiseFlag
  split
  · rw [warpOf_updWarp]
    by_cases hx : x = w
    · subst hx
      rw [if_pos ⟨rfl, hw⟩, bmGet_bmSet]
      by_cases hfl : fl = f <;> simp [hfl]
    · simp [hx]
  · have hfl : fl ≠ f := by omega
    simp [hfl]

theorem fcount_enterReturn (s : State) (x : Nat) (e : PLoad) (regs : List Nat) (w : Nat) :
    (warpOf (enterReturn s x e regs) w).fcount = (warpOf s w).fcount := by
  unfold enterReturn markUniform
  dsimp only
  split
  · rfl
  · rw [warpOf_updWarp]
    split <;> rfl

theorem returnFlag_eq_iff (s : State) (g : Group) (ms : List Member) (w f : Nat) (hf : f < 12) :
    returnFlag s g ms w = f ↔ (leadOf s ms w).isSome = true ∧ groupFlag g = f := by
  unfold returnFlag
  split
  · next h => exact ⟨fun e => ⟨h, e⟩, fun e => e.2⟩
  · next h => exact ⟨fun e => absurd e (by omega), fun e => absurd e.1 h⟩

theorem fcount_issueStep (g : Group) (ms : List Member) (mk : Nat → PLoad) (s : State) (x w f : Nat) (hw : warpIn s w) (hf : f < 12) :
    bmGet (warpOf (issueStep g ms mk s x) w).fcount f =
      bmGet (warpOf s w).fcount f + if x = w ∧ (leadOf s ms w).isSome = true ∧ groupFlag g = f then 1 else 0 := by
  rw [issueStep, fcount_raiseFlag_of_any _ _ _ _ _ (((issueFrame_enterReturn ..).there w).2 hw) hf, fcount_enterReturn]
  by_cases hx : x = w
  · subst hx
    simp only [true_and, returnFlag_eq_iff _ _ _ _ _ hf]
  · simp [hx]

theorem fcount_foldl_issueStep (g : Group) (ms : List Member) (mk : Nat → PLoad) (ws : List Nat) (hn : ws.Nodup) (s : State) (w f : Nat)
    (hw : warpIn s w) (hf : f < 12) :
    bmGet (warpOf (ws.foldl (issueStep g ms mk) s) w).fcount f =
      bmGet (warpOf s w).fcount f + if w ∈ ws ∧ (leadOf s ms w).isSome = true ∧ groupFlag g = f then 1 else 0 := by
  induction ws generalizing s with
  | nil => simp
  | cons x t ih =>
    obtain ⟨hx, ht⟩ := List.nodup_cons.mp hn
    have hframe := issueFrame_issueStep g ms mk s x
    rw [List.foldl_cons, ih ht _ ((hframe.there w).2 hw), leadOf_congr hframe.registers.threads, fcount_issueStep g ms mk s x w f hw hf]
    by_cases hxw : x = w
    · subst hxw
      simp [hx]
    · simp [hxw, Ne.symm hxw]

/-- The returns of an instruction, in a state that differs in traces from the one in which it was issued. -/
theorem longIssued_issueLong {s v : State} (h : TraceFrame s v) (g : Group) (ms : List Member) (mk : Nat → PLoad) :
    Claims.LongIssued s g ms mk (issueLong v g ms mk) := by
  have hlead : ∀ w, leadOf v ms w = leadOf s ms w := leadOf_congr h.thrOf ms
  refine ⟨?_, fun w f hw hf => ?_, sameRegisters_trans h.sameRegisters (issueFrame_issueLong v g ms mk).registers⟩
  · rw [issueLong_eq, loads_foldl_issueStep g ms mk v _ v 0 v.nextId (.refl v) rfl, h.read State.loads fun _ => rfl,
      h.read State.nextId fun _ => rfl, Claims.returnsOf]
    simp only [returnOf, returnFlag, hlead]
  · have hcount : (warpOf v w).fcount = (warpOf s w).fcount :=
      h.read (fun v => (warpOf v w).fcount) fun v => by rw [warpOf_traceless]; rfl
    rw [issueLong_eq, fcount_foldl_issueStep g ms mk _ (nodup_warpsIn ms) v w f ((h.warpIn w).2 hw) hf, hcount, hlead]
    congr 1
    by_cases hl : (leadOf s ms w).isSome = true
    · obtain ⟨m, hm⟩ := Option.isSome_iff_exists.mp hl
      obtain ⟨hmem, hmw, -⟩ := leadOf_mem s ms w m hm
      simp [hl, (mem_warpsIn w ms).2 ⟨m, hmem, hmw⟩]
    · simp [hl]

/-! ### Loads of an unreplicated group (R100 to R102, R369) -/

theorem forwards_plain (s : State) (vals : List (Member × Val)) (h : ∀ e ∈ vals, isRedun s e.1.warp = false) : forwards s vals = s := by
  induction vals with
  | nil => rfl
  | cons e t ih =>
    have he : forward s e.1 e.2 = s := by simp [forward, h e (List.mem_cons_self ..)]
    rw [forwards, List.foldl_cons, he]
    exact ih fun x hx => h x (List.mem_cons_of_mem _ hx)

theorem takeFwds_plain (s : State) (ms : List Member) (h : ∀ m ∈ ms, isRedun s m.warp = false) : takeFwds s ms = s := by
  induction ms with
  | nil => rfl
  | cons m t ih =>
    rw [takeFwds, List.foldl_cons, if_neg (by simp [takesForward, h m (List.mem_cons_self ..)])]
    exact ih fun x hx => h x (List.mem_cons_of_mem _ hx)

theorem loadReturn_plain (s : State) (g : Group) (sh : Shape) (vals : List (Member × Val)) (h : ∀ e ∈ vals, isRedun s e.1.warp = false) :
    loadReturn s g sh vals = issueLong s g (vals.map (·.1)) fun w =>
      { writes := regWrites s sh.d w vals, load := true, part := partOfWarp s w } := by
  have hi := (issueFrame_issueLong s g (vals.map (·.1)) fun w =>
    { writes := regWrites s sh.d w vals, load := true, part := partOfWarp s w }).isRedun
  unfold loadReturn
  rw [forwards_plain _ _ fun e he => (hi e.1.warp).trans (h e he), takeFwds_plain]
  intro m hm
  obtain ⟨e, he, rfl⟩ := List.mem_map.mp hm
  exact (hi e.1.warp).trans (h e he)

theorem regWrites_congr {s u : State} (h : ∀ m, thrOf u m = thrOf s m) (x : Slot) (w : Nat) (vals : List (Member × Val)) :
    regWrites u x w vals = regWrites s x w vals := by
  simp only [regWrites, h]

/-- A load in an unreplicated group, whose actors neither wait nor fail, is pending in a state that differs in traces and audit records. -/
theorem load_plain (i : Instr) (wait : State → Member → Src → Option Wait) (fail : State → Member → Src → Option Fail)
    (trace : State → List (Member × Src) → State) (val : State → Member → Src → Val) (s : State) (g : Group) (hr : Claims.Ready s g i)
    (hw : Claims.EachActor s g i fun m x => wait s m x = none) (hf : Claims.EachChecked s g i fun m x => fail s m x = none)
    (htr : ∀ v l, TraceFrame v (trace v l)) (hau : ∀ v l, AuditFrame v (trace v l)) :
    ∃ u, groupOp i .fwd wait fail (fun s g l =>
        (loadReturn (trace s l) g (shapeOf i) (l.map fun e => (e.1, loadedVal s e.1 (val s e.1 e.2))), [])) s = .next (retire u) ∧
      Claims.LongIssued s g (actors s g i) (fun w =>
        { writes := regWrites s (shapeOf i).d w ((actors s g i).map fun m => (m, val (noted s g i) m (sources s g i m)))
          load := true, part := partOfWarp s w }) u ∧ Claims.MemoryKept s u := by
  have hmem : ∀ m ∈ actors s g i, isRedun s m.warp = false := fun m hm => hr.plain m (List.mem_filter.1 hm).1
  set s0 := noted s g i with hs0
  set t := trace s0 (Claims.acts s g i) with ht
  have h0 : TraceFrame s s0 := traceFrame_noted s g i
  have h1 : TraceFrame s t := h0.trans (htr _ _)
  set vals := (actors s g i).map fun m => (m, val s0 m (sources s g i m)) with hvals
  have hload : (Claims.acts s g i).map (fun e => (e.1, loadedVal s0 e.1 (val s0 e.1 e.2))) = vals := by
    rw [Claims.acts, List.map_map, hvals]
    refine List.map_congr_left fun m hm => ?_
    simp [loadedVal, takesForward, h0.isRedun, hmem m hm]
  have hfst : vals.map (·.1) = actors s g i := by
    rw [hvals, List.map_map]
    exact List.map_id _
  have hplain : ∀ e ∈ vals, isRedun t e.1.warp = false := by
    intro e he
    obtain ⟨m, hm, rfl⟩ := List.mem_map.mp he
    exact (h1.isRedun m.warp).trans (hmem m hm)
  have hissue : loadReturn t g (shapeOf i) vals = issueLong t g (actors s g i) fun w =>
      { writes := regWrites s (shapeOf i).d w vals, load := true, part := partOfWarp s w } := by
    rw [loadReturn_plain _ _ _ _ hplain, hfst]
    simp only [regWrites_congr h1.thrOf, h1.partOfWarp]
  refine ⟨loadReturn t g (shapeOf i) vals, ?_, ?_, ?_⟩
  · have h := groupOp_plain i .fwd wait fail (fun s g l =>
      (loadReturn (trace s l) g (shapeOf i) (l.map fun e => (e.1, loadedVal s e.1 (val s e.1 e.2))), [])) s g hr.cur hr.plain hr.ops hw hf rfl
    rw [← hload]
    exact h
  · rw [hissue]
    exact longIssued_issueLong h1 g _ _
  · rw [hissue]
    exact (((auditFrame_noted s g i).trans (hau _ _)).trans (issueFrame_issueLong ..).auditFrame).memoryKept

/-! ### Constant loads and `PREF` (R106, R107) -/

theorem addrS_eq (x : Src) : addrS x = Claims.wordOff x := BitVec.toNat_add ..

/-- The traces of a constant load. -/
def constLoadTrace (n : Nat) (s : State) (l : List (Member × Src)) : State :=
  l.foldl (fun s e => if takesForward s e.1 then s else constTrace s e.1 (addrS e.2) n) s

theorem exec_constLoad {i : Instr} {n : Nat} (h : Claims.ConstLoad i n) (s : State) :
    exec i s = groupOp i .fwd laterWait (fun s m x => ldcFail s m (addrS x) n) (fun s g l =>
      (loadReturn (constLoadTrace n s l) g (shapeOf i) (l.map fun e => (e.1, loadedVal s e.1 (valOf (ldcBytes s e.1 (addrS e.2) n)))), [])) s := by
  cases h <;> rfl

theorem traceFrame_constLoadTrace (n : Nat) (s : State) (l : List (Member × Src)) : TraceFrame s (constLoadTrace n s l) := by
  refine .foldl _ _ _ fun s e => ?_
  split
  · exact .refl s
  · exact traceFrame_constTrace ..

theorem auditFrame_constLoadTrace (n : Nat) (s : State) (l : List (Member × Src)) : AuditFrame s (constLoadTrace n s l) := by
  refine .foldl _ _ _ fun s e => ?_
  split
  · exact .refl s
  · exact auditFrame_constTrace ..

theorem laterWait_eq_none {s : State} {m : Member} {x : Src} (h : acqHeld s m = false) : laterWait s m x = none := by simp [laterWait, h]

/-- R106: the constant path delivers the bytes. -/
theorem constantLoads : Claims.ConstantLoads := by
  intro i n h s g hr hw hf
  have hrun := load_plain i laterWait (fun s m x => ldcFail s m (addrS x) n) (constLoadTrace n) (fun s m x => valOf (ldcBytes s m (addrS x) n))
    s g hr (fun m hm => laterWait_eq_none (hw m hm)) (fun m hm hh => by simpa only [addrS_eq] using hf m hm hh)
    (traceFrame_constLoadTrace n) (auditFrame_constLoadTrace n)
  rw [exec_constLoad h]
  simp only [addrS_eq] at hrun ⊢
  exact hrun

/-- R107: `PREF` leaves the state in which its operands are read. -/
theorem prefetchOnly : Claims.PrefetchOnly := fun p d a b s g hr =>
  ⟨effectOp_plain (.pref p d a b) noFail (fun s _ _ => s) s g hr fun _ _ _ => rfl, (auditFrame_noted s g _).memoryKept,
    sameRegisters_noted s g _⟩

end Sys2Proof.Machine

section
open Sys2Proof Sys2Proof.Machine

/-- Settles O26: the two instructions of the constant path. -/
theorem constantPath : Obligations.ConstantPath := ⟨constantLoads, prefetchOnly⟩

end

/-! ## Accesses through tensor records (O27) -/

namespace Sys2Proof.Machine

/-! ### Record loads (R114, R115) -/

theorem leNat_lt (l : List Byte) : leNat l < 256 ^ l.length := by
  induction l with
  | nil => exact Nat.one_pos
  | cons b t ih =>
    have hb : b.toNat < 256 := b.isLt
    rw [leNat, List.length_cons, Nat.pow_succ']
    omega

theorem length_readGlobal (s : State) (m : Member) (va n sc : Nat) : (readGlobal s m va n sc).length = n := by
  unfold readGlobal loadBytes
  dsimp only
  split
  · simp
  · split <;> simp

/-- The half of a byte that the parity of x names. -/
theorem nibble_eq (v : Nat) (ex : Int) (hv : v < 256) : (if ex % 2 = 0 then v % 16 else v / 16) = v / 16 ^ (ex % 2).toNat % 16 := by
  obtain h | h : ex % 2 = 0 ∨ ex % 2 = 1 := by omega
  · simp [h]
  · rw [if_neg (by omega), h, show (1 : Int).toNat = 1 from rfl, Nat.pow_one, Nat.mod_eq_of_lt (by omega)]

theorem elemRead_eq (s : State) (m : Member) (r : TRec) (va : Nat) (ex : Int) :
    elemRead s m r va ex =
      let v := leNat (readGlobal s m va (elemBytes r))
      if trEbits r = 4 then v / 16 ^ (ex % 2).toNat % 16 else v := by
  unfold elemRead
  dsimp only
  split
  · next h4 =>
    refine nibble_eq _ _ ?_
    have hlt := leNat_lt (readGlobal s m va (elemBytes r))
    have hone : elemBytes r = 1 := by simp [elemBytes, h4]
    rw [length_readGlobal, hone] at hlt
    rwa [hone]
  · rfl

theorem unitAddrs_eq (r : TRec) (x : Src) : unitAddrs r x = Claims.unitElems r x := rfl

theorem unitRead_eq (s : State) (m : Member) (r : TRec) (x : Src) :
    (unitRead s m r x).setWidth 128 = BitVec.ofNat 128 (((Claims.unitElems r x).map fun e =>
      let v := leNat (readGlobal s m e.2.1 (elemBytes r))
      (if trEbits r = 4 then v / 16 ^ (e.2.2 % 2).toNat % 16 else v) * 2 ^ (trEbits r * e.1)).sum % 2 ^ 32) := by
  apply BitVec.eq_of_toNat_eq
  rw [unitRead, unitAddrs_eq, BitVec.toNat_setWidth, BitVec.toNat_ofNat, BitVec.toNat_ofNat]
  simp only [elemRead_eq]

/-- What a record load delivers to a member. -/
def recordVal (num : Warp → Nat) (s : State) (m : Member) (x : Src) : Val :=
  if (unitFail s m x (num x.w) .load).isSome then 0 else (unitRead s m ((recOf? s m.warp (num x.w)).getD 0) x).setWidth 128

/-- The traces of a record load. -/
def recordLoadTrace (num : Warp → Nat) (s : State) (l : List (Member × Src)) : State :=
  l.foldl (fun s' e => if takesForward s e.1 || (unitFail s e.1 e.2 (num e.2.w) .load).isSome then s'
    else (unitAddrs ((recOf? s e.1.warp (num e.2.w)).getD 0) e.2).foldl (fun s' a =>
      keepLoad s (accessTrace s' e.1 a.2.1 .load 5) e.1 a.2.1 (elemBytes ((recOf? s e.1.warp (num e.2.w)).getD 0))) s') s

theorem exec_recordLoad {i : Instr} {num : Warp → Nat} (h : Claims.RecordLoad i num) (s : State) :
    exec i s = groupOp i .fwd (fun s m x => unitWait s m x (num x.w)) (fun s m x => unitFail s m x (num x.w) .load) (fun s g l =>
      (loadReturn (recordLoadTrace num s l) g (shapeOf i) (l.map fun e => (e.1, loadedVal s e.1 (recordVal num s e.1 e.2))), [])) s := by
  cases h <;> rfl

theorem recordVal_eq (num : Warp → Nat) (s : State) (m : Member) (x : Src) : recordVal num s m x = Claims.unitLoaded s m (num x.w) x := by
  unfold recordVal Claims.unitLoaded
  dsimp only
  rw [unitRead_eq]
  cases unitFail s m x (num x.w) .load <;> simp

theorem traceFrame_recordLoadTrace (num : Warp → Nat) (s : State) (l : List (Member × Src)) : TraceFrame s (recordLoadTrace num s l) := by
  refine .foldl _ _ _ fun s' e => ?_
  split
  · exact .refl s'
  · exact .foldl _ _ _ fun v a => (traceFrame_accessTrace ..).trans (traceFrame_keepLoad ..)

/-! ### Records of denied reads (R102) -/

theorem auditFrame_accessTrace (s : State) (m : Member) (va : Nat) (need : Need) (kind : Nat) :
    AuditFrame s (accessTrace s m va need kind) := by
  unfold accessTrace
  dsimp only
  split
  · exact .refl s
  · have hfill := fun e : TlbEntry => (auditFrame_fillTlb s (partOfWarp s m.warp) e).trans
      (auditFrame_fillClr _ (partOfWarp s m.warp) (warpOf s m.warp).ident.toNat e.tag)
    split
    · exact (hfill _).trans (auditFrame_appendAudit ..)
    · exact hfill _

theorem auditFrame_dropCopiesOf (s : State) (core a n : Nat) : AuditFrame s (dropCopiesOf s core a n) := by
  unfold dropCopiesOf
  dsimp only
  split <;> exact .of_same rfl rfl rfl rfl rfl

theorem auditFrame_keepCopies (s : State) (src : Served) (core a key tag : Nat) (l : List Byte) :
    AuditFrame s (keepCopies s src core a key tag l) := by
  unfold keepCopies
  dsimp only
  split <;> split <;> exact .of_same rfl rfl rfl rfl rfl

theorem auditFrame_keepUnit (s0 s : State) (m : Member) (e : TlbEntry) (va n scope : Nat) : AuditFrame s (keepUnit s0 s m e va n scope) := by
  unfold keepUnit
  dsimp only
  split
  · exact auditFrame_dropCopiesOf ..
  · exact auditFrame_keepCopies ..

theorem auditFrame_keepLoad (s0 s : State) (m : Member) (va n scope : Nat) : AuditFrame s (keepLoad s0 s m va n scope) := by
  unfold keepLoad
  dsimp only
  split
  · exact .refl s
  · split
    · exact .refl s
    · split
      · exact auditFrame_keepUnit ..
      · exact (auditFrame_keepUnit ..).trans (auditFrame_keepUnit ..)

theorem auditFrame_recordLoadTrace (num : Warp → Nat) (s : State) (l : List (Member × Src)) : AuditFrame s (recordLoadTrace num s l) := by
  refine .foldl _ _ _ fun s' e => ?_
  split
  · exact .refl s'
  · exact .foldl _ _ _ fun v a => (auditFrame_accessTrace ..).trans (auditFrame_keepLoad ..)

/-- R114, R115: each member receives the packed elements of its unit. -/
theorem recordLoads : Claims.RecordLoads := by
  intro i num h s g hr hw hf
  have hrun := load_plain i (fun s m x => unitWait s m x (num x.w)) (fun s m x => unitFail s m x (num x.w) .load) (recordLoadTrace num)
    (recordVal num) s g hr hw hf (traceFrame_recordLoadTrace num) (auditFrame_recordLoadTrace num)
  rw [exec_recordLoad h]
  simp only [recordVal_eq] at hrun ⊢
  exact hrun

/-! ### Record stores (R114, R115) -/

theorem unitStore_eq (s : State) (m : Member) (r : TRec) (x : Src) (ins : Nat) : unitStore s m r x ins = Claims.unitStored s m r x ins := by
  unfold unitStore Claims.unitStored
  rw [unitAddrs_eq]
  congr 1
  funext v e
  unfold elemStore
  dsimp only
  split
  · next h4 =>
    have hv : (lo32 x.d).toNat / 2 ^ (trEbits r * e.1) % 2 ^ trEbits r % 16 = (lo32 x.d).toNat / 2 ^ (trEbits r * e.1) % 2 ^ trEbits r := by
      rw [h4]
      exact Nat.mod_mod _ _
    rw [hv]
    rfl
  · rfl

/-- The check of a record store, and the units of its members stored in lane order. -/
def recordStoreFail (i : Instr) (num : Warp → Nat) (s : State) (m : Member) (x : Src) : Option Fail :=
  unitStoreFail s m x (num x.w) (logBefore s i (fun y z => unitLogs s y ((recOf? s y.warp (num z.w)).getD 0) z) m)
def recordStoreAll (num : Warp → Nat) (s : State) (l : List (Member × Src)) : State :=
  l.foldl (fun s' e => if (thrOf s e.1).helper then s' else unitStore s' e.1 ((recOf? s e.1.warp (num e.2.w)).getD 0) e.2 s.nextId) s

theorem exec_recordStore {i : Instr} {num : Warp → Nat} (h : Claims.RecordStore i num) (s : State) :
    exec i s = groupOp i (.hold 8) laterWait (recordStoreFail i num) (fun s _ l => (recordStoreAll num s l, [])) s := by
  cases h <;> rfl

theorem recordStoreAll_acts (num : Warp → Nat) (s : State) (g : Group) (i : Instr) :
    recordStoreAll num (noted s g i) (Claims.acts s g i) = (Claims.acts s g i).foldl (fun v e => if (thrOf s e.1).helper then v
      else Claims.unitStored v e.1 ((recOf? (noted s g i) e.1.warp (num (warpOf s e.1.warp))).getD 0) e.2 (noted s g i).nextId)
      (noted s g i) := by
  refine List.foldl_ext _ _ _ fun v e he => ?_
  obtain ⟨m, -, rfl⟩ := List.mem_map.mp he
  rw [thrOf_noted, unitStore_eq]
  rfl

/-- R114, R115: each actor that is no helper stores the elements of its unit. -/
theorem recordStores : Claims.RecordStores := by
  intro i num h s g hr hw hf
  rw [exec_recordStore h, ← recordStoreAll_acts]
  exact groupOp_plain i (.hold 8) laterWait (recordStoreFail i num) (fun s _ l => (recordStoreAll num s l, [])) s g hr.cur hr.plain hr.ops
    (fun m hm => laterWait_eq_none (hw m hm)) hf rfl

end Sys2Proof.Machine

section
open Sys2Proof Sys2Proof.Machine

/-- Settles O27: the loads and the stores through a tensor record. -/
theorem recordAccesses : Obligations.RecordAccesses := ⟨recordLoads, recordStores⟩

end

/-! ## Stores and the loads of their thread (O24) -/

namespace Sys2Proof.Machine

/-! ### A write that enters a store queue (R103, R104, R203) -/

theorem nearest_append (t : Tbl PWrite) (k : Nat) (w : PWrite) (core warp a : Nat) (best : Option PWrite) :
    nearest (t ++ [(k, w)]) core warp a best = nearest [(k, w)] core warp a (nearest t core warp a best) := by
  induction t generalizing best with
  | nil => rfl
  | cons e t ih => exact ih _

/-- The latest store in a warp's own queue is the nearest write of its bytes, and that of no other byte or warp. -/
theorem nearest_append_own (t : Tbl PWrite) (k : Nat) (w : PWrite) (hw : w.level = 0) (core warp a : Nat) :
    nearest (t ++ [(k, w)]) core warp a none =
      if covers w a = true ∧ w.warp = warp ∧ w.pcore = core then some w else nearest t core warp a none := by
  have hvis : visibleTo w core warp = (w.warp == warp && w.pcore == core) := by simp [visibleTo, hw]
  rw [nearest_append]
  simp only [nearest, hvis, Bool.and_eq_true, beq_iff_eq]
  split
  · cases nearest t core warp a none with
    | none => rfl
    | some b =>
      dsimp only
      rw [if_pos (by omega)]
  · rfl

theorem pushWrite_own (s : State) (w : PWrite) (hw : w.level = 0) :
    pushWrite s w = { s with writes := s.writes ++ [(s.nextId, { w with arr := s.nextId })], nextId := s.nextId + 1 } := by
  rw [pushWrite, if_pos hw]

theorem nearest_pushWrite (s : State) (w : PWrite) (hw : w.level = 0) (core warp a : Nat) :
    nearest (pushWrite s w).writes core warp a none =
      if covers w a = true ∧ w.warp = warp ∧ w.pcore = core then some { w with arr := s.nextId } else nearest s.writes core warp a none := by
  rw [pushWrite_own s w hw]
  exact nearest_append_own s.writes s.nextId { w with arr := s.nextId } hw core warp a

theorem viewByte_pushWrite (s : State) (w : PWrite) (hw : w.level = 0) (core warp key a : Nat) :
    viewByte (pushWrite s w) core warp key a =
      if covers w a = true ∧ w.warp = warp ∧ w.pcore = core then
        (if w.key = key then w.data.getD (a - w.addr) 0 else Config.wrongKey key w.key a)
      else viewByte s core warp key a := by
  have hhome : homeByte (pushWrite s w) a key = homeByte s a key := by rw [pushWrite_own s w hw]; rfl
  rw [viewByte, nearest_pushWrite s w hw, hhome]
  by_cases hc : covers w a = true ∧ w.warp = warp ∧ w.pcore = core
  · rw [if_pos hc, if_pos hc]
  · rw [if_neg hc, if_neg hc, viewByte]

theorem covers_iff (w : PWrite) (a : Nat) : covers w a = true ↔ w.addr ≤ a ∧ a < w.addr + w.data.length := by simp [covers]

theorem warps_pushWrite (s : State) (w : PWrite) (hw : w.level = 0) : (pushWrite s w).warps = s.warps := by rw [pushWrite_own s w hw]
theorem mem_pushWrite (s : State) (w : PWrite) (hw : w.level = 0) : (pushWrite s w).mem = s.mem := by rw [pushWrite_own s w hw]

/-- A write on its way leaves every byte that it does not cover. -/
theorem bytesKept_pushWrite (s : State) (w : PWrite) (hw : w.level = 0) :
    BytesKept s (pushWrite s w) fun a => ¬ (w.addr ≤ a ∧ a < w.addr + w.data.length) := by
  intro a ha
  refine ⟨by rw [mem_pushWrite s w hw], fun core warp key => ?_⟩
  rw [viewByte_pushWrite s w hw, if_neg]
  rintro ⟨hc, -⟩
  exact ha ((covers_iff w a).1 hc)

/-- The write of a plain store of a thread. -/
def plainWrite (s : State) (m : Member) (va : Nat) (data : List Byte) (ins : Nat) : PWrite :=
  { ctx := (warpOf s m.warp).ctx, warp := m.warp, pcore := coreOfWarp s m.warp, part := partOfWarp s m.warp, lane := m.lane,
    level := 0, addr := physOf (pageFor s m va) va, data := data, key := (pageFor s m va).key, uncached := (pageFor s m va).uncached,
    ins := ins }

theorem storeGlobal_plain (s : State) (m : Member) (va : Nat) (data : List Byte) (ins : Nat) (hh : (thrOf s m).helper = false)
    (hr : isRedun s m.warp = false) (hd : detShared s m.warp va = false) :
    storeGlobal s m va data ins = pushWrite s (plainWrite s m va data ins) := by
  unfold storeGlobal
  simp only [hh, hr, hd, Bool.false_eq_true, if_false]
  rfl

end Sys2Proof.Machine

section
open Sys2Proof Sys2Proof.Machine

/-- Settles O24: the store enters its warp's queue, where it is the nearest write of its bytes. -/
theorem storeThenLoad : Obligations.StoreThenLoad := by
  intro s m va ins data hh hr hd
  dsimp only
  rw [storeGlobal_plain s m va data ins hh hr hd]
  refine ⟨fun k hk => ?_, bytesKept_pushWrite s _ rfl, mem_pushWrite s _ rfl, sameRegisters_of_warps (warps_pushWrite s _ rfl)⟩
  rw [viewByte_pushWrite _ _ rfl, if_pos ⟨(covers_iff _ _).2 ⟨Nat.le_add_right _ _, Nat.add_lt_add_left hk _⟩, rfl, rfl⟩]
  refine (if_pos rfl).trans ?_
  exact congrArg (data.getD · 0) (Nat.add_sub_cancel_left ..)

end

/-! ## Global stores and release stores (O23) -/

namespace Sys2Proof.Machine

/-! ### States that differ in traces and in stores on their way -/

/-- Two states differ in traces, and in the writes on their way with their identifiers; no audit record has been appended, and no home has
changed. -/
structure StoreFrame (s u : State) : Prop where
  trace : TraceFrame s { u with writes := s.writes, nextId := s.nextId }
  ctxs : u.ctxs = s.ctxs
  mem : u.mem = s.mem
  lineKey : u.lineKey = s.lineKey

theorem StoreFrame.refl (s : State) : StoreFrame s s := ⟨.refl s, rfl, rfl, rfl⟩

theorem StoreFrame.trans {s t u : State} (h : StoreFrame s t) (k : StoreFrame t u) : StoreFrame s u := by
  refine ⟨⟨?_⟩, k.ctxs.trans h.ctxs, k.mem.trans h.mem, k.lineKey.trans h.lineKey⟩
  have hk := congrArg (fun v : State => { v with writes := s.writes, nextId := s.nextId }) k.trace.same
  exact Eq.trans hk h.trace.same

/-- What reads no trace, no write and no identifier is the same in both states. -/
theorem StoreFrame.read {s u : State} (h : StoreFrame s u) {β : Type} (f : State → β) (ht : ∀ v, f (traceless v) = f v)
    (hw : ∀ (v : State) (w : Tbl PWrite) (n : Nat), f { v with writes := w, nextId := n } = f v) : f u = f s := by
  rw [← hw u s.writes s.nextId]
  exact h.trace.read f ht

theorem StoreFrame.wgs {s u : State} (h : StoreFrame s u) : u.wgs = s.wgs := h.read State.wgs (fun _ => rfl) fun _ _ _ => rfl
theorem StoreFrame.loads {s u : State} (h : StoreFrame s u) : u.loads = s.loads := h.read State.loads (fun _ => rfl) fun _ _ _ => rfl
theorem StoreFrame.pkgs {s u : State} (h : StoreFrame s u) : u.pkgs = s.pkgs := h.read State.pkgs (fun _ => rfl) fun _ _ _ => rfl
theorem StoreFrame.wgOfWarp {s u : State} (h : StoreFrame s u) (w : Nat) : wgOfWarp u w = wgOfWarp s w := h.trace.wgOfWarp w
theorem StoreFrame.isRedun {s u : State} (h : StoreFrame s u) (w : Nat) : isRedun u w = isRedun s w := h.trace.isRedun w
theorem StoreFrame.thrOf {s u : State} (h : StoreFrame s u) (m : Member) : thrOf u m = thrOf s m := h.trace.thrOf m
theorem StoreFrame.coreOfWarp {s u : State} (h : StoreFrame s u) (w : Nat) : coreOfWarp u w = coreOfWarp s w := h.trace.coreOfWarp w
theorem StoreFrame.sameRegisters {s u : State} (h : StoreFrame s u) : SameRegisters s u :=
  sameRegisters_trans h.trace.sameRegisters (sameRegisters_of_warps rfl)

theorem storeFrame_pushWrite (s : State) (w : PWrite) (hw : w.level = 0) : StoreFrame s (pushWrite s w) := by
  rw [pushWrite_own s w hw]
  exact ⟨.refl s, rfl, rfl, rfl⟩

theorem ctxs_fillClr (s : State) (part ident tag : Nat) : (fillClr s part ident tag).ctxs = s.ctxs := by unfold fillClr; split <;> rfl
theorem mem_fillClr (s : State) (part ident tag : Nat) : (fillClr s part ident tag).mem = s.mem := by unfold fillClr; split <;> rfl
theorem lineKey_fillClr (s : State) (part ident tag : Nat) : (fillClr s part ident tag).lineKey = s.lineKey := by
  unfold fillClr; split <;> rfl

/-- The trace of a store's access is that of its translation alone. -/
theorem storeFrame_accessTrace (s : State) (m : Member) (va kind : Nat) : StoreFrame s (accessTrace s m va .store kind) := by
  have htr := traceFrame_accessTrace s m va .store kind
  have hw : (accessTrace s m va .store kind).writes = s.writes := htr.read State.writes fun _ => rfl
  have hn : (accessTrace s m va .store kind).nextId = s.nextId := htr.read State.nextId fun _ => rfl
  have hkept : (accessTrace s m va .store kind).ctxs = s.ctxs ∧ (accessTrace s m va .store kind).mem = s.mem ∧
      (accessTrace s m va .store kind).lineKey = s.lineKey := by
    unfold accessTrace
    dsimp only
    split
    · exact ⟨rfl, rfl, rfl⟩
    · rw [if_neg (fun h => Need.noConfusion h.1), ctxs_fillClr, mem_fillClr, lineKey_fillClr]
      exact ⟨rfl, rfl, rfl⟩
  obtain ⟨hc, hm, hl⟩ := hkept
  refine ⟨?_, hc, hm, hl⟩
  rw [← hw, ← hn]
  exact htr

/-! ### Bytes outside the stores -/

theorem bytesKept_trans {s t u : State} {p q : Nat → Prop} (h : BytesKept s t p) (k : BytesKept t u q) :
    BytesKept s u fun a => p a ∧ q a := by
  intro a ha
  obtain ⟨h1, h2⟩ := h a ha.1
  obtain ⟨k1, k2⟩ := k a ha.2
  exact ⟨k1.trans h1, fun core warp key => (k2 core warp key).trans (h2 core warp key)⟩

theorem bytesKept_mono {s u : State} {p q : Nat → Prop} (h : BytesKept s u p) (hpq : ∀ a, q a → p a) : BytesKept s u q :=
  fun a ha => h a (hpq a ha)

/-- Traces alone leave every byte. -/
theorem StoreFrame.bytesKept {s u : State} (h : StoreFrame s u) (hw : u.writes = s.writes) : BytesKept s u fun _ => True := by
  intro a _
  refine ⟨by rw [h.mem], fun core warp key => ?_⟩
  have hh : homeByte u a key = homeByte s a key := by
    unfold homeByte underKey keyBytes pkgAt
    rw [h.mem, h.lineKey, h.pkgs]
  rw [viewByte, viewByte, hw, hh]

/-! ### The translation of a store does not depend on the stores before it -/

theorem walk_writes (s : State) (w : Tbl PWrite) (n pkg va k tbl : Nat) (bad : Bool) :
    walk { s with writes := w, nextId := n } pkg va k tbl bad = walk s pkg va k tbl bad := by
  induction k generalizing tbl bad with
  | zero => rfl
  | succ k ih =>
    unfold walk
    simp only [ih]
    rfl

theorem pageFor_writes (s : State) (w : Tbl PWrite) (n : Nat) (m : Member) (va : Nat) :
    pageFor { s with writes := w, nextId := n } m va = pageFor s m va := by
  have hleaf : ∀ part, leafOf { s with writes := w, nextId := n } part va = leafOf s part va := fun part => by
    unfold leafOf
    rw [walk_writes]
    rfl
  unfold pageFor pageOf
  rw [hleaf]
  rfl

theorem pageFor_pushWrite (s : State) (x : PWrite) (hx : x.level = 0) (m : Member) (va : Nat) :
    pageFor (pushWrite s x) m va = pageFor s m va := by
  rw [pushWrite_own s x hx, pageFor_writes]

/-! ### The halves of a store (R104) -/

/-- A store off the shared lines of deterministic grids leaves every byte that it does not store. -/
theorem storeGlobal_keeps (s : State) (m : Member) (va : Nat) (data : List Byte) (ins : Nat) (hr : isRedun s m.warp = false)
    (hd : detShared s m.warp va = false) :
    StoreFrame s (storeGlobal s m va data ins) ∧ (∀ n va', pageFor (storeGlobal s m va data ins) n va' = pageFor s n va') ∧
      BytesKept s (storeGlobal s m va data ins) fun a =>
        ¬ (physOf (pageFor s m va) va ≤ a ∧ a < physOf (pageFor s m va) va + data.length) := by
  cases hh : (thrOf s m).helper with
  | true =>
    have hs : storeGlobal s m va data ins = s := by simp [storeGlobal, hh]
    rw [hs]
    exact ⟨.refl s, fun _ _ => rfl, bytesKept_mono ((StoreFrame.refl s).bytesKept rfl) fun _ _ => trivial⟩
  | false =>
    rw [storeGlobal_plain s m va data ins hh hr hd]
    exact ⟨storeFrame_pushWrite s _ rfl, pageFor_pushWrite s _ rfl, bytesKept_pushWrite s _ rfl⟩

/-- Byte a is byte k of a store to some address: the halves of a 16-byte store are translated apart. -/
def halfByte (s : State) (m : Member) (va k a : Nat) : Prop :=
  a = physOf (pageFor s m (va + k / 8 * 8)) (va + k / 8 * 8) + k % 8

theorem halfByte_low {s : State} {m : Member} {va a n : Nat} (hn : n ≤ 8) (h : ∀ k < n, ¬ halfByte s m va k a) :
    ¬ (physOf (pageFor s m va) va ≤ a ∧ a < physOf (pageFor s m va) va + n) := by
  rintro ⟨h1, h2⟩
  refine h (a - physOf (pageFor s m va) va) (by omega) ?_
  have h0 : (a - physOf (pageFor s m va) va) / 8 * 8 = 0 := by omega
  rw [halfByte, h0, Nat.add_zero]
  omega

theorem halfByte_high {s : State} {m : Member} {va a n : Nat} (hn : n ≤ 8) (h : ∀ k < 8 + n, ¬ halfByte s m va k a) :
    ¬ (physOf (pageFor s m (va + 8)) (va + 8) ≤ a ∧ a < physOf (pageFor s m (va + 8)) (va + 8) + n) := by
  rintro ⟨h1, h2⟩
  refine h (8 + (a - physOf (pageFor s m (va + 8)) (va + 8))) (by omega) ?_
  have h8 : (8 + (a - physOf (pageFor s m (va + 8)) (va + 8))) / 8 * 8 = 8 := by omega
  rw [halfByte, h8]
  omega

theorem storeHalves_keeps (s : State) (m : Member) (va : Nat) (data : List Byte) (ins : Nat) (hlen : data.length ≤ 16)
    (hr : isRedun s m.warp = false) (hd : ∀ h < 2, 8 * h < data.length → detShared s m.warp (va + 8 * h) = false)
    (hne : 0 < data.length) :
    StoreFrame s (storeHalves s m va data ins) ∧
      BytesKept s (storeHalves s m va data ins) fun a => ∀ k < data.length, ¬ halfByte s m va k a := by
  have hd0 : detShared s m.warp va = false := hd 0 (by decide) hne
  unfold storeHalves
  split
  · next h8 =>
    obtain ⟨hf, hp, hk⟩ := storeGlobal_keeps s m va (data.take 8) ins hr hd0
    set t := storeGlobal s m va (data.take 8) ins
    have hd1 : detShared t m.warp (va + 8) = false := by
      rw [← hd 1 (by decide) (by omega)]
      exact hf.trace.detShared m.warp (va + 8)
    obtain ⟨hf', -, hk'⟩ := storeGlobal_keeps t m (va + 8) (data.drop 8) ins ((hf.isRedun m.warp).trans hr) hd1
    refine ⟨hf.trans hf', bytesKept_mono (bytesKept_trans hk hk') fun a ha => ⟨?_, ?_⟩⟩
    · refine halfByte_low ?_ fun k hk => ha k ?_
      · simp
      · simp at hk
        omega
    · rw [hp]
      refine halfByte_high ?_ fun k hk => ha k ?_
      · simp
        omega
      · simp at hk
        omega
  · next h8 =>
    obtain ⟨hf, -, hk⟩ := storeGlobal_keeps s m va data ins hr hd0
    exact ⟨hf, bytesKept_mono hk fun a ha => halfByte_low (by omega) ha⟩

/-! ### The stores of an instruction -/

theorem length_leBytes (n v : Nat) : (leBytes n v).length = n := by
  induction n generalizing v with
  | zero => rfl
  | succ n ih => rw [leBytes, List.length_cons, ih]

theorem length_bytesOf (v : Val) (n : Nat) : (bytesOf v n).length = n := length_leBytes n v.toNat

theorem storeAll_keeps (addr : Src → Nat) (n ins : Nat) (h0 : 0 < n) (h16 : n ≤ 16) (l : List (Member × Src)) (s : State)
    (hr : ∀ e ∈ l, isRedun s e.1.warp = false) (hp : Claims.PlainStores addr n ins s l) :
    StoreFrame s (Claims.storeAll addr n ins s l) ∧
      BytesKept s (Claims.storeAll addr n ins s l) fun a => ¬ Claims.StoredAt addr n ins s l a := by
  induction l generalizing s with
  | nil => exact ⟨.refl s, bytesKept_mono ((StoreFrame.refl s).bytesKept rfl) fun _ _ => trivial⟩
  | cons e t ih =>
    obtain ⟨hdet, hrest⟩ := hp
    have hf1 := storeFrame_accessTrace s e.1 (addr e.2) 0
    have hw1 : (accessTrace s e.1 (addr e.2) .store 0).writes = s.writes := (traceFrame_accessTrace ..).read State.writes fun _ => rfl
    have hk1 := hf1.bytesKept hw1
    set s1 := accessTrace s e.1 (addr e.2) .store 0 with hs1
    have hlen := length_bytesOf e.2.d n
    obtain ⟨hf2, hk2⟩ := storeHalves_keeps s1 e.1 (addr e.2) (bytesOf e.2.d n) ins (by omega)
      ((hf1.isRedun _).trans (hr e (List.mem_cons_self ..))) (by rwa [hlen]) (by omega)
    have hf := hf1.trans hf2
    obtain ⟨hf3, hk3⟩ := ih _ (fun x hx => (hf.isRedun _).trans (hr x (List.mem_cons_of_mem _ hx))) hrest
    refine ⟨hf.trans hf3, bytesKept_mono (bytesKept_trans (bytesKept_trans hk1 hk2) hk3) fun a ha => ⟨⟨trivial, ?_⟩, ?_⟩⟩
    · intro k hk hb
      exact ha (Or.inl ⟨k, by rwa [hlen] at hk, hb⟩)
    · exact fun h => ha (Or.inr h)

/-! ### Global stores (R100, R103) -/

theorem sum_toNat (a : Pair) (d : Int) : (a + BitVec.ofInt 64 d).toNat = Claims.sumAddr a d := by
  rw [Claims.sumAddr, BitVec.toNat_add, BitVec.toNat_ofInt]
  have ha := a.isLt
  omega

theorem addrB_eq (x : Src) : addrB x = Claims.offAddr x := sum_toNat _ _

theorem addrI_eq (i : BitVec 9) (x : Src) : addrI i x = Claims.immAddr i x := by
  rw [addrI, BitVec.signExtend, shiftLeft_eq_ofInt, sum_toNat]
  rfl

/-- The check of a store of n bytes, and the stores of its members in lane order. -/
def globalStoreFail (i : Instr) (addr : Src → Nat) (n : Nat) (s : State) (m : Member) (x : Src) : Option Fail :=
  storeFail s m (addr x) n (logBefore s i (fun y z => logUnits s y (addr z) n) m)

theorem exec_globalStore {i : Instr} {addr : Src → Nat} {n : Nat} (h : Claims.StoreForm i addr n) (s : State) :
    exec i s = groupOp i (.hold ((n + 7) / 8)) laterWait (globalStoreFail i addr n)
      (fun s _ l => (Claims.storeAll addr n s.nextId s l, [])) s := by
  have of_addr : ∀ a : Src → Nat, exec i s = storeOp i a n s → (∀ x, a x = addr x) → exec i s = storeOp i addr n s :=
    fun a he ha => by rw [he, funext ha]
  cases h with
  | stB32 p d a j => exact of_addr (addrI j) rfl (addrI_eq j)
  | stB64 | stB128 | stB8 | stB16 => exact of_addr addrB rfl addrB_eq

theorem storeForm_size {i : Instr} {addr : Src → Nat} {n : Nat} (h : Claims.StoreForm i addr n) : 0 < n ∧ n ≤ 16 := by
  cases h <;> decide

/-- R100, R103: the stores are on their way, and no byte but theirs reads otherwise. -/
theorem globalStores : Claims.GlobalStores := by
  intro i addr n h s g hr hw hf
  obtain ⟨h0, h16⟩ := storeForm_size h
  refine ⟨?_, fun hp => ?_⟩
  · rw [exec_globalStore h]
    exact groupOp_plain i _ laterWait (globalStoreFail i addr n) (fun s _ l => (Claims.storeAll addr n s.nextId s l, [])) s g hr.cur hr.plain
      hr.ops (fun m hm => laterWait_eq_none (hw m hm)) hf rfl
  · have hplain : ∀ e ∈ Claims.acts s g i, isRedun (noted s g i) e.1.warp = false := by
      intro e he
      obtain ⟨m, hm, rfl⟩ := List.mem_map.mp he
      exact ((traceFrame_noted s g i).isRedun m.warp).trans (hr.plain m (List.mem_filter.1 hm).1)
    obtain ⟨hframe, hkept⟩ := storeAll_keeps addr n (noted s g i).nextId h0 h16 _ _ hplain hp
    refine ⟨sameRegisters_trans (sameRegisters_noted s g i) hframe.sameRegisters, hframe.wgs.trans (wgs_noted s g i),
      hframe.loads.trans ((traceFrame_noted s g i).read State.loads fun _ => rfl), fun hseq => ?_⟩
    have hnoted : BytesKept s (noted s g i) fun _ => True := (auditFrame_noted s g i).memoryKept fun c => by
      rw [← hseq c, ctxOf, ctxOf, hframe.ctxs]
    exact bytesKept_mono (bytesKept_trans hnoted hkept) fun a ha => ⟨trivial, ha⟩

/-! ### Release stores (R221) -/

/-- The release stores of some members in lane order; they share an identifier. -/
def releaseAll (sc n ins : Nat) (s : State) (l : List (Member × Src)) : State :=
  l.foldl (fun v e => storeRelease (accessTrace v e.1 (Claims.atomVa e.2) .store 0) e.1 sc (Claims.atomVa e.2) (bytesOf e.2.d n) ins) s

theorem exec_releaseStore {i : Instr} {sc : BitVec 3} {n : Nat} (h : Claims.ReleaseStore i sc n) (s : State) :
    exec i s = groupOpE i .cmp (fun _ _ x => storeEntries (Claims.atomVa x) (bytesOf x.d n)) laterWait (globalStoreFail i Claims.atomVa n)
      (fun s _ l => (releaseAll sc.toNat n s.nextId s l, [])) s := by
  cases h <;> rfl

/-- The write of a release store of a thread. -/
def releaseWrite (s : State) (m : Member) (scope va : Nat) (data : List Byte) (ins : Nat) : PWrite :=
  { plainWrite s m va data ins with rel := some (levelOf scope) }

theorem storeRelease_plain (s : State) (m : Member) (scope va : Nat) (data : List Byte) (ins : Nat) (hh : (thrOf s m).helper = false)
    (hr : isRedun s m.warp = false) (hd : detShared s m.warp va = false) :
    storeRelease s m scope va data ins = pushWrite s (releaseWrite s m scope va data ins) := by
  unfold storeRelease
  simp only [hh, takesForward, hr, hd, Bool.false_eq_true, if_false, Bool.false_and, Bool.or_self]
  rfl

/-- R221: the write carries the level of its scope. -/
theorem releaseStores : Claims.ReleaseStores := by
  intro i sc n h s g hr hw hf
  refine ⟨?_, fun v m va ins data hh hred hd => ?_⟩
  · rw [exec_releaseStore h]
    exact groupOpE_plain i .cmp (fun _ _ x => storeEntries (Claims.atomVa x) (bytesOf x.d n)) laterWait (globalStoreFail i Claims.atomVa n)
      (fun s _ l => (releaseAll sc.toNat n s.nextId s l, [])) s g hr.cur hr.plain hr.ops (fun m hm => laterWait_eq_none (hw m hm)) hf rfl
  · rw [storeRelease_plain v m sc.toNat va data ins hh hred hd, pushWrite_own v _ rfl]
    exact ⟨_, rfl, rfl, rfl, rfl, rfl, rfl, rfl, rfl, rfl, rfl⟩

end Sys2Proof.Machine

section
open Sys2Proof Sys2Proof.Machine

/-- Settles O23: the plain stores, and those with release strength. -/
theorem storesAndReleases : Obligations.StoresAndReleases := ⟨globalStores, releaseStores⟩

end

/-! ## Scratchpad accesses (O25) -/

namespace Sys2Proof.Machine

/-! ### The scratchpad as a warp sees it (R105, R203) -/

/-- One byte of its scratchpad as a warp sees it. -/
def scrByte (s : State) (w o : Nat) : Byte :=
  match nearest s.writes (coreOfWarp s w) w (scrAddr s w o) none with
  | some x => x.data.getD (scrAddr s w o - x.addr) 0
  | none => bmGet (wgOfWarp s w).scr o

theorem readScr_eq (s : State) (w off n : Nat) : readScr s w off n = (List.range n).map fun k => scrByte s w (off + k) := rfl

theorem StoreFrame.scrAddr {s u : State} (h : StoreFrame s u) (w off : Nat) : scrAddr u w off = scrAddr s w off := by
  simp only [Machine.scrAddr, h.wgOfWarp, h.coreOfWarp]

theorem TraceFrame.scrByte {s u : State} (h : TraceFrame s u) (w o : Nat) : scrByte u w o = scrByte s w o := by
  have ha : Machine.scrAddr u w o = Machine.scrAddr s w o := by simp only [Machine.scrAddr, h.wgOfWarp, h.coreOfWarp]
  have hw : u.writes = s.writes := h.read State.writes fun _ => rfl
  simp only [Machine.scrByte, ha, hw, h.wgOfWarp, h.coreOfWarp]

theorem TraceFrame.readScr {s u : State} (h : TraceFrame s u) (w off n : Nat) : readScr u w off n = readScr s w off n := by
  simp only [readScr_eq, h.scrByte]

/-! ### Scratchpad loads (R101, R105) -/

/-- What a scratchpad load enters. -/
def scratchIssue (i : Instr) (s : State) (g : Group) (vals : List (Member × Val)) : State :=
  issueLong s g (vals.map (·.1)) fun w => { writes := regWrites s (shapeOf i).d w vals, load := true, part := partOfWarp s w }

theorem exec_scratchLoad {i : Instr} {n : Nat} (h : Claims.ScratchLoad i n) (s : State) :
    exec i s = groupOp i .own laterWait (fun s m x => scrLoadFail s m (addrS x) n)
      (fun s g l => (scratchIssue i s g (l.map fun e => (e.1, scrRead s e.1 (addrS e.2) n)), [])) s := by
  cases h <;> rfl

theorem scrRead_eq (s : State) (m : Member) (off n : Nat) :
    scrRead s m off n = if scrLoadFail s m off n = none then valOf (readScr s m.warp off n) else 0 := by
  unfold scrRead
  cases scrLoadFail s m off n <;> rfl

/-- R101, R105: each member receives the bytes of its own scratchpad. -/
theorem scratchpadLoads : Claims.ScratchpadLoads := by
  intro i n h s g hr hw hf
  have h0 := traceFrame_noted s g i
  have hrun := groupOp_plain i .own laterWait (fun s m x => scrLoadFail s m (addrS x) n)
    (fun s g l => (scratchIssue i s g (l.map fun e => (e.1, scrRead s e.1 (addrS e.2) n)), [])) s g hr.cur hr.plain hr.ops
    (fun m hm => laterWait_eq_none (hw m hm)) (fun m hm hh => by simpa only [addrS_eq] using hf m hm hh) rfl
  have hvals : ((actors s g i).map fun m => (m, sources s g i m)).map (fun e => (e.1, scrRead (noted s g i) e.1 (addrS e.2) n)) =
      (actors s g i).map fun m => (m, if scrLoadFail (noted s g i) m (Claims.wordOff (sources s g i m)) n = none then
        valOf (readScr s m.warp (Claims.wordOff (sources s g i m)) n) else 0) := by
    rw [List.map_map]
    refine List.map_congr_left fun m _ => ?_
    simp only [Function.comp, addrS_eq, scrRead_eq, h0.readScr]
  set vals := (actors s g i).map fun m => (m, if scrLoadFail (noted s g i) m (Claims.wordOff (sources s g i m)) n = none then
        valOf (readScr s m.warp (Claims.wordOff (sources s g i m)) n) else 0) with hdef
  have hfst : vals.map (·.1) = actors s g i := by
    rw [hdef, List.map_map]
    exact List.map_id _
  have hissue : scratchIssue i (noted s g i) g vals = issueLong (noted s g i) g (actors s g i) fun w =>
      { writes := regWrites s (shapeOf i).d w vals, load := true, part := partOfWarp s w } := by
    unfold scratchIssue
    rw [hfst]
    simp only [regWrites_congr h0.thrOf, h0.partOfWarp]
  refine ⟨scratchIssue i (noted s g i) g vals, ?_, ?_, ?_, ?_⟩
  · rw [exec_scratchLoad h, hrun, ← hvals]
  · rw [hissue]
    exact longIssued_issueLong h0 g _ _
  · rw [hissue, (issueFrame_issueLong ..).read State.wgs fun _ _ _ _ => rfl, wgs_noted]
  · rw [hissue]
    exact ((auditFrame_noted s g i).trans (issueFrame_issueLong ..).auditFrame).memoryKept

/-! ### Scratchpad stores (R103, R105, R203) -/

/-- The write of a scratchpad store of a thread. -/
def scratchWrite (s : State) (m : Member) (off : Nat) (data : List Byte) (ins : Nat) : PWrite :=
  { ctx := (warpOf s m.warp).ctx, warp := m.warp, pcore := coreOfWarp s m.warp, part := partOfWarp s m.warp, lane := m.lane,
    level := 0, addr := scrAddr s m.warp off, data := data, ins := ins, scr := true }

theorem storeScr_helper (s : State) (m : Member) (off : Nat) (data : List Byte) (ins : Nat) (hh : (thrOf s m).helper = true) :
    storeScr s m off data ins = s := by simp [storeScr, hh]

theorem storeScr_plain (s : State) (m : Member) (off : Nat) (data : List Byte) (ins : Nat) (hh : (thrOf s m).helper = false)
    (hr : isRedun s m.warp = false) : storeScr s m off data ins = pushWrite s (scratchWrite s m off data ins) := by
  unfold storeScr
  simp only [hh, hr, Bool.false_eq_true, if_false]
  rfl

theorem storeFrame_storeScr (s : State) (m : Member) (off : Nat) (data : List Byte) (ins : Nat) (hr : isRedun s m.warp = false) :
    StoreFrame s (storeScr s m off data ins) := by
  cases hh : (thrOf s m).helper with
  | true => rw [storeScr_helper s m off data ins hh]; exact .refl s
  | false => rw [storeScr_plain s m off data ins hh hr]; exact storeFrame_pushWrite s _ rfl

theorem scrByte_pushWrite (s : State) (x : PWrite) (hx : x.level = 0) (w o : Nat) :
    scrByte (pushWrite s x) w o =
      if covers x (scrAddr s w o) = true ∧ x.warp = w ∧ x.pcore = coreOfWarp s w then x.data.getD (scrAddr s w o - x.addr) 0
      else scrByte s w o := by
  have hf := storeFrame_pushWrite s x hx
  rw [scrByte, hf.coreOfWarp, hf.scrAddr, nearest_pushWrite s x hx, hf.wgOfWarp]
  by_cases hc : covers x (scrAddr s w o) = true ∧ x.warp = w ∧ x.pcore = coreOfWarp s w
  · rw [if_pos hc, if_pos hc]
  · rw [if_neg hc, if_neg hc, scrByte]

/-- The bytes of an aligned access lie in one bank. -/
theorem scrAddr_add (s : State) (w off n k : Nat) (hn : n = 4 ∨ n = 8) (ha : off % n = 0) (hk : k < n) :
    scrAddr s w (off + k) = scrAddr s w off + k := by
  have hbank : (off + k) / 4096 = off / 4096 := by rcases hn with rfl | rfl <;> omega
  have hoff : (off + k) % 4096 = off % 4096 + k := by rcases hn with rfl | rfl <;> omega
  simp only [scrAddr, lsAddr, gpOf, hbank, hoff]
  omega

theorem getD_leBytes (n v k : Nat) (hk : k < n) : (leBytes n v).getD k 0 = BitVec.ofNat 8 (v / 256 ^ k) := by
  induction n generalizing v k with
  | zero => omega
  | succ n ih =>
    cases k with
    | zero => simp [leBytes]
    | succ k => rw [leBytes, List.getD_cons_succ, ih _ _ (by omega), Nat.div_div_eq_div_mul, Nat.pow_succ']

theorem getD_bytesOf (v : Val) (n k : Nat) (hk : k < n) : (bytesOf v n).getD k 0 = v.extractLsb' (8 * k) 8 := by
  apply BitVec.eq_of_toNat_eq
  rw [bytesOf, getD_leBytes _ _ _ hk, BitVec.extractLsb'_toNat, Nat.shiftRight_eq_div_pow, BitVec.toNat_ofNat,
    show 256 = 2 ^ 8 from rfl, ← Nat.pow_mul]

/-- What one member's store changes of the scratchpad of a warp. -/
theorem scrByte_storeScr (s : State) (m : Member) (off n ins w o : Nat) (v : Val) (hn : n = 4 ∨ n = 8) (hr : isRedun s m.warp = false)
    (hchk : (thrOf s m).helper = false → off % n = 0 ∧ off + n ≤ (khdrOfWarp s m.warp).scratch) (hp : Claims.ScratchPlaced s w)
    (ho : o < (khdrOfWarp s w).scratch) :
    scrByte (storeScr s m off (bytesOf v n) ins) w o =
      if (thrOf s m).helper = false ∧ m.warp = w ∧ off ≤ o ∧ o < off + n then v.extractLsb' (8 * (o - off)) 8 else scrByte s w o := by
  cases hh : (thrOf s m).helper with
  | true =>
    rw [storeScr_helper s m off _ ins hh]
    exact (if_neg (fun h => Bool.noConfusion h.1)).symm
  | false =>
    obtain ⟨ha, hb⟩ := hchk hh
    rw [storeScr_plain s m off _ ins hh hr, scrByte_pushWrite _ _ rfl]
    simp only [covers_iff]
    show (if (scrAddr s m.warp off ≤ scrAddr s w o ∧ scrAddr s w o < scrAddr s m.warp off + (bytesOf v n).length) ∧ m.warp = w ∧
      coreOfWarp s m.warp = coreOfWarp s w then (bytesOf v n).getD (scrAddr s w o - scrAddr s m.warp off) 0 else scrByte s w o) = _
    simp only [length_bytesOf]
    by_cases hw : m.warp = w
    · subst hw
      by_cases hin : off ≤ o ∧ o < off + n
      · have hadd := scrAddr_add s m.warp off n (o - off) hn ha (by omega)
        rw [Nat.add_sub_cancel' hin.1] at hadd
        rw [if_pos ⟨⟨by omega, by omega⟩, rfl, rfl⟩, if_pos ⟨trivial, rfl, hin⟩, hadd, Nat.add_sub_cancel_left, getD_bytesOf _ _ _ (by omega)]
      · rw [if_neg, if_neg (fun h => hin h.2.2)]
        rintro ⟨⟨h1, h2⟩, -⟩
        have hadd := scrAddr_add s m.warp off n (scrAddr s m.warp o - scrAddr s m.warp off) hn ha (by omega)
        have heq := hp o (off + (scrAddr s m.warp o - scrAddr s m.warp off)) ho (by omega) (by omega)
        exact hin ⟨by omega, by omega⟩
    · rw [if_neg (fun h => hw h.2.1), if_neg (fun h => hw h.2.1)]

/-- The stores of some members in lane order. -/
def scratchStoreAll (n ins : Nat) (s : State) (l : List (Member × Src)) : State :=
  l.foldl (fun v e => storeScr v e.1 (Claims.wordOff e.2) (bytesOf e.2.d n) ins) s

theorem exec_scratchStore {i : Instr} {n : Nat} (h : Claims.ScratchStore i n) (s : State) :
    exec i s = groupOp i .own laterWait (fun s m x => scrFail s m (addrS x) n)
      (fun s _ l => (scratchStoreAll n s.nextId s l, [])) s := by
  cases h <;> rfl

theorem scratchStore_size {i : Instr} {n : Nat} (h : Claims.ScratchStore i n) : n = 4 ∨ n = 8 := by
  cases h with
  | stsB32 => exact .inl rfl
  | stsB64 => exact .inr rfl

theorem scrFail_eq_none {s : State} {m : Member} {off n : Nat} (ha : off % n = 0) (hb : off + n ≤ (khdrOfWarp s m.warp).scratch) :
    scrFail s m off n = none := by
  rw [scrFail, if_neg (not_not.2 ha), if_neg (Nat.not_lt.2 hb)]

/-- These stores are of warps without replicas and pass their checks (R103). -/
def ScratchStorable (n : Nat) (s : State) (l : List (Member × Src)) : Prop :=
  ∀ e ∈ l, isRedun s e.1.warp = false ∧ ((thrOf s e.1).helper = false →
    Claims.wordOff e.2 % n = 0 ∧ Claims.wordOff e.2 + n ≤ (khdrOfWarp s e.1.warp).scratch)

theorem ScratchStorable.of_storeFrame {n : Nat} {s u : State} {l : List (Member × Src)} (h : ScratchStorable n s l) (hf : StoreFrame s u) :
    ScratchStorable n u l := by
  unfold ScratchStorable khdrOfWarp
  simp only [hf.isRedun, hf.thrOf, hf.wgOfWarp]
  exact h

theorem StoreFrame.scratchPlaced {s u : State} (h : StoreFrame s u) {w : Nat} (hp : Claims.ScratchPlaced s w) : Claims.ScratchPlaced u w := by
  unfold Claims.ScratchPlaced khdrOfWarp
  simp only [h.scrAddr, h.wgOfWarp]
  exact hp

theorem storeFrame_scratchStoreAll {n : Nat} (ins : Nat) {s : State} {l : List (Member × Src)} (hl : ScratchStorable n s l) :
    StoreFrame s (scratchStoreAll n ins s l) := by
  induction l generalizing s with
  | nil => exact .refl s
  | cons e t ih =>
    have hstep := storeFrame_storeScr s e.1 (Claims.wordOff e.2) (bytesOf e.2.d n) ins (hl e List.mem_cons_self).1
    exact hstep.trans (ih (ScratchStorable.of_storeFrame (fun x hx => hl x (List.mem_cons_of_mem e hx)) hstep))

/-- One byte of its scratchpad as a warp sees it after one member's store. -/
def scratchStep (s : State) (w o n : Nat) (v : Byte) (e : Member × Src) : Byte :=
  if (thrOf s e.1).helper = false ∧ e.1.warp = w ∧ Claims.wordOff e.2 ≤ o ∧ o < Claims.wordOff e.2 + n then
    e.2.d.extractLsb' (8 * (o - Claims.wordOff e.2)) 8 else v

theorem scratchAfter_eq (s : State) (w o n : Nat) (l : List (Member × Src)) :
    Claims.scratchAfter s w o n l = l.foldl (scratchStep s w o n) (scrByte s w o) := rfl

theorem StoreFrame.scratchStep {s u : State} (h : StoreFrame s u) (w o n : Nat) : scratchStep u w o n = scratchStep s w o n := by
  funext v e
  simp only [Machine.scratchStep, h.thrOf]

/-- R104: the own warp sees the last store that covers a byte. -/
theorem scrByte_scratchStoreAll {n : Nat} (hn : n = 4 ∨ n = 8) (ins w o : Nat) {s : State} {l : List (Member × Src)}
    (hl : ScratchStorable n s l) (hp : Claims.ScratchPlaced s w) (ho : o < (khdrOfWarp s w).scratch) :
    scrByte (scratchStoreAll n ins s l) w o = l.foldl (scratchStep s w o n) (scrByte s w o) := by
  induction l generalizing s with
  | nil => rfl
  | cons e t ih =>
    obtain ⟨hr, hchk⟩ := hl e List.mem_cons_self
    have hstep := storeFrame_storeScr s e.1 (Claims.wordOff e.2) (bytesOf e.2.d n) ins hr
    have hhead := scrByte_storeScr s e.1 (Claims.wordOff e.2) n ins w o e.2.d hn hr hchk hp ho
    have htail := ih (ScratchStorable.of_storeFrame (fun x hx => hl x (List.mem_cons_of_mem e hx)) hstep) (hstep.scratchPlaced hp)
      (by rwa [khdrOfWarp, hstep.wgOfWarp])
    rw [hstep.scratchStep, hhead] at htail
    exact htail

/-- What a warp sees of its scratchpad does not depend on the stores of others (R105). -/
theorem scrByte_scratchStoreAll_other {n : Nat} (ins w o : Nat) {s : State} {l : List (Member × Src)} (hl : ScratchStorable n s l)
    (hw : ∀ e ∈ l, e.1.warp ≠ w) : scrByte (scratchStoreAll n ins s l) w o = scrByte s w o := by
  induction l generalizing s with
  | nil => rfl
  | cons e t ih =>
    obtain ⟨hr, -⟩ := hl e List.mem_cons_self
    have hstep := storeFrame_storeScr s e.1 (Claims.wordOff e.2) (bytesOf e.2.d n) ins hr
    have hhead : scrByte (storeScr s e.1 (Claims.wordOff e.2) (bytesOf e.2.d n) ins) w o = scrByte s w o := by
      cases hh : (thrOf s e.1).helper with
      | true => rw [storeScr_helper s _ _ _ _ hh]
      | false => rw [storeScr_plain s _ _ _ _ hh hr, scrByte_pushWrite _ _ rfl, if_neg fun h => hw e List.mem_cons_self h.2.1]
    exact (ih (ScratchStorable.of_storeFrame (fun x hx => hl x (List.mem_cons_of_mem e hx)) hstep)
      fun x hx => hw x (List.mem_cons_of_mem e hx)).trans hhead

/-- The bytes that these stores put on their way. -/
def ScratchStored (n : Nat) (s : State) (l : List (Member × Src)) (a : Nat) : Prop :=
  ∃ e ∈ l, ∃ k < n, a = scrAddr s e.1.warp (Claims.wordOff e.2) + k

theorem bytesKept_storeScr (s : State) (m : Member) (off n ins : Nat) (v : Val) (hr : isRedun s m.warp = false) :
    BytesKept s (storeScr s m off (bytesOf v n) ins) fun a => ¬ ∃ k < n, a = scrAddr s m.warp off + k := by
  cases hh : (thrOf s m).helper with
  | true =>
    rw [storeScr_helper s m _ _ _ hh]
    exact bytesKept_mono ((StoreFrame.refl s).bytesKept rfl) fun _ _ => trivial
  | false =>
    rw [storeScr_plain s m _ _ _ hh hr]
    refine bytesKept_mono (bytesKept_pushWrite s _ rfl) fun a ha ⟨hlo, hhi⟩ => ha ⟨a - scrAddr s m.warp off, ?_, ?_⟩
    · rw [scratchWrite, length_bytesOf] at hhi
      rw [scratchWrite] at hlo
      dsimp only at hlo hhi
      omega
    · exact (Nat.add_sub_cancel' hlo).symm

theorem bytesKept_scratchStoreAll {n : Nat} (ins : Nat) {s : State} {l : List (Member × Src)} (hl : ScratchStorable n s l) :
    BytesKept s (scratchStoreAll n ins s l) fun a => ¬ ScratchStored n s l a := by
  induction l generalizing s with
  | nil => exact bytesKept_mono ((StoreFrame.refl s).bytesKept rfl) fun _ _ => trivial
  | cons e t ih =>
    obtain ⟨hr, -⟩ := hl e List.mem_cons_self
    have hstep := storeFrame_storeScr s e.1 (Claims.wordOff e.2) (bytesOf e.2.d n) ins hr
    have htail := ih (ScratchStorable.of_storeFrame (fun x hx => hl x (List.mem_cons_of_mem e hx)) hstep)
    refine bytesKept_mono (bytesKept_trans (bytesKept_storeScr s e.1 (Claims.wordOff e.2) n ins e.2.d hr) htail) fun a ha => ⟨?_, ?_⟩
    · exact fun hk => ha ⟨e, List.mem_cons_self, hk⟩
    · rintro ⟨x, hx, k, hk, hax⟩
      rw [hstep.scrAddr] at hax
      exact ha ⟨x, List.mem_cons_of_mem e hx, k, hk, hax⟩

/-- R100, R103, R203: the stores enter the queues of their warps, where the own reads see them. -/
theorem scratchpadStores : Claims.ScratchpadStores := by
  intro i n h s g hr hw hf hplaced
  have hn := scratchStore_size h
  have h0 := traceFrame_noted s g i
  have hl : ScratchStorable n (noted s g i) (Claims.acts s g i) := by
    intro e he
    obtain ⟨m, hm, rfl⟩ := List.mem_map.mp he
    rw [h0.isRedun, h0.thrOf, khdrOfWarp, h0.wgOfWarp]
    exact ⟨hr.plain m (List.mem_filter.1 hm).1, hf m hm⟩
  have hrun := groupOp_plain i .own laterWait (fun s m x => scrFail s m (addrS x) n)
    (fun s _ l => (scratchStoreAll n s.nextId s l, [])) s g hr.cur hr.plain hr.ops (fun m hm => laterWait_eq_none (hw m hm))
    (fun m hm hh => by
      obtain ⟨ha, hb⟩ := hf m hm hh
      rw [addrS_eq]
      exact scrFail_eq_none ha hb) rfl
  have hframe := storeFrame_scratchStoreAll (noted s g i).nextId hl
  refine ⟨scratchStoreAll n (noted s g i).nextId (noted s g i) (Claims.acts s g i), (exec_scratchStore h s).trans hrun, ?_, ?_, ?_, ?_, ?_, ?_⟩
  · intro m hm o ho
    have hp : Claims.ScratchPlaced (noted s g i) m.warp := by
      unfold Claims.ScratchPlaced khdrOfWarp
      simp only [scrAddr, h0.wgOfWarp, h0.coreOfWarp]
      exact hplaced m hm
    have hstep : scratchStep (noted s g i) m.warp o n = scratchStep s m.warp o n := by
      funext v e
      simp only [scratchStep, h0.thrOf]
    rw [scratchAfter_eq, ← hstep, ← h0.scrByte,
      ← scrByte_scratchStoreAll hn (noted s g i).nextId m.warp o hl hp (by rwa [khdrOfWarp, h0.wgOfWarp])]
    rfl
  · intro w hother o k
    have hacts : ∀ e ∈ Claims.acts s g i, e.1.warp ≠ w := by
      intro e he
      obtain ⟨m, hm, rfl⟩ := List.mem_map.mp he
      exact hother m hm
    simp only [readScr_eq, scrByte_scratchStoreAll_other _ _ _ hl hacts, h0.scrByte]
  · exact hframe.wgs.trans (wgs_noted s g i)
  · exact sameRegisters_trans (sameRegisters_noted s g i) hframe.sameRegisters
  · exact hframe.loads.trans (h0.read State.loads fun _ => rfl)
  · intro hseq
    have hnoted : BytesKept s (noted s g i) fun _ => True := (auditFrame_noted s g i).memoryKept fun c => by
      rw [← hseq c, ctxOf, ctxOf, hframe.ctxs]
    refine bytesKept_mono (bytesKept_trans hnoted (bytesKept_scratchStoreAll (noted s g i).nextId hl)) fun a ha => ⟨trivial, ?_⟩
    rintro ⟨e, he, k, hk, hak⟩
    obtain ⟨m, hm, rfl⟩ := List.mem_map.mp he
    rw [scrAddr, h0.wgOfWarp, h0.coreOfWarp] at hak
    exact ha ⟨m, hm, k, hk, hak⟩

end Sys2Proof.Machine

section
open Sys2Proof Sys2Proof.Machine

/-- Settles O25: the loads, and the stores by induction over them in lane order. -/
theorem scratchpadAccesses : Obligations.ScratchpadAccesses := ⟨scratchpadLoads, scratchpadStores⟩

end


/-! ## Records bound, and operations that leave their engines (O44) -/

namespace Sys2Proof.Machine

/-! ### Records placed in their Gazetteer entries (R109, R116) -/

/-- What every step of a fold leaves, the fold leaves. -/
theorem foldl_keeps {β γ : Type} (r : State → γ) (f : State → β → State) (h : ∀ s x, r (f s x) = r s) (l : List β) (s : State) :
    r (l.foldl f s) = r s := by
  induction l generalizing s with
  | nil => rfl
  | cons x t ih => exact (ih _).trans (h s x)

/-- An entry that is listed is found under its key. -/
theorem isSome_tblGet?_of_mem {α : Type} {t : Tbl α} {e : Nat × α} (h : e ∈ t) : (tblGet? t e.1).isSome = true := by
  induction t with
  | nil => exact absurd h List.not_mem_nil
  | cons x t ih =>
    rw [tblGet?]
    split
    · rfl
    · next hx =>
      rcases List.mem_cons.1 h with rfl | h
      · exact absurd rfl hx
      · exact ih h

theorem ops_putHome (s : State) (a key : Nat) (data : List Byte) : (putHome s a key data).ops = s.ops := by
  have h := congrArg State.ops (homeFrame_putHome s a key data).rest
  exact h

/-- Where a part's Gazetteer table holds an entry. -/
def gazEntry (n : Nat) (p : Part) : Nat := gpOf p.pkg (p.gazbase.toNat / 2 ^ 17 * 2 ^ 17 % 2 ^ 51) + 32 * n

/-- A record placed for one part. -/
def bindRecord (n : Nat) (r : TRec) (s : State) (e : Nat × Part) : State :=
  putHome (updPart s e.1 fun p => { p with gaz := bmSet p.gaz n r }) (gazEntry n e.2) 0 (leBytes 32 r.toNat)

theorem putRecord_eq (s : State) (ctx n : Nat) (r : TRec) :
    putRecord s ctx n r = (s.parts.filter fun e => e.1 / 8192 == ctx).foldl (bindRecord n r) s := rfl

theorem parts_bindRecord (n : Nat) (r : TRec) (s : State) (e : Nat × Part) :
    (bindRecord n r s e).parts = tblUpd s.parts e.1 fun p => { p with gaz := bmSet p.gaz n r } := parts_putHome ..
theorem pkgs_bindRecord (n : Nat) (r : TRec) (s : State) (e : Nat × Part) : (bindRecord n r s e).pkgs = s.pkgs := pkgs_putHome ..
theorem warps_bindRecord (n : Nat) (r : TRec) (s : State) (e : Nat × Part) : (bindRecord n r s e).warps = s.warps := warps_putHome ..
theorem ops_bindRecord (n : Nat) (r : TRec) (s : State) (e : Nat × Part) : (bindRecord n r s e).ops = s.ops := ops_putHome ..

theorem isSome_part_bindRecord (n : Nat) (r : TRec) (s : State) (e : Nat × Part) (k : Nat) :
    (tblGet? (bindRecord n r s e).parts k).isSome = (tblGet? s.parts k).isSome := by
  rw [parts_bindRecord, tblGet?_tblUpd]
  split
  · exact Option.isSome_map
  · rfl

/-- R116: the entry in the hall caches of each part that is named. -/
theorem gaz_bindRecords (n : Nat) (r : TRec) (k j : Nat) (l : List (Nat × Part)) (s : State) (hk : (tblGet? s.parts k).isSome = true) :
    bmGet (partOf (l.foldl (bindRecord n r) s) k).gaz j =
      if (l.any fun e => e.1 == k) = true ∧ j = n then r else bmGet (partOf s k).gaz j := by
  induction l generalizing s with
  | nil => exact (if_neg fun h => Bool.noConfusion h.1).symm
  | cons e t ih =>
    have hhead : bmGet (partOf (bindRecord n r s e) k).gaz j = if e.1 = k ∧ j = n then r else bmGet (partOf s k).gaz j := by
      rw [partOf, parts_bindRecord, tblGet_tblUpd]
      by_cases he : e.1 = k
      · rw [if_pos ⟨he, hk⟩]
        dsimp only
        rw [bmGet_bmSet]
        simp [he, eq_comm, partOf]
      · rw [if_neg fun h => he h.1, if_neg fun h => he h.1]
        rfl
    rw [List.foldl_cons, ih _ (by rwa [isSome_part_bindRecord]), hhead]
    rw [List.any_cons]
    by_cases he : e.1 = k
    · rw [beq_iff_eq.2 he, Bool.true_or]
      by_cases hj : j = n
      · rw [if_pos (c := e.1 = k ∧ j = n) ⟨he, hj⟩, if_pos (c := true = true ∧ j = n) ⟨rfl, hj⟩, ite_self]
      · rw [if_neg fun h => hj h.2, if_neg fun h => hj h.2, if_neg fun h => hj h.2]
    · rw [if_neg fun h : e.1 = k ∧ j = n => he h.1, beq_false_of_ne he, Bool.false_or]

theorem partOf_bindRecords_other (n : Nat) (r : TRec) (k : Nat) (l : List (Nat × Part)) (s : State) (hk : ∀ e ∈ l, e.1 ≠ k) :
    partOf (l.foldl (bindRecord n r) s) k = partOf s k := by
  induction l generalizing s with
  | nil => rfl
  | cons e t ih =>
    rw [List.foldl_cons, ih _ fun x hx => hk x (List.mem_cons_of_mem e hx), partOf, parts_bindRecord, tblGet_tblUpd,
      if_neg fun h => hk e List.mem_cons_self h.1]
    rfl

/-! ### The bytes of the tables (R109) -/

theorem gazEntry_mod (n : Nat) (p : Part) : gazEntry n p % 32 = 0 := by
  unfold gazEntry gpOf
  omega

theorem plainBytes_congr {s u : State} (h : u.pkgs = s.pkgs) (a n : Nat) : Claims.PlainBytes u a n = Claims.PlainBytes s a n := by
  simp only [Claims.PlainBytes, channelLost, pkgAt, h]

theorem bmGet_bindRecord (n : Nat) (r : TRec) (s : State) (e : Nat × Part) (hp : Claims.PlainBytes s (gazEntry n e.2) 32) (a : Nat) :
    bmGet (bindRecord n r s e).mem a =
      if gazEntry n e.2 ≤ a ∧ a < gazEntry n e.2 + 32 then (leBytes 32 r.toNat).getD (a - gazEntry n e.2) 0 else bmGet s.mem a := by
  obtain ⟨hc, hl⟩ := hp
  rw [bindRecord, bmGet_putHome _ _ _ _ _ hc (by rw [length_leBytes]; exact hl), length_leBytes]
  rfl

theorem bmGet_bindRecords_other (n : Nat) (r : TRec) (a : Nat) (l : List (Nat × Part)) (s : State)
    (hp : ∀ e ∈ l, Claims.PlainBytes s (gazEntry n e.2) 32) (ha : ∀ e ∈ l, a < gazEntry n e.2 ∨ gazEntry n e.2 + 32 ≤ a) :
    bmGet (l.foldl (bindRecord n r) s).mem a = bmGet s.mem a := by
  induction l generalizing s with
  | nil => rfl
  | cons e t ih =>
    have hout := ha e List.mem_cons_self
    rw [List.foldl_cons, ih, bmGet_bindRecord n r s e (hp e List.mem_cons_self), if_neg (by omega)]
    · intro x hx
      rw [plainBytes_congr (pkgs_bindRecord n r s e)]
      exact hp x (List.mem_cons_of_mem e hx)
    · exact fun x hx => ha x (List.mem_cons_of_mem e hx)

/-- The bytes of each entry: two entries are one or lie apart, and each takes the same record. -/
theorem bmGet_bindRecords (n : Nat) (r : TRec) (k : Nat) (hk : k < 32) (p : Part) (l : List (Nat × Part)) (s : State)
    (hp : ∀ e ∈ l, Claims.PlainBytes s (gazEntry n e.2) 32) (hin : ∃ e ∈ l, gazEntry n e.2 = gazEntry n p) :
    bmGet (l.foldl (bindRecord n r) s).mem (gazEntry n p + k) = (leBytes 32 r.toNat).getD k 0 := by
  induction l generalizing s with
  | nil => exact absurd hin (by simp)
  | cons e t ih =>
    have hpt : ∀ x ∈ t, Claims.PlainBytes (bindRecord n r s e) (gazEntry n x.2) 32 := by
      intro x hx
      rw [plainBytes_congr (pkgs_bindRecord n r s e)]
      exact hp x (List.mem_cons_of_mem e hx)
    rw [List.foldl_cons]
    by_cases hlater : ∃ x ∈ t, gazEntry n x.2 = gazEntry n p
    · exact ih _ hpt hlater
    · have hhere : gazEntry n e.2 = gazEntry n p := by
        obtain ⟨x, hx, hxe⟩ := hin
        rcases List.mem_cons.1 hx with rfl | hx
        · exact hxe
        · exact absurd ⟨x, hx, hxe⟩ hlater
      rw [bmGet_bindRecords_other n r _ t _ hpt, bmGet_bindRecord n r s e (hp e List.mem_cons_self), hhere, if_pos (by omega),
        Nat.add_sub_cancel_left]
      intro x hx
      have hne : gazEntry n x.2 ≠ gazEntry n p := fun h => hlater ⟨x, hx, h⟩
      have hx32 := gazEntry_mod n x.2
      have hp32 := gazEntry_mod n p
      omega

/-! ### The transition (R249, R250) -/

/-- The record that a binding or an unbinding places. -/
def boundRecord (o : EngOp) : TRec := if o.cmd = 4 then BitVec.ofNat 256 (bNat o.block 0x10 32) else 0

theorem opOf_of_get {s : State} {id : Nat} {o : EngOp} (h : tblGet? s.ops id = some o) : opOf s id = o := by
  rw [opOf, tblGet, h]
  rfl

theorem exec_bind {s : State} {o : EngOp} (h : tblGet? s.ops s.arg.a = some o) (hb : bindReady s s.arg.a o = true)
    (hc : o.cmd = 4 ∨ o.cmd = 5) :
    exec (if o.cmd = 4 then .gazetteerBindComplete else .gazetteerUnbindComplete) s = .next (bindDone s s.arg.a (boundRecord o)) := by
  rcases hc with hc | hc
  · rw [boundRecord, if_pos hc, if_pos hc]
    show execGazetteerBindComplete s = _
    rw [execGazetteerBindComplete, h]
    simp only [hc, hb, decide_true, Bool.and_self, if_true]
    rfl
  · have hne : ¬ o.cmd = 4 := by omega
    rw [boundRecord, if_neg hne, if_neg hne]
    show execGazetteerUnbindComplete s = _
    rw [execGazetteerUnbindComplete, h]
    simp only [hc, hb, decide_true, Bool.and_self, if_true]

/-- R249, R250: every part that holds the context has the record. -/
theorem binding : Claims.Binding := by
  intro s o ho hb hc n r held entry
  have hdone : bindDone s s.arg.a (boundRecord o) =
      updOp (held.foldl (bindRecord n r) s) s.arg.a fun x => { x with progress := 1, ended := true, complete := x.cmd == 5 } := by
    rw [bindDone, opOf_of_get ho]
    rfl
  have hops : (held.foldl (bindRecord n r) s).ops = s.ops := foldl_keeps State.ops _ (ops_bindRecord n r) held s
  have hwarps : (held.foldl (bindRecord n r) s).warps = s.warps := foldl_keeps State.warps _ (warps_bindRecord n r) held s
  refine ⟨_, exec_bind ho hb hc, ?_⟩
  rw [hdone]
  refine ⟨fun e he k => ?_, fun e he => ?_, fun hp => ⟨fun e he k hk => ?_, fun a ha => ?_⟩, ?_, ?_⟩
  · have hin : e ∈ s.parts := (List.mem_filter.1 he).1
    have hsome : (tblGet? s.parts e.1).isSome = true := isSome_tblGet?_of_mem hin
    have hgaz := gaz_bindRecords n r e.1 k held s hsome
    have hany : (held.any fun x => x.1 == e.1) = true := List.any_eq_true.2 ⟨e, he, beq_self_eq_true e.1⟩
    simp only [hany, true_and] at hgaz
    exact hgaz
  · refine partOf_bindRecords_other n r e held s fun x hx hxe => he ?_
    have hctx := (List.mem_filter.1 hx).2
    rw [← hxe]
    exact beq_iff_eq.1 hctx
  · exact (bmGet_bindRecords n r k hk e.2 held s hp ⟨e, he, rfl⟩).trans (getD_leBytes _ _ _ hk)
  · exact bmGet_bindRecords_other n r a held s hp ha
  · rw [opOf, updOp, tblGet_tblUpd, hops, ho, if_pos ⟨rfl, rfl⟩]
  · exact sameRegisters_of_warps hwarps

/-! ### An operation that leaves its engine (R211, R241) -/

/-- Two states have the same operations, accesses, warps and counters. -/
structure CounterFrame (s u : State) : Prop where
  ops : u.ops = s.ops
  loads : u.loads = s.loads
  writes : u.writes = s.writes
  warps : u.warps = s.warps
  tmln : ∀ c, (tblGet? u.ctxs c).map Ctx.tmln = (tblGet? s.ctxs c).map Ctx.tmln

theorem CounterFrame.trans {s t u : State} (h : CounterFrame s t) (k : CounterFrame t u) : CounterFrame s u :=
  ⟨k.ops.trans h.ops, k.loads.trans h.loads, k.writes.trans h.writes, k.warps.trans h.warps, fun c => (k.tmln c).trans (h.tmln c)⟩

theorem CounterFrame.isSome {s u : State} (h : CounterFrame s u) (c : Nat) : (tblGet? u.ctxs c).isSome = (tblGet? s.ctxs c).isSome := by
  have hmap := congrArg Option.isSome (h.tmln c)
  rwa [Option.isSome_map, Option.isSome_map] at hmap

theorem timelineOf_eq (s : State) (c k : Nat) :
    timelineOf s c k = tblGet (((tblGet? s.ctxs c).map Ctx.tmln).getD (default : Ctx).tmln) k := by
  unfold timelineOf ctxOf
  rw [show tblGet s.ctxs c = (tblGet? s.ctxs c).getD default from rfl]
  cases tblGet? s.ctxs c with
  | none => rfl
  | some x => rfl

theorem CounterFrame.timelineOf {s u : State} (h : CounterFrame s u) (c k : Nat) : timelineOf u c k = timelineOf s c k := by
  rw [timelineOf_eq, timelineOf_eq, h.tmln]

theorem counterFrame_putHome (s : State) (a key : Nat) (data : List Byte) : CounterFrame s (putHome s a key data) := by
  have hf := traceFrame_putHome s a key data
  refine ⟨hf.read State.ops fun _ => rfl, hf.read State.loads fun _ => rfl, hf.read State.writes fun _ => rfl, warps_putHome s a key data,
    fun c => hf.read (fun v => (tblGet? v.ctxs c).map Ctx.tmln) fun v => ?_⟩
  rw [traceless, tblGet?_tblMap, Option.map_map]
  rfl

theorem counterFrame_updLcore (s : State) (k : Nat) (f : LCore → LCore) : CounterFrame s (updLcore s k f) :=
  ⟨rfl, rfl, rfl, rfl, fun _ => rfl⟩

theorem counterFrame_dropCopies (s : State) (core : Nat) : CounterFrame s (dropCopies s core) := by
  unfold dropCopies
  split <;> exact ⟨rfl, rfl, rfl, rfl, fun _ => rfl⟩

theorem counterFrame_pushEvent (s : State) (lk : Nat) (r : EvRec) : CounterFrame s (pushEvent s lk r) := by
  unfold pushEvent
  split
  · unfold imageEvent putNat
    dsimp only
    split
    · exact (counterFrame_putHome ..).trans (counterFrame_putHome ..)
    · exact counterFrame_updLcore ..
  · exact counterFrame_updLcore ..

/-- An operation taken from its engine, its issuers no longer waiting for it. -/
def leftEngine (s : State) (id : Nat) : State :=
  { s with ops := tblDel s.ops id, loads := tblMap s.loads fun _ l => { l with waits := l.waits.filter (· != id) } }

theorem not_waits_leftEngine (s : State) (id : Nat) (e : Nat × PLoad) (he : e ∈ (leftEngine s id).loads) : id ∉ e.2.waits := by
  obtain ⟨x, -, rfl⟩ := List.mem_map.1 he
  intro hid
  simpa using (List.mem_filter.1 hid).2

/-- An operation that leaves, up to the step of its counter. -/
def eventNoted (s : State) (id : Nat) : State :=
  let o := opOf s id
  let s1 := dropCopies (leftEngine s id) (opCore s o)
  if bNat o.block 0 8 / 128 % 2 = 1 ∧ o.cmd < 5 then
    pushEvent s1 o.lcore { kind := 1, cause := o.cause, ctr := o.ctr, source := lkPlace o.lcore, value := o.num, src := id }
  else s1

theorem finishOp_eq (s : State) (id : Nat) :
    finishOp s id = completeNumber (eventNoted s id) (opOf s id).ctx (opOf s id).ctr (opOf s id).num := rfl

theorem counterFrame_eventNoted (s : State) (id : Nat) : CounterFrame (leftEngine s id) (eventNoted s id) := by
  unfold eventNoted
  dsimp only
  split
  · exact (counterFrame_dropCopies ..).trans (counterFrame_pushEvent ..)
  · exact counterFrame_dropCopies ..

theorem timelineOf_updTimeline (s : State) (c k : Nat) (f : Timeline → Timeline) (hc : (tblGet? s.ctxs c).isSome = true) :
    timelineOf (updTimeline s c k f) c k = f (timelineOf s c k) := by
  rw [timelineOf, ctxOf, updTimeline, updCtx, tblGet_tblUpd, if_pos ⟨rfl, hc⟩, tblGet, tblGet?_tblSet, if_pos rfl]
  rfl

/-- R211: the number that follows the value, with none beyond it complete, is the new value. -/
theorem value_completeNumber (s : State) (c k n : Nat) (hc : (tblGet? s.ctxs c).isSome = true) (hn : n = (timelineOf s c k).value + 1)
    (hout : (timelineOf s c k).doneOut = []) : (timelineOf (completeNumber s c k n) c k).value = n := by
  rw [completeNumber, timelineOf_updTimeline s c k _ hc, if_neg (by omega), hout, hn]
  simp [insNat, advanceTl]

theorem exec_engineOperationComplete {s : State} {o : EngOp} (h : tblGet? s.ops s.arg.a = some o)
    (hready : opCompleteReady s s.arg.a o = true) :
    exec .engineOperationComplete s = .next (if o.complete then finishOp s s.arg.a else putStatus s s.arg.a) := by
  show execEngineOperationComplete s = _
  rw [execEngineOperationComplete, h]
  simp only [hready, if_true]

/-- R211, R241: first the STATUS, then the counter. -/
theorem operationCompletes : Claims.OperationCompletes := by
  refine ⟨fun s o ho hready hc hlisted hstatus => ?_, fun s o ho hready hc hctx hnum hout => ?_⟩
  · rw [exec_engineOperationComplete ho hready, if_neg (by simp [hc]), putStatus, opOf_of_get ho]
    simp only [hlisted, hstatus, Bool.false_eq_true, if_false]
    rfl
  · have hf := counterFrame_eventNoted s s.arg.a
    have htl : timelineOf (eventNoted s s.arg.a) o.ctx o.ctr = timelineOf s o.ctx o.ctr := hf.timelineOf _ _
    refine ⟨completeNumber (eventNoted s s.arg.a) o.ctx o.ctr o.num, ?_, hf.ops, ?_, fun e he => ?_, hf.writes, ?_⟩
    · rw [exec_engineOperationComplete ho hready, if_pos hc, finishOp_eq, opOf_of_get ho]
    · exact value_completeNumber _ _ _ _ ((hf.isSome _).trans hctx) (by rw [htl, hnum]) (by rw [htl, hout])
    · have hin : e ∈ (eventNoted s s.arg.a).loads := he
      rw [hf.loads] at hin
      exact not_waits_leftEngine s s.arg.a e hin
    · exact sameRegisters_of_warps hf.warps

end Sys2Proof.Machine

section
open Sys2Proof Sys2Proof.Machine

/-- Settles O44: the bindings by induction over the parts that hold the context. -/
theorem engineBindingAndCompletion : Obligations.EngineBindingAndCompletion := ⟨binding, operationCompletes⟩

end

/-! ## Acquire loads and the copies of a die (O22)

R200 has a load with acquire strength at package scope drop its die's copies. The model takes the die's entry out of a table, and the
statement takes any state: where the table lists the die twice, one entry stays. That no step adds a copy as an instruction retires carries
the copy back from the state that the load leaves to the one that the statement speaks of. -/

namespace Sys2Proof.Machine

/-! ### The copies that a die holds, as an instruction retires (R200) -/

/-- No die holds a copy of a byte of which it held none. -/
structure NoNewCopies (s u : State) : Prop where
  held : ∀ d b, (tblGet? (dieCopies u d) b).isSome = true → (tblGet? (dieCopies s d) b).isSome = true

theorem NoNewCopies.trans {s t u : State} (h : NoNewCopies s t) (k : NoNewCopies t u) : NoNewCopies s u :=
  ⟨fun d b hb => h.held d b (k.held d b hb)⟩

theorem noNewCopies_of_dcopies {s u : State} (h : u.dcopies = s.dcopies) : NoNewCopies s u := ⟨fun d b hb => by rwa [dieCopies, h] at hb⟩

theorem noNewCopies_foldl {β γ : Type} (r : γ → State) (f : γ → β → γ) (h : ∀ x e, NoNewCopies (r x) (r (f x e))) (l : List β) (x : γ) :
    NoNewCopies (r x) (r (l.foldl f x)) := by
  induction l generalizing x with
  | nil => exact noNewCopies_of_dcopies rfl
  | cons e t ih => exact (h x e).trans (ih _)

theorem isSome_tblGet?_of_filter {α : Type} (p : Nat × α → Bool) {t : Tbl α} {k : Nat}
    (h : (tblGet? (t.filter p) k).isSome = true) : (tblGet? t k).isSome = true := by
  induction t with
  | nil => exact h
  | cons e t ih =>
    by_cases he : e.1 = k
    · exact (congrArg Option.isSome (if_pos he)).trans rfl
    · refine (congrArg Option.isSome (if_neg he)).trans (ih ?_)
      rw [List.filter_cons] at h
      split at h
      · rwa [tblGet?, if_neg he] at h
      · exact h

/-- R206: a write that enters the machine below the cores only takes copies. -/
theorem noNewCopies_dropCopiesOf (s : State) (core a n : Nat) : NoNewCopies s (dropCopiesOf s core a n) := by
  have hd : (dropCopiesOf s core a n).dcopies = tblUpd s.dcopies (pcDie core) fun t => dropUnits t a n := by
    unfold dropCopiesOf
    dsimp only
    split <;> rfl
  refine ⟨fun d b hb => ?_⟩
  rw [dieCopies, hd, tblGet_tblUpd] at hb
  split at hb
  · exact isSome_tblGet?_of_filter _ hb
  · exact hb

theorem noNewCopies_pushWrite (s : State) (w : PWrite) : NoNewCopies s (pushWrite s w) := by
  unfold pushWrite
  split
  · exact noNewCopies_of_dcopies rfl
  · exact (noNewCopies_dropCopiesOf ..).trans (noNewCopies_of_dcopies rfl)

/-! ### What leaves every copy of a die -/

theorem dcopies_putHome (s : State) (a key : Nat) (data : List Byte) : (putHome s a key data).dcopies = s.dcopies := by
  have h := congrArg State.dcopies (homeFrame_putHome s a key data).rest
  exact h

theorem dcopies_putNat (s : State) (a n v : Nat) : (putNat s a n v).dcopies = s.dcopies := dcopies_putHome ..

theorem dcopies_putSlots (s : State) (b size : Nat) (l : List (List Byte)) : (putSlots s b size l).dcopies = s.dcopies := by
  induction l generalizing s with
  | nil => rfl
  | cons x t ih => exact (ih _).trans ((dcopies_putNat ..).trans (dcopies_putHome ..))

theorem dcopies_putHeldCount (s : State) (k : Nat) : (putHeldCount s k).dcopies = s.dcopies := by
  unfold putHeldCount
  split
  · rfl
  · exact dcopies_putNat ..

theorem dcopies_writeParts (s : State) (k : Nat) (r : FaultRec) (n : Nat) : (writeParts s k r n).dcopies = s.dcopies := by
  unfold writeParts
  dsimp only
  generalize (if (partOf s k).held.any fun e => sameSource e.1 r then 0 else min (faultFree s (partOf s k)) ((faultSlots r).length - n)) = m
  cases faultQueue? (partOf s k) with
  | none =>
    split
    · rfl
    · exact dcopies_putHeldCount ..
  | some q =>
    split
    · exact dcopies_putSlots ..
    · exact (dcopies_putHeldCount ..).trans (dcopies_putSlots ..)

theorem dcopies_appendFault (s : State) (k : Nat) (r : FaultRec) : (appendFault s k r).dcopies = s.dcopies := dcopies_writeParts ..

theorem dcopies_appendLog (s : State) (g : Nat) (l : List LogEntry) : (appendLog s g l).dcopies = s.dcopies := by
  unfold appendLog
  dsimp only
  split
  · exact (dcopies_putNat ..).trans (dcopies_putHome ..)
  · rfl

theorem dcopies_putChipWord (s : State) (core off : Nat) (v : Word) : (putChipWord s core off v).dcopies = s.dcopies := by
  unfold putChipWord
  dsimp only
  split <;> rfl

theorem dcopies_putChipBytes (s : State) (pa : Nat) (l : List Byte) : (putChipBytes s pa l).dcopies = s.dcopies := by
  induction l generalizing s pa with
  | nil => rfl
  | cons b t ih => exact (ih _ _).trans (dcopies_putChipWord ..)

theorem dcopies_fillClr (s : State) (part ident tag : Nat) : (fillClr s part ident tag).dcopies = s.dcopies := by
  unfold fillClr
  split <;> rfl

theorem dcopies_testBarriers (s : State) (g : Nat) : (testBarriers s g).dcopies = s.dcopies :=
  foldl_keeps State.dcopies _ (fun s e => by
    unfold testBarrier
    dsimp only
    split
    · split <;> rfl
    · rfl) _ _

theorem dcopies_releaseStorage (s : State) (g : Nat) : (releaseStorage s g).dcopies = s.dcopies := by
  unfold releaseStorage
  dsimp only
  split <;> rfl

theorem dcopies_freeWarp (s : State) (w : Nat) : (freeWarp s w).dcopies = s.dcopies := by
  unfold freeWarp
  split <;> rfl

theorem dcopies_reapWg (s : State) (g : Nat) : (reapWg s g).dcopies = s.dcopies := by
  have h := foldl_keeps State.dcopies freeWarp dcopies_freeWarp (wgOf s g).warps s
  unfold reapWg
  dsimp only
  split <;> exact h

theorem dcopies_yieldWarps (s : State) (g : Group) (ws : List Nat) : (yieldWarps s g ws).dcopies = s.dcopies := by
  unfold yieldWarps
  split
  · exact foldl_keeps State.dcopies yieldWarp (fun _ _ => rfl) ws s
  · rfl

/-! ### The end of an instruction -/

theorem noNewCopies_outWord (s : State) (g va : Nat) (data : List Byte) : NoNewCopies s (outWord s g va data) := by
  have hfill : ∀ (part ident : Nat) (e : TlbEntry), (fillClr (fillTlb s part e) part ident e.tag).dcopies = s.dcopies := fun _ _ _ =>
    dcopies_fillClr ..
  unfold outWord
  dsimp only
  split
  · exact noNewCopies_of_dcopies rfl
  · split
    · exact noNewCopies_of_dcopies ((dcopies_appendLog ..).trans (hfill ..))
    · split
      · exact noNewCopies_of_dcopies ((dcopies_putChipBytes ..).trans (hfill ..))
      · exact (noNewCopies_of_dcopies (hfill ..)).trans (noNewCopies_pushWrite ..)

theorem noNewCopies_writeOut (s : State) (g : Nat) : NoNewCopies s (writeOut s g) := by
  unfold writeOut
  dsimp only
  generalize hr : List.foldl _ _ _ = r
  have hwords : NoNewCopies s r.1 := by
    rw [← hr]
    refine noNewCopies_foldl Prod.fst _ (fun v e => ?_) (outWords (wgOf s g)) (s, none)
    split
    · exact noNewCopies_outWord ..
    · exact noNewCopies_of_dcopies rfl
  split
  · exact hwords.trans (noNewCopies_of_dcopies (dcopies_appendFault ..))
  · exact hwords

theorem noNewCopies_retireWg (s : State) (g : Nat) : NoNewCopies s (retireWg s g) := by
  unfold retireWg
  dsimp only
  split
  · exact noNewCopies_of_dcopies rfl
  · generalize hs : (if (wgOf s g).seqi || (wgOf s g).discard || !countsForGrid s g then s else writeOut s g) = s1
    have hout : NoNewCopies s s1 := by
      rw [← hs]
      split
      · exact noNewCopies_of_dcopies rfl
      · exact noNewCopies_writeOut ..
    refine hout.trans (noNewCopies_of_dcopies ((dcopies_reapWg ..).trans ?_))
    split
    · exact dcopies_releaseStorage ..
    · split <;> exact dcopies_releaseStorage ..

theorem noNewCopies_endThread (s : State) (m : Member) : NoNewCopies s (endThread s m) := by
  unfold endThread
  dsimp only
  refine NoNewCopies.trans (noNewCopies_of_dcopies ?_) ((noNewCopies_retireWg ..).trans (noNewCopies_of_dcopies (dcopies_reapWg ..)))
  exact dcopies_testBarriers ..

theorem noNewCopies_toSuccessor (s : State) (g : Group) (m : Member) : NoNewCopies s (toSuccessor s g m) := by
  unfold toSuccessor
  split
  · exact noNewCopies_endThread ..
  · exact noNewCopies_of_dcopies rfl

theorem noNewCopies_endClause (s : State) (g : Group) : NoNewCopies s (endClause s g) := by
  unfold endClause
  refine NoNewCopies.trans ?_ (noNewCopies_of_dcopies (dcopies_yieldWarps ..))
  exact NoNewCopies.trans (noNewCopies_of_dcopies (u := dropGroup s) rfl)
    (noNewCopies_foldl id _ (fun s m => noNewCopies_toSuccessor s g m) g.mem (dropGroup s))

theorem noNewCopies_retire (s : State) : NoNewCopies s (retire s) := by
  unfold retire
  split
  · exact noNewCopies_of_dcopies rfl
  · split
    · exact noNewCopies_of_dcopies rfl
    · split
      · exact noNewCopies_of_dcopies rfl
      · exact noNewCopies_endClause ..

/-! ### An acquire load of a die whose copies stand in two entries -/

/-- Core 0 has a thread at an acquire load of 8 bytes at 0x2000, on a page of 2 MiB that maps 0. The copies of die 0 stand in two entries
of one key, the second with a copy of the byte at 0: a table that no run makes. -/
def twiceListed : State :=
  { pkgs := [(0, { full := true, dies := [0, 1, 2, 3] })]
    ctxs := [(1, { priv := true })]
    parts := [(8192, { ncores := 1, tlb := [{ size := 0x200000, rd := true }] })]
    lcores := [(16777216, { pcore := some 0 })]
    pcores := [(0, { owners := [8192] })]
    dcopies := [(0, []), (0, [(0, {})])]
    groups := [(0, { wg := 3, mem := [⟨0, 4⟩] })]
    wgs := [(3, { ctx := 1, lcore := 16777216, threads := 1, warps := [4] })]
    warps := [(4, { ctx := 1, wg := 3, vr := [(64, 0x2000)], lanes := [(0, {})] })]
    nextId := 10 }

/-- Its group, its thread, and the load at package scope. -/
def loneGroup : Group := { wg := 3, mem := [⟨0, 4⟩] }
def loneMember : Member := ⟨0, 4⟩
def packageLoad : Instr := .ldAcqB64 7 4 1 4

theorem actors_twiceListed : actors twiceListed loneGroup packageLoad = [loneMember] := by decide
theorem ready_twiceListed : Claims.Ready twiceListed loneGroup packageLoad :=
  ⟨rfl, by unfold Unreplicated; decide, by unfold OperandsPass; decide⟩
theorem loaded_twiceListed : physOf (pageFor (noted twiceListed loneGroup packageLoad) loneMember
    (Claims.atomVa (sources twiceListed loneGroup packageLoad loneMember)))
    (Claims.atomVa (sources twiceListed loneGroup packageLoad loneMember)) = 0x2000 := by decide

/-- The acquire drops the first entry of the die (R200); the second is found in its place. -/
theorem copy_after_acquire : (match exec packageLoad twiceListed with
    | .next u => (tblGet? (dieCopies u 0) 0).isSome
    | _ => false) = true := by decide +kernel

theorem not_acquireLoads : ¬ Claims.AcquireLoads := by
  intro h
  obtain ⟨u, hexec, -, -, hfresh⟩ := h packageLoad 4 8 (.ldAcqB64 7 4 1 4) twiceListed loneGroup ready_twiceListed
    (by unfold Claims.EachActor; decide) (by unfold Claims.EachChecked; decide)
  have hcopy := copy_after_acquire
  rw [hexec] at hcopy
  have hheld : (tblGet? (dieCopies u 0) 0).isSome = true := (noNewCopies_retire u).held 0 0 hcopy
  obtain ⟨-, hdie⟩ := hfresh loneMember (by rw [actors_twiceListed]; exact List.mem_singleton_self _) (by decide) (by decide)
  obtain ⟨x, hx, k, -, hloaded⟩ := hdie (by decide) 0 hheld
  rw [actors_twiceListed, List.mem_singleton] at hx
  rw [hx, loaded_twiceListed] at hloaded
  omega

end Sys2Proof.Machine

section
open Sys2Proof Sys2Proof.Machine

/-- Refutes O22: where the table of the dies' copies lists a die twice, an acquire load at package scope drops the first entry alone, and
the die holds afterwards the copies of the second one. -/
theorem not_loadsAndAcquires : ¬ Obligations.LoadsAndAcquires := fun h => not_acquireLoads h.2

end

/-! ## The rounding modes (O13) -/

namespace Sys2Proof.Machine

/-- The value x is k whole units and the fraction r / 2^s of one more. -/
structure RoundingParts (x : ℚ) (k r s : Nat) : Prop where
  eq : x = k + (r : ℚ) / 2 ^ s
  lt : r < 2 ^ s

/-- The exact value in units of 2^q, as the fraction that `roundAt` divides. -/
theorem exactUnits_eq_div (m : Nat) (e q : Int) :
    Claims.exactUnits m e q = ((m * 2 ^ (e - q).toNat : Nat) : ℚ) / 2 ^ (q - e).toNat := by
  unfold Claims.exactUnits
  obtain h | h := le_total e q
  · have hs : e - q = -((q - e).toNat : Int) := by omega
    have h0 : (e - q).toNat = 0 := by omega
    rw [h0, hs, zpow_neg, zpow_natCast]
    simp [div_eq_mul_inv]
  · have hs : e - q = ((e - q).toNat : Int) := by omega
    have h0 : (q - e).toNat = 0 := by omega
    rw [h0, hs, zpow_natCast, Int.toNat_natCast]
    simp

theorem parts_div (v s : Nat) : RoundingParts ((v : ℚ) / 2 ^ s) (v / 2 ^ s) (v % 2 ^ s) s := by
  refine ⟨?_, Nat.mod_lt _ (by positivity)⟩
  have hv : (2 : ℚ) ^ s * (v / 2 ^ s : Nat) + (v % 2 ^ s : Nat) = v := by exact_mod_cast Nat.div_add_mod v (2 ^ s)
  field_simp
  linarith

/-- `roundAt` takes the exact value apart, and steps the units up where the mode says so. -/
theorem roundAt_parts (m : Nat) (e q : Int) : ∃ k r s, RoundingParts (Claims.exactUnits m e q) k r s ∧
    ∀ rm neg, roundAt rm neg m e q false = (k + (stepsUp rm neg k r s false).toNat, decide (r ≠ 0)) := by
  rw [exactUnits_eq_div]
  exact ⟨_, _, _, parts_div _ _, fun rm neg => by simp [roundAt]⟩

/-- An exact value does not step up, whatever the mode. -/
theorem stepsUp_exact (rm : RMode) (neg : Bool) (k s : Nat) : stepsUp rm neg k 0 s false = false := by
  cases rm with
  | sr rnd => simpa [stepsUp] using rnd.isLt
  | near =>
    have hpos : 2 ^ s ≠ 0 := by positivity
    simp [stepsUp, hpos.symm]
  | _ => simp [stepsUp]

namespace RoundingParts
variable {x : ℚ} {k r s : Nat}

theorem bounds (h : RoundingParts x k r s) : (k : ℚ) ≤ x ∧ x < k + 1 := by
  have hlt : (r : ℚ) / 2 ^ s < 1 := by
    rw [div_lt_one (by positivity)]
    exact_mod_cast h.lt
  have hnn : (0 : ℚ) ≤ r / 2 ^ s := by positivity
  rw [h.eq]
  exact ⟨by linarith, by linarith⟩

theorem eq_kept_iff (h : RoundingParts x k r s) : (k : ℚ) = x ↔ r = 0 := by
  rw [h.eq]
  simp

theorem floor_eq (h : RoundingParts x k r s) : ⌊x⌋ = k := by
  rw [Int.floor_eq_iff]
  exact_mod_cast h.bounds

/-- The result has another value where, and only where, there is a fraction, stepped up or not. -/
theorem stepped_ne_iff (h : RoundingParts x k r s) (rm : RMode) (neg : Bool) :
    ((k + (stepsUp rm neg k r s false).toNat : Nat) : ℚ) ≠ x ↔ r ≠ 0 := by
  rw [not_iff_not]
  cases hup : stepsUp rm neg k r s false with
  | false => simpa using h.eq_kept_iff
  | true =>
    have hr : r ≠ 0 := by
      rintro rfl
      simp [stepsUp_exact] at hup
    have hx := h.bounds.2
    simp only [hr, iff_false, Bool.toNat_true]
    push_cast
    exact hx.ne'

/-- Away from zero: the least number of units that is not below the value. -/
theorem away_bounds (h : RoundingParts x k r s) :
    x ≤ ((k + (decide (r ≠ 0)).toNat : Nat) : ℚ) ∧ ((k + (decide (r ≠ 0)).toNat : Nat) : ℚ) < x + 1 := by
  have hx := h.bounds
  have hk := h.eq_kept_iff
  by_cases hr : r = 0
  · have he := hk.2 hr
    simp [hr, he]
  · have hlt : (k : ℚ) < x := lt_of_le_of_ne hx.1 fun he => hr (hk.1 he)
    simp only [hr, ne_eq, not_false_eq_true, decide_true, Bool.toNat_true]
    push_cast
    exact ⟨hx.2.le, by linarith⟩

/-- The distance to the units kept, against one half. -/
theorem compare_half (h : RoundingParts x k r s) :
    (x - k < 1 / 2 ↔ 2 * r < 2 ^ s) ∧ (x - k = 1 / 2 ↔ 2 * r = 2 ^ s) := by
  have hx : x - k = (r : ℚ) / 2 ^ s := by rw [h.eq]; ring
  rw [hx, div_lt_div_iff₀ (by positivity) two_pos, div_eq_div_iff (by positivity) two_ne_zero, one_mul, mul_comm (r : ℚ)]
  exact ⟨by exact_mod_cast Iff.rfl, by exact_mod_cast Iff.rfl⟩

/-- Nearest, ties to even, by where the value lies between its neighbours. -/
theorem near_bounds (h : RoundingParts x k r s) (neg : Bool) : let n := k + (stepsUp .near neg k r s false).toNat
    abs ((n : ℚ) - x) ≤ 1 / 2 ∧ (abs ((n : ℚ) - x) = 1 / 2 → n % 2 = 0) := by
  obtain ⟨hlow, hhigh⟩ := h.bounds
  obtain ⟨hlt, heq⟩ := h.compare_half
  obtain hr | hr | hr := lt_trichotomy (2 * r) (2 ^ s)
  · have hup : stepsUp .near neg k r s false = false := by simp [stepsUp]; omega
    have hd := hlt.2 hr
    simp only [hup, Bool.toNat_false, add_zero, abs_sub_comm (k : ℚ), abs_of_nonneg (sub_nonneg.2 hlow)]
    exact ⟨hd.le, fun he => absurd he hd.ne⟩
  · have hs : s ≠ 0 := by
      rintro rfl
      omega
    have hup : stepsUp .near neg k r s false = (k % 2 == 1) := by simp [stepsUp, hr, hs]
    have hd := heq.2 hr
    obtain hk | hk := Nat.mod_two_eq_zero_or_one k
    · simp [hup, hk, abs_sub_comm (k : ℚ), hd]
    · have hn : ((k + 1 : Nat) : ℚ) - x = 1 / 2 := by push_cast; linarith
      have heven : (k + 1) % 2 = 0 := by omega
      simp only [hup, hk, beq_self_eq_true, Bool.toNat_true, hn, heven]
      norm_num
  · have hup : stepsUp .near neg k r s false = true := by simp [stepsUp, hr]
    have hge : 1 / 2 < x - k := lt_of_le_of_ne (not_lt.1 fun hc => by have := hlt.1 hc; omega)
      fun hc => by have := heq.1 hc.symm; omega
    have habs : abs (((k + 1 : Nat) : ℚ) - x) = k + 1 - x := by
      push_cast
      exact abs_of_nonneg (by linarith)
    simp only [hup, Bool.toNat_true, habs]
    exact ⟨by linarith, fun he => by linarith⟩

/-- R126's floor(f * 2^32), of the fraction f = r / 2^s. -/
theorem floor_fraction (h : RoundingParts x k r s) : ⌊(x - ⌊x⌋) * 2 ^ 32⌋ = ((r * 2 ^ 32 / 2 ^ s : Nat) : Int) := by
  have hf : (x - ⌊x⌋) * 2 ^ 32 = ((r * 2 ^ 32 : Nat) : ℚ) / ((2 ^ s : Nat) : ℚ) := by
    rw [h.floor_eq, h.eq]
    push_cast
    ring
  rw [hf, Rat.floor_natCast_div_natCast, Int.natCast_ediv]

theorem stochastic_eq (h : RoundingParts x k r s) (neg : Bool) (rnd : Word) :
    ((k + (stepsUp (.sr rnd) neg k r s false).toNat : Nat) : Int) =
      ⌊x⌋ + (if 2 ^ 32 ≤ ⌊(x - ⌊x⌋) * 2 ^ 32⌋ + (rnd.toNat : Int) then 1 else 0) := by
  have hup : stepsUp (.sr rnd) neg k r s false = decide (2 ^ 32 ≤ r * 2 ^ 32 / 2 ^ s + rnd.toNat) := rfl
  rw [h.floor_fraction, h.floor_eq, hup]
  by_cases hc : 2 ^ 32 ≤ r * 2 ^ 32 / 2 ^ s + rnd.toNat
  · rw [if_pos (by exact_mod_cast hc), decide_eq_true hc]
    rfl
  · rw [if_neg (by exact_mod_cast hc), decide_eq_false hc]
    rfl

end RoundingParts

end Sys2Proof.Machine

section
open Sys2Proof Sys2Proof.Machine

/-- Settles O13, by the whole units and the fraction of the exact value: each mode keeps the units or steps up by one. -/
theorem roundingModes : Obligations.RoundingModes := by
  unfold Obligations.RoundingModes
  intro rm neg m e q
  obtain ⟨k, r, s, hx, hround⟩ := roundAt_parts m e q
  simp only [hround]
  refine ⟨by rw [hx.stepped_ne_iff, decide_eq_true_iff], ?_⟩
  cases rm with
  | near => exact hx.near_bounds neg
  | zero => simpa [stepsUp] using hx.bounds
  | up => cases neg with
    | false => simpa [stepsUp] using hx.away_bounds
    | true => simpa [stepsUp] using hx.bounds
  | down => cases neg with
    | false => simpa [stepsUp] using hx.bounds
    | true => simpa [stepsUp] using hx.away_bounds
  | sr rnd => exact hx.stochastic_eq neg rnd

end

/-! ## Vector floating-point instructions and conversions (O17) -/

namespace Sys2Proof.Machine

/-! ### Halves of a register, and bits of a selector (R117, R136, R145) -/

/-- The half that a bit chooses. -/
theorem half_eq (c : Bool) (a : Word) : (if c then hiHalf a else loHalf a) = a.toNat / 65536 ^ c.toNat % 65536 := by
  cases c <;> simp [hiHalf, loHalf, BitVec.extractLsb'_toNat, Nat.shiftRight_eq_div_pow]

theorem loHalf_eq (a : Word) : loHalf a = a.toNat / 65536 ^ 0 % 65536 := half_eq false a
theorem hiHalf_eq (a : Word) : hiHalf a = a.toNat / 65536 ^ 1 % 65536 := half_eq true a

theorem toNat_getLsbD {w : Nat} (b : BitVec w) (k : Nat) : (b.getLsbD k).toNat = b.toNat / 2 ^ k % 2 := Nat.toNat_testBit ..

/-- An operation on each half is one on the low and one on the high half, of which D takes both results (R117). -/
theorem onHalves_eq (r : Warp → Nat → Nat → Nat → FOut) (x : Src) :
    Claims.onHalves r x = fpair (r x.w (loHalf (lo32 x.a)) (loHalf (lo32 x.b)) (loHalf (lo32 x.d)))
      (r x.w (hiHalf (lo32 x.a)) (hiHalf (lo32 x.b)) (hiHalf (lo32 x.d))) := by
  simp only [Claims.onHalves, loHalf_eq, hiHalf_eq]
  rfl

theorem exec_onHalves {i : Instr} {s : State} {r : Warp → Nat → Nat → Nat → FOut}
    (h : exec i s = regOp i (fun x => fpair (r x.w (loHalf (lo32 x.a)) (loHalf (lo32 x.b)) (loHalf (lo32 x.d)))
      (r x.w (hiHalf (lo32 x.a)) (hiHalf (lo32 x.b)) (hiHalf (lo32 x.d)))) s) :
    exec i s = regOp i (Claims.onHalves r) s :=
  exec_eq_regOp _ h fun x => (onHalves_eq r x).symm

/-! ### `FCMP`, `FCLASS` and `MOVF` (R136, R137, R141) -/

theorem fcmpRes_eq (f : Fmt) (d : BitVec 7) (x : Src) : fcmpRes f d x = Claims.compared f d x := by
  have hhalf : (d.getLsbD 6).toNat = d.toNat / 64 := by
    rw [toNat_getLsbD]
    omega
  simp only [fcmpRes, Claims.compared, extract3_toNat, cond_toNat, half_eq, hhalf]

theorem append_zero12 (f : BitVec 20) : f ++ 0#12 = BitVec.ofNat 32 (f.toNat * 2 ^ 12) := by
  apply BitVec.eq_of_toNat_eq
  rw [BitVec.toNat_append, BitVec.toNat_ofNat, BitVec.toNat_ofNat, Nat.shiftLeft_eq, Nat.zero_mod, Nat.or_zero]
  omega

theorem fclassPair_eq (f : Fmt) (x : Src) : fclassPair f x = Claims.onHalves (fun _ a _ _ => (fclassOf f a, 0)) x := by
  rw [onHalves_eq, fpair, BitVec.or_self, fclassPair]

/-! ### The vector floating-point instructions -/

/-- The vector floating-point instructions are register instructions, each with the result that the spec gives. -/
theorem exec_float {i : Instr} {f : Src → Res} (h : Claims.FloatResult i f) (s : State) : exec i s = regOp i f s := by
  cases h with
  | faddF32 | fsubF32 | fmulF32 | fminF32 | fmaxF32 | fmaF32D0 | fmaF32D1 | fmaF32D2 | fmaF32D3 | fclassF32 => rfl
  | frcp | frsq | fsqrt | fdiv | fex2 | flg2 | fsin | fcos | frintRn | frintRz | frintRp | frintRm | dadd | dmul | dfma => rfl
  | faddF16 | fsubF16 | fmulF16 | fminF16 | fmaxF16 | fmaF16D0 | fmaF16D1 | fmaF16D2 | fmaF16D3 => exact exec_onHalves rfl
  | faddBf16 | fsubBf16 | fmulBf16 | fminBf16 | fmaxBf16 | fmaBf16D0 | fmaBf16D1 | fmaBf16D2 | fmaBf16D3 =>
    exact exec_onHalves rfl
  | fclassF16 p d a => exact exec_eq_regOp (fclassPair fp16) rfl (fclassPair_eq fp16)
  | fclassBf16 p d a => exact exec_eq_regOp (fclassPair bf16) rfl (fclassPair_eq bf16)
  | fcmpF32 p d a b => exact exec_eq_regOp (fcmpRes fp32 d) rfl (fcmpRes_eq fp32 d)
  | fcmpF16 p d a b => exact exec_eq_regOp (fcmpRes fp16 d) rfl (fcmpRes_eq fp16 d)
  | fcmpBf16 p d a b => exact exec_eq_regOp (fcmpRes bf16 d) rfl (fcmpRes_eq bf16 d)
  | movf d f => exact exec_eq_regOp (fun _ => res32 (f ++ 0#12)) rfl fun _ => congrArg Claims.d32 (append_zero12 f)

/-! ### Conversions to and from integers (R144) -/

/-- An integer within its range, as a pattern of n bits. -/
theorem toInteger_eq (n : Nat) (f : Fmt) (rm : RMode) (lo hi : Int) (w : Warp) (a : Nat) :
    Claims.toInteger f rm lo hi n w a = ((BitVec.ofInt n (ftoint f rm lo hi w a).1).toNat, (ftoint f rm lo hi w a).2) := by
  rw [BitVec.toNat_ofInt, Claims.toInteger, ftoint]
  norm_cast

/-! ### `CVT` (R145, R146) -/

/-- The outcome of `CVT` on a value, by the kinds of its types: of two formats, of a format and an integer, or of an integer and a format. -/
def cvtByKind (rm : RMode) (src dst : Nat) (w : Warp) (v : Nat) (i : Int) : FOut :=
  match cvtFmt src, cvtFmt dst with
  | some f, some g => Claims.toFormat f g rm w v
  | some f, none =>
    if dst = 3 then Claims.toInteger f rm (-(2 ^ 31)) (2 ^ 31 - 1) 32 w v else Claims.toInteger f rm 0 (2 ^ 32 - 1) 32 w v
  | none, some g => Claims.fromInteger g rm w i
  | none, none => (0, 0)

theorem cvtOf_eq (rm : RMode) (src dst : Nat) (hi : Bool) (w : Warp) (a : Word) :
    cvtOf rm src dst hi w a = cvtByKind rm src dst w (if src = 1 ∨ src = 2 then a.toNat / 65536 ^ hi.toNat % 65536 else a.toNat)
      (if src = 3 then a.toInt else a.toNat) := by
  unfold cvtOf cvtByKind
  rw [half_eq]
  generalize (if src = 1 ∨ src = 2 then a.toNat / 65536 ^ hi.toNat % 65536 else a.toNat) = v
  cases cvtFmt src <;> cases cvtFmt dst
  case some.none f =>
    by_cases h3 : dst = 3
    · simp only [h3, if_true, toInteger_eq]
    · simp only [h3, if_false, toInteger_eq]
  all_goals rfl

/-- The selector's fields: two different types, one of them a format (R145). -/
theorem cvtRes_eq (rm : RMode) (b : BitVec 7) (x : Src)
    (hb : b.toNat < 80 ∧ b.toNat / 2 % 8 < 5 ∧ b.toNat / 16 ≠ b.toNat / 2 % 8 ∧ (b.toNat / 16 < 3 ∨ b.toNat / 2 % 8 < 3)) :
    cvtRes rm b x = Claims.cvtResult rm b x := by
  have hsrc : (b.extractLsb' 4 3).toNat = b.toNat / 16 := by
    rw [BitVec.extractLsb'_toNat, Nat.shiftRight_eq_div_pow]
    omega
  have hdst : (b.extractLsb' 1 3).toNat = b.toNat / 2 % 8 := by
    rw [BitVec.extractLsb'_toNat, Nat.shiftRight_eq_div_pow]
  have hhi : (b.getLsbD 0).toNat = b.toNat % 2 := by
    rw [toNat_getLsbD]
    omega
  have hone : (b.getLsbD 0 = true) = (b.toNat % 2 = 1) := by
    rw [← hhi]
    cases b.getLsbD 0 <;> simp
  obtain ⟨hlt, hdlt, hne, hfp⟩ := hb
  have hslt : b.toNat / 16 < 5 := by omega
  simp only [cvtRes, cvtOf_eq, Claims.cvtResult, hsrc, hdst, hhi, hone]
  generalize b.toNat / 16 = src at *
  generalize b.toNat / 2 % 8 = dst at *
  -- the legal pairs are the rows of the table; the others have equal types, or two integers
  interval_cases src <;> interval_cases dst <;> simp only [ne_eq, not_true, Nat.reduceLT, or_false, reduceCtorEq] at hne hfp
  all_goals rfl

/-! ### `BSAPP` and `EXPAND` (R151, R153) -/

theorem bsappOf_eq (x : Src) : bsappOf x =
    let c := (lo32 x.b).toNat % 256
    Claims.onF32 (fun w a _ _ =>
      if c = 255 then (0x7FC00000, 0)
      else deliver fp32 (rmOf w) (ftzOf w)
        (scale2 (unpack fp32 (dazOf w) a) (if (lo32 x.b).toNat / 256 % 2 = 1 then 127 - (c : Int) else (c : Int) - 127)) false) x := by
  have hdir : ((lo32 x.b).getLsbD 8 = true) = ((lo32 x.b).toNat / 256 % 2 = 1) := by
    rw [BitVec.getLsbD, Nat.testBit_eq_decide_div_mod_eq, decide_eq_true_eq]
  have hscale : ((lo32 x.b).extractLsb' 0 8).toNat = (lo32 x.b).toNat % 256 := by simp [BitVec.extractLsb'_toNat]
  have hnone : ((((lo32 x.b).toNat % 256 : Nat) : Int) = 255) = ((lo32 x.b).toNat % 256 = 255) := by norm_cast
  simp only [bsappOf, hdir, hscale, hnone, Claims.onF32]
  split <;> rfl

theorem expandOf_eq (a b : Word) : expandOf a b = BitVec.ofNat 64 (a.toNat / 65536 * 65536 ^ (b.toNat / 4 % 4) +
    if b.toNat % 4 = b.toNat / 4 % 4 then 0 else a.toNat % 65536 * 65536 ^ (b.toNat % 4)) := by
  have hi : (b.extractLsb' 0 2).toNat = b.toNat % 4 := by simp [BitVec.extractLsb'_toNat]
  have hj : (b.extractLsb' 2 2).toNat = b.toNat / 4 % 4 := by simp [BitVec.extractLsb'_toNat, Nat.shiftRight_eq_div_pow]
  have hlow : loHalf a = a.toNat % 65536 := by simp [loHalf_eq]
  have hhigh : hiHalf a = a.toNat / 65536 := by
    rw [hiHalf_eq]
    omega
  simp only [expandOf, hi, hj, hlow, hhigh, Nat.pow_mul]
  split
  · rfl
  · rw [Nat.add_comm]

/-! ### `COMPRESS` (R152) -/

/-- The two of four indices that fewer than two others precede, in ascending order, and the first pair of indices that precedes the rest. -/
def topTwo (before : Nat → Nat → Bool) : List Nat :=
  (List.range 4).filter fun i => decide (((List.range 4).filter fun j => decide (j ≠ i) && before j i).length < 2)
def topPair (before : Nat → Nat → Bool) : Nat × Nat :=
  ([(0, 1), (0, 2), (0, 3), (1, 2), (1, 3), (2, 3)].find? fun e =>
    (List.range 4).all fun k => k == e.1 || k == e.2 || (before e.1 k && before e.2 k)).getD (0, 1)

/-- In a strict order of the four indices the two are the pair: the six comparisons decide both. -/
theorem topTwo_eq (before : Nat → Nat → Bool) (hflip : ∀ i j, i < j → before j i = !before i j)
    (htrans : ∀ i j k, i < j → j < k → before i j = before j k → before i k = before j k) :
    topTwo before = [(topPair before).1, (topPair before).2] := by
  have h10 := hflip 0 1 (by decide)
  have h20 := hflip 0 2 (by decide)
  have h30 := hflip 0 3 (by decide)
  have h21 := hflip 1 2 (by decide)
  have h31 := hflip 1 3 (by decide)
  have h32 := hflip 2 3 (by decide)
  have h012 := htrans 0 1 2 (by decide) (by decide)
  have h013 := htrans 0 1 3 (by decide) (by decide)
  have h023 := htrans 0 2 3 (by decide) (by decide)
  have h123 := htrans 1 2 3 (by decide) (by decide)
  simp only [topTwo, topPair, List.range, List.range.loop, List.filter, List.find?, List.all, beq_self_eq_true, Bool.true_or, Bool.or_true,
    ne_eq, not_true, decide_false, Bool.false_and, h10, h20, h30, h21, h31, h32]
  generalize before 0 1 = b01 at *
  generalize before 0 2 = b02 at *
  generalize before 0 3 = b03 at *
  generalize before 1 2 = b12 at *
  generalize before 1 3 = b13 at *
  generalize before 2 3 = b23 at *
  clear h10 h20 h30 h21 h31 h32 hflip htrans
  revert b01 b02 b03 b12 b13 b23
  decide

theorem elem16_mod (a : Pair) (k : Nat) : elem16 a k % 32768 = a.toNat / 65536 ^ k % 32768 := by
  rw [elem16, Nat.pow_mul, Nat.mod_mod_of_dvd _ (by decide : 32768 ∣ 65536)]

theorem outranks_eq (a : Pair) (i j : Nat) : Claims.outranks a j i =
    (decide (elem16 a i % 32768 < elem16 a j % 32768) || (elem16 a i % 32768 == elem16 a j % 32768 && decide (j < i))) := by
  simp only [Claims.outranks, elem16_mod, beq_eq_decide, eq_comm]

theorem outranks_iff (a : Pair) (i j : Nat) : Claims.outranks a j i = true ↔
    elem16 a i % 32768 < elem16 a j % 32768 ∨ elem16 a i % 32768 = elem16 a j % 32768 ∧ j < i := by simp [outranks_eq]

theorem outranks_flip (a : Pair) (i j : Nat) (h : i < j) : Claims.outranks a j i = !Claims.outranks a i j := by
  rw [Bool.eq_iff_iff, Bool.not_eq_true', ← Bool.not_eq_true, outranks_iff, outranks_iff]
  omega

theorem outranks_trans (a : Pair) (i j k : Nat) (hij : i < j) (hjk : j < k) (h : Claims.outranks a i j = Claims.outranks a j k) :
    Claims.outranks a i k = Claims.outranks a j k := by
  rw [Bool.eq_iff_iff, outranks_iff, outranks_iff] at h ⊢
  omega

theorem compressOf_eq (a : Pair) : let e := Claims.keptPair a
    compressOf a = BitVec.ofNat 64 (a.toNat / 65536 ^ e.2 % 65536 * 65536 + a.toNat / 65536 ^ e.1 % 65536 + (e.2 * 4 + e.1) * 2 ^ 32) := by
  have hrank : (List.range 4).filter (fun i => decide (rankOf a i < 2)) = topTwo (Claims.outranks a) := by
    simp only [topTwo, outranks_eq]
    rfl
  have hpair : topTwo (Claims.outranks a) = [(Claims.keptPair a).1, (Claims.keptPair a).2] :=
    topTwo_eq _ (outranks_flip a) (outranks_trans a)
  simp only [compressOf, hrank, hpair, elem16, Nat.pow_mul]

/-! ### The conversions -/

/-- The conversions are register instructions, each with the result that the spec gives. -/
theorem exec_convert {i : Instr} {f : Src → Res} (h : Claims.ConvertResult i f) (s : State) : exec i s = regOp i f s := by
  cases h with
  | dcvtF64F32 | dcvtF32F64 | dcvtF64S64 | bsext => rfl
  | dcvtS64F64 p d a =>
    refine exec_eq_regOp (fun x => let (v, fl) := ftoint fp64 (rmOf x.w) (-(2 ^ 63)) (2 ^ 63 - 1) x.w (lo64 x.a).toNat
      { d := (BitVec.ofInt 64 v).setWidth 128, fp := fl }) rfl fun x => ?_
    simp only [Claims.onF64, toInteger_eq, BitVec.ofNat_toNat]
  | cvtRn p d a b hb => exact exec_eq_regOp (cvtRes .near b) rfl fun x => cvtRes_eq .near b x hb
  | cvtRz p d a b hb => exact exec_eq_regOp (cvtRes .zero b) rfl fun x => cvtRes_eq .zero b x hb
  | cvtRp p d a b hb => exact exec_eq_regOp (cvtRes .up b) rfl fun x => cvtRes_eq .up b x hb
  | cvtRm p d a b hb => exact exec_eq_regOp (cvtRes .down b) rfl fun x => cvtRes_eq .down b x hb
  | bsapp => exact exec_eq_regOp bsappOf rfl fun x => bsappOf_eq x
  | compress => exact exec_eq_regOp (fun x => res64 (compressOf (lo64 x.a))) rfl fun x => congrArg Claims.d64 (compressOf_eq _)
  | expand => exact exec_eq_regOp (fun x => res64 (expandOf (lo32 x.a) (lo32 x.b))) rfl fun x => congrArg Claims.d64 (expandOf_eq _ _)

end Sys2Proof.Machine

section
open Sys2Proof Sys2Proof.Machine

/-- R133 to R142: each vector floating-point instruction is one of the register instructions, with the result of its table. -/
theorem floatResults : Claims.FloatResults := by
  intro i f h s g hg hop hfp
  rw [RegCompletes, exec_float h]
  exact regOp_spec i f s g hg hop hfp

/-- R143 to R153: so is each conversion. -/
theorem conversionResults : Claims.ConversionResults := by
  intro i f h s g hg hop hfp
  rw [RegCompletes, exec_convert h]
  exact regOp_spec i f s g hg hop hfp

/-- Settles O17: the vector floating-point instructions and the conversions are functions of their sources and of their warp's `FPCTL`. -/
theorem floatingPointInstructions : Obligations.FloatingPointInstructions := ⟨floatResults, conversionResults⟩

end

/-! ## Cross-lane instructions (O18, O19) -/

namespace Sys2Proof.Machine

/-! ### Masks of lanes (R156, R157) -/

theorem sum_bits_eq_ofBits (q : Nat → Bool) (n : Nat) :
    ((List.range n).map fun k => if q k then 2 ^ k else 0).sum = Nat.ofBits fun i : Fin n => q i := by
  induction n generalizing q with
  | zero => rfl
  | succ n ih =>
    have hshift : ((fun k => if q k then 2 ^ k else 0) ∘ Nat.succ) = fun k => 2 * if q (k + 1) then 2 ^ k else 0 := by
      funext k
      cases hq : q (k + 1) <;> simp [hq, Nat.pow_succ']
    rw [List.range_succ_eq_map, List.map_cons, List.sum_cons, List.map_map, hshift, List.sum_map_mul_left, ih fun k => q (k + 1),
      Nat.ofBits_succ, Nat.add_comm]
    cases hq : q 0 <;> simp [hq] <;> rfl

theorem getLsbD_lanesWhere (q : Nat → Bool) (k : Nat) : (Claims.lanesWhere q).getLsbD k = (decide (k < 64) && q k) := by
  rw [Claims.lanesWhere, BitVec.getLsbD_ofNat, sum_bits_eq_ofBits, Nat.testBit_ofBits]
  by_cases hk : k < 64 <;> simp [hk]

/-- A lane's bit is in a mask that lanes are added to where it was there, or the lane is one of them. -/
theorem getLsbD_foldl_lanes (l : List Nat) (v : Pair) (k : Nat) (hk : k < 64) :
    (l.foldl (fun m n => m ||| (1#64 <<< n)) v).getLsbD k = true ↔ v.getLsbD k = true ∨ k ∈ l := by
  induction l generalizing v with
  | nil => simp
  | cons n l ih =>
    have hbit : (1#64 <<< n).getLsbD k = true ↔ k = n := by
      rw [show 1#64 <<< n = BitVec.twoPow 64 n from rfl, BitVec.getLsbD_twoPow, Bool.and_eq_true, decide_eq_true_eq, decide_eq_true_eq]
      omega
    rw [List.foldl_cons, ih, BitVec.getLsbD_or, Bool.or_eq_true, hbit, List.mem_cons, or_assoc]

theorem getLsbD_laneMask (l : List Nat) (k : Nat) (hk : k < 64) : (laneMask l).getLsbD k = true ↔ k ∈ l := by
  rw [laneMask, getLsbD_foldl_lanes l 0 k hk]
  simp

/-- The mask of the participants of which something holds. -/
theorem laneMask_filter (ps : List (Nat × Src)) (q : Src → Bool) :
    laneMask ((ps.filter fun e => q e.2).map (·.1)) = Claims.lanesWhere fun k => ps.any fun e => e.1 == k && q e.2 := by
  apply BitVec.eq_of_getLsbD_eq
  intro k hk
  rw [Bool.eq_iff_iff, getLsbD_laneMask _ _ hk, getLsbD_lanesWhere, decide_eq_true hk, Bool.true_and, List.mem_map, List.any_eq_true]
  refine exists_congr fun e => ?_
  rw [List.mem_filter, Bool.and_eq_true, beq_iff_eq, and_assoc, and_comm (a := q e.2 = true)]

/-! ### Combinations of integers (R159) -/

theorem combined_signed (op : Nat) : Claims.combined false op = i32Op op := by
  funext a b
  match op with
  | 0 | 3 | 4 => rfl
  | 1 => exact (minS_eq a b).symm
  | 2 => exact (maxS_eq a b).symm
  | _ + 5 => rfl

theorem combined_unsigned (op : Nat) : Claims.combined true op = usOp op := by
  funext a b
  match op with
  | 1 => exact (minU_eq a b).symm
  | 0 | _ + 2 => exact (maxU_eq a b).symm

theorem neutral_signed (op : Nat) : Claims.neutral false op = i32Identity op := by
  match op with
  | 0 | 1 | 2 | 3 | _ + 4 => rfl

theorem neutral_unsigned (op : Nat) : Claims.neutral true op = usIdentity op := by
  match op with
  | 0 | 1 | _ + 2 => rfl

theorem combinedOver_signed (op : Nat) (ps : List (Nat × Src)) : Claims.combinedOver false op ps = foldInt (i32Op op) (i32Identity op) ps := by
  rw [Claims.combinedOver, combined_signed, neutral_signed]
  rfl

theorem combinedOver_unsigned (op : Nat) (ps : List (Nat × Src)) : Claims.combinedOver true op ps = foldInt (usOp op) (usIdentity op) ps := by
  rw [Claims.combinedOver, combined_unsigned, neutral_unsigned]
  rfl

/-! ### The selector of `REDUX` and `SCAN` (R159) -/

theorem redOp_eq (b : BitVec 7) : redOp b = b.toNat % 8 := extract3_toNat b

theorem redExcl_iff (b : BitVec 7) : redExcl b = true ↔ b.toNat / 8 % 2 = 1 := by
  rw [redExcl, BitVec.getLsbD, Nat.testBit_eq_decide_div_mod_eq, decide_eq_true_eq]

/-- The participants that a scan combines at a lane. -/
theorem scanInt_eq (f : Word → Word → Word) (z : Word) (b : BitVec 7) (ps : List (Nat × Src)) (l : Nat) :
    scanInt f z (redExcl b) ps l = foldInt f z (ps.filter fun e => if b.toNat / 8 % 2 = 1 then e.1 < l else e.1 ≤ l) := by
  simp only [scanInt, redExcl_iff]

/-! ### `SCAN.f32` (R159, R160) -/

/-- The lane whose inclusive scan a lane receives: its own, or that of the participant below it, if there is one. -/
def scanLane (b : BitVec 7) (ps : List (Nat × Src)) (l : Nat) : Option Nat := if b.toNat / 8 % 2 = 1 then laneBelow ps l else some l

/-- The result at a lane: that scan or the identity, with the flags of the scans that any lane receives (log 71). -/
def scanF32Res (b : BitVec 7) (ps : List (Nat × Src)) (l : Nat) : Res :=
  { d := BitVec.ofNat 128 (match scanLane b ps l with
      | some k => (scanF32At ps (b.toNat % 8) k).1
      | none => f32Identity (b.toNat % 8))
    fp := (ps.filterMap fun e => scanLane b ps e.1).foldl (fun fl k => fl ||| (scanF32At ps (b.toNat % 8) k).2) 0 }

theorem f32Identity_eq (op : Nat) : f32Identity op = if op = 0 then 0x80000000 else if op = 1 then 0x7F800000 else 0xFF800000 := by
  match op with
  | 0 | 1 | _ + 2 => rfl

theorem exec_scanF32 (p : BitVec 3) (d a b : BitVec 7) (s : State) :
    exec (.scanF32 p d a b) s = warpOp (.scanF32 p d a b) (fun ps l _ => scanF32Res b ps l) s := by
  show execScanF32 p d a b s = _
  unfold execScanF32
  congr 1
  funext ps l x
  by_cases hx : b.toNat / 8 % 2 = 1
  · simp only [scanF32Res, scanLane, redExcl_iff, redOp_eq, hx, if_true] <;> rfl
  · simp [scanF32Res, scanLane, redExcl_iff, redOp_eq, hx, List.filterMap_eq_map']

/-! ### The cross-lane instructions -/

theorem exec_eq_warpOp {i : Instr} {f : List (Nat × Src) → Nat → Src → Res} {s : State} (r : List (Nat × Src) → Nat → Src → Res)
    (hr : exec i s = warpOp i r s) (hx : ∀ ps l x, r ps l x = f ps l x) : exec i s = warpOp i f s := by
  rw [hr, show r = f from funext fun ps => funext fun l => funext fun x => hx ps l x]

/-- The cross-lane instructions combine the participants of each warp, each with the result that the spec gives. -/
theorem exec_cross {i : Instr} {f : List (Nat × Src) → Nat → Src → Res} (h : Claims.CrossResult i f) (s : State) :
    exec i s = warpOp i f s := by
  cases h with
  | elect p d =>
    show execElect p d s = _
    unfold execElect
    congr 1
    funext ps l x
    rw [predRes_eq]
    cases ps <;> rfl
  | voteAny p d a =>
    exact exec_eq_warpOp (fun ps _ _ => predRes d (ps.any fun e => predSel e.2.t a)) rfl fun ps l x => by simp only [predRes_eq, predSel_eq]
  | voteAll p d a =>
    exact exec_eq_warpOp (fun ps _ _ => predRes d (ps.all fun e => predSel e.2.t a)) rfl fun ps l x => by simp only [predRes_eq, predSel_eq]
  | voteBallot p d a =>
    exact exec_eq_warpOp (fun ps _ _ => res64 (laneMask ((ps.filter fun e => predSel e.2.t a).map Prod.fst))) (by rfl) fun ps l x => by
      simp only [predSel_eq, laneMask_filter ps fun x => Claims.predNamed x.t a]; rfl
  | matchAny p d a =>
    exact exec_eq_warpOp (fun ps _ x => res64 (laneMask ((ps.filter fun e => lo32 e.2.a == lo32 x.a).map Prod.fst))) (by rfl) fun ps l x =>
      congrArg Claims.d64 (laneMask_filter ps fun y => lo32 y.a == lo32 x.a)
  | reduxI32 p d a b =>
    exact exec_eq_warpOp (fun ps _ _ => res32 (foldInt (i32Op (redOp b)) (i32Identity (redOp b)) ps)) rfl fun ps l x => by
      rw [combinedOver_signed, redOp_eq]; rfl
  | reduxUs p d a b =>
    exact exec_eq_warpOp (fun ps _ _ => res32 (foldInt (usOp (redOp b)) (usIdentity (redOp b)) ps)) rfl fun ps l x => by
      rw [combinedOver_unsigned, redOp_eq]; rfl
  | scanI32 p d a b =>
    exact exec_eq_warpOp (fun ps l _ => res32 (scanInt (i32Op (redOp b)) (i32Identity (redOp b)) (redExcl b) ps l)) rfl fun ps l x => by
      rw [combinedOver_signed, scanInt_eq, redOp_eq]; rfl
  | scanUs p d a b =>
    exact exec_eq_warpOp (fun ps l _ => res32 (scanInt (usOp (redOp b)) (usIdentity (redOp b)) (redExcl b) ps l)) rfl fun ps l x => by
      rw [combinedOver_unsigned, scanInt_eq, redOp_eq]; rfl
  | reduxF32 p d a b =>
    exact exec_eq_warpOp (fun ps _ _ => fres (reduxF32 ps (redOp b))) rfl fun ps l x => by rw [redOp_eq]; rfl
  | scanF32 p d a b =>
    refine exec_eq_warpOp (fun ps l _ => scanF32Res b ps l) (exec_scanF32 p d a b s) fun ps l x => ?_
    simp only [scanF32Res, f32Identity_eq] <;> rfl

/-! ### `QSWP` (R155) -/

/-- `QSWP` is a register instruction of the state, with the warp-mate's register of the A field. -/
theorem exec_quadSwap {i : Instr} {x : Nat} {a : BitVec 7} (h : Claims.QuadSwap i (x, a)) (s : State) :
    exec i s = qswpOp i x s ∧ (shapeOf i).a.f = a := by
  cases h <;> exact ⟨rfl, rfl⟩

end Sys2Proof.Machine

section
open Sys2Proof Sys2Proof.Machine

/-- R154 to R160: each cross-lane instruction gives the result of its table to every participant. The edges that the spec leaves open, a
signalling leaf alone and the flags of `SCAN.excl`, are the model's choice (log 71). -/
theorem crossLaneResults : Claims.CrossLaneResults := by
  intro i f h s g hg hop hfp
  rw [exec_cross h]
  exact warpOp_spec i f s g hg hop hfp

/-- R155: `QSWP` reads registers that the traces of its own operands leave as they were. -/
theorem quadSwapResults : Claims.QuadSwapResults := by
  intro i x a h s g hg hop
  obtain ⟨hexec, ha⟩ := exec_quadSwap h s
  rw [RegCompletes, hexec]
  refine regOpG_spec i noFail _ _ s g hg hop (fun _ _ => rfl) (fun m _ => ?_) fun m _ _ => by simp [Claims.d32, trapFlags]
  simp only [present_noted, vreg_noted, thrOf_noted, ha]
  rfl

/-- Settles O18: the instructions that combine the participants of each warp, and the swaps within a quad. -/
theorem crossLaneInstructions : Obligations.CrossLaneInstructions := ⟨crossLaneResults, quadSwapResults⟩

end

/-! ## The mask of `MATCH` (O19) -/

namespace Sys2Proof.Machine

theorem slotOk_pair {d : BitVec 7} (h : slotOk ⟨.dst 2, d⟩ = true) : d.toNat % 2 = 0 ∨ d = 127 := by
  have h' : (decide (d.toNat = 127) || (decide (d.toNat % 2 = 0) && decide (d.toNat < 112))) = true := h
  simp only [Bool.or_eq_true, Bool.and_eq_true, decide_eq_true_eq] at h'
  exact h'.elim (fun h => .inr (BitVec.eq_of_toNat_eq h)) fun h => .inl h.1

theorem slotOk_of_valueCause {i : Instr} (h : valueCause i = none) : slotOk (shapeOf i).d = true := by
  unfold valueCause at h
  dsimp only at h
  split at h
  next hok =>
    simp only [Bool.and_eq_true] at hok
    exact hok.1.1.1
  next => cases h

/-- Bit k of the mask of `MATCH` for a participant: lane k holds a participant of its warp with the same value. -/
theorem getLsbD_matchMask (s : State) (g : Group) (i : Instr) (w : Nat) (v : Word) (k : Nat) (hk : k < 64) :
    (Claims.d64 (Claims.lanesWhere fun k => (warpSources s g i w).any fun e => e.1 == k && lo32 e.2.a == v)).d.getLsbD k = true ↔
      ∃ n ∈ participants s g i, n.warp = w ∧ n.lane = k ∧ lo32 (sources s g i n).a = v := by
  have hwide : k < 128 := by omega
  simp only [Claims.d64, BitVec.getLsbD_setWidth, getLsbD_lanesWhere, hk, hwide, decide_true, Bool.true_and, warpSources, List.any_map,
    List.any_filter, List.any_eq_true, Function.comp, Bool.and_eq_true, beq_iff_eq]

end Sys2Proof.Machine

section
open Sys2Proof Sys2Proof.Machine

/-- Settles O19: the mask of each participant's warp, in which its own lane stands. -/
theorem matchMask : Obligations.MatchMask := by
  unfold Obligations.MatchMask
  refine ⟨fun p d a h => slotOk_pair (slotOk_of_valueCause h), fun w hmaj hmin hb => ?_, ?_⟩
  · obtain ⟨i, hc⟩ := cell_cellsWithoutB (w := w) (by rw [hmaj, hmin]; decide)
    exact decodeWord_of_not_clear hc fun hm => hb (fieldB_of_mask hm)
  · intro p d a s g i hg hop
    obtain ⟨u, hexec, heffect⟩ := crossLaneResults i _ (.matchAny p d a) s g hg hop fun m _ => by simp [Claims.d64, trapFlags]
    refine ⟨u, _, hexec, heffect, fun m hm => ?_⟩
    have hbit := getLsbD_matchMask s g i m.warp (lo32 (sources s g i m).a)
    have hlane : m.lane < 64 := actors_lane s g i m (List.mem_filter.1 hm).1
    exact ⟨(hbit m.lane hlane).2 ⟨m, hm, rfl, rfl, rfl⟩, rfl, rfl, hbit⟩

end

/-! ## Shapes and tile moves (O39) -/

namespace Sys2Proof.Machine

/-! ### The granted shape (R165) -/

/-- N as the shape computes it, and as the least value of a list that is enough. -/
theorem grantedCols_eq (n : Nat) : min 128 (16 * max 1 ((n + 15) / 16)) =
    ([16, 32, 48, 64, 80, 96, 112, 128].find? fun x => decide (n ≤ x)).getD 128 := by
  simp only [List.find?_cons, List.find?_nil]
  repeat' split
  all_goals
    simp_all only [decide_eq_true_eq, decide_eq_false_iff_not, Option.getD_some, Option.getD_none]
    omega

/-- K by the type of the elements, as the shape computes it and as the least value of a list that is enough. -/
theorem grantedDepth_eq (ty k : Nat) :
    (match ty with
      | 2 => if k ≤ 32 then 32 else 64
      | 3 => if k ≤ 32 then 32 else if k ≤ 64 then 64 else 128
      | _ => if k ≤ 16 then 16 else 32) =
    (let ks := if ty = 2 then [32, 64] else if ty = 3 then [32, 64, 128] else [16, 32]
     (ks.find? fun x => decide (k ≤ x)).getD (ks.getLastD 0)) := by
  have hlast : ∀ x, (if k ≤ x then some x else none).getD x = x := fun x => by split <;> rfl
  split
  next => by_cases h : k ≤ 32 <;> simp [h, hlast]
  next => by_cases h : k ≤ 32 <;> by_cases h' : k ≤ 64 <;> simp [h, h', hlast]
  next h2 h3 =>
    have hne : ty ≠ 2 ∧ ty ≠ 3 := ⟨h2, h3⟩
    by_cases h : k ≤ 16 <;> simp [h, hne, hlast]

theorem grantShape_eq (a : Word) : grantShape a = Claims.grantedShape a := by
  have hty : shType a = a.toNat / 2 ^ 24 % 4 := by simp [shType, BitVec.extractLsb'_toNat, Nat.shiftRight_eq_div_pow]
  have hk : shK a = a.toNat / 2 ^ 16 % 256 := by simp [shK, BitVec.extractLsb'_toNat, Nat.shiftRight_eq_div_pow]
  have hn : shN a = a.toNat / 2 ^ 8 % 256 := by simp [shN, BitVec.extractLsb'_toNat, Nat.shiftRight_eq_div_pow]
  unfold grantShape Claims.grantedShape
  dsimp only
  rw [hty, hk, hn, grantedCols_eq]
  exact congrArg (fun k => BitVec.ofNat 32 (2 ^ 31 + a.toNat / 2 ^ 24 % 4 * 2 ^ 24 + k * 2 ^ 16 + _ + 16)) (grantedDepth_eq _ _)

/-! ### A destination written warp by warp -/

theorem leadOf_filter_warp (s : State) (ms : List Member) (q : Nat → Bool) (w : Nat) :
    leadOf s (ms.filter fun m => q m.warp) w = if q w = true then leadOf s ms w else none := by
  unfold leadOf nonHelpers
  rw [List.filter_filter, List.find?_filter, List.find?_filter]
  split
  next h =>
    congr 1
    funext m
    by_cases hw : m.warp = w <;> simp [hw, h]
  next h => exact List.find?_eq_none.2 fun m _ => by by_cases hw : m.warp = w <;> simp [hw, h]

/-- After the members of some warps, those of one more have received their values. -/
theorem Received.add_warp {s t u : State} {i : Instr} {ms : List Member} {v : Member → Val} {q : Nat → Bool} {x : Nat}
    (hms : ∀ m ∈ ms, m.lane < 64) (ht : ∀ m, thrOf t m = thrOf s m) (hp : ∀ w l, present t w l = present s w l)
    (h : Claims.Received s i (ms.filter fun m => q m.warp) v t) (k : Claims.Received t i (ms.filter fun m => m.warp == x) v u) :
    Claims.Received s i (ms.filter fun m => q m.warp || m.warp == x) v u := by
  have hall := fun w => leadOf_filter_warp s ms (fun n => q n || n == x) w
  have hold := fun w => leadOf_filter_warp s ms q w
  have hnew := fun w => (leadOf_congr ht _ w).trans (leadOf_filter_warp s ms (· == x) w)
  refine ⟨fun m hm hpr hd j hj => ?_, fun w m hl hpr h1 h2 j hj => ?_, fun w l r hl hn => ?_, fun w n hn => ?_,
    fun m => (k.threads m).trans (h.threads m)⟩
  · obtain ⟨hmem, hq⟩ := List.mem_filter.1 hm
    by_cases hx : m.warp = x
    · rw [← ht]
      exact k.window m (List.mem_filter.2 ⟨hmem, by simpa using hx⟩) ((hp ..).trans hpr) hd j hj
    · rw [k.otherVreg _ _ _ (hms m hmem)]
      · exact h.window m (List.mem_filter.2 ⟨hmem, by simpa [hx] using hq⟩) hpr hd j hj
      · rintro ⟨n, hn, hw, -⟩
        exact hx (hw.symm.trans (by simpa using (List.mem_filter.1 hn).2))
  · rw [hall] at hl
    by_cases hx : w = x
    · exact k.uniform w m (by rw [hnew, if_pos (by simpa using hx)]; simpa [hx] using hl) ((hp ..).trans hpr) h1 h2 j hj
    · rw [k.otherUreg]
      · exact h.uniform w m (by rw [hold]; simpa [hx] using hl) hpr h1 h2 j hj
      · rintro ⟨hs, -⟩
        rw [hnew, if_neg (by simpa using hx)] at hs
        cases hs
  · refine (k.otherVreg w l r hl ?_).trans (h.otherVreg w l r hl ?_)
    · rintro ⟨m, hm, hw⟩
      rw [ht] at hw
      exact hn ⟨m, (List.monotone_filter_right ms fun _ h => by simp [h]).subset hm, hw⟩
    · rintro ⟨m, hm, hw⟩
      exact hn ⟨m, (List.monotone_filter_right ms fun _ h => by simp [h]).subset hm, hw⟩
  · refine (k.otherUreg w n ?_).trans (h.otherUreg w n ?_)
    · rintro ⟨hs, hw⟩
      rw [hnew] at hs
      exact hn ⟨by rw [hall]; cases hx : w == x <;> simp_all, hw⟩
    · rintro ⟨hs, hw⟩
      rw [hold] at hs
      exact hn ⟨by rw [hall]; cases hx : q w <;> simp_all, hw⟩

/-- Before any warp has received. -/
theorem received_nil {s u : State} (i : Instr) (v : Member → Val) (h : SameRegisters s u) : Claims.Received s i [] v u where
  window _ hm := absurd hm (by simp)
  uniform _ _ hl := absurd hl (by simp [leadOf, nonHelpers])
  otherVreg w l r hl _ := h.vregs w l r hl
  otherUreg w n _ := h.uregs w n
  threads m := by rw [h.threads]

/-! ### `TSHAPE` -/

/-- What the effects of a list of represented warps leave, warp after warp. -/
theorem perWarp_induction (s : State) (g : Group) (i : Instr) (e : State → List Member → Member → Src → State)
    (P : List Nat → State → Prop) (h0 : P [] (noted s g i))
    (hlead : ∀ ws u w m, leadOf s (actors s g i) w = some m → P ws u →
      P (ws ++ [w]) (e u ((actors s g i).filter fun n => n.warp == w) m (sources s g i m)))
    (hnone : ∀ ws u w, leadOf s (actors s g i) w = none → P ws u → P (ws ++ [w]) u) :
    P (warpsIn (actors s g i)) (Claims.perWarp s g i e) := by
  unfold Claims.perWarp
  induction warpsIn (actors s g i) using List.reverseRecOn with
  | nil => exact h0
  | append_singleton ws w ih =>
    rw [List.foldl_append, List.foldl_cons, List.foldl_nil]
    cases hl : leadOf s (actors s g i) w with
    | none => exact hnone ws _ w hl ih
    | some m => exact hlead ws _ w m hl ih

/-- The shape that an instruction grants a member's warp, as its D receives it. -/
def shapeFor (s : State) (g : Group) (i : Instr) (m : Member) : Val :=
  (Claims.grantedShape (lo32 (Claims.ledSource s g i m).a)).setWidth 128

/-- The shape of a warp once its lowest actor has been granted its request. -/
def shapeAfter (s : State) (g : Group) (i : Instr) (w : Nat) : Word :=
  match leadOf s (actors s g i) w with
  | some m => Claims.grantedShape (lo32 (sources s g i m).a)
  | none => (warpOf s w).shape

/-- A warp's shape written. -/
def reshaped (s : State) (w : Nat) (v : Word) : State := updWarp s w fun x => { x with shape := v }

theorem vreg_reshaped (s : State) (w : Nat) (v : Word) (x l r : Nat) : vreg (reshaped s w v) x l r = vreg s x l r := by
  rw [vreg, reshaped, warpOf_updWarp]
  split <;> rfl
theorem ureg_reshaped (s : State) (w : Nat) (v : Word) (x n : Nat) : ureg (reshaped s w v) x n = ureg s x n := by
  rw [ureg, reshaped, warpOf_updWarp]
  split <;> rfl
theorem thrOf_reshaped (s : State) (w : Nat) (v : Word) (m : Member) : thrOf (reshaped s w v) m = thrOf s m :=
  thrOf_updWarp_of_lanes s w _ m fun _ => rfl
theorem present_reshaped (s : State) (w : Nat) (v : Word) (x l : Nat) : present (reshaped s w v) x l = present s x l := by
  rw [present, reshaped, warpOf_updWarp]
  split <;> rfl
theorem shape_reshaped (s : State) (w : Nat) (v : Word) (x : Nat) :
    (warpOf (reshaped s w v) x).shape = if w = x ∧ warpIn s x then v else (warpOf s x).shape := by
  rw [reshaped, warpOf_updWarp]
  split <;> rfl
theorem auditFrame_reshaped (s : State) (w : Nat) (v : Word) : AuditFrame s (reshaped s w v) := .of_same rfl rfl rfl rfl rfl

/-- The warp of the lowest actor takes the shape that its request is granted, and its actors receive that. -/
def grantTo (i : Instr) (u : State) (act : List Member) (m : Member) (x : Src) : State :=
  spreadD (reshaped u m.warp (Claims.grantedShape (lo32 x.a))) i act ((Claims.grantedShape (lo32 x.a)).setWidth 128)

/-- Some warps have their granted shapes, and their actors have received them. -/
structure ShapesGranted (s : State) (g : Group) (i : Instr) (ws : List Nat) (u : State) : Prop where
  received : Claims.Received s i ((actors s g i).filter fun m => (leadOf s (actors s g i) m.warp).isSome && decide (m.warp ∈ ws))
    (shapeFor s g i) u
  threads : ∀ m, thrOf u m = thrOf s m
  present : ∀ w l, present u w l = present s w l
  warps : ∀ w, warpIn u w ↔ warpIn s w
  shape : ∀ w, warpIn s w → (warpOf u w).shape = if w ∈ ws then shapeAfter s g i w else (warpOf s w).shape
  memory : AuditFrame s u

theorem shape_writeD (s : State) (x : Slot) (vals : List (Member × Val)) (w : Nat) :
    (warpOf (writeD s x vals) w).shape = (warpOf s w).shape := by
  have h := congrArg Warp.shape ((sameFrame_writeD s x vals).warp w)
  exact h

theorem shape_noted (s : State) (g : Group) (i : Instr) (w : Nat) : (warpOf (noted s g i) w).shape = (warpOf s w).shape := by
  have h := congrArg Warp.shape ((sameFrame_noted s g i).warp w)
  rw [warpOf_congr (warps_constTraces ..)] at h
  exact h

theorem warpIn_noted (s : State) (g : Group) (i : Instr) (w : Nat) : warpIn (noted s g i) w ↔ warpIn s w := by
  rw [(sameFrame_noted s g i).warpIn, warpIn, warps_constTraces]

theorem shapesGranted_noted (s : State) (g : Group) (i : Instr) : ShapesGranted s g i [] (noted s g i) where
  received := by simpa using received_nil i _ (sameRegisters_noted s g i)
  threads := thrOf_noted s g i
  present := present_noted s g i
  warps := warpIn_noted s g i
  shape w _ := by simpa using shape_noted s g i w
  memory := auditFrame_noted s g i

theorem ShapesGranted.skip {s u : State} {g : Group} {i : Instr} {ws : List Nat} {w : Nat} (h : ShapesGranted s g i ws u)
    (hl : leadOf s (actors s g i) w = none) : ShapesGranted s g i (ws ++ [w]) u where
  received := by
    have hsame : ((actors s g i).filter fun m => (leadOf s (actors s g i) m.warp).isSome && decide (m.warp ∈ ws ++ [w])) =
        (actors s g i).filter fun m => (leadOf s (actors s g i) m.warp).isSome && decide (m.warp ∈ ws) := by
      refine List.filter_congr fun m _ => ?_
      by_cases hw : m.warp = w <;> simp [hw, hl]
    rw [hsame]
    exact h.received
  threads := h.threads
  present := h.present
  warps := h.warps
  shape x hx := by
    rw [h.shape x hx]
    by_cases hw : x = w
    · simp [hw, shapeAfter, hl]
    · simp [hw]
  memory := h.memory

/-- D of the actors of a granted warp, written with what each of them receives. -/
theorem grantTo_eq {s : State} {g : Group} {i : Instr} {m : Member} (u : State) (hl : leadOf s (actors s g i) m.warp = some m) :
    grantTo i u ((actors s g i).filter fun n => n.warp == m.warp) m (sources s g i m) =
      writeD (reshaped u m.warp (Claims.grantedShape (lo32 (sources s g i m).a))) (shapeOf i).d
        (((actors s g i).filter fun n => n.warp == m.warp).map fun n => (n, shapeFor s g i n)) := by
  refine congrArg (writeD _ (shapeOf i).d) (List.map_congr_left fun n hn => ?_)
  have hw : n.warp = m.warp := by simpa using (List.mem_filter.1 hn).2
  rw [shapeFor, Claims.ledSource, hw, hl]

/-- The effect on a warp in the state which those before it have left. -/
theorem ShapesGranted.grant {s u : State} {g : Group} {i : Instr} {ws : List Nat} {w : Nat} {m : Member} (h : ShapesGranted s g i ws u)
    (hl : leadOf s (actors s g i) w = some m) :
    ShapesGranted s g i (ws ++ [w]) (grantTo i u ((actors s g i).filter fun n => n.warp == w) m (sources s g i m)) := by
  obtain ⟨-, rfl, -⟩ := leadOf_mem s _ w m hl
  rw [grantTo_eq u hl]
  generalize hv : Claims.grantedShape (lo32 (sources s g i m).a) = v
  have hframe := sameFrame_writeD (reshaped u m.warp v) (shapeOf i).d
    (((actors s g i).filter fun n => n.warp == m.warp).map fun n => (n, shapeFor s g i n))
  refine ⟨?_, fun n => ?_, fun w l => ?_, fun w => ?_, fun w hw => ?_, ?_⟩
  · have hnew := received_writeD (s := u) (ms := (actors s g i).filter fun n => n.warp == m.warp) (i := i) (shapeFor s g i)
      (fun n hn => actors_lane s g i n (List.mem_filter.1 hn).1) (vreg_reshaped u m.warp v) (ureg_reshaped u m.warp v)
      (thrOf_reshaped u m.warp v) (present_reshaped u m.warp v)
    have hadd := Received.add_warp (q := fun w => (leadOf s (actors s g i) w).isSome && decide (w ∈ ws)) (actors_lane s g i) h.threads
      h.present h.received hnew
    convert hadd using 2
    funext n
    by_cases hw : n.warp = m.warp <;> simp [hw, hl]
  · rw [thrOf_writeD, thrOf_reshaped, h.threads]
  · rw [hframe.present, present_reshaped, h.present]
  · rw [hframe.warpIn, reshaped, warpIn_updWarp, h.warps]
  · rw [shape_writeD, shape_reshaped]
    by_cases hx : m.warp = w
    · subst hx
      rw [if_pos ⟨rfl, (h.warps _).2 hw⟩]
      simp [shapeAfter, hl, hv]
    · rw [if_neg fun e => hx e.1, h.shape w hw]
      simp [Ne.symm hx]
  · exact (h.memory.trans (auditFrame_reshaped ..)).trans hframe.auditFrame

/-- R165: each represented warp has the shape that it is granted, and its actors have received it. -/
theorem shapeGranted : Claims.ShapeGranted := by
  intro p d a s g i hr
  have hexec : exec i s = perWarpOp i .own noWait noFail (fun u _ act m x =>
      spreadD (updWarp u m.warp fun w => { w with shape := grantShape (lo32 x.a) }) i act ((grantShape (lo32 x.a)).setWidth 128)) s := rfl
  simp only [grantShape_eq] at hexec
  have hgrant : ShapesGranted s g i (warpsIn (actors s g i)) (Claims.perWarp s g i fun u act m x => grantTo i u act m x) :=
    perWarp_induction s g i _ _ (shapesGranted_noted s g i) (fun ws u w m hl h => h.grant hl) fun ws u w hl h => h.skip hl
  refine ⟨_, hexec.trans (perWarpOp_plain i .own noWait noFail _ s g hr (fun _ _ _ => rfl) fun _ _ _ => rfl), fun w hw => ?_, ?_,
    hgrant.memory.memoryKept⟩
  · refine (hgrant.shape w hw).trans ?_
    split
    · rfl
    next hn =>
      cases hl : leadOf s (actors s g i) w with
      | none => rfl
      | some m =>
        obtain ⟨hm, hmw, -⟩ := leadOf_mem s _ w m hl
        exact absurd ((mem_warpsIn ..).2 ⟨m, hm, hmw⟩) hn
  · have hled : Claims.ledActors s g i =
        (actors s g i).filter fun m => (leadOf s (actors s g i) m.warp).isSome && decide (m.warp ∈ warpsIn (actors s g i)) := by
      refine List.filter_congr fun m hm => ?_
      simp [(mem_warpsIn ..).2 ⟨m, hm, rfl⟩]
    rw [hled]
    exact hgrant.received

/-! ### Tiles and operand buffers (R163, R164) -/

theorem bmSetAll_append {w : Nat} (m : BMap w) (l r : List (Nat × BitVec w)) : bmSetAll m (l ++ r) = bmSetAll (bmSetAll m l) r := by
  induction l generalizing m with
  | nil => rfl
  | cons e l ih => exact ih _

/-- A key that none of some writes names keeps its value. -/
theorem bmGet_bmSetAll_of_not_mem {w : Nat} (m : BMap w) (l : List (Nat × BitVec w)) (b : Nat) (h : ∀ e ∈ l, e.1 ≠ b) :
    bmGet (bmSetAll m l) b = bmGet m b := by
  induction l generalizing m with
  | nil => rfl
  | cons e l ih =>
    rw [bmSetAll, ih _ fun x hx => h x (List.mem_cons_of_mem _ hx), bmGet_bmSet, if_neg (h e (List.mem_cons_self ..))]

/-- Values written to keys that differ. -/
theorem bmGet_bmSetAll_of_inj {w : Nat} (m : BMap w) (n : Nat) (key : Nat → Nat) (v : Nat → BitVec w)
    (hkey : ∀ k < n, ∀ j < n, key k = key j → k = j) (k : Nat) (hk : k < n) :
    bmGet (bmSetAll m ((List.range n).map fun j => (key j, v j))) (key k) = v k := by
  induction n generalizing k with
  | zero => omega
  | succ n ih =>
    rw [List.range_succ, List.map_append, bmSetAll_append]
    simp only [List.map_cons, List.map_nil, bmSetAll, bmGet_bmSet]
    by_cases hkn : k = n
    · rw [hkn, if_pos rfl]
    · rw [if_neg fun e => hkn (hkey n (by omega) k hk e).symm]
      exact ih (fun a ha b hb => hkey a (by omega) b (by omega)) k (by omega)

/-- Byte j of the number of some bytes. -/
theorem leNat_byte (l : List Byte) (j : Nat) : BitVec.ofNat 8 (leNat l / 256 ^ j) = l.getD j 0 := by
  induction l generalizing j with
  | nil => simp [leNat]
  | cons b l ih =>
    have hb : b.toNat < 256 := b.isLt
    cases j with
    | zero =>
      apply BitVec.eq_of_toNat_eq
      rw [leNat, List.getD_cons_zero, Nat.pow_zero, Nat.div_one, BitVec.toNat_ofNat]
      omega
    | succ j =>
      rw [leNat, List.getD_cons_succ, Nat.pow_succ', ← Nat.div_div_eq_div_mul, show (b.toNat + 256 * leNat l) / 256 = leNat l by omega]
      exact ih j

theorem leNat_word_byte (l : List Byte) (j : Nat) (hj : j < 4) :
    (BitVec.ofNat 32 (leNat l)).extractLsb' (8 * j) 8 = l.getD j 0 := by
  rw [← leNat_byte]
  apply BitVec.eq_of_toNat_eq
  rw [BitVec.extractLsb'_toNat, Nat.shiftRight_eq_div_pow, BitVec.toNat_ofNat, BitVec.toNat_ofNat, show 256 = 2 ^ 8 from rfl, ← Nat.pow_mul]
  obtain rfl | rfl | rfl | rfl : j = 0 ∨ j = 1 ∨ j = 2 ∨ j = 3 := by omega
  all_goals omega

theorem tileWord_inj (w : Warp) (k n j : Nat) (h : tileWord w k n = tileWord w k j) (hn : n < 256) (hj : j < 256) : n = j := by
  unfold tileWord at h
  omega

/-- Byte b of row i of a tile lies in the word that holds byte 64 i + b of the image. -/
theorem tileByte_eq (w : Warp) (k n : Nat) :
    tileByte w k (n / 64) (n % 64) = (bmGet w.vr (tileWord w k (n / 4))).extractLsb' (8 * (n % 4)) 8 := by
  have hreg : n % 64 % 16 / 4 = n / 4 % 4 := by omega
  have hbyte : n % 64 % 4 = n % 4 := by omega
  have hlane (r : Nat) : r + 4 * (n / 64) + n % 64 / 16 = r + n / 4 / 4 := by omega
  simp only [tileByte, tileWord, hreg, hbyte, hlane]

theorem warps_readBefore (s : State) (tile : Bool) (owner : Nat) (l : List (Nat × Word)) : (readBefore s tile owner l).warps = s.warps := rfl

theorem vr_setTile (s : State) (w k : Nat) (img : List Byte) (h : warpIn s w) :
    (warpOf (setTile s w k img) w).vr = bmSetAll (warpOf s w).vr ((List.range 256).map fun n =>
      (tileWord (warpOf s w) k n, BitVec.ofNat 32 (leNat ((img.drop (4 * n)).take 4)))) := by
  have hin : warpIn (readBefore s true w (tileWords (warpOf s w) k)) w := by rwa [warpIn, warps_readBefore]
  unfold setTile
  dsimp only
  rw [warpOf_updWarp_self _ _ _ hin, warpOf_congr (warps_readBefore ..)]

theorem topReg_setTile (s : State) (w k : Nat) (img : List Byte) : topReg (warpOf (setTile s w k img) w) = topReg (warpOf s w) := by
  rw [setTile, warpOf_updWarp]
  split <;> rfl

theorem wgOf_updWg_self (s : State) (h : Nat) (f : Wg → Wg) (hin : (tblGet? s.wgs h).isSome = true) :
    wgOf (updWg s h f) h = f (wgOf s h) := by
  rw [wgOf, updWg, tblGet_tblUpd, if_pos ⟨rfl, hin⟩, wgOf]

theorem opb_setOpb (s : State) (h off : Nat) (img : List Byte) (hin : (tblGet? s.wgs h).isSome = true) :
    (wgOf (setOpb s h off img) h).opb = bmSetAll (wgOf s h).opb ((List.range img.length).map fun k => (off + k, img.getD k 0)) := by
  rw [setOpb, wgOf_updWg_self _ _ _ (show (tblGet? (readBefore s false h _).wgs h).isSome = true from hin)]
  rfl

/-- The image of a tile that was written is what was written. -/
theorem tileBytes_setTile (s : State) (w k : Nat) (img : List Byte) (h : warpIn s w) (n : Nat) (hn : n < 1024) :
    (tileBytes (warpOf (setTile s w k img) w) k).getD n 0 = img.getD n 0 := by
  have hword : tileWord (warpOf (setTile s w k img) w) k = tileWord (warpOf s w) k := by
    funext j
    rw [tileWord, topReg_setTile, tileWord]
  calc (tileBytes (warpOf (setTile s w k img) w) k).getD n 0
      = tileByte (warpOf (setTile s w k img) w) k (n / 64) (n % 64) := by simp [tileBytes, hn]
    _ = (BitVec.ofNat 32 (leNat ((img.drop (4 * (n / 4))).take 4))).extractLsb' (8 * (n % 4)) 8 := by
      rw [tileByte_eq, hword, vr_setTile s w k img h, bmGet_bmSetAll_of_inj _ _ _ _ _ _ (show n / 4 < 256 by omega)]
      exact fun a ha b hb e => tileWord_inj _ _ _ _ e ha hb
    _ = ((img.drop (4 * (n / 4))).take 4).getD (n % 4) 0 := leNat_word_byte _ _ (by omega)
    _ = img.getD n 0 := by
      have hdiv : 4 * (n / 4) + n % 4 = n := by omega
      simp [List.getD_eq_getElem?_getD, List.getElem?_drop, hdiv, Nat.mod_lt]

theorem vreg_setTile_of_outside (s : State) (w k l r : Nat) (img : List Byte) (h : warpIn s w) (hl : l < 64)
    (hr : r < topReg (warpOf s w) + 4 * k ∨ topReg (warpOf s w) + 4 * k + 4 ≤ r) : vreg (setTile s w k img) w l r = vreg s w l r := by
  rw [vreg, vr_setTile s w k img h, bmGet_bmSetAll_of_not_mem]
  · rfl
  · intro e he
    obtain ⟨n, hn, rfl⟩ := List.mem_map.1 he
    have hn' := List.mem_range.1 hn
    dsimp only [tileWord]
    omega

/-! ### `TMOV` -/

/-- A selector's direction bit. -/
theorem tmovDir_eq (d : BitVec 7) : d.getLsbD 3 = decide (d.toNat / 8 % 2 = 1) := Nat.testBit_eq_decide_div_mod_eq

/-- The checks of R178 in their order, and none of the registers that are read is poisoned. -/
theorem tmovFail_none {d : BitVec 7} {s : State} {g : Group} {i : Instr} {m : Member}
    (hnt : d.toNat % 8 < (warpOf s m.warp).nt) (hal : (lo32 (sources s g i m).a).toNat % 64 = 0)
    (hfit : (lo32 (sources s g i m).a).toNat + 1024 ≤ (khdrOfWarp s m.warp).opbanks * 4096)
    (hbad : d.toNat / 8 % 2 = 1 → ∀ b ∈ (warpOf s m.warp).bad, b / 64 < topReg (warpOf s m.warp) + 4 * (d.toNat % 8) ∨
      topReg (warpOf s m.warp) + 4 * (d.toNat % 8) + 4 ≤ b / 64) : tmovFail d s m (sources s g i m) = none := by
  have hpoison : d.toNat / 8 % 2 = 1 → tilePoison (warpOf s m.warp) (d.toNat % 8) 4 = none := by
    intro hd
    rw [tilePoison, Option.map_eq_none_iff, List.find?_eq_none]
    intro b hb
    have hout := hbad hd b hb
    rw [decide_eq_true_eq]
    omega
  unfold tmovFail
  rw [extract3_toNat, sources_w, tileFail, if_neg (by omega), tmovDir_eq]
  dsimp only
  rw [if_neg (by omega), if_neg (by omega)]
  split
  next hd => exact hpoison (by simpa using hd)
  next => rfl

/-- R164, R178: the image goes into the buffer, or back, row after row, and the rest of either stays. -/
theorem tileMove : Claims.TileMove := by
  refine ⟨fun p d a s g => ?_, fun s w k img hw _ => ⟨tileBytes_setTile s w k img hw, fun l r hl hr =>
    vreg_setTile_of_outside s w k l r img hw hl hr⟩, fun s h off img hin => ⟨fun n hn => ?_, fun n hn => ?_⟩⟩
  · intro i hr hlead
    have hf : Claims.EachLead s g i fun m x => tmovFail d s m x = none := by
      intro w m hl
      obtain ⟨hnt, hal, hfit, hbad⟩ := hlead w m hl
      exact tmovFail_none hnt hal hfit hbad
    have hexec : exec i s = perWarpOp i .own noWait (tmovFail d) (fun v _ _ m x =>
        if d.getLsbD 3 then setOpb v (warpOf v m.warp).wg (lo32 x.a).toNat (tileBytes (warpOf v m.warp) (d.extractLsb' 0 3).toNat)
        else setTile v m.warp (d.extractLsb' 0 3).toNat (bmList (wgOfWarp v m.warp).opb (lo32 x.a).toNat 1024)) s := rfl
    simp only [extract3_toNat, tmovDir_eq, decide_eq_true_eq] at hexec
    exact hexec.trans (perWarpOp_plain i .own noWait (tmovFail d) _ s g hr (fun _ _ _ => rfl) hf)
  · rw [opb_setOpb s h off img hin, bmGet_bmSetAll_range, if_pos (by omega), Nat.add_sub_cancel_left]
  · rw [opb_setOpb s h off img hin, bmGet_bmSetAll_range, if_neg (by omega)]

end Sys2Proof.Machine

section
open Sys2Proof Sys2Proof.Machine

/-- Settles O39: the granted shapes warp by warp, and the words of a tile with those of the operand buffer. -/
theorem tilesShapedAndMoved : Obligations.TilesShapedAndMoved := ⟨shapeGranted, tileMove⟩

end

/-! ## Fences and the copies of a die (O31)

R222 has a fence with acquire strength at package scope drop the copies of the member's die. The model takes the die's entry out of a table,
as an acquire load does, and the statement takes any state: where the table lists the die twice, the second entry stays. -/

namespace Sys2Proof.Machine

/-- The fence with acquire strength at package scope. -/
def packageFence : Instr := .fenceAcq 7 4

theorem actors_packageFence : actors twiceListed loneGroup packageFence = [loneMember] := by decide
theorem ready_packageFence : Claims.Ready twiceListed loneGroup packageFence :=
  ⟨rfl, by unfold Unreplicated; decide, by unfold OperandsPass; decide⟩

/-- The fence drops the first entry of the die (R222); the copy in the second is found in its place. -/
theorem copy_after_fence : (match exec packageFence twiceListed with
    | .next u => (tblGet? (dieCopies u 0) 0).isSome
    | _ => false) = true := by decide +kernel

theorem not_fencesComplete : ¬ Claims.FencesComplete := by
  intro h
  obtain ⟨u, hexec, -, -, -, hdrop⟩ := h packageFence 4 true false (.fenceAcq 7 4) twiceListed loneGroup ready_packageFence
    (by unfold Claims.EachActor; decide) (fun hrel => absurd hrel (by decide)) (fun _ _ => by unfold Claims.EachChecked; decide)
  have hcopy := copy_after_fence
  rw [hexec] at hcopy
  have hheld : (tblGet? (dieCopies u 0) 0).isSome = true := (noNewCopies_retire u).held 0 0 hcopy
  obtain ⟨-, hdie⟩ := hdrop rfl loneMember (by rw [actors_packageFence]; exact List.mem_singleton_self _) (by decide)
  have hnone : dieCopies u 0 = [] := hdie (by decide)
  rw [hnone] at hheld
  exact absurd hheld (by decide)

end Sys2Proof.Machine

section
open Sys2Proof Sys2Proof.Machine

/-- Refutes O31: where the table of the dies' copies lists a die twice, a fence with acquire strength at package scope drops the first entry
alone, and the die holds afterwards the copies of the second one. -/
theorem not_fencesAndSynchronisation : ¬ Obligations.FencesAndSynchronisation := fun h => not_fencesComplete h.1

end

/-! ## Writes on their way to their homes (O33) -/

namespace Sys2Proof.Machine

/-! ### Copies that give way, and places of the on-chip map -/

theorem mem_dropCopiesOf (s : State) (core a n : Nat) : (dropCopiesOf s core a n).mem = s.mem := by
  unfold dropCopiesOf
  dsimp only
  split <;> rfl

theorem warps_dropCopiesOf (s : State) (core a n : Nat) : (dropCopiesOf s core a n).warps = s.warps := by
  unfold dropCopiesOf
  dsimp only
  split <;> rfl

theorem writes_dropCopiesOf (s : State) (core a n : Nat) : (dropCopiesOf s core a n).writes = s.writes :=
  (traceFrame_dropCopiesOf s core a n).read State.writes fun _ => rfl

/-- Only the packages say which channels are lost. -/
theorem channelLost_congr {s u : State} (h : u.pkgs = s.pkgs) (a : Nat) : channelLost u a = channelLost s a := by
  rw [channelLost, channelLost, pkgAt, pkgAt, h]

theorem channelLost_dropCopiesOf (s : State) (core a n b : Nat) : channelLost (dropCopiesOf s core a n) b = channelLost s b :=
  channelLost_congr ((traceFrame_dropCopiesOf s core a n).read State.pkgs fun _ => rfl) b

/-- A word of the on-chip map is no byte of memory and no write on its way. -/
theorem mem_putChipWord (s : State) (core off : Nat) (v : Word) : (putChipWord s core off v).mem = s.mem := by
  unfold putChipWord
  dsimp only
  split <;> rfl

theorem writes_putChipWord (s : State) (core off : Nat) (v : Word) : (putChipWord s core off v).writes = s.writes := by
  unfold putChipWord
  dsimp only
  split <;> rfl

theorem mem_putChipBytes (s : State) (pa : Nat) (l : List Byte) : (putChipBytes s pa l).mem = s.mem := by
  induction l generalizing s pa with
  | nil => rfl
  | cons b t ih => exact (ih _ _).trans (mem_putChipWord ..)

theorem writes_putChipBytes (s : State) (pa : Nat) (l : List Byte) : (putChipBytes s pa l).writes = s.writes := by
  induction l generalizing s pa with
  | nil => rfl
  | cons b t ih => exact (ih _ _).trans (writes_putChipWord ..)

/-! ### A step of the path and the merge (R198, R201, R203) -/

/-- A write leaves the table, and the copies of its bytes give way: the state that its home, or its place, then takes. -/
def mergeLeft (s : State) (id : Nat) (w : PWrite) : State :=
  dropCopiesOf { s with writes := tblDel s.writes id } w.pcore w.addr w.data.length

theorem exec_writeBackMerge {s : State} {w : PWrite} (h : tblGet? s.writes s.arg.a = some w) (hmove : mayMove s s.arg.a w = true)
    (hlevel : nextLevel w = 4) (hunit : unitProtected s w.addr w.data.length = false) :
    exec .writeBackMerge s = .next (settleWarp (if isOnChip (gpLocal w.addr) then putChipBytes (mergeLeft s s.arg.a w) w.addr w.data
      else putHome (mergeLeft s s.arg.a w) w.addr w.key w.data) w.warp) := by
  have hdue : mergeDue s s.arg.a = true := by simp [mergeDue, h, hmove, hlevel, hunit]
  show execWriteBackMerge s = _
  rw [execWriteBackMerge, if_pos hdue, mergeWrite, tblGet_of_some h]
  rfl

theorem writeMoves : Claims.WriteMoves := by
  intro s w h hmove hlevel
  have hcopies := traceFrame_dropCopiesOf s w.pcore w.addr w.data.length
  refine ⟨stepWrite s s.arg.a w, ?_, ?_, mem_dropCopiesOf .., sameRegisters_of_warps (warps_dropCopiesOf ..)⟩
  · show execWritePerformedAtScope s = _
    simp [execWritePerformedAtScope, h, hmove, hlevel]
  · rw [stepWrite]
    dsimp only
    rw [writes_dropCopiesOf, hcopies.read State.nextId fun _ => rfl]

theorem writeMerges : Claims.WriteMerges := by
  intro s w h hmove hlevel hunit
  have hexec := exec_writeBackMerge h hmove hlevel hunit
  have hwrites : (mergeLeft s s.arg.a w).writes = tblDel s.writes s.arg.a := writes_dropCopiesOf ..
  have hwarps : (mergeLeft s s.arg.a w).warps = s.warps := warps_dropCopiesOf ..
  have hmem : (mergeLeft s s.arg.a w).mem = s.mem := mem_dropCopiesOf ..
  constructor
  · intro hchip hcap hplain
    have hlost : ∀ k < w.data.length, channelLost (mergeLeft s s.arg.a w) (w.addr + k) = false := fun k hk =>
      (channelLost_dropCopiesOf ..).trans (hplain k hk).2
    have hbyte := fun b => bmGet_putHome (mergeLeft s s.arg.a w) w.addr w.key w.data b hcap hlost
    rw [if_neg (Bool.eq_false_iff.1 hchip)] at hexec
    refine ⟨_, hexec, (writes_putHome ..).trans hwrites, sameRegisters_of_warps ((warps_putHome ..).trans hwarps), fun k hk => ?_,
      fun b hb => ?_⟩
    · rw [hbyte, if_pos (by omega), Nat.add_sub_cancel_left]
    · rw [hbyte, if_neg (by omega), hmem]
  · intro hchip
    rw [if_pos hchip] at hexec
    exact ⟨mergeLeft s s.arg.a w, _, hexec, rfl, hwrites, (traceFrame_dropCopiesOf ..).read State.wgs fun _ => rfl, hwarps,
      (mem_putChipBytes ..).trans hmem, (writes_putChipBytes ..).trans hwrites⟩

end Sys2Proof.Machine

section
open Sys2Proof Sys2Proof.Machine

/-- Settles O33: a write's step along its path, and its merge at its home or in its place of the on-chip map. -/
theorem writesOnTheirWay : Obligations.WritesOnTheirWay := ⟨writeMoves, writeMerges⟩

end

/-! ## Atomics at their home, and the replay of posted ones (O29) -/

namespace Sys2Proof.Machine

/-! ### What writes at homes, records and copies leave -/

/-- A state without memory and what is kept with it, without copies, and without the tables of contexts, parts, grids and cores. -/
def bareSystem (s : State) : State :=
  { s with mem := [], poison := [], lineKey := [], ctxs := [], parts := [], grids := [], dcopies := [], pcores := [] }

/-- Two states differ in that alone. -/
structure SystemFrame (s u : State) : Prop where
  same : bareSystem u = bareSystem s

theorem SystemFrame.refl (s : State) : SystemFrame s s := ⟨rfl⟩
theorem SystemFrame.trans {s t u : State} (h : SystemFrame s t) (k : SystemFrame t u) : SystemFrame s u := ⟨k.same.trans h.same⟩

/-- What reads nothing of that is the same in both states. -/
theorem SystemFrame.read {s u : State} (h : SystemFrame s u) {β : Type} (f : State → β) (hf : ∀ v, f (bareSystem v) = f v) : f u = f s := by
  rw [← hf u, h.same, hf]

theorem SystemFrame.warps {s u : State} (h : SystemFrame s u) : u.warps = s.warps := h.read State.warps fun _ => rfl
theorem SystemFrame.writes {s u : State} (h : SystemFrame s u) : u.writes = s.writes := h.read State.writes fun _ => rfl
theorem SystemFrame.isRedun {s u : State} (h : SystemFrame s u) (w : Nat) : isRedun u w = isRedun s w := h.read (Machine.isRedun · w) fun _ => rfl

theorem systemFrame_putHome (s : State) (a key : Nat) (data : List Byte) : SystemFrame s (putHome s a key data) := by
  have h := congrArg bareSystem (homeFrame_putHome s a key data).rest
  exact ⟨h⟩

theorem systemFrame_putNat (s : State) (a n v : Nat) : SystemFrame s (putNat s a n v) := systemFrame_putHome ..

theorem systemFrame_dropCopiesOf (s : State) (core a n : Nat) : SystemFrame s (dropCopiesOf s core a n) := by
  unfold dropCopiesOf
  dsimp only
  split <;> exact ⟨rfl⟩

theorem systemFrame_keepAtomFlags (s : State) (grid part : Nat) (f : BitVec 6) : SystemFrame s (keepAtomFlags s grid part f) := by
  unfold keepAtomFlags
  split
  · exact .refl s
  · exact ⟨rfl⟩

theorem systemFrame_fillClr (s : State) (part ident tag : Nat) : SystemFrame s (fillClr s part ident tag) := by
  unfold fillClr
  split
  · exact .refl s
  · exact ⟨rfl⟩

theorem systemFrame_putSlots (s : State) (b size : Nat) (l : List (List Byte)) : SystemFrame s (putSlots s b size l) := by
  induction l generalizing s with
  | nil => exact .refl s
  | cons x t ih => exact ((systemFrame_putHome ..).trans (systemFrame_putNat ..)).trans (ih _)

theorem systemFrame_putHeldCount (s : State) (k : Nat) : SystemFrame s (putHeldCount s k) := by
  unfold putHeldCount
  split
  · exact .refl s
  · exact systemFrame_putNat ..

theorem systemFrame_writeParts (s : State) (k : Nat) (r : FaultRec) (n : Nat) : SystemFrame s (writeParts s k r n) := by
  unfold writeParts
  dsimp only
  generalize (if (partOf s k).held.any fun e => sameSource e.1 r then 0 else min (faultFree s (partOf s k)) ((faultSlots r).length - n)) = m
  have hslots : SystemFrame s (match faultQueue? (partOf s k) with
      | some (b, size) => putSlots s b size (((faultSlots r).drop n).take m)
      | none => s) := by
    split
    · exact systemFrame_putSlots ..
    · exact .refl s
  split
  · exact hslots
  · exact hslots.trans ⟨(systemFrame_putHeldCount ..).same⟩

/-- A fault record is written into memory, held by its part, and counted by its grid and context. -/
theorem systemFrame_appendFault (s : State) (k : Nat) (r : FaultRec) : SystemFrame s (appendFault s k r) :=
  ⟨(systemFrame_writeParts ..).same⟩

/-! ### The value that an atomic writes (R226, R230) -/

theorem signedOf_toNat {n : Nat} (x : BitVec n) : signedOf n x.toNat = x.toInt := by
  rcases Nat.eq_zero_or_pos n with rfl | hn
  · simp [BitVec.of_length_zero, signedOf]
  · have htwo : 2 ^ n = 2 * 2 ^ (n - 1) := by rw [← Nat.pow_succ', Nat.succ_eq_add_one, Nat.sub_add_cancel hn]
    rw [signedOf, BitVec.toInt_eq_toNat_cond]
    by_cases h : x.toNat < 2 ^ (n - 1)
    · rw [if_pos h, if_pos (by omega)]
    · rw [if_neg h, if_neg (by omega)]
      norm_cast

theorem toNat_ite {n : Nat} (c : Prop) [Decidable c] (x y : BitVec n) : (if c then x else y).toNat = if c then x.toNat else y.toNat :=
  apply_ite BitVec.toNat c x y

theorem toNat_add_one {n : Nat} {x y : BitVec n} (h : x.toNat < y.toNat) : (x + 1).toNat = x.toNat + 1 := by
  have hy := y.isLt
  have hone : (1 : BitVec n).toNat = 1 := (BitVec.toNat_ofNat 1 n).trans (Nat.mod_eq_of_lt (by omega))
  rw [BitVec.toNat_add, hone, Nat.mod_eq_of_lt (by omega)]

theorem toNat_eq_zero {n : Nat} (x : BitVec n) : x.toNat = 0 ↔ x = 0 := by
  rw [← BitVec.toNat_inj]
  simp

theorem toNat_sub_one {n : Nat} {x : BitVec n} (h : x ≠ 0) : (x - 1).toNat = x.toNat - 1 := by
  have hx := x.isLt
  have hpos : x.toNat ≠ 0 := fun h0 => h ((toNat_eq_zero x).1 h0)
  have hone : (1 : BitVec n).toNat = 1 := (BitVec.toNat_ofNat 1 n).trans (Nat.mod_eq_of_lt (by omega))
  rw [BitVec.toNat_sub_of_le (by rw [BitVec.le_def, hone]; omega), hone]

/-- On bit vectors the model's integer atomics are those of R226's table. -/
theorem atomNew_toNat {n : Nat} (op : Nat) (x y b : BitVec n) :
    atomNew op n x.toNat y.toNat b.toNat = (Claims.intAtom op x y b).map BitVec.toNat := by
  unfold atomNew Claims.intAtom
  split
  case h_1 => simp
  case h_2 | h_4 => simp [signedOf_toNat, BitVec.slt, toNat_ite]
  case h_3 | h_5 =>
    simp only [Option.map_some, toNat_ite, BitVec.ult, decide_eq_true_eq, Option.some.injEq]
    split <;> omega
  case h_6 | h_7 | h_8 | h_9 => simp
  case h_10 =>
    simp only [Option.map_some, toNat_ite, BitVec.ule, decide_eq_true_eq, Option.some.injEq]
    split
    · simp
    · next h => exact (toNat_add_one (by omega : x.toNat < y.toNat)).symm
  case h_11 =>
    simp only [Option.map_some, toNat_ite, BitVec.ult, decide_eq_true_eq, Option.some.injEq, toNat_eq_zero]
    split
    · rfl
    · next h => exact (toNat_sub_one (not_or.1 h).1).symm
  case h_12 =>
    rw [apply_ite (Option.map BitVec.toNat)]
    simp only [← BitVec.toNat_inj, Option.map_some, Option.map_none]

theorem fatomNew_fst (op old v : Nat) : (fatomNew op old v).1 = Claims.floatAtom op old v := by
  unfold fatomNew Claims.floatAtom
  split <;> rfl

/-- The new value of an atomic is what it writes. -/
theorem rmwNew_fst (a : Atom) (old : Nat) (hsize : a.size = 4 ∨ a.size = 8) (hold : old < 256 ^ a.size)
    (ha : a.a.toNat < 256 ^ a.size) (hb : a.b.toNat < 256 ^ a.size) :
    (rmwNew a.kind a.opc a.size old a.a.toNat a.b.toNat).1 = Claims.atomWrites a old := by
  rw [rmwNew, Claims.atomWrites]
  by_cases hf : a.kind = 1
  · rw [if_pos hf, if_pos hf, ← fatomNew_fst]
  · rw [if_neg hf, if_neg hf]
    dsimp only
    rcases hsize with h4 | h8
    · rw [h4] at hold ha hb ⊢
      rw [if_pos rfl, ← atomNew_toNat, BitVec.toNat_ofNat, BitVec.toNat_ofNat, BitVec.toNat_ofNat,
        Nat.mod_eq_of_lt (show old < 2 ^ 32 from hold), Nat.mod_eq_of_lt (show _ < 2 ^ 32 from ha),
        Nat.mod_eq_of_lt (show _ < 2 ^ 32 from hb)]
    · rw [h8] at hold ⊢
      rw [if_neg (by decide), ← atomNew_toNat, BitVec.toNat_ofNat, Nat.mod_eq_of_lt (show old < 2 ^ 64 from hold)]

/-! ### The word of an atomic -/

/-- The bytes of an aligned word lie in or out of the capacity tier together. -/
theorem isCapacity_word {a n k : Nat} (hn : n = 4 ∨ n = 8) (ha : a % n = 0) (hk : k < n) (hc : isCapacity (gpLocal a) = false) :
    isCapacity (gpLocal (a + k)) = false := by
  have hlocal : gpLocal (a + k) = gpLocal a + k := by
    rw [gpLocal, gpLocal]
    rcases hn with rfl | rfl <;> omega
  have hword : gpLocal a % n = 0 := by
    rw [gpLocal]
    rcases hn with rfl | rfl <;> omega
  rw [isCapacity, hlocal]
  rw [isCapacity] at hc
  simp only [Bool.and_eq_false_iff, decide_eq_false_iff_not] at hc ⊢
  rcases hn with rfl | rfl <;> omega

theorem homeByte_plain (s : State) {a : Nat} (key : Nat) (hc : isCapacity (gpLocal a) = false) : homeByte s a key = bmGet s.mem a := by
  rw [homeByte, hc]
  rfl

/-- An aligned word outside the capacity tier reads as memory holds it, under every key. -/
theorem homeBytes_word (s : State) {a n : Nat} (key : Nat) (hn : n = 4 ∨ n = 8) (ha : a % n = 0) (hc : isCapacity (gpLocal a) = false) :
    ((List.range n).map fun k => homeByte s (a + k) key) = bmList s.mem a n :=
  List.map_congr_left fun _ hk => homeByte_plain s key (isCapacity_word hn ha (List.mem_range.1 hk) hc)

theorem length_bmList {w : Nat} (m : BMap w) (a n : Nat) : (bmList m a n).length = n := by simp [bmList]

theorem getD_eq_leNat (l : List Byte) (k : Nat) (hk : k < l.length) : l.getD k 0 = BitVec.ofNat 8 (leNat l / 256 ^ k) := by
  induction l generalizing k with
  | nil => exact absurd hk (by simp)
  | cons b t ih =>
    have hb : b.toNat < 256 := b.isLt
    cases k with
    | zero =>
      apply BitVec.eq_of_toNat_eq
      rw [List.getD_cons_zero, leNat, BitVec.toNat_ofNat]
      omega
    | succ k =>
      rw [List.getD_cons_succ, ih k (Nat.lt_of_succ_lt_succ hk), leNat, Nat.pow_succ', ← Nat.div_div_eq_div_mul]
      congr 2
      omega

/-- A word that nothing writes holds its own number. -/
theorem wordPut_self (s : State) (a n : Nat) : Claims.WordPut s s a n (leNat (bmList s.mem a n)) := by
  refine ⟨fun k hk => ?_, fun _ _ => rfl⟩
  rw [← getD_eq_leNat _ _ (by rwa [length_bmList])]
  simp [bmList, hk]

theorem wordPut_putHome (s : State) (a key n v : Nat) (hc : isCapacity (gpLocal a) = false) (hl : ∀ k < n, channelLost s (a + k) = false) :
    Claims.WordPut s (putHome s a key (leBytes n v)) a n v := by
  have hbyte := fun b => bmGet_putHome s a key (leBytes n v) b hc (by rwa [length_leBytes])
  rw [length_leBytes] at hbyte
  refine ⟨fun k hk => ?_, fun b hb => ?_⟩
  · rw [hbyte, if_pos (by omega), Nat.add_sub_cancel_left, getD_leBytes _ _ _ hk]
  · rw [hbyte, if_neg (by omega)]

/-! ### `ATOMIC_PERFORM` (R208, R226 to R228) -/

/-- The operation done at its home: its new value, if any, stands there, and its flags are kept. -/
def atomMade (s : State) (id : Nat) (a : Atom) (r : Option Nat × BitVec 6) : State :=
  let s0 := { s with atoms := tblDel s.atoms id }
  keepAtomFlags (dropCopiesOf (r.1.elim s0 fun v => putHome s0 a.addr a.key (leBytes a.size v)) a.pcore a.addr a.size) a.grid a.part r.2

theorem exec_atomicPerform {s : State} {a : Atom} {r : Option Nat × BitVec 6} (h : tblGet? s.atoms s.arg.a = some a)
    (hready : atomReady s s.arg.a a = true) (hkind : a.kind < 2) (hsize : a.size = 4 ∨ a.size = 8)
    (hpoison : a.ret = none → poisoned s a.addr a.size = false) (hcap : isCapacity (gpLocal a.addr) = false)
    (halign : a.addr % a.size = 0)
    (hr : rmwNew a.kind a.opc a.size (leNat (bmList s.mem a.addr a.size)) a.a.toNat a.b.toNat = r) :
    exec .atomicPerform s =
      .next (returnOld (atomMade s s.arg.a a r) s.arg.a a a.size (leNat (bmList s.mem a.addr a.size)) r.2) := by
  have hgone : (a.ret.isNone && poisoned s a.addr a.size) = false := by
    cases hret : a.ret with
    | none => exact hpoison hret
    | some l => rfl
  show execAtomicPerform s = _
  rw [execAtomicPerform, h]
  dsimp only
  rw [if_pos hready, performAtom, tblGet_of_some h, if_neg (Bool.eq_false_iff.1 hgone), homeBytes_word s a.key hsize halign hcap,
    if_neg (by omega), hr]
  rcases r with ⟨_ | v, f⟩ <;> rfl

theorem systemFrame_atomMade (s : State) (id : Nat) (a : Atom) (r : Option Nat × BitVec 6) :
    SystemFrame { s with atoms := tblDel s.atoms id } (atomMade s id a r) := by
  have hput : ∀ s0 : State, SystemFrame s0 (r.1.elim s0 fun v => putHome s0 a.addr a.key (leBytes a.size v)) := fun s0 => by
    cases r.1 with
    | none => exact .refl s0
    | some v => exact systemFrame_putHome ..
  exact (hput _).trans ((systemFrame_dropCopiesOf ..).trans (systemFrame_keepAtomFlags ..))

theorem mem_keepAtomFlags (s : State) (grid part : Nat) (f : BitVec 6) : (keepAtomFlags s grid part f).mem = s.mem := by
  unfold keepAtomFlags
  split <;> rfl

theorem wordPut_atomMade (s : State) (id : Nat) (a : Atom) (r : Option Nat × BitVec 6) (hcap : isCapacity (gpLocal a.addr) = false)
    (hlost : ∀ k < a.size, channelLost s (a.addr + k) = false) :
    Claims.WordPut s (atomMade s id a r) a.addr a.size (r.1.getD (leNat (bmList s.mem a.addr a.size))) := by
  rw [Claims.WordPut, atomMade, mem_keepAtomFlags, mem_dropCopiesOf]
  cases r.1 with
  | none => exact wordPut_self s a.addr a.size
  | some v => exact wordPut_putHome { s with atoms := tblDel s.atoms id } a.addr a.key a.size v hcap hlost

/-- An old value reaches the pending return, and nothing else changes where no replica waits for it. -/
theorem returnOld_plain (s : State) (id : Nat) (a : Atom) (n old : Nat) (f : BitVec 6) (h : isRedun s a.warp = false) :
    returnOld s id a n old f = a.ret.elim s fun l =>
      updLoad (landOld s l a.lane a.reg n old f) l fun x => { x with waits := x.waits.filter (· != id) } := by
  unfold returnOld
  cases a.ret with
  | none => rfl
  | some l =>
    have hplain : isRedun (updLoad (landOld s l a.lane a.reg n old f) l fun x => { x with waits := x.waits.filter (· != id) }) a.warp = false := h
    simp [forward, hplain]

theorem atomicPerformed : Claims.AtomicPerformed := by
  intro s a h hready hkind hsize ha hb hpoison hlost hcap halign hredun old
  obtain ⟨r, hr⟩ : ∃ r, rmwNew a.kind a.opc a.size old a.a.toNat a.b.toNat = r := ⟨_, rfl⟩
  have hold : old < 256 ^ a.size := by
    have := leNat_lt (bmList s.mem a.addr a.size)
    rwa [length_bmList] at this
  have hval : Claims.atomWrites a old = r.1 := by rw [← hr, rmwNew_fst a old hsize hold ha hb]
  have hframe := systemFrame_atomMade s s.arg.a a r
  have hmade := returnOld_plain (atomMade s s.arg.a a r) s.arg.a a a.size old r.2 ((hframe.isRedun a.warp).trans hredun)
  have hput := wordPut_atomMade s s.arg.a a r hcap hlost
  have hatoms : (atomMade s s.arg.a a r).atoms = tblDel s.atoms s.arg.a := hframe.read State.atoms fun _ => rfl
  have hloads : (atomMade s s.arg.a a r).loads = s.loads := hframe.read State.loads fun _ => rfl
  refine ⟨_, exec_atomicPerform h hready hkind hsize hpoison hcap halign hr, ?_⟩
  rw [hmade, hval]
  cases hret : a.ret with
  | none => exact ⟨hput, hatoms, hframe.writes, sameRegisters_of_warps hframe.warps, fun l hl => absurd hl (by simp)⟩
  | some l =>
    refine ⟨hput, hatoms, hframe.writes, sameRegisters_of_warps hframe.warps, fun l' hl e he => ?_⟩
    obtain rfl : l = l' := Option.some.inj hl
    refine ⟨{ e with writes := e.writes ++ retWrites a.lane a.reg a.size old
                     fp := if r.2 = 0 then e.fp else e.fp ++ [(a.lane, r.2)]
                     waits := e.waits.filter (· != s.arg.a) }, ?_, rfl, rfl⟩
    show tblGet? (tblUpd (tblUpd (atomMade s s.arg.a a r).loads l _) l _) l = _
    rw [tblGet?_tblUpd, if_pos rfl, tblGet?_tblUpd, if_pos rfl, hloads, he]
    rfl

theorem atomicOnPoison : Claims.AtomicOnPoison := by
  intro s a h hready hret hpoison
  refine ⟨atomRecord a .memPoison 6, ?_, rfl, rfl⟩
  show execAtomicPerform s = _
  rw [execAtomicPerform, h]
  dsimp only
  rw [if_pos hready, performAtom, tblGet_of_some h, if_pos (by simp [hret, hpoison])]

/-! ### `POSTED_OPERATION_REPLAY` (R281) -/

theorem exec_postedOperationReplay {s : State} {a : Atom} (h : tblGet? s.atoms s.arg.a = some a) (hready : replayReady s s.arg.a a = true) :
    exec .postedOperationReplay s = .next (replayAtom s s.arg.a) := by
  show execPostedOperationReplay s = _
  simp [execPostedOperationReplay, h, hready]

/-- A posted operation whose translation and tag pass is on its way to its word. -/
def replayed (s : State) (id : Nat) (a : Atom) (e : TlbEntry) : State :=
  { fillClr (fillTlb s a.part e) a.part a.ident.toNat e.tag with
    atoms := tblUpd s.atoms id fun x => { x with posted := none, addr := physOf e a.va, key := e.key } }

theorem replayAtom_pass {s : State} {id : Nat} {a : Atom} {e : TlbEntry} (h : tblGet? s.atoms id = some a)
    (htr : translate s a.part a.va .store = .ok e) (htag : tagAllows s a.part a.ident.toNat e.tag = true)
    (hchip : isOnChip (gpLocal (physOf e a.va)) = false) (hhost : hostRefuses s a.kind a.opc (physOf e a.va) = false) :
    replayAtom s id = replayed s id a e := by
  simp [replayAtom, tblGet_of_some h, htr, htag, hchip, hhost, replayed]

theorem replayAtom_fail {s : State} {id : Nat} {a : Atom} {c : Cause} (h : tblGet? s.atoms id = some a) (hfail : Claims.ReplayFails s a c) :
    replayAtom s id = postAtom s id c := by
  cases hfail with
  | page c htr => simp [replayAtom, tblGet_of_some h, htr]
  | tag e htr htag => simp [replayAtom, tblGet_of_some h, htr, htag]
  | memory e htr htag hmem => rcases hmem with hchip | hhost <;> simp [replayAtom, tblGet_of_some h, *]

/-- A replay passes its checks or fails them again. -/
theorem replay_cases (s : State) (a : Atom) : (∃ c, Claims.ReplayFails s a c) ∨ ∃ e, translate s a.part a.va .store = .ok e ∧
    tagAllows s a.part a.ident.toNat e.tag = true ∧ isOnChip (gpLocal (physOf e a.va)) = false ∧
    hostRefuses s a.kind a.opc (physOf e a.va) = false := by
  cases htr : translate s a.part a.va .store with
  | error c => exact .inl ⟨c, .page c htr⟩
  | ok e =>
    cases htag : tagAllows s a.part a.ident.toNat e.tag with
    | false => exact .inl ⟨_, .tag e htr htag⟩
    | true =>
      by_cases hmem : isOnChip (gpLocal (physOf e a.va)) = true ∨ hostRefuses s a.kind a.opc (physOf e a.va) = true
      · exact .inl ⟨_, .memory e htr htag hmem⟩
      · simp only [not_or, Bool.not_eq_true] at hmem
        exact .inr ⟨e, rfl, htag, hmem⟩

theorem systemFrame_fills (s : State) (part ident : Nat) (e : TlbEntry) : SystemFrame s (fillClr (fillTlb s part e) part ident e.tag) :=
  ⟨(systemFrame_fillClr ..).same⟩

theorem systemFrame_postAtom (s : State) (id : Nat) (c : Cause) :
    ∃ t, SystemFrame { s with atoms := t } (postAtom s id c) := ⟨_, ⟨(systemFrame_appendFault ..).same⟩⟩

theorem postedReplay : Claims.PostedReplay := by
  refine ⟨fun s a h hready => ?_, fun s a e h hready htr htag hchip hhost => ?_, fun s a c h hready hfail => ?_⟩
  · rw [exec_postedOperationReplay h hready]
    refine ⟨_, rfl, ?_⟩
    rcases replay_cases s a with ⟨c, hfail⟩ | ⟨e, htr, htag, hchip, hhost⟩
    · rw [replayAtom_fail h hfail]
      obtain ⟨t, hframe⟩ := systemFrame_postAtom s s.arg.a c
      exact ⟨sameRegisters_of_warps hframe.warps, hframe.writes⟩
    · rw [replayAtom_pass h htr htag hchip hhost]
      have hframe := systemFrame_fills s a.part a.ident.toNat e
      exact ⟨sameRegisters_of_warps hframe.warps, hframe.writes⟩
  · rw [exec_postedOperationReplay h hready, replayAtom_pass h htr htag hchip hhost]
    have hframe := systemFrame_fills s a.part a.ident.toNat e
    exact ⟨_, rfl, rfl, mem_fillClr .., hframe.writes, sameRegisters_of_warps hframe.warps⟩
  · rw [exec_postedOperationReplay h hready, replayAtom_fail h hfail, postAtom, tblGet_of_some h]
    exact ⟨atomRecord a c 5, rfl, rfl, rfl, rfl⟩

end Sys2Proof.Machine

section
open Sys2Proof Sys2Proof.Machine

/-- Settles O29: an atomic at its home, a reduction that finds poison there, and the replay of a posted operation. -/
theorem atomicsPerformed : Obligations.AtomicsPerformed := ⟨atomicPerformed, atomicOnPoison, postedReplay⟩

end

/-! ## Identities, invalidations and bank roles (O50) -/

namespace Sys2Proof.Machine

/-! ### Warps that take an identity (R322, R334) -/

/-- Each named warp takes its identity. -/
def identified {β : Type} (warp : β → Nat) (ident : β → Word) (l : List β) (s : State) : State :=
  l.foldl (fun v e => updWarp v (warp e) fun x => { x with ident := ident e }) s

section
variable {β : Type} (warp : β → Nat) (ident : β → Word)

theorem sameRegisters_identified (l : List β) (s : State) : SameRegisters s (identified warp ident l s) :=
  sameRegisters_foldl _ _ _ fun v e => sameRegisters_updWarp v (warp e) _ (fun _ => rfl) (fun _ => rfl) fun _ => rfl

theorem auditFrame_identified (l : List β) (s : State) : AuditFrame s (identified warp ident l s) :=
  AuditFrame.foldl _ _ _ fun _ _ => .of_same rfl rfl rfl rfl rfl

theorem warpIn_identified (l : List β) (s : State) (w : Nat) : warpIn (identified warp ident l s) w ↔ warpIn s w := by
  induction l generalizing s with
  | nil => rfl
  | cons e t ih => exact (ih _).trans (warpIn_updWarp ..)

/-- Where those that name a warp agree, it has their identity; a warp that none names keeps its own. -/
theorem ident_identified (l : List β) (s : State) (w : Nat) (v : Word) (hv : ∀ e ∈ l, warp e = w → ident e = v) :
    (warpOf (identified warp ident l s) w).ident = if (∃ e ∈ l, warp e = w) ∧ warpIn s w then v else (warpOf s w).ident := by
  induction l generalizing s with
  | nil => simp [identified]
  | cons e t ih =>
    have hstep := ih (updWarp s (warp e) fun x => { x with ident := ident e }) fun x hx => hv x (List.mem_cons_of_mem _ hx)
    simp only [warpIn_updWarp, warpOf_updWarp] at hstep
    refine hstep.trans ?_
    by_cases hw : warpIn s w
    · by_cases he : warp e = w
      · have hsome : ∃ x ∈ e :: t, warp x = w := ⟨e, List.mem_cons_self, he⟩
        rw [if_pos (And.intro he hw), if_pos (And.intro hsome hw)]
        split
        · rfl
        · exact hv e List.mem_cons_self he
      · simp [he]
    · simp only [hw, and_false, if_false]

end

theorem ident_noted (s : State) (g : Group) (i : Instr) (w : Nat) : (warpOf (noted s g i) w).ident = (warpOf s w).ident :=
  (traceFrame_noted s g i).read (fun v => (warpOf v w).ident) fun v => by rw [warpOf_traceless]; rfl

/-- The warps of the leads' workgroups take their identities, where `SETID` has WG. -/
def groupIdentified (wide : Bool) (l : List (Member × Src)) (s : State) : State :=
  if wide then l.foldl (fun v e => identified id (fun _ => lo32 e.2.a) (wgOfWarp v e.1.warp).warps v) s else s

/-- The leads of an instruction with their sources. -/
def leadActs (s : State) (g : Group) (i : Instr) : List (Member × Src) := (Claims.leads s g i).map fun e => (e.2, sources s g i e.2)

theorem exec_setid (p : BitVec 3) (d a : BitVec 7) (s : State) (g : Group) (hr : Claims.Ready s g (.setid p d a)) :
    exec (.setid p d a) s = .next (retire (identified (fun e : Member × Src => e.1.warp) (fun e => lo32 e.2.a) (leadActs s g (.setid p d a))
      (groupIdentified (d.getLsbD 0) (leadActs s g (.setid p d a)) (noted s g (.setid p d a))))) := by
  have hleads : ((warpsIn ((Claims.acts s g (.setid p d a)).map (·.1))).filterMap fun w =>
      (Claims.acts s g (.setid p d a)).find? fun e => e.1.warp == w && !(thrOf (noted s g (.setid p d a)) e.1).helper) =
      leadActs s g (.setid p d a) := by
    rw [map_fst_acts, leadActs, Claims.leads, List.map_filterMap]
    refine List.filterMap_congr fun w _ => ?_
    rw [Claims.acts, find?_lead_map, leadOf_noted, Option.map_map]
    rfl
  show execSetid p d a s = _
  rw [execSetid, effectOp_plain _ _ _ s g hr fun _ _ _ => rfl]
  dsimp only
  rw [hleads]
  rfl

theorem sameRegisters_groupIdentified (wide : Bool) (l : List (Member × Src)) (s : State) : SameRegisters s (groupIdentified wide l s) := by
  unfold groupIdentified
  split
  · exact sameRegisters_foldl _ _ _ fun _ _ => sameRegisters_identified ..
  · exact sameRegisters_refl s

theorem auditFrame_groupIdentified (wide : Bool) (l : List (Member × Src)) (s : State) : AuditFrame s (groupIdentified wide l s) := by
  unfold groupIdentified
  split
  · exact AuditFrame.foldl _ _ _ fun _ _ => auditFrame_identified ..
  · exact .refl s

theorem warpIn_groupIdentified (wide : Bool) (l : List (Member × Src)) (s : State) (w : Nat) :
    warpIn (groupIdentified wide l s) w ↔ warpIn s w := by
  unfold groupIdentified
  split
  · exact foldl_inv (fun v => warpIn v w ↔ warpIn s w) _ _ _ (fun _ _ h => (warpIn_identified ..).trans h) Iff.rfl
  · rfl

/-- A lead is the lowest actor of its warp that is no helper. -/
theorem mem_leads {s : State} {g : Group} {i : Instr} {e : Nat × Member} (h : e ∈ Claims.leads s g i) :
    leadOf s (actors s g i) e.1 = some e.2 ∧ e.2.warp = e.1 := by
  obtain ⟨w, -, hw⟩ := List.mem_filterMap.1 h
  obtain ⟨m, hm, rfl⟩ := Option.map_eq_some_iff.1 hw
  exact ⟨hm, (leadOf_mem _ _ _ _ hm).2.1⟩

theorem leads_of_leadOf {s : State} {g : Group} {i : Instr} {w : Nat} {m : Member} (h : leadOf s (actors s g i) w = some m) :
    (w, m) ∈ Claims.leads s g i := by
  obtain ⟨hm, hw, -⟩ := leadOf_mem _ _ _ _ h
  exact List.mem_filterMap.2 ⟨w, (mem_warpsIn ..).2 ⟨m, hm, hw⟩, by rw [h]; rfl⟩

/-- The identity of a warp with a lead among those that a state receives. -/
theorem ident_leadActs {s t : State} {g : Group} {i : Instr} {w : Nat} {m : Member} (h : leadOf s (actors s g i) w = some m) (hw : warpIn t w) :
    (warpOf (identified (fun e : Member × Src => e.1.warp) (fun e => lo32 e.2.a) (leadActs s g i) t) w).ident = lo32 (sources s g i m).a := by
  rw [ident_identified _ _ _ _ _ (lo32 (sources s g i m).a), if_pos]
  · exact ⟨⟨_, List.mem_map_of_mem (leads_of_leadOf h), (leadOf_mem _ _ _ _ h).2.1⟩, hw⟩
  · intro e he hew
    obtain ⟨x, hx, rfl⟩ := List.mem_map.1 he
    obtain ⟨hl, hxw⟩ := mem_leads hx
    rw [← hxw, show x.2.warp = w from hew, h] at hl
    rw [Option.some.inj hl]

/-- The identity of a warp without one stays. -/
theorem ident_leadActs_none {s t : State} {g : Group} {i : Instr} {w : Nat} (h : leadOf s (actors s g i) w = none) :
    (warpOf (identified (fun e : Member × Src => e.1.warp) (fun e => lo32 e.2.a) (leadActs s g i) t) w).ident = (warpOf t w).ident := by
  have hno : ∀ e ∈ leadActs s g i, e.1.warp ≠ w := fun e he hew => by
    obtain ⟨x, hx, rfl⟩ := List.mem_map.1 he
    obtain ⟨hl, hxw⟩ := mem_leads hx
    rw [← hxw, show x.2.warp = w from hew, h] at hl
    cases hl
  rw [ident_identified _ _ _ _ _ 0 fun e he hew => absurd hew (hno e he), if_neg]
  rintro ⟨⟨e, he, hew⟩, -⟩
  exact hno e he hew

theorem identitySet : Claims.IdentitySet := by
  intro p d a s g i hr
  have hbit : d.getLsbD 0 = decide (d.toNat % 2 = 1) := by simp [BitVec.getLsbD, Nat.testBit_zero]
  refine ⟨_, exec_setid p d a s g hr, ?_, ?_, fun w m hlead hw => ?_, fun hd w hnone => ?_, fun hd v m hone w hne => ?_⟩
  · exact sameRegisters_trans (sameRegisters_noted ..) (sameRegisters_trans (sameRegisters_groupIdentified ..) (sameRegisters_identified ..))
  · exact ((auditFrame_noted ..).trans ((auditFrame_groupIdentified ..).trans (auditFrame_identified ..))).memoryKept
  · exact ident_leadActs hlead ((warpIn_groupIdentified ..).2 (((traceFrame_noted s g i).warpIn w).2 hw))
  · rw [ident_leadActs_none hnone, hbit, hd]
    exact ident_noted s g i w
  · obtain ⟨hlead, hmv⟩ := mem_leads (hone ▸ List.mem_singleton_self (v, m))
    have hnone : leadOf s (actors s g i) w = none := by
      cases hl : leadOf s (actors s g i) w with
      | none => rfl
      | some n =>
        have hmem := leads_of_leadOf hl
        rw [hone, List.mem_singleton] at hmem
        exact absurd (congrArg Prod.fst hmem) hne
    have hwg : wgOfWarp (noted s g i) v = wgOfWarp s v := (traceFrame_noted s g i).wgOfWarp v
    rw [ident_leadActs_none hnone, hbit, hd, leadActs, hone]
    show (warpOf (identified id (fun _ => lo32 (sources s g i m).a) (wgOfWarp (noted s g i) m.warp).warps (noted s g i)) w).ident = _
    rw [show m.warp = v from hmv, hwg, ident_identified _ _ _ _ _ (lo32 (sources s g i m).a) fun _ _ _ => rfl, ident_noted]
    simp [(traceFrame_noted s g i).warpIn w]

/-! ### Members that wait at their instruction (R283) -/

/-- Threads stand elsewhere, under other waits or in other groups: all else is as before. -/
structure StandFrame (s u : State) : Prop where
  values : Claims.SameValues s u
  present : ∀ w l, present u w l = present s w l
  rest : { u with warps := s.warps, groups := s.groups, nextId := s.nextId } = s

theorem sameValues_trans {s t u : State} (h : Claims.SameValues s t) (k : Claims.SameValues t u) : Claims.SameValues s u :=
  ⟨fun w l r hl => (k.vregs w l r hl).trans (h.vregs w l r hl), fun w n => (k.uregs w n).trans (h.uregs w n),
    fun m => ⟨(k.flags m).1.trans (h.flags m).1, (k.flags m).2.trans (h.flags m).2⟩⟩

theorem sameValues_of_sameRegisters {s u : State} (h : SameRegisters s u) : Claims.SameValues s u :=
  ⟨h.vregs, h.uregs, fun m => by rw [h.threads]; exact ⟨rfl, rfl⟩⟩

theorem StandFrame.refl (s : State) : StandFrame s s := ⟨sameValues_of_sameRegisters (sameRegisters_refl s), fun _ _ => rfl, rfl⟩
theorem StandFrame.trans {s t u : State} (h : StandFrame s t) (k : StandFrame t u) : StandFrame s u := by
  have h1 := h.rest; have k1 := k.rest
  exact ⟨sameValues_trans h.values k.values, fun w l => (k.present w l).trans (h.present w l), by rw [← k1] at h1; exact h1⟩
theorem StandFrame.foldl {β : Type} (l : List β) (f : State → β → State) (s : State) (h : ∀ s x, StandFrame s (f s x)) :
    StandFrame s (l.foldl f s) := by
  induction l generalizing s with
  | nil => exact .refl s
  | cons x t ih => exact (h s x).trans (ih _)

theorem StandFrame.parts {s u : State} (h : StandFrame s u) : u.parts = s.parts := by
  have e := congrArg State.parts h.rest
  exact e
theorem StandFrame.auditFrame {s u : State} (h : StandFrame s u) : AuditFrame s u := by
  have hc := congrArg State.ctxs h.rest
  have hm := congrArg State.mem h.rest
  have hl := congrArg State.lineKey h.rest
  have hw := congrArg State.writes h.rest
  have hp := congrArg State.pkgs h.rest
  exact .of_same hc hm hl hw hp

theorem standFrame_updThr (s : State) (m : Member) (f : Thread → Thread) (h : ∀ t, (f t).preds = t.preds ∧ (f t).fpst = t.fpst) :
    StandFrame s (updThr s m f) := by
  refine ⟨⟨fun w l r _ => vreg_updThr .., ureg_updThr s m f, fun n => ?_⟩, present_updThr s m f, rfl⟩
  rw [thrOf_updThr]
  split
  · exact h _
  · exact ⟨rfl, rfl⟩

theorem standFrame_standAt (s : State) (m : Member) (pc : Pair) (pos : Nat) : StandFrame s (standAt s m pc pos) :=
  StandFrame.trans (t := { s with nextId := s.nextId + 1 }) ⟨sameValues_of_sameRegisters (sameRegisters_of_warps rfl), fun _ _ => rfl, rfl⟩
    (standFrame_updThr _ m _ fun _ => ⟨rfl, rfl⟩)

theorem standFrame_clearWaits (s : State) (ms : List Member) : StandFrame s (clearWaits s ms) :=
  StandFrame.foldl _ _ _ fun s m => standFrame_updThr s m _ fun _ => ⟨rfl, rfl⟩

/-- A member stands at the present instruction under a wait. -/
def waiting (s : State) (g : Group) (e : Member × Wait) : State := updThr (standBefore s g e.1) e.1 fun t => { t with wait := e.2 }

theorem standFrame_waiting (s : State) (g : Group) (e : Member × Wait) : StandFrame s (waiting s g e) :=
  (standFrame_standAt ..).trans (standFrame_updThr _ e.1 _ fun _ => ⟨rfl, rfl⟩)

theorem standFrame_dropMembers (s : State) (p : Member → Bool) : StandFrame s (dropMembers s p) :=
  ⟨sameValues_of_sameRegisters (sameRegisters_of_warps rfl), fun _ _ => rfl, rfl⟩

theorem standFrame_deferMembers (s : State) (g : Group) (ms : List (Member × Wait)) : StandFrame s (deferMembers s g ms) :=
  (StandFrame.foldl ms (waiting · g) s fun v e => standFrame_waiting v g e).trans (standFrame_dropMembers ..)

theorem thrOf_clearWaits (s : State) (ms : List Member) (h : ∀ m ∈ ms, (thrOf s m).wait = .none) (n : Member) :
    thrOf (clearWaits s ms) n = thrOf s n := by
  have hstep : ∀ (v : State) (m : Member), (thrOf v m).wait = .none → ∀ n, thrOf (updThr v m fun t => { t with wait := .none }) n = thrOf v n := by
    intro v m hm n
    rw [thrOf_updThr]
    split
    · next h => rw [← h.1, ← hm]
    · rfl
  unfold clearWaits
  induction ms generalizing s with
  | nil => rfl
  | cons m t ih =>
    have hm := hstep s m (h m List.mem_cons_self)
    rw [List.foldl_cons, ih _ fun x hx => by rw [hm]; exact h x (List.mem_cons_of_mem _ hx), hm]

/-- Where every deferred member waits in the same way, each of them that is present stands under that wait. -/
theorem wait_deferMembers (s : State) (g : Group) (ms : List Member) (w : Wait) (m : Member) (hm : m ∈ ms)
    (hp : present s m.warp m.lane = true) : (thrOf (deferMembers s g (ms.map fun m => (m, w))) m).wait = w := by
  have hfold : ∀ (l : List Member) (v : State), present v m.warp m.lane = true → m ∈ l ∨ (thrOf v m).wait = w →
      (thrOf ((l.map fun m => (m, w)).foldl (waiting · g) v) m).wait = w := by
    intro l
    induction l with
    | nil => exact fun v _ h => h.resolve_left List.not_mem_nil
    | cons n t ih =>
      intro v hv h
      have hin : present (standBefore v g n) n.warp n.lane = present v n.warp n.lane := (standFrame_standAt ..).present ..
      refine ih (waiting v g (n, w)) (((standFrame_waiting v g (n, w)).present ..).trans hv) ?_
      rw [waiting, thrOf_updThr, hin]
      by_cases hn : n = m
      · subst hn
        exact .inr (by rw [if_pos ⟨rfl, hv⟩])
      · rcases h with h | h
        · exact .inl ((List.mem_cons.1 h).resolve_left (Ne.symm hn))
        · refine .inr ?_
          rw [if_neg fun h => hn h.1, standBefore, standAt, thrOf_updThr, if_neg fun h => hn h.1]
          exact h
  exact hfold ms s hp (.inl hm)

/-! ### What an invalidation drops (R335, R336) -/

/-- The package and the context of every part, and the part of every warp, are those of another state. -/
structure SameParts (s u : State) : Prop where
  pkg : ∀ k, (partOf u k).pkg = (partOf s k).pkg
  ctxid : ∀ k, (partOf u k).ctxid = (partOf s k).ctxid
  part : ∀ w, partOfWarp u w = partOfWarp s w

/-- Two states differ in the caches of the parts alone. -/
structure CacheFrame (s u : State) : Prop where
  same : SameParts s u
  rest : { u with parts := s.parts } = s

theorem CacheFrame.refl (s : State) : CacheFrame s s := ⟨⟨fun _ => rfl, fun _ => rfl, fun _ => rfl⟩, rfl⟩
theorem SameParts.trans {s t u : State} (h : SameParts s t) (k : SameParts t u) : SameParts s u :=
  ⟨fun n => (k.pkg n).trans (h.pkg n), fun n => (k.ctxid n).trans (h.ctxid n), fun w => (k.part w).trans (h.part w)⟩
theorem CacheFrame.trans {s t u : State} (h : CacheFrame s t) (k : CacheFrame t u) : CacheFrame s u := by
  have h1 := h.rest; have k1 := k.rest
  exact ⟨h.same.trans k.same, by rw [← k1] at h1; exact h1⟩
theorem CacheFrame.foldl {β : Type} (l : List β) (f : State → β → State) (s : State) (h : ∀ s x, CacheFrame s (f s x)) :
    CacheFrame s (l.foldl f s) := by
  induction l generalizing s with
  | nil => exact .refl s
  | cons x t ih => exact (h s x).trans (ih _)
theorem CacheFrame.warps {s u : State} (h : CacheFrame s u) : u.warps = s.warps := by
  have e := congrArg State.warps h.rest
  exact e
theorem CacheFrame.auditFrame {s u : State} (h : CacheFrame s u) : AuditFrame s u := by
  have hc := congrArg State.ctxs h.rest
  have hm := congrArg State.mem h.rest
  have hl := congrArg State.lineKey h.rest
  have hw := congrArg State.writes h.rest
  have hp := congrArg State.pkgs h.rest
  exact .of_same hc hm hl hw hp

theorem sameParts_noted (s : State) (g : Group) (i : Instr) : SameParts s (noted s g i) :=
  ⟨fun k => (traceFrame_noted s g i).read (fun v => (partOf v k).pkg) fun v => by rw [partOf_traceless]; rfl,
    fun k => (traceFrame_noted s g i).read (fun v => (partOf v k).ctxid) fun v => by rw [partOf_traceless]; rfl,
    (traceFrame_noted s g i).partOfWarp⟩

theorem partOf_mapParts (s : State) (f : Part → Part) (hd : f default = default) (k : Nat) :
    partOf { s with parts := tblMap s.parts fun _ p => f p } k = f (partOf s k) := tblGet_tblMap s.parts f k hd

/-- An update of every part that leaves an absent one, its package and its context changes the caches alone. -/
theorem cacheFrame_mapParts (s : State) (f : Part → Part) (hd : f default = default) (hf : ∀ p, (f p).pkg = p.pkg ∧ (f p).ctxid = p.ctxid) :
    CacheFrame s { s with parts := tblMap s.parts fun _ p => f p } :=
  ⟨⟨fun k => by rw [partOf_mapParts s f hd]; exact (hf _).1, fun k => by rw [partOf_mapParts s f hd]; exact (hf _).2, fun _ => rfl⟩, rfl⟩

/-- A request drops, of one cache of every part, the entries that it names, and nothing else. -/
structure DropsNamed {γ : Type} (f : Part → List γ) (drop : State → Member → Src → State)
    (names : State → Member → Src → Nat → γ → Prop) : Prop where
  frame : ∀ s m x, CacheFrame s (drop s m x)
  mem : ∀ s m x k e, e ∈ f (partOf (drop s m x) k) ↔ e ∈ f (partOf s k) ∧ ¬ names s m x k e
  congr : ∀ {s u}, SameParts s u → ∀ m x k e, names u m x k e ↔ names s m x k e

theorem mem_foldl_drop {γ : Type} {f : Part → List γ} {drop : State → Member → Src → State} {names : State → Member → Src → Nat → γ → Prop}
    (h : DropsNamed f drop names) (l : List (Member × Src)) (s : State) (k : Nat) (e : γ) :
    e ∈ f (partOf (l.foldl (fun v x => drop v x.1 x.2) s) k) ↔ e ∈ f (partOf s k) ∧ ∀ x ∈ l, ¬ names s x.1 x.2 k e := by
  induction l generalizing s with
  | nil => simp
  | cons x t ih =>
    have hcongr := fun y : Member × Src => h.congr (h.frame s x.1 x.2).same y.1 y.2 k e
    rw [List.foldl_cons, ih, h.mem, and_assoc, List.forall_mem_cons]
    simp only [hcongr]

/-- The translations of a part that a request of `TLBINV` names. -/
def tlbNames (s : State) (m : Member) (x : Src) (k : Nat) (e : TlbEntry) : Prop :=
  (partOf s k).pkg = (partOf s (partOfWarp s m.warp)).pkg ∧ (tlbKind x = 2 ∨ (partOf s k).ctxid = tlbCtx x) ∧
    (tlbKind x = 1 → overlaps e.vbase e.size ((lo64 x.a).toNat % 2 ^ 57) (tlbPages x * 4096) = true)

/-- The clearance answers of a part that a request of `CLRINV` names. -/
def clrNames (s : State) (m : Member) (x : Src) (k : Nat) (e : Nat × Nat × Bool) : Prop :=
  (partOf s k).pkg = (partOf s (partOfWarp s m.warp)).pkg ∧ (partOf s k).ctxid = (lo32 x.a).toNat ∧
    ((lo32 x.d).getLsbD 31 = true ∨ e.2.1 = (lo32 x.d).toNat % 2 ^ 20)

theorem tlbCovers_iff (x : Src) (e : TlbEntry) : tlbCovers x e = true ↔
    (tlbKind x = 1 → overlaps e.vbase e.size ((lo64 x.a).toNat % 2 ^ 57) (tlbPages x * 4096) = true) := by
  unfold tlbCovers
  split <;> simp [*]

theorem getLsbD_31_iff (v : Word) : v.getLsbD 31 = true ↔ 2 ^ 31 ≤ v.toNat := by
  rw [← decide_eq_true_iff (p := 2 ^ 31 ≤ v.toNat), ← BitVec.msb_eq_decide (w := 32) v]
  rfl

/-- A part without what a request names of its caches. -/
def tlbLess (s : State) (m : Member) (x : Src) (p : Part) : Part :=
  if p.pkg = (partOf s (partOfWarp s m.warp)).pkg ∧ (tlbKind x = 2 ∨ p.ctxid = tlbCtx x) then
    { p with tlb := p.tlb.filter fun e => !tlbCovers x e, tlbAway := p.tlbAway.filter fun e => !tlbCovers x e } else p
def clrLess (s : State) (m : Member) (x : Src) (p : Part) : Part :=
  if p.pkg = (partOf s (partOfWarp s m.warp)).pkg ∧ p.ctxid = (lo32 x.a).toNat then
    { p with clr := p.clr.filter fun e => !(decide (2 ^ 31 ≤ (lo32 x.d).toNat) || e.2.1 == (lo32 x.d).toNat % 2 ^ 20)
             clrAway := p.clrAway.filter fun e => !(decide (2 ^ 31 ≤ (lo32 x.d).toNat) || e.2.1 == (lo32 x.d).toNat % 2 ^ 20) } else p

theorem tlbDrop_eq (s : State) (m : Member) (x : Src) : tlbDrop s m x = { s with parts := tblMap s.parts fun _ p => tlbLess s m x p } := rfl
theorem clrDrop_eq (s : State) (m : Member) (x : Src) : clrDrop s m x = { s with parts := tblMap s.parts fun _ p => clrLess s m x p } := rfl

theorem tlbLess_default (s : State) (m : Member) (x : Src) : tlbLess s m x default = default := by unfold tlbLess; split <;> rfl
theorem clrLess_default (s : State) (m : Member) (x : Src) : clrLess s m x default = default := by unfold clrLess; split <;> rfl

theorem dropsNamed_tlb (f : Part → List TlbEntry) (hf : f ∈ [Part.tlb, Part.tlbAway]) : DropsNamed f tlbDrop tlbNames where
  frame s m x := by
    rw [tlbDrop_eq]
    exact cacheFrame_mapParts s _ (tlbLess_default s m x) fun p => by unfold tlbLess; split <;> exact ⟨rfl, rfl⟩
  mem s m x k e := by
    rw [tlbDrop_eq, partOf_mapParts s _ (tlbLess_default s m x), tlbNames, ← and_assoc, ← tlbCovers_iff, tlbLess]
    split
    · next h => rcases List.mem_pair.1 hf with rfl | rfl <;> simp [List.mem_filter, h]
    · next h => simp [h]
  congr h m x k e := by rw [tlbNames, tlbNames, h.part, h.pkg, h.pkg, h.ctxid]

theorem dropsNamed_clr (f : Part → List (Nat × Nat × Bool)) (hf : f ∈ [Part.clr, Part.clrAway]) : DropsNamed f clrDrop clrNames where
  frame s m x := by
    rw [clrDrop_eq]
    exact cacheFrame_mapParts s _ (clrLess_default s m x) fun p => by unfold clrLess; split <;> exact ⟨rfl, rfl⟩
  mem s m x k e := by
    rw [clrDrop_eq, partOf_mapParts s _ (clrLess_default s m x), clrNames, ← and_assoc, getLsbD_31_iff, clrLess]
    split
    · next h => rcases List.mem_pair.1 hf with rfl | rfl <;> simp [List.mem_filter, h]
    · next h => simp [h]
  congr h m x k e := by rw [clrNames, clrNames, h.part, h.pkg, h.pkg, h.ctxid]

/-! ### The two instructions (R335, R336) -/

/-- The actors that are no helpers, with their sources. -/
def nonHelperActs (s : State) (g : Group) (i : Instr) : List (Member × Src) := (nonHelpers s (actors s g i)).map fun m => (m, sources s g i m)

theorem filter_acts (s : State) (g : Group) (i : Instr) :
    (Claims.acts s g i).filter (fun e => !(thrOf (noted s g i) e.1).helper) = nonHelperActs s g i := by
  simp only [thrOf_noted, Claims.acts, nonHelperActs, nonHelpers, List.filter_map]
  rfl

theorem accessesDone_noted (s : State) (g : Group) (i : Instr) (n : Nat) : accessesDone (noted s g i) n = accessesDone s n :=
  (traceFrame_noted s g i).read (accessesDone · n) fun _ => rfl

/-- The members that wait: those that are no helpers, while an access before the instruction is outstanding. -/
def drainers (s : State) (g : Group) (i : Instr) : List Member := if accessesDone s s.nextId then [] else nonHelpers s (actors s g i)

theorem drainOp_plain (i : Instr) (fail : State → Member → Src → Option Fail) (drop : State → Member → Src → State) (s : State) (g : Group)
    (hr : Claims.Ready s g i) (hf : Claims.EachChecked s g i fun m x => fail s m x = none) (hw : ∀ m ∈ actors s g i, (thrOf s m).wait = .none) :
    drainOp i fail drop s = .next (retire (deferMembers (clearWaits ((nonHelperActs s g i).foldl (fun v e => drop v e.1 e.2) (noted s g i))
      (actors s g i)) g ((drainers s g i).map fun m => (m, .drained s.nextId)))) := by
  have hnext : (noted s g i).nextId = s.nextId := (traceFrame_noted s g i).read State.nextId fun _ => rfl
  have hwait : ∀ e ∈ Claims.acts s g i, (thrOf (noted s g i) e.1).wait = .none := fun e he => by
    obtain ⟨m, hm, rfl⟩ := List.mem_map.1 he
    rw [thrOf_noted]
    exact hw m hm
  unfold drainOp
  rw [groupOp_plain i .own noWait fail _ s g hr.cur hr.plain hr.ops (fun _ _ => rfl) hf rfl]
  dsimp only
  refine congrArg (fun v => Host.Outcome.next (retire v)) ?_
  congr 1
  · congr 1
    · congr 1
      refine (List.filter_eq_self.2 fun e he => ?_).trans (filter_acts s g i)
      rw [hwait e (List.mem_of_mem_filter he)]
    · exact map_fst_acts s g i
  · change List.map _ (List.filter _ (Claims.acts s g i)) = _
    rw [List.filter_congr (q := fun e => !(thrOf (noted s g i) e.1).helper && !accessesDone s s.nextId)
      fun e he => by rw [hwait e he, hnext, accessesDone_noted], ← List.filter_filter, drainers]
    split
    · next h => simp [h]
    · next h =>
      rw [Bool.not_eq_true] at h
      simp only [h, Bool.not_false, List.filter_true]
      rw [List.map_congr_left (g := fun e : Member × Src => (e.1, Wait.drained s.nextId)) fun e he => by
        rw [hwait e (List.mem_of_mem_filter he), hnext], filter_acts, nonHelperActs, List.map_map]
      rfl

/-- An invalidation drops what its actors that are no helpers name, and each of them waits while an earlier access is outstanding. -/
theorem drainOp_outcome {γ : Type} {fs : List (Part → List γ)} {drop : State → Member → Src → State} {names : State → Member → Src → Nat → γ → Prop}
    {i : Instr} {fail : State → Member → Src → Option Fail} {s : State} {g : Group} (hd : ∀ f ∈ fs, DropsNamed f drop names)
    (hframe : ∀ s m x, CacheFrame s (drop s m x)) (hr : Claims.Ready s g i) (hf : Claims.EachChecked s g i fun m x => fail s m x = none)
    (hw : ∀ m ∈ actors s g i, (thrOf s m).wait = .none) :
    ∃ u, drainOp i fail drop s = .next (retire u) ∧ Claims.SameValues s u ∧ Claims.MemoryKept s u ∧
      (∀ f ∈ fs, ∀ k e, e ∈ f (partOf u k) ↔ e ∈ f (partOf (noted s g i) k) ∧
        ∀ m ∈ nonHelpers s (actors s g i), ¬ names s m (sources s g i m) k e) ∧
      (accessesDone s s.nextId = false → ∀ m ∈ actors s g i, (thrOf s m).helper = false → present s m.warp m.lane = true →
        (thrOf u m).wait = .drained s.nextId) ∧
      (accessesDone s s.nextId = true → ∀ m, thrOf u m = thrOf s m) := by
  obtain ⟨v, hv⟩ : ∃ v, (nonHelperActs s g i).foldl (fun v e => drop v e.1 e.2) (noted s g i) = v := ⟨_, rfl⟩
  have hdrop : CacheFrame (noted s g i) v := hv ▸ CacheFrame.foldl _ _ _ fun v e => hframe v e.1 e.2
  have hregs : SameRegisters s v := sameRegisters_trans (sameRegisters_noted s g i) (sameRegisters_of_warps hdrop.warps)
  have hclear := standFrame_clearWaits v (actors s g i)
  have hstand := hclear.trans (standFrame_deferMembers (clearWaits v (actors s g i)) g ((drainers s g i).map fun m => (m, Wait.drained s.nextId)))
  refine ⟨_, drainOp_plain i fail drop s g hr hf hw, ?_⟩
  rw [hv]
  refine ⟨sameValues_trans (sameValues_of_sameRegisters hregs) hstand.values,
    ((auditFrame_noted s g i).trans (hdrop.auditFrame.trans hstand.auditFrame)).memoryKept, fun f hf k e => ?_, fun hacc m hm hh hp => ?_,
    fun hacc m => ?_⟩
  · rw [partOf, hstand.parts, ← partOf, ← hv, mem_foldl_drop (hd f hf)]
    simp only [nonHelperActs, List.forall_mem_map, (hd f hf).congr (sameParts_noted s g i)]
  · refine wait_deferMembers _ g _ _ m ?_ ?_
    · rw [drainers, hacc]
      exact List.mem_filter.2 ⟨hm, by simp [hh]⟩
    · rw [hclear.present, present_congr hdrop.warps, present_noted]
      exact hp
  · rw [drainers, hacc, if_pos rfl, List.map_nil, deferMembers_nil, thrOf_clearWaits _ _ fun n hn => by rw [hregs.threads]; exact hw n hn,
      hregs.threads]

theorem invalidations : Claims.Invalidations :=
  ⟨fun _ _ _ _ _ hr hf hw => drainOp_outcome dropsNamed_tlb (dropsNamed_tlb _ List.mem_cons_self).frame hr hf hw,
    fun _ _ _ _ _ hr hf hw => drainOp_outcome dropsNamed_clr (dropsNamed_clr _ List.mem_cons_self).frame hr hf hw⟩

/-! ### `BANKROLE` (R195, R337) -/

theorem pcores_noted (s : State) (g : Group) (i : Instr) : (noted s g i).pcores = s.pcores := by
  have h := congrArg State.pcores (readFrame_constTraces s (shapeOf i) (actors s g i)).rest
  exact ((sameFrame_noted s g i).read State.pcores fun _ _ => rfl).trans h

/-- An effect that leaves every thread is made for those of some members that are no helpers. -/
theorem foldl_unless_helper {β : Type} (step : State → Member × β → State) (h : ∀ s e m, thrOf (step s e) m = thrOf s m)
    (l : List (Member × β)) (s : State) : l.foldl (fun v e => if (thrOf v e.1).helper then v else step v e) s =
      (l.filter fun e => !(thrOf s e.1).helper).foldl step s := by
  induction l generalizing s with
  | nil => rfl
  | cons e t ih =>
    rw [List.foldl_cons, ih, List.filter_cons]
    cases hh : (thrOf s e.1).helper with
    | true => simp
    | false => simp [h]

/-- The requests of a core's banks with what a pair of role words asks of one bank. -/
def asked (d : Val) (role : BMap 2) (t : Tbl (BitVec 2 × Bool)) (b : Nat) : Tbl (BitVec 2 × Bool) :=
  if d.extractLsb' (2 * b) 2 = 3#2 ∨ d.extractLsb' (2 * b) 2 = bmGet role b then t else tblSet t b (d.extractLsb' (2 * b) 2, true)

theorem tblGet?_asked (d : Val) (role : BMap 2) (t : Tbl (BitVec 2 × Bool)) (b : Nat) : tblGet? (asked d role t b) b =
    if d.extractLsb' (2 * b) 2 = 3#2 ∨ d.extractLsb' (2 * b) 2 = bmGet role b then tblGet? t b else some (d.extractLsb' (2 * b) 2, true) := by
  unfold asked
  split
  · rfl
  · rw [tblGet?_tblSet, if_pos rfl]

theorem tblGet?_asked_ne (d : Val) (role : BMap 2) (t : Tbl (BitVec 2 × Bool)) {a b : Nat} (h : a ≠ b) :
    tblGet? (asked d role t a) b = tblGet? t b := by
  unfold asked
  split
  · rfl
  · rw [tblGet?_tblSet, if_neg h]

theorem tblGet?_foldl_asked_of_not_mem (d : Val) (role : BMap 2) (l : List Nat) (t : Tbl (BitVec 2 × Bool)) (b : Nat) (h : b ∉ l) :
    tblGet? (l.foldl (asked d role) t) b = tblGet? t b := by
  induction l generalizing t with
  | nil => rfl
  | cons a l ih =>
    have hne : a ≠ b := fun e => h (e ▸ List.mem_cons_self)
    rw [List.foldl_cons, ih _ fun hb => h (List.mem_cons_of_mem _ hb), tblGet?_asked_ne d role t hne]

/-- Of a list without repetitions, each bank is asked once. -/
theorem tblGet?_foldl_asked (d : Val) (role : BMap 2) (l : List Nat) (t : Tbl (BitVec 2 × Bool)) (b : Nat) (h : b ∈ l) (hn : l.Nodup) :
    tblGet? (l.foldl (asked d role) t) b = tblGet? (asked d role t b) b := by
  induction l generalizing t with
  | nil => exact absurd h List.not_mem_nil
  | cons a l ih =>
    obtain ⟨ha, hl⟩ := List.nodup_cons.1 hn
    rw [List.foldl_cons]
    rcases List.mem_cons.1 h with rfl | hb
    · exact tblGet?_foldl_asked_of_not_mem d role l _ b ha
    · have hne : a ≠ b := fun e => ha (e ▸ hb)
      rw [ih _ hb hl, tblGet?_asked, tblGet?_asked, tblGet?_asked_ne d role t hne]

theorem roleRequests_of {x : Src} {c : Nat} (h : ofPhysloc (lo32 x.a).toNat = some c) (s : State) :
    roleRequests s x = updPcore s c fun p => { p with pend := (List.range 64).foldl (asked x.d p.role) p.pend } := by
  rw [roleRequests, h]
  rfl

theorem pcoreAt_updPcore (s : State) (c k : Nat) (f : PCore → PCore) :
    pcoreAt (updPcore s c f) k = if c = k then f (pcoreAt s c) else pcoreAt s k := by
  rw [pcoreAt, updPcore, tblGet, tblGet?_tblSet]
  split <;> rfl

theorem thrOf_roleRequests (s : State) (x : Src) (m : Member) : thrOf (roleRequests s x) m = thrOf s m := by
  unfold roleRequests
  split <;> rfl

theorem exec_bankrole {p : BitVec 3} {d a : BitVec 7} {s : State} {g : Group} {m : Member} (hr : Claims.Ready s g (.bankrole p d a))
    (hone : nonHelpers s (actors s g (.bankrole p d a)) = [m]) (hfail : roleFail s m (sources s g (.bankrole p d a) m) = none) :
    exec (.bankrole p d a) s = .next (retire (roleRequests (noted s g (.bankrole p d a)) (sources s g (.bankrole p d a) m))) := by
  have hcheck : Claims.EachChecked s g (.bankrole p d a) fun n x => roleFail s n x = none := fun n hn hh => by
    have hmem : n ∈ nonHelpers s (actors s g (.bankrole p d a)) := List.mem_filter.2 ⟨hn, by simp [hh]⟩
    rw [hone, List.mem_singleton] at hmem
    rw [hmem]
    exact hfail
  show execBankrole p d a s = _
  rw [execBankrole, effectOp_plain _ _ _ s g hr hcheck,
    foldl_unless_helper (fun v e => roleRequests v e.2) (fun v e n => thrOf_roleRequests v e.2 n), filter_acts, nonHelperActs, hone]
  rfl

theorem roleRequestsMade : Claims.RoleRequests := by
  intro p d a s g m c i hr hone hfail hc
  have hcore : ∀ k, pcoreAt (noted s g i) k = pcoreAt s k := fun k => by rw [pcoreAt, pcores_noted]; rfl
  refine ⟨_, exec_bankrole hr hone hfail, ?_⟩
  rw [roleRequests_of hc]
  refine ⟨sameRegisters_trans (sameRegisters_noted s g i) (sameRegisters_of_warps rfl),
    ((auditFrame_noted s g i).trans (.of_same rfl rfl rfl rfl rfl)).memoryKept, fun b hb => ?_, ?_, fun k hk => ?_⟩
  · rw [pcoreAt_updPcore, if_pos rfl, hcore]
    exact (tblGet?_foldl_asked _ _ _ _ b (List.mem_range.2 hb) List.nodup_range).trans (tblGet?_asked ..)
  · rw [pcoreAt_updPcore, if_pos rfl, hcore]
  · rw [pcoreAt_updPcore, if_neg (Ne.symm hk), hcore]

end Sys2Proof.Machine

section
open Sys2Proof Sys2Proof.Machine

/-- Settles O50: the identity of a warp and of its workgroup, what an invalidation drops and waits for, and the roles asked of a core's banks. -/
theorem identityAndInvalidation : Obligations.IdentityAndInvalidation := ⟨identitySet, invalidations, roleRequestsMade⟩

end

/-! ## Counters, clocks and random numbers (O38) -/

namespace Sys2Proof.Machine

/-! ### Values read once (R239, R358) -/

theorem isRedun_writeD (s : State) (d : Slot) (vals : List (Member × Val)) (w : Nat) : isRedun (writeD s d vals) w = isRedun s w := by
  have hwgs := (sameFrame_writeD s d vals).wgs
  have hwg : (warpOf (writeD s d vals) w).wg = (warpOf s w).wg := by
    have h := congrArg Warp.wg ((sameFrame_writeD s d vals).warp w)
    exact h
  rw [isRedun, isRedun, khdrOfWarp, khdrOfWarp, wgOfWarp, wgOfWarp, wgOf, wgOf, hwgs, hwg]

/-- In unreplicated warps no value is forwarded. -/
theorem forwarded_plain (t : State) (d : Slot) (vals : List (Member × Val)) (h : ∀ e ∈ vals, isRedun t e.1.warp = false) :
    takeFwds (forwards (writeD t d vals) vals) (vals.map (·.1)) = writeD t d vals := by
  have hw : ∀ e ∈ vals, isRedun (writeD t d vals) e.1.warp = false := fun e he => (isRedun_writeD ..).trans (h e he)
  rw [forwards_plain _ _ hw, takeFwds_plain]
  rintro m hm
  obtain ⟨e, he, rfl⟩ := List.mem_map.1 hm
  exact hw e he

theorem loadedVal_plain {s : State} {m : Member} (h : isRedun s m.warp = false) (v : Val) : loadedVal s m v = v := by
  simp [loadedVal, takesForward, h]

theorem isRedun_of_ready {s : State} {g : Group} {i : Instr} (hr : Claims.Ready s g i) {m : Member} (hm : m ∈ actors s g i) :
    isRedun (noted s g i) m.warp = false := ((traceFrame_noted s g i).isRedun _).trans (hr.plain m (List.mem_filter.1 hm).1)

/-- The destination of some actors written in a state with the warps of the one with the reads noted. -/
theorem received_noted {s t : State} {g : Group} {i : Instr} (hw : t.warps = (noted s g i).warps) (ms : List Member) (hms : ∀ m ∈ ms, m.lane < 64)
    (v : Member → Val) : Claims.Received s i ms v (writeD t (shapeOf i).d (ms.map fun m => (m, v m))) :=
  received_writeD v hms (fun w l r => (vreg_congr hw w l r).trans (vreg_noted s g i w l r)) (fun w n => (ureg_congr hw w n).trans (ureg_noted s g i w n))
    (fun m => (thrOf_congr hw m).trans (thrOf_noted s g i m)) fun w l => (present_congr hw w l).trans (present_noted s g i w l)

/-- A value that is read once, and reads the same with the constant slots' traces noted. -/
theorem readOnce_plain {i : Instr} {fail : State → Member → Src → Option Fail} {val : State → Member → Src → Val} {s : State} {g : Group}
    (v : Member → Val) (hexec : exec i s = readOnce i fail val s) (hr : Claims.Ready s g i) (hf : Claims.EachChecked s g i fun m x => fail s m x = none)
    (hv : ∀ m ∈ actors s g i, val (noted s g i) m (sources s g i m) = v m) :
    ∃ u, exec i s = .next (retire u) ∧ Claims.MemoryKept s u ∧ Claims.Received s i (actors s g i) v u := by
  refine ⟨writeD (noted s g i) (shapeOf i).d ((actors s g i).map fun m => (m, v m)), ?_,
    ((auditFrame_noted s g i).trans (sameFrame_writeD ..).auditFrame).memoryKept, received_noted rfl _ (actors_lane s g i) v⟩
  have hvals : ((actors s g i).map fun m => (m, sources s g i m)).map
      (fun e => (e.1, loadedVal (noted s g i) e.1 (val (noted s g i) e.1 e.2))) = (actors s g i).map fun m => (m, v m) := by
    rw [List.map_map]
    exact List.map_congr_left fun m hm => by rw [Function.comp, loadedVal_plain (isRedun_of_ready hr hm), hv m hm]
  rw [hexec, readOnce, groupOp_plain i .fwd noWait fail _ s g hr.cur hr.plain hr.ops (fun _ _ => rfl) hf rfl]
  dsimp only
  rw [hvals, forwarded_plain]
  rintro e he
  obtain ⟨m, hm, rfl⟩ := List.mem_map.1 he
  exact isRedun_of_ready hr hm

theorem timelineOf_noted (s : State) (g : Group) (i : Instr) (c k : Nat) : timelineOf (noted s g i) c k = timelineOf s c k :=
  (traceFrame_noted s g i).read (timelineOf · c k) fun v => by
    rw [timelineOf, ctxOf, show (traceless v).ctxs = tblMap v.ctxs fun _ c => bareCtx c from rfl, tblGet_tblMap _ _ _ rfl]
    rfl

theorem ctx_noted (s : State) (g : Group) (i : Instr) (w : Nat) : (warpOf (noted s g i) w).ctx = (warpOf s w).ctx :=
  (traceFrame_noted s g i).read (fun v => (warpOf v w).ctx) fun v => by rw [warpOf_traceless]; rfl

theorem clockVal_noted (s : State) (g : Group) (i : Instr) (k sel : Nat) : clockVal (noted s g i) k sel = clockVal s k sel :=
  (traceFrame_noted s g i).read (clockVal · k sel) fun v => by
    rw [clockVal, clockVal, partOf_traceless]
    rfl

theorem detFail_none {s : State} {m : Member} (h : isDet s m.warp = false) (x : Src) : detFail s m x = none := by simp [detFail, h]

theorem ctrSel_eq (a : BitVec 7) : ctrSel a = a.toNat % 16 := by simp [ctrSel, BitVec.extractLsb'_toNat]

/-- The count of `RDCLK` by its selector. -/
theorem clockVal_sel (s : State) (k : Nat) (a : BitVec 7) : clockVal s k (a.extractLsb' 0 2).toNat = match a.toNat % 4 with
    | 0 => (s.clk - (pkgAt s (partOf s k).pkg).clk0) / 3
    | 1 => s.clk - (pkgAt s (partOf s k).pkg).clk0
    | _ => (partOf s k).runClk / 3 := by
  have hsel : (a.extractLsb' 0 2).toNat = a.toNat % 4 := by simp [BitVec.extractLsb'_toNat]
  rw [clockVal, hsel]
  have hlt : a.toNat % 4 < 4 := Nat.mod_lt _ (by decide)
  generalize a.toNat % 4 = n at hlt
  match n, hlt with
  | 0, _ | 1, _ | 2, _ | 3, _ => rfl

theorem filterMap_getElem? {α : Type} (l : List α) : ((List.range l.length).filterMap fun k => l[k]?) = l := by
  induction l using List.reverseRecOn with
  | nil => rfl
  | append_singleton t x ih =>
    have hpre : ∀ k ∈ List.range t.length, (t ++ [x])[k]? = t[k]? := fun k hk => List.getElem?_append_left (List.mem_range.1 hk)
    rw [List.length_append, List.length_singleton, List.range_succ, List.filterMap_append, List.filterMap_congr hpre, ih]
    simp

/-- The values that the members of a list receive by their places. -/
theorem filterMap_places {γ : Type} (l : List Member) (F : Nat → Member → γ) (v : Member → γ) (hv : ∀ k m, l[k]? = some m → F k m = v m) :
    ((List.range l.length).filterMap fun k => (l[k]?).map fun m => (m, F k m)) = l.map fun m => (m, v m) := by
  have hplace : ∀ k ∈ List.range l.length, ((l[k]?).map fun m => (m, F k m)) = (l[k]?).map fun m => (m, v m) := fun k _ => by
    cases hk : l[k]? with
    | none => rfl
    | some m => rw [Option.map_some, Option.map_some, hv k m hk]
  rw [List.filterMap_congr hplace, ← List.map_filterMap, filterMap_getElem?]

/-- The value of a member of `RAND` by its place among the actors. -/
def randVal (s : State) (l : List Member) (m : Member) : Val := (Config.entropy (s.free + l.idxOf m)).setWidth 128

theorem randVal_of_place {s : State} {l : List Member} (hn : l.Nodup) {k : Nat} {m : Member} (h : l[k]? = some m) :
    randVal s l m = (Config.entropy (s.free + k)).setWidth 128 := by
  obtain ⟨hk, rfl⟩ := List.getElem?_eq_some_iff.1 h
  rw [randVal, hn.idxOf_getElem]

/-- The state of `RAND` with its free values taken. -/
def randTaken (s : State) (g : Group) (i : Instr) : State := { noted s g i with free := (noted s g i).free + (actors s g i).length }

theorem randValues {i : Instr} {s : State} {g : Group} (hr : Claims.Ready s g i) (hn : (actors s g i).Nodup) :
    ((List.range ((actors s g i).map fun m => (m, sources s g i m)).length).filterMap fun k =>
      (((actors s g i).map fun m => (m, sources s g i m))[k]?).map fun e =>
        (e.1, loadedVal (noted s g i) e.1 ((Config.entropy ((noted s g i).free + k)).setWidth 128))) =
      (actors s g i).map fun m => (m, randVal s (actors s g i) m) := by
  have hfree : (noted s g i).free = s.free := (traceFrame_noted s g _).read State.free fun _ => rfl
  simp only [List.length_map, List.getElem?_map, Option.map_map, Function.comp_def]
  refine filterMap_places _ (fun k m => _) _ fun k m hk => ?_
  rw [loadedVal_plain (isRedun_of_ready hr (List.mem_of_getElem? hk)), hfree, randVal_of_place hn hk]

theorem exec_rand {p : BitVec 3} {d : BitVec 7} {s : State} {g : Group} (hr : Claims.Ready s g (.rand p d))
    (hdet : Claims.EachChecked s g (.rand p d) fun m _ => isDet s m.warp = false) (hn : (actors s g (.rand p d)).Nodup) :
    exec (.rand p d) s = .next (retire (writeD (randTaken s g (.rand p d)) (shapeOf (.rand p d)).d
      ((actors s g (.rand p d)).map fun m => (m, randVal s (actors s g (.rand p d)) m)))) := by
  have hplain : ∀ e ∈ (actors s g (.rand p d)).map fun m => (m, randVal s (actors s g (.rand p d)) m),
      isRedun (randTaken s g (.rand p d)) e.1.warp = false := fun e he => by
    obtain ⟨m, hm, rfl⟩ := List.mem_map.1 he
    exact isRedun_of_ready hr hm
  show execRand p d s = _
  rw [execRand, groupOp_plain _ .fwd noWait detFail _ s g hr.cur hr.plain hr.ops (fun _ _ => rfl) (fun m hm hh => detFail_none (hdet m hm hh) _) rfl]
  dsimp only
  rw [randValues hr hn, List.length_map]
  exact congrArg (fun v => Host.Outcome.next (retire v)) (forwarded_plain _ _ _ hplain)

theorem counterAndClock : Claims.CounterAndClock := by
  refine ⟨fun p d a s g hr => ?_, fun p d a s g hr hdet => ?_, fun p d s g hr hdet hn => ?_⟩
  · refine readOnce_plain (fail := noFail) (val := fun s m _ => BitVec.ofNat 128 (timelineOf s (warpOf s m.warp).ctx (ctrSel a)).value) _ rfl hr
      (fun _ _ _ => rfl) fun m _ => ?_
    rw [timelineOf_noted, ctx_noted, ctrSel_eq]
  · refine readOnce_plain (fail := detFail)
      (val := fun s m _ => BitVec.ofNat 128 (clockVal s (partOfWarp s m.warp) (a.extractLsb' 0 2).toNat % 2 ^ 64)) _ rfl hr
      (fun m hm hh => detFail_none (hdet m hm hh) _) fun m _ => ?_
    rw [clockVal_noted, (traceFrame_noted ..).partOfWarp, clockVal_sel] <;> rfl
  · have hfree : (noted s g (.rand p d)).free = s.free := (traceFrame_noted s g _).read State.free fun _ => rfl
    have htaken : AuditFrame (noted s g (.rand p d)) (randTaken s g (.rand p d)) := .of_same rfl rfl rfl rfl rfl
    have hwarps : (randTaken s g (.rand p d)).warps = (noted s g (.rand p d)).warps := rfl
    refine ⟨_, randVal s (actors s g (.rand p d)), exec_rand hr hdet hn,
      ((auditFrame_noted s g (.rand p d)).trans (htaken.trans (sameFrame_writeD ..).auditFrame)).memoryKept,
      received_noted hwarps _ (actors_lane s g _) _, ?_, fun k m hk => randVal_of_place hn hk⟩
    rw [(sameFrame_writeD ..).read State.free fun _ _ => rfl, randTaken, hfree]

/-! ### Signals (R211, R237, R239) -/

/-- Two states differ in the numbers and counters of a context and in the operations on their way alone. -/
structure SignalFrame (s u : State) : Prop where
  audit : ∀ c, (ctxOf u c).auditSeq = (ctxOf s c).auditSeq
  live : ∀ c, (tblGet? u.ctxs c).isSome = (tblGet? s.ctxs c).isSome
  rest : { u with ctxs := s.ctxs, ops := s.ops, nextId := s.nextId } = s

theorem SignalFrame.refl (s : State) : SignalFrame s s := ⟨fun _ => rfl, fun _ => rfl, rfl⟩
theorem SignalFrame.trans {s t u : State} (h : SignalFrame s t) (k : SignalFrame t u) : SignalFrame s u := by
  have h1 := h.rest; have k1 := k.rest
  exact ⟨fun c => (k.audit c).trans (h.audit c), fun c => (k.live c).trans (h.live c), by rw [← k1] at h1; exact h1⟩

theorem SignalFrame.warps {s u : State} (h : SignalFrame s u) : u.warps = s.warps := by
  have e := congrArg State.warps h.rest
  exact e
theorem SignalFrame.isRedun {s u : State} (h : SignalFrame s u) (w : Nat) : isRedun u w = isRedun s w := by
  have e := congrArg (Machine.isRedun · w) h.rest
  exact e
theorem SignalFrame.auditFrame {s u : State} (h : SignalFrame s u) : AuditFrame s u := by
  have hm := congrArg State.mem h.rest
  have hl := congrArg State.lineKey h.rest
  have hw := congrArg State.writes h.rest
  have hp := congrArg State.pkgs h.rest
  exact ⟨fun c => (h.audit c).ge, fun _ => ⟨hm, hl, hw, hp⟩⟩

/-- A member's earlier accesses have been performed, after some operations have entered. -/
def doneAt (scope : Nat) (s : State) (j : Nat) (m : Member) : Bool := signalDone scope { s with nextId := s.nextId + j } m

theorem SignalFrame.signalDone {s u : State} (h : SignalFrame s u) (scope n : Nat) (m : Member) :
    signalDone scope { u with nextId := n } m = signalDone scope { s with nextId := n } m := by
  have e := congrArg (fun v => Machine.signalDone scope { v with nextId := n } m) h.rest
  exact e

theorem SignalFrame.doneAt {s u : State} (h : SignalFrame s u) {n : Nat} (hn : u.nextId = s.nextId + n) (scope j : Nat) (m : Member) :
    doneAt scope u j m = doneAt scope s (n + j) m := by
  rw [Machine.doneAt, Machine.doneAt, hn, Nat.add_assoc]
  exact h.signalDone scope _ m

theorem signalFrame_updTimeline (s : State) (c k : Nat) (f : Timeline → Timeline) : SignalFrame s (updTimeline s c k f) := by
  refine ⟨fun x => ?_, fun x => ?_, rfl⟩
  · rw [ctxOf, updTimeline, updCtx, tblGet_tblUpd]
    split <;> rfl
  · rw [updTimeline, updCtx, tblGet?_tblUpd]
    split <;> simp

/-- The operation of a member whose earlier accesses have not been performed. -/
def signalOp (s : State) (k scope : Nat) (m : Member) : EngOp :=
  let w := warpOf s m.warp
  let g := wgOfWarp s m.warp
  { ctx := w.ctx, part := lkPart g.lcore, grid := g.grid, wg := w.wg, warp := m.warp, lane := m.lane, lcore := g.lcore
    slot := w.slot, cmd := 6, num := nextNumber s w.ctx k, ctr := k, cscope := scope, ended := true, complete := true, after := s.nextId }

theorem issueSignal_done {s : State} {k scope c : Nat} {m : Member} (hc : (warpOf s m.warp).ctx = c) (h : signalDone scope s m = true) :
    issueSignal k scope s m = completeNumber (takeNumber s c k) c k ((timelineOf s c k).mark + 1) := by
  subst hc
  rw [issueSignal, if_pos h]
  rfl

theorem issueSignal_waits {s : State} {k scope c : Nat} {m : Member} (hc : (warpOf s m.warp).ctx = c) (h : signalDone scope s m = false) :
    issueSignal k scope s m =
      { takeNumber s c k with ops := s.ops ++ [(s.nextId, signalOp s k scope m)], nextId := s.nextId + 1 } := by
  subst hc
  rw [issueSignal, if_neg (Bool.eq_false_iff.1 h)]
  rfl

theorem signalFrame_issueSignal (s : State) (k scope : Nat) (m : Member) : SignalFrame s (issueSignal k scope s m) := by
  cases h : signalDone scope s m with
  | true =>
    rw [issueSignal_done rfl h]
    exact (signalFrame_updTimeline ..).trans (signalFrame_updTimeline ..)
  | false =>
    rw [issueSignal_waits rfl h]
    have htake := signalFrame_updTimeline s (warpOf s m.warp).ctx k fun t => { t with mark := t.mark + 1 }
    exact ⟨htake.audit, htake.live, rfl⟩

theorem mark_advanceTl (n : Nat) (t : Timeline) : (advanceTl n t).mark = t.mark := by
  induction n generalizing t with
  | zero => rfl
  | succ n ih =>
    rw [advanceTl]
    split
    · exact ih _
    · rfl

theorem mark_completeNumber (s : State) (c k n : Nat) (hc : (tblGet? s.ctxs c).isSome = true) :
    (timelineOf (completeNumber s c k n) c k).mark = (timelineOf s c k).mark := by
  rw [completeNumber, timelineOf_updTimeline s c k _ hc]
  split
  · rfl
  · exact mark_advanceTl ..

theorem doneOut_completeNumber (s : State) (c k n : Nat) (hc : (tblGet? s.ctxs c).isSome = true) (hn : n = (timelineOf s c k).value + 1)
    (hout : (timelineOf s c k).doneOut = []) : (timelineOf (completeNumber s c k n) c k).doneOut = [] := by
  rw [completeNumber, timelineOf_updTimeline s c k _ hc, if_neg (by omega), hout, hn]
  simp [insNat, advanceTl]

theorem timelineOf_takeNumber (s : State) (c k : Nat) (hc : (tblGet? s.ctxs c).isSome = true) :
    timelineOf (takeNumber s c k) c k = { timelineOf s c k with mark := (timelineOf s c k).mark + 1 } := timelineOf_updTimeline s c k _ hc

/-- A signal's counter after a number that is complete at once. -/
theorem timelineOf_issueSignal_done {s : State} {k scope c : Nat} {m : Member} (hlive : (tblGet? s.ctxs c).isSome = true)
    (hc : (warpOf s m.warp).ctx = c) (h : signalDone scope s m = true) :
    (timelineOf (issueSignal k scope s m) c k).mark = (timelineOf s c k).mark + 1 ∧
      ((timelineOf s c k).value = (timelineOf s c k).mark → (timelineOf s c k).doneOut = [] →
        (timelineOf (issueSignal k scope s m) c k).value = (timelineOf s c k).mark + 1 ∧ (timelineOf (issueSignal k scope s m) c k).doneOut = []) := by
  have htake := timelineOf_takeNumber s c k hlive
  have hlive1 : (tblGet? (takeNumber s c k).ctxs c).isSome = true := ((signalFrame_updTimeline ..).live c).trans hlive
  rw [issueSignal_done hc h]
  refine ⟨?_, fun hval hout => ⟨value_completeNumber _ _ _ _ hlive1 ?_ ?_, doneOut_completeNumber _ _ _ _ hlive1 ?_ ?_⟩⟩
  · rw [mark_completeNumber _ _ _ _ hlive1, htake]
  all_goals rw [htake]
  · dsimp only
    rw [hval]
  · exact hout
  · dsimp only
    rw [hval]
  · exact hout

/-- The members of a signal in a context, and the operations that they leave. -/
structure Signalled (c k scope : Nat) (s : State) (ms : List Member) (u : State) (l : Tbl EngOp) : Prop where
  frame : SignalFrame s u
  ops : u.ops = s.ops ++ l
  mark : (timelineOf u c k).mark = (timelineOf s c k).mark + ms.length
  waits : (∀ j m, ms[j]? = some m → doneAt scope s j m = false) → l.length = ms.length ∧ (timelineOf u c k).value = (timelineOf s c k).value ∧
    ∀ j m e, ms[j]? = some m → l[j]? = some e → ∃ v, e = (s.nextId + j, signalOp v k scope m) ∧ (timelineOf v c k).mark = (timelineOf s c k).mark + j ∧ SignalFrame s v
  done : (∀ m ∈ ms, doneAt scope s 0 m = true) → l = [] ∧ ((timelineOf s c k).value = (timelineOf s c k).mark → (timelineOf s c k).doneOut = [] →
    (timelineOf u c k).value = (timelineOf s c k).mark + ms.length)

theorem signalled {c k scope : Nat} (ms : List Member) (s : State) (hlive : (tblGet? s.ctxs c).isSome = true)
    (hc : ∀ m ∈ ms, (warpOf s m.warp).ctx = c) : ∃ l, Signalled c k scope s ms (ms.foldl (issueSignal k scope) s) l := by
  induction ms generalizing s with
  | nil => exact ⟨[], .refl s, (List.append_nil _).symm, rfl, fun _ => ⟨rfl, rfl, fun j m e h => absurd h (by simp)⟩, fun _ => ⟨rfl, fun h _ => h⟩⟩
  | cons m t ih =>
    have hstep := signalFrame_issueSignal s k scope m
    obtain ⟨l, hl⟩ := ih (issueSignal k scope s m) ((hstep.live c).trans hlive) fun n hn => by
      rw [warpOf, hstep.warps]
      exact hc n (List.mem_cons_of_mem _ hn)
    have hm := hc m List.mem_cons_self
    rw [List.foldl_cons]
    cases hd : signalDone scope s m with
    | true =>
      have hnext : (issueSignal k scope s m).nextId = s.nextId + 0 := by rw [issueSignal_done hm hd]; rfl
      have hops : (issueSignal k scope s m).ops = s.ops := by rw [issueSignal_done hm hd]; rfl
      obtain ⟨hmark, hval⟩ := timelineOf_issueSignal_done (k := k) hlive hm hd
      refine ⟨l, hstep.trans hl.frame, by rw [hl.ops, hops], ?_, fun hno => ?_, fun hall => ?_⟩
      · rw [hl.mark, hmark, List.length_cons]
        omega
      · exact absurd (hno 0 m rfl) (by rw [show doneAt scope s 0 m = true from hd]; decide)
      · obtain ⟨hnil, hvalue⟩ := hl.done fun n hn => by
          rw [hstep.doneAt hnext]
          exact hall n (List.mem_cons_of_mem _ hn)
        refine ⟨hnil, fun hv hout => ?_⟩
        obtain ⟨hv1, hout1⟩ := hval hv hout
        rw [hvalue (hv1.trans hmark.symm) hout1, hmark, List.length_cons]
        omega
    | false =>
      have hnext : (issueSignal k scope s m).nextId = s.nextId + 1 := by rw [issueSignal_waits hm hd]
      have hops : (issueSignal k scope s m).ops = s.ops ++ [(s.nextId, signalOp s k scope m)] := by rw [issueSignal_waits hm hd]
      have htl : timelineOf (issueSignal k scope s m) c k = { timelineOf s c k with mark := (timelineOf s c k).mark + 1 } := by
        rw [issueSignal_waits hm hd]
        exact timelineOf_takeNumber s c k hlive
      refine ⟨(s.nextId, signalOp s k scope m) :: l, hstep.trans hl.frame, by rw [hl.ops, hops, List.append_assoc, List.singleton_append], ?_,
        fun hno => ?_, fun hall => ?_⟩
      · rw [hl.mark, htl, List.length_cons]
        dsimp only
        omega
      · obtain ⟨hlen, hvalue, hent⟩ := hl.waits fun j n hj => by
          rw [hstep.doneAt hnext, Nat.add_comm]
          exact hno (j + 1) n hj
        refine ⟨by rw [List.length_cons, List.length_cons, hlen], by rw [hvalue, htl], fun j n e hj he => ?_⟩
        cases j with
        | zero =>
          obtain rfl : m = n := Option.some.inj hj
          exact ⟨s, (Option.some.inj he).symm, rfl, .refl s⟩
        | succ j =>
          obtain ⟨v, rfl, hv, hframe⟩ := hent j n e hj he
          refine ⟨v, ?_, ?_, hstep.trans hframe⟩
          · rw [hnext, Nat.add_assoc, Nat.add_comm 1]
          · rw [hv, htl]
            dsimp only
            omega
      · exact absurd (hall m List.mem_cons_self) (by rw [show doneAt scope s 0 m = false from hd]; decide)

/-! ### `TSIGNAL` -/

/-- Before the j-th of the members that pass a test stand j others that pass it. -/
theorem length_filter_takeWhile (l : List Member) (p : Member → Bool) (hn : l.Nodup) {j : Nat} {m : Member} (h : (l.filter p)[j]? = some m) :
    ((l.takeWhile fun n => n != m).filter p).length = j := by
  induction l generalizing j with
  | nil => exact absurd h (by simp)
  | cons x t ih =>
    obtain ⟨hx, ht⟩ := List.nodup_cons.1 hn
    have hne : ∀ i, (t.filter p)[i]? = some m → (x != m) = true := fun i hi => by
      have hm : m ∈ t := List.mem_of_mem_filter (List.mem_of_getElem? hi)
      simp only [bne_iff_ne, ne_eq]
      rintro rfl
      exact hx hm
    rw [List.filter_cons] at h
    split at h
    · next hp =>
      cases j with
      | zero =>
        obtain rfl : x = m := Option.some.inj h
        simp
      | succ j => simp [hne j h, hp, ih ht h]
    · next hp => simp [hne j h, hp, ih ht h]

theorem length_takeWhile_lt (l : List Member) {m : Member} (h : m ∈ l) : (l.takeWhile fun n => n != m).length < l.length := by
  induction l with
  | nil => exact absurd h List.not_mem_nil
  | cons x t ih =>
    by_cases hx : x = m
    · simp [hx]
    · have hm : m ∈ t := (List.mem_cons.1 h).resolve_left (Ne.symm hx)
      simp [hx, ih hm]

/-- The value of a member of `TSIGNAL`: its number. -/
def signalVal (s : State) (g : Group) (i : Instr) (k : Nat) (m : Member) : Val :=
  BitVec.ofNat 128 (signalNumber (noted s g i) (Claims.acts s g i) m k)

theorem signalVal_of_place {s : State} {g : Group} {i : Instr} {c k : Nat} (hn : (actors s g i).Nodup)
    (hc : ∀ m ∈ actors s g i, (warpOf s m.warp).ctx = c) {j : Nat} {m : Member} (h : (nonHelpers s (actors s g i))[j]? = some m) :
    signalVal s g i k m = BitVec.ofNat 128 ((timelineOf s c k).mark + j + 1) := by
  have hm : m ∈ actors s g i := List.mem_of_mem_filter (List.mem_of_getElem? h)
  simp only [signalVal, signalNumber, map_fst_acts, ctx_noted, hc m hm, timelineOf_noted, thrOf_noted]
  rw [length_filter_takeWhile _ _ hn h]

theorem filterMap_unless {α β : Type} (l : List α) (p : α → Bool) (f F : α → β) (h : ∀ x ∈ l, f x = F x) :
    (l.filterMap fun x => if p x then none else some (f x)) = (l.filter fun x => !p x).map F := by
  induction l with
  | nil => rfl
  | cons x t ih =>
    have ht := ih fun y hy => h y (List.mem_cons_of_mem _ hy)
    rw [List.filter_cons]
    cases hx : p x with
    | true => simpa [hx] using ht
    | false => simpa [hx, h x List.mem_cons_self] using ht

theorem signalVals {s : State} {g : Group} {i : Instr} (hr : Claims.Ready s g i) (k : Nat) :
    ((Claims.acts s g i).filterMap fun e => if (thrOf (noted s g i) e.1).helper then none
      else some (e.1, loadedVal (noted s g i) e.1 (BitVec.ofNat 128 (signalNumber (noted s g i) (Claims.acts s g i) e.1 k)))) =
      (nonHelpers s (actors s g i)).map fun m => (m, signalVal s g i k m) := by
  rw [filterMap_unless _ _ _ (fun e => (e.1, signalVal s g i k e.1)), filter_acts, nonHelperActs, List.map_map]
  · rfl
  · intro e he
    obtain ⟨m, hm, rfl⟩ := List.mem_map.1 he
    rw [loadedVal_plain (isRedun_of_ready hr hm), signalVal]

theorem foldl_issueSignal_plain (k scope : Nat) (ms : List Member) (s : State) (h : ∀ m ∈ ms, isRedun s m.warp = false) :
    ms.foldl (fun v m => if takesForward v m then v else issueSignal k scope v m) s = ms.foldl (issueSignal k scope) s := by
  induction ms generalizing s with
  | nil => rfl
  | cons m t ih =>
    have hm : takesForward s m = false := by simp [takesForward, h m List.mem_cons_self]
    rw [List.foldl_cons, List.foldl_cons, hm]
    exact ih _ fun n hn => ((signalFrame_issueSignal ..).isRedun _).trans (h n (List.mem_cons_of_mem _ hn))

theorem signalDone_traceless (s : State) (scope n : Nat) (m : Member) :
    signalDone scope { traceless s with nextId := n } m = signalDone scope { s with nextId := n } m := by
  have hwg : wgOfWarp { traceless s with nextId := n } m.warp = wgOfWarp s m.warp := wgOfWarp_traceless s m.warp
  have hcore : coreOfL { traceless s with nextId := n } (wgOfWarp s m.warp).lcore = coreOfL s (wgOfWarp s m.warp).lcore := by
    rw [coreOfL, show lcoreOf { traceless s with nextId := n } _ = _ from lcoreOf_traceless s _]
    rfl
  have hwarp : abandoning { traceless s with nextId := n } m.warp = abandoning s m.warp := by
    rw [abandoning, show warpOf { traceless s with nextId := n } m.warp = _ from warpOf_traceless s m.warp]
    rfl
  simp only [signalDone, releasedAt, tilesDone, recReadsDone, hwg, hcore, hwarp]
  rfl

theorem signalDone_noted (s : State) (g : Group) (i : Instr) (scope n : Nat) (m : Member) :
    signalDone scope { noted s g i with nextId := n } m = signalDone scope { s with nextId := n } m :=
  (traceFrame_noted s g i).read (fun v => signalDone scope { v with nextId := n } m) fun v => signalDone_traceless v scope n m

/-- The signals issued, one by one. -/
def signals (s : State) (g : Group) (i : Instr) (k scope : Nat) : State :=
  (nonHelpers s (actors s g i)).foldl (issueSignal k scope) (noted s g i)

theorem signalFrame_signals (s : State) (g : Group) (i : Instr) (k scope : Nat) : SignalFrame (noted s g i) (signals s g i k scope) :=
  foldl_inv (SignalFrame (noted s g i)) _ _ _ (fun v m h => h.trans (signalFrame_issueSignal v k scope m)) (.refl _)

theorem exec_tsignal {p : BitVec 3} {d a : BitVec 7} {s : State} {g : Group} (hr : Claims.Ready s g (.tsignal p d a))
    (hfits : ∀ m ∈ actors s g (.tsignal p d a), (timelineOf s (warpOf s m.warp).ctx (ctrSel a)).mark +
      (nonHelpers s (actors s g (.tsignal p d a))).length < 2 ^ 64) :
    exec (.tsignal p d a) s = .next (retire (writeD (signals s g (.tsignal p d a) (ctrSel a) (a.extractLsb' 4 3).toNat)
      (shapeOf (.tsignal p d a)).d ((nonHelpers s (actors s g (.tsignal p d a))).map fun m => (m, signalVal s g (.tsignal p d a) (ctrSel a) m)))) := by
  have hplain : ∀ m ∈ nonHelpers s (actors s g (.tsignal p d a)), isRedun (noted s g (.tsignal p d a)) m.warp = false := fun m hm =>
    isRedun_of_ready hr (List.mem_of_mem_filter hm)
  show execTsignal p d a s = _
  rw [execTsignal, groupOp_plain _ .both noWait _ _ s g hr.cur hr.plain hr.ops (fun _ _ => rfl) (fun m hm hh => ?_) rfl]
  · have hvals := signalVals hr (ctrSel a)
    rw [Claims.acts] at hvals
    dsimp only
    rw [hvals, List.foldl_map, foldl_issueSignal_plain _ _ _ _ hplain, forwarded_plain]
    · rfl
    · rintro e he
      obtain ⟨m, hm, rfl⟩ := List.mem_map.1 he
      exact ((signalFrame_signals ..).isRedun _).trans (hplain m hm)
  · have hin : m ∈ nonHelpers s (active s g p) := List.mem_filter.2 ⟨hm, by simp [hh]⟩
    have hlt := length_takeWhile_lt _ hin
    have hhas : counterHas s (warpOf s m.warp).ctx (ctrSel a) (((nonHelpers s (active s g p)).takeWhile fun n => n != m).length + 1) = true := by
      have hfit : (timelineOf s (warpOf s m.warp).ctx (ctrSel a)).mark + (nonHelpers s (active s g p)).length < 2 ^ 64 := hfits m hm
      rw [counterHas, decide_eq_true_eq]
      omega
    rw [hr.cur]
    dsimp only
    rw [hhas, Bool.or_true, if_pos rfl]

theorem signalNumbers : Claims.SignalNumbers := by
  intro p d a s g c i hr hc hn hlive ms k n done hfit
  have hscope : (a.extractLsb' 4 3).toNat = a.toNat / 16 % 8 := by simp [BitVec.extractLsb'_toNat, Nat.shiftRight_eq_div_pow]
  have hexec := exec_tsignal hr fun m hm => by rw [hc m hm, ctrSel_eq]; exact hfit
  rw [ctrSel_eq, hscope] at hexec
  have htrace := traceFrame_noted s g i
  have hlive' : (tblGet? (noted s g i).ctxs c).isSome = true := (htrace.read (fun v => (tblGet? v.ctxs c).isSome) fun v => by
    rw [show (traceless v).ctxs = tblMap v.ctxs fun _ c => bareCtx c from rfl, tblGet?_tblMap, Option.isSome_map]).trans hlive
  obtain ⟨l, hl⟩ := signalled (c := c) (k := k) (scope := a.toNat / 16 % 8) ms (noted s g i) hlive' fun m hm =>
    (ctx_noted s g i m.warp).trans (hc m (List.mem_of_mem_filter hm))
  have hnext : (noted s g i).nextId = s.nextId := htrace.read State.nextId fun _ => rfl
  have hops : (noted s g i).ops = s.ops := htrace.read State.ops fun _ => rfl
  have htl : timelineOf (noted s g i) c k = timelineOf s c k := timelineOf_noted s g i c k
  have hdone : ∀ j m, doneAt (a.toNat / 16 % 8) (noted s g i) j m = done j m := fun j m => by
    rw [doneAt, hnext]
    exact signalDone_noted s g i _ _ m
  have hsame := sameFrame_writeD (signals s g i k (a.toNat / 16 % 8)) (shapeOf i).d (ms.map fun m => (m, signalVal s g i k m))
  have htimeline : timelineOf (writeD (signals s g i k (a.toNat / 16 % 8)) (shapeOf i).d (ms.map fun m => (m, signalVal s g i k m))) c k =
      timelineOf (signals s g i k (a.toNat / 16 % 8)) c k := hsame.read (timelineOf · c k) fun _ _ => rfl
  refine ⟨_, l, signalVal s g i k, hexec, ?_, ?_, ?_, ?_, fun j m hj => signalVal_of_place hn hc hj, fun hno => ?_, fun hall => ?_⟩
  · exact ((hsame.read State.ops fun _ _ => rfl).trans hl.ops).trans (by rw [hops])
  · rw [htimeline]
    exact hl.mark.trans (by rw [htl])
  · exact received_noted hl.frame.warps ms (fun m hm => actors_lane s g i m (List.mem_of_mem_filter hm)) _
  · exact ((auditFrame_noted s g i).trans (hl.frame.auditFrame.trans hsame.auditFrame)).memoryKept
  · obtain ⟨hlen, hvalue, hent⟩ := hl.waits fun j m hj => (hdone j m).trans (hno j m hj)
    refine ⟨hlen, by rw [htimeline, ← htl]; exact hvalue, fun j m e hj he => ?_⟩
    obtain ⟨v, rfl, hmark, hframe⟩ := hent j m e hj he
    have hctx : (warpOf v m.warp).ctx = c := by
      rw [warpOf, hframe.warps, ← warpOf, ctx_noted]
      exact hc m (List.mem_of_mem_filter (List.mem_of_getElem? hj))
    refine ⟨by rw [hnext], rfl, ?_, rfl, rfl, rfl, rfl, rfl⟩
    show (timelineOf v (warpOf v m.warp).ctx k).mark + 1 = _
    rw [hctx, hmark, htl]
  · obtain ⟨hnil, hvalue⟩ := hl.done fun m hm => (hdone 0 m).trans (hall m hm)
    refine ⟨hnil, fun hval hout => ?_⟩
    rw [htimeline]
    exact (hvalue (by rw [htl]; exact hval) (by rw [htl]; exact hout)).trans (by rw [htl])

end Sys2Proof.Machine

section
open Sys2Proof Sys2Proof.Machine

/-- Settles O38: what reading a counter, the clock and random values gives, and the numbers of a signal member by member. -/
theorem countersAndClock : Obligations.CountersAndClock := ⟨counterAndClock, signalNumbers⟩

end

/-! ## Multi-word compare-and-swap (O30) -/

namespace Sys2Proof.Machine

/-! ### What the end of an instruction leaves for a thread that ends with it -/

/-- A state without what the end of a thread, its output and its place in the sets change: memory and its records, writes, groups, and the
tables of holders, warps and cores. -/
def bareEnd (s : State) : State :=
  { bareSystem s with writes := [], groups := [], wgs := [], warps := [], lcores := [], mats := [], nextId := 0 }

/-- Two states differ in that alone. -/
structure EndFrame (s u : State) : Prop where
  same : bareEnd u = bareEnd s

theorem EndFrame.refl (s : State) : EndFrame s s := ⟨rfl⟩
theorem EndFrame.trans {s t u : State} (h : EndFrame s t) (k : EndFrame t u) : EndFrame s u := ⟨k.same.trans h.same⟩
theorem EndFrame.mcas {s u : State} (h : EndFrame s u) : u.mcas = s.mcas := by
  have e := congrArg State.mcas h.same
  exact e
theorem EndFrame.foldl {α β : Type} (r : α → State) (f : α → β → α) (h : ∀ x e, EndFrame (r x) (r (f x e))) (l : List β) (x : α) :
    EndFrame (r x) (r (l.foldl f x)) := by
  induction l generalizing x with
  | nil => exact .refl _
  | cons e t ih => exact (h x e).trans (ih _)

theorem SystemFrame.endFrame {s u : State} (h : SystemFrame s u) : EndFrame s u := by
  have e := congrArg bareEnd h.same
  exact ⟨e⟩

theorem endFrame_appendLog (s : State) (g : Nat) (l : List LogEntry) : EndFrame s (appendLog s g l) := by
  unfold appendLog
  dsimp only
  split
  · exact ((systemFrame_putHome ..).trans (systemFrame_putNat ..)).endFrame.trans ⟨rfl⟩
  · exact ⟨rfl⟩

theorem endFrame_putChipWord (s : State) (core off : Nat) (v : Word) : EndFrame s (putChipWord s core off v) := by
  unfold putChipWord
  dsimp only
  split <;> exact ⟨rfl⟩

theorem endFrame_putChipBytes (s : State) (pa : Nat) (l : List Byte) : EndFrame s (putChipBytes s pa l) := by
  induction l generalizing s pa with
  | nil => exact .refl s
  | cons b t ih => exact (endFrame_putChipWord ..).trans (ih _ _)

theorem endFrame_pushWrite (s : State) (w : PWrite) : EndFrame s (pushWrite s w) := by
  unfold pushWrite
  split
  · exact ⟨rfl⟩
  · exact (systemFrame_dropCopiesOf ..).endFrame.trans ⟨rfl⟩

theorem endFrame_outWord (s : State) (g va : Nat) (data : List Byte) : EndFrame s (outWord s g va data) := by
  unfold outWord
  dsimp only
  split
  · exact .refl s
  · split
    · exact (systemFrame_fills ..).endFrame.trans (endFrame_appendLog ..)
    · split
      · exact (systemFrame_fills ..).endFrame.trans (endFrame_putChipBytes ..)
      · exact (systemFrame_fills ..).endFrame.trans (endFrame_pushWrite ..)

theorem endFrame_writeOut (s : State) (g : Nat) : EndFrame s (writeOut s g) := by
  unfold writeOut
  dsimp only
  generalize hr : List.foldl _ _ _ = r
  have hwords : EndFrame s r.1 := by
    rw [← hr]
    refine EndFrame.foldl Prod.fst _ (fun v e => ?_) (outWords (wgOf s g)) (s, none)
    split
    · exact endFrame_outWord ..
    · exact .refl _
  split
  · exact hwords.trans (systemFrame_appendFault ..).endFrame
  · exact hwords

theorem endFrame_testBarriers (s : State) (g : Nat) : EndFrame s (testBarriers s g) :=
  EndFrame.foldl id _ (fun s e => by
    unfold testBarrier
    dsimp only
    split
    · split <;> exact ⟨rfl⟩
    · exact .refl _) _ s

theorem endFrame_releaseStorage (s : State) (g : Nat) : EndFrame s (releaseStorage s g) := by
  unfold releaseStorage
  dsimp only
  split <;> exact ⟨rfl⟩

theorem endFrame_freeWarp (s : State) (w : Nat) : EndFrame s (freeWarp s w) := by
  unfold freeWarp
  split <;> exact ⟨rfl⟩

theorem endFrame_reapWg (s : State) (g : Nat) : EndFrame s (reapWg s g) := by
  have h := EndFrame.foldl id freeWarp endFrame_freeWarp (wgOf s g).warps s
  unfold reapWg
  dsimp only
  split
  · exact h.trans ⟨rfl⟩
  · exact h

theorem endFrame_retireWg (s : State) (g : Nat) : EndFrame s (retireWg s g) := by
  unfold retireWg
  dsimp only
  split
  · exact .refl s
  · generalize hs : (if (wgOf s g).seqi || (wgOf s g).discard || !countsForGrid s g then s else writeOut s g) = s1
    have hout : EndFrame s s1 := by
      rw [← hs]
      split
      · exact .refl s
      · exact endFrame_writeOut ..
    have hdone : EndFrame s1 (releaseStorage (updWg s1 g fun w => { w with done := true }) g) :=
      .trans (t := updWg s1 g fun w => { w with done := true }) ⟨rfl⟩ (endFrame_releaseStorage ..)
    refine hout.trans (hdone.trans (.trans ?_ (endFrame_reapWg ..)))
    split
    · exact ⟨rfl⟩
    · split
      · exact .refl _
      · exact ⟨rfl⟩

theorem endFrame_endThread (s : State) (m : Member) : EndFrame s (endThread s m) :=
  .trans (t := updWarp s m.warp fun w => dropHelpers { w with lanes := tblDel w.lanes m.lane }) ⟨rfl⟩
    ((endFrame_testBarriers ..).trans ((endFrame_retireWg ..).trans (endFrame_reapWg ..)))

theorem endFrame_toSuccessor (s : State) (g : Group) (m : Member) : EndFrame s (toSuccessor s g m) := by
  unfold toSuccessor
  split
  · exact endFrame_endThread ..
  · exact ⟨rfl⟩

theorem endFrame_yieldWarps (s : State) (g : Group) (ws : List Nat) : EndFrame s (yieldWarps s g ws) := by
  unfold yieldWarps
  split
  · exact EndFrame.foldl id yieldWarp (fun _ _ => ⟨rfl⟩) ws s
  · exact .refl s

theorem endFrame_standAfter (s : State) (g : Group) (m : Member) : EndFrame s (standAfter s g m) := by
  unfold standAfter
  split
  · exact ⟨rfl⟩
  · exact (endFrame_toSuccessor ..).trans (endFrame_yieldWarps ..)

/-! ### The operation issued (R233, R235) -/

theorem traceFrame_blockTraces (s0 s : State) (m : Member) (vas : List Nat) (kind : Nat) : TraceFrame s (blockTraces s0 m vas kind s) :=
  TraceFrame.foldl _ _ _ fun _ _ => (traceFrame_accessTrace ..).trans (traceFrame_keepLoad ..)

theorem TraceFrame.present {s u : State} (h : TraceFrame s u) (w l : Nat) : present u w l = present s w l :=
  h.read (Machine.present · w l) fun v => by rw [Machine.present, warpOf_traceless]; rfl

theorem warps_yieldWarps (s : State) (g : Group) (ws : List Nat) : (yieldWarps s g ws).warps = s.warps := by
  unfold yieldWarps
  split
  · exact foldl_keeps State.warps yieldWarp (fun _ _ => rfl) ws s
  · rfl

/-- A member that its clause's end does not end is present after the instruction. -/
theorem present_standAfter {s : State} {g : Group} {m : Member} (h : g.ended.contains m.lane = false) (w l : Nat) :
    present (standAfter s g m) w l = present s w l := by
  have hstand := fun pc pos => (standFrame_standAt s m pc pos).present w l
  unfold standAfter
  split
  · exact hstand ..
  · rw [present_congr (warps_yieldWarps ..), toSuccessor, h]
    exact hstand ..

theorem wait_standAfterIn {s : State} {g : Group} {m : Member} (w : Wait) (hp : present s m.warp m.lane = true)
    (h : g.ended.contains m.lane = false) : (thrOf (standAfterIn s g m w) m).wait = w := by
  rw [standAfterIn, thrOf_updThr, if_pos ⟨rfl, (present_standAfter h ..).trans hp⟩]

/-- The state of a member's compare-and-swap with the traces of its block and of its words. -/
def mcasTraced (v : State) (m : Member) (b : Nat) : State :=
  (mcasWords v m b).foldl (fun s w => accessTrace s m (mcasAddr v m b w.idx) .store 0) (blockTraces v m (blkLoads b (mcasCount v m b)) 0 v)

theorem traceFrame_mcasTraced (v : State) (m : Member) (b : Nat) : TraceFrame v (mcasTraced v m b) :=
  (traceFrame_blockTraces ..).trans (TraceFrame.foldl _ _ _ fun _ _ => traceFrame_accessTrace ..)

/-- The operation that a member's compare-and-swap enters. -/
def mcasOp (v : State) (g : Group) (m : Member) (b id reg : Nat) : Mcas :=
  { ctx := (warpOf v m.warp).ctx, part := partOfWarp v m.warp, warp := m.warp, lane := m.lane, pcore := coreOfWarp v m.warp
    words := mcasWords v m b, want := sortNat ((mcasWords v m b).map fun w => w.addr / 128), ret := id, reg := reg
    arrive := (mcasTraced v m b).nextId, block := b, obs := decide (blkNat v m b 1 1 % 2 = 1), pc := g.pc, pos := g.pos + 1 }

/-- The operation entered, with the pending return waiting for it. -/
def mcasEntered (v : State) (g : Group) (m : Member) (b id reg : Nat) : State :=
  let t := mcasTraced v m b
  updLoad { t with mcas := t.mcas ++ [(t.nextId, mcasOp v g m b id reg)], nextId := t.nextId + 1 } id fun l =>
    { l with waits := l.waits ++ [t.nextId] }

theorem issueMcas_plain {g : Group} {d : BitVec 7} {ms : List Member} {id : Nat} {v : State} {m : Member} {x : Src}
    (hh : (thrOf v m).helper = false) (hr : isRedun v m.warp = false) (hs : mcasShared v m (lo64 x.a).toNat = false) :
    issueMcas g d ms id v m x = dropMembers (standAfterIn (mcasEntered v g m (lo64 x.a).toNat id (retReg v ms m d)) g m
      (.compared (mcasTraced v m (lo64 x.a).toNat).nextId)) fun n => n == m := by
  have hfwd : takesForward v m = false := by simp [takesForward, hr]
  rw [issueMcas]
  simp only [hh, hfwd, hs, Bool.false_eq_true, if_false]
  rfl

theorem mcasIssues : Claims.McasIssues := by
  intro p d a s g hr hwait hcheck
  have hexec : exec (.mcas p d a) s = .next (retire (issueReturning (noted s g (.mcas p d a)) g (Claims.acts s g (.mcas p d a)) d 1 (issueMcas g d))) := by
    show execMcas p d a s = _
    rw [execMcas, groupOpE_plain (.mcas p d a) .both _ mcasWait
      (fun v m x => mcasFail v m x (mcasBefore (.mcas p d a) v m)) _ s g hr.cur hr.plain hr.ops hwait hcheck rfl]
    rfl
  refine ⟨hexec, fun ms id v m x hh hredun hshared => ?_⟩
  have htrace := traceFrame_mcasTraced v m (lo64 x.a).toNat
  rw [issueMcas_plain hh hredun hshared]
  refine ⟨(mcasTraced v m (lo64 x.a).toNat).nextId, mcasOp v g m (lo64 x.a).toNat id (retReg v ms m d), ?_, rfl, rfl, rfl, rfl, rfl, rfl, fun hp hended => ?_⟩
  · refine (endFrame_standAfter ..).mcas.trans ?_
    show (mcasTraced v m (lo64 x.a).toNat).mcas ++ _ = _
    rw [htrace.read State.mcas fun _ => rfl]
  · exact wait_standAfterIn _ ((htrace.present ..).trans hp) hended

/-! ### The end of an operation (R209, R210, R234) -/

theorem forward_plain {s : State} {m : Member} (v : Val) (h : isRedun s m.warp = false) : forward s m v = s := by simp [forward, h]

/-- An operation over: its locks are free, and its result reaches the pending return. -/
theorem endMcas_plain {s : State} {id v : Nat} {o : Mcas} (h : tblGet? s.mcas id = some o) (hr : isRedun s o.warp = false) :
    endMcas s id (some v) = landOld (updLoad { markTurns s o with mcas := tblDel s.mcas id } o.ret fun l =>
      { l with waits := l.waits.filter (· != id) }) o.ret o.lane o.reg 4 v 0 := by
  have hplain : isRedun (landOld (updLoad { markTurns s o with mcas := tblDel s.mcas id } o.ret fun l =>
      { l with waits := l.waits.filter (· != id) }) o.ret o.lane o.reg 4 v 0) o.warp = false := hr
  rw [endMcas, tblGet_of_some h]
  exact forward_plain _ hplain

/-- What a compare-and-swap leaves as it ends. -/
structure McasEnded (s : State) (id : Nat) (o : Mcas) (v : Nat) (u : State) : Prop where
  mcas : u.mcas = tblDel s.mcas id
  mem : u.mem = s.mem
  registers : SameRegisters s u
  result : ∀ e, tblGet? s.loads o.ret = some e → ∃ e', tblGet? u.loads o.ret = some e' ∧ e'.writes = e.writes ++ retWrites o.lane o.reg 4 v

theorem mcasEnded_endMcas {s : State} {id : Nat} {o : Mcas} (v : Nat) (h : tblGet? s.mcas id = some o) (hr : isRedun s o.warp = false) :
    McasEnded s id o v (endMcas s id (some v)) := by
  rw [endMcas_plain h hr]
  refine ⟨rfl, rfl, sameRegisters_of_warps rfl, fun e he => ?_⟩
  refine ⟨{ e with writes := e.writes ++ retWrites o.lane o.reg 4 v, waits := e.waits.filter (· != id) }, ?_, rfl⟩
  show tblGet? (tblUpd (tblUpd s.loads o.ret _) o.ret _) o.ret = _
  rw [tblGet?_tblUpd, if_pos rfl, tblGet?_tblUpd, if_pos rfl, he]
  rfl

/-! ### The locks (R210) -/

theorem exec_lockBusy {s : State} {o : Mcas} {t : Nat} (h : tblGet? s.mcas s.arg.a = some o) (hfirst : o.first = some t) (hwin : t + 3600 < s.clk) :
    exec .lockBusy s = .next (endMcas s s.arg.a (some 0x1C000000)) := by
  have hbusy : mcasBusy s o = true := by simp [mcasBusy, hfirst, mcasWindow, hwin]
  show execLockBusy s = _
  rw [execLockBusy, h]
  dsimp only
  rw [if_pos hbusy]
  rfl

/-- An operation with the lock granted that it wanted first. -/
def locked (s : State) (o : Mcas) : Mcas :=
  { o with held := o.held ++ o.want.take 1, want := o.want.drop 1, first := some (o.first.getD s.clk), arrive := s.nextId }

/-- The state with that lock granted. -/
def lockGranted (s : State) (id : Nat) : State := { s with nextId := s.nextId + 1, mcas := tblUpd s.mcas id (locked s) }

theorem tblGet?_lockGranted {s : State} {id : Nat} {o : Mcas} (h : tblGet? s.mcas id = some o) :
    tblGet? (lockGranted s id).mcas id = some (locked s o) := by
  rw [lockGranted, tblGet?_tblUpd, if_pos rfl, h]
  rfl

theorem exec_mcasLockGrant {s : State} {o : Mcas} (h : tblGet? s.mcas s.arg.a = some o) (hready : mcasReady s s.arg.a o = true) :
    exec .mcasLockGrant s = .next (if (locked s o).want.isEmpty then compareMcas (lockGranted s s.arg.a) s.arg.a else lockGranted s s.arg.a) := by
  show execMcasLockGrant s = _
  rw [execMcasLockGrant, h]
  dsimp only
  rw [if_pos hready, ← tblGet_of_some (tblGet?_lockGranted h)]
  rfl

theorem mcasLocks : Claims.McasLocks := by
  refine ⟨fun s o l k t h hready hwant => ?_, fun s o t h hfirst hwin hr => ?_⟩
  · refine ⟨lockGranted s s.arg.a, ?_, rfl, rfl, sameRegisters_of_warps rfl, ?_⟩
    · rw [exec_mcasLockGrant h hready, locked, hwant]
      rfl
    · rw [tblGet?_lockGranted h, locked, hwant]
      rfl
  · have hend := mcasEnded_endMcas 0x1C000000 h hr
    exact ⟨_, exec_lockBusy h hfirst hwin, hend.mcas, hend.mem, hend.registers, hend.result⟩

/-! ### The compare and the swap (R209, R234) -/

/-- The new value of each word written at its home. -/
def swapWords (s : State) (ws : List McasWord) : State := ws.foldl (fun v w => putHome v w.addr w.key (leBytes 8 w.new.toNat)) s

/-- A word that a swap writes as it is given: aligned, outside the capacity tier, in channels in service. -/
structure SwapWord (s : State) (w : McasWord) : Prop where
  plain : Claims.PlainBytes s w.addr 8
  aligned : w.addr % 8 = 0

theorem SwapWord.congr {s u : State} (h : u.pkgs = s.pkgs) {w : McasWord} (hw : SwapWord s w) : SwapWord u w :=
  ⟨⟨hw.plain.1, fun k hk => (channelLost_congr h _).trans (hw.plain.2 k hk)⟩, hw.aligned⟩

/-- A word without poison lies in channels in service. -/
theorem swapWord_of_unpoisoned {s : State} {w : McasWord} (hp : poisoned s w.addr 8 = false) (hc : isCapacity (gpLocal w.addr) = false)
    (ha : w.addr % 8 = 0) : SwapWord s w := by
  refine ⟨⟨hc, fun k hk => ?_⟩, ha⟩
  have hpkg : gpPkg (w.addr + k) = gpPkg w.addr := by
    rw [gpPkg, gpPkg]
    omega
  rw [poisoned, Bool.or_eq_false_iff] at hp
  obtain ⟨-, hoff⟩ := hp
  cases hl : (pkgAt s (gpPkg w.addr)).offline with
  | nil => rw [channelLost, hpkg, hl]; rfl
  | cons c t =>
    rw [hl] at hoff
    simp only [List.isEmpty_cons, Bool.not_false, Bool.true_and, List.any_eq_false, List.mem_range] at hoff
    exact Bool.eq_false_iff.2 (hoff k hk)

theorem wordPut_swap {s : State} {w : McasWord} (h : SwapWord s w) :
    Claims.WordPut s (putHome s w.addr w.key (leBytes 8 w.new.toNat)) w.addr 8 w.new.toNat :=
  wordPut_putHome s w.addr w.key 8 w.new.toNat h.plain.1 h.plain.2

theorem systemFrame_swapWords (s : State) (ws : List McasWord) : SystemFrame s (swapWords s ws) := by
  induction ws generalizing s with
  | nil => exact .refl s
  | cons w t ih => exact (systemFrame_putHome ..).trans (ih _)

/-- A byte outside the words stays. -/
theorem bmGet_swapWords_outside (s : State) (ws : List McasWord) (h : ∀ w ∈ ws, SwapWord s w) (b : Nat)
    (hb : ∀ w ∈ ws, b < w.addr ∨ w.addr + 8 ≤ b) : bmGet (swapWords s ws).mem b = bmGet s.mem b := by
  induction ws generalizing s with
  | nil => rfl
  | cons w t ih =>
    have hpkgs : (putHome s w.addr w.key (leBytes 8 w.new.toNat)).pkgs = s.pkgs := pkgs_putHome ..
    refine (ih (putHome s w.addr w.key (leBytes 8 w.new.toNat)) (fun v hv => (h v (List.mem_cons_of_mem _ hv)).congr hpkgs)
      fun v hv => hb v (List.mem_cons_of_mem _ hv)).trans ?_
    exact (wordPut_swap (h w List.mem_cons_self)).2 b (hb w List.mem_cons_self)

/-- Words that do not meet hold their new values after a swap. -/
theorem bmGet_swapWords (s : State) (ws : List McasWord) (h : ∀ w ∈ ws, SwapWord s w) (hd : ws.Pairwise fun v w => v.addr + 8 ≤ w.addr)
    (w : McasWord) (hw : w ∈ ws) (k : Nat) (hk : k < 8) : bmGet (swapWords s ws).mem (w.addr + k) = w.new.extractLsb' (8 * k) 8 := by
  induction ws generalizing s with
  | nil => exact absurd hw List.not_mem_nil
  | cons v t ih =>
    obtain ⟨hv, ht⟩ := List.pairwise_cons.1 hd
    have hpkgs : (putHome s v.addr v.key (leBytes 8 v.new.toNat)).pkgs = s.pkgs := pkgs_putHome ..
    have htail : ∀ x ∈ t, SwapWord (putHome s v.addr v.key (leBytes 8 v.new.toNat)) x := fun x hx => (h x (List.mem_cons_of_mem _ hx)).congr hpkgs
    rcases List.mem_cons.1 hw with rfl | hmem
    · refine (bmGet_swapWords_outside _ t htail (w.addr + k) fun x hx => ?_).trans ?_
      · have := hv x hx
        omega
      · rw [(wordPut_swap (h w List.mem_cons_self)).1 k hk]
        apply BitVec.eq_of_toNat_eq
        rw [BitVec.extractLsb'_toNat, Nat.shiftRight_eq_div_pow, BitVec.toNat_ofNat, show 256 = 2 ^ 8 from rfl, ← Nat.pow_mul]
    · exact ih _ htail ht hmem

/-- The words that differ from what is expected, and the mask of D. -/
def differing (s : State) (ws : List McasWord) : List McasWord := ws.filter fun w => leNat (bmList s.mem w.addr 8) ≠ w.exp.toNat
def mismatchMask (s : State) (ws : List McasWord) : Nat := ((differing s ws).map fun w => 2 ^ w.idx).sum

theorem mismatchMask_eq_zero (s : State) (ws : List McasWord) : mismatchMask s ws = 0 ↔ differing s ws = [] := by
  rw [mismatchMask]
  cases differing s ws with
  | nil => simp
  | cons w t =>
    have : 0 < 2 ^ w.idx := Nat.two_pow_pos _
    simp

theorem sum_masks (f : McasWord → Nat) (ws : List McasWord) :
    (((ws.map fun w => (w, f w)).filter fun e => e.2 ≠ e.1.exp.toNat).map fun e => 2 ^ e.1.idx).sum =
      ((ws.filter fun w => f w ≠ w.exp.toNat).map fun w => 2 ^ w.idx).sum := by
  rw [List.filter_map, List.map_map]
  rfl

/-- The compare of an operation whose words are without poison, and which does not ask for the values observed. -/
theorem compareMcas_plain {s : State} {id : Nat} {o : Mcas} (h : tblGet? s.mcas id = some o) (hobs : o.obs = false)
    (hp : ∀ w ∈ o.words, poisoned s w.addr 8 = false) (hw : ∀ w ∈ o.words, SwapWord s w) :
    compareMcas s id = dropBelow (endMcas (if mismatchMask s o.words = 0 then swapWords s o.words else s) id
      (some (mcasResult (if mismatchMask s o.words = 0 then 0 else 1) (mismatchMask s o.words)))) o.pcore 5 := by
  have hgood : ¬ (o.words.any fun w => poisoned s w.addr 8) = true := by
    rw [Bool.not_eq_true, List.any_eq_false]
    exact fun w hin => Bool.eq_false_iff.1 (hp w hin)
  have hread : o.words.map (fun w => (w, leNat ((List.range 8).map fun k => homeByte s (w.addr + k) w.key))) =
      o.words.map fun w => (w, leNat (bmList s.mem w.addr 8)) := List.map_congr_left fun w hin => by
    rw [homeBytes_word s w.key (.inr rfl) (hw w hin).aligned (hw w hin).plain.1]
  have hmask := sum_masks (fun w => leNat (bmList s.mem w.addr 8)) o.words
  rw [compareMcas, tblGet_of_some h, if_neg hgood, hread]
  dsimp only
  rw [hmask, if_neg (fun hc => Bool.false_ne_true (hobs.symm.trans hc.2))]
  rfl

/-- A thread whose own copies give way below a system-wide point keeps what a compare-and-swap has left. -/
theorem mcasEnded_dropBelow {s u : State} {id v : Nat} {o : Mcas} (h : McasEnded s id o v u) (core : Nat) :
    McasEnded s id o v (dropBelow u core 5) := by
  have hdrop : (dropCopies u core).mcas = u.mcas ∧ (dropCopies u core).mem = u.mem ∧ (dropCopies u core).warps = u.warps ∧
      (dropCopies u core).loads = u.loads := by
    unfold dropCopies
    split <;> exact ⟨rfl, rfl, rfl, rfl⟩
  obtain ⟨hmcas, hmem, hwarps, hloads⟩ := hdrop
  refine ⟨hmcas.trans h.mcas, hmem.trans h.mem, sameRegisters_trans h.registers (sameRegisters_of_warps hwarps), fun e he => ?_⟩
  obtain ⟨e', he', hw⟩ := h.result e he
  exact ⟨e', (congrArg (tblGet? · o.ret) hloads).trans he', hw⟩

/-- An entry taken away is the same gone before and after a change of it. -/
theorem tblDel_tblUpd {α : Type} (t : Tbl α) (i : Nat) (f : α → α) : tblDel (tblUpd t i f) i = tblDel t i := by
  induction t with
  | nil => rfl
  | cons e t ih =>
    rw [tblUpd]
    split
    · next h => rw [tblDel, if_pos h, tblDel, if_pos h]
    · next h => rw [tblDel, if_neg h, ih, tblDel, if_neg h]

/-- The compare ends with its result, in the state that the swap, if any, has made of the one with every lock. -/
theorem mcasEnded_compare {s t : State} {o : Mcas} (v : Nat) (h : tblGet? s.mcas s.arg.a = some o) (hr : isRedun s o.warp = false)
    (ht : SystemFrame (lockGranted s s.arg.a) t) :
    McasEnded t s.arg.a (locked s o) v (dropBelow (endMcas t s.arg.a (some v)) o.pcore 5) := by
  refine mcasEnded_dropBelow (mcasEnded_endMcas (o := locked s o) v ?_ ((ht.isRedun o.warp).trans hr)) _
  rw [ht.read State.mcas fun _ => rfl]
  exact tblGet?_lockGranted h

theorem mcasCompares : Claims.McasCompares := by
  intro s o l h hready hwant hobs hwords hdisjoint hr found bad
  have hlock := tblGet?_lockGranted h
  have hplain : ∀ w ∈ o.words, SwapWord (lockGranted s s.arg.a) w := fun w hw =>
    (swapWord_of_unpoisoned (hwords w hw).1 (hwords w hw).2.1 (hwords w hw).2.2).congr (s := s) (u := lockGranted s s.arg.a) rfl
  have hcompare := compareMcas_plain hlock hobs (fun w hw => (hwords w hw).1) hplain
  have hmask : mismatchMask (lockGranted s s.arg.a) o.words = (bad.map fun w => 2 ^ w.idx).sum := rfl
  have hzero : mismatchMask (lockGranted s s.arg.a) o.words = 0 ↔ bad = [] := mismatchMask_eq_zero ..
  have hexec : exec .mcasLockGrant s = .next (compareMcas (lockGranted s s.arg.a) s.arg.a) := by
    rw [exec_mcasLockGrant h hready, locked, hwant]
    rfl
  have hgone : ∀ f, tblDel (tblUpd s.mcas s.arg.a f) s.arg.a = tblDel (lockGranted s s.arg.a).mcas s.arg.a := fun f =>
    (tblDel_tblUpd ..).trans (tblDel_tblUpd ..).symm
  refine ⟨_, hexec, ?_⟩
  change compareMcas (lockGranted s s.arg.a) s.arg.a = dropBelow (endMcas (if mismatchMask _ o.words = 0 then swapWords _ o.words else _) _
    (some (mcasResult (if mismatchMask _ o.words = 0 then 0 else 1) (mismatchMask _ o.words)))) o.pcore 5 at hcompare
  rw [hcompare, hgone]
  by_cases hbad : bad = []
  · rw [if_pos (hzero.2 hbad), if_pos (hzero.2 hbad), hzero.2 hbad, if_pos hbad]
    have hframe := systemFrame_swapWords (lockGranted s s.arg.a) o.words
    have hend := mcasEnded_compare (mcasResult 0 0) h hr hframe
    refine ⟨hend.mcas.trans (by rw [hframe.read State.mcas fun _ => rfl]), fun _ => ⟨fun w hw k hk => ?_, fun b hb => ?_⟩, fun hne => absurd hbad hne, fun e he => ?_⟩
    · rw [hend.mem]
      exact bmGet_swapWords _ _ hplain hdisjoint w hw k hk
    · rw [hend.mem]
      exact bmGet_swapWords_outside _ _ hplain b hb
    · exact hend.result e ((congrArg (tblGet? · o.ret) (hframe.read State.loads fun _ => rfl)).trans he)
  · rw [if_neg fun hz => hbad (hzero.1 hz), if_neg fun hz => hbad (hzero.1 hz), if_neg hbad, hmask]
    have hend := mcasEnded_compare (mcasResult 1 (bad.map fun w => 2 ^ w.idx).sum) h hr (.refl _)
    refine ⟨hend.mcas, fun h0 => absurd h0 hbad, fun _ => hend.mem, fun e he => ?_⟩
    obtain ⟨e', he', hw⟩ := hend.result e he
    exact ⟨e', he', hw.trans (by rw [mcasResult, Nat.one_mul]; rfl)⟩

end Sys2Proof.Machine

section
open Sys2Proof Sys2Proof.Machine

/-- Settles O30: a compare-and-swap from its issue over the grants of its locks to the compare, or to the end of its window. -/
theorem multiWordCompareAndSwap : Obligations.MultiWordCompareAndSwap := ⟨mcasIssues, mcasCompares, mcasLocks⟩

end

/-! ## Atomics and reductions that leave (O28) -/

namespace Sys2Proof.Machine

/-! ### The instructions (R225, R229) -/

theorem extract4_toNat (b : BitVec 7) : (b.extractLsb' 0 4).toNat = b.toNat % 16 := by simp [BitVec.extractLsb'_toNat]

theorem opcOf_eq (b : BitVec 7) : opcOf b = b.toNat % 16 := extract4_toNat b

/-- R229: a floating-point atomic takes a word, or a pair for the operations on FP64. -/
theorem fatomWidth_eq (b : BitVec 7) : fatomWidth b = if b.toNat % 16 ∈ [2, 5, 6] then 2 else 1 := by
  simp only [fatomWidth, ← BitVec.toNat_inj, extract4_toNat, List.mem_cons, List.not_mem_nil, or_false]
  rfl

theorem fatomWidth_of_word {b : BitVec 7} (h : b.toNat % 16 ∈ [0, 1, 3, 4]) : fatomWidth b = 1 := by
  rw [fatomWidth_eq, if_neg]
  simp only [List.mem_cons, List.not_mem_nil, or_false] at h ⊢
  omega

theorem fatomWidth_of_pair {b : BitVec 7} (h : b.toNat % 16 ∈ [2, 5, 6]) : fatomWidth b = 2 := by rw [fatomWidth_eq, if_pos h]

theorem exec_returning {i : Instr} {fm : AtomForm} {d : BitVec 7} (h : Claims.Returning i fm d) (s : State) :
    ∃ b, exec i s = atomOp i fm d b s := by
  cases h with
  | atomB32 p d a b => exact ⟨b, by rw [← opcOf_eq]; rfl⟩
  | atomB64 p d a b => exact ⟨b, by rw [← opcOf_eq]; rfl⟩
  | casB32 p d a sc => exact ⟨casB sc, rfl⟩
  | casB64 p d a sc => exact ⟨casB sc, rfl⟩
  | fatomWord p d a b hb =>
    refine ⟨b, ?_⟩
    show execFatom p d a b s = _
    rw [execFatom, opcOf_eq, fatomWidth_of_word hb]
  | fatomPair p d a b hb =>
    refine ⟨b, ?_⟩
    show execFatom p d a b s = _
    rw [execFatom, opcOf_eq, fatomWidth_of_pair hb]

theorem exec_reduction {i : Instr} {fm : AtomForm} (h : Claims.Reduction i fm) (s : State) : ∃ b, exec i s = reductionOp i fm b s := by
  cases h with
  | redB32 p d a b => exact ⟨b, by rw [← opcOf_eq]; rfl⟩
  | redB64 p d a b => exact ⟨b, by rw [← opcOf_eq]; rfl⟩
  | fatomNrWord p d a b hb =>
    refine ⟨b, ?_⟩
    show execFatomNr p d a b s = _
    rw [execFatomNr, opcOf_eq, fatomWidth_of_word hb]
  | fatomNrPair p d a b hb =>
    refine ⟨b, ?_⟩
    show execFatomNr p d a b s = _
    rw [execFatomNr, opcOf_eq, fatomWidth_of_pair hb]

theorem exec_returning_plain {i : Instr} {fm : AtomForm} {d : BitVec 7} (h : Claims.Returning i fm d) (s : State) (g : Group)
    (hr : Claims.Ready s g i)
    (hw : Claims.EachActor s g i fun m x => acqHeld s m = false ∧ serialWait s m (Claims.atomVa x) = none)
    (hf : Claims.EachChecked s g i fun m x => atomFail fm s m (Claims.atomVa x) (atomBefore i fm s m) = none) :
    exec i s = .next (retire (issueReturning (noted s g i) g (Claims.acts s g i) d ((fm.n + 3) / 4)
      (issueAtom fm d (noted s g i).nextId))) := by
  obtain ⟨b, hexec⟩ := exec_returning h s
  rw [hexec]
  refine groupOpE_plain i .both _ _ _ _ s g hr.cur hr.plain hr.ops (fun m hm => ?_) hf rfl
  obtain ⟨hfree, hserial⟩ := hw m hm
  rw [laterWait_eq_none hfree]
  exact hserial

theorem exec_reduction_plain {i : Instr} {fm : AtomForm} (h : Claims.Reduction i fm) (s : State) (g : Group) (hr : Claims.Ready s g i)
    (hw : Claims.EachActor s g i fun m _ => acqHeld s m = false)
    (hf : Claims.EachChecked s g i fun m x => atomFail fm s m (Claims.atomVa x) (atomBefore i fm s m) = none) :
    exec i s = .next (retire ((Claims.acts s g i).foldl (fun v e => issueRed fm (noted s g i).nextId v e.1 e.2) (noted s g i))) := by
  obtain ⟨b, hexec⟩ := exec_reduction h s
  exact hexec.trans (groupOpE_plain i .cmp _ _ _ _ s g hr.cur hr.plain hr.ops (fun m hm => laterWait_eq_none (hw m hm)) hf rfl)

/-! ### An operation that leaves its core (R225, R231) -/

theorem atomOperand_eq (fm : AtomForm) (x : Src) : atomOperand fm x = (Claims.atomA fm x, Claims.atomB fm x) := by
  unfold atomOperand Claims.atomA Claims.atomB
  split <;> split <;> rfl

/-- The operation of a member that returns its old value to a pending return and a register. -/
def atomBack (fm : AtomForm) (ins : Nat) (s : State) (m : Member) (x : Src) (id reg : Nat) : Atom :=
  { atomOf fm s m x ins with ret := some id, reg := reg }

/-- The word, the operands and the identifier are the member's. -/
theorem atomLeft_atomOf (fm : AtomForm) (ins : Nat) (s : State) (m : Member) (x : Src) : Claims.AtomLeft fm ins s m x (atomOf fm s m x ins) :=
  ⟨⟨rfl, rfl, rfl, rfl, rfl⟩, ⟨rfl, rfl, rfl, rfl⟩,
    ⟨rfl, rfl, congrArg Prod.fst (atomOperand_eq fm x), congrArg Prod.snd (atomOperand_eq fm x)⟩⟩

theorem atomLeft_atomBack (fm : AtomForm) (ins : Nat) (s : State) (m : Member) (x : Src) (id reg : Nat) :
    Claims.AtomLeft fm ins s m x (atomBack fm ins s m x id reg) := by
  obtain ⟨hplace, hword, hop⟩ := atomLeft_atomOf fm ins s m x
  exact ⟨hplace, hword, hop⟩

/-- An operation put on its way once its translation is noted. -/
def atomSent (s : State) (m : Member) (va : Nat) (a : Atom) : State := pushAtom (accessTrace s m va .store 0) a

theorem atoms_atomSent (s : State) (m : Member) (va : Nat) (a : Atom) : (atomSent s m va a).atoms = s.atoms ++ [(s.nextId, a)] := by
  have htrace := traceFrame_accessTrace s m va .store 0
  rw [← htrace.read State.atoms fun _ => rfl, ← htrace.read State.nextId fun _ => rfl]
  rfl

theorem loads_atomSent (s : State) (m : Member) (va : Nat) (a : Atom) : (atomSent s m va a).loads = s.loads :=
  (storeFrame_accessTrace s m va 0).loads

theorem sameRegisters_atomSent (s : State) (m : Member) (va : Nat) (a : Atom) : SameRegisters s (atomSent s m va a) :=
  sameRegisters_trans (storeFrame_accessTrace s m va 0).sameRegisters (sameRegisters_of_warps rfl)

theorem bytesKept_atomSent (s : State) (m : Member) (va : Nat) (a : Atom) : BytesKept s (atomSent s m va a) fun _ => True :=
  (storeFrame_accessTrace s m va 0).bytesKept ((traceFrame_accessTrace s m va .store 0).read State.writes fun _ => rfl)

section
variable {fm : AtomForm} {ins : Nat} {v : State} {m : Member} {x : Src} (hh : (thrOf v m).helper = false)
  (hr : isRedun v m.warp = false) (hd : detShared v m.warp (Claims.atomVa x) = false)
include hh hr hd

/-- A returning atomic on plain memory leaves, and the return waits for it. -/
theorem issueAtom_plain (d : BitVec 7) (ms : List Member) (id : Nat) :
    issueAtom fm d ins ms id v m x = updLoad (atomSent v m (Claims.atomVa x) (atomBack fm ins v m x id (retReg v ms m d)))
      id fun l => { l with waits := l.waits ++ [v.nextId] } := by
  have hd' : detShared v m.warp (lo64 x.a).toNat = false := hd
  simp only [issueAtom, hh, takesForward, hr, hd', Bool.false_and, Bool.false_eq_true, if_false]
  rfl

/-- A reduction on plain memory that meets no page fault leaves. -/
theorem issueRed_plain (hf : globalFail v m (Claims.atomVa x) fm.n .store = none) :
    issueRed fm ins v m x = atomSent v m (Claims.atomVa x) (atomOf fm v m x ins) := by
  have hd' : detShared v m.warp (lo64 x.a).toNat = false := hd
  have hf' : globalFail v m (lo64 x.a).toNat fm.n .store = none := hf
  simp only [issueRed, hh, takesForward, hr, hd', hf', Bool.false_and, Bool.or_self, Option.isSome_none, Bool.false_eq_true, if_false]
  rfl

end

theorem atomicsIssue : Claims.AtomicsIssue := by
  intro i fm d h s g hr hw hf
  refine ⟨exec_returning_plain h s g hr hw hf, fun ins ms id v m x hh hplain hd => ?_⟩
  rw [issueAtom_plain hh hplain hd]
  exact ⟨⟨_, atomLeft_atomBack fm ins v m x id (retReg v ms m d), rfl, atoms_atomSent ..⟩, by rw [updLoad_loads, loads_atomSent],
    sameRegisters_trans (sameRegisters_atomSent v m (Claims.atomVa x) (atomBack fm ins v m x id (retReg v ms m d)))
      (sameRegisters_of_warps rfl),
    bytesKept_atomSent v m (Claims.atomVa x) (atomBack fm ins v m x id (retReg v ms m d))⟩

theorem reductionsIssue : Claims.ReductionsIssue := by
  intro i fm h s g hr hw hf
  refine ⟨exec_reduction_plain h s g hr hw hf, fun ins v m x hh hplain hd hfail => ?_⟩
  rw [issueRed_plain hh hplain hd hfail]
  exact ⟨⟨_, atomLeft_atomOf fm ins v m x, rfl, rfl, atoms_atomSent ..⟩, loads_atomSent .., sameRegisters_atomSent ..,
    bytesKept_atomSent _ _ _ _⟩

end Sys2Proof.Machine

section
open Sys2Proof Sys2Proof.Machine

/-- Settles O28: the two issues, and the operation of one actor as it leaves its core. -/
theorem atomicsAndReductionsIssue : Obligations.AtomicsAndReductionsIssue := ⟨atomicsIssue, reductionsIssue⟩

end

/-! ## Waits at a counter and the copies of a die (O37)

R239 has a `TWAIT` that has reached its number acquire at system scope, which drops the copies of the member's die. As with an acquire load
and a fence, the model takes one entry of the die out of a table, and the statement takes any state. -/

namespace Sys2Proof.Machine

/-- The wait for a number that its counter has reached: A holds 0. -/
def reachedWait : Instr := .twait 7 0 2

theorem actors_reachedWait : actors twiceListed loneGroup reachedWait = [loneMember] := by decide
theorem ready_reachedWait : Claims.Ready twiceListed loneGroup reachedWait :=
  ⟨rfl, by unfold Unreplicated; decide, by unfold OperandsPass; decide⟩

/-- The wait's acquire drops the first entry of the die (R239); the copy in the second is found in its place. -/
theorem copy_after_wait : (match exec reachedWait twiceListed with
    | .next u => (tblGet? (dieCopies u 0) 0).isSome
    | _ => false) = true := by decide +kernel

theorem not_counterWait : ¬ Claims.CounterWait := by
  intro h
  obtain ⟨u, hexec, -, -, hwaits⟩ := h 7 0 2 twiceListed loneGroup ready_reachedWait
  have hactor : loneMember ∈ actors twiceListed loneGroup reachedWait := by rw [actors_reachedWait]; exact List.mem_singleton_self _
  obtain ⟨-, hdrop, -⟩ := hwaits loneMember hactor (by decide)
  obtain ⟨-, hdie⟩ := hdrop (by decide) (by decide)
  have hcopy := copy_after_wait
  rw [show exec reachedWait twiceListed = .next (retire u) from hexec] at hcopy
  have hheld : (tblGet? (dieCopies u 0) 0).isSome = true := (noNewCopies_retire u).held 0 0 hcopy
  have hnone : dieCopies u 0 = [] := hdie (by decide)
  rw [hnone] at hheld
  exact absurd hheld (by decide)

end Sys2Proof.Machine

section
open Sys2Proof Sys2Proof.Machine

/-- Refutes O37: where the table of the dies' copies lists a die twice, a `TWAIT` whose counter has reached its number drops the first entry
alone, and the die holds afterwards the copies of the second one. -/
theorem not_waitsAndFullEmpty : ¬ Obligations.WaitsAndFullEmpty := fun h => not_counterWait h.2.1

end

/-! ## Engine commands that enter their engines (O42) -/

namespace Sys2Proof.Machine

/-! ### Bytes of a number -/

theorem drop_leBytes (k n v : Nat) : (leBytes (k + n) v).drop k = leBytes n (v / 256 ^ k) := by
  induction k generalizing v with
  | zero => rw [Nat.zero_add, List.drop_zero, Nat.pow_zero, Nat.div_one]
  | succ k ih => rw [Nat.add_right_comm, leBytes, List.drop_succ_cons, ih, Nat.div_div_eq_div_mul, Nat.pow_succ']

theorem take_leBytes (k n v : Nat) : (leBytes (k + n) v).take k = leBytes k v := by
  induction k generalizing v with
  | zero => rfl
  | succ k ih => rw [Nat.add_right_comm, leBytes, List.take_succ_cons, ih, leBytes]

theorem leNat_leBytes (n v : Nat) : leNat (leBytes n v) = v % 256 ^ n := by
  induction n generalizing v with
  | zero => rw [Nat.pow_zero, Nat.mod_one]; rfl
  | succ n ih =>
    rw [Nat.pow_succ', Nat.mod_mul, leBytes, leNat, ih, BitVec.toNat_ofNat]

/-- A field of a block that holds a number. -/
theorem bNat_leBytes (off n r v : Nat) : bNat (leBytes (off + (n + r)) v) off n = v / 256 ^ off % 256 ^ n := by
  rw [bNat, drop_leBytes, take_leBytes, leNat_leBytes]

/-! ### The traces of an instruction that executes once (R18) -/

theorem traceFrame_notedOnce (s : State) (g : Group) (i : Instr) (m : Member) : TraceFrame s (notedOnce s g i m) := by
  rw [notedOnce, redunMark_own]
  exact (traceFrame_constTraces ..).trans (.foldl _ _ _ fun s w => traceFrame_updWarp _ _ _ fun _ => rfl)

theorem auditFrame_notedOnce (s : State) (g : Group) (i : Instr) (m : Member) : AuditFrame s (notedOnce s g i m) := by
  rw [notedOnce, redunMark_own]
  exact (auditFrame_constTraces ..).trans (sameFrame_clearRun ..).1.auditFrame

theorem TraceFrame.timelineOf {s u : State} (h : TraceFrame s u) (c k : Nat) : timelineOf u c k = timelineOf s c k :=
  h.read (Machine.timelineOf · c k) fun v => by
    rw [Machine.timelineOf, ctxOf, show (traceless v).ctxs = tblMap v.ctxs fun _ c => bareCtx c from rfl, tblGet_tblMap _ _ _ rfl]
    rfl

theorem TraceFrame.ctx {s u : State} (h : TraceFrame s u) (w : Nat) : (warpOf u w).ctx = (warpOf s w).ctx :=
  h.read (fun v => (warpOf v w).ctx) fun v => by rw [warpOf_traceless]; rfl

theorem TraceFrame.live {s u : State} (h : TraceFrame s u) (c : Nat) : (tblGet? u.ctxs c).isSome = (tblGet? s.ctxs c).isSome :=
  h.read (fun v => (tblGet? v.ctxs c).isSome) fun v => by
    rw [show (traceless v).ctxs = tblMap v.ctxs fun _ c => bareCtx c from rfl, tblGet?_tblMap, Option.isSome_map]

/-- A destination written in a state whose warps differ from another's in traces alone. -/
theorem TraceFrame.received {s t t' : State} (h : TraceFrame s t) (hw : t'.warps = t.warps) (i : Instr) {ms : List Member}
    (hms : ∀ m ∈ ms, m.lane < 64) (v : Member → Val) : Claims.Received s i ms v (writeD t' (shapeOf i).d (ms.map fun m => (m, v m))) := by
  refine received_writeD v hms (fun w l r => (vreg_congr hw w l r).trans ?_) (fun w n => (ureg_congr hw w n).trans (h.sameRegisters.uregs w n))
    (fun m => (thrOf_congr hw m).trans (h.thrOf m)) fun w l => (present_congr hw w l).trans (h.present w l)
  exact h.read (vreg · w l r) fun v => by rw [vreg, vreg, warpOf_traceless]; rfl

/-- What its members received stays where every register does. -/
theorem Received.kept {s u u' : State} {i : Instr} {ms : List Member} {v : Member → Val} (h : Claims.Received s i ms v u)
    (hms : ∀ m ∈ ms, m.lane < 64) (hk : SameRegisters u u') : Claims.Received s i ms v u' where
  window m hm hp hd k hlt := (hk.vregs _ _ _ (hms m hm)).trans (h.window m hm hp hd k hlt)
  uniform w m hl hp h1 h2 k hlt := (hk.uregs _ _).trans (h.uniform w m hl hp h1 h2 k hlt)
  otherVreg w l r hl hn := (hk.vregs w l r hl).trans (h.otherVreg w l r hl hn)
  otherUreg w n hn := (hk.uregs w n).trans (h.otherUreg w n hn)
  threads m := by rw [hk.threads]; exact h.threads m

/-! ### A command that enters its engine (R237, R240) -/

theorem timelineOf_takeNumber_other (s : State) {c k x j : Nat} (h : ¬ (x = c ∧ j = k)) :
    timelineOf (takeNumber s c k) x j = timelineOf s x j := by
  rw [timelineOf, timelineOf, ctxOf, ctxOf, takeNumber, updTimeline, updCtx, tblGet_tblUpd]
  split
  next hx =>
    obtain ⟨rfl, -⟩ := hx
    rw [tblGet, tblGet?_tblSet, if_neg fun hj => h ⟨rfl, hj.symm⟩]
    rfl
  next => rfl

theorem signalFrame_pushOp (s : State) (o : EngOp) : SignalFrame s (pushOp s o) := by
  have htake := signalFrame_updTimeline s o.ctx o.ctr fun t => { t with mark := t.mark + 1 }
  exact ⟨htake.audit, htake.live, rfl⟩

/-- What a command that has entered its engine leaves: the operation behind the others, its counter's new mark, and its number in the
destination of the actors. -/
structure Entered (s : State) (i : Instr) (ms : List Member) (o : EngOp) (u : State) : Prop where
  ops : u.ops = s.ops ++ [(s.nextId, o)]
  number : Claims.Numbered s u o.ctx o.ctr
  dest : Claims.Received s i ms (fun _ => BitVec.ofNat 128 o.num) u
  audit : AuditFrame s u
  redun : ∀ w, isRedun u w = isRedun s w

/-- A command enters its engine in a state that differs in traces from the one in which it was issued. -/
theorem entered_spreadD {s t : State} (h : TraceFrame s t) (ha : AuditFrame s t) (i : Instr) {ms : List Member} (hms : ∀ m ∈ ms, m.lane < 64)
    (o : EngOp) (hlive : (tblGet? s.ctxs o.ctx).isSome = true) : Entered s i ms o (spreadD (pushOp t o) i ms (BitVec.ofNat 128 o.num)) := by
  have hpush := signalFrame_pushOp t o
  have hwrite : SameFrame (pushOp t o) (spreadD (pushOp t o) i ms (BitVec.ofNat 128 o.num)) := sameFrame_writeD ..
  have htl : ∀ c k, timelineOf (spreadD (pushOp t o) i ms (BitVec.ofNat 128 o.num)) c k = timelineOf (takeNumber t o.ctx o.ctr) c k :=
    fun c k => hwrite.read (timelineOf · c k) fun _ _ => rfl
  refine ⟨?_, ⟨?_, fun c j hne => ?_⟩, h.received hpush.warps i hms _, ha.trans (hpush.auditFrame.trans hwrite.auditFrame), fun w => ?_⟩
  · rw [hwrite.read State.ops fun _ _ => rfl, pushOp, h.read State.ops fun _ => rfl, h.read State.nextId fun _ => rfl]
  · rw [htl, timelineOf_takeNumber _ _ _ ((h.live _).trans hlive), h.timelineOf]
  · rw [htl, timelineOf_takeNumber_other _ hne, h.timelineOf]
  · exact (isRedun_writeD ..).trans ((hpush.isRedun w).trans (h.isRedun w))

theorem loads_spreadD {s t : State} (h : TraceFrame s t) (i : Instr) (ms : List Member) (o : EngOp) (v : Val) :
    (spreadD (pushOp t o) i ms v).loads = s.loads := by
  rw [spreadD, (sameFrame_writeD ..).read State.loads fun _ _ => rfl]
  exact h.read State.loads fun _ => rfl

/-- Operations that become pending on the warps leave what has entered. -/
theorem Entered.issued {s u u' : State} {i : Instr} {ms : List Member} {o : EngOp} (h : Entered s i ms o u) (hms : ∀ m ∈ ms, m.lane < 64)
    (hi : IssueFrame u u') : Entered s i ms o u' := by
  have htl : ∀ c k, timelineOf u' c k = timelineOf u c k := fun c k => hi.read (timelineOf · c k) fun _ _ _ _ => rfl
  obtain ⟨hmark, hother⟩ := h.number
  exact ⟨(hi.read State.ops fun _ _ _ _ => rfl).trans h.ops, ⟨by rw [htl, hmark], fun c j hne => by rw [htl, hother c j hne]⟩,
    Received.kept h.dest hms hi.registers, h.audit.trans hi.auditFrame, fun w => (hi.isRedun w).trans (h.redun w)⟩

/-! ### Commands with a block (R240) -/

theorem exec_command {i : Instr} {cmd : Nat} (h : Claims.Command i cmd) (s : State) : exec i s = cmdOp i cmd s := by
  cases h <;> rfl

/-- The state with a command's block read, and the operation that enters. -/
def blockNoted (s : State) (m : Member) (x : Src) : State := keepLoad s (accessTrace s m (lo64 x.a).toNat .load 4) m (lo64 x.a).toNat 64
def blockOp (cmd : Nat) (s : State) (m : Member) (x : Src) : EngOp := cmdOpOf cmd (blockNoted s m x) m (lo64 x.a).toNat (cmdBlock s m x)

theorem traceFrame_blockNoted (s : State) (m : Member) (x : Src) : TraceFrame s (blockNoted s m x) :=
  (traceFrame_accessTrace ..).trans (traceFrame_keepLoad ..)
theorem auditFrame_blockNoted (s : State) (m : Member) (x : Src) : AuditFrame s (blockNoted s m x) :=
  (auditFrame_accessTrace ..).trans (auditFrame_keepLoad ..)

theorem takesForward_plain {s : State} {m : Member} (h : isRedun s m.warp = false) : takesForward s m = false := by simp [takesForward, h]

theorem length_returnsOf (s : State) (g : Group) (ms : List Member) (mk : Nat → PLoad) :
    (Claims.returnsOf s g ms mk).length = (warpsIn ms).length := by
  rw [Claims.returnsOf, List.length_map, List.length_zipIdx]

theorem length_loads_holdFlags (s : State) (g : Group) (ms : List Member) (id : Nat) :
    (holdFlags s g ms id).loads.length = s.loads.length + (warpsIn ms).length := by
  rw [holdFlags, (longIssued_issueLong (.refl s) g ms _).loads, List.length_append, length_returnsOf]

theorem issueFrame_holdFlags (s : State) (g : Group) (ms : List Member) (id : Nat) : IssueFrame s (holdFlags s g ms id) :=
  issueFrame_issueLong ..

/-- A command of an unreplicated warp enters its engine, and every represented warp waits for it. -/
theorem entered_runCmd {s t : State} (h : TraceFrame s t) (ha : AuditFrame s t) (i : Instr) (cmd : Nat) (g : Group) {ms : List Member}
    (hms : ∀ n ∈ ms, n.lane < 64) (m : Member) (x : Src) (hr : isRedun s m.warp = false)
    (hlive : (tblGet? s.ctxs (warpOf s m.warp).ctx).isSome = true) :
    Entered s i ms (blockOp cmd t m x) (runCmd i cmd t g ms m x) ∧
      (runCmd i cmd t g ms m x).loads.length = s.loads.length + (warpsIn ms).length := by
  have htrace := h.trans (traceFrame_blockNoted t m x)
  have hctx : (blockOp cmd t m x).ctx = (warpOf s m.warp).ctx := htrace.ctx m.warp
  have hent := entered_spreadD htrace (ha.trans (auditFrame_blockNoted t m x)) i hms (blockOp cmd t m x) (by rw [hctx]; exact hlive)
  have hheld := hent.issued hms (issueFrame_holdFlags _ g ms (blockNoted t m x).nextId)
  have hrun : runCmd i cmd t g ms m x = holdFlags (spreadD (pushOp (blockNoted t m x) (blockOp cmd t m x)) i ms
      (BitVec.ofNat 128 (blockOp cmd t m x).num)) g ms (blockNoted t m x).nextId := by
    simp only [runCmd, takesForward_plain ((h.isRedun m.warp).trans hr), Bool.false_eq_true, if_false]
    exact forward_plain _ ((hheld.redun m.warp).trans hr)
  rw [hrun]
  exact ⟨hheld, by rw [length_loads_holdFlags, loads_spreadD htrace]⟩

theorem engineCommands : Claims.EngineCommands := by
  intro i cmd h s g m hr hw hf hlive b k n
  have hnoted := traceFrame_notedOnce s g i m
  obtain ⟨hent, hloads⟩ := entered_runCmd hnoted (auditFrame_notedOnce s g i m) i cmd g (actors_lane s g i) m (sources s g i m) hr.plain hlive
  have htrace := hnoted.trans (traceFrame_blockNoted (notedOnce s g i m) m (sources s g i m))
  have hctx : (blockOp cmd (notedOnce s g i m) m (sources s g i m)).ctx = (warpOf s m.warp).ctx := htrace.ctx m.warp
  have hnum : (blockOp cmd (notedOnce s g i m) m (sources s g i m)).num = n := by
    change nextNumber _ (warpOf _ m.warp).ctx k = _
    rw [nextNumber, htrace.timelineOf, htrace.ctx]
  obtain ⟨hops, hnumber, hdest, haudit, -⟩ := hent
  rw [hctx] at hnumber
  rw [hnum] at hdest
  refine ⟨_, blockOp cmd (notedOnce s g i m) m (sources s g i m), ?_, hops, rfl, hnum, rfl, rfl, rfl, rfl, rfl, rfl, rfl, hnumber, hdest,
    hloads, haudit.memoryKept⟩
  exact (exec_command h s).trans (onceOp_plain i .both _ _ (cmdFail cmd) (fun s g act m x => (runCmd i cmd s g act m x, [])) s g m hr.cur
    hr.lead hr.plain hr.ops hr.dest hw hf rfl)

/-! ### `TUNBIND` (R250) -/

/-- The operation that unbinds a record. -/
def unbindOp (s : State) (m : Member) (v : Nat) : EngOp :=
  { cmdOpOf 5 s m 0 [] with
    num := nextNumber s (warpOf s m.warp).ctx (v / 4096 % 16), ctr := v / 4096 % 16, cscope := v / 65536 % 8
    block := leBytes 64 (v % 4096 * 2 ^ 64) }

/-- Its block holds the number of the record. -/
theorem record_unbindOp (s : State) (m : Member) (v : Nat) : bNat (unbindOp s m v).block 8 2 = v % 4096 := by
  have hfield := bNat_leBytes 8 2 54 (v % 4096 * 2 ^ 64)
  refine hfield.trans ?_
  omega

/-- The record set may change, the scope is of package or wider, and the counter has a number left. -/
theorem tunbindFail_none {s : State} {m : Member} {x : Src} (hs : (khdrOfWarp s m.warp).isSealed = false)
    (hv : (lo32 x.a).toNat / 65536 ∈ [4, 5, 6])
    (hn : counterHas s (warpOf s m.warp).ctx ((lo32 x.a).toNat / 4096 % 16) 1 = true) : tunbindFail s m x = none := by
  have hscope : ¬ ((lo32 x.a).toNat / 2 ^ 19 ≠ 0 ∨ (lo32 x.a).toNat / 65536 % 8 < 4 ∨ 6 < (lo32 x.a).toNat / 65536 % 8) := by
    simp only [List.mem_cons, List.not_mem_nil, or_false] at hv
    omega
  simp only [tunbindFail, hs, hn, if_neg hscope, Bool.or_true, Bool.false_eq_true, if_false, if_true]

theorem unbindCommand : Claims.UnbindCommand := by
  intro p d a s g m i hr hsealed hlive v n hscope hlt
  have hnoted := traceFrame_notedOnce s g i m
  set t := notedOnce s g i m with ht
  have hctx : (unbindOp t m v).ctx = (warpOf s m.warp).ctx := hnoted.ctx m.warp
  have hnum : (unbindOp t m v).num = n := by
    change nextNumber t (warpOf t m.warp).ctx _ = _
    rw [nextNumber, hnoted.timelineOf, hnoted.ctx]
  have hent := entered_spreadD hnoted (auditFrame_notedOnce s g i m) i (actors_lane s g i) (unbindOp t m v) (by rw [hctx]; exact hlive)
  have hplain : isRedun t m.warp = false := (hnoted.isRedun m.warp).trans hr.plain
  have hfail : tunbindFail s m (sources s g i m) = none := tunbindFail_none hsealed hscope (decide_eq_true hlt)
  have hexec : exec i s = .next (retire (spreadD (pushOp t (unbindOp t m v)) i (actors s g i) (BitVec.ofNat 128 (unbindOp t m v).num))) := by
    show execTunbind p d a s = _
    rw [execTunbind, onceOp_plain i .both _ _ _ _ s g m hr.cur hr.lead hr.plain hr.ops hr.dest (laterWait_eq_none hr.free) hfail]
    · simp only [← ht, takesForward_plain hplain, Bool.false_eq_true, if_false]
      exact congrArg (fun u => Host.Outcome.next (retire u)) (forward_plain _ ((hent.redun m.warp).trans hr.plain))
    · simp only [← ht, takesForward_plain hplain, Bool.false_eq_true, if_false]
  obtain ⟨hops, hnumber, hdest, haudit, -⟩ := hent
  rw [hctx] at hnumber
  have hcscope : v / 65536 % 8 = v / 65536 := by
    simp only [List.mem_cons, List.not_mem_nil, or_false] at hscope
    omega
  exact ⟨_, unbindOp t m v, hexec, hops, rfl, hnum, rfl, hcscope, record_unbindOp t m v, hnumber, by rw [← hnum]; exact hdest,
    loads_spreadD hnoted .., haudit.memoryKept⟩

end Sys2Proof.Machine

section
open Sys2Proof Sys2Proof.Machine

/-- Settles O42: the commands with a block, and the one without. -/
theorem engineCommandsIssue : Obligations.EngineCommandsIssue := ⟨engineCommands, unbindCommand⟩

end

/-! ## Units of the engines (O43) -/

namespace Sys2Proof.Machine

/-- Nothing stands in the way of a unit (R242, R243, R245): the transition is the delivery, with the unit's translations noted before it
and pages ahead translated after it. -/
theorem engUnit_of_passes {s : State} {id : Nat} {o : EngOp} {reads writes : List Nat} (ho : tblGet? s.ops id = some o)
    (hp : Claims.UnitPasses s o reads writes) (ahead : List Nat × List Nat) (go : State → State) :
    engUnit s id reads writes ahead go = Claims.walkedAhead o ahead (go (Claims.unitNoted s o (reads ++ writes))) := by
  obtain ⟨hload, hstore, hmis, hlog, hfar⟩ := hp
  have hfar' : (reads ++ writes).any (opFar s o) = false := by
    rw [List.any_eq_false]
    intro va hva
    rw [hfar va hva]
    exact Bool.false_ne_true
  have hmis' : (if o.cmd = 3 then none else firstOf [apMis? reads, apMis? writes]) = none := by
    split
    next => rfl
    next hc =>
      obtain ⟨hr, hw⟩ := hmis.resolve_left hc
      rw [hr, hw]
      rfl
  unfold engUnit
  simp only [opOf_of_get ho, hload, hstore, hmis', hfar', hlog, Bool.false_eq_true, if_false]
  rfl

theorem walkedAhead_nil (o : EngOp) (s : State) : Claims.walkedAhead o ([], []) s = s := by
  rw [Claims.walkedAhead, fillAhead_nil, fillAhead_nil]

theorem zip_map_map {α β γ : Type} (f : α → β) (h : α → γ) (l : List α) :
    (l.map f).zip (l.map h) = l.map fun x => (f x, h x) := by
  rw [List.zip_map, List.zip_eq_zipWith, List.zipWith_self, List.map_map]
  rfl

/-! ### `CPY` (R244, R245) -/

/-- The cells of a sector are those of its bytes of the stream. -/
theorem cpyCells_eq (o : EngOp) : cpyCells o o.progress = (Claims.sectorBytes o).map fun k => (Claims.streamSrc o k, Claims.streamDst o k) := by
  rw [Claims.sectorBytes, List.filter_map, List.map_map, ← List.filterMap_eq_map, List.filterMap_filter]
  refine List.filterMap_congr fun j _ => ?_
  simp only [Function.comp_apply, decide_eq_true_eq]
  rfl

theorem sectorDelivered : Claims.SectorDelivered := by
  intro s o ho hcmd hready ks reads writes hp
  have hexec : exec .cpySectorDelivery s = .next (cpySector s s.arg.a) := by
    show execCpySectorDelivery s = _
    simp only [execCpySectorDelivery, ho, hcmd, hready, decide_true, Bool.and_self, if_true]
  have hsrc : (cpyCells o o.progress).map (·.1) = ks.map (Claims.streamSrc o) := by rw [cpyCells_eq, List.map_map]; rfl
  have hdst : (cpyCells o o.progress).map (·.2) = ks.map (Claims.streamDst o) := by rw [cpyCells_eq, List.map_map]; rfl
  rw [hexec]
  unfold cpySector
  simp only [opOf_of_get ho, hsrc, hdst]
  rw [engUnit_of_passes ho hp, List.map_map, zip_map_map]
  rfl

/-! ### `GATH` and `SCAT` (R246) -/

section
variable {s : State} {o : EngOp} (ho : tblGet? s.ops s.arg.a = some o) (hidx : idxBad s o = none)
  (hrow : trBound o.trec = 0 → inExtent o.trec (bInt o.block 0x24 4) (gathY s o) = true ∧
    inExtent o.trec (bInt o.block 0x24 4 + bNat o.block 0x28 4 - 1) (gathY s o) = true)
  (hword : engDenied s o ((bNat o.block 0x08 8 + 4 * o.progress) % 2 ^ 64) = false)
  (hport : opFar s o ((bNat o.block 0x08 8 + 4 * o.progress) % 2 ^ 64) = false)
include ho hidx hrow hword hport

/-- The index word and the row pass, and no tag denies a read: the cells of the one side are copied into those of the other. -/
theorem gathStep_of_passes (scat : Bool) (src dst : List Cell) (hsrc : src = if scat then gathLin o else gathRec s o)
    (hdst : dst = if scat then gathRec s o else gathLin o)
    (hp : Claims.UnitPasses s o (src.flatMap cellAddrs) (dst.flatMap cellAddrs))
    (hread : ∀ va ∈ src.flatMap cellAddrs, engDenied s o va = false) :
    gathStep scat s s.arg.a = Claims.walkedAhead o (gathAhead scat s o)
      (opAdvance (cellsWrite (Claims.unitNoted s o (src.flatMap cellAddrs ++ dst.flatMap cellAddrs)) s.arg.a
        (dst.zip (src.map fun c => cellRead s o c))) s.arg.a (bNat o.block 0x20 4)) := by
  have hin : ¬ (trBound o.trec = 0 ∧ (!(inExtent o.trec (bInt o.block 0x24 4) (gathY s o) &&
      inExtent o.trec (bInt o.block 0x24 4 + bNat o.block 0x28 4 - 1) (gathY s o))) = true) := by
    rintro ⟨hb, hout⟩
    obtain ⟨hl, hr⟩ := hrow hb
    simp [hl, hr] at hout
  have hdenied : (src.flatMap cellAddrs).filter (fun va => engDenied s o va) = [] :=
    List.filter_eq_nil_iff.2 fun va hva => by simp [hread va hva]
  unfold gathStep
  simp only [opOf_of_get ho, hidx, hport, Bool.false_eq_true, if_false, if_neg hin]
  rw [← hsrc, ← hdst, engUnit_of_passes ho hp]
  simp only [hdenied, hword, Bool.false_eq_true, if_false, List.isEmpty_nil, if_true, Bool.not_true, Bool.and_false]

end

theorem indexedElements : Claims.IndexedElements := by
  intro s o ho hready hidx hrow hword hport row lin
  refine ⟨fun hcmd hp hread => ?_, fun hcmd hp hread => ?_⟩
  · have hexec : exec .gathElement s = .next (gathStep false s s.arg.a) := by
      show execGathElement s = _
      simp only [execGathElement, ho, hcmd, hready, decide_true, Bool.and_self, if_true]
    rw [hexec, gathStep_of_passes ho hidx hrow hword hport false row lin rfl rfl hp hread]
  · have hexec : exec .scatElement s = .next (gathStep true s s.arg.a) := by
      show execScatElement s = _
      simp only [execScatElement, ho, hcmd, hready, decide_true, Bool.and_self, if_true]
    rw [hexec, gathStep_of_passes ho hidx hrow hword hport true lin row rfl rfl hp hread]

/-! ### A transition's arguments stay as they are

R248's element is written run by run: each run names its operation by the arguments of the state before it, which no write changes. -/

theorem EndFrame.arg {s u : State} (h : EndFrame s u) : u.arg = s.arg := by
  have e := congrArg State.arg h.same
  exact e

theorem ReadFrame.arg {s u : State} (h : ReadFrame s u) : u.arg = s.arg := by
  have e := congrArg State.arg h.rest
  exact e

theorem arg_putNat (s : State) (a n v : Nat) : (putNat s a n v).arg = s.arg := (systemFrame_putNat s a n v).endFrame.arg

theorem arg_putApWord (s : State) (ctx va : Nat) (v : Word) : (putApWord s ctx va v).arg = s.arg := by
  unfold putApWord
  dsimp only
  split
  · exact arg_putNat ..
  · split
    · split
      · exact foldl_keeps State.arg _ (by exact fun _ _ => rfl) _ _
      · rfl
    · split
      · split
        · exact foldl_keeps State.arg _ (by exact fun _ _ => rfl) _ _
        · exact foldl_keeps State.arg _ (by exact fun _ _ => rfl) _ _
        · rfl
      · split
        · exact foldl_keeps State.arg _ (by exact fun _ _ => rfl) _ _
        · rfl

theorem arg_apClean (s : State) (ctx va n : Nat) : (apClean s ctx va n).arg = s.arg := by
  unfold apClean
  split <;> rfl

theorem arg_engWrite (s : State) (id va : Nat) (data : List Byte) : (engWrite s id va data).arg = s.arg := by
  unfold engWrite
  dsimp only
  split
  · exact (foldl_keeps State.arg _ (fun _ _ => arg_putApWord ..) _ _).trans (arg_apClean ..)
  · split
    · exact (endFrame_putChipBytes ..).arg
    · split
      · exact (endFrame_appendLog ..).arg
      · exact (endFrame_pushWrite ..).arg

theorem arg_unitNoted (s : State) (o : EngOp) (l : List Nat) : (Claims.unitNoted s o l).arg = s.arg := by
  refine foldl_keeps State.arg _ (fun v va => ?_) l s
  unfold engTrace
  split
  · rfl
  · split
    · rfl
    · exact (systemFrame_fills ..).endFrame.arg

theorem arg_collAudit (s : State) (id : Nat) (o : EngOp) (k : Nat) : (collAudit s id o k).arg = s.arg := by
  refine foldl_keeps State.arg _ (fun v va => ?_) _ s
  dsimp only
  split
  · rfl
  · exact (readFrame_appendAudit ..).arg

/-- Runs written for the operation that the arguments name are written for that one operation. -/
theorem foldl_engWrite_arg (l : List (Nat × List Byte)) (s : State) (id : Nat) (h : s.arg.a = id) :
    l.foldl (fun v r => engWrite v v.arg.a r.1 r.2) s = l.foldl (fun v r => engWrite v id r.1 r.2) s := by
  induction l generalizing s with
  | nil => rw [List.foldl_nil, List.foldl_nil]
  | cons r l ih =>
    rw [List.foldl_cons, List.foldl_cons, h]
    exact ih _ (by rw [arg_engWrite, h])

/-! ### Collectives (R247, R248) -/

/-- The same change made to some operations in turn is one of the table alone. -/
theorem foldl_updOp (f : EngOp → EngOp) (l : List (Nat × EngOp)) (s : State) :
    l.foldl (fun v e => updOp v e.1 f) s = { s with ops := l.foldl (fun t e => tblUpd t e.1 f) s.ops } := by
  induction l generalizing s with
  | nil => rfl
  | cons e l ih => rw [List.foldl_cons, List.foldl_cons, ih]; rfl

theorem exec_collInstanceStart {s : State} {o : EngOp} (ho : tblGet? s.ops s.arg.a = some o) (hr : collReady s s.arg.a o = true) :
    exec .collInstanceStart s = .next (collStart s o) := by
  show execCollInstanceStart s = _
  simp only [execCollInstanceStart, ho, hr, if_true]

theorem collectives : Claims.Collectives := by
  constructor
  · intro s o ho hr ms
    refine ⟨fun hmis => ?_, fun hmis hnarrow => ⟨_, exec_collInstanceStart ho hr, ?_⟩⟩
    · rw [exec_collInstanceStart ho hr, collStart, if_pos hmis]
    · have hstart : collStart s o = { s with ops := ms.foldl (fun t e => tblUpd t e.1 fun o => { o with ranks := collRankList ms }) s.ops } := by
        rw [collStart, if_neg (by rw [hmis]; exact Bool.false_ne_true), if_neg (by rw [hnarrow]; exact Bool.false_ne_true)]
        exact foldl_updOp _ ms s
      rw [hstart]
      exact ⟨rfl, rfl⟩
  · intro s o ho hcmd hranks hready hbad n dst v hport hp
    have hexec : exec .collElementWrite s = .next (collStep s s.arg.a) := by
      show execCollElementWrite s = _
      have hne : o.ranks.isEmpty = false := List.isEmpty_eq_false_iff.2 hranks
      simp only [execCollElementWrite, ho, hcmd, hne, hready, decide_true, Bool.not_false, Bool.and_self, if_true]
    have hnear : ((collReads o o.progress).any fun e =>
        (rankAddrs o.block (o.ranks.getD e.1 {}) e.2).any (opFar s (rankOp o (o.ranks.getD e.1 {})))) = false := by
      rw [List.any_eq_false]
      intro e he
      rw [Bool.not_eq_true, List.any_eq_false]
      intro va hva
      rw [hport e he va hva]
      exact Bool.false_ne_true
    rw [hexec]
    unfold collStep
    simp only [opOf_of_get ho, hbad, hnear, Bool.false_eq_true, if_false]
    have hname : (collAudit (Claims.unitNoted s o dst) s.arg.a o o.progress).arg.a = s.arg.a := by rw [arg_collAudit, arg_unitNoted]
    rw [engUnit_of_passes ho hp, walkedAhead_nil, foldl_engWrite_arg _ _ s.arg.a hname]
    rfl

end Sys2Proof.Machine

section
open Sys2Proof Sys2Proof.Machine

/-- Settles O43: what a unit that nothing holds up delivers, for the three kinds of stream. -/
theorem engineElements : Obligations.EngineElements := ⟨sectorDelivered, indexedElements, collectives⟩

end

/-! ## The registers behind a summary's page (O45)

R276 has the device write the summary of a grid at the address that its packet names. In a privileged context that address may lie on a page
of the on-chip map (R26, R27), where the bytes of the summary are registers of a resident warp. A launch that is refused is complete at once,
so its summary is written as the launch issues. -/

namespace Sys2Proof.Machine

/-! ### The end of an instruction, where no core has an entry

A holder that retires frees its banks, and a warp that ends leaves its quarter: each enters its core in the table of cores. So the end of an
instruction after which the table is empty has written no out range, and every register is as it was. -/

/-- Where no core has an entry afterwards, none had one before, and every register is as it was. -/
structure EntryTrace (s u : State) : Prop where
  keep : u.pcores = [] → s.pcores = [] ∧ ∀ w l r, vreg u w l r = vreg s w l r

theorem EntryTrace.trans {s t u : State} (h : EntryTrace s t) (k : EntryTrace t u) : EntryTrace s u := by
  refine ⟨fun he => ?_⟩
  obtain ⟨ht, hv⟩ := k.keep he
  obtain ⟨hs, hw⟩ := h.keep ht
  exact ⟨hs, fun w l r => (hv w l r).trans (hw w l r)⟩

theorem EntryTrace.foldl {β : Type} (f : State → β → State) (h : ∀ s x, EntryTrace s (f s x)) (l : List β) (s : State) :
    EntryTrace s (l.foldl f s) := by
  induction l generalizing s with
  | nil => exact ⟨fun he => ⟨he, fun _ _ _ => rfl⟩⟩
  | cons x t ih => exact (h s x).trans (ih _)

theorem entryTrace_of_warps {s u : State} (hp : u.pcores = s.pcores) (hw : u.warps = s.warps) : EntryTrace s u :=
  ⟨fun he => ⟨hp ▸ he, fun w l r => vreg_congr hw w l r⟩⟩

/-- Some core has an entry in the table of cores. -/
structure HasEntry (s : State) : Prop where
  made : s.pcores ≠ []

theorem HasEntry.congr {s u : State} (h : HasEntry s) (hp : u.pcores = s.pcores) : HasEntry u := ⟨hp ▸ h.made⟩

theorem HasEntry.entryTrace {s u : State} (h : HasEntry u) : EntryTrace s u := ⟨fun he => absurd he h.made⟩

/-- What comes after a core's entry was made stands for what came before it. -/
theorem HasEntry.trace {s t u : State} (ht : HasEntry t) (h : EntryTrace t u) : EntryTrace s u :=
  ⟨fun he => absurd (h.keep he).1 ht.made⟩

theorem entryTrace_updWarp (s : State) (w : Nat) (f : Warp → Warp) (h : ∀ x, (f x).vr = x.vr) : EntryTrace s (updWarp s w f) := by
  refine ⟨fun he => ⟨he, fun v l r => ?_⟩⟩
  rw [vreg, vreg, warpOf_updWarp]
  split
  · rw [h]
  · rfl

theorem tblSet_ne_nil {α : Type} (t : Tbl α) (i : Nat) (v : α) : tblSet t i v ≠ [] := by
  intro h
  have hi : tblGet? (tblSet t i v) i = some v := by rw [tblGet?_tblSet, if_pos rfl]
  rw [h] at hi
  cases hi

theorem entryTrace_testBarriers (s : State) (g : Nat) : EntryTrace s (testBarriers s g) := by
  refine EntryTrace.foldl _ (fun s e => ?_) _ s
  unfold testBarrier
  dsimp only
  split
  · split <;> exact entryTrace_of_warps rfl rfl
  · exact entryTrace_of_warps rfl rfl

theorem entryTrace_freeWarp (s : State) (w : Nat) : EntryTrace s (freeWarp s w) := by
  unfold freeWarp
  split
  · exact HasEntry.entryTrace ⟨tblSet_ne_nil _ _ _⟩
  · exact entryTrace_of_warps rfl rfl

theorem entryTrace_reapWg (s : State) (g : Nat) : EntryTrace s (reapWg s g) := by
  have h := EntryTrace.foldl freeWarp entryTrace_freeWarp (wgOf s g).warps s
  unfold reapWg
  dsimp only
  split
  · exact h.trans (entryTrace_of_warps rfl rfl)
  · exact h

theorem hasEntry_releaseStorage (s : State) (g : Nat) : HasEntry (releaseStorage s g) := ⟨tblSet_ne_nil _ _ _⟩

theorem entryTrace_retireWg (s : State) (g : Nat) : EntryTrace s (retireWg s g) := by
  unfold retireWg
  dsimp only
  split
  · exact entryTrace_of_warps rfl rfl
  · refine HasEntry.trace ?_ (entryTrace_reapWg ..)
    split
    · exact (hasEntry_releaseStorage ..).congr rfl
    · split
      · exact hasEntry_releaseStorage ..
      · exact (hasEntry_releaseStorage ..).congr rfl

theorem entryTrace_endThread (s : State) (m : Member) : EntryTrace s (endThread s m) :=
  (entryTrace_updWarp s m.warp (fun w => dropHelpers { w with lanes := tblDel w.lanes m.lane }) fun _ => rfl).trans
    ((entryTrace_testBarriers ..).trans ((entryTrace_retireWg ..).trans (entryTrace_reapWg ..)))

theorem entryTrace_toSuccessor (s : State) (g : Group) (m : Member) : EntryTrace s (toSuccessor s g m) := by
  unfold toSuccessor
  split
  · exact entryTrace_endThread ..
  · exact EntryTrace.trans (t := { s with nextId := s.nextId + 1 }) (entryTrace_of_warps rfl rfl) (entryTrace_updWarp _ _ _ fun _ => rfl)

theorem entryTrace_yieldWarps (s : State) (g : Group) (ws : List Nat) : EntryTrace s (yieldWarps s g ws) := by
  unfold yieldWarps
  split
  · exact EntryTrace.foldl yieldWarp (fun s w => HasEntry.entryTrace ⟨tblSet_ne_nil _ _ _⟩) ws s
  · exact entryTrace_of_warps rfl rfl

theorem entryTrace_endClause (s : State) (g : Group) : EntryTrace s (endClause s g) := by
  have hmembers := EntryTrace.foldl _ (fun s m => entryTrace_toSuccessor s g m) g.mem (dropGroup s)
  unfold endClause
  exact EntryTrace.trans (t := dropGroup s) (entryTrace_of_warps rfl rfl) (hmembers.trans (entryTrace_yieldWarps ..))

theorem entryTrace_retire (s : State) : EntryTrace s (retire s) := by
  unfold retire
  split
  · exact entryTrace_of_warps rfl rfl
  · split
    · exact entryTrace_of_warps rfl rfl
    · split
      · exact entryTrace_of_warps rfl rfl
      · exact entryTrace_endClause ..

/-! ### A refused launch with its summary on the on-chip map -/

/-- Core 0 has a thread of a privileged context. The page of 2 MiB at 0 maps 0, uncached, so that loads leave no copy in the core; the page
of 4 KiB at 0x200000 maps the registers 0 to 15 of the warp in slot 0 of core 0. The packet at 0x2000 names the header at 0x2080 and the
summary address 0x200FC0, and has the reserved bit of TCTL set. It also stands at the head of queue 1, whose descriptor at 0x3000 holds TAIL
1. No core has an entry in the table of cores. -/
def summaryOnChip : State :=
  { pkgs := [(0, { full := true, dies := [0, 1, 2, 3], queues := [(1, { ctx := 1, part := 8192, desc := 0x3000, ring := 0x2000 })] })]
    ctxs := [(1, { priv := true })]
    parts := [(8192, { ncores := 1, tlb := [{ size := 0x200000, rd := true, uncached := true },
      { vbase := 0x200000, pbase := 0x7000000000000, size := 0x1000, rd := true, wr := true }] })]
    lcores := [(16777216, { pcore := some 0 })]
    groups := [(0, { wg := 3, mem := [⟨0, 4⟩] })]
    wgs := [(3, { ctx := 1, lcore := 16777216, threads := 1, warps := [4] })]
    warps := [(4, { ctx := 1, wg := 3, vr := [(64, 0x2000)], lanes := [(0, {})] })]
    mem := [(0x2000, 0x80), (0x2001, 0x20), (0x201D, 0x80), (0x2058, 0xC0), (0x2059, 0x0F), (0x205A, 0x20), (0x3040, 1)]
    arg := { b := 1 }
    nextId := 10 }

/-- The launch of that packet by the thread, whose number and STATUS go to registers 4 to 7 of its lane, and the packet as it is read. -/
def refusedLaunch : Instr := .launch 7 4 1
def refusedPacket : Packet :=
  { addr := 0x2000, b := bmList summaryOnChip.mem 0x2000 128, h := List.replicate 64 0 }

theorem readyOnce_refusedLaunch : Claims.ReadyOnce summaryOnChip loneGroup refusedLaunch loneMember :=
  ⟨rfl, by decide, by decide, by decide, by decide, by decide⟩

theorem read_refusedPacket : readPacket (memberReader (notedOnce summaryOnChip loneGroup refusedLaunch loneMember) loneMember)
    (lo64 (sources summaryOnChip loneGroup refusedLaunch loneMember).a).toNat = .ok refusedPacket := by decide +kernel

/-- Check 4 of R301 refuses the packet. -/
theorem cause_refusedPacket : launchCause (launchTrace (notedOnce summaryOnChip loneGroup refusedLaunch loneMember) loneMember refusedPacket)
    (warpOf summaryOnChip 4).ctx refusedPacket false
    (ctxOf (launchTrace (notedOnce summaryOnChip loneGroup refusedLaunch loneMember) loneMember refusedPacket) (warpOf summaryOnChip 4).ctx).priv =
    some .reservedField := by decide +kernel

/-- The launch leaves the table of cores empty, and STATE of the summary, complete and refused, in register 15 of lane 48 (R276). -/
theorem register_after_launch : (match exec refusedLaunch summaryOnChip with
    | .next u => u.pcores.isEmpty && vreg u 4 48 15 == 9
    | _ => false) = true := by decide +kernel

/-- Register 15 is no word of the launch's destination. -/
theorem summary_not_destination : ¬ InWindowDst summaryOnChip refusedLaunch (actors summaryOnChip loneGroup refusedLaunch) 4 48 15 := by
  rintro ⟨m, hm, -, hlane, -⟩
  have hactors : actors summaryOnChip loneGroup refusedLaunch = [loneMember] := by decide
  rw [hactors, List.mem_singleton] at hm
  subst hm
  exact absurd hlane (by decide)

theorem not_launches : ¬ Claims.Launches := by
  intro h
  obtain ⟨-, hrefused⟩ := h refusedLaunch false (.launch 7 4 1) summaryOnChip loneGroup loneMember refusedPacket readyOnce_refusedLaunch
    (by decide +kernel) (by decide +kernel) (by decide) read_refusedPacket
  obtain ⟨u, hexec, -, hdest⟩ := hrefused .reservedField cause_refusedPacket
  have hafter := register_after_launch
  rw [hexec] at hafter
  obtain ⟨hcores, hreg⟩ := (Bool.and_eq_true _ _).mp hafter
  obtain ⟨-, hsame⟩ := (entryTrace_retire u).keep (List.isEmpty_iff.1 hcores)
  have hbefore : vreg u 4 48 15 = 0 := hdest.otherVreg 4 48 15 (by decide) summary_not_destination
  have hnow : vreg (retire u) 4 48 15 = 9 := eq_of_beq hreg
  rw [hsame, hbefore] at hnow
  exact absurd hnow (by decide)

end Sys2Proof.Machine

section
open Sys2Proof Sys2Proof.Machine

/-- Refutes O45: a refused launch of a privileged context whose summary address lies on a page of the on-chip map writes the summary into
registers that are no words of its destination. -/
theorem not_launchesAndCancels : ¬ Obligations.LaunchesAndCancels := fun h => not_launches h.1

end

/-! ## The registers behind the summary of a queue's launch (O46) -/

namespace Sys2Proof.Machine

/-- The queue of that packet, and the state after its wake. -/
def queueOnChip : Queue := { ctx := 1, part := 8192, desc := 0x3000, ring := 0x2000 }
def wokenOnChip : State :=
  launchHead (updPkg summaryOnChip 0 fun p => { p with queues := tblUpd p.queues 1 fun q => { q with tail := queueTail summaryOnChip q } }) 0 1

/-- The packet, refused as it is taken, leaves STATE of its summary in register 15 of lane 48 (R254, R276). -/
theorem register_after_wake : vreg wokenOnChip 4 48 15 = 9 := by decide +kernel

theorem not_queueWakes : ¬ Claims.QueueWakes := by
  intro h
  obtain ⟨-, -, hsame⟩ := h summaryOnChip queueOnChip (by decide) (by decide +kernel) rfl (by decide +kernel) (by decide +kernel)
    (by decide +kernel)
  have hbefore : vreg wokenOnChip 4 48 15 = vreg summaryOnChip 4 48 15 := hsame.vregs 4 48 15 (by decide)
  rw [register_after_wake] at hbefore
  exact absurd hbefore (by decide)

end Sys2Proof.Machine

section
open Sys2Proof Sys2Proof.Machine

/-- Refutes O46: a packet of a privileged context's queue that is refused, and whose summary address lies on a page of the on-chip map,
writes its summary into registers of a resident warp. -/
theorem not_eventAndPacketQueues : ¬ Obligations.EventAndPacketQueues := fun h => not_queueWakes h.2

end

/-! ## The threads at the end of run-ahead (O53)

R338 and R343 have the threads that stand at the restart point of a trap stop at once. The statement has every thread as before. -/

namespace Sys2Proof.Machine

/-- The one thread of warp 4 stands at an instruction that has faulted on the page 0x200000, and run-ahead from there has come to its end. -/
def faultedWarp : State :=
  { ctxs := [(1, {})]
    parts := [(8192, { ncores := 1 })]
    lcores := [(16777216, { pcore := some 0 })]
    wgs := [(3, { ctx := 1, lcore := 16777216, threads := 1, warps := [4] })]
    warps := [(4, { ctx := 1, wg := 3, lanes := [(0, {})], ahead := some { pages := [0x200000], finished := true } })]
    arg := { a := 4 }
    nextId := 10 }

/-- The trap stops the thread at its restart point (R338). -/
theorem stopped_after_runAhead : (match exec .runAheadEnd faultedWarp with
    | .next u => (thrOf u ⟨0, 4⟩).stopped
    | _ => false) = true := by decide +kernel

theorem not_warpStops : ¬ Claims.WarpStops := by
  intro h
  obtain ⟨hahead, -, -⟩ := h
  obtain ⟨u, hexec, -, -, -, -, hsame⟩ := hahead faultedWarp { pages := [0x200000], finished := true } rfl rfl (by decide) rfl rfl
  have hstops := stopped_after_runAhead
  rw [hexec] at hstops
  have hstands : (thrOf u ⟨0, 4⟩).stopped = false := congrArg Thread.stopped (hsame.threads ⟨0, 4⟩)
  exact absurd (hstands.symm.trans hstops) (by decide)

end Sys2Proof.Machine

section
open Sys2Proof Sys2Proof.Machine

/-- Refutes O53: where run-ahead has come to its end, the trap stops the threads that stand at the faulting instruction, and they are not as
they were. -/
theorem not_contextsStopped : ¬ Obligations.ContextsStopped := fun h => not_warpStops h.2.1

end

/-! ## Barrier objects and the thread's own atomics (O36)

R291 has `MWAIT` check its object to the last reserved byte, so the model holds the member behind its own atomics on any of the 32 bytes, as
R227 orders a later load. The statement asks of the first three units of 8 bytes alone that nothing holds the member, and has it acquire at
once: behind its own atomic on the last unit it waits, and its die keeps its copies. -/

namespace Sys2Proof.Machine

/-- A thread of core 0 is at an `MWAIT` on the object at 0x2000, of package scope, whose PHASE is 1; the thread waits for PHASE to differ
from 0. Its own reduction, an addition of 0 to the reserved bytes at 0x2018, has not been performed yet, and its die holds a copy of a byte
that is homed on die 1. -/
def reducingObject : State :=
  { twiceListed with
    mem := [(0x2000, 2), (0x2008, 1), (0x2010, 4)]
    dcopies := [(0, [(0x3000000000, {})])]
    atoms := [(9, { ctx := 1, part := 8192, warp := 4, va := 0x2018, addr := 0x2018 })]
    warps := [(4, { ctx := 1, wg := 3, vr := [(128, 0x2000)], lanes := [(0, {})] })] }

/-- The wait at that object, with the address in v2 and v3 and the phase value in v6 and v7. -/
def objectWait : Instr := .mwait 7 6 2

theorem actors_reducingObject : actors reducingObject loneGroup objectWait = [loneMember] := by decide
theorem ready_reducingObject : Claims.Ready reducingObject loneGroup objectWait :=
  ⟨rfl, by unfold Unreplicated; decide, by unfold OperandsPass; decide⟩

/-- The member waits for its reduction and acquires nothing: the die still holds its copy. -/
theorem copy_after_objectWait : (match exec objectWait reducingObject with
    | .next u => (tblGet? (dieCopies u 0) 0x3000000000).isSome
    | _ => false) = true := by decide +kernel

theorem not_barrierObjects : ¬ Claims.BarrierObjects := by
  rintro ⟨-, -, -, hmwait⟩
  obtain ⟨u, hexec, -, -, hacquires⟩ := hmwait 7 6 2 reducingObject loneGroup ready_reducingObject
    (by unfold Claims.EachChecked; decide) (by unfold Claims.EachActor; decide)
  have hactor : loneMember ∈ actors reducingObject loneGroup objectWait := by rw [actors_reducingObject]; exact List.mem_singleton_self _
  obtain ⟨-, hdie⟩ := hacquires loneMember hactor (by decide)
  have hnone : dieCopies u 0 = [] := hdie (by decide)
  have hcopy := copy_after_objectWait
  rw [show exec objectWait reducingObject = .next (retire u) from hexec] at hcopy
  have hheld : (tblGet? (dieCopies u 0) 0x3000000000).isSome = true := (noNewCopies_retire u).held 0 0x3000000000 hcopy
  rw [hnone] at hheld
  exact absurd hheld (by decide)

end Sys2Proof.Machine

section
open Sys2Proof Sys2Proof.Machine

/-- Refutes O36: an `MWAIT` on an object of package scope whose PHASE differs is held behind its thread's own reduction on the object's last
8 bytes, so it acquires nothing, and its die keeps its copies. -/
theorem not_barriers : ¬ Obligations.Barriers := fun h => not_barrierObjects h.2.2

end

/-! ## Memory keeps its canonical form (O15)

Each meaning keeps the canonical form, by its lemma of the Canonical files; a step runs one or two meanings, and the counting of progress
events and the passing of time keep memory as it is. -/

namespace Sys2Proof.Machine

/-- Every instruction and event of a state with canonical memory answers one with canonical memory. -/
theorem wf_exec (i : Instr) (s : State) (hwf : Memory.wf s.mem = true) : NextWf (exec i s) :=
  match i with
  | .addI32 p d a b => wf_execAddI32 p d a b s hwf
  | .subI32 p d a b => wf_execSubI32 p d a b s hwf
  | .addc p d a b => wf_execAddc p d a b s hwf
  | .subb p d a b => wf_execSubb p d a b s hwf
  | .addI64 p d a b => wf_execAddI64 p d a b s hwf
  | .subI64 p d a b => wf_execSubI64 p d a b s hwf
  | .addcI64 p d a b => wf_execAddcI64 p d a b s hwf
  | .subbI64 p d a b => wf_execSubbI64 p d a b s hwf
  | .mullo p d a b => wf_execMullo p d a b s hwf
  | .mulhiUs p d a b => wf_execMulhiUs p d a b s hwf
  | .mulhiSg p d a b => wf_execMulhiSg p d a b s hwf
  | .mad p d a b => wf_execMad p d a b s hwf
  | .andB p d a b => wf_execAndB p d a b s hwf
  | .orB p d a b => wf_execOrB p d a b s hwf
  | .xorB p d a b => wf_execXorB p d a b s hwf
  | .notB p d a => wf_execNotB p d a s hwf
  | .shl p d a b => wf_execShl p d a b s hwf
  | .shr p d a b => wf_execShr p d a b s hwf
  | .sar p d a b => wf_execSar p d a b s hwf
  | .rot p d a b => wf_execRot p d a b s hwf
  | .minSg p d a b => wf_execMinSg p d a b s hwf
  | .minUs p d a b => wf_execMinUs p d a b s hwf
  | .maxSg p d a b => wf_execMaxSg p d a b s hwf
  | .maxUs p d a b => wf_execMaxUs p d a b s hwf
  | .abs p d a => wf_execAbs p d a s hwf
  | .neg p d a => wf_execNeg p d a s hwf
  | .clz p d a => wf_execClz p d a s hwf
  | .popc p d a => wf_execPopc p d a s hwf
  | .brev p d a => wf_execBrev p d a s hwf
  | .bfxUs p d a b => wf_execBfxUs p d a b s hwf
  | .bfxSg p d a b => wf_execBfxSg p d a b s hwf
  | .bfi p d a b => wf_execBfi p d a b s hwf
  | .sel k d a b => wf_execSel k d a b s hwf
  | .cmpSg p d a b => wf_execCmpSg p d a b s hwf
  | .cmpUs p d a b => wf_execCmpUs p d a b s hwf
  | .cmpI64 p d a b => wf_execCmpI64 p d a b s hwf
  | .pand p d a b => wf_execPand p d a b s hwf
  | .por p d a b => wf_execPor p d a b s hwf
  | .pxor p d a b => wf_execPxor p d a b s hwf
  | .pnot p d a => wf_execPnot p d a s hwf
  | .mov p d a => wf_execMov p d a s hwf
  | .smovToUniform p d a => wf_execSmovToUniform p d a s hwf
  | .smovFromUniform p d a => wf_execSmovFromUniform p d a s hwf
  | .movI64 p d a => wf_execMovI64 p d a s hwf
  | .lea p d a b => wf_execLea p d a b s hwf
  | .idx2 p d a b => wf_execIdx2 p d a b s hwf
  | .shlI64 p d a b => wf_execShlI64 p d a b s hwf
  | .shrI64 p d a b => wf_execShrI64 p d a b s hwf
  | .sarI64 p d a b => wf_execSarI64 p d a b s hwf
  | .movi p d im => wf_execMovi p d im s hwf
  | .addI32Immediate p d a im => wf_execAddI32Immediate p d a im s hwf
  | .faddF32 p d a b => wf_execFaddF32 p d a b s hwf
  | .fsubF32 p d a b => wf_execFsubF32 p d a b s hwf
  | .fmulF32 p d a b => wf_execFmulF32 p d a b s hwf
  | .fminF32 p d a b => wf_execFminF32 p d a b s hwf
  | .fmaF32D0 p d a b => wf_execFmaF32D0 p d a b s hwf
  | .fmaF32D1 p d a b => wf_execFmaF32D1 p d a b s hwf
  | .fmaF32D2 p d a b => wf_execFmaF32D2 p d a b s hwf
  | .fmaF32D3 p d a b => wf_execFmaF32D3 p d a b s hwf
  | .fmaxF32 p d a b => wf_execFmaxF32 p d a b s hwf
  | .fcmpF32 p d a b => wf_execFcmpF32 p d a b s hwf
  | .fclassF32 p d a => wf_execFclassF32 p d a s hwf
  | .faddF16 p d a b => wf_execFaddF16 p d a b s hwf
  | .fsubF16 p d a b => wf_execFsubF16 p d a b s hwf
  | .fmulF16 p d a b => wf_execFmulF16 p d a b s hwf
  | .fminF16 p d a b => wf_execFminF16 p d a b s hwf
  | .fmaF16D0 p d a b => wf_execFmaF16D0 p d a b s hwf
  | .fmaF16D1 p d a b => wf_execFmaF16D1 p d a b s hwf
  | .fmaF16D2 p d a b => wf_execFmaF16D2 p d a b s hwf
  | .fmaF16D3 p d a b => wf_execFmaF16D3 p d a b s hwf
  | .fmaxF16 p d a b => wf_execFmaxF16 p d a b s hwf
  | .fcmpF16 p d a b => wf_execFcmpF16 p d a b s hwf
  | .fclassF16 p d a => wf_execFclassF16 p d a s hwf
  | .faddBf16 p d a b => wf_execFaddBf16 p d a b s hwf
  | .fsubBf16 p d a b => wf_execFsubBf16 p d a b s hwf
  | .fmulBf16 p d a b => wf_execFmulBf16 p d a b s hwf
  | .fminBf16 p d a b => wf_execFminBf16 p d a b s hwf
  | .fmaBf16D0 p d a b => wf_execFmaBf16D0 p d a b s hwf
  | .fmaBf16D1 p d a b => wf_execFmaBf16D1 p d a b s hwf
  | .fmaBf16D2 p d a b => wf_execFmaBf16D2 p d a b s hwf
  | .fmaBf16D3 p d a b => wf_execFmaBf16D3 p d a b s hwf
  | .fmaxBf16 p d a b => wf_execFmaxBf16 p d a b s hwf
  | .fcmpBf16 p d a b => wf_execFcmpBf16 p d a b s hwf
  | .fclassBf16 p d a => wf_execFclassBf16 p d a s hwf
  | .frcp p d a => wf_execFrcp p d a s hwf
  | .frsq p d a => wf_execFrsq p d a s hwf
  | .fsqrt p d a => wf_execFsqrt p d a s hwf
  | .fdiv p d a b => wf_execFdiv p d a b s hwf
  | .fex2 p d a => wf_execFex2 p d a s hwf
  | .flg2 p d a => wf_execFlg2 p d a s hwf
  | .fsin p d a => wf_execFsin p d a s hwf
  | .fcos p d a => wf_execFcos p d a s hwf
  | .frintRn p d a => wf_execFrintRn p d a s hwf
  | .frintRz p d a => wf_execFrintRz p d a s hwf
  | .frintRp p d a => wf_execFrintRp p d a s hwf
  | .frintRm p d a => wf_execFrintRm p d a s hwf
  | .dadd p d a b => wf_execDadd p d a b s hwf
  | .dmul p d a b => wf_execDmul p d a b s hwf
  | .dfma p d a b => wf_execDfma p d a b s hwf
  | .dcvtF64F32 p d a => wf_execDcvtF64F32 p d a s hwf
  | .dcvtF32F64 p d a => wf_execDcvtF32F64 p d a s hwf
  | .dcvtF64S64 p d a => wf_execDcvtF64S64 p d a s hwf
  | .dcvtS64F64 p d a => wf_execDcvtS64F64 p d a s hwf
  | .cvtRn p d a b => wf_execCvtRn p d a b s hwf
  | .cvtRz p d a b => wf_execCvtRz p d a b s hwf
  | .cvtRp p d a b => wf_execCvtRp p d a b s hwf
  | .cvtRm p d a b => wf_execCvtRm p d a b s hwf
  | .cvtn p d a b k => wf_execCvtn p d a b k s hwf
  | .cvtw p d a b k => wf_execCvtw p d a b k s hwf
  | .bsext p d a b => wf_execBsext p d a b s hwf
  | .bsapp p d a b => wf_execBsapp p d a b s hwf
  | .compress p d a => wf_execCompress p d a s hwf
  | .expand p d a b => wf_execExpand p d a b s hwf
  | .qswpH p d a => wf_execQswpH p d a s hwf
  | .qswpV p d a => wf_execQswpV p d a s hwf
  | .qswpD p d a => wf_execQswpD p d a s hwf
  | .elect p d => wf_execElect p d s hwf
  | .voteAny p d a => wf_execVoteAny p d a s hwf
  | .voteAll p d a => wf_execVoteAll p d a s hwf
  | .voteBallot p d a => wf_execVoteBallot p d a s hwf
  | .matchAny p d a => wf_execMatchAny p d a s hwf
  | .reduxI32 p d a b => wf_execReduxI32 p d a b s hwf
  | .reduxUs p d a b => wf_execReduxUs p d a b s hwf
  | .reduxF32 p d a b => wf_execReduxF32 p d a b s hwf
  | .scanI32 p d a b => wf_execScanI32 p d a b s hwf
  | .scanUs p d a b => wf_execScanUs p d a b s hwf
  | .scanF32 p d a b => wf_execScanF32 p d a b s hwf
  | .movf d f => wf_execMovf d f s hwf
  | .permutationPrefix a b => wf_execPermutationPrefix a b s hwf
  | .ldB32 p d a im => wf_execLdB32 p d a im s hwf
  | .stB32 p d a im => wf_execStB32 p d a im s hwf
  | .ldB64 p d a b => wf_execLdB64 p d a b s hwf
  | .stB64 p d a b => wf_execStB64 p d a b s hwf
  | .ldB128 p d a b => wf_execLdB128 p d a b s hwf
  | .stB128 p d a b => wf_execStB128 p d a b s hwf
  | .ldB8 p d a b => wf_execLdB8 p d a b s hwf
  | .ldB16 p d a b => wf_execLdB16 p d a b s hwf
  | .stB8 p d a b => wf_execStB8 p d a b s hwf
  | .stB16 p d a b => wf_execStB16 p d a b s hwf
  | .ldsB32 p d a b => wf_execLdsB32 p d a b s hwf
  | .stsB32 p d a b => wf_execStsB32 p d a b s hwf
  | .ldsB64 p d a b => wf_execLdsB64 p d a b s hwf
  | .stsB64 p d a b => wf_execStsB64 p d a b s hwf
  | .ldcB32 p d a b => wf_execLdcB32 p d a b s hwf
  | .ldcB64 p d a b => wf_execLdcB64 p d a b s hwf
  | .pref p d a b => wf_execPref p d a b s hwf
  | .ldrB32 p d a im => wf_execLdrB32 p d a im s hwf
  | .ldrB32Uniform p d a n => wf_execLdrB32Uniform p d a n s hwf
  | .strB32 p d a im => wf_execStrB32 p d a im s hwf
  | .strB32Uniform p d a n => wf_execStrB32Uniform p d a n s hwf
  | .atomB32 p d a b => wf_execAtomB32 p d a b s hwf
  | .casB32 p d a sc => wf_execCasB32 p d a sc s hwf
  | .atomB64 p d a b => wf_execAtomB64 p d a b s hwf
  | .casB64 p d a sc => wf_execCasB64 p d a sc s hwf
  | .redB32 p d a b => wf_execRedB32 p d a b s hwf
  | .redB64 p d a b => wf_execRedB64 p d a b s hwf
  | .fatom p d a b => wf_execFatom p d a b s hwf
  | .fatomNr p d a b => wf_execFatomNr p d a b s hwf
  | .mcas p d a => wf_execMcas p d a s hwf
  | .tshape p d a => wf_execTshape p d a s hwf
  | .tld p d a b => wf_execTld p d a b s hwf
  | .tst p d a b => wf_execTst p d a b s hwf
  | .tmov p d a => wf_execTmov p d a s hwf
  | .mmaBf16 p d a b => wf_execMmaBf16 p d a b s hwf
  | .mmaF16 p d a b => wf_execMmaF16 p d a b s hwf
  | .mmaNf p d a b => wf_execMmaNf p d a b s hwf
  | .mmaspBf16 p d a b => wf_execMmaspBf16 p d a b s hwf
  | .mmaspF16 p d a b => wf_execMmaspF16 p d a b s hwf
  | .mmaspNf p d a b => wf_execMmaspNf p d a b s hwf
  | .acalloc p d a => wf_execAcalloc p d a s hwf
  | .acfree p a => wf_execAcfree p a s hwf
  | .aczero p a => wf_execAczero p a s hwf
  | .acrd p d a => wf_execAcrd p d a s hwf
  | .acwr p d a => wf_execAcwr p d a s hwf
  | .accvt p d a => wf_execAccvt p d a s hwf
  | .acseed p d a => wf_execAcseed p d a s hwf
  | .acqry p d a => wf_execAcqry p d a s hwf
  | .bra p o => wf_execBra p o s hwf
  | .nop p => wf_execNop p s hwf
  | .brcAny p d a => wf_execBrcAny p d a s hwf
  | .brcAll p d a => wf_execBrcAll p d a s hwf
  | .call p d a => wf_execCall p d a s hwf
  | .ret p a => wf_execRet p a s hwf
  | .jmpi p a => wf_execJmpi p a s hwf
  | .exitT p => wf_execExitT p s hwf
  | .yield p => wf_execYield p s hwf
  | .convW => wf_execConvW s hwf
  | .wbase p a => wf_execWbase p a s hwf
  | .acqr p a => wf_execAcqr p a s hwf
  | .cfence p => wf_execCfence p s hwf
  | .ifence p => wf_execIfence p s hwf
  | .twait p d a => wf_execTwait p d a s hwf
  | .tread p d a => wf_execTread p d a s hwf
  | .tsignal p d a => wf_execTsignal p d a s hwf
  | .bar p => wf_execBar p s hwf
  | .bara p d a => wf_execBara p d a s hwf
  | .barw p d => wf_execBarw p d s hwf
  | .marrive p d a => wf_execMarrive p d a s hwf
  | .mwait p d a => wf_execMwait p d a s hwf
  | .ldfK p d a => wf_execLdfK p d a s hwf
  | .ldfE p d a => wf_execLdfE p d a s hwf
  | .ste p d a => wf_execSte p d a s hwf
  | .stf p d a => wf_execStf p d a s hwf
  | .lde p d a => wf_execLde p d a s hwf
  | .sleepT p a => wf_execSleepT p a s hwf
  | .ldAcqB32 p d a sc => wf_execLdAcqB32 p d a sc s hwf
  | .ldAcqB64 p d a sc => wf_execLdAcqB64 p d a sc s hwf
  | .stRelB32 p d a sc => wf_execStRelB32 p d a sc s hwf
  | .stRelB64 p d a sc => wf_execStRelB64 p d a sc s hwf
  | .fenceAcq p sc => wf_execFenceAcq p sc s hwf
  | .fenceRel p sc => wf_execFenceRel p sc s hwf
  | .fenceAcqrel p sc => wf_execFenceAcqrel p sc s hwf
  | .fenceSc p sc => wf_execFenceSc p sc s hwf
  | .cpy p d a => wf_execCpy p d a s hwf
  | .gath p d a => wf_execGath p d a s hwf
  | .scat p d a => wf_execScat p d a s hwf
  | .coll p d a => wf_execColl p d a s hwf
  | .tbind p d a => wf_execTbind p d a s hwf
  | .tunbind p d a => wf_execTunbind p d a s hwf
  | .evpop p d a => wf_execEvpop p d a s hwf
  | .evpush p d a => wf_execEvpush p d a s hwf
  | .taskrel p d a => wf_execTaskrel p d a s hwf
  | .launch p d a => wf_execLaunch p d a s hwf
  | .launchp p d a => wf_execLaunchp p d a s hwf
  | .cancel p d a => wf_execCancel p d a s hwf
  | .gridq p d a => wf_execGridq p d a s hwf
  | .csrr p d a => wf_execCsrr p d a s hwf
  | .csrw p d a => wf_execCsrw p d a s hwf
  | .tmlnWrite => wf_execTmlnWrite s hwf
  | .identWrite => wf_execIdentWrite s hwf
  | .nfmtWrite => wf_execNfmtWrite s hwf
  | .setid p d a => wf_execSetid p d a s hwf
  | .tlbinv p d a => wf_execTlbinv p d a s hwf
  | .clrinv p d a => wf_execClrinv p d a s hwf
  | .bankrole p d a => wf_execBankrole p d a s hwf
  | .trap p a => wf_execTrap p a s hwf
  | .eret p d a => wf_execEret p d a s hwf
  | .savectx p d a => wf_execSavectx p d a s hwf
  | .restctx p d a => wf_execRestctx p d a s hwf
  | .halt p a => wf_execHalt p a s hwf
  | .rdclk p d a => wf_execRdclk p d a s hwf
  | .rand p d => wf_execRand p d s hwf
  | .ckpt p d a => wf_execCkpt p d a s hwf
  | .sigchk p d a => wf_execSigchk p d a s hwf
  | .replq p d a => wf_execReplq p d a s hwf
  | .clauseIssue => wf_execClauseIssue s hwf
  | .heldFaultRecordWrite => wf_execHeldFaultRecordWrite s hwf
  | .runAheadEnd => wf_execRunAheadEnd s hwf
  | .loadReturn => wf_execLoadReturn s hwf
  | .longLatencyCompletion => wf_execLongLatencyCompletion s hwf
  | .deferredMemberRetest => wf_execDeferredMemberRetest s hwf
  | .rotationPoint => wf_execRotationPoint s hwf
  | .sleepExpiry => wf_execSleepExpiry s hwf
  | .stall => wf_execStall s hwf
  | .stopWindowExpiry => wf_execStopWindowExpiry s hwf
  | .warpStopped => wf_execWarpStopped s hwf
  | .vacateReservedCore => wf_execVacateReservedCore s hwf
  | .workgroupPlacement => wf_execWorkgroupPlacement s hwf
  | .logicalCorePlacement => wf_execLogicalCorePlacement s hwf
  | .landingDeal => wf_execLandingDeal s hwf
  | .cancelLanding => wf_execCancelLanding s hwf
  | .gridCompletion => wf_execGridCompletion s hwf
  | .queueTailWake => wf_execQueueTailWake s hwf
  | .cpySectorDelivery => wf_execCpySectorDelivery s hwf
  | .gathElement => wf_execGathElement s hwf
  | .scatElement => wf_execScatElement s hwf
  | .collInstanceStart => wf_execCollInstanceStart s hwf
  | .collElementWrite => wf_execCollElementWrite s hwf
  | .gazetteerBindComplete => wf_execGazetteerBindComplete s hwf
  | .gazetteerUnbindComplete => wf_execGazetteerUnbindComplete s hwf
  | .engineOperationComplete => wf_execEngineOperationComplete s hwf
  | .writeBackMerge => wf_execWriteBackMerge s hwf
  | .atomicPerform => wf_execAtomicPerform s hwf
  | .postedOperationReplay => wf_execPostedOperationReplay s hwf
  | .mcasLockGrant => wf_execMcasLockGrant s hwf
  | .lockBusy => wf_execLockBusy s hwf
  | .mmaKgroup => wf_execMmaKgroup s hwf
  | .acfreeRelease => wf_execAcfreeRelease s hwf
  | .bankRoleChange => wf_execBankRoleChange s hwf
  | .writeLogApply => wf_execWriteLogApply s hwf
  | .replicaComparison => wf_execReplicaComparison s hwf
  | .holdAgeExpiry => wf_execHoldAgeExpiry s hwf
  | .replicaUncorrectableError => wf_execReplicaUncorrectableError s hwf
  | .cutIntervalExpiry => wf_execCutIntervalExpiry s hwf
  | .cutInstant => wf_execCutInstant s hwf
  | .cutRecordWrite => wf_execCutRecordWrite s hwf
  | .cutDurable => wf_execCutDurable s hwf
  | .streamUnitWrite => wf_execStreamUnitWrite s hwf
  | .protectedUnitWrite => wf_execProtectedUnitWrite s hwf
  | .savecostUpdate => wf_execSavecostUpdate s hwf
  | .scrubRow => wf_execScrubRow s hwf
  | .hotRowAgeOut => wf_execHotRowAgeOut s hwf
  | .scoreHalving => wf_execScoreHalving s hwf
  | .correctedError => wf_execCorrectedError s hwf
  | .uncorrectableError => wf_execUncorrectableError s hwf
  | .remapTableError => wf_execRemapTableError s hwf
  | .flitReceive => wf_execFlitReceive s hwf
  | .portRetrainEnd => wf_execPortRetrainEnd s hwf
  | .rdmaSendWake => wf_execRdmaSendWake s hwf
  | .rdmaInboundWrite => wf_execRdmaInboundWrite s hwf
  | .rdmaCompletion => wf_execRdmaCompletion s hwf
  | .hostBar2Write => wf_execHostBar2Write s hwf
  | .hostCxlMemAccess => wf_execHostCxlMemAccess s hwf
  | .mailboxAreaWrite => wf_execMailboxAreaWrite s hwf
  | .createContext => wf_execCreateContext s hwf
  | .destroyContext => wf_execDestroyContext s hwf
  | .registerQueue => wf_execRegisterQueue s hwf
  | .removeQueue => wf_execRemoveQueue s hwf
  | .setReservedCores => wf_execSetReservedCores s hwf
  | .loadKeySlot => wf_execLoadKeySlot s hwf
  | .clearKeySlot => wf_execClearKeySlot s hwf
  | .registerCheckpoint => wf_execRegisterCheckpoint s hwf
  | .removeCheckpoint => wf_execRemoveCheckpoint s hwf
  | .requestCut => wf_execRequestCut s hwf
  | .allotCores => wf_execAllotCores s hwf
  | .withdrawCores => wf_execWithdrawCores s hwf
  | .powerRun => wf_execPowerRun s hwf
  | .powerCapped => wf_execPowerCapped s hwf
  | .powerIdle => wf_execPowerIdle s hwf
  | .enterFullService => wf_execEnterFullService s hwf
  | .readErrorLog => wf_execReadErrorLog s hwf
  | .readJournal => wf_execReadJournal s hwf
  | .thermalTrip => wf_execThermalTrip s hwf
  | .powerRemoval => wf_execPowerRemoval s hwf
  | .deviceReset => wf_execDeviceReset s hwf
  | .codeObjectLoad => wf_execCodeObjectLoad s hwf
  | .writePerformedAtScope => wf_execWritePerformedAtScope s hwf
  | .linkDown => wf_execLinkDown s hwf
  | .unknownOpcode => wf_execUnknownOpcode s hwf

theorem wf_runOne (i : Instr) (s : State) (hwf : Memory.wf s.mem = true) : NextWf (runOne i s) := by
  unfold runOne
  split
  case h_1 u hu => exact nextWf_next (wf_countEvents i s u hwf (wf_exec i s hwf u hu))
  case h_2 => exact nextWf_fault _
  case h_3 => exact nextWf_refused _

theorem wf_runTrans (t : Trans) (s : State) (hwf : Memory.wf s.mem = true) : NextWf (runTrans t s) := by
  unfold runTrans
  split
  case h_1 u hu =>
    have hran : Memory.wf u.mem = true := wf_runOne t.instr (t.arm s) hwf u hu
    refine nextWf_ite ?_ (nextWf_next hran)
    split
    case h_1 i _ => exact wf_runOne i _ hran
    case h_2 => exact nextWf_next hran
  case h_2 => exact nextWf_fault _
  case h_3 => exact nextWf_refused _

theorem wf_step (s : State) (hwf : Memory.wf s.mem = true) : NextWf (step s) := by
  unfold step
  dsimp only
  split
  case h_1 => exact nextWf_next (wf_advance s hwf)
  case h_2 t _ =>
    split
    case h_1 u hu =>
      have hran : Memory.wf u.mem = true := wf_runTrans t s hwf u hu
      exact nextWf_next (wf_advance _ (wf_ite hran hran))
    case h_2 => exact nextWf_fault _
    case h_3 => exact nextWf_refused _

end Sys2Proof.Machine

section
open Sys2Proof Sys2Proof.Machine

/-- Settles O15: every step runs meanings that keep memory canonical. -/
theorem stepKeepsMemory : Obligations.StepKeepsMemory := fun s t hwf hstep => wf_step s hwf t hstep

end

/-! ## The machine right after reset (O14) -/

namespace Sys2Proof.Machine

/-- The journal of package 0 right after reset holds one passed record of each of the eight units of reduced service (R405, R407). -/
theorem journal_reset_passed : (pkgAt State.reset 0).journal.length = 8 ∧
    ∀ r ∈ (pkgAt State.reset 0).journal, r.length = 16 ∧ recResult r = 0 := by decide

end Sys2Proof.Machine

section
open Sys2Proof Sys2Proof.Machine

/-- Settles O14: each table and field of the reset state is read off its definition. -/
theorem resetState : Obligations.ResetState :=
  ⟨rfl, rfl, rfl, rfl, rfl, rfl, rfl, rfl, rfl, rfl, rfl, rfl, rfl, rfl, rfl, rfl, rfl, journal_reset_passed.1, journal_reset_passed.2, rfl⟩

end

/-! ## The mailbox (O57, O58) -/

namespace Sys2Proof.Machine

/-! ### Bytes put in the area of a mailbox (R401) -/

theorem pkgAt_updPkg_self (s : State) (p : Nat) (f : Pkg → Pkg) (h : (tblGet? s.pkgs p).isSome = true) :
    pkgAt (updPkg s p f) p = f (pkgAt s p) := by
  obtain ⟨k, hk⟩ := Option.isSome_iff_exists.1 h
  simp [pkgAt, tblGet, updPkg, tblGet?_tblUpd, hk]

theorem isSome_updPkg (s : State) (p q : Nat) (f : Pkg → Pkg) : (tblGet? (updPkg s p f).pkgs q).isSome = (tblGet? s.pkgs q).isSome := by
  rw [updPkg_pkgs, tblGet?_tblUpd]
  split <;> simp

/-- A byte of the area after bytes are put there. -/
theorem bmGet_mbPut (s : State) (p off : Nat) (data : List Byte) (o : Nat) (h : (tblGet? s.pkgs p).isSome = true) :
    bmGet (pkgAt (mbPut s p off data) p).mbox o =
      if off ≤ o ∧ o < off + data.length then data.getD (o - off) 0 else bmGet (pkgAt s p).mbox o := by
  rw [mbPut, pkgAt_updPkg_self _ _ _ h]
  exact bmGet_bmSetAll_range _ _ _ _ _

/-- The bytes of a map from b on are those of a list where each of them is. -/
theorem bmList_eq_slice {w : Nat} (m : BMap w) (b n i : Nat) (l : List (BitVec w)) (hlen : i + n ≤ l.length)
    (hm : ∀ k < n, bmGet m (b + k) = l.getD (i + k) 0) : bmList m b n = (l.drop i).take n := by
  refine List.ext_getElem (by simp [bmList]; omega) fun k hk _ => ?_
  have hkn : k < n := by simpa [bmList] using hk
  have hget : i + k < l.length := by omega
  simp [bmList, hm k hkn, List.getD_eq_getElem?_getD, List.getElem?_eq_getElem hget]

/-! ### The response (R402) -/

/-- The bytes of a response: STATUS, CAUSE, reserved bytes, RES0, and reserved bytes. -/
def responseBytes (status cause res : Nat) : List Byte :=
  leBytes 1 status ++ leBytes 1 cause ++ leBytes 6 0 ++ leBytes 8 res ++ leBytes 48 0

theorem length_responseBytes (status cause res : Nat) : (responseBytes status cause res).length = 64 := rfl

section
variable (s : State) (p status cause res : Nat)

theorem respond_eq : respond s p status cause res =
    updPkg (mbPut (mbPut s p 0x40 (responseBytes status cause res)) p 0x80 (leBytes 8 0)) p fun k => { k with busy := false } := rfl

variable (h : (tblGet? s.pkgs p).isSome = true)
include h

/-- A byte of the area after a response. -/
theorem mbox_respond (o : Nat) : bmGet (pkgAt (respond s p status cause res) p).mbox o =
    if 0x80 ≤ o ∧ o < 0x88 then (leBytes 8 0).getD (o - 0x80) 0
    else if 0x40 ≤ o ∧ o < 0x80 then (responseBytes status cause res).getD (o - 0x40) 0 else bmGet (pkgAt s p).mbox o := by
  have h1 : (tblGet? (mbPut s p 0x40 (responseBytes status cause res)).pkgs p).isSome = true := (isSome_updPkg _ _ _ _).trans h
  have h2 : (tblGet? (mbPut (mbPut s p 0x40 (responseBytes status cause res)) p 0x80 (leBytes 8 0)).pkgs p).isSome = true :=
    (isSome_updPkg _ _ _ _).trans h1
  rw [respond_eq, pkgAt_updPkg_self _ _ _ h2]
  exact (bmGet_mbPut _ _ _ _ _ h1).trans (congrArg _ (bmGet_mbPut _ _ _ _ _ h))

/-- A field of the response. -/
theorem mbNat_respond (i n : Nat) (hin : i + n ≤ 64) :
    mbNat (respond s p status cause res) p (0x40 + i) n = leNat (((responseBytes status cause res).drop i).take n) := by
  rw [mbNat, bmList_eq_slice _ _ n i _ ((length_responseBytes status cause res).symm ▸ hin) fun k hk => ?_]
  rw [mbox_respond s p status cause res h, if_neg (by omega), if_pos (by omega)]
  congr 1
  omega

theorem status_respond (hst : status < 256) : mbNat (respond s p status cause res) p 0x40 1 = status :=
  (mbNat_respond s p status cause res h 0 1 (by decide)).trans ((leNat_leBytes 1 status).trans (Nat.mod_eq_of_lt hst))

theorem cause_respond (hc : cause < 256) : mbNat (respond s p status cause res) p 0x41 1 = cause :=
  (mbNat_respond s p status cause res h 1 1 (by decide)).trans ((leNat_leBytes 1 cause).trans (Nat.mod_eq_of_lt hc))

theorem res0_respond (hr : res < 2 ^ 64) : mbNat (respond s p status cause res) p 0x48 8 = res :=
  (mbNat_respond s p status cause res h 8 8 (by decide)).trans ((leNat_leBytes 8 res).trans (Nat.mod_eq_of_lt hr))

theorem go_respond : mbNat (respond s p status cause res) p 0x80 8 = 0 := by
  rw [mbNat, bmList_eq_slice _ _ 8 0 (leBytes 8 0) (length_leBytes 8 0).ge fun k hk => ?_]
  · have hall : (leBytes 8 0).take 8 = leBytes 8 0 := List.take_of_length_le (length_leBytes 8 0).le
    rw [List.drop_zero, hall, leNat_leBytes, Nat.zero_mod]
  · rw [mbox_respond s p status cause res h, if_pos (by omega), Nat.add_sub_cancel_left, Nat.zero_add]

/-- A response leaves the package as it was but for its mailbox, where no command goes on. -/
theorem pkgAt_respond : ∃ m, pkgAt (respond s p status cause res) p = { pkgAt s p with mbox := m, busy := false } := by
  have h1 : (tblGet? (mbPut s p 0x40 (responseBytes status cause res)).pkgs p).isSome = true := (isSome_updPkg _ _ _ _).trans h
  have h2 : (tblGet? (mbPut (mbPut s p 0x40 (responseBytes status cause res)) p 0x80 (leBytes 8 0)).pkgs p).isSome = true :=
    (isSome_updPkg _ _ _ _).trans h1
  rw [respond_eq, pkgAt_updPkg_self _ _ _ h2, mbPut, pkgAt_updPkg_self _ _ _ h1, mbPut, pkgAt_updPkg_self _ _ _ h]
  exact ⟨_, rfl⟩

end

/-- What a response leaves: its fields, no command under way, and everything else (R401, R402). -/
theorem responded (s : State) (p status cause res : Nat) (h : (tblGet? s.pkgs p).isSome = true) (hst : status < 256) (hc : cause < 256)
    (hr : res < 2 ^ 64) : let u := respond s p status cause res
    mbNat u p 0x40 1 = status ∧ mbNat u p 0x41 1 = cause ∧ mbNat u p 0x48 8 = res ∧ mbNat u p 0x80 8 = 0 ∧ (pkgAt u p).busy = false ∧
      (∀ o, o < 0x40 ∨ 0x88 ≤ o → bmGet (pkgAt u p).mbox o = bmGet (pkgAt s p).mbox o) ∧ { u with pkgs := s.pkgs } = s := by
  obtain ⟨m, hm⟩ := pkgAt_respond s p status cause res h
  refine ⟨status_respond s p status cause res h hst, cause_respond s p status cause res h hc, res0_respond s p status cause res h hr,
    go_respond s p status cause res h, congrArg Pkg.busy hm, fun o ho => ?_, rfl⟩
  rw [mbox_respond s p status cause res h, if_neg (by omega), if_neg (by omega)]

/-! ### A written byte (R401) -/

theorem areaTakes_iff (go : Bool) (o : Nat) :
    areaTakes go o = true ↔ (go = false ∧ (o < 0x40 ∨ 0x80 ≤ o ∧ o < 0x88)) ∨ 0xC8 ≤ o ∧ o < 0xD0 := by
  simp [areaTakes]

/-- One byte written is put where the area takes it. -/
theorem areaWrite_one (s : State) (p off : Nat) (b : Byte) :
    areaWrite s p off [b] = if areaTakes (mbGo s p) off then mbPut s p off [b] else s := by
  simp [areaWrite, List.range_succ]

theorem areaByte (s : State) (b : Byte) (hthere : (tblGet? s.pkgs s.arg.a).isSome = true) (hpower : (pkgAt s s.arg.a).powered = true)
    (hdata : s.arg.data = [b]) : ∃ u, exec .mailboxAreaWrite s = .next u ∧ { u with pkgs := s.pkgs } = s ∧ ∀ o,
      bmGet (pkgAt u s.arg.a).mbox o =
        if o = s.arg.b ∧ ((mbGo s s.arg.a = false ∧ (o < 0x40 ∨ 0x80 ≤ o ∧ o < 0x88)) ∨ 0xC8 ≤ o ∧ o < 0xD0) then b
        else bmGet (pkgAt s s.arg.a).mbox o := by
  have hexec : exec .mailboxAreaWrite s = .next (areaWrite s s.arg.a s.arg.b [b]) := by
    rw [← hdata]
    show (if (tblGet? s.pkgs s.arg.a).isSome && (pkgAt s s.arg.a).powered then _ else _) = _
    rw [hthere, hpower]
    rfl
  refine ⟨_, hexec, ?_⟩
  rw [areaWrite_one]
  by_cases htakes : areaTakes (mbGo s s.arg.a) s.arg.b = true
  · rw [if_pos htakes]
    refine ⟨rfl, fun o => ?_⟩
    rw [bmGet_mbPut _ _ _ _ _ hthere]
    by_cases ho : o = s.arg.b
    · subst ho
      rw [if_pos (by simp), if_pos ⟨rfl, (areaTakes_iff _ _).1 htakes⟩, Nat.sub_self]
      rfl
    · rw [if_neg (by simp; omega), if_neg fun h => ho h.1]
  · rw [if_neg htakes]
    refine ⟨rfl, fun o => ?_⟩
    rw [if_neg]
    rintro ⟨rfl, ho⟩
    exact htakes ((areaTakes_iff _ _).2 ho)

theorem mailboxArea : Claims.MailboxArea := ⟨responded, areaByte⟩

/-! ### Checks (R402) -/

theorem argsClean_iff (s : State) (p : Nat) (ws : List Nat) :
    argsClean s p ws = true ↔ mbNat s p 2 6 = 0 ∧ ∀ i < 7, mbArg s p i < 2 ^ (ws.getD i 0) := by
  simp [argsClean, Nat.div_eq_zero_iff]

theorem cmdRefusal_refusalOf (s : State) (p : Nat) (ws : List Nat) (inRange able : Bool) : Claims.refusalOf
    (mbNat s p 2 6 = 0 ∧ ∀ i < 7, mbArg s p i < 2 ^ (ws.getD i 0)) (inRange = true) (able = true) (cmdRefusal s p ws inRange able) := by
  rw [← argsClean_iff]
  unfold Claims.refusalOf cmdRefusal
  cases argsClean s p ws <;> cases inRange <;> cases able <;> simp

/-! ### A command that waits (R402) -/

section
variable {s : State} {p op : Nat} (hc : Claims.Commanded s p op)
include hc

theorem cmdDue_of_commanded {sub : Nat → Bool} (hsub : sub (mbSub s p) = true) : cmdDue s p op sub = true := by
  have hop : mbOp s p = op := hc.opcode
  simp [cmdDue, mbWaits, mbGo, hc.there, hc.powered, hc.sound, hc.go, hop, hsub]

end

/-- A command that ends at once: it is refused with its cause, or has its effect. -/
theorem oneStep_answers (s : State) (p : Nat) (bad : Option Cause) (run : State → State) :
    (∀ c, bad = some c → oneStep s p bad run = respond s p 2 (causeCode c) 0) ∧ (bad = none → oneStep s p bad run = run s) :=
  ⟨fun c h => by rw [h]; rfl, fun h => by rw [h]; rfl⟩

/-- The same as an answer of the machine. -/
theorem answers_of_oneStep {i : Instr} {s : State} {p : Nat} {bad : Option Cause} {run : State → State}
    (hexec : exec i s = .next (oneStep s p bad run)) :
    (∀ c, bad = some c → exec i s = .next (respond s p 2 (causeCode c) 0)) ∧ (bad = none → exec i s = .next (run s)) :=
  ⟨fun c h => hexec.trans (congrArg _ ((oneStep_answers s p bad run).1 c h)), fun h => hexec.trans (congrArg _ ((oneStep_answers s p bad run).2 h))⟩

/-- `CREATE_CONTEXT` checks the reserved bits of SUB first. -/
theorem createBad_eq (s : State) (p : Nat) :
    (if mbSub s p / 2 ≠ 0 then some Cause.reservedField else cmdRefusal s p [] true (freeCtxid s p).isSome) =
      if 2 ≤ mbSub s p then some Cause.reservedField else cmdRefusal s p [] true (freeCtxid s p).isSome :=
  if_congr (by omega) rfl rfl

/-- The argument of a power state that is not Capped has two bits, and there is no limit. -/
theorem powerWidths_of_ne (s : State) (p : Nat) (h : mbArg s p 0 % 4 ≠ 1) : powerWidths s p = [2, 0] := if_neg h

/-- Each command that ends at once, as a step that its checks may refuse. -/
theorem exec_shortCommand {i : Instr} {op : Nat} {due : State → Nat → Prop} {bad : State → Nat → Option Cause} {done : State → Nat → State}
    (hi : Claims.ShortCommand i op due bad done) (s : State) (hc : Claims.Commanded s s.arg.a op) (hdue : due s s.arg.a) :
    exec i s = .next (oneStep s s.arg.a (bad s s.arg.a) fun v => done v s.arg.a) := by
  cases hi with
  | create =>
    refine (if_pos (cmdDue_of_commanded hc ?_)).trans ?_
    · rfl
    · dsimp only
      rw [createBad_eq]
      unfold oneStep
      split <;> rfl
  | register =>
    refine if_pos (cmdDue_of_commanded hc ?_)
    exact bne_iff_ne.2 hdue
  | reserve =>
    refine if_pos (cmdDue_of_commanded hc ?_)
    rfl
  | loadKey =>
    refine if_pos (cmdDue_of_commanded hc ?_)
    rfl
  | addDescriptor =>
    refine if_pos (cmdDue_of_commanded hc ?_)
    simpa using hdue
  | dropDescriptor =>
    refine if_pos (cmdDue_of_commanded hc ?_)
    exact beq_iff_eq.2 hdue
  | cut =>
    refine if_pos (cmdDue_of_commanded hc ?_)
    exact beq_iff_eq.2 hdue
  | run =>
    refine (if_pos (cmdDue_of_commanded hc ?_)).trans ?_
    · simpa using hdue
    · rw [powerWidths_of_ne _ _ (by omega)]
      rfl
  | capped =>
    refine (if_pos (cmdDue_of_commanded hc ?_)).trans ?_
    · simpa using hdue
    · rw [show powerWidths s s.arg.a = [2, 64] from if_pos hdue]
      rfl
  | full =>
    refine if_pos (cmdDue_of_commanded hc ?_)
    rfl

/-- `ALLOT_CORES` allots to the part that it names (R23, R402). -/
theorem allots (s : State) (hc : Claims.Commanded s s.arg.a 0x08) (hsub : mbSub s s.arg.a ≠ 1) :
    let able := plainMemory s s.arg.a (mbArg s s.arg.a 0) 160 && (allotPart? s s.arg.a).isSome && (bitmapCores s s.arg.a).all fun c => coreServes s c
    let bad := cmdRefusal s s.arg.a [51, 29] (mbSub s s.arg.a == 0) able
    (∀ c, bad = some c → exec .allotCores s = .next (respond s s.arg.a 2 (causeCode c) 0)) ∧
    ∀ k fresh, bad = none → allotPart? s s.arg.a = some (k, fresh) →
      exec .allotCores s = .next (answerDone (allotTo s s.arg.a k fresh) s.arg.a 0) := by
  intro able bad
  have hexec : exec .allotCores s = .next (oneStep s s.arg.a bad fun v => match allotPart? v s.arg.a with
      | some (k, fresh) => answerDone (allotTo v s.arg.a k fresh) s.arg.a 0
      | none => v) := by
    refine if_pos (cmdDue_of_commanded hc ?_)
    exact bne_iff_ne.2 hsub
  obtain ⟨hrefused, hdone⟩ := answers_of_oneStep hexec
  refine ⟨hrefused, fun k fresh hbad hpart => (hdone hbad).trans ?_⟩
  rw [hpart]

/-- An opcode that names no command is answered with STATUS 3. -/
theorem unknown_answered (s : State) (hthere : (tblGet? s.pkgs s.arg.a).isSome = true) (hpower : (pkgAt s s.arg.a).powered = true)
    (hsound : (pkgAt s s.arg.a).failed = false) (hgo : mbNat s s.arg.a 0x80 8 = 1)
    (hop : mbOp s s.arg.a ∉ [1, 2, 3, 4, 5, 6, 7, 8, 0x10, 0x11, 0x20]) : exec .unknownOpcode s = .next (respond s s.arg.a 3 0 0) := by
  refine if_pos ?_
  have hnot : knownOps.contains (mbOp s s.arg.a) = false := by rw [← Bool.not_eq_true, List.contains_iff_mem]; exact hop
  rw [hnot]
  simp [mbWaits, mbGo, hthere, hpower, hsound, hgo]

theorem mailboxCommands : Claims.MailboxCommands :=
  ⟨fun _ _ _ _ _ hi s hc hdue => answers_of_oneStep (exec_shortCommand hi s hc hdue), allots, unknown_answered, cmdRefusal_refusalOf⟩

/-! ### Commands that take time (R402) -/

/-- What a command that takes time answers: its refusal, its start, or its end. -/
theorem longCmd_answers {i : Instr} {s : State} {p : Nat} {bad : Option Cause} {start : State → State} {stuck ready : State → Bool}
    {finish : State → State} (hexec : exec i s = longCmd s p bad start stuck ready finish) :
    ((pkgAt s p).busy = false → ∀ c, bad = some c → exec i s = .next (respond s p 2 (causeCode c) 0)) ∧
    ((pkgAt s p).busy = false → bad = none → exec i s = .next (answerBusy (start s) p)) ∧
    ((pkgAt s p).busy = true → ready s = true → exec i s = .next (finish s)) := by
  rw [hexec]
  unfold longCmd
  refine ⟨fun hbusy c hbad => ?_, fun hbusy hbad => ?_, fun hbusy hready => ?_⟩
  · rw [hbusy, hbad]; rfl
  · rw [hbusy, hbad]; rfl
  · rw [hbusy, hready]; rfl

theorem longMailboxCommands : Claims.LongMailboxCommands := by
  intro i op due bad start ready finish hi s hc hdue
  cases hi with
  | destroy =>
    have hcmd : cmdDue s s.arg.a 0x02 (fun _ => true) = true := cmdDue_of_commanded hc rfl
    have hexec : exec .destroyContext s = longCmd s s.arg.a _ _ _ _ _ := if_pos hcmd
    exact longCmd_answers hexec
  | remove =>
    have hcmd : cmdDue s s.arg.a 0x03 (fun sub => sub == 1) = true := cmdDue_of_commanded hc (beq_iff_eq.2 hdue)
    have hexec : exec .removeQueue s = longCmd s s.arg.a _ _ _ _ _ := if_pos hcmd
    exact longCmd_answers hexec
  | clearKey =>
    have hcmd : cmdDue s s.arg.a 0x06 (fun _ => true) = true := cmdDue_of_commanded hc rfl
    have hexec : exec .clearKeySlot s = longCmd s s.arg.a _ _ _ _ _ := if_pos hcmd
    exact longCmd_answers hexec
  | withdraw =>
    have hcmd : cmdDue s s.arg.a 0x08 (fun sub => sub == 1) = true := cmdDue_of_commanded hc (beq_iff_eq.2 hdue)
    have hexec : exec .withdrawCores s = longCmd s s.arg.a _ _ _ _ _ := if_pos hcmd
    exact longCmd_answers hexec
  | idle =>
    have hcmd : cmdDue s s.arg.a 0x10 (fun _ => mbArg s s.arg.a 0 % 4 == 2) = true := cmdDue_of_commanded hc (beq_iff_eq.2 hdue)
    have hexec : exec .powerIdle s = longCmd s s.arg.a _ _ _ _ _ := if_pos hcmd
    rw [powerWidths_of_ne _ _ (by omega)] at hexec
    exact longCmd_answers hexec

/-! ### Full service (R406) -/

/-- `ENTER_FULL_SERVICE` with clean arguments and SUB 0 is refused in full service and while a context is resident. -/
theorem fullBad_eq (s : State) (p : Nat) (hclean : argsClean s p [] = true) (hsub : mbSub s p = 0) :
    cmdRefusal s p [] (mbSub s p == 0) (!(pkgAt s p).full && !ctxResident s p) =
      if (pkgAt s p).full || ctxResident s p then some .access else none := by
  unfold cmdRefusal
  rw [hclean, hsub]
  cases (pkgAt s p).full <;> cases ctxResident s p <;> rfl

/-- The package is in full service once the other units are brought up. -/
theorem full_fullPkg (p : Nat) (x : Pkg) : (fullPkg p x).full = true := by
  unfold fullPkg
  repeat' split
  rfl

/-- The command refused, and performed: its effect sets the package's full service, which the response keeps. -/
theorem fullService_answers (s : State) (hc : Claims.Commanded s s.arg.a 0x11) (hclean : argsClean s s.arg.a [] = true)
    (hsub : mbSub s s.arg.a = 0) :
    (ctxResident s s.arg.a = true → exec .enterFullService s = .next (respond s s.arg.a 2 (causeCode .access) 0)) ∧
    ((pkgAt s s.arg.a).full = false → ctxResident s s.arg.a = false →
      ∃ u, exec .enterFullService s = .next u ∧ (pkgAt u s.arg.a).full = true ∧ mbNat u s.arg.a 0x40 1 = 0) := by
  obtain ⟨hrefused, hdone⟩ := answers_of_oneStep (exec_shortCommand .full s hc trivial)
  rw [fullBad_eq s s.arg.a hclean hsub] at hrefused hdone
  have hthere : (tblGet? (updPkg s s.arg.a (fullPkg s.arg.a)).pkgs s.arg.a).isSome = true := (isSome_updPkg ..).trans hc.there
  refine ⟨fun hres => hrefused _ (if_pos (by rw [hres, Bool.or_true])), fun hfull hres =>
    ⟨_, hdone (if_neg (by rw [hfull, hres]; decide)), ?_, status_respond _ _ _ _ _ hthere (by decide)⟩⟩
  obtain ⟨m, hm⟩ := pkgAt_respond (updPkg s s.arg.a (fullPkg s.arg.a)) s.arg.a 0 0 0 hthere
  refine (congrArg Pkg.full hm).trans ?_
  exact (congrArg Pkg.full (pkgAt_updPkg_self _ _ _ hc.there)).trans (full_fullPkg _ _)

end Sys2Proof.Machine

section
open Sys2Proof Sys2Proof.Machine

/-- Settles O57: the command is one that ends at once, and its checks refuse it while a context is resident. -/
theorem fullService : Obligations.FullService := fullService_answers

/-- Settles O58: the area by the bytes of a response and of a write, each command by its checks and its effect. -/
theorem mailboxProtocol : Obligations.MailboxProtocol := ⟨mailboxArea, mailboxCommands, longMailboxCommands⟩

end

/-! ## The threads of a warp that traps (O51)

R338 and R343 have the threads that stand at the restart point of a trap stop at once. The statement has every thread as before. -/

namespace Sys2Proof.Machine

/-- The one thread of warp 4 stands at place 0, the restart point of a record with the default fields. -/
def standingWarp : State :=
  { ctxs := [(1, {})]
    parts := [(8192, { ncores := 1 })]
    lcores := [(16777216, { pcore := some 0 })]
    wgs := [(3, { ctx := 1, lcore := 16777216, threads := 1, warps := [4] })]
    warps := [(4, { ctx := 1, wg := 3, lanes := [(0, {})] })] }

/-- The trap under that record stops the thread (R338). -/
theorem stopped_after_trapWarp : (thrOf (trapWarp standingWarp 4 {}) ⟨0, 4⟩).stopped = true := by decide +kernel

theorem not_trapRecorded : ¬ Claims.TrapRecorded := by
  rintro ⟨htraps, -, -⟩
  obtain ⟨-, -, -, -, hsame, -⟩ := htraps standingWarp 4 {} rfl rfl rfl rfl
  have hstands : (thrOf (trapWarp standingWarp 4 {}) ⟨0, 4⟩).stopped = false := congrArg Thread.stopped (hsame.threads ⟨0, 4⟩)
  exact absurd (hstands.symm.trans stopped_after_trapWarp) (by decide)

end Sys2Proof.Machine

section
open Sys2Proof Sys2Proof.Machine

/-- Refutes O51: a warp that is trapped under a record has its threads at the restart point stopped, and they are not as they were. -/
theorem not_trapsTaken : ¬ Obligations.TrapsTaken := fun h => not_trapRecorded h.2.1

end

/-! ## What operations leave of parts and contexts (R338, R356, R362)

The record of a fault, a deterministic log and the end of a thread write memory and change what a part holds back and how a context numbers.
What awaits an answer, whether a part is stopped, saved or frozen, and where the cut of a context stands are not theirs. -/

namespace Sys2Proof.Machine

/-- The Surveyor's state of a context without the bits that every write to memory sets. -/
def bareCkpt (c : Ckpt) : Ckpt := { c with clear := [], since := none }

/-- What awaits answers in each part, whether it is to stop, saved or frozen, and the Surveyor's state of each context. -/
def upkeep (s : State) : (Nat → Option (List (Nat × Await) × Bool × Bool × Bool)) × (Nat → Option (Option Ckpt)) :=
  (fun k => (tblGet? s.parts k).map fun p => (p.awaits, p.stopReq, p.saved, p.frozen),
    fun x => (tblGet? s.ctxs x).map fun c => c.ckpt.map bareCkpt)

/-- What every step of a fold over any values leaves, the fold leaves. -/
theorem foldl_keeps_of {α β γ : Type} (r : α → γ) (f : α → β → α) (h : ∀ a x, r (f a x) = r a) (l : List β) (a : α) :
    r (l.foldl f a) = r a := by
  induction l generalizing a with
  | nil => rfl
  | cons x t ih => exact (ih _).trans (h a x)

/-- A change of one entry that a read does not see changes no entry's read. -/
theorem map_tblGet?_tblUpd {α β : Type} (t : Tbl α) (i : Nat) (f : α → α) (r : α → β) (h : ∀ a, r (f a) = r a) (j : Nat) :
    (tblGet? (tblUpd t i f) j).map r = (tblGet? t j).map r := by
  rw [tblGet?_tblUpd]
  split
  · cases tblGet? t j with
    | none => rfl
    | some a => exact congrArg some (h a)
  · rfl

theorem upkeep_of_tables {s u : State} (hp : u.parts = s.parts) (hc : u.ctxs = s.ctxs) : upkeep u = upkeep s := by
  unfold upkeep
  rw [hp, hc]

theorem upkeep_updPart (s : State) (k : Nat) (f : Part → Part)
    (h : ∀ p, ((f p).awaits, (f p).stopReq, (f p).saved, (f p).frozen) = (p.awaits, p.stopReq, p.saved, p.frozen)) :
    upkeep (updPart s k f) = upkeep s :=
  Prod.ext (funext fun j => map_tblGet?_tblUpd s.parts k f _ h j) rfl

theorem upkeep_updCtx (s : State) (x : Nat) (f : Ctx → Ctx) (h : ∀ c, (f c).ckpt.map bareCkpt = c.ckpt.map bareCkpt) :
    upkeep (updCtx s x f) = upkeep s :=
  Prod.ext rfl (funext fun j => map_tblGet?_tblUpd s.ctxs x f _ h j)

theorem upkeep_markUnits (s : State) (a n : Nat) : upkeep (markUnits s a n) = upkeep s := by
  unfold markUnits
  split
  · rfl
  · refine Prod.ext rfl (funext fun x => ?_)
    simp only [upkeep, tblGet?_tblMap, Option.map_map]
    refine congrFun (congrArg Option.map (funext fun c => ?_)) _
    simp only [Function.comp, Option.map_map]
    rfl

theorem upkeep_rekey (s : State) (a key n : Nat) : upkeep (rekey s a key n) = upkeep s := by
  unfold rekey
  split
  · refine foldl_keeps upkeep _ (fun s i => ?_) _ _
    dsimp only
    split
    · split <;> rfl
    · rfl
  · rfl

theorem upkeep_putHome (s : State) (a key : Nat) (data : List Byte) : upkeep (putHome s a key data) = upkeep s :=
  (upkeep_markUnits ..).trans (upkeep_rekey ..)

theorem upkeep_putNat (s : State) (a n v : Nat) : upkeep (putNat s a n v) = upkeep s := upkeep_putHome ..

/-! ### Faults and their records (R341) -/

theorem upkeep_putSlots (s : State) (b size : Nat) (l : List (List Byte)) : upkeep (putSlots s b size l) = upkeep s := by
  induction l generalizing s with
  | nil => rfl
  | cons x t ih => exact (ih _).trans ((upkeep_putNat ..).trans (upkeep_putHome ..))

theorem upkeep_putHeldCount (s : State) (k : Nat) : upkeep (putHeldCount s k) = upkeep s := by
  unfold putHeldCount
  split
  · rfl
  · exact upkeep_putNat ..

theorem upkeep_writeParts (s : State) (k : Nat) (r : FaultRec) (n : Nat) : upkeep (writeParts s k r n) = upkeep s := by
  unfold writeParts
  dsimp only
  generalize (if (partOf s k).held.any fun e => sameSource e.1 r then 0 else min (faultFree s (partOf s k)) ((faultSlots r).length - n)) = m
  have hslots : upkeep (match faultQueue? (partOf s k) with
      | some (b, size) => putSlots s b size (((faultSlots r).drop n).take m)
      | none => s) = upkeep s := by
    split
    · exact upkeep_putSlots ..
    · rfl
  split
  · exact hslots
  · refine (upkeep_putHeldCount ..).trans ((upkeep_updPart _ _ _ fun _ => ?_).trans hslots)
    rfl

theorem upkeep_appendFault (s : State) (k : Nat) (r : FaultRec) : upkeep (appendFault s k r) = upkeep s :=
  (upkeep_writeParts ..).trans (upkeep_updCtx s (k / 8192) (fun c => { c with faultSeq := c.faultSeq + 1 }) fun _ => rfl)

theorem upkeep_fills (s : State) (part ident : Nat) (e : TlbEntry) :
    upkeep (fillClr (fillTlb s part e) part ident e.tag) = upkeep s := by
  have htlb : upkeep (fillTlb s part e) = upkeep s := upkeep_updPart _ _ _ fun p => by split <;> rfl
  unfold fillClr
  split
  · exact htlb
  · exact (upkeep_updPart _ _ _ fun p => by split <;> rfl).trans htlb

/-! ### The end of a thread (R96, R271, R272) -/

theorem upkeep_appendLog (s : State) (g : Nat) (l : List LogEntry) : upkeep (appendLog s g l) = upkeep s := by
  unfold appendLog
  dsimp only
  split
  · exact (upkeep_putNat ..).trans (upkeep_putHome ..)
  · rfl

theorem upkeep_putChipWord (s : State) (core off : Nat) (v : Word) : upkeep (putChipWord s core off v) = upkeep s := by
  unfold putChipWord
  dsimp only
  split <;> rfl

theorem upkeep_putChipBytes (s : State) (pa : Nat) (l : List Byte) : upkeep (putChipBytes s pa l) = upkeep s := by
  induction l generalizing s pa with
  | nil => rfl
  | cons b t ih => exact (ih _ _).trans (upkeep_putChipWord ..)

theorem upkeep_pushWrite (s : State) (w : PWrite) : upkeep (pushWrite s w) = upkeep s := by
  unfold pushWrite dropCopiesOf
  dsimp only
  split
  · rfl
  · split <;> rfl

theorem upkeep_outWord (s : State) (g va : Nat) (data : List Byte) : upkeep (outWord s g va data) = upkeep s := by
  unfold outWord
  dsimp only
  split
  · rfl
  · split
    · exact (upkeep_appendLog ..).trans (upkeep_fills ..)
    · split
      · exact (upkeep_putChipBytes ..).trans (upkeep_fills ..)
      · exact (upkeep_pushWrite ..).trans (upkeep_fills ..)

theorem upkeep_writeOut (s : State) (g : Nat) : upkeep (writeOut s g) = upkeep s := by
  unfold writeOut
  dsimp only
  generalize hr : List.foldl _ _ _ = r
  have hwords : upkeep r.1 = upkeep s := by
    rw [← hr]
    refine foldl_keeps_of (fun v : State × Option (Cause × Nat) => upkeep v.1) _ (fun v e => ?_) (outWords (wgOf s g)) (s, none)
    split
    · exact upkeep_outWord ..
    · rfl
  split
  · exact (upkeep_appendFault ..).trans hwords
  · exact hwords

theorem upkeep_testBarriers (s : State) (g : Nat) : upkeep (testBarriers s g) = upkeep s :=
  foldl_keeps upkeep _ (fun s e => by
    unfold testBarrier
    dsimp only
    split
    · split <;> rfl
    · rfl) _ _

theorem upkeep_releaseStorage (s : State) (g : Nat) : upkeep (releaseStorage s g) = upkeep s := by
  unfold releaseStorage
  dsimp only
  split <;> rfl

theorem upkeep_freeWarp (s : State) (w : Nat) : upkeep (freeWarp s w) = upkeep s := by
  unfold freeWarp
  split <;> rfl

theorem upkeep_reapWg (s : State) (g : Nat) : upkeep (reapWg s g) = upkeep s := by
  have h := foldl_keeps upkeep freeWarp upkeep_freeWarp (wgOf s g).warps s
  unfold reapWg
  dsimp only
  split <;> exact h

theorem upkeep_retireWg (s : State) (g : Nat) : upkeep (retireWg s g) = upkeep s := by
  unfold retireWg
  dsimp only
  split
  · rfl
  · generalize hs : (if (wgOf s g).seqi || (wgOf s g).discard || !countsForGrid s g then s else writeOut s g) = s1
    have hout : upkeep s1 = upkeep s := by
      rw [← hs]
      split
      · rfl
      · exact upkeep_writeOut ..
    have hdone : upkeep (releaseStorage (updWg s1 g fun w => { w with done := true }) g) = upkeep s :=
      (upkeep_releaseStorage ..).trans hout
    refine (upkeep_reapWg ..).trans ?_
    split
    · exact hdone
    · split <;> exact hdone

theorem upkeep_endThread (s : State) (m : Member) : upkeep (endThread s m) = upkeep s :=
  (upkeep_reapWg ..).trans ((upkeep_retireWg ..).trans (upkeep_testBarriers ..))

end Sys2Proof.Machine

/-! ## A trap kept by a second entry of the warp (O52)

R338 has a trap that was kept behind the answered one taken next. In a table that lists a warp twice, which no run makes, the end of the
first entry's threads leaves the second, whose kept trap is then taken: the warp is trapped, though the first entry kept none. -/

namespace Sys2Proof.Machine

/-! ### What awaits the answer of a record, as an instruction ends (R356) -/

/-- What awaits the answer of a record, by part. -/
def awaitsOf (s : State) (k : Nat) : List (Nat × Await) := (partOf s k).awaits

theorem awaitsOf_of_upkeep {s u : State} (h : upkeep u = upkeep s) : awaitsOf u = awaitsOf s := by
  have hread : ∀ v, awaitsOf v = fun k => (((upkeep v).1 k).map Prod.fst).getD [] := fun v => funext fun k => by
    show (tblGet v.parts k).awaits = _
    rw [tblGet, upkeep, Option.map_map]
    cases tblGet? v.parts k <;> rfl
  rw [hread, hread, h]

theorem awaitsOf_toSuccessor (s : State) (g : Group) (m : Member) : awaitsOf (toSuccessor s g m) = awaitsOf s := by
  unfold toSuccessor
  split
  · exact awaitsOf_of_upkeep (upkeep_endThread ..)
  · rfl

theorem awaitsOf_endClause (s : State) (g : Group) : awaitsOf (endClause s g) = awaitsOf s := by
  have hmembers := foldl_keeps awaitsOf _ (fun s m => awaitsOf_toSuccessor s g m) g.mem (dropGroup s)
  unfold endClause yieldWarps
  split
  · exact (foldl_keeps awaitsOf yieldWarp (fun _ _ => rfl) _ _).trans hmembers
  · exact hmembers

theorem awaitsOf_retire (s : State) : awaitsOf (retire s) = awaitsOf s := by
  unfold retire
  split
  · rfl
  · split
    · rfl
    · split
      · rfl
      · exact awaitsOf_endClause ..

theorem awaitsOf_writeD (s : State) (x : Slot) (vals : List (Member × Val)) : awaitsOf (writeD s x vals) = awaitsOf s := by
  have h := congrArg State.parts ((sameFrame_writeD s x vals).rest s.warps)
  have hc := congrArg State.ctxs ((sameFrame_writeD s x vals).rest s.warps)
  exact awaitsOf_of_upkeep (upkeep_of_tables h hc)

theorem awaitsOf_forward (s : State) (m : Member) (v : Val) : awaitsOf (forward s m v) = awaitsOf s := by
  unfold forward
  split
  · refine foldl_keeps awaitsOf _ (fun _ _ => ?_) _ s
    rfl
  · rfl

theorem awaitsOf_eretOne (s : State) (w action : Nat) (pc : Pair) (lanes : Nat) : awaitsOf (eretOne s w action pc lanes) = awaitsOf s := by
  unfold eretOne
  dsimp only
  split
  · refine foldl_keeps awaitsOf _ (fun _ _ => ?_) _ (resumeOne s w)
    rfl
  · split
    · exact foldl_keeps awaitsOf _ (fun s l => awaitsOf_of_upkeep (upkeep_endThread s ⟨l, w⟩)) _ (resumeOne s w)
    · rfl

/-! ### The trap that was kept (R338) -/

/-- A warp of the table is one of its own replicas. -/
theorem mem_replicaWarps (s : State) (w : Nat) (h : (tblGet? s.warps w).isSome = true) : w ∈ replicaWarps s w := by
  obtain ⟨x, hx⟩ := Option.isSome_iff_exists.1 h
  have hof : warpOf s w = x := by rw [warpOf, tblGet, hx, Option.getD_some]
  unfold replicaWarps
  dsimp only
  split
  · exact List.mem_singleton_self w
  · refine List.mem_map.2 ⟨(w, x), List.mem_filter.2 ⟨mem_of_tblGet? hx, ?_⟩, rfl⟩
    simp [wgOfWarp, hof]

/-- Warps trapped one after another: one of them, or one trapped before, is trapped. -/
theorem trapped_foldl (f : State → Warp → Warp) (hf : ∀ s x, (f s x).trapped = true) (w : Nat) (l : List Nat) (s : State) (hw : warpIn s w)
    (h : w ∈ l ∨ (warpOf s w).trapped = true) : (warpOf (l.foldl (fun s v => updWarp s v (f s)) s) w).trapped = true := by
  induction l generalizing s with
  | nil => exact h.resolve_left (List.not_mem_nil)
  | cons v t ih =>
    refine ih _ ((warpIn_updWarp ..).2 hw) ?_
    by_cases hv : v = w
    · subst hv
      right
      rw [warpOf_updWarp_self _ _ _ hw, hf]
    · rw [warpOf_updWarp_ne _ _ _ _ hv]
      exact h.imp_left fun hm => (List.mem_cons.1 hm).resolve_left (Ne.symm hv)

theorem trapped_trapWarp (s : State) (w : Nat) (r : FaultRec) (h : warpIn s w) : (warpOf (trapWarp s w r) w).trapped = true := by
  have hrecorded : ∀ (k seq : Nat) (a : Await), warpIn (addAwait (appendFault s k r) k seq a) w := fun k seq a => by
    show (tblGet? (appendFault s k r).warps w).isSome = true
    rwa [(systemFrame_appendFault s k r).warps]
  unfold trapWarp
  exact trapped_foldl _ (fun _ _ => rfl) w _ _ (hrecorded ..) (.inl (mem_replicaWarps s w h))

/-- A trap that was kept is taken: the warp is trapped. -/
theorem trapped_nextTrap (s : State) (w : Nat) (h : (warpOf s w).later ≠ []) : (warpOf (nextTrap s w) w).trapped = true := by
  have hw : warpIn s w := by
    by_contra hn
    exact h (congrArg Warp.later (warpOf_of_not_in s w hn))
  unfold nextTrap
  split
  case h_1 hnone => exact absurd hnone h
  case h_2 r t _ => exact trapped_trapWarp _ _ _ ((warpIn_updWarp ..).2 hw)

/-- Without a kept trap nothing more awaits an answer. -/
theorem awaitsOf_nextTrap (s : State) (w : Nat) (h : (warpOf s w).later = []) : awaitsOf (nextTrap s w) = awaitsOf s := by
  unfold nextTrap
  rw [h]

/-- The end of a return adds nothing to what awaits an answer. -/
theorem awaitsOf_returned (u : State) (m : Member) (d : Val) (x : Slot) (vals : List (Member × Val)) :
    awaitsOf (retire (writeD (forward u m d) x vals)) = awaitsOf u :=
  (awaitsOf_retire ..).trans ((awaitsOf_writeD ..).trans (awaitsOf_forward ..))

/-- Where a warp's return adds to what awaits an answer, the warp has been trapped anew. -/
theorem trapped_of_awaits {v : State} {w action k lanes : Nat} {pc : Pair}
    (h : awaitsOf (nextTrap (eretOne v w action pc lanes) w) k ≠ awaitsOf v k) :
    (warpOf (nextTrap (eretOne v w action pc lanes) w) w).trapped = true := by
  refine trapped_nextTrap _ _ fun hlater => h ?_
  rw [awaitsOf_nextTrap _ _ hlater, awaitsOf_eretOne]

/-! ### A warp that stands in two entries -/

/-- A thread of warp 4 is at an `ERET` that answers SEQ 1 with action 2 for lane 0. Warp 5, trapped under that SEQ, stands in two entries:
the first has its one thread and keeps no trap, the second has no thread and keeps one. -/
def twiceTrapped : State :=
  { pkgs := [(0, { full := true, dies := [0, 1, 2, 3] })]
    ctxs := [(1, {})]
    parts := [(8192, { ncores := 1, tlb := [{ size := 0x200000, rd := true }], awaits := [(1, .warp 5)] })]
    lcores := [(16777216, { pcore := some 0 })]
    wgs := [(3, { ctx := 1, lcore := 16777216, warps := [4, 5] })]
    warps := [(4, { ctx := 1, wg := 3, vr := [(64, 0x2000)], lanes := [(0, {})] }),
              (5, { ctx := 1, wg := 3, lanes := [(0, {})], trapped := true, trapSeq := 1 }), (5, { ctx := 1, wg := 3, later := [{}] })]
    groups := [(0, loneGroup)]
    mem := [(0x2000, 1), (0x200A, 2), (0x2018, 1)]
    nextId := 10 }

/-- The return, with the block's address in v2 and v3. -/
def endingReturn : Instr := .eret 7 4 1

theorem actors_twiceTrapped : actors twiceTrapped loneGroup endingReturn = [loneMember] := by decide
theorem ready_twiceTrapped : Claims.Ready twiceTrapped loneGroup endingReturn :=
  ⟨rfl, by unfold Unreplicated; decide, by unfold OperandsPass; decide⟩

/-- The trap of the second entry awaits an answer afterwards. -/
theorem awaits_after_return : (match exec endingReturn twiceTrapped with
    | .next u => !(awaitsOf u 8192).isEmpty
    | _ => false) = true := by decide +kernel

theorem not_resumes : ¬ Claims.Resumes := by
  intro h
  obtain ⟨-, hwarp⟩ := h 7 4 1 twiceTrapped loneGroup loneMember 8192 ready_twiceTrapped actors_twiceTrapped rfl (by decide +kernel)
    (by decide +kernel) (by decide +kernel)
  obtain ⟨u, v, hexec, hawaits, hu, -, hnone, -⟩ := hwarp 5 (by decide +kernel) rfl rfl (by decide +kernel)
  have hcleared : awaitsOf v 8192 = [] := by
    refine Eq.trans hawaits ?_
    decide +kernel
  have hafter := awaits_after_return
  rw [show exec endingReturn twiceTrapped = _ from hexec] at hafter
  dsimp only at hafter
  rw [awaitsOf_returned, Bool.not_eq_true', List.isEmpty_eq_false_iff, ← hcleared, hu] at hafter
  obtain ⟨hfree, -⟩ := hnone rfl
  rw [hu, trapped_of_awaits hafter] at hfree
  exact absurd hfree (by decide)

end Sys2Proof.Machine

section
open Sys2Proof Sys2Proof.Machine

/-- Refutes O52: where the table lists the returning warp twice, the end of the first entry's thread leaves the second, whose kept trap is
then taken, though the first kept none. -/
theorem not_trapReturns : ¬ Obligations.TrapReturns := not_resumes

end

/-! ## Cuts (O55)

A cut changes what the Surveyor has of a context, and its parts' lists; memory changes by the records that it writes. -/

namespace Sys2Proof.Machine

/-- Where a property holds along a fold, and the step of one value of the list gives another that later steps keep, the fold gives it. -/
theorem foldl_reaches {α β : Type} {along reached : α → Prop} (f : α → β → α) (x : β) (halong : ∀ a y, along a → along (f a y))
    (hreach : ∀ a, along a → reached (f a x)) (hkeep : ∀ a y, reached a → reached (f a y)) :
    ∀ (l : List β) (a : α), x ∈ l → along a → reached (l.foldl f a)
  | y :: t, a, hx, ha => by
    have hrest : ∀ (l : List β) (b : α), reached b → reached (l.foldl f b) := fun l => by
      induction l with
      | nil => exact fun _ hb => hb
      | cons z l ih => exact fun b hb => ih _ (hkeep b z hb)
    rcases List.mem_cons.1 hx with rfl | ht
    · exact hrest t _ (hreach a ha)
    · exact foldl_reaches f x halong hreach hkeep t _ ht (halong a y ha)

/-! ### A context and its parts -/

/-- A part of a context is listed, and its number names the context. -/
theorem listed_of_partsOfCtx {s : State} {x k : Nat} (h : k ∈ partsOfCtx s x) : (tblGet? s.parts k).isSome = true ∧ k / 8192 = x := by
  obtain ⟨e, he, rfl⟩ := List.mem_map.1 h
  obtain ⟨hmem, hx⟩ := List.mem_filter.1 he
  exact ⟨isSome_tblGet?_of_mem hmem, beq_iff_eq.1 hx⟩

theorem mem_partsOfCtx_of_surveyed {s : State} {x k : Nat} (h : k ∈ surveyed s x) : k ∈ partsOfCtx s x := (List.mem_filter.1 h).1

theorem partOf_updPart_self {s : State} {k : Nat} (f : Part → Part) (h : (tblGet? s.parts k).isSome = true) :
    partOf (updPart s k f) k = f (partOf s k) := by
  rw [partOf, updPart, tblGet_tblUpd, if_pos ⟨rfl, h⟩]
  rfl

theorem isSome_parts_updPart (s : State) (j k : Nat) (f : Part → Part) :
    (tblGet? (updPart s j f).parts k).isSome = (tblGet? s.parts k).isSome := by
  rw [updPart, tblGet?_tblUpd]
  split
  · rw [Option.isSome_map]
  · rfl

/-- The Surveyor's state of a context that has one is that of a listed context. -/
theorem listed_of_ckpt {s : State} {x : Nat} {c : Ckpt} (h : (ctxOf s x).ckpt = some c) : (tblGet? s.ctxs x).isSome = true := by
  rw [ctxOf, tblGet] at h
  cases hx : tblGet? s.ctxs x with
  | none => rw [hx] at h; exact absurd h.symm (Option.some_ne_none c)
  | some v => rfl

theorem ckptOf_of_ckpt {s : State} {x : Nat} {c : Ckpt} (h : (ctxOf s x).ckpt = some c) : ckptOf s x = c := by
  rw [ckptOf, h, Option.getD_some]

theorem ckpt_updCkpt {s : State} {x : Nat} {c : Ckpt} (f : Ckpt → Ckpt) (h : (ctxOf s x).ckpt = some c) :
    (ctxOf (updCkpt s x f) x).ckpt = some (f c) := by
  rw [ctxOf, updCkpt, updCtx, tblGet_tblUpd, if_pos ⟨rfl, listed_of_ckpt h⟩]
  show (ctxOf s x).ckpt.map f = _
  rw [h, Option.map_some]

/-- The Surveyor's state through its upkeep: the same but for the bits that writes set. -/
theorem ckpt_of_upkeep {s u : State} {x : Nat} {c : Ckpt} (hu : (upkeep u).2 x = (upkeep s).2 x) (h : (ctxOf s x).ckpt = some c) :
    ∃ d, (ctxOf u x).ckpt = some d ∧ bareCkpt d = bareCkpt c := by
  have hread : ∀ v, (ctxOf v x).ckpt.map bareCkpt = ((upkeep v).2 x).getD none := fun v => by
    show (tblGet v.ctxs x).ckpt.map bareCkpt = _
    rw [tblGet, upkeep]
    dsimp only
    cases tblGet? v.ctxs x <;> rfl
  have hmap := (hread u).trans ((congrArg (Option.getD · none) hu).trans (hread s).symm)
  rw [h, Option.map_some] at hmap
  exact Option.map_eq_some_iff.1 hmap

/-! ### Records in the area, and what a save costs (R365, R367) -/

/-- A record that the area takes fits below FLOOR, and is placed. -/
theorem placed_of_appendRecord {s v : State} {k : Nat} {b : List Byte} (h : appendRecord s k b = .ok v) :
    b.length < ringRoom s k (descNat s k 0x38 8) ∧ v = placeRecord s k b := by
  unfold appendRecord at h
  split at h
  · cases h
  · split at h
    · cases h
    next hroom => exact ⟨not_le.1 hroom, (Except.ok.inj h).symm⟩

theorem warps_putNat (s : State) (a n v : Nat) : (putNat s a n v).warps = s.warps := (systemFrame_putNat s a n v).warps
theorem parts_putNat (s : State) (a n v : Nat) : (putNat s a n v).parts = s.parts := parts_putHome ..

theorem warps_putRing (s : State) (k off : Nat) (b : List Byte) : (putRing s k off b).warps = s.warps := by
  unfold putRing
  exact ((systemFrame_putHome ..).trans (systemFrame_putHome ..)).warps

theorem parts_putRing (s : State) (k off : Nat) (b : List Byte) : (putRing s k off b).parts = s.parts := by
  unfold putRing
  exact (parts_putHome ..).trans (parts_putHome ..)

theorem warps_placeRecord (s : State) (k : Nat) (b : List Byte) : (placeRecord s k b).warps = s.warps := by
  unfold placeRecord
  dsimp only
  rw [updPart]
  dsimp only
  rw [warps_putNat, warps_putRing]

/-- The list of units of a part that a record placed for it leaves. -/
theorem todo_placeRecord (s : State) (k : Nat) (b : List Byte) (h : (tblGet? s.parts k).isSome = true) :
    (tblGet? (placeRecord s k b).parts k).isSome = true ∧ (partOf (placeRecord s k b) k).todo = (partOf s k).todo := by
  unfold placeRecord
  dsimp only
  generalize hv : putNat (putRing s k (descNat s k 0x38 8) b) _ _ _ = v
  have hparts : v.parts = s.parts := by
    rw [← hv, parts_putNat, parts_putRing]
  rw [← hparts] at h
  refine ⟨(isSome_parts_updPart ..).trans h, ?_⟩
  rw [partOf_updPart_self _ h, partOf, partOf, hparts]

theorem recordPlaced : Claims.RecordPlaced := by
  intro s v k b h
  obtain ⟨hroom, rfl⟩ := placed_of_appendRecord h
  exact ⟨hroom, rfl, sameRegisters_of_warps (warps_placeRecord s k b)⟩

/-- One part's `SAVECOST`, with when it is to be renewed. -/
def priced (n : Nat) (s : State) (k : Nat) : State :=
  updPart s k fun p => { p with savecost := BitVec.ofNat 48 n, costAt := s.clk + 2 ^ 16 }

/-- A part has its price from an instant. -/
def HasPrice (n clk k : Nat) (s : State) : Prop :=
  s.clk = clk ∧ (tblGet? s.parts k).isSome = true ∧ (partOf s k).savecost = BitVec.ofNat 48 n ∧ (partOf s k).costAt = clk + 2 ^ 16

theorem hasPrice_priced {n clk k : Nat} (s : State) (j : Nat) (h : HasPrice n clk k s) : HasPrice n clk k (priced n s j) := by
  obtain ⟨hclk, hin, hcost, hat⟩ := h
  refine ⟨hclk, (isSome_parts_updPart ..).trans hin, ?_⟩
  rw [priced, partOf, updPart, tblGet_tblUpd]
  split
  · exact ⟨rfl, congrArg (· + 2 ^ 16) hclk⟩
  · exact ⟨hcost, hat⟩

theorem hasPrice_foldl (n : Nat) (s : State) (k : Nat) (l : List Nat) (hk : k ∈ l) (h : (tblGet? s.parts k).isSome = true) :
    HasPrice n s.clk k (l.foldl (priced n) s) := by
  refine foldl_reaches (along := fun v => v.clk = s.clk ∧ (tblGet? v.parts k).isSome = true) (priced n) k
    (fun v j hv => ⟨show v.clk = s.clk from hv.1, (isSome_parts_updPart ..).trans hv.2⟩) (fun v hv => ?_) hasPrice_priced l s hk ⟨rfl, h⟩
  obtain ⟨hclk, hin⟩ := hv
  refine ⟨hclk, (isSome_parts_updPart ..).trans hin, ?_⟩
  rw [priced, partOf_updPart_self _ hin]
  exact ⟨rfl, congrArg (· + 2 ^ 16) hclk⟩

theorem costUpdates : Claims.CostUpdates := by
  intro s hdue
  have hparts : (costUpdate s s.arg.a).parts =
      ((partsOfCtx s s.arg.a).foldl (priced ((partsOfCtx s s.arg.a).map fun k => usedOf s k).sum) s).parts :=
    foldl_keeps State.parts _ (fun _ _ => parts_putNat ..) _ _
  have hwarps : (costUpdate s s.arg.a).warps = s.warps :=
    (foldl_keeps State.warps _ (fun _ _ => warps_putNat ..) _ _).trans (foldl_keeps State.warps (priced _) (fun _ _ => rfl) _ _)
  refine ⟨costUpdate s s.arg.a, if_pos hdue, sameRegisters_of_warps hwarps, fun k hk => ?_⟩
  obtain ⟨-, -, hcost, hat⟩ := hasPrice_foldl _ s k _ hk (listed_of_partsOfCtx hk).1
  rw [partOf, hparts]
  exact ⟨hcost, hat⟩

/-! ### A cut from its instant to its last manifest (R361 to R365) -/

theorem parts_unitWritten (v : State) (k : Nat) (e : Nat × Nat) :
    (unitWritten v k e).parts = (updPart v k fun p => { p with todo := p.todo.filter (· != e) }).parts := by
  unfold unitWritten
  dsimp only
  split <;> rfl

/-- The unit of a record that the area takes is listed no longer. -/
theorem todo_unitWritten {s v : State} {k : Nat} {b : List Byte} (e : Nat × Nat) (h : appendRecord s k b = .ok v)
    (hk : (tblGet? s.parts k).isSome = true) : (partOf (unitWritten v k e) k).todo = (partOf s k).todo.filter fun y => y != e := by
  have hplaced := todo_placeRecord s k b hk
  rw [← (placed_of_appendRecord h).2] at hplaced
  obtain ⟨hin, htodo⟩ := hplaced
  rw [← htodo, partOf, parts_unitWritten]
  exact congrArg Part.todo (partOf_updPart_self _ hin)

/-- A memory unit of a context that is in the area is protected no longer. -/
theorem not_protected_unitWritten {v : State} {k b x : Nat} (hx : k / 8192 = x) : (b, x) ∉ (unitWritten v k (2, b)).protU := by
  subst hx
  intro hmem
  have hne := (List.mem_filter.1 hmem).2
  simp at hne

theorem writeUnit_taken {s v : State} {x k : Nat} {e : Nat × Nat} (h : appendRecord s k (unitRecord s k (ckptOf s x).cut e) = .ok v) :
    writeUnit s x k e = unitWritten v k e := by
  unfold writeUnit
  rw [h]

theorem writeUnit_refused {s : State} {x k : Nat} {e : Nat × Nat} {c : Cause}
    (h : appendRecord s k (unitRecord s k (ckptOf s x).cut e) = .error c) : writeUnit s x k e = failCut s x k c := by
  unfold writeUnit
  rw [h]

/-- The next record of a cut is one of a surveyed part of its context. -/
theorem surveyed_of_nextRecord {s : State} {x k : Nat} {r : Option (Nat × Nat)} (h : nextRecord? s x = some (k, r)) : k ∈ surveyed s x := by
  obtain ⟨j, hj, hrec⟩ := List.exists_of_findSome?_eq_some h
  split at hrec
  · cases hrec; exact hj
  · split at hrec
    · cases hrec
    · cases hrec; exact hj

theorem exec_cutRecordWrite_unit {s : State} {k : Nat} {e : Nat × Nat} (h2 : (ckptOf s s.arg.a).phase = 2)
    (hn : nextRecord? s s.arg.a = some (k, some e)) : exec .cutRecordWrite s = .next (writeUnit s s.arg.a k e) := by
  show execCutRecordWrite s = _
  unfold execCutRecordWrite
  rw [if_pos h2, hn]

theorem exec_cutRecordWrite_manifest {s : State} {k : Nat} (h2 : (ckptOf s s.arg.a).phase = 2)
    (hn : nextRecord? s s.arg.a = some (k, none)) : exec .cutRecordWrite s = .next (
      if (ckptOf (writeManifest s s.arg.a k) s.arg.a).phase = 2 ∧ (nextRecord? (writeManifest s s.arg.a k) s.arg.a).isNone = true then
        updCkpt (writeManifest s s.arg.a k) s.arg.a fun c => { c with phase := 3 } else writeManifest s s.arg.a k) := by
  show execCutRecordWrite s = _
  unfold execCutRecordWrite
  rw [if_pos h2, hn]

theorem exec_cutInstant {s v : State} {k : Nat} (hdue : instantDue s s.arg.a = true) (hone : surveyed s s.arg.a = [k])
    (hv : snapPart { s with snaps := tblSet s.snaps (2 * s.arg.a + 1) (snapTables s s.arg.a) } k = .ok v)
    (h1 : (ckptOf v s.arg.a).phase = 1) (hcut : (ckptOf v s.arg.a).cut = (ckptOf s s.arg.a).cut) :
    exec .cutInstant s = .next (resumeCores (updCkpt v s.arg.a fun c => { c with phase := 2, since := some [] }) s.arg.a) := by
  have hsnap : snapParts s.arg.a (surveyed s s.arg.a) { s with snaps := tblSet s.snaps (2 * s.arg.a + 1) (snapTables s s.arg.a) } = v := by
    rw [hone, snapParts, hv]
    rfl
  refine (if_pos hdue).trans (congrArg Host.Outcome.next ?_)
  unfold cutInstant
  rw [hsnap]
  exact if_pos ⟨h1, hcut⟩

theorem exec_protectedUnitWrite {s : State} {k : Nat} (h2 : (ckptOf s s.arg.a).phase = 2)
    (hk : ((surveyed s s.arg.a).find? fun k => (partOf s k).todo.contains (2, s.arg.b)) = some k) :
    exec .protectedUnitWrite s = .next (writeUnit s s.arg.a k (2, s.arg.b)) := by
  show execProtectedUnitWrite s = _
  unfold execProtectedUnitWrite
  rw [if_pos h2, hk]

theorem exec_streamUnitWrite {s v : State} {k : Nat} (h0 : (ckptOf s s.arg.a).phase = 0)
    (hidle : ∀ k ∈ partsOfCtx s s.arg.a, (partOf s k).idle = false) (hk : streamPart? s s.arg.a s.arg.b = some k)
    (hv : appendRecord s k (unitRecord s k (ckptOf s s.arg.a).nextCut (2, s.arg.b)) = .ok v) :
    exec .streamUnitWrite s = .next (unitWritten v k (2, s.arg.b)) := by
  have hrun : (partsOfCtx s s.arg.a).any (fun k => (partOf s k).idle) = false := List.any_eq_false.2 fun j hj => by simp [hidle j hj]
  show execStreamUnitWrite s = _
  unfold execStreamUnitWrite streamWrite?
  rw [if_pos ⟨h0, by rw [hrun]; rfl⟩, hk]
  dsimp only
  rw [hv]

/-! ### A durable cut (R365, R378) -/

theorem warps_serveWaits (s : State) (x n : Nat) : (serveWaits s x n).warps = s.warps :=
  foldl_keeps State.warps (fun v (e : Nat × Nat × Nat) => completeNumber v x e.1 e.2.1) (fun _ _ => rfl) _ _

theorem protU_serveWaits (s : State) (x n : Nat) : (serveWaits s x n).protU = s.protU :=
  foldl_keeps State.protU (fun v (e : Nat × Nat × Nat) => completeNumber v x e.1 e.2.1) (fun _ _ => rfl) _ _

theorem upkeep_completeNumber (s : State) (x k n : Nat) : upkeep (completeNumber s x k n) = upkeep s := upkeep_updCtx _ _ _ fun _ => rfl

/-- The numbers that a cut serves wait no longer. -/
theorem ckpt_serveWaits {s : State} {x n : Nat} {c : Ckpt} (h : (ctxOf s x).ckpt = some c) :
    ∃ d, (ctxOf (serveWaits s x n) x).ckpt = some d ∧
      bareCkpt d = bareCkpt { c with waits := c.waits.filter fun e => decide (n < e.2.2) } := by
  refine ckpt_of_upkeep (congrFun (congrArg Prod.snd ?_) x) (ckpt_updCkpt (fun c => { c with waits := c.waits.filter fun e => decide (n < e.2.2) }) h)
  exact foldl_keeps upkeep _ (fun _ _ => upkeep_completeNumber ..) _ _

/-- A part without a cut's lists. -/
def cutCleared (s : State) (k : Nat) : State := updPart s k fun p => { p with todo := [], written := 0, manifested := false }

/-- A cut is over and its parts' lists are empty; requests may wait for the next one. -/
def cutServed (s : State) (x n : Nat) : State :=
  serveWaits (updCkpt ((surveyed s x).foldl cutCleared { s with protU := s.protU.filter fun e => e.2 != x }) x fun k => { k with phase := 0 }) x n

/-- The end of a cut: where no request waits, no other cut begins. -/
theorem closeCut_eq (s : State) (x n : Nat) :
    closeCut s x n = if (ckptOf (cutServed s x n) x).want then beginCut (cutServed s x n) x else cutServed s x n := rfl

theorem warps_cutServed (s : State) (x n : Nat) : (cutServed s x n).warps = s.warps :=
  (warps_serveWaits ..).trans (foldl_keeps State.warps cutCleared (fun _ _ => rfl) _ _)

theorem protU_cutServed (s : State) (x n : Nat) : (cutServed s x n).protU = s.protU.filter fun e => e.2 != x :=
  (protU_serveWaits ..).trans (foldl_keeps State.protU cutCleared (fun _ _ => rfl) _ _)

theorem ckpt_cutServed {s : State} {x n : Nat} {c : Ckpt} (h : (ctxOf s x).ckpt = some c) :
    ∃ d, (ctxOf (cutServed s x n) x).ckpt = some d ∧
      bareCkpt d = bareCkpt { c with phase := 0, waits := c.waits.filter fun e => decide (n < e.2.2) } := by
  have hcleared : ((surveyed s x).foldl cutCleared { s with protU := s.protU.filter fun e => e.2 != x }).ctxs = s.ctxs :=
    foldl_keeps State.ctxs cutCleared (fun _ _ => rfl) _ _
  refine ckpt_serveWaits (ckpt_updCkpt (fun k => { k with phase := 0 }) ?_)
  rwa [ctxOf, hcleared]

/-- LASTCUT of every part of the context, and the tables that the cut kept. -/
def cutNoted (s : State) (x n : Nat) : State :=
  let s1 := (surveyed s x).foldl (fun s k => putNat s ((partOf s k).desc + 0x40) 8 n) s
  updCkpt { s1 with snaps := tblSet s1.snaps (2 * x) (tblGet s1.snaps (2 * x + 1)) } x fun k => { k with lastCut := n }

theorem cutDurable_eq (s : State) (x : Nat) : cutDurable s x = closeCut (cutNoted s x (ckptOf s x).cut) x (ckptOf s x).cut := rfl

theorem warps_cutNoted (s : State) (x n : Nat) : (cutNoted s x n).warps = s.warps :=
  foldl_keeps State.warps (fun s k => putNat s ((partOf s k).desc + 0x40) 8 n) (fun _ _ => warps_putNat ..) (surveyed s x) s

theorem ckpt_cutNoted {s : State} {x n : Nat} {c : Ckpt} (h : (ctxOf s x).ckpt = some c) :
    ∃ d, (ctxOf (cutNoted s x n) x).ckpt = some d ∧ bareCkpt d = bareCkpt { c with lastCut := n } := by
  have hput := foldl_keeps upkeep (fun s k => putNat s ((partOf s k).desc + 0x40) 8 n) (fun _ _ => upkeep_putNat ..) (surveyed s x) s
  obtain ⟨d, hd, hbare⟩ := ckpt_of_upkeep (congrFun (congrArg Prod.snd hput) x) h
  refine ⟨{ d with lastCut := n }, ckpt_updCkpt (fun k => { k with lastCut := n }) ?_, congrArg (fun k => { k with lastCut := n }) hbare⟩
  exact hd

theorem cutDurable_closes {s : State} {c : Ckpt} {x : Nat} (h : (ctxOf s x).ckpt = some c) (hwant : c.want = false) :
    (ckptOf (cutDurable s x) x).lastCut = c.cut ∧ (ckptOf (cutDurable s x) x).phase = 0 ∧ (∀ e ∈ (cutDurable s x).protU, e.2 ≠ x) ∧
      (∀ e ∈ (ckptOf (cutDurable s x) x).waits, c.cut < e.2.2) ∧ SameRegisters s (cutDurable s x) := by
  obtain ⟨d, hd, hnoted⟩ := ckpt_cutNoted (n := c.cut) h
  obtain ⟨f, hf, hserved⟩ := ckpt_cutServed (n := c.cut) hd
  have hbare : bareCkpt f = bareCkpt { c with lastCut := c.cut, phase := 0, waits := c.waits.filter fun e => decide (c.cut < e.2.2) } := by
    have hrest := congrArg (fun k : Ckpt => { k with phase := 0, waits := k.waits.filter fun e => decide (c.cut < e.2.2) }) hnoted
    exact hserved.trans hrest
  have hend : cutDurable s x = cutServed (cutNoted s x c.cut) x c.cut := by
    have hw : f.want = false := (congrArg Ckpt.want hbare).trans hwant
    rw [cutDurable_eq, ckptOf_of_ckpt h, closeCut_eq, ckptOf_of_ckpt hf, hw]
    rfl
  rw [hend, ckptOf_of_ckpt hf, protU_cutServed]
  refine ⟨congrArg Ckpt.lastCut hbare, congrArg Ckpt.phase hbare, fun e he => bne_iff_ne.1 (List.mem_filter.1 he).2, fun e he => ?_,
    sameRegisters_of_warps ((warps_cutServed ..).trans (warps_cutNoted ..))⟩
  rw [show f.waits = c.waits.filter fun e => decide (c.cut < e.2.2) from congrArg Ckpt.waits hbare] at he
  exact of_decide_eq_true (List.mem_filter.1 he).2

theorem cutsProceed : Claims.CutsProceed := by
  refine ⟨fun s v k => exec_cutInstant, fun s k e h2 hn => ⟨fun v hv => ?_, fun c hc => ?_⟩, fun s k => exec_cutRecordWrite_manifest,
    fun s c hc h3 hwant => ⟨cutDurable s s.arg.a, ?_, cutDurable_closes hc hwant⟩, fun s v k h2 hk hv => ?_, fun s v k => exec_streamUnitWrite⟩
  · have hin := (listed_of_partsOfCtx (mem_partsOfCtx_of_surveyed (surveyed_of_nextRecord hn))).1
    exact ⟨(exec_cutRecordWrite_unit h2 hn).trans (congrArg Host.Outcome.next (writeUnit_taken hv)), todo_unitWritten e hv hin⟩
  · exact (exec_cutRecordWrite_unit h2 hn).trans (congrArg Host.Outcome.next (writeUnit_refused hc))
  · exact if_pos ((congrArg Ckpt.phase (ckptOf_of_ckpt hc)).trans h3)
  · have hx := (listed_of_partsOfCtx (mem_partsOfCtx_of_surveyed (List.mem_of_find?_eq_some hk))).2
    exact ⟨(exec_protectedUnitWrite h2 hk).trans (congrArg Host.Outcome.next (writeUnit_taken hv)), not_protected_unitWritten hx⟩

/-! ### The request of a cut stops the cores of its context (R362) -/

/-- Whether each part is to stop, saved or frozen, and the Surveyor's state of each context. -/
def halting (s : State) : (Nat → Option (Bool × Bool × Bool)) × (Nat → Option (Option Ckpt)) :=
  (fun k => (tblGet? s.parts k).map fun p => (p.stopReq, p.saved, p.frozen), (upkeep s).2)

theorem halting_of_upkeep {s u : State} (h : upkeep u = upkeep s) : halting u = halting s := by
  have hread : ∀ v, halting v = (fun k => ((upkeep v).1 k).map Prod.snd, (upkeep v).2) := fun v => by
    refine Prod.ext (funext fun k => ?_) rfl
    rw [halting, upkeep]
    dsimp only
    rw [Option.map_map]
    rfl
  rw [hread, hread, h]

theorem halting_updPart (s : State) (j : Nat) (f : Part → Part) (h : ∀ p, ((f p).stopReq, (f p).saved, (f p).frozen) = (p.stopReq, p.saved, p.frozen)) :
    halting (updPart s j f) = halting s :=
  Prod.ext (funext fun k => map_tblGet?_tblUpd s.parts j f _ h k) rfl

theorem halting_trapWarp (s : State) (w : Nat) (r : FaultRec) : halting (trapWarp s w r) = halting s := by
  have hrecorded : ∀ k seq a, halting (addAwait (appendFault s k r) k seq a) = halting s := fun k seq a =>
    (halting_updPart _ _ (fun p => { p with awaits := p.awaits ++ [(seq, a)] }) fun _ => rfl).trans (halting_of_upkeep (upkeep_appendFault ..))
  unfold trapWarp
  dsimp only
  refine (foldl_keeps halting _ (fun _ _ => ?_) _ _).trans (hrecorded ..)
  rfl

theorem halting_endAhead (s : State) (w : Nat) : halting (endAhead s w) = halting s := by
  unfold endAhead
  split
  · rfl
  · dsimp only
    split
    · rfl
    · exact halting_trapWarp ..

theorem halting_pullFromGroups (s : State) (w : Nat) : halting (pullFromGroups s w) = halting s :=
  foldl_keeps halting (fun s (e : Nat × Group) => (e.2.mem.filter fun (m : Member) => m.warp == w).foldl (fun s m => standBefore s e.2 m) s)
    (fun s e => foldl_keeps halting (fun s m => standBefore s e.2 m) (fun _ _ => rfl) _ s) s.groups s

theorem halting_stopThread (s : State) (m : Member) : halting (stopThread s m) = halting s := by
  unfold stopThread
  split
  · exact halting_of_upkeep (upkeep_endThread ..)
  · rfl

theorem halting_requestStop (s : State) (w : Nat) : halting (requestStop s w) = halting s := by
  unfold requestStop
  dsimp only
  generalize hv : (if (warpOf (endAhead s w) w).stopAt.isSome then endAhead s w
      else updWarp (endAhead s w) w fun x => { x with stopAt := some s.clk }) = v
  have hmarked : halting v = halting s := by
    rw [← hv]
    split <;> exact halting_endAhead ..
  refine (foldl_keeps halting stopThread halting_stopThread _ _).trans ?_
  split
  · exact (halting_pullFromGroups ..).trans hmarked
  · exact hmarked

/-- A part asked to stop is marked so; nothing else of that changes. -/
theorem halting_stopPart (s : State) (j : Nat) : halting (stopPart s j) = halting (updPart s j fun p => { p with stopReq := true }) :=
  foldl_keeps halting requestStop halting_requestStop _ _

/-- One part of a context whose cut begins: it is to stop, where it is neither saved nor frozen. -/
def cutStop (s : State) (k : Nat) : State := if (partOf s k).saved || (partOf s k).frozen then s else stopPart s k

theorem ckpt_cutStop (s : State) (j : Nat) : (upkeep (cutStop s j)).2 = (upkeep s).2 := by
  unfold cutStop
  split
  · rfl
  · have h := congrArg Prod.snd (halting_stopPart s j)
    exact h

/-- A part that runs, or is to stop. -/
def Runs (k : Nat) (b : Bool) (s : State) : Prop := (halting s).1 k = some (b, false, false)

theorem halting_updPart_stopReq (s : State) (j k : Nat) : (halting (updPart s j fun p => { p with stopReq := true })).1 k =
    if j = k then ((halting s).1 k).map (fun e => (true, e.2)) else (halting s).1 k := by
  simp only [halting, updPart, tblGet?_tblUpd]
  split
  · rw [Option.map_map, Option.map_map]
    rfl
  · rfl

theorem partOf_of_runs {s : State} {k : Nat} {b : Bool} (h : Runs k b s) :
    (partOf s k).stopReq = b ∧ (partOf s k).saved = false ∧ (partOf s k).frozen = false := by
  obtain ⟨p, hp, hread⟩ := Option.map_eq_some_iff.1 h
  simp only [Prod.mk.injEq] at hread
  rw [partOf, tblGet, hp, Option.getD_some]
  exact hread

theorem runs_of_partOf {s : State} {k : Nat} (hin : (tblGet? s.parts k).isSome = true) (hsaved : (partOf s k).saved = false)
    (hfrozen : (partOf s k).frozen = false) : Runs k (partOf s k).stopReq s := by
  obtain ⟨p, hp⟩ := Option.isSome_iff_exists.1 hin
  have hof : partOf s k = p := by rw [partOf, tblGet, hp, Option.getD_some]
  rw [hof] at hsaved hfrozen ⊢
  show (tblGet? s.parts k).map _ = _
  rw [hp, Option.map_some, hsaved, hfrozen]

theorem runs_cutStop {s : State} {k : Nat} {b : Bool} (j : Nat) (h : Runs k b s) : Runs k (b || j == k) (cutStop s j) := by
  unfold Runs cutStop
  by_cases hj : j = k
  · subst hj
    obtain ⟨-, hsaved, hfrozen⟩ := partOf_of_runs h
    rw [hsaved, hfrozen, Bool.or_false, if_neg (by decide), halting_stopPart, halting_updPart_stopReq, if_pos rfl, h]
    simp
  · rw [beq_false_of_ne hj, Bool.or_false]
    split
    · exact h
    · rw [halting_stopPart, halting_updPart_stopReq, if_neg hj]
      exact h

/-- Every part of the list that runs is to stop afterwards. -/
theorem runs_foldl_cutStop {s : State} {k : Nat} {b : Bool} {l : List Nat} (hk : k ∈ l) (h : Runs k b s) : Runs k true (l.foldl cutStop s) := by
  refine foldl_reaches (along := fun v => ∃ b, Runs k b v) (reached := Runs k true) cutStop k (fun v j hv => ?_) (fun v hv => ?_) (fun v j hv => runs_cutStop j hv)
    l s hk ⟨b, h⟩
  · obtain ⟨b, hb⟩ := hv
    exact ⟨_, runs_cutStop j hb⟩
  · obtain ⟨b, hb⟩ := hv
    have hstop := runs_cutStop k hb
    rwa [beq_self_eq_true, Bool.or_true] at hstop

/-- A cut that begins: its number, its phase, and the parts that are to stop. -/
theorem beginCut_begins {s : State} {x : Nat} {c : Ckpt} (h : (ctxOf s x).ckpt = some c) :
    (ckptOf (beginCut s x) x).phase = 1 ∧ (ckptOf (beginCut s x) x).cut = c.nextCut ∧ (ckptOf (beginCut s x) x).nextCut = c.nextCut + 1 ∧
      ∀ k ∈ partsOfCtx s x, (partOf s k).saved = false → (partOf s k).frozen = false → (partOf (beginCut s x) k).stopReq = true := by
  let begun := updCkpt s x fun k => { k with cut := k.nextCut, phase := 1, nextCut := k.nextCut + 1, want := false }
  have hkept : (upkeep (beginCut s x)).2 x = (upkeep begun).2 x :=
    congrFun (foldl_keeps (fun v => (upkeep v).2) cutStop ckpt_cutStop (partsOfCtx begun x) begun) x
  obtain ⟨d, hd, hbare⟩ := ckpt_of_upkeep hkept
    (ckpt_updCkpt (fun k => { k with cut := k.nextCut, phase := 1, nextCut := k.nextCut + 1, want := false }) h)
  rw [ckptOf_of_ckpt hd]
  refine ⟨congrArg Ckpt.phase hbare, congrArg Ckpt.cut hbare, congrArg Ckpt.nextCut hbare, fun k hk hsaved hfrozen => ?_⟩
  have hruns : Runs k (partOf s k).stopReq begun := runs_of_partOf (listed_of_partsOfCtx hk).1 hsaved hfrozen
  exact (partOf_of_runs (runs_foldl_cutStop hk hruns)).1

theorem due_ckpt {s : State} {x t : Nat} (h : (ckptOf s x).due = some t) : (ctxOf s x).ckpt = some (ckptOf s x) := by
  unfold ckptOf at h ⊢
  cases hc : (ctxOf s x).ckpt with
  | some c => rfl
  | none => rw [hc] at h; exact absurd h.symm (Option.some_ne_none t)

/-- The end of an interval requests a cut, and the next interval begins. -/
theorem exec_cutIntervalExpiry {s : State} {t : Nat} (hdue : (ckptOf s s.arg.a).due = some t) (ht : t ≤ s.clk)
    (hidle : ∀ k ∈ partsOfCtx s s.arg.a, (partOf s k).idle = false) :
    exec .cutIntervalExpiry s = .next (requestCut (nextInterval s s.arg.a) s.arg.a) := by
  have hrun : (partsOfCtx s s.arg.a).any (fun k => (partOf s k).idle) = false := List.any_eq_false.2 fun j hj => by simp [hidle j hj]
  refine if_pos ?_
  unfold intervalDue
  rw [hdue]
  simp [ht, hrun]

/-- A request during a cut is left for the next one. -/
theorem requestCut_waits {s : State} {x : Nat} (h : (ckptOf s x).phase ≠ 0) : requestCut s x = updCkpt s x fun k => { k with want := true } := if_neg h

theorem requestCut_begins {s : State} {x : Nat} (h : (ckptOf s x).phase = 0) : requestCut s x = beginCut s x := if_pos h

theorem ckpt_nextInterval {s : State} {x : Nat} {c : Ckpt} (h : (ctxOf s x).ckpt = some c) :
    ∃ i, (ctxOf (nextInterval s x) x).ckpt = some { c with due := i } := ⟨_, ckpt_updCkpt _ h⟩

section
variable {s : State} {t : Nat} (hdue : (ckptOf s s.arg.a).due = some t) (ht : t ≤ s.clk)
  (hidle : ∀ k ∈ partsOfCtx s s.arg.a, (partOf s k).idle = false)
include hdue ht hidle

theorem expiry_leaves_request (hcut : (ckptOf s s.arg.a).phase ≠ 0) :
    ∃ u, exec .cutIntervalExpiry s = .next u ∧ (ckptOf u s.arg.a).want = true ∧ { u with ctxs := s.ctxs } = s := by
  obtain ⟨i, hi⟩ := ckpt_nextInterval (due_ckpt hdue)
  have hphase : (ckptOf (nextInterval s s.arg.a) s.arg.a).phase ≠ 0 := by
    rw [ckptOf_of_ckpt hi]
    exact hcut
  refine ⟨_, exec_cutIntervalExpiry hdue ht hidle, ?_⟩
  rw [requestCut_waits hphase, ckptOf_of_ckpt (ckpt_updCkpt _ hi)]
  exact ⟨rfl, rfl⟩

theorem expiry_begins_cut (hnone : (ckptOf s s.arg.a).phase = 0) :
    ∃ u, exec .cutIntervalExpiry s = .next u ∧ (ckptOf u s.arg.a).phase = 1 ∧ (ckptOf u s.arg.a).cut = (ckptOf s s.arg.a).nextCut ∧
      (ckptOf u s.arg.a).nextCut = (ckptOf s s.arg.a).nextCut + 1 ∧
      ∀ k ∈ partsOfCtx s s.arg.a, (partOf s k).saved = false → (partOf s k).frozen = false → (partOf u k).stopReq = true := by
  obtain ⟨i, hi⟩ := ckpt_nextInterval (due_ckpt hdue)
  have hphase : (ckptOf (nextInterval s s.arg.a) s.arg.a).phase = 0 := by
    rw [ckptOf_of_ckpt hi]
    exact hnone
  have hbegins := beginCut_begins hi
  refine ⟨_, exec_cutIntervalExpiry hdue ht hidle, ?_⟩
  rw [requestCut_begins hphase]
  exact hbegins

end

/-! ### `CKPT` for one thread (R378) -/

theorem upkeep_appendAudit (s : State) (k va ident tag kind place : Nat) : upkeep (appendAudit s k va ident tag kind place) = upkeep s := by
  have hseq : upkeep (updCtx s (k / 8192) fun c => { c with auditSeq := c.auditSeq + 1 }) = upkeep s := upkeep_updCtx _ _ _ fun _ => rfl
  unfold appendAudit
  dsimp only
  split
  · exact hseq
  · split
    · exact (upkeep_putNat ..).trans hseq
    · exact (upkeep_putNat ..).trans ((upkeep_putHome ..).trans hseq)

theorem upkeep_constTrace (s : State) (m : Member) (off n : Nat) : upkeep (constTrace s m off n) = upkeep s := by
  unfold constTrace
  dsimp only
  split
  · rfl
  · split
    · rfl
    · split
      · exact upkeep_fills ..
      · split
        · exact upkeep_fills ..
        · exact (upkeep_appendAudit ..).trans (upkeep_fills ..)
      · exact upkeep_fills ..

/-- What is noted as an instruction reads its operands leaves where the cut stands. -/
theorem upkeep_noted (s : State) (g : Group) (i : Instr) : upkeep (noted s g i) = upkeep s := by
  have hreads : upkeep (constTraces s (shapeOf i) (actors s g i)) = upkeep s := foldl_keeps upkeep _ (fun s x => by
    split
    · exact foldl_keeps upkeep _ (fun s m => foldl_keeps upkeep _ (fun s k => upkeep_constTrace ..) _ s) _ s
    · rfl) _ s
  rw [noted, redunMark_own]
  exact (foldl_keeps upkeep (fun v w => updWarp v w (clearRun (actors s g i) w)) (fun _ _ => rfl) _ _).trans hreads

theorem ckpt_noted {s : State} (g : Group) (i : Instr) {x : Nat} {c : Ckpt} (h : (ctxOf s x).ckpt = some c) :
    ∃ d, (ctxOf (noted s g i) x).ckpt = some d ∧ bareCkpt d = bareCkpt c :=
  ckpt_of_upkeep (congrFun (congrArg Prod.snd (upkeep_noted s g i)) x) h

theorem fields_of_bareCkpt {e c : Ckpt} (h : bareCkpt e = bareCkpt c) :
    e.phase = c.phase ∧ e.cut = c.cut ∧ e.nextCut = c.nextCut ∧ e.waits = c.waits :=
  ⟨(Ckpt.mk.inj h).2.1, (Ckpt.mk.inj h).1, (Ckpt.mk.inj h).2.2.1, (Ckpt.mk.inj h).2.2.2.2.2.2.1⟩

/-- The cut that a request of a thread made now is served by. -/
def cutOfRequest (c : Ckpt) : Nat := if c.phase = 1 then c.cut else c.nextCut

theorem ckpt_updTimeline (s : State) (x k : Nat) (f : Timeline → Timeline) : (ctxOf (updTimeline s x k f) x).ckpt = (ctxOf s x).ckpt := by
  rw [ctxOf, updTimeline, updCtx, tblGet_tblUpd]
  split <;> rfl

theorem timelineOf_updCkpt (s : State) (x k : Nat) (f : Ckpt → Ckpt) : timelineOf (updCkpt s x f) x k = timelineOf s x k := by
  rw [timelineOf, ctxOf, updCkpt, updCtx, tblGet_tblUpd]
  split <;> rfl

/-- A request of a thread: the counter's next number, which waits for the cut that serves it. -/
theorem ckptTake_takes {v : State} {x : Nat} {c : Ckpt} (k : Nat) (h : (ctxOf v x).ckpt = some c) :
    (timelineOf (ckptTake v x k) x k).mark = (timelineOf v x k).mark + 1 ∧
      (ctxOf (ckptTake v x k) x).ckpt = some { c with waits := c.waits ++ [(k, (timelineOf v x k).mark + 1, cutOfRequest c)] } := by
  constructor
  · rw [ckptTake, timelineOf_updCkpt, timelineOf_takeNumber _ _ _ (listed_of_ckpt h)]
  · have htaken : (ctxOf (takeNumber v x k) x).ckpt = some c := (ckpt_updTimeline ..).trans h
    rw [ckptTake, ckptOf_of_ckpt h]
    exact ckpt_updCkpt _ htaken

/-- No other member takes a number before the first. -/
theorem ckptBefore_head (m : Member) (x : Src) (t : List (Member × Src)) (k : Nat) : ckptBefore ((m, x) :: t) m k = 0 := by
  rw [ckptBefore, List.takeWhile_cons_of_neg (by simp)]
  rfl

section
variable {p : BitVec 3} {d a : BitVec 7} {s : State} {g : Group} {m : Member} {c : Ckpt}

/-- The context of a thread, and the counter that its `CKPT` names. -/
def ctxAt (s : State) (m : Member) : Nat := (warpOf s m.warp).ctx
def counterAt (s : State) (g : Group) (i : Instr) (m : Member) : Nat := ckptCtr (sources s g i m)

/-- The request of one thread, its number written to its destination. -/
def requested (s : State) (g : Group) (i : Instr) (m : Member) : State :=
  let n := (timelineOf s (ctxAt s m) (counterAt s g i m)).mark + 1
  writeD (ckptTake (noted s g i) (ctxAt s m) (counterAt s g i m)) (shapeOf i).d [(m, BitVec.ofNat 128 n)]

theorem received_requested {i : Instr} (hact : actors s g i = [m]) :
    Claims.Received s i [m] (fun _ => BitVec.ofNat 128 ((timelineOf s (ctxAt s m) (counterAt s g i m)).mark + 1)) (requested s g i m) :=
  received_noted (t := ckptTake (noted s g i) (ctxAt s m) (counterAt s g i m)) rfl [m] (fun _ hn => actors_lane s g i _ (hact ▸ hn))
    fun _ => BitVec.ofNat 128 ((timelineOf s (ctxAt s m) (counterAt s g i m)).mark + 1)

/-- An unreplicated thread's number is forwarded to no replica. -/
theorem forwards_requested {i : Instr} {v : Val} (h : isRedun (noted s g i) m.warp = false) :
    forwards (requested s g i m) [(m, v)] = requested s g i m :=
  forwards_plain _ _ fun e he => by
    obtain rfl := List.mem_singleton.1 he
    exact (isRedun_writeD ..).trans h

/-- The counter has a number for the one thread that takes one. -/
theorem counterHas_first {i : Instr} (hact : actors s g i = [m]) (hn : (timelineOf s (ctxAt s m) (counterAt s g i m)).mark + 1 < 2 ^ 64) :
    counterHas s (ctxAt s m) (counterAt s g i m)
      (ckptBefore ((actors s g i).map fun n => (n, sources s g i n)) m (counterAt s g i m) + 1) = true := by
  rw [hact, List.map_singleton, ckptBefore_head]
  exact decide_eq_true hn

variable (hc : (ctxOf s (ctxAt s m)).ckpt = some c)
include hc

theorem requested_takes (i : Instr) :
    (timelineOf (requested s g i m) (ctxAt s m) (counterAt s g i m)).mark = (timelineOf s (ctxAt s m) (counterAt s g i m)).mark + 1 ∧
      ∃ e, (ctxOf (requested s g i m) (ctxAt s m)).ckpt = some e ∧ e.phase = c.phase ∧
        e.waits = c.waits ++ [(counterAt s g i m, (timelineOf s (ctxAt s m) (counterAt s g i m)).mark + 1, cutOfRequest c)] := by
  obtain ⟨e, he, hbare⟩ := ckpt_noted g i hc
  obtain ⟨hmark, htaken⟩ := ckptTake_takes (counterAt s g i m) he
  rw [timelineOf_noted] at hmark htaken
  have hctxs : ∀ t x vals, (writeD t x vals).ctxs = t.ctxs := fun t x vals => by
    have h := congrArg State.ctxs ((sameFrame_writeD t x vals).rest t.warps)
    exact h
  obtain ⟨hphase, hcut, hnext, hwaits⟩ := fields_of_bareCkpt hbare
  have hserved : cutOfRequest e = cutOfRequest c := by rw [cutOfRequest, cutOfRequest, hphase, hcut, hnext]
  refine ⟨?_, { e with waits := e.waits ++ [(counterAt s g i m, (timelineOf s (ctxAt s m) (counterAt s g i m)).mark + 1, cutOfRequest e)] },
    ?_, hphase, by rw [hserved, hwaits]⟩
  · rw [timelineOf, ctxOf, requested, hctxs]
    exact hmark
  · rw [ctxOf, requested, hctxs]
    exact htaken

variable (hr : Claims.Ready s g (.ckpt p d a)) (hact : actors s g (.ckpt p d a) = [m]) (hh : (thrOf s m).helper = false)
include hr hact hh

theorem exec_ckpt_one (hk : counterAt s g (.ckpt p d a) m < 16) (hdesc : (partOf s (partOfWarp s m.warp)).desc ≠ 0)
    (hn : (timelineOf s (ctxAt s m) (counterAt s g (.ckpt p d a) m)).mark + 1 < 2 ^ 64) :
    exec (.ckpt p d a) s = .next (retire (if c.phase = 1 then requested s g (.ckpt p d a) m
      else requestCut (requested s g (.ckpt p d a) m) (ctxAt s m))) := by
  have hm : m ∈ actors s g (.ckpt p d a) := hact ▸ List.mem_singleton_self m
  have hplain : isRedun (noted s g (.ckpt p d a)) m.warp = false := isRedun_of_ready hr hm
  have hhelp : (thrOf (noted s g (.ckpt p d a)) m).helper = false := (congrArg Thread.helper (thrOf_noted ..)).trans hh
  show execCkpt p d a s = _
  unfold execCkpt
  refine (groupOp_plain (.ckpt p d a) .both noWait _ _ s g hr.cur hr.plain hr.ops (fun _ _ => rfl) (fun n hmem _ => ?_) ?_).trans ?_
  · obtain rfl : n = m := List.mem_singleton.1 (hact ▸ hmem)
    have hcounter : (lo32 (sources s g (.ckpt p d a) n).a).toNat / 16 = 0 := Nat.div_eq_of_lt hk
    have hckpt : (ctxOf s (warpOf s n.warp).ctx).ckpt.isNone = false := by rw [← ctxAt, hc]; rfl
    dsimp only
    rw [if_neg (not_not.2 hcounter), if_neg (by simp [takesForward_plain (hr.plain n (List.mem_filter.1 hm).1)]), if_neg (by simp [hdesc, hckpt]),
      hr.cur]
    exact if_pos (counterHas_first hact hn)
  · rfl
  · have hforward := fun v => forwards_requested (v := v) hplain
    obtain ⟨-, e, he, hphase, -⟩ := requested_takes (g := g) hc (.ckpt p d a)
    rw [hact]
    simp only [List.map_cons, List.map_nil, List.filter_cons, takesForward_plain hplain, hhelp, List.filter_nil, Bool.not_false,
      Bool.and_self, if_true, Bool.false_and, Bool.false_eq_true, if_false, List.append_nil, List.foldl_cons, List.foldl_nil, ctx_noted,
      ckptBefore_head, Nat.add_zero, nextNumber, timelineOf_noted]
    show Host.Outcome.next (retire (if (ckptOf (forwards (requested s g (.ckpt p d a) m) _) (ctxAt s m)).phase = 1 then
        forwards (requested s g (.ckpt p d a) m) _ else requestCut (forwards (requested s g (.ckpt p d a) m) _) (ctxAt s m))) = _
    rw [hforward, ckptOf_of_ckpt he, hphase]

end

theorem cutsBegin : Claims.CutsBegin := by
  refine ⟨fun s t hdue ht hidle => ⟨expiry_leaves_request hdue ht hidle, expiry_begins_cut hdue ht hidle⟩,
    fun p d a s g m c hr hact hh hk hdesc hc hn => ?_⟩
  obtain ⟨hmark, e, he, hphase, hwaits⟩ := requested_takes (g := g) hc (.ckpt p d a)
  have hof := ckptOf_of_ckpt he
  exact ⟨requested s g (.ckpt p d a) m, received_requested hact, hmark, (congrArg Ckpt.waits hof).trans hwaits,
    (congrArg Ckpt.phase hof).trans hphase, exec_ckpt_one hc hr hact hh hk hdesc hn⟩

end Sys2Proof.Machine

section
open Sys2Proof Sys2Proof.Machine

/-- Settles O55: each step of a cut is its definition, once it is known what a stop, a record and a noted read leave of the Surveyor's
state. -/
theorem checkpointCuts : Obligations.CheckpointCuts := ⟨cutsBegin, cutsProceed, recordPlaced, costUpdates⟩

end
